-- ==== Sys2Proof/Word.lean ====
section
/-! DEFINITION. The word types of the device: bytes, register words, program words, descriptors. -/

namespace Sys2Proof

/-- One byte of memory. -/
abbrev Byte := BitVec 8

/-- One 32-bit register (R429). -/
abbrev Word := BitVec 32

/-- One 64-bit program word, table entry or handle. -/
abbrev DWord := BitVec 64

/-- One 64-byte command descriptor (R240), and the data of one beat. -/
abbrev Line := BitVec 512

/-- A sparse table by number: keys strictly rising, no entry equal to what an unlisted key reads as. -/
abbrev Tbl (α : Type) := List (Nat × α)

end Sys2Proof
end

