-- ==== Sys2Proof/Syntax.lean ====
section
/-! DEFINITION. The commands the block takes: one constructor per row of spec/opcode_table.json, in the table's order; the
commands that carry no operand stand last, since Lean's compiler numbers at most 245 constructors that carry fields.
Operands name the unit that acts and what the environment brings with the event (a measured value, an injected error,
a received flit). An engine command carries its ring `r` and command index `i`: its body is the descriptor the front
end fetched for that index (R240). -/

namespace Sys2Proof

/-- The agent that makes a register access (R430). -/
inductive Agent where
  | host | board | rim | lead
  deriving DecidableEq, Repr

/-- The number of an agent (R430). -/
def Agent.code : Agent → Nat
  | .host => 0 | .board => 1 | .rim => 2 | .lead => 3

/-- One computation error the environment injects into a tile: accumulator (row, column) is off by `delta` (R39). -/
structure Upset where
  row : Nat
  col : Nat
  delta : Int
  deriving DecidableEq, Repr

/-- The unit whose step or message a command is, and whether parity fails there: of the B, holding or drain buffer the
step reads (R66), or of the word on the control path that reaches a bushel (R146). -/
structure Marked where
  no : Nat
  bad : Bool
  deriving DecidableEq, Repr

/-- The direction a link comes from, and which of the crossings on it, in the order a beat passes them: 0 to 2 across
dies, 2 alone within a die (R135). -/
structure LinkSide where
  dir : Nat
  stage : Nat
  deriving DecidableEq, Repr

/-- What the detection codes of a page find as it is read (R207, R208): no error; an error; an error in it and in the
clean copy its shadow entry names. -/
inductive Detect where
  | clean | error | copyToo
  deriving DecidableEq, Repr

/-- What a porter carries next (R184): a tile of a command, one bushel request, or one page of a migration. -/
inductive PorterJob where
  | cmdTile (r i : Nat)
  | bushel (b q : Nat)
  | migPage (m : Nat)
  deriving DecidableEq, Repr

/-- Header of a Skein flit (R320); TYPE and VC are the row's. `crcOk` is what the CRC check finds. -/
structure FlitHdr where
  lseq : Nat
  dest : Nat
  src : Nat
  slice : Nat
  part : Nat
  crvc : Nat
  crn : Nat
  mask : Nat
  last : Bool
  info : Nat
  crcOk : Bool
  deriving DecidableEq, Repr

/-- What training of a Skein port reports of the far end (R318, R325). -/
structure PeerInfo where
  dev : Nat
  domId : Nat
  isSwitch : Bool
  rate112 : Bool
  x4 : Bool
  upper : Bool
  deriving DecidableEq, Repr

/-- A work request of an Ethernet queue pair (R363), and the device address of the completion entry it would take: the
spec gives no register for the queues' places. -/
structure EthWr where
  signal : Bool
  tag : Nat
  laddr : Nat
  raddr : Nat
  rkey : Nat
  len : Nat
  cq : Nat
  deriving DecidableEq, Repr

/-- What a scan of a capacity port finds (R359). -/
structure CxlDev where
  present : Bool
  fault : Nat
  x8 : Bool
  mode : Nat
  bytes : Nat
  serial : Nat
  deriving DecidableEq, Repr

/-- What a boot step reports (R400): stacks and islands that failed, by mask (step 4); whether Fustra trained, its
generation and width, and what each capacity port's scan finds (step 5). -/
structure BootReport where
  badStacks : Nat
  badIsles : Nat
  fus : Bool
  gen2 : Bool
  x8 : Bool
  caps : List CxlDev
  deriving DecidableEq, Repr

/-- Instructions of the test port (R451). -/
inductive JtagIns where
  | bypass | idcode | sample | extest | clamp | highz | other (code : Nat)
  deriving DecidableEq, Repr

/-- The commands, one constructor per row of the table. -/
inductive Instr where
  /-- STAKE_NOP: A stake executes a NOP word, which does nothing (R81) -/
  | stakeNop (stk : Nat)
  /-- MTILE: A stake issues REP tiles to the matrix array or REP columns to the bypass, as its PATH field selects (R82) -/
  | mtile (stk : Marked)
  /-- VSET: A stake sets the operation and operand sources of one vector stage (R83) -/
  | vset (stk : Nat)
  /-- VRUN: A stake runs the vector pipeline for BEATS beats from its entry and side streams (R84) -/
  | vrun (stk : Nat)
  /-- VCONST: A stake loads one constant of one vector stage (R83) -/
  | vconst (stk : Nat)
  /-- OCTL: A stake sets output control: format, rounding, overflow, port and TSCALE (R84) -/
  | octl (stk : Nat)
  /-- STAKE_LOOP: A stake repeats the following BODY words COUNT times (R85) -/
  | stakeLoop (stk : Nat)
  /-- WAITH: A stake takes the oldest handle addressed to it from a neighbouring bushel's handle queue, after waiting for one if needed (R85) -/
  | waith (stk : Nat)
  /-- RELH: A stake returns a handle to its owner's free list or forwards it to another bushel's queue (R85) -/
  | relh (stk : Nat)
  /-- STAKE_SYNC: A stake waits until the named units are idle (R85) -/
  | stakeSync (stk : Nat)
  /-- STAKE_END: A stake ends its program and reports done to the weave sequencer (R81) -/
  | stakeEnd (stk : Nat)
  /-- TILE_DRAIN: A finished tile drains from the array as 16 row beats to the vector pipeline or an output port (R61) -/
  | tileDrain (stk : Nat) (upset : List Upset) (parity : Bool)
  /-- TILE_VERDICT: The comparator's verdict on a checked tile arrives; a pass releases held outputs, handles and checkpoint (R63) -/
  | tileVerdict (stk : Marked)
  /-- RECOMPUTE_DONE: A recompute finishes: the rerun tile is judged again and the stake state is restored (R64) -/
  | recomputeDone (stk : Marked) (upset : List Upset)
  /-- TALLY_NOP: A tally engine executes a NOP (R104) -/
  | tallyNop (b e : Nat)
  /-- SETI: A tally engine sets a register to a sign-extended immediate (R104) -/
  | seti (b e : Nat)
  /-- SETV: A tally engine sets a register to an invocation word (R104) -/
  | setv (b e : Nat)
  /-- ADDI: A tally engine adds a sign-extended immediate to a register (R104) -/
  | addi (b e : Nat)
  /-- MADD: A tally engine adds a register times an unsigned immediate to a register (R104) -/
  | madd (b e : Nat)
  /-- LDX: A tally engine loads an 8-byte SRAM word into a register (R104) -/
  | ldx (b e : Nat)
  /-- TALLY_LOOP: A tally engine repeats the next BODY words COUNT times, with an immediate or register count (R103) -/
  | tallyLoop (b e : Nat)
  /-- ACQ: A tally engine acquires a free or full slot of a ring, waiting until one is available (R97) -/
  | acq (b e : Nat)
  /-- REL: A tally engine releases a ring slot as producer or consumer (R97) -/
  | rel (b e : Nat)
  /-- RD: A fabric-side engine sends BEATS beats from SRAM to an output port, optionally retained or padded (R105) -/
  | rd (b e : Nat) (bad : Option Nat)
  /-- WR: A fabric-side engine writes BEATS beats from an input port into SRAM (R105) -/
  | wr (b e : Nat)
  /-- FETCH: A stream-side engine queues a request to read device memory into SRAM (R108) -/
  | fetch (b e : Nat)
  /-- STORE: A stream-side engine queues a request to write SRAM to device memory (R108) -/
  | store (b e : Nat)
  /-- HPUSH: A fabric-side engine pushes a handle into its bushel's handle queue for a stake or engine addressee (R100) -/
  | hpush (b e : Nat)
  /-- HTAKE: A fabric-side engine takes a handle from its queue, a fresh buffer from its free list, or binds a stake's handle (R105) -/
  | htake (b e : Nat)
  /-- HRET: A fabric-side engine returns a handle to its owner's free list (R101) -/
  | hret (b e : Nat)
  /-- TALLY_SYNC: A tally engine waits until its fetches have landed or its stores are acknowledged (R104) -/
  | tallySync (b e : Nat)
  /-- TALLY_END: A tally engine ends its program (R104) -/
  | tallyEnd (b e : Nat)
  /-- REQUEST_ISSUE: A queued bushel request is issued to its porter once the porter has room and the regulator grants the bytes (R108) -/
  | requestIssue (b : Nat)
  /-- MERGE_WAIT_EXPIRY: A short request's MERGE_WAIT expires and it becomes eligible for issue (R109) -/
  | mergeWaitExpiry (b q : Nat)
  /-- ARRIVAL_LAND: Fetched data lands in SRAM, and a slot becomes full when all its arrivals have landed (R110) -/
  | arrivalLand (b q : Nat)
  /-- STORE_ACK: A store is acknowledged, releasing fetches that waited on it (R110) -/
  | storeAck (b q : Nat)
  /-- VERDICT_SIGNAL: A stake's verdict reaches a bushel on the control path and may free retained slots (R98) -/
  | verdictSignal (b : Nat) (stk : Marked)
  /-- REPLAY_REQUEST: A stake's replay request reaches a bushel engine, which resends the recorded retained runs (R116) -/
  | replayRequest (b e : Nat) (stk : Marked)
  /-- HANDLE_RETURN: A handle returned by a stake on the control path re-enters its owner's free list (R101) -/
  | handleReturn (b : Marked)
  /-- BUSHEL_DONE: A bushel reports done once both engines ended and all requests, slots and handles have settled (R119) -/
  | bushelDone (b : Nat)
  /-- LINK_BEAT: A beat crosses one link or unit port, with route-tag and parity checks (R124) -/
  | linkBeat (isl pos out slot : Nat) (flips : List Nat)
  /-- CROSSING_DELIVER: A crossing delivers an entry to the receiving domain after its latency (R133) -/
  | crossingDeliver (isl pos : Nat) (dir : LinkSide)
  /-- FULL_CHANGE: A crossing's FULL raise or withdrawal becomes visible to the sender (R133) -/
  | fullChange (isl pos : Nat) (dir : LinkSide)
  /-- HOLD_RECEIVE: A hold cause arrives on a tree edge and freezes or releases the island and is relayed (R140) -/
  | holdReceive (isl dir : Nat)
  /-- ROUND_END: An island's slot counter returns to zero, ending a round and applying pending skips and steps (R126) -/
  | roundEnd (isl : Nat)
  /-- SKIP_END: An island completes its N × L skipped cycles (R143) -/
  | skipEnd (isl : Nat)
  /-- DEADLOCK_LIMIT: An island's schedule-freeze count reaches FAB_FRZ_LIMIT, recording a deadlock and failing the command (R142) -/
  | deadlockLimit (isl pos : Nat)
  /-- LAST_ROUND: An island runs its last round; its slot counter stops and an overrun is judged (R167) -/
  | lastRound (isl : Nat)
  /-- ISLAND_DONE: Every unit of an island reports done; when all islands have, the invocation retires (R167) -/
  | islandDone (isl tail ns : Nat)
  /-- LOAD: The weave engine checks a weave image and places it in a binding (R158) -/
  | load (r i : Nat)
  /-- LOAD_COMPLETE: A load finishes writing the first variant's configuration and the binding becomes READY (R160) -/
  | loadComplete (bd : Nat)
  /-- INVOKE: The weave engine checks epoch, N and E, chooses a variant, writes overrides, resets units and starts releasing islands (R163) -/
  | invoke (r i : Nat)
  /-- ISLAND_RELEASE: The weave engine releases the next island of an invocation, spaced by the current-ramp budget (R163) -/
  | islandRelease (bd ns : Nat)
  /-- REPLACE: The weave engine checks a new image for a binding in drain or carry mode (R172) -/
  | replace (r i : Nat)
  /-- DRAIN_SWITCH: Once old-generation commands are done, the old weave is unloaded and the new one loaded in drain mode (R173) -/
  | drainSwitch (bd : Nat)
  /-- CARRY_OLD_UNLOAD: Once old-generation commands are done in carry mode, the old weave is unloaded and PLACE takes PLACE_NEW (R174) -/
  | carryOldUnload (bd : Nat)
  /-- RELOCATE: The weave engine drains a binding, unloads it and places the same image on candidate islands (R175) -/
  | relocate (r i : Nat)
  /-- UNLOAD: The weave engine drains a binding and leaves it EMPTY (R175) -/
  | unload (r i : Nat)
  /-- BINDING_DRAINED: A draining binding's dispatched commands finish and its pending UNLOAD or RELOCATE proceeds (R175) -/
  | bindingDrained (bd : Nat)
  /-- YIELD_FULL: A YIELD with MODE 0 starts a full yield of a named invocation, or is refused (R258) -/
  | yieldFull (r i : Nat)
  /-- YIELD_BOUNDARY: A YIELD with MODE 1 stops one or all rings of the partition at the next command boundary (R257) -/
  | yieldBoundary (r i : Nat)
  /-- YIELD_QUIESCED: Outstanding requests of a yielding weave have landed and the save of records begins (R259) -/
  | yieldQuiesced (bd : Nat)
  /-- YIELD_SAVE_DONE: The save area commit word is written and the islands are released (R259) -/
  | yieldSaveDone (bd : Nat)
  /-- RESUME_FULL: A RESUME with MODE 0 waits for its conditions and then restores a yielded invocation (R261) -/
  | resumeFull (r i : Nat)
  /-- RESUME_BOUNDARY: A RESUME with MODE 1 sets a boundary-yielded ring running again (R257) -/
  | resumeBoundary (r i : Nat)
  /-- RESUME_PROCEED: A waiting full RESUME finds its conditions met and starts the restore (R261) -/
  | resumeProceed (r i : Nat)
  /-- RESTORE_DONE: A restore completes, the islands are released and the RESUME retires (R261) -/
  | restoreDone (r i : Nat) (detErr : Bool)
  /-- ABANDON: A yielded invocation retires with 0x30, its pin released and its records failed (R262) -/
  | abandon (r i : Nat)
  /-- MODEL_SET: The weave engine writes a whole model descriptor (R233) -/
  | modelSet (r i : Nat)
  /-- MODEL_STAGE: The weave engine writes the base and size of a model's inactive set (R233) -/
  | modelStage (r i : Nat)
  /-- MODEL_SWAP: The weave engine flips a model's active set and sets SWAP_PEND (R233) -/
  | modelSwap (r i : Nat)
  /-- MOVE: A porter copies a range, as a plain copy or through an arrival descriptor (R247) -/
  | move (r i : Nat)
  /-- MAP: A porter makes pages LOCAL, ABSENT or WINDOW, zeroing new frames (R191) -/
  | map (r i : Nat)
  /-- UNMAP: A porter makes pages NONE and frees their frames (R191) -/
  | unmap (r i : Nat)
  /-- PROTECT: A porter sets the RD and WR bits of pages (R191) -/
  | protect (r i : Nat)
  /-- PIN: A porter moves segments to the named tier if needed and pins them (R191) -/
  | pin (r i : Nat)
  /-- UNPIN: A porter clears PIN on pages (R191) -/
  | unpin (r i : Nat)
  /-- HINT: A porter sets the tier hint of pages (R191) -/
  | hint (r i : Nat)
  /-- MIGRATE: A porter moves unpinned LOCAL segments to the named tier at once (R191) -/
  | migrate (r i : Nat)
  /-- SHADOW: A porter writes shadow entries from a second range and sets or clears CLN (R247) -/
  | shadow (r i : Nat)
  /-- POISON: A porter sets PSN on pages (R191) -/
  | poison (r i : Nat)
  /-- UNPOISON: A porter clears PSN on pages (R191) -/
  | unpoison (r i : Nat)
  /-- ADMIT: The rim processors verify a container's signature and digest paths and write an admission table to a slot (R227) -/
  | admitSlot (r i : Nat)
  /-- UNADMIT: The rim processors free an admission slot (R227) -/
  | unadmit (r i : Nat)
  /-- PORTER_TILE: A porter carries one tile or bushel transfer, translating its addresses (R184) -/
  | porterTile (job : PorterJob) (det : Detect)
  /-- ARRIVAL_TILE: An arrival unit runs HASH, UNPACK, REQUANT, RELAYOUT or GATHER on a tile and writes or poisons it (R228) -/
  | arrivalTile (r i tile : Nat)
  /-- MIGRATION_SWITCH: A migration's copy completes and the segment's entries switch to the new frames (R196) -/
  | migrationSwitch (m : Nat) (detErr : Bool)
  /-- ZERO_FILL: A first access to an ABSENT ZFILL page charges and zeroes a frame and serves the access (R202) -/
  | zeroFill (p page : Nat)
  /-- DETECTION_REPAIR: A detection error on a page with a clean copy is repaired from it, or the frame segment retired (R208) -/
  | detectionRepair (p page place : Nat) (copyOk : Bool)
  /-- FAULT_LOG_WRITE: A fault record is written to its partition's log in SEQ order once room exists, retrying every 1 µs on failure (R200) -/
  | faultLogWrite (p : Nat)
  /-- FAULT_RETRANSLATE: A fault held without a record is retranslated every 1 µs until a record is free (R200) -/
  | faultRetranslate (k : Nat)
  /-- FAULT_YIELD_WAIT: A held request's wait reaches YIELD_WAIT and starts a full yield with reason FAULT (R204) -/
  | faultYieldWait (bd : Nat)
  /-- RESOLVE_WRITE: A write to RESOLVE_n retranslates every request held on the named record (R201) -/
  | resolveWrite (ag : Agent) (p seq : Nat)
  /-- FAILSEQ_WRITE: A write to FAILSEQ_n fails every request held on the named record at its place (R201) -/
  | failseqWrite (ag : Agent) (p seq : Nat)
  /-- RETRY_ALL: A write to FLT_CTRL_n.RETRY_ALL resolves every outstanding record of the partition (R201) -/
  | retryAll (ag : Agent) (p : Nat)
  /-- FAIL_ALL: A write to FLT_CTRL_n.FAIL_ALL fails every outstanding record of the partition (R201) -/
  | failAll (ag : Agent) (p : Nat)
  /-- FLOG_RD_WRITE: A write to FLOG_RD_n frees log entries and lets waiting records be written (R200) -/
  | flogRdWrite (ag : Agent) (p v : Nat)
  /-- FLOG_BASE_WRITE: A write to the log base is judged and sets or clears LOG_OK (R201) -/
  | flogBaseWrite (ag : Agent) (p : Nat) (hi : Bool) (v : Nat)
  /-- NOP: The front end runs a NOP command that only waits, fences and signals (R241) -/
  | nop (r i : Nat)
  /-- SEM_SET: At retirement the front end sets a semaphore to VALUE and clears its ERR bit (R241) -/
  | semSet (r i : Nat)
  /-- DOORBELL: A write to RING_r.DB records a new tail for a ring (R239) -/
  | doorbell (ag : Agent) (r v : Nat)
  /-- COMMAND_FETCH: The front end fetches a ring's next command when tail, queue room and run state allow (R239) -/
  | commandFetch (r : Nat)
  /-- COMMAND_DISPATCH: The front end dispatches a command to its engine once fences, semaphores and a collector entry allow (R243) -/
  | commandDispatch (r : Nat)
  /-- COMMAND_RETIRE: A command retires at its engine, signals its semaphore and queues its completion record (R249) -/
  | commandRetire (r i : Nat)
  /-- COMPLETION_WRITE: The collector writes a completion record to its queue entry and may interrupt (R250) -/
  | completionWrite (r : Nat)
  /-- COAL_TIMEOUT: The oldest pending record waits COAL.TIME microseconds and the ring interrupts (R251) -/
  | coalTimeout (r : Nat)
  /-- RING_EN_WRITE: A write to RING_r.CFG.EN starts the ring or stops its fetching, dropping fetched commands (R252) -/
  | ringEnWrite (ag : Agent) (r v : Nat)
  /-- RING_BYLD: A write to RING_r.CFG.BYLD boundary-yields the ring (R257) -/
  | ringByld (ag : Agent) (r : Nat)
  /-- RING_BRES: A write to RING_r.CFG.BRES resumes a boundary-yielded ring (R257) -/
  | ringBres (ag : Agent) (r : Nat)
  /-- RING_RESET: A write to RING_r.CFG.RESET zeroes the ring's pointers when nothing is dispatched (R252) -/
  | ringReset (ag : Agent) (r : Nat)
  /-- SEM_VAL_WRITE: A write to SEM_VAL sets the selected semaphore's value (R264) -/
  | semValWrite (ag : Agent) (v : Nat)
  /-- LED_CLR: A write to LED_CLR clears both share-ledger counters of the named partitions (R254) -/
  | ledClr (ag : Agent) (v : Nat)
  /-- REGULATOR_WRITE: A write to a bandwidth regulator refills its bucket to the new BURST (R264) -/
  | regulatorWrite (ag : Agent) (p k v : Nat)
  /-- SLOT_SET: The sampler opens a slot or sets its parameters (R268) -/
  | slotSet (r i : Nat)
  /-- SLOT_CLOSE: The sampler frees a slot and its count table (R267) -/
  | slotClose (r i : Nat)
  /-- PICK: The sampler picks one token per listed logit row and writes tokens and log-probabilities (R270) -/
  | pick (r i : Nat)
  /-- VERIFY: The sampler verifies draft trees against target rows and emits accepted tokens and a bonus (R276) -/
  | verify (r i : Nat)
  /-- COUNT_ADD: The sampler adds tokens to a slot's count table (R269) -/
  | countAdd (r i : Nat)
  /-- IDX_SETUP: The index walker sets up or adopts a partition's prefix tree (R278) -/
  | idxSetup (r i : Nat)
  /-- LOOKUP: The index walker matches a prompt's whole blocks against the tree and optionally acquires them (R283) -/
  | lookup (r i : Nat)
  /-- INSERT: The index walker chains new blocks below a parent as FILLING nodes or reuses existing ones (R284) -/
  | insert (r i : Nat)
  /-- PUBLISH: The index walker turns FILLING nodes READY (R285) -/
  | publish (r i : Nat)
  /-- RELEASE: The index walker lowers REFS of listed nodes or a path, freeing abandoned FILLING nodes (R285) -/
  | release (r i : Nat)
  /-- PAUSE: The index walker releases a path and pauses its unshared nodes with a time to live, starting demotion (R288) -/
  | pause (r i : Nat)
  /-- EVICT: The index walker frees unreferenced leaves, oldest first, writing reclaim entries (R286) -/
  | evict (r i : Nat)
  /-- RECOMPUTE_SPAN: The index walker marks the node covering a page POISONED and returns its token span (R290) -/
  | recomputeSpan (r i : Nat)
  /-- REPAIR: The index walker returns POISONED nodes to READY (R290) -/
  | repair (r i : Nat)
  /-- WALKER_MIGRATION_DONE: A walker-started migration completes and the node becomes DEMOTED or loses MOVING (R288) -/
  | walkerMigrationDone (p node : Nat)
  /-- RECL_RD_WRITE: A write to RECL_RD_p frees reclaim-ring entries so evictions and sweeps may proceed (R287) -/
  | reclRdWrite (ag : Agent) (p v : Nat)
  /-- BUILD: The group builder ranks, assigns and lays out expert routing as a group table and starts fetches (R301) -/
  | build (r i : Nat)
  /-- GROUP_SET: The collective engine sets a group's members and makes it READY (R335) -/
  | groupSet (r i : Nat)
  /-- GROUP_CLEAR: The collective engine makes a group UNSET (R335) -/
  | groupClear (r i : Nat)
  /-- ALLREDUCE: The collective engine reduces chunks over the group and returns the result to every member (R338) -/
  | allreduce (r i : Nat)
  /-- ALLGATHER: The collective engine gathers one chunk from each member in rank order (R336) -/
  | allgather (r i : Nat)
  /-- REDUCESCATTER: The collective engine reduces chunks and leaves each member its own chunk (R338) -/
  | reducescatter (r i : Nat)
  /-- ALLTOALL: The collective engine exchanges regions between all members as given by a table (R337) -/
  | alltoall (r i : Nat)
  /-- BARRIER: The collective engine retires once it holds a CREADY from every member (R340) -/
  | barrier (r i : Nat)
  /-- ROWSTAT: The collective engine combines row sums and squares over members and writes row statistics (R339) -/
  | rowstat (r i : Nat)
  /-- CREADY: A CREADY flit from a member arrives and lets data be sent to it (R340) -/
  | cready (n : Nat) (h : FlitHdr) (grp seq tag nmem rcap : Nat)
  /-- CDATA: A collective data flit arrives and is placed or reduced into DST (R341) -/
  | cdata (n : Nat) (h : FlitHdr) (data : List Nat)
  /-- CCREDIT: An end-to-end credit return arrives, letting more data be sent or the collective finish (R341) -/
  | ccredit (n : Nat) (h : FlitHdr)
  /-- CABORT: A CABORT arrives and fails the named collective with 0x92 (R343) -/
  | cabort (n : Nat) (h : FlitHdr) (grp seq : Nat)
  /-- COLLECTIVE_TIMEOUT: A member waits COL.TIMEOUT on peers, fails with 0x91 and sends CABORT (R343) -/
  | collectiveTimeout (g : Nat)
  /-- FLIT_WR: A window write flit arrives and is served through an export entry (R330) -/
  | flitWr (n : Nat) (h : FlitHdr) (req : Nat) (data : List Nat) (det : Detect)
  /-- WRACK: A write acknowledgement arrives for a window write (R329) -/
  | wrack (n : Nat) (h : FlitHdr) (req outcome : Nat)
  /-- RDREQ: A window read request arrives and is served through an export entry (R330) -/
  | rdreq (n : Nat) (h : FlitHdr) (req : Nat) (det : Detect)
  /-- RDDATA: Read data for a window read arrives at the requester (R331) -/
  | rddata (n : Nat) (h : FlitHdr) (req outcome : Nat) (data : List Nat)
  /-- REG: A forwarded register access arrives from the lead and is applied or dropped (R333) -/
  | reg (n : Nat) (h : FlitHdr) (req : Nat) (isWr : Bool) (size v : Nat)
  /-- REGRSP: A register read response arrives at the lead (R332) -/
  | regrsp (n : Nat) (h : FlitHdr) (req v : Nat)
  /-- INTR: A forwarded interrupt flit arrives at the lead and sets RINT (R333) -/
  | intr (n : Nat) (h : FlitHdr) (page : Nat)
  /-- MGMT_NAK: A NAK arrives and the sender replays from the named flit, taking the port down after 16 failures (R322) -/
  | mgmtNak (n : Nat) (h : FlitHdr) (named : Nat)
  /-- MGMT_ACK: An ACK arrives and frees acknowledged flits from the replay buffer (R322) -/
  | mgmtAck (n : Nat) (h : FlitHdr) (named : Nat)
  /-- ACK_TIMER: The receiver's 100 ns timer sends a MGMT ACK naming the last good flit (R322) -/
  | ackTimer (n : Nat)
  /-- PORT_TRAINED: A Skein port finishes training, at full or half width, and takes its state (R318) -/
  | portTrained (n : Nat) (peer : PeerInfo)
  /-- PORT_TRAIN_FAIL: A training attempt fails; the port stays DOWN and counts (R318) -/
  | portTrainFail (n : Nat)
  /-- PORT_DOWN: A Skein port goes DOWN and its unacknowledged flits are resent on other ports (R323) -/
  | portDown (n : Nat)
  /-- LINK_CTRL_EN: A write to SKL_n.LINK_CTRL.EN starts training of the port (R318) -/
  | linkCtrlEn (ag : Agent) (n v : Nat)
  /-- SKEIN_RETRAIN: A write of 1 to SKL_n.LINK_CTRL.RETRAIN retrains the port (R346) -/
  | skeinRetrain (ag : Agent) (n : Nat)
  /-- DOM_EN_CLEAR: Clearing DOM_CTRL.EN fails running collectives with 0x97 and window accesses with NOT_PRESENT (R345) -/
  | domEnClear (ag : Agent) (v : Nat)
  /-- HOST_APERTURE_ACCESS: A host access to aperture 1 is served through a host export entry, or fails with all ones (R351) -/
  | hostApertureAccess (off size : Nat) (isWr cached : Bool) (v : Nat)
  /-- RECALL: A device write to a host-held line recalls the line and waits (R353) -/
  | lineRecall (line : Nat)
  /-- RECALL_DONE: The host answers a recall and the waiting device write proceeds (R353) -/
  | recallDone (line : Nat)
  /-- RECALL_TIMEOUT: A recall unanswered for RECALL_TO takes the Fustra link down (R353) -/
  | recallTimeout (line : Nat)
  /-- FUSTRA_UP: The Fustra link retrains and each pending interrupt vector is sent once (R357) -/
  | fustraUp (gen2 x8 : Bool)
  /-- FUS_RETRAIN: A write of 1 to FUS.LINK_CTRL.RETRAIN retrains the Fustra link (R365) -/
  | fusRetrain (ag : Agent)
  /-- IVEC_MASK_WRITE: Clearing a vector's MASK sends one message if PEND was set (R355) -/
  | ivecMaskWrite (ag : Agent) (k v : Nat)
  /-- INT_SET: A write to INT_SET sets INT_STAT bits as a hardware rise would (R433) -/
  | intSet (ag : Agent) (page v : Nat)
  /-- RESCAN: A write to CAP_n.CTRL.RESCAN re-enumerates the capacity port unless it holds LOCAL data (R359) -/
  | rescan (ag : Agent) (n : Nat) (dev : CxlDev)
  /-- CAP_OFFLINE: A capacity port fails beyond retry and goes offline (R361) -/
  | capOffline (n : Nat) (fatal : Bool)
  /-- CAP_RETRAIN: Every 100 ms an offline capacity port retrains and comes back if the serial matches (R361) -/
  | capRetrain (n : Nat) (serial : Option Nat)
  /-- QP_DB: A write to ETH_n.QP_DB posts work requests to a queue pair (R363) -/
  | qpDb (ag : Agent) (n v : Nat)
  /-- QP_SEL_WRITE: A write to ETH_n.QP_SEL selects a queue pair and its partition, refusing 0 (R367) -/
  | qpSelWrite (ag : Agent) (n v : Nat)
  /-- ETH_WRITE: A queue pair performs an RDMA WRITE work request (R363) -/
  | ethWrite (n qp : Nat) (w : EthWr)
  /-- ETH_READ: A queue pair performs an RDMA READ work request (R363) -/
  | ethRead (n qp : Nat) (w : EthWr) (data : List Nat)
  /-- ETH_SEND: A queue pair performs a SEND work request (R363) -/
  | ethSend (n qp : Nat) (w : EthWr)
  /-- ETH_LINK_CHANGE: An Ethernet port's link goes down or comes up (R355) -/
  | ethLinkChange (n : Nat) (up : Bool)
  /-- TEMP_SAMPLE: Every 20 µs a temperature sensor is read and thresholds are judged (R368) -/
  | tempSample (k : Nat) (raw : Int)
  /-- DROOP_DETECT: A droop monitor finds the supply below threshold and the domain suppresses clock edges (R370) -/
  | droopDetect (d m mv edges : Nat)
  /-- PMON_READ: Every 10 s the firmware reads the process monitors and re-derives the V/f tables (R372) -/
  | pmonRead (codes : List Nat)
  /-- POWER_ESTIMATE: Every 1 µs the estimator reports package power and accumulates energy (R373) -/
  | powerEstimate (w avg : Nat)
  /-- CAP_EVALUATION: Every 10 µs the controller compares power with the effective cap and plans the package point and skip duty (R374) -/
  | capEvaluation (est duty : List Nat)
  /-- POINT_RAISE: Every 100 µs after a cap rise the controller raises the package point one step within the ramp budget (R375) -/
  | pointRaise (est : List Nat)
  /-- LIMIT_WRITE: A write to CAP_CTRL.LIMIT sets the cap, clamped, and ends the safe cap (R374) -/
  | limitWrite (ag : Agent) (v : Nat)
  /-- THERMAL_TARGET_FALL: Every 100 µs a hot partition's thermal target falls one grid point, stepping its weaves (R380) -/
  | thermalTargetFall (p : Nat)
  /-- THERMAL_TARGET_RISE: Every 10 ms a cooled partition's thermal target rises one grid point (R380) -/
  | thermalTargetRise (p : Nat)
  /-- SLOPE_EVAL: Every 10 ms the device computes the temperature slope and starts or ends slope braking (R381) -/
  | slopeEval (v : Int)
  /-- DEEP_BRAKE_CHECK: Each second of slope braking the slope is checked and deep brake may start (R381) -/
  | deepBrakeCheck (v : Int)
  /-- SREL: A write to THERM_CTRL.SREL ends slope braking and deep brake (R381) -/
  | srel (ag : Agent)
  /-- HB: A heartbeat write to PWR.HB clears HBLOST (R383) -/
  | hb (ag : Agent) (v : Nat)
  /-- VRC_STAT_POLL: Every 2 µs after a SETV the device polls STAT until SETTLED, abandoning the step on timeout (R454) -/
  | vrcStatPoll (j stat : Nat) (late : Bool)
  /-- VRC_ALERT: VRC_ALERT_N reads low twice; the brake applies and every rail's STAT is read (R454) -/
  | vrcAlert (stats : List Nat)
  /-- STEP_PREPARED: The idle loop locks to the new point and islands freeze at their next round boundary (R394) -/
  | stepPrepared (bd ns : Nat)
  /-- CLOCK_SWITCH: Once every island of the weave is frozen its clocks stop and change to the prepared loop (R143) -/
  | clockSwitch (bd gap : Nat)
  /-- STEP_RESUME: After the switch gap all islands restart together at the new frequency (R394) -/
  | stepResume (bd : Nat)
  /-- POWER_ON_RESET: PORST_N rises, straps are sampled and boot starts with everything lost (R399) -/
  | powerOnReset (straps : Nat) (recoveryN railsOk : Bool)
  /-- SOFT_RESET: The soft key written to RST.SOFT_KEY resets as warm, keeping the Fustra link and aperture bases (R399) -/
  | softReset (ag : Agent) (key : Nat)
  /-- BOOT_STEP_DONE: A boot step completes or fails and the next step or recovery begins (R400) -/
  | bootStepDone (us : Nat) (rep : BootReport)
  /-- ATTACH_GO: The host writes GO in the attach header; valid bases are taken and the device enters SERVICE (R401) -/
  | attachGo (b0 b1 b2 : Nat)
  /-- MODE_REQ: A write to RST.CTRL.MODE_REQ switches between SERVICE and TEST when every binding is EMPTY (R396) -/
  | modeReq (ag : Agent) (v : Nat)
  /-- ISL_TEST_GO: A write to RST.ISL_TEST with GO starts the fabric self-test of an idle island (R397) -/
  | islTestGo (ag : Agent) (v : Nat)
  /-- ISL_TEST_DONE: An island self-test finishes; a failure sets SUSPECT (R397) -/
  | islTestDone (isl : Nat) (pass : Bool)
  /-- RCV_INFO: The recovery ROM responds and sends version, failure code and slot states (R403) -/
  | rcvInfo (i3c : Bool) (seq : Nat)
  /-- RCV_BEGIN: The recovery ROM opens a download session and empties the buffer (R403) -/
  | rcvBegin (i3c : Bool) (seq kind size : Nat)
  /-- RCV_DATA: The recovery ROM appends image data at the expected offset (R403) -/
  | rcvData (i3c : Bool) (seq off : Nat) (data : List Nat)
  /-- RCV_END: The recovery ROM verifies the buffer and writes it to the inactive slot as PENDING (R403) -/
  | rcvEnd (i3c : Bool) (seq : Nat) (flashOk : Bool)
  /-- RCV_BOOT: The recovery ROM boots from step 1 as after warm reset (R403) -/
  | rcvBoot (i3c : Bool) (seq : Nat)
  /-- SET_ENDPOINT_ID: The MCTP endpoint accepts an endpoint ID (R410) -/
  | setEndpointId (eid : Nat)
  /-- GET_CAPABILITIES: The SPDM responder returns its capabilities (R411) -/
  | getCapabilities (ver : Nat)
  /-- GET_CERTIFICATE: The SPDM responder returns part of the certificate chain (R411) -/
  | getCertificate (slot off len : Nat)
  /-- CHALLENGE: The SPDM responder signs a challenge with the Alias key (R411) -/
  | challenge (nonce : Nat)
  /-- GET_MEASUREMENTS: The SPDM responder returns measurements, optionally signed (R411) -/
  | getMeasurements (sel : Nat) (signed : Bool) (nonce : Nat)
  /-- APPLY: The firmware builds an image from an update package and writes it to the inactive slot as PENDING (R418) -/
  | apply (ag : Agent) (pkg : List Nat) (flashOk : Bool)
  /-- CONFIRM: The running PENDING slot becomes GOOD and ACTIVE, closing dual settings and optionally committing SVNs (R419) -/
  | confirm (ag : Agent) (svnCommit : Bool)
  /-- REVERT: The running PENDING slot is marked BAD and a warm reset is requested (R419) -/
  | revert (ag : Agent)
  /-- ABORT: An APPLY in progress is stopped and its slot left BAD (R418) -/
  | abort (ag : Agent)
  /-- KEYLIST: The publisher key list is replaced from a signed blob (R412) -/
  | keylist (ag : Agent) (blob : List Nat)
  /-- OWNER: OWNER_DIGEST is programmed once from a Tsungatex-signed blob (R412) -/
  | owner (ag : Agent) (blob : List Nat)
  /-- DEBUG: An owner-signed debug unlock opens internal scan until reset and raises UNLOCK_CNT (R423) -/
  | debug (ag : Agent) (blob : List Nat)
  /-- FWU_OP_DONE: A firmware update operation finishes, STAT.BUSY falls and STAT.CODE is set (R426) -/
  | fwuOpDone (us : Nat)
  /-- SETTINGS_SET: A firmware SET message stores a setting in the settings store (R421) -/
  | settingsSet (id fmt : Nat) (val : List Nat) (flashOk : Bool)
  /-- SETTINGS_MIRROR: The firmware copies a changed mirrored register into the settings store (R421) -/
  | settingsMirror (id : Nat)
  /-- RIM_WATCHDOG: RIM.BEAT unchanged for 10 ms restarts both rim processors (R445) -/
  | rimWatchdog (rpc : Nat)
  /-- CENSUS_COPY_DONE: A census copy finishes writing its snapshot or ends with an error code (R438) -/
  | censusCopyDone (written : Nat)
  /-- HOLD_WRITE: A write to CEN.HOLD holds or releases shared engines at their next boundary (R442) -/
  | holdWrite (ag : Agent) (v : Nat)
  /-- HOLD_ACK: A held engine reaches its boundary and its HOLD_ACK and STATUS.HELD bits set (R442) -/
  | holdAck (k : Nat)
  /-- LOCK_ACQ: A write of ACQ takes a page lock for the writing agent or is refused (R435) -/
  | lockAcq (ag : Agent) (page : Nat)
  /-- LOCK_REL: A write of REL from the holder releases the page lock (R435) -/
  | lockRel (ag : Agent) (page : Nat)
  /-- LOCK_SEAL: A write of SEAL seals the page's operator fields until reset (R436) -/
  | lockSeal (ag : Agent) (page : Nat)
  /-- PMASK_WRITE: A write to WVE.PMASK_n sets a partition's islands, keeping bits that conflict (R177) -/
  | pmaskWrite (ag : Agent) (p v : Nat)
  /-- HSET_WRITE: A write to WVE.HSET_n sets hot-set islands, refusing bits outside PMASK or quota (R237) -/
  | hsetWrite (ag : Agent) (p v : Nat)
  /-- LCLR: A write to WVE.FLT_CTRL.LCLR clears the load-fault record (R180) -/
  | lclr (ag : Agent)
  /-- RCLR: A write to WVE.FLT_CTRL.RCLR clears the run-fault record (R180) -/
  | rclr (ag : Agent)
  /-- STK_FCLR: A write to STK_HEALTH.FCLR clears STK_FAULT and its value registers (R90) -/
  | stkFclr (ag : Agent) (isl : Nat)
  /-- BSH_FCLR: A write to BSH_CTRL.FCLR clears BSH_FAULT and BSH_FAULT_A (R122) -/
  | bshFclr (ag : Agent) (isl : Nat)
  /-- FAB_FCLR: A write to FAB_CTRL.FCLR clears FAB_FAULT and FAB_FAULT_T (R152) -/
  | fabFclr (ag : Agent) (isl : Nat)
  /-- RC_READ: A read of an RC register returns its value and clears it (R6) -/
  | rcRead (ag : Agent) (addr size : Nat)
  /-- LO_READ: A 4-byte read of a _LO half latches the _HI half for the reading agent (R431) -/
  | loRead (ag : Agent) (addr : Nat)
  /-- UNMAPPED_ACCESS: An access to a reserved window address reads zero, writes nothing and counts (R428) -/
  | unmappedAccess (ag : Agent) (addr : Nat) (isWr : Bool)
  /-- REGISTER_WRITE: A write to a register with no row of its own applies under its access code, reserved-field, size, lock and seal rules (R6) -/
  | registerWrite (ag : Agent) (addr size v : Nat)
  /-- DROOP_RECOVERY: A domain's supply recovers above its droop threshold and the clock generator stops suppressing edges (R370) -/
  | droopRecovery (d : Nat)
  /-- DOMAIN_APERTURE_ACCESS: A host access to slot D of the lead's domain aperture is sent as a REG flit after earlier window writes toward D are acknowledged (R332) -/
  | domainApertureAccess (off size : Nat) (isWr : Bool) (v : Nat)
  /-- I3C_DYNAMIC_ADDRESS_ASSIGN: The board controller assigns the I3C target its dynamic address, replacing static address 0x3A (R451) -/
  | i3cDynamicAddressAssign (addr : Nat)
  /-- TEST_PORT_INSTRUCTION: An IEEE 1149.1 instruction (BYPASS, IDCODE, SAMPLE/PRELOAD, EXTEST, CLAMP, HIGHZ) is shifted in and applied at the test port (R451) -/
  | testPortInstruction (ins : JtagIns)
  /-- POWER_LOSS: Input power is lost, so T1, T2 and unretired commands are lost and only the listed state survives (R387) -/
  | powerLoss (keep : Nat)
  /-- PFC_PAUSE_FRAME_RECEIVE: An IEEE 802.1Qbb priority pause frame arrives on an Ethernet port, pausing transmission on that priority, and counts in PFC_PAUSE (R362) -/
  | pfcPauseFrameReceive (n pri : Nat)
  /-- HEAT_SCAN: At each heat period the rim firmware starts demotions and promotions, then decays heat and ages segments (R198) -/
  | heatScan
  /-- EXPIRY_SWEEP: Every 1,000 µs the walker frees expired paused or demoted leaves (R289) -/
  | expirySweep
  /-- FUSTRA_DOWN: The Fustra link goes down; directory entries drop and host windows raise NOT_PRESENT (R357) -/
  | fustraDown
  /-- H2R_GO: The host sets MB_CTRL.H2R_GO and the firmware takes the mailbox message (R356) -/
  | h2rGo
  /-- BRAKE_ASSERT: BRAKE_N reads low twice and every weave skips rounds with porters and Skein slowed (R378) -/
  | brakeAssert
  /-- BRAKE_RELEASE: BRAKE_N goes high and the brake ends, lowering skip duty under the ramp budget (R378) -/
  | brakeRelease
  /-- DUTY_STEP: After a brake or skip duty ends, D is lowered by one at the paced interval (R377) -/
  | dutyStep
  /-- HB_TIMEOUT: No heartbeat for HB_TIMEOUT sets HBLOST (R383) -/
  | hbTimeout
  /-- SAFE_CAP_ENGAGE: HB_HOLD seconds after heartbeat loss the safe cap comes into force (R383) -/
  | safeCapEngage
  /-- POWER_FAIL: PWRFAIL_N reads low twice; intake stops and grace begins (R385) -/
  | powerFail
  /-- PFAIL_GRACE_END: Grace ends; unretired commands are abandoned, records flushed, the closing record written and the device halts (R385) -/
  | pfailGraceEnd
  /-- CREC_ACK: A write to CREC.ACK clears the closing record's commit field (R386) -/
  | crecAck
  /-- VRC_ALERT_RELEASE: VRC_ALERT_N returns high and CLEAR is sent, ending the brake (R454) -/
  | vrcAlertRelease
  /-- REFCLK_LOST: The reference clock stops and every generator holds its last frequency (R392) -/
  | refclkLost
  /-- AO_CLOCK_SWITCH: The always-on domain moves from its internal oscillator to its own generator (R391) -/
  | aoClockSwitch
  /-- WARM_RESET: WRST_N resets the device, keeping only the listed state, and boot restarts (R399) -/
  | warmReset
  /-- GET_ENDPOINT_ID: The MCTP endpoint returns its endpoint ID (R410) -/
  | getEndpointId
  /-- GET_MCTP_VERSION_SUPPORT: The MCTP endpoint returns its supported versions (R410) -/
  | getMctpVersionSupport
  /-- GET_MESSAGE_TYPE_SUPPORT: The MCTP endpoint returns its supported message types (R410) -/
  | getMessageTypeSupport
  /-- GET_VERSION: The SPDM responder returns its supported versions (R411) -/
  | getVersion
  /-- NEGOTIATE_ALGORITHMS: The SPDM responder negotiates hash and signature algorithms (R411) -/
  | negotiateAlgorithms
  /-- GET_DIGESTS: The SPDM responder returns the certificate chain digest of slot 0 (R411) -/
  | getDigests
  /-- UNSUPPORTED_REQUEST: An unsupported SPDM request is answered with ERROR UnsupportedRequest (R411) -/
  | unsupportedRequest
  /-- RIM_BEAT: Every 1 ms the rim firmware increments RIM.BEAT (R445) -/
  | rimBeat
  /-- COPY_GO: A write to CEN.COPY_GO starts a census copy of one object instance (R438) -/
  | copyGo
  /-- REFCLK_RESTORED: The reference clock returns and CLK.REF_STAT.LOST clears, letting boot steps 4 to 6 start (R392) -/
  | refclkRestored
  /-- RIM_RESTART_COMPLETE: The restarted rim processors are running again, so the power controller, policy scan, ADMIT, UNADMIT and recovery requests resume (R445) -/
  | rimRestartComplete
  /-- RAIL_MONITOR_RELEASE: On-die monitors that held power-on reset release it once every rail is in range and 1 ms has passed, and boot starts (R455) -/
  | railMonitorRelease
  deriving DecidableEq, Repr

end Sys2Proof
end

