-- ==== Sys2Proof/Decode.lean ====
section
/-! DEFINITION. The table gives no row bits: no word spells a command. -/

namespace Sys2Proof

/-- The command a word spells by the table's bits: none, the table giving none (the commands come as themselves). -/
def decodeTableWord (nbits w : Nat) : Option Instr :=
  match nbits, w with
  | _, _ => none

end Sys2Proof
end

