-- ==== Sys2Proof/Config.lean ====
section
/-! DEFINITION. What the spec leaves open. Every constant here is opaque: no proof can see a value of it. -/

namespace Sys2Proof.Config

/-- A free 64-bit value, one for each count of the state's free-value counter (assumption 1). -/
opaque freeValue : Nat → BitVec 64

/-- A byte read from outside the package (host memory at an address, or a peer's window), one for each count of the
free-value counter: what stands there is not the device's (assumption 2). `src` is 0x40 for the host, else the peer. -/
opaque outsideByte : (count src addr : Nat) → BitVec 8

/-- Coefficients of the special functions (R45): "fixed in silicon", their values not stated. Function `fn` (operation
code of R74), segment `seg`, coefficient `i`: a signed 36-bit significand and, above it, an 8-bit exponent
(assumption 3). -/
opaque sfCoef : (fn seg i : Nat) → BitVec 44

/-- What an evaluation that keeps at least 34 significant bits loses at input `x` (R45), as a fraction of 2^-35
(assumption 3). -/
opaque sfNoise : (fn x : Nat) → BitVec 16

/-- FP32 result of a function of the service engines at an input where the spec bounds the error and states no bits
(R264, R273, assumption 3). -/
opaque specialFn : (fn x : Nat) → BitVec 32

/-- FP32 log-softmax of a row of FP32 values at one of its tokens: the spec gives no order of its sum and no error of
its logarithm (R273, assumption 3). -/
opaque logSoftmax : (row : List Nat) → (tok : Nat) → BitVec 32

/-- FP32 sum of the residual of R276, whose order the spec does not state (assumption 3). -/
opaque residualSum : List Nat → BitVec 32

/-- Millivolts a die's core rail needs for a point of the 100 MHz grid, at the process monitors' codes: the firmware's
derivation is not given (R372, assumption 29). -/
opaque railMv : (die point : Nat) → (codes : List Nat) → BitVec 16

/-- SHAKE256 with 256-bit output over a list of bytes: FIPS 202 is outside the spec (assumption 4). -/
opaque shake256 : List Nat → Nat

/-- SHA3-384 of a list of bytes, likewise (assumption 4). -/
opaque sha384 : List Nat → Nat

/-- Whether a signature is good for a key and a message; the algorithms stand outside the spec (assumption 4). -/
opaque sigOk : (key msg : List Nat) → (sig : List Nat) → Bool

/-- The bytes of a signature the device makes with its own key (assumption 4). -/
opaque signature : (key : Nat) → (msg : List Nat) → List Nat

/-- Bytes the reserved area has for admission tables: the spec gives no size (assumption 5). -/
opaque admitRoom : BitVec 48

/-- The order in which table frames are taken from the table pool: the spec names a pool and no order
(assumption 6). -/
opaque tableFrame : Nat → BitVec 23

/-- What a transfer finds of the range's tables in the translation caches, which the spec does not lay out: how often it
misses, and the bytes the walks read (R256, R444, assumption 1). -/
opaque walks : Nat → Nat × Nat

/-- Free tables in the pool after boot: the spec gives no size (assumption 6). -/
opaque tablePool : BitVec 32

/-- The image the boot ROM holds, and Tsungatex's firmware-signing public key (R407): not in the spec. -/
opaque romImage : List Nat
opaque tsungatexKey : List Nat

/-- The certificate the block issues for the Alias key under the DeviceID key, as bytes (R408): its layout is X.509's. -/
opaque aliasCert : (seed device : Nat) → List Nat

/-- FORMAT a firmware image reads for a setting with more than one (R420): how an image declares it is not said. -/
opaque imageFormat : (header : List Nat) → (id : Nat) → Nat

end Sys2Proof.Config
end

