-- ==== Sys2Proof/Machine/Bits.lean ====
section
/-! DEFINITION. Bit fields, sign extension, byte order (R4). -/

namespace Sys2Proof.Machine

/-- Bits `lo` to `lo + w - 1` of a number. -/
def bits (x lo w : Nat) : Nat := (x >>> lo) % 2 ^ w

/-- One bit of a number. -/
def bit (x lo : Nat) : Bool := x.testBit lo

/-- `v` put into bits `lo` to `lo + w - 1` of `x`, every other bit kept. -/
def putBits (x lo w v : Nat) : Nat :=
  x - (bits x lo w) * 2 ^ lo + (v % 2 ^ w) * 2 ^ lo

/-- Bits `lo` to `lo + w - 1` of a register word. -/
def getF (lo w : Nat) (x : Word) : Nat := (x.extractLsb' lo w).toNat

/-- The register word with ones at the bits `lo` to `lo + w - 1`. -/
def maskF (lo w : Nat) : Word := (BitVec.ofNat 32 (2 ^ w - 1)) <<< lo

/-- `v` put into bits `lo` to `lo + w - 1` of a register word, every other bit kept. -/
def setF (lo w v : Nat) (x : Word) : Word :=
  (x &&& ~~~(maskF lo w)) ||| ((BitVec.ofNat 32 (v % 2 ^ w)) <<< lo)

/-- The number a `w`-bit two's complement field holds. -/
def sext (w x : Nat) : Int := if x % 2 ^ w < 2 ^ (w - 1) then (x % 2 ^ w : Nat) else (x % 2 ^ w : Nat) - (2 ^ w : Nat)

/-- The `w`-bit field of a number. -/
def toField (w : Nat) (x : Int) : Nat := (x % (2 ^ w : Nat)).toNat

/-- Little-endian number of a list of bytes (R4). -/
def leNum : List Nat → Nat
  | [] => 0
  | b :: t => b % 256 + 256 * leNum t

/-- The low `n` bytes of a number, lowest first (R4). -/
def leBytes : Nat → Nat → List Nat
  | 0, _ => []
  | n + 1, v => v % 256 :: leBytes n (v / 256)

/-- Field of `n` bytes at byte offset `off` of a number held little-endian (R4). -/
def byteField (x off n : Nat) : Nat := bits x (8 * off) (8 * n)

/-- Rounded-up quotient. -/
def cdiv (a b : Nat) : Nat := (a + b - 1) / b

/-- The numbers of the set bits of `x` below `n`, ascending. -/
def setBits (x n : Nat) : List Nat := (List.range n).filter fun k => x.testBit k

/-- The number whose set bits are listed. -/
def ofBits (l : List Nat) : Nat := l.foldl (fun a k => a ||| 2 ^ k) 0

/-- Number of set bits of `x` below `n`. -/
def popCount (x n : Nat) : Nat := (setBits x n).length

/-- The base-two logarithm rounded down, 0 for 0. -/
def ilog2 (x : Nat) : Nat := x.log2

/-- Whole square root by bisection from the top bit down. -/
def isqrtFrom (x : Nat) : Nat → Nat → Nat
  | 0, r => r
  | k + 1, r => if (r + 2 ^ k) * (r + 2 ^ k) ≤ x then isqrtFrom x k (r + 2 ^ k) else isqrtFrom x k r

/-- Sum of a list. -/
def sumNat (l : List Nat) : Nat := l.foldl (· + ·) 0

/-- Position of the first element that `p` accepts. -/
def findPos {α : Type} (p : α → Bool) (l : List α) : Option Nat := l.findIdx? p

/-- The list with its `k`-th element replaced. -/
def setAt {α : Type} (l : List α) (k : Nat) (v : α) : List α := l.set k v

end Sys2Proof.Machine
end

