-- ==== Sys2Proof/Machine/Fp.lean ====
section
/-! DEFINITION. Number formats and arithmetic (R15 to R36): exact values, one rounding, conversions. Numbers are bit
patterns held as `Nat`; a decoded value is exact. -/

namespace Sys2Proof.Machine

/-- An exact value: NaN, a signed infinity, or ±m·2^e. -/
inductive FV where
  | nan
  | inf (neg : Bool)
  | num (neg : Bool) (m : Nat) (e : Int)
  deriving DecidableEq, Repr

/-- A floating-point element format of R16: exponent and trailing widths, bias, whether it has infinities and NaNs,
largest finite value `topM·2^topE`, and whether it has a sign bit. -/
structure FFmt where
  ew : Nat
  mw : Nat
  bias : Int
  hasInf : Bool
  hasNan : Bool
  topM : Nat
  topE : Int
  signed : Bool
  canon : Nat
  deriving DecidableEq, Repr

def fmtF32 : FFmt := ⟨8, 23, 127, true, true, 2 ^ 24 - 1, 104, true, 0x7FC00000⟩
def fmtBf16 : FFmt := ⟨8, 7, 127, true, true, 255, 120, true, 0x7FC0⟩
def fmtF16 : FFmt := ⟨5, 10, 15, true, true, 2047, 5, true, 0x7E00⟩
def fmtE4m3 : FFmt := ⟨4, 3, 7, false, true, 14, 5, true, 0x7F⟩
def fmtE5m2 : FFmt := ⟨5, 2, 15, true, true, 7, 13, true, 0x7E⟩
def fmtE3m2 : FFmt := ⟨3, 2, 3, false, false, 7, 2, true, 0⟩
def fmtE2m3 : FFmt := ⟨2, 3, 1, false, false, 15, -1, true, 0⟩
def fmtE2m1 : FFmt := ⟨2, 1, 1, false, false, 3, 1, true, 0⟩
def fmtUe5m3 : FFmt := ⟨5, 3, 15, false, true, 14, 13, false, 0xFF⟩

/-- The exponent of the smallest subnormal (R16). -/
def FFmt.qmin (f : FFmt) : Int := 1 - f.bias - f.mw

/-- The value a bit pattern encodes (R16, R17). -/
def fpDecode (f : FFmt) (x : Nat) : FV :=
  let t := bits x 0 f.mw
  let ex := bits x f.mw f.ew
  let neg := f.signed && bit x (f.mw + f.ew)
  if f.hasNan && !f.hasInf && decide (ex = 2 ^ f.ew - 1) && decide (t = 2 ^ f.mw - 1) then .nan
  else if f.hasInf && decide (ex = 2 ^ f.ew - 1) then (if t = 0 then .inf neg else .nan)
  else if ex = 0 then .num neg t f.qmin
  else .num neg (t + 2 ^ f.mw) (f.qmin + (ex : Int) - 1)

/-- How the discarded part is judged: to nearest with ties to even, or against 16 random bits (R31, R32). -/
inductive RMode where
  | even
  | stoch (r : Nat)
  deriving DecidableEq, Repr

/-- `num/den` rounded down plus the step the mode asks for. -/
def roundNat (mode : RMode) (num den : Nat) : Nat :=
  let q := num / den
  let r := num % den
  match mode with
  | .even => if 2 * r > den ∨ (2 * r = den ∧ q % 2 = 1) then q + 1 else q
  | .stoch rnd => if r * 65536 / den + rnd ≥ 65536 then q + 1 else q

/-- Exponent of the leading bit of the positive quotient `num/den`. -/
def qlog2 (num den : Nat) : Int :=
  let l : Int := (num.log2 : Int) - (den.log2 : Int)
  if 0 ≤ l then (if num ≥ den * 2 ^ l.toNat then l else l - 1)
  else (if num * 2 ^ (-l).toNat ≥ den then l else l - 1)

/-- The positive quotient `num/den · 2^e` rounded once to `p` significant bits, no finer than `2^qmin`: result
`m·2^q`. -/
def roundQ (mode : RMode) (p : Nat) (qmin : Int) (num den : Nat) (e : Int) : Nat × Int :=
  if num = 0 then (0, qmin)
  else
    let q := max (qlog2 num den + e - (p - 1 : Nat)) qmin
    let d := e - q
    let m := if 0 ≤ d then roundNat mode (num * 2 ^ d.toNat) den else roundNat mode num (den * 2 ^ (-d).toNat)
    if m = 2 ^ p then (2 ^ (p - 1), q + 1) else (m, q)

/-- Bit pattern of ±m·2^q, which the format holds. -/
def fpPack (f : FFmt) (neg : Bool) (m : Nat) (q : Int) : Nat :=
  let s := if f.signed && neg then 2 ^ (f.ew + f.mw) else 0
  if m < 2 ^ f.mw then s + m else s + ((q - f.qmin + 1).toNat) * 2 ^ f.mw + (m - 2 ^ f.mw)

/-- m·2^q lies beyond the largest finite magnitude. -/
def fpOver (f : FFmt) (m : Nat) (q : Int) : Bool := decide (q > f.topE) || (decide (q = f.topE) && decide (m > f.topM))

/-- Bit pattern of an infinity, in a format that has one. -/
def fpInf (f : FFmt) (neg : Bool) : Nat :=
  (if neg then 2 ^ (f.ew + f.mw) else 0) + (2 ^ f.ew - 1) * 2 ^ f.mw

/-- Bit pattern of the largest finite magnitude. -/
def fpTop (f : FFmt) (neg : Bool) : Nat := fpPack f neg f.topM f.topE

/-- Result of a conversion: the bits and which counter of R37 it moves. -/
structure Cvt where
  bits : Nat
  ovf : Bool
  intsat : Bool
  nancvt : Bool
  deriving DecidableEq, Repr

/-- Conversion to a floating-point format (R31, R33, R34). `sat` is OVF = 0. -/
def fpEncode (f : FFmt) (mode : RMode) (sat : Bool) : FV → Cvt
  | .nan => ⟨f.canon, false, false, false⟩
  | .inf neg =>
    if f.hasInf then ⟨fpInf f neg, false, false, false⟩
    else if sat then ⟨fpTop f neg, false, false, false⟩ else ⟨f.canon, false, false, false⟩
  | .num neg m e =>
    let r := roundQ mode (f.mw + 1) f.qmin m 1 e
    if fpOver f r.1 r.2 then
      ⟨if sat then fpTop f neg else if f.hasInf then fpInf f neg else f.canon, true, false, false⟩
    else ⟨fpPack f neg r.1 r.2, false, false, false⟩

/-- Rounded once to FP32, to nearest-even, overflow to infinity (R25, R28). -/
def toF32 : FV → Nat
  | .nan => 0x7FC00000
  | .inf neg => fpInf fmtF32 neg
  | .num neg m e =>
    let r := roundQ .even 24 (-149) m 1 e
    if fpOver fmtF32 r.1 r.2 then fpInf fmtF32 neg else fpPack fmtF32 neg r.1 r.2

/-- The value of an FP32 bit pattern. -/
def ofF32 (x : Nat) : FV := fpDecode fmtF32 x

/-- The integer `i` as a value. -/
def ofInt (i : Int) : FV := .num (decide (i < 0)) i.natAbs 0

/-- Exact negation. -/
def fvNeg : FV → FV
  | .nan => .nan
  | .inf n => .inf !n
  | .num n m e => .num (!n) m e

/-- Exact magnitude. -/
def fvAbs : FV → FV
  | .nan => .nan
  | .inf _ => .inf false
  | .num _ m e => .num false m e

/-- Exact product; zero times infinity is invalid. -/
def fvMul : FV → FV → FV
  | .nan, _ => .nan
  | _, .nan => .nan
  | .inf a, .inf b => .inf (a != b)
  | .inf a, .num b m _ => if m = 0 then .nan else .inf (a != b)
  | .num a m _, .inf b => if m = 0 then .nan else .inf (a != b)
  | .num a m e, .num b n d => .num (a != b) (m * n) (e + d)

/-- Exact sum; a zero sum of unlike signs is +0. -/
def fvAdd : FV → FV → FV
  | .nan, _ => .nan
  | _, .nan => .nan
  | .inf a, .inf b => if a = b then .inf a else .nan
  | .inf a, .num .. => .inf a
  | .num .., .inf b => .inf b
  | .num a m e, .num b n d =>
    let q := min e d
    let x : Int := (if a then -1 else 1) * ((m * 2 ^ (e - q).toNat : Nat) : Int)
    let y : Int := (if b then -1 else 1) * ((n * 2 ^ (d - q).toNat : Nat) : Int)
    let z := x + y
    if z = 0 then .num (a && b) 0 q else .num (decide (z < 0)) z.natAbs q

/-- The value is NaN. -/
def FV.isNan : FV → Bool
  | .nan => true
  | _ => false

/-- The value is zero of either sign. -/
def FV.isZero : FV → Bool
  | .num _ 0 _ => true
  | _ => false

/-- The value is infinite. -/
def FV.isInf : FV → Bool
  | .inf _ => true
  | _ => false

/-- `a < b` of two values that are not NaN (R29); zeros of unlike sign are equal. -/
def fvLt : FV → FV → Bool
  | .nan, _ => false
  | _, .nan => false
  | .inf a, .inf b => a && !b
  | .inf a, .num .. => a
  | .num .., .inf b => !b
  | .num a m e, .num b n d =>
    let q := min e d
    let x : Int := (if a then -1 else 1) * ((m * 2 ^ (e - q).toNat : Nat) : Int)
    let y : Int := (if b then -1 else 1) * ((n * 2 ^ (d - q).toNat : Nat) : Int)
    decide (x < y)

/-- `a = b` (R29). -/
def fvEq (a b : FV) : Bool := !a.isNan && !b.isNan && !fvLt a b && !fvLt b a

/-- Sign of a value. -/
def FV.neg : FV → Bool
  | .nan => false
  | .inf n => n
  | .num n _ _ => n

/-- Order of R29 for minimum and maximum: −0 below +0. -/
def fvBelow (a b : FV) : Bool := fvLt a b || (fvEq a b && a.neg && !b.neg)

/-- Value of an FP32 operation from exact operands: rounded once, and whether a NaN came out of non-NaN inputs
(R28, R37). -/
def f32op (ins : List FV) (r : FV) : Nat × Bool := (toF32 r, r.isNan && ins.all (fun v => !v.isNan))

/-- Rounds to an integer, nearest-even (R31). -/
def fvToInt : FV → Int
  | .num neg m e =>
    let a := if 0 ≤ e then m * 2 ^ e.toNat else roundNat .even m (2 ^ (-e).toNat)
    if neg then -(a : Int) else a
  | _ => 0

/-- Conversion to a `w`-bit two's complement integer (R34). -/
def fvToIntSat (w : Nat) (v : FV) : Cvt :=
  let hi : Int := 2 ^ (w - 1) - 1
  let lo : Int := -2 ^ (w - 1)
  match v with
  | .nan => ⟨0, false, false, true⟩
  | .inf neg => ⟨toField w (if neg then lo else hi), false, false, false⟩
  | .num .. =>
    let i := fvToInt v
    if i > hi then ⟨toField w hi, true, false, false⟩
    else if i < lo then ⟨toField w lo, true, false, false⟩ else ⟨toField w i, false, false, false⟩

/-- The element format of a format code of R15, where it is a floating-point one. -/
def fmtOf : Nat → Option FFmt
  | 0 => some fmtF32
  | 1 => some fmtBf16
  | 2 => some fmtF16
  | 3 => some fmtE4m3
  | 4 => some fmtE5m2
  | 5 => some fmtE4m3
  | 6 => some fmtE5m2
  | 7 => some fmtE3m2
  | 8 => some fmtE2m3
  | 9 => some fmtE2m1
  | 11 => some fmtE2m1
  | _ => none

/-- Element bits of a format code (R15). -/
def fmtBits (c : Nat) : Nat :=
  if c = 0 ∨ c = 14 then 32 else if c = 1 ∨ c = 2 then 16 else if c = 7 ∨ c = 8 then 6
  else if c = 9 ∨ c = 11 ∨ c = 13 then 4 else 8

/-- The code is MX: an E8M0 scale for each 32 elements (R15, R19). -/
def isMx (c : Nat) : Bool := decide (5 ≤ c) && decide (c ≤ 10)

/-- The code is INT8 or INT4 (R18). -/
def isIntFmt (c : Nat) : Bool := c == 12 || c == 13

/-- Exact value of an element code without its scale (R16, R18, R19). -/
def elemVal (c x : Nat) : FV :=
  match fmtOf c with
  | some f => fpDecode f x
  | none =>
    if c = 10 then .num (decide (sext 8 x < 0)) (sext 8 x).natAbs (-6)
    else ofInt (sext (fmtBits c) x)

/-- Value of an E8M0 scale code (R19). -/
def e8m0Val (x : Nat) : FV := if x % 256 = 255 then .nan else .num false 1 ((x % 256 : Nat) - 127 : Int)

/-- Value of a block scale read with an operand: E8M0, UE5M3 or BF16 (R18, R19, R22). -/
def scaleVal (c x : Nat) : FV :=
  if isMx c then e8m0Val x
  else if c = 11 then fpDecode fmtUe5m3 x
  else fpDecode fmtBf16 x

/-- Value of an element with its block scale (R19, R21, R22). -/
def scaledVal (c x s : Nat) : FV := fvMul (elemVal c x) (scaleVal c s)

/-- Largest magnitude among the finite values (R35). -/
def amaxOf (l : List FV) : FV :=
  l.foldl (fun a v => match v with
    | .num _ m e => if fvLt a (.num false m e) then .num false m e else a
    | _ => a) (.num false 0 0)

/-- Exponent of the leading bit of a finite non-zero value. -/
def fvLog2 : FV → Int
  | .num _ m e => (m.log2 : Int) + e
  | _ => 0

/-- emax of R35. -/
def mxEmax (c : Nat) : Int :=
  if c = 5 then 8 else if c = 6 then 15 else if c = 7 then 4 else if c = 8 then 2 else if c = 9 then 2 else 0

/-- One element of an MX block: `v/X` rounded once and saturated (R35). Returns code and overflow. -/
def mxElem (c : Nat) (mode : RMode) (x : Int) : FV → Cvt
  | .num neg m e =>
    if c = 10 then
      let i := fvToInt (.num neg m (e - x + 6))
      if i > 127 then ⟨127, true, false, false⟩ else if i < -128 then ⟨toField 8 (-128), true, false, false⟩
      else ⟨toField 8 i, false, false, false⟩
    else match fmtOf c with
      | some f =>
        let r := roundQ mode (f.mw + 1) f.qmin m 1 (e - x)
        if fpOver f r.1 r.2 then ⟨fpTop f neg, true, false, false⟩ else ⟨fpPack f neg r.1 r.2, false, false, false⟩
      | none => ⟨0, false, false, false⟩
  | .inf neg =>
    if c = 10 then ⟨if neg then toField 8 (-128) else 127, false, false, false⟩
    else match fmtOf c with
      | some f => ⟨fpTop f neg, false, false, false⟩
      | none => ⟨0, false, false, false⟩
  | .nan => ⟨0, false, false, false⟩

/-- Conversion of a block of values to MX format `c` (R35): scale code and elements. `modes` gives each element's
rounding. Where the finite amax is 0 but the block holds an infinity and OVF = 0, R35 says both that every element is +0 or
-0 and that an infinity is written as the largest magnitude: the infinity is written as the largest magnitude, the scale
is 0x00 (DESIGN CHOICE, assumption 82). -/
def mxBlock (c : Nat) (sat : Bool) (modes : List RMode) (vs : List FV) : Nat × List Cvt :=
  if vs.any FV.isNan || (!sat && vs.any FV.isInf) then (255, vs.map fun _ => ⟨0, false, false, false⟩)
  else
    let am := amaxOf vs
    if am.isZero then (0, (vs.zip modes).map fun p => mxElem c p.2 0 p.1)
    else
      let x := max (-127) (min 127 (fvLog2 am - mxEmax c))
      ((x + 127).toNat, (vs.zip modes).map fun p => mxElem c p.2 x p.1)

/-- Conversion of 16 values to an NB4 block under tile scale `t` (R36): block scale code and elements. An infinity
beside a finite amax of 0 under OVF = 0 is settled as in `mxBlock` (DESIGN CHOICE, assumption 82). -/
def nb4Block (sat : Bool) (t : FV) (modes : List RMode) (vs : List FV) : Nat × List Cvt :=
  if vs.any FV.isNan || (!sat && vs.any FV.isInf) then (255, vs.map fun _ => ⟨0, false, false, false⟩)
  else
    match amaxOf vs, t with
    | .num _ am ae, .num _ tm te =>
      let r := roundQ .even 4 (-17) am (6 * tm) (ae - te)
      let r := if fpOver fmtUe5m3 r.1 r.2 then (14, 13) else if r.1 = 0 ∧ am ≠ 0 then (1, -17) else r
      let code := fpPack fmtUe5m3 false r.1 r.2
      (code, (vs.zip modes).map fun p => match p.1 with
        | .num neg m e =>
          if r.1 = 0 then ⟨fpPack fmtE2m1 neg 0 (-1), false, false, false⟩
          else
            let q := roundQ p.2 2 (-1) m (r.1 * tm) (e - r.2 - te)
            if fpOver fmtE2m1 q.1 q.2 then ⟨fpTop fmtE2m1 neg, true, false, false⟩
            else ⟨fpPack fmtE2m1 neg q.1 q.2, false, false, false⟩
        | .inf neg => ⟨fpTop fmtE2m1 neg, false, false, false⟩
        | .nan => ⟨0, false, false, false⟩)
    | _, _ => (255, vs.map fun _ => ⟨0, false, false, false⟩)

/-- One step of the generator of R32. -/
def xorshift (s : Nat) : Nat :=
  let a := (s ^^^ (s <<< 13)) % 2 ^ 32
  let b := a ^^^ (a >>> 17)
  (b ^^^ (b <<< 5)) % 2 ^ 32

/-- `n` steps of the generator: the last state and the 16 random bits each step gave. -/
def xorshifts : Nat → Nat → Nat × List Nat
  | 0, s => (s, [])
  | n + 1, s =>
    let s1 := xorshift s
    let r := xorshifts n s1
    (r.1, (s1 >>> 16) :: r.2)

/-- Initial generator state of a stake (R32). -/
def srInit (seed stake : Nat) : Nat :=
  let x := (seed % 2 ^ 32) ^^^ (stake * 0x9E3779B9 % 2 ^ 32)
  if x = 0 then 1 else x

/-- Stochastic rounding applies to a destination format (R31). -/
def stochFmt (c : Nat) : Bool := decide (1 ≤ c) && decide (c ≤ 11) && decide (c ≠ 10)

/-- ulp of R41: 2^(floor(log2 M) − 23). -/
def ulpOf (m : FV) : FV := .num false 1 (fvLog2 m - 23)

end Sys2Proof.Machine
end

