-- ==== Sys2Proof/Machine/Regs.lean ====
section
/-! DEFINITION. The register map: one field per row of the register tables of spec/, with its place, width, access code
and reset value. Field `f` of instance (or entry) `i` lies at `f.addr i`. -/

namespace Sys2Proof.Machine

/-- Access codes of R6. -/
inductive Access where
  | rw | ro | wo | w1c | w1s | rc
  deriving DecidableEq, Repr

/-- One register field: window address of instance 0, distance between instances, number of instances, lowest bit,
width, access code, reset value. -/
structure Fld where
  addr0 : Nat
  stride : Nat
  cnt : Nat
  lo : Nat
  w : Nat
  acc : Access
  reset : Nat
  deriving DecidableEq, Repr

/-- Window address of instance `i` of a field (R427). -/
def Fld.addr (f : Fld) (i : Nat) : Nat := f.addr0 + i * f.stride

/-- The field `d` bytes further on (entries of the step log of R179). -/
def Fld.up (f : Fld) (d : Nat) : Fld := { f with addr0 := f.addr0 + d }

/-- The field lies in the register at window address `a`. -/
def Fld.hits (f : Fld) (a : Nat) : Bool :=
  decide (f.addr0 ≤ a) && decide ((a - f.addr0) % f.stride = 0) && decide ((a - f.addr0) / f.stride < f.cnt)

/-- Bits of the field's place in its register. -/
def Fld.mask (f : Fld) : Nat := (2 ^ f.w - 1) * 2 ^ f.lo

namespace Reg

def ISL_ARITH_NAN : Fld := ⟨0x10300, 0x1000, 32, 0, 32, .rc, 0⟩ -- R37
def ISL_ARITH_OVF : Fld := ⟨0x10304, 0x1000, 32, 0, 32, .rc, 0⟩ -- R37
def ISL_ARITH_INTSAT : Fld := ⟨0x10308, 0x1000, 32, 0, 32, .rc, 0⟩ -- R37
def ISL_ARITH_NANCVT : Fld := ⟨0x1030C, 0x1000, 32, 0, 32, .rc, 0⟩ -- R37
def ISL_CHK_SKIP : Fld := ⟨0x10310, 0x1000, 32, 0, 32, .rc, 0⟩ -- R37
def ISL_SF_SUBN : Fld := ⟨0x10314, 0x1000, 32, 0, 32, .rc, 0⟩ -- R37
def ISL_CHK_MIS : Fld := ⟨0x10320, 0x1000, 32, 0, 32, .rc, 0⟩ -- R90
def ISL_CHK_RECOMP : Fld := ⟨0x10324, 0x1000, 32, 0, 32, .rc, 0⟩ -- R90
def ISL_CHK_CMD : Fld := ⟨0x10328, 0x1000, 32, 0, 2, .ro, 0⟩ -- R90
def ISL_STK_HEALTH_SUSPECT : Fld := ⟨0x1032C, 0x1000, 32, 0, 1, .w1c, 0⟩ -- R90
def ISL_STK_HEALTH_FCLR : Fld := ⟨0x1032C, 0x1000, 32, 1, 1, .wo, 0⟩ -- R90
def ISL_STK_FAULT_STAKE : Fld := ⟨0x10330, 0x1000, 32, 0, 10, .ro, 0⟩ -- R90
def ISL_STK_FAULT_CAUSE : Fld := ⟨0x10330, 0x1000, 32, 10, 3, .ro, 0⟩ -- R90
def ISL_STK_FAULT_WORD : Fld := ⟨0x10330, 0x1000, 32, 13, 9, .ro, 0⟩ -- R90
def ISL_STK_FAULT_AXIS : Fld := ⟨0x10330, 0x1000, 32, 22, 1, .ro, 0⟩ -- R90
def ISL_STK_FAULT_INDEX : Fld := ⟨0x10330, 0x1000, 32, 23, 5, .ro, 0⟩ -- R90
def ISL_STK_FAULT_VALID : Fld := ⟨0x10330, 0x1000, 32, 31, 1, .ro, 0⟩ -- R90
def ISL_STK_FAULT_D : Fld := ⟨0x10334, 0x1000, 32, 0, 32, .ro, 0⟩ -- R90
def ISL_STK_FAULT_E : Fld := ⟨0x10338, 0x1000, 32, 0, 32, .ro, 0⟩ -- R90
def ISL_STK_FAULT_M : Fld := ⟨0x1033C, 0x1000, 32, 0, 32, .ro, 0⟩ -- R90
def ISL_BUBBLE_CYC : Fld := ⟨0x10340, 0x1000, 32, 0, 32, .rc, 0⟩ -- R90
def ISL_BYP_INSTR : Fld := ⟨0x10344, 0x1000, 32, 0, 32, .rc, 0⟩ -- R90
def ISL_ARR_TILES : Fld := ⟨0x10348, 0x1000, 32, 0, 32, .rc, 0⟩ -- R90
def ISL_BSH_PAR : Fld := ⟨0x10380, 0x1000, 32, 0, 32, .rc, 0⟩ -- R122
def ISL_BSH_REFETCH : Fld := ⟨0x10384, 0x1000, 32, 0, 32, .rc, 0⟩ -- R122
def ISL_BSH_REPLAY : Fld := ⟨0x10388, 0x1000, 32, 0, 32, .rc, 0⟩ -- R122
def ISL_BSH_BANK : Fld := ⟨0x1038C, 0x1000, 32, 0, 32, .rc, 0⟩ -- R122
def ISL_BSH_MERGE : Fld := ⟨0x10390, 0x1000, 32, 0, 32, .rc, 0⟩ -- R122
def ISL_BSH_SHORT : Fld := ⟨0x10394, 0x1000, 32, 0, 32, .rc, 0⟩ -- R122
def ISL_BSH_REQ : Fld := ⟨0x10398, 0x1000, 32, 0, 32, .rc, 0⟩ -- R122
def ISL_BSH_PAD : Fld := ⟨0x1039C, 0x1000, 32, 0, 32, .rc, 0⟩ -- R122
def ISL_BSH_FAULT_BUSHEL : Fld := ⟨0x103A0, 0x1000, 32, 0, 10, .ro, 0⟩ -- R122
def ISL_BSH_FAULT_CAUSE : Fld := ⟨0x103A0, 0x1000, 32, 10, 4, .ro, 0⟩ -- R122
def ISL_BSH_FAULT_ENG : Fld := ⟨0x103A0, 0x1000, 32, 14, 1, .ro, 0⟩ -- R122
def ISL_BSH_FAULT_WORD : Fld := ⟨0x103A0, 0x1000, 32, 15, 6, .ro, 0⟩ -- R122
def ISL_BSH_FAULT_VALID : Fld := ⟨0x103A0, 0x1000, 32, 31, 1, .ro, 0⟩ -- R122
def ISL_BSH_FAULT_A_ADDR : Fld := ⟨0x103A4, 0x1000, 32, 0, 21, .ro, 0⟩ -- R122
def ISL_BSH_CTRL_FCLR : Fld := ⟨0x103A8, 0x1000, 32, 0, 1, .wo, 0⟩ -- R122
def ISL_FAB_SLOT_SLOT : Fld := ⟨0x10400, 0x1000, 32, 0, 4, .ro, 0⟩ -- R152
def ISL_FAB_SLOT_LEN : Fld := ⟨0x10400, 0x1000, 32, 4, 4, .ro, 0⟩ -- R152
def ISL_FAB_SLOT_RUN : Fld := ⟨0x10400, 0x1000, 32, 8, 1, .ro, 0⟩ -- R152
def ISL_FAB_HOLD_OWN : Fld := ⟨0x10404, 0x1000, 32, 0, 1, .ro, 0⟩ -- R152
def ISL_FAB_HOLD_IN : Fld := ⟨0x10404, 0x1000, 32, 1, 1, .ro, 0⟩ -- R152
def ISL_FAB_HOLD_TREE : Fld := ⟨0x10404, 0x1000, 32, 2, 4, .ro, 0⟩ -- R152
def ISL_FAB_HOLD_ROOT : Fld := ⟨0x10404, 0x1000, 32, 6, 1, .ro, 0⟩ -- R152
def ISL_FAB_HOLD_CAUSE : Fld := ⟨0x10404, 0x1000, 32, 7, 4, .ro, 0⟩ -- R152
def ISL_FAB_PAR : Fld := ⟨0x10408, 0x1000, 32, 0, 32, .rc, 0⟩ -- R152
def ISL_FAB_RTAG : Fld := ⟨0x1040C, 0x1000, 32, 0, 32, .rc, 0⟩ -- R152
def ISL_FAB_SLACK : Fld := ⟨0x10410, 0x1000, 32, 0, 32, .rc, 0⟩ -- R152
def ISL_FAB_HWM_OCC : Fld := ⟨0x10414, 0x1000, 32, 0, 6, .rc, 0⟩ -- R152
def ISL_FAB_FRZ_LIMIT : Fld := ⟨0x10418, 0x1000, 32, 0, 32, .rw, 16777216⟩ -- R152
def ISL_FAB_FAULT_POS : Fld := ⟨0x1041C, 0x1000, 32, 0, 6, .ro, 0⟩ -- R152
def ISL_FAB_FAULT_CAUSE : Fld := ⟨0x1041C, 0x1000, 32, 6, 4, .ro, 0⟩ -- R152
def ISL_FAB_FAULT_PORT : Fld := ⟨0x1041C, 0x1000, 32, 10, 3, .ro, 0⟩ -- R152
def ISL_FAB_FAULT_CODE : Fld := ⟨0x1041C, 0x1000, 32, 13, 4, .ro, 0⟩ -- R152
def ISL_FAB_FAULT_SRC : Fld := ⟨0x1041C, 0x1000, 32, 17, 1, .ro, 0⟩ -- R152
def ISL_FAB_FAULT_VALID : Fld := ⟨0x1041C, 0x1000, 32, 31, 1, .ro, 0⟩ -- R152
def ISL_FAB_FAULT_T_INFO : Fld := ⟨0x10420, 0x1000, 32, 0, 8, .ro, 0⟩ -- R152
def ISL_FAB_CTRL_FCLR : Fld := ⟨0x10424, 0x1000, 32, 0, 1, .wo, 0⟩ -- R152
def ISL_WV_RND : Fld := ⟨0x10440, 0x1000, 32, 0, 32, .ro, 0⟩ -- R178
def ISL_FRZ_FAULT : Fld := ⟨0x10444, 0x1000, 32, 0, 32, .ro, 0⟩ -- R178
def ISL_FRZ_PARITY : Fld := ⟨0x10448, 0x1000, 32, 0, 32, .ro, 0⟩ -- R178
def ISL_FRZ_THROTTLE : Fld := ⟨0x1044C, 0x1000, 32, 0, 32, .ro, 0⟩ -- R178
def ISL_FRZ_MEM : Fld := ⟨0x10450, 0x1000, 32, 0, 32, .ro, 0⟩ -- R178
def ISL_FRZ_CHECK : Fld := ⟨0x10454, 0x1000, 32, 0, 32, .ro, 0⟩ -- R178
def ISL_FRZ_SCHED : Fld := ⟨0x10458, 0x1000, 32, 0, 32, .ro, 0⟩ -- R178
def ISL_FRZ_SKIP : Fld := ⟨0x1045C, 0x1000, 32, 0, 32, .ro, 0⟩ -- R178
def ISL_FRZ_STEP : Fld := ⟨0x10460, 0x1000, 32, 0, 32, .ro, 0⟩ -- R178
def ISL_FRZ_XDRY : Fld := ⟨0x10464, 0x1000, 32, 0, 32, .ro, 0⟩ -- R178
def ISL_FRZ_XFULL : Fld := ⟨0x10468, 0x1000, 32, 0, 32, .ro, 0⟩ -- R178
def ISL_FRZ_SKEW : Fld := ⟨0x1046C, 0x1000, 32, 0, 32, .ro, 0⟩ -- R178
def ISL_WV_TAIL : Fld := ⟨0x10470, 0x1000, 32, 0, 32, .ro, 0⟩ -- R178
def ISL_WV_STAGGER : Fld := ⟨0x10474, 0x1000, 32, 0, 32, .ro, 0⟩ -- R178
def ISL_WV_TIME_NS : Fld := ⟨0x10478, 0x1000, 32, 0, 32, .ro, 0⟩ -- R178
def ISL_WV_EXTRA : Fld := ⟨0x1047C, 0x1000, 32, 0, 32, .ro, 0⟩ -- R178
def ISL_WV_STAT_BIND : Fld := ⟨0x10480, 0x1000, 32, 0, 5, .ro, 0⟩ -- R178
def ISL_WV_STAT_RUN : Fld := ⟨0x10480, 0x1000, 32, 5, 1, .ro, 0⟩ -- R178
def ISL_WV_STAT_WREL : Fld := ⟨0x10480, 0x1000, 32, 6, 5, .ro, 0⟩ -- R178
def ISL_WV_STAT_STEPS : Fld := ⟨0x10480, 0x1000, 32, 11, 5, .ro, 0⟩ -- R178
def ISL_WV_STAT_LOG_OVF : Fld := ⟨0x10480, 0x1000, 32, 16, 1, .ro, 0⟩ -- R178
def ISL_STEP_ROUND : Fld := ⟨0x10500, 0x1000, 32, 0, 32, .ro, 0⟩ -- R179
def ISL_STEP_FRZ : Fld := ⟨0x10504, 0x1000, 32, 0, 32, .ro, 0⟩ -- R179
def ISL_STEP_F_OLD : Fld := ⟨0x10508, 0x1000, 32, 0, 16, .ro, 0⟩ -- R179
def ISL_STEP_F_NEW : Fld := ⟨0x10508, 0x1000, 32, 16, 16, .ro, 0⟩ -- R179
def ISL_STEP_GAP_NS : Fld := ⟨0x1050C, 0x1000, 32, 0, 16, .ro, 0⟩ -- R179
def WVE_PMASK : Fld := ⟨0x2100, 0x4, 8, 0, 32, .rw, 0⟩ -- R180
def WVE_LOAD_FAULT_CODE : Fld := ⟨0x2120, 0x1000, 1, 0, 8, .ro, 0⟩ -- R180
def WVE_LOAD_FAULT_BIND : Fld := ⟨0x2120, 0x1000, 1, 8, 5, .ro, 0⟩ -- R180
def WVE_LOAD_FAULT_WISL : Fld := ⟨0x2120, 0x1000, 1, 13, 5, .ro, 0⟩ -- R180
def WVE_LOAD_FAULT_POS : Fld := ⟨0x2120, 0x1000, 1, 18, 6, .ro, 0⟩ -- R180
def WVE_LOAD_FAULT_UNIT : Fld := ⟨0x2120, 0x1000, 1, 24, 2, .ro, 0⟩ -- R180
def WVE_LOAD_FAULT_ENG : Fld := ⟨0x2120, 0x1000, 1, 26, 1, .ro, 0⟩ -- R180
def WVE_LOAD_FAULT_VALID : Fld := ⟨0x2120, 0x1000, 1, 31, 1, .ro, 0⟩ -- R180
def WVE_LOAD_FAULT_W_INDEX : Fld := ⟨0x2124, 0x1000, 1, 0, 16, .ro, 0⟩ -- R180
def WVE_LOAD_ASK : Fld := ⟨0x2128, 0x1000, 1, 0, 32, .ro, 0⟩ -- R180
def WVE_LOAD_AVAIL : Fld := ⟨0x212C, 0x1000, 1, 0, 32, .ro, 0⟩ -- R180
def WVE_RUN_FAULT_CODE : Fld := ⟨0x2130, 0x1000, 1, 0, 8, .ro, 0⟩ -- R180
def WVE_RUN_FAULT_BIND : Fld := ⟨0x2130, 0x1000, 1, 8, 5, .ro, 0⟩ -- R180
def WVE_RUN_FAULT_WISL : Fld := ⟨0x2130, 0x1000, 1, 13, 5, .ro, 0⟩ -- R180
def WVE_RUN_FAULT_POS : Fld := ⟨0x2130, 0x1000, 1, 18, 6, .ro, 0⟩ -- R180
def WVE_RUN_FAULT_VALID : Fld := ⟨0x2130, 0x1000, 1, 31, 1, .ro, 0⟩ -- R180
def WVE_RUN_FAULT_V : Fld := ⟨0x2134, 0x1000, 1, 0, 32, .ro, 0⟩ -- R180
def WVE_FLT_CTRL_LCLR : Fld := ⟨0x2138, 0x1000, 1, 0, 1, .wo, 0⟩ -- R180
def WVE_FLT_CTRL_RCLR : Fld := ⟨0x2138, 0x1000, 1, 1, 1, .wo, 0⟩ -- R180
def WVE_BIND_PART : Fld := ⟨0x2200, 0x10, 32, 0, 3, .ro, 0⟩ -- R180
def WVE_BIND_STATE : Fld := ⟨0x2200, 0x10, 32, 3, 4, .ro, 0⟩ -- R180
def WVE_BIND_VAR : Fld := ⟨0x2200, 0x10, 32, 7, 3, .ro, 0⟩ -- R180
def WVE_BIND_CARRY : Fld := ⟨0x2200, 0x10, 32, 10, 1, .ro, 0⟩ -- R180
def WVE_BIND_GEN : Fld := ⟨0x2204, 0x10, 32, 0, 32, .ro, 0⟩ -- R180
def WVE_BIND_PLACE : Fld := ⟨0x2208, 0x10, 32, 0, 32, .ro, 0⟩ -- R180
def WVE_BIND_PLACE_NEW : Fld := ⟨0x220C, 0x10, 32, 0, 32, .ro, 0⟩ -- R180
def WVE_BIND_IMG_LO : Fld := ⟨0x2400, 0x8, 32, 0, 32, .ro, 0⟩ -- R180
def WVE_BIND_IMG_HI : Fld := ⟨0x2404, 0x8, 32, 0, 20, .ro, 0⟩ -- R180
def XLT_MIG_CTRL_EN : Fld := ⟨0x3100, 0x1000, 1, 0, 1, .rw, 1⟩ -- R212
def XLT_MIG_CTRL_PROM_EN : Fld := ⟨0x3100, 0x1000, 1, 1, 1, .rw, 1⟩ -- R212
def XLT_MIG_CTRL_DEM_EN : Fld := ⟨0x3100, 0x1000, 1, 2, 1, .rw, 1⟩ -- R212
def XLT_MIG_CTRL_MAX : Fld := ⟨0x3100, 0x1000, 1, 8, 8, .rw, 16⟩ -- R212
def XLT_HEAT_PERIOD : Fld := ⟨0x3104, 0x1000, 1, 0, 16, .rw, 1000⟩ -- R212
def XLT_HEAT_CFG_SHIFT : Fld := ⟨0x3108, 0x1000, 1, 0, 4, .rw, 1⟩ -- R212
def XLT_HEAT_CFG_PROM_THR : Fld := ⟨0x3108, 0x1000, 1, 16, 16, .rw, 512⟩ -- R212
def XLT_T2_LOW : Fld := ⟨0x310C, 0x1000, 1, 0, 32, .rw, 2048⟩ -- R212
def XLT_T2_HIGH : Fld := ⟨0x3110, 0x1000, 1, 0, 32, .rw, 4096⟩ -- R212
def XLT_YIELD_WAIT : Fld := ⟨0x3114, 0x1000, 1, 0, 16, .rw, 200⟩ -- R212
def XLT_PRIV_PA : Fld := ⟨0x3118, 0x1000, 1, 0, 3, .rw, 0⟩ -- R212
def XLT_PRIV_PA_V : Fld := ⟨0x3118, 0x1000, 1, 3, 1, .rw, 0⟩ -- R212
def XLT_PRIV_PB : Fld := ⟨0x3118, 0x1000, 1, 4, 3, .rw, 0⟩ -- R212
def XLT_PRIV_PB_V : Fld := ⟨0x3118, 0x1000, 1, 7, 1, .rw, 0⟩ -- R212
def XLT_POOL_T2 : Fld := ⟨0x311C, 0x1000, 1, 0, 32, .rw, 0⟩ -- R212
def XLT_POOL_T3 : Fld := ⟨0x3120, 0x1000, 1, 0, 32, .rw, 0⟩ -- R212
def XLT_POOL_T2_USED : Fld := ⟨0x3124, 0x1000, 1, 0, 32, .ro, 0⟩ -- R212
def XLT_POOL_T3_USED : Fld := ⟨0x3128, 0x1000, 1, 0, 32, .ro, 0⟩ -- R212
def XLT_T2_RSV : Fld := ⟨0x312C, 0x1000, 1, 0, 32, .ro, 256⟩ -- R212
def XLT_TBL_FREE : Fld := ⟨0x3130, 0x1000, 1, 0, 32, .ro, 0⟩ -- R212
def XLT_T2_FREE : Fld := ⟨0x3134, 0x1000, 1, 0, 32, .ro, 0⟩ -- R212
def XLT_T3_FREE : Fld := ⟨0x3138, 0x1000, 1, 0, 32, .ro, 0⟩ -- R212
def XLT_T2_RETIRED : Fld := ⟨0x313C, 0x1000, 1, 0, 32, .ro, 0⟩ -- R212
def XLT_MIG_PROM : Fld := ⟨0x3140, 0x1000, 1, 0, 32, .rc, 0⟩ -- R212
def XLT_MIG_DEM : Fld := ⟨0x3144, 0x1000, 1, 0, 32, .rc, 0⟩ -- R212
def XLT_MIG_ABORT_WR : Fld := ⟨0x3148, 0x1000, 1, 0, 32, .rc, 0⟩ -- R212
def XLT_MIG_ABORT_ERR : Fld := ⟨0x314C, 0x1000, 1, 0, 32, .rc, 0⟩ -- R212
def XLT_ZFILL : Fld := ⟨0x3150, 0x1000, 1, 0, 32, .rc, 0⟩ -- R212
def XLT_REPAIR : Fld := ⟨0x3154, 0x1000, 1, 0, 32, .rc, 0⟩ -- R212
def XLT_POISONED : Fld := ⟨0x3158, 0x1000, 1, 0, 32, .rc, 0⟩ -- R212
def XLT_FLT_MERGE : Fld := ⟨0x315C, 0x1000, 1, 0, 32, .rc, 0⟩ -- R212
def XLT_FLT_TFULL : Fld := ⟨0x3160, 0x1000, 1, 0, 32, .rc, 0⟩ -- R212
def XLT_FLT_NOYIELD : Fld := ⟨0x3164, 0x1000, 1, 0, 32, .rc, 0⟩ -- R212
def XLT_EVICT : Fld := ⟨0x3168, 0x1000, 1, 0, 32, .rc, 0⟩ -- R212
def XLT_ROOT_FRAME : Fld := ⟨0x3200, 0x40, 8, 0, 23, .ro, 0⟩ -- R212
def XLT_ROOT_VALID : Fld := ⟨0x3200, 0x40, 8, 31, 1, .ro, 0⟩ -- R212
def XLT_Q_T1 : Fld := ⟨0x3204, 0x40, 8, 0, 11, .rw, 0⟩ -- R212
def XLT_Q_T2 : Fld := ⟨0x3208, 0x40, 8, 0, 32, .rw, 0⟩ -- R212
def XLT_Q_T3 : Fld := ⟨0x320C, 0x40, 8, 0, 32, .rw, 0⟩ -- R212
def XLT_U_T1 : Fld := ⟨0x3210, 0x40, 8, 0, 32, .ro, 0⟩ -- R212
def XLT_U_T2 : Fld := ⟨0x3214, 0x40, 8, 0, 32, .ro, 0⟩ -- R212
def XLT_U_T3 : Fld := ⟨0x3218, 0x40, 8, 0, 32, .ro, 0⟩ -- R212
def XLT_PU_T2 : Fld := ⟨0x321C, 0x40, 8, 0, 32, .ro, 0⟩ -- R212
def XLT_PU_T3 : Fld := ⟨0x3220, 0x40, 8, 0, 32, .ro, 0⟩ -- R212
def XLT_FLOG_BASE_LO_ADDR : Fld := ⟨0x3224, 0x40, 8, 13, 19, .rw, 0⟩ -- R212
def XLT_FLOG_BASE_HI_ADDR : Fld := ⟨0x3228, 0x40, 8, 0, 20, .rw, 0⟩ -- R212
def XLT_FLOG_WR : Fld := ⟨0x322C, 0x40, 8, 0, 32, .ro, 0⟩ -- R212
def XLT_FLOG_RD : Fld := ⟨0x3230, 0x40, 8, 0, 32, .rw, 0⟩ -- R212
def XLT_RESOLVE : Fld := ⟨0x3234, 0x40, 8, 0, 32, .wo, 0⟩ -- R212
def XLT_FAILSEQ : Fld := ⟨0x3238, 0x40, 8, 0, 32, .wo, 0⟩ -- R212
def XLT_FLT_CTRL_RETRY_ALL : Fld := ⟨0x323C, 0x40, 8, 0, 1, .wo, 0⟩ -- R212
def XLT_FLT_CTRL_FAIL_ALL : Fld := ⟨0x323C, 0x40, 8, 1, 1, .wo, 0⟩ -- R212
def XLT_FLT_CTRL_LOG_OK : Fld := ⟨0x323C, 0x40, 8, 2, 1, .ro, 0⟩ -- R212
def T2C_ARV_TILES : Fld := ⟨0x38300, 0x1000, 8, 0, 32, .rc, 0⟩ -- R236
def T2C_ARV_IN : Fld := ⟨0x38304, 0x1000, 8, 0, 32, .rc, 0⟩ -- R236
def T2C_ARV_OUT : Fld := ⟨0x38308, 0x1000, 8, 0, 32, .rc, 0⟩ -- R236
def T2C_ARV_DIGFAIL : Fld := ⟨0x3830C, 0x1000, 8, 0, 32, .rc, 0⟩ -- R236
def T2C_ARV_DECFAIL : Fld := ⟨0x38310, 0x1000, 8, 0, 32, .rc, 0⟩ -- R236
def T2C_ARV_STAT_BUSY : Fld := ⟨0x38314, 0x1000, 8, 0, 1, .ro, 0⟩ -- R236
def T2C_ARV_STAT_INFL : Fld := ⟨0x38314, 0x1000, 8, 1, 4, .ro, 0⟩ -- R236
def T2C_ARV_LASTFAIL : Fld := ⟨0x38318, 0x1000, 8, 0, 32, .ro, 0⟩ -- R236
def WVE_HSET : Fld := ⟨0x2600, 0x4, 8, 0, 32, .rw, 0⟩ -- R237
def WVE_HS_EVICT : Fld := ⟨0x2620, 0x1000, 1, 0, 32, .rc, 0⟩ -- R237
def WVE_HS_LAST_BIND : Fld := ⟨0x2624, 0x1000, 1, 0, 5, .ro, 0⟩ -- R237
def WVE_HS_LAST_VALID : Fld := ⟨0x2624, 0x1000, 1, 31, 1, .ro, 0⟩ -- R237
def CMD_RING_BASE_LO_ADDR : Fld := ⟨0x1100, 0x20, 64, 12, 20, .rw, 0⟩ -- R265
def CMD_RING_BASE_HI_ADDR : Fld := ⟨0x1104, 0x20, 64, 0, 20, .rw, 0⟩ -- R265
def CMD_RING_CFG_LOG2SIZE : Fld := ⟨0x1108, 0x20, 64, 0, 5, .rw, 6⟩ -- R265
def CMD_RING_CFG_EN : Fld := ⟨0x1108, 0x20, 64, 5, 1, .rw, 0⟩ -- R265
def CMD_RING_CFG_STATE : Fld := ⟨0x1108, 0x20, 64, 6, 2, .ro, 0⟩ -- R265
def CMD_RING_CFG_BYLD : Fld := ⟨0x1108, 0x20, 64, 8, 1, .wo, 0⟩ -- R265
def CMD_RING_CFG_BRES : Fld := ⟨0x1108, 0x20, 64, 9, 1, .wo, 0⟩ -- R265
def CMD_RING_CFG_RESET : Fld := ⟨0x1108, 0x20, 64, 10, 1, .wo, 0⟩ -- R265
def CMD_RING_CFG_IRQ : Fld := ⟨0x1108, 0x20, 64, 11, 1, .w1c, 0⟩ -- R265
def CMD_RING_CFG_ERR : Fld := ⟨0x1108, 0x20, 64, 16, 8, .ro, 0⟩ -- R265
def CMD_RING_DB : Fld := ⟨0x110C, 0x20, 64, 0, 32, .wo, 0⟩ -- R265
def CMD_RING_HEAD : Fld := ⟨0x1110, 0x20, 64, 0, 32, .ro, 0⟩ -- R265
def CMD_RING_CQ_HEAD : Fld := ⟨0x1114, 0x20, 64, 0, 32, .rw, 0⟩ -- R265
def CMD_RING_LOW : Fld := ⟨0x1118, 0x20, 64, 0, 32, .ro, 0⟩ -- R265
def CMD_RING_COAL_CNT : Fld := ⟨0x111C, 0x20, 64, 0, 8, .rw, 1⟩ -- R265
def CMD_RING_COAL_TIME : Fld := ⟨0x111C, 0x20, 64, 8, 16, .rw, 0⟩ -- R265
def CMD_PART_SHARE_W : Fld := ⟨0x1900, 0x20, 8, 0, 8, .rw, 1⟩ -- R265
def CMD_PART_REG_T2_RATE : Fld := ⟨0x1904, 0x20, 8, 0, 16, .rw, 0⟩ -- R265
def CMD_PART_REG_T2_BURST : Fld := ⟨0x1904, 0x20, 8, 16, 16, .rw, 1024⟩ -- R265
def CMD_PART_REG_T3 : Fld := ⟨0x1908, 0x20, 8, 0, 32, .rw, 67108864⟩ -- R265
def CMD_PART_REG_SKL : Fld := ⟨0x190C, 0x20, 8, 0, 32, .rw, 67108864⟩ -- R265
def CMD_PART_LED_ISL_LO : Fld := ⟨0x1910, 0x20, 8, 0, 32, .ro, 0⟩ -- R265
def CMD_PART_LED_ISL_HI : Fld := ⟨0x1914, 0x20, 8, 0, 32, .ro, 0⟩ -- R265
def CMD_PART_LED_PB_LO : Fld := ⟨0x1918, 0x20, 8, 0, 32, .ro, 0⟩ -- R265
def CMD_PART_LED_PB_HI : Fld := ⟨0x191C, 0x20, 8, 0, 32, .ro, 0⟩ -- R265
def CMD_COL_USE : Fld := ⟨0x1A00, 0x1000, 1, 0, 13, .ro, 0⟩ -- R265
def CMD_COL_WAIT : Fld := ⟨0x1A04, 0x1000, 1, 0, 32, .rc, 0⟩ -- R265
def CMD_YLD_FULL : Fld := ⟨0x1A08, 0x1000, 1, 0, 32, .rc, 0⟩ -- R265
def CMD_YLD_REFUSE : Fld := ⟨0x1A0C, 0x1000, 1, 0, 32, .rc, 0⟩ -- R265
def CMD_YLD_BOUND : Fld := ⟨0x1A10, 0x1000, 1, 0, 32, .rc, 0⟩ -- R265
def CMD_SEM_SEL_IDX : Fld := ⟨0x1A14, 0x1000, 1, 0, 8, .rw, 0⟩ -- R265
def CMD_SEM_SEL_PART : Fld := ⟨0x1A14, 0x1000, 1, 8, 3, .rw, 0⟩ -- R265
def CMD_SEM_VAL : Fld := ⟨0x1A18, 0x1000, 1, 0, 32, .rw, 0⟩ -- R265
def CMD_SEM_ERR_ERR : Fld := ⟨0x1A1C, 0x1000, 1, 0, 1, .w1c, 0⟩ -- R265
def CMD_LED_CLR : Fld := ⟨0x1A20, 0x1000, 1, 0, 8, .wo, 0⟩ -- R265
def SMP_SLOT_OPEN : Fld := ⟨0x4100, 0x4, 4, 0, 32, .ro, 0⟩ -- R294
def SMP_SLOT_Q_MAX : Fld := ⟨0x4110, 0x4, 8, 0, 8, .rw, 16⟩ -- R294
def SMP_PICKS : Fld := ⟨0x4130, 0x1000, 1, 0, 32, .rc, 0⟩ -- R294
def SMP_VERIFIES : Fld := ⟨0x4134, 0x1000, 1, 0, 32, .rc, 0⟩ -- R294
def SMP_DRAFT_PROP : Fld := ⟨0x4138, 0x1000, 1, 0, 32, .rc, 0⟩ -- R294
def SMP_DRAFT_ACC : Fld := ⟨0x413C, 0x1000, 1, 0, 32, .rc, 0⟩ -- R294
def SMP_IMPLK : Fld := ⟨0x4140, 0x1000, 1, 0, 32, .rc, 0⟩ -- R294
def SMP_TOPP_SHORT : Fld := ⟨0x4144, 0x1000, 1, 0, 32, .rc, 0⟩ -- R294
def SMP_CNT_SPILL : Fld := ⟨0x4148, 0x1000, 1, 0, 32, .rc, 0⟩ -- R294
def SMP_CNT_LOST : Fld := ⟨0x414C, 0x1000, 1, 0, 32, .rc, 0⟩ -- R294
def SMP_EMPTYROW : Fld := ⟨0x4150, 0x1000, 1, 0, 32, .rc, 0⟩ -- R294
def SMP_NANLOG : Fld := ⟨0x4154, 0x1000, 1, 0, 32, .rc, 0⟩ -- R294
def SMP_STAT_BUSY : Fld := ⟨0x4158, 0x1000, 1, 0, 1, .ro, 0⟩ -- R294
def IDX_CFG_LOG2NODES : Fld := ⟨0x5200, 0x40, 8, 0, 5, .ro, 0⟩ -- R295
def IDX_CFG_BLKSZ : Fld := ⟨0x5200, 0x40, 8, 8, 8, .ro, 0⟩ -- R295
def IDX_CFG_VALID : Fld := ⟨0x5200, 0x40, 8, 31, 1, .ro, 0⟩ -- R295
def IDX_NODES : Fld := ⟨0x5204, 0x40, 8, 0, 32, .ro, 0⟩ -- R295
def IDX_RECL_WR : Fld := ⟨0x5208, 0x40, 8, 0, 32, .ro, 0⟩ -- R295
def IDX_RECL_RD : Fld := ⟨0x520C, 0x40, 8, 0, 32, .rw, 0⟩ -- R295
def IDX_LOOKUPS : Fld := ⟨0x5210, 0x40, 8, 0, 32, .rc, 0⟩ -- R295
def IDX_HITS : Fld := ⟨0x5214, 0x40, 8, 0, 32, .rc, 0⟩ -- R295
def IDX_INSERTED : Fld := ⟨0x5218, 0x40, 8, 0, 32, .rc, 0⟩ -- R295
def IDX_EVICTED : Fld := ⟨0x521C, 0x40, 8, 0, 32, .rc, 0⟩ -- R295
def IDX_EXPIRED : Fld := ⟨0x5220, 0x40, 8, 0, 32, .rc, 0⟩ -- R295
def IDX_DEMOTED : Fld := ⟨0x5224, 0x40, 8, 0, 32, .rc, 0⟩ -- R295
def IDX_PROMOTED : Fld := ⟨0x5228, 0x40, 8, 0, 32, .rc, 0⟩ -- R295
def IDX_MOVE_FAIL : Fld := ⟨0x522C, 0x40, 8, 0, 32, .rc, 0⟩ -- R295
def IDX_PAUSED : Fld := ⟨0x5230, 0x40, 8, 0, 32, .ro, 0⟩ -- R295
def IDX_POISONED : Fld := ⟨0x5234, 0x40, 8, 0, 32, .ro, 0⟩ -- R295
def GRP_BUILDS : Fld := ⟨0x6100, 0x1000, 1, 0, 32, .rc, 0⟩ -- R316
def GRP_CHOICES : Fld := ⟨0x6104, 0x1000, 1, 0, 32, .rc, 0⟩ -- R316
def GRP_ASSIGNED : Fld := ⟨0x6108, 0x1000, 1, 0, 32, .rc, 0⟩ -- R316
def GRP_DROPPED : Fld := ⟨0x610C, 0x1000, 1, 0, 32, .rc, 0⟩ -- R316
def GRP_SUBST : Fld := ⟨0x6110, 0x1000, 1, 0, 32, .rc, 0⟩ -- R316
def GRP_DEFERRED : Fld := ⟨0x6114, 0x1000, 1, 0, 32, .rc, 0⟩ -- R316
def GRP_DEADTOK : Fld := ⟨0x6118, 0x1000, 1, 0, 32, .rc, 0⟩ -- R316
def GRP_NANSC : Fld := ⟨0x611C, 0x1000, 1, 0, 32, .rc, 0⟩ -- R316
def GRP_FETCH : Fld := ⟨0x6120, 0x1000, 1, 0, 32, .rc, 0⟩ -- R316
def GRP_FETCH_FAIL : Fld := ⟨0x6124, 0x1000, 1, 0, 32, .rc, 0⟩ -- R316
def GRP_STAT_BUSY : Fld := ⟨0x6128, 0x1000, 1, 0, 1, .ro, 0⟩ -- R316
def SKL_LINK_CTRL_EN : Fld := ⟨0x50100, 0x1000, 32, 0, 1, .rw, 0⟩ -- R346
def SKL_LINK_CTRL_MAXRATE : Fld := ⟨0x50100, 0x1000, 32, 1, 1, .rw, 0⟩ -- R346
def SKL_LINK_CTRL_ALLOW_X4 : Fld := ⟨0x50100, 0x1000, 32, 2, 1, .rw, 1⟩ -- R346
def SKL_LINK_CTRL_OPEN : Fld := ⟨0x50100, 0x1000, 32, 3, 1, .rw, 1⟩ -- R346
def SKL_LINK_CTRL_RETRAIN : Fld := ⟨0x50100, 0x1000, 32, 4, 1, .wo, 0⟩ -- R346
def SKL_LINK_STAT_STATE : Fld := ⟨0x50104, 0x1000, 32, 0, 3, .ro, 0⟩ -- R346
def SKL_LINK_STAT_RATE : Fld := ⟨0x50104, 0x1000, 32, 3, 1, .ro, 0⟩ -- R346
def SKL_LINK_STAT_X4 : Fld := ⟨0x50104, 0x1000, 32, 4, 1, .ro, 0⟩ -- R346
def SKL_LINK_STAT_UPPER : Fld := ⟨0x50104, 0x1000, 32, 5, 1, .ro, 0⟩ -- R346
def SKL_LINK_STAT_PEER : Fld := ⟨0x50104, 0x1000, 32, 6, 6, .ro, 0⟩ -- R346
def SKL_LINK_STAT_PEER_SW : Fld := ⟨0x50104, 0x1000, 32, 12, 1, .ro, 0⟩ -- R346
def SKL_FEC_CORR : Fld := ⟨0x50108, 0x1000, 32, 0, 32, .rc, 0⟩ -- R346
def SKL_FEC_UNCORR : Fld := ⟨0x5010C, 0x1000, 32, 0, 32, .rc, 0⟩ -- R346
def SKL_CRC_ERR : Fld := ⟨0x50110, 0x1000, 32, 0, 32, .rc, 0⟩ -- R346
def SKL_REPLAY : Fld := ⟨0x50114, 0x1000, 32, 0, 32, .rc, 0⟩ -- R346
def SKL_DOWN_CNT : Fld := ⟨0x50118, 0x1000, 32, 0, 32, .rc, 0⟩ -- R346
def SKL_TX_FLITS : Fld := ⟨0x5011C, 0x1000, 32, 0, 32, .rc, 0⟩ -- R346
def SKL_RX_FLITS : Fld := ⟨0x50120, 0x1000, 32, 0, 32, .rc, 0⟩ -- R346
def SKL_SLICE_DROP : Fld := ⟨0x50124, 0x1000, 32, 0, 32, .rc, 0⟩ -- R346
def SKL_REG_DROP : Fld := ⟨0x50128, 0x1000, 32, 0, 32, .rc, 0⟩ -- R346
def SKL_MISWIRE : Fld := ⟨0x5012C, 0x1000, 32, 0, 32, .rc, 0⟩ -- R346
def SKL0_DOM_CTRL_EN : Fld := ⟨0x50800, 0x1000, 1, 0, 1, .rw, 0⟩ -- R347
def SKL0_DOM_CTRL_LEAD : Fld := ⟨0x50800, 0x1000, 1, 1, 1, .rw, 0⟩ -- R347
def SKL0_DOM_CTRL_IFWD : Fld := ⟨0x50800, 0x1000, 1, 2, 1, .rw, 0⟩ -- R347
def SKL0_DOM_ID : Fld := ⟨0x50804, 0x1000, 1, 0, 32, .rw, 0⟩ -- R347
def SKL0_DEV_DEVNUM : Fld := ⟨0x50808, 0x1000, 1, 0, 6, .rw, 0⟩ -- R347
def SKL0_DEV_SLOT : Fld := ⟨0x50808, 0x1000, 1, 6, 2, .ro, 0⟩ -- R347
def SKL0_DEV_TRAY : Fld := ⟨0x50808, 0x1000, 1, 8, 4, .ro, 0⟩ -- R347
def SKL0_DEV_SLICE : Fld := ⟨0x50808, 0x1000, 1, 12, 10, .rw, 0⟩ -- R347
def SKL0_DOM_LEAD_DEV : Fld := ⟨0x5080C, 0x1000, 1, 0, 6, .rw, 0⟩ -- R347
def SKL0_DOM_LEAD_VALID : Fld := ⟨0x5080C, 0x1000, 1, 6, 1, .rw, 0⟩ -- R347
def SKL0_RINT_LO : Fld := ⟨0x50810, 0x1000, 1, 0, 32, .w1c, 0⟩ -- R347
def SKL0_RINT_HI : Fld := ⟨0x50814, 0x1000, 1, 0, 32, .w1c, 0⟩ -- R347
def SKL0_ROSTER_SLICE : Fld := ⟨0x50840, 0x4, 64, 0, 10, .rw, 0⟩ -- R347
def SKL0_ROSTER_PRESENT : Fld := ⟨0x50840, 0x4, 64, 31, 1, .rw, 0⟩ -- R347
def SKL0_EXP_PART : Fld := ⟨0x50A00, 0x20, 32, 0, 3, .rw, 0⟩ -- R347
def SKL0_EXP_RD : Fld := ⟨0x50A00, 0x20, 32, 3, 1, .rw, 0⟩ -- R347
def SKL0_EXP_WR : Fld := ⟨0x50A00, 0x20, 32, 4, 1, .rw, 0⟩ -- R347
def SKL0_EXP_VALID : Fld := ⟨0x50A00, 0x20, 32, 31, 1, .rw, 0⟩ -- R347
def SKL0_EXP_NPAGES : Fld := ⟨0x50A04, 0x20, 32, 0, 24, .rw, 0⟩ -- R347
def SKL0_EXP_WBASE_LO : Fld := ⟨0x50A08, 0x20, 32, 0, 32, .rw, 0⟩ -- R347
def SKL0_EXP_WBASE_HI : Fld := ⟨0x50A0C, 0x20, 32, 0, 4, .rw, 0⟩ -- R347
def SKL0_EXP_DBASE_LO : Fld := ⟨0x50A10, 0x20, 32, 16, 16, .rw, 0⟩ -- R347
def SKL0_EXP_DBASE_HI : Fld := ⟨0x50A14, 0x20, 32, 0, 20, .rw, 0⟩ -- R347
def SKL0_EXP_IMASK_LO : Fld := ⟨0x50A18, 0x20, 32, 0, 32, .rw, 0⟩ -- R347
def SKL0_EXP_IMASK_HI : Fld := ⟨0x50A1C, 0x20, 32, 0, 32, .rw, 0⟩ -- R347
def COL_TIMEOUT : Fld := ⟨0x7100, 0x1000, 1, 0, 32, .rw, 10000⟩ -- R348
def COL_COLLS : Fld := ⟨0x7104, 0x1000, 1, 0, 32, .rc, 0⟩ -- R348
def COL_TIMEOUTS : Fld := ⟨0x7108, 0x1000, 1, 0, 32, .rc, 0⟩ -- R348
def COL_ABORTS : Fld := ⟨0x710C, 0x1000, 1, 0, 32, .rc, 0⟩ -- R348
def COL_CREDIT_WAIT : Fld := ⟨0x7110, 0x1000, 1, 0, 32, .rc, 0⟩ -- R348
def COL_STAGE_HWM : Fld := ⟨0x7114, 0x1000, 1, 0, 11, .rc, 0⟩ -- R348
def COL_GRP_STATE : Fld := ⟨0x7200, 0x8, 16, 0, 2, .ro, 0⟩ -- R348
def COL_GRP_NMEM : Fld := ⟨0x7200, 0x8, 16, 2, 7, .ro, 0⟩ -- R348
def COL_GRP_RANK : Fld := ⟨0x7200, 0x8, 16, 9, 6, .ro, 0⟩ -- R348
def COL_GRP_PART : Fld := ⟨0x7200, 0x8, 16, 15, 3, .ro, 0⟩ -- R348
def COL_GRP_NEXT_SEQ : Fld := ⟨0x7204, 0x8, 16, 0, 32, .ro, 0⟩ -- R348
def FUS_LINK_CTRL_MAXGEN : Fld := ⟨0xF100, 0x1000, 1, 0, 1, .rw, 0⟩ -- R365
def FUS_LINK_CTRL_RETRAIN : Fld := ⟨0xF100, 0x1000, 1, 1, 1, .wo, 0⟩ -- R365
def FUS_LINK_STAT_UP : Fld := ⟨0xF104, 0x1000, 1, 0, 1, .ro, 0⟩ -- R365
def FUS_LINK_STAT_GEN2 : Fld := ⟨0xF104, 0x1000, 1, 1, 1, .ro, 0⟩ -- R365
def FUS_LINK_STAT_X8 : Fld := ⟨0xF104, 0x1000, 1, 2, 1, .ro, 0⟩ -- R365
def FUS_LINK_STAT_DOWN_CNT : Fld := ⟨0xF104, 0x1000, 1, 16, 16, .ro, 0⟩ -- R365
def FUS_RECALL_TO : Fld := ⟨0xF108, 0x1000, 1, 0, 32, .rw, 1000⟩ -- R365
def FUS_HERR_CNT : Fld := ⟨0xF10C, 0x1000, 1, 0, 32, .rc, 0⟩ -- R365
def FUS_HERR_OFF_LO : Fld := ⟨0xF110, 0x1000, 1, 0, 32, .ro, 0⟩ -- R365
def FUS_HERR_OFF_HI : Fld := ⟨0xF114, 0x1000, 1, 0, 8, .ro, 0⟩ -- R365
def FUS_HERR_KIND : Fld := ⟨0xF114, 0x1000, 1, 8, 3, .ro, 0⟩ -- R365
def FUS_HERR_VALID : Fld := ⟨0xF114, 0x1000, 1, 31, 1, .w1c, 0⟩ -- R365
def FUS_APT_BASE_LO : Fld := ⟨0xF120, 0x8, 3, 0, 32, .ro, 0⟩ -- R365
def FUS_APT_BASE_HI : Fld := ⟨0xF124, 0x8, 3, 0, 32, .ro, 0⟩ -- R365
def FUS_HEXP_PART : Fld := ⟨0xF200, 0x20, 16, 0, 3, .rw, 0⟩ -- R365
def FUS_HEXP_RD : Fld := ⟨0xF200, 0x20, 16, 3, 1, .rw, 0⟩ -- R365
def FUS_HEXP_WR : Fld := ⟨0xF200, 0x20, 16, 4, 1, .rw, 0⟩ -- R365
def FUS_HEXP_VALID : Fld := ⟨0xF200, 0x20, 16, 31, 1, .rw, 0⟩ -- R365
def FUS_HEXP_HOFF : Fld := ⟨0xF204, 0x20, 16, 0, 24, .rw, 0⟩ -- R365
def FUS_HEXP_NPAGES : Fld := ⟨0xF208, 0x20, 16, 0, 24, .rw, 0⟩ -- R365
def FUS_HEXP_DBASE_LO : Fld := ⟨0xF210, 0x20, 16, 16, 16, .rw, 0⟩ -- R365
def FUS_HEXP_DBASE_HI : Fld := ⟨0xF214, 0x20, 16, 0, 20, .rw, 0⟩ -- R365
def FUS_IVEC_ADDR_LO : Fld := ⟨0xF400, 0x10, 64, 0, 32, .rw, 0⟩ -- R365
def FUS_IVEC_ADDR_HI : Fld := ⟨0xF404, 0x10, 64, 0, 32, .rw, 0⟩ -- R365
def FUS_IVEC_DATA : Fld := ⟨0xF408, 0x10, 64, 0, 32, .rw, 0⟩ -- R365
def FUS_IVEC_MASK : Fld := ⟨0xF40C, 0x10, 64, 0, 1, .rw, 1⟩ -- R365
def FUS_IVEC_PEND : Fld := ⟨0xF40C, 0x10, 64, 1, 1, .ro, 0⟩ -- R365
def FUS_MB_CTRL_H2R_GO : Fld := ⟨0xF800, 0x1000, 1, 0, 1, .w1s, 0⟩ -- R365
def FUS_MB_CTRL_R2H_FULL : Fld := ⟨0xF800, 0x1000, 1, 1, 1, .w1c, 0⟩ -- R365
def FUS_MB_H2R : Fld := ⟨0xF900, 0x4, 64, 0, 32, .rw, 0⟩ -- R365
def FUS_MB_R2H : Fld := ⟨0xFA00, 0x4, 64, 0, 32, .ro, 0⟩ -- R365
def CAP_CTRL_RESCAN : Fld := ⟨0x40100, 0x1000, 8, 0, 1, .wo, 0⟩ -- R366
def CAP_STAT_UP : Fld := ⟨0x40104, 0x1000, 8, 0, 1, .ro, 0⟩ -- R366
def CAP_STAT_MODE : Fld := ⟨0x40104, 0x1000, 8, 1, 2, .ro, 0⟩ -- R366
def CAP_STAT_X8 : Fld := ⟨0x40104, 0x1000, 8, 3, 1, .ro, 0⟩ -- R366
def CAP_STAT_CAUSE : Fld := ⟨0x40104, 0x1000, 8, 4, 4, .ro, 0⟩ -- R366
def CAP_FRAMES : Fld := ⟨0x40108, 0x1000, 8, 0, 32, .ro, 0⟩ -- R366
def CAP_SERIAL_LO : Fld := ⟨0x40110, 0x1000, 8, 0, 32, .ro, 0⟩ -- R366
def CAP_SERIAL_HI : Fld := ⟨0x40114, 0x1000, 8, 0, 32, .ro, 0⟩ -- R366
def CAP_TAG_ERR : Fld := ⟨0x40118, 0x1000, 8, 0, 32, .rc, 0⟩ -- R366
def CAP_OFFLINE_CNT : Fld := ⟨0x4011C, 0x1000, 8, 0, 32, .rc, 0⟩ -- R366
def ETH_LINK_CTRL_SPEED : Fld := ⟨0x48100, 0x1000, 2, 0, 2, .rw, 0⟩ -- R367
def ETH_LINK_CTRL_EN : Fld := ⟨0x48100, 0x1000, 2, 2, 1, .rw, 0⟩ -- R367
def ETH_LINK_STAT_UP : Fld := ⟨0x48104, 0x1000, 2, 0, 1, .ro, 0⟩ -- R367
def ETH_QP_SEL_QP : Fld := ⟨0x48108, 0x1000, 2, 0, 9, .rw, 0⟩ -- R367
def ETH_QP_SEL_PART : Fld := ⟨0x48108, 0x1000, 2, 9, 3, .rw, 0⟩ -- R367
def ETH_QP_DB : Fld := ⟨0x4810C, 0x1000, 2, 0, 32, .wo, 0⟩ -- R367
def ETH_RX_FRAMES : Fld := ⟨0x48110, 0x1000, 2, 0, 32, .rc, 0⟩ -- R367
def ETH_TX_FRAMES : Fld := ⟨0x48114, 0x1000, 2, 0, 32, .rc, 0⟩ -- R367
def ETH_FEC_UNCORR : Fld := ⟨0x48118, 0x1000, 2, 0, 32, .rc, 0⟩ -- R367
def ETH_PFC_PAUSE : Fld := ⟨0x4811C, 0x1000, 2, 0, 32, .rc, 0⟩ -- R367
def PWR_CAP_CTRL_LIMIT : Fld := ⟨0x8100, 0x1000, 1, 0, 16, .rw, 0⟩ -- R389
def PWR_PKG_W : Fld := ⟨0x8104, 0x1000, 1, 0, 16, .ro, 0⟩ -- R389
def PWR_EFF_CAP : Fld := ⟨0x8104, 0x1000, 1, 16, 16, .ro, 0⟩ -- R389
def PWR_ENERGY_LO : Fld := ⟨0x8108, 0x1000, 1, 0, 32, .ro, 0⟩ -- R389
def PWR_ENERGY_HI : Fld := ⟨0x810C, 0x1000, 1, 0, 32, .ro, 0⟩ -- R389
def PWR_OVERRUN : Fld := ⟨0x8110, 0x1000, 1, 0, 32, .rc, 0⟩ -- R389
def PWR_OVR_MAX : Fld := ⟨0x8114, 0x1000, 1, 0, 16, .rc, 0⟩ -- R389
def PWR_RAMP_BUDGET : Fld := ⟨0x8118, 0x1000, 1, 0, 10, .rw, 200⟩ -- R389
def PWR_PART_FMAX : Fld := ⟨0x811C, 0x4, 8, 0, 6, .rw, 0⟩ -- R389
def PWR_THERM_WARN : Fld := ⟨0x813C, 0x1000, 1, 0, 8, .rw, 90⟩ -- R389
def PWR_THERM_THROT : Fld := ⟨0x813C, 0x1000, 1, 8, 8, .rw, 100⟩ -- R389
def PWR_THERM_CTRL_SREL : Fld := ⟨0x8140, 0x1000, 1, 0, 1, .wo, 0⟩ -- R389
def PWR_STAT_BRAKE : Fld := ⟨0x8144, 0x1000, 1, 0, 1, .ro, 0⟩ -- R389
def PWR_STAT_SLOPE : Fld := ⟨0x8144, 0x1000, 1, 1, 1, .ro, 0⟩ -- R389
def PWR_STAT_DEEP : Fld := ⟨0x8144, 0x1000, 1, 2, 1, .ro, 0⟩ -- R389
def PWR_STAT_HBLOST : Fld := ⟨0x8144, 0x1000, 1, 3, 1, .ro, 0⟩ -- R389
def PWR_STAT_SAFE : Fld := ⟨0x8144, 0x1000, 1, 4, 1, .ro, 0⟩ -- R389
def PWR_STAT_PFHALT : Fld := ⟨0x8144, 0x1000, 1, 5, 1, .ro, 0⟩ -- R389
def PWR_STAT_D : Fld := ⟨0x8144, 0x1000, 1, 6, 4, .ro, 0⟩ -- R389
def PWR_STAT_POINT : Fld := ⟨0x8144, 0x1000, 1, 10, 6, .ro, 0⟩ -- R389
def PWR_STAT_SLOPE_V : Fld := ⟨0x8144, 0x1000, 1, 16, 16, .ro, 0⟩ -- R389
def PWR_HB : Fld := ⟨0x8148, 0x1000, 1, 0, 32, .wo, 0⟩ -- R389
def PWR_HB_CTRL_EN : Fld := ⟨0x814C, 0x1000, 1, 0, 1, .rw, 0⟩ -- R389
def PWR_HB_CTRL_TIMEOUT : Fld := ⟨0x814C, 0x1000, 1, 1, 15, .rw, 500⟩ -- R389
def PWR_HB_CTRL_HOLD : Fld := ⟨0x814C, 0x1000, 1, 16, 16, .rw, 10⟩ -- R389
def PWR_SAFE_PCT : Fld := ⟨0x8150, 0x1000, 1, 0, 7, .rw, 60⟩ -- R389
def PWR_PFAIL_CTRL_GRACE : Fld := ⟨0x8154, 0x1000, 1, 0, 11, .rw, 500⟩ -- R389
def PWR_PFAIL_CTRL_BRK : Fld := ⟨0x8154, 0x1000, 1, 11, 1, .rw, 1⟩ -- R389
def PWR_CREC_PORT : Fld := ⟨0x8158, 0x1000, 1, 0, 3, .rw, 0⟩ -- R389
def PWR_CREC_SEG : Fld := ⟨0x8158, 0x1000, 1, 3, 20, .rw, 0⟩ -- R389
def PWR_CREC_VALID : Fld := ⟨0x8158, 0x1000, 1, 23, 1, .ro, 0⟩ -- R389
def PWR_CREC_ACK : Fld := ⟨0x8158, 0x1000, 1, 24, 1, .wo, 0⟩ -- R389
def PWR_BRAKE_CNT : Fld := ⟨0x815C, 0x1000, 1, 0, 32, .rc, 0⟩ -- R389
def PWR_TRIP_CNT : Fld := ⟨0x8160, 0x1000, 1, 0, 32, .ro, 0⟩ -- R389
def PWR_PF_CNT : Fld := ⟨0x8164, 0x1000, 1, 0, 32, .ro, 0⟩ -- R389
def PWR_HOT_IDX : Fld := ⟨0x8168, 0x1000, 1, 0, 8, .ro, 0⟩ -- R389
def PWR_HOT_TEMP : Fld := ⟨0x8168, 0x1000, 1, 8, 12, .ro, 0⟩ -- R389
def PWR_TTGT : Fld := ⟨0x81C0, 0x4, 8, 0, 6, .ro, 0⟩ -- R389
def SCL_TEMP_VAL : Fld := ⟨0x9100, 0x4, 176, 0, 12, .ro, 0⟩ -- R390
def SCL_TEMP_VALID : Fld := ⟨0x9100, 0x4, 176, 12, 1, .ro, 0⟩ -- R390
def SCL_DROOP : Fld := ⟨0x9400, 0x4, 40, 0, 32, .rc, 0⟩ -- R390
def SCL_DMON_WORST : Fld := ⟨0x9500, 0x4, 96, 0, 10, .rc, 0⟩ -- R390
def SCL_PMON_SPEED : Fld := ⟨0x9700, 0x4, 48, 0, 16, .ro, 0⟩ -- R390
def SCL_BAD_CNT : Fld := ⟨0x97C0, 0x1000, 1, 0, 32, .ro, 0⟩ -- R390
def CLK_REF_STAT_LOST : Fld := ⟨0xA100, 0x1000, 1, 0, 1, .ro, 0⟩ -- R405
def CLK_REF_STAT_AO_INT : Fld := ⟨0xA100, 0x1000, 1, 1, 1, .ro, 1⟩ -- R405
def CLK_STEP_CNT : Fld := ⟨0xA104, 0x1000, 1, 0, 32, .rc, 0⟩ -- R405
def CLK_GAP_MAX : Fld := ⟨0xA108, 0x1000, 1, 0, 32, .rc, 0⟩ -- R405
def CLK_PREP_MAX : Fld := ⟨0xA10C, 0x1000, 1, 0, 32, .rc, 0⟩ -- R405
def CLK_FREQ_MHZ : Fld := ⟨0xA140, 0x4, 40, 0, 16, .ro, 1000⟩ -- R405
def CLK_DROOP_THR_MV : Fld := ⟨0xA200, 0x4, 40, 0, 7, .rw, 45⟩ -- R405
def RST_MODE : Fld := ⟨0xB100, 0x1000, 1, 0, 2, .ro, 1⟩ -- R406
def RST_CTRL_MODE_REQ : Fld := ⟨0xB104, 0x1000, 1, 0, 2, .wo, 0⟩ -- R406
def RST_SOFT_KEY : Fld := ⟨0xB108, 0x1000, 1, 0, 32, .wo, 0⟩ -- R406
def RST_CAUSE : Fld := ⟨0xB10C, 0x1000, 1, 0, 5, .ro, 1⟩ -- R406
def RST_BOOT_STAT_STEP : Fld := ⟨0xB110, 0x1000, 1, 0, 3, .ro, 1⟩ -- R406
def RST_BOOT_STAT_DONE : Fld := ⟨0xB110, 0x1000, 1, 3, 1, .ro, 0⟩ -- R406
def RST_BOOT_STAT_CODE : Fld := ⟨0xB110, 0x1000, 1, 4, 8, .ro, 0⟩ -- R406
def RST_BOOT_STAT_SLOT : Fld := ⟨0xB110, 0x1000, 1, 12, 1, .ro, 0⟩ -- R406
def RST_BOOT_STAT_STRAP : Fld := ⟨0xB110, 0x1000, 1, 13, 1, .ro, 0⟩ -- R406
def RST_BOOT_CNT : Fld := ⟨0xB114, 0x1000, 1, 0, 32, .ro, 0⟩ -- R406
def RST_STEP_US : Fld := ⟨0xB120, 0x4, 6, 0, 32, .ro, 0⟩ -- R406
def RST_ISL_TEST_ISL : Fld := ⟨0xB138, 0x1000, 1, 0, 5, .wo, 0⟩ -- R406
def RST_ISL_TEST_GO : Fld := ⟨0xB138, 0x1000, 1, 5, 1, .wo, 0⟩ -- R406
def RST_ISL_TEST_STAT_ISL : Fld := ⟨0xB13C, 0x1000, 1, 0, 5, .ro, 0⟩ -- R406
def RST_ISL_TEST_STAT_BUSY : Fld := ⟨0xB13C, 0x1000, 1, 5, 1, .ro, 0⟩ -- R406
def RST_ISL_TEST_STAT_PASS : Fld := ⟨0xB13C, 0x1000, 1, 6, 1, .ro, 0⟩ -- R406
def RST_ISL_TEST_STAT_FAIL : Fld := ⟨0xB13C, 0x1000, 1, 7, 1, .ro, 0⟩ -- R406
def RST_TEST_HOLD : Fld := ⟨0xB140, 0x1000, 1, 0, 32, .ro, 0⟩ -- R406
def RST_RCV_STAT_SESSION : Fld := ⟨0xB144, 0x1000, 1, 0, 1, .ro, 0⟩ -- R406
def RST_RCV_STAT_I3C : Fld := ⟨0xB144, 0x1000, 1, 1, 1, .ro, 0⟩ -- R406
def RST_RCV_BYTES : Fld := ⟨0xB148, 0x1000, 1, 0, 24, .ro, 0⟩ -- R406
def SEC_FUSE_STAT_OWNER : Fld := ⟨0xC100, 0x1000, 1, 0, 1, .ro, 0⟩ -- R425
def SEC_FUSE_STAT_DEBUG_EN : Fld := ⟨0xC100, 0x1000, 1, 1, 1, .ro, 0⟩ -- R425
def SEC_FUSE_STAT_UNLOCK : Fld := ⟨0xC100, 0x1000, 1, 2, 1, .ro, 0⟩ -- R425
def SEC_FUSE_STAT_SVN_FS : Fld := ⟨0xC100, 0x1000, 1, 8, 8, .ro, 0⟩ -- R425
def SEC_FUSE_STAT_SVN_RF : Fld := ⟨0xC100, 0x1000, 1, 16, 8, .ro, 0⟩ -- R425
def SEC_KEYS_COUNT : Fld := ⟨0xC104, 0x1000, 1, 0, 6, .ro, 0⟩ -- R425
def SEC_SPDM_EID : Fld := ⟨0xC108, 0x1000, 1, 0, 8, .ro, 0⟩ -- R425
def SEC_SPDM_VER : Fld := ⟨0xC108, 0x1000, 1, 8, 8, .ro, 0⟩ -- R425
def SEC_SIGN_CNT : Fld := ⟨0xC10C, 0x1000, 1, 0, 32, .rc, 0⟩ -- R425
def SEC_UNLOCK_CNT : Fld := ⟨0xC110, 0x1000, 1, 0, 8, .ro, 0⟩ -- R425
def SEC_MEAS : Fld := ⟨0xC200, 0x4, 48, 0, 32, .ro, 0⟩ -- R425
def FWU_SRC_LO : Fld := ⟨0xD100, 0x1000, 1, 0, 32, .rw, 0⟩ -- R426
def FWU_SRC_HI : Fld := ⟨0xD104, 0x1000, 1, 0, 20, .rw, 0⟩ -- R426
def FWU_LEN : Fld := ⟨0xD108, 0x1000, 1, 0, 24, .rw, 0⟩ -- R426
def FWU_CMD_OP : Fld := ⟨0xD10C, 0x1000, 1, 0, 3, .wo, 0⟩ -- R426
def FWU_CMD_SVN_COMMIT : Fld := ⟨0xD10C, 0x1000, 1, 3, 1, .wo, 0⟩ -- R426
def FWU_STAT_BUSY : Fld := ⟨0xD110, 0x1000, 1, 0, 1, .ro, 0⟩ -- R426
def FWU_STAT_CODE : Fld := ⟨0xD110, 0x1000, 1, 8, 8, .ro, 0⟩ -- R426
def FWU_SLOTS_S0 : Fld := ⟨0xD114, 0x1000, 1, 0, 2, .ro, 0⟩ -- R426
def FWU_SLOTS_S1 : Fld := ⟨0xD114, 0x1000, 1, 2, 2, .ro, 0⟩ -- R426
def FWU_SLOTS_ACTIVE : Fld := ⟨0xD114, 0x1000, 1, 4, 1, .ro, 0⟩ -- R426
def FWU_SLOTS_TRIES : Fld := ⟨0xD114, 0x1000, 1, 5, 2, .ro, 0⟩ -- R426
def FWU_VER_RUN_FS : Fld := ⟨0xD118, 0x1000, 1, 0, 32, .ro, 0⟩ -- R426
def FWU_VER_RUN_RF : Fld := ⟨0xD11C, 0x1000, 1, 0, 32, .ro, 0⟩ -- R426
def FWU_SET_DUAL : Fld := ⟨0xD120, 0x1000, 1, 0, 32, .ro, 0⟩ -- R426
def FWU_APPLY_US : Fld := ⟨0xD124, 0x1000, 1, 0, 32, .ro, 0⟩ -- R426
def HDR_PAGE_ID_CODE : Fld := ⟨0x0, 0x1000, 112, 0, 8, .ro, 0⟩ -- R433
def HDR_PAGE_ID_INST : Fld := ⟨0x0, 0x1000, 112, 8, 8, .ro, 0⟩ -- R433
def HDR_PAGE_ID_MARK : Fld := ⟨0x0, 0x1000, 112, 24, 8, .ro, 78⟩ -- R433
def HDR_PAGE_VER_LAYOUT : Fld := ⟨0x4, 0x1000, 112, 0, 16, .ro, 1⟩ -- R433
def HDR_PAGE_VER_STEP : Fld := ⟨0x4, 0x1000, 112, 16, 16, .ro, 160⟩ -- R433
def HDR_CAPS_HDR : Fld := ⟨0x8, 0x1000, 112, 0, 4, .ro, 1⟩ -- R433
def HDR_CAPS_GRADE : Fld := ⟨0x8, 0x1000, 112, 16, 1, .ro, 0⟩ -- R433
def HDR_STATUS_PRESENT : Fld := ⟨0x10, 0x1000, 112, 0, 1, .ro, 1⟩ -- R433
def HDR_STATUS_ACTIVE : Fld := ⟨0x10, 0x1000, 112, 1, 1, .ro, 0⟩ -- R433
def HDR_STATUS_ERROR : Fld := ⟨0x10, 0x1000, 112, 2, 1, .ro, 0⟩ -- R433
def HDR_STATUS_OFFLINE : Fld := ⟨0x10, 0x1000, 112, 3, 1, .ro, 0⟩ -- R433
def HDR_STATUS_HELD : Fld := ⟨0x10, 0x1000, 112, 4, 1, .ro, 0⟩ -- R433
def HDR_STATUS_LOCKED : Fld := ⟨0x10, 0x1000, 112, 5, 1, .ro, 0⟩ -- R433
def HDR_STATUS_SEALED : Fld := ⟨0x10, 0x1000, 112, 6, 1, .ro, 0⟩ -- R433
def HDR_ERR_SUM_RSVD_WR : Fld := ⟨0x18, 0x1000, 112, 0, 1, .w1c, 0⟩ -- R433
def HDR_ERR_SUM_LOCK_WR : Fld := ⟨0x18, 0x1000, 112, 1, 1, .w1c, 0⟩ -- R433
def HDR_ERR_SUM_SIZE_WR : Fld := ⟨0x18, 0x1000, 112, 2, 1, .w1c, 0⟩ -- R433
def HDR_ERR_SUM_MB_OVR : Fld := ⟨0x18, 0x1000, 112, 16, 1, .w1c, 0⟩ -- R433
def HDR_INT_STAT : Fld := ⟨0x20, 0x1000, 112, 0, 32, .w1c, 0⟩ -- R433
def HDR_INT_EN : Fld := ⟨0x24, 0x1000, 112, 0, 32, .rw, 0⟩ -- R433
def HDR_INT_SET : Fld := ⟨0x28, 0x1000, 112, 0, 32, .w1s, 0⟩ -- R433
def HDR_LOCK_HOLDER : Fld := ⟨0x38, 0x1000, 112, 0, 2, .ro, 0⟩ -- R434
def HDR_LOCK_HELD : Fld := ⟨0x38, 0x1000, 112, 2, 1, .ro, 0⟩ -- R434
def HDR_LOCK_SEALED : Fld := ⟨0x38, 0x1000, 112, 3, 1, .ro, 0⟩ -- R434
def HDR_LOCK_ACQ : Fld := ⟨0x38, 0x1000, 112, 8, 1, .wo, 0⟩ -- R434
def HDR_LOCK_REL : Fld := ⟨0x38, 0x1000, 112, 9, 1, .wo, 0⟩ -- R434
def HDR_LOCK_SEAL : Fld := ⟨0x38, 0x1000, 112, 10, 1, .wo, 0⟩ -- R434
def HDR_LOCK_REFUSED : Fld := ⟨0x38, 0x1000, 112, 16, 8, .rc, 0⟩ -- R434
def PRT_TILES : Fld := ⟨0x30100, 0x1000, 8, 0, 32, .rc, 0⟩ -- R444
def PRT_KIB : Fld := ⟨0x30104, 0x1000, 8, 0, 32, .rc, 0⟩ -- R444
def PRT_HELD : Fld := ⟨0x30108, 0x1000, 8, 0, 32, .ro, 0⟩ -- R444
def PRT_MIG_ACTIVE : Fld := ⟨0x3010C, 0x1000, 8, 0, 8, .ro, 0⟩ -- R444
def PRT_QUEUE : Fld := ⟨0x30110, 0x1000, 8, 0, 24, .ro, 0⟩ -- R444
def PRT_CUR_RING : Fld := ⟨0x30114, 0x1000, 8, 0, 6, .ro, 0⟩ -- R444
def PRT_CUR_PART : Fld := ⟨0x30114, 0x1000, 8, 6, 3, .ro, 0⟩ -- R444
def PRT_CUR_VALID : Fld := ⟨0x30114, 0x1000, 8, 9, 1, .ro, 0⟩ -- R444
def PRT_CUR_INDEX : Fld := ⟨0x30118, 0x1000, 8, 0, 32, .ro, 0⟩ -- R444
def PRT_XLT_MISS : Fld := ⟨0x3011C, 0x1000, 8, 0, 32, .rc, 0⟩ -- R444
def RIM_STAT_RUN0 : Fld := ⟨0xE100, 0x1000, 1, 0, 1, .ro, 0⟩ -- R445
def RIM_STAT_RUN1 : Fld := ⟨0xE100, 0x1000, 1, 1, 1, .ro, 0⟩ -- R445
def RIM_STAT_FAULT : Fld := ⟨0xE100, 0x1000, 1, 2, 1, .w1c, 0⟩ -- R445
def RIM_BEAT : Fld := ⟨0xE104, 0x1000, 1, 0, 32, .ro, 0⟩ -- R445
def RIM_FAULT_PC_LO : Fld := ⟨0xE108, 0x1000, 1, 0, 32, .ro, 0⟩ -- R445
def RIM_FAULT_PC_HI : Fld := ⟨0xE10C, 0x1000, 1, 0, 32, .ro, 0⟩ -- R445
def RIM_RESTARTS : Fld := ⟨0xE110, 0x1000, 1, 0, 32, .ro, 0⟩ -- R445
def CEN_INFO_VER : Fld := ⟨0x100, 0x1000, 1, 0, 8, .ro, 1⟩ -- R446
def CEN_INFO_NOBJ : Fld := ⟨0x100, 0x1000, 1, 8, 8, .ro, 18⟩ -- R446
def CEN_PSTATE : Fld := ⟨0x200, 0x4, 28, 0, 32, .ro, 0⟩ -- R446
def CEN_COPY_OBJ_OBJ : Fld := ⟨0x300, 0x1000, 1, 0, 8, .rw, 0⟩ -- R446
def CEN_COPY_OBJ_PART : Fld := ⟨0x300, 0x1000, 1, 8, 3, .rw, 0⟩ -- R446
def CEN_COPY_OBJ_INDEX : Fld := ⟨0x300, 0x1000, 1, 16, 16, .rw, 0⟩ -- R446
def CEN_COPY_SEL_LO : Fld := ⟨0x308, 0x1000, 1, 0, 32, .rw, 0⟩ -- R446
def CEN_COPY_SEL_HI : Fld := ⟨0x30C, 0x1000, 1, 0, 32, .rw, 0⟩ -- R446
def CEN_COPY_DST_LO_ADDR : Fld := ⟨0x310, 0x1000, 1, 6, 26, .rw, 0⟩ -- R446
def CEN_COPY_DST_HI_ADDR : Fld := ⟨0x314, 0x1000, 1, 0, 20, .rw, 0⟩ -- R446
def CEN_COPY_LEN : Fld := ⟨0x318, 0x1000, 1, 0, 25, .rw, 0⟩ -- R446
def CEN_COPY_GO : Fld := ⟨0x31C, 0x1000, 1, 0, 1, .wo, 0⟩ -- R446
def CEN_COPY_STAT_BUSY : Fld := ⟨0x320, 0x1000, 1, 0, 1, .ro, 0⟩ -- R446
def CEN_COPY_STAT_CODE : Fld := ⟨0x320, 0x1000, 1, 4, 4, .ro, 0⟩ -- R446
def CEN_COPY_BYTES : Fld := ⟨0x324, 0x1000, 1, 0, 32, .ro, 0⟩ -- R446
def CEN_COPY_TIME : Fld := ⟨0x328, 0x1000, 1, 0, 32, .ro, 0⟩ -- R446
def CEN_HOLD : Fld := ⟨0x330, 0x1000, 1, 0, 6, .rw, 0⟩ -- R446
def CEN_HOLD_ACK : Fld := ⟨0x334, 0x1000, 1, 0, 6, .ro, 0⟩ -- R446
def CEN_UNMAPPED : Fld := ⟨0x338, 0x1000, 1, 0, 32, .rc, 0⟩ -- R446
def PWR_VRC_STAT : Fld := ⟨0x8180, 0x4, 4, 0, 16, .ro, 0⟩ -- R454
def PWR_VRC_VOLT : Fld := ⟨0x8190, 0x4, 4, 0, 16, .ro, 750⟩ -- R454
def PWR_VRC_TO : Fld := ⟨0x81A0, 0x1000, 1, 0, 32, .rc, 0⟩ -- R454
def PWR_VRC_ALERT : Fld := ⟨0x81A4, 0x1000, 1, 0, 32, .rc, 0⟩ -- R454

def fieldsISL : List Fld :=
  [ISL_ARITH_NAN, ISL_ARITH_OVF, ISL_ARITH_INTSAT, ISL_ARITH_NANCVT, ISL_CHK_SKIP,
   ISL_SF_SUBN, ISL_CHK_MIS, ISL_CHK_RECOMP, ISL_CHK_CMD, ISL_STK_HEALTH_SUSPECT,
   ISL_STK_HEALTH_FCLR, ISL_STK_FAULT_STAKE, ISL_STK_FAULT_CAUSE, ISL_STK_FAULT_WORD, ISL_STK_FAULT_AXIS,
   ISL_STK_FAULT_INDEX, ISL_STK_FAULT_VALID, ISL_STK_FAULT_D, ISL_STK_FAULT_E, ISL_STK_FAULT_M,
   ISL_BUBBLE_CYC, ISL_BYP_INSTR, ISL_ARR_TILES, ISL_BSH_PAR, ISL_BSH_REFETCH,
   ISL_BSH_REPLAY, ISL_BSH_BANK, ISL_BSH_MERGE, ISL_BSH_SHORT, ISL_BSH_REQ]

def fieldsISL1 : List Fld :=
  [ISL_BSH_PAD, ISL_BSH_FAULT_BUSHEL, ISL_BSH_FAULT_CAUSE, ISL_BSH_FAULT_ENG, ISL_BSH_FAULT_WORD,
   ISL_BSH_FAULT_VALID, ISL_BSH_FAULT_A_ADDR, ISL_BSH_CTRL_FCLR, ISL_FAB_SLOT_SLOT, ISL_FAB_SLOT_LEN,
   ISL_FAB_SLOT_RUN, ISL_FAB_HOLD_OWN, ISL_FAB_HOLD_IN, ISL_FAB_HOLD_TREE, ISL_FAB_HOLD_ROOT,
   ISL_FAB_HOLD_CAUSE, ISL_FAB_PAR, ISL_FAB_RTAG, ISL_FAB_SLACK, ISL_FAB_HWM_OCC,
   ISL_FAB_FRZ_LIMIT, ISL_FAB_FAULT_POS, ISL_FAB_FAULT_CAUSE, ISL_FAB_FAULT_PORT, ISL_FAB_FAULT_CODE,
   ISL_FAB_FAULT_SRC, ISL_FAB_FAULT_VALID, ISL_FAB_FAULT_T_INFO, ISL_FAB_CTRL_FCLR, ISL_WV_RND]

def fieldsISL2 : List Fld :=
  [ISL_FRZ_FAULT, ISL_FRZ_PARITY, ISL_FRZ_THROTTLE, ISL_FRZ_MEM, ISL_FRZ_CHECK,
   ISL_FRZ_SCHED, ISL_FRZ_SKIP, ISL_FRZ_STEP, ISL_FRZ_XDRY, ISL_FRZ_XFULL,
   ISL_FRZ_SKEW, ISL_WV_TAIL, ISL_WV_STAGGER, ISL_WV_TIME_NS, ISL_WV_EXTRA,
   ISL_WV_STAT_BIND, ISL_WV_STAT_RUN, ISL_WV_STAT_WREL, ISL_WV_STAT_STEPS, ISL_WV_STAT_LOG_OVF,
   ISL_STEP_ROUND, ISL_STEP_ROUND.up 16, ISL_STEP_ROUND.up 32, ISL_STEP_ROUND.up 48, ISL_STEP_ROUND.up 64,
   ISL_STEP_ROUND.up 80, ISL_STEP_ROUND.up 96, ISL_STEP_ROUND.up 112, ISL_STEP_ROUND.up 128, ISL_STEP_ROUND.up 144]

def fieldsISL3 : List Fld :=
  [ISL_STEP_ROUND.up 160, ISL_STEP_ROUND.up 176, ISL_STEP_ROUND.up 192, ISL_STEP_ROUND.up 208, ISL_STEP_ROUND.up 224,
   ISL_STEP_ROUND.up 240, ISL_STEP_FRZ, ISL_STEP_FRZ.up 16, ISL_STEP_FRZ.up 32, ISL_STEP_FRZ.up 48,
   ISL_STEP_FRZ.up 64, ISL_STEP_FRZ.up 80, ISL_STEP_FRZ.up 96, ISL_STEP_FRZ.up 112, ISL_STEP_FRZ.up 128,
   ISL_STEP_FRZ.up 144, ISL_STEP_FRZ.up 160, ISL_STEP_FRZ.up 176, ISL_STEP_FRZ.up 192, ISL_STEP_FRZ.up 208,
   ISL_STEP_FRZ.up 224, ISL_STEP_FRZ.up 240, ISL_STEP_F_OLD, ISL_STEP_F_OLD.up 16, ISL_STEP_F_OLD.up 32,
   ISL_STEP_F_OLD.up 48, ISL_STEP_F_OLD.up 64, ISL_STEP_F_OLD.up 80, ISL_STEP_F_OLD.up 96, ISL_STEP_F_OLD.up 112]

def fieldsISL4 : List Fld :=
  [ISL_STEP_F_OLD.up 128, ISL_STEP_F_OLD.up 144, ISL_STEP_F_OLD.up 160, ISL_STEP_F_OLD.up 176, ISL_STEP_F_OLD.up 192,
   ISL_STEP_F_OLD.up 208, ISL_STEP_F_OLD.up 224, ISL_STEP_F_OLD.up 240, ISL_STEP_F_NEW, ISL_STEP_F_NEW.up 16,
   ISL_STEP_F_NEW.up 32, ISL_STEP_F_NEW.up 48, ISL_STEP_F_NEW.up 64, ISL_STEP_F_NEW.up 80, ISL_STEP_F_NEW.up 96,
   ISL_STEP_F_NEW.up 112, ISL_STEP_F_NEW.up 128, ISL_STEP_F_NEW.up 144, ISL_STEP_F_NEW.up 160, ISL_STEP_F_NEW.up 176,
   ISL_STEP_F_NEW.up 192, ISL_STEP_F_NEW.up 208, ISL_STEP_F_NEW.up 224, ISL_STEP_F_NEW.up 240, ISL_STEP_GAP_NS,
   ISL_STEP_GAP_NS.up 16, ISL_STEP_GAP_NS.up 32, ISL_STEP_GAP_NS.up 48, ISL_STEP_GAP_NS.up 64, ISL_STEP_GAP_NS.up 80]

def fieldsISL5 : List Fld :=
  [ISL_STEP_GAP_NS.up 96, ISL_STEP_GAP_NS.up 112, ISL_STEP_GAP_NS.up 128, ISL_STEP_GAP_NS.up 144, ISL_STEP_GAP_NS.up 160,
   ISL_STEP_GAP_NS.up 176, ISL_STEP_GAP_NS.up 192, ISL_STEP_GAP_NS.up 208, ISL_STEP_GAP_NS.up 224, ISL_STEP_GAP_NS.up 240]

def allISL : List Fld := fieldsISL ++ fieldsISL1 ++ fieldsISL2 ++ fieldsISL3 ++ fieldsISL4 ++ fieldsISL5

def fieldsWVE : List Fld :=
  [WVE_PMASK, WVE_LOAD_FAULT_CODE, WVE_LOAD_FAULT_BIND, WVE_LOAD_FAULT_WISL, WVE_LOAD_FAULT_POS,
   WVE_LOAD_FAULT_UNIT, WVE_LOAD_FAULT_ENG, WVE_LOAD_FAULT_VALID, WVE_LOAD_FAULT_W_INDEX, WVE_LOAD_ASK,
   WVE_LOAD_AVAIL, WVE_RUN_FAULT_CODE, WVE_RUN_FAULT_BIND, WVE_RUN_FAULT_WISL, WVE_RUN_FAULT_POS,
   WVE_RUN_FAULT_VALID, WVE_RUN_FAULT_V, WVE_FLT_CTRL_LCLR, WVE_FLT_CTRL_RCLR, WVE_BIND_PART,
   WVE_BIND_STATE, WVE_BIND_VAR, WVE_BIND_CARRY, WVE_BIND_GEN, WVE_BIND_PLACE,
   WVE_BIND_PLACE_NEW, WVE_BIND_IMG_LO, WVE_BIND_IMG_HI, WVE_HSET, WVE_HS_EVICT]

def fieldsWVE1 : List Fld :=
  [WVE_HS_LAST_BIND, WVE_HS_LAST_VALID]

def allWVE : List Fld := fieldsWVE ++ fieldsWVE1

def fieldsXLT : List Fld :=
  [XLT_MIG_CTRL_EN, XLT_MIG_CTRL_PROM_EN, XLT_MIG_CTRL_DEM_EN, XLT_MIG_CTRL_MAX, XLT_HEAT_PERIOD,
   XLT_HEAT_CFG_SHIFT, XLT_HEAT_CFG_PROM_THR, XLT_T2_LOW, XLT_T2_HIGH, XLT_YIELD_WAIT,
   XLT_PRIV_PA, XLT_PRIV_PA_V, XLT_PRIV_PB, XLT_PRIV_PB_V, XLT_POOL_T2,
   XLT_POOL_T3, XLT_POOL_T2_USED, XLT_POOL_T3_USED, XLT_T2_RSV, XLT_TBL_FREE,
   XLT_T2_FREE, XLT_T3_FREE, XLT_T2_RETIRED, XLT_MIG_PROM, XLT_MIG_DEM,
   XLT_MIG_ABORT_WR, XLT_MIG_ABORT_ERR, XLT_ZFILL, XLT_REPAIR, XLT_POISONED]

def fieldsXLT1 : List Fld :=
  [XLT_FLT_MERGE, XLT_FLT_TFULL, XLT_FLT_NOYIELD, XLT_EVICT, XLT_ROOT_FRAME,
   XLT_ROOT_VALID, XLT_Q_T1, XLT_Q_T2, XLT_Q_T3, XLT_U_T1,
   XLT_U_T2, XLT_U_T3, XLT_PU_T2, XLT_PU_T3, XLT_FLOG_BASE_LO_ADDR,
   XLT_FLOG_BASE_HI_ADDR, XLT_FLOG_WR, XLT_FLOG_RD, XLT_RESOLVE, XLT_FAILSEQ,
   XLT_FLT_CTRL_RETRY_ALL, XLT_FLT_CTRL_FAIL_ALL, XLT_FLT_CTRL_LOG_OK]

def allXLT : List Fld := fieldsXLT ++ fieldsXLT1

def fieldsT2C : List Fld :=
  [T2C_ARV_TILES, T2C_ARV_IN, T2C_ARV_OUT, T2C_ARV_DIGFAIL, T2C_ARV_DECFAIL,
   T2C_ARV_STAT_BUSY, T2C_ARV_STAT_INFL, T2C_ARV_LASTFAIL]

def allT2C : List Fld := fieldsT2C

def fieldsCMD : List Fld :=
  [CMD_RING_BASE_LO_ADDR, CMD_RING_BASE_HI_ADDR, CMD_RING_CFG_LOG2SIZE, CMD_RING_CFG_EN, CMD_RING_CFG_STATE,
   CMD_RING_CFG_BYLD, CMD_RING_CFG_BRES, CMD_RING_CFG_RESET, CMD_RING_CFG_IRQ, CMD_RING_CFG_ERR,
   CMD_RING_DB, CMD_RING_HEAD, CMD_RING_CQ_HEAD, CMD_RING_LOW, CMD_RING_COAL_CNT,
   CMD_RING_COAL_TIME, CMD_PART_SHARE_W, CMD_PART_REG_T2_RATE, CMD_PART_REG_T2_BURST, CMD_PART_REG_T3,
   CMD_PART_REG_SKL, CMD_PART_LED_ISL_LO, CMD_PART_LED_ISL_HI, CMD_PART_LED_PB_LO, CMD_PART_LED_PB_HI,
   CMD_COL_USE, CMD_COL_WAIT, CMD_YLD_FULL, CMD_YLD_REFUSE, CMD_YLD_BOUND]

def fieldsCMD1 : List Fld :=
  [CMD_SEM_SEL_IDX, CMD_SEM_SEL_PART, CMD_SEM_VAL, CMD_SEM_ERR_ERR, CMD_LED_CLR]

def allCMD : List Fld := fieldsCMD ++ fieldsCMD1

def fieldsSMP : List Fld :=
  [SMP_SLOT_OPEN, SMP_SLOT_Q_MAX, SMP_PICKS, SMP_VERIFIES, SMP_DRAFT_PROP,
   SMP_DRAFT_ACC, SMP_IMPLK, SMP_TOPP_SHORT, SMP_CNT_SPILL, SMP_CNT_LOST,
   SMP_EMPTYROW, SMP_NANLOG, SMP_STAT_BUSY]

def allSMP : List Fld := fieldsSMP

def fieldsIDX : List Fld :=
  [IDX_CFG_LOG2NODES, IDX_CFG_BLKSZ, IDX_CFG_VALID, IDX_NODES, IDX_RECL_WR,
   IDX_RECL_RD, IDX_LOOKUPS, IDX_HITS, IDX_INSERTED, IDX_EVICTED,
   IDX_EXPIRED, IDX_DEMOTED, IDX_PROMOTED, IDX_MOVE_FAIL, IDX_PAUSED,
   IDX_POISONED]

def allIDX : List Fld := fieldsIDX

def fieldsGRP : List Fld :=
  [GRP_BUILDS, GRP_CHOICES, GRP_ASSIGNED, GRP_DROPPED, GRP_SUBST,
   GRP_DEFERRED, GRP_DEADTOK, GRP_NANSC, GRP_FETCH, GRP_FETCH_FAIL,
   GRP_STAT_BUSY]

def allGRP : List Fld := fieldsGRP

def fieldsSKL : List Fld :=
  [SKL_LINK_CTRL_EN, SKL_LINK_CTRL_MAXRATE, SKL_LINK_CTRL_ALLOW_X4, SKL_LINK_CTRL_OPEN, SKL_LINK_CTRL_RETRAIN,
   SKL_LINK_STAT_STATE, SKL_LINK_STAT_RATE, SKL_LINK_STAT_X4, SKL_LINK_STAT_UPPER, SKL_LINK_STAT_PEER,
   SKL_LINK_STAT_PEER_SW, SKL_FEC_CORR, SKL_FEC_UNCORR, SKL_CRC_ERR, SKL_REPLAY,
   SKL_DOWN_CNT, SKL_TX_FLITS, SKL_RX_FLITS, SKL_SLICE_DROP, SKL_REG_DROP,
   SKL_MISWIRE]

def allSKL : List Fld := fieldsSKL

def fieldsSKL0 : List Fld :=
  [SKL0_DOM_CTRL_EN, SKL0_DOM_CTRL_LEAD, SKL0_DOM_CTRL_IFWD, SKL0_DOM_ID, SKL0_DEV_DEVNUM,
   SKL0_DEV_SLOT, SKL0_DEV_TRAY, SKL0_DEV_SLICE, SKL0_DOM_LEAD_DEV, SKL0_DOM_LEAD_VALID,
   SKL0_RINT_LO, SKL0_RINT_HI, SKL0_ROSTER_SLICE, SKL0_ROSTER_PRESENT, SKL0_EXP_PART,
   SKL0_EXP_RD, SKL0_EXP_WR, SKL0_EXP_VALID, SKL0_EXP_NPAGES, SKL0_EXP_WBASE_LO,
   SKL0_EXP_WBASE_HI, SKL0_EXP_DBASE_LO, SKL0_EXP_DBASE_HI, SKL0_EXP_IMASK_LO, SKL0_EXP_IMASK_HI]

def allSKL0 : List Fld := fieldsSKL0

def fieldsCOL : List Fld :=
  [COL_TIMEOUT, COL_COLLS, COL_TIMEOUTS, COL_ABORTS, COL_CREDIT_WAIT,
   COL_STAGE_HWM, COL_GRP_STATE, COL_GRP_NMEM, COL_GRP_RANK, COL_GRP_PART,
   COL_GRP_NEXT_SEQ]

def allCOL : List Fld := fieldsCOL

def fieldsFUS : List Fld :=
  [FUS_LINK_CTRL_MAXGEN, FUS_LINK_CTRL_RETRAIN, FUS_LINK_STAT_UP, FUS_LINK_STAT_GEN2, FUS_LINK_STAT_X8,
   FUS_LINK_STAT_DOWN_CNT, FUS_RECALL_TO, FUS_HERR_CNT, FUS_HERR_OFF_LO, FUS_HERR_OFF_HI,
   FUS_HERR_KIND, FUS_HERR_VALID, FUS_APT_BASE_LO, FUS_APT_BASE_HI, FUS_HEXP_PART,
   FUS_HEXP_RD, FUS_HEXP_WR, FUS_HEXP_VALID, FUS_HEXP_HOFF, FUS_HEXP_NPAGES,
   FUS_HEXP_DBASE_LO, FUS_HEXP_DBASE_HI, FUS_IVEC_ADDR_LO, FUS_IVEC_ADDR_HI, FUS_IVEC_DATA,
   FUS_IVEC_MASK, FUS_IVEC_PEND, FUS_MB_CTRL_H2R_GO, FUS_MB_CTRL_R2H_FULL, FUS_MB_H2R]

def fieldsFUS1 : List Fld :=
  [FUS_MB_R2H]

def allFUS : List Fld := fieldsFUS ++ fieldsFUS1

def fieldsCAP : List Fld :=
  [CAP_CTRL_RESCAN, CAP_STAT_UP, CAP_STAT_MODE, CAP_STAT_X8, CAP_STAT_CAUSE,
   CAP_FRAMES, CAP_SERIAL_LO, CAP_SERIAL_HI, CAP_TAG_ERR, CAP_OFFLINE_CNT]

def allCAP : List Fld := fieldsCAP

def fieldsETH : List Fld :=
  [ETH_LINK_CTRL_SPEED, ETH_LINK_CTRL_EN, ETH_LINK_STAT_UP, ETH_QP_SEL_QP, ETH_QP_SEL_PART,
   ETH_QP_DB, ETH_RX_FRAMES, ETH_TX_FRAMES, ETH_FEC_UNCORR, ETH_PFC_PAUSE]

def allETH : List Fld := fieldsETH

def fieldsPWR : List Fld :=
  [PWR_CAP_CTRL_LIMIT, PWR_PKG_W, PWR_EFF_CAP, PWR_ENERGY_LO, PWR_ENERGY_HI,
   PWR_OVERRUN, PWR_OVR_MAX, PWR_RAMP_BUDGET, PWR_PART_FMAX, PWR_THERM_WARN,
   PWR_THERM_THROT, PWR_THERM_CTRL_SREL, PWR_STAT_BRAKE, PWR_STAT_SLOPE, PWR_STAT_DEEP,
   PWR_STAT_HBLOST, PWR_STAT_SAFE, PWR_STAT_PFHALT, PWR_STAT_D, PWR_STAT_POINT,
   PWR_STAT_SLOPE_V, PWR_HB, PWR_HB_CTRL_EN, PWR_HB_CTRL_TIMEOUT, PWR_HB_CTRL_HOLD,
   PWR_SAFE_PCT, PWR_PFAIL_CTRL_GRACE, PWR_PFAIL_CTRL_BRK, PWR_CREC_PORT, PWR_CREC_SEG]

def fieldsPWR1 : List Fld :=
  [PWR_CREC_VALID, PWR_CREC_ACK, PWR_BRAKE_CNT, PWR_TRIP_CNT, PWR_PF_CNT,
   PWR_HOT_IDX, PWR_HOT_TEMP, PWR_TTGT, PWR_VRC_STAT, PWR_VRC_VOLT,
   PWR_VRC_TO, PWR_VRC_ALERT]

def allPWR : List Fld := fieldsPWR ++ fieldsPWR1

def fieldsSCL : List Fld :=
  [SCL_TEMP_VAL, SCL_TEMP_VALID, SCL_DROOP, SCL_DMON_WORST, SCL_PMON_SPEED,
   SCL_BAD_CNT]

def allSCL : List Fld := fieldsSCL

def fieldsCLK : List Fld :=
  [CLK_REF_STAT_LOST, CLK_REF_STAT_AO_INT, CLK_STEP_CNT, CLK_GAP_MAX, CLK_PREP_MAX,
   CLK_FREQ_MHZ, CLK_DROOP_THR_MV]

def allCLK : List Fld := fieldsCLK

def fieldsRST : List Fld :=
  [RST_MODE, RST_CTRL_MODE_REQ, RST_SOFT_KEY, RST_CAUSE, RST_BOOT_STAT_STEP,
   RST_BOOT_STAT_DONE, RST_BOOT_STAT_CODE, RST_BOOT_STAT_SLOT, RST_BOOT_STAT_STRAP, RST_BOOT_CNT,
   RST_STEP_US, RST_ISL_TEST_ISL, RST_ISL_TEST_GO, RST_ISL_TEST_STAT_ISL, RST_ISL_TEST_STAT_BUSY,
   RST_ISL_TEST_STAT_PASS, RST_ISL_TEST_STAT_FAIL, RST_TEST_HOLD, RST_RCV_STAT_SESSION, RST_RCV_STAT_I3C,
   RST_RCV_BYTES]

def allRST : List Fld := fieldsRST

def fieldsSEC : List Fld :=
  [SEC_FUSE_STAT_OWNER, SEC_FUSE_STAT_DEBUG_EN, SEC_FUSE_STAT_UNLOCK, SEC_FUSE_STAT_SVN_FS, SEC_FUSE_STAT_SVN_RF,
   SEC_KEYS_COUNT, SEC_SPDM_EID, SEC_SPDM_VER, SEC_SIGN_CNT, SEC_UNLOCK_CNT,
   SEC_MEAS]

def allSEC : List Fld := fieldsSEC

def fieldsFWU : List Fld :=
  [FWU_SRC_LO, FWU_SRC_HI, FWU_LEN, FWU_CMD_OP, FWU_CMD_SVN_COMMIT,
   FWU_STAT_BUSY, FWU_STAT_CODE, FWU_SLOTS_S0, FWU_SLOTS_S1, FWU_SLOTS_ACTIVE,
   FWU_SLOTS_TRIES, FWU_VER_RUN_FS, FWU_VER_RUN_RF, FWU_SET_DUAL, FWU_APPLY_US]

def allFWU : List Fld := fieldsFWU

def fieldsHDR : List Fld :=
  [HDR_PAGE_ID_CODE, HDR_PAGE_ID_INST, HDR_PAGE_ID_MARK, HDR_PAGE_VER_LAYOUT, HDR_PAGE_VER_STEP,
   HDR_CAPS_HDR, HDR_CAPS_GRADE, HDR_STATUS_PRESENT, HDR_STATUS_ACTIVE, HDR_STATUS_ERROR,
   HDR_STATUS_OFFLINE, HDR_STATUS_HELD, HDR_STATUS_LOCKED, HDR_STATUS_SEALED, HDR_ERR_SUM_RSVD_WR,
   HDR_ERR_SUM_LOCK_WR, HDR_ERR_SUM_SIZE_WR, HDR_ERR_SUM_MB_OVR, HDR_INT_STAT, HDR_INT_EN,
   HDR_INT_SET, HDR_LOCK_HOLDER, HDR_LOCK_HELD, HDR_LOCK_SEALED, HDR_LOCK_ACQ,
   HDR_LOCK_REL, HDR_LOCK_SEAL, HDR_LOCK_REFUSED]

def allHDR : List Fld := fieldsHDR

def fieldsPRT : List Fld :=
  [PRT_TILES, PRT_KIB, PRT_HELD, PRT_MIG_ACTIVE, PRT_QUEUE,
   PRT_CUR_RING, PRT_CUR_PART, PRT_CUR_VALID, PRT_CUR_INDEX, PRT_XLT_MISS]

def allPRT : List Fld := fieldsPRT

def fieldsRIM : List Fld :=
  [RIM_STAT_RUN0, RIM_STAT_RUN1, RIM_STAT_FAULT, RIM_BEAT, RIM_FAULT_PC_LO,
   RIM_FAULT_PC_HI, RIM_RESTARTS]

def allRIM : List Fld := fieldsRIM

def fieldsCEN : List Fld :=
  [CEN_INFO_VER, CEN_INFO_NOBJ, CEN_PSTATE, CEN_COPY_OBJ_OBJ, CEN_COPY_OBJ_PART,
   CEN_COPY_OBJ_INDEX, CEN_COPY_SEL_LO, CEN_COPY_SEL_HI, CEN_COPY_DST_LO_ADDR, CEN_COPY_DST_HI_ADDR,
   CEN_COPY_LEN, CEN_COPY_GO, CEN_COPY_STAT_BUSY, CEN_COPY_STAT_CODE, CEN_COPY_BYTES,
   CEN_COPY_TIME, CEN_HOLD, CEN_HOLD_ACK, CEN_UNMAPPED]

def allCEN : List Fld := fieldsCEN

/-- Block pages of R427: base, instances, block code, fields beyond the header. -/
structure Block where
  base : Nat
  inst : Nat
  code : Nat
  fields : List Fld

def blocks : List Block :=
  [⟨0x0, 1, 0x01, allCEN⟩,
   ⟨0x1000, 1, 0x02, allCMD⟩,
   ⟨0x2000, 1, 0x03, allWVE⟩,
   ⟨0x3000, 1, 0x04, allXLT⟩,
   ⟨0x4000, 1, 0x05, allSMP⟩,
   ⟨0x5000, 1, 0x06, allIDX⟩,
   ⟨0x6000, 1, 0x07, allGRP⟩,
   ⟨0x7000, 1, 0x08, allCOL⟩,
   ⟨0x8000, 1, 0x09, allPWR⟩,
   ⟨0x9000, 1, 0x0A, allSCL⟩,
   ⟨0xA000, 1, 0x0B, allCLK⟩,
   ⟨0xB000, 1, 0x0C, allRST⟩,
   ⟨0xC000, 1, 0x0D, allSEC⟩,
   ⟨0xD000, 1, 0x0E, allFWU⟩,
   ⟨0xE000, 1, 0x0F, allRIM⟩,
   ⟨0xF000, 1, 0x10, allFUS⟩,
   ⟨0x10000, 32, 0x11, allISL⟩,
   ⟨0x30000, 8, 0x12, allPRT⟩,
   ⟨0x38000, 8, 0x13, allT2C⟩,
   ⟨0x40000, 8, 0x14, allCAP⟩,
   ⟨0x48000, 2, 0x15, allETH⟩,
   ⟨0x50000, 32, 0x16, allSKL ++ allSKL0⟩]

/-- The fields whose stated reset value is not zero. -/
def nonzero : List Fld :=
  [ISL_FAB_FRZ_LIMIT, XLT_MIG_CTRL_EN, XLT_MIG_CTRL_PROM_EN, XLT_MIG_CTRL_DEM_EN, XLT_MIG_CTRL_MAX,
   XLT_HEAT_PERIOD, XLT_HEAT_CFG_SHIFT, XLT_HEAT_CFG_PROM_THR, XLT_T2_LOW, XLT_T2_HIGH,
   XLT_YIELD_WAIT, XLT_T2_RSV, CMD_RING_CFG_LOG2SIZE, CMD_RING_COAL_CNT, CMD_PART_SHARE_W,
   CMD_PART_REG_T2_BURST, CMD_PART_REG_T3, CMD_PART_REG_SKL, SMP_SLOT_Q_MAX, SKL_LINK_CTRL_ALLOW_X4,
   SKL_LINK_CTRL_OPEN, COL_TIMEOUT, FUS_RECALL_TO, FUS_IVEC_MASK, PWR_RAMP_BUDGET,
   PWR_THERM_WARN, PWR_THERM_THROT, PWR_HB_CTRL_TIMEOUT, PWR_HB_CTRL_HOLD, PWR_SAFE_PCT,
   PWR_PFAIL_CTRL_GRACE, PWR_PFAIL_CTRL_BRK, CLK_REF_STAT_AO_INT, CLK_FREQ_MHZ, CLK_DROOP_THR_MV,
   RST_MODE, RST_CAUSE, RST_BOOT_STAT_STEP, HDR_PAGE_ID_MARK, HDR_PAGE_VER_LAYOUT,
   HDR_PAGE_VER_STEP, HDR_CAPS_HDR, HDR_STATUS_PRESENT, CEN_INFO_VER, CEN_INFO_NOBJ,
   PWR_VRC_VOLT]

end Reg

end Sys2Proof.Machine
end

