-- ==== Sys2Proof/Machine/Tbl.lean ====
section
/-! DEFINITION. Sparse tables: reading, writing, and the canonical form every write keeps. `d k` is what an unlisted
key `k` reads as. -/

namespace Sys2Proof.Machine

/-- The entry at key `k`. -/
def tget {α : Type} (d : Nat → α) : Tbl α → Nat → α
  | [], k => d k
  | (j, v) :: t, k => if j = k then v else tget d t k

/-- Lists `v` at key `k`, keeping the keys in rising order. -/
def tput {α : Type} (k : Nat) (v : α) : Tbl α → Tbl α
  | [] => [(k, v)]
  | (j, w) :: t =>
    if k < j then (k, v) :: (j, w) :: t else if k = j then (k, v) :: t else (j, w) :: tput k v t

/-- Takes key `k` off the list. -/
def tdel {α : Type} (k : Nat) (t : Tbl α) : Tbl α := t.filter fun e => decide (e.1 ≠ k)

/-- Writes `v` at key `k`; writing what an unlisted key reads as removes the entry. -/
def tset {α : Type} [DecidableEq α] (d : Nat → α) (t : Tbl α) (k : Nat) (v : α) : Tbl α :=
  if v = d k then tdel k t else tput k v t

/-- Every listed key is above `lo`, keys rise, and no entry equals its default. -/
def twfFrom {α : Type} [DecidableEq α] (d : Nat → α) : Nat → Tbl α → Bool
  | _, [] => true
  | lo, (j, v) :: t => decide (lo ≤ j) && decide (v ≠ d j) && twfFrom d (j + 1) t

/-- The canonical form of a table. -/
def twf {α : Type} [DecidableEq α] (d : Nat → α) (t : Tbl α) : Bool := twfFrom d 0 t

/-- `n` consecutive bytes from key `k`, lowest address least significant (R4). -/
def tbytes (d : Nat → Byte) (t : Tbl Byte) (k : Nat) : Nat → Nat
  | 0 => 0
  | n + 1 => (tget d t k).toNat + 256 * tbytes d t (k + 1) n

/-- Stores the low `n` bytes of `v` from key `k` up (R4). -/
def tstore (d : Nat → Byte) (t : Tbl Byte) (k : Nat) : Nat → Nat → Tbl Byte
  | 0, _ => t
  | n + 1, v => tstore d (tset d t k (BitVec.ofNat 8 v)) (k + 1) n (v / 256)

/-- `n` keys from `k` up, each given back to its default. -/
def tclear {α : Type} (t : Tbl α) (k n : Nat) : Tbl α :=
  t.filter fun e => !(decide (k ≤ e.1) && decide (e.1 < k + n))

/-- Two sorted lists joined in order, the first's elements before equal ones of the second; the count bounds the steps. -/
def mergeBy {α : Type} (le : α → α → Bool) : Nat → List α → List α → List α
  | 0, a, b => a ++ b
  | _ + 1, [], b => b
  | _ + 1, a, [] => a
  | n + 1, x :: a, y :: b => if le x y then x :: mergeBy le n a (y :: b) else y :: mergeBy le n (x :: a) b

/-- A list sorted by halving it at most the given number of times. -/
def sortHalves {α : Type} (le : α → α → Bool) : Nat → List α → List α
  | 0, l => l
  | n + 1, l =>
    if l.length ≤ 1 then l
    else mergeBy le l.length (sortHalves le n (l.take (l.length / 2))) (sortHalves le n (l.drop (l.length / 2)))

/-- A list in the order of `le`, equal elements in the order they stood (lists of up to 2^64 elements). -/
def sortBy {α : Type} (le : α → α → Bool) (l : List α) : List α := sortHalves le 64 l

end Sys2Proof.Machine
end

