-- ==== Sys2Proof/Machine/TypesWork.lean ====
section
/-! DEFINITION. What the front end, the weave engine and the memory tiers hold (chapters 6, 7 and 9 of the spec). -/

namespace Sys2Proof.Machine

/-- STATE of an INFLIGHT entry (R440). -/
inductive CmdSt where
  | fetched | dispatched | running | held | yielding | yielded | restoring | retired
  deriving DecidableEq, Repr

/-- A chunk of an admission table (R224, R227): its entry and leaf digest. -/
structure AChunk where
  off : Nat
  stored : Nat
  outLen : Nat
  coded : Bool
  table : Nat
  digest : Nat
  deriving DecidableEq, Repr

/-- An admission slot (R227): owner, container base, first chunk, key, data offset, chunks, code tables. -/
structure ASlot where
  part : Nat
  base : Nat
  first : Nat
  keyId : Nat
  offData : Nat
  chunks : List AChunk
  tables : List (List Nat)
  deriving DecidableEq, Repr

/-- One command from its fetch to the writing of its record (R238 to R250, R440). -/
structure Cmd where
  ring : Nat
  idx : Nat
  /-- the 64-byte descriptor (R240) -/
  desc : Line
  /-- engine number of R440 -/
  engine : Nat
  st : CmdSt
  /-- taken by its engine, and waiting there for a condition of its own -/
  taken : Bool
  /-- the engine has finished with it: it retires next -/
  finished : Bool
  status : Nat
  sub : Nat
  progress : Nat
  result : Nat
  cost : Nat
  /-- tiles or pages the command has in all -/
  total : Nat
  yOnce : Bool
  yReason : Nat
  semErr : Bool
  /-- always-on time of retirement -/
  time : Nat
  bind : Option Nat
  /-- model and set the command holds a reference on (R234) -/
  mref : Option (Nat × Nat)
  /-- dispatchable, and counted as work of its partition (R255) -/
  ready : Bool
  /-- counted in `COL_WAIT` (R250) -/
  colWait : Bool
  /-- the arrival descriptor of a move, once read (R217), 0 for a plain copy; of a LOAD or RESUME, 1 once its image has been
  read -/
  arv : Nat
  /-- tiles of a move that have landed beyond the watermark (R203) -/
  landed : List Nat
  /-- tiles of an arrival move that failed, with their statuses (R228) -/
  fails : List (Nat × Nat)
  /-- tiles of an arrival move begun and held (R236) -/
  begun : List Nat
  /-- the admission slot of an arrival move as it was when an UNADMIT took it away (R235) -/
  oldSlot : Option ASlot
  deriving DecidableEq, Repr

/-- The front end (R238 to R257). Keys: ring for `pend`, `log2`, `latch`, `recStop`; 256·p + semaphore for
`semVal`, `semErr`; partition for `vf`, `vp`; 3·p + regulator for `bucket`; 8·engine + partition for `lastRing`; engine for
`lastPart`. -/
structure Front where
  fetched : List Cmd
  inflight : List Cmd
  /-- retired commands whose record is not yet written, in retirement order -/
  retired : List Cmd
  semVal : Tbl Word
  semErr : Tbl Bool
  vf : Tbl Nat
  vp : Tbl Nat
  /-- bucket levels in bytes (R256) -/
  bucket : Tbl Int
  /-- records written since the last interrupt (R251) -/
  pend : Tbl Nat
  /-- LOG2SIZE in effect since EN rose -/
  log2 : Tbl Nat
  /-- latch of R234: model and set -/
  latch : Tbl (Option (Nat × Nat))
  /-- a record of the ring has been failed: it and later ones are never written (R252) -/
  recStop : Tbl Bool
  /-- rings whose descriptor read or record write is held on a fault record -/
  fetchHeld : Tbl Bool
  recHeld : Tbl Bool
  /-- ring last given a collector entry (R250) -/
  lastColl : Nat
  lastRing : Tbl Nat
  lastPart : Tbl Nat
  /-- one past the highest index of the ring that has started (R257); key ring -/
  started : Tbl (Option Nat)
  /-- highest index of the ring retired since its reset (R386); key ring -/
  topRet : Tbl (Option Nat)
  deriving DecidableEq, Repr

/-- Variant entry of a weave image (R155). -/
structure Variant where
  extLim : Nat
  pro : Nat
  bfix : Nat
  btile : Nat
  epi : Nat
  tiles : Nat
  offCfg : Nat
  deriving DecidableEq, Repr

/-- Link entry (R155). -/
structure LinkEntry where
  src : Nat
  dst : Nat
  pos : Nat
  dir : Nat
  lag : Nat
  slots : Nat
  route : Nat
  deriving DecidableEq, Repr

/-- Override entry (R155). -/
structure OverEntry where
  unit : Nat
  word : Nat
  kind : Nat
  rest : Nat
  deriving DecidableEq, Repr

/-- Reconvergence entry (R155). -/
structure RcvEntry where
  isl : Nat
  pos : Nat
  out : Nat
  n : Nat
  longRoute : Nat
  shortRoute : Nat
  longLat : Nat
  shortLat : Nat
  deriving DecidableEq, Repr

/-- A weave as the engine keeps it: the image's header and tables, and its placement (R154 to R157). -/
structure Weave where
  part : Nat
  img : Nat
  flags : Nat
  size : Nat
  shape : Nat
  nisl : Nat
  lenM1 : Nat
  nvar : Nat
  tripMax : Nat
  extMax : Nat
  extTile : Nat
  rndMax : Nat
  weaveId : Nat
  variants : List Variant
  links : List LinkEntry
  overs : List OverEntry
  rcvs : List RcvEntry
  /-- physical island of each weave-relative island; empty while yielded -/
  place : List Nat
  hot : Bool
  var : Nat
  deriving DecidableEq, Repr

/-- An invocation in progress (R162, R163). -/
structure Invoc where
  ring : Nat
  idx : Nat
  gen : Nat
  var : Nat
  n : Nat
  e : Nat
  seed : Nat
  words : List Nat
  /-- islands released so far, and those that reported done (weave-relative) -/
  released : Nat
  done : List Nat
  /-- a stop of the weave is in effect (R259, faults) -/
  stopped : Bool
  /-- rounds of R165; 0 when RND_MAX governs -/
  rounds : Nat
  deriving DecidableEq, Repr

/-- What a switching or draining binding waits to do (R172 to R175). -/
inductive BindOp where
  | drain | carry | relocate | unload
  deriving DecidableEq, Repr

/-- A binding beyond its registers (R161, R170 to R175). -/
structure Binding where
  cur : Option Weave
  new : Option Weave
  inv : Option Invoc
  invNew : Option Invoc
  /-- the operation in progress and its command -/
  op : Option (BindOp × Nat × Nat)
  /-- the load in progress (LOAD or the load step of a switch) and its command -/
  loading : Option (Nat × Nat)
  /-- time of the last use by an invocation or load, for R231 -/
  lastUse : Nat
  /-- time the configuration began to be written -/
  since : Nat
  deriving DecidableEq, Repr

/-- An allocated frame segment with its heat entry (R188, R197, R208). Key: 2^32·tier + number. -/
structure FSeg where
  part : Nat
  seg : Nat
  pool : Bool
  retired : Bool
  heat : Nat
  age : Nat
  touched : Bool
  errAt : Option Nat
  deriving DecidableEq, Repr

/-- A segment of a partition's range with LOCAL pages. Key: 2^31·partition + segment number. -/
structure Segm where
  tier : Nat
  frame : Nat
  mig : Option Nat
  deriving DecidableEq, Repr

/-- A migration in progress (R196, census object MIGR). Causes: 0 scan, 1 MIGRATE, 2 PIN, 3 walker, 4 group builder,
5 retirement. -/
structure Migr where
  id : Nat
  part : Nat
  seg : Nat
  srcTier : Nat
  srcFrame : Nat
  dstTier : Nat
  dstFrame : Nat
  dstPool : Bool
  copied : Nat
  cause : Nat
  porter : Nat
  owner : Option (Nat × Nat)
  deriving DecidableEq, Repr

/-- A request held on a fault (R199, R203). -/
inductive HeldReq where
  | tile (r i : Nat)
  | bushel (b q : Nat)
  | image (r i : Nat)
  | service (r i : Nat)
  | descRead (r : Nat)
  | recWrite (r i : Nat)
  /-- a bushel request of a yielded invocation, saved unissued -/
  | yielded (r i : Nat)
  /-- a window write a peer has refused (R330): its number, the SRC code of R200, its command -/
  | winWrite (id src r i : Nat)
  /-- an access of the host through aperture 1 that goes on to a peer's window (R351, R332) -/
  | host
  /-- the read of a page's clean copy through a peer's window (R208); it is never held -/
  | repair (p page : Nat)
  deriving DecidableEq, Repr

/-- A fault record (R200). `seq = none`: held without a record, the table being full. -/
structure FaultRec where
  seq : Option Nat
  part : Nat
  page : Nat
  kind : Nat
  sub : Nat
  src : Nat
  wr : Bool
  conv : Bool
  ended : Bool
  written : Bool
  tag : Nat
  ring : Nat
  unitNo : Nat
  time : Nat
  held : List HeldReq
  deriving DecidableEq, Repr

/-- A page locked by a service engine command (R205). -/
structure PageLock where
  part : Nat
  page : Nat
  ring : Nat
  idx : Nat
  deriving DecidableEq, Repr

/-- The memory tiers and their tables (R181 to R212). Keys: `l1` 4096·p + index, `l2` 2^24·p + index, `l3` and `sh`
2^36·p + page number; frame segments and segments as above; `seqNext` partition. -/
structure Memory where
  t2 : Tbl Byte
  t3 : Tbl Byte
  l1 : Tbl DWord
  l2 : Tbl DWord
  l3 : Tbl DWord
  sh : Tbl DWord
  /-- range tables in error (R208): level 3 at key 2^24·p + index of the table, level 2 at 2^27 + 4096·p + index, level 1
  at 2^28 + p -/
  badTbl : Tbl Bool
  fsegs : Tbl (Option FSeg)
  segs : Tbl (Option Segm)
  /-- capacity port used last (R183) -/
  t3last : Nat
  /-- tables taken from the pool so far, which gives each its free value (assumption 6) -/
  tblNext : Nat
  migs : List Migr
  migNext : Nat
  faults : List FaultRec
  seqNext : Tbl Nat
  locks : List PageLock
  /-- admission slots (R227); key slot -/
  slots : Tbl (Option ASlot)
  /-- pages (partition, page) whose zero-fill could not be charged, with the subcode of R193, until the request that waits
  for it is held on its record (R202) -/
  noFill : List (Nat × Nat × Nat)
  /-- detection errors (partition, page, subcode of R208 and R209) that no access has reported yet -/
  found : List (Nat × Nat × Nat)
  deriving DecidableEq, Repr

end Sys2Proof.Machine
end

