-- ==== Sys2Proof/Machine/TypesDev.lean ====
section
/-! DEFINITION. What the power controller, the serving engines, the Skein side, the host side and the security block hold
(chapters 10 to 18 of the spec). -/

namespace Sys2Proof.Machine

/-- The power controller beyond its registers (R368 to R389, R454). -/
structure Power where
  /-- power-on reset is held by the rail monitors, or the package has no power (R387, R455) -/
  off : Bool
  /-- the power-fail sequence is under way, up to the halt (R385) -/
  pfail : Bool
  /-- 1 power-fail, 2 trip, 3 a power-fail that a trip cut short (R386, R388) -/
  cause : Nat
  /-- what asks for a brake: the pin, the Brake threshold, a rail alert, the power-fail sequence (R378, R379, R385) -/
  pin : Bool
  hot : Bool
  alert : Bool
  pfBrake : Bool
  /-- the package stands above Warn (R379) -/
  warn : Bool
  /-- a skip with no end is in force (R378, R381) -/
  full : Bool
  /-- rounds an island has run since it last skipped under a duty; key island -/
  duty : Tbl Nat
  /-- the skip duty the last evaluation asks for, towards which D falls (R377) -/
  want : Nat
  /-- slopes above 5 K/s in a row, and slopes at or below 1 K/s in a row (R381) -/
  steep : Nat
  calm : Nat
  /-- `THERMTRIP_N` driven low (R382) -/
  tripLow : Bool
  /-- samples in a row at which a temperature sensor read the same, and sensors marked invalid (R369); key sensor -/
  same : Tbl Nat
  bad : Tbl Bool
  /-- microjoules not yet in `ENERGY` and `OVERRUN` -/
  energyUj : Nat
  overUj : Nat
  /-- a point planned, to which the weave steps once prepared (R375); key 2·binding + (1 for the incoming weave) -/
  plan : Tbl (Option Nat)
  /-- a SETV whose rail has not settled (R454); key die -/
  railWait : Tbl Bool
  /-- the domain's clock generator suppresses edges (R370); key domain -/
  droop : Tbl Bool
  /-- frame segment of T3 set aside as the closing region at boot (R384) -/
  region : Option Nat
  deriving DecidableEq, Repr

/-- A sampler slot (R267 to R269): its partition, parameters as FP32 bits, seed, STEP, overflow table, LOSSY, counts by
token. Which slots are open `SMP.SLOT_OPEN` shows. -/
structure SSlot where
  part : Nat
  lpraw : Bool
  bf16 : Bool
  topk : Nat
  temp : Nat
  topp : Nat
  minp : Nat
  rep : Nat
  pres : Nat
  freq : Nat
  vocab : Nat
  seed : Nat
  step : Nat
  spill : Nat
  lossy : Bool
  counts : Tbl Nat
  deriving DecidableEq, Repr

def SSlot.idle : SSlot :=
  { part := 0, lpraw := false, bf16 := false, topk := 0, temp := 0, topp := 0, minp := 0, rep := 0, pres := 0, freq := 0,
    vocab := 0, seed := 0, step := 0, spill := 0, lossy := false, counts := [] }

/-- A move of a node's block that the index walker has asked for (R288, R293): its node, the tier it goes to, its
segments, whether the migrations have started, the tier wanted in the end. -/
structure WMove where
  part : Nat
  node : Nat
  dst : Nat
  segs : List Nat
  started : Bool
  want : Nat
  deriving DecidableEq, Repr

/-- The sampler and the index walker beyond their registers (R267, R278, R288). `regions` holds the bases a partition's
IDX_SETUP gave: nodes, digest buckets, block buckets, reclaim ring. -/
structure Serving where
  slots : Tbl SSlot
  regions : Tbl (List Nat)
  moves : List WMove
  /-- segments an expert fetch still has to bring to T2, once an eviction makes room (R194, R306) -/
  needs : List Nat
  deriving DecidableEq, Repr

/-- A flit (R320). `body` holds the fields whose place in the payload the spec does not give. -/
structure Flit where
  typ : Nat
  h : FlitHdr
  body : List Nat
  data : List Nat
  deriving DecidableEq, Repr

/-- The link layer of a Skein port (R321, R322): what its training ended in (0 not trained, else the state of R346), the
next LSEQ sent and the one expected, whether arrivals are discarded up to that one, the replay buffer, flits waiting for a
credit, credits held and owed for each VC, failed replays in a row of the oldest flit, flits since the last ACK. -/
structure Port where
  trained : Nat
  txSeq : Nat
  rxSeq : Nat
  skip : Bool
  replay : List Flit
  wait : List Flit
  cred : List Nat
  owed : List Nat
  fails : Nat
  since : Nat
  deriving DecidableEq, Repr

def Port.idle : Port :=
  { trained := 0, txSeq := 0, rxSeq := 0, skip := false, replay := [], wait := [], cred := [64, 64, 128, 8],
    owed := [0, 0, 0, 0], fails := 0, since := 0 }

/-- How a window access toward a peer stands. -/
inductive WSt where
  | asked | here | failed (kind sub : Nat)
  deriving DecidableEq, Repr

/-- One 256-byte granule of a window access (R329, R330): the peer, the partition and page of the access, the peer's page
and granule, whose request it is, the lines written, the data sent or brought back. -/
structure WReq where
  id : Nat
  dev : Nat
  part : Nat
  page : Nat
  wpage : Nat
  gran : Nat
  owner : Option HeldReq
  write : Bool
  mask : Nat
  data : List Nat
  st : WSt
  deriving DecidableEq, Repr

/-- A CREADY kept (R340): sender, SEQ, TAG, members, RCAP. -/
structure Early where
  dev : Nat
  seq : Nat
  tag : Nat
  nmem : Nat
  rcap : Nat
  deriving DecidableEq, Repr

/-- A collective group beyond its registers (R335, R340, R343): TAG, members, CREADYs kept, SEQs aborted ahead. -/
structure CGroup where
  tag : Nat
  members : List Nat
  early : List Early
  aborted : List Nat
  deriving DecidableEq, Repr

def CGroup.idle : CGroup := ⟨0, [], [], []⟩

/-- A collective in progress (R340, R341). By rank: `ready` the RCAP of its CREADY, `sent` flits sent to it, `ret` credits
returned, `fin` final credits come, `placed` flits placed from it, `owed` flits it sends in all once known, `stuck` its
next flit has waited for credit. `acc` and `adds` hold the reduction by granule (FP32 bits, contributions added);
`parts` the FP32 words of ROWSTAT by 2^17·rank + place; `a2a` the ALLTOALL table. -/
structure Coll where
  grp : Nat
  ring : Nat
  idx : Nat
  seq : Nat
  ready : List (Nat × Nat)
  sent : Tbl Nat
  ret : Tbl Nat
  fin : List Nat
  placed : Tbl Nat
  owed : List (Nat × Nat)
  stuck : List Nat
  acc : Tbl (List Nat)
  adds : Tbl Nat
  parts : Tbl Nat
  a2a : List (List Nat)
  deriving DecidableEq, Repr

/-- A register access the lead has forwarded (R332): its number, target, whether it waits for window writes, the access. -/
structure RegReq where
  id : Nat
  dev : Nat
  off : Nat
  size : Nat
  isWr : Bool
  v : Nat
  sent : Bool
  deriving DecidableEq, Repr

/-- The Skein side (chapter 12). Keys: port; destination for `rot` (ports in rotation) and `used` (end-to-end credit in
use); group. -/
structure Skein where
  ports : Tbl Port
  rot : Tbl Nat
  reqs : List WReq
  reqNext : Nat
  used : Tbl Nat
  groups : Tbl CGroup
  colls : List Coll
  regs : List RegReq
  deriving DecidableEq, Repr

/-- An Ethernet queue pair (R363): owner, tail posted, requests performed, error state. -/
structure QPair where
  part : Nat
  tail : Nat
  head : Nat
  err : Bool
  deriving DecidableEq, Repr

def QPair.idle : QPair := ⟨0, 0, 0, false⟩

/-- A census copy under way (R438): what it ends with, the host address, the ledger charged, the bytes of the snapshot. -/
structure CopyJob where
  code : Nat
  need : Nat
  dst : Nat
  part : Nat
  bytes : List Nat
  deriving DecidableEq, Repr

/-- The host side and Ethernet (chapter 13), and the census copy under way: lines of aperture 1 the host holds, least recently
granted first, and those being recalled (partition, 128-byte line); messages the firmware has taken from the mailbox, and
those it has yet to put there; queue pairs (key 512·port + queue pair); priorities paused by port (R362). -/
structure HostSide where
  dir : List (Nat × Nat)
  recalls : List (Nat × Nat)
  inbox : List (List Nat)
  outbox : List (List Nat)
  qps : Tbl QPair
  pfc : Tbl Nat
  copy : Option CopyJob
  deriving DecidableEq, Repr

/-- A boot record copy (R415). States of a slot: 0 EMPTY, 1 GOOD, 2 PENDING, 3 BAD. -/
structure BootRec where
  seq : Nat
  active : Nat
  s0 : Nat
  s1 : Nat
  tries : Nat
  crcOk : Bool
  deriving DecidableEq, Repr

/-- A record of the settings store (R420). -/
structure SetRec where
  id : Nat
  fmt : Nat
  val : List Nat
  deriving DecidableEq, Repr

/-- A copy of the settings store (R420). -/
structure StoreCopy where
  seq : Nat
  crcOk : Bool
  recs : List SetRec
  deriving DecidableEq, Repr

/-- The boot flash (R413): copies 0 and 1 of the boot record and of the settings store; `fs` and `rf` hold the images of
slots 0 and 1 as bytes. -/
structure Flash where
  boot : List BootRec
  fs : List (List Nat)
  rf : List (List Nat)
  store : List StoreCopy
  keys : List (List Nat)
  cert : List Nat
  deriving DecidableEq, Repr

/-- The fuses (R407); `owner` 0 stands for an OWNER_DIGEST not programmed. -/
structure Fuses where
  uds : Nat
  svnFs : Nat
  svnRf : Nat
  owner : Nat
  debugEn : Bool
  deriving DecidableEq, Repr

/-- A firmware update operation under way (R418, R426): its number, the code it will end with, the image it writes. -/
structure FwuOp where
  op : Nat
  code : Nat
  kind : Nat
  image : List Nat
  deriving DecidableEq, Repr

/-- The security block, the firmware's store and what a boot keeps beyond registers (R391 to R426, R451).
`aliasSeed` the Alias key's seed; `op` the update in progress; `soft` the boot follows a soft reset; `wait` the next boot step
waits for the reference (R392); `since` time step 6 began; `att` STATE of the attach header; `rcv` KIND, SIZE and buffer of the
recovery session; `i3c` the dynamic address; `jtag` the test port's instruction. -/
structure Security where
  flash : Flash
  fuses : Fuses
  aliasSeed : Nat
  op : Option FwuOp
  soft : Bool
  wait : Bool
  since : Nat
  att : Nat
  rcv : Option (Nat × Nat × List Nat)
  i3c : Option Nat
  jtag : JtagIns
  deriving DecidableEq, Repr

end Sys2Proof.Machine
end

