-- ==== Sys2Proof/Machine/TypesUnits.lean ====
section
/-! DEFINITION. What a stake, a bushel, a switch, a crossing and an island hold (chapters 2 to 5 of the spec). -/

namespace Sys2Proof.Machine

/-- One beat: 512 data bits and the 16 control bits of R125. `org` names the retained read run that sent it, as bushel,
engine and run number, for the verdict and the replay it may need (R98, R116). -/
structure Beat where
  data : Line
  ctl : BitVec 16
  org : Option (Nat × Nat × Nat)
  deriving DecidableEq, Repr

/-- One vector stage (R73, R83): its VSET word, its eight constants, its 32-lane accumulator and whether that holds
INT32 values (assumption 83). -/
structure Stage where
  set : DWord
  consts : List Nat
  acc : List Nat
  accInts : Bool
  deriving DecidableEq, Repr

/-- A vector run in progress (R84): the VRUN word, beats done, side beat in use. -/
structure VRun where
  word : DWord
  done : Nat
  side : List Nat
  /-- second halves of 16-bit transfers already taken (R72), entry and side -/
  rest : List (List Nat)
  sideRest : List (List Nat)
  deriving DecidableEq, Repr

/-- The vector pipeline: stages, output control, generator of R32, run, drain buffer of rows and whether they are INT32
(R61, R73, R77). -/
structure Vec where
  stages : List Stage
  octl : DWord
  gen : Nat
  run : Option VRun
  drain : List (List Nat)
  drainInts : Bool
  deriving DecidableEq, Repr

/-- An array instruction in progress (R82): its word, its place, tiles left, whether it reads the panel an earlier one
kept in the B buffer (R60). -/
structure MtRun where
  word : DWord
  at_ : Nat
  left : Nat
  kept : Bool
  deriving DecidableEq, Repr

/-- A bypass instruction in progress (R69): its word, its place, columns left, the activation rows once they are loaded
(elements and block scales), a poisoned operand met. -/
structure BypRun where
  word : DWord
  at_ : Nat
  left : Nat
  rows : Option (List (List Nat) × List (List Nat))
  bad : Bool
  deriving DecidableEq, Repr

/-- One of the two accumulator sets of the array, with its check cells (R56, R62): 16 × 32 accumulators, which of them
saturated, E and M of each row and column as FP32 bits, or INT32 for integer tiles. -/
structure AccSet where
  acc : List Nat
  sat : List Bool
  rowE : List Nat
  rowM : List Nat
  colE : List Nat
  colM : List Nat
  deriving DecidableEq, Repr

/-- Cells that hold zero. -/
def AccSet.zero : AccSet := ⟨[], [], [], [], [], []⟩

/-- A drained tile until its verdict (R62, R63): its word and place, the accumulator set it stands in, whether it is an
integer tile, whether a poisoned or bad byte fed it, whether it took its panel from IN1, the handles the stake held
when it drained, the retained runs that fed it. -/
structure DTile where
  word : DWord
  at_ : Nat
  set : Nat
  ints : Bool
  bad : Bool
  tookB : Bool
  hands : List (List Nat)
  runs : List (Nat × Nat × Nat)
  deriving DecidableEq, Repr

/-- The checkpoint of R63, taken at the first drain beat: stage accumulators, generator, the vector run and its beat
count; and the side beats taken since. `run` is the run in progress, or the first one that began since. -/
structure Ckpt where
  acc : List (List Nat × Bool)
  gen : Nat
  run : Option VRun
  side : List (Nat × Beat)
  deriving DecidableEq, Repr

/-- A stake (R53 to R90). Ports: `inq` IN0 to IN3, `outq` OUT0, OUT1; `hand` the handles taken from each direction;
`relq` releases waiting for the verdict (handle, direction, target direction, forward); `rep` the replay beats each
port has received in a recompute (R64). -/
structure Stake where
  mode : Nat
  pc : Nat
  loops : List (Nat × Nat × Nat)
  ended : Bool
  frz : Nat
  mt : Option MtRun
  byp : Option BypRun
  sets : List AccSet
  cur : Nat
  vec : Vec
  tile : Option DTile
  ckpt : Option Ckpt
  recomp : Bool
  held : List (Nat × Beat)
  inq : List (List Beat)
  rep : List (List Beat)
  outq : List (List Beat)
  /-- panel kept in the B buffer: what it holds (format, extent, scale mode, rows), elements and scales (R60, R69) -/
  bhold : Option (Nat × List (List Nat) × List (List Nat))
  hand : List (List Nat)
  relq : List (Nat × Nat × Nat × Bool)
  lastTake : Option Nat
  deriving DecidableEq, Repr

def Stage.idle : Stage := ⟨0, List.replicate 8 0, List.replicate 32 0, false⟩

def Vec.idle : Vec := ⟨List.replicate 6 Stage.idle, 0, 1, none, [], false⟩

/-- A stake no weave has placed anything in. -/
def Stake.idle : Stake :=
  { mode := 0, pc := 0, loops := [], ended := false, frz := 0, mt := none, byp := none, sets := [.zero, .zero], cur := 0,
    vec := Vec.idle, tile := none, ckpt := none, recomp := false, held := [], inq := [[], [], [], []],
    rep := [[], [], [], []], outq := [[], []], bhold := none, hand := [[], [], [], []], relq := [], lastTake := none }

/-- State of a ring slot (R96). -/
inductive SlotSt where
  | free | filling (eng : Nat) | full | draining (eng : Nat) | retained
  deriving DecidableEq, Repr

/-- A ring slot: its state, whether its producer has released it, the read-only fetches that filled it (device address,
SRAM address, bytes, engine, porter), whether it is being refetched, and the verdicts owed, as engine, run and stake (R96 to R98,
R117). -/
structure Slot where
  st : SlotSt
  relp : Bool
  src : List (Nat × Nat × Nat × Nat × Nat)
  refetch : Bool
  verdicts : List (Nat × Nat × Nat)
  deriving DecidableEq, Repr

def Slot.fresh : Slot := ⟨.free, false, [], false, []⟩

/-- A ring: descriptor, slots, head and tail (R96). -/
structure Ring where
  desc : DWord
  slots : List Slot
  head : Nat
  tail : Nat
  deriving DecidableEq, Repr

/-- A record of a retained RD run, for replay (R116): its number, port, address, width, beats, XL value, PAD. -/
structure RdRec where
  no : Nat
  port : Nat
  addr : Nat
  width : Nat
  beats : Nat
  xl : Nat
  pad : Bool
  deriving DecidableEq, Repr

/-- A read run on an output port's sequencer (R103, R114, R116): engine, its number where it is retained, address of the
next beat, width, beats left, XL value, PAD, whether it is a replay, whether its next beat waits for a refetch. -/
structure RdRun where
  eng : Nat
  no : Option Nat
  addr : Nat
  width : Nat
  left : Nat
  xl : Nat
  pad : Bool
  rpl : Bool
  refetch : Bool
  deriving DecidableEq, Repr

/-- A tally engine (R102, R103). `runs` numbers its retained read runs. -/
structure Tally where
  pc : Nat
  loops : List (Nat × Nat × Nat)
  x : List Nat
  ended : Bool
  recs : List RdRec
  runs : Nat
  deriving DecidableEq, Repr

/-- State of an off-chip request (R108 to R111). -/
inductive ReqSt where
  | open_ | eligible | issued | held | carried
  deriving DecidableEq, Repr

/-- An off-chip request (R108): number, engine, store or fetch, device and SRAM address, length, porter, read-only,
state, whether it waits only for a regulator. -/
structure Req where
  id : Nat
  eng : Nat
  store : Bool
  da : Nat
  sram : Nat
  len : Nat
  porter : Nat
  ro : Bool
  st : ReqSt
  throttled : Bool
  /-- bytes carried so far, where a 64 KiB boundary splits the request in two transfers (R184) -/
  sent : Nat
  /-- bytes read for a fetch, until they land -/
  data : Nat
  deriving DecidableEq, Repr

/-- A write run on an input port (R103, R105): engine, address, width, beats left. -/
structure WrRun where
  eng : Nat
  addr : Nat
  width : Nat
  left : Nat
  deriving DecidableEq, Repr

/-- A bushel (R91 to R122). `frz` holds the freeze codes of engine 0, engine 1 and the port sequencers; `hq` holds
(handle, addressee); `freeBufs` the free list; `took` the last handle each stake neighbour took by WAITH. On the control
path to it: `rets` handles on their way back, `sigs` tile verdicts, as stake, engine and run. `rd` and `rpl` are the
read runs and the replay runs of each output port, `rplq` the replay beats each port has ready. -/
structure Bushel where
  mode : Nat
  padv : Nat
  rings : List Ring
  bufs : List Nat
  eng : List Tally
  frz : List Nat
  hq : List (Nat × Nat)
  freeBufs : List Nat
  took : List (Option Nat)
  rets : List Nat
  sigs : List (Nat × List (Nat × Nat))
  reqs : List Req
  reqNext : Nat
  wr : List (List WrRun)
  rd : List (List RdRun)
  rpl : List (List RdRun)
  inq : List (List Beat)
  outq : List (List Beat)
  rplq : List (List Beat)
  sync : Bool
  reported : Bool
  deriving DecidableEq, Repr

def Tally.idle : Tally := ⟨0, [], List.replicate 8 0, false, [], 0⟩

/-- A bushel no weave has placed anything in. -/
def Bushel.idle : Bushel :=
  { mode := 0, padv := 0, rings := [], bufs := [], eng := [Tally.idle, Tally.idle], frz := [0, 0, 0], hq := [],
    freeBufs := [], took := [none, none, none, none], rets := [], sigs := [], reqs := [], reqNext := 0,
    wr := [[], [], [], []], rd := [[], [], [], []], rpl := [[], [], [], []], inq := [[], [], [], []],
    outq := [[], [], [], []], rplq := [[], [], [], []], sync := false, reported := false }

/-- A fabric crossing (R133): beats written and not yet delivered to the receiving domain, beats delivered, FULL as the
sender sees it. A link across dies has three, one after the other (R135). -/
structure Crossing where
  flight : List Beat
  avail : List Beat
  fullSeen : Bool
  deriving DecidableEq, Repr

def Crossing.idle : Crossing := ⟨[], [], false⟩

/-- A switch (R123, R128, R139, R144): beats that have reached its direction inputs, each with the cycle it is switched
in, counted from the island's release (for a replay beat its slot); its skew queues; the switch conditions that hold, as
freeze code and input direction, output direction or unit port; the outputs it has served in the present slot. -/
structure Switch where
  inl : List (List (Nat × Beat))
  skew : List (List Beat)
  blk : List (Nat × Nat)
  done : List Nat
  deriving DecidableEq, Repr

def Switch.idle : Switch := ⟨[[], [], [], []], [[], [], [], []], [], []⟩

/-- An island beyond its registers (R126, R138 to R143, R166 to R168). `tree` lists the directions of its hold-tree
edges, `holdIn` the cause each delivers, `holdX` the one entry of the hold crossing that comes in by it, `holdSent` the
cause last written into the one that goes out; `skips` rounds of skipping to come; `step` a frequency step asked for or
in force; `dead` the count of R142; `rounds` the rounds run, where `WV_RND` saturates. -/
structure Island where
  bind : Option Nat
  newWeave : Bool
  wrel : Nat
  released : Bool
  stopped : Bool
  lastRound : Bool
  done : Bool
  tree : List Nat
  parent : Option Nat
  holdIn : List Nat
  holdX : List (Option Nat)
  holdSent : List Nat
  skips : Nat
  skipping : Nat
  step : Option Nat
  stepping : Bool
  dead : Nat
  rounds : Nat
  deriving DecidableEq, Repr

def Island.idle : Island :=
  { bind := none, newWeave := false, wrel := 0, released := false, stopped := false, lastRound := false, done := false,
    tree := [], parent := none, holdIn := [0, 0, 0, 0], holdX := [none, none, none, none], holdSent := [0, 0, 0, 0],
    skips := 0, skipping := 0, step := none, stepping := false, dead := 0, rounds := 0 }

/-- The rand fabric and its units. Keys: stake, bushel and island numbers; programs 512·stake + word and
64·(2·bushel + engine) + word; switches 64·island + position; slot tables 16·switch + row; links between islands
4·(receiving switch) + direction they come from, their crossings 3·link + stage, the lag of the route on them
(R136) 16·link + the four bits of its route number; SRAM 2^21·bushel + byte. -/
structure Fabric where
  stk : Tbl Stake
  stkProg : Tbl DWord
  bsh : Tbl Bushel
  bshProg : Tbl DWord
  /-- invocation words of each island's bushels (R103): key 16·island + word -/
  vwords : Tbl DWord
  sram : Tbl Byte
  badPar : Tbl Bool
  sw : Tbl Switch
  rows : Tbl DWord
  skewW : Tbl Word
  xing : Tbl Crossing
  lag : Tbl Nat
  isl : Tbl Island
  deriving DecidableEq, Repr

/-- Saved units of a full yield, by weave-relative number (R88, R120, R151). -/
structure SavedUnits where
  stk : List (Nat × Stake)
  bsh : List (Nat × Bushel)
  sram : List (Nat × Byte)
  badPar : List (Nat × Bool)
  vwords : List (Nat × DWord)
  sw : List (Nat × Switch)
  /-- crossings by weave-relative receiving switch and direction -/
  xing : List (Nat × Crossing)
  isl : List (Nat × Island)
  regs : List (Nat × Word)
  deriving DecidableEq, Repr

/-- The saved state of one full-yielded invocation (R260). -/
structure Saved where
  ring : Nat
  idx : Nat
  bind : Nat
  reason : Nat
  committed : Bool
  weave : Weave
  inv : Invoc
  latch : Option (Nat × Nat)
  area : Nat
  oldPlace : List Nat
  units : SavedUnits
  deriving DecidableEq, Repr

/-- A full yield in progress (R258, R259). -/
structure Yielding where
  ring : Nat
  idx : Nat
  bind : Nat
  reason : Nat
  by_ : Option (Nat × Nat)
  /-- the save area is not yet wholly in T2: the weave still runs (R206) -/
  pinning : Bool
  quiesced : Bool
  /-- time the islands stopped -/
  since : Nat
  deriving DecidableEq, Repr

/-- A restore in progress (R261): the RESUME, its target, the placement taken, the time it began. -/
structure Restoring where
  ring : Nat
  idx : Nat
  tring : Nat
  tidx : Nat
  place : List Nat
  since : Nat
  deriving DecidableEq, Repr

/-- A model descriptor (R232). -/
structure Model where
  id : Nat
  cls : Nat
  active : Nat
  swapPend : Bool
  relSem : Nat
  base : List Nat
  size : List Nat
  refs : List Nat
  bind : Nat
  lastUse : Nat
  deriving DecidableEq, Repr

def Model.idle : Model := ⟨0, 0, 0, false, 0, [0, 0], [0, 0], [0, 0], 0, 0⟩

/-- The weave engine beyond its registers (R153 to R180, R258 to R263, and the model descriptors of R232). -/
structure WeaveEng where
  binds : Tbl Binding
  saved : List Saved
  yields : List Yielding
  restores : List Restoring
  /-- model descriptors (R232): key 256·partition + index -/
  models : Tbl Model
  deriving DecidableEq, Repr

def Binding.idle : Binding :=
  { cur := none, new := none, inv := none, invNew := none, op := none, loading := none, lastUse := 0, since := 0 }

end Sys2Proof.Machine
end

