-- ==== Sys2Proof/Machine/State.lean ====
section
/-! DEFINITION. The state of the block, its stops, and the state after reset. -/

namespace Sys2Proof.Machine

/-- What the attestation responder answers (R410, R411), before its message format puts bytes to it. -/
inductive Reply where
  | eidSet (eid : Nat)
  | eid (eid : Nat)
  | mctpVersions (l : List Nat)
  | msgTypes (l : List Nat)
  | versions (l : List Nat)
  | capabilities (ver : Nat)
  | algorithms
  | digests (chain : Nat)
  | certificate (l : List Nat)
  | challenge (nonce : Nat) (meas : List Nat) (sig : List Nat)
  | measurements (l : List (Nat × Nat)) (nonce : Nat) (sig : List Nat)
  | unsupported (code : Nat)
  deriving DecidableEq, Repr

/-- What the block sends outside (the model's own record of it, newest last). -/
inductive OutMsg where
  /-- bytes written to host memory (R352) -/
  | write (addr n val : Nat)
  /-- an interrupt message (R355) -/
  | msi (addr data : Nat)
  /-- a frame of the rail control interface (R453) -/
  | vrc (frame : Nat)
  /-- what an Ethernet queue pair sends: port, queue pair, operation, remote address and key, data (R363) -/
  | eth (port qp op raddr rkey : Nat) (data : List Nat)
  /-- a flit sent on a Skein port (R320) -/
  | flit (port : Nat) (f : Flit)
  /-- an attestation response (R410, R411) -/
  | reply (r : Reply)
  /-- a message of the recovery protocol read over I3C after an in-band interrupt (R402, R403) -/
  | i3c (l : List Nat)
  /-- the test port's data register (R451) -/
  | tdo (v : Nat)
  deriving DecidableEq, Repr

structure State where
  pending : List Instr
  fv : Nat
  now : Nat
  regs : Tbl Word
  fab : Fabric
  wve : WeaveEng
  front : Front
  mem : Memory
  srv : Serving
  pow : Power
  sec : Security
  skl : Skein
  hst : HostSide
  rdata : Nat
  out : List OutMsg
  /-- the _HI latch of each agent and page (R431): key 128·agent + page; the _HI address and its value -/
  lat : Tbl (Option (Nat × Nat))
  deriving DecidableEq, Repr

/-- Why the block stops. -/
inductive Fault where
  /-- The command names a unit, page or entry the device does not have (a ring above 63, an island above 31). Raised by
  every meaning that checks its operands' ranges. Safe: the hardware has no such unit to act. -/
  | noSuchUnit
  deriving DecidableEq, Repr

/-- Why the model gives no answer. -/
inductive Refusal where
  /-- A command whose meaning has not been written. Raised by the dispatch alone. Safe. -/
  | notModelled (mnemonic : String)
  deriving DecidableEq, Repr

/-- What a register reads as when nothing has changed it: its reset fields (R433 and the chapters' tables). -/
def resetWord (a : Nat) : Word :=
  let o := a % 0x1000
  let hdr : Nat :=
    if o = 0 then
      match Reg.blocks.find? (fun b => decide (b.base ≤ a) && decide (a < b.base + b.inst * 0x1000)) with
      | some b => b.code + (a - b.base) / 0x1000 * 256 + 0x4E * 2 ^ 24
      | none => 0
    else (Reg.nonzero.filter fun f => f.hits a).foldl (fun x f => x + f.reset * 2 ^ f.lo) 0
  BitVec.ofNat 32 hdr

/-! ### After reset -/

/-- A field's value in a register table. -/
def presetF (f : Fld) (i v : Nat) (t : Tbl Word) : Tbl Word :=
  tset resetWord t (f.addr i) (setF f.lo f.w v (tget resetWord t (f.addr i)))

/-- Registers after reset: those whose reset value is the grade's maximum take it (R2, R389; grade 0: 2,500 W, 3.3 GHz); every
other one its reset fields. `grade` is the fused grade (R3). -/
def gradeRegs (grade : Nat) : Tbl Word :=
  let w := if grade = 0 then 2500 else 1800
  let f := if grade = 0 then 33 else 29
  let t := presetF Reg.HDR_CAPS_GRADE 0x0A grade []
  let t := presetF Reg.PWR_EFF_CAP 0 w (presetF Reg.PWR_CAP_CTRL_LIMIT 0 w t)
  let t := presetF Reg.PWR_STAT_POINT 0 f t
  (List.range 8).foldl (fun t p => presetF Reg.PWR_TTGT p f (presetF Reg.PWR_PART_FMAX p f t)) t

def Fabric.reset : Fabric :=
  { stk := [], stkProg := [], bsh := [], bshProg := [], vwords := [], sram := [], badPar := [], sw := [], rows := [],
    skewW := [], xing := [], lag := [], isl := [] }

def WeaveEng.reset : WeaveEng := { binds := [], saved := [], yields := [], restores := [], models := [] }

def Front.reset : Front :=
  { fetched := [], inflight := [], retired := [], semVal := [], semErr := [], vf := [], vp := [], bucket := [], pend := [],
    log2 := [], latch := [], recStop := [], fetchHeld := [], recHeld := [], lastColl := 63, lastRing := [], lastPart := [],
    started := [], topRet := [] }

/-- After a reset the capacity port used last is taken to be CAP_7 (R183). -/
def Memory.reset : Memory :=
  { t2 := [], t3 := [], l1 := [], l2 := [], l3 := [], sh := [], badTbl := [], fsegs := [], segs := [], t3last := 7,
    tblNext := 0, migs := [], migNext := 0, faults := [], seqNext := [], locks := [], slots := [], noFill := [], found := [] }

def Serving.reset : Serving := { slots := [], regions := [], moves := [], needs := [] }

def Power.reset : Power :=
  { off := false, pfail := false, cause := 0, pin := false, hot := false, alert := false, pfBrake := false, warn := false,
    full := false, duty := [], want := 0, steep := 0, calm := 0, tripLow := false, same := [], bad := [], energyUj := 0,
    overUj := 0, plan := [], railWait := [], droop := [], region := none }

/-- A boot flash with nothing written in it, and fuses not programmed (assumption 32). -/
def Flash.blank : Flash :=
  { boot := [⟨0, 0, 0, 0, 0, false⟩, ⟨0, 0, 0, 0, 0, false⟩], fs := [[], []], rf := [[], []],
    store := [⟨0, false, []⟩, ⟨0, false, []⟩], keys := [], cert := [] }

def Security.reset : Security :=
  { flash := Flash.blank, fuses := ⟨0, 0, 0, 0, false⟩, aliasSeed := 0, op := none, soft := false, wait := false, since := 0,
    att := 0, rcv := none, i3c := none, jtag := .idcode }

def Skein.reset : Skein :=
  { ports := [], rot := [], reqs := [], reqNext := 0, used := [], groups := [], colls := [], regs := [] }

def HostSide.reset : HostSide := { dir := [], recalls := [], inbox := [], outbox := [], qps := [], pfc := [], copy := none }

/-- The block right after power-on reset (R399, R433): every register at its reset value, START-UP, boot step 1. -/
def State.reset : State :=
  { pending := [], fv := 0, now := 0, regs := gradeRegs 0, fab := Fabric.reset, wve := WeaveEng.reset, front := Front.reset,
    mem := Memory.reset, srv := Serving.reset, pow := Power.reset, sec := Security.reset, skl := Skein.reset,
    hst := HostSide.reset, rdata := 0, out := [], lat := [] }

end Sys2Proof.Machine
end

