-- ==== Sys2Proof/Machine/Ops.lean ====
section
/-! DEFINITION. The named operations over the register file and the tables of the state. -/

namespace Sys2Proof.Machine

abbrev Out := Host.Outcome State Fault Refusal

/-- A command acts only on units the device has; `ok` says the operands name such units. -/
def onUnit (ok : Bool) (k : Out) : Out := if ok then k else .fault .noSuchUnit

/-- The register word at window address `a`. -/
def rw (s : State) (a : Nat) : Word := tget resetWord s.regs a

/-- Register word `a` takes `v`. -/
def ww (s : State) (a : Nat) (v : Word) : State := { s with regs := tset resetWord s.regs a v }

/-- Field `f` of instance `i`. -/
def rd (s : State) (f : Fld) (i : Nat) : Nat := getF f.lo f.w (rw s (f.addr i))

/-- Field `f` of instance `i` takes `v` (its low bits); the register's other fields are kept. -/
def wr (s : State) (f : Fld) (i v : Nat) : State := ww s (f.addr i) (setF f.lo f.w v (rw s (f.addr i)))

/-- A counter field rises by `n` and stops at its maximum. -/
def bump (s : State) (f : Fld) (i n : Nat) : State := wr s f i (min (rd s f i + n) (2 ^ f.w - 1))

/-- A level field rises by `n` (not beyond its width). -/
def up (s : State) (f : Fld) (i n : Nat) : State := wr s f i (rd s f i + n)

/-- A level field falls by `n`, not below zero. -/
def down (s : State) (f : Fld) (i n : Nat) : State := wr s f i (rd s f i - n)

/-- Bit `k` of a field. -/
def rdBit (s : State) (f : Fld) (i k : Nat) : Bool := (rd s f i).testBit k

/-- Bit `k` of a field set. -/
def setBit (s : State) (f : Fld) (i k : Nat) : State := wr s f i (rd s f i ||| 2 ^ k)

/-- Bit `k` of a field cleared. -/
def clrBit (s : State) (f : Fld) (i k : Nat) : State :=
  wr s f i (if (rd s f i).testBit k then rd s f i - 2 ^ k else rd s f i)

/-- A register pair as one number. -/
def rd2 (s : State) (lo hi : Fld) (i : Nat) : Nat := rd s lo i + 2 ^ 32 * rd s hi i

/-- A register pair takes a number. -/
def wr2 (s : State) (lo hi : Fld) (i v : Nat) : State := wr (wr s lo i v) hi i (v / 2 ^ 32)

/-- A 64-bit counter pair rises by `n` and stops at its maximum. -/
def bump2 (s : State) (lo hi : Fld) (i n : Nat) : State := wr2 s lo hi i (min (rd2 s lo hi i + n) (2 ^ 64 - 1))

/-- A free value for the present step, and the step's own share of later ones (assumption 1). -/
def freeNat (s : State) : Nat := (Config.freeValue s.fv).toNat

/-- The free-value counter moves on. -/
def fresh (s : State) : State := { s with fv := s.fv + 1 }

/-- A message leaves the package. -/
def emit (s : State) (m : OutMsg) : State := { s with out := s.out ++ [m] }

/-- The device runs: it has power, and no power-fail halt (R385, R455). -/
def awake (s : State) : Bool := !s.pow.off && rd s Reg.PWR_STAT_PFHALT 0 == 0

/-- What happens inside a device that runs. -/
def live (s : State) (k : State) : Out := .next (if awake s then k else s)

/-! ### Units of the fabric -/

def stk (s : State) (k : Nat) : Stake := tget (fun _ => Stake.idle) s.fab.stk k
def setStk (s : State) (k : Nat) (x : Stake) : State :=
  { s with fab := { s.fab with stk := tset (fun _ => Stake.idle) s.fab.stk k x } }
def bsh (s : State) (k : Nat) : Bushel := tget (fun _ => Bushel.idle) s.fab.bsh k
def setBsh (s : State) (k : Nat) (x : Bushel) : State :=
  { s with fab := { s.fab with bsh := tset (fun _ => Bushel.idle) s.fab.bsh k x } }
def isl (s : State) (k : Nat) : Island := tget (fun _ => Island.idle) s.fab.isl k
def setIsl (s : State) (k : Nat) (x : Island) : State :=
  { s with fab := { s.fab with isl := tset (fun _ => Island.idle) s.fab.isl k x } }
def sw (s : State) (k : Nat) : Switch := tget (fun _ => Switch.idle) s.fab.sw k
def setSw (s : State) (k : Nat) (x : Switch) : State :=
  { s with fab := { s.fab with sw := tset (fun _ => Switch.idle) s.fab.sw k x } }
def xing (s : State) (k : Nat) : Crossing := tget (fun _ => Crossing.idle) s.fab.xing k
def setXing (s : State) (k : Nat) (x : Crossing) : State :=
  { s with fab := { s.fab with xing := tset (fun _ => Crossing.idle) s.fab.xing k x } }
/-- The stake's program word (R80). -/
def stkWord (s : State) (k w : Nat) : DWord := tget (fun _ => 0) s.fab.stkProg (512 * k + w)
/-- The tally engine's program word (R102). -/
def bshWord (s : State) (b e w : Nat) : DWord := tget (fun _ => 0) s.fab.bshProg (64 * (2 * b + e) + w)
/-- Invocation word `v` of an island's units (R103). -/
def vword (s : State) (i v : Nat) : DWord := tget (fun _ => 0) s.fab.vwords (16 * i + v)
/-- Slot-table row of a switch (R127). -/
def slotRow (s : State) (k r : Nat) : DWord := tget (fun _ => 0) s.fab.rows (16 * k + r)
/-- Bytes of a bushel's SRAM (R93). -/
def sramRead (s : State) (b a n : Nat) : Nat := tbytes (fun _ => 0) s.fab.sram (2 ^ 21 * b + a) n
def sramWrite (s : State) (b a n v : Nat) : State :=
  { s with fab := { s.fab with sram := tstore (fun _ => 0) s.fab.sram (2 ^ 21 * b + a) n v,
                               badPar := tclear s.fab.badPar (2 ^ 21 * b + a) n } }
/-- The byte's parity is wrong (R117). -/
def parBad (s : State) (b a : Nat) : Bool := tget (fun _ => false) s.fab.badPar (2 ^ 21 * b + a)
def setPar (s : State) (b a : Nat) (x : Bool) : State :=
  { s with fab := { s.fab with badPar := tset (fun _ => false) s.fab.badPar (2 ^ 21 * b + a) x } }
def bind (s : State) (k : Nat) : Binding := tget (fun _ => Binding.idle) s.wve.binds k
def setBind (s : State) (k : Nat) (x : Binding) : State :=
  { s with wve := { s.wve with binds := tset (fun _ => Binding.idle) s.wve.binds k x } }

/-! ### Commands in flight -/

/-- The command of ring `r`, index `i`, among those that hold a collector entry and have not retired. -/
def getCmd (s : State) (r i : Nat) : Option Cmd :=
  s.front.inflight.find? fun c => decide (c.ring = r) && decide (c.idx = i)

/-- Changes one command in flight. -/
def modCmd (s : State) (r i : Nat) (f : Cmd → Cmd) : State :=
  { s with front := { s.front with
      inflight := s.front.inflight.map fun c => if c.ring = r ∧ c.idx = i then f c else c } }

/-- The engine has finished with a command: it stands ready to retire with this status (R249, R253). -/
def finish (s : State) (r i status sub : Nat) : State :=
  modCmd s r i fun c => { c with finished := true, status := status, sub := sub }

/-- Field of `n` bytes at offset `off` of a command's descriptor (R240). -/
def Cmd.fld (c : Cmd) (off n : Nat) : Nat := byteField c.desc.toNat off n

/-- Partition of a ring (R238). -/
def partOf (r : Nat) : Nat := r / 8

/-! ### The Skein and host sides -/

def port (s : State) (n : Nat) : Port := tget (fun _ => Port.idle) s.skl.ports n
def setPort (s : State) (n : Nat) (x : Port) : State :=
  { s with skl := { s.skl with ports := tset (fun _ => Port.idle) s.skl.ports n x } }
def cgroup (s : State) (g : Nat) : CGroup := tget (fun _ => CGroup.idle) s.skl.groups g
def setCgroup (s : State) (g : Nat) (x : CGroup) : State :=
  { s with skl := { s.skl with groups := tset (fun _ => CGroup.idle) s.skl.groups g x } }

/-! ### Stopping a weave -/

/-- Applies `f` to the state once for each number listed. -/
def eachOf {α : Type} (l : List α) (s : State) (f : State → α → State) : State := l.foldl f s

/-- The weave a binding holds: the incoming one during a carry, or the resident one (R174). -/
def weaveOf (s : State) (bd : Nat) (nw : Bool) : Option Weave := if nw then (bind s bd).new else (bind s bd).cur

/-- The invocation running on it. -/
def invOf (s : State) (bd : Nat) (nw : Bool) : Option Invoc := if nw then (bind s bd).invNew else (bind s bd).inv

/-- Puts an invocation, or none. -/
def setInv (s : State) (bd : Nat) (nw : Bool) (v : Option Invoc) : State :=
  if nw then setBind s bd { bind s bd with invNew := v } else setBind s bd { bind s bd with inv := v }

/-- The islands of a weave leave the invocation: no weave runs on them, and an idle island is gated at 1.0 GHz (R119, R167,
R371). -/
def idleIslands (s : State) (place : List Nat) : State :=
  eachOf place s fun s k =>
    let s := setIsl s k { isl s k with
      stopped := true, released := false, skips := 0, skipping := 0, step := none, stepping := false }
    let s := wr (wr s Reg.ISL_WV_STAT_RUN k 0) Reg.ISL_FAB_SLOT_RUN k 0
    wr s Reg.CLK_FREQ_MHZ k 1000

/-- Bushel requests of a placement leave the fault records that hold them; the records stay (R203). -/
def dropHeld (s : State) (place : List Nat) : State :=
  { s with mem := { s.mem with faults := s.mem.faults.map fun f =>
      { f with held := f.held.filter fun h => match h with
        | .bushel b _ => !(place.contains (b / 32))
        | _ => true } } }

/-- The invocation on a binding ends: its islands idle, its command finished with a status, the binding ready again
unless a switch or drain is in progress (R161, R249). -/
def endInvoc (s : State) (bd : Nat) (nw : Bool) (status sub : Nat) : State :=
  match invOf s bd nw, weaveOf s bd nw with
  | some v, some w =>
    let p := match w.place with | k :: _ => rd s Reg.ISL_WV_RND k | [] => 0
    let t := match w.place with | k :: _ => rd s Reg.ISL_WV_TIME_NS k | [] => 0
    let s := idleIslands (dropHeld s w.place) w.place
    let s := setInv s bd nw none
    let s := if rd s Reg.WVE_BIND_STATE bd = 3 then wr s Reg.WVE_BIND_STATE bd 2 else s
    let s := modCmd s v.ring v.idx fun c => { c with progress := p, result := t }
    finish s v.ring v.idx status sub
  | _, _ => s

/-- The islands of an invocation stop, and its command fails with a status (R65, R107, R130, R134, R142, R171). A weave
already stopped stops once (R177). -/
def stopWeave (s : State) (bd : Nat) (nw : Bool) (status sub : Nat) : State := endInvoc s bd nw status sub

/-- A run fault of the weave engine: the record, unless one is held, and the command's failure (R159, R180). -/
def runFault (s : State) (bd code wisl pos v : Nat) : State :=
  if rd s Reg.WVE_RUN_FAULT_VALID 0 = 1 then s
  else
    let s := wr (wr s Reg.WVE_RUN_FAULT_CODE 0 code) Reg.WVE_RUN_FAULT_BIND 0 bd
    let s := wr (wr s Reg.WVE_RUN_FAULT_WISL 0 wisl) Reg.WVE_RUN_FAULT_POS 0 pos
    wr (wr s Reg.WVE_RUN_FAULT_V 0 v) Reg.WVE_RUN_FAULT_VALID 0 1

/-- The binding whose weave runs on an island. -/
def bindOf (s : State) (k : Nat) : Nat := (isl s k).bind.getD 0

/-- Partition of the weave on an island. -/
def partOfIsl (s : State) (n : Nat) : Nat := rd s Reg.WVE_BIND_PART (bindOf s n)

/-- Stops the weave that runs on island `k`. -/
def stopIsl (s : State) (k status sub : Nat) : State := stopWeave s (bindOf s k) (isl s k).newWeave status sub

end Sys2Proof.Machine
end

