-- ==== Sys2Proof/Machine/Flags.lean ====
section
/-! DEFINITION. Counters and flags: the arithmetic counters of R37, freeze codes and hold causes (R78, R115, R139,
R141), the fault records of an island. -/

namespace Sys2Proof.Machine

/-- What a piece of arithmetic adds to the counters of R37 and R42. -/
structure Cnt where
  nan : Nat
  ovf : Nat
  intsat : Nat
  nancvt : Nat
  skip : Nat
  subn : Nat
  deriving DecidableEq, Repr

def Cnt.zero : Cnt := ⟨0, 0, 0, 0, 0, 0⟩

def Cnt.add (a b : Cnt) : Cnt :=
  ⟨a.nan + b.nan, a.ovf + b.ovf, a.intsat + b.intsat, a.nancvt + b.nancvt, a.skip + b.skip, a.subn + b.subn⟩

/-- One element counts in at most one of the three counters, NaN before overflow before a NaN converted (R37). -/
def Cnt.settle (c : Cnt) : Cnt :=
  if c.nan ≠ 0 then { c with ovf := 0, nancvt := 0 } else if c.ovf ≠ 0 then { c with nancvt := 0 } else c

/-- Counts of a list of elements. -/
def cntSum (l : List Cnt) : Cnt := l.foldl (fun a c => a.add c.settle) Cnt.zero

/-- A flag as 0 or 1. -/
def oneIf (b : Bool) : Nat := if b then 1 else 0

/-- Counts of a conversion (R37). -/
def Cvt.cnt (c : Cvt) : Cnt := { Cnt.zero with ovf := oneIf c.ovf, intsat := oneIf c.intsat, nancvt := oneIf c.nancvt }

/-- The island's counters take the counts (R37). -/
def count (s : State) (k : Nat) (c : Cnt) : State :=
  let s := bump s Reg.ISL_ARITH_NAN k c.nan
  let s := bump s Reg.ISL_ARITH_OVF k c.ovf
  let s := bump s Reg.ISL_ARITH_INTSAT k c.intsat
  let s := bump s Reg.ISL_ARITH_NANCVT k c.nancvt
  let s := bump s Reg.ISL_CHK_SKIP k c.skip
  bump s Reg.ISL_SF_SUBN k c.subn

/-! ### Positions of units in an island (R53, R91), and of islands (R131) -/

/-- The opposite direction. -/
def opposite (d : Nat) : Nat := (d + 2) % 4


/-- The position holds a stake. -/
def isStakePos (r c : Nat) : Bool := (r + c) % 4 == 0 || (r + c) % 4 == 3

/-- Columns of row `r` that hold stakes (or bushels), ascending. -/
def unitCols (r : Nat) (st : Bool) : List Nat := (List.range 8).filter fun c => isStakePos r c == st

/-- Position of the stake or bushel with local index `x`. -/
def posOf (x : Nat) (st : Bool) : Nat × Nat := (x / 4, (unitCols (x / 4) st).getD (x % 4) 0)

/-- Local index of the unit at a position. -/
def localOf (r c : Nat) : Nat := 4 * r + ((unitCols r (isStakePos r c)).findIdx (· == c))

/-- The neighbouring position in a direction (north, east, south, west), inside the island. -/
def stepPos (r c d : Nat) : Option (Nat × Nat) :=
  match d with
  | 0 => if r = 0 then none else some (r - 1, c)
  | 1 => if c = 7 then none else some (r, c + 1)
  | 2 => if r = 7 then none else some (r + 1, c)
  | _ => if c = 0 then none else some (r, c - 1)

/-- The bushel next to stake `k` in direction `d`. -/
def bshAt (k d : Nat) : Option Nat :=
  let p := posOf (k % 32) true
  match stepPos p.1 p.2 d with
  | some (r, c) => if isStakePos r c then none else some (32 * (k / 32) + localOf r c)
  | none => none

/-- The stake next to bushel `b` in direction `d`. -/
def stkAt (b d : Nat) : Option Nat :=
  let p := posOf (b % 32) false
  match stepPos p.1 p.2 d with
  | some (r, c) => if isStakePos r c then some (32 * (b / 32) + localOf r c) else none
  | none => none

/-- Switch number of stake `k`, of bushel `b`. -/
def stkSwitch (k : Nat) : Nat := 64 * (k / 32) + 8 * (posOf (k % 32) true).1 + (posOf (k % 32) true).2
def bshSwitch (b : Nat) : Nat := 64 * (b / 32) + 8 * (posOf (b % 32) false).1 + (posOf (b % 32) false).2

/-- Grid row and column of an island (R131). -/
def gridOf (k : Nat) : Nat × Nat := (2 * (k / 8 / 2) + k % 8 / 4, 4 * (k / 8 % 2) + k % 8 % 4)

/-- The island at a grid cell. -/
def islAt (g h : Nat) : Nat := 8 * (2 * (g / 2) + h / 4) + 4 * (g % 2) + h % 4

/-- The island next to `k` in a direction (R131). -/
def nextIsl (k d : Nat) : Option Nat :=
  let p := gridOf k
  match d with
  | 0 => if p.1 = 0 then none else some (islAt (p.1 - 1) p.2)
  | 1 => if p.2 = 7 then none else some (islAt p.1 (p.2 + 1))
  | 2 => if p.1 = 3 then none else some (islAt (p.1 + 1) p.2)
  | _ => if p.2 = 0 then none else some (islAt p.1 (p.2 - 1))

/-! ### Freezes and holds -/

/-- Hold cause of a stake freeze code (R141). -/
def stkCause (c : Nat) : Nat := if c = 0 then 0 else if c = 1 then 5 else 6

/-- Hold cause of a bushel freeze code (R141). -/
def bshCause (c : Nat) : Nat := if c ≤ 4 then c else 6

/-- The lower of two causes, 0 standing for none. -/
def minCause (a b : Nat) : Nat := if a = 0 then b else if b = 0 then a else min a b

/-- The code a bushel reports, the lowest its engines and sequencers hold (R115). -/
def Bushel.code (y : Bushel) : Nat := y.frz.foldl minCause 0

/-- The code a switch reports, the lowest that holds (R139). -/
def Switch.code (z : Switch) : Nat := z.blk.foldl (fun a e => minCause a e.1) 0

/-- The lowest-numbered cause the units of island `k` raise (R140, R141, R166). -/
def ownCause (s : State) (k : Nat) : Nat :=
  let a := s.fab.stk.foldl (fun a e => if e.1 / 32 = k then minCause a (stkCause e.2.frz) else a) 0
  let b := s.fab.bsh.foldl (fun a e => if e.1 / 32 = k then minCause a (e.2.frz.foldl (fun a c => minCause a (bshCause c)) 0) else a) a
  let i := isl s k
  minCause b (if i.skipping > 0 then 7 else if i.stepping then 8 else 0)

/-- The lowest-numbered switch code on island `k` (R139). -/
def switchCode (s : State) (k : Nat) : Nat :=
  s.fab.sw.foldl (fun a e => if e.1 / 64 = k then minCause a e.2.code else a) 0

/-- The cause island `k` sends on its tree edge toward direction `d` (R140). -/
def sentCause (s : State) (k d : Nat) : Nat :=
  ((isl s k).tree.filter (· ≠ d)).foldl (fun a e => minCause a ((isl s k).holdIn.getD e 0)) (ownCause s k)

/-- Some tree edge delivers a hold to island `k` (R140). -/
def heldIn (s : State) (k : Nat) : Bool := (isl s k).tree.any fun e => (isl s k).holdIn.getD e 0 ≠ 0

/-- Island `k` writes the cause it now sends on the edge toward `d` into that edge's hold crossing, once the entry
written before has been delivered (R140). -/
def sendHold (s : State) (k d : Nat) : State :=
  match nextIsl k d with
  | none => s
  | some m =>
    let c := sentCause s k d
    if c = (isl s k).holdSent.getD d 0 || ((isl s m).holdX.getD (opposite d) none).isSome then s
    else
      let s := setIsl s k { isl s k with holdSent := setAt (isl s k).holdSent d c }
      setIsl s m { isl s m with holdX := setAt (isl s m).holdX (opposite d) (some c) }

/-- What the units of island `k` raise goes out on its tree edges, and `FAB_HOLD` shows the island's own cause and what
it sends its parent (R140, R152). -/
def noteHold (s : State) (k : Nat) : State :=
  let s := (isl s k).tree.foldl (fun s d => sendHold s k d) s
  let c := ownCause s k
  let s := wr s Reg.ISL_FAB_HOLD_OWN k (oneIf (c ≠ 0))
  let s := wr s Reg.ISL_FAB_HOLD_IN k (oneIf (heldIn s k))
  wr s Reg.ISL_FAB_HOLD_CAUSE k (match (isl s k).parent with | some d => sentCause s k d | none => c)

/-- What acts, as one that its own freeze may not stop: a stake whose next act ends a freeze of one of the codes `own`;
an engine (0, 1) or the port sequencers (2) of a bushel, whose next act is the one that waits. -/
inductive UnitId where
  | none_ | stake (k : Nat) (own : List Nat) | bushel (b src : Nat)
  deriving DecidableEq, Repr

/-- A stake's freeze stops `me`. -/
def UnitId.byStake (me : UnitId) (k : Nat) (x : Stake) : Bool :=
  decide (x.frz ≠ 0) && match me with
    | .stake j own => !(decide (j = k) && own.contains x.frz)
    | _ => true

/-- A bushel's freeze stops `me`. -/
def UnitId.byBushel (me : UnitId) (b : Nat) (y : Bushel) : Bool :=
  y.frz.zipIdx.any fun c => decide (c.1 ≠ 0) && decide (me ≠ .bushel b c.2)

/-- A switch's freeze stops `me`: SKEW_FULL does not stop the unit that owns the queue (R138, R145). -/
def UnitId.bySwitch (me : UnitId) (n : Nat) (z : Switch) : Bool :=
  decide (z.code ≠ 0) && !(decide (z.code = 3) && match me with
    | .stake k _ => decide (stkSwitch k = n)
    | .bushel b _ => decide (bshSwitch b = n)
    | .none_ => false)

/-- Island `k` is frozen for unit `me`: a hold, a skip, a step, or a freeze code of one of its units or switches (R138,
R140, R143). -/
def frozen (s : State) (k : Nat) (me : UnitId) : Bool :=
  heldIn s k || decide ((isl s k).skipping > 0) || (isl s k).stepping ||
  s.fab.stk.any (fun e => decide (e.1 / 32 = k) && me.byStake e.1 e.2) ||
  s.fab.bsh.any (fun e => decide (e.1 / 32 = k) && me.byBushel e.1 e.2) ||
  s.fab.sw.any (fun e => decide (e.1 / 64 = k) && me.bySwitch e.1 e.2)

/-- Island `k` runs rounds of a weave: released, not stopped, last round not yet over (R126, R167). -/
def inRounds (s : State) (k : Nat) : Bool := (isl s k).released && !(isl s k).stopped && !(isl s k).lastRound

/-- Unit `me` of island `k` may take a step in round time; a droop takes its clock edges away (R370). -/
def mayRun (s : State) (k : Nat) (me : UnitId) : Bool :=
  inRounds s k && !frozen s k me && !(tget (fun _ => false) s.pow.droop k)

/-- A stake's freeze code, shown to the island's hold state. -/
def stkFreeze (s : State) (k code : Nat) : State :=
  noteHold (setStk s k { stk s k with frz := code }) (k / 32)

/-- The freeze code of an engine of a bushel, or of its port sequencers (2). -/
def bshFreeze (s : State) (b src code : Nat) : State :=
  noteHold (setBsh s b { bsh s b with frz := setAt (bsh s b).frz src code }) (b / 32)

/-- `STK_FAULT` takes a record unless one is held (R65, R89, R90). -/
def stkFault (s : State) (k cause word axis index d e m : Nat) : State :=
  let n := k / 32
  if rd s Reg.ISL_STK_FAULT_VALID n = 1 then s
  else
    let s := wr (wr s Reg.ISL_STK_FAULT_STAKE n k) Reg.ISL_STK_FAULT_CAUSE n cause
    let s := wr (wr s Reg.ISL_STK_FAULT_WORD n word) Reg.ISL_STK_FAULT_AXIS n axis
    let s := wr (wr s Reg.ISL_STK_FAULT_INDEX n index) Reg.ISL_STK_FAULT_VALID n 1
    wr (wr (wr s Reg.ISL_STK_FAULT_D n d) Reg.ISL_STK_FAULT_E n e) Reg.ISL_STK_FAULT_M n m

/-- `BSH_FAULT` takes a record unless one is held (R107, R121, R122). -/
def bshFault (s : State) (b cause eng word addr : Nat) : State :=
  let n := b / 32
  if rd s Reg.ISL_BSH_FAULT_VALID n = 1 then s
  else
    let s := wr (wr s Reg.ISL_BSH_FAULT_BUSHEL n b) Reg.ISL_BSH_FAULT_CAUSE n cause
    let s := wr (wr s Reg.ISL_BSH_FAULT_ENG n eng) Reg.ISL_BSH_FAULT_WORD n word
    wr (wr s Reg.ISL_BSH_FAULT_VALID n 1) Reg.ISL_BSH_FAULT_A_ADDR n addr

/-- `FAB_FAULT` takes a record unless one is held (R149, R150, R152). -/
def fabFault (s : State) (n pos cause port code src info : Nat) : State :=
  if rd s Reg.ISL_FAB_FAULT_VALID n = 1 then s
  else
    let s := wr (wr s Reg.ISL_FAB_FAULT_POS n pos) Reg.ISL_FAB_FAULT_CAUSE n cause
    let s := wr (wr s Reg.ISL_FAB_FAULT_PORT n port) Reg.ISL_FAB_FAULT_CODE n code
    wr (wr (wr s Reg.ISL_FAB_FAULT_SRC n src) Reg.ISL_FAB_FAULT_T_INFO n info) Reg.ISL_FAB_FAULT_VALID n 1

/-- A check or parity event on island `n`: counted in `CHK_MIS` and, up to two, in `CHK_CMD` (R64, R66, R90). -/
def checkEvent (s : State) (n : Nat) : State :=
  bump (wr s Reg.ISL_CHK_CMD n (min 2 (rd s Reg.ISL_CHK_CMD n + 1))) Reg.ISL_CHK_MIS n 1

/-- The island is marked suspect (R65). -/
def suspect (s : State) (n : Nat) : State :=
  wr s Reg.ISL_STK_HEALTH_SUSPECT n 1

/-- An event that fails the command: counted, suspect when it is the second, weave stopped with `status` or 0x28
(R65, R117, R146, R149). -/
def failEvent (s : State) (n status sub : Nat) : State :=
  let s := checkEvent s n
  if rd s Reg.ISL_CHK_CMD n ≥ 2 then stopIsl (suspect s n) n 0x28 0 else stopIsl s n status sub

end Sys2Proof.Machine
end

