-- ==== Sys2Proof/Machine/SpecialFn.lean ====
section
/-! DEFINITION. The special functions (R44 to R51): segments and their cubics, range reductions, special inputs, error
bounds, monotonicity. The coefficients are the silicon's and free (assumption 3); what R45, R46 and R49 promise of every
result holds whatever they are. -/

namespace Sys2Proof.Machine

/-! ### Exact rationals -/

/-- 2^e. -/
def pow2 (e : Int) : Rat := if 0 ≤ e then ((2 ^ e.toNat : Nat) : Rat) else 1 / ((2 ^ (-e).toNat : Nat) : Rat)

/-- A finite value as a rational; 0 for the others. -/
def fvRat : FV → Rat
  | .num neg m e => (if neg then -1 else 1) * (m : Rat) * pow2 e
  | _ => 0

/-- A rational rounded once to FP32; `z` is the sign of a zero. -/
def ratToF32 (z : Bool) (q : Rat) : Nat :=
  if q = 0 then fpPack fmtF32 z 0 (-149)
  else
    let r := roundQ .even 24 (-149) q.num.natAbs q.den 0
    if fpOver fmtF32 r.1 r.2 then fpInf fmtF32 (decide (q < 0)) else fpPack fmtF32 (decide (q < 0)) r.1 r.2

/-- floor(log2 |q|) of a non-zero rational. -/
def ratLog2 (q : Rat) : Int := qlog2 q.num.natAbs q.den

/-- The FP32 ulp in the binade of an exact value, subnormal spacing below the smallest normal number (R49). -/
def ulp32 (q : Rat) : Rat := if q = 0 then pow2 (-149) else pow2 (max (ratLog2 q - 23) (-149))

/-- The FP32 pattern next below, next above a non-zero one. -/
def f32Pred (x : Nat) : Nat := if x < 2 ^ 31 then x - 1 else x + 1
def f32Succ (x : Nat) : Nat := if x < 2 ^ 31 then x + 1 else x - 1

/-- `q` kept to `n` significant bits, to nearest-even (R47). -/
def keepBits (n : Nat) (q : Rat) : Rat :=
  if q = 0 then 0
  else
    let e := ratLog2 q - (n - 1 : Nat)
    let y := (if q < 0 then -q else q) / pow2 e
    let r := (roundNat .even y.num.natAbs y.den : Rat) * pow2 e
    if q < 0 then -r else r

/-! ### The exact functions, by series that hold far more digits than any ulp judged here -/

def seriesTo (n : Nat) (f : Nat → Rat) : Rat := (List.range n).foldl (fun a i => a + f i) 0

def expRef (x : Rat) : Rat := seriesTo 1000 fun n => x ^ n / (n.factorial : Rat)
def ln2Ref : Rat := seriesTo 400 fun n => 1 / (((n + 1) * 2 ^ (n + 1) : Nat) : Rat)
def lnRef (x : Rat) : Rat :=
  let e := ratLog2 x
  let m := x / pow2 e
  let z := (m - 1) / (m + 1)
  e * ln2Ref + 2 * seriesTo 400 fun n => z ^ (2 * n + 1) / ((2 * n + 1 : Nat) : Rat)
def sqrtRef (x : Rat) : Rat := ((Nat.sqrt (x * pow2 1024).floor.toNat : Nat) : Rat) * pow2 (-512)
def atanRef (x : Rat) : Rat := seriesTo 400 fun n => (-1) ^ n * x ^ (2 * n + 1) / ((2 * n + 1 : Nat) : Rat)
def piRef : Rat := 16 * atanRef (1 / 5) - 4 * atanRef (1 / 239)
def erfRef (x : Rat) : Rat :=
  2 / sqrtRef piRef * seriesTo 1000 fun n => (-1) ^ n * x ^ (2 * n + 1) / ((n.factorial * (2 * n + 1) : Nat) : Rat)
def phiRef (x : Rat) : Rat := (1 + erfRef (x / sqrtRef 2)) / 2
def sigmRef (x : Rat) : Rat := 1 / (1 + expRef (-x))

/-- The exact function of an operation code of R74 at a finite input (R44). -/
def sfExact (op : Nat) (x : Rat) : Rat :=
  match op with
  | 0x20 => expRef (x * ln2Ref)
  | 0x21 => expRef x
  | 0x22 => lnRef x
  | 0x23 => 1 / sqrtRef x
  | 0x24 => 1 / x
  | 0x25 => sigmRef x
  | 0x26 => 1 - 2 / (expRef (2 * x) + 1)
  | 0x27 => erfRef x
  | 0x28 => x * sigmRef x
  | _ => x * phiRef x

/-- The subnormal path is used: an FP32 input below 2^-126 in magnitude, of a function that has one (R50, R52). -/
def sfSubn (op : Nat) (x : FV) : Bool :=
  decide (op < 0x25 ∨ op = 0x27) && match x with
  | .num _ m e => decide (m ≠ 0) && fvLt (.num false m e) (.num false 1 (-126))
  | _ => false

/-- Largest FP32 error in ulps (R49). -/
def sfErr (op : Nat) (x : FV) : Nat :=
  match op with
  | 0x20 => 1
  | 0x21 | 0x22 | 0x25 | 0x26 => 2
  | 0x23 | 0x24 => if sfSubn op x then 2 else 1
  | 0x27 | 0x28 => 3
  | _ => 4

/-- The most a result at `x` may differ from the exact value (R49). -/
def sfSlack (op x : Nat) : Rat := sfErr op (ofF32 x) * ulp32 (sfExact op (fvRat (ofF32 x)))

/-! ### Segments (R45, R47) -/

/-- A coefficient of the silicon: 36 significant bits (R45). -/
def sfCoef (fn seg i : Nat) : Rat :=
  let c := (Config.sfCoef fn seg i).toNat
  (sext 36 c : Int) * pow2 (sext 8 (c / 2 ^ 36) - 34)

/-- tanh and erf below 2^-6 (R47). -/
def tanhSmall (t : Rat) : Rat := t * (1 - t * t / 3)
def erfSmall (t : Rat) : Rat := t * (11283792 / 10000000) * (1 - t * t / 3)

/-- What the segments' value is where they begin, as the neighbouring range fixes it (R45): σ(0) and Φ(0), and the
hand-over of tanh and erf from the small-argument formula, inside their first segment. -/
def sfC0 (fn : Nat) : Nat → Rat
  | 0 =>
    let past (u : Rat) : Rat := u * (sfCoef fn 0 1 + u * (sfCoef fn 0 2 + u * sfCoef fn 0 3))
    match fn with
    | 0x25 | 0x29 => 1 / 2
    | 0x26 => tanhSmall (1 / 64) - past (1 / 9)
    | 0x27 => erfSmall (1 / 64) - past (1 / 4)
    | _ => sfCoef fn 0 0
  | s + 1 => sfC0 fn s + sfCoef fn s 1 + sfCoef fn s 2 + sfCoef fn s 3

/-- What the last segment reaches at its end: the same number as the wrap, the cut-off or the path beyond it (R45). -/
def sfEnd (fn : Nat) : Rat :=
  match fn with
  | 0x20 => 2 * sfC0 fn 0
  | 0x22 => keepBits 48 ln2Ref + sfC0 fn 0
  | 0x23 | 0x24 => sfC0 fn 0 / 2
  | 0x25 => expRef (-16)
  | 0x26 | 0x27 => 1
  | _ => 0

/-- The cubic coefficient; the last segment's brings the value to its end. -/
def sfC3 (fn s : Nat) : Rat :=
  if s = 63 then sfEnd fn - sfC0 fn 63 - sfCoef fn 63 1 - sfCoef fn 63 2 else sfCoef fn s 3

/-- p_s(u) (R45). -/
def sfPoly (fn s : Nat) (u : Rat) : Rat := sfC0 fn s + u * (sfCoef fn s 1 + u * (sfCoef fn s 2 + u * sfC3 fn s))

/-- The cubic at `y` segments from the first one's start. -/
def sfAt (fn : Nat) (y : Rat) : Rat := sfPoly fn y.floor.toNat (y - y.floor)

/-- exp2 by its reduction (R47). -/
def exp2Raw (x : Rat) : Rat := pow2 x.floor * sfAt 0x20 (64 * (x - x.floor))

/-- exp by the exp2 path, the product kept to 48 bits (R47). -/
def expRaw (x : Rat) : Rat := if x ≤ -103972077 / 1000000 then 0 else exp2Raw (keepBits 48 (x / ln2Ref))

/-- σ(−t) (R47). -/
def sigmRaw (t : Rat) : Rat := if t < 16 then sfAt 0x25 (4 * t) else expRaw (-t)

/-- Φ(−t) (R47). -/
def phiRaw (t : Rat) : Rat := if t < 8 then sfAt 0x29 (8 * t) else 0

/-- What the block computes before its rounding, by the reductions of R47. -/
def sfReduce (op : Nat) (x : Rat) : Rat :=
  let t := if x < 0 then -x else x
  let e := ratLog2 t
  let m := t / pow2 e
  let odd (v : Rat) : Rat := if x < 0 then -v else v
  match op with
  | 0x20 => exp2Raw x
  | 0x21 => expRaw x
  | 0x22 =>
    let k : Int := if m < 3 / 2 then e else e + 1
    k * keepBits 48 ln2Ref + sfAt 0x22 ((x / pow2 k - 3 / 4) / (3 / 256))
  | 0x23 =>
    let k := e / 2
    let n := x / pow2 (2 * k)
    pow2 (-k) * sfAt 0x23 (if n < 2 then 32 * (n - 1) else 32 + 16 * (n - 2))
  | 0x24 => odd (pow2 (-e) * sfAt 0x24 (64 * (m - 1)))
  | 0x25 => if x > 0 then 1 - sigmRaw t else sigmRaw t
  | 0x26 => odd (if t < 1 / 64 then tanhSmall t else sfAt 0x26 (64 * t / 9))
  | 0x27 => odd (if t < 1 / 64 then erfSmall t else sfAt 0x27 (16 * t))
  | 0x28 => x * (if x > 0 then 1 - sigmRaw t else sigmRaw t)
  | _ => x * (if x > 0 then 1 - phiRaw t else phiRaw t)

/-- The evaluation at FP32 input `x`, which keeps 34 significant bits or more (R45), within the error of R49. -/
def sfRaw (op x : Nat) : Rat :=
  let q := fvRat (ofF32 x)
  let f := sfExact op q
  let d := sfSlack op x
  let y := sfReduce op q * (1 + ((Config.sfNoise op x).toInt : Rat) * pow2 (-50))
  let lo := if 0 < f then max 0 (f - d) else f - d
  let hi := if f < 0 then min 0 (f + d) else f + d
  max lo (min hi y)

/-! ### Monotone results (R46, R50) -/

/-- The largest (`up`) or smallest of `f` over the patterns `a` to `b`. -/
def extOf (up : Bool) (f : Nat → Rat) (a b : Nat) : Rat :=
  (List.range (b - a)).foldl (fun r i => if up then max r (f (a + 1 + i)) else min r (f (a + 1 + i))) (f a)

/-- Largest finite FP32 pattern, smallest normal one. -/
def f32Top : Nat := 0x7F7FFFFF
def f32Norm : Nat := 0x00800000

/-- rsqrt and reciprocal of a positive input fall from pattern `a` on, each path by itself; only between inputs within 16
patterns of 2^-126 may the larger give the larger result, by 2 ulps at most (R50). -/
def fallTwo (f : Nat → Rat) (a t : Nat) : Rat :=
  if t < f32Norm then extOf false f a t
  else if t > f32Norm + 16 then extOf false f a t
  else
    let low := extOf false f (f32Norm - 16) (f32Norm - 1)
    min (min (extOf false f f32Norm t) (extOf false f a (f32Norm - 17))) (low + 2 * ulp32 low)

/-- The block's value before rounding at a finite non-zero input that no special case takes: monotone on every interval
R46 names, within the error of R49. `t` is the pattern of the magnitude, `neg` the sign. -/
def sfValue (op : Nat) (neg : Bool) (t : Nat) : Rat :=
  let pos (k : Nat) : Rat := sfRaw op k
  let minus (k : Nat) : Rat := sfRaw op (k + 2 ^ 31)
  let q := fvRat (ofF32 t)
  match op with
  | 0x20 | 0x21 => if neg then min 1 (extOf true minus t f32Top) else max 1 (extOf true pos 1 t)
  | 0x22 => extOf true pos 1 t
  | 0x23 => fallTwo pos 1 t
  | 0x24 => (if neg then -1 else 1) * fallTwo pos 0x00200001 t
  | 0x25 =>
    let low := min (1 / 2) (extOf false minus 1 t)
    if neg then low else 1 - low
  | 0x26 | 0x27 => (if neg then -1 else 1) * min 1 (extOf true pos 1 t)
  | 0x28 =>
    if !neg then extOf true pos 1 t
    else if q ≤ 12784645 / 10000000 then extOf false minus 1 t else extOf false minus t f32Top
  | _ =>
    if !neg then extOf true pos 1 t
    else if q ≤ 7517915 / 10000000 then extOf false minus 1 t else extOf false minus t f32Top

/-- FP32 bits held within the error of R49 at input `x`. -/
def sfBound (op x r : Nat) : Nat :=
  let f := sfExact op (fvRat (ofF32 x))
  let d := sfSlack op x
  let v := fvRat (ofF32 r)
  let z := bit x 31
  if f + d < v then (let y := ratToF32 z (f + d); if f + d < fvRat (ofF32 y) then f32Pred y else y)
  else if v < f - d then (let y := ratToF32 z (f - d); if fvRat (ofF32 y) < f - d then f32Succ y else y)
  else r

/-! ### Special inputs (R47, R48) -/

/-- Special function at special inputs (R47 to R49): its FP32 result where the spec states one, and whether it is an
invalid case. -/
def sfSpecial (op : Nat) (x : FV) : Option (Nat × Bool) :=
  let ge (v : FV) (neg : Bool) (m : Nat) (e : Int) : Bool := !fvLt v (.num neg m e)
  let le (v : FV) (neg : Bool) (m : Nat) (e : Int) : Bool := !fvLt (.num neg m e) v
  let one := 0x3F800000
  let inf (n : Bool) := fpInf fmtF32 n
  let zero (n : Bool) := if n then 0x80000000 else 0
  match x with
  | .nan => some (0x7FC00000, false)
  | .inf neg =>
    match op with
    | 0x20 | 0x21 => some (if neg then 0 else inf false, false)
    | 0x22 => some (if neg then 0x7FC00000 else inf false, neg)
    | 0x23 => some (if neg then 0x7FC00000 else 0, neg)
    | 0x24 => some (zero neg, false)
    | 0x25 => some (if neg then 0 else one, false)
    | 0x26 | 0x27 => some (if neg then 0xBF800000 else one, false)
    | _ => some (if neg then 0x80000000 else inf false, false)
  | .num neg m e =>
    if m = 0 then
      match op with
      | 0x20 | 0x21 => some (one, false)
      | 0x22 => some (inf true, false)
      | 0x23 | 0x24 => some (inf neg, false)
      | 0x25 => some (0x3F000000, false)
      | _ => some (zero neg, false)
    else
      let v := FV.num neg m e
      let a := FV.num false m e
      match op with
      | 0x20 => if ge v false 128 0 then some (inf false, false) else if le v true 150 0 then some (0, false) else none
      | 0x21 =>
        if !fvLt (fvMul v (.num false 1000000 0)) (.num false 88722839 0) then some (inf false, false)
        else if !fvLt (.num true 103972077 0) (fvMul v (.num false 1000000 0)) then some (0, false) else none
      | 0x22 | 0x23 => if neg then some (0x7FC00000, true) else none
      | 0x24 => if le a false 1 (-128) then some (inf neg, false) else none
      | 0x25 => if !fvLt (.num true 103972077 0) (fvMul v (.num false 1000000 0)) then some (0, false) else none
      | 0x26 => if ge a false 9 0 then some (if neg then 0xBF800000 else one, false) else none
      | 0x27 => if ge a false 4 0 then some (if neg then 0xBF800000 else one, false) else none
      | 0x28 => if !fvLt (.num true 103972077 0) (fvMul v (.num false 1000000 0)) then some (0x80000000, false) else none
      | 0x29 => if ge a false 8 0 then some (if neg then 0x80000000 else toF32 v, false) else none
      | _ => none

/-- Input of a special function under SF_FTZ (R51). -/
def sfInput (ftz : Bool) (x : Nat) : FV :=
  match ofF32 x with
  | .num neg m e => if ftz && sfSubn 0x20 (.num neg m e) then .num neg 0 (-149) else .num neg m e
  | v => v

/-- The function at an input no special case takes, rounded once to FP32 (R44 to R50). -/
def sfRounded (op : Nat) (v : FV) : Nat :=
  let x := toF32 v
  sfBound op x (ratToF32 v.neg (sfValue op v.neg (x % 2 ^ 31)))

end Sys2Proof.Machine
end

