-- ==== Sys2Proof/Machine/Operands.lean ====
section
/-! DEFINITION. Operand forms: beats and their control bits (R125), element streams of the array and the bypass (R20,
R57, R69, R221), vector transfers (R72), output packing (R77), fields of program words. -/

namespace Sys2Proof.Machine

/-- Even parity of `n` bits. -/
def parityOf (x n : Nat) : Nat := popCount x n % 2

/-- The eight DP bits of a beat's data (R125). -/
def dpBits (d : Nat) : Nat := ofBits ((List.range 8).filter fun m => parityOf (bits d (64 * m) 64) 64 = 1)

/-- A beat's control bits for its V, RPL and PSN bits and its tag (R125). -/
def mkCtl (v rpl psn tag dp : Nat) : BitVec 16 :=
  let low := v + 2 * rpl + 4 * psn
  BitVec.ofNat 16 (low + 8 * ((parityOf low 3 + parityOf tag 4) % 2) + 16 * dp + 4096 * tag)

/-- A beat with data as its emitter forms it, before it takes the tag of the slot it leaves in. -/
def mkBeat (d : Nat) (rpl : Bool) : Beat :=
  let x := d % 2 ^ 512
  ⟨BitVec.ofNat 512 x, mkCtl 1 (oneIf rpl) 0 0 (dpBits x), none⟩

/-- An empty token (R129). -/
def emptyBeat : Beat := ⟨0, mkCtl 0 0 0 0 0, none⟩

/-- The beat with the tag its emitter gives it (R125). -/
def Beat.tagged (b : Beat) (tag : Nat) : Beat :=
  { b with ctl := mkCtl (bits b.ctl.toNat 0 1) (bits b.ctl.toNat 1 1) 0 tag (bits b.ctl.toNat 4 8) }

/-- V, RPL and PSN of a beat. -/
def Beat.v (b : Beat) : Bool := b.ctl.getLsbD 0
def Beat.rpl (b : Beat) : Bool := b.ctl.getLsbD 1
def Beat.psn (b : Beat) : Bool := b.ctl.getLsbD 2
/-- Tag of a beat. -/
def Beat.tag (b : Beat) : Nat := bits b.ctl.toNat 12 4

/-- Empty tokens at the head of a stream, dropped (R129). -/
def dropEmpty : List Beat → List Beat
  | [] => []
  | b :: t => if b.v then b :: t else dropEmpty t

/-- Number of empty tokens at the head. -/
def countEmpty : List Beat → Nat
  | [] => 0
  | b :: t => if b.v then 0 else 1 + countEmpty t

/-- Beats with data in a stream. -/
def countData (q : List Beat) : Nat := (q.filter Beat.v).length

/-- The next beat with data, and the rest. -/
def nextBeat (q : List Beat) : Option (Beat × List Beat) :=
  match dropEmpty q with
  | [] => none
  | b :: t => some (b, t)

/-- What a take from a stream brings: the data, lowest beat first; whether any beat is poisoned; the empty tokens passed
over; the retained runs the beats come from; the rest of the stream. -/
structure Took where
  data : Nat
  bad : Bool
  empties : Nat
  runs : List (Nat × Nat × Nat)
  rest : List Beat
  deriving DecidableEq, Repr

/-- `n` beats with data. -/
def takeBeats : Nat → List Beat → Option Took
  | 0, q => some ⟨0, false, 0, [], q⟩
  | n + 1, q =>
    match nextBeat q with
    | none => none
    | some (b, t) => (takeBeats n t).map fun r =>
      ⟨b.data.toNat + 2 ^ 512 * r.data, b.psn || r.bad, countEmpty q + r.empties, b.org.toList ++ r.runs, r.rest⟩

/-- Scale mode of an integer operand as elements per block, 0 for per channel (R82). -/
def ismBlock (m : Nat) : Nat := if m = 0 then 0 else 2 ^ (4 + m)

/-- Elements one block scale of the operand covers along the reduction, 0 for none (R15, R18, R19, R21). -/
def scaleGroup (c ism : Nat) : Nat := if isMx c then 32 else if c = 11 then 16 else if isIntFmt c then ismBlock ism else 0

/-- Bytes of one block scale. -/
def scaleBytes (c : Nat) : Nat := if isIntFmt c then 2 else 1

/-- Both operands are 4-bit: two reduction indices each cycle (R57). -/
def pairRate2 (a b : Nat) : Bool := fmtBits a == 4 && fmtBits b == 4

/-- Either operand is 16-bit: one index every second cycle (R57). -/
def pairHalf (a b : Nat) : Bool := fmtBits a == 16 || fmtBits b == 16

/-- An element stream as codes: for each reduction index the codes of its lanes, and for each group of scales their
codes; with poison, the empty tokens before each transfer, the retained runs it came from, and the rest. -/
structure Feed where
  els : List (List Nat)
  scales : List (List Nat)
  bad : Bool
  empties : List Nat
  runs : List (Nat × Nat × Nat)
  rest : List Beat
  deriving DecidableEq, Repr

/-- `n` codes of `w` bits packed from bit `lo` up (R20). -/
def codes (x lo w n : Nat) : List Nat := (List.range n).map fun i => bits x (lo + w * i) w

/-- Bytes of the block scales that come with the transfer of index `k`: those of the groups it begins (R57). -/
def scaleAt (c ism lanes k : Nat) : Nat :=
  let g := scaleGroup c ism
  if g ≠ 0 && k % g == 0 then lanes * scaleBytes c else 0

/-- Beats of one transfer: `body` element bytes with `sb` scale bytes after them, at most `port` element bytes a beat. A
transfer that the scales overfill takes another beat (R57; assumption 8). -/
def transferBeats (body sb port : Nat) : Nat := if body ≤ port then cdiv (body + sb) 64 else cdiv body port

/-- Takes the elements of indices `k` to `k + todo - 1` for `lanes` lanes of format `c`, `step` indices to a transfer of
at most `port` bytes a beat, with the scales of a group after the bytes of its first element's transfer (R57, R221;
assumption 8). -/
def takeFeed (c ism lanes step port : Nat) : Nat → Nat → Nat → List Beat → Option Feed
  | 0, _, _, q => some ⟨[], [], false, [], [], q⟩
  | _ + 1, _, 0, q => some ⟨[], [], false, [], [], q⟩
  | f + 1, k, todo, q =>
    let w := fmtBits c
    let n := min step todo
    let body := step * lanes * w / 8
    let sb := scaleAt c ism lanes k
    let beats := transferBeats body sb port
    match takeBeats beats q with
    | none => none
    | some t =>
      let d := if body ≤ port then t.data
        else ((List.range beats).map fun j => bits t.data (512 * j) (8 * port) * 2 ^ (8 * port * j)).foldl (· + ·) 0
      let els := (List.range n).map fun j => codes d (j * lanes * w) w lanes
      let scs := if sb = 0 then []
        else if body ≤ port then [codes t.data (8 * body) (8 * scaleBytes c) lanes]
        else [codes (bits t.data (8 * port) (512 - 8 * port)) 0 (8 * scaleBytes c) lanes]
      (takeFeed c ism lanes step port f (k + n) (todo - n) t.rest).map fun r =>
        ⟨els ++ r.els, scs ++ r.scales, t.bad || r.bad, t.empties :: r.empties, t.runs ++ r.runs, r.rest⟩

/-- Beats of a whole feed of extent `k`, as `takeFeed` takes them. -/
def feedBeats (c ism lanes step port k : Nat) : Nat :=
  let body := step * lanes * fmtBits c / 8
  let g := scaleGroup c ism
  let first := if g = 0 then 0 else cdiv k g
  first * transferBeats body (lanes * scaleBytes c) port + (cdiv k step - first) * transferBeats body 0 port

/-- Element code of lane `i` at index `k` of a feed, and its block scale, 1 where there is none. -/
def elemAt (c : Nat) (els : List (List Nat)) (k i : Nat) : FV := elemVal c ((els.getD k []).getD i 0)
def scaleOf (c ism : Nat) (scales : List (List Nat)) (k i : Nat) : FV :=
  let g := scaleGroup c ism
  if g = 0 then .num false 1 0 else scaleVal c ((scales.getD (k / g) []).getD i 0)

/-- Group size G of a pair (R23); 0 for INT32 accumulation. -/
def groupOf (a b aism : Nat) : Nat :=
  if isIntFmt a then ismBlock aism
  else if pairHalf a b then 1
  else if a = 11 ∨ b = 11 then 16 else 32

/-- The pair accumulates in INT32 (R23). -/
def isInt32Pair (a aism : Nat) : Bool := isIntFmt a && aism == 0

/-- The pair of formats is one R23 lists, with scale modes that agree (R24). -/
def pairOk (a b aism bism : Nat) : Bool :=
  let fp8 (c : Nat) := decide (3 ≤ c) && decide (c ≤ 8)
  let lowB (c : Nat) := fp8 c || c == 9 || c == 11
  let half (c : Nat) := c == 1 || c == 2
  let n4 (c : Nat) := c == 9 || c == 11
  if isIntFmt a || isIntFmt b then isIntFmt a && isIntFmt b && aism == bism && decide (aism ≤ 3)
  else
    aism == 0 && bism == 0 &&
    ((n4 a && n4 b) || (fp8 a && lowB b) || (fp8 b && lowB a) || (half a && (half b || lowB b)) ||
     (half b && lowB a) || (a == 10 && b == 10))

/-- The pair may run on the bypass (R68). -/
def bypOk (a b : Nat) : Bool :=
  decide (3 ≤ a) && decide (a ≤ 6) && (decide (3 ≤ b) && decide (b ≤ 9) || b == 11)

/-- A dot product with FP32 accumulation: within each group of `g` indices the element products are summed exactly, the
sum is multiplied by the product of the block scales, and added with one rounding (R25). An infinite or NaN block scale
meets the group sum, not each product (R22, assumption 82). -/
def dotFrom (g : Nat) : Nat → Nat → Nat → (Nat → FV) → (Nat → FV) → Nat → Nat
  | 0, _, _, _, _, acc => acc
  | f + 1, k, todo, prod, scale, acc =>
    if todo = 0 then acc
    else
      let n := min g todo
      let sum := (List.range n).foldl (fun a j => fvAdd a (prod (k + j))) (.num false 0 0)
      dotFrom g f (k + n) (todo - n) prod scale (toF32 (fvAdd (ofF32 acc) (fvMul sum (scale k))))

/-- FP32 dot product of extent `k` in groups of `g` (R25). -/
def dotF32 (g k : Nat) (prod scale : Nat → FV) : Nat := dotFrom (max g 1) (k + 1) 0 k prod scale 0

/-- INT32 dot product with saturation (R27): the sum and whether it saturated. -/
def dotInt : Nat → Nat → (Nat → Int) → Int → Int × Bool
  | 0, _, _, acc => (acc, false)
  | n + 1, k, prod, acc =>
    let z := acc + prod k
    if z > 2 ^ 31 - 1 then (2 ^ 31 - 1, true)
    else if z < -2 ^ 31 then (-2 ^ 31, true) else dotInt n (k + 1) prod z

/-- The integer an exact value stands for, where it is one. -/
def fvInt (v : FV) : Int := fvToInt v

/-- 32 lanes of one FP32 or INT32 beat taken from a transfer of 1,024 bits (R72). -/
def lanes32 (x : Nat) : List Nat := codes x 0 32 32

/-- Lanes of a vector transfer in format `c`: one beat for 32-bit formats, two for 16-bit ones, widened (R15, R72). -/
def vecBeats (c x : Nat) : List (List Nat) :=
  match c with
  | 1 | 2 =>
    let f := if c = 1 then fmtBf16 else fmtF16
    let half (h : Nat) := (List.range 32).map fun i => toF32 (fpDecode f (bits x (16 * (32 * h + i)) 16))
    [half 0, half 1]
  | _ => [lanes32 x]

/-- Codes of `w` bits packed lowest first (R20). -/
def packCodes (w : Nat) (l : List Nat) : Nat := (l.zipIdx).foldl (fun a p => a + (p.1 % 2 ^ w) * 2 ^ (w * p.2)) 0

/-- The beats of a payload of `n` bytes on one port. -/
def payloadBeats (x n : Nat) : List Beat := (List.range (cdiv n 64)).map fun j => mkBeat (bits x (512 * j) 512) false

/-- One INT32 or FP32 lane under the scale of an INT8 or INT4 destination: the exact product, rounded once (R34; that no
FP32 product stands between is assumption 82). -/
def reqLane (w ts : Nat) (ints : Bool) (x : Nat) : Cvt :=
  fvToIntSat w (fvMul (if ints then ofInt (sext 32 x) else ofF32 x) (ofF32 ts))

/-- What leaves output control for one beat: payload, its bytes, the generator's next state, the conversion of each
lane. -/
structure OutBeat where
  data : Nat
  bytes : Nat
  gen : Nat
  cvts : List Cvt
  deriving DecidableEq, Repr

/-- A beat leaving stage 6, or a bypass result, converted under an OCTL word (R31 to R36, R77). 32-bit formats leave as
they are (assumption 9). `ints` says the lanes are INT32 values; a narrower floating-point destination, for which R34
gives no INT32 row, reads them as FP32 patterns all the same (assumption 83). -/
def convertOut (octl : DWord) (gen : Nat) (ints : Bool) (ls : List Nat) : OutBeat :=
  let w := octl.toNat
  let c := bits w 54 4
  let sat := !bit w 52
  let ts := bits w 0 32
  let n := ls.length
  let st := bit w 53 && stochFmt c
  let g := if st then xorshifts n gen else (gen, [])
  let modes := if st then g.2.map RMode.stoch else ls.map fun _ => RMode.even
  if c = 0 ∨ c = 14 then ⟨packCodes 32 ls, 4 * n, gen, ls.map fun x => ⟨x, false, false, false⟩⟩
  else if isMx c then
    let b := mxBlock c sat modes (ls.map ofF32)
    let bytes := n * fmtBits c / 8
    ⟨packCodes (fmtBits c) (b.2.map Cvt.bits) + b.1 * 2 ^ (8 * bytes), bytes + 1, g.1, b.2⟩
  else if c = 11 then
    let t := ofF32 ts
    let b0 := nb4Block sat t (modes.take 16) ((ls.take 16).map ofF32)
    let b1 := nb4Block sat t (modes.drop 16) ((ls.drop 16).map ofF32)
    let bytes := n / 2
    ⟨packCodes 4 ((b0.2 ++ b1.2).map Cvt.bits) + (b0.1 + 256 * b1.1) * 2 ^ (8 * bytes), bytes + 2, g.1, b0.2 ++ b1.2⟩
  else if isIntFmt c then
    let r := ls.map (reqLane (fmtBits c) ts ints)
    ⟨packCodes (fmtBits c) (r.map Cvt.bits), n * fmtBits c / 8, gen, r⟩
  else
    match fmtOf c with
    | some f =>
      let r := (ls.zip modes).map fun p => fpEncode f p.2 sat (ofF32 p.1)
      ⟨packCodes (fmtBits c) (r.map Cvt.bits), n * fmtBits c / 8, g.1, r⟩
    | none => ⟨0, 0, gen, []⟩

/-- Where loops stand after the word at `pc`: the innermost loop that ends there runs again or is left (R85, R103). -/
def nextPc : Nat → List (Nat × Nat × Nat) → Nat × List (Nat × Nat × Nat)
  | pc, [] => (pc + 1, [])
  | pc, (f, l, n) :: t => if pc = l then (if n > 1 then (f, (f, l, n - 1) :: t) else nextPc pc t)
                          else (pc + 1, (f, l, n) :: t)

/-- Entering a loop of `body` words run `n` times at `pc`; a count of zero skips the body (R85, R103, R164). -/
def enterLoop (pc body n : Nat) (ls : List (Nat × Nat × Nat)) : Nat × List (Nat × Nat × Nat) :=
  if n = 0 then nextPc (pc + body) ls else (pc + 1, (pc + 1, pc + body, n) :: ls)

/-! ### What a unit takes from its input ports (R144) -/

/-- A pair selector of VRUN names port `p`. -/
def pairHas (sel p : Nat) : Bool := (sel == 1 && decide (p < 2)) || (sel == 2 && decide (2 ≤ p))

/-- Transfers of format `c` that still have to come for `n` more beats, `left` of them at hand (R72). -/
def transfersFor (c n left : Nat) : Nat := if c = 1 ∨ c = 2 then cdiv (n - left) 2 else n - left

/-- Side beats a vector run has still to begin (R84). -/
def sideLeft (r : VRun) : Nat :=
  let d := max 1 (bits r.word.toNat 24 16)
  cdiv (bits r.word.toNat 0 24) d - cdiv r.done d

/-- Activation rows of a bypass instruction, in beats of IN1 (R69). -/
def bypRowBeats (w : Nat) : Nat :=
  let c := bits w 54 4
  let k := bits w 34 16
  cdiv (bits w 29 5 * (k * fmtBits c / 8 + if isMx c then cdiv k 32 else 0)) 64

/-- Beats of one weight column on each port of IN2:IN3 (R69): those of 128 elements, twice where the scales overfill the
first (assumption 8). -/
def bypColBeats (w : Nat) : Nat :=
  let c := bits w 50 4
  let k := bits w 34 16
  let g := scaleGroup c 0
  ((List.range (cdiv k 128)).map fun j =>
    let n := min 128 (k - 128 * j)
    if g ≠ 0 && decide (128 * fmtBits c / 8 + cdiv n g > 128) then 2 else 1).foldl (· + ·) 0

/-- Beats with data that the instructions in progress of a stake still need on input port `p`. -/
def stkWants (x : Stake) (p : Nat) : Nat :=
  let vec := match x.vec.run with
    | some r =>
      let w := r.word.toNat
      (if pairHas (bits w 56 2) p then transfersFor (bits w 50 4) (bits w 0 24 - r.done) r.rest.length else 0) +
      (if pairHas (bits w 54 2) p then transfersFor (bits w 46 4) (sideLeft r) r.sideRest.length else 0)
    | none => 0
  let arr := match x.mt with
    | some m =>
      let w := m.word.toNat
      let a := bits w 54 4
      let b := bits w 50 4
      let st := if pairRate2 a b then 2 else 1
      if p = 0 then m.left * feedBeats a (bits w 19 3) 16 st 16 (bits w 34 16)
      else if p = 1 && !m.kept then
        (if bit w 26 then 1 else m.left) * feedBeats b (bits w 16 3) 32 st 32 (bits w 34 16)
      else 0
    | none => 0
  let byp := match x.byp with
    | some y =>
      let w := y.word.toNat
      if p = 0 then (if bit w 22 then y.left else 0)
      else if p = 1 then (if y.rows.isNone then bypRowBeats w else 0) else y.left * bypColBeats w
    | none => 0
  vec + arr + byp - countData (x.inq.getD p [])

/-- Beats with data that the write runs of a bushel still need on input port `p` (R105). -/
def bshWants (y : Bushel) (p : Nat) : Nat :=
  let own := ((y.wr.getD p []).map WrRun.left).foldl (· + ·) 0
  let pair := if p % 2 = 1 then (((y.wr.getD (p - 1) []).filter fun r => r.width = 128).map WrRun.left).foldl (· + ·) 0
    else 0
  own + pair - countData (y.inq.getD p [])

/-- The first `n` beats of each queue join the unit's, the rest stay. -/
def joinQ (n : Nat → Nat) (a b : List (List Beat)) : List (List Beat) × List (List Beat) :=
  ((List.range 4).map fun p => a.getD p [] ++ (b.getD p []).take (n p), (List.range 4).map fun p => (b.getD p []).drop (n p))

/-- A skew queue with a free entry ends its SKEW_FULL (R145). -/
def skewFreed (word : Word) (z : Switch) : Switch :=
  { z with blk := z.blk.filter fun e =>
      !(e.1 == 3 && decide ((z.skew.getD e.2 []).length < bits word.toNat (8 * e.2) 7)) }

/-- A switch's entries: the skew word of its switch (R144). -/
def skewWord (s : State) (z : Nat) : Word := tget (fun _ => 0) s.fab.skewW z

/-- Stake `k` takes from the head of its skew queues what its instructions in progress need (R144). -/
def pullStk (s : State) (k : Nat) : State :=
  let z := sw s (stkSwitch k)
  let q := joinQ (stkWants (stk s k)) (stk s k).inq z.skew
  setStk (setSw s (stkSwitch k) (skewFreed (skewWord s (stkSwitch k)) { z with skew := q.2 })) k { stk s k with inq := q.1 }

/-- Bushel `b` takes from its skew queues what its write runs need. -/
def pullBsh (s : State) (b : Nat) : State :=
  let z := sw s (bshSwitch b)
  let q := joinQ (bshWants (bsh s b)) (bsh s b).inq z.skew
  setBsh (setSw s (bshSwitch b) (skewFreed (skewWord s (bshSwitch b)) { z with skew := q.2 })) b { bsh s b with inq := q.1 }

end Sys2Proof.Machine
end

