-- ==== Sys2Proof/Machine/Link.lean ====
section
/-! DEFINITION. The link layer of the Skein ports and the routing of flits (R320 to R328). -/

namespace Sys2Proof.Machine

/-! ### Ports (R325, R326, R328) -/

/-- The slot distance d of a mesh port; 0 for a port that faces the switch trays (R325). -/
def meshOf (n : Nat) : Nat := if n % 16 < 6 then n % 16 / 2 + 1 else 0

/-- The state a trained port stands in (R325, R326). -/
def judgePort (s : State) (n : Nat) : State :=
  let t := (port s n).trained
  if t = 0 then s
  else if rd s Reg.SKL_LINK_CTRL_OPEN n = 0 then wr s Reg.SKL_LINK_STAT_STATE n 5
  else if t ≠ 2 then wr s Reg.SKL_LINK_STAT_STATE n t
  else if meshOf n ≠ 0 ∧ rd s Reg.SKL_LINK_STAT_PEER_SW n = 0 ∧
      rd s Reg.SKL0_ROSTER_SLICE (rd s Reg.SKL_LINK_STAT_PEER n) ≠ rd s Reg.SKL0_DEV_SLICE 0 then
    wr s Reg.SKL_LINK_STAT_STATE n 5
  else wr s Reg.SKL_LINK_STAT_STATE n 2

/-- Ports usable toward device `d`, ascending: those trained to it, else the switch ports (R328). -/
def routeTo (s : State) (d : Nat) : List Nat :=
  let up := (List.range 32).filter fun n => rd s Reg.SKL_LINK_STAT_STATE n == 2
  let mesh := up.filter fun n => rd s Reg.SKL_LINK_STAT_PEER_SW n == 0 && rd s Reg.SKL_LINK_STAT_PEER n == d
  if mesh.isEmpty then up.filter fun n => rd s Reg.SKL_LINK_STAT_PEER_SW n == 1 else mesh

/-! ### Flits (R320 to R322) -/

/-- VC of a flit type (R320). -/
def vcOf (typ : Nat) : Nat :=
  if typ = 1 ∨ typ = 3 ∨ typ = 5 then 0 else if typ = 2 ∨ typ = 4 ∨ typ = 6 ∨ typ = 7 then 1
  else if 8 ≤ typ ∧ typ ≤ 11 then 2 else 3

/-- The port may send a flit of a VC now: a link credit, and room to keep it for replay (R321, R322). -/
def maySend (p : Port) (v : Nat) : Bool :=
  decide (p.cred.getD v 0 > 0) && (v == 3 || decide (p.replay.length < 512))

/-- A flit leaves on a port, with its LSEQ and the credits it returns. MGMT flits take no LSEQ and are not kept (DEDUCED,
assumption 23). -/
def transmit (s : State) (n : Nat) (f : Flit) : State :=
  let p := port s n
  let v := vcOf f.typ
  let k := match (List.range 4).find? fun k => decide (p.owed.getD k 0 ≥ 4) with | some k => k | none => 0
  let c := min 15 (p.owed.getD k 0 / 4)
  let h := { f.h with lseq := if v = 3 then 0 else p.txSeq, crvc := k, crn := c }
  let f := { f with h := h }
  let p := { p with
    owed := setAt p.owed k (p.owed.getD k 0 - 4 * c), cred := setAt p.cred v (p.cred.getD v 0 - 1),
    txSeq := if v = 3 then p.txSeq else (p.txSeq + 1) % 1024, replay := if v = 3 then p.replay else p.replay ++ [f] }
  bump (emit (setPort s n p) (.flit n f)) Reg.SKL_TX_FLITS n 1

/-- A flit goes out on a port, or waits behind others of its VC for a credit (R321). -/
def sendOn (s : State) (n : Nat) (f : Flit) : State :=
  let p := port s n
  let v := vcOf f.typ
  if maySend p v && !(p.wait.any fun g => vcOf g.typ == v) then transmit s n f
  else setPort s n { p with wait := p.wait ++ [f] }

/-- Waiting flits go as credits allow, in order. -/
def flushPort (s : State) (n : Nat) : State :=
  let w := (port s n).wait
  eachOf w (setPort s n { port s n with wait := [] }) fun s f => sendOn s n f

/-- A flit of the device's own. -/
def mkFlit (s : State) (typ d part info mask : Nat) (last : Bool) (body data : List Nat) : Flit :=
  ⟨typ, ⟨0, d, rd s Reg.SKL0_DEV_DEVNUM 0, rd s Reg.SKL0_DEV_SLICE 0, part, 0, 0, mask, last, info, true⟩, body, data⟩

/-- The port a flit takes toward its destination (R328); the spec names none for WRACK and RDDATA: the lowest-numbered
usable port (assumption 24). -/
def choosePort (s : State) (f : Flit) : Option Nat × State :=
  let d := f.h.dest
  let l := routeTo s d
  if l.isEmpty then (none, s)
  else if f.typ = 1 ∨ f.typ = 3 then (l[(f.h.info % 65536 + 7 * d) % l.length]?, s)
  else if f.typ = 9 ∨ f.typ = 10 then
    let k := tget (fun _ => 0) s.skl.rot d
    (l[k % l.length]?, { s with skl := { s.skl with rot := tset (fun _ => 0) s.skl.rot d (k + 1) } })
  else (l.head?, s)

/-- A flit is sent toward its destination; without a path it goes nowhere. Nothing but MGMT leaves a device outside domain
mode, or goes to a device absent from the roster or of another slice (R324, R327). -/
def route (s : State) (f : Flit) : State :=
  if rd s Reg.SKL0_DOM_CTRL_EN 0 = 0 ∨ rd s Reg.SKL0_ROSTER_PRESENT f.h.dest = 0 ∨
      rd s Reg.SKL0_ROSTER_SLICE f.h.dest ≠ rd s Reg.SKL0_DEV_SLICE 0 then s
  else match choosePort s f with
    | (some n, s) => sendOn s n f
    | (none, s) => s

/-- A MGMT ACK or NAK naming an LSEQ (R322): body 0 ACK, 1 NAK. -/
def sendMgmt (s : State) (n kind lseq : Nat) : State :=
  sendOn s n (mkFlit s 12 (rd s Reg.SKL_LINK_STAT_PEER n) 0 0 0 true [kind, lseq] [])

/-- Credits a flit returns come in (R320, R321). -/
def takeCredits (s : State) (n : Nat) (h : FlitHdr) : State :=
  let p := port s n
  let k := h.crvc % 4
  flushPort (setPort s n { p with
    cred := setAt p.cred k (min ([64, 64, 128, 8].getD k 0) (p.cred.getD k 0 + 4 * (h.crn % 16))) }) n

/-- What the link makes of a flit on VC 0 to 2: its state, and whether the flit goes on to the transaction layer (R321,
R322, R324 to R326). -/
def receive (s : State) (n vc : Nat) (h : FlitHdr) : State × Bool :=
  let p := port s n
  if rd s Reg.SKL_LINK_STAT_STATE n ≠ 2 ∨ rd s Reg.SKL0_DOM_CTRL_EN 0 = 0 then (s, false)
  else if !h.crcOk then
    let s := bump s Reg.SKL_CRC_ERR n 1
    (if p.skip then s else sendMgmt (setPort s n { p with skip := true }) n 1 p.rxSeq, false)
  else if h.lseq ≠ p.rxSeq then (s, false)
  else
    let p := { p with
      rxSeq := (p.rxSeq + 1) % 1024, skip := false, owed := setAt p.owed vc (p.owed.getD vc 0 + 1),
      since := (p.since + 1) % 64 }
    let s := takeCredits (bump (setPort s n p) Reg.SKL_RX_FLITS n 1) n h
    let s := if p.since = 0 then sendMgmt s n 0 ((p.rxSeq + 1023) % 1024) else s
    if h.slice ≠ rd s Reg.SKL0_DEV_SLICE 0 then (bump s Reg.SKL_SLICE_DROP n 1, false) else (s, true)

/-- The link goes down or trains afresh: its unacknowledged and waiting flits go out on the other ports toward their
destinations, in order (R323). -/
def dropPort (s : State) (n st : Nat) : State :=
  let p := port s n
  let l := (p.replay ++ p.wait).filter fun f => vcOf f.typ != 3
  eachOf l (wr (setPort s n Port.idle) Reg.SKL_LINK_STAT_STATE n st) route

end Sys2Proof.Machine
end

