-- ==== Sys2Proof/Machine/Intr.lean ====
section
/-! DEFINITION. Interrupt sources and messages (R355), page status flags (R433). -/

namespace Sys2Proof.Machine

/-- Interrupt bits a page defines, by page index (R355 and the chapters' tables). -/
def intBits (pg : Nat) : Nat :=
  if pg = 0x01 then 16 else if pg = 0x03 then 8 else if pg = 0x05 then 8 else if pg = 0x50 then 1
  else if pg = 0x08 then 7 else if pg = 0x09 then 1 else if pg = 0x0C then 1 else if pg = 0x0D then 1
  else if pg = 0x0E then 1 else if pg = 0x0F then 3 else if 0x40 ≤ pg ∧ pg ≤ 0x47 then 2
  else if pg = 0x48 ∨ pg = 0x49 then 2 else 0

/-- The vector of bit `k` of a page (R355). -/
def vectorOf (pg k : Nat) : Nat :=
  if pg = 0x01 then k else if pg = 0x03 then 16 + k else if pg = 0x05 then 24 + k else if pg = 0x50 then 32
  else if pg = 0x08 then 33 else if pg = 0x09 then 34 else if pg = 0x0C then 35 else if pg = 0x0D then 36
  else if pg = 0x0F then (if k = 0 then 37 else 38) else if 0x40 ≤ pg ∧ pg ≤ 0x47 then 39
  else if pg = 0x0E then 41 else 40

/-- A vector's message: sent, or left pending while it is masked or the link is down (R355, R357). -/
def sendVec (s : State) (v : Nat) : State :=
  if rd s Reg.FUS_IVEC_MASK v = 1 ∨ rd s Reg.FUS_LINK_STAT_UP 0 = 0 then wr s Reg.FUS_IVEC_PEND v 1
  else emit s (.msi (rd2 s Reg.FUS_IVEC_ADDR_LO Reg.FUS_IVEC_ADDR_HI v) (rd s Reg.FUS_IVEC_DATA v))

/-- The rise of an enabled bit is forwarded to the lead (R333). -/
def forwardInt (s : State) (pg : Nat) : State :=
  if rd s Reg.SKL0_DOM_CTRL_IFWD 0 = 1 ∧ rd s Reg.SKL0_DOM_LEAD_VALID 0 = 1 then
    route s (mkFlit s 7 (rd s Reg.SKL0_DOM_LEAD_DEV 0) 0 0 0 true [pg] [])
  else s

/-- Bit `k` of a page's INT_STAT is set; a rise of an enabled bit sends its message (R355), and an INTR flit where
interrupts are forwarded (R333). -/
def raiseInt (s : State) (pg k : Nat) : State :=
  let was := rdBit s Reg.HDR_INT_STAT pg k
  let s := setBit s Reg.HDR_INT_STAT pg k
  if !was && rdBit s Reg.HDR_INT_EN pg k then forwardInt (sendVec s (vectorOf pg k)) pg else s

/-- An `ERR_SUM` bit is set, and `STATUS.ERROR` with it (R433). -/
def pageErr (s : State) (f : Fld) (pg : Nat) : State := wr (wr s f pg 1) Reg.HDR_STATUS_ERROR pg 1

/-- The rim firmware is running (R400, R445). -/
def rimRuns (s : State) : Bool := rd s Reg.RIM_STAT_RUN0 0 == 1 && rd s Reg.RIM_STAT_RUN1 0 == 1

end Sys2Proof.Machine
end

