-- ==== Sys2Proof/Machine/Translate.lean ====
section
/-! DEFINITION. The unified range (R181 to R212): tables, translation, access, frames and their charges, heat, fault
records. -/

namespace Sys2Proof.Machine

/-! ### Table entries (R186, R187) -/

/-- Page number of a device address (R185). -/
def pageOf (da : Nat) : Nat := da / 65536

def l1e (s : State) (p page : Nat) : Nat := (tget (fun _ => 0) s.mem.l1 (4096 * p + page / 2 ^ 24)).toNat
def l2e (s : State) (p page : Nat) : Nat := (tget (fun _ => 0) s.mem.l2 (2 ^ 24 * p + page / 2 ^ 12)).toNat
def l3e (s : State) (p page : Nat) : Nat := (tget (fun _ => 0) s.mem.l3 (2 ^ 36 * p + page)).toNat
def she (s : State) (p page : Nat) : Nat := (tget (fun _ => 0) s.mem.sh (2 ^ 36 * p + page)).toNat

def setMem (s : State) (m : Memory) : State := { s with mem := m }
/-- The range table of level `l` that serves a page, as the key of its error flag. -/
def tblKey (l p page : Nat) : Nat :=
  match l with
  | 1 => 2 ^ 28 + p
  | 2 => 2 ^ 27 + 4096 * p + page / 2 ^ 24
  | _ => 2 ^ 24 * p + page / 2 ^ 12
/-- A range table that serves a page is in error (R208). -/
def tblBad (s : State) (p page : Nat) : Bool :=
  [1, 2, 3].any fun l => tget (fun _ => false) s.mem.badTbl (tblKey l p page)
def setTblBad (s : State) (l p page : Nat) (b : Bool) : State :=
  setMem s { s.mem with badTbl := tset (fun _ => false) s.mem.badTbl (tblKey l p page) b }
def setL1 (s : State) (p page e : Nat) : State :=
  setMem s { s.mem with l1 := tset (fun _ => 0) s.mem.l1 (4096 * p + page / 2 ^ 24) (BitVec.ofNat 64 e) }
def setL2 (s : State) (p page e : Nat) : State :=
  setMem s { s.mem with l2 := tset (fun _ => 0) s.mem.l2 (2 ^ 24 * p + page / 2 ^ 12) (BitVec.ofNat 64 e) }
def setL3 (s : State) (p page e : Nat) : State :=
  setMem s { s.mem with l3 := tset (fun _ => 0) s.mem.l3 (2 ^ 36 * p + page) (BitVec.ofNat 64 e) }
def setSh (s : State) (p page e : Nat) : State :=
  setMem s { s.mem with sh := tset (fun _ => 0) s.mem.sh (2 ^ 36 * p + page) (BitVec.ofNat 64 e) }

/-- Fields of a level-3 entry (R187). -/
def eKind (e : Nat) : Nat := bits e 0 2
def eRd (e : Nat) : Bool := bit e 2
def eWr (e : Nat) : Bool := bit e 3
def eCln (e : Nat) : Bool := bit e 4
def ePsn (e : Nat) : Bool := bit e 5
def ePin (e : Nat) : Bool := bit e 6
def eMig (e : Nat) : Bool := bit e 7
def eHint (e : Nat) : Nat := bits e 8 2
def eTier (e : Nat) : Nat := bits e 10 1
def eFrame (e : Nat) : Nat := bits e 12 28
def eWin (e : Nat) : Nat := bits e 12 7
def eWpage (e : Nat) : Nat := bits e 19 36

/-- Entries with data present in a tier. -/
def isLocal (e : Nat) : Bool := eKind e == 2

/-! ### Links behind windows -/

/-- What stands in the way of a peer: 0 nothing, 3 no path, 103 not to be sent to (R192, R323, R326, R327, R345). -/
def peerBar (s : State) (d : Nat) : Nat :=
  if rd s Reg.SKL0_DOM_CTRL_EN 0 = 0 then 3
  else if rd s Reg.SKL0_ROSTER_PRESENT d = 0 ∨ rd s Reg.SKL0_ROSTER_SLICE d ≠ rd s Reg.SKL0_DEV_SLICE 0 then 103
  else if (List.range 32).all fun n => rd s Reg.SKL_LINK_CTRL_OPEN n == 0 then 103
  else if (routeTo s d).isEmpty then 3 else 0

/-! ### Translation (R185, R199) -/

/-- Where an access goes: a tier address, a window, a zero-fill first, or a fault of R199. -/
inductive Xl where
  | t2 (a : Nat)
  | t3 (a : Nat)
  | win (w wpage off : Nat)
  | zfill
  | flt (kind sub : Nat)
  deriving DecidableEq, Repr

/-- Subcode of POISONED at a page: that of a detection error for the access that finds it, 0x1 for later ones (R209). -/
def psnSub (s : State) (p page : Nat) : Nat :=
  match s.mem.found.find? (fun x => x.1 == p && x.2.1 == page) with
  | some x => x.2.2
  | none => 1

/-- Translation of one access (R199: the kinds in the order of its table). -/
def translate (s : State) (p da : Nat) (write : Bool) : Xl :=
  let page := pageOf da
  let off := da % 65536
  let e := l3e s p page
  if page ≥ 2 ^ 36 ∨ rd s Reg.XLT_ROOT_VALID p = 0 ∨ bits (l1e s p page) 0 2 ≠ 2 then .flt 1 1
  else if bits (l2e s p page) 0 2 ≠ 2 then .flt 1 2
  else if eKind e ≠ 0 ∧ tblBad s p page then .flt 4 4
  else match eKind e with
  | 0 => .flt 1 3
  | 1 =>
    if eTier e = 1 then
      match s.mem.noFill.find? (fun x => x.1 == p && x.2.1 == page) with
      | some x => .flt 5 x.2.2
      | none => .zfill
    else .flt 2 1
  | 2 =>
    if eTier e = 1 ∧ rd s Reg.CAP_STAT_UP (bits (eFrame e) 25 3) = 0 then .flt 2 4
    else if write ∧ !eWr e then .flt 3 2
    else if !write ∧ !eRd e then .flt 3 1
    else if ePsn e then .flt 4 (psnSub s p page)
    else if eTier e = 1 then .t3 (eFrame e * 65536 + off) else .t2 (eFrame e * 65536 + off)
  | _ =>
    let w := eWin e
    let bar := if w = 0x40 then (if rd s Reg.FUS_LINK_STAT_UP 0 = 1 then 0 else 2) else peerBar s w
    if bar = 2 ∨ bar = 3 then .flt 2 bar
    else if write ∧ !eWr e then .flt 3 2
    else if !write ∧ !eRd e then .flt 3 1
    else if bar = 103 then .flt 3 3
    else if ePsn e then .flt 4 (psnSub s p page)
    else .win w (eWpage e) off

/-- Pages a range touches, ascending. -/
def pagesOf (da n : Nat) : List Nat :=
  if n = 0 then [] else (List.range (pageOf (da + n - 1) - pageOf da + 1)).map (pageOf da + ·)

/-- What an access to a whole range meets first. -/
inductive Acc where
  | ok
  | wait (page : Nat)
  | flt (page kind sub : Nat)
  deriving DecidableEq, Repr

/-- Judges an access to a range, page by page in ascending order. -/
def probe (s : State) (p da n : Nat) (write : Bool) : Acc :=
  (pagesOf da n).foldl (fun a page => match a with
    | .ok => match translate s p (page * 65536) write with
      | .flt k sub => .flt page k sub
      | .zfill => .wait page
      | _ => .ok
    | x => x) .ok

/-! ### Data -/

/-- The byte of a peer's window at an offset of its page that a read has brought (R331). -/
def winByte (s : State) (w wp off : Nat) : Option Nat :=
  (s.skl.reqs.reverse.find? fun q => !q.write && q.dev == w && q.wpage == wp && q.gran == off / 256 && q.st == .here).map
    fun q => q.data.getD (off % 256) 0

/-- One byte through the range; bytes from outside the package are free (R192), those of a peer's window as its answer
brought them. -/
def memByte (s : State) (p da : Nat) : Nat :=
  match translate s p da false with
  | .t2 a => (tget (fun _ => 0) s.mem.t2 a).toNat
  | .t3 a => (tget (fun _ => 0) s.mem.t3 a).toNat
  | .win w wp off => (if w = 0x40 then none else winByte s w wp off).getD
      (Config.outsideByte s.fv w (wp * 65536 + off)).toNat
  | _ => 0

/-- `n` bytes through the range (R4). -/
def memRead (s : State) (p da : Nat) : Nat → Nat
  | 0 => 0
  | n + 1 => memByte s p da + 256 * memRead s p (da + 1) n

/-- A list of bytes through the range. -/
def memList (s : State) (p da n : Nat) : List Nat := (List.range n).map fun i => memByte s p (da + i)

/-- A WR flit is sent for a request (R320, R330). -/
def askWin (s : State) (q : WReq) (last : Bool) : State :=
  route s (mkFlit s (if q.write then 1 else 3) q.dev q.part (q.wpage + 2 ^ 36 * q.gran) q.mask last [q.id] q.data)

/-- A new request to a peer, sent. -/
def newWin (s : State) (q : WReq) (last : Bool) : State :=
  let q := { q with id := s.skl.reqNext }
  askWin { s with skl := { s.skl with reqs := s.skl.reqs ++ [q], reqNext := s.skl.reqNext + 1 } } q last

/-- Bytes written into a peer's page: one WR flit for each granule, naming the 64-byte lines it writes. The bytes of such a
line outside the write carry what stands at the peer (assumption 22). -/
def winWrite (s : State) (p page w wp off n v : Nat) : State :=
  let gs := (List.range (cdiv (off + n) 256 - off / 256)).map (off / 256 + ·)
  eachOf gs (fresh s) fun s g =>
    let inside (b : Nat) : Bool := decide (off ≤ b) && decide (b < off + n)
    let mask := ofBits ((List.range 4).filter fun l => (List.range 64).any fun b => inside (256 * g + 64 * l + b))
    let data := (List.range 256).map fun b =>
      if inside (256 * g + b) then v / 2 ^ (8 * (256 * g + b - off)) % 256
      else (Config.outsideByte s.fv w (wp * 65536 + 256 * g + b)).toNat
    newWin s ⟨0, w, p, page, wp, g, none, true, mask, data, .asked⟩ (256 * (g + 1) ≥ off + n)

/-- Stores a part of a range that lies in one page. -/
def pageWrite (s : State) (p da n v : Nat) : State :=
  match translate s p da true with
  | .t2 a => setMem s { s.mem with t2 := tstore (fun _ => 0) s.mem.t2 a n v }
  | .t3 a => setMem s { s.mem with t3 := tstore (fun _ => 0) s.mem.t3 a n v }
  | .win w wp off => if w = 0x40 then emit s (.write (wp * 65536 + off) n (v % 2 ^ (8 * n)))
      else winWrite s p (pageOf da) w wp off n v
  | _ => s

/-- Stores the low `n` bytes of `v` through the range, split at page boundaries (R4, R184). -/
def memWrite (s : State) (p da n v : Nat) : State :=
  (pagesOf da n).foldl (fun s page =>
    let lo := max da (page * 65536)
    let hi := min (da + n) ((page + 1) * 65536)
    pageWrite s p lo (hi - lo) (v / 2 ^ (8 * (lo - da)))) s

/-! ### Segments and frames (R188, R193, R194) -/

def segKey (p page : Nat) : Nat := 2 ^ 31 * p + page / 32
def fsegKey (tier f : Nat) : Nat := 2 ^ 32 * tier + f
def getSeg (s : State) (k : Nat) : Option Segm := tget (fun _ => none) s.mem.segs k
def setSeg (s : State) (k : Nat) (v : Option Segm) : State :=
  setMem s { s.mem with segs := tset (fun _ => none) s.mem.segs k v }
def getFseg (s : State) (k : Nat) : Option FSeg := tget (fun _ => none) s.mem.fsegs k
def setFseg (s : State) (k : Nat) (v : Option FSeg) : State :=
  setMem s { s.mem with fsegs := tset (fun _ => none) s.mem.fsegs k v }

/-- The 32 pages of the segment with a key. -/
def segPages (k : Nat) : List Nat := (List.range 32).map fun i => k % 2 ^ 31 * 32 + i

/-- LOCAL pages of a segment. -/
def localPages (s : State) (k : Nat) : List Nat := (segPages k).filter fun g => isLocal (l3e s (k / 2 ^ 31) g)

/-- The page lies in the save area of an invocation that is yielding, yielded or restoring: the device's own pin
(R206, R262). -/
def savePinned (s : State) (p page : Nat) : Bool :=
  (s.wve.yields.map (fun y => (y.ring, y.idx)) ++ s.wve.saved.map fun y => (y.ring, y.idx)).any fun t =>
    decide (partOf t.1 = p) && (match getCmd s t.1 t.2 with
      | some c => decide (c.fld 0x30 8 ≤ page * 65536) && decide (page * 65536 < c.fld 0x30 8 + c.fld 0x38 8)
      | none => false)

/-- The segment is pinned: some LOCAL page is (R188, R206). -/
def segPinned (s : State) (k : Nat) : Bool :=
  (localPages s k).any fun g => ePin (l3e s (k / 2 ^ 31) g) || savePinned s (k / 2 ^ 31) g

/-- The segment's hint (R188). -/
def segHint (s : State) (k : Nat) : Nat :=
  let h := (localPages s k).map fun g => eHint (l3e s (k / 2 ^ 31) g)
  if h.contains 1 then 1 else if h.contains 2 then 2 else 0

/-- A page of the segment is locked (R205). -/
def segLocked (s : State) (k : Nat) : Bool :=
  s.mem.locks.any fun l => segKey l.part l.page == k

/-- Partition `p` is privileged (R194; PB equal to PA counts for nothing). -/
def privileged (s : State) (p : Nat) : Bool :=
  (rd s Reg.XLT_PRIV_PA_V 0 == 1 && rd s Reg.XLT_PRIV_PA 0 == p) ||
  (rd s Reg.XLT_PRIV_PB_V 0 == 1 && rd s Reg.XLT_PRIV_PB 0 == p && rd s Reg.XLT_PRIV_PB 0 != rd s Reg.XLT_PRIV_PA 0)

/-- Registers of a tier: quota, quota use, pool use by partition, pool size, pool used, free. -/
def qReg (t : Nat) : Fld := if t = 0 then Reg.XLT_Q_T2 else Reg.XLT_Q_T3
def uReg (t : Nat) : Fld := if t = 0 then Reg.XLT_U_T2 else Reg.XLT_U_T3
def puReg (t : Nat) : Fld := if t = 0 then Reg.XLT_PU_T2 else Reg.XLT_PU_T3
def poolReg (t : Nat) : Fld := if t = 0 then Reg.XLT_POOL_T2 else Reg.XLT_POOL_T3
def poolUsed (t : Nat) : Fld := if t = 0 then Reg.XLT_POOL_T2_USED else Reg.XLT_POOL_T3_USED
def freeReg (t : Nat) : Fld := if t = 0 then Reg.XLT_T2_FREE else Reg.XLT_T3_FREE

/-- How a charge falls: to quota, to the shared pool, or refused (R193). -/
def chargeTo (s : State) (p t : Nat) : Option Bool :=
  if rd s (uReg t) p < rd s (qReg t) p then some false
  else if privileged s p ∧ rd s (poolUsed t) 0 < rd s (poolReg t) 0 then some true else none

/-- Registers after a charge, and after its return. -/
def charge (s : State) (p t : Nat) (pool : Bool) : State :=
  if pool then up (up s (puReg t) p 1) (poolUsed t) 0 1 else up s (uReg t) p 1
def uncharge (s : State) (p t : Nat) (pool : Bool) : State :=
  if pool then down (down s (puReg t) p 1) (poolUsed t) 0 1 else down s (uReg t) p 1

/-- The `n`-th free frame segment of a tier among `lo` to `hi - 1`, the segments in use left out. -/
def nthFree (s : State) (t lo hi n : Nat) : Option Nat :=
  let used := (s.mem.fsegs.map Prod.fst).filterMap fun k =>
    if fsegKey t lo ≤ k ∧ k < fsegKey t hi then some (k - fsegKey t 0) else none
  let x := used.foldl (fun x u => if u ≤ x then x + 1 else x) (lo + n)
  if x < hi then some x else none

/-- A free frame segment among `lo` to `hi - 1`; which one the spec does not say, so a free value says (assumption 7). -/
def anyFree (s : State) (t lo hi : Nat) : Option Nat :=
  let used := (s.mem.fsegs.filter fun e => decide (fsegKey t lo ≤ e.1) && decide (e.1 < fsegKey t hi)).length
  if hi - lo ≤ used then none else nthFree s t lo hi (freeNat s % (hi - lo - used))

/-- A free T2 frame segment above the reserved ones (R182). -/
def freeT2 (s : State) : Option Nat :=
  if rd s Reg.XLT_T2_FREE 0 = 0 then none else anyFree s 0 (rd s Reg.XLT_T2_RSV 0) 262144

/-- The next free T3 frame segment, round-robin over ports that are up (R183). -/
def freeT3 (s : State) : Option Nat :=
  ((List.range 8).map fun i => (s.mem.t3last + 1 + i) % 8).findSome? fun c =>
    if rd s Reg.CAP_STAT_UP c = 0 then none
    else anyFree s 1 (2 ^ 20 * c) (2 ^ 20 * c + rd s Reg.CAP_FRAMES c / 32)

def freeSegOf (s : State) (t : Nat) : Option Nat := if t = 0 then freeT2 s else freeT3 s

/-- A frame segment is taken for a segment, its charge having been decided. -/
def takeFseg (s : State) (p seg t f : Nat) (pool : Bool) : State :=
  let s := setFseg s (fsegKey t f) (some ⟨p, seg, pool, false, 0, 0, false, none⟩)
  let s := fresh (down (charge s p t pool) (freeReg t) 0 1)
  if t = 1 then setMem s { s.mem with t3last := f / 2 ^ 20 } else s

/-- A frame segment's charge returns, and it goes back to its pool; one that was to be retired does not, and counts
(R190, R208). -/
def dropFseg (s : State) (t f : Nat) : State :=
  match getFseg s (fsegKey t f) with
  | none => s
  | some x =>
    let s := uncharge s x.part t x.pool
    if x.retired then (if t = 0 then bump s Reg.XLT_T2_RETIRED 0 1 else s)
    else up (setFseg s (fsegKey t f) none) (freeReg t) 0 1

/-- An allocation: a frame segment with its charge, or the QUOTA subcode (R193). -/
inductive Alloc where
  | got (f : Nat) (pool : Bool)
  | no (sub : Nat)
  deriving DecidableEq, Repr

def Alloc.isNo : Alloc → Bool
  | .no _ => true
  | _ => false

def alloc (s : State) (p t : Nat) : Alloc :=
  match chargeTo s p t with
  | none => .no (if t = 0 then 1 else 2)
  | some pool => match freeSegOf s t with
    | some f => .got f pool
    | none => .no 3

/-! ### Tables of the range (R189) -/

/-- Frames that hold range tables. -/
def tableFrames (s : State) : List Nat :=
  ((List.range 8).filterMap fun p => if rd s Reg.XLT_ROOT_VALID p = 1 then some (rd s Reg.XLT_ROOT_FRAME p) else none) ++
  ((s.mem.l1 ++ s.mem.l2).filterMap fun e => if bits e.2.toNat 0 2 = 2 then some (bits e.2.toNat 16 23) else none)

/-- A frame of the reserved T2 area that holds no table (R182, R189); which one, the free value `n` says (assumption 6). -/
def tableFrame (s : State) (n : Nat) : Nat :=
  let used := sortBy (fun a b => decide (a ≤ b)) (tableFrames s).eraseDups
  let left := 32 * rd s Reg.XLT_T2_RSV 0 - used.length
  used.foldl (fun x u => if u ≤ x then x + 1 else x) ((Config.tableFrame n).toNat % max 1 left)

/-- Table pool and level entries made for a page; none where the pool is empty. -/
def ensureTables (s : State) (p page : Nat) : Option State :=
  let r := rd s Reg.XLT_ROOT_VALID p = 1
  let a := bits (l1e s p page) 0 2 = 2
  let b := bits (l2e s p page) 0 2 = 2
  let need := oneIf (!decide r) + oneIf (!decide a) + oneIf (!decide b)
  if rd s Reg.XLT_TBL_FREE 0 < need then none
  else
    let n := s.mem.tblNext
    let s1 := if r then s else wr (wr s Reg.XLT_ROOT_FRAME p (tableFrame s n)) Reg.XLT_ROOT_VALID p 1
    let s2 := if a then s1 else setL1 s1 p page (2 + 2 ^ 16 * tableFrame s1 (n + 1))
    let s3 := if b then s2 else setL2 s2 p page (2 + 2 ^ 16 * tableFrame s2 (n + 2))
    some (down (setMem s3 { s3.mem with tblNext := n + (if need = 0 then 0 else 3) }) Reg.XLT_TBL_FREE 0 need)

/-- Tables whose last entry has gone are freed (R189). -/
def dropTables (s : State) (p page : Nat) : State :=
  let k2 := 2 ^ 24 * p + page / 2 ^ 12
  if s.mem.l3.any (fun e => e.1 / 4096 == k2) then s
  else
    let s := setTblBad (setMem s { s.mem with sh := tclear s.mem.sh (4096 * k2) 4096 }) 3 p page false
    let s := if bits (l2e s p page) 0 2 = 2 then up (setL2 s p page 0) Reg.XLT_TBL_FREE 0 1 else s
    let k1 := 4096 * p + page / 2 ^ 24
    if s.mem.l2.any (fun e => e.1 / 4096 == k1) then s
    else
      let s := setTblBad s 2 p page false
      let s := if bits (l1e s p page) 0 2 = 2 then up (setL1 s p page 0) Reg.XLT_TBL_FREE 0 1 else s
      if s.mem.l1.any (fun e => e.1 / 4096 == p) then s
      else
        let s := setTblBad s 1 p page false
        if rd s Reg.XLT_ROOT_VALID p = 1 then
          up (wr (wr s Reg.XLT_ROOT_VALID p 0) Reg.XLT_ROOT_FRAME p 0) Reg.XLT_TBL_FREE 0 1
        else s

/-- Zeros in every byte of a frame. -/
def clearFrame (s : State) (t f : Nat) : State :=
  if t = 0 then setMem s { s.mem with t2 := tclear s.mem.t2 (f * 65536) 65536 }
  else setMem s { s.mem with t3 := tclear s.mem.t3 (f * 65536) 65536 }

/-- A page becomes LOCAL in the segment's frame segment, zeroed, with permission and hint bits (R188, R191). -/
def makeLocal (s : State) (p page t f rdwr hint : Nat) : State :=
  let fr := f * 32 + page % 32
  setL3 (clearFrame s t fr) p page (2 + 4 * rdwr + 2 ^ 8 * hint + 2 ^ 10 * t + 2 ^ 12 * fr)

/-- A page stops being LOCAL; its segment's frame segment is freed with the last one (R188). -/
def leaveLocal (s : State) (p page : Nat) : State :=
  let k := segKey p page
  if (localPages s k).isEmpty then
    match getSeg s k with
    | some g => setSeg (dropFseg s g.tier g.frame) k none
    | none => s
  else s

/-! ### Heat (R197) -/

/-- A porter request to the LOCAL pages of a range adds to their heat. -/
def heatUp (s : State) (p da n : Nat) : State :=
  (pagesOf da n).foldl (fun s page =>
    let e := l3e s p page
    if isLocal e then
      let k := fsegKey (eTier e) (eFrame e / 32)
      match getFseg s k with
      | some x =>
        let b := min (da + n) ((page + 1) * 65536) - max da (page * 65536)
        setFseg s k (some { x with heat := min (x.heat + cdiv b 4096) 65535, age := 0, touched := true })
      | none => s
    else s) s

/-! ### Migrations (R196) -/

/-- MIG bits of a segment's LOCAL pages. -/
def setMigBits (s : State) (k : Nat) (b : Bool) : State :=
  (localPages s k).foldl (fun s g => setL3 s (k / 2 ^ 31) g (putBits (l3e s (k / 2 ^ 31) g) 7 1 (oneIf b))) s

/-- Migrations in progress as a porter page shows them (R444). -/
def noteMigs (s : State) : State :=
  (List.range 8).foldl (fun s q => wr s Reg.PRT_MIG_ACTIVE q (min 255 (s.mem.migs.filter fun m => m.porter == q).length)) s

/-- Starts a migration of the segment with key `k` to tier `t` (R196 steps 1, 2): destination taken and charged, MIG
set. Answers the QUOTA subcode where it cannot be charged. `like` says the new frame segment takes over the source's
charge instead (R208). -/
def startMig (s : State) (k t cause : Nat) (own : Option (Nat × Nat)) (like : Bool) : State × Option Nat :=
  match getSeg s k with
  | none => (s, none)
  | some g =>
    let p := k / 2 ^ 31
    let a := if like then (match freeSegOf s t with | some f => Alloc.got f false | none => .no 3) else alloc s p t
    match a with
    | .no sub => (s, some sub)
    | .got f pool =>
      let src := getFseg s (fsegKey g.tier g.frame)
      let s := if like then
          let s := setFseg s (fsegKey t f) (some ⟨p, k, match src with | some x => x.pool | none => false, false, 0, 0,
            false, none⟩)
          let s := fresh (down s (freeReg t) 0 1)
          if t = 1 then setMem s { s.mem with t3last := f / 2 ^ 20 } else s
        else takeFseg s p k t f pool
      -- the porter of the command that asks; of any other move the spec does not say (assumption 1)
      let q := match own with
        | some (r, i) => (match getCmd s r i with
          | some c => if 1 ≤ c.engine ∧ c.engine ≤ 8 then c.engine - 1 else freeNat s % 8
          | none => freeNat s % 8)
        | none => freeNat s % 8
      let m : Migr := ⟨s.mem.migNext, p, k, g.tier, g.frame, t, f, like, 0, cause, q, own⟩
      let s := setMem s { s.mem with migs := s.mem.migs ++ [m], migNext := s.mem.migNext + 1 }
      (noteMigs (setMigBits (setSeg s k (some { g with mig := some m.id })) k true), none)

/-- A migration ends with the segment as before step 1 (R196). -/
def abortMig (s : State) (m : Migr) : State :=
  let s := setMigBits s m.seg false
  let s := match getSeg s m.seg with | some g => setSeg s m.seg (some { g with mig := none }) | none => s
  let s := if m.dstPool then up (setFseg s (fsegKey m.dstTier m.dstFrame) none) (freeReg m.dstTier) 0 1
           else dropFseg s m.dstTier m.dstFrame
  noteMigs (setMem s { s.mem with migs := s.mem.migs.filter fun x => !(x.id == m.id) })

/-- Writes translated to a segment under migration abort it (R196). -/
def abortOnWrite (s : State) (p da n : Nat) : State :=
  (pagesOf da n).foldl (fun s page =>
    match s.mem.migs.find? (fun m => m.seg == segKey p page) with
    | some m => if isLocal (l3e s p page) then bump (abortMig s m) Reg.XLT_MIG_ABORT_WR 0 1 else s
    | none => s) s

/-- A write a porter or engine makes: migrations it meets abort, heat rises, the bytes are stored. -/
def accWrite (s : State) (p da n v : Nat) : State := memWrite (heatUp (abortOnWrite s p da n) p da n) p da n v

/-! ### Fault records (R200, R201) -/

/-- Outstanding records. -/
def outstanding (s : State) : List FaultRec := s.mem.faults.filter fun f => f.seq.isSome && !f.ended

/-- Tag of a command, 0 where it is not in flight. -/
def tagOf (s : State) (r i : Nat) : Nat := match getCmd s r i with | some c => c.fld 8 4 | none => 0

/-- Tag of a command whose record is to be written. -/
def recTag (s : State) (r i : Nat) : Nat :=
  match s.front.retired.find? (fun c => c.ring == r && c.idx == i) with
  | some c => c.fld 8 4
  | none => 0

/-- What a held request says of its command: tag and ring. -/
def heldTag (s : State) : HeldReq → Nat × Nat
  | .tile r i => (tagOf s r i, r)
  | .image r i => (tagOf s r i, r)
  | .service r i => (tagOf s r i, r)
  | .bushel b _ =>
    match invOf s (bindOf s (b / 32)) (isl s (b / 32)).newWeave with
    | some v => (tagOf s v.ring v.idx, v.ring)
    | none => (0, 0)
  | .descRead r => (0, r)
  | .yielded r i => (tagOf s r i, r)
  | .winWrite _ src r i => (if src = 6 then recTag s r i else tagOf s r i, r)
  | .host => (0, 0)
  | .repair _ _ => (0, 0)
  | .recWrite r i => (recTag s r i, r)

/-- SRC of a fault (R200). -/
def srcOf : HeldReq → Nat
  | .tile .. => 1
  | .bushel .. => 2
  | .yielded .. => 2
  | .image .. => 3
  | .service .. => 4
  | .descRead .. => 5
  | .recWrite .. => 6
  | .winWrite _ src _ _ => src
  | .host => 0
  | .repair _ _ => 0

/-- The unit a record names (R200): the bushel, or 0xFFFF, or the porter. Which porter makes a read for the weave engine,
the rim processors or a service engine is not said (assumption 1). -/
def unitOf (s : State) : HeldReq → Nat
  | .bushel b _ => b
  | .descRead _ => 0xFFFF
  | .recWrite .. => 0xFFFF
  | .winWrite _ src r i => if src = 6 then 0xFFFF else match getCmd s r i with
    | some c => if 1 ≤ c.engine ∧ c.engine ≤ 8 then c.engine - 1 else freeNat s % 8
    | none => freeNat s % 8
  | .tile r i => match getCmd s r i with
    | some c => if 1 ≤ c.engine ∧ c.engine ≤ 8 then c.engine - 1 else freeNat s % 8
    | none => freeNat s % 8
  | _ => freeNat s % 8

/-- The refused charges and the detection errors of these pages have been told to a request (R202, R209). -/
def told (s : State) (p : Nat) (l : List Nat) : State :=
  setMem s { s.mem with noFill := s.mem.noFill.filter fun x => !(x.1 == p && l.contains x.2.1)
                        found := s.mem.found.filter fun x => !(x.1 == p && l.contains x.2.1) }

/-- A request is held on a fault: it joins the record of its kind and page, takes a new one, or stands without one when
the table is full (R200). -/
def holdFault (s : State) (p page kind sub : Nat) (write : Bool) (h : HeldReq) : State :=
  let s := if kind = 4 ∨ kind = 5 then told s p [page] else s
  match (outstanding s).find? (fun f => f.part == p && f.page == page && f.kind == kind) with
  | some f =>
    let t := heldTag s h
    let u := unitOf s h
    let s := setMem s { s.mem with faults := s.mem.faults.map fun x =>
      if x.seq == f.seq && x.part == p then
        if x.held.isEmpty then { x with held := [h], tag := t.1, ring := t.2, unitNo := u } else { x with held := x.held ++ [h] }
      else x }
    if f.held.isEmpty then fresh s else bump (fresh s) Reg.XLT_FLT_MERGE 0 1
  | none =>
    let t := heldTag s h
    let full := decide ((outstanding s).length ≥ 4096)
    let seq := tget (fun _ => 0) s.mem.seqNext p
    let f : FaultRec := ⟨if full then none else some seq, p, page, kind, sub, if kind = 5 then 7 else srcOf h, write,
      false, false, false, t.1, t.2,
      unitOf s h, s.now % 2 ^ 32, [h]⟩
    let s := setMem s { s.mem with faults := s.mem.faults ++ [f],
                                   seqNext := if full then s.mem.seqNext
                                              else tset (fun _ => 0) s.mem.seqNext p ((seq + 1) % 2 ^ 32) }
    if full then bump (fresh s) Reg.XLT_FLT_TFULL 0 1 else fresh s

/-- Window writes that no command has claimed yet become those of a request (R329). -/
def claim (s : State) (h : HeldReq) : State :=
  { s with skl := { s.skl with
      reqs := s.skl.reqs.map fun q => if q.owner = none ∧ q.write then { q with owner := some h } else q } }

/-- Records outstanding that hold a request of a command (R204, R261). -/
def heldBy (h : HeldReq) (r i : Nat) : Bool := match h with
  | .tile a b => a == r && b == i
  | .image a b => a == r && b == i
  | .service a b => a == r && b == i
  | .yielded a b => a == r && b == i
  | .winWrite _ _ a b => a == r && b == i
  | _ => false

/-- Window writes of a command that its peers have not yet acknowledged (R329). -/
def writesOpen (s : State) (r i : Nat) : Bool :=
  s.skl.reqs.any fun q => q.write && (match q.owner with | some h => heldBy h r i | none => false)

/-- What reads through windows have brought a request is used up. -/
def dropRead (s : State) (h : HeldReq) : State :=
  { s with skl := { s.skl with reqs := s.skl.reqs.filter fun q => q.write || q.owner != some h } }

/-- How a read through peers' windows stands: its data are here, it waits for answers, or one answer is a fault. -/
inductive WinRes where
  | ready | wait (s : State) | flt (s : State) (page kind sub : Nat)
  deriving Repr

/-- Granules of peers' windows that ranges read: page of the range, device, page there, granule. -/
def winParts (s : State) (p : Nat) (l : List (Nat × Nat)) : List (Nat × Nat × Nat × Nat) :=
  l.flatMap fun e => (pagesOf e.1 e.2).flatMap fun g =>
    match translate s p (g * 65536) false with
    | .win w wp _ =>
      if w = 0x40 then []
      else
        let lo := max e.1 (g * 65536) - g * 65536
        let hi := min (e.1 + e.2) ((g + 1) * 65536) - g * 65536
        (List.range (cdiv hi 256 - lo / 256)).map fun k => (g, w, wp, lo / 256 + k)
    | _ => []

/-- A request reads granules of peers' windows (R330, R331): what has not been asked for is asked for. -/
def winAsk (s : State) (p : Nat) (h : HeldReq) (ps : List (Nat × Nat × Nat × Nat)) : WinRes :=
  let find (x : Nat × Nat × Nat × Nat) : Option WReq := s.skl.reqs.find? fun q =>
    !q.write && q.owner == some h && q.dev == x.2.1 && q.wpage == x.2.2.1 && q.gran == x.2.2.2
  let bad := ps.findSome? fun x => match find x with
    | some q => (match q.st with | .failed k sub => some (q, k, sub) | _ => none)
    | none => none
  match bad with
  | some (q, k, sub) =>
    .flt { s with skl := { s.skl with reqs := s.skl.reqs.filter fun z => z.id != q.id } } q.page k sub
  | none =>
    if ps.all fun x => match find x with | some q => q.st == .here | none => false then .ready
    else
      let new := ps.filter fun x => (find x).isNone
      .wait (new.zipIdx.foldl (fun s x =>
        newWin s ⟨0, x.1.2.1, p, x.1.1, x.1.2.2.1, x.1.2.2.2, some h, false, 0, [], .asked⟩ (x.2 + 1 == new.length)) s)

/-- A request reads ranges through peers' windows. -/
def winRead (s : State) (p : Nat) (h : HeldReq) (l : List (Nat × Nat)) : WinRes := winAsk s p h (winParts s p l)

/-- A command's state becomes held (R203). -/
def markHeld (s : State) (r i : Nat) : State := modCmd s r i fun c => { c with st := .held }

/-- The log base of a partition is one R201 allows: 8 KiB of LOCAL T2 pages with PIN and WR, or host window pages. -/
def logBase (s : State) (p : Nat) : Nat :=
  rd s Reg.XLT_FLOG_BASE_LO_ADDR p * 8192 + 2 ^ 32 * rd s Reg.XLT_FLOG_BASE_HI_ADDR p

def logOk (s : State) (p : Nat) : Bool :=
  (pagesOf (logBase s p) 8192).all fun g =>
    let e := l3e s p g
    rd s Reg.XLT_ROOT_VALID p == 1 &&
    ((isLocal e && eTier e == 0 && ePin e && eWr e) || (eKind e == 3 && eWin e == 0x40))

/-- Page is locked by a service command (R205). -/
def pageLocked (s : State) (p page : Nat) : Bool := s.mem.locks.any fun l => l.part == p && l.page == page

/-! ### Regulators (R256) -/

/-- Regulator of partition `p`: 0 T2, 1 T3, 2 Skein. -/
def regWord (k : Nat) : Fld := if k = 0 then { Reg.CMD_PART_REG_T2_RATE with w := 32 } else if k = 1 then Reg.CMD_PART_REG_T3
  else Reg.CMD_PART_REG_SKL
def regRate (s : State) (p k : Nat) : Nat := bits (rd s (regWord k) p) 0 16
def regBurst (s : State) (p k : Nat) : Nat := bits (rd s (regWord k) p) 16 16
def bucket (s : State) (p k : Nat) : Int := tget (fun _ => 1048576) s.front.bucket (3 * p + k)
def setBucket (s : State) (p k : Nat) (v : Int) : State :=
  { s with front := { s.front with bucket := tset (fun _ => 1048576) s.front.bucket (3 * p + k) v } }

/-- The bucket grants now: it holds more than zero, or there is no limit. -/
def granted (s : State) (p k : Nat) : Bool := regRate s p k == 0 || decide (bucket s p k > 0)

/-- A granted request of `n` bytes draws on the bucket. -/
def draw (s : State) (p k n : Nat) : State := if regRate s p k = 0 then s else setBucket s p k (bucket s p k - n)

/-- The regulator an access falls under. -/
def regOf (s : State) (p da : Nat) : Option Nat :=
  let e := l3e s p (pageOf da)
  if isLocal e then some (eTier e) else if eKind e = 3 ∧ eWin e ≠ 0x40 then some 2 else none

/-- Porter bytes charged to a partition, and its porter standing (R254, R255). -/
def chargePb (s : State) (p n : Nat) : State :=
  let s := bump2 s Reg.CMD_PART_LED_PB_LO Reg.CMD_PART_LED_PB_HI p n
  let w := max 1 (rd s Reg.CMD_PART_SHARE_W p)
  { s with front := { s.front with vp := tset (fun _ => 0) s.front.vp p (tget (fun _ => 0) s.front.vp p + n * 256 / w) } }

/-- Porter `q` has carried one tile of `n` bytes (R444). -/
def porterTile (s : State) (q n : Nat) : State := bump (bump s Reg.PRT_TILES q 1) Reg.PRT_KIB q (cdiv n 1024)

/-- A porter has moved a transfer of a partition; the walks it took count too (R256, R444). -/
def porterMoved (s : State) (p q n : Nat) : State :=
  let w := Config.walks s.fv
  fresh (chargePb (bump (porterTile s q n) Reg.PRT_XLT_MISS q w.1) p w.2)

end Sys2Proof.Machine
end

