-- ==== Sys2Proof/Machine/Access.lean ====
section
/-! DEFINITION. Accesses to the register window: modes, locks, seals, access codes, shadows, latches (R6 to R8, R395,
R427 to R437); accesses to the range, judged and regulated (R199, R200, R203, R256). -/

namespace Sys2Proof.Machine

/-- An index of R427 that holds a page. -/
def pageExists (pg : Nat) : Bool := decide (pg < 0x4A) || (decide (0x50 ≤ pg) && decide (pg ≤ 0x6F))

/-- Fields of a page beyond its header. -/
def blockFields (pg : Nat) : List Fld :=
  match Reg.blocks.find? (fun b => decide (b.base ≤ pg * 0x1000) && decide (pg * 0x1000 < b.base + b.inst * 0x1000)) with
  | some b => b.fields
  | none => []

/-- Fields in the register at window address `a` (header fields included). -/
def fieldsAt (a : Nat) : List Fld :=
  let pg := a / 0x1000
  let l := if a % 0x1000 < 0x100 then Reg.allHDR else blockFields pg
  l.filter fun f => f.hits a && !(decide (f = Reg.HDR_ERR_SUM_MB_OVR) && decide (pg ≠ 0x0F)) &&
    !(decide (f = Reg.HDR_CAPS_GRADE) && decide (pg ≠ 0x0A))

/-- Bits of a register that some field defines; of `INT_STAT` the PWR page reserves the upper ones (R389). -/
def definedMask (a : Nat) : Nat :=
  if a = 0x8020 then 0x7F else (fieldsAt a).foldl (fun m f => m ||| f.mask) 0

/-- WO bits of a register. -/
def woMask (a : Nat) : Nat := ((fieldsAt a).filter fun f => f.acc == .wo).foldl (fun m f => m ||| f.mask) 0

/-- WO registers of a page below offset `off`: offsets of the block's WO fields, and `LOCK` (R432). -/
def woBelow (pg off : Nat) : Nat :=
  let offs := 0x38 :: ((blockFields pg).filter (fun f => f.acc == .wo)).flatMap fun f =>
    (List.range f.cnt).filterMap fun k => if f.addr k / 0x1000 = pg then some (f.addr k % 0x1000) else none
  (offs.eraseDups.filter (· < off)).length

/-- Where the last value written to the WO bits of a register is kept: the page's shadow, the doorbells on `CMD`, and
beyond the window what census object CMD_WO reads (R265, R432, R439). -/
def shadowAddr (a : Nat) : Nat :=
  let pg := a / 0x1000
  let off := a % 0x1000
  if pg = 1 then
    if 0x100 ≤ off ∧ off < 0x900 ∧ off % 0x20 = 0x0C then 0x1F00 + 4 * ((off - 0x100) / 0x20)
    else if 0x100 ≤ off ∧ off < 0x900 then 0x4000000 + 4 * ((off - 0x100) / 0x20)
    else if off = 0xA20 then 0x4000100 else 0x4000104
  else pg * 0x1000 + 0xF00 + 4 * woBelow pg off

/-- Sealed fields of a page (R436). -/
def sealedFields (pg : Nat) : List Fld :=
  if pg = 0x08 then [Reg.PWR_CAP_CTRL_LIMIT, Reg.PWR_RAMP_BUDGET, Reg.PWR_PART_FMAX, Reg.PWR_THERM_WARN,
    Reg.PWR_THERM_THROT, Reg.PWR_HB_CTRL_EN, Reg.PWR_HB_CTRL_TIMEOUT, Reg.PWR_HB_CTRL_HOLD, Reg.PWR_SAFE_PCT,
    Reg.PWR_PFAIL_CTRL_GRACE, Reg.PWR_PFAIL_CTRL_BRK, Reg.PWR_CREC_PORT, Reg.PWR_CREC_SEG]
  else if pg = 0x0A then [Reg.CLK_DROOP_THR_MV]
  else if pg = 0x03 then [Reg.XLT_MIG_CTRL_EN, Reg.XLT_MIG_CTRL_PROM_EN, Reg.XLT_MIG_CTRL_DEM_EN, Reg.XLT_MIG_CTRL_MAX,
    Reg.XLT_HEAT_PERIOD, Reg.XLT_HEAT_CFG_SHIFT, Reg.XLT_HEAT_CFG_PROM_THR, Reg.XLT_T2_LOW, Reg.XLT_T2_HIGH,
    Reg.XLT_YIELD_WAIT, Reg.XLT_PRIV_PA, Reg.XLT_PRIV_PA_V, Reg.XLT_PRIV_PB, Reg.XLT_PRIV_PB_V, Reg.XLT_POOL_T2,
    Reg.XLT_POOL_T3, Reg.XLT_Q_T1, Reg.XLT_Q_T2, Reg.XLT_Q_T3]
  else if 0x50 ≤ pg then [Reg.SKL_LINK_CTRL_EN, Reg.SKL_LINK_CTRL_MAXRATE, Reg.SKL_LINK_CTRL_ALLOW_X4,
    Reg.SKL_LINK_CTRL_OPEN] ++ (if pg = 0x50 then [Reg.SKL0_DOM_CTRL_EN, Reg.SKL0_DOM_CTRL_LEAD, Reg.SKL0_DOM_CTRL_IFWD,
    Reg.SKL0_DOM_ID, Reg.SKL0_DEV_DEVNUM, Reg.SKL0_DEV_SLICE, Reg.SKL0_DOM_LEAD_DEV, Reg.SKL0_DOM_LEAD_VALID,
    Reg.SKL0_ROSTER_SLICE, Reg.SKL0_ROSTER_PRESENT, Reg.SKL0_EXP_PART, Reg.SKL0_EXP_RD, Reg.SKL0_EXP_WR,
    Reg.SKL0_EXP_VALID, Reg.SKL0_EXP_NPAGES, Reg.SKL0_EXP_WBASE_LO, Reg.SKL0_EXP_WBASE_HI, Reg.SKL0_EXP_DBASE_LO,
    Reg.SKL0_EXP_DBASE_HI, Reg.SKL0_EXP_IMASK_LO, Reg.SKL0_EXP_IMASK_HI] else [])
  else []

/-- A page a SEAL is accepted on (R436). -/
def sealable (pg : Nat) : Bool := pg == 0x08 || pg == 0x0A || pg == 0x03 || decide (0x50 ≤ pg)

/-- How a page answers an agent now. -/
inductive Reach where
  /-- served -/
  | open_
  /-- reads as it stands, writes ignored -/
  | frozen
  /-- reads all ones, writes ignored -/
  | dead
  deriving DecidableEq, Repr

/-- What an agent meets at a page: no power (R455), the power-fail halt (R385), RECOVERY (R395), a host link that is down
(R357). -/
def reach (s : State) (ag : Agent) (pg : Nat) : Reach :=
  if s.pow.off then .dead
  else if rd s Reg.PWR_STAT_PFHALT 0 = 1 then
    if ag ≠ .board then .dead else if pg = 0x0B then .open_ else if pg = 0x08 then .frozen else .dead
  else if ag = .host ∧ rd s Reg.FUS_LINK_STAT_UP 0 = 0 then .dead
  else if rd s Reg.RST_MODE 0 = 3 ∧ pageExists pg ∧ ¬(pg = 0x0A ∨ pg = 0x0B ∨ pg = 0x0C ∨ pg = 0x0F) then .dead
  else .open_

/-- `STATUS.ERROR` follows `ERR_SUM` (R433). -/
def noteErr (s : State) (pg : Nat) : State :=
  wr s Reg.HDR_STATUS_ERROR pg (if rw s (pg * 0x1000 + 0x18) = 0 then 0 else 1)

/-- A write refused by a lock or a seal: flagged and counted (R435, R436). -/
def refused (s : State) (pg : Nat) : State :=
  bump (pageErr s Reg.HDR_ERR_SUM_LOCK_WR pg) Reg.HDR_LOCK_REFUSED pg 1

/-- ACQ (R435). -/
def lockAcq (s : State) (ag : Agent) (pg : Nat) : State :=
  if rd s Reg.HDR_LOCK_HELD pg = 0 then
    wr (wr (wr s Reg.HDR_LOCK_HOLDER pg ag.code) Reg.HDR_LOCK_HELD pg 1) Reg.HDR_STATUS_LOCKED pg 1
  else if rd s Reg.HDR_LOCK_HOLDER pg = ag.code then s else refused s pg

/-- REL (R435). -/
def lockRel (s : State) (ag : Agent) (pg : Nat) : State :=
  if rd s Reg.HDR_LOCK_HELD pg = 0 then s
  else if rd s Reg.HDR_LOCK_HOLDER pg = ag.code then
    wr (wr (wr s Reg.HDR_LOCK_HELD pg 0) Reg.HDR_LOCK_HOLDER pg 0) Reg.HDR_STATUS_LOCKED pg 0
  else refused s pg

/-- SEAL (R436). -/
def lockSeal (s : State) (pg : Nat) : State :=
  if sealable pg then wr (wr s Reg.HDR_LOCK_SEALED pg 1) Reg.HDR_STATUS_SEALED pg 1 else s

/-- A 1 written to bits of `INT_SET` raises them as hardware would (R433). -/
def intSetBits (s : State) (pg v : Nat) : State := eachOf (setBits v (intBits pg)) s fun s k => raiseInt s pg k

/-- One field takes a write (R6). -/
def writeField (a v : Nat) (s : State) (f : Fld) : State :=
  let x := bits v f.lo f.w
  match f.acc with
  | .rw => ww s a (setF f.lo f.w x (rw s a))
  | .w1c => let c := getF f.lo f.w (rw s a)
            ww s a (setF f.lo f.w (c - (c &&& x)) (rw s a))
  | _ => s

/-- The agent is shut out of a register by the page's lock (R435). -/
def lockedOut (s : State) (ag : Agent) (a : Nat) : Bool :=
  let pg := a / 0x1000
  let o := a % 0x1000
  rd s Reg.HDR_LOCK_HELD pg == 1 && !(rd s Reg.HDR_LOCK_HOLDER pg == ag.code) && !(o == 0x38 || o == 0x3C || o == 0x20)

/-- Sealed fields at a register keep their values: the word as it may be written, and whether a field was refused. -/
def sealWord (s : State) (a v : Nat) : Nat × Bool :=
  if rd s Reg.HDR_LOCK_SEALED (a / 0x1000) = 0 then (v, false)
  else ((sealedFields (a / 0x1000)).filter fun f => f.hits a).foldl (fun p f =>
    let c := getF f.lo f.w (rw s a)
    if bits v f.lo f.w = c then p else (putBits p.1 f.lo f.w c, true)) (v, false)

/-- What a write to a register does beyond its plain fields. -/
abbrev WriteFx := State → Nat → Nat → State → State

/-- One word of an access that locks let through: fields by their access codes, the shadow of its WO bits, a reserved
bit written as 1 (R7), the header's own actions, then the register's action `fx old a v`. -/
def writeWord (ag : Agent) (fx : WriteFx) (s : State) (a v : Nat) : State :=
  let pg := a / 0x1000
  let o := a % 0x1000
  if o ≥ 0xF00 then s
  else
    let old := s
    let s := (fieldsAt a).foldl (writeField a v) s
    let m := woMask a
    let s := if m = 0 then s else ww s (shadowAddr a) (BitVec.ofNat 32 (v &&& m))
    let s := if o = 0x18 then noteErr s pg else s
    let s := if v &&& definedMask a = v then s else pageErr s Reg.HDR_ERR_SUM_RSVD_WR pg
    let s := if o = 0x28 then intSetBits s pg v else s
    let s := if o = 0x38 then
        let s := if bit v 8 then lockAcq s ag pg else s
        let s := if bit v 9 then lockRel s ag pg else s
        if bit v 10 then lockSeal s pg else s
      else s
    fx old a v s

/-- The action a write without one has. -/
def noFx : WriteFx := fun _ _ _ s => s

/-- A write of `size` bytes at `a` (R428, R429, R435, R436). A refused write of LIMIT is no write of LIMIT (R383). -/
def regWrite (ag : Agent) (a size v : Nat) (fx : WriteFx) (s : State) : State :=
  let pg := a / 0x1000
  match reach s ag pg with
  | .dead => s
  | .frozen => s
  | .open_ =>
    if !pageExists pg then bump s Reg.CEN_UNMAPPED 0 1
    else if !((size == 4 && a % 4 == 0) || (size == 8 && a % 8 == 0 && !(ag == .board))) then
      if a % 0x1000 ≥ 0xF00 then s else pageErr s Reg.HDR_ERR_SUM_SIZE_WR pg
    else
      let ws := if size = 8 then [(a, v % 2 ^ 32), (a + 4, v / 2 ^ 32 % 2 ^ 32)] else [(a, v % 2 ^ 32)]
      let shut := ws.filter fun w => lockedOut s ag w.1 && decide (w.1 % 0x1000 < 0xF00)
      let ok := (ws.filter fun w => !(shut.contains w)).map fun w => (w.1, sealWord s w.1 w.2)
      let no := !shut.isEmpty || ok.any fun w => w.2.2
      let s := ok.foldl (fun s w => writeWord ag (if w.2.2 && w.1 == 0x8100 then noFx else fx) s w.1 w.2.1) s
      if no then refused s pg else s

/-- A write of one field's register by an agent, with the register's action. -/
def agentWrite (ag : Agent) (f : Fld) (i v : Nat) (fx : State → State → State) (s : State) : State :=
  regWrite ag (f.addr i) 4 v (fun old _ _ s => fx old s) s

/-! ### Reads -/

/-- Key of a semaphore: 256·partition + index. -/
def semKey (p i : Nat) : Nat := 256 * p + i
def semVal (s : State) (p i : Nat) : Nat := (tget (fun _ => 0) s.front.semVal (semKey p i)).toNat
def semErr (s : State) (p i : Nat) : Bool := tget (fun _ => false) s.front.semErr (semKey p i)
def setSem (s : State) (p i v : Nat) : State :=
  { s with front := { s.front with semVal := tset (fun _ => 0) s.front.semVal (semKey p i) (BitVec.ofNat 32 v) } }
def setSemErr (s : State) (p i : Nat) (b : Bool) : State :=
  { s with front := { s.front with semErr := tset (fun _ => false) s.front.semErr (semKey p i) b } }

/-- Collector entries reserved (R250): every command from dispatch to the writing of its record. -/
def colUse (s : State) : Nat := s.front.inflight.length + s.front.retired.length

/-- Tiles a porter command still has to move. -/
def Cmd.tilesLeft (c : Cmd) : Nat := c.total - c.progress

/-- Undispatched tiles of porter `q` (R242, R444): those of the commands dispatched to it. -/
def porterQueue (s : State) (q : Nat) : Nat :=
  sumNat ((s.front.inflight.filter fun c => c.engine == q + 1 && !c.finished).map Cmd.tilesLeft)

/-- Tiles of porter `q` held on fault records (R444). -/
def porterHeld (s : State) (q : Nat) : Nat :=
  sumNat (s.mem.faults.map fun f => if f.ended then 0 else
    (f.held.filter fun h => match h with
      | .tile r i => (match getCmd s r i with | some c => c.engine == q + 1 | none => false)
      | _ => false).length)

/-- The command a porter has in progress (R444). -/
def porterCur (s : State) (q : Nat) : Option Cmd :=
  s.front.inflight.find? fun c => c.engine == q + 1 && c.taken && !c.finished

/-- Port or link down, or the island SUSPECT (R433). -/
def pageOffline (s : State) (pg : Nat) : Bool :=
  if 0x10 ≤ pg ∧ pg < 0x30 then rd s Reg.ISL_STK_HEALTH_SUSPECT (pg - 0x10) == 1
  else if 0x40 ≤ pg ∧ pg < 0x48 then rd s Reg.CAP_STAT_UP (pg - 0x40) == 0
  else if pg = 0x48 ∨ pg = 0x49 then rd s Reg.ETH_LINK_STAT_UP (pg - 0x48) == 0
  else if 0x50 ≤ pg ∧ pg < 0x70 then !(rd s Reg.SKL_LINK_STAT_STATE (pg - 0x50) == 2)
  else if pg = 0x0F then rd s Reg.FUS_LINK_STAT_UP 0 == 0 else false

/-- The block has work in progress (R433); what counts as its work is the model's reading (assumption 33). -/
def pageActive (s : State) (pg : Nat) : Bool :=
  let eng (e : Nat) : Bool := s.front.inflight.any fun c => c.engine == e && c.taken && !c.finished
  if 0x10 ≤ pg ∧ pg < 0x30 then rd s Reg.ISL_WV_STAT_RUN (pg - 0x10) == 1
  else if 0x30 ≤ pg ∧ pg < 0x38 then (porterCur s (pg - 0x30)).isSome || s.mem.migs.any (fun m => m.porter == pg - 0x30)
  else if pg = 0 then rd s Reg.CEN_COPY_STAT_BUSY 0 == 1
  else if pg = 1 then !s.front.fetched.isEmpty || !s.front.inflight.isEmpty || !s.front.retired.isEmpty
  else if pg = 2 then eng 0
  else if pg = 3 then !s.mem.migs.isEmpty
  else if pg = 4 then eng 9
  else if pg = 5 then eng 10
  else if pg = 6 then eng 11
  else if pg = 7 then eng 12
  else if pg = 0x0B then rd s Reg.RST_ISL_TEST_STAT_BUSY 0 == 1
  else if pg = 0x0D then rd s Reg.FWU_STAT_BUSY 0 == 1
  else if pg = 0x0F then !s.hst.recalls.isEmpty
  else if pg = 0x48 ∨ pg = 0x49 then s.hst.qps.any (fun e => e.1 / 512 == pg - 0x48 && !(e.2.head == e.2.tail))
  else if 0x50 ≤ pg ∧ pg < 0x70 then !(port s (pg - 0x50)).replay.isEmpty
  else false

/-- The state byte of a page index (R437). -/
def pstate (s : State) (pg : Nat) : Nat :=
  if !pageExists pg then 0
  else if pageOffline s pg = true then 1
  else if rd s Reg.HDR_STATUS_HELD pg = 1 then 2
  else if rd s Reg.HDR_STATUS_ERROR pg = 1 ∨
      (0x10 ≤ pg ∧ pg < 0x30 ∧ (rd s Reg.ISL_STK_FAULT_VALID (pg - 0x10) = 1 ∨ rd s Reg.ISL_BSH_FAULT_VALID (pg - 0x10) = 1 ∨
        rd s Reg.ISL_FAB_FAULT_VALID (pg - 0x10) = 1)) ∨
      (pg = 2 ∧ (rd s Reg.WVE_LOAD_FAULT_VALID 0 = 1 ∨ rd s Reg.WVE_RUN_FAULT_VALID 0 = 1)) ∨
      (pg = 0x0F ∧ rd s Reg.FUS_HERR_VALID 0 = 1) then 3
  else if pageActive s pg = true then 4 else 5

/-- A register as it reads: most from the register file, some from the state they show (R251, R265, R433, R437, R444). -/
def regView (s : State) (a : Nat) : Word :=
  if a % 0x1000 = 0x10 ∧ pageExists (a / 0x1000) then
    let w := setF Reg.HDR_STATUS_ACTIVE.lo 1 (oneIf (pageActive s (a / 0x1000))) (rw s a)
    setF Reg.HDR_STATUS_OFFLINE.lo 1 (oneIf (pageOffline s (a / 0x1000))) w
  else if 0x200 ≤ a ∧ a < 0x270 then
    let k := 4 * ((a - 0x200) / 4)
    BitVec.ofNat 32 (pstate s k + 2 ^ 8 * pstate s (k + 1) + 2 ^ 16 * pstate s (k + 2) + 2 ^ 24 * pstate s (k + 3))
  else if Reg.CMD_RING_COAL_CNT.hits a ∧ getF Reg.CMD_RING_COAL_CNT.lo Reg.CMD_RING_COAL_CNT.w (rw s a) = 0 then
    setF Reg.CMD_RING_COAL_CNT.lo Reg.CMD_RING_COAL_CNT.w 1 (rw s a)
  else if a = 0x1A00 then BitVec.ofNat 32 (colUse s)
  else if Reg.SMP_STAT_BUSY.hits a then setF Reg.SMP_STAT_BUSY.lo 1 (oneIf (pageActive s 4)) (rw s a)
  else if Reg.GRP_STAT_BUSY.hits a then setF Reg.GRP_STAT_BUSY.lo 1 (oneIf (pageActive s 6)) (rw s a)
  else if a = 0x1A18 then BitVec.ofNat 32 (semVal s (rd s Reg.CMD_SEM_SEL_PART 0) (rd s Reg.CMD_SEM_SEL_IDX 0))
  else if a = 0x1A1C then BitVec.ofNat 32 (oneIf (semErr s (rd s Reg.CMD_SEM_SEL_PART 0) (rd s Reg.CMD_SEM_SEL_IDX 0)))
  else if 0x30000 ≤ a ∧ a < 0x38000 then
    let q := a / 0x1000 - 0x30
    let o := a % 0x1000
    if o = 0x108 then BitVec.ofNat 32 (porterHeld s q)
    else if o = 0x110 then BitVec.ofNat 32 (min (porterQueue s q) 0xFFFFFF)
    else if o = 0x114 then (match porterCur s q with
      | some c => BitVec.ofNat 32 (c.ring + 64 * partOf c.ring + 512) | none => 0)
    else if o = 0x118 then (match porterCur s q with | some c => BitVec.ofNat 32 c.idx | none => 0)
    else rw s a
  else rw s a

/-- RC fields of a register clear after a read (R6). -/
def clearRc (s : State) (a : Nat) : State :=
  ((fieldsAt a).filter fun f => f.acc == .rc).foldl (fun s f => ww s a (setF f.lo f.w 0 (rw s a))) s

/-- The _LO registers of the pairs of R431; each _HI lies 4 bytes on. -/
def pairLo : List Fld :=
  [Reg.WVE_BIND_IMG_LO, Reg.XLT_FLOG_BASE_LO_ADDR, Reg.CMD_RING_BASE_LO_ADDR, Reg.CMD_PART_LED_ISL_LO,
   Reg.CMD_PART_LED_PB_LO, Reg.SKL0_RINT_LO, Reg.SKL0_EXP_WBASE_LO, Reg.SKL0_EXP_DBASE_LO, Reg.SKL0_EXP_IMASK_LO,
   Reg.PWR_ENERGY_LO, Reg.FWU_SRC_LO, Reg.RIM_FAULT_PC_LO, Reg.CEN_COPY_SEL_LO, Reg.CEN_COPY_DST_LO_ADDR]

/-- The latch of an agent on a page. -/
def latchKey (ag : Agent) (pg : Nat) : Nat := 128 * ag.code + pg
def setLatch (s : State) (ag : Agent) (pg : Nat) (x : Option (Nat × Nat)) : State :=
  { s with lat := tset (fun _ => none) s.lat (latchKey ag pg) x }

/-- A read of `size` bytes at `a`: the value and the state after it (R6, R428, R429, R431). -/
def regRead (s : State) (ag : Agent) (a size : Nat) : Nat × State :=
  let pg := a / 0x1000
  let ones := 2 ^ (8 * size) - 1
  match reach s ag pg with
  | .dead => (ones, s)
  | _ =>
    if !pageExists pg then (0, if rd s Reg.PWR_STAT_PFHALT 0 = 1 then s else bump s Reg.CEN_UNMAPPED 0 1)
    else if size = 8 ∧ a % 8 = 0 ∧ ag ≠ .board then
      ((regView s a).toNat + 2 ^ 32 * (regView s (a + 4)).toNat,
        setLatch (clearRc (clearRc s a) (a + 4)) ag pg none)
    else if size = 4 ∧ a % 4 = 0 then
      if pairLo.any (fun f => f.hits a) then
        ((regView s a).toNat, setLatch (clearRc s a) ag pg (some (a + 4, (regView s (a + 4)).toNat)))
      else match tget (fun _ => none) s.lat (latchKey ag pg) with
        | some (h, v) => if h = a then (v, setLatch (clearRc s a) ag pg none)
                         else ((regView s a).toNat, setLatch (clearRc s a) ag pg none)
        | none => ((regView s a).toNat, clearRc s a)
    else (0, setLatch s ag pg none)

/-- An access of the agent does not reach the device: what it reads is not the device's (R357, R385, R455). -/
def cutOff (s : State) (ag : Agent) : Bool :=
  s.pow.off || (ag == .host && (rd s Reg.FUS_LINK_STAT_UP 0 == 0 || rd s Reg.PWR_STAT_PFHALT 0 == 1))

/-- The answer to a read stands in `rdata`. -/
def readTo (s : State) (ag : Agent) (a size : Nat) : State :=
  if cutOff s ag then s
  else
    let r := regRead s ag a size
    { r.2 with rdata := r.1 }

/-! ### Accesses to the range -/

/-- What becomes of an access now: it goes, it waits (zero-fill, regulator, a peer's answer, a line the host holds), or it
is held on a fault. -/
inductive Gate where
  | go (s : State) | wait (s : State) | held (s : State)
  deriving Repr

/-- A line the host holds lies in a range: a device write to it waits for its recall (R353). -/
def hostHolds (s : State) (p da n : Nat) : Bool :=
  s.hst.dir.any fun e => e.1 == p && decide (e.2 * 128 < da + n) && decide (da < (e.2 + 1) * 128)

/-- The lines of a range are the device's again: a write that its own command both brings and ends asks for the recall of the
lines it meets and has it answered within that command (R353, DESIGN CHOICE, assumption 90). -/
def takeLines (s : State) (p da n : Nat) : State :=
  if !hostHolds s p da n then s
  else
    let keep (e : Nat × Nat) : Bool := !(e.1 == p && decide (e.2 * 128 < da + n) && decide (da < (e.2 + 1) * 128))
    { s with hst := { s.hst with dir := s.hst.dir.filter keep, recalls := s.hst.recalls.filter keep } }

/-- Parts of a range by page: address and bytes. -/
def pageParts (da n : Nat) : List (Nat × Nat) := (pagesOf da n).map fun g =>
  let lo := max da (g * 65536)
  (lo, min (da + n) ((g + 1) * 65536) - lo)

/-- The regulators grant a request over a range (R256). -/
def grantedRange (s : State) (p da n : Nat) : Bool :=
  (pagesOf da n).all fun g => match regOf s p (g * 65536) with
    | some k => granted s p k
    | none => true

/-- What the request draws on them. -/
def drawRange (s : State) (p da n : Nat) : State :=
  eachOf (pageParts da n) s fun s x => match regOf s p x.1 with
    | some k => draw s p k x.2
    | none => s

/-- An access to a range: faults first, then lines the host holds, then the regulators, as they stood in `j`, unless the
traffic is exempt. -/
def gate1 (j s : State) (p da n : Nat) (write reg : Bool) (h : HeldReq) : Gate :=
  match probe s p da n write with
  | .wait _ => .wait s
  | .flt page k sub => .held (holdFault s p page k sub write h)
  | .ok =>
    if write && hostHolds s p da n then .wait s
    else if !reg then .go s else if grantedRange j p da n then .go (drawRange s p da n) else .wait s

/-- Several ranges, in order. -/
def gateList (j s : State) (p : Nat) (write reg : Bool) (h : HeldReq) : List (Nat × Nat) → Gate
  | [] => .go s
  | (a, n) :: l => match gate1 j s p a n write reg h with
    | .go s => gateList j s p write reg h l
    | x => x

/-- An access to several ranges: none goes before all may. The regulators are judged as they stood in `j`, before the
request drew on them (R256). -/
def gates (j s : State) (p : Nat) (write reg : Bool) (h : HeldReq) (l : List (Nat × Nat)) : Gate :=
  match gateList j s p write false h l with
  | .held s => .held s
  | .wait _ => .wait s
  | .go _ =>
    match if write then WinRes.ready else winRead s p h l with
    | .wait s => .wait s
    | .flt s page k sub => .held (holdFault s p page k sub false h)
    | .ready => match gateList j s p write reg h l with
      | .go s => .go s
      | _ => .wait s

def gate (s : State) (p da n : Nat) (write reg : Bool) (h : HeldReq) : Gate :=
  gates s s p write reg h [(da, n)]
def gateAll (s : State) (p : Nat) (write : Bool) (h : HeldReq) (l : List (Nat × Nat)) : Gate :=
  gates s s p write true h l

end Sys2Proof.Machine
end

