-- ==== Sys2Proof/Machine/Malformed.lean ====
section
/-! DEFINITION. Descriptor bodies and what makes one malformed (R240, R244 to R248, R268, R275, R282, R297, R335,
R336). -/

namespace Sys2Proof.Machine

/-- Offsets of the nonzero bytes among `n` at `off` that must be zero. -/
def mustZero (c : Cmd) (off n : Nat) : List Nat := ((List.range n).map (off + ·)).filter fun o => decide (c.fld o 1 ≠ 0)

/-- Offset `off`, when the condition holds. -/
def badAt (off : Nat) (b : Bool) : List Nat := if b then [off] else []

/-- Opcode and flags of a command (R240). -/
def Cmd.op (c : Cmd) : Nat := c.fld 0 1
def Cmd.flag (c : Cmd) (k : Nat) : Bool := bit (c.fld 1 1) k
def Cmd.urgent (c : Cmd) : Bool := c.flag 3
def Cmd.tag (c : Cmd) : Nat := c.fld 8 4

/-- A byte with bits outside `mask`. -/
def badBits (c : Cmd) (off mask : Nat) : List Nat := badAt off (c.fld off 1 &&& mask != c.fld off 1)

/-- A misaligned address, or one beyond the 52-bit range. -/
def badAddr (c : Cmd) (off al : Nat) : List Nat := badAt off (c.fld off 8 % al != 0 || decide (c.fld off 8 ≥ 2 ^ 52))

/-- Weave engine bodies (R244 to R246). -/
def weaveBad (c : Cmd) (op : Nat) : List Nat :=
  let bindBad := badAt 0x18 (decide (c.fld 0x18 1 > 31))
  let placeV := bit (c.fld 0x19 1) 1
  let place := if placeV then badAt 0x1A (decide (c.fld 0x1A 1 > 31)) else mustZero c 0x1A 1
  let mode := c.fld 0x10 1
  let target (full : Bool) := badAt 0x1C (decide (c.fld 0x1C 2 > 63) && !(c.fld 0x1C 2 == 0xFFFF && !full)) ++
    (if full then [] else mustZero c 0x20 4) ++ mustZero c 0x1E 2 ++ mustZero c 0x24 28 ++ mustZero c 0x11 8 ++ mustZero c 0x1B 1
  match op with
  | 0x10 => badAddr c 0x10 64 ++ bindBad ++ badBits c 0x19 3 ++ place ++ mustZero c 0x1B 37
  | 0x11 =>
    let f := c.fld 0x11 1
    let mv := bit f 1
    badBits c 0x10 0x1F ++ badBits c 0x11 0xF7 ++ (if mv then [] else badBits c 0x11 0x0B ++ mustZero c 0x12 1) ++
    badAt 0x13 (decide (c.fld 0x13 1 > 16)) ++ (if bit f 0 then badAddr c 0x18 8 else mustZero c 0x1B 5) ++
    mustZero c 0x23 1 ++ (if c.fld 0x13 1 = 0 then mustZero c 0x28 8 else badAddr c 0x28 8) ++ badAddr c 0x30 65536
  | 0x12 => badAddr c 0x10 64 ++ bindBad ++ badBits c 0x19 6 ++ place ++ mustZero c 0x1B 37
  | 0x13 => mustZero c 0x10 8 ++ bindBad ++ mustZero c 0x19 39
  | 0x14 => mustZero c 0x10 8 ++ bindBad ++ mustZero c 0x19 39
  | 0x15 => badAt 0x10 (decide (mode > 1)) ++ mustZero c 0x19 2 ++ target (mode == 0)
  | 0x16 => badAt 0x10 (decide (mode > 1)) ++ badBits c 0x19 (if mode = 0 then 2 else 0) ++ place ++ target (mode == 0)
  | 0x17 => mustZero c 0x10 1 ++ mustZero c 0x19 2 ++ target true
  | 0x18 => badAt 0x11 (decide (c.fld 0x11 1 > 2)) ++ badAt 0x12 (decide (c.fld 0x12 2 > 255)) ++ badAddr c 0x18 65536 ++
    badAddr c 0x28 65536 ++
    badAt 0x38 (if c.fld 0x11 1 = 1 then decide (c.fld 0x38 1 > 31) else decide (c.fld 0x38 1 ≠ 0xFF)) ++
    badBits c 0x39 1 ++ mustZero c 0x3A 6
  | 0x19 => mustZero c 0x11 7 ++ badAddr c 0x18 65536 ++ mustZero c 0x28 24
  | _ => mustZero c 0x11 1 ++ badAt 0x12 (decide (c.fld 0x12 2 > 255)) ++ mustZero c 0x14 44

/-- Porter and rim bodies (R247). -/
def porterBad (c : Cmd) (op : Nat) : List Nat :=
  let a := c.fld 0x10 8
  let b := c.fld 0x18 8
  let n := c.fld 0x20 8
  let kind := bits (c.fld 0x31 1) 0 2
  let hint := bits (c.fld 0x31 1) 5 2
  let port := badBits c 0x30 0x0F ++ badAt 0x30 (bit (c.fld 0x30 1) 3 && decide (bits (c.fld 0x30 1) 0 3 ≠ 0)) ++
    mustZero c 0x34 12
  let range := badAt 0x10 (a % 65536 != 0) ++ badAt 0x20 (n == 0 || n % 65536 != 0 || decide (a + n > 2 ^ 52)) ++
    mustZero c 0x28 8 ++ mustZero c 0x33 1
  port ++
  match op with
  | 0x20 => badAt 0x10 (a % 4096 != 0) ++ badAt 0x18 (b % 4096 != 0) ++
    badAt 0x20 (n == 0 || n % 4096 != 0 || decide (max a b + n > 2 ^ 52)) ++
    badAddr c 0x28 64 ++ mustZero c 0x31 3
  | 0x21 => range ++ badAt 0x31 (kind == 0 || hint == 3 || (kind == 3 && bit (c.fld 0x31 1) 2)) ++ badBits c 0x31 0x7F ++
    (if kind = 3 then mustZero c 0x1D 3 ++ badAt 0x1C (decide (c.fld 0x1C 1 > 15)) ++ badAt 0x32 (decide (c.fld 0x32 1 > 0x40))
     else mustZero c 0x18 8 ++ mustZero c 0x32 1)
  | 0x23 => range ++ mustZero c 0x18 8 ++ badBits c 0x31 0x18 ++ mustZero c 0x32 1
  | 0x24 => range ++ mustZero c 0x18 8 ++ badBits c 0x31 4 ++ mustZero c 0x32 1
  | 0x26 => range ++ mustZero c 0x18 8 ++ badBits c 0x31 0x60 ++ badAt 0x31 (hint == 3) ++ mustZero c 0x32 1
  | 0x27 => range ++ mustZero c 0x18 8 ++ badBits c 0x31 4 ++ mustZero c 0x32 1
  | 0x28 => range ++ badAt 0x18 (b % 65536 != 0) ++ badAt 0x20 (decide (b + n > 2 ^ 52)) ++ badBits c 0x31 0x80 ++
    mustZero c 0x32 1
  | 0x2B => badAt 0x10 (decide (a ≥ 2 ^ 52)) ++ badAt 0x20 (n == 0) ++ mustZero c 0x28 8 ++ mustZero c 0x31 3
  | 0x2C => mustZero c 0x10 32 ++ mustZero c 0x31 2
  | _ => range ++ mustZero c 0x18 8 ++ mustZero c 0x31 2

/-- Sampler bodies (R268): reserved and unused bytes and alignment; values out of range give 0x72 instead. -/
def samplerBad (c : Cmd) (op : Nat) : List Nat :=
  match op with
  | 0x40 => badBits c 0x11 0x1F ++ badAddr c 0x38 65536
  | 0x41 => mustZero c 0x11 47
  | 0x42 => badAddr c 0x10 8 ++ mustZero c 0x1C 4 ++ badAddr c 0x20 64 ++ mustZero c 0x28 24
  | 0x43 => badAddr c 0x10 8 ++ mustZero c 0x1C 36
  | _ => mustZero c 0x11 7 ++ badAddr c 0x18 4 ++ mustZero c 0x24 28

/-- Index walker bodies (R282); values out of range give 0x7D instead. -/
def indexBad (c : Cmd) (op : Nat) : List Nat :=
  let list := mustZero c 0x1C 36
  match op with
  | 0x50 => badBits c 0x32 1 ++ mustZero c 0x33 13
  | 0x51 => badBits c 0x38 1 ++ mustZero c 0x39 7
  | 0x52 => mustZero c 0x38 8
  | 0x53 => list
  | 0x54 => badBits c 0x1C 1 ++ mustZero c 0x1D 35
  | 0x55 => mustZero c 0x18 40
  | 0x56 => badBits c 0x14 1 ++ mustZero c 0x15 3 ++ mustZero c 0x20 32
  | 0x57 => mustZero c 0x18 40
  | _ => list

/-- BUILD's body (R297). -/
def buildBad (c : Cmd) : List Nat :=
  let e := c.fld 0x2C 2
  let k := c.fld 0x2E 1
  let pol := c.fld 0x2F 1
  let p := bits pol 0 2
  badAddr c 0x10 64 ++ badAddr c 0x18 64 ++ badAddr c 0x20 64 ++
  badAt 0x28 (c.fld 0x28 4 == 0 || decide (c.fld 0x28 4 > 65536)) ++ badAt 0x2C (e == 0 || decide (e > 256)) ++
  badAt 0x2E (k == 0 || decide (k > 8) || decide (k > e)) ++ badAt 0x2F (p == 3 || bit pol 7) ++
  badAt 0x30 (c.fld 0x30 4 == 0 || decide (c.fld 0x30 4 > 65536)) ++ mustZero c 0x37 1 ++
  badAt 0x38 (c.fld 0x38 2 == 0 || decide (c.fld 0x38 2 > 4096)) ++
  badAt 0x3A (if p = 1 then c.fld 0x3A 1 == 0 || decide (c.fld 0x3A 1 > 8) else c.fld 0x3A 1 != 0) ++ mustZero c 0x3B 5

/-- Collective bodies (R335, R336). -/
def collBad (c : Cmd) (op : Nat) : List Nat :=
  let dt := bit (c.fld 0x11 1) 2
  let esz := if dt then 2 else 4
  let cnt := c.fld 0x28 4
  let grp := badBits c 0x10 0x0F
  let base := grp ++ mustZero c 0x12 2
  let count := badAt 0x28 (cnt == 0 || decide (cnt > 16777215) || cnt * esz % 256 != 0)
  let io := badAddr c 0x18 256 ++ badAddr c 0x20 256
  match op with
  | 0x70 => base ++ badBits c 0x11 7 ++ badAt 0x11 (bits (c.fld 0x11 1) 0 2 == 3) ++ io ++ count ++ mustZero c 0x2C 20
  | 0x71 => base ++ badBits c 0x11 4 ++ io ++ count ++ mustZero c 0x2C 20
  | 0x72 => base ++ badBits c 0x11 7 ++ badAt 0x11 (bits (c.fld 0x11 1) 0 2 == 3) ++ io ++ count ++ mustZero c 0x2C 20
  | 0x73 => base ++ badBits c 0x11 0 ++ io ++ mustZero c 0x28 8 ++ badAddr c 0x30 256 ++ mustZero c 0x38 8
  | 0x74 => base ++ badBits c 0x11 0 ++ mustZero c 0x18 40
  | 0x75 => base ++ badBits c 0x11 0x0C ++ io ++
    badAt 0x28 (if bit (c.fld 0x11 1) 3 then cnt != 0 else cnt == 0 || decide (cnt > 16777215)) ++
    badAt 0x2C (c.fld 0x2C 4 == 0 || decide (c.fld 0x2C 4 > 65536)) ++ badAt 0x30 (c.fld 0x30 8 % 256 != 0)
  | 0x76 => grp ++ badAt 0x11 (decide (c.fld 0x11 1 < 2) || decide (c.fld 0x11 1 > 64)) ++
    badAt 0x12 (decide (c.fld 0x12 1 ≥ c.fld 0x11 1)) ++ mustZero c 0x13 1 ++ badAt 0x18 (decide (c.fld 0x18 8 ≥ 2 ^ 52)) ++
    mustZero c 0x20 32
  | _ => grp ++ mustZero c 0x11 47

/-- An opcode of R241 and the engines' chapters. -/
def knownOp (op : Nat) : Bool :=
  decide (op ≤ 1) || (decide (0x10 ≤ op) && decide (op ≤ 0x1A)) || (decide (0x20 ≤ op) && decide (op ≤ 0x2C)) ||
  (decide (0x40 ≤ op) && decide (op ≤ 0x44)) || (decide (0x50 ≤ op) && decide (op ≤ 0x58)) || op == 0x60 ||
  (decide (0x70 ≤ op) && decide (op ≤ 0x77))

/-- Offset of the first offending byte of a malformed descriptor (R248). -/
def malformed (c : Cmd) : Option Nat :=
  let op := c.op
  if !knownOp op then some 0
  else
    let l := badBits c 0x01 0x3F ++ mustZero c 0x0C 4 ++
      (if op = 0 then mustZero c 0x10 48 else if op = 1 then mustZero c 0x14 44
       else if op < 0x20 then weaveBad c op else if op < 0x30 then porterBad c op
       else if op < 0x50 then samplerBad c op else if op < 0x60 then indexBad c op
       else if op < 0x70 then buildBad c else collBad c op)
    l.foldl (fun a o => match a with | none => some o | some x => some (min x o)) none

end Sys2Proof.Machine
end

