-- ==== Sys2Proof/Machine/FrontEnd.lean ====
section
/-! DEFINITION. The command front end (R238 to R257, R264, R265): rings, doorbells, fetch, dispatch, retirement,
completion records, semaphores, shares. -/

namespace Sys2Proof.Machine

/-! ### Rings -/

/-- (a − b) mod 2^32 (R238). -/
def sub32 (a b : Nat) : Nat := (a + (2 ^ 32 - b % 2 ^ 32)) % 2 ^ 32

/-- SIZE of a ring in effect. -/
def ringSize (s : State) (r : Nat) : Nat := 2 ^ tget (fun _ => 6) s.front.log2 r
def ringBase (s : State) (r : Nat) : Nat :=
  rd s Reg.CMD_RING_BASE_LO_ADDR r * 4096 + 2 ^ 32 * rd s Reg.CMD_RING_BASE_HI_ADDR r
/-- The tail: the doorbell's shadow (R239, R265). -/
def ringTail (s : State) (r : Nat) : Nat := (rw s (0x1F00 + 4 * r)).toNat
def fetchedOf (s : State) (r : Nat) : List Cmd := s.front.fetched.filter fun c => c.ring == r
def inflightOf (s : State) (r : Nat) : List Cmd := s.front.inflight.filter fun c => c.ring == r

/-! ### Work and standing (R243, R255) -/

/-- Engine of an opcode (R241, R440); a porter command's porter is chosen at dispatch. -/
def engineOf (op : Nat) : Nat :=
  if op ≤ 1 then 14 else if op ≤ 0x1A then 0 else if op ≤ 0x2A then 1 else if op ≤ 0x2C then 13
  else if op < 0x50 then 9 else if op < 0x60 then 10 else if op < 0x70 then 11 else 12

/-- The wait of a command passes (R243). -/
def waitPasses (s : State) (c : Cmd) : Bool :=
  !c.flag 1 || decide (sub32 (semVal s (partOf c.ring) (c.fld 2 1)) (c.fld 4 4) < 2 ^ 31)

/-- The ring's oldest undispatched command, its fence and wait passed (R243). -/
def readyCmd (s : State) (r : Nat) : Option Cmd :=
  match fetchedOf s r with
  | [] => none
  | c :: _ => if (!c.flag 0 || (inflightOf s r).isEmpty) && waitPasses s c then some c else none

/-- Class of an engine for R255: 0 weave engine, 1 porters. -/
def classOf (e : Nat) : Option Nat := if e = 0 then some 0 else if 1 ≤ e ∧ e ≤ 8 then some 1 else none
def standing (s : State) (cls p : Nat) : Nat := tget (fun _ => 0) (if cls = 0 then s.front.vf else s.front.vp) p
def setStanding (s : State) (cls p v : Nat) : State :=
  if cls = 0 then { s with front := { s.front with vf := tset (fun _ => 0) s.front.vf p v } }
  else { s with front := { s.front with vp := tset (fun _ => 0) s.front.vp p v } }

/-- Partitions whose bushel requests or migrations stand queued at porter `q` (R255). -/
def porterTiles (s : State) (q : Nat) : List Nat :=
  (s.fab.bsh.filter fun e => e.2.reqs.any fun x => x.st == .issued && x.porter == q).map (fun e => partOfIsl s (e.1 / 32)) ++
  (s.mem.migs.filter fun m => m.porter == q &&
    decide (m.copied < ((localPages s m.seg).filter fun g => !ePsn (l3e s m.part g)).length)).map Migr.part

/-- Partition `p` has work of a class (R255): a command of it dispatched or dispatchable, a tile queued at a porter. -/
def hasWork (s : State) (cls p : Nat) : Bool :=
  s.front.inflight.any (fun c => partOf c.ring == p && classOf c.engine == some cls) ||
  ((List.range 8).any fun k => match readyCmd s (8 * p + k) with
    | some c => c.ready && classOf (engineOf c.op) == some cls
    | none => false) ||
  (cls == 1 && (List.range 8).any fun q => (porterTiles s q).contains p)

/-- A partition that gains work of a class after having none is raised to the lowest standing among those active
(R255). -/
def raiseStanding (s : State) (c : Cmd) : State :=
  match classOf (engineOf c.op) with
  | none => s
  | some cls =>
    let p := partOf c.ring
    if hasWork s cls p then s
    else
      let l := ((List.range 8).filter fun q => decide (q ≠ p) && hasWork s cls q).map (standing s cls)
      match l with
      | [] => s
      | x :: t => setStanding s cls p (max (standing s cls p) (t.foldl min x))

/-- Commands that have become dispatchable, having passed their fence and wait, are work of their partitions from now on
(R255). -/
def noteReady (s : State) : State :=
  eachOf (List.range 64) s fun s r => match readyCmd s r with
    | some c =>
      if c.ready then s
      else
        let s := raiseStanding s c
        { s with front := { s.front with
            fetched := s.front.fetched.map fun x => if x.ring = r ∧ x.idx = c.idx then { x with ready := true } else x } }
    | none => s

/-! ### Model latches (R234) -/

def model (s : State) (p m : Nat) : Model := tget (fun _ => Model.idle) s.wve.models (256 * p + m)
def setModel (s : State) (p m : Nat) (x : Model) : State :=
  { s with wve := { s.wve with models := tset (fun _ => Model.idle) s.wve.models (256 * p + m) x } }

/-- The release signal of R234: the swap ends when the inactive set has no reference. -/
def swapCheck (s : State) (p m : Nat) : State :=
  let x := model s p m
  if x.swapPend && x.refs.getD (1 - x.active) 0 == 0 then
    let s := setModel s p m { x with swapPend := false }
    noteReady (setSem s p x.relSem ((semVal s p x.relSem + 1) % 2 ^ 32))
  else s

/-- A set's reference count changes (R234). -/
def refAdd (s : State) (p m set : Nat) (d : Int) : State :=
  let x := model s p m
  setModel s p m { x with refs := setAt x.refs set ((x.refs.getD set 0 + d).toNat) }

/-- Latch of a ring (R234). -/
def latch (s : State) (r : Nat) : Option (Nat × Nat) := tget (fun _ => none) s.front.latch r
def setLatchM (s : State) (r : Nat) (x : Option (Nat × Nat)) : State :=
  { s with front := { s.front with latch := tset (fun _ => none) s.front.latch r x } }

/-- A command names model `m` (R234, R245). -/
def namesModel (c : Cmd) (m : Nat) : Bool := c.op == 0x11 && bit (c.fld 0x11 1) 1 && c.fld 0x12 1 == m

/-- A latch on an inactive set drops once its ring has no unretired command naming the model (R234). -/
def latchDrop (s : State) (r : Nat) : State :=
  match latch s r with
  | none => s
  | some (m, set) =>
    let p := partOf r
    if (model s p m).active ≠ set ∧ !((inflightOf s r ++ fetchedOf s r).any fun c => namesModel c m) then
      swapCheck (refAdd (setLatchM s r none) p m set (-1)) p m
    else s

/-! ### Rings stopped and reset -/

/-- Fetched commands that have not been dispatched are dropped, and HEAD moves back to the lowest (R252, R257). -/
def dropFetched (s : State) (r : Nat) : State :=
  match fetchedOf s r with
  | [] => s
  | c :: _ =>
    let s := wr s Reg.CMD_RING_HEAD r c.idx
    { s with front := { s.front with fetched := s.front.fetched.filter fun c => !(c.ring == r) } }

/-- The ring stops fetching: what it has fetched is dropped, and with it what the latch rested on (R234, R252). -/
def stopFetch (s : State) (r : Nat) : State := latchDrop (dropFetched s r) r

/-- A ring stops in error (R252). -/
def ringError (s : State) (r code : Nat) : State :=
  let s := stopFetch (wr (wr s Reg.CMD_RING_CFG_STATE r 3) Reg.CMD_RING_CFG_ERR r code) r
  raiseInt s 1 (8 + partOf r)

/-- A ring interrupts (R251). -/
def ringIrq (s : State) (r : Nat) : State :=
  let s := wr s Reg.CMD_RING_CFG_IRQ r 1
  let s := { s with front := { s.front with pend := tset (fun _ => 0) s.front.pend r 0 } }
  raiseInt s 1 (partOf r)

/-- Index `i` of ring `r` has started (R257). -/
def noteStarted (s : State) (r i : Nat) : State :=
  match tget (fun _ => none) s.front.started r with
  | some j => if sub32 (i + 1) j < 2 ^ 31 then
      { s with front := { s.front with started := tset (fun _ => none) s.front.started r (some ((i + 1) % 2 ^ 32)) } } else s
  | none => { s with front := { s.front with started := tset (fun _ => none) s.front.started r (some ((i + 1) % 2 ^ 32)) } }

/-- A dispatched command nothing of its ring has overtaken: not started, and none above it has (R257). -/
def withdrawable (s : State) (c : Cmd) : Bool :=
  c.st == .dispatched && !c.taken && !c.finished &&
  (match tget (fun _ => none) s.front.started c.ring with
   | some j => decide (sub32 c.idx j < 2 ^ 31)
   | none => true)

/-- Rings a boundary YIELD or RESUME names (R257). -/
def boundRings (c : Cmd) : List Nat :=
  if c.fld 0x1C 2 = 0xFFFF then (List.range 8).map (8 * partOf c.ring + ·) else [c.fld 0x1C 2]

/-- A boundary YIELD that has succeeded stops its own ring as soon as it has retired; nothing of the ring starts before
(R257). -/
def stopsSelf (c : Cmd) : Bool :=
  c.op == 0x15 && c.finished && c.status == 0 && c.fld 0x10 1 == 1 && (boundRings c).contains c.ring

/-- A ring waits for such a YIELD to retire. -/
def stopping (s : State) (r : Nat) : Bool := (inflightOf s r).any stopsSelf

/-- The boundary yield of a ring (R257); a ring that is not running is left alone (assumption 11). -/
def boundaryYield (s : State) (r : Nat) : State :=
  if rd s Reg.CMD_RING_CFG_STATE r ≠ 1 then s
  else
    let s := dropFetched s r
    let wd := (inflightOf s r).filter (withdrawable s)
    let s := match wd with
      | c :: _ => wr s Reg.CMD_RING_HEAD r c.idx
      | [] => s
    let s := { s with front := { s.front with inflight := s.front.inflight.filter fun c => !(wd.contains c) } }
    bump (wr s Reg.CMD_RING_CFG_STATE r 2) Reg.CMD_YLD_BOUND 0 1

/-- The ring runs again from HEAD (R257). -/
def boundaryResume (s : State) (r : Nat) : State :=
  if rd s Reg.CMD_RING_CFG_STATE r = 2 then wr s Reg.CMD_RING_CFG_STATE r 1 else s

/-- RESET of a ring (R252). A ring whose EN is set and that was in error runs again (assumption 11). Records not yet
written are still written (R250). -/
def ringReset (s : State) (r : Nat) : State :=
  if !(inflightOf s r).isEmpty then s
  else
    let s := stopFetch s r
    let s := wr (wr (wr s Reg.CMD_RING_HEAD r 0) Reg.CMD_RING_LOW r 0) Reg.CMD_RING_CQ_HEAD r 0
    let s := wr (ww s (0x1F00 + 4 * r) 0) Reg.CMD_RING_CFG_ERR r 0
    let s := if rd s Reg.CMD_RING_CFG_STATE r = 3 then
        wr s Reg.CMD_RING_CFG_STATE r (rd s Reg.CMD_RING_CFG_EN r) else s
    { s with front := { s.front with
        recStop := tset (fun _ => false) s.front.recStop r false
        started := tset (fun _ => none) s.front.started r none
        topRet := tset (fun _ => none) s.front.topRet r none } }

/-- What a write to `RING_r.CFG` does beyond its fields (R252, R257, R265). -/
def fxRingCfg (r : Nat) (v : Nat) (old s : State) : State :=
  let s := wr s Reg.CMD_RING_CFG_LOG2SIZE r (min 16 (max 6 (rd s Reg.CMD_RING_CFG_LOG2SIZE r)))
  let was := rd old Reg.CMD_RING_CFG_EN r
  let now := rd s Reg.CMD_RING_CFG_EN r
  let s := if was = 0 ∧ now = 1 then
      let s := { s with front := { s.front with
        log2 := tset (fun _ => 6) s.front.log2 r (rd s Reg.CMD_RING_CFG_LOG2SIZE r) } }
      if rd s Reg.CMD_RING_CFG_STATE r = 0 then wr s Reg.CMD_RING_CFG_STATE r 1 else s
    else if was = 1 ∧ now = 0 then wr (stopFetch s r) Reg.CMD_RING_CFG_STATE r 0 else s
  let s := if bit v 10 then ringReset s r else s
  let s := if bit v 8 then boundaryYield s r else s
  if bit v 9 then boundaryResume s r else s

/-- What a doorbell does (R239, R252). -/
def fxDoorbell (r v : Nat) (s : State) : State :=
  if rd s Reg.CMD_RING_CFG_STATE r ≠ 3 ∧ sub32 v (rd s Reg.CMD_RING_CQ_HEAD r) > ringSize s r then ringError s r 3 else s

/-- The ring index is one the device has. -/
def ringOk (r : Nat) : Bool := decide (r < 64)

/-- DOORBELL (R239). -/
def execDoorbell (ag : Agent) (r v : Nat) (s : State) : Out :=
  onUnit (ringOk r) (.next (agentWrite ag Reg.CMD_RING_DB r (v % 2 ^ 32) (fun _ s => fxDoorbell r (v % 2 ^ 32) s) s))

/-- The plain fields of a ring's CFG as they stand, for a write that leaves them alone. -/
def cfgKeep (s : State) (r : Nat) : Nat :=
  rd s Reg.CMD_RING_CFG_LOG2SIZE r + 2 ^ 5 * rd s Reg.CMD_RING_CFG_EN r

/-- A write to a ring's CFG by an agent. -/
def cfgWrite (ag : Agent) (r v : Nat) (s : State) : Out :=
  onUnit (ringOk r) (.next (agentWrite ag Reg.CMD_RING_CFG_EN r v (fun old s => fxRingCfg r v old s) s))

/-- RING_EN_WRITE (R252, R265): `v` is the word written to CFG. -/
def execRingEnWrite (ag : Agent) (r v : Nat) (s : State) : Out := cfgWrite ag r (v % 2 ^ 32) s
/-- RING_BYLD (R257). -/
def execRingByld (ag : Agent) (r : Nat) (s : State) : Out := cfgWrite ag r (cfgKeep s r + 2 ^ 8) s
/-- RING_BRES (R257). -/
def execRingBres (ag : Agent) (r : Nat) (s : State) : Out := cfgWrite ag r (cfgKeep s r + 2 ^ 9) s
/-- RING_RESET (R252). -/
def execRingReset (ag : Agent) (r : Nat) (s : State) : Out := cfgWrite ag r (cfgKeep s r + 2 ^ 10) s

/-- SEM_VAL_WRITE (R264, R265). -/
def fxSemVal (v : Nat) (s : State) : State :=
  noteReady (setSem s (rd s Reg.CMD_SEM_SEL_PART 0) (rd s Reg.CMD_SEM_SEL_IDX 0) v)
def execSemValWrite (ag : Agent) (v : Nat) (s : State) : Out :=
  .next (agentWrite ag Reg.CMD_SEM_VAL 0 (v % 2 ^ 32) (fun _ s => fxSemVal (v % 2 ^ 32) s) s)

/-- `SEM_ERR.ERR` of the selected semaphore (R265). -/
def fxSemErr (v : Nat) (s : State) : State :=
  if bit v 0 then setSemErr s (rd s Reg.CMD_SEM_SEL_PART 0) (rd s Reg.CMD_SEM_SEL_IDX 0) false else s

/-- LED_CLR (R254). -/
def fxLedClr (v : Nat) (s : State) : State :=
  eachOf (setBits v 8) s fun s p =>
    wr2 (wr2 s Reg.CMD_PART_LED_ISL_LO Reg.CMD_PART_LED_ISL_HI p 0) Reg.CMD_PART_LED_PB_LO Reg.CMD_PART_LED_PB_HI p 0
def execLedClr (ag : Agent) (v : Nat) (s : State) : Out :=
  .next (agentWrite ag Reg.CMD_LED_CLR 0 (v % 2 ^ 32) (fun _ s => fxLedClr v s) s)

/-- A regulator takes its word: BURST clamped, the bucket filled to it (R256, R264). -/
def fxRegulator (p k : Nat) (s : State) : State :=
  let w := rd s (regWord k) p
  let b := max 64 (bits w 16 16)
  setBucket (wr s (regWord k) p (bits w 0 16 + 2 ^ 16 * b)) p k (b * 1024 : Nat)
/-- REGULATOR_WRITE (R256): regulator `k` of partition `p`, 0 T2, 1 T3, 2 Skein. -/
def execRegulatorWrite (ag : Agent) (p k v : Nat) (s : State) : Out :=
  onUnit (decide (p < 8) && decide (k < 3))
    (.next (agentWrite ag (regWord k) p (v % 2 ^ 32) (fun _ s => fxRegulator p k s) s))

/-! ### Fetch (R239) -/

def newCmd (r i : Nat) (d : Nat) : Cmd :=
  { ring := r, idx := i, desc := BitVec.ofNat 512 d, engine := 14, st := .fetched, taken := false, finished := false,
    status := 0, sub := 0, progress := 0, result := 0, cost := 0, total := 0, yOnce := false, yReason := 0, semErr := false,
    time := 0, bind := none, mref := none, colWait := false, arv := 0, landed := [], fails := [], begun := [], oldSlot := none, ready := false }

/-- Intake stands still in the power-fail sequence and after it (R385), and outside SERVICE and TEST (R395). -/
def intakeStopped (s : State) : Bool :=
  s.pow.pfail || s.pow.off || rd s Reg.PWR_STAT_PFHALT 0 == 1 || !(rd s Reg.RST_MODE 0 == 0 || rd s Reg.RST_MODE 0 == 2)

/-- The front end may fetch the ring's command at HEAD (R239). -/
def mayFetch (s : State) (r : Nat) : Bool :=
  let i := rd s Reg.CMD_RING_HEAD r
  let d := sub32 (ringTail s r) i
  !intakeStopped s && decide (rd s Reg.CMD_RING_CFG_STATE r = 1) && decide (0 < d) && decide (d < 2 ^ 31) &&
  decide (sub32 i (rd s Reg.CMD_RING_CQ_HEAD r) < ringSize s r) && decide ((fetchedOf s r).length ≤ 7) &&
  !(tget (fun _ => false) s.front.fetchHeld r)

/-- COMMAND_FETCH (R239, R203, R256). -/
def execCommandFetch (r : Nat) (s : State) : Out :=
  onUnit (ringOk r) (live s (
    if !mayFetch s r then s
    else
      let i := rd s Reg.CMD_RING_HEAD r
      let a := ringBase s r + 64 * (i % ringSize s r)
      match gate s (partOf r) a 64 false true (.descRead r) with
      | .wait s => s
      | .held s => { s with front := { s.front with fetchHeld := tset (fun _ => false) s.front.fetchHeld r true } }
      | .go s =>
        let d := memRead s (partOf r) a 64
        let s := fresh (wr (dropRead s (.descRead r)) Reg.CMD_RING_HEAD r (i + 1))
        noteReady { s with front := { s.front with fetched := s.front.fetched ++ [newCmd r i d] } }))

/-! ### Dispatch (R242, R243, R248, R250) -/

/-- The first of the numbers `< n` with the least `f`. -/
def argMin (f : Nat → Nat) (n : Nat) : Nat := (List.range n).foldl (fun b k => if f k < f b then k else b) 0

/-- Tiles a move is split into: the largest size-aligned tiles of at most 64 KiB at the destination (R184). -/
def tileAt (fuel : Nat) (dst n : Nat) : List (Nat × Nat) :=
  match fuel with
  | 0 => []
  | f + 1 =>
    if n < 4096 then [] else
    let z := match [65536, 32768, 16384, 8192].find? (fun z => dst % z == 0 && decide (z ≤ n)) with
      | some z => z | none => 4096
    (dst, z) :: tileAt f (dst + z) (n - z)

/-- Number of those tiles, without listing them. -/
def tileCount (dst n : Nat) : Nat :=
  let h := min n ((65536 - dst % 65536) % 65536)
  let m := (n - h) / 65536
  (tileAt 16 dst h).length + m + (tileAt 16 0 (n - h - 65536 * m)).length

/-- Tiles or pages a porter command has. -/
def cmdTotal (c : Cmd) : Nat := if c.op = 0x20 then tileCount (c.fld 0x18 8) (c.fld 0x20 8) else c.fld 0x20 8 / 65536

/-- Porter that ANY picks now (R242): fewest undispatched tiles, ties to the lowest number. -/
def anyPorter (s : State) : Nat := argMin (porterQueue s) 8

/-- Rings whose oldest undispatched command waits for a collector entry, in the order they get one (R250). -/
def entryOrder (s : State) : List Nat :=
  let rs := ((List.range 64).map fun k => (s.front.lastColl + 1 + k) % 64).filter fun r => (readyCmd s r).isSome
  let urg (r : Nat) := match readyCmd s r with | some c => c.urgent | none => false
  rs.filter urg ++ rs.filter fun r => !urg r

/-- The command leaves the front end for its engine, or ends there (R243, R248). -/
def dispatch (s : State) (c : Cmd) : State :=
  let s := { s with front := { s.front with fetched := s.front.fetched.filter fun x => !(x.ring == c.ring && x.idx == c.idx),
                                            lastColl := c.ring } }
  let add (s : State) (c : Cmd) : State := { s with front := { s.front with inflight := s.front.inflight ++ [c] } }
  let c := { c with st := .dispatched }
  match malformed c with
  | some o => noteStarted (add s { c with finished := true, status := 0x60, sub := o }) c.ring c.idx
  | none =>
    if c.flag 1 && c.flag 4 && semErr s (partOf c.ring) (c.fld 2 1) then
      noteStarted (add s { c with finished := true, status := 0x61 }) c.ring c.idx
    else
      let e := engineOf c.op
      let e := if e = 1 then 1 + (if bit (c.fld 0x30 1) 3 then anyPorter s else bits (c.fld 0x30 1) 0 3) else e
      add s { c with engine := e, total := if 1 ≤ e ∧ e ≤ 8 then cmdTotal c else 0 }

/-- COMMAND_DISPATCH (R242, R243, R250, R442). While fewer entries are free than commands wait for one, they go in
order, one by one. -/
def execCommandDispatch (r : Nat) (s : State) : Out :=
  onUnit (ringOk r) (live s (
    if intakeStopped s || bit (rd s Reg.CEN_HOLD 0) 5 || stopping s r then s
    else match readyCmd s r with
      | none => s
      | some c =>
        let free := 4096 - colUse s
        let l := entryOrder s
        if l.length ≤ free ∨ (0 < free ∧ l.head? = some r) then noteReady (dispatch s c)
        else if l.idxOf r < free ∨ c.colWait then s
        else bump { s with front := { s.front with
            fetched := s.front.fetched.map fun x => if x.ring = r ∧ x.idx = c.idx then { x with colWait := true } else x } }
          Reg.CMD_COL_WAIT 0 1))

/-! ### Order at an engine (R242, R255) -/

/-- Binding a weave command names (R244, R245). -/
def Cmd.bd (c : Cmd) : Nat := if c.op = 0x11 then bits (c.fld 0x10 1) 0 5 else c.fld 0x18 1

/-- Commands dispatched before `c`. -/
def earlier (s : State) (c : Cmd) : List Cmd :=
  s.front.inflight.takeWhile fun d => !(d.ring == c.ring && d.idx == c.idx)

/-- Command `c` was dispatched before command (r, i). -/
def before (s : State) (c : Cmd) (r i : Nat) : Bool :=
  !((earlier s c).any fun d => d.ring == r && d.idx == i)

/-- What the weave engine makes of an invocation now: it starts, on the resident or the incoming weave, it waits, or it
fails (R161, R170 to R175, R244). -/
inductive Verdict where
  | start (nw : Bool) | wait | fail (code : Nat)
  deriving DecidableEq, Repr

def invokeVerdict (s : State) (c : Cmd) : Verdict :=
  let bd := c.bd
  let e := c.fld 0x14 4
  let g := rd s Reg.WVE_BIND_GEN bd
  let old := (g + (2 ^ 32 - 1)) % 2 ^ 32
  let st := rd s Reg.WVE_BIND_STATE bd
  let b := bind s bd
  let queued := (earlier s c).any fun d => !d.finished && d.op == 0x11 && d.bd == bd && d.fld 0x14 4 == e
  let go (nw : Bool) : Verdict := if (invOf s bd nw).isSome || queued then .wait else .start nw
  let control := s.front.inflight.any fun d => d.op == 0x12 && d.taken && !d.finished && d.bd == bd
  if st ≠ 0 ∧ rd s Reg.WVE_BIND_PART bd ≠ partOf c.ring then .fail 0x36
  else if st = 0 ∨ st = 6 then .fail 0x23
  else if st = 1 then (if e = 1 then .wait else .fail 0x22)
  else match b.op with
  | none => if e = g then go false else if e = (g + 1) % 2 ^ 32 && control then .wait else .fail 0x22
  | some (.drain, r, i) =>
    if e = g then .wait else if e = old && before s c r i then go false else .fail 0x22
  | some (.carry, r, i) =>
    if e = g then (if b.loading.isSome then .wait else go true)
    else if e = old && before s c r i then go false else .fail 0x22
  | some (_, r, i) => if e ≠ g then .fail 0x22 else if before s c r i then go false else .wait

/-- A REPLACE, RELOCATE or UNLOAD waits for the load or control in progress on its binding (R175). -/
def controlWaits (s : State) (c : Cmd) : Bool :=
  let bd := c.bd
  let st := rd s Reg.WVE_BIND_STATE bd
  decide (st ≠ 0) && rd s Reg.WVE_BIND_PART bd == partOf c.ring &&
  (st == 1 || (bind s bd).op.isSome ||
   s.front.inflight.any fun d => decide (0x12 ≤ d.op) && decide (d.op ≤ 0x14) && d.taken && !d.finished && d.bd == bd &&
     !(d.ring == c.ring && d.idx == c.idx))

/-- A command that would only wait at the weave engine is not started there. -/
def mayStart (s : State) (c : Cmd) : Bool :=
  if c.engine ≠ 0 then true
  else if c.op = 0x11 then decide (invokeVerdict s c ≠ .wait)
  else if 0x12 ≤ c.op ∧ c.op ≤ 0x14 then !controlWaits s c
  else true

/-- Commands an engine could take next: of each ring, its lowest that has not started there, when it may start. An
invocation waiting in the weave engine for its binding has started there (R170 to R173; assumption 45). -/
def candidates (s : State) (e : Nat) : List Cmd :=
  let l := s.front.inflight.filter fun c => c.engine == e && !c.taken && !c.finished && !stopping s c.ring && (c.op != 0x11 || mayStart s c)
  l.filter fun c => !(l.any fun d => d.ring == c.ring && decide (d.idx ≠ c.idx) && decide (sub32 c.idx d.idx < 2 ^ 31)) && mayStart s c

/-- The first command in rotating order of rings after the last served. -/
def rotate (last : Nat) (l : List Cmd) : Option Cmd :=
  (List.range 64).findSome? fun k => l.find? fun c => c.ring == (last + 1 + k) % 64

/-- Partition `p`'s next: URGENT first, then rings in rotation (R242, R147). -/
def nextIn (s : State) (e p : Nat) (l : List Cmd) : Option Cmd :=
  let l := l.filter fun c => partOf c.ring == p
  let u := l.filter Cmd.urgent
  rotate (tget (fun _ => 63) s.front.lastRing (8 * e + p)) (if u.isEmpty then l else u)

/-- The partition an engine of a class serves next: lowest standing; those of weight 0 only while no other has work of
the class (R255). -/
def sharePart (s : State) (cls : Nat) (ps : List Nat) : Option Nat :=
  let heavy (p : Nat) : Bool := decide (rd s Reg.CMD_PART_SHARE_W p ≠ 0)
  let l := if (List.range 8).any fun p => heavy p && hasWork s cls p then ps.filter heavy else ps
  l.foldl (fun b p => match b with
    | none => some p
    | some q => if standing s cls p < standing s cls q ∨ (standing s cls p = standing s cls q ∧ p < q) then some p else b) none

/-- The command engine `e` takes next. -/
def nextAt (s : State) (e : Nat) : Option Cmd :=
  let l := candidates s e
  let ps := (l.map fun c => partOf c.ring).eraseDups
  match classOf e with
  | some cls => match sharePart s cls ps with
    | some p => nextIn s e p l
    | none => none
  | none =>
    let u := l.filter Cmd.urgent
    let l := if u.isEmpty then l else u
    let last := tget (fun _ => 7) s.front.lastPart e
    match (List.range 8).find? (fun k => l.any fun c => partOf c.ring == (last + 1 + k) % 8) with
    | some k => nextIn s e ((last + 1 + k) % 8) l
    | none => none

/-- The engine takes no further command while it is held (R442). -/
def engineHeld (s : State) (e : Nat) : Bool := decide (9 ≤ e) && decide (e ≤ 12) && bit (rd s Reg.CEN_HOLD 0) (e - 9)

/-- Command (r, i) with opcode `op` may take its step now: it has been taken already and is not set aside, or it is the
one its engine takes next. -/
def turnOf (s : State) (r i op : Nat) : Option Cmd :=
  match getCmd s r i with
  | none => none
  | some c =>
    if c.op ≠ op ∨ c.finished ∨ c.engine = 14 ∧ c.op > 1 ∨ c.st = .held ∨ c.st = .yielded ∨ c.st = .yielding ∨ c.st = .restoring
    then none
    else if rd s Reg.PWR_STAT_PFHALT 0 = 1 then none
    else if c.taken then some c
    else if engineHeld s c.engine then none
    else match nextAt s c.engine with
      | some d => if d.ring = r ∧ d.idx = i then some c else none
      | none => none

/-- The engine takes the command (R242). -/
def takeCmd (s : State) (c : Cmd) : State :=
  if c.taken then s
  else
    let s := noteStarted (modCmd s c.ring c.idx fun c => { c with taken := true, st := .running }) c.ring c.idx
    { s with front := { s.front with
        lastRing := tset (fun _ => 63) s.front.lastRing (8 * c.engine + partOf c.ring) c.ring
        lastPart := tset (fun _ => 7) s.front.lastPart c.engine (partOf c.ring) } }

/-- An engine command: ring and index in range; nothing happens out of turn. -/
def onCmd (r i op : Nat) (s : State) (f : Cmd → State → State) : Out :=
  onUnit (ringOk r && decide (i < 2 ^ 32)) (live s (match turnOf s r i op with
    | some c => claim (f { c with taken := true, st := .running } (takeCmd s c)) (if c.engine ≤ 8 then .tile r i else .service r i)
    | none => s))

/-- NOP (R241). -/
def execNop (r i : Nat) (s : State) : Out := onCmd r i 0x00 s fun _ s => finish s r i 0 0
/-- SEM_SET (R241): its set applies at retirement. -/
def execSemSet (r i : Nat) (s : State) : Out := onCmd r i 0x01 s fun _ s => finish s r i 0 0

/-! ### Retirement and completion (R243, R249 to R253) -/

/-- What retirement does to semaphores (R241, R243). -/
def signal (s : State) (c : Cmd) : State :=
  let p := partOf c.ring
  let k := c.fld 3 1
  let s := if c.op = 1 ∧ c.status = 0 then setSemErr (setSem s p k (c.fld 0x10 4)) p k false else s
  if c.flag 2 then
    let s := setSem s p k ((semVal s p k + 1) % 2 ^ 32)
    if c.status ≠ 0 then setSemErr s p k true else s
  else s

/-- COMMAND_RETIRE (R243, R249, R252). -/
def execCommandRetire (r i : Nat) (s : State) : Out :=
  onUnit (ringOk r && decide (i < 2 ^ 32)) (live s (match getCmd s r i with
    | none => s
    | some c =>
      if !c.finished ∨ c.st = .held ∨ writesOpen s r i ∨ rd s Reg.PWR_STAT_PFHALT 0 = 1 then s
      else
        let s := signal s c
        let c := { c with time := s.now % 2 ^ 32, st := .retired, semErr := c.flag 2 && decide (c.status ≠ 0) }
        let s := { s with
          front := { s.front with
            inflight := s.front.inflight.filter fun x => !(x.ring == r && x.idx == i)
            retired := if tget (fun _ => false) s.front.recStop r then s.front.retired else s.front.retired ++ [c] }
          mem := { s.mem with locks := s.mem.locks.filter fun l => !(l.ring == r && l.idx == i) } }
        let s := match c.mref with
          | some (m, set) => swapCheck (refAdd s (partOf r) m set (-1)) (partOf r) m
          | none => s
        let s := if c.op = 0x60 then bump s Reg.GRP_BUILDS 0 1 else s
        let top := match tget (fun _ => none) s.front.topRet r with
          | some j => if sub32 i j < 2 ^ 31 then i else j
          | none => i
        let s := { s with front := { s.front with topRet := tset (fun _ => none) s.front.topRet r (some top) } }
        let s := { s with skl := { s.skl with reqs := s.skl.reqs.filter fun q =>
          !(match q.owner with | some h => heldBy h r i | none => false) } }
        let s := noteStarted s r i
        noteReady (latchDrop (if stopsSelf c then boundaryYield s r else s) r)))

/-- COST of a record (R249): island-µs for the weave engine, porter KiB for porter commands. -/
def Cmd.costField (c : Cmd) : Nat :=
  if c.engine = 0 then cdiv c.cost 1000 else if 1 ≤ c.engine ∧ c.engine ≤ 8 then cdiv c.cost 1024 else 0

/-- The 32 bytes of a completion record (R249). -/
def recordOf (s : State) (c : Cmd) : Nat :=
  let phase := if c.idx / ringSize s c.ring % 2 = 0 then 1 else 0
  leNum (leBytes 4 c.tag ++ leBytes 4 c.idx ++ [c.status, c.sub % 256,
      phase + 2 * oneIf c.yOnce + 4 * oneIf c.semErr, c.op] ++
    leBytes 4 c.progress ++ leBytes 8 c.result ++ leBytes 4 (min c.costField (2 ^ 32 - 1)) ++ leBytes 4 c.time)

/-- `LOW`: the lowest index of the ring not yet written (R250). -/
def lowOf (s : State) (r : Nat) : Nat :=
  let h := rd s Reg.CMD_RING_HEAD r
  let l := ((inflightOf s r ++ s.front.retired.filter (fun c => c.ring == r) ++ fetchedOf s r).map Cmd.idx)
  l.foldl (fun a i => if sub32 h i > sub32 h a then i else a) h

/-- A record has been written (R250, R251). -/
def recordDone (s : State) (c : Cmd) : State :=
  let r := c.ring
  let s := { s with front := { s.front with
    retired := s.front.retired.filter fun x => !(x.ring == r && x.idx == c.idx) } }
  let s := wr s Reg.CMD_RING_LOW r (lowOf s r)
  let n := tget (fun _ => 0) s.front.pend r + 1
  let s := { s with front := { s.front with
    pend := tset (fun _ => 0) s.front.pend r n } }
  if n ≥ max 1 (rd s Reg.CMD_RING_COAL_CNT r) ∨ c.status ≠ 0 ∨ c.flag 5 then ringIrq s r else s

/-- A record's write through a peer's window is not yet acknowledged (R203, R329). -/
def recordOpen (s : State) (r i : Nat) : Bool := s.skl.reqs.any fun q => q.write && q.owner == some (.recWrite r i)

/-- A peer has acknowledged a write of record `i` of ring `r`: with the last one it is written. -/
def recordAcked (s : State) (r i : Nat) : State :=
  if recordOpen s r i then s
  else
    let s := { s with front := { s.front with recHeld := tset (fun _ => false) s.front.recHeld r false } }
    match s.front.retired.find? fun c => c.ring == r && c.idx == i with
    | some c => recordDone s c
    | none => s

/-- COMPLETION_WRITE (R203, R250, R256): the collector writes the ring's oldest waiting record; one that goes through a
peer's window is written once the peer has acknowledged it. -/
def execCompletionWrite (r : Nat) (s : State) : Out :=
  onUnit (ringOk r) (live s (match s.front.retired.find? (fun c => c.ring == r) with
    | none => s
    | some c =>
      if tget (fun _ => false) s.front.recHeld r ∨ rd s Reg.PWR_STAT_PFHALT 0 = 1 then s
      else
        let p := partOf r
        let a := ringBase s r + 64 * ringSize s r + 32 * (c.idx % ringSize s r)
        let hold (s : State) : State := { s with front := { s.front with recHeld := tset (fun _ => false) s.front.recHeld r true } }
        match gate s p a 32 true true (.recWrite r c.idx) with
        | .wait s => s
        | .held s => hold s
        | .go s =>
          let s := claim (memWrite (abortOnWrite s p a 32) p a 32 (recordOf s c)) (.recWrite r c.idx)
          if recordOpen s r c.idx then hold s else recordDone s c))

/-- COAL_TIMEOUT (R251). -/
def execCoalTimeout (r : Nat) (s : State) : Out :=
  onUnit (ringOk r) (live s (
    if rd s Reg.CMD_RING_COAL_TIME r ≠ 0 ∧ tget (fun _ => 0) s.front.pend r ≠ 0 then ringIrq s r else s))

end Sys2Proof.Machine
end

