-- ==== Sys2Proof/Machine/PorterOps.lean ====
section
/-! DEFINITION. What porters do for every engine: evictions (R194), and pages brought to a tier and pinned there (R191,
R206, R230). -/

namespace Sys2Proof.Machine

/-! ### Order of tiles (R255) -/

/-- A weave's state is being saved or restored: that goes before every other tile at every porter (R255). -/
def savesFirst (s : State) : Bool := s.wve.yields.any (fun y => y.quiesced) || !s.wve.restores.isEmpty

/-- Porter `q` serves the tiles of partition `p` now (R255). -/
def porterTurn (s : State) (q p : Nat) : Bool :=
  let l := s.front.inflight.filter fun d => d.engine == q + 1 && d.taken && !d.finished && d.op == 0x20 && d.st == .running
  !savesFirst s && sharePart s 1 (p :: (l.map (fun d => partOf d.ring) ++ porterTiles s q)).eraseDups == some p

/-! ### Eviction by age (R194) -/

/-- The segment eviction takes: pool-charged in T2, of a privileged partition, greatest AGE, then lower HEAT, then lower
frame segment; not pinned, locked or migrating. -/
def evictVictim (s : State) : Option Nat :=
  let l := s.mem.fsegs.filterMap fun e => match e.2 with
    | some x =>
      let g := getSeg s x.seg
      if e.1 < 2 ^ 32 && x.pool && privileged s x.part && !segPinned s x.seg && !segLocked s x.seg &&
        (match g with | some g => g.mig.isNone && g.tier == 0 && g.frame == e.1 | none => false)
      then some (x, e.1) else none
    | none => none
  (l.foldl (fun b y => match b with
    | none => some y
    | some z => if z.1.age < y.1.age ∨ (z.1.age = y.1.age ∧ y.1.heat < z.1.heat) then some y else some z)
    (none : Option (FSeg × Nat))).map fun y => y.1.seg

/-- A privileged partition that cannot be charged for T2 waits for an eviction: one under way, or one started now; none
where there is no candidate. -/
def evictFor (s : State) (p t : Nat) : Option State :=
  if t ≠ 0 ∨ !privileged s p ∨ (chargeTo s p 0).isSome then none
  else if s.mem.migs.any fun m => m.cause == 6 then some s
  else match evictVictim s with
    | none => none
    | some k => match startMig s k 1 6 none false with
      | (s, none) => some (bump s Reg.XLT_EVICT 0 1)
      | (_, some _) => none

/-- Expert fetches that wait for an eviction try again (R194, R306). -/
def retryNeeds (s : State) : State :=
  eachOf s.srv.needs s fun s k =>
    let drop (s : State) : State := { s with srv := { s.srv with needs := s.srv.needs.erase k } }
    if segLocked s k then s
    else match startMig s k 0 4 none false with
    | (t, none) => drop t
    | (_, some _) => match evictFor s (k / 2 ^ 31) 0 with
      | some t => t
      | none => drop s

/-! ### Pins (R191, R230) -/

/-- One page asked to be pinned in tier `t`: pinned, not yet there, or its move cannot be charged. -/
inductive PinRes where
  | done (s : State) | wait (s : State) | quota (s : State) (sub : Nat)
  deriving Repr

/-- Tier a migration under way takes a segment to. -/
def migTo (s : State) (k : Nat) : Option Nat :=
  match getSeg s k with
  | some g => (match g.mig with
    | some id => (s.mem.migs.find? fun m => m.id == id).map Migr.dstTier
    | none => none)
  | none => none

/-- The segment of a page is brought to tier `t` unless it is there and stays there. A segment that is under migration, or
locked by a service command, is waited for (R191, R205). -/
def bringTo (s : State) (p page t cause : Nat) (own : Option (Nat × Nat)) : PinRes :=
  let e := l3e s p page
  let k := segKey p page
  if !isLocal e || (decide (eTier e = t) && (match migTo s k with | some d => d == t | none => true)) then .done s
  else match getSeg s k with
  | some g =>
    if g.mig.isSome || segLocked s k then .wait s
    else match startMig s k t cause own false with
      | (s', some sub) => (match evictFor s p t with
        | some s => .wait s
        | none => .quota s' sub)
      | (s', none) => .wait s'
  | none => .done s

/-- PIN of one page (R191). -/
def pinPage (s : State) (p page t : Nat) (own : Option (Nat × Nat)) : PinRes :=
  if eKind (l3e s p page) = 0 then .done s
  else match bringTo s p page t 2 own with
    | .done s => .done (setL3 s p page (putBits (l3e s p page) 6 1 1))
    | x => x

/-- PIN of a list of pages, in order. -/
def pinPages (s : State) (p t : Nat) (own : Option (Nat × Nat)) : List Nat → PinRes
  | [] => .done s
  | g :: l => match pinPage s p g t own with
    | .done s => pinPages s p t own l
    | x => x

/-- HINT of a list of pages (R191). -/
def hintPages (s : State) (p h : Nat) (l : List Nat) : State :=
  eachOf l s fun s g => if eKind (l3e s p g) = 0 then s else setL3 s p g (putBits (l3e s p g) 8 2 h)

end Sys2Proof.Machine
end

