-- ==== Sys2Proof/Machine/Arrival.lean ====
section
/-! DEFINITION. The arrival units (R213 to R229): descriptors, HASH, UNPACK, REQUANT, RELAYOUT, GATHER. -/

namespace Sys2Proof.Machine

/-- Field of an arrival descriptor (R217). -/
def aF (a off n : Nat) : Nat := byteField a off n

def aHash (a : Nat) : Bool := bit a 0
def aReq (a : Nat) : Bool := bit a 2
def aRel (a : Nat) : Bool := bit a 3
def aGather (a : Nat) : Bool := bit a 4
def aSrc (a : Nat) : Nat := bits (aF a 1 1) 0 4
def aDst (a : Nat) : Nat := if aReq a then bits (aF a 1 1) 4 4 else aSrc a
def aRows (a : Nat) : Nat := aF a 4 4
def aCols (a : Nat) : Nat := aF a 8 4

/-- Elements of a block of a format, 0 where it has none (R19, R21). -/
def blockLen (c : Nat) : Nat := if isMx c then 32 else if c = 11 then 16 else 0

/-! ### Decoding (R219) -/

/-- Canonical codes of a table of code lengths: (length, code, symbol), shortest first. -/
def codeBook (lens : List Nat) : List (Nat × Nat × Nat) :=
  let syms := (List.range 15).flatMap fun l => (lens.zipIdx.filter fun p => p.1 == l + 1).map fun p => (l + 1, p.2)
  (syms.foldl (fun st x =>
    match st.1 with
    | none => (some (x.1, 0), st.2 ++ [(x.1, 0, x.2)])
    | some (l, c) =>
      let n := (c + 1) * 2 ^ (x.1 - l)
      (some (x.1, n), st.2 ++ [(x.1, n, x.2)])) ((none : Option (Nat × Nat)), ([] : List (Nat × Nat × Nat)))).2

/-- Decodes symbols from stream bits, each code read from its most significant bit: the symbols and the bits left. -/
def decodeBits (book : List (Nat × Nat × Nat)) : Nat → Nat → Nat → Nat → List Bool → Option (List Nat × List Bool)
  | 0, _, _, _, _ => none
  | _ + 1, 0, 0, _, l => some ([], l)
  | _ + 1, _, _, _, [] => none
  | f + 1, need, len, code, b :: l =>
    let len := len + 1
    let code := 2 * code + (if b then 1 else 0)
    match book.find? fun e => e.1 == len && e.2.1 == code with
    | some e => (match decodeBits book f (need - 1) 0 0 l with
      | some r => some (e.2.2 :: r.1, r.2)
      | none => none)
    | none => if len ≥ 15 then none else decodeBits book f need len code l

/-- The bytes of a stored chunk as engine-ready bytes; none for a decode error. -/
def unpack (c : AChunk) (tables : List (List Nat)) (stored : List Nat) : Option (List Nat) :=
  if !c.coded then (if c.stored = c.outLen then some stored else none)
  else
    let bs := stored.flatMap fun x => (List.range 8).map fun k => x.testBit k
    match decodeBits (codeBook (tables.getD c.table [])) (bs.length + 1) c.outLen 0 0 bs with
    | some (out, rest) => if rest.length < 8 && rest.all (!·) then some out else none
    | none => none

/-- Leaf digest of chunk `i` (R226). -/
def leafDigest (i : Nat) (stored : List Nat) : Nat := Config.shake256 (0 :: leBytes 8 i ++ stored)

/-! ### Tiles of a move (R184, R219) -/

/-- Chunks of a move with UNPACK: from CHUNK0 until their OUT values reach LEN. -/
def takeChunks : Nat → List AChunk → List AChunk
  | _, [] => []
  | 0, _ => []
  | n, c :: l => if c.outLen = 0 then [] else c :: takeChunks (n - c.outLen) l

def moveChunks (sl : ASlot) (a len : Nat) : List AChunk :=
  if aF a 0x10 8 < sl.first then [] else takeChunks len (sl.chunks.drop (aF a 0x10 8 - sl.first))

/-- Destination offset and length of each tile. -/
def tilesFrom : Nat → List Nat → List (Nat × Nat)
  | _, [] => []
  | o, n :: l => (o, n) :: tilesFrom (o + n) l

/-- Slot of an arrival descriptor, when it is the partition's. -/
def arvSlot (s : State) (p a : Nat) : Option ASlot :=
  match tget (fun _ => none) s.mem.slots (aF a 0x0C 2) with
  | some sl => if sl.part = p then some sl else none
  | none => none

/-- Slot of a move with HASH, as it was where an UNADMIT has taken it (R235). -/
def Cmd.slot (s : State) (c : Cmd) : Option ASlot :=
  match c.oldSlot with
  | some z => some z
  | none => arvSlot s (partOf c.ring) c.arv

/-- Tiles of a move: offset in the destination, length. -/
def moveTiles (s : State) (c : Cmd) : List (Nat × Nat) :=
  let dst := c.fld 0x18 8
  let n := c.fld 0x20 8
  if c.fld 0x28 8 ≠ 0 && aHash c.arv then
    match c.slot s with
    | some sl => tilesFrom 0 ((moveChunks sl c.arv n).map AChunk.outLen)
    | none => []
  else (tileAt (n / 4096 + 1) dst n).map fun t => (t.1 - dst, t.2)

/-! ### Checks of a descriptor (R215, R217 to R222) -/

def posNorm32 (x : Nat) : Bool := decide (x < 2 ^ 31) && decide (0 < bits x 23 8) && decide (bits x 23 8 < 255)

/-- A field the steps do not use is nonzero. -/
def unused (a off n : Nat) (used : Bool) : Bool := !used && decide (aF a off n ≠ 0)

/-- The descriptor is refused with 0x53. -/
def arvBad (s : State) (c : Cmd) (a : Nat) : Bool :=
  let p := partOf c.ring
  let n := c.fld 0x20 8
  let h := aHash a
  let q := aReq a
  let r := aRel a
  let g := aGather a
  let shape := q || r
  let src := aSrc a
  let dst := aDst a
  let rows := aRows a
  let cols := aCols a
  let srcBlk := shape && blockLen src != 0
  let dstBlk := shape && blockLen dst != 0
  let intSrc := q && isIntFmt src
  let nb4 := q && (src == 11 || dst == 11)
  let fmts := if q then (decide (src ≤ 9) || src == 11 || isIntFmt src) && ((decide (1 ≤ dst) && decide (dst ≤ 9)) || dst == 11)
    else if r then src != 15 && bits (aF a 1 1) 4 4 == src else aF a 1 1 == 0
  let grp := if aF a 2 1 = 1 then 16 else if aF a 2 1 = 2 then 32 else 1
  let sizes := !shape || (rows * cols * fmtBits dst == 8 * n)
  let chunks := match arvSlot s p a with
    | some sl =>
      let l := moveChunks sl a n
      let m := sumNat (l.map AChunk.outLen)
      c.fld 0x10 8 == sl.base && m == n && !l.isEmpty && (!shape || rows * cols * fmtBits src == 8 * m) &&
      (tilesFrom (c.fld 0x18 8) (l.map AChunk.outLen)).all fun t => t.1 % t.2 == 0
    | none => false
  let pages := (pagesOf (c.fld 0x18 8) n).all fun k =>
    let e := l3e s p k
    rd s Reg.XLT_ROOT_VALID p == 1 && isLocal e && eTier e == 0 && eWr e
  aF a 0 1 == 0 || decide (aF a 0 1 ≥ 32) || h != bit a 1 || (g && (h || shape)) || !fmts ||
  (if r then aF a 2 1 == 0 || decide (aF a 2 1 > 3) || rows % grp != 0 || (aF a 2 1 == 3 && cols % 128 != 0) else aF a 2 1 != 0) ||
  unused a 3 1 intSrc || unused a 4 4 shape || unused a 8 4 shape ||
  (shape && (rows == 0 || decide (rows > 16777215) || cols == 0 || decide (cols > 16777215))) ||
  (q && ((blockLen src != 0 && cols % blockLen src != 0) || (blockLen dst != 0 && cols % blockLen dst != 0))) ||
  (if h then decide (aF a 0x0C 2 > 255) || !chunks else aF a 0x0C 2 != 0xFFFF) || aF a 0x0E 2 != 0 || unused a 0x10 8 h ||
  unused a 0x18 8 dstBlk || unused a 0x20 8 (srcBlk || intSrc) || (if nb4 then !posNorm32 (aF a 0x28 4) else aF a 0x28 4 != 0) ||
  unused a 0x2C 4 g || unused a 0x30 8 g || unused a 0x38 4 g || unused a 0x3C 4 g ||
  (g && (aF a 0x2C 4 == 0 || decide (aF a 0x2C 4 > 65536) || aF a 0x38 4 % 64 != 0 || aF a 0x3C 4 % 64 != 0 ||
    aF a 0x3C 4 == 0 || decide (aF a 0x3C 4 > 6291456) || aF a 0x2C 4 * aF a 0x3C 4 != n)) ||
  !sizes || !pages

/-! ### Elements (R20, R220, R221) -/

/-- Element code `k` of a packed plane whose bytes `f` gives. -/
def srcElem (f : Nat → Nat) (w k : Nat) : Nat :=
  let lo := k * w / 8
  let n := (k * w % 8 + w + 7) / 8
  bits (leNum ((List.range n).map fun i => f (lo + i))) (k * w % 8) w

/-- Row and column of output element `o` (R221). -/
def outPlace (a o : Nat) : Nat × Nat :=
  let cols := aCols a
  let g := if aRel a then (if aF a 2 1 = 1 then 16 else if aF a 2 1 = 2 then 32 else 1) else 1
  let x := o % (g * cols)
  (o / (g * cols) * g + x % g, x / g)

/-- Number in the scale plane of the block that holds row `r`, column `k` (R20, R221). -/
def outBlock (a bl r k : Nat) : Nat :=
  let nb := cdiv (aCols a) bl
  let g := if aRel a then (if aF a 2 1 = 1 then 16 else if aF a 2 1 = 2 then 32 else 1) else 1
  r / g * g * nb + k / bl * g + r % g

/-- What the steps read: source bytes by offset, and bytes of the scale plane by offset. -/
structure ArvIn where
  src : Nat → Nat
  scale : Nat → Nat

/-- FP32 value of source element (r, k) for REQUANT (R34, R220). -/
def reqValue (a : Nat) (i : ArvIn) (r k : Nat) : FV :=
  let c := aSrc a
  let n := r * aCols a + k
  let x := srcElem i.src (fmtBits c) n
  let v := if isIntFmt c then
      fvMul (ofInt (sext (fmtBits c) x - sext 8 (aF a 3 1))) (ofF32 (leNum ((List.range 4).map fun b => i.scale (4 * r + b))))
    else if blockLen c ≠ 0 then
      let y := scaledVal c x (i.scale (n / blockLen c))
      if c = 11 then fvMul y (ofF32 (aF a 0x28 4)) else y
    else elemVal c x
  ofF32 (toF32 v)

/-- The block of a REQUANT destination that holds (r, k): its scale code and element codes. -/
def reqBlock (a : Nat) (i : ArvIn) (r k : Nat) : Nat × List Nat :=
  let bl := blockLen (aDst a)
  let vs := (List.range bl).map fun j => reqValue a i r (k / bl * bl + j)
  let ms := List.replicate bl RMode.even
  let b := if aDst a = 11 then nb4Block true (ofF32 (aF a 0x28 4)) ms vs else mxBlock (aDst a) true ms vs
  (b.1, b.2.map Cvt.bits)

/-- Element code of the output at (r, k). -/
def outElem (a : Nat) (i : ArvIn) (r k : Nat) : Nat :=
  let bl := blockLen (aDst a)
  if !aReq a then srcElem i.src (fmtBits (aSrc a)) (r * aCols a + k)
  else if bl ≠ 0 then (reqBlock a i r k).2.getD (k % bl) 0
  else match fmtOf (aDst a) with
    | some f => (fpEncode f .even true (reqValue a i r k)).bits
    | none => 0

/-- Scale code of the output block at (r, k). -/
def outScale (a : Nat) (i : ArvIn) (r k : Nat) : Nat :=
  let bl := blockLen (aDst a)
  if aReq a then (reqBlock a i r k).1 else i.scale (r * cdiv (aCols a) bl + k / bl)

/-- Output elements that have a bit in bytes `o` to `o + n - 1`. -/
def outElems (a o n : Nat) : List Nat :=
  let w := fmtBits (aDst a)
  (List.range ((8 * (o + n) + w - 1) / w - 8 * o / w)).map (8 * o / w + ·)

/-- Output bytes `o` to `o + n - 1` of a move with REQUANT or RELAYOUT, as one number. -/
def outBytes (a : Nat) (i : ArvIn) (o n : Nat) : Nat :=
  let w := fmtBits (aDst a)
  let x := (outElems a o n).foldl (fun x k =>
    let p := outPlace a k
    x + outElem a i p.1 p.2 * 2 ^ (w * (k - 8 * o / w))) 0
  bits x (8 * o - w * (8 * o / w)) (8 * n)

/-- Scale bytes that belong to the blocks of those elements: number in the plane, code (R214). -/
def outScales (a : Nat) (i : ArvIn) (o n : Nat) : List (Nat × Nat) :=
  let bl := blockLen (aDst a)
  if bl = 0 then []
  else (outElems a o n).foldl (fun l k =>
    let p := outPlace a k
    let b := outBlock a bl p.1 p.2
    if l.any fun e => e.1 == b then l else l ++ [(b, outScale a i p.1 p.2)]) []

/-- Numbers in the scale plane of the blocks of those elements (R214). -/
def outBlocks (a o n : Nat) : List Nat :=
  let bl := blockLen (aDst a)
  if bl = 0 then [] else ((outElems a o n).map fun k => outBlock a bl (outPlace a k).1 (outPlace a k).2).eraseDups

/-- Bytes that ranges cover, each byte once. -/
def covered (l : List (Nat × Nat)) : Nat :=
  ((sortBy (fun x y => decide (x.1 ≤ y.1)) l).foldl (fun (a : Nat × Nat) r =>
    let lo := max a.1 r.1
    let hi := max a.1 (r.1 + r.2)
    (hi, a.2 + (hi - lo))) (0, 0)).2

/-- Byte ranges a tile of a move with REQUANT or RELAYOUT reads from the source plane and from the scale plane, by
offset: those of the blocks of its elements. -/
def readsOf (a o n : Nat) : List (Nat × Nat) × List (Nat × Nat) :=
  let c := aSrc a
  let w := fmtBits c
  let bl := max (blockLen (aDst a)) 1
  let rk := (outElems a o n).map (outPlace a)
  let el := rk.map fun p =>
    let k0 := if aReq a then p.2 / bl * bl else p.2
    let m := if aReq a then bl else 1
    let lo := (p.1 * aCols a + k0) * w / 8
    (lo, ((p.1 * aCols a + k0 + m) * w + 7) / 8 - lo)
  let sc := if isIntFmt c then (if aReq a then rk.map fun p => (4 * p.1, 4) else [])
    else if blockLen c ≠ 0 then rk.flatMap fun p =>
      let k0 := if aReq a then p.2 / bl * bl else p.2
      let n0 := (p.1 * aCols a + k0) / blockLen c
      let n1 := (p.1 * aCols a + k0 + (if aReq a then bl - 1 else 0)) / blockLen c
      [(n0, n1 - n0 + 1)]
    else []
  (el, sc)

end Sys2Proof.Machine
end

