-- ==== Sys2Proof/Machine/StakeExec.lean ====
section
/-! DEFINITION. Stakes (R53 to R90): the array, check row and column, bypass, vector pipeline, special functions, stake
program. A command names the stake whose next word is executed; a word another command stands for changes nothing. -/

namespace Sys2Proof.Machine

/-! ### Vector stages -/

/-- A signed 32-bit lane. -/
def s32 (x : Nat) : Int := sext 32 x

/-- A special function of one lane (R44 to R51): result and counts. -/
def sfLane (ftz : Bool) (op x : Nat) : Nat × Cnt :=
  let v := sfInput ftz x
  let sub := { Cnt.zero with subn := oneIf (sfSubn op v) }
  match sfSpecial op v with
  | some (r, bad) => (r, { sub with nan := oneIf bad })
  | none => (sfRounded op v, sub)

/-- A product of a gated form that is not rounded from two finite factors: the canonical NaN where it is invalid, counted;
else an infinity or a zero. -/
def gateSpecial (g v : FV) : Nat × Cnt :=
  let p := fvMul g v
  (toF32 p, { Cnt.zero with nan := oneIf p.isNan })

/-- A gated form of one lane, act(a) × b, from the activation before its rounding (R52). Its activations never take the
subnormal path. -/
def gateLane (ftz : Bool) (op a b : Nat) : Nat × Cnt :=
  let act := if op = 0x2A then 0x25 else if op = 0x2B then 0x26 else if op = 0x2C then 0x28 else 0x29
  let g := sfInput ftz a
  let v := ofF32 b
  if g.isNan || v.isNan then (0x7FC00000, Cnt.zero)
  else match sfSpecial act g with
    | some (r, _) => gateSpecial (ofF32 r) v
    | none =>
      let u := sfValue act g.neg (toF32 g % 2 ^ 31)
      let neg := if u = 0 then decide (act = 0x28 ∨ act = 0x29) && g.neg else decide (u < 0)
      if u = 0 then gateSpecial (.num neg 0 0) v
      else if v.isInf || v.isZero then gateSpecial (.num neg 1 0) v
      else (ratToF32 (neg != v.neg) (u * fvRat v), Cnt.zero)

/-- One lane of a vector operation below 0x1D (R28, R29, R34, R74). -/
def vecLane (op a b c : Nat) : Nat × Cnt :=
  let x := ofF32 a
  let y := ofF32 b
  let z := ofF32 c
  let fp (ins : List FV) (r : FV) : Nat × Cnt :=
    let o := f32op ins r
    (o.1, { Cnt.zero with nan := oneIf o.2 })
  let mask (t : Bool) : Nat × Cnt := (if t then 0xFFFFFFFF else 0, Cnt.zero)
  let i (v : Int) : Nat × Cnt := (toField 32 v, Cnt.zero)
  let isat (v : Int) : Nat × Cnt :=
    if v > 2 ^ 31 - 1 then (0x7FFFFFFF, { Cnt.zero with intsat := 1 })
    else if v < -2 ^ 31 then (0x80000000, { Cnt.zero with intsat := 1 }) else (toField 32 v, Cnt.zero)
  match op with
  | 0x00 => (a, Cnt.zero)
  | 0x01 => fp [x, y] (fvAdd x y)
  | 0x02 => fp [x, y] (fvAdd x (fvNeg y))
  | 0x03 => fp [x, y] (fvMul x y)
  | 0x04 => fp [x, y, z] (fvAdd (fvMul x y) z)
  | 0x05 => if x.isNan || y.isNan then (0x7FC00000, Cnt.zero) else (if fvBelow y x then b else a, Cnt.zero)
  | 0x06 => if x.isNan || y.isNan then (0x7FC00000, Cnt.zero) else (if fvBelow x y then b else a, Cnt.zero)
  | 0x07 => if x.isNan then (0x7FC00000, Cnt.zero) else (a % 2 ^ 31, Cnt.zero)
  | 0x08 => if x.isNan then (0x7FC00000, Cnt.zero) else (a ^^^ 2 ^ 31, Cnt.zero)
  | 0x09 => mask (fvLt x y)
  | 0x0A => mask (fvLt x y || fvEq x y)
  | 0x0B => mask (fvEq x y)
  | 0x0C => mask (!fvEq x y)
  | 0x0D => (if c ≠ 0 then a else b, Cnt.zero)
  | 0x0E => let r := fvToIntSat 32 x
            (r.bits, { Cnt.zero with nancvt := oneIf r.nancvt })
  | 0x0F => (toF32 (ofInt (s32 a)), Cnt.zero)
  | 0x10 => i (s32 a + s32 b)
  | 0x11 => i (s32 a - s32 b)
  | 0x12 => i (s32 a * s32 b)
  | 0x13 => isat (s32 a + s32 b)
  | 0x14 => isat (s32 a - s32 b)
  | 0x15 => (a &&& b, Cnt.zero)
  | 0x16 => (a ||| b, Cnt.zero)
  | 0x17 => (a ^^^ b, Cnt.zero)
  | 0x18 => (a * 2 ^ (b % 32) % 2 ^ 32, Cnt.zero)
  | 0x19 => (a / 2 ^ (b % 32), Cnt.zero)
  | 0x1A => i (s32 a / (2 ^ (b % 32) : Nat))
  | 0x1B => i (min (s32 a) (s32 b))
  | 0x1C => i (max (s32 a) (s32 b))
  | _ => (a, Cnt.zero)

/-- Adjacent pairs combined, one level of the tree of R75. -/
def pairUp (f : Nat → Nat → Nat × Cnt) : List Nat → List Nat × Cnt
  | a :: b :: t =>
    let r := f a b
    let q := pairUp f t
    (r.1 :: q.1, r.2.add q.2)
  | l => (l, Cnt.zero)

/-- The fixed tree of five levels (R75). -/
def treeOf (f : Nat → Nat → Nat × Cnt) : Nat → List Nat → Nat × Cnt
  | 0, l => (l.getD 0 0, Cnt.zero)
  | n + 1, l =>
    let r := pairUp f l
    let q := treeOf f n r.1
    (q.1, r.2.add q.2)

/-- 32 lanes on their way through the pipeline: whether they are INT32 values, the values, what each has counted. -/
structure Lanes where
  ints : Bool
  vals : List Nat
  cnts : List Cnt
  deriving DecidableEq, Repr

/-- A beat as it enters. -/
def Lanes.enter (ints : Bool) (l : List Nat) : Lanes := ⟨ints, l, List.replicate 32 Cnt.zero⟩

/-- The result of an operation is INT32: masks, CVTI, the integer and bitwise operations; PASS and SEL keep the type of
a (assumption 83). -/
def opInts (op : Nat) (a : Bool) : Bool :=
  if op = 0x00 ∨ op = 0x0D then a else (decide (0x09 ≤ op) && decide (op ≤ 0x0E)) || (decide (0x10 ≤ op) && decide (op ≤ 0x1C))

/-- An operation of a stage on 32 lanes (R74): results and what each lane counts. A reduction's counts stand at lane 0. -/
def vecOp (ftz : Bool) (op : Nat) (a b c : List Nat) : List (Nat × Cnt) :=
  if 0x1D ≤ op ∧ op ≤ 0x1F then
    let f := vecLane (if op = 0x1D then 0x01 else if op = 0x1E then 0x06 else 0x05)
    let r := treeOf (fun x y => f x y 0) 5 a
    (r.1, r.2) :: List.replicate 31 (r.1, Cnt.zero)
  else
    (List.range 32).map fun i =>
      let x := a.getD i 0
      let y := b.getD i 0
      if 0x2A ≤ op then gateLane ftz op x y
      else if 0x20 ≤ op then sfLane ftz op x
      else vecLane op x y (c.getD i 0)

/-- Operand of a stage from its source code (R73, R83): whether it is INT32, and its lanes. -/
def vecSrc (g : Stage) (code : Nat) (p x side : Lanes) : Bool × List Nat :=
  match code with
  | 0 => (p.ints, p.vals)
  | 1 => (x.ints, x.vals)
  | 2 => (side.ints, side.vals)
  | 3 => (false, List.replicate 32 (g.consts.getD (bits g.set.toNat 37 3) 0))
  | 4 => (g.accInts, g.acc)
  | _ => (false, List.replicate 32 0)

/-- One beat through one stage: the stage after it and the result (R73). -/
def vecStage (ftz : Bool) (g : Stage) (p x side : Lanes) : Stage × Lanes :=
  let w := g.set.toNat
  let op := bits w 49 6
  let a := vecSrc g (bits w 46 3) p x side
  let r := vecOp ftz op a.2 (vecSrc g (bits w 43 3) p x side).2 (vecSrc g (bits w 40 3) p x side).2
  let q : Lanes := ⟨opInts op a.1, r.map (·.1), (p.cnts.zip r).map fun e => e.1.add e.2.2⟩
  (if bit w 36 then { g with acc := q.vals, accInts := q.ints } else g, q)

/-- One beat through the stages in order. -/
def vecStages (ftz : Bool) (x side : Lanes) : List Stage → Lanes → List Stage × Lanes
  | [], p => ([], p)
  | g :: t, p =>
    let r := vecStage ftz g p x side
    let q := vecStages ftz x side t r.2
    (r.1 :: q.1, q.2)

/-! ### Output -/

/-- A payload of `n` bytes leaves on an OCTL port: OUT0, OUT1, or both halves of the pair (R77, R84). -/
def portBeats (port x n : Nat) : List (Nat × Beat) :=
  if port = 2 then ((payloadBeats x n).zipIdx).map fun p => (p.2 % 2, p.1)
  else (payloadBeats x n).map fun b => (port, b)

/-- Beats put on output ports. -/
def pushOut (q : List (List Beat)) (l : List (Nat × Beat)) : List (List Beat) :=
  l.foldl (fun q p => setAt q p.1 (q.getD p.1 [] ++ [p.2])) q

/-- Outputs of stake `k`: what comes of an unverified tile is held, the rest goes to the ports (R63). -/
def stkOut (s : State) (k : Nat) (hold : Bool) (l : List (Nat × Beat)) : State :=
  let x := stk s k
  if hold && x.tile.isSome then setStk s k { x with held := x.held ++ l }
  else setStk s k { x with outq := pushOut x.outq l }

/-- A beat leaves stage 6, or a bypass result the post-scale: converted and sent, each lane counted once (R37, R77). -/
def emitOut (s : State) (k : Nat) (hold : Bool) (l : Lanes) : State :=
  let x := stk s k
  let r := convertOut x.vec.octl x.vec.gen l.ints l.vals
  let s := setStk s k { x with vec := { x.vec with gen := r.gen } }
  count (stkOut s k hold (portBeats (bits x.vec.octl.toNat 50 2) r.data r.bytes)) (k / 32)
    (cntSum ((l.cnts.zip r.cvts).map fun e => e.1.add e.2.cnt))

/-! ### Vector runs -/

/-- One transfer of 1,024 bits from a pair of ports. -/
structure Pair where
  data : Nat
  bad : Bool
  rest : List (List Beat)
  beats : List (Nat × Beat)
  deriving DecidableEq, Repr

/-- Takes one transfer from the pair that begins at port `p`. -/
def takePair (q : List (List Beat)) (p : Nat) : Option Pair :=
  match nextBeat (q.getD p []), nextBeat (q.getD (p + 1) []) with
  | some (a, ra), some (b, rb) =>
    some ⟨a.data.toNat + 2 ^ 512 * b.data.toNat, a.psn || b.psn, setAt (setAt q p ra) (p + 1) rb, [(p, a), (p + 1, b)]⟩
  | _, _ => none

/-- What a run's next beat needs: its lanes, the run and the stake after it, whether it is poisoned. -/
inductive Need where
  | got (lanes : List Nat) (run : VRun) (x : Stake) (bad : Bool)
  | dry
  deriving DecidableEq, Repr

/-- ENTRY of a run is the array drain. -/
def VRun.fromDrain (r : VRun) : Bool := bits r.word.toNat 56 2 == 0

/-- The next entry beat (R72, R84). A run from the array drain that finds no drained beat waits (assumption 84). -/
def entryBeat (x : Stake) (r : VRun) : Need :=
  let w := r.word.toNat
  match bits w 56 2 with
  | 0 =>
    match x.vec.drain with
    | [] => .dry
    | l :: t => .got l r { x with vec := { x.vec with drain := t } } false
  | 3 => .got (List.replicate 32 0) r x false
  | e =>
    match r.rest with
    | l :: t => .got l { r with rest := t } x false
    | [] =>
      match takePair x.inq (if e = 1 then 0 else 2) with
      | none => .dry
      | some d =>
        match vecBeats (bits w 50 4) d.data with
        | l :: t => .got l { r with rest := t } { x with inq := d.rest } d.bad
        | [] => .dry

/-- The side beat of the next entry beat: a new one after every SDIV beats (R84). A side beat taken while a tile is
unverified stays in the side replay buffer (R63). -/
def sideBeat (x : Stake) (r : VRun) : Need :=
  let w := r.word.toNat
  let sel := bits w 54 2
  if sel = 0 then .got (List.replicate 32 0) r x false
  else if r.done % bits w 24 16 ≠ 0 then .got r.side r x false
  else
    match r.sideRest with
    | l :: t => .got l { r with side := l, sideRest := t } x false
    | [] =>
      match takePair x.inq (if sel = 1 then 0 else 2) with
      | none => .dry
      | some d =>
        match vecBeats (bits w 46 4) d.data with
        | a :: t => .got a { r with side := a, sideRest := t }
            { x with inq := d.rest, ckpt := if r.fromDrain then x.ckpt.map fun c => { c with side := c.side ++ d.beats } else x.ckpt }
            d.bad
        | [] => .dry

/-- An event in stake `k` that fails the command: link parity of a beat that feeds no checked tile (R149), parity in the
bypass (R66, R71). The second of a command makes the island suspect and is recorded (R65). -/
def failStk (s : State) (k at_ : Nat) : State :=
  let n := k / 32
  let s := checkEvent s n
  if rd s Reg.ISL_CHK_CMD n ≥ 2 then stopIsl (suspect (stkFault s k 2 at_ 0 0 0 0 0) n) n 0x28 0 else stopIsl s n 0x28 0

/-- The holding buffer of 32 beats, or the side replay buffer of 16, cannot take what the run's next beat may bring
(R63, R78). -/
def heldFull (x : Stake) (r : VRun) : Bool :=
  x.tile.isSome && r.fromDrain &&
  (decide (x.held.length + 2 > 64) || (match x.ckpt with | some c => decide (c.side.length + 2 > 32) | none => false))

/-- The run of stake `k` goes on while its beats are there (at most `fuel` beats); where they end it waits for more.
Where ENTRY and SIDE name one pair, the side transfer is taken from it before the entry transfer (DESIGN CHOICE,
assumption 84). -/
def vecPump : Nat → State → Nat → State
  | 0, s, _ => s
  | f + 1, s, k =>
    let x := stk s k
    match x.vec.run with
    | none => s
    | some r =>
      if heldFull x r then (if bit x.mode 0 then s else stkFreeze s k 7)
      else match sideBeat x r with
      | .dry => s
      | .got side r1 x1 bad1 =>
        match entryBeat x1 r1 with
        | .dry => s
        | .got ent r2 x2 bad2 =>
          let w := r.word.toNat
          let last := r.done + 1 == bits w 0 24
          let g0 := if r.done = 0 && bit w 45 then
              x2.vec.stages.map fun g => { g with acc := List.replicate 32 0, accInts := false }
            else x2.vec.stages
          let ei := if r.fromDrain then x2.vec.drainInts else bits w 56 2 != 3 && bits w 50 4 == 14
          let e := Lanes.enter ei ent
          let p := vecStages (bit x.mode 1) e (Lanes.enter (bits w 46 4 == 14) side) g0 e
          let v := { x2.vec with stages := p.1, run := if last then none else some { r2 with done := r.done + 1 } }
          let s := setStk s k { x2 with vec := v }
          let em := bits w 43 2
          let s := if em = 0 || (em == 1 && last) then emitOut s k r.fromDrain p.2
            else count s (k / 32) (cntSum p.2.cnts)
          if bad1 || bad2 then failStk s k x.pc else vecPump f s k

/-- Beats a run of stake `k` could take now. -/
def vecFuel (s : State) (k : Nat) : Nat :=
  match (stk s k).vec.run with
  | some r => bits r.word.toNat 0 24 - r.done
  | none => 0

/-- The run of stake `k` goes on as far as its beats allow. -/
def vecGo (s : State) (k : Nat) : State := noteHold (vecPump (vecFuel s k) s k) (k / 32)

/-! ### Array -/

/-- Rows and columns of a tile's accumulators. -/
def accAt (l : List Nat) (i j : Nat) : Nat := l.getD (32 * i + j) 0

/-- One cell of a tile: its value, whether it saturated, whether it is a NaN that no input NaN made (R25 to R27, R30). -/
structure Cell where
  val : Nat
  sat : Bool
  nan : Bool
  deriving DecidableEq, Repr

/-- The operands of a tile: exact elements and block scales of lane `i` at index `q`, rows from `rows` on fed zero (R59). -/
structure TileOps where
  k : Nat
  g : Nat
  int32 : Bool
  a : Nat → Nat → FV
  b : Nat → Nat → FV
  sa : Nat → Nat → FV
  sb : Nat → Nat → FV

/-- Operands of an MTILE word from its element streams. -/
def tileOps (n : Nat) (ae as be bs : List (List Nat)) : TileOps :=
  let a := bits n 54 4
  let b := bits n 50 4
  let ai := bits n 19 3
  let bi := bits n 16 3
  let rows := bits n 29 5
  { k := bits n 34 16, g := groupOf a b ai, int32 := isInt32Pair a ai
    a := fun q i => if i < rows then elemAt a ae q i else .num false 0 0
    b := fun q j => elemAt b be q j
    sa := fun q i => if i < rows then scaleOf a ai as q i else .num false 1 0
    sb := fun q j => scaleOf b bi bs q j }

/-- Lane `i` of an operand holds a NaN among its elements or scales. -/
def laneNan (k : Nat) (v s : Nat → Nat → FV) (i : Nat) : Bool :=
  (List.range k).any fun q => (v q i).isNan || (s q i).isNan

/-- The cells of a tile (R23 to R27, R59), row by row. -/
def tileCells (o : TileOps) : List Cell :=
  let na := (List.range 16).map (laneNan o.k o.a o.sa)
  let nb := (List.range 32).map (laneNan o.k o.b o.sb)
  (List.range 512).map fun n =>
    let i := n / 32
    let j := n % 32
    if o.int32 then
      let r := dotInt o.k 0 (fun q => fvInt (fvMul (o.a q i) (o.b q j))) 0
      ⟨toField 32 r.1, r.2, false⟩
    else
      let v := dotF32 o.g o.k (fun q => fvMul (o.a q i) (o.b q j)) (fun q => fvMul (o.sa q i) (o.sb q j))
      ⟨v, false, (ofF32 v).isNan && !na.getD i false && !nb.getD j false⟩

/-- Sum of values rounded once to FP32 (R62). -/
def sumOnce (l : List FV) : FV := ofF32 (toF32 (l.foldl fvAdd (.num false 0 0)))

/-- Check values of a tile: E and M of each row, then of each column (R41, R43, R62). -/
def tileChecks (o : TileOps) : (List Nat × List Nat) × (List Nat × List Nat) :=
  if o.int32 then
    let rowE := (List.range 16).map fun i =>
      toField 32 ((List.range o.k).foldl (fun t q => t + fvInt (o.a q i) *
        ((List.range 32).foldl (fun u j => u + fvInt (o.b q j)) 0)) 0)
    let colE := (List.range 32).map fun j =>
      toField 32 ((List.range o.k).foldl (fun t q => t + fvInt (o.b q j) *
        ((List.range 16).foldl (fun u i => u + fvInt (o.a q i)) 0)) 0)
    ((rowE, List.replicate 16 0), (colE, List.replicate 32 0))
  else
    let va (q i : Nat) : FV := fvMul (o.a q i) (o.sa q i)
    let vb (q j : Nat) : FV := fvMul (o.b q j) (o.sb q j)
    let sB (q : Nat) := sumOnce ((List.range 32).map fun j => vb q j)
    let mB (q : Nat) := sumOnce ((List.range 32).map fun j => fvAbs (vb q j))
    let sA (q : Nat) := sumOnce ((List.range 16).map fun i => va q i)
    let mA (q : Nat) := sumOnce ((List.range 16).map fun i => fvAbs (va q i))
    (((List.range 16).map fun i => dotF32 o.g o.k (fun q => fvMul (o.a q i) (sB q)) fun q => o.sa q i,
      (List.range 16).map fun i => dotF32 o.g o.k (fun q => fvMul (fvAbs (o.a q i)) (mB q)) fun q => fvAbs (o.sa q i)),
     ((List.range 32).map fun j => dotF32 o.g o.k (fun q => fvMul (o.b q j) (sA q)) fun q => o.sb q j,
      (List.range 32).map fun j => dotF32 o.g o.k (fun q => fvMul (fvAbs (o.b q j)) (mA q)) fun q => fvAbs (o.sb q j)))

/-- The verdict on one row or column (R41 to R43): skipped, passed or mismatch. -/
inductive Judge where
  | skip | pass | fail (d : Nat)
  deriving DecidableEq, Repr

/-- Judges data values against a check value (R41 to R43). -/
def judge (ints : Bool) (t : Nat) (cs : List Nat) (sats : List Bool) (e m : Nat) : Judge :=
  if ints then
    if sats.any id then .skip
    else
      let d := toField 32 (cs.foldl (fun a c => a + s32 c) 0)
      if d = e then .pass else .fail d
  else
    let vs := cs.map ofF32
    let E := ofF32 e
    let M := ofF32 m
    let odd (v : FV) := v.isNan || v.isInf
    if vs.any odd || odd E || odd M then .skip
    else
      let d := vs.foldl fvAdd (.num false 0 0)
      let diff := fvAbs (fvAdd d (fvNeg E))
      let ok := if M.isZero then fvEq d E else !fvLt (fvMul (.num false t 0) (ulpOf M)) diff
      if ok then .pass else .fail (toF32 d)

/-- Tolerance T of R41 for a tile word and mode word. -/
def tolOf (word mode : Nat) : Nat :=
  2 * cdiv (bits word 34 16) (max 1 (groupOf (bits word 54 4) (bits word 50 4) (bits word 19 3))) + bits mode 2 8

/-- All judgements of a tile that stands in a set: rows 0 to 15, then columns 0 to 31. -/
def judgements (word : DWord) (ints : Bool) (z : AccSet) (mode : Nat) : List Judge :=
  let tol := tolOf word.toNat mode
  ((List.range 16).map fun i => judge ints tol ((List.range 32).map fun j => accAt z.acc i j)
      ((List.range 32).map fun j => z.sat.getD (32 * i + j) false) (z.rowE.getD i 0) (z.rowM.getD i 0)) ++
  ((List.range 32).map fun j => judge ints tol ((List.range 16).map fun i => accAt z.acc i j)
      ((List.range 16).map fun i => z.sat.getD (32 * i + j) false) (z.colE.getD j 0) (z.colM.getD j 0))

/-- The first mismatch among judgements, by number. -/
def firstFail : List Judge → Nat → Option (Nat × Nat)
  | [], _ => none
  | .fail d :: _, n => some (n, d)
  | _ :: t, n => firstFail t (n + 1)

/-- Accumulators with the injected errors: each adds its amount to the 32-bit pattern (R41, assumption 10). -/
def applyUpsets (acc : List Nat) (l : List Upset) : List Nat :=
  l.foldl (fun a u => if u.row < 16 ∧ u.col < 32 then
    setAt a (32 * u.row + u.col) (toField 32 ((accAt a u.row u.col : Int) + u.delta)) else a) acc

/-- Key of a panel in the B buffer: a following MTILE has the same B operand where its format, scale mode and K, all that the
instruction says of B, are those of the panel held (R60; DESIGN CHOICE, assumption 84). -/
def panelKey (byp : Bool) (w : Nat) : Nat :=
  oneIf byp + 2 * (if byp then bits w 54 4 + 16 * bits w 19 3 + 2 ^ 9 * bits w 29 5
    else bits w 50 4 + 16 * bits w 16 3) + 2 ^ 16 * bits w 34 16

/-- Indices to a transfer of an operand pair (R57). -/
def stepOf (w : Nat) : Nat := if pairRate2 (bits w 54 4) (bits w 50 4) then 2 else 1

/-- The A feed of an MTILE word, and its B feed, from a stream. -/
def feedA (w : Nat) (q : List Beat) : Option Feed :=
  takeFeed (bits w 54 4) (bits w 19 3) 16 (stepOf w) 16 (bits w 34 16 + 1) 0 (bits w 34 16) q
def feedB (w : Nat) (q : List Beat) : Option Feed :=
  takeFeed (bits w 50 4) (bits w 16 3) 32 (stepOf w) 32 (bits w 34 16 + 1) 0 (bits w 34 16) q

/-- The B panel of an array tile: kept from before, or taken from a stream (R60). -/
def bPanel (x : Stake) (kept : Bool) (w : Nat) (q : List Beat) : Option Feed :=
  match kept, x.bhold with
  | true, some (_, els, scs) => some ⟨els, scs, false, [], [], q⟩
  | _, _ => feedB w q

/-- The accumulator set a tile computes (R56, R62), with the environment's errors, and how many of its cells are NaNs that
no input NaN made. -/
def tileSet (w : Nat) (fa fb : Feed) (ups : List Upset) : AccSet × Nat :=
  let o := tileOps w fa.els fa.scales fb.els fb.scales
  let c := tileCells o
  let chk := tileChecks o
  (⟨applyUpsets (c.map Cell.val) ups, c.map Cell.sat, chk.1.1, chk.1.2, chk.2.1, chk.2.2⟩, (c.filter Cell.nan).length)

/-- The rows of a tile as beats of 32 lanes (R61). -/
def tileRows (acc : List Nat) : List (List Nat) := (List.range 16).map fun i => (List.range 32).map fun j => accAt acc i j

/-- The rows of a tile go where its DRAIN field says (R61, R82). Raw rows of an unverified tile are held like the outputs
the pipeline derives from it (assumption 84). -/
def drainRows (s : State) (k : Nat) (w : DWord) (ints : Bool) (acc : List Nat) : State :=
  let x := stk s k
  match bits w.toNat 23 2 with
  | 0 => vecGo (setStk s k { x with vec := { x.vec with drain := x.vec.drain ++ tileRows acc, drainInts := ints } }) k
  | d => stkOut s k true ((tileRows acc).flatMap fun r => portBeats (d - 1) (packCodes 32 r) 128)

/-- A tile's runs by the bushel they came from, each once. -/
def runsOf (runs : List (Nat × Nat × Nat)) (b : Nat) : List (Nat × Nat) :=
  ((runs.filter fun r => r.1 = b).map fun r => r.2).eraseDups

/-- The verdict of a tile goes out on the control path to each bushel of the island that fed it (R98, R146). -/
def signalRuns (s : State) (k : Nat) (runs : List (Nat × Nat × Nat)) : State :=
  eachOf (runs.map (·.1)).eraseDups s fun s b =>
    if b / 32 = k / 32 then setBsh s b { bsh s b with sigs := (bsh s b).sigs ++ [(k, runsOf runs b)] } else s

/-! ### The stake's commands -/

/-- The stake's word at its program counter. -/
def curWord (s : State) (k : Nat) : Nat := (stkWord s k (stk s k).pc).toNat

/-- Freeze codes that a word of an opcode ends by being run again: WAITH and RELH (R78). -/
def retryCodes (op : Nat) : List Nat := if op = 0x08 then [5] else if op = 0x09 then [7] else []

/-- Stake `k` stands at a word of opcode `op` and may run it (R78, R80, R138). -/
def stkAtOp (s : State) (k op : Nat) : Bool :=
  let x := stk s k
  mayRun s (k / 32) (.stake k (retryCodes op)) && !x.ended && !x.recomp && decide (bits (curWord s k) 58 6 = op)

/-- The program counter moves past the word; the stake's own freeze ends (R80). -/
def stkNext (s : State) (k : Nat) : State :=
  let x := stk s k
  let n := nextPc x.pc x.loops
  noteHold (setStk s k { x with pc := n.1, loops := n.2, frz := 0 }) (k / 32)

/-- A stake command: the unit exists; it changes nothing where the word is another. -/
def onStake (s : State) (k op : Nat) (f : State → State) : Out :=
  onUnit (k < 1024) (live s (if stkAtOp s k op then f s else s))

/-- NOP (R81). -/
def execStakeNop (k : Nat) (s : State) : Out := onStake s k 0x00 fun s => stkNext s k

/-- The settings of the pipeline may change: no vector run has begun, and no tile that a recompute would run through
them again is unverified. VSET, VCONST and OCTL wait for it (R80, assumption 84). -/
def vecSettled (x : Stake) : Bool :=
  (match x.vec.run with | some r => decide (r.done = 0) | none => true) && x.ckpt.isNone

/-- VSET (R83): the stage takes its operation and sources. -/
def execVset (k : Nat) (s : State) : Out := onStake s k 0x03 fun s =>
  let x := stk s k
  let w := stkWord s k x.pc
  let n := bits w.toNat 55 3
  let g := x.vec.stages.getD n Stage.idle
  if !vecSettled x then s
  else stkNext (setStk s k { x with vec := { x.vec with stages := setAt x.vec.stages n { g with set := w } } }) k

/-- VCONST (R83): one constant of one stage. -/
def execVconst (k : Nat) (s : State) : Out := onStake s k 0x05 fun s =>
  let x := stk s k
  let w := curWord s k
  let n := bits w 55 3
  let g := x.vec.stages.getD n Stage.idle
  let g := { g with consts := setAt g.consts (bits w 52 3) (bits w 0 32) }
  if !vecSettled x then s
  else stkNext (setStk s k { x with vec := { x.vec with stages := setAt x.vec.stages n g } }) k

/-- OCTL (R84): output control for every output after it. -/
def execOctl (k : Nat) (s : State) : Out := onStake s k 0x06 fun s =>
  let x := stk s k
  if !vecSettled x then s
  else stkNext (setStk s k { x with vec := { x.vec with octl := stkWord s k x.pc } }) k

/-- LOOP (R80, R85, R164). -/
def execStakeLoop (k : Nat) (s : State) : Out := onStake s k 0x07 fun s =>
  let x := stk s k
  let w := curWord s k
  let n := enterLoop x.pc (bits w 49 9) (bits w 0 24) x.loops
  noteHold (setStk s k { x with pc := n.1, loops := n.2, frz := 0 }) (k / 32)

/-- END (R81): the stake reports done to the weave sequencer. -/
def execStakeEnd (k : Nat) (s : State) : Out := onStake s k 0x0B fun s =>
  noteHold (setStk s k { stk s k with ended := true, frz := 0 }) (k / 32)

/-- SYNC (R85): waits until the named units are idle. -/
def syncDone (x : Stake) (w : Nat) : Bool :=
  (!bit w 57 || x.mt.isNone) && (!bit w 56 || x.byp.isNone) && (!bit w 55 || x.vec.run.isNone) &&
  (!bit w 54 || (x.held.isEmpty && x.tile.isNone))

def execStakeSync (k : Nat) (s : State) : Out := onStake s k 0x0A fun s =>
  if syncDone (stk s k) (curWord s k) then stkNext s k else s

/-- A VRUN has its unit: no run, no bypass instruction, and no run already begun that the checkpoint of an unverified
tile holds, since that keeps one beat count (R55, R63, R80). -/
def vrunReady (x : Stake) : Bool :=
  x.vec.run.isNone && x.byp.isNone && (match x.ckpt with | some c => c.run.isNone | none => true)

/-- VRUN (R84): starts the run and takes it as far as its beats allow; waits while its unit is busy (R55, R80). -/
def execVrun (k : Nat) (s : State) : Out := onStake s k 0x04 fun s =>
  let x := stk s k
  if !vrunReady x then s
  else
    let r : VRun := ⟨stkWord s k x.pc, 0, List.replicate 32 0, [], []⟩
    let x := { x with vec := { x.vec with run := some r }
                      ckpt := if r.fromDrain then x.ckpt.map fun c => { c with run := some r } else x.ckpt }
    vecGo (pullStk (stkNext (setStk s k x) k) k) k

/-! ### The bypass -/

/-- The path an MTILE takes (R68): true for the bypass. -/
def takesBypass (x : Stake) (w : Nat) : Bool :=
  match bits w 27 2 with
  | 1 => true
  | 2 => bypOk (bits w 54 4) (bits w 50 4) && decide (bits w 29 5 ≤ bits x.mode 10 3)
  | _ => false

/-- Activation rows of a bypass instruction from IN1, 64 bytes a beat, scales after the elements of each row's extent
(R69; assumption 8): elements, scales, whether poisoned, the rest of the stream. -/
def bypRows (w : Nat) (q : List Beat) : Option (List (List Nat) × List (List Nat) × Bool × List Beat) :=
  let c := bits w 54 4
  let k := bits w 34 16
  let r := bits w 29 5
  let e := fmtBits c
  let nb := if isMx c then cdiv k 32 else 0
  let row := k * e / 8 + nb
  (takeBeats (bypRowBeats w) q).map fun t =>
    ((List.range r).map fun i => codes t.data (8 * i * row) e k,
      (List.range r).map fun i => codes t.data (8 * (i * row + k * e / 8)) 8 nb, t.bad, t.rest)

/-- A weight column: elements, scales, whether poisoned, the queues left. -/
structure BypCol where
  els : List Nat
  scs : List Nat
  bad : Bool
  rest : List (List Beat)
  deriving DecidableEq, Repr

/-- One weight column from IN2:IN3, beats of 128 elements with the block scales after them (R69; assumption 8). -/
def bypCol (c : Nat) : Nat → Nat → List (List Beat) → Option BypCol
  | 0, _, q => some ⟨[], [], false, q⟩
  | _ + 1, 0, q => some ⟨[], [], false, q⟩
  | f + 1, todo, q =>
    let n := min 128 todo
    let w := fmtBits c
    let g := scaleGroup c 0
    match takePair q 2 with
    | none => none
    | some d =>
      let here : Option (List Nat × Bool × List (List Beat)) :=
        if g = 0 then some ([], d.bad, d.rest)
        else if 128 * w / 8 + cdiv n g > 128 then
          (takePair d.rest 2).map fun e => (codes e.data 0 8 (cdiv n g), d.bad || e.bad, e.rest)
        else some (codes d.data (128 * w) 8 (cdiv n g), d.bad, d.rest)
      match here with
      | none => none
      | some (scs, bad, q) => (bypCol c f (todo - n) q).map fun t =>
          ⟨codes d.data 0 w n ++ t.els, scs ++ t.scs, bad || t.bad, t.rest⟩

/-- A NaN that came of inputs none of which is NaN. -/
def madeNan (r : Nat) (ins : List FV) : Nat := oneIf ((ofF32 r).isNan && ins.all fun v => !v.isNan)

/-- One bypass result: the dot product and the two multiplications of R71, with the NaNs they make (R30, R70). -/
def bypResult (w : Nat) (row sc col cs : List Nat) (c0 pc : Nat) : Nat × Cnt :=
  let a := bits w 54 4
  let b := bits w 50 4
  let k := bits w 34 16
  let sOf (c : Nat) (scs : List Nat) (q : Nat) : FV :=
    let g := scaleGroup c 0
    if g = 0 then .num false 1 0 else scaleVal c (scs.getD (q / g) 0)
  let va (q : Nat) := elemVal a (row.getD q 0)
  let vb (q : Nat) := elemVal b (col.getD q 0)
  let r := dotF32 (groupOf a b 0) k (fun q => fvMul (va q) (vb q)) fun q => fvMul (sOf a sc q) (sOf b cs q)
  let ins := (List.range k).flatMap fun q => [va q, sOf a sc q, vb q, sOf b cs q]
  let r1 := toF32 (fvMul (ofF32 r) (ofF32 c0))
  let r2 := if bit w 22 then toF32 (fvMul (ofF32 r1) (ofF32 pc)) else r1
  let n2 := if bit w 22 then madeNan r2 [ofF32 r1, ofF32 pc] else 0
  (r2, { Cnt.zero with nan := madeNan r ins + madeNan r1 [ofF32 r, ofF32 c0] + n2 })

/-- The activation rows of a bypass instruction are loaded, where its beats are there (R69). -/
def bypLoad (s : State) (k : Nat) (y : BypRun) : Option (State × BypRun) :=
  let x := stk s k
  let w := y.word.toNat
  match y.rows with
  | some _ => some (s, y)
  | none => (bypRows w (x.inq.getD 1 [])).map fun (els, scs, bad, q) =>
      (setStk s k { x with
        inq := setAt x.inq 1 q, bhold := if bit w 26 then some (panelKey true w, els, scs) else x.bhold },
       { y with rows := some (els, scs), bad := bad })

/-- One column of a bypass instruction, where its beats are there: its R results leave through output control as one
payload of R lanes, and its per-channel scale is one beat of IN0 (R69 to R71, assumption 84). -/
def bypColumn (s : State) (k : Nat) (y : BypRun) : Option (State × Bool) :=
  let x := stk s k
  let w := y.word.toNat
  let c0 := ((x.vec.stages.getD 5 Stage.idle).consts.getD 0 0)
  let rows := y.rows.getD ([], [])
  match bypCol (bits w 50 4) (bits w 34 16 + 1) (bits w 34 16) x.inq with
  | none => none
  | some col =>
    let scale : Option (Nat × Bool × List (List Beat)) :=
      if bit w 22 then (nextBeat (col.rest.getD 0 [])).map fun (b, t) => (bits b.data.toNat 0 32, b.psn, setAt col.rest 0 t)
      else some (0x3F800000, false, col.rest)
    scale.map fun (pc, psn, q) =>
      let r := (List.range rows.1.length).map fun i =>
        bypResult w (rows.1.getD i []) (rows.2.getD i []) col.els col.scs c0 pc
      (emitOut (setStk s k { x with inq := q }) k false ⟨false, r.map (·.1), r.map (·.2)⟩, col.bad || psn)

/-- The columns of a bypass instruction, each as its beats arrive (R69). -/
def bypPump : Nat → State → Nat → State
  | 0, s, _ => s
  | f + 1, s, k =>
    match (stk s k).byp with
    | none => s
    | some y =>
      match bypLoad s k y with
      | none => s
      | some (s, y) =>
        let put (s : State) (z : Option BypRun) : State := setStk s k { stk s k with byp := z }
        let keep (s : State) : State :=
          setStk s k { stk s k with bhold := if bit y.word.toNat 26 then (stk s k).bhold else none }
        if y.bad then failStk (put s none) k y.at_
        else match bypColumn s k y with
          | none => put s (some y)
          | some (s, bad) =>
            let s := if y.left ≤ 1 then keep (put s none) else put s (some { y with left := y.left - 1 })
            if bad then failStk s k y.at_ else bypPump f s k

/-- The bypass of stake `k` goes on as far as its beats allow. -/
def bypGo (s : State) (k : Nat) : State :=
  noteHold (bypPump (match (stk s k).byp with | some y => y.left | none => 0) s k) (k / 32)

/-- Issues REP tiles to the array, or REP columns to the bypass, and moves on; waits while its unit is busy
(R55, R69, R80). A panel kept by BHOLD serves every tile of the instruction that finds it (R60). `parity` is a parity
error in the rows a bypass instruction reads from the B buffer (R66). -/
def issueTiles (k : Nat) (parity : Bool) (s : State) : Out := onStake s k 0x01 fun s =>
  let x := stk s k
  let word := stkWord s k x.pc
  let w := word.toNat
  let byp := takesBypass x w
  let kept := match x.bhold with | some (key, _, _) => decide (key = panelKey byp w) | none => false
  if x.mt.isSome || x.byp.isSome then s
  else if byp then
    if x.vec.run.isSome || x.tile.isSome then s
    else
      let rows := if kept then x.bhold.map (·.2) else none
      let y : BypRun := ⟨word, x.pc, bits w 0 16, rows, parity⟩
      let x := { x with byp := some y, bhold := if kept then x.bhold else none }
      bypGo (pullStk (stkNext (bump (setStk s k x) Reg.ISL_BYP_INSTR (k / 32) 1) k) k) k
  else
    let x := { x with mt := some ⟨word, x.pc, bits w 0 16, kept⟩, bhold := if kept then x.bhold else none }
    pullStk (stkNext (setStk s k x) k) k

/-- MTILE (R82). -/
def execMtile (u : Marked) (s : State) : Out := issueTiles u.no u.bad s

/-! ### Tiles -/

/-- Array cycles in which an invalid pair enters: before each transfer, the longer of the two runs of empty tokens
(R79). -/
def bubbles : List Nat → List Nat → Nat
  | a :: t, b :: u => max a b + bubbles t u
  | a :: t, [] => a + bubbles t []
  | [], b :: u => b + bubbles [] u
  | [], [] => 0

/-- The checkpoint at a tile's first drain beat (R63). -/
def ckptOf (v : Vec) : Ckpt :=
  ⟨v.stages.map fun g => (g.acc, g.accInts), v.gen, match v.run with | some r => if r.fromDrain then some r else none | none => none, []⟩

/-- The pipeline restored from a checkpoint (R64): where a run has taken beats of the tile, its beat count, the stage
accumulators and the generator; what is left of the tile in the drain buffer is discarded. -/
def restoreCkpt (x : Stake) : Stake :=
  let toVec := match x.tile with | some t => bits t.word.toNat 23 2 == 0 | none => false
  let x := { x with held := [], vec := if toVec then { x.vec with drain := [] } else x.vec }
  match toVec, x.ckpt.bind fun c => c.run.map fun r => (c, r) with
  | true, some (c, r) =>
    let st := (x.vec.stages.zip c.acc).map fun (p : Stage × List Nat × Bool) => { p.1 with acc := p.2.1, accInts := p.2.2 }
    { x with vec := { x.vec with stages := st, gen := c.gen, run := some r }
             inq := c.side.foldr (fun (p : Nat × Beat) q => setAt q p.1 (p.2 :: q.getD p.1 [])) x.inq }
  | _, _ => x

/-- A handle goes back to its owner's free list on the control path, or on to another bushel's queue, where that has
room; none where it is full (R85, R100, R101). -/
def releaseHandle (s : State) (k h d td : Nat) (fwd : Bool) : Option State :=
  let x := stk s k
  let s1 := setStk s k { x with hand := setAt x.hand d ((x.hand.getD d []).erase h) }
  if fwd then
    match bshAt k td with
    | some b => if (bsh s1 b).hq.length ≥ 16 then none
      else some (setBsh s1 b { bsh s1 b with hq := (bsh s1 b).hq ++ [(h, 4 + oneIf (h.testBit 28))] })
    | none => some s1
  else
    match bshAt k d with
    | some b => some (setBsh s1 b { bsh s1 b with rets := (bsh s1 b).rets ++ [h] })
    | none => some s1

/-- Releases that waited for a verdict take effect in order; one whose target queue is full waits with code 7 (R78,
R85). -/
def runRels (k : Nat) : List (Nat × Nat × Nat × Bool) → State → State
  | [], s => setStk s k { stk s k with relq := [], frz := 0 }
  | r :: t, s => match releaseHandle s k r.1 r.2.1 r.2.2.1 r.2.2.2 with
    | some s => runRels k t s
    | none =>
      let x := stk s k
      setStk s k { x with relq := r :: t, frz := if bit x.mode 0 then x.frz else 7 }

/-- A pass: held outputs leave in order, the tile's verdict goes to the bushels that fed it, waiting releases take effect,
tile and checkpoint are freed (R63, R98). -/
def passTile (s : State) (k : Nat) (t : DTile) : State :=
  let x := stk s k
  let s := setStk s k { x with tile := none, ckpt := none, held := [], recomp := false, outq := pushOut x.outq x.held }
  let s := runRels k x.relq (signalRuns s k t.runs)
  noteHold (bump s Reg.ISL_ARR_TILES (k / 32) 1) (k / 32)

/-- Cause and first failing row or column of what befell the tile of stake `k` (R65, R66). -/
def tileFail (x : Stake) (t : DTile) : Option (Nat × Nat) :=
  if bit t.word.toNat 25 then firstFail (judgements t.word t.ints (x.sets.getD t.set .zero) x.mode) 0 else none

/-- The second event of a command on an island, in stake `k`: suspect, recorded, stopped (R65). -/
def secondEvent (s : State) (k : Nat) : State :=
  let n := k / 32
  let x := stk s k
  let s := match x.tile with
    | none => s
    | some t =>
      let z := x.sets.getD t.set .zero
      match tileFail x t with
      | none => stkFault s k 2 t.at_ 0 0 0 0 0
      | some (r, d) =>
        if r ≥ 16 then stkFault s k 1 t.at_ 1 (r - 16) d (z.colE.getD (r - 16) 0) (z.colM.getD (r - 16) 0)
        else stkFault s k 1 t.at_ 0 r d (z.rowE.getD r 0) (z.rowM.getD r 0)
  stopIsl (suspect s n) n 0x28 0

/-- Another stake of the island whose recompute no replay beat has reached yet: its mismatch and one judged now are of
one cycle (R89, assumption 85). -/
def metWith (s : State) (k : Nat) : Option Nat :=
  (s.fab.stk.find? fun e => decide (e.1 / 32 = k / 32) && decide (e.1 ≠ k) && e.2.recomp && e.2.rep.all List.isEmpty).map (·.1)

/-- The tile of stake `k` mismatches (R64 to R66, R89): the first event of the command starts a recompute, the second
makes the island suspect. Of two that meet with no event before them, the lower stake is recorded. -/
def mismatch (s : State) (k : Nat) : State :=
  let n := k / 32
  let first := rd s Reg.ISL_CHK_CMD n = 0
  let s := checkEvent s n
  if first then
    noteHold (setStk s k { restoreCkpt (stk s k) with recomp := true, frz := 1, rep := [[], [], [], []] }) n
  else match metWith s k with
    | some j => secondEvent s (min j k)
    | none => secondEvent s k

/-- TILE_DRAIN (R61, R63, R66): the array has finished a tile, its operands being there, and drains it; freezes where the
drain buffer is full (R78). `ups` are errors of the array, `parity` a parity error in the B buffer or the drain buffer. -/
def drainTile (s : State) (k : Nat) (m : MtRun) (ups : List Upset) (parity : Bool) : State :=
  let x := stk s k
  let w := m.word.toNat
  let bubble := bit x.mode 0
  match feedA w (x.inq.getD 0 []), bPanel x m.kept w (x.inq.getD 1 []) with
  | some fa, some fb =>
    if bits w 23 2 = 0 && !x.vec.drain.isEmpty then (if bubble then s else stkFreeze s k 6)
    else
      let cur := 1 - x.cur
      let z := tileSet w fa fb ups
      let hold := bit w 26
      let poison := fa.bad || fb.bad
      let ints := isInt32Pair (bits w 54 4) (bits w 19 3)
      let last := decide (m.left ≤ 1)
      let t : DTile := ⟨m.word, m.at_, cur, ints, poison || parity, !m.kept, x.hand, fa.runs ++ fb.runs⟩
      let x1 := { x with inq := setAt (setAt x.inq 0 fa.rest) 1 fb.rest
                         sets := setAt x.sets cur z.1, cur := cur
                         bhold := if hold then some (panelKey false w, fb.els, fb.scales)
                           else if last then none else x.bhold
                         mt := if last then none else some { m with left := m.left - 1, kept := m.kept || hold }
                         frz := 0 }
      let s := if bubble then bump s Reg.ISL_BUBBLE_CYC (k / 32) (bubbles fa.empties fb.empties) else s
      let s := count (setStk s k x1) (k / 32)
        { Cnt.zero with intsat := (z.1.sat.filter id).length, nan := z.2 }
      if bit w 25 then
        drainRows (setStk s k { x1 with tile := some t, ckpt := some (ckptOf x1.vec) }) k m.word ints z.1.acc
      else if parity then mismatch (setStk s k { x1 with tile := some t }) k
      else
        let s := drainRows s k m.word ints z.1.acc
        let s := bump (signalRuns s k t.runs) Reg.ISL_ARR_TILES (k / 32) 1
        if poison then failStk s k m.at_ else noteHold s (k / 32)
  | _, _ => s

/-- TILE_DRAIN (R61): where a tile is issued and none is unverified. -/
def execTileDrain (k : Nat) (ups : List Upset) (parity : Bool) (s : State) : Out :=
  onUnit (k < 1024) (live s (
    let x := stk s k
    match x.mt with
    | some m =>
      if mayRun s (k / 32) (.stake k [6]) && x.tile.isNone && !x.recomp then drainTile (pullStk s k) k m ups parity else s
    | none => s))

/-- The comparisons of a tile that are not made, counted (R42). -/
def countSkips (s : State) (k : Nat) (js : List Judge) : State :=
  count s (k / 32) { Cnt.zero with skip := (js.filter (· == Judge.skip)).length }

/-- The state as it stands but for mismatches of island `n` of the present cycle: stakes that recompute and have no replay
beat yet (R89, R177, assumption 85). -/
def unmet (s : State) (n : Nat) : State :=
  let met := fun (e : Nat × Stake) => decide (e.1 / 32 = n) && e.2.recomp && e.2.rep.all List.isEmpty
  { s with fab := { s.fab with stk := s.fab.stk.filter fun e => !met e } }

/-- A verdict of stake `k` may fall now: in round time, where nothing freezes the island but its own wait for a handle
queue, or a mismatch of the same cycle (R89, assumption 85). -/
def verdictMay (s : State) (k : Nat) : Bool := mayRun (unmet s (k / 32)) (k / 32) (.stake k [7])

/-- The verdict on stake `k`'s tile (R63 to R66). `parity` is a parity error in the holding buffer. Where no tile is unverified, releases
that still wait for room in a handle queue are tried again (R85). -/
def tileVerdict (k : Nat) (parity : Bool) (s : State) : Out :=
  onUnit (k < 1024) (live s (
    let x := stk s k
    if x.recomp || !verdictMay s k then s
    else match x.tile with
    | some t =>
      let js := judgements t.word t.ints (x.sets.getD t.set .zero) x.mode
      let s := countSkips s k js
      if t.bad || parity || (firstFail js 0).isSome then
        mismatch (setStk s k { stk s k with tile := some { t with bad := t.bad || parity } }) k
      else passTile s k t
    | none => if x.relq.isEmpty then s else noteHold (runRels k x.relq s) (k / 32)))

/-- TILE_VERDICT (R63). -/
def execTileVerdict (u : Marked) (s : State) : Out := tileVerdict u.no u.bad s

/-- A recompute ends (R64, R65): the tile has been rerun from the replayed operands, which are there, and is judged again.
`ups` are errors of the array, `parity` a parity error in the B buffer or the side replay buffer. -/
def recomputed (k : Nat) (ups : List Upset) (parity : Bool) (s : State) : Out :=
  onUnit (k < 1024) (live s (
    let x := stk s k
    match x.tile with
    | none => s
    | some t =>
      let w := t.word.toNat
      if !x.recomp || !inRounds s (k / 32) then s
      else match feedA w (x.rep.getD 0 []), bPanel x (!t.tookB) w (x.rep.getD 1 []) with
      | some fa, some fb =>
        let z := (tileSet w fa fb ups).1
        let t := { t with bad := fa.bad || fb.bad || parity }
        let x := { x with sets := setAt x.sets t.set z, tile := some t, rep := [[], [], [], []]
                          bhold := if bit w 26 then some (panelKey false w, fb.els, fb.scales) else x.bhold }
        let js := if bit w 25 then judgements t.word t.ints z x.mode else []
        let s := countSkips (setStk s k x) k js
        if t.bad || (firstFail js 0).isSome then secondEvent (checkEvent s (k / 32)) k
        else
          let s := bump s Reg.ISL_CHK_RECOMP (k / 32) 1
          let s := setStk s k { stk s k with tile := none, ckpt := none, recomp := false, frz := 0 }
          passTile (drainRows s k t.word t.ints z.acc) k t
      | _, _ => s))

/-- RECOMPUTE_DONE (R64). -/
def execRecomputeDone (u : Marked) (ups : List Upset) (s : State) : Out := recomputed u.no ups u.bad s

/-! ### Handles -/

/-- The low 12 bits of the epoch of the command that runs on an island (R171). -/
def runEpoch (s : State) (n : Nat) : Nat :=
  match invOf s (bindOf s n) (isl s n).newWeave with
  | some v => v.gen % 4096
  | none => 0

/-- The oldest handle the bushel on side `d` of stake `k` holds for it. -/
def handleFor (s : State) (k d : Nat) : Option Nat :=
  match bshAt k d with
  | some b => ((bsh s b).hq.find? fun e => e.2 == opposite d).map Prod.fst
  | none => none

/-- A handle of another epoch met at a position of island `n`: the weave stops (R171). -/
def foreignStop (s : State) (n pos : Nat) : State := stopIsl (runFault s (bindOf s n) 0x26 (isl s n).wrel pos 0) n 0x26 0

/-- Stake `k` meets a foreign handle: it stays where it is (R171). -/
def foreignStk (s : State) (k : Nat) : State :=
  foreignStop (stkFault s k 3 (stk s k).pc 0 0 0 0 0) (k / 32) (8 * (posOf (k % 32) true).1 + (posOf (k % 32) true).2)

/-- WAITH (R85, R100, R171): takes the oldest handle the bushel at DIR holds for this stake. A foreign handle that meets
a check mismatch of the same cycle stops the weave all the same (R177). -/
def execWaith (k : Nat) (s : State) : Out :=
  let d := bits (curWord s k) 56 2
  let strange := match handleFor s k d with | some h => decide (bits h 16 12 ≠ runEpoch s (k / 32)) | none => false
  if strange && !stkAtOp s k 0x08 && stkAtOp (unmet s (k / 32)) k 0x08 then
    onUnit (k < 1024) (live s (foreignStk s k))
  else onStake s k 0x08 fun s =>
  let x := stk s k
  match bshAt k d with
  | none => s
  | some b =>
    let y := bsh s b
    let me := opposite d
    match handleFor s k d with
    | none => if bit x.mode 0 then s else stkFreeze s k 5
    | some h =>
      if strange then foreignStk s k
      else
        let s := setBsh s b { y with hq := y.hq.erase (h, me), took := setAt y.took me (some h) }
        stkNext (setStk s k { x with hand := setAt x.hand d (x.hand.getD d [] ++ [h]) }) k

/-- RELH (R85): returns or forwards the oldest handle the stake holds from DIR; at the tile's verdict where an unverified
tile held it when it drained (R63); waits while the target queue is full (code 7 of R78). -/
def execRelh (k : Nat) (s : State) : Out := onStake s k 0x09 fun s =>
  let x := stk s k
  let w := curWord s k
  let d := bits w 56 2
  let td := bits w 54 2
  let fwd := bit w 53
  let waits := (x.relq.filter fun r => r.2.1 = d).length
  match (x.hand.getD d [])[waits]? with
  | none => stkNext s k
  | some h =>
    let kept := match x.tile with | some t => (t.hands.getD d []).contains h | none => false
    if kept || !x.relq.isEmpty then stkNext (setStk s k { x with relq := x.relq ++ [(h, d, td, fwd)] }) k
    else match releaseHandle s k h d td fwd with
      | some s => stkNext s k
      | none => if bit x.mode 0 then s else stkFreeze s k 7

end Sys2Proof.Machine
end

