-- ==== Sys2Proof/Machine/TallyExec.lean ====
section
/-! DEFINITION. Bushels (R91 to R122): rings, buffers and handles, tally programs, off-chip requests up to the porter,
replay, parity. A command names the bushel and the engine whose next word is executed. -/

namespace Sys2Proof.Machine

/-! ### Rings -/

/-- Fields of a ring descriptor (R96). -/
def Ring.base (r : Ring) : Nat := bits r.desc.toNat 0 15 * 64
def Ring.slotSz (r : Ring) : Nat := bits r.desc.toNat 16 14 * 64
def Ring.nslot (r : Ring) : Nat := bits r.desc.toNat 30 7

/-- SRAM address of slot `i`. -/
def Ring.slotAddr (r : Ring) (i : Nat) : Nat := r.base + i * r.slotSz

/-- A ring at the start of an invocation: every slot free, head and tail zero (R96). -/
def freshRing (d : DWord) : Ring := ⟨d, List.replicate (bits d.toNat 30 7) Slot.fresh, 0, 0⟩

/-- Two byte ranges meet. -/
def overlap (a n b m : Nat) : Bool := decide (a < b + m) && decide (b < a + n)

/-- Something is still to land in an SRAM range: a fetch not yet landed, or a write run in progress (R97, R110). -/
def rangeBusy (y : Bushel) (a n : Nat) : Bool :=
  y.reqs.any (fun q => !q.store && overlap q.sram q.len a n) ||
  y.wr.any (fun l => l.any fun r => overlap r.addr (r.width * r.left) a n)

/-- Slots whose producer has released them and whose data has all landed become full; refetches end when landed
(R97, R117). -/
def settleRing (y : Bushel) (r : Ring) : Ring :=
  { r with slots := r.slots.zipIdx.map fun p =>
      let busy := rangeBusy y (r.slotAddr p.2) r.slotSz
      let z := if p.1.refetch && !busy then { p.1 with refetch := false } else p.1
      match z.st with
      | .filling _ => if z.relp && !busy then { z with st := .full, relp := false } else z
      | _ => z }

/-- All rings of a bushel settled. -/
def settle (y : Bushel) : Bushel := { y with rings := y.rings.map (settleRing y) }

/-- Slot numbers from `start` round the ring, oldest first. -/
def ringOrder (r : Ring) (start : Nat) : List Nat := (List.range r.slots.length).map fun i => (start + i) % r.slots.length

/-- The first slot from `start` that `p` accepts. -/
def oldestSlot (r : Ring) (start : Nat) (p : Slot → Bool) : Option Nat :=
  (ringOrder r start).find? fun i => p (r.slots.getD i Slot.fresh)

/-- Slot `i` changed. -/
def Ring.put (r : Ring) (i : Nat) (z : Slot) : Ring := { r with slots := setAt r.slots i z }

/-- Ring and slot that hold an SRAM address. -/
def slotOf (y : Bushel) (a : Nat) : Option (Nat × Nat) :=
  match y.rings.findIdx? (fun r => decide (r.slots.length > 0) && decide (r.base ≤ a) &&
      decide (a < r.base + r.nslot * r.slotSz)) with
  | some i => (y.rings[i]?).map fun r => (i, (a - r.base) / r.slotSz)
  | none => none

/-- Freeze code of a wait on an SRAM range (R115): held request, refetch, throttle, or memory. -/
def waitCode (y : Bushel) (a n : Nat) (refetch : Bool) : Nat :=
  let q := y.reqs.filter fun q => !q.store && overlap q.sram q.len a n
  if q.any (fun q => q.st == .held) then 1
  else if refetch then 2
  else if q.any (fun q => q.throttled) then 3 else 4

/-! ### Engines -/

/-- Engine `e` of a bushel. -/
def eng (y : Bushel) (e : Nat) : Tally := y.eng.getD e Tally.idle

/-- Engine `e` changed. -/
def setEng (y : Bushel) (e : Nat) (t : Tally) : Bushel := { y with eng := setAt y.eng e t }

/-- Register `i` of engine `e`. -/
def xreg (y : Bushel) (e i : Nat) : Nat := (eng y e).x.getD i 0

/-- Register `i` of engine `e` takes `v`, modulo 2^64 (R103). -/
def setX (y : Bushel) (e i v : Nat) : Bushel :=
  let t := eng y e
  setEng y e { t with x := setAt t.x i (v % 2 ^ 64) }

/-- The engine is stream-side (R95, R102). -/
def streamSide (y : Bushel) (e : Nat) : Bool := bit y.mode e

/-- The engine's word at its program counter. -/
def tallyWord (s : State) (b e : Nat) : Nat := (bshWord s b e (eng (bsh s b) e).pc).toNat

/-- Engine `e` stands at a word of opcode `op` and may run it: a fabric-side engine in round time, a stream-side one
whenever the invocation is on (R102, R115, R138). -/
def tallyAt (s : State) (b e op : Nat) : Bool :=
  let y := bsh s b
  !(eng y e).ended && decide (bits (tallyWord s b e) 58 6 = op) &&
  (if streamSide y e then (isl s (b / 32)).released && !(isl s (b / 32)).stopped else mayRun s (b / 32) (.bushel b e))

/-- A tally command: the unit exists; it changes nothing where the word is another. -/
def onTally (s : State) (b e op : Nat) (f : State → State) : Out :=
  onUnit (decide (b < 1024) && decide (e < 2)) (live s (if tallyAt s b e op then f s else s))

/-- The engine's own freeze ends; a stream-side one has none (R102, R115). -/
def engThaw (y : Bushel) (e : Nat) : List Nat := if streamSide y e then y.frz else setAt y.frz e 0

/-- The engine moves past its word, and its own freeze ends. -/
def tallyNext (s : State) (b e : Nat) : State :=
  let y := bsh s b
  let t := eng y e
  let n := nextPc t.pc t.loops
  noteHold (setBsh s b { setEng y e { t with pc := n.1, loops := n.2 } with frz := engThaw y e }) (b / 32)

/-- Bushel state changed and the engine moved on. -/
def tallyDone (s : State) (b e : Nat) (y : Bushel) : State := tallyNext (setBsh s b y) b e

/-- The engine cannot take its step: a fabric-side one freezes the bushel, a stream-side one waits (R102, R115). -/
def tallyWait (s : State) (b e code : Nat) : State := if streamSide (bsh s b) e then s else bshFreeze s b e code

/-- A run fault: recorded, the weave stopped, the command failed (R107). -/
def tallyFault (s : State) (b e cause addr : Nat) : State :=
  stopIsl (bshFault s b cause e (eng (bsh s b) e).pc addr) (b / 32) 0x29 cause

def execTallyNop (b e : Nat) (s : State) : Out := onTally s b e 0x00 fun s => tallyNext s b e

/-- SETI (R104). -/
def execSeti (b e : Nat) (s : State) : Out := onTally s b e 0x01 fun s =>
  let w := tallyWord s b e
  tallyDone s b e (setX (bsh s b) e (bits w 55 3) (toField 64 (sext 32 (bits w 0 32))))

/-- SETV (R103, R104). -/
def execSetv (b e : Nat) (s : State) : Out := onTally s b e 0x02 fun s =>
  let w := tallyWord s b e
  tallyDone s b e (setX (bsh s b) e (bits w 55 3) (vword s (b / 32) (bits w 0 4)).toNat)

/-- ADDI (R104). -/
def execAddi (b e : Nat) (s : State) : Out := onTally s b e 0x03 fun s =>
  let w := tallyWord s b e
  let y := bsh s b
  tallyDone s b e (setX y e (bits w 55 3) (xreg y e (bits w 52 3) + toField 64 (sext 32 (bits w 0 32))))

/-- MADD (R104). -/
def execMadd (b e : Nat) (s : State) : Out := onTally s b e 0x04 fun s =>
  let w := tallyWord s b e
  let y := bsh s b
  tallyDone s b e (setX y e (bits w 55 3) (xreg y e (bits w 52 3) + xreg y e (bits w 49 3) * bits w 0 16))

/-- Bytes of a bushel's SRAM (R93). -/
def sramBytes : Nat := 0x180000

/-- LOOP (R103, R107, R164). -/
def execTallyLoop (b e : Nat) (s : State) : Out := onTally s b e 0x06 fun s =>
  let w := tallyWord s b e
  let y := bsh s b
  let n := if bit w 51 then xreg y e (bits w 48 3) else bits w 0 24
  if bit w 51 ∧ n > bits w 0 24 then tallyFault s b e 3 0
  else
    let t := eng y e
    let r := enterLoop t.pc (bits w 52 6) n t.loops
    noteHold (setBsh s b { setEng y e { t with pc := r.1, loops := r.2 } with frz := engThaw y e }) (b / 32)

/-- ACQ (R97, R104, R115). -/
def execAcq (b e : Nat) (s : State) : Out := onTally s b e 0x07 fun s =>
  let w := tallyWord s b e
  let y := bsh s b
  let n := bits w 55 3
  match y.rings[n]? with
  | none => s
  | some r =>
    if bit w 54 then
      let z := r.slots.getD r.head Slot.fresh
      if z.st == .full && !z.refetch then
        let i := r.head
        let r := { r.put i { z with st := .draining e } with head := (i + 1) % r.nslot }
        tallyDone s b e (setX { y with rings := setAt y.rings n r } e (bits w 51 3) (r.slotAddr i))
      else tallyWait s b e (waitCode y (r.slotAddr r.head) r.slotSz z.refetch)
    else
      let z := r.slots.getD r.tail Slot.fresh
      if z.st == .free then
        let i := r.tail
        let r := { r.put i { Slot.fresh with st := .filling e } with tail := (i + 1) % r.nslot }
        tallyDone s b e (setX { y with rings := setAt y.rings n r } e (bits w 51 3) (r.slotAddr i))
      else
        let held := y.reqs.any fun q => q.store && q.st == .held && overlap q.sram q.len (r.slotAddr r.tail) r.slotSz
        tallyWait s b e (if held then 1 else 5)

/-- REL (R97, R98). -/
def execRel (b e : Nat) (s : State) : Out := onTally s b e 0x08 fun s =>
  let w := tallyWord s b e
  let y := bsh s b
  let n := bits w 55 3
  match y.rings[n]? with
  | none => s
  | some r =>
    if bit w 54 then
      match oldestSlot r r.head (fun z => match z.st with | .draining _ => true | _ => false) with
      | none => tallyNext s b e
      | some i =>
        let z := r.slots.getD i Slot.fresh
        let z := if z.verdicts.isEmpty then Slot.fresh else { z with st := .retained }
        tallyDone s b e { y with rings := setAt y.rings n (r.put i z) }
    else
      match oldestSlot r r.tail (fun z => z.st == .filling e && !z.relp) with
      | none => tallyNext s b e
      | some i =>
        let z := { r.slots.getD i Slot.fresh with relp := true }
        tallyDone s b e (settle { y with rings := setAt y.rings n (r.put i z) })

/-! ### Reads and writes of the SRAM -/

/-- Bytes of a W code (R105). -/
def widthOf (c : Nat) : Nat := 16 * 2 ^ c

/-- Stakes a switch input reaches inside the island from slot `sl` (R112, R128, R146). -/
def destsFrom (s : State) (n len : Nat) : Nat → Nat → Nat → Nat → List Nat
  | 0, _, _, _ => []
  | f + 1, pos, code, sl =>
    let row := (slotRow s (64 * n + pos) sl).toNat
    (List.range 8).flatMap fun o =>
      if bits row (4 * o) 4 = code then
        if o ≥ 4 then (if isStakePos (pos / 8) (pos % 8) then [32 * n + localOf (pos / 8) (pos % 8)] else [])
        else match stepPos (pos / 8) (pos % 8) o with
          | some (r, c) => destsFrom s n len f (8 * r + c) (1 + opposite o) ((sl + 1) % len)
          | none => []
      else []

/-- Stakes the route behind an output port of bushel `b` feeds. -/
def portStakes (s : State) (b port : Nat) : List Nat :=
  let n := b / 32
  let p := posOf (b % 32) false
  let len := rd s Reg.ISL_FAB_SLOT_LEN n + 1
  ((List.range len).flatMap fun sl => destsFrom s n len 64 (8 * p.1 + p.2) (5 + port) sl).eraseDups

/-- One byte as an RD sends it (R114). -/
def padByte (s : State) (b : Nat) (pad : Bool) (xl a : Nat) : Nat :=
  if pad && decide (xl ≤ a) then bits (bsh s b).padv (8 * (a % 4)) 8 else sramRead s b a 1

/-- `n` bytes from `a` as an RD sends them. -/
def readPad (s : State) (b : Nat) (pad : Bool) (xl a n : Nat) : Nat :=
  leNum ((List.range n).map fun i => padByte s b pad xl (a + i))

/-- The first byte with bad parity in an SRAM range. -/
def badByte (s : State) (b a n : Nat) : Option Nat :=
  ((s.fab.badPar.find? fun e => decide (2 ^ 21 * b + a ≤ e.1) && decide (e.1 < 2 ^ 21 * b + a + n) && e.2)).map
    fun e => e.1 - 2 ^ 21 * b

/-- The slot that holds an SRAM address, as it stands. -/
def slotAt (y : Bushel) (a : Nat) : Option Slot :=
  (slotOf y a).bind fun p => y.rings[p.1]?.map fun r => r.slots.getD p.2 Slot.fresh

/-- Every read-only fetch of a slot is asked for again, by the engine and through the porter it came (R117). -/
def refetch (y : Bushel) (n i : Nat) : Bushel :=
  match y.rings[n]? with
  | none => y
  | some r =>
    let z := r.slots.getD i Slot.fresh
    let new := z.src.zipIdx.map fun p =>
      ({ id := y.reqNext + p.2, eng := p.1.2.2.2.1, store := false, da := p.1.1, sram := p.1.2.1, len := p.1.2.2.1,
         porter := p.1.2.2.2.2, ro := true, st := .eligible, throttled := false, sent := 0, data := 0 } : Req)
    { y with rings := setAt y.rings n (r.put i { z with refetch := true }), reqs := y.reqs ++ new,
             reqNext := y.reqNext + new.length }

/-- A parity error met by a read at SRAM byte `a`, on behalf of engine `e` (R117). In a slot its read-only fetches can
fill again, the slot is refetched, once, and `wait` says how the reader waits; any other fails the command. -/
def parityHit (s : State) (b e a : Nat) (wait : State → Nat → State) : State :=
  let y := bsh s b
  match slotOf y a, slotAt y a with
  | some (n, i), some z =>
    if z.refetch then
      let r := y.rings.getD n ⟨0, [], 0, 0⟩
      wait s (waitCode y (r.slotAddr i) r.slotSz true)
    else
      let s := bump s Reg.ISL_BSH_PAR (b / 32) 1
      if z.src.isEmpty then failEvent (bshFault s b 1 e (eng y e).pc a) (b / 32) 0x29 1
      else wait (setBsh (bump s Reg.ISL_BSH_REFETCH (b / 32) 1) b (refetch y n i)) 2
  | _, _ =>
    let s := bump s Reg.ISL_BSH_PAR (b / 32) 1
    failEvent (bshFault s b 1 e (eng y e).pc a) (b / 32) 0x29 1

/-- LDX (R104, R107, R117). -/
def execLdx (b e : Nat) (s : State) : Out := onTally s b e 0x05 fun s =>
  let w := tallyWord s b e
  let y := bsh s b
  let a := (xreg y e (bits w 52 3) + bits w 0 21) % 2 ^ 64
  if a % 8 ≠ 0 ∨ a + 8 > sramBytes then tallyFault s b e 4 a
  else match badByte s b a 8 with
    | some x => parityHit s b e x fun s c => tallyWait s b e c
    | none => tallyDone s b e (setX y e (bits w 55 3) (sramRead s b a 8))

/-- RD (R92, R98, R103 to R105, R114): a run on its port's sequencer, which holds one in progress and one queued; the
engine waits while that is full. Its beats are made as the switch takes them. A beat lies where its address says, in one
line or not (assumption 86). `bad` is an SRAM byte the environment has given wrong parity. -/
def execRd (b e : Nat) (bad : Option Nat) (s : State) : Out := onTally s b e 0x09 fun s =>
  let w := tallyWord s b e
  let y := bsh s b
  let port := bits w 56 2
  let width := widthOf (bits w 50 2)
  let n := bits w 12 16
  let a := (xreg y e (bits w 52 3) + bits w 28 21) % 2 ^ 64
  let xl := xreg y e (bits w 9 3)
  let pad := bit w 8
  if a + width * n > sramBytes then tallyFault s b e 7 (min a (2 ^ 21 - 1))
  else if (y.rd.getD port []).length ≥ 2 then s
  else
    let s := match bad with | some x => setPar s b x true | none => s
    let t := eng y e
    let keep := bit w 49
    let run : RdRun := ⟨e, if keep then some t.runs else none, a, width, n, xl, pad, false, false⟩
    let y := { y with rd := setAt y.rd port (y.rd.getD port [] ++ [run]) }
    let y := if keep then
        let recs := t.recs ++ [(⟨t.runs, port, a, width, n, xl, pad⟩ : RdRec)]
        let y := setEng y e { t with recs := recs.drop (recs.length - 8), runs := t.runs + 1 }
        match slotOf y a with
        | some (k, i) => match y.rings[k]? with
          | some r =>
            let z := r.slots.getD i Slot.fresh
            let owed := (portStakes s b port).map fun k => (e, t.runs, k)
            { y with rings := setAt y.rings k (r.put i { z with verdicts := z.verdicts ++ owed }) }
          | none => y
        | none => y
      else y
    tallyDone s b e y

/-- Port whose sequencer feeds output port `p`: its own, or the lower port of a pair (R92). -/
def feedPort (runs : List (List RdRun)) (p : Nat) : Nat :=
  if (runs.getD p []).isEmpty && p % 2 = 1 && ((runs.getD (p - 1) []).any fun r => decide (r.width = 128)) then p - 1 else p

/-- The beats of a run's next `width` bytes, by port. -/
def runBeats (s : State) (b p : Nat) (r : RdRun) : List (Nat × Beat) :=
  let d := readPad s b r.pad r.xl r.addr r.width
  let org := r.no.map fun k => (b, r.eng, k)
  if r.width = 128 then [(p, { mkBeat d r.rpl with org := org }), (p + 1, { mkBeat (d / 2 ^ 512) r.rpl with org := org })]
  else [(p, { mkBeat d r.rpl with org := org })]

/-- The run moved on by one beat, away when it is done. -/
def RdRun.next (r : RdRun) (t : List RdRun) : List RdRun :=
  if r.left ≤ 1 then t else { r with addr := r.addr + r.width, left := r.left - 1, refetch := false } :: t

/-- A sequencer makes the next beat of its run for output port `q`, where none is ready: read, padded and checked (R114,
R117); a replay's beats stand apart (R116). A read that meets a slot under refetch waits with code 2. -/
def rdMake (s : State) (b q : Nat) (rpl : Bool) : State :=
  let y := bsh s b
  let runs := if rpl then y.rpl else y.rd
  let ready := if rpl then y.rplq else y.outq
  let p := feedPort runs q
  if !(ready.getD q []).isEmpty then s
  else match runs.getD p [] with
  | [] => s
  | r :: t =>
    match badByte s b r.addr r.width with
    | some a => parityHit s b r.eng a fun s c => bshFreeze s b 2 c
    | none =>
      let l := runBeats s b p r
      let pads := oneIf (r.pad && decide (r.xl < r.addr + r.width))
      let y := if rpl then { y with rpl := setAt y.rpl p (r.next t), rplq := pushOut y.rplq l }
        else { y with rd := setAt y.rd p (r.next t), outq := pushOut y.outq l }
      let s := setBsh (bump s Reg.ISL_BSH_PAD (b / 32) pads) b { y with frz := setAt y.frz 2 0 }
      noteHold s (b / 32)

/-- 64-bit groups of a beat whose DP bit does not fit its data, all eight when CP does not fit (R125, R149). PSN is 0 in a
beat that is still checked, and counts as 0 in one marked earlier, whose CP its emitter formed with PSN 0. -/
def badGroups (x : Beat) : Nat :=
  let c := x.ctl.toNat
  let dp := (List.range 8).filter fun m => parityOf (bits x.data.toNat (64 * m) 64) 64 ≠ bits c (4 + m) 1
  let cp := (parityOf (bits c 0 2) 2 + parityOf (bits c 12 4) 4) % 2
  if bits c 3 1 ≠ cp then 255 else ofBits dp

/-- A beat's bytes written to the SRAM; a poisoned beat's failing groups take wrong parity (R149). -/
def writeBeat (s : State) (b a w : Nat) (x : Beat) : State :=
  let s := sramWrite s b a (min w 64) x.data.toNat
  if x.psn then
    (List.range (min w 64)).foldl (fun s i => if (badGroups x).testBit (i / 8) then setPar s b (a + i) true else s) s
  else s

/-- The write run on a port goes on while beats are there (R104, R105). -/
def wrPump : Nat → State → Nat → Nat → State
  | 0, s, _, _ => s
  | f + 1, s, b, p =>
    let y := bsh s b
    match y.wr.getD p [] with
    | [] => s
    | r :: t =>
      let rest (r : WrRun) := if r.left ≤ 1 then t else { r with addr := r.addr + r.width, left := r.left - 1 } :: t
      if r.width = 128 then
        match nextBeat (y.inq.getD p []), nextBeat (y.inq.getD (p + 1) []) with
        | some (x0, q0), some (x1, q1) =>
          let s := setBsh s b { y with wr := setAt y.wr p (rest r), inq := setAt (setAt y.inq p q0) (p + 1) q1 }
          let s := writeBeat (writeBeat s b r.addr 64 x0) b (r.addr + 64) 64 x1
          wrPump f (setBsh s b (settle (bsh s b))) b p
        | _, _ => s
      else
        match nextBeat (y.inq.getD p []) with
        | some (x, q) =>
          let s := setBsh s b { y with wr := setAt y.wr p (rest r), inq := setAt y.inq p q }
          wrPump f (setBsh (writeBeat s b r.addr r.width x) b (settle (bsh s b))) b p
        | none => s

/-- The write runs of a port go as far as their beats allow. -/
def wrGo (s : State) (b p : Nat) : State :=
  let s := pullBsh s b
  wrPump (((bsh s b).inq.getD p []).length + 1) s b p

/-- A write makes its slot one that a refetch cannot restore (R117). -/
def noSrc (y : Bushel) (a : Nat) : Bushel :=
  match slotOf y a with
  | some (k, i) => match y.rings[k]? with
    | some r => { y with rings := setAt y.rings k (r.put i { r.slots.getD i Slot.fresh with src := [] }) }
    | none => y
  | none => y

/-- WR (R103 to R105, R107): a run on its port's sequencer, which holds one in progress and one queued. -/
def execWr (b e : Nat) (s : State) : Out := onTally s b e 0x0A fun s =>
  let w := tallyWord s b e
  let y := bsh s b
  let p := bits w 56 2
  let width := widthOf (bits w 50 2)
  let n := bits w 12 16
  let a := (xreg y e (bits w 52 3) + bits w 28 21) % 2 ^ 64
  if a + width * n > sramBytes then tallyFault s b e 7 (min a (2 ^ 21 - 1))
  else
    let q := y.wr.getD p []
    if q.length ≥ 2 then s
    else
      let y := noSrc { y with wr := setAt y.wr p (q ++ [⟨e, a, width, n⟩]) } a
      wrGo (tallyDone s b e y) b p

/-! ### Off-chip requests -/

/-- A request has not been issued (R108). -/
def Req.unissued (q : Req) : Bool := q.st == .open_ || q.st == .eligible

/-- A new request joins the newest unissued one (R109). -/
def canMerge (y : Bushel) (l q : Req) : Bool :=
  bit y.mode 3 && l.eng == q.eng && l.store == q.store &&
  l.porter == q.porter && l.ro == q.ro && l.da + l.len == q.da && l.sram + l.len == q.sram &&
  decide (l.len + q.len ≤ 65536) && decide (l.da / 65536 = (l.da + l.len + q.len - 1) / 65536)

/-- One request of a queue changed, by its number. -/
def setReq (l : List Req) (q : Req) : List Req := l.map fun x => if x.id = q.id then q else x

/-- A request enters the queue (R108, R109): merged into the newest unissued one, or appended; an open one it could not
join becomes eligible. The second result says it merged. -/
def enqueue (y : Bushel) (q : Req) : Bushel × Bool :=
  match (y.reqs.filter Req.unissued).getLast? with
  | some l =>
    if canMerge y l q then
      let m := { l with len := l.len + q.len, st := if l.len + q.len ≥ 4096 then .eligible else l.st }
      ({ y with reqs := setReq y.reqs m }, true)
    else
      ({ y with reqs := setReq y.reqs { l with st := .eligible } ++ [q], reqNext := y.reqNext + 1 }, false)
  | none => ({ y with reqs := y.reqs ++ [q], reqNext := y.reqNext + 1 }, false)

/-- Entries of the request queue in use: requests not issued, and held ones, which stay in place (R108, R111, R120). -/
def queued (y : Bushel) : Nat := (y.reqs.filter fun q => q.unissued || q.st == .held).length

/-- FETCH and STORE (R104, R107 to R109). -/
def offChip (s : State) (b e : Nat) (store : Bool) : State :=
  let w := tallyWord s b e
  let y := bsh s b
  let len := bits w 32 11 * 64
  let a := toField 64 ((xreg y e (bits w 55 3) : Int) + sext 32 (bits w 0 32)) % 2 ^ 52
  let m := xreg y e (bits w 52 3)
  if m + len > sramBytes then tallyFault s b e 7 (min m (2 ^ 21 - 1))
  else if queued y ≥ 64 then s
  else
    let ro := !store && bit w 50
    let q : Req := { id := y.reqNext, eng := e, store := store, da := a, sram := m, len := len,
                     porter := 2 * (b / 32 / 8) + bits w 51 1, ro := ro,
                     st := if len ≥ 4096 ∨ !bit y.mode 3 then .eligible else .open_, throttled := false, sent := 0, data := 0 }
    let r := enqueue y q
    let y := if store then r.1
      else match slotOf r.1 m with
        | some (k, i) => match r.1.rings[k]? with
          | some g =>
            let z := g.slots.getD i Slot.fresh
            { r.1 with rings := setAt r.1.rings k (g.put i { z with
                src := if ro && (z.src.length > 0 || !rangeBusy y (g.slotAddr i) g.slotSz) then z.src ++ [(a, m, len, e, q.porter)]
                       else [] }) }
          | none => r.1
        | none => r.1
    let s := if r.2 then bump s Reg.ISL_BSH_MERGE (b / 32) 1 else s
    tallyDone s b e y

def execFetch (b e : Nat) (s : State) : Out := onTally s b e 0x0B fun s => offChip s b e false
def execStore (b e : Nat) (s : State) : Out := onTally s b e 0x0C fun s => offChip s b e true

/-- MERGE_WAIT_EXPIRY (R109): the request's wait is over. -/
def execMergeWaitExpiry (b q : Nat) (s : State) : Out :=
  onUnit (b < 1024) (live s (
    let y := bsh s b
    setBsh s b { y with reqs := y.reqs.map fun r => if r.id = q ∧ r.st = .open_ then { r with st := .eligible } else r }))

/-- ARRIVAL_LAND (R94, R97, R110): the bytes a porter brought are written, and slots they complete become full. -/
def execArrivalLand (b q : Nat) (s : State) : Out :=
  onUnit (b < 1024) (live s (
    let y := bsh s b
    match y.reqs.find? (fun r => r.id == q && !r.store && r.st == .carried) with
    | none => s
    | some r =>
      let s := sramWrite s b r.sram r.len r.data
      let y := settle { y with reqs := y.reqs.filter fun x => !(x.id == q) }
      let busy := y.rings.any fun r => r.slots.any Slot.refetch
      -- a sequencer that waited for a refetch goes on
      let y := if y.frz.getD 2 0 ≤ 4 && !busy then { y with frz := setAt y.frz 2 0 } else y
      noteHold (setBsh s b y) (b / 32)))

/-- STORE_ACK (R110): a store is acknowledged. -/
def execStoreAck (b q : Nat) (s : State) : Out :=
  onUnit (b < 1024) (live s (
    let y := bsh s b
    if s.skl.reqs.any fun x => x.write && x.owner == some (.bushel b q) then s
    else setBsh s b (settle { y with reqs := y.reqs.filter fun r => !(r.id == q && r.store && r.st == .carried) })))

/-! ### Handles -/

/-- Weave-relative number of bushel `b` (R91). -/
def relNo (s : State) (b : Nat) : Nat := 32 * (isl s (b / 32)).wrel + b % 32
/-- HPUSH (R100, R101, R105, R107). -/
def execHpush (b e : Nat) (s : State) : Out := onTally s b e 0x0D fun s =>
  let w := tallyWord s b e
  let y := bsh s b
  let dest := bits w 52 3
  let h := xreg y e (bits w 55 3) % 2 ^ 32
  if dest < 4 ∧ bits h 0 10 ≠ relNo s b then tallyFault s b e 6 0
  else if y.hq.length ≥ 16 then tallyWait s b e 7
  else
    let h := if dest ≥ 4 then putBits h 28 1 (dest % 2) else h
    tallyDone s b e { y with hq := y.hq ++ [(h, dest)] }

/-- Engine `e` of bushel `b` meets a foreign handle: it stays where it is (R171). -/
def foreignBsh (s : State) (b e : Nat) : State :=
  foreignStop (bshFault s b 2 e (eng (bsh s b) e).pc 0) (b / 32) (8 * (posOf (b % 32) false).1 + (posOf (b % 32) false).2)

/-- The handle an HTAKE word finds to take, where it takes one that exists already (R105). -/
def takeFor (s : State) (b e : Nat) : Option Nat :=
  let w := tallyWord s b e
  match bits w 50 2 with
  | 0 => ((bsh s b).hq.find? fun p => p.2 == 4 + e).map Prod.fst
  | 1 => none
  | _ => (bsh s b).took.getD (bits w 48 2) none

/-- A take of handle `h`: registers set, epoch judged (R105, R171). -/
def takeHandle (s : State) (b e h : Nat) (y : Bushel) : State :=
  let w := tallyWord s b e
  if bits h 16 12 ≠ runEpoch s (b / 32) then foreignBsh s b e
  else
    let base := if bits h 0 10 = relNo s b then bits (y.bufs.getD (bits h 10 6) 0) 0 15 * 64 else 0
    tallyDone s b e (setX (setX y e (bits w 52 3) h) e (bits w 55 3) base)

/-- HTAKE (R99 to R101, R105, R171). A foreign handle that meets a check mismatch of the same cycle stops the weave all
the same (R177). -/
def execHtake (b e : Nat) (s : State) : Out :=
  let strange := match takeFor s b e with | some h => decide (bits h 16 12 ≠ runEpoch s (b / 32)) | none => false
  if strange && !tallyAt s b e 0x0E && tallyAt (unmet s (b / 32)) b e 0x0E then
    onUnit (decide (b < 1024) && decide (e < 2)) (live s (foreignBsh s b e))
  else onTally s b e 0x0E fun s =>
  let w := tallyWord s b e
  let y := bsh s b
  match bits w 50 2 with
  | 0 =>
    match y.hq.find? (fun p => p.2 == 4 + e) with
    | some p => takeHandle s b e p.1 { y with hq := y.hq.erase p }
    | none => tallyWait s b e 6
  | 1 =>
    match y.freeBufs with
    | n :: t =>
      let h := relNo s b + 2 ^ 10 * n + 2 ^ 16 * runEpoch s (b / 32)
      tallyDone s b e (setX (setX { y with freeBufs := t } e (bits w 52 3) h) e (bits w 55 3)
        (bits (y.bufs.getD n 0) 0 15 * 64))
    | [] => tallyWait s b e 6
  | _ =>
    let d := bits w 48 2
    match y.took.getD d none with
    | some h => takeHandle s b e h { y with took := setAt y.took d none }
    | none => tallyWait s b e 6

/-- The bushel that owns a handle's buffer (R99). -/
def ownerOf (s : State) (n h : Nat) : Nat :=
  match weaveOf s (bindOf s n) (isl s n).newWeave with
  | some w => 32 * w.place.getD (bits h 0 10 / 32) n + bits h 0 5
  | none => 32 * n + bits h 0 5

/-- HRET (R101, R104): the handle goes back to its owner on the control path. -/
def execHret (b e : Nat) (s : State) : Out := onTally s b e 0x0F fun s =>
  let w := tallyWord s b e
  let h := xreg (bsh s b) e (bits w 55 3) % 2 ^ 32
  let s := tallyNext s b e
  let o := ownerOf s (b / 32) h
  setBsh s o { bsh s o with rets := (bsh s o).rets ++ [h] }

/-- Inserts a number into an ascending list. -/
def insertAsc (n : Nat) : List Nat → List Nat
  | [] => [n]
  | m :: t => if n < m then n :: m :: t else if n = m then m :: t else m :: insertAsc n t

/-- A message of the control path that came with bad parity: one event, and the command fails (R146). -/
def pathError (s : State) (n : Nat) : State := failEvent s n 0x28 0

/-- A handle comes back (R99, R101, R146): a returned handle reaches its owner, and its buffer is free; an unused buffer index
enters no free list. `bad` says the message fails its parity. -/
def handleBack (b : Nat) (bad : Bool) (s : State) : Out :=
  onUnit (b < 1024) (live s (
    let y := bsh s b
    match y.rets with
    | h :: t =>
      let n := bits h 10 6
      let free := if (y.bufs.getD n 0) = 0 then y.freeBufs else insertAsc n y.freeBufs
      if bad then pathError (setBsh s b { y with rets := t }) (b / 32)
      else setBsh s b { y with rets := t, freeBufs := free }
    | [] => s))

/-- HANDLE_RETURN (R101). -/
def execHandleReturn (b : Marked) (s : State) : Out := handleBack b.no b.bad s

/-- SYNC (R104, R110). -/
def execTallySync (b e : Nat) (s : State) : Out := onTally s b e 0x10 fun s =>
  let w := tallyWord s b e
  let y := bsh s b
  let busy (st : Bool) := y.reqs.any fun q => q.eng == e && q.store == st
  if (bit w 57 && busy false) || (bit w 56 && busy true) then s else tallyNext s b e

/-- END (R104). -/
def execTallyEnd (b e : Nat) (s : State) : Out := onTally s b e 0x11 fun s =>
  let y := bsh s b
  noteHold (setBsh s b { setEng y e { eng y e with ended := true } with frz := engThaw y e }) (b / 32)

/-! ### Verdicts, replay, done -/

/-- The verdict of stake `k` on a tile that run `no` of engine `e` fed, at a slot: it is paid, and the slot free when it
was retained and owes no more (R98). -/
def paySlot (e no k : Nat) (z : Slot) : Slot :=
  if z.verdicts.contains (e, no, k) then
    let z := { z with verdicts := z.verdicts.erase (e, no, k) }
    if z.st == .retained && z.verdicts.isEmpty then Slot.fresh else z
  else z

/-- That verdict at every ring. -/
def payRun (k : Nat) (rings : List Ring) (run : Nat × Nat) : List Ring :=
  rings.map fun r => { r with slots := r.slots.map (paySlot run.1 run.2 k) }

/-- A verdict comes (R98, R121, R146): the oldest verdict stake `k` has sent this bushel arrives, and pays the slots its
tile read. `bad` says the message fails its parity. -/
def verdictCome (b k : Nat) (bad : Bool) (s : State) : Out :=
  onUnit (decide (b < 1024) && decide (k < 1024)) (live s (
    let y := bsh s b
    match y.sigs.find? (fun g => g.1 == k) with
    | none => s
    | some g =>
      let y := { y with sigs := y.sigs.erase g }
      if bad then pathError (setBsh s b y) (b / 32)
      else setBsh s b { y with rings := g.2.foldl (payRun k) y.rings }))

/-- VERDICT_SIGNAL (R98). -/
def execVerdictSignal (b : Nat) (u : Marked) (s : State) : Out := verdictCome b u.no u.bad s

/-- The replay runs of engine `e` from run `no` on, by port: each retained run as far as its beats have been sent (R116). -/
def replayRuns (y : Bushel) (e no : Nat) : List (Nat × RdRun) :=
  (eng y e).recs.filterMap fun r =>
    let left := match (y.rd.getD r.port []).find? (fun q => q.eng == e && q.no == some r.no) with
      | some q => q.left
      | none => 0
    if r.no < no ∨ r.beats ≤ left then none
    else some (r.port, ⟨e, some r.no, r.addr, r.width, r.beats - left, r.xl, r.pad, true, false⟩)

/-- A replay is asked for (R64, R116, R117, R146): the engine resends, marked as replay, every retained run from the first that fed
the stake's tile. A record no longer kept is a failed recompute. `bad` says the message fails its parity. -/
def replayAsked (b e k : Nat) (bad : Bool) (s : State) : Out :=
  onUnit (decide (b < 1024) && decide (e < 2) && decide (k < 1024)) (live s (
    let y := bsh s b
    let fed := match (stk s k).tile with | some t => t.runs | none => []
    let runs : List (Nat × Nat) := (runsOf fed b).filter fun r => r.1 = e
    if !(stk s k).recomp || !inRounds s (b / 32) || b / 32 ≠ k / 32 then s
    else match (runs.map (·.2)).min? with
    | none => s
    | some no =>
      if bad then pathError s (b / 32)
      else if !((eng y e).recs.any fun r => r.no == no) then
        secondEvent (checkEvent (bshFault s b 5 e (eng y e).pc 0) (b / 32)) k
      else
        let y := { y with rpl := (replayRuns y e no).foldl (fun q (p : Nat × RdRun) => setAt q p.1 (q.getD p.1 [] ++ [p.2])) y.rpl }
        bump (setBsh s b y) Reg.ISL_BSH_REPLAY (b / 32) 1))

/-- REPLAY_REQUEST (R116). -/
def execReplayRequest (b e : Nat) (u : Marked) (s : State) : Out := replayAsked b e u.no u.bad s

/-- The bushel may report done (R119): engines at END, every request landed or acknowledged, no slot retained, every
buffer in its free list. -/
def bushelIdle (y : Bushel) : Bool :=
  (eng y 0).ended && (eng y 1).ended && y.reqs.isEmpty && y.rets.isEmpty &&
  y.rings.all (fun r => r.slots.all fun z => !(z.st == .retained)) &&
  decide (y.freeBufs.length = (y.bufs.filter (· ≠ 0)).length)

/-- BUSHEL_DONE (R119). -/
def execBushelDone (b : Nat) (s : State) : Out :=
  onUnit (b < 1024) (live s (
    let y := bsh s b
    if bushelIdle y && (isl s (b / 32)).released then setBsh s b { y with reported := true } else s))

end Sys2Proof.Machine
end

