-- ==== Sys2Proof/Machine/FabricExec.lean ====
section
/-! DEFINITION. The rand fabric (R123 to R152): links, crossings, holds, rounds, the end of an invocation on an island
(R165 to R169). -/

namespace Sys2Proof.Machine

/-- The two islands lie on different dies (R131, R135). -/
def crossDie (a b : Nat) : Bool := decide (a / 8 ≠ b / 8)

/-- Working entries of a link: 24 of each of its crossings (R133, R135, R136). -/
def linkWork (a b : Nat) : Nat := if crossDie a b then 72 else 24

/-- Entries of a crossing, and its occupancy at which it signals FULL (R133). -/
def xingCap : Nat := 32
def xingFull : Nat := 24

/-- Entries a crossing holds. -/
def Crossing.occ (x : Crossing) : Nat := x.flight.length + x.avail.length

/-- The position across an edge: `(r, 7)` joins `(r, 0)`, `(7, c)` joins `(0, c)` (R131). -/
def acrossPos (pos d : Nat) : Nat :=
  match d with
  | 0 => 56 + pos % 8
  | 1 => 8 * (pos / 8)
  | 2 => pos % 8
  | _ => 8 * (pos / 8) + 7

/-- Both islands run the same weave, so the link between them is enabled (R132). -/
def linked (s : State) (a b : Nat) : Bool :=
  (isl s a).bind.isSome && decide ((isl s a).bind = (isl s b).bind) && (isl s a).newWeave == (isl s b).newWeave

/-- The link into switch `pos` of island `k` from direction `d`. -/
def linkKey (k pos d : Nat) : Nat := 4 * (64 * k + pos) + d

/-- The crossing of a link at a stage: 0 out of the sending island, 1 from rim to rim, 2 into the receiving island
(R135). -/
def xingKey (k pos d stage : Nat) : Nat := 3 * linkKey k pos d + stage

/-- The crossing a sender writes into: within a die, the one crossing of the link. -/
def firstStage (a b : Nat) : Nat := if crossDie a b then 0 else 2

/-- A condition of R139 holds at a switch: code, and the input, output or port it holds at. -/
def swBlock (s : State) (z code ix : Nat) : State :=
  if (sw s z).blk.contains (code, ix) then s else setSw s z { sw s z with blk := (sw s z).blk ++ [(code, ix)] }

/-- The condition holds no more. -/
def swClear (s : State) (z code ix : Nat) : State :=
  setSw s z { sw s z with blk := (sw s z).blk.filter (· ≠ (code, ix)) }

/-! ### Units at their ports (R144) -/

/-- The unit at a switch goes on with what has reached it. -/
def unitGo (s : State) (n pos p : Nat) : State :=
  let r := pos / 8
  let c := pos % 8
  if isStakePos r c then
    let k := 32 * n + localOf r c
    let s := pullStk s k
    let s := if (stk s k).vec.run.isSome then vecGo s k else s
    if (stk s k).byp.isSome then bypGo s k else s
  else
    let b := 32 * n + localOf r c
    let s := wrGo s b p
    if p % 2 = 1 then wrGo s b (p - 1) else s

/-- Beats with data the unit at a position still needs on input port `p`, as its instructions stand. -/
def unitWants (s : State) (n pos p : Nat) : Nat :=
  let r := pos / 8
  let c := pos % 8
  if isStakePos r c then stkWants (stk s (32 * n + localOf r c)) p else bshWants (bsh s (32 * n + localOf r c)) p

/-- Dry code of a stake that needs a beat on port `p` and has none (R78). -/
def dryCode (x : Stake) (p : Nat) : Nat :=
  if x.mt.isSome && p = 0 then 2
  else if (x.mt.isSome || (match x.byp with | some y => y.rows.isNone | none => false)) && p = 1 then 3 else 4

/-- An empty token reaches input port `p`: a stake that needs data there meets its dry condition, or in bubble mode takes
a bubble; nothing else heeds it (R79, R129). -/
def giveEmpty (s : State) (n pos p : Nat) (x : Beat) : State :=
  let r := pos / 8
  let c := pos % 8
  if !isStakePos r c || unitWants s n pos p = 0 then s
  else
    let k := 32 * n + localOf r c
    let u := stk s k
    if bit u.mode 0 then setStk s k { u with inq := setAt u.inq p (u.inq.getD p [] ++ [x]) }
    else stkFreeze s k (minCause u.frz (dryCode u p))

/-- A beat with data given to input port `p`; it ends the dry condition that waited for it. -/
def giveUnit (s : State) (n pos p : Nat) (x : Beat) : State :=
  let r := pos / 8
  let c := pos % 8
  let s := if isStakePos r c then
      let k := 32 * n + localOf r c
      let u := stk s k
      let f := if u.frz = dryCode u p then 0 else u.frz
      noteHold (setStk s k { u with inq := setAt u.inq p (u.inq.getD p [] ++ [x]), frz := f }) n
    else
      let b := 32 * n + localOf r c
      let u := bsh s b
      setBsh s b { u with inq := setAt u.inq p (u.inq.getD p [] ++ [x]) }
  unitGo s n pos p

/-- A replay beat at input port `p`: the stake that asked takes it, every other unit discards it (R116, R144). -/
def giveReplay (s : State) (n pos p : Nat) (x : Beat) : State :=
  let k := 32 * n + localOf (pos / 8) (pos % 8)
  let u := stk s k
  if isStakePos (pos / 8) (pos % 8) && u.recomp then
    setStk s k { u with rep := setAt u.rep p (u.rep.getD p [] ++ [x]) }
  else s

/-- Entries of the skew queue of input port `p` (R144). -/
def skewDepth (s : State) (z p : Nat) : Nat := bits (skewWord s z).toNat (8 * p) 7

/-! ### Inputs of a switch -/

/-- The present cycle of island `n`, counted in its rounds and slots (R126). -/
def cycleOf (s : State) (n : Nat) : Nat := (isl s n).rounds * (rd s Reg.ISL_FAB_SLOT_LEN n + 1) + rd s Reg.ISL_FAB_SLOT_SLOT n

/-- Outputs of a row that name an input (R127, R128). -/
def outsOf (row code : Nat) : List Nat := (List.range 8).filter fun o => bits row (4 * o) 4 = code

/-- TAG of an output in a row (R127). -/
def rowTag (row o : Nat) : Nat := bits row (32 + 4 * o) 4

/-- What a switch input offers: a token, no token, or a crossing that is dry (R129, R137). -/
inductive Offer where
  | beat (x : Beat) | none_ | dry
  deriving DecidableEq, Repr

/-- Lag of the route that comes in by a link under a tag (R136). -/
def lagOf (s : State) (n pos d tag : Nat) : Nat := tget (fun _ => 0) s.fab.lag (16 * linkKey n pos d + tag)

/-- The token at input `code` in a row (R127 to R129, R136). A port with no beat ready sends an empty token; so does a
crossing before the round the lag of its route begins in, for it is not popped until then (assumption 87). -/
def offer (s : State) (n pos code row : Nat) : Offer :=
  let r := pos / 8
  let c := pos % 8
  let tag := rowTag row ((outsOf row code).getD 0 0)
  if code ≤ 4 then
    let d := code - 1
    match stepPos r c d with
    | some _ => match ((sw s (64 * n + pos)).inl.getD d []).find? (fun e => !e.2.rpl && e.1 == cycleOf s n) with
      | some e => .beat e.2
      | none => .none_
    | none =>
      match nextIsl n d with
      | some m =>
        if !linked s n m then .none_
        else if (isl s n).rounds < lagOf s n pos d tag then .beat (emptyBeat.tagged tag)
        else (match (xing s (xingKey n pos d 2)).avail with | x :: _ => .beat x | [] => .dry)
      | none => .none_
  else
    let q := if isStakePos r c then (stk s (32 * n + localOf r c)).outq else (bsh s (32 * n + localOf r c)).outq
    match q.getD (code - 5) [] with | x :: _ => .beat (x.tagged tag) | [] => .beat (emptyBeat.tagged tag)

/-- The token offered is taken away. -/
def consume (s : State) (n pos code row : Nat) : State :=
  let r := pos / 8
  let c := pos % 8
  let tag := rowTag row ((outsOf row code).getD 0 0)
  if code ≤ 4 then
    let d := code - 1
    match stepPos r c d with
    | some _ =>
      let z := sw s (64 * n + pos)
      let l := (z.inl.getD d []).filter fun e => e.2.rpl || e.1 != cycleOf s n
      setSw s (64 * n + pos) { z with inl := setAt z.inl d l }
    | none =>
      let x := xing s (xingKey n pos d 2)
      if (isl s n).rounds < lagOf s n pos d tag then s
      else setXing s (xingKey n pos d 2) { x with avail := x.avail.drop 1 }
  else if isStakePos r c then
    let k := 32 * n + localOf r c
    let u := stk s k
    setStk s k { u with outq := setAt u.outq (code - 5) ((u.outq.getD (code - 5) []).drop 1) }
  else
    let b := 32 * n + localOf r c
    let u := bsh s b
    setBsh s b { u with outq := setAt u.outq (code - 5) ((u.outq.getD (code - 5) []).drop 1) }

/-- The replay beat at input `code` in slot `slot`, where there is one (R116). -/
def offerReplay (s : State) (n pos code slot row : Nat) : Option Beat :=
  let r := pos / 8
  let c := pos % 8
  if code = 0 ∨ code > 8 then none
  else if code ≤ 4 then
    (((sw s (64 * n + pos)).inl.getD (code - 1) []).find? fun e => e.2.rpl && e.1 == slot).map (·.2)
  else if isStakePos r c then none
  else (((bsh s (32 * n + localOf r c)).rplq.getD (code - 5) []).head?).map
    fun x => x.tagged (rowTag row ((outsOf row code).getD 0 0))

/-- It is taken away. -/
def consumeReplay (s : State) (n pos code : Nat) (x : Beat) (slot : Nat) : State :=
  if code ≤ 4 then
    let z := sw s (64 * n + pos)
    setSw s (64 * n + pos) { z with inl := setAt z.inl (code - 1) ((z.inl.getD (code - 1) []).erase (slot, x)) }
  else
    let b := 32 * n + localOf (pos / 8) (pos % 8)
    let u := bsh s b
    setBsh s b { u with rplq := setAt u.rplq (code - 5) ((u.rplq.getD (code - 5) []).drop 1) }

/-- The environment's flips on a beat: bits 0 to 511 of the data, 512 to 527 of the control bits. -/
def flipBeat (x : Beat) (fl : List Nat) : Beat :=
  let d := BitVec.ofNat 512 (ofBits (fl.filter (· < 512)).eraseDups)
  let c := BitVec.ofNat 16 (ofBits ((fl.filter fun f => 512 ≤ f ∧ f < 528).map (· - 512)).eraseDups)
  { x with data := x.data ^^^ d, ctl := x.ctl ^^^ c }

/-- CP fits the control bits, PSN of a beat marked earlier counting as 0 (R125). -/
def cpOk (x : Beat) : Bool :=
  bits x.ctl.toNat 3 1 == (parityOf (bits x.ctl.toNat 0 2) 2 + parityOf (bits x.ctl.toNat 12 4) 4) % 2

/-- A switch input checks DP and CP of a beat with V set and PSN clear: on an error PSN is set, the error counted and
recorded (R149). -/
def checkBeat (s : State) (n pos code : Nat) (x : Beat) : State × Beat :=
  if x.v && !x.psn && badGroups x ≠ 0 then
    let s := bump s Reg.ISL_FAB_PAR n 1
    let s := fabFault s n pos (if cpOk x then 1 else 2) (code - 1) 0 0 (badGroups x)
    (s, { x with ctl := x.ctl ||| 4 })
  else (s, x)

/-! ### Outputs of a switch -/

/-- Why an output cannot take its token now: XFULL of a crossing, SKEW_FULL of a queue, or a unit that takes nothing from
a port without a queue (R133, R137, R144, R145). -/
inductive Stuck where
  | xfull (d : Nat) | skew (p : Nat) | port (p : Nat)
  deriving DecidableEq, Repr

/-- What keeps output `o` from taking a token. -/
def stuckAt (s : State) (n pos o : Nat) (x : Beat) : Option Stuck :=
  if o < 4 then
    match stepPos (pos / 8) (pos % 8) o, nextIsl n o with
    | none, some m =>
      if linked s n m && (xing s (xingKey m (acrossPos pos o) (opposite o) (firstStage n m))).fullSeen then some (.xfull o)
      else none
    | _, _ => none
  else
    let p := o - 4
    if !x.v || unitWants s n pos p ≠ 0 then none
    else if skewDepth s (64 * n + pos) p = 0 then some (.port p)
    else if ((sw s (64 * n + pos)).skew.getD p []).length ≥ skewDepth s (64 * n + pos) p then some (.skew p)
    else none

/-- The freeze a stuck output raises: the switch's code, or OUT_FULL of the unit whose port takes nothing (R78, R115,
R139, R144). -/
def stuckFreeze (s : State) (n pos : Nat) : Stuck → State
  | .xfull d => swBlock s (64 * n + pos) 2 d
  | .skew p => swBlock s (64 * n + pos) 3 p
  | .port _ =>
    let u := localOf (pos / 8) (pos % 8)
    if isStakePos (pos / 8) (pos % 8) then
      stkFreeze s (32 * n + u) (minCause (stk s (32 * n + u)).frz 7)
    else bshFreeze s (32 * n + u) 2 9

/-- A write into a crossing: one that already holds 32 entries keeps the beat out, the receiving island is suspect and
the weave stops (R134). -/
def crossWrite (s : State) (n m key pos d stage : Nat) (x : Beat) : State :=
  let g := xing s key
  if g.occ ≥ xingCap then stopIsl (suspect (fabFault s m pos 4 d 0 0 0) m) n 0x2A 4
  else
    let s := setXing s key { g with flight := g.flight ++ [x] }
    if stage = 2 then
      let s := wr s Reg.ISL_FAB_HWM_OCC m (max (rd s Reg.ISL_FAB_HWM_OCC m) (g.occ + 1))
      if g.occ = xingFull then bump s Reg.ISL_FAB_SLACK m 1 else s
    else s

/-- A token goes out on output `o`: to the neighbouring switch, into a crossing, or to the unit (R124, R128, R132 to R134,
R144). `due` is when the next switch switches it. -/
def sendOut (s : State) (n pos o due : Nat) (x : Beat) : State :=
  if o < 4 then
    match stepPos (pos / 8) (pos % 8) o, nextIsl n o with
    | some (r, c), _ =>
      let z := sw s (64 * n + 8 * r + c)
      let d := opposite o
      setSw s (64 * n + 8 * r + c) { z with inl := setAt z.inl d (z.inl.getD d [] ++ [(due, x)]) }
    | none, some m =>
      if !linked s n m then s
      else
        let st := firstStage n m
        crossWrite s n m (xingKey m (acrossPos pos o) (opposite o) st) (acrossPos pos o) (opposite o) st x
    | none, none => s
  else
    let p := o - 4
    let z := 64 * n + pos
    if x.rpl then giveReplay s n pos p x
    else if !x.v then giveEmpty s n pos p x
    else if skewDepth s z p = 0 then giveUnit s n pos p x
    else
      let g := sw s z
      let s := setSw s z { g with skew := setAt g.skew p (g.skew.getD p [] ++ [x]) }
      if unitWants s n pos p = 0 then s
      else
        let k := 32 * n + localOf (pos / 8) (pos % 8)
        let f := (stk s k).frz
        let s := if isStakePos (pos / 8) (pos % 8) && f = dryCode (stk s k) p then
            noteHold (setStk s k { stk s k with frz := 0 }) n
          else s
        unitGo s n pos p

/-- A route fault: the beat is not delivered, the weave stops (R130). -/
def routeFault (s : State) (n pos code want : Nat) (x : Beat) : State :=
  let s := bump s Reg.ISL_FAB_RTAG n 1
  stopIsl (fabFault s n pos 3 (code - 1) 0 0 (want + 16 * x.tag)) n 0x2A 3

/-- A beat switched to all the outputs `outs` of a row, after the checks of its input: its tag against each TAG first, and
where that stands or CP is wrong, its parity (R130, R149, R150). -/
def switchBeat (s : State) (n pos code row due : Nat) (outs : List Nat) (x : Beat) : State :=
  match outs.find? (fun o => x.tag ≠ rowTag row o && cpOk x) with
  | some o => routeFault s n pos code (rowTag row o) x
  | none =>
    let c := checkBeat s n pos code x
    outs.foldl (fun s o => sendOut s n pos o due c.2) c.1

/-! ### Slots (R126, R128) -/

/-- Outputs a switch serves in a slot. -/
def heldOuts (row : Nat) : List Nat := (List.range 8).filter fun o => let c := bits row (4 * o) 4; decide (1 ≤ c ∧ c ≤ 8)

/-- Every output that holds the slot has been served. -/
def slotServed (s : State) (n slot : Nat) : Bool :=
  s.fab.rows.all fun e =>
    decide (e.1 / 1024 ≠ n) || decide (e.1 % 16 ≠ slot) ||
    (heldOuts e.2.toNat).all fun o => (sw s (e.1 / 16)).done.contains o

/-- A switch at the end of cycle `t` of its island: ready for the next slot, what no row has taken up gone. -/
def Switch.clear (z : Switch) (t : Nat) : Switch :=
  { z with done := [], inl := z.inl.map fun l => l.filter fun b => b.2.rpl || decide (t < b.1) }

/-- A slot is over at every switch of island `n`. -/
def clearSlot (s : State) (n : Nat) : State :=
  eachOf (s.fab.sw.map (·.1)) s fun s z => if z / 64 = n then setSw s z ((sw s z).clear (cycleOf s n)) else s

/-- The slot counter moves past slots that are served, up to the last of the round. -/
def slotsGo : Nat → State → Nat → State
  | 0, s, _ => s
  | f + 1, s, n =>
    let k := rd s Reg.ISL_FAB_SLOT_SLOT n
    if decide (k < rd s Reg.ISL_FAB_SLOT_LEN n) && slotServed s n k then
      slotsGo f (wr (clearSlot s n) Reg.ISL_FAB_SLOT_SLOT n (k + 1)) n
    else s

/-- Every slot of the round is over but the last, and that is served. -/
def roundServed (s : State) (n : Nat) : Bool :=
  decide (rd s Reg.ISL_FAB_SLOT_SLOT n = rd s Reg.ISL_FAB_SLOT_LEN n) && slotServed s n (rd s Reg.ISL_FAB_SLOT_SLOT n)

/-- The present slot of a switch: the token at the input its row names for an output goes to every output of the row that
names that input, or to none of them while one cannot take it (R112, R128, R129). -/
def linkBeat (s : State) (n pos code row : Nat) (fl : List Nat) : State :=
  let z := 64 * n + pos
  let outs := outsOf row code
  match offer s n pos code row with
  | .none_ => setSw s z { sw s z with done := (sw s z).done ++ outs }
  | .dry => swBlock s z 1 (code - 1)
  | .beat x =>
    let x := flipBeat x fl
    match outs.findSome? fun o => stuckAt s n pos o x with
    | some k => stuckFreeze s n pos k
    | none =>
      let s := consume s n pos code row
      let s := setSw s z { sw s z with done := (sw s z).done ++ outs }
      switchBeat s n pos code row (cycleOf s n + 1) outs x

/-- Who acts when a switch takes up an input: the bushel whose sequencer makes the beat, the stake whose dry condition
the beat would end (R78), or none. -/
def actor (s : State) (n pos code row : Nat) : UnitId :=
  let u := 32 * n + localOf (pos / 8) (pos % 8)
  let data := match offer s n pos code row with | .beat x => x.v | _ => false
  if isStakePos (pos / 8) (pos % 8) then
    (if data && (outsOf row code).any (fun o => o ≥ 4) then .stake u [2, 3, 4] else .none_)
  else if code ≥ 5 then .bushel u 2 else .none_

/-- The unit at a switch makes the beat its output port is to send (R103). -/
def portMake (s : State) (n pos code : Nat) (rpl : Bool) : State :=
  if code ≥ 5 && code ≤ 8 && !isStakePos (pos / 8) (pos % 8) then
    rdMake s (32 * n + localOf (pos / 8) (pos % 8)) (code - 5) rpl
  else s

/-- LINK_BEAT (R116, R124 to R130, R137, R144, R145, R149): the switch at a position takes up, in a slot, the input its slot
table names for an output. A replay beat goes whatever the slot counter shows and whatever freezes the island; any other
only in the present slot, once. -/
def execLinkBeat (n pos out slot : Nat) (fl : List Nat) (s : State) : Out :=
  onUnit (decide (n < 32) && decide (pos < 64) && decide (out < 8) && decide (slot < 16)) (live s (
    let row := (slotRow s (64 * n + pos) slot).toNat
    let code := bits row (4 * out) 4
    if code = 0 ∨ code > 8 ∨ !inRounds s n ∨ slot > rd s Reg.ISL_FAB_SLOT_LEN n then s
    else
      let s := portMake s n pos code true
      match offerReplay s n pos code slot row with
      | some x =>
        switchBeat (consumeReplay s n pos code x slot) n pos code row ((slot + 1) % (rd s Reg.ISL_FAB_SLOT_LEN n + 1))
          (outsOf row code) (flipBeat x fl)
      | none =>
        let s := slotsGo 16 s n
        if rd s Reg.ISL_FAB_SLOT_SLOT n ≠ slot ∨ (sw s (64 * n + pos)).done.contains out ∨
            !(sw s (64 * n + pos)).blk.isEmpty ∨ !mayRun s n (actor s n pos code row) then s
        else
          let s := portMake s n pos code false
          if !mayRun s n (actor s n pos code row) ∨ (!isStakePos (pos / 8) (pos % 8) ∧ code ≥ 5 ∧
              (bsh s (32 * n + localOf (pos / 8) (pos % 8))).frz.getD 2 0 ≠ 0) then s
          else slotsGo 16 (linkBeat s n pos code row fl) n))

/-- A crossing delivers (R133, R135): the oldest beat written reaches the receiving domain of a crossing: the next crossing
of its link, once that has not raised FULL, or the receiving switch, whose XDRY it ends. -/
def crossDeliver (n pos d stage : Nat) (s : State) : Out :=
  onUnit (decide (n < 32) && decide (pos < 64) && decide (d < 4) && decide (stage < 3)) (live s (
    let key := xingKey n pos d stage
    let x := xing s key
    match x.flight with
    | b :: t =>
      if stage = 2 then swClear (setXing s key { x with flight := t, avail := x.avail ++ [b] }) (64 * n + pos) 1 d
      else if (xing s (key + 1)).fullSeen then s
      else
        let s := setXing s key { x with flight := t }
        let m := (nextIsl n d).getD n
        crossWrite s m n (key + 1) pos d (stage + 1) b
    | [] => s))

/-- CROSSING_DELIVER (R133). -/
def execCrossingDeliver (n pos : Nat) (d : LinkSide) (s : State) : Out := crossDeliver n pos d.dir d.stage s

/-- FULL changes (R133): the sender of a crossing sees FULL as its occupancy now gives it; FULL withdrawn ends XFULL. -/
def crossFull (n pos d stage : Nat) (s : State) : Out :=
  onUnit (decide (n < 32) && decide (pos < 64) && decide (d < 4) && decide (stage < 3)) (live s (
    let key := xingKey n pos d stage
    let full := decide ((xing s key).occ ≥ xingFull)
    let s := setXing s key { xing s key with fullSeen := full }
    match nextIsl n d with
    | some m => if !full && decide (stage = firstStage m n) then swClear s (64 * m + acrossPos pos d) 2 (opposite d) else s
    | none => s))

/-- FULL_CHANGE (R133). -/
def execFullChange (n pos : Nat) (d : LinkSide) (s : State) : Out := crossFull n pos d.dir d.stage s

/-- HOLD_RECEIVE (R138, R140, R150): the cause the neighbour has written into the hold crossing of a tree edge arrives; it
is relayed, and the neighbour may write the next. -/
def execHoldReceive (n d : Nat) (s : State) : Out :=
  onUnit (decide (n < 32) && decide (d < 4)) (live s (
    match (isl s n).holdX.getD d none with
    | some c =>
      let i := isl s n
      let s := noteHold (setIsl s n { i with holdIn := setAt i.holdIn d c, holdX := setAt i.holdX d none }) n
      match nextIsl n d with
      | some m => noteHold s m
      | none => s
    | none => s))

/-- Stakes and fabric-side engines of island `n` that have not reached END, by position (R167): position of the first. -/
def shortUnit (s : State) (n : Nat) : Option Nat :=
  (List.range 64).find? fun pos =>
    let r := pos / 8
    let c := pos % 8
    if isStakePos r c then !(stk s (32 * n + localOf r c)).ended
    else
      let y := bsh s (32 * n + localOf r c)
      (!streamSide y 0 && !(eng y 0).ended) || (!streamSide y 1 && !(eng y 1).ended)

/-- The invocation running on island `n`, and its weave. -/
def runOf (s : State) (n : Nat) : Option (Weave × Invoc) :=
  match weaveOf s (bindOf s n) (isl s n).newWeave, invOf s (bindOf s n) (isl s n).newWeave with
  | some w, some v => some (w, v)
  | _, _ => none

/-- The weave's BUBBLE flag (R154). -/
def Weave.bubble (w : Weave) : Bool := bit w.flags 0

/-- A slot counter returns to zero: one more round (R126, R169). -/
def roundOver (s : State) (n : Nat) (v : Invoc) : State :=
  let s := if (isl s n).rounds ≥ v.rounds then bump s Reg.ISL_WV_EXTRA n 1 else s
  let s := bump (wr (clearSlot s n) Reg.ISL_FAB_SLOT_SLOT n 0) Reg.ISL_WV_RND n 1
  setIsl s n { isl s n with rounds := (isl s n).rounds + 1 }

/-- What an island takes up at a round boundary: a skip sent to it, a step, or a skip with no end (R143, R378). -/
def atBoundary (s : State) (n : Nat) : State :=
  let i := isl s n
  if i.skips > 0 then noteHold (setIsl s n { i with skips := 0, skipping := i.skips }) n
  else if i.step.isSome then noteHold (setIsl s n { i with stepping := true }) n
  else if s.pow.full then noteHold (setIsl s n { i with skipping := 1 }) n
  else s

/-- The skip duty: D rounds of every 16 (R375). -/
def dutySkip (s : State) (n : Nat) : State :=
  let d := rd s Reg.PWR_STAT_D 0
  let put (s : State) (v : Nat) : State := { s with pow := { s.pow with duty := tset (fun _ => 0) s.pow.duty n v } }
  if d = 0 ∨ (isl s n).skipping > 0 ∨ (isl s n).stepping then s
  else
    let c := tget (fun _ => 0) s.pow.duty n + 1
    if c + d ≥ 16 then noteHold (setIsl (put s 0) n { isl s n with skipping := d }) n else put s c

/-- The weave has reached RND_MAX: it stops (R169). -/
def rndMaxFault (s : State) (n : Nat) : State := stopIsl (runFault s (bindOf s n) 0x25 0 0 0) n 0x25 0

/-- ROUND_END (R126, R143, R165, R169): a round whose slots are over ends; a pending skip, or else a pending step, begins.
Past the formula only a bubble weave that has a unit short of END runs on. -/
def execRoundEnd (n : Nat) (s : State) : Out :=
  onUnit (n < 32) (live s (
    match runOf s n with
    | none => s
    | some (w, v) =>
      let s := if mayRun s n .none_ then slotsGo 16 s n else s
      if !mayRun s n .none_ || !roundServed s n then s
      else if decide ((isl s n).rounds + 1 ≥ v.rounds) && !(w.bubble && (shortUnit s n).isSome) then s
      else
        let s := roundOver s n v
        if w.bubble && decide ((isl s n).rounds ≥ w.rndMax) then rndMaxFault s n
        else dutySkip (atBoundary s n) n))

/-- SKIP_END (R143, R166): the rounds skipped are over; their frozen cycles count under SKIP. -/
def execSkipEnd (n : Nat) (s : State) : Out :=
  onUnit (n < 32) (live s (
    let i := isl s n
    if i.skipping = 0 then s
    else
      let s := bump s Reg.ISL_FRZ_SKIP n (i.skipping * (rd s Reg.ISL_FAB_SLOT_LEN n + 1))
      atBoundary (noteHold (setIsl s n { i with skipping := 0 }) n) n))

/-- The freeze code a unit or switch at a position holds: switch code, else unit code (R142). -/
def codeAt (s : State) (n pos : Nat) : Nat × Bool :=
  let z := (sw s (64 * n + pos)).code
  let r := pos / 8
  let c := pos % 8
  if z ≠ 0 then (z, false)
  else if isStakePos r c then ((stk s (32 * n + localOf r c)).frz, true)
  else ((bsh s (32 * n + localOf r c)).code, true)

/-- Island `n` is frozen under SCHED or a switch code, no hold reaching it (R142). -/
def schedFrozen (s : State) (n : Nat) : Bool :=
  let own := ownCause s n
  !heldIn s n && (own == 6 || (own == 0 && switchCode s n ≠ 0))

/-- DEADLOCK_LIMIT (R142, R150): the count of frozen cycles under SCHED or a switch code has reached its limit. An island
of a weave that another's deadlock has just stopped records its own fault. -/
def execDeadlockLimit (n pos : Nat) (s : State) : Out :=
  onUnit (decide (n < 32) && decide (pos < 64)) (live s (
    let c := codeAt s n pos
    if (isl s n).dead < rd s Reg.ISL_FAB_FRZ_LIMIT n || c.1 = 0 then s
    else
      let s := fabFault (setIsl s n { isl s n with dead := 0 }) n pos 5 0 c.1 (oneIf c.2) 0
      if inRounds s n then stopIsl s n 0x2B 0 else s))

/-- LAST_ROUND (R165, R167, R169): the island's last round ends and its slot counter stops; a unit short of END is a round
overrun, unless the weave has bubble-mode units, whose islands run on. An invocation of no rounds runs none. -/
def execLastRound (n : Nat) (s : State) : Out :=
  onUnit (n < 32) (live s (
    match runOf s n with
    | none => s
    | some (w, v) =>
      let s := if mayRun s n .none_ then slotsGo 16 s n else s
      if !mayRun s n .none_ || decide ((isl s n).rounds + 1 < v.rounds) then s
      else if w.bubble && (shortUnit s n).isSome then s
      else if decide (v.rounds ≠ 0) && !roundServed s n then s
      else
        let s := if v.rounds = 0 then s else roundOver s n v
        let s := setIsl s n { isl s n with lastRound := true }
        if w.bubble && decide ((isl s n).rounds ≥ w.rndMax) then rndMaxFault s n
        else match shortUnit s n with
          | some pos => stopIsl (runFault s (bindOf s n) 0x24 (isl s n).wrel pos 0) n 0x24 0
          | none => s))

/-- Island-nanoseconds charged to a partition, and its fabric standing raised (R254, R255). -/
def chargeIsl (s : State) (p ns : Nat) : State :=
  let s := bump2 s Reg.CMD_PART_LED_ISL_LO Reg.CMD_PART_LED_ISL_HI p ns
  let w := max 1 (rd s Reg.CMD_PART_SHARE_W p)
  { s with front := { s.front with vf := tset (fun _ => 0) s.front.vf p (tget (fun _ => 0) s.front.vf p + ns * 256 / w) } }

/-- Island-nanoseconds that have passed since they were last charged: to the partition, the command and `WV_TIME_NS`
(R168, R254). -/
def islNs (s : State) (n ns : Nat) : State :=
  match runOf s n with
  | none => s
  | some (_, v) =>
    let s := bump s Reg.ISL_WV_TIME_NS n ns
    modCmd (chargeIsl s (partOfIsl s n) ns) v.ring v.idx fun c => { c with cost := c.cost + ns }

/-- ISLAND_DONE (R119, R167, R168): every unit of the island has reported done; `tail` cycles of waiting and `ns`
nanoseconds since the first release are what the island counted, of which time has charged a part. When the last island
reports, the invocation completes. -/
def execIslandDone (n tail ns : Nat) (s : State) : Out :=
  onUnit (n < 32) (live s (
    match runOf s n with
    | none => s
    | some (w, v) =>
      let i := isl s n
      let bsDone := (List.range 32).all fun x => bushelIdle (bsh s (32 * n + x))
      if !i.lastRound || i.done || i.stopped || !bsDone then s
      else
        let s := wr s Reg.ISL_WV_TAIL n (min tail (2 ^ 32 - 1))
        let s := islNs s n (ns - rd s Reg.ISL_WV_TIME_NS n)
        let s := setIsl s n { i with done := true }
        let v := { v with done := v.done ++ [i.wrel] }
        let bd := bindOf s n
        let nw := i.newWeave
        let s := setInv s bd nw (some v)
        if v.done.length = w.nisl then endInvoc s bd nw 0 0 else s))

end Sys2Proof.Machine
end

