-- ==== Sys2Proof/Machine/Freq.lean ====
section
/-! DEFINITION. Grades, the frequency a weave runs at, the core rails (R2, R3, R371, R372, R374, R453). -/

namespace Sys2Proof.Machine

/-- The grade's maximum frequency in 100 MHz units, and its highest power limit in watts (R2). -/
def gradeMax (s : State) : Nat := if rd s Reg.HDR_CAPS_GRADE 0x0A = 0 then 33 else 29
def gradeW (s : State) : Nat := if rd s Reg.HDR_CAPS_GRADE 0x0A = 0 then 2500 else 1800

/-- The frequency a weave of a partition runs at: package point, PART_FMAX and thermal target, the lowest (R374); 1.0 GHz in
deep brake (R381). -/
def weaveFreq (s : State) (p : Nat) : Nat :=
  if rd s Reg.PWR_STAT_DEEP 0 = 1 then 10
  else max 10 (min (rd s Reg.PWR_STAT_POINT 0) (min (rd s Reg.PWR_PART_FMAX p) (rd s Reg.PWR_TTGT p)))

/-- A frame of the rail control interface: START, rail, command, data (R453). -/
def vrcFrame (rail cmd data : Nat) : Nat := 2 * 2 ^ 22 + rail % 4 * 2 ^ 20 + cmd % 16 * 2 ^ 16 + data % 2 ^ 16

/-- The point a step planned for a weave goes to, where it is a step up: the rails go first (R372). -/
def planOf (s : State) (bd : Nat) (nw : Bool) : Option Nat := tget (fun _ => none) s.pow.plan (2 * bd + oneIf nw)

/-- The point island `k` needs its rail for: its own frequency, or the higher one it is to step to. -/
def pointOf (s : State) (k : Nat) : Nat :=
  let cur := rd s Reg.CLK_FREQ_MHZ k / 100
  match (isl s k).bind with
  | some bd => if rd s Reg.ISL_WV_STAT_RUN k = 1 then max cur ((planOf s bd (isl s k).newWeave).getD 0) else 10
  | none => 10

/-- The voltage of the fastest island of a die, within the rail's range (R372). -/
def railNeed (s : State) (j : Nat) : Nat :=
  let pt := (List.range 8).foldl (fun a i => max a (pointOf s (8 * j + i))) 10
  let v := (Config.railMv j pt ((List.range 48).map fun m => rd s Reg.SCL_PMON_SPEED m)).toNat
  max 600 (min 900 v)

/-- An island of the die waits for its rail, and the rail's last STAT did not read SETTLED (R454). -/
def unsettled (s : State) (j : Nat) : Bool :=
  !(bit (rd s Reg.PWR_VRC_STAT j) 0) && (List.range 8).any fun i =>
    decide (pointOf s (8 * j + i) > rd s Reg.CLK_FREQ_MHZ (8 * j + i) / 100)

/-- SETV on every rail whose target has changed, or that failed to settle for a step up (R372, R453, R454). -/
def followRails (s : State) : State :=
  eachOf (List.range 4) s fun s j =>
    let v := railNeed s j
    if rd s Reg.PWR_VRC_VOLT j = v ∧ (tget (fun _ => false) s.pow.railWait j || !unsettled s j) = true then s
    else
      let s := emit (wr s Reg.PWR_VRC_VOLT j v) (.vrc (vrcFrame j 1 v))
      { s with pow := { s.pow with railWait := tset (fun _ => false) s.pow.railWait j true } }

/-- The islands of a weave that starts or resumes take the weave's frequency, and the rails follow (assumption 30). -/
def setFreqs (s : State) (p : Nat) (place : List Nat) : State :=
  followRails (eachOf place s fun s n => wr s Reg.CLK_FREQ_MHZ n (100 * weaveFreq s p))

end Sys2Proof.Machine
end

