-- ==== Sys2Proof/Machine/WeaveImage.lean ====
section
/-! DEFINITION. Weave images (R153 to R155), their load checks (R158) and placements (R156, R157). -/

namespace Sys2Proof.Machine

/-- Reads `n` bytes at an offset of an image. -/
abbrev Img := Nat → Nat → Nat

/-- The image of partition `p` at a device address, as memory stands. -/
def imgAt (s : State) (p a : Nat) : Img := fun off n => memRead s p (a + off) n

/-- What a failed check records (R159). -/
structure LoadFail where
  code : Nat
  wisl : Nat
  pos : Nat
  unit : Nat
  eng : Nat
  word : Nat
  ask : Nat
  avail : Nat
  deriving DecidableEq, Repr

/-- A failed check of the header. -/
def headFail (code word ask avail : Nat) : LoadFail := ⟨code, 0, 0, 0, 0, word, ask, avail⟩

/-! ### Layout -/

def variantAt (im : Img) (o : Nat) : Variant := ⟨im o 4, im (o + 4) 4, im (o + 8) 4, im (o + 12) 4, im (o + 16) 4, im (o + 20) 4, im (o + 24) 8⟩
def linkAt (im : Img) (o : Nat) : LinkEntry :=
  ⟨im o 1, im (o + 1) 1, im (o + 2) 1, im (o + 3) 1, im (o + 4) 1, im (o + 5) 1, im (o + 6) 2⟩
def overAt (im : Img) (o : Nat) : OverEntry := ⟨im o 2, im (o + 2) 2, im (o + 4) 1, im (o + 5) 3⟩
def rcvAt (im : Img) (o : Nat) : RcvEntry :=
  ⟨im o 1, im (o + 1) 1, im (o + 2) 1, im (o + 3) 1, im (o + 4) 2, im (o + 6) 2, im (o + 8) 2, im (o + 10) 2⟩

/-- `n` table entries of `sz` bytes from an offset. -/
def entries {α : Type} (f : Nat → α) (o sz n : Nat) : List α := (List.range n).map fun i => f (o + sz * i)

/-- The image as the engine keeps it (R154, R155). -/
def parseWeave (im : Img) (p img : Nat) (hot : Bool) : Weave :=
  { part := p, img := img, flags := im 6 2, size := im 8 8, shape := im 0x10 4, nisl := im 0x14 1, lenM1 := im 0x15 1,
    nvar := im 0x16 1, tripMax := im 0x18 4, extMax := im 0x1C 4, extTile := im 0x20 4, rndMax := im 0x24 4,
    weaveId := im 0x28 8, variants := entries (variantAt im) (im 0x60 8) 32 (im 0x16 1),
    links := entries (linkAt im) (im 0x68 8) 16 (im 0x88 4), overs := entries (overAt im) (im 0x70 8) 8 (im 0x8C 4),
    rcvs := entries (rcvAt im) (im 0x78 8) 16 (im 0x90 4), place := [], hot := hot, var := 0 }

def Weave.rtmode (w : Weave) : Nat := bits w.flags 2 2
def Weave.len (w : Weave) : Nat := w.lenM1 + 1

/-- Offsets inside an island record (R155). -/
def islRec : Nat := 186880
def stkOff (cfg i k : Nat) : Nat := cfg + islRec * i + 4160 * k
def bshOff (cfg i k : Nat) : Nat := cfg + islRec * i + 133120 + 1408 * k
def swOff (cfg i pos : Nat) : Nat := cfg + islRec * i + 178176 + 136 * pos
def stkImgWord (im : Img) (cfg i k w : Nat) : Nat := im (stkOff cfg i k + 64 + 8 * w) 8
def bshImgWord (im : Img) (cfg i k e w : Nat) : Nat := im (bshOff cfg i k + 384 + 512 * e + 8 * w) 8
def rowImg (im : Img) (cfg i pos r : Nat) : Nat := im (swOff cfg i pos + 8 * r) 8

/-- The first failure of a list of checks. -/
def firstBad (l : List (Option LoadFail)) : Option LoadFail := l.findSome? id
/-- A check that fails when `b` holds. -/
def failIf (b : Bool) (f : LoadFail) : Option LoadFail := if b then some f else none

/-! ### Phase A -/

/-- Check 0x01 (R154, R158): fields in ascending offset. -/
def checkHeader (im : Img) (w : Weave) : Option LoadFail :=
  let f (o : Nat) (b : Bool) := failIf b (headFail 1 o o 0)
  let fits (o n : Nat) := decide (o + n ≤ w.size)
  firstBad ([f 0 (decide (im 0 4 ≠ 0x3156574E)), f 4 (decide (im 4 2 ≠ 1)),
    f 6 (decide (bits w.flags 5 11 ≠ 0) || decide (w.rtmode = 3)), f 8 (decide (w.size < 256) || decide (w.img + w.size > 2 ^ 52)),
    f 0x14 (decide (w.nisl ≠ popCount w.shape 32) || decide (w.nisl = 0)), f 0x15 (decide (w.lenM1 > 15)),
    f 0x17 (decide (im 0x17 1 ≠ 0)), f 0x30 (decide (im 0x30 16 ≠ 0)), f 0x60 (!fits (im 0x60 8) (32 * w.nvar)),
    f 0x68 (!fits (im 0x68 8) (16 * im 0x88 4)), f 0x70 (!fits (im 0x70 8) (8 * im 0x8C 4)),
    f 0x78 (!fits (im 0x78 8) (16 * im 0x90 4)), f 0x80 (!fits (im 0x80 8) 0), f 0x94 (decide (im 0x94 108 ≠ 0))] ++
    w.variants.zipIdx.map fun p => f (im 0x60 8 + 32 * p.2 + 0x18) (!fits p.1.offCfg (islRec * w.nisl)))

/-- The image's bytes with DIGEST read as zero (R154). -/
def digestBytes (im : Img) (n : Nat) : List Nat :=
  (List.range n).map fun o => if 0x40 ≤ o ∧ o < 0x60 then 0 else im o 1

/-- Every unit of every variant meets `q`, given the configuration block and the weave-relative island. -/
def anyUnit (w : Weave) (q : Nat → Nat → Nat → Bool) : Bool :=
  w.variants.any fun v => (List.range w.nisl).any fun i => (List.range 32).any fun k => q v.offCfg i k

/-- Some MTILE of a stake takes PATH auto. -/
def stkAuto (im : Img) (cfg i k : Nat) : Bool :=
  (List.range 512).any fun x => let d := stkImgWord im cfg i k x
    decide (bits d 58 6 = 1) && decide (bits d 27 2 = 2)

/-- BYP_MAX of the first stake that holds an MTILE with PATH auto and another BYP_MAX than `lim` (R86, R158). -/
def autoLimit (im : Img) (w : Weave) (lim : Nat) : Option Nat :=
  (w.variants.flatMap fun v => (List.range w.nisl).flatMap fun i => (List.range 32).map fun k => (v.offCfg, i, k)).findSome?
    fun u =>
      let m := bits (im (stkOff u.1 u.2.1 u.2.2) 4) 10 3
      if decide (m ≠ lim) && stkAuto im u.1 u.2.1 u.2.2 then some m else none

/-- Check 0x03 (R158): FLAGS against the units. -/
def checkFlags (s : State) (im : Img) (w : Weave) : Option LoadFail :=
  let f (ask ok : Nat) := failIf (decide (ask ≠ ok)) (headFail 3 6 ask ok)
  let bub := anyUnit w fun c i k => bit (im (stkOff c i k) 4) 0
  let pad := anyUnit w fun c i k => bit (im (bshOff c i k) 4) 2
  let auto := anyUnit w fun c i k => stkAuto im c i k
  let mode := rd s Reg.RST_MODE 0
  firstBad [f (bits w.flags 0 1) (oneIf bub), f (bits w.flags 1 1) (oneIf pad), f (bits w.flags 4 1) (oneIf auto),
    failIf (pad && !(mode == 1 || mode == 2)) (headFail 3 6 1 0),
    if auto then firstBad [f w.rtmode 1, f w.nvar 2, failIf (decide (w.extMax > 16)) (headFail 3 0x1C w.extMax 16),
      (autoLimit im w ((w.variants.map Variant.extLim).headD 0)).map fun m =>
        headFail 3 (im 0x60 8) ((w.variants.map Variant.extLim).headD 0) m] else none]

/-- The first place of a list, counted from `j`, whose number does not rise above the one before it, both numbers with it. -/
def notRising (j : Nat) : List Nat → Option (Nat × Nat × Nat)
  | a :: b :: t => if a < b then notRising (j + 1) (b :: t) else some (j + 1, b, a)
  | _ => none

/-- Check 0x04 (R158). An EXT_LIM that does not ascend gives as its limit the least value that would. -/
def checkRanges (im : Img) (w : Weave) : Option LoadFail :=
  let m := 16777215
  let lims := w.variants.map Variant.extLim
  firstBad [failIf (decide (w.nvar = 0 ∨ w.nvar > 8)) (headFail 4 0x16 w.nvar 8),
    failIf (decide (w.tripMax > m)) (headFail 4 0x18 w.tripMax m),
    failIf (decide (w.extMax = 0 ∨ w.extMax > m)) (headFail 4 0x1C w.extMax m),
    failIf (decide (w.rtmode = 0 ∧ w.extMax ≠ 1)) (headFail 4 0x1C w.extMax 1),
    failIf (decide (w.extTile = 0 ∨ w.extTile > m)) (headFail 4 0x20 w.extTile m),
    (notRising 0 lims).map fun x => headFail 4 (im 0x60 8 + 32 * x.1) x.2.1 (x.2.2 + 1),
    failIf (decide (lims.getLastD 0 ≠ w.extMax)) (headFail 4 (im 0x60 8 + 32 * (w.nvar - 1)) (lims.getLastD 0) w.extMax),
    failIf (w.overs.any (fun o => o.kind == 3) && decide (w.extMax > 16)) (headFail 4 0x1C w.extMax 16)]

/-- Check 0x05 (R158, R181). `credit` is what the load gives back first. -/
def checkQuota (s : State) (w : Weave) (credit : Nat) : Option LoadFail :=
  let left := rd s Reg.XLT_Q_T1 w.part + credit - rd s Reg.XLT_U_T1 w.part
  let ask := if w.hot then 0 else w.nisl * 32
  failIf (decide (ask > left)) (headFail 5 0 ask left)

/-! ### Phase B -/

/-- Loops of a program before word `w` whose bodies still run at `w`: last words of their bodies. -/
def loopsAt (prog : Nat → Nat) (op blo bw w : Nat) : List Nat :=
  (List.range w).filterMap fun j => let d := prog j
    if bits d 58 6 = op ∧ j + bits d blo bw ≥ w then some (j + bits d blo bw) else none

/-- A LOOP at word `w` with `body` words breaks the nesting rules (R80, R87, R103, R106). -/
def loopBad (prog : Nat → Nat) (op blo bw n w body : Nat) : Bool :=
  let l := loopsAt prog op blo bw w
  body == 0 || decide (w + body ≥ n) || l.any (fun e => decide (w + body > e)) || decide (l.length ≥ 4)

/-- Bytes of a panel or of activation rows with their scales (R60, R69). -/
def panelBytes (fmt ism rows k : Nat) : Nat :=
  let g := scaleGroup fmt ism
  cdiv (k * rows * fmtBits fmt) 8 + (if g = 0 then 0 else rows * cdiv k g * scaleBytes fmt)

/-- Positive, normal, finite FP32 (R36, R77). -/
def posNormal (x : Nat) : Bool := decide (x < 2 ^ 31) && decide (0 < bits x 23 8) && decide (bits x 23 8 < 255)

/-- Words a program may run after word `x`: the next, the first of each body that ends at `x`, and past the body of a
LOOP whose count an override may make zero (R80, R85, R164). -/
def flowNext (prog : Nat → Nat) (skip : Nat → Bool) (x : Nat) : List Nat :=
  (x + 1) :: (if skip x && bits (prog x) 58 6 == 7 then [x + bits (prog x) 49 9 + 1] else []) ++
  ((List.range x).filter fun j => bits (prog j) 58 6 == 7 && j + bits (prog j) 49 9 == x).map (· + 1)

/-- Words reached without passing a SYNC that waits for a unit (bit `b`), nor, for the vector unit, a VRUN that needs it:
bounded walk over next words and loop ends. -/
def flow (prog : Nat → Nat) (skip : Nat → Bool) (b : Nat) : Nat → List Nat → List Nat → List Nat
  | 0, _, seen => seen
  | _, [], seen => seen
  | f + 1, x :: todo, seen =>
    if seen.contains x || decide (x ≥ 512) then flow prog skip b f todo seen
    else
      let d := prog x
      let stop := (bits d 58 6 == 0x0A && bit d b) || bits d 58 6 == 0x0B || (bits d 58 6 == 4 && decide (b = 55))
      flow prog skip b f (if stop then todo else flowNext prog skip x ++ todo) (x :: seen)

/-- A VRUN at word `w` wants an input pair that an MTILE holds which may be active with it, issued before it or while it
still runs (R87). -/
def pairHeld (prog : Nat → Nat) (skip : Nat → Bool) (w pair : Nat) : Bool :=
  let after := flow prog skip 55 2048 (flowNext prog skip w) []
  (List.range 512).any fun j => let d := prog j
    let path := bits d 27 2
    decide (bits d 58 6 = 1) &&
    ((decide (path ≠ 1) && decide (pair = 1) &&
        (after.contains j || (flow prog skip 57 2048 (flowNext prog skip j) []).contains w)) ||
     (decide (path ≠ 0) && (after.contains j || (flow prog skip 56 2048 (flowNext prog skip j) []).contains w)))

/-- Check 0x09 at word `w` of stake `k` (local index) (R82 to R87). -/
def stkWordBad (prog : Nat → Nat) (skip : Nat → Bool) (mode k w : Nat) : Bool :=
  let d := prog w
  let a := bits d 54 4
  let b := bits d 50 4
  let kk := bits d 34 16
  let rows := bits d 29 5
  let path := bits d 27 2
  let aism := bits d 19 3
  let bism := bits d 16 3
  let fmtOk (c : Nat) := c == 0 || c == 1 || c == 2 || c == 14
  let fits (r : Nat) := decide (panelBytes a aism r kk ≤ 98304)
  match bits d 58 6 with
  | 0x00 => decide (bits d 0 58 ≠ 0)
  | 0x01 => a == 15 || b == 15 || kk == 0 || rows == 0 || decide (rows > 16) || path == 3 || bits d 23 2 == 3 ||
    decide (aism > 3) || decide (bism > 3) || (!isIntFmt a && aism != 0) || (!isIntFmt b && bism != 0) || bits d 0 16 == 0 ||
    (path == 1 && (decide (rows > 7) || !bypOk a b || !fits rows)) ||
    (bit d 26 && path != 1 && decide (panelBytes b bism 32 kk > 98304)) ||
    (path == 2 && bypOk a b && !fits (min rows (bits mode 10 3)))
  | 0x03 =>
    let st := bits d 55 3
    let op := bits d 49 6
    decide (st > 5) || decide (op > 0x2D) || decide (bits d 46 3 > 5) || decide (bits d 43 3 > 5) || decide (bits d 40 3 > 5) ||
    decide (bits d 0 36 ≠ 0) || (decide (0x1D ≤ op) && decide (op ≤ 0x1F) && decide (st < 4)) || (decide (0x20 ≤ op) && st != 3)
  | 0x04 =>
    let entry := bits d 56 2
    let side := bits d 54 2
    side == 3 || !fmtOk (bits d 50 4) || !fmtOk (bits d 46 4) || bits d 43 2 == 3 || bits d 40 3 != 0 || bits d 24 16 == 0 ||
    bits d 0 24 == 0 || (decide (entry = 1 ∨ entry = 2) && pairHeld prog skip w entry) ||
    (decide (side = 1 ∨ side = 2) && pairHeld prog skip w side)
  | 0x05 => decide (bits d 55 3 > 5) || decide (bits d 32 20 ≠ 0)
  | 0x06 =>
    let f := bits d 54 4
    f == 15 || bits d 50 2 == 3 || bits d 32 18 != 0 || ((f == 11 || f == 12 || f == 13) && !posNormal (bits d 0 32))
  | 0x07 => bits d 24 25 != 0 || bits d 0 24 == 0 || loopBad prog 7 49 9 512 w (bits d 49 9)
  | 0x08 => decide (bits d 0 56 ≠ 0) || (bshAt k (bits d 56 2)).isNone
  | 0x09 => decide (bits d 0 53 ≠ 0) || (bshAt k (bits d 56 2)).isNone ||
    (if bit d 53 then (bshAt k (bits d 54 2)).isNone else bits d 54 2 != 0)
  | 0x0A => decide (bits d 0 54 ≠ 0)
  | 0x0B => decide (bits d 0 58 ≠ 0)
  | _ => true

/-- Check 0x0D at word `w` of engine `e` of bushel `k` (R105, R106). A PORT of two bits always names one of the four ports
of R92. -/
def bshWordBad (prog : Nat → Nat) (mode k e w : Nat) (ringUsed : Nat → Bool) : Bool :=
  let d := prog w
  let stream := bit mode e
  let rdwr := bits d 12 16 == 0 || (bits d 50 2 == 3 && !bit d 55) || (bit d 55 && decide (bits d 56 2 % 2 = 1))
  match bits d 58 6 with
  | 0x00 => decide (bits d 0 58 ≠ 0)
  | 0x01 => bits d 32 23 != 0
  | 0x02 => bits d 4 51 != 0
  | 0x03 => bits d 32 20 != 0
  | 0x04 => bits d 16 33 != 0
  | 0x05 => bits d 21 31 != 0
  | 0x06 => bits d 24 24 != 0 || loopBad prog 6 52 6 64 w (bits d 52 6)
  | 0x07 => bits d 0 51 != 0 || !ringUsed (bits d 55 3)
  | 0x08 => bits d 0 54 != 0 || !ringUsed (bits d 55 3)
  | 0x09 => stream || rdwr || bits d 0 8 != 0 || (bit d 8 && !bit mode 2)
  | 0x0A => stream || rdwr || bit d 49 || bits d 0 12 != 0
  | 0x0B => !stream || bits d 43 7 != 0 || bits d 32 11 == 0 || decide (bits d 32 11 > 1024)
  | 0x0C => !stream || bits d 43 8 != 0 || bits d 32 11 == 0 || decide (bits d 32 11 > 1024)
  | 0x0D => stream || bits d 0 52 != 0 || decide (bits d 52 3 > 5) || (decide (bits d 52 3 < 4) && (stkAt k (bits d 52 3)).isNone)
  | 0x0E => stream || bits d 0 48 != 0 || bits d 50 2 == 3 ||
    (if bits d 50 2 = 2 then (stkAt k (bits d 48 2)).isNone else bits d 48 2 != 0)
  | 0x0F => stream || bits d 0 55 != 0
  | 0x10 => bits d 0 56 != 0
  | 0x11 => decide (bits d 0 58 ≠ 0)
  | _ => true

/-- Check 0x0E: the override entries that name word `w` of a unit (R155, R158). -/
def overBad (o : OverEntry) (d : Nat) : Bool :=
  let st := !bit o.unit 10
  let op := bits d 58 6
  bits o.unit 12 4 != 0 || o.rest != 0 || (st && bit o.unit 11) ||
  (match o.kind with
   | 1 => if st then op != 7 else op != 6
   | 2 => if st then op != 7 else op != 6
   | 3 => !st || op != 1
   | _ => true)

def oversFor (w : Weave) (u e word : Nat) (st : Bool) : List OverEntry :=
  w.overs.filter fun o => bits o.unit 0 10 == u && bit o.unit 10 == !st && (st || bits o.unit 11 1 == e) && o.word == word

/-- Switch checks at a position (R127, R128, R144): codes 0x06 and 0x08. -/
def checkSwitch (im : Img) (w : Weave) (cfg i pos : Nat) : Option LoadFail :=
  let stk := isStakePos (pos / 8) (pos % 8)
  let f (code word ask avail : Nat) : LoadFail := ⟨code, i, pos, 3, 0, word, ask, avail⟩
  let row r := rowImg im cfg i pos r
  let skew := im (swOff cfg i pos + 128) 4
  let sum := sumNat (leBytes 4 skew)
  let asked d := sumNat ((w.links.filter fun l => l.src == i && l.pos == pos && l.dir == d).map LinkEntry.slots)
  firstBad (((List.range 16).map fun r =>
      if r < w.len then ((List.range 8).find? fun o => let c := bits (row r) (4 * o) 4
          decide (c ≥ 9) || (stk && decide (c ≥ 7))).map fun o => f 6 r (bits (row r) (4 * o) 4) 0
      else failIf (decide (row r ≠ 0)) (f 6 r (r + 1) w.len)) ++
    ((List.range 4).map fun d => failIf (decide (asked d > w.len)) (f 6 0 (asked d) w.len)) ++
    [failIf (decide (sum > 64)) (f 8 0 sum 64)])

/-- LOOP words of a stake whose count an override may make zero: N may be zero, T only outside tile skipping (R163,
R164). -/
def mayskip (w : Weave) (u x : Nat) : Bool :=
  (oversFor w u 0 x true).any fun o => o.kind == 1 || (o.kind == 2 && decide (w.rtmode ≠ 1) && w.variants.any fun v => v.tiles == 0)

/-- Stake checks at a position (0x09, 0x0A, 0x0E). -/
def checkStake (im : Img) (w : Weave) (cfg i pos : Nat) : Option LoadFail :=
  let k := localOf (pos / 8) (pos % 8)
  let mode := im (stkOff cfg i k) 4
  let f (code word ask avail : Nat) : LoadFail := ⟨code, i, pos, 1, 0, word, ask, avail⟩
  let prog x := stkImgWord im cfg i k x
  firstBad (failIf (bits mode 13 19 != 0 || bits mode 10 3 == 0 || im (stkOff cfg i k + 4) 60 != 0) (f 9 512 512 0) ::
    (List.range 512).map fun x =>
      let d := prog x
      if stkWordBad prog (mayskip w (32 * i + k)) mode k x then some (f 9 x x 0)
      else if decide (bits d 58 6 = 1) && !pairOk (bits d 54 4) (bits d 50 4) (bits d 19 3) (bits d 16 3) then
        some (f 0x0A x (bits d 54 4) (bits d 50 4))
      else if (oversFor w (32 * i + k) 0 x true).any fun o => overBad o d then some (f 0x0E x x 0) else none)

/-- Byte ranges of the rings and buffers a bushel uses. -/
def bshRanges (im : Img) (cfg i k : Nat) : List (Nat × Nat) :=
  let o := bshOff cfg i k
  ((List.range 8).filterMap fun r => let d := im (o + 64 + 8 * r) 8
    if d = 0 then none else some (64 * bits d 0 15, 64 * bits d 16 14 * bits d 30 7)) ++
  ((List.range 64).filterMap fun b => let d := im (o + 128 + 4 * b) 4
    if d = 0 then none else some (64 * bits d 0 15, 64 * bits d 15 15))

/-- No two ranges of a list meet. -/
def disjoint : List (Nat × Nat) → Bool
  | [] => true
  | a :: t => t.all (fun b => !overlap a.1 a.2 b.1 b.2) && disjoint t

/-- Bushel checks at a position (0x0B to 0x0E). -/
def checkBushel (im : Img) (w : Weave) (cfg i pos : Nat) : Option LoadFail :=
  let k := localOf (pos / 8) (pos % 8)
  let o := bshOff cfg i k
  let mode := im o 4
  let f (code e word ask avail : Nat) : LoadFail := ⟨code, i, pos, 2, e, word, ask, avail⟩
  let rs := bshRanges im cfg i k
  let top := rs.foldl (fun a r => max a (r.1 + r.2)) 0
  let ring r := im (o + 64 + 8 * r) 8
  let ringBad := (List.range 8).find? fun r => let d := ring r
    decide (d ≠ 0) && (bit d 15 || bits d 37 27 != 0 || bits d 16 14 == 0 || decide (bits d 30 7 < 3) || decide (bits d 30 7 > 64))
  let bufBad := (List.range 64).find? fun b => let d := im (o + 128 + 4 * b) 4
    decide (d ≠ 0) && (bits d 30 2 != 0 || bits d 15 15 == 0 || decide (bits d 15 15 > 24576))
  let words e := (List.range 64).map fun x =>
    let prog y := bshImgWord im cfg i k e y
    if bshWordBad prog mode k e x (fun r => decide (ring r ≠ 0)) then some (f 0x0D e x x 0)
    else if (oversFor w (32 * i + k) e x false).any fun ov => overBad ov (prog x) then some (f 0x0E e x x 0) else none
  firstBad ([failIf (decide (top > 1572864) || !disjoint rs) (f 0x0B 0 0 top 1572864),
    failIf (decide (im (o + 8) 1 > 16)) (f 0x0C 0 8 (im (o + 8) 1) 16),
    failIf (bits mode 12 20 != 0 || im (o + 9) 55 != 0) (f 0x0D 0 0 0 0),
    ringBad.map fun r => f 0x0D 0 (64 + 8 * r) (64 + 8 * r) 0,
    bufBad.map fun b => f 0x0D 0 (128 + 4 * b) (128 + 4 * b) 0] ++ words 0 ++ words 1)

/-- Phase B (R158): variants, islands, positions in order; the switch before the unit. -/
def phaseB (im : Img) (w : Weave) : Option LoadFail :=
  firstBad ((w.variants.flatMap fun v => (List.range w.nisl).flatMap fun i => (List.range 64).flatMap fun pos =>
    [checkSwitch im w v.offCfg i pos,
     if isStakePos (pos / 8) (pos % 8) then checkStake im w v.offCfg i pos else checkBushel im w v.offCfg i pos]) ++
    w.overs.map fun o => failIf (decide (bits o.unit 0 10 ≥ 32 * w.nisl) || decide (o.word ≥ if bit o.unit 10 then 64 else 512))
      ⟨0x0E, 0, 0, 0, 0, o.word, o.word, 0⟩)

/-! ### Placement and phase C (R156, R158) -/

/-- Cells of a shape, in weave-relative order. -/
def cells (shape : Nat) : List (Nat × Nat) := (setBits shape 32).map fun b => (b / 8, b % 8)

/-- The placement that puts weave-relative island 0 on physical island `k`, when it stays on the grid. -/
def placeAt (shape k : Nat) : Option (List Nat) :=
  match cells shape with
  | [] => none
  | c0 :: _ =>
    let g := gridOf k
    let l := (cells shape).map fun c => (((g.1 : Int) - c0.1 + c.1), ((g.2 : Int) - c0.2 + c.2))
    if l.all fun c => decide (0 ≤ c.1) && decide (c.1 < 4) && decide (0 ≤ c.2) && decide (c.2 < 8)
    then some (l.map fun c => islAt c.1.toNat c.2.toNat) else none

/-- Island `k` is a candidate for partition `p` (R156, R231, R397); `free` islands count as unoccupied; an island
an urgent placement waits for is not taken by another (R263). -/
def candidateIsl (s : State) (p : Nat) (hot : Bool) (free : List Nat) (k : Nat) : Bool :=
  !(s.front.inflight.any fun c => (c.op == 0x10 || c.op == 0x16) && !c.finished && c.landed.contains k) &&
  rdBit s Reg.WVE_PMASK p k && ((isl s k).bind.isNone || free.contains k) && decide (rd s Reg.ISL_STK_HEALTH_SUSPECT k = 0) &&
  !rdBit s Reg.RST_TEST_HOLD 0 k && (rdBit s Reg.WVE_HSET p k == hot)

/-- Where a route from a switch input leaves the island: (position, direction, tag). -/
def exitsFrom (im : Img) (w : Weave) (cfg i : Nat) : Nat → Nat → Nat → Nat → List (Nat × Nat × Nat)
  | 0, _, _, _ => []
  | f + 1, pos, code, sl =>
    let row := rowImg im cfg i pos sl
    (List.range 4).flatMap fun o =>
      if bits row (4 * o) 4 = code then
        match stepPos (pos / 8) (pos % 8) o with
        | some (r, c) => exitsFrom im w cfg i f (8 * r + c) (1 + opposite o) ((sl + 1) % w.len)
        | none => [(pos, o, bits row (32 + 4 * o) 4)]
      else []

/-- Number of the route with tag `tag` that leaves island `i` at a position; of one with no link entry the tag is all
there is, its bits [3:0] (R127). -/
def routeOf (w : Weave) (i pos d tag : Nat) : Nat :=
  ((w.links.find? fun l => l.src == i && l.pos == pos && l.dir == d && l.route % 16 == tag).map LinkEntry.route).getD tag

/-- Output `o` of a switch sends the route with tag `tag` in slot `sl` (R127). -/
def carries (im : Img) (w : Weave) (cfg i pos o tag sl : Nat) : Bool :=
  let row := rowImg im cfg i pos sl
  bits row (4 * o) 4 != 0 && bits row (32 + 4 * o) 4 == tag && decide (sl < w.len)

/-- The lowest slot in which a unit input of a switch takes the route, with the input code feeding it. -/
def takenAt (im : Img) (w : Weave) (cfg i pos tag : Nat) (outs : List Nat) : Option (Nat × Nat) :=
  (List.range w.len).findSome? fun sl => outs.findSome? fun o =>
    if carries im w cfg i pos o tag sl then some (sl, bits (rowImg im cfg i pos sl) (4 * o) 4) else none

/-- The scheduled delay, in cycles, of the route with tag `tag` up to the switch at `pos` of island `i`, which takes it
from the input with code `code` in slot `sl`: 1 per link, δ × L plus the slot difference per crossing, where the t-th slot
that takes the route answers the t-th slot that sends it (R128, R136, R145). A route through a unit goes on from that
unit's inputs (assumption 12). -/
def delayBack (im : Img) (w : Weave) (cfg tag : Nat) : Nat → List (Nat × Nat × Nat × Nat) → Nat → Nat → Nat → Nat → Int
  | 0, _, _, _, _, _ => 0
  | f + 1, seen, i, pos, code, sl =>
    let here := (i, pos, code, sl)
    if code = 0 ∨ 8 < code ∨ seen.contains here then 0
    else if 4 < code then
      match takenAt im w cfg i pos tag [4, 5, 6, 7] with
      | some (s, c) => delayBack im w cfg tag f (here :: seen) i pos c s
      | none => 0
    else
      let d := code - 1
      let o := opposite d
      match stepPos (pos / 8) (pos % 8) d with
      | some (r, c) =>
        let q := 8 * r + c
        let s := (sl + w.len - 1) % w.len
        if carries im w cfg i q o tag s then
          1 + delayBack im w cfg tag f (here :: seen) i q (bits (rowImg im cfg i q s) (4 * o) 4) s
        else 0
      | none =>
        let q := acrossPos pos d
        match w.links.find? fun l => l.dst == i && l.pos == q && l.dir == o && l.route % 16 == tag with
        | none => 0
        | some l =>
          let pops := (List.range w.len).filter fun x => (List.range 8).any fun y =>
            bits (rowImg im cfg i pos x) (4 * y) 4 == code && carries im w cfg i pos y tag x
          match ((List.range w.len).filter (carries im w cfg l.src q o tag))[pops.idxOf sl]? with
          | none => 0
          | some s => (l.lag * w.len : Nat) + (sl : Int) - s +
            delayBack im w cfg tag f (here :: seen) l.src q (bits (rowImg im cfg l.src q s) (4 * o) 4) s

/-- Delay of a route to a consumer switch, through the inputs `outs`; a route that none of them takes has none. -/
def pathDelay (im : Img) (w : Weave) (cfg i pos route : Nat) (outs : List Nat) : Int :=
  match takenAt im w cfg i pos (route % 16) outs with
  | some (sl, code) => delayBack im w cfg (route % 16) (2048 * w.len) [] i pos code sl
  | none => 0

/-- Check 0x12: the entries each reconvergence needs in the queue on its shorter path (R145). An entry that names no
unit input of the weave has no queue. -/
def skewChecks (im : Img) (w : Weave) : List (Option LoadFail) :=
  w.variants.flatMap fun v => w.rcvs.zipIdx.map fun (r, j) =>
    let ok := decide (r.isl < w.nisl) && decide (r.pos < 64) && decide (4 ≤ r.out) && decide (r.out < 8)
    let dl := pathDelay im w v.offCfg r.isl r.pos r.longRoute [4, 5, 6, 7] + r.longLat
    let ds := pathDelay im w v.offCfg r.isl r.pos r.shortRoute [r.out] + r.shortLat
    let need : Int := if ok then -(-((dl - ds) * r.n) / (w.len : Int)) + 8 else 8
    let given := if ok then bits (im (swOff v.offCfg r.isl r.pos + 128) 4) (8 * (r.out - 4)) 7 else 0
    failIf (decide (need > given)) ⟨0x12, r.isl % 32, r.pos % 64, 3, 0, j, need.toNat, given⟩

/-- Phase C checks 0x11 to 0x14 for a placement (R136, R145, R146, R128). -/
def phaseC (im : Img) (w : Weave) (place : List Nat) : Option LoadFail :=
  let phys i := place.getD i 0
  let lag := w.links.zipIdx.map fun (l, j) =>
    let sum := sumNat ((w.links.filter fun m => m.src == l.src && m.pos == l.pos && m.dir == l.dir).map fun m => (m.lag + 1) * m.slots)
    let lim := linkWork (phys l.src) (phys l.dst)
    failIf (decide (sum > lim)) ⟨0x11, l.src % 32, l.pos % 64, 3, 0, j, sum, lim⟩
  let retained := w.variants.flatMap fun v => (List.range w.nisl).flatMap fun i => (List.range 32).flatMap fun k =>
    (List.range 2).flatMap fun e => (List.range 64).map fun x =>
      let d := bshImgWord im v.offCfg i k e x
      if bits d 58 6 = 9 ∧ bit d 49 then
        let p := posOf k false
        let ports := bits d 56 2 :: (if bit d 55 then [bits d 56 2 + 1] else [])
        let ex := ports.flatMap fun q => (List.range w.len).flatMap fun sl =>
          exitsFrom im w v.offCfg i 64 (8 * p.1 + p.2) (5 + q) sl
        (ex.head?).map fun z => ⟨0x13, i, 8 * p.1 + p.2, 2, e, routeOf w i z.1 z.2.1 z.2.2, routeOf w i z.1 z.2.1 z.2.2, 0⟩
      else none
  let outside := w.variants.flatMap fun v => (List.range w.nisl).flatMap fun i => (List.range 64).flatMap fun pos =>
    (List.range w.len).flatMap fun r => (List.range 4).map fun d =>
      let tag := bits (rowImg im v.offCfg i pos r) (32 + 4 * d) 4
      if bits (rowImg im v.offCfg i pos r) (4 * d) 4 ≠ 0 ∧ (stepPos (pos / 8) (pos % 8) d).isNone then
        match nextIsl (phys i) d with
        | some n => failIf (!place.contains n) ⟨0x14, i, pos, 3, 0, routeOf w i pos d tag, routeOf w i pos d tag, 0⟩
        | none => some ⟨0x14, i, pos, 3, 0, routeOf w i pos d tag, routeOf w i pos d tag, 0⟩
      else none
  let strays := w.links.map fun l => failIf (decide (l.src ≥ w.nisl) || decide (l.dst ≥ w.nisl))
    ⟨0x14, l.src % 32, l.pos % 64, 3, 0, l.route, l.route, 0⟩
  firstBad (lag ++ skewChecks im w ++ retained ++ outside ++ strays)

/-- No candidate placement: islands asked, islands that are candidates (R158, R231, R263). -/
def noCandidate (s : State) (w : Weave) (free : List Nat) : LoadFail :=
  headFail 0x10 0 w.nisl ((List.range 32).filter (candidateIsl s w.part w.hot free)).length

/-- Placements whose islands are all candidates, in the order of R156 (`only`: the island named for island 0). -/
def candPlaces (s : State) (w : Weave) (free : List Nat) (only : Option Nat) : List (List Nat) :=
  (match only with | some k => [k] | none => List.range 32).filterMap fun k => match placeAt w.shape k with
    | some l => if l.all (candidateIsl s w.part w.hot free) then some l else none
    | none => none

/-- The first candidate that passes phase C, or the failure to report. -/
def findPlace (s : State) (im : Img) (w : Weave) (free : List Nat) (only : Option Nat) : List Nat ⊕ LoadFail :=
  let l := candPlaces s w free only
  match l.find? fun p => (phaseC im w p).isNone with
  | some p => .inl p
  | none => match l.getLast? with
    | some p => .inr ((phaseC im w p).getD (noCandidate s w free))
    | none => .inr (noCandidate s w free)

/-- Phases A and B (R158). -/
def checkImage (s : State) (im : Img) (w : Weave) (credit : Nat) : Option LoadFail :=
  match checkHeader im w with
  | some f => some f
  | none =>
    if Config.shake256 (digestBytes im w.size) ≠ im 0x40 32 then some (headFail 2 0x40 0 0)
    else match checkFlags s im w with
      | some f => some f
      | none => match checkRanges im w with
        | some f => some f
        | none => match checkQuota s w credit with
          | some f => some f
          | none => phaseB im w

/-- The load-fault record, unless one is held (R159). -/
def loadFault (s : State) (bd : Nat) (f : LoadFail) : State :=
  if rd s Reg.WVE_LOAD_FAULT_VALID 0 = 1 then s
  else
    let s := wr (wr s Reg.WVE_LOAD_FAULT_CODE 0 f.code) Reg.WVE_LOAD_FAULT_BIND 0 bd
    let s := wr (wr s Reg.WVE_LOAD_FAULT_WISL 0 f.wisl) Reg.WVE_LOAD_FAULT_POS 0 f.pos
    let s := wr (wr s Reg.WVE_LOAD_FAULT_UNIT 0 f.unit) Reg.WVE_LOAD_FAULT_ENG 0 f.eng
    let s := wr (wr s Reg.WVE_LOAD_FAULT_W_INDEX 0 f.word) Reg.WVE_LOAD_FAULT_VALID 0 1
    wr (wr s Reg.WVE_LOAD_ASK 0 f.ask) Reg.WVE_LOAD_AVAIL 0 f.avail

/-! ### Writing a configuration into islands (R155, R160, R163) -/

/-- Words listed at consecutive keys. -/
def putWords (t : Tbl DWord) (k : Nat) (l : List Nat) : Tbl DWord :=
  (l.zipIdx).foldl (fun t p => tset (fun _ => 0) t (k + p.2) (BitVec.ofNat 64 p.1)) t

/-- A stake in the state of R163 step 6. -/
def freshStake (mode : Nat) : Stake := { Stake.idle with mode := mode }
/-- A bushel in the state of R163 step 6: rings of R96, empty queue, every used buffer free. -/
def freshBushel (y : Bushel) : Bushel :=
  { Bushel.idle with
    mode := y.mode, padv := y.padv, rings := y.rings.map fun r => freshRing r.desc, bufs := y.bufs,
    freeBufs := (List.range 64).filter fun b => y.bufs.getD b 0 ≠ 0 }

/-- Writes an island record into physical island `n` (R155). -/
def writeIsland (s : State) (im : Img) (cfg i n : Nat) : State :=
  let s := eachOf (List.range 32) s fun s k =>
    let s := setStk s (32 * n + k) (freshStake (im (stkOff cfg i k) 4))
    let s := { s with fab := { s.fab with
      stkProg := putWords s.fab.stkProg (512 * (32 * n + k)) ((List.range 512).map (stkImgWord im cfg i k)) } }
    let o := bshOff cfg i k
    let y : Bushel := { Bushel.idle with
      mode := im o 4, padv := im (o + 4) 4,
      rings := (List.range 8).map fun r => freshRing (BitVec.ofNat 64 (im (o + 64 + 8 * r) 8)),
      bufs := (List.range 64).map fun b => im (o + 128 + 4 * b) 4 }
    let s := setBsh s (32 * n + k) (freshBushel y)
    { s with fab := { s.fab with
      bshProg := putWords s.fab.bshProg (64 * (2 * (32 * n + k)))
        ((List.range 64).map (bshImgWord im cfg i k 0) ++ (List.range 64).map (bshImgWord im cfg i k 1)) } }
  eachOf (List.range 64) s fun s pos =>
    let z := 64 * n + pos
    { (setSw s z Switch.idle) with fab := { (setSw s z Switch.idle).fab with
      rows := putWords s.fab.rows (16 * z) ((List.range 16).map (rowImg im cfg i pos)),
      skewW := tset (fun _ => 0) s.fab.skewW z (BitVec.ofNat 32 (im (swOff cfg i pos + 128) 4)) } }

/-- The lags of a weave's routes stand at their receiving crossings (R136). -/
def writeLags (s : State) (w : Weave) (place : List Nat) : State :=
  eachOf w.links s fun s l =>
    let key := 16 * linkKey (place.getD l.dst 0) (acrossPos l.pos l.dir) (opposite l.dir) + l.route % 16
    { s with fab := { s.fab with lag := tset (fun _ => 0) s.fab.lag key l.lag } }

/-- Writes a variant's configuration into the islands of a placement. -/
def writeVariant (s : State) (im : Img) (w : Weave) (v : Nat) (place : List Nat) : State :=
  let cfg := ((w.variants[v]?).map Variant.offCfg).getD 0
  writeLags (eachOf place.zipIdx s fun s p =>
    wr (writeIsland s im cfg p.2 p.1) Reg.ISL_FAB_SLOT_LEN p.1 w.lenM1) w place

/-- Every switch of island `n` and the crossings into it are as new (R163 step 6). -/
def clearFabric (s : State) (n : Nat) : State :=
  eachOf (List.range 64) s fun s pos =>
    eachOf (List.range 12) (setSw s (64 * n + pos) Switch.idle) fun s d => setXing s (12 * (64 * n + pos) + d) Crossing.idle

/-- Bit mask of a placement. -/
def placeMask (l : List Nat) : Nat := ofBits l

/-- Distance of island `n`, by rounds of one hop each. -/
def hopOf (place : List Nat) (n : Nat) : Nat :=
  let step (k : Nat) (reach : List Nat) : List Nat := (List.range k).foldl (fun r _ =>
    place.filter fun m => r.contains m || (List.range 4).any fun d => match nextIsl m d with
      | some x => r.contains x && place.contains x | none => false) reach
  ((List.range 32).find? fun k => (step k (place.take 1)).contains n).getD 0

/-- Direction of an island's hold-tree parent: among its neighbours of the weave one hop nearer the root, the one of
lowest weave-relative index (R140). -/
def parentOf (place : List Nat) (n : Nat) : Option Nat :=
  let near := (List.range 4).filterMap fun d => match nextIsl n d with
    | some m => if place.contains m && decide (hopOf place m < hopOf place n) then some (place.idxOf m, d) else none
    | none => none
  (near.foldl (fun b x => match b with
    | none => some x
    | some y => if x.1 < y.1 then some x else some y) (none : Option (Nat × Nat))).map Prod.snd

/-- Islands taken for a binding, with their hold-tree parents (R140, R157). -/
def takeIslands (s : State) (bd : Nat) (nw : Bool) (place : List Nat) : State :=
  eachOf place.zipIdx s fun s p =>
    let n := p.1
    let s := setIsl s n { Island.idle with
      bind := some bd, newWeave := nw, wrel := p.2, stopped := true,
      parent := if p.2 = 0 then none else parentOf place n }
    wr (wr s Reg.ISL_WV_STAT_BIND n bd) Reg.ISL_WV_STAT_WREL n p.2

/-- Tree edges of each island: its parent and the islands whose parent it is (R140). -/
def linkTree (s : State) (place : List Nat) : State :=
  eachOf place s fun s n =>
    let kids := (List.range 4).filter fun d => match nextIsl n d with
      | some m => place.contains m && decide ((isl s m).parent = some (opposite d))
      | none => false
    let t := (match (isl s n).parent with | some d => [d] | none => []) ++ kids
    let s := setIsl s n { isl s n with tree := sortBy (fun a b => decide (a ≤ b)) t }
    wr (wr s Reg.ISL_FAB_HOLD_TREE n (ofBits t)) Reg.ISL_FAB_HOLD_ROOT n (oneIf (isl s n).parent.isNone)

/-- Islands given up by a binding: no weave, gated (R132, R394). -/
def freeIslands (s : State) (place : List Nat) : State :=
  eachOf place s fun s n =>
    let s := eachOf (List.range 32) s fun s k => setBsh (setStk s (32 * n + k) Stake.idle) (32 * n + k) Bushel.idle
    let s := clearFabric s n
    let s := { s with fab := { s.fab with lag := tclear s.fab.lag (4096 * n) 4096 } }
    let s := setIsl s n Island.idle
    let s := wr (wr s Reg.ISL_FAB_HOLD_TREE n 0) Reg.ISL_FAB_HOLD_ROOT n 0
    let s := wr (wr (wr s Reg.ISL_FAB_HOLD_OWN n 0) Reg.ISL_FAB_HOLD_IN n 0) Reg.ISL_FAB_HOLD_CAUSE n 0
    let s := wr (wr (wr s Reg.ISL_WV_STAT_RUN n 0) Reg.ISL_WV_STAT_BIND n 0) Reg.ISL_WV_STAT_WREL n 0
    let s := wr (wr s Reg.ISL_FAB_SLOT_SLOT n 0) Reg.ISL_FAB_SLOT_LEN n 0
    wr (wr s Reg.ISL_FAB_SLOT_RUN n 0) Reg.CLK_FREQ_MHZ n 1000

end Sys2Proof.Machine
end

