-- ==== Sys2Proof/Machine/WeaveExec.lean ====
section
/-! DEFINITION. The weave engine: loads, invocations, replacements, relocation (R153 to R180). -/

namespace Sys2Proof.Machine

/-! ### Small parts -/

def setState (s : State) (bd v : Nat) : State := wr s Reg.WVE_BIND_STATE bd v

/-- Ranges a porter has read for the partition with no destination in device memory (R197, R254). -/
def imageBytes (s : State) (p : Nat) (l : List (Nat × Nat)) : State :=
  chargePb (eachOf l s fun s x => heatUp s p x.1 x.2) p (sumNat (l.map Prod.snd))

/-- The weave image at `a`, read for command (r, i): held on a fault, waiting, or as far as its header goes (R153). It
is read by a porter whose turn is the partition's; which porter the spec does not say (R255, assumption 89). -/
def readImage (s : State) (p a r i : Nat) : Gate :=
  if !(List.range 8).any fun q => porterTurn s q p then .wait s
  else match gate s p a 256 false false (.image r i) with
  | .go s =>
    let n := if (checkHeader (imgAt s p a) (parseWeave (imgAt s p a) p a false)).isSome then 256 else memRead s p (a + 8) 8
    match gateAll s p false (.image r i) [(a, 256), (a + 256, n - 256)] with
    | .go s => .go (imageBytes s p [(a, n)])
    | x => x
  | x => x

/-- The same for a command that may come here more than once before it is placed: the image is read once, and its bytes
counted once (R160, R254). -/
def readOnce (s : State) (p a : Nat) (c : Cmd) : Gate :=
  if c.arv ≠ 0 then .go s
  else match readImage s p a c.ring c.idx with
    | .go s => .go (modCmd s c.ring c.idx fun c => { c with arv := 1 })
    | x => x

/-- The command is held on a fault record. -/
def isHeld (s : State) (r i : Nat) : Bool := match getCmd s r i with | some c => c.st == .held | none => false

/-- A command is set aside on a fault record (R203). -/
def setAside (s : State) (r i : Nat) : State := markHeld s r i

/-- T1 bushels of a weave (R181). -/
def t1Of (w : Weave) : Nat := if w.hot then 0 else 32 * w.place.length

/-- A weave that has passed its checks takes its T1 bushels (R158 check 0x05, R181). -/
def takeT1 (s : State) (w : Weave) : State := up s Reg.XLT_U_T1 w.part (if w.hot then 0 else 32 * w.nisl)

/-- It gives them back. -/
def giveT1 (s : State) (w : Weave) : State := down s Reg.XLT_U_T1 w.part (if w.hot then 0 else 32 * w.nisl)

/-- A weave's islands are given up, and its bushels return (R181). -/
def dropWeave (s : State) (w : Weave) : State := down (freeIslands s w.place) Reg.XLT_U_T1 w.part (t1Of w)

/-- A binding becomes EMPTY (R161, assumption 13). -/
def emptyBinding (s : State) (bd : Nat) : State :=
  let s := wr (wr (setState s bd 0) Reg.WVE_BIND_PART bd 0) Reg.WVE_BIND_VAR bd 0
  let s := wr (wr s Reg.WVE_BIND_CARRY bd 0) Reg.WVE_BIND_GEN bd 0
  let s := wr (wr s Reg.WVE_BIND_PLACE bd 0) Reg.WVE_BIND_PLACE_NEW bd 0
  setBind (wr2 s Reg.WVE_BIND_IMG_LO Reg.WVE_BIND_IMG_HI bd 0) bd Binding.idle

/-- The islands of a placement are taken and the first variant's configuration written into them (R157, R160). -/
def putWeave (s : State) (im : Img) (w : Weave) (bd v : Nat) (nw : Bool) (place : List Nat) : State :=
  linkTree (writeVariant (takeIslands s bd nw place) im w v place) place

/-- Island-nanoseconds of `n` islands since a time (R254), to the partition and the command. -/
def chargeSince (s : State) (p n since r i : Nat) : State :=
  let ns := n * (1000 * (s.now - since))
  modCmd (chargeIsl s p ns) r i fun c => { c with cost := c.cost + ns }

/-- The SRAM of a weave's bushels is zeroed (R231). -/
def zeroSram (s : State) (place : List Nat) : State :=
  eachOf place s fun s n => { s with fab := { s.fab with
    sram := tclear s.fab.sram (2 ^ 21 * (32 * n)) (2 ^ 26)
    badPar := tclear s.fab.badPar (2 ^ 21 * (32 * n)) (2 ^ 26) } }

/-! ### LOAD (R156 to R160, R231) -/

/-- A load ends in failure: the binding is EMPTY again. -/
def loadFails (s : State) (c : Cmd) (bd code : Nat) : State := finish (emptyBinding s bd) c.ring c.idx code 0

/-- The checks have passed and a placement is chosen: the configuration is written. -/
def loadPlaced (s : State) (c : Cmd) (bd : Nat) (im : Img) (w : Weave) (place : List Nat) : State :=
  let s := putWeave s im w bd 0 false place
  let s := if w.hot then zeroSram s place else s
  let s := setBind s bd { bind s bd with cur := some { w with place := place }, since := s.now }
  modCmd (fresh s) c.ring c.idx fun c => { c with bind := some bd, landed := [] }

/-- READY HOT bindings of a partition without waiting commands, oldest last use first (R231). -/
def hotVictim (s : State) (p : Nat) : Option Nat :=
  let l := (List.range 32).filter fun b =>
    rd s Reg.WVE_BIND_STATE b == 2 && rd s Reg.WVE_BIND_PART b == p &&
    (match (bind s b).cur with | some w => w.hot | none => false) && (bind s b).op.isNone &&
    !(s.front.inflight.any fun c => !c.finished && decide (0x11 ≤ c.op) && decide (c.op ≤ 0x14) && c.bd == b)
  l.foldl (fun a b => match a with
    | none => some b
    | some x => if (bind s b).lastUse < (bind s x).lastUse then some b else some x) none

/-- A HOT binding is unloaded to make room (R231). -/
def hotEvict (s : State) (b : Nat) : State :=
  let s := match (bind s b).cur with | some w => dropWeave s w | none => s
  let s := bump (emptyBinding s b) Reg.WVE_HS_EVICT 0 1
  wr (wr s Reg.WVE_HS_LAST_BIND 0 b) Reg.WVE_HS_LAST_VALID 0 1

/-- Placement of a load, with the evictions a HOT load makes. -/
def placeLoad (im : Img) (w : Weave) (only : Option Nat) : Nat → State → State × (List Nat ⊕ LoadFail)
  | 0, s => (s, findPlace s im w [] only)
  | f + 1, s =>
    match findPlace s im w [] only with
    | .inl p => (s, .inl p)
    | .inr x => if w.hot then (match hotVictim s w.part with
        | some b => placeLoad im w only f (hotEvict s b)
        | none => (s, .inr (noCandidate s w []))) else (s, .inr x)

/-! ### Full yields (R206, R258, R259) -/

/-- Size of a save area (R260). -/
def saveSize (place : List Nat) : Nat :=
  let pairs := place.flatMap fun a => ([1, 2].filterMap fun d => match nextIsl a d with
    | some b => if place.contains b then some (a, b) else none
    | none => none)
  let x := (pairs.filter fun e => crossDie e.1 e.2).length
  65536 + 54572288 * place.length + 34816 * (pairs.length - x) + 104448 * x

/-- Invocation command (r, i) as it runs: binding, which weave, the weave and the invocation. -/
def runOfCmd (s : State) (r i : Nat) : Option (Nat × Bool × Weave × Invoc) :=
  (List.range 32).findSome? fun b => [false, true].findSome? fun nw =>
    match weaveOf s b nw, invOf s b nw with
    | some w, some v => if v.ring = r ∧ v.idx = i then some (b, nw, w, v) else none
    | _, _ => none

/-- Pages of a save area that are not yet in T2, or are on their way out of it; none where the area cannot be pinned
(R206). -/
def savePages (s : State) (p : Nat) (c : Cmd) : Option (List Nat) :=
  let l := pagesOf (c.fld 0x30 8) (c.fld 0x38 8)
  if l.all fun g => let e := l3e s p g; rd s Reg.XLT_ROOT_VALID p == 1 && isLocal e && eWr e && !ePsn e
  then some (l.filter fun g => eTier (l3e s p g) = 1 || (migTo s (segKey p g)) == some 1) else none

/-- The islands of the invocation stop (R259 step 1). -/
def stopForYield (s : State) (r i : Nat) : State :=
  match runOfCmd s r i with
  | none => s
  | some (bd, nw, w, v) =>
    let s := eachOf w.place s fun s n => setIsl s n { isl s n with stopped := true }
    let s := setInv s bd nw (some { v with stopped := true })
    { modCmd s r i (fun c => { c with st := .yielding }) with
      wve := { s.wve with yields := s.wve.yields.map fun y =>
        if y.ring = r ∧ y.idx = i then { y with pinning := false, since := s.now } else y } }

/-- Segments of a save area still in T3 are promoted, one migration each (R206); none where one cannot be charged. -/
def promote (s : State) (p : Nat) : List Nat → Option State
  | [] => some s
  | g :: l => match bringTo s p g 0 2 none with
    | .done s => promote s p l
    | .wait s => promote s p l
    | .quota _ _ => none

/-- What a full yield meets: it starts, or is refused with a code (R258). -/
inductive YieldRes where
  | started (s : State) | no (code : Nat)
  deriving Repr

/-- Starts the full yield of the running invocation (r, i) for a reason (R258, R440). -/
def startYield (s : State) (r i reason : Nat) (by_ : Option (Nat × Nat)) : YieldRes :=
  match getCmd s r i, runOfCmd s r i with
  | some c, some (bd, _, w, _) =>
    if c.fld 0x30 8 = 0 ∨ c.fld 0x38 8 < saveSize w.place then .no 0x33
    else match savePages s (partOf r) c with
    | none => .no 0x31
    | some far => match promote s (partOf r) far with
      | none => .no 0x31
      | some s =>
        let s := { s with wve := { s.wve with yields := s.wve.yields ++ [⟨r, i, bd, reason, by_, true, false, s.now⟩] } }
        let s := modCmd s r i fun c => { c with yReason := reason }
        .started (if far.isEmpty then stopForYield s r i else s)
  | _, _ => .no 0x34

/-- A full yield of the invocation is under way, or its restore (R258). -/
def yieldBusy (s : State) (r i : Nat) : Bool :=
  s.wve.yields.any (fun y => y.ring == r && y.idx == i) || s.wve.restores.any fun y => y.tring == r && y.tidx == i

/-- An urgent LOAD or RESUME that waits for islands of a placement whose yield has been refused fails with check 0x10
(R263). -/
def urgentRefused (s : State) (place : List Nat) : State :=
  match s.front.inflight.find? fun c => (c.op == 0x10 || c.op == 0x16) && !c.finished && c.landed.any place.contains with
  | none => s
  | some c =>
    let p := partOf c.ring
    if c.op = 0x10 then
      let im := imgAt s p (c.fld 0x10 8)
      let w := parseWeave im p (c.fld 0x10 8) (bit (c.fld 0x19 1) 0)
      let s := loadFault (giveT1 s w) c.bd (noCandidate s w [])
      loadFails s c c.bd 0x10
    else
      let s := match s.wve.saved.find? fun y => y.ring == c.fld 0x1C 2 && y.idx == c.fld 0x20 4 with
        | some y => loadFault s y.bind (noCandidate s y.weave [])
        | none => s
      finish s c.ring c.idx 0x10 0

/-- A yield that waited for its save area is refused after all: the YIELD that asked fails, a conversion leaves the weave
frozen, an urgent placement fails (R204, R258, R263). -/
def refuseYield (s : State) (y : Yielding) (code : Nat) : State :=
  let place := match runOfCmd s y.ring y.idx with | some (_, _, w, _) => w.place | none => []
  let s := { s with wve := { s.wve with yields := s.wve.yields.filter fun z => !(z.ring == y.ring && z.idx == y.idx) } }
  let s := bump s Reg.CMD_YLD_REFUSE 0 1
  match y.by_ with
  | some (a, b) => finish s a b code (if code = 0x31 then y.reason else 0)
  | none => if y.reason = 2 then bump s Reg.XLT_FLT_NOYIELD 0 1 else urgentRefused s place

/-- Yields that wait for promotions go on once every page is in T2 (R206); a promotion that ended without its switch is
started again. A yield whose area can no longer be pinned is refused. -/
def resumePinned (s : State) : State :=
  eachOf (s.wve.yields.filter fun y => y.pinning) (retryNeeds s) fun s y =>
    match getCmd s y.ring y.idx with
    | none => refuseYield s y 0x34
    | some c =>
      if c.finished then refuseYield s y 0x34
      else match savePages s (partOf y.ring) c with
      | none => refuseYield s y 0x31
      | some [] => stopForYield s y.ring y.idx
      | some l => match promote s (partOf y.ring) l with
        | some s => s
        | none => refuseYield s y 0x31

/-! ### Urgent placement (R263) -/

/-- Running invocations of a partition with a save area: ring, index, islands, in ascending binding number. -/
def yieldable (s : State) (p : Nat) : List (Nat × Nat × List Nat) :=
  (List.range 32).flatMap fun b => [false, true].filterMap fun nw => match weaveOf s b nw, invOf s b nw with
    | some w, some v =>
      let ok : Bool := match getCmd s v.ring v.idx with
        | some c => decide (c.fld 0x30 8 ≠ 0) && !c.finished
        | none => false
      if w.part = p ∧ !w.place.isEmpty ∧ ok then some (v.ring, v.idx, w.place) else none
    | _, _ => none

/-- The yields of an urgent placement, in order; the second result says none was refused. -/
def urgentYields (s : State) : List (Nat × Nat × List Nat) → State × Bool
  | [] => (s, true)
  | (r, i, _) :: l =>
    if yieldBusy s r i then urgentYields s l
    else match startYield s r i 3 none with
      | .started s => urgentYields s l
      | .no _ => (bump s Reg.CMD_YLD_REFUSE 0 1, false)

/-- An urgent command finds no free candidate: a placement over running invocations is chosen and they yield. None where
there is no such candidate, or a yield is refused. -/
def urgentPlace (s : State) (c : Cmd) (im : Img) (w : Weave) (only : Option Nat) (ok : List Nat → Bool) : State × Bool :=
  let vs := yieldable s w.part
  let free := vs.flatMap fun v => v.2.2
  match (candPlaces s w free only).find? fun p => ok p && (phaseC im w p).isNone with
  | none => (s, false)
  | some pl =>
    let x := urgentYields s (vs.filter fun v => v.2.2.any pl.contains)
    if x.2 then (modCmd x.1 c.ring c.idx fun c => { c with landed := pl }, true) else (x.1, false)

/-- PLACE of a LOAD, REPLACE or RESUME (R244). -/
def Cmd.only (c : Cmd) : Option Nat := if bit (c.fld 0x19 1) 1 then some (c.fld 0x1A 1) else none

/-- The checks and placement of a LOAD, the image being readable. -/
def loadGo (s : State) (c : Cmd) (bd : Nat) : State :=
  let p := partOf c.ring
  let a := c.fld 0x10 8
  let im := imgAt s p a
  let w := parseWeave im p a (bit (c.fld 0x19 1) 0)
  match checkImage s im w 0 with
  | some f => loadFails (loadFault (fresh s) bd f) c bd f.code
  | none =>
    match placeLoad im w c.only 32 s with
    | (s, .inl pl) => loadPlaced (takeT1 s w) c bd im w pl
    | (s, .inr f) =>
      if c.urgent then
        match urgentPlace s c im w c.only (fun _ => true) with
        | (s, true) => takeT1 s w
        | (s, false) => loadFails (loadFault (fresh s) bd (noCandidate s w [])) c bd 0x10
      else loadFails (loadFault (fresh s) bd f) c bd f.code

/-- LOAD (R158, R159, R231, R244, R263). Sent again, it goes on from where it waited. -/
def execLoad (r i : Nat) (s : State) : Out := onCmd r i 0x10 s fun c s =>
  let p := partOf r
  let bd := c.bd
  let st := rd s Reg.WVE_BIND_STATE bd
  let mine := decide ((bind s bd).loading = some (r, i)) && (bind s bd).op.isNone
  if st ≠ 0 ∧ rd s Reg.WVE_BIND_PART bd ≠ p then finish s r i 0x36 0
  else if st = 6 then finish s r i 0x23 0
  else if st ≠ 0 ∧ !mine then finish s r i 0x34 0
  else if mine ∧ (bind s bd).cur.isSome then s
  else
    let s := setBind (wr (setState s bd 1) Reg.WVE_BIND_PART bd p) bd { bind s bd with loading := some (r, i) }
    let s := modCmd s r i fun c => { c with bind := some bd }
    match readOnce s p (c.fld 0x10 8) c with
    | .wait s => s
    | .held s => setAside s r i
    | .go s =>
      if c.landed.isEmpty then loadGo s c bd
      else if c.landed.all fun k => (isl s k).bind.isNone then
        let im := imgAt s p (c.fld 0x10 8)
        loadPlaced s c bd im (parseWeave im p (c.fld 0x10 8) (bit (c.fld 0x19 1) 0)) c.landed
      else s

/-- LOAD_COMPLETE (R160, R170, R173 to R175): the configuration of the first variant stands in the islands. -/
def execLoadComplete (bd : Nat) (s : State) : Out :=
  onUnit (bd < 32) (live s (
    let b := bind s bd
    let settle (s : State) (w : Weave) (r i : Nat) : State := chargeSince s w.part w.place.length b.since r i
    let ready (s : State) (w : Weave) (r i : Nat) : State :=
      let s := wr (wr (setState s bd 2) Reg.WVE_BIND_VAR bd 0) Reg.WVE_BIND_PLACE bd (placeMask w.place)
      let s := wr (wr s Reg.WVE_BIND_PLACE_NEW bd 0) Reg.WVE_BIND_CARRY bd 0
      let s := wr2 s Reg.WVE_BIND_IMG_LO Reg.WVE_BIND_IMG_HI bd w.img
      let s := setBind s bd { bind s bd with op := none, loading := none, lastUse := s.now }
      finish (settle s w r i) r i 0 0
    match b.loading, b.op, b.cur, b.new with
    | some (r, i), none, some w, _ => ready (wr s Reg.WVE_BIND_GEN bd 1) w r i
    | some (r, i), some (.drain, _, _), some w, _ => ready s w r i
    | some (r, i), some (.relocate, _, _), some w, _ => ready s w r i
    | some (r, i), some (.carry, _, _), _, some w =>
      settle (setBind s bd { bind s bd with loading := none }) w r i
    | _, _, _, _ => s))

/-! ### INVOKE (R162 to R164, R230, R234) -/

/-- Steps of R234 before those of R163: the latch, and the reference the command holds. -/
def latchModel (s : State) (c : Cmd) : State :=
  if !bit (c.fld 0x11 1) 1 ∨ c.mref.isSome then s
  else
    let p := partOf c.ring
    let m := c.fld 0x12 1
    let keep := !bit (c.fld 0x11 1) 2 && (match latch s c.ring with | some (k, _) => k == m | none => false)
    let s := if keep then s
      else
        let was := latch s c.ring
        let act := (model s p m).active
        let s := refAdd (setLatchM s c.ring (some (m, act))) p m act 1
        match was with
        | some (k, set) => swapCheck (refAdd s p k set (-1)) p k
        | none => s
    match latch s c.ring with
    | some (_, set) =>
      let s := refAdd s p m set 1
      let s := setModel s p m { model s p m with lastUse := s.now }
      modCmd s c.ring c.idx fun c => { c with mref := some (m, set) }
    | none => s

/-- Invocation words of a command: VCOUNT words of memory, zeros, and the set base in word W (R163, R234, R245). -/
def wordsOf (s : State) (c : Cmd) : List Nat :=
  let p := partOf c.ring
  let l := (List.range 16).map fun k => if k < c.fld 0x13 1 then memRead s p (c.fld 0x28 8 + 8 * k) 8 else 0
  match getCmd s c.ring c.idx with
  | some d => (match d.mref with
    | some (m, set) => setAt l (bits (c.fld 0x11 1) 4 4) ((model s p m).base.getD set 0)
    | none => l)
  | none => l

/-- Physical unit an override names (R155). -/
def overUnit (place : List Nat) (o : OverEntry) : Nat :=
  32 * place.getD (bits o.unit 0 10 / 32) 0 + bits o.unit 0 10 % 32

/-- Step 5 of R163: the overrides, with N, T and E. -/
def writeOvers (s : State) (w : Weave) (place : List Nat) (n t e : Nat) : State :=
  eachOf w.overs s fun s o =>
    let k := overUnit place o
    if bit o.unit 10 then
      let key := 64 * (2 * k + bits o.unit 11 1) + o.word
      let d := (tget (fun _ => 0) s.fab.bshProg key).toNat
      let d := BitVec.ofNat 64 (putBits d 0 24 (if o.kind = 1 then n else t))
      { s with fab := { s.fab with bshProg := tset (fun _ => 0) s.fab.bshProg key d } }
    else
      let key := 512 * k + o.word
      let d := (tget (fun _ => 0) s.fab.stkProg key).toNat
      let v := if o.kind = 3 then putBits d 29 5 e else putBits d 0 24 (if o.kind = 1 then n else t)
      { s with fab := { s.fab with stkProg := tset (fun _ => 0) s.fab.stkProg key (BitVec.ofNat 64 v) } }

/-- Step 6 of R163: every unit, switch and crossing of the weave, and the island weave counters (R32, R96, R178). -/
def resetUnits (s : State) (place : List Nat) (seed : Nat) (words : List Nat) : State :=
  eachOf place s fun s n =>
    let s := eachOf (List.range 32) s fun s k =>
      let x := freshStake (stk s (32 * n + k)).mode
      let s := setStk s (32 * n + k) { x with vec := { x.vec with gen := srInit seed (32 * n + k) } }
      setBsh s (32 * n + k) (freshBushel (bsh s (32 * n + k)))
    let s := clearFabric s n
    let s := eachOf (List.range 16) s fun s k => ww s (0x10440 + 0x1000 * n + 4 * k) 0
    let s := eachOf (List.range 64) s fun s k => ww s (0x10500 + 0x1000 * n + 4 * k) 0
    let s := wr (wr s Reg.ISL_WV_STAT_STEPS n 0) Reg.ISL_WV_STAT_LOG_OVF n 0
    let s := wr (wr s Reg.ISL_CHK_CMD n 0) Reg.ISL_FAB_SLOT_SLOT n 0
    let s := { s with fab := { s.fab with vwords := putWords s.fab.vwords (16 * n) words } }
    let i := isl s n
    noteHold (setIsl s n { Island.idle with
      bind := i.bind, newWeave := i.newWeave, wrel := i.wrel, tree := i.tree, parent := i.parent }) n

/-- Tile trip count T of R163 step 5. -/
def tilesOf (w : Weave) (v : Variant) (e : Nat) : Nat := if w.rtmode = 1 then cdiv e w.extTile else v.tiles

/-- Steps 3 to 6 of R163, N and E being in range; `l` are the words read for the invocation. -/
def invokeRun (s : State) (c : Cmd) (bd : Nat) (nw : Bool) (w : Weave) (n : Nat) (l : List (Nat × Nat)) : State :=
  let p := partOf c.ring
  let e := c.fld 0x20 4 % 2 ^ 24
  let k := if w.rtmode = 0 then 0 else (w.variants.findIdx? fun v => decide (v.extLim ≥ e)).getD 0
  match w.variants[k]? with
  | none => s
  | some v =>
    let cfg := w.img + v.offCfg
    match gateAll s p false (.image c.ring c.idx) (l ++ if k = w.var then [] else [(cfg, islRec * w.nisl)]) with
    | .wait s => s
    | .held s => setAside s c.ring c.idx
    | .go s =>
      let s := if l.isEmpty then s else imageBytes s p l
      let s := if k = w.var then s
        else
          let s := writeVariant (imageBytes s p [(cfg, islRec * w.nisl)]) (imgAt s p w.img) w k w.place
          if nw then s else wr s Reg.WVE_BIND_VAR bd k
      let w := { w with var := k }
      let b := bind s bd
      let s := setBind s bd (if nw then { b with new := some w } else { b with cur := some w, lastUse := s.now })
      let t := tilesOf w v e
      let words := wordsOf s c
      let s := writeOvers s w w.place n t e
      let s := resetUnits (fresh s) w.place (c.fld 0x24 4) words
      let inv : Invoc := {
        ring := c.ring, idx := c.idx, gen := c.fld 0x14 4, var := k, n := n, e := e, seed := c.fld 0x24 4, words := words,
        released := 0, done := [], stopped := false, rounds := v.pro + n * (v.bfix + t * v.btile) + v.epi }
      let s := setInv s bd nw (some inv)
      let s := modCmd s c.ring c.idx fun c => { c with bind := some bd }
      if rd s Reg.WVE_BIND_STATE bd = 2 then setState s bd 3 else s

/-- An invocation fails before any island is released (R163, R180). -/
def invokeFails (s : State) (c : Cmd) (code v : Nat) : State :=
  finish (runFault s c.bd code 0 0 v) c.ring c.idx code 0

/-- Steps 2 to 6 of R163. -/
def invokeGo (s : State) (c : Cmd) (nw : Bool) (w : Weave) : State :=
  let p := partOf c.ring
  let ind := bit (c.fld 0x11 1) 0
  let h := HeldReq.image c.ring c.idx
  let l := if ind then [(c.fld 0x18 8, 8)] else []
  let fails (s : State) (code v : Nat) : State := match gateAll s p false h l with
    | .wait s => s
    | .held s => setAside s c.ring c.idx
    | .go s => invokeFails (fresh (imageBytes s p l)) c code v
  match gates s s p false false h l with
  | .wait s => s
  | .held s => setAside s c.ring c.idx
  | .go s =>
    let n := if ind then memRead s p (c.fld 0x18 8) 8 else c.fld 0x18 8 % 2 ^ 24
    let e := c.fld 0x20 4 % 2 ^ 24
    if n > w.tripMax then fails s 0x20 (n % 2 ^ 32)
    else if w.rtmode ≠ 0 ∧ (e = 0 ∨ e > w.extMax) then fails s 0x21 e
    else
      let vn := 8 * c.fld 0x13 1
      let l := l ++ if vn = 0 then [] else [(c.fld 0x28 8, vn)]
      match gates s s p false false h l with
      | .wait s => s
      | .held s => setAside s c.ring c.idx
      | .go s => invokeRun s c c.bd nw w n l

/-- INVOKE (R162, R163, R170, R230, R234, R245). -/
def execInvoke (r i : Nat) (s : State) : Out := onCmd r i 0x11 s fun c s =>
  if (runOfCmd s r i).isSome then s
  else
    let m := c.fld 0x12 1
    match invokeVerdict s c with
    | .wait => s
    | .fail 0x36 => finish s r i 0x36 0
    | v =>
      if bit (c.fld 0x11 1) 1 ∧ (model s (partOf r) m).cls = 2 then finish s r i 0x56 0
      else
        let s := latchModel s c
        match v with
        | .fail code => invokeFails s c code (if code = 0x22 then c.fld 0x14 4 else 0)
        | .wait => s
        | .start nw => match weaveOf s c.bd nw with
          | some w => invokeGo s c nw w
          | none => invokeFails s c 0x23 0

/-- ISLAND_RELEASE (R163 step 7, R178, R261, R377, R378): the next island of the binding's invocation, `ns` nanoseconds
after the first. -/
def execIslandRelease (bd ns : Nat) (s : State) : Out :=
  onUnit (bd < 32) (live s (
    let go (nw : Bool) : Option State := match weaveOf s bd nw, invOf s bd nw with
      | some w, some v =>
        if v.stopped ∨ yieldBusy s v.ring v.idx then none
        else match w.place[v.released]? with
        | none => none
        | some n =>
          let again := match getCmd s v.ring v.idx with | some c => c.yOnce | none => false
          let s := if v.released = 0 then setFreqs s w.part w.place else s
          let s := setIsl s n { isl s n with released := true, stopped := false }
          let s := wr (wr s Reg.ISL_WV_STAT_RUN n 1) Reg.ISL_FAB_SLOT_RUN n 1
          let s := if again then s else wr s Reg.ISL_WV_STAGGER n (min ns (2 ^ 32 - 1))
          some (setInv s bd nw (some { v with released := v.released + 1 }))
      | _, _ => none
    if rd s Reg.PWR_STAT_BRAKE 0 = 1 then s else ((go false).orElse fun _ => go true).getD s))

/-! ### REPLACE, RELOCATE, UNLOAD (R172 to R175) -/

/-- A placement of a shape within the islands of another weave: the lowest one (R172). -/
def fitsIn (w : Weave) (old : List Nat) (only : Option Nat) : Option (List Nat) :=
  (match only with | some k => [k] | none => List.range 32).findSome? fun k => match placeAt w.shape k with
    | some l => if l.all old.contains then some l else none
    | none => none

/-- Placement of a REPLACE (R172, R174). -/
def replacePlace (s : State) (im : Img) (w : Weave) (old : List Nat) (carry : Bool) (only : Option Nat) :
    List Nat ⊕ LoadFail :=
  if carry then findPlace s im w [] only
  else match fitsIn w old only with
    | some l => (match phaseC im w l with | none => .inl l | some f => .inr f)
    | none => findPlace s im w old only

/-- REPLACE (R158, R170, R172 to R174, R244). -/
def execReplace (r i : Nat) (s : State) : Out := onCmd r i 0x12 s fun c s =>
  let p := partOf r
  let bd := c.bd
  let st := rd s Reg.WVE_BIND_STATE bd
  let b := bind s bd
  if st ≠ 0 ∧ rd s Reg.WVE_BIND_PART bd ≠ p then finish s r i 0x36 0
  else if st = 0 ∨ st = 6 then finish s r i 0x23 0
  else if b.op.isSome then s
  else match readImage s p (c.fld 0x10 8) r i with
  | .wait s => s
  | .held s => setAside s r i
  | .go s =>
    let carry := bit (c.fld 0x19 1) 2
    let oldW := b.cur
    let old := (oldW.map Weave.place).getD []
    let hot := (oldW.map Weave.hot).getD false
    let im := imgAt s p (c.fld 0x10 8)
    let w := parseWeave im p (c.fld 0x10 8) hot
    let bad (s : State) (f : LoadFail) := finish (loadFault (fresh s) bd f) r i f.code 0
    match checkImage s im w (if carry then 0 else (oldW.map t1Of).getD 0) with
    | some f => bad s f
    | none => match replacePlace s im w old carry c.only with
      | .inr f => bad s f
      | .inl pl =>
        let w := { w with place := pl }
        let s := wr (setState s bd 4) Reg.WVE_BIND_GEN bd ((rd s Reg.WVE_BIND_GEN bd + 1) % 2 ^ 32)
        let s := wr (wr s Reg.WVE_BIND_PLACE_NEW bd (placeMask pl)) Reg.WVE_BIND_CARRY bd (oneIf carry)
        let s := modCmd s r i fun c => { c with bind := some bd }
        if carry then
          let s := takeT1 (putWeave s im w bd 0 true pl) w
          let b := { bind s bd with new := some w, op := some (.carry, r, i), loading := some (r, i), since := s.now }
          fresh (setBind s bd b)
        else fresh (setBind s bd { bind s bd with new := some w, op := some (.drain, r, i) })

/-- Commands of the old generation are done: none running, waiting or yielded (R173 to R175). -/
def oldDone (s : State) (bd g r i : Nat) : Bool :=
  (bind s bd).inv.isNone &&
  !(s.front.inflight.any fun c => c.op == 0x11 && !c.finished && c.bd == bd && c.fld 0x14 4 == g && before s c r i &&
    partOf c.ring == rd s Reg.WVE_BIND_PART bd)

/-- Generation before `g`. -/
def genBefore (g : Nat) : Nat := (g + (2 ^ 32 - 1)) % 2 ^ 32

/-- A binding finds no placement (R173, R175). -/
def noPlace (s : State) (bd r i code : Nat) : State :=
  let s := wr (wr (setState s bd 6) Reg.WVE_BIND_PLACE bd 0) Reg.WVE_BIND_PLACE_NEW bd 0
  let s := setBind (wr s Reg.WVE_BIND_CARRY bd 0) bd
    { bind s bd with cur := none, new := none, op := none, loading := none }
  finish s r i code 0

/-- The load step of a drain REPLACE or of a RELOCATE: the old weave unloaded, the image read, placed and written. -/
def loadStep (s : State) (bd r i : Nat) (w : Weave) (try_ : Option (List Nat)) (only : Option Nat) (all : Bool) : State :=
  let s := match (bind s bd).cur with
    | some o => setBind (dropWeave s o) bd { bind s bd with cur := none, new := some w }
    | none => s
  let s := wr s Reg.WVE_BIND_PLACE bd 0
  match readImage s w.part w.img r i with
  | .wait s => s
  | .held s => setAside s r i
  | .go s =>
    let im := imgAt s w.part w.img
    let bad (s : State) (f : LoadFail) := noPlace (loadFault (fresh s) bd f) bd r i f.code
    match (if all then checkImage s im w 0 else none) with
    | some f => bad s f
    | none =>
      let pl : List Nat ⊕ LoadFail := match try_ with
        | some l => if l.all (candidateIsl s w.part w.hot []) then .inl l else findPlace s im w [] only
        | none => findPlace s im w [] only
      match pl with
      | .inr f => bad s f
      | .inl pl =>
        let w := { w with place := pl, var := 0 }
        let s := takeT1 (putWeave s im w bd 0 false pl) w
        fresh (setBind s bd { bind s bd with cur := some w, new := none, loading := some (r, i), since := s.now })

/-- DRAIN_SWITCH (R173, R177). -/
def execDrainSwitch (bd : Nat) (s : State) : Out :=
  onUnit (bd < 32) (live s (match (bind s bd).op, (bind s bd).new with
    | some (.drain, r, i), some w =>
      if (bind s bd).loading.isSome ∨ !oldDone s bd (genBefore (rd s Reg.WVE_BIND_GEN bd)) r i ∨ isHeld s r i then s
      else loadStep s bd r i w (some w.place) ((getCmd s r i).bind Cmd.only) false
    | _, _ => s))

/-- CARRY_OLD_UNLOAD (R174). -/
def execCarryOldUnload (bd : Nat) (s : State) : Out :=
  onUnit (bd < 32) (live s (match (bind s bd).op, (bind s bd).new with
    | some (.carry, r, i), some w =>
      if (bind s bd).loading.isSome ∨ !oldDone s bd (genBefore (rd s Reg.WVE_BIND_GEN bd)) r i then s
      else
        let s := match (bind s bd).cur with | some o => dropWeave s o | none => s
        let b := bind s bd
        let b' := { b with cur := some w, new := none, inv := b.invNew, invNew := none, op := none, lastUse := s.now }
        let s := setBind s bd b'
        let s := eachOf w.place s fun s n => setIsl s n { isl s n with newWeave := false }
        let s := wr (wr s Reg.WVE_BIND_PLACE bd (rd s Reg.WVE_BIND_PLACE_NEW bd)) Reg.WVE_BIND_PLACE_NEW bd 0
        let s := wr (wr s Reg.WVE_BIND_CARRY bd 0) Reg.WVE_BIND_VAR bd w.var
        let s := wr2 s Reg.WVE_BIND_IMG_LO Reg.WVE_BIND_IMG_HI bd w.img
        finish (setState s bd (if b.invNew.isSome then 3 else 2)) r i 0 0
    | _, _ => s))

/-- RELOCATE and UNLOAD start to drain (R175). -/
def startDrain (op : Nat) (kind : BindOp) (r i : Nat) (s : State) : Out := onCmd r i op s fun c s =>
  let bd := c.bd
  let st := rd s Reg.WVE_BIND_STATE bd
  if st ≠ 0 ∧ rd s Reg.WVE_BIND_PART bd ≠ partOf r then finish s r i 0x36 0
  else if st = 0 ∨ st = 6 then finish s r i 0x23 0
  else if (bind s bd).op.isSome then s
  else
    let s := setBind (setState s bd 5) bd { bind s bd with op := some (kind, r, i) }
    modCmd s r i fun c => { c with bind := some bd }

def execRelocate (r i : Nat) (s : State) : Out := startDrain 0x13 .relocate r i s
def execUnload (r i : Nat) (s : State) : Out := startDrain 0x14 .unload r i s

/-- BINDING_DRAINED (R175). -/
def execBindingDrained (bd : Nat) (s : State) : Out :=
  onUnit (bd < 32) (live s (
    let b := bind s bd
    match b.op with
    | some (k, r, i) =>
      if !oldDone s bd (rd s Reg.WVE_BIND_GEN bd) r i ∨ b.loading.isSome ∨ isHeld s r i then s
      else match k with
      | .unload =>
        let s := match b.cur with | some w => dropWeave s w | none => s
        finish (emptyBinding s bd) r i 0 0
      | .relocate => (match b.cur.orElse fun _ => b.new with
        | some w => loadStep s bd r i w none none true
        | none => s)
      | _ => s
    | none => s))

end Sys2Proof.Machine
end

