-- ==== Sys2Proof/Machine/SaveArea.lean ====
section
/-! DEFINITION. What a save area holds and where: the header, the records of R88, R120 and R151 in the order of R260,
written at a full yield and read back at its resume. -/

namespace Sys2Proof.Machine

/-! ### Parts of a record -/

/-- Numbers of `w` bits each, the first lowest (R4). -/
def packed (w : Nat) : List Nat → Nat
  | [] => 0
  | v :: l => v % 2 ^ w + 2 ^ w * packed w l

/-- Bytes written at an offset of the save area. -/
structure Piece where
  off : Nat
  len : Nat
  val : Nat
  deriving DecidableEq, Repr

/-- A part of a record: its offset, the width in bits of its entries, how many there is room for, and what stands there. -/
structure Part (α : Type) where
  off : Nat
  w : Nat
  cap : Nat
  get : α → List Nat
  put : α → List Nat → α

/-- The part as it is written in a record at `o`. -/
def Part.piece {α : Type} (c : Part α) (o : Nat) (x : α) : Piece :=
  let l := (c.get x).take c.cap
  ⟨o + c.off, cdiv (c.w * l.length) 8, packed c.w l⟩

/-- The part read back from a record at `o`; `x` gives how many entries there are, and those beyond the room. -/
def Part.read {α : Type} (im : Img) (c : Part α) (o : Nat) (x : α) : α :=
  let l := c.get x
  let n := min l.length c.cap
  let v := im (o + c.off) (cdiv (c.w * n) 8)
  c.put x ((List.range n).map (fun i => bits v (c.w * i) c.w) ++ l.drop c.cap)

/-- A record in all its parts, written and read. -/
def pieces {α : Type} (l : List (Part α)) (o : Nat) (x : α) : List Piece := l.map fun c => c.piece o x
def readBack {α : Type} (im : Img) (l : List (Part α)) (o : Nat) (x : α) : α := l.foldl (fun x c => c.read im o x) x

/-- A list cut into lists as long as those of another. -/
def regroup : List (List Nat) → List Nat → List (List Nat)
  | [], _ => []
  | r :: t, l => l.take r.length :: regroup t (l.drop r.length)

/-- A list filled up with zeros. -/
def padTo (n : Nat) (l : List Nat) : List Nat := (l ++ List.replicate (n - l.length) 0).take n

/-- A loop stack, four deep, and the stack read back. -/
def loopCells (l : List (Nat × Nat × Nat)) : List Nat := padTo 12 (l.flatMap fun e => [e.1, e.2.1, e.2.2])
def cellLoops (l : List (Nat × Nat × Nat)) (c : List Nat) : List (Nat × Nat × Nat) :=
  (List.range l.length).map fun i => (c.getD (3 * i) 0, c.getD (3 * i + 1) 0, c.getD (3 * i + 2) 0)

/-- A beat as 66 bytes (R123), and back. -/
def beatNum (x : Beat) : Nat := x.data.toNat + 2 ^ 512 * x.ctl.toNat
def numBeat (x : Beat) (v : Nat) : Beat := { x with data := BitVec.ofNat 512 v, ctl := BitVec.ofNat 16 (v / 2 ^ 512) }
def beatsBack (l : List Beat) (v : List Nat) : List Beat := l.zipIdx.map fun e => numBeat e.1 (v.getD e.2 0)

/-! ### Stake record (R88) -/

/-- All accumulators of a list of sets. -/
def setsAcc (l : List AccSet) : List (List Nat) := l.map fun a => a.acc
/-- Their check cells. -/
def setsChk (l : List AccSet) : List (List Nat) := l.flatMap fun a => [a.rowE, a.rowM, a.colE, a.colM]

/-- Control state in 8-byte cells: program counter, loop stack, tiles left, mode word, generator, freeze code, OCTL, MTILE. -/
def stakeCtl : Part Stake :=
  { off := 0, w := 64, cap := 64
    get := fun x => [x.pc] ++ loopCells x.loops ++ [(x.mt.map MtRun.left).getD 0, x.mode, x.vec.gen, x.frz, x.vec.octl.toNat,
      ((x.mt.map MtRun.word).getD 0).toNat]
    put := fun x l =>
      let mt := x.mt.map fun m => { m with left := l.getD 13 0, word := BitVec.ofNat 64 (l.getD 18 0) }
      let vec := { x.vec with gen := l.getD 15 0, octl := BitVec.ofNat 64 (l.getD 17 0) }
      { x with pc := l.getD 0 0, loops := cellLoops x.loops (l.drop 1), mt := mt, mode := l.getD 14 0, frz := l.getD 16 0,
               vec := vec } }

def stakeAcc : Part Stake :=
  { off := 512, w := 32, cap := 1024
    get := fun x => (setsAcc x.sets).flatten
    put := fun x l => { x with sets := (x.sets.zip (regroup (setsAcc x.sets) l)).map fun e => { e.1 with acc := e.2 } } }

def stakeChk : Part Stake :=
  { off := 4608, w := 32, cap := 192
    get := fun x => (setsChk x.sets).flatten
    put := fun x l =>
      let g := regroup (setsChk x.sets) l
      { x with sets := x.sets.zipIdx.map fun e =>
          { e.1 with rowE := g.getD (4 * e.2) [], rowM := g.getD (4 * e.2 + 1) [], colE := g.getD (4 * e.2 + 2) [],
                     colM := g.getD (4 * e.2 + 3) [] } } }

/-- The panel or activation rows of the B buffer, elements in the width of their format (R60, R69). -/
def stakeB (x : Stake) : Part Stake :=
  { off := 8448
    w := match x.bhold with | some (k, _, _) => fmtBits (bits k 1 4) | none => 8
    cap := 196608
    get := fun x => match x.bhold with | some (_, e, _) => e.flatten | none => []
    put := fun x l => { x with bhold := x.bhold.map fun b => (b.1, regroup b.2.1 l, b.2.2) } }

def stakeDrain : Part Stake :=
  { off := 106752, w := 32, cap := 512
    get := fun x => x.vec.drain.flatten
    put := fun x l => { x with vec := { x.vec with drain := regroup x.vec.drain l } } }

/-- Accumulators of the stages, behind the 768 bytes of their registers, and their constants. -/
def stakeStages : Part Stake :=
  { off := 109568, w := 32, cap := 240
    get := fun x => (x.vec.stages.map Stage.acc).flatten ++ (x.vec.stages.map Stage.consts).flatten
    put := fun x l =>
      let a := regroup (x.vec.stages.map Stage.acc) l
      let c := regroup (x.vec.stages.map Stage.consts) (l.drop (x.vec.stages.map Stage.acc).flatten.length)
      let st := x.vec.stages.zipIdx.map fun e => { e.1 with acc := a.getD e.2 [], consts := c.getD e.2 [] }
      { x with vec := { x.vec with stages := st } } }

/-- Held outputs and side beats, 128 bytes to a beat. -/
def stakeHeld : Part Stake :=
  { off := 111616, w := 1024, cap := 32
    get := fun x => x.held.map fun e => beatNum e.2 + 2 ^ 528 * e.1
    put := fun x l => { x with held := x.held.zipIdx.map fun e => (l.getD e.2 0 / 2 ^ 528, numBeat e.1.2 (l.getD e.2 0)) } }

def stakeSide : Part Stake :=
  { off := 115712, w := 1024, cap := 16
    get := fun x => match x.ckpt with | some c => c.side.map (fun e => beatNum e.2 + 2 ^ 528 * e.1) | none => []
    put := fun x l =>
      { x with ckpt := x.ckpt.map fun c =>
          { c with side := c.side.zipIdx.map fun e => (l.getD e.2 0 / 2 ^ 528, numBeat e.1.2 (l.getD e.2 0)) } } }

def stakeCkpt : Part Stake :=
  { off := 117760, w := 32, cap := 256
    get := fun x => match x.ckpt with | some c => (c.acc.map Prod.fst).flatten ++ [c.gen] | none => []
    put := fun x l => { x with ckpt := x.ckpt.map fun c =>
      let a := regroup (c.acc.map Prod.fst) l
      { c with acc := c.acc.zipIdx.map (fun e => (a.getD e.2 [], e.1.2)), gen := l.getD (c.acc.map Prod.fst).flatten.length 0 } } }

/-- Parts of a stake record, 118,784 bytes. -/
def stakeParts (x : Stake) : List (Part Stake) :=
  [stakeCtl, stakeAcc, stakeChk, stakeB x, stakeDrain, stakeStages, stakeHeld, stakeSide, stakeCkpt]

/-! ### Bushel record (R120) -/

def slotNum : SlotSt → Nat
  | .free => 0 | .filling e => 1 + e % 2 | .full => 3 | .draining e => 4 + e % 2 | .retained => 6
def numSlot : Nat → SlotSt
  | 0 => .free | 1 => .filling 0 | 2 => .filling 1 | 3 => .full | 4 => .draining 0 | 5 => .draining 1 | _ => .retained

def bushelFrz : Part Bushel :=
  { off := 0, w := 64, cap := 64, get := Bushel.frz, put := fun y l => { y with frz := l } }

/-- An engine, 512 bytes: program counter, loop stack, X0 to X7. -/
def bushelEng (e : Nat) : Part Bushel :=
  { off := 512 + 512 * e, w := 64, cap := 64
    get := fun y => let t := y.eng.getD e Tally.idle; [t.pc] ++ loopCells t.loops ++ padTo 8 t.x
    put := fun y l =>
      let t := y.eng.getD e Tally.idle
      { y with eng := setAt y.eng e { t with pc := l.getD 0 0, loops := cellLoops t.loops (l.drop 1), x := l.drop 13 } } }

/-- A ring, 32 bytes: head, tail, and the states of its slots in three bits each. -/
def bushelRing (r : Nat) : Part Bushel :=
  { off := 1536 + 32 * r, w := 8, cap := 32
    get := fun y => match y.rings[r]? with
      | some g => [g.head, g.tail] ++ leBytes 24 (packed 3 (g.slots.map fun z => slotNum z.st))
      | none => []
    put := fun y l => match y.rings[r]? with
      | some g =>
        let v := leNum (l.drop 2)
        let slots := g.slots.zipIdx.map fun z => { z.1 with st := numSlot (bits v (3 * z.2) 3) }
        { y with rings := setAt y.rings r { g with head := l.getD 0 0, tail := l.getD 1 0, slots := slots } }
      | none => y }

/-- Handle queue: 16 handles, then their addressees. -/
def bushelQueue : Part Bushel :=
  { off := 1792, w := 72, cap := 16
    get := fun y => y.hq.map fun h => h.1 + 2 ^ 64 * h.2
    put := fun y l => { y with hq := l.map fun v => (v % 2 ^ 64, v / 2 ^ 64) } }

def bushelFree : Part Bushel :=
  { off := 1936, w := 8, cap := 64, get := Bushel.freeBufs, put := fun y l => { y with freeBufs := l } }

/-- Requests, 16 bytes each: device address, flags, SRAM address, length. -/
def bushelReqs : Part Bushel :=
  { off := 2048, w := 128, cap := 64
    get := fun y => y.reqs.map fun q =>
      q.da % 2 ^ 52 + 2 ^ 56 * (q.eng % 2 + 2 * oneIf q.store + 4 * oneIf q.ro + 8 * (q.porter % 8)) + 2 ^ 64 * (q.sram % 2 ^ 32) +
        2 ^ 96 * q.len
    put := fun y l => { y with reqs := y.reqs.zipIdx.map fun e =>
      let v := l.getD e.2 0
      { e.1 with da := bits v 0 52, eng := bits v 56 1, store := bit v 57, ro := bit v 58, porter := bits v 59 3,
                 sram := bits v 64 32, len := bits v 96 32 } } }

/-- Parts of a bushel record before its SRAM, 4,096 bytes. -/
def bushelParts : List (Part Bushel) :=
  [bushelFrz, bushelEng 0, bushelEng 1] ++ (List.range 8).map bushelRing ++ [bushelQueue, bushelFree, bushelReqs]

/-! ### Fabric records (R151) -/

/-- Island: slot counter, freeze state (rounds of skipping), holds of the tree edges, their hold crossings, deadlock count. -/
def islandPart : Part (Nat × Island) :=
  { off := 0, w := 64, cap := 32
    get := fun x => [x.1, x.2.skipping] ++ padTo 4 x.2.holdIn ++ padTo 4 (x.2.holdX.map fun h => match h with
      | some c => c + 1 | none => 0) ++ [x.2.dead]
    put := fun x l =>
      let hx := ((l.drop 6).take 4).map fun v => if v = 0 then none else some (v - 1)
      (l.getD 0 0, { x.2 with skipping := l.getD 1 0, holdIn := (l.drop 2).take 4, holdX := hx, dead := l.getD 10 0 }) }

/-- Beats of a list of queues. -/
def queuesBack (q : List (List Beat)) (l : List Nat) : List (List Beat) :=
  ((q.map fun b => b.map fun _ => (0 : Nat)).zip q).foldl (fun (a : List (List Beat) × List Nat) e =>
    (a.1 ++ [beatsBack e.2 a.2], a.2.drop e.2.length)) ([], l) |>.1

/-- Switch: the entries of its skew queues, behind 592 bytes of pointers and output registers. -/
def switchPart : Part Switch :=
  { off := 592, w := 528, cap := 64
    get := fun z => z.skew.flatten.map beatNum
    put := fun z l => { z with skew := queuesBack z.skew l } }

/-- Crossing: its entries, behind 64 bytes of pointers. -/
def crossPart : Part Crossing :=
  { off := 64, w := 528, cap := 32
    get := fun x => x.avail.map beatNum
    put := fun x l => { x with avail := beatsBack x.avail l } }

/-! ### The area (R260) -/

/-- Adjacent pairs of a placement, as weave-relative numbers and the direction from the lower, in ascending order. -/
def relPairs (place : List Nat) : List (Nat × Nat × Nat) :=
  place.zipIdx.flatMap fun a => ((List.range 4).filterMap fun d => match nextIsl a.1 d with
    | some b => if place.contains b && decide (a.2 < place.idxOf b) then some (a.2, place.idxOf b, d) else none
    | none => none) |> sortBy fun x y => decide (x.2.1 ≤ y.2.1)

/-- Edge positions of an island on its side toward `d`, ascending. -/
def edgePos (d : Nat) : List Nat := (List.range 64).filter fun p => (stepPos (p / 8) (p % 8) d).isNone

/-- Weave-relative keys of the crossings of a pair in the order of their records: the links from the lower island, then
those from the higher, each with its crossings in the order a beat passes them. -/
def pairKeys (place : List Nat) (x : Nat × Nat × Nat) : List Nat :=
  let die := crossDie (place.getD x.1 0) (place.getD x.2.1 0)
  let st := if die then [0, 1, 2] else [2]
  let o := opposite x.2.2
  (edgePos x.2.2).flatMap (fun p => st.map fun g => xingKey x.2.1 (acrossPos p x.2.2) o g) ++
  (edgePos o).flatMap fun p => st.map fun g => xingKey x.1 (acrossPos p o) x.2.2 g

/-- Offsets of the blocks, of their records, and of the crossing records. -/
def blockOff (i : Nat) : Nat := 65536 + 54572288 * i
def stakeOff (k : Nat) : Nat := blockOff (k / 32) + 256 + 118784 * (k % 32)
def bushelOff (k : Nat) : Nat := blockOff (k / 32) + 3801344 + 1576960 * (k % 32)
def switchOff (k : Nat) : Nat := blockOff (k / 64) + 54264064 + 4816 * (k % 64)
def crossOff (n j : Nat) : Nat := blockOff n + 2176 * j

/-- Entry of a saved list. -/
def savedAt {α : Type} (d : α) (l : List (Nat × α)) (k : Nat) : α := ((l.find? fun e => e.1 == k).map Prod.snd).getD d

/-- Slot of an island as its registers were saved. -/
def savedSlot (u : SavedUnits) (i : Nat) : Nat := (savedAt (0 : Word) u.regs (0x1000 * i + 0x400)).toNat

/-- The header behind the descriptor, in 8-byte cells: binding, generation, variant, epoch, reason, placement, link classes
of the adjacent pairs, V0 to V15, the ring's latch, the collector reservation. -/
def headCells (y : Saved) (gen : Nat) : List Nat :=
  let cls := ofBits (((relPairs y.oldPlace).zipIdx.filter fun x =>
    crossDie (y.oldPlace.getD x.1.1 0) (y.oldPlace.getD x.1.2.1 0)).map Prod.snd)
  [y.bind, gen, y.inv.var, y.inv.gen, y.reason, placeMask y.oldPlace, cls] ++ padTo 16 y.inv.words ++
  [match y.latch with | some (m, k) => 1 + 2 * k + 4 * m | none => 0, y.ring + 2 ^ 32 * y.idx]

/-- The records of the area. -/
def areaPieces (y : Saved) (gen : Nat) : List Piece :=
  let u := y.units
  let n := y.oldPlace.length
  [⟨64, 8 * (headCells y gen).length, packed 64 (headCells y gen)⟩] ++
  (List.range n).map (fun i => islandPart.piece (blockOff i) (savedSlot u i, savedAt Island.idle u.isl i)) ++
  ((List.range (32 * n)).flatMap fun k =>
    let x := savedAt Stake.idle u.stk k
    pieces (stakeParts x) (stakeOff k) x ++ pieces bushelParts (bushelOff k) (savedAt Bushel.idle u.bsh k) ++
    [⟨bushelOff k + 4096, 1572864, tbytes (fun _ => 0) u.sram (2 ^ 21 * k) 1572864⟩]) ++
  (List.range (64 * n)).map (fun k => switchPart.piece (switchOff k) (savedAt Switch.idle u.sw k)) ++
  ((relPairs y.oldPlace).flatMap (pairKeys y.oldPlace)).zipIdx.map fun e =>
    crossPart.piece (crossOff n e.2) (savedAt Crossing.idle u.xing e.1)

/-- What the records say on their way back, in the order of R260; state the spec gives no place in a record is as it was
saved (assumption 14). -/
def unitsBack (im : Img) (place : List Nat) (u : SavedUnits) : SavedUnits :=
  let n := place.length
  let words := (List.range 16).map fun v => im (120 + 8 * v) 8
  { u with
    isl := (List.range n).map fun i =>
      (i, (readBack im [islandPart] (blockOff i) (savedSlot u i, savedAt Island.idle u.isl i)).2)
    regs := u.regs.map fun e => if e.1 % 0x1000 = 0x400
      then (e.1, setF 0 4 (im (blockOff (e.1 / 0x1000)) 8) e.2) else e
    stk := (List.range (32 * n)).map fun k =>
      let x := savedAt Stake.idle u.stk k
      (k, readBack im (stakeParts x) (stakeOff k) x)
    bsh := (List.range (32 * n)).map fun k => (k, readBack im bushelParts (bushelOff k) (savedAt Bushel.idle u.bsh k))
    sram := (List.range (32 * n)).flatMap fun k => (List.range 1572864).map fun a =>
      (2 ^ 21 * k + a, BitVec.ofNat 8 (im (bushelOff k + 4096 + a) 1))
    vwords := (List.range n).flatMap fun i => words.zipIdx.map fun v => (16 * i + v.2, BitVec.ofNat 64 v.1)
    sw := (List.range (64 * n)).map fun k => (k, readBack im [switchPart] (switchOff k) (savedAt Switch.idle u.sw k))
    xing := ((relPairs place).flatMap (pairKeys place)).zipIdx.map fun e =>
      (e.1, readBack im [crossPart] (crossOff n e.2) (savedAt Crossing.idle u.xing e.1)) }

end Sys2Proof.Machine
end

