-- ==== Sys2Proof/Machine/YieldExec.lean ====
section
/-! DEFINITION. Full and boundary yields, resumes, abandons (R257 to R263), model descriptors (R230 to R234). -/

namespace Sys2Proof.Machine

/-- MODE of a YIELD or RESUME waiting at the weave engine (R244). -/
def yieldMode (s : State) (r i : Nat) : Nat := match getCmd s r i with | some c => c.fld 0x10 1 | none => 0

/-- Ring and index a full YIELD, a full RESUME or an ABANDON names (R244). -/
def Cmd.target (c : Cmd) : Nat × Nat := (c.fld 0x1C 2, c.fld 0x20 4)

/-- A YIELD is refused (R258, R265). -/
def yieldRefused (s : State) (r i code sub : Nat) : State := finish (bump s Reg.CMD_YLD_REFUSE 0 1) r i code sub

/-- YIELD with MODE 0 (R258). It waits for a target that is dispatched and has not begun. -/
def execYieldFull (r i : Nat) (s : State) : Out :=
  if yieldMode s r i ≠ 0 then onUnit (ringOk r && decide (i < 2 ^ 32)) (.next s)
  else onCmd r i 0x15 s fun c s =>
    let t := c.target
    if s.wve.yields.any fun y => y.by_ == some (r, i) then s
    else if partOf t.1 ≠ partOf r then yieldRefused s r i 0x36 0
    else match getCmd s t.1 t.2 with
    | none => yieldRefused s r i 0x34 0
    | some d =>
      if d.op ≠ 0x11 ∨ d.finished ∨ d.st = .yielded then yieldRefused s r i 0x34 0
      else if yieldBusy s t.1 t.2 then yieldRefused s r i 0x35 0
      else if (runOfCmd s t.1 t.2).isNone then s
      else match startYield s t.1 t.2 1 (some (r, i)) with
        | .started s => s
        | .no code => yieldRefused s r i code (if code = 0x31 ∨ code = 0x33 then 1 else 0)

/-- YIELD with MODE 1 (R257). Its own ring stops when it retires. -/
def execYieldBoundary (r i : Nat) (s : State) : Out :=
  if yieldMode s r i ≠ 1 then onUnit (ringOk r && decide (i < 2 ^ 32)) (.next s)
  else onCmd r i 0x15 s fun c s =>
    if (boundRings c).any fun q => partOf q ≠ partOf r then finish s r i 0x36 0
    else eachOf ((boundRings c).filter (· ≠ r)) (finish s r i 0 0) boundaryYield

/-- RESUME with MODE 1 (R257). -/
def execResumeBoundary (r i : Nat) (s : State) : Out :=
  if yieldMode s r i ≠ 1 then onUnit (ringOk r && decide (i < 2 ^ 32)) (.next s)
  else onCmd r i 0x16 s fun c s =>
    if (boundRings c).any fun q => partOf q ≠ partOf r then finish s r i 0x36 0
    else finish (eachOf (boundRings c) s boundaryResume) r i 0 0

/-! ### Saving (R88, R120, R151, R259, R260) -/

/-- A request of a stopping weave that is held leaves its record as one of a yielded command, and stands unissued
(R120, R203). -/
def withdrawHeld (s : State) (r i : Nat) (place : List Nat) : State :=
  let s := setMem s { s.mem with faults := s.mem.faults.map fun f => { f with held := f.held.map fun h => match h with
    | .bushel b q => if place.contains (b / 32) then .yielded r i else .bushel b q
    | x => x } }
  eachOf place s fun s n => eachOf (List.range 32) s fun s k =>
    let b := 32 * n + k
    setBsh s b { bsh s b with reqs := (bsh s b).reqs.map fun q => if q.st = .held then { q with st := .eligible } else q }

/-- No request of the islands is out (R259 step 2). -/
def quiet (s : State) (place : List Nat) : Bool :=
  place.all fun n => (List.range 32).all fun k => (bsh s (32 * n + k)).reqs.all fun q => q.st != .issued && q.st != .carried

/-- A yield whose target has ended is dropped (R264). -/
def dropYield (s : State) (y : Yielding) : State :=
  let s := { s with wve := { s.wve with yields := s.wve.yields.filter fun z => !(z.ring == y.ring && z.idx == y.idx) } }
  match y.by_ with
  | some (a, b) => finish (bump s Reg.CMD_YLD_REFUSE 0 1) a b 0x34 0
  | none => s

/-- The target of a yield has ended meanwhile. -/
def yieldLost (s : State) (y : Yielding) : Bool := match getCmd s y.ring y.idx with
  | some c => c.finished
  | none => true

/-- YIELD_QUIESCED (R259 step 2). -/
def execYieldQuiesced (bd : Nat) (s : State) : Out :=
  onUnit (bd < 32) (live s (match s.wve.yields.find? (fun y => y.bind == bd && !y.quiesced) with
    | none => s
    | some y =>
      if yieldLost s y then dropYield s y
      else if y.pinning then s
      else match runOfCmd s y.ring y.idx with
      | none => s
      | some (_, _, w, _) =>
        if !quiet s w.place then s
        else
          let s := withdrawHeld s y.ring y.idx w.place
          { s with wve := { s.wve with yields := s.wve.yields.map fun z =>
              if z.ring = y.ring ∧ z.idx = y.idx then { z with quiesced := true } else z } }))

/-- Entries of a table whose unit, `per` to an island, lies on the placement; keys renumbered to weave-relative. -/
def takeRel {α : Type} (t : Tbl α) (per : Nat) (place : List Nat) : List (Nat × α) :=
  t.filterMap fun e => if place.contains (e.1 / per) then some (per * place.idxOf (e.1 / per) + e.1 % per, e.2) else none

/-- The table without those entries. -/
def clearRel {α : Type} (t : Tbl α) (per : Nat) (place : List Nat) : Tbl α := t.filter fun e => !(place.contains (e.1 / per))

/-- Weave-relative entries put back on a placement. -/
def putRel {α : Type} [DecidableEq α] (d : Nat → α) (t : Tbl α) (per : Nat) (place : List Nat) (l : List (Nat × α)) : Tbl α :=
  l.foldl (fun t e => tset d t (per * place.getD (e.1 / per) 0 + e.1 % per) e.2) (clearRel t per place)

/-- Register words of an island that a save record keeps: weave registers, step log, check count, slot. -/
def savedRegs : List Nat :=
  (List.range 17).map (fun k => 0x440 + 4 * k) ++ (List.range 64).map (fun k => 0x500 + 4 * k) ++ [0x328, 0x400]

/-- A crossing with the beats still on their way into it landed (R151). -/
def landed (x : Crossing) : Crossing := { x with flight := [], avail := x.avail ++ x.flight }

/-- The units of a placement as the save records hold them (R88, R120, R151). -/
def saveUnits (s : State) (place : List Nat) : SavedUnits :=
  { stk := takeRel s.fab.stk 32 place, bsh := takeRel s.fab.bsh 32 place, sram := takeRel s.fab.sram (2 ^ 26) place,
    badPar := takeRel s.fab.badPar (2 ^ 26) place, vwords := takeRel s.fab.vwords 16 place, sw := takeRel s.fab.sw 64 place,
    xing := (takeRel s.fab.xing 768 place).map (fun e => (e.1, landed e.2)), isl := takeRel s.fab.isl 1 place,
    regs := place.zipIdx.flatMap fun p => savedRegs.map fun o => (0x1000 * p.2 + o, rw s (0x10000 + 0x1000 * p.1 + o)) }

/-- FULL of a crossing recomputed from its occupancy (R133, R151). -/
def refill (e : Nat × Crossing) : Nat × Crossing := (e.1, { e.2 with fullSeen := decide (e.2.occ ≥ xingFull) })

/-- The units restored on a placement (R261). The hold tree is that of the new placement (R157). -/
def restoreUnits (s : State) (place : List Nat) (u : SavedUnits) : State :=
  let f := s.fab
  let s := { s with fab := { f with
    stk := putRel (fun _ => Stake.idle) f.stk 32 place u.stk
    bsh := putRel (fun _ => Bushel.idle) f.bsh 32 place u.bsh
    sram := putRel (fun _ => 0) f.sram (2 ^ 26) place u.sram
    badPar := putRel (fun _ => false) f.badPar (2 ^ 26) place u.badPar
    vwords := putRel (fun _ => 0) f.vwords 16 place u.vwords
    sw := putRel (fun _ => Switch.idle) f.sw 64 place u.sw
    xing := putRel (fun _ => Crossing.idle) f.xing 768 place (u.xing.map refill) } }
  let s := eachOf u.isl s fun s e =>
    let n := place.getD e.1 0
    let j := isl s n
    setIsl s n { e.2 with
      bind := j.bind, newWeave := j.newWeave, wrel := j.wrel, tree := j.tree, parent := j.parent, stopped := false,
      released := false, holdIn := (List.range 4).map fun d => if j.tree.contains d then e.2.holdIn.getD d 0 else 0 }
  let s := eachOf u.regs s fun s e => ww s (0x10000 + 0x1000 * place.getD (e.1 / 0x1000) 0 + e.1 % 0x1000) e.2
  eachOf place s noteHold

/-- The save area as written: the descriptor, the records of R260 in their order, the commit word last. A migration of a
segment of the area ends (R196). Bytes of a record to which the spec gives no content of the model are free (assumption
14). -/
def writeArea (s : State) (p n : Nat) (desc : Nat) (y : Saved) : State :=
  let a := y.area
  let gen := rd s Reg.WVE_BIND_GEN y.bind
  let s := abortOnWrite s p a n
  let s := eachOf (List.range n) s fun s k => memWrite s p (a + k) 1 (Config.outsideByte s.fv 0x41 k).toNat
  let s := memWrite s p a 64 desc
  let s := eachOf (areaPieces y gen) s fun s x => memWrite s p (a + x.off) x.len x.val
  memWrite (fresh s) p (a + 65532) 4 0x59415645

/-- YIELD_SAVE_DONE (R259 steps 3 and 4, R254). -/
def execYieldSaveDone (bd : Nat) (s : State) : Out :=
  onUnit (bd < 32) (live s (match s.wve.yields.find? (fun y => y.bind == bd && y.quiesced) with
    | none => s
    | some y =>
      if yieldLost s y then dropYield s y
      else match getCmd s y.ring y.idx, runOfCmd s y.ring y.idx with
      | some c, some (_, nw, w, v) =>
        let p := partOf y.ring
        let n := saveSize w.place
        let sv : Saved := ⟨y.ring, y.idx, bd, y.reason, true, w, v, latch s y.ring, c.fld 0x30 8, w.place, saveUnits s w.place⟩
        let s := writeArea s p n c.desc.toNat sv
        let s := dropWeave s w
        let b := bind s bd
        let gone := { w with place := [] }
        let s := setBind s bd (if nw then { b with new := some gone } else { b with cur := some gone })
        let s := wr s (if nw then Reg.WVE_BIND_PLACE_NEW else Reg.WVE_BIND_PLACE) bd 0
        let s := { s with wve := { s.wve with
          yields := s.wve.yields.filter fun z => !(z.ring == y.ring && z.idx == y.idx)
          saved := s.wve.saved ++ [sv] } }
        let s := bump (chargePb s p n) Reg.CMD_YLD_FULL 0 1
        let s := modCmd s y.ring y.idx fun c => { c with st := .yielded, yOnce := true, yReason := y.reason }
        match y.by_ with
        | some (a, e) =>
          let s := chargeSince s p w.place.length y.since a e
          finish (modCmd s a e fun c => { c with progress := n }) a e 0 0
        | none => chargeSince s p w.place.length y.since y.ring y.idx
      | _, _ => s))

/-! ### Resuming (R176, R261) -/

def savedOf (s : State) (r i : Nat) : Option Saved := s.wve.saved.find? fun y => y.ring == r && y.idx == i

/-- Fault records of a yielded command are outstanding (R204). -/
def recordsOut (s : State) (r i : Nat) : Bool := (s.mem.faults.filter fun f => !f.ended).any fun f => f.held.any fun h => heldBy h r i

/-- Every adjacent pair of the shape has the same link class on both placements (R176). -/
def sameClass (shape : Nat) (a b : List Nat) : Bool :=
  let l := (cells shape).zipIdx
  l.all fun x => l.all fun y =>
    let near := decide ((x.1.1 + 1 = y.1.1 ∧ x.1.2 = y.1.2) ∨ (x.1.1 = y.1.1 ∧ x.1.2 + 1 = y.1.2))
    !near || crossDie (a.getD x.2 0) (a.getD y.2 0) == crossDie (b.getD x.2 0) (b.getD y.2 0)

/-- The binding's generation still accepts the epoch (R170, R261). -/
def accepts (s : State) (bd gen : Nat) : Bool :=
  let g := rd s Reg.WVE_BIND_GEN bd
  gen == g || (rd s Reg.WVE_BIND_STATE bd == 4 && gen == genBefore g)

/-- The placement a resume takes: the one named, or the islands left, or another of the same link classes. -/
def resumePlace (s : State) (im : Img) (y : Saved) (only : Option Nat) : Option (List Nat) :=
  let ok (l : List Nat) := sameClass y.weave.shape y.oldPlace l && (phaseC im y.weave l).isNone
  let free (l : List Nat) := l.all (candidateIsl s y.weave.part y.weave.hot [])
  let stay := (only.isNone || only == y.oldPlace.head?) && free y.oldPlace && ok y.oldPlace
  if stay then some y.oldPlace else (candPlaces s y.weave [] only).find? ok

/-- The restore starts: islands taken, the saved variant written with its overrides (R261). -/
def startRestore (s : State) (c : Cmd) (im : Img) (y : Saved) (place : List Nat) : State :=
  let nw := match runOfCmd s y.ring y.idx with | some (_, b, _, _) => b | none => false
  let w := { y.weave with place := place }
  let v := y.inv
  let s := putWeave s im w y.bind v.var nw place
  let t := match w.variants[v.var]? with | some x => tilesOf w x v.e | none => 0
  let s := writeOvers s w place v.n t v.e
  let b := bind s y.bind
  let s := setBind s y.bind (if nw then { b with new := some w } else { b with cur := some w })
  let s := wr s (if nw then Reg.WVE_BIND_PLACE_NEW else Reg.WVE_BIND_PLACE) y.bind (placeMask place)
  let s := if nw then s else wr s Reg.WVE_BIND_VAR y.bind v.var
  let s := up s Reg.XLT_U_T1 w.part (t1Of w)
  let s := modCmd s y.ring y.idx fun c => { c with st := .restoring }
  let s := modCmd s c.ring c.idx fun c => { c with bind := some y.bind, landed := [] }
  fresh { s with wve := { s.wve with restores := s.wve.restores ++ [⟨c.ring, c.idx, y.ring, y.idx, place, s.now⟩] } }

/-- A full RESUME tries to go on (R261, R263). -/
def resumeGo (s : State) (c : Cmd) : State :=
  let t := c.target
  let p := partOf c.ring
  if s.wve.restores.any fun x => x.ring == c.ring && x.idx == c.idx then s
  else if partOf t.1 ≠ p then finish s c.ring c.idx 0x36 0
  else match getCmd s t.1 t.2, savedOf s t.1 t.2 with
  | some d, some y =>
    if d.st ≠ .yielded ∨ d.finished then finish s c.ring c.idx 0x34 0
    else if recordsOut s t.1 t.2 ∨ !accepts s y.bind y.inv.gen then s
    else match readOnce s p y.weave.img c with
    | .wait s => s
    | .held s => setAside s c.ring c.idx
    | .go s =>
      let im := imgAt s p y.weave.img
      let only := c.only
      if !c.landed.isEmpty then
        (if c.landed.all fun k => (isl s k).bind.isNone then startRestore s c im y c.landed else s)
      else match resumePlace s im y only with
      | some pl => startRestore s c im y pl
      | none =>
        if c.urgent then
          match urgentPlace s c im y.weave only (sameClass y.weave.shape y.oldPlace) with
          | (s, true) => s
          | (s', false) =>
            -- no candidate even over running invocations: the resume goes on waiting; a refused yield ends it (R263)
            if (candPlaces s y.weave ((yieldable s p).flatMap fun v => v.2.2) only).any fun l =>
                sameClass y.weave.shape y.oldPlace l && (phaseC im y.weave l).isNone
            then finish (loadFault s' y.bind (noCandidate s' y.weave [])) c.ring c.idx 0x10 0 else s
        else s
  | _, _ => finish s c.ring c.idx 0x34 0

/-- RESUME with MODE 0 (R261). -/
def execResumeFull (r i : Nat) (s : State) : Out :=
  if yieldMode s r i ≠ 0 then onUnit (ringOk r && decide (i < 2 ^ 32)) (.next s)
  else onCmd r i 0x16 s fun c s => resumeGo s c

/-- RESUME_PROCEED (R261): a RESUME that waits tries again. -/
def execResumeProceed (r i : Nat) (s : State) : Out :=
  onUnit (ringOk r && decide (i < 2 ^ 32)) (live s (match turnOf s r i 0x16 with
    | some c => if c.taken && c.fld 0x10 1 == 0 then resumeGo s c else s
    | none => s))

/-- The invocation of a saved state ends without running again: no weave stands on the binding's islands (R161,
assumption 13). -/
def endSaved (s : State) (y : Saved) (status sub : Nat) : State :=
  let word (o : Nat) : Nat := match y.units.regs.find? fun e => e.1 == o with | some e => e.2.toNat | none => 0
  let s := match runOfCmd s y.ring y.idx with
    | some (bd, nw, w, _) =>
      let s := if w.place.isEmpty then s else dropWeave s w
      let b := bind s bd
      let s := setBind s bd (if nw then { b with invNew := none, new := some { w with place := [] } }
                             else { b with inv := none, cur := some { w with place := [] } })
      let s := wr s (if nw then Reg.WVE_BIND_PLACE_NEW else Reg.WVE_BIND_PLACE) bd 0
      if rd s Reg.WVE_BIND_STATE bd = 3 then setState s bd 6 else s
    | none => s
  let s := { s with wve := { s.wve with saved := s.wve.saved.filter fun z => !(z.ring == y.ring && z.idx == y.idx) } }
  let s := modCmd s y.ring y.idx fun c => { c with progress := word 0x440, result := word 0x478 }
  finish s y.ring y.idx status sub

/-- RESTORE_DONE (R203, R261): `detErr` is a detection error met while the records were read. -/
def execRestoreDone (r i : Nat) (detErr : Bool) (s : State) : Out :=
  onUnit (ringOk r && decide (i < 2 ^ 32)) (live s (match s.wve.restores.find? (fun x => x.ring == r && x.idx == i) with
    | none => s
    | some x =>
      let s := { s with wve := { s.wve with restores := s.wve.restores.filter fun z => !(z.ring == r && z.idx == i) } }
      match savedOf s x.tring x.tidx with
      | none => finish s r i 0x34 0
      | some y =>
        let p := partOf r
        if detErr || memRead s p (y.area + 65532) 4 != 0x59415645 then finish (endSaved s y 0x32 0) r i 0x32 0
        else
          let s := restoreUnits s x.place (unitsBack (imgAt s p y.area) y.oldPlace y.units)
          let s := match runOfCmd s x.tring x.tidx with
            | some (bd, nw, _, v) => setInv s bd nw (some { v with released := 0, stopped := false })
            | none => s
          let s := { s with wve := { s.wve with
            saved := s.wve.saved.filter fun z => !(z.ring == x.tring && z.idx == x.tidx) } }
          let s := modCmd s x.tring x.tidx fun c => { c with st := .running }
          let s := chargeSince (chargePb s p (saveSize x.place)) p x.place.length x.since r i
          finish s r i 0 0))

/-- ABANDON (R262, R264). -/
def execAbandon (r i : Nat) (s : State) : Out := onCmd r i 0x17 s fun c s =>
  let t := c.target
  if partOf t.1 ≠ partOf r then finish s r i 0x36 0
  else match getCmd s t.1 t.2, savedOf s t.1 t.2 with
  | some d, some y =>
    if d.st ≠ .yielded ∨ d.finished then finish s r i 0x34 0
    else
      let s := endSaved s y 0x30 0
      let s := setMem s { s.mem with faults := s.mem.faults.map fun f =>
        let l := f.held.filter fun h => !(heldBy h t.1 t.2)
        if l.length = f.held.length then f else { f with held := l, ended := f.ended || l.isEmpty } }
      finish s r i 0 0
  | _, _ => finish s r i 0x34 0

/-! ### Model descriptors (R230 to R234, R246) -/

/-- Pages of a set: base and size. -/
def setPages (base size : Nat) : List Nat := pagesOf base size

/-- A class A set is pinned in T2, a resting one hinted to T3 (R230); `k` goes on with the state. -/
def placeSet (s : State) (c : Cmd) (cls : Nat) (pages : List Nat) (k : State → State) : State :=
  let p := partOf c.ring
  if cls = 0 then match pinPages s p 0 (some (c.ring, c.idx)) pages with
    | .done s => k s
    | .wait s => s
    | .quota s sub => finish s c.ring c.idx 0x45 sub
  else k (if cls = 2 then hintPages s p 2 pages else s)

/-- MODEL_SET (R232, R233, R246). -/
def execModelSet (r i : Nat) (s : State) : Out := onCmd r i 0x18 s fun c s =>
  let p := partOf r
  let m := c.fld 0x10 1
  let x := model s p m
  let bd := c.fld 0x38 1
  if rd s Reg.WVE_BIND_STATE bd ≠ 0 ∧ rd s Reg.WVE_BIND_PART bd ≠ p then finish s r i 0x36 0
  else if x.refs ≠ [0, 0] ∨ x.swapPend then finish s r i 0x57 0
  else
    let base := [c.fld 0x18 8, c.fld 0x28 8]
    let size := [c.fld 0x20 8, c.fld 0x30 8]
    let pages := setPages (c.fld 0x18 8) (c.fld 0x20 8) ++ setPages (c.fld 0x28 8) (c.fld 0x30 8)
    placeSet s c (c.fld 0x11 1) pages fun s =>
      let y : Model := {
        id := c.fld 0x14 4, cls := c.fld 0x11 1, active := bits (c.fld 0x39 1) 0 1, swapPend := false, relSem := c.fld 0x12 2,
        base := base, size := size, refs := [0, 0], bind := bd, lastUse := x.lastUse }
      finish (setModel s p m y) r i 0 0

/-- MODEL_STAGE (R233, R246). -/
def execModelStage (r i : Nat) (s : State) : Out := onCmd r i 0x19 s fun c s =>
  let p := partOf r
  let m := c.fld 0x10 1
  let x := model s p m
  let k := 1 - x.active
  if x.refs.getD k 0 ≠ 0 ∨ x.swapPend then finish s r i 0x57 0
  else placeSet s c x.cls (setPages (c.fld 0x18 8) (c.fld 0x20 8)) fun s =>
    finish (setModel s p m { x with base := setAt x.base k (c.fld 0x18 8), size := setAt x.size k (c.fld 0x20 8) }) r i 0 0

/-- MODEL_SWAP (R233, R234). A set with no reference left releases at once. -/
def execModelSwap (r i : Nat) (s : State) : Out := onCmd r i 0x1A s fun c s =>
  let p := partOf r
  let m := c.fld 0x10 1
  let x := model s p m
  if x.size.getD (1 - x.active) 0 = 0 ∨ x.swapPend then finish s r i 0x57 0
  else
    let s := setModel s p m { x with active := 1 - x.active, swapPend := true, relSem := c.fld 0x12 2 }
    let s := eachOf (List.range 8) s fun s k => latchDrop s (8 * p + k)
    finish (swapCheck s p m) r i 0 0

end Sys2Proof.Machine
end

