-- ==== Sys2Proof/Machine/PorterExec.lean ====
section
/-! DEFINITION. Porters: moves, tiles, memory operations, migrations, zero-fill, detection (R184 to R212, R247). -/

namespace Sys2Proof.Machine

/-! ### Memory operations (R191, R247) -/

/-- What an operation does at one page. -/
inductive PageRes where
  | done (s : State) | wait (s : State) | fail (s : State) (status sub : Nat)
  deriving Repr

/-- The entry of page `g` takes other values in the bits `m` names; NONE pages are left. -/
def pageBits (s : State) (p g lo w v : Nat) : PageRes :=
  let e := l3e s p g
  .done (if eKind e = 0 then s else setL3 s p g (putBits e lo w v))

/-- A MAP makes page `g` LOCAL (R188, R191, R193, R194). -/
def mapLocal (s : State) (p g opt : Nat) : PageRes :=
  let rw2 := bits opt 3 2
  let hint := bits opt 5 2
  match getSeg s (segKey p g) with
  | some x =>
    if x.mig.isSome then .wait s
    else match ensureTables s p g with
      | none => .fail s 0x47 0
      | some s => .done (makeLocal s p g x.tier x.frame rw2 hint)
  | none =>
    let t := bits opt 2 1
    match ensureTables s p g with
    | none => .fail s 0x47 0
    | some s1 => match alloc s1 p t with
      | .got f pool =>
        let s2 := takeFseg s1 p (segKey p g) t f pool
        .done (makeLocal (setSeg s2 (segKey p g) (some ⟨t, f, none⟩)) p g t f rw2 hint)
      | .no sub => match evictFor s p t with
        | some s => .wait s
        | none => .fail s 0x45 sub

/-- MAP at one page, the `k`-th of its range. -/
def mapPage (s : State) (p g k : Nat) (c : Cmd) : PageRes :=
  let opt := c.fld 0x31 1
  let e := l3e s p g
  let flags := 4 * bits opt 3 2 + 2 ^ 8 * bits opt 5 2
  if eKind e ≥ 2 then .fail s 0x48 0
  else match bits opt 0 2 with
  | 2 => mapLocal s p g opt
  | kind => match ensureTables s p g with
    | none => .fail s 0x47 0
    | some s =>
      if kind = 1 then .done (setL3 s p g (1 + flags + 2 ^ 10 * bits opt 2 1))
      else .done (setL3 s p g (3 + flags + 2 ^ 12 * c.fld 0x32 1 + 2 ^ 19 * ((bits (c.fld 0x18 8) 0 36 + k) % 2 ^ 36)))

/-- UNMAP at one page: save areas forbid it, locks of service commands defer it (R191, R205, R206). A migration of the
segment ends (assumption 15). -/
def unmapPage (s : State) (p g : Nat) : PageRes :=
  if eKind (l3e s p g) = 0 then .done s
  else if savePinned s p g then .fail s 0x48 0
  else if pageLocked s p g then .wait s
  else
    let s := match s.mem.migs.find? fun m => m.seg == segKey p g with
      | some m => if isLocal (l3e s p g) then abortMig s m else s
      | none => s
    let loc := isLocal (l3e s p g)
    let s := setL3 (told s p [g]) p g 0
    .done (dropTables (if loc then leaveLocal s p g else s) p g)

/-- SHADOW at one page: the `k`-th of range B gives the clean copy (R186, R191, R247). -/
def shadowPage (s : State) (p g k : Nat) (c : Cmd) : PageRes :=
  let b := l3e s p (pageOf (c.fld 0x18 8) + k)
  let e := l3e s p g
  if !isLocal e || decide (eKind b < 2) then .fail s 0x48 0
  else
    let s := setL3 (setSh s p g b) p g (putBits e 4 1 (bits (c.fld 0x31 1) 7 1))
    .done (setL2 s p g (putBits (l2e s p g) 2 1 1))

/-- MIGRATE at one page: its segment, unless pinned, is brought to the tier (R191); pinned ones are skipped. A segment
under migration or locked is waited for (R205). -/
def migratePage (s : State) (p g t : Nat) (own : Nat × Nat) : PageRes :=
  if !isLocal (l3e s p g) || segPinned s (segKey p g) || eTier (l3e s p g) == t then .done s
  else if segLocked s (segKey p g) then .wait s
  else match bringTo s p g t 1 (some own) with
    | .done s => .done s
    | .wait s => .wait s
    | .quota s sub => .fail s 0x45 sub

/-- PIN at one page. -/
def pinOp (s : State) (p g t : Nat) (own : Nat × Nat) : PageRes :=
  if segLocked s (segKey p g) && isLocal (l3e s p g) && eTier (l3e s p g) != t then .wait s
  else match pinPage s p g t (some own) with
    | .done s => .done s
    | .wait s => .wait s
    | .quota s sub => .fail s 0x45 sub

/-- One page of a memory operation. -/
def pageOp (s : State) (c : Cmd) (k : Nat) : PageRes :=
  let p := partOf c.ring
  let g := pageOf (c.fld 0x10 8) + k
  let opt := c.fld 0x31 1
  let own := (c.ring, c.idx)
  match c.op with
  | 0x21 => mapPage s p g k c
  | 0x22 => unmapPage s p g
  | 0x23 => pageBits s p g 2 2 (bits opt 3 2)
  | 0x24 => pinOp s p g (bits opt 2 1) own
  | 0x25 => pageBits s p g 6 1 0
  | 0x26 => pageBits s p g 8 2 (bits opt 5 2)
  | 0x27 => migratePage s p g (bits opt 2 1) own
  | 0x28 => shadowPage s p g k c
  | 0x29 => pageBits (told s p [g]) p g 5 1 1
  | _ => pageBits (told s p [g]) p g 5 1 0

/-- Pages from the `k`-th on, until one waits or fails. `n` pages are left. -/
def pageOps : Nat → State → Cmd → Nat → State
  | 0, s, c, _ => finish s c.ring c.idx 0 0
  | n + 1, s, c, k => match pageOp s c k with
    | .wait s => s
    | .fail s st sub => finish s c.ring c.idx st sub
    | .done s => pageOps n (modCmd s c.ring c.idx fun c => { c with progress := k + 1 }) c (k + 1)

/-- The pages of a PIN or MIGRATE start their moves in order before any is waited for: each page not yet in its tier gets
its migration as far as the charges allow (R191). -/
def startMoves (s : State) (c : Cmd) : Nat → Nat → State
  | 0, _ => s
  | n + 1, k => match pageOp s c k with
    | .fail _ _ _ => s
    | .done s => startMoves s c n (k + 1)
    | .wait s => startMoves s c n (k + 1)

/-- A memory operation goes on from the page it has reached. -/
def memOp (op r i : Nat) (s : State) : Out := onCmd r i op s fun c s =>
  let left := c.total - c.progress
  let s := if op = 0x27 then startMoves s c left c.progress else s
  pageOps left s c c.progress

def execMap (r i : Nat) (s : State) : Out := memOp 0x21 r i s
def execUnmap (r i : Nat) (s : State) : Out := memOp 0x22 r i s
def execProtect (r i : Nat) (s : State) : Out := memOp 0x23 r i s
def execPin (r i : Nat) (s : State) : Out := memOp 0x24 r i s
def execUnpin (r i : Nat) (s : State) : Out := memOp 0x25 r i s
def execHint (r i : Nat) (s : State) : Out := memOp 0x26 r i s
def execMigrate (r i : Nat) (s : State) : Out := memOp 0x27 r i s
def execShadow (r i : Nat) (s : State) : Out := memOp 0x28 r i s
def execPoison (r i : Nat) (s : State) : Out := memOp 0x29 r i s
def execUnpoison (r i : Nat) (s : State) : Out := memOp 0x2A r i s

/-! ### Detection, repair, retirement (R207 to R210) -/

/-- A frame's bytes copied to another frame. -/
def copyFrame (s : State) (t f t' f' : Nat) : State :=
  let src := ((if t = 0 then s.mem.t2 else s.mem.t3).filter fun e => decide (f * 65536 ≤ e.1) && decide (e.1 < (f + 1) * 65536))
  let s := clearFrame s t' f'
  let put (tb : Tbl Byte) : Tbl Byte := src.foldl (fun tb e => tset (fun _ => 0) tb (e.1 - f * 65536 + f' * 65536) e.2) tb
  if t' = 0 then setMem s { s.mem with t2 := put s.mem.t2 } else setMem s { s.mem with t3 := put s.mem.t3 }

/-- The retirement of a frame segment is started, or started again (R208); a lock on one of its pages puts it off (R205). -/
def retireSeg (s : State) (k : Nat) : State :=
  match getFseg s k with
  | none => s
  | some x =>
    let s := setFseg s k (some { x with retired := true })
    match getSeg s x.seg with
    | some g =>
      if g.mig.isSome || decide (fsegKey g.tier g.frame ≠ k) || segLocked s x.seg then s
      else (startMig s x.seg g.tier 5 none true).1
    | none => s

/-- A detection error in a frame segment counts; the second within a second retires it. -/
def noteError (s : State) (k : Nat) : State :=
  match getFseg s k with
  | none => s
  | some x =>
    let again := match x.errAt with | some t => decide (s.now - t ≤ 1000000) | none => false
    let s := setFseg s k (some { x with errAt := some s.now })
    if again then retireSeg s k else s

/-- The clean copy of a page can serve, being itself good when `ok`. -/
def cleanCopy (s : State) (p g : Nat) (ok : Bool) : Bool :=
  let e := she s p g
  ok && (match eKind e with
    | 2 => eTier e == 0 || rd s Reg.CAP_STAT_UP (bits (eFrame e) 25 3) == 1
    | 3 => if eWin e = 0x40 then rd s Reg.FUS_LINK_STAT_UP 0 == 1 else peerBar s (eWin e) == 0
    | _ => false)

/-- The granules of a clean copy that lies in a peer's window. -/
def copyParts (s : State) (p g : Nat) : List (Nat × Nat × Nat × Nat) :=
  let c := she s p g
  if eKind c = 3 ∧ eWin c ≠ 0x40 then (List.range 256).map fun k => (g, eWin c, eWpage c, k) else []

/-- The page's frame is rewritten from its clean copy (R208): what a read of a peer's window has brought, or free bytes of
the host. -/
def repairPage (s : State) (p g : Nat) : State :=
  let e := l3e s p g
  let c := she s p g
  if eKind c = 2 then copyFrame s (eTier c) (eFrame c) (eTier e) (eFrame e)
  else
    let d (k : Nat) : Byte := match (if eWin c = 0x40 then none else winByte s (eWin c) (eWpage c) k) with
      | some b => BitVec.ofNat 8 b
      | none => Config.outsideByte s.fv (eWin c) (eWpage c * 65536 + k)
    let put (t : Tbl Byte) : Tbl Byte := (List.range 65536).foldl (fun t k => tset (fun _ => 0) t (eFrame e * 65536 + k) (d k)) t
    fresh (if eTier e = 0 then setMem s { s.mem with t2 := put s.mem.t2 } else setMem s { s.mem with t3 := put s.mem.t3 })

/-- A detection error on a LOCAL page (R208, R209, R366), its clean copy being here: repaired, or poisoned with the subcode
of POISONED. -/
def detected (s : State) (p g : Nat) (copyOk : Bool) : State × Option Nat :=
  let e := l3e s p g
  if !isLocal e then (s, none)
  else
    let s := if eTier e = 1 then bump s Reg.CAP_TAG_ERR (bits (eFrame e) 25 3) 1 else s
    let k := fsegKey (eTier e) (eFrame e / 32)
    let poison (s : State) : State := bump (setL3 s p g (putBits (l3e s p g) 5 1 1)) Reg.XLT_POISONED 0 1
    if !eCln e then (noteError (poison s) k, some 2)
    else if cleanCopy s p g copyOk then (noteError (bump (repairPage s p g) Reg.XLT_REPAIR 0 1) k, none)
    else (noteError (poison s) k, some 3)

/-- A detection error as a porter meets it: a clean copy in a peer's window is read first (R208). -/
inductive ErrAt where
  | repaired (s : State) | poisoned (s : State) (sub : Nat) | reads (s : State)
  deriving Repr

def findError (s : State) (p g : Nat) (copyOk : Bool) : ErrAt :=
  let h := HeldReq.repair p g
  let settle (s : State) (ok : Bool) : ErrAt := match detected s p g ok with
    | (s, some sub) => .poisoned (dropRead s h) sub
    | (s, none) => .repaired (dropRead s h)
  if !isLocal (l3e s p g) || !eCln (l3e s p g) || !cleanCopy s p g copyOk then settle s copyOk
  else match winAsk s p h (copyParts s p g) with
    | .ready => settle s copyOk
    | .wait s => .reads s
    | .flt s _ _ _ => settle s false

/-- The heat entry of a page's frame segment is in error: it is zero from now on (R197). -/
def heatLost (s : State) (p g : Nat) : State :=
  let e := l3e s p g
  if !isLocal e then s
  else
    let k := fsegKey (eTier e) (eFrame e / 32)
    match getFseg s k with
    | some x => setFseg s k (some { x with heat := 0, age := 0 })
    | none => s

/-- DETECTION_REPAIR (R197, R208, R209): a detection error met on a page of a partition (`place` 0), in the range table of
a level that serves it (1 to 3), or in the heat entry of its frame segment (4). -/
def execDetectionRepair (p g place : Nat) (copyOk : Bool) (s : State) : Out :=
  onUnit (decide (p < 8) && decide (g < 2 ^ 36)) (live s (
    match place with
    | 0 => (match findError s p g copyOk with
      | .poisoned s sub =>
        setMem s { s.mem with found := s.mem.found.filter (fun x => !(x.1 == p && x.2.1 == g)) ++ [(p, g, sub)] }
      | .repaired s => s
      | .reads s => s)
    | 1 => if rd s Reg.XLT_ROOT_VALID p = 1 then setTblBad s 1 p g true else s
    | 2 => if bits (l1e s p g) 0 2 = 2 then setTblBad s 2 p g true else s
    | 3 => if bits (l2e s p g) 0 2 = 2 then setTblBad s 3 p g true else s
    | _ => heatLost s p g))

/-! ### Moves (R184, R203, R214, R247) -/

/-- MOVE: accepted by its porter; an arrival descriptor is read and judged first (R214, R218). -/
def execMove (r i : Nat) (s : State) : Out := onCmd r i 0x20 s fun c s =>
  let p := partOf r
  let a := c.fld 0x28 8
  if a = 0 ∨ c.arv ≠ 0 then s
  else match gate s p a 64 false true (.tile r i) with
  | .wait s => s
  | .held s => setAside s r i
  | .go s =>
    let d := memRead s p a 64
    let s := fresh s
    if arvBad s c d then finish s r i 0x53 0
    else
      let n := (moveTiles s { c with arv := d }).length
      modCmd s r i fun c => { c with arv := d, total := n }

/-- A detection error on the first page of a range that is read, for a write of part of a granule too (R207): repaired,
waiting for its clean copy, or held as POISONED. -/
def detectAt (s : State) (p da : Nat) (det : Detect) (write : Bool) (h : HeldReq) : Gate :=
  if det = .clean then .go s
  else match findError s p (pageOf da) (det != .copyToo) with
    | .poisoned s sub => .held (holdFault s p (pageOf da) 4 sub write h)
    | .repaired s => .go s
    | .reads s => .wait s

/-- One tile of a plain copy. -/
def copyTile (s : State) (c : Cmd) (det : Detect) : State :=
  let r := c.ring
  let i := c.idx
  let p := partOf r
  match (moveTiles s c)[c.progress]? with
  | none => finish s r i 0 0
  | some (o, n) =>
    let src := c.fld 0x10 8 + o
    let dst := c.fld 0x18 8 + o
    match gateAll s p false (.tile r i) [(src, n)] with
    | .wait s => s
    | .held s => setAside s r i
    | .go u => match detectAt u p src det false (.tile r i) with
      | .held s => setAside s r i
      | .wait _ => (match findError s p (pageOf src) true with | .reads s => s | _ => s)
      | .go t => match gates s t p true true (.tile r i) [(dst, n)] with
        | .wait _ => if det = .clean then s else t
        | .held s => setAside s r i
        | .go s =>
          let v := memRead s p src n
          let s := accWrite (heatUp s p src n) p dst n v
          let s := porterMoved (chargePb (dropRead (fresh s) (.tile r i)) p n) p (c.engine - 1) n
          let s := modCmd s r i fun c => { c with progress := c.progress + 1, cost := c.cost + n }
          if c.progress + 1 ≥ c.total then finish s r i 0 0 else s

/-- What of a request is carried next: up to the 64 KiB boundary that splits it (R184). -/
def Req.part (x : Req) : Nat × Nat :=
  let a := x.da + x.sent
  (a, min (x.len - x.sent) (65536 - a % 65536))

/-- A write covers whole granules of the tier it goes to, so that nothing is read for it (R207). -/
def wholeGranules (s : State) (p a n : Nat) : Bool :=
  let g := if eTier (l3e s p (pageOf a)) = 1 then 256 else 32
  a % g == 0 && (a + n) % g == 0

/-- One bushel request, a transfer for each page it touches (R108, R111, R184, R203). A store whose SRAM bytes fail their
parity is not carried (R117). -/
def bushelTile (s : State) (b q : Nat) (det : Detect) : State :=
  let n := b / 32
  let y := bsh s b
  match y.reqs.find? fun x => x.id == q && x.st == .issued && porterTurn s x.porter (partOfIsl s n) with
  | none => s
  | some x =>
    let p := partOfIsl s n
    let h := HeldReq.bushel b q
    let a := x.part.1
    let m := x.part.2
    let put (s : State) (f : Req → Req) : State :=
      setBsh s b { bsh s b with reqs := (bsh s b).reqs.map fun z => if z.id = q then f z else z }
    match if x.store then badByte s b (x.sram + x.sent) m else none with
    | some e => parityHit s b x.eng e fun s _ => s
    | none =>
    match gate s p a m x.store false h with
    | .wait s => s
    | .held s => put s fun z => { z with st := .held }
    | .go s => match detectAt s p a (if x.store && wholeGranules s p a m then .clean else det) x.store h with
      | .held s => put s fun z => { z with st := .held }
      | .wait s => s
      | .go s =>
        let data := if x.store then 0 else memRead s p a m * 2 ^ (8 * x.sent)
        let s := if x.store then accWrite s p a m (sramRead s b (x.sram + x.sent) m) else fresh (heatUp s p a m)
        let s := porterMoved (chargePb s p m) p x.porter m
        let s := claim (dropRead s h) h
        put s fun z =>
          let st := if z.sent + m ≥ z.len then ReqSt.carried else z.st
          { z with st := st, sent := z.sent + m, data := z.data + data }

/-- One page of a migration's copy (R196 step 3). The bytes move at the switch, up to which no write changes the source.
Migrations of the policy scan are not regulated (R256). -/
def migTile (s : State) (id : Nat) (det : Detect) : State :=
  match s.mem.migs.find? fun m => m.id == id && porterTurn s m.porter m.part with
  | none => s
  | some m =>
    let l := (localPages s m.seg).filter fun g => !ePsn (l3e s m.part g)
    match l[m.copied]? with
    | none => s
    | some g =>
      if det ≠ .clean then (match findError (bump (abortMig s m) Reg.XLT_MIG_ABORT_ERR 0 1) m.part g (det != .copyToo) with
        | .poisoned s _ => s
        | .repaired s => s
        | .reads s => s)
      else if hostHolds s m.part (g * 65536) 65536 then s
      else if m.cause ≠ 0 ∧ !(granted s m.part m.srcTier && granted s m.part m.dstTier) then s
      else
        let s := if m.cause = 0 then s else draw (draw s m.part m.srcTier 65536) m.part m.dstTier 65536
        let s := setMem s { s.mem with migs := s.mem.migs.map fun x => if x.id = id then { x with copied := x.copied + 1 } else x }
        let s := match m.owner with
          | some (r, i) => modCmd s r i fun c => { c with cost := c.cost + 65536 }
          | none => s
        porterMoved (chargePb s m.part 65536) m.part m.porter 65536

/-- PORTER_TILE (R184): a porter carries what it is given next; `det` is what the detection codes find in what
it reads. -/
def execPorterTile (job : PorterJob) (det : Detect) (s : State) : Out :=
  match job with
  | .cmdTile r i => onUnit (ringOk r && decide (i < 2 ^ 32)) (live s (match turnOf s r i 0x20 with
    | some c => if c.taken && c.fld 0x28 8 == 0 && porterTurn s (c.engine - 1) (partOf r) && !s.pow.pfail then claim (copyTile s c det) (.tile r i) else s
    | none => s))
  | .bushel b q => onUnit (b < 1024) (live s (bushelTile s b q det))
  | .migPage m => live s (migTile s m det)

/-- Pages are poisoned that a tile of an arrival move would have written (R228). -/
def poisonRange (s : State) (p da n : Nat) : State :=
  eachOf (pagesOf da n) s fun s g => setL3 s p g (putBits (l3e s p g) 5 1 1)

/-- The tiles each arrival unit has in progress, shown (R236). -/
def arvNote (s : State) : State :=
  let l := (s.front.inflight.filter fun c => !c.finished).flatMap Cmd.begun
  eachOf (List.range 8) s fun s k =>
    let n := (l.filter (· % 8 == k)).length
    wr (wr s Reg.T2C_ARV_STAT_INFL k (min n 8)) Reg.T2C_ARV_STAT_BUSY k (oneIf (n ≠ 0))

/-- A tile of an arrival move is set aside on a fault: its unit holds it (R203, R236). -/
def tileHeld (s : State) (c : Cmd) (tile : Nat) : State :=
  let s := setAside s c.ring c.idx
  arvNote (modCmd s c.ring c.idx fun c => if c.begun.contains tile then c else { c with begun := c.begun ++ [tile] })

/-- A tile of an arrival move has landed or failed: the move ends when every tile has (R203, R228). -/
def tileSettled (s : State) (c : Cmd) (tile : Nat) (fail : Option Nat) (n : Nat) : State :=
  let s := claim (dropRead s (.tile c.ring c.idx)) (.tile c.ring c.idx)
  let s := modCmd s c.ring c.idx fun c =>
    let l := c.landed ++ [tile]
    let fails := match fail with | some st => c.fails ++ [(tile, st)] | none => c.fails
    let bad := fails.map Prod.fst
    let done := ((List.range c.total).find? fun k => !l.contains k || bad.contains k).getD c.total
    { c with landed := l, fails := fails, progress := done, cost := c.cost + n, begun := c.begun.erase tile }
  let s := arvNote s
  match getCmd s c.ring c.idx with
  | none => s
  | some d =>
    if (List.range d.total).all d.landed.contains then
      match d.fails.foldl (fun b x => match b with
        | none => some x
        | some y => if x.1 < y.1 then some x else some y) none with
      | some (_, st) => finish s c.ring c.idx st 0
      | none => finish s c.ring c.idx 0 0
    else s

/-- An arrival unit's counters (R236): KiB read and written. -/
def arvCount (s : State) (k read written : Nat) : State :=
  bump (bump (bump s Reg.T2C_ARV_TILES k (if written = 0 then 0 else 1)) Reg.T2C_ARV_IN k (cdiv read 1024)) Reg.T2C_ARV_OUT k
    (cdiv written 1024)

/-- The output of a tile is written: elements, then the scales of its blocks (R214). `s0` is the state before the tile's
reads. -/
def writeTile (s0 s : State) (c : Cmd) (tile dst n v : Nat) (scales : List (Nat × Nat)) (read : Nat) : State :=
  let p := partOf c.ring
  let dsc := aF c.arv 0x18 8
  let h := HeldReq.tile c.ring c.idx
  match gates s0 s p true true h ((dst, n) :: scales.map fun e => (dsc + e.1, 1)) with
  | .wait _ => s0
  | .held s => tileHeld s c tile
  | .go s =>
    let s := accWrite s p dst n v
    let s := eachOf scales s fun s e => accWrite s p (dsc + e.1) 1 e.2
    let m := n + scales.length
    let s := porterMoved (chargePb (fresh s) p m) p (c.engine - 1) m
    tileSettled (arvCount s (tile % 8) read m) c tile none m

/-- GATHER: output bytes `o` to `o + n - 1` (R222). -/
def gatherTile (s : State) (c : Cmd) (tile o n : Nat) : State :=
  let p := partOf c.ring
  let a := c.arv
  let glen := aF a 0x3C 4
  let h := HeldReq.tile c.ring c.idx
  let j0 := o / glen
  let j1 := (o + n - 1) / glen
  let js := (List.range (j1 - j0 + 1)).map (j0 + ·)
  let idx := (aF a 0x30 8 + 8 * j0, 8 * js.length)
  match gates s s p false false h [idx] with
  | .wait s => s
  | .held s => tileHeld s c tile
  | .go s0 =>
    let s := s0
    let at_ (j : Nat) : Nat := (memRead s p (aF a 0x30 8 + 8 * j) 8 + aF a 0x38 4) % 2 ^ 52
    let parts := js.map fun j =>
      let lo := max o (j * glen)
      (at_ j + (lo - j * glen), min (o + n) ((j + 1) * glen) - lo)
    match gateAll s p false h (idx :: parts) with
    | .wait s => s
    | .held s => tileHeld s c tile
    | .go s =>
      let v := leNum (parts.flatMap fun x => memList s p x.1 x.2)
      writeTile s0 (eachOf parts s fun s x => heatUp s p x.1 x.2) c tile (c.fld 0x18 8 + o) n v [] (n + 8 * js.length)

/-- A tile with HASH and UNPACK clear: REQUANT or RELAYOUT of the source range. -/
def shapeTile (s : State) (c : Cmd) (tile o n : Nat) : State :=
  let p := partOf c.ring
  let a := c.arv
  let src := c.fld 0x10 8
  let ssc := aF a 0x20 8
  let x := readsOf a o n
  let parts := x.1.map (fun e => (src + e.1, e.2)) ++ x.2.map fun e => (ssc + e.1, e.2)
  match gateAll s p false (.tile c.ring c.idx) parts with
  | .wait s => s
  | .held s => tileHeld s c tile
  | .go t =>
    let s0 := s
    let s := t
    let i : ArvIn := ⟨fun k => memByte s p (src + k), fun k => memByte s p (ssc + k)⟩
    let s' := eachOf parts s fun s x => heatUp s p x.1 x.2
    writeTile s0 s' c tile (c.fld 0x18 8 + o) n (outBytes a i o n) (outScales a i o n) (covered parts)

/-- Chunks of a move, with their places, that hold any of some byte ranges of the decoded source. -/
def chunksFor (l : List AChunk) (rs : List (Nat × Nat)) : List (AChunk × Nat) :=
  ((tilesFrom 0 (l.map AChunk.outLen)).zip l.zipIdx).filterMap fun e =>
    if rs.any fun r => overlap r.1 r.2 e.1.1 e.1.2 then some e.2 else none

/-- Decoded bytes of chunks of a move, by offset in the decoded source. -/
def decoded (l : List AChunk) (got : List (AChunk × Nat × List Nat)) (k : Nat) : Nat :=
  ((tilesFrom 0 (l.map AChunk.outLen)).zipIdx.findSome? fun e =>
    if e.1.1 ≤ k ∧ k < e.1.1 + e.1.2 then
      (got.find? fun g => g.2.1 == e.2).map fun g => g.2.2.getD (k - e.1.1) 0
    else none).getD 0

/-- A tile with HASH and UNPACK: its chunk is checked and decoded; with REQUANT or RELAYOUT the decoded chunks its elements
lie in are the source, each checked too (R219, R228). -/
def unpackTile (s : State) (c : Cmd) (tile o n : Nat) : State :=
  let p := partOf c.ring
  let a := c.arv
  let r := c.ring
  let i := c.idx
  match if c.oldSlot.isSome && !c.begun.contains tile then none else c.slot s with
  | none => tileSettled s c tile (some 0x53) 0
  | some sl =>
    let chunks := moveChunks sl a (c.fld 0x20 8)
    let rng (k : AChunk) : Nat × Nat := (sl.base + sl.offData + k.off, k.stored)
    let shape := aReq a || aRel a
    let own := (chunks[tile]?).getD ⟨0, 0, 0, false, 0, 0⟩
    let ssc := aF a 0x20 8
    let sc := if shape then (readsOf a o n).2.map fun e => (ssc + e.1, e.2) else []
    let used := (own, tile) :: if shape then (chunksFor chunks (readsOf a o n).1).filter fun e => e.2 != tile else []
    let parts := used.map (fun e => rng e.1) ++ sc
    match gateAll s p false (.tile r i) parts with
    | .wait s => s
    | .held s => tileHeld s c tile
    | .go t =>
      let s0 := s
      let s := t
      let bytes (k : AChunk) : List Nat := memList s p (rng k).1 (rng k).2
      let u := tile % 8
      let no (k : Nat) : Nat := aF a 0x10 8 + k
      let bad (s : State) (cnt : Fld) (st k : Nat) : State :=
        let s := wr (bump s cnt u 1) Reg.T2C_ARV_LASTFAIL u (no k % 2 ^ 32)
        let s := eachOf (if shape then outBlocks a o n else []) (poisonRange s p (c.fld 0x18 8 + o) n) fun s b =>
          poisonRange s p (aF a 0x18 8 + b) 1
        tileSettled (fresh (arvCount s u (covered parts) 0)) c tile (some st) 0
      match used.find? fun e => leafDigest (no e.2) (bytes e.1) ≠ e.1.digest with
      | some e => bad s Reg.T2C_ARV_DIGFAIL 0x50 e.2
      | none =>
        match used.find? fun e => (unpack e.1 sl.tables (bytes e.1)).isNone with
        | some e => bad s Reg.T2C_ARV_DECFAIL 0x54 e.2
        | none =>
          let out (k : AChunk) : List Nat := (unpack k sl.tables (bytes k)).getD []
          if !shape then writeTile s0 s c tile (c.fld 0x18 8 + o) n (leNum (out own)) [] (covered parts)
          else
            let got := used.map fun e => (e.1, e.2, out e.1)
            let x : ArvIn := ⟨decoded chunks got, fun k => memByte s p (ssc + k)⟩
            writeTile s0 s c tile (c.fld 0x18 8 + o) n (outBytes a x o n) (outScales a x o n) (covered parts)

/-- ARRIVAL_TILE (R214, R219 to R222, R228). -/
def execArrivalTile (r i tile : Nat) (s : State) : Out :=
  onUnit (ringOk r && decide (i < 2 ^ 32)) (live s (match turnOf s r i 0x20 with
    | some c =>
      if !c.taken || c.arv = 0 || c.landed.contains tile || !porterTurn s (c.engine - 1) (partOf r) || s.pow.pfail then s
      else match (moveTiles s c)[tile]? with
        | none => if tile < c.total then tileSettled s c tile (some 0x53) 0 else s
        | some (o, n) =>
          if aGather c.arv then gatherTile s c tile o n
          else if aHash c.arv then unpackTile s c tile o n else shapeTile s c tile o n
    | none => s))

/-! ### Migration, scan, zero-fill (R194 to R198, R202) -/

/-- MIGRATION_SWITCH (R196 steps 4 and 5, R208, R364): the copy is complete and the entries switch; `det` is an error at
the destination. -/
def execMigrationSwitch (id : Nat) (det : Bool) (s : State) : Out :=
  live s (match s.mem.migs.find? fun m => m.id == id with
    | none => s
    | some m =>
      let l := (localPages s m.seg).filter fun g => !ePsn (l3e s m.part g)
      if m.copied < l.length then s
      else if det then bump (abortMig s m) Reg.XLT_MIG_ABORT_ERR 0 1
      else
        let frame (g : Nat) : Nat := m.dstFrame * 32 + g % 32
        let s := eachOf l s fun s g => copyFrame s m.srcTier (eFrame (l3e s m.part g)) m.dstTier (frame g)
        let s := eachOf (localPages s m.seg) s fun s g =>
          setL3 s m.part g (putBits (putBits (putBits (l3e s m.part g) 7 1 0) 10 1 m.dstTier) 12 28 (frame g))
        let s := setSeg s m.seg (some ⟨m.dstTier, m.dstFrame, none⟩)
        let src := getFseg s (fsegKey m.srcTier m.srcFrame)
        let s := match src, getFseg s (fsegKey m.dstTier m.dstFrame) with
          | some x, some y => setFseg s (fsegKey m.dstTier m.dstFrame) (some { y with heat := x.heat, age := x.age, touched := x.touched })
          | _, _ => s
        let s := if m.dstPool then
            (if m.srcTier = 0 then bump s Reg.XLT_T2_RETIRED 0 1 else s)
          else dropFseg s m.srcTier m.srcFrame
        let s := if m.srcTier = 1 ∧ m.dstTier = 0 then bump s Reg.XLT_MIG_PROM 0 1
          else if m.srcTier = 0 ∧ m.dstTier = 1 then bump s Reg.XLT_MIG_DEM 0 1 else s
        resumePinned (noteMigs (setMem s { s.mem with migs := s.mem.migs.filter fun x => !(x.id == id) })))

/-- Frame segments in use, by key. -/
def liveSegs (s : State) (t : Nat) : List (Nat × FSeg) := s.mem.fsegs.filterMap fun e => match e.2 with
  | some x => (match getSeg s x.seg with
    | some g => if e.1 / 2 ^ 32 = t ∧ fsegKey g.tier g.frame = e.1 then some (e.1, x) else none
    | none => none)
  | none => none

/-- The scan may move this segment (R198). -/
def scanFree (s : State) (x : FSeg) : Bool :=
  !segPinned s x.seg && !segLocked s x.seg && (match getSeg s x.seg with | some g => g.mig.isNone | none => false)

/-- Starts up to `n` moves, `left` in all, of the listed segments to a tier; those that cannot be charged are skipped. -/
def scanMoves (t : Nat) (go : State → Bool) : List FSeg → Nat → Nat → State → State × Nat
  | [], _, left, s => (s, left)
  | _, 0, left, s => (s, left)
  | _, _, 0, s => (s, 0)
  | x :: l, n + 1, left + 1, s =>
    if !go s then (s, left + 1)
    else if !scanFree s x then scanMoves t go l (n + 1) (left + 1) s
    else match startMig s x.seg t 0 none false with
      | (s, none) => scanMoves t go l n left s
      | (_, some _) => scanMoves t go l (n + 1) (left + 1) s

/-- Order by rising keys. -/
def sortSegs (key : Nat × FSeg → List Nat) (l : List (Nat × FSeg)) : List FSeg :=
  (sortBy (fun a b => decide (key a ≤ key b)) l).map Prod.snd

/-- Demotions under way from T2 that meet a condition. -/
def inFlight (s : State) (q : FSeg → Bool) : Nat :=
  (s.mem.migs.filter fun m => m.srcTier == 0 && m.dstTier == 1 &&
    (match getFseg s (fsegKey 0 m.srcFrame) with | some x => q x | none => false)).length

/-- The policy scan (R195, R198). -/
def policyScan (s : State) : State :=
  let left := rd s Reg.XLT_MIG_CTRL_MAX 0
  let cold (e : Nat × FSeg) : List Nat := [e.2.heat, 16383 - min 16383 e.2.age, e.1]
  let yes (_ : State) : Bool := true
  let r := if rd s Reg.XLT_MIG_CTRL_DEM_EN 0 = 0 then (s, left)
    else
      let r := (List.range 8).foldl (fun r p =>
        let s := r.1
        let excess := rd s Reg.XLT_U_T2 p - rd s Reg.XLT_Q_T2 p - inFlight s fun x => x.part == p && !x.pool
        scanMoves 1 yes (sortSegs cold ((liveSegs s 0).filter fun e => e.2.part == p && !e.2.pool)) excess r.2 s) (s, left)
      let s := r.1
      let excess := rd s Reg.XLT_POOL_T2_USED 0 - rd s Reg.XLT_POOL_T2 0 - inFlight s fun x => x.pool
      let r := scanMoves 1 yes (sortSegs cold ((liveSegs s 0).filter fun e => e.2.pool)) excess r.2 s
      let s := r.1
      if rd s Reg.XLT_T2_FREE 0 < rd s Reg.XLT_T2_LOW 0 then
        let need := rd s Reg.XLT_T2_HIGH 0 - rd s Reg.XLT_T2_FREE 0 - inFlight s fun _ => true
        scanMoves 1 yes (sortSegs (fun e => (if segHint s e.2.seg = 2 then 0 else 1) :: cold e) (liveSegs s 0)) need r.2 s
      else r
  let s := r.1
  if rd s Reg.XLT_MIG_CTRL_PROM_EN 0 = 0 then s
  else
    let thr := rd s Reg.XLT_HEAT_CFG_PROM_THR 0
    let l := (liveSegs s 1).filter fun e =>
      let h := segHint s e.2.seg
      decide (h ≠ 2) && (decide (e.2.heat ≥ thr) || (decide (e.2.heat ≥ 1) && h == 1))
    let room (s : State) : Bool := decide (rd s Reg.XLT_T2_FREE 0 > rd s Reg.XLT_T2_HIGH 0 + 1)
    (scanMoves 0 room (sortSegs (fun e => [65535 - e.2.heat, e.2.part, e.2.seg]) l) l.length r.2 s).1

/-- HEAT_SCAN (R197, R198, R208, R442): one heat period ends. -/
def execHeatScan (s : State) : Out :=
  live s (
    if awake s = false then s
    else
      let s := eachOf s.mem.fsegs s fun s e => match e.2 with
        | some x => if x.retired then retireSeg s e.1 else s
        | none => s
      let s := if rd s Reg.XLT_MIG_CTRL_EN 0 = 1 ∧ !bit (rd s Reg.CEN_HOLD 0) 4 ∧ rimRuns s = true then policyScan s else s
      let sh := rd s Reg.XLT_HEAT_CFG_SHIFT 0
      resumePinned (setMem s { s.mem with fsegs := s.mem.fsegs.map fun e => (e.1, e.2.map fun x =>
        { x with heat := x.heat / 2 ^ sh, age := if x.touched then x.age else min 16383 (x.age + 1), touched := false }) }))

/-- ZERO_FILL (R193, R202): the first access to an ABSENT page with ZFILL. A charge that both tiers refuse is told to
the request that waits, which is then held on its QUOTA record. -/
def zeroFill (p g : Nat) (s : State) : State :=
    match translate s p (g * 65536) false with
    | .zfill =>
      let e := l3e s p g
      let keep := 0xFFFFFFFFFFFFFFFF - (3 + 12 + 2 ^ 10 + (2 ^ 43 - 1) * 2 ^ 12)
      let fill (s : State) (t f : Nat) : State :=
        let s := makeLocal s p g t f 3 0
        bump (setL3 s p g (l3e s p g ||| (e &&& keep))) Reg.XLT_ZFILL 0 1
      let take (s : State) (t f : Nat) (pool : Bool) : State :=
        fill (setSeg (takeFseg s p (segKey p g) t f pool) (segKey p g) (some ⟨t, f, none⟩)) t f
      match getSeg s (segKey p g) with
      | some x => fill (match s.mem.migs.find? fun m => m.seg == segKey p g with
          | some m => bump (abortMig s m) Reg.XLT_MIG_ABORT_WR 0 1
          | none => s) x.tier x.frame
      | none => match alloc s p 0 with
        | .got f pool => take s 0 f pool
        | .no _ => match evictFor s p 0 with
          | some s => s
          | none => match alloc s p 1 with
            | .got f pool => take s 1 f pool
            | .no sub => setMem s { s.mem with noFill := s.mem.noFill ++ [(p, g, sub)] }
    | _ => s

/-- ZERO_FILL (R193, R202). -/
def execZeroFill (p g : Nat) (s : State) : Out :=
  onUnit (decide (p < 8) && decide (g < 2 ^ 36)) (live s (zeroFill p g s))

/-! ### Requests (R108 to R111) -/

/-- REQUEST_ISSUE (R108, R110): the oldest eligible request goes to its porter, which has room for it, when the regulators
grant it. -/
def execRequestIssue (b : Nat) (s : State) : Out :=
  onUnit (b < 1024) (live s (
    let n := b / 32
    let y := bsh s b
    let clash (x : Req) : Bool := !x.store && y.reqs.any fun z =>
      z.store && decide (z.id < x.id) && overlap z.da z.len x.da x.len
    match y.reqs.find? fun x => x.st == .eligible && !clash x with
    | none => s
    | some x =>
      if !(isl s n).released || (isl s n).stopped then s
      else
        let p := partOfIsl s n
        let put (s : State) (f : Req → Req) : State :=
          setBsh s b { bsh s b with reqs := (bsh s b).reqs.map fun z => if z.id = x.id then f z else z }
        if !grantedRange s p (x.da + x.sent) (x.len - x.sent) then put s fun z => { z with throttled := true }
        else
          let s := put (drawRange s p (x.da + x.sent) (x.len - x.sent)) fun z => { z with st := .issued, throttled := false }
          let s := bump s Reg.ISL_BSH_REQ n 1
          if x.len < 4096 then bump s Reg.ISL_BSH_SHORT n 1 else s))

end Sys2Proof.Machine
end

