-- ==== Sys2Proof/Machine/FaultExec.lean ====
section
/-! DEFINITION. Fault records: their log, retranslation, conversion to a yield, and how the runtime ends them (R200,
R201, R203, R204, R252). -/

namespace Sys2Proof.Machine

/-! ### The log (R200) -/

/-- The 32-byte entry of a record. -/
def logEntry (f : FaultRec) (seq : Nat) : Nat :=
  leNum (leBytes 4 seq ++ [f.kind, f.sub, f.src, oneIf f.wr + 2 * oneIf f.conv + 4 * oneIf f.ended] ++
    leBytes 8 (f.page * 65536) ++ leBytes 4 f.tag ++ leBytes 2 f.ring ++ leBytes 2 f.unitNo ++ leBytes 4 f.time ++
    leBytes 4 0)

/-- Records changed by `f` where `q` holds; those resolved and written leave the table. -/
def modRecs (s : State) (q : FaultRec → Bool) (f : FaultRec → FaultRec) : State :=
  setMem s { s.mem with
    faults := (s.mem.faults.map fun x => if q x then f x else x).filter fun x => !(x.ended && x.written) }

/-- Where entry `seq` of a partition's log stands. -/
def logAddr (s : State) (p seq : Nat) : Nat := logBase s p + 32 * (seq % 256)

/-- FAULT_LOG_WRITE (R200, R201): the next record of the partition is written when the log has room for it. -/
def execFaultLogWrite (p : Nat) (s : State) : Out :=
  onUnit (p < 8) (live s (
    let seq := rd s Reg.XLT_FLOG_WR p
    match s.mem.faults.find? fun f => f.part == p && f.seq == some seq && !f.written with
    | none => s
    | some f =>
      let a := logAddr s p seq
      if rd s Reg.XLT_FLT_CTRL_LOG_OK p = 0 ∨ sub32 seq (rd s Reg.XLT_FLOG_RD p) ≥ 256 then s
      else match probe s p a 32 true with
      | .ok =>
        let s := memWrite (abortOnWrite s p a 32) p a 32 (logEntry f seq)
        let s := wr s Reg.XLT_FLOG_WR p (seq + 1)
        raiseInt (modRecs s (fun x => x.part == p && x.seq == some seq) fun x => { x with written := true }) 3 p
      | _ => s))

/-! ### Letting held requests go, or failing them (R203) -/

/-- A held request is let go, to be made again at its place. -/
def retryHeld (s : State) : HeldReq → State
  | .tile r i => modCmd s r i fun c =>
      { c with st := .running, landed := List.range c.progress, fails := c.fails.filter fun x => decide (x.1 < c.progress) }
  | .image r i => modCmd s r i fun c => { c with st := .running }
  | .service r i => modCmd s r i fun c => { c with st := .dispatched, taken := false }
  | .bushel b q => setBsh s b { bsh s b with
      reqs := (bsh s b).reqs.map fun x => if x.id = q ∧ x.st = .held then { x with st := .eligible } else x }
  | .yielded _ _ => s
  | .host => s
  | .repair _ _ => s
  | .winWrite id _ r i =>
    let s := modCmd s r i fun c => { c with st := .running }
    match s.skl.reqs.find? fun q => q.id == id with
    | some q => askWin { s with skl := { s.skl with
        reqs := s.skl.reqs.map fun z => if z.id = id then { z with st := .asked } else z } } q true
    | none => s
  | .descRead r => { s with front := { s.front with fetchHeld := tset (fun _ => false) s.front.fetchHeld r false } }
  | .recWrite r _ => { s with front := { s.front with recHeld := tset (fun _ => false) s.front.recHeld r false } }

/-- A weave-engine command whose read of an image failed (R153, R180): the binding it was changing is left EMPTY by a
LOAD, NOPLACE by the load step of a switch (R160, R173, R175). -/
def failImage (s : State) (r i : Nat) : State :=
  match getCmd s r i with
  | none => s
  | some c =>
    let bd := match c.bind with
      | some b => b
      | none => if c.op = 0x16 then (match savedOf s c.target.1 c.target.2 with | some y => y.bind | none => 0) else c.bd
    let s := runFault s bd 0x27 0 0 0
    if c.op = 0x10 ∧ (bind s bd).loading = some (r, i) then finish (emptyBinding s bd) r i 0x27 0
    else match (bind s bd).op with
    | some (k, a, b) =>
      if a = r ∧ b = i ∧ (k = .drain ∨ k = .relocate) ∧ (bind s bd).loading.isNone then noPlace s bd r i 0x27
      else finish s r i 0x27 0
    | none => finish s r i 0x27 0

/-- The command is no longer held. -/
def letGo (s : State) (r i : Nat) : State :=
  modCmd s r i fun c => if c.st = .held then { c with st := .running } else c

/-- A held request fails with the kind and subcode of its record (R201, R203, R252). -/
def failHeld (kind sub : Nat) (s : State) : HeldReq → State
  | .tile r i => arvNote (finish (letGo s r i) r i (0x40 + kind) sub)
  | .image r i => failImage (letGo s r i) r i
  | .service r i => finish (letGo s r i) r i (0x40 + kind) sub
  | .bushel b _ => stopIsl s (b / 32) (0x40 + kind) sub
  | .host => s
  | .repair _ _ => s
  | .winWrite id _ r i => finish (modCmd { s with skl := { s.skl with reqs := s.skl.reqs.filter fun q => q.id != id } } r i
      fun c => { c with st := .running }) r i (0x40 + kind) sub
  | .yielded r i => match savedOf s r i with
    | some y => endSaved s y (0x40 + kind) sub
    | none => s
  | .descRead r => ringError { s with front := { s.front with
      fetchHeld := tset (fun _ => false) s.front.fetchHeld r false } } r 1
  | .recWrite r _ => ringError { s with front := { s.front with
      recHeld := tset (fun _ => false) s.front.recHeld r false
      recStop := tset (fun _ => false) s.front.recStop r true
      retired := s.front.retired.filter fun c => !(c.ring == r) } } r 2

/-- A record ends: its requests are let go or failed, and it stands only until it is written (R200, R201). -/
def endRec (s : State) (f : FaultRec) (fail : Bool) : State :=
  let s := modRecs s (fun x => x.part == f.part && x.seq == f.seq) fun x => { x with ended := true, held := [] }
  eachOf f.held s (if fail then failHeld f.kind f.sub else retryHeld)

/-- Outstanding records of a partition. -/
def recsOf (s : State) (p : Nat) : List FaultRec := (outstanding s).filter fun f => f.part == p

/-- RESOLVE and FAILSEQ of one SEQ (R201). -/
def fxResolve (p seq : Nat) (fail : Bool) (s : State) : State :=
  match (recsOf s p).find? fun f => f.seq == some seq with
  | some f => endRec s f fail
  | none => s

/-- Bits written to `FLT_CTRL_n` (R201, R211): failing goes before letting go. -/
def fxFltCtrl (p v : Nat) (s : State) : State :=
  if bit v 1 then eachOf (recsOf s p) s fun s f => endRec s f true
  else if bit v 0 then eachOf (recsOf s p) s fun s f => endRec s f false
  else s

/-- A log base written (R201). -/
def fxFlogBase (p : Nat) (s : State) : State := wr s Reg.XLT_FLT_CTRL_LOG_OK p (oneIf (logOk s p))

/-- RESOLVE_WRITE (R201). -/
def execResolveWrite (ag : Agent) (p seq : Nat) (s : State) : Out :=
  onUnit (p < 8) (.next (agentWrite ag Reg.XLT_RESOLVE p (seq % 2 ^ 32) (fun _ s => fxResolve p (seq % 2 ^ 32) false s) s))
/-- FAILSEQ_WRITE (R201). -/
def execFailseqWrite (ag : Agent) (p seq : Nat) (s : State) : Out :=
  onUnit (p < 8) (.next (agentWrite ag Reg.XLT_FAILSEQ p (seq % 2 ^ 32) (fun _ s => fxResolve p (seq % 2 ^ 32) true s) s))
/-- RETRY_ALL (R201). -/
def execRetryAll (ag : Agent) (p : Nat) (s : State) : Out :=
  onUnit (p < 8) (.next (agentWrite ag Reg.XLT_FLT_CTRL_RETRY_ALL p 1 (fun _ s => fxFltCtrl p 1 s) s))
/-- FAIL_ALL (R201). -/
def execFailAll (ag : Agent) (p : Nat) (s : State) : Out :=
  onUnit (p < 8) (.next (agentWrite ag Reg.XLT_FLT_CTRL_FAIL_ALL p 2 (fun _ s => fxFltCtrl p 2 s) s))
/-- FLOG_RD_WRITE (R200, R212). -/
def execFlogRdWrite (ag : Agent) (p v : Nat) (s : State) : Out :=
  onUnit (p < 8) (.next (agentWrite ag Reg.XLT_FLOG_RD p (v % 2 ^ 32) (fun _ s => s) s))
/-- FLOG_BASE_WRITE (R201, R212): either half. -/
def execFlogBaseWrite (ag : Agent) (p : Nat) (hi : Bool) (v : Nat) (s : State) : Out :=
  onUnit (p < 8) (.next (agentWrite ag (if hi then Reg.XLT_FLOG_BASE_HI_ADDR else Reg.XLT_FLOG_BASE_LO_ADDR) p (v % 2 ^ 32)
    (fun _ s => fxFlogBase p s) s))

/-- FAULT_RETRANSLATE (R200): the `k`-th of the faults held without a record is translated again. Still faulting, it
takes a record once one is free. -/
def execFaultRetranslate (k : Nat) (s : State) : Out :=
  live s (match (s.mem.faults.filter fun f => f.seq.isNone)[k]? with
    | none => s
    | some f =>
      let gone := setMem s { s.mem with faults := s.mem.faults.erase f }
      match translate s f.part (f.page * 65536) f.wr with
      | .zfill => if (alloc s f.part 0).isNo && (alloc s f.part 1).isNo && f.kind == 5 then s
          else eachOf f.held gone retryHeld
      | .flt kind new =>
        let sub := if kind = 4 ∧ f.kind = 4 then f.sub else new
        let joins := (outstanding s).any fun x => x.part == f.part && x.page == f.page && x.kind == kind
        if !joins && decide ((outstanding s).length ≥ 4096) then s
        else eachOf f.held gone fun s h => holdFault s f.part f.page kind sub f.wr h
      | _ => eachOf f.held gone retryHeld)

/-! ### Conversion to a full yield (R204, R211) -/

/-- Requests of an invocation's islands among those a record holds. -/
def holdsOn (place : List Nat) (r i : Nat) (f : FaultRec) : Bool := f.held.any fun h => match h with
  | .bushel b _ => place.contains (b / 32)
  | x => heldBy x r i

/-- The records of a command carry the conversion flag, in the log too where they stand there. -/
def setConv (s : State) (place : List Nat) (r i : Nat) : State :=
  eachOf (s.mem.faults.filter (holdsOn place r i)) s fun s f =>
    match f.seq with
    | none => s
    | some seq =>
      let s := modRecs s (fun x => x.part == f.part && x.seq == f.seq) fun x => { x with conv := true }
      let a := logAddr s f.part seq + 7
      if f.written && decide (sub32 (rd s Reg.XLT_FLOG_WR f.part) seq ≤ 256) && rd s Reg.XLT_FLT_CTRL_LOG_OK f.part == 1 && probe s f.part a 1 true == .ok
      then memWrite (abortOnWrite s f.part a 1) f.part a 1 (oneIf f.wr + 2) else s

/-- FAULT_YIELD_WAIT (R204): the wait of an invocation's held request has reached `YIELD_WAIT`. -/
def execFaultYieldWait (bd : Nat) (s : State) : Out :=
  onUnit (bd < 32) (live s (
    let go (nw : Bool) : Option State := match weaveOf s bd nw, invOf s bd nw with
      | some w, some v =>
        let waits := w.place.any fun n => (List.range 32).any fun k => (bsh s (32 * n + k)).reqs.any fun q => q.st == .held
        if !waits then none
        else if yieldBusy s v.ring v.idx then some (setConv s w.place v.ring v.idx)
        else match startYield s v.ring v.idx 2 none with
          | .started t => some (setConv t w.place v.ring v.idx)
          | .no _ => some (bump (bump s Reg.XLT_FLT_NOYIELD 0 1) Reg.CMD_YLD_REFUSE 0 1)
      | _, _ => none
    if rd s Reg.XLT_YIELD_WAIT 0 = 0 then s else ((go false).orElse fun _ => go true).getD s))

end Sys2Proof.Machine
end

