-- ==== Sys2Proof/Machine/AdmitExec.lean ====
section
/-! DEFINITION. Containers and admission (R223 to R227). -/

namespace Sys2Proof.Machine

/-- Header of a container (R223). -/
structure Container where
  base : Nat
  size : Nat
  nchunk : Nat
  ntensor : Nat
  ntable : Nat
  man : Nat
  tree : Nat
  chunk : Nat
  tensor : Nat
  code : Nat
  data : Nat
  deriving DecidableEq, Repr

/-- A number of `n` bytes of the container. -/
def cNum (s : State) (p : Nat) (base off n : Nat) : Nat := memRead s p (base + off) n

def readContainer (s : State) (p b : Nat) : Container :=
  { base := b, size := cNum s p b 8 8, nchunk := cNum s p b 0x10 8, ntensor := cNum s p b 0x18 4,
    ntable := cNum s p b 0x1C 4, man := cNum s p b 0x20 8, tree := cNum s p b 0x28 8, chunk := cNum s p b 0x30 8,
    tensor := cNum s p b 0x38 8, code := cNum s p b 0x40 8, data := cNum s p b 0x48 8 }

/-- Fields of the header that R223 fixes. -/
def headerOk (s : State) (p : Nat) (c : Container) : Bool :=
  cNum s p c.base 0 4 == 0x31434D4E && cNum s p c.base 4 2 == 1 && cNum s p c.base 6 2 == 0 &&
  cNum s p c.base 0x50 176 == 0 && decide (1 ≤ c.nchunk) && decide (c.nchunk ≤ 2 ^ 32) && decide (1 ≤ c.ntable) &&
  decide (c.ntable ≤ 256)

/-- Nodes of each level of the tree below the root, level 0 first (R226). -/
def treeLevels : Nat → Nat → List Nat
  | 0, _ => []
  | f + 1, n => if n ≤ 1 then [] else n :: treeLevels f (cdiv n 64)

/-- Regions of the container other than the data: offset and bytes (R223 to R226). -/
def regions (c : Container) : List (Nat × Nat) :=
  [(0, 256), (c.man, 4096), (c.tree, 32 * sumNat (treeLevels 8 c.nchunk)), (c.chunk, 16 * c.nchunk),
   (c.tensor, 64 * c.ntensor), (c.code, 256 * c.ntable)]

/-- Two regions share no byte. -/
def apart (a b : Nat × Nat) : Bool := a.2 == 0 || b.2 == 0 || decide (a.1 + a.2 ≤ b.1) || decide (b.1 + b.2 ≤ a.1)

/-- Regions within a size, none overlapping another. -/
def regionsOk (size : Nat) : List (Nat × Nat) → Bool
  | [] => true
  | x :: l => decide (x.1 + x.2 ≤ size) && l.all (apart x) && regionsOk size l

/-- Chunk entry `k` (R224), without its leaf digest. -/
def chunkAt (s : State) (p : Nat) (c : Container) (k : Nat) : AChunk :=
  let o := c.chunk + 16 * k
  { off := cNum s p c.base o 8, stored := cNum s p c.base (o + 8) 4, outLen := 64 * cNum s p c.base (o + 12) 2,
    coded := cNum s p c.base (o + 14) 1 == 1, table := cNum s p c.base (o + 15) 1, digest := 0 }

/-- A chunk entry is one R224 allows. -/
def chunkOk (s : State) (p : Nat) (c : Container) (k : Nat) : Bool :=
  let x := chunkAt s p c k
  [4096, 8192, 16384, 32768, 65536].contains x.outLen && decide (cNum s p c.base (c.chunk + 16 * k + 14) 1 ≤ 1) &&
  decide (x.table < c.ntable)

/-- Code table `k`. -/
def codeTable (s : State) (p : Nat) (c : Container) (k : Nat) : List Nat := memList s p (c.base + c.code + 256 * k) 256

/-- Code lengths up to 15 whose Kraft sum is at most 1 (R219, R224). -/
def kraftOk (l : List Nat) : Bool :=
  l.all (fun x => decide (x ≤ 15)) && decide (sumNat (l.map fun x => if x = 0 then 0 else 2 ^ (15 - x)) ≤ 2 ^ 15)

/-- Bytes the data region takes: up to the end of the last chunk (R219, R223). -/
def dataBytes (s : State) (p : Nat) (c : Container) : Nat :=
  (List.range c.nchunk).foldl (fun m k => let x := chunkAt s p c k; max m (x.off + x.stored)) 0

/-- The checks of step 1 of R227 beyond the header, and the manifest's reserved bytes (R225). -/
def tablesOk (s : State) (p : Nat) (c : Container) (first count : Nat) : Bool :=
  (List.range c.nchunk).all (chunkOk s p c) && (List.range c.ntable).all (fun k => kraftOk (codeTable s p c k)) &&
  regionsOk c.size ((c.data, dataBytes s p c) :: regions c) && decide (first + count ≤ c.nchunk) &&
  cNum s p c.base (c.man + 0x50) 176 == 0 && cNum s p c.base (c.man + 0xDED) 531 == 0

/-- Digest `j` of level `l` as the tree region holds it. -/
def treeNode (s : State) (p : Nat) (c : Container) (l j : Nat) : Nat :=
  cNum s p c.base (c.tree + 32 * (sumNat ((treeLevels 8 c.nchunk).take l) + j)) 32

/-- The node at index `j` of level `l + 1`, recomputed from its children (R226). -/
def nodeOf (s : State) (p : Nat) (c : Container) (l j : Nat) : Nat :=
  let n := (treeLevels 8 c.nchunk).getD l 0
  Config.shake256 ([1, l + 1] ++ leBytes 8 j ++
    (List.range (min 64 (n - 64 * j))).flatMap fun k => leBytes 32 (treeNode s p c l (64 * j + k)))

/-- The paths of nodes `a` to `b` of level `l` to the root (R226, R227): each parent recomputed and compared. -/
def pathsOk (s : State) (p : Nat) (c : Container) (root : Nat) : Nat → Nat → Nat → Nat → Bool
  | 0, _, _, _ => true
  | f + 1, l, a, b =>
    let levels := treeLevels 8 c.nchunk
    if l ≥ levels.length then true
    else
      let js := (List.range (b / 64 - a / 64 + 1)).map (a / 64 + ·)
      js.all (fun j => nodeOf s p c l j == (if l + 1 = levels.length then root else treeNode s p c (l + 1) j)) &&
      pathsOk s p c root f (l + 1) (a / 64) (b / 64)

/-- Leaf digest of chunk `k`: the tree's, or the root itself where the tree has one node. -/
def leafOf (s : State) (p : Nat) (c : Container) (root k : Nat) : Nat :=
  if c.nchunk ≤ 1 then root else treeNode s p c 0 k

/-- Bytes an admission table takes (R227). -/
def admitBytes (x : ASlot) : Nat := 48 * x.chunks.length + 256 * x.tables.length

/-- Bytes of the reserved area that admission tables take now. -/
def admitUsed (s : State) : Nat := sumNat (s.mem.slots.map fun e => match e.2 with | some x => admitBytes x | none => 0)

/-- Free slots (R227). -/
def freeSlots (s : State) : List Nat := (List.range 256).filter fun k => (tget (fun _ => none) s.mem.slots k).isNone

def setSlot (s : State) (k : Nat) (x : Option ASlot) : State :=
  setMem s { s.mem with slots := tset (fun _ => none) s.mem.slots k x }

/-- Ranges an ADMIT reads beyond the header: manifest, tables, and the groups of each level that cover the range. -/
def admitReads (c : Container) (first count : Nat) : List (Nat × Nat) :=
  let lv := treeLevels 8 c.nchunk
  let groups := (List.range lv.length).map fun l =>
    let a := first / 64 ^ (l + 1) * 64
    let b := min (lv.getD l 0) (((first + count - 1) / 64 ^ (l + 1) + 1) * 64)
    (c.base + c.tree + 32 * (sumNat (lv.take l) + a), 32 * (b - a))
  ([(c.base + c.man, 4096), (c.base + c.chunk, 16 * c.nchunk), (c.base + c.tensor, 64 * c.ntensor),
    (c.base + c.code, 256 * c.ntable)] ++ groups).filter fun e => decide (e.2 ≠ 0)

/-- Steps 1 to 6 of R227, everything being readable. -/
def admitGo (s : State) (cmd : Cmd) (c : Container) (first count : Nat) : State :=
  let p := partOf cmd.ring
  let r := cmd.ring
  let i := cmd.idx
  let key := cNum s p c.base (c.man + 0x4C) 4
  let root := cNum s p c.base c.man 32
  let meta_ := memList s p c.base 256 ++ memList s p (c.base + c.code) (256 * c.ntable) ++
    memList s p (c.base + c.chunk) (16 * c.nchunk) ++ memList s p (c.base + c.tensor) (64 * c.ntensor)
  if !tablesOk s p c first count then finish s r i 0x53 0
  else match s.sec.flash.keys[key]? with
  | none => finish s r i 0x52 0
  | some pub =>
    if !Config.sigOk pub (memList s p (c.base + c.man) 256) (memList s p (c.base + c.man + 0x100) 3309)
    then finish s r i 0x51 0
    else if Config.shake256 meta_ ≠ cNum s p c.base (c.man + 0x20) 32 then finish s r i 0x51 0
    else if !pathsOk s p c root 8 0 first (first + count - 1) then finish s r i 0x51 0
    else
      let chunks := (List.range count).map fun k =>
        { chunkAt s p c (first + k) with digest := leafOf s p c root (first + k) }
      let sl : ASlot := ⟨p, c.base, first, key, c.data, chunks, (List.range c.ntable).map (codeTable s p c)⟩
      let l := freeSlots s
      match l[freeNat s % l.length]? with
      | some k =>
        if admitUsed s + admitBytes sl > Config.admitRoom.toNat then finish s r i 0x55 0
        else finish (modCmd (setSlot s k (some sl)) r i fun x => { x with result := k }) r i 0 0
      | none => finish s r i 0x55 0

/-- ADMIT (R227, R247). Which free slot it takes the spec does not say (assumption 1). -/
def execAdmit (r i : Nat) (s : State) : Out := onCmd r i 0x2B s fun c s =>
  let p := partOf r
  let b := c.fld 0x10 8
  if !rimRuns s then s else
  match gate s p b 256 false false (.tile r i) with
  | .wait s => s
  | .held s => setAside s r i
  | .go s =>
    let h := readContainer s p b
    if !headerOk s p h then finish (fresh (imageBytes s p [(b, 256)])) r i 0x53 0
    else
      let l := admitReads h (c.fld 0x18 8) (c.fld 0x20 8)
      if !regionsOk h.size (regions h) then finish (fresh (imageBytes s p [(b, 256)])) r i 0x53 0
      else match gateAll s p false (.tile r i) ((b, 256) :: l) with
      | .wait s => s
      | .held s => setAside s r i
      | .go s => fresh (admitGo (imageBytes s p ((b, 256) :: l)) c h (c.fld 0x18 8) (c.fld 0x20 8))

/-- Moves under way that use a slot keep it as it was, for their tiles in progress (R235). -/
def slotLost (s : State) (k : Nat) (sl : ASlot) : State :=
  { s with front := { s.front with inflight := s.front.inflight.map fun c =>
      if c.op = 0x20 ∧ !c.finished ∧ c.arv ≠ 0 ∧ aHash c.arv ∧ aF c.arv 0x0C 2 = k ∧ partOf c.ring = sl.part ∧ c.oldSlot = none
      then { c with oldSlot := some sl } else c } }

/-- UNADMIT (R227, R445). A free slot is left, and so is a slot of another partition (assumption 17). -/
def execUnadmit (r i : Nat) (s : State) : Out := onCmd r i 0x2C s fun c s =>
  let k := c.fld 0x33 1
  if !rimRuns s then s else
  match tget (fun _ => none) s.mem.slots k with
  | none => finish s r i 0 0
  | some sl => if sl.part = partOf r then finish (slotLost (setSlot s k none) k sl) r i 0 0 else finish s r i 0x36 0

end Sys2Proof.Machine
end

