-- ==== Sys2Proof/Machine/SamplerExec.lean ====
section
/-! DEFINITION. Service engine commands in common (R205, R266), and the sampler (R266 to R277). -/

namespace Sys2Proof.Machine

/-! ### Service engine commands (R205) -/

/-- Pages a command has written stay locked until it retires (R205). -/
def lockPages (s : State) (c : Cmd) (l : List (Nat × Nat)) : State :=
  let gs := (l.flatMap fun e => pagesOf e.1 e.2).eraseDups
  setMem s { s.mem with locks := s.mem.locks ++ gs.map fun g => ⟨partOf c.ring, g, c.ring, c.idx⟩ }

/-- Ranges read to find out what else a command reads: translated, and left to the regulators later. -/
def svcPeek (s : State) (c : Cmd) (reads : List (Nat × Nat)) (k : State → State) : State :=
  let p := partOf c.ring
  match (reads.filter fun e => decide (e.2 ≠ 0)).foldl (fun a e => if a = .ok then probe s p e.1 e.2 false else a) Acc.ok with
  | .wait _ => s
  | .flt page kind sub => setAside (holdFault s p page kind sub false (.service c.ring c.idx)) c.ring c.idx
  | .ok => match gates s s p false false (.service c.ring c.idx) (reads.filter fun e => decide (e.2 ≠ 0)) with
    | .go s => k s
    | .wait s => s
    | .held s => setAside s c.ring c.idx

/-- The read phase: every range read and every range to be written is translated, and the regulators grant them. -/
def svcGate (s : State) (c : Cmd) (reads writes : List (Nat × Nat)) (k : State → State) : State :=
  let p := partOf c.ring
  let h := HeldReq.service c.ring c.idx
  match gateAll s p false h (reads.filter fun e => decide (e.2 ≠ 0)) with
  | .wait s => s
  | .held s => setAside s c.ring c.idx
  | .go t => match gates s t p true true h (writes.filter fun e => decide (e.2 ≠ 0)) with
    | .wait _ => s
    | .held s => setAside s c.ring c.idx
    | .go s => k s

/-- A write of the commit phase. -/
def svcWrite (s : State) (p a n v : Nat) : State := memWrite (abortOnWrite s p a n) p a n v

/-- A service command retires with a status, a subcode and its RESULT. -/
def svcEnd (s : State) (c : Cmd) (status sub result : Nat) : State :=
  finish (modCmd s c.ring c.idx fun x => { x with result := result }) c.ring c.idx status sub

/-! ### FP32 arithmetic by bit patterns (R28) -/

def f32add (a b : Nat) : Nat := toF32 (fvAdd (ofF32 a) (ofF32 b))
def f32sub (a b : Nat) : Nat := toF32 (fvAdd (ofF32 a) (fvNeg (ofF32 b)))
def f32mul (a b : Nat) : Nat := toF32 (fvMul (ofF32 a) (ofF32 b))
def f32lt (a b : Nat) : Bool := fvLt (ofF32 a) (ofF32 b)
def f32le (a b : Nat) : Bool := fvLt (ofF32 a) (ofF32 b) || fvEq (ofF32 a) (ofF32 b)

/-- Quotient rounded once. -/
def f32div (a b : Nat) : Nat :=
  match ofF32 a, ofF32 b with
  | .nan, _ => 0x7FC00000
  | _, .nan => 0x7FC00000
  | .inf x, .inf _ => if x then 0x7FC00000 else 0x7FC00000
  | .inf x, .num n _ _ => fpInf fmtF32 (x != n)
  | .num x _ _, .inf n => fpPack fmtF32 (x != n) 0 (-149)
  | .num x m e, .num n k d =>
    if k = 0 then (if m = 0 then 0x7FC00000 else fpInf fmtF32 (x != n))
    else
      let r := roundQ .even 24 (-149) m k (e - d)
      if fpOver fmtF32 r.1 r.2 then fpInf fmtF32 (x != n) else fpPack fmtF32 (x != n) r.1 r.2

/-- The FP32 bits are those of a number from `lo` to `hi`. -/
def f32in (x lo hi : Nat) : Bool := f32le lo x && f32le x hi

/-- Sum in the order of the list. -/
def f32sum (l : List Nat) : Nat := l.foldl f32add 0

/-- A special function of a service engine, whose unit need not be the stakes': special inputs as R48, other results
within the error of R49: the exponential (R270, R300), the sigmoid (R300), the reciprocal square root (R339)
(assumption 3). -/
def svcSpecial (op x : Nat) : Nat :=
  match sfSpecial op (ofF32 x) with
  | some (r, _) => r
  | none => sfBound op x (Config.specialFn (0x100 + op) x).toNat
def f32exp (x : Nat) : Nat := svcSpecial 0x21 x

/-- The sampler's logarithm, whose error no rule states (assumption 3). -/
def f32log (x : Nat) : Nat :=
  match sfSpecial 0x22 (ofF32 x) with
  | some (r, _) => r
  | none => (Config.specialFn 0x122 x).toNat

/-! ### Slots (R267, R268) -/

def sslot (s : State) (k : Nat) : SSlot := tget (fun _ => SSlot.idle) s.srv.slots k
def setSslot (s : State) (k : Nat) (x : SSlot) : State :=
  { s with srv := { s.srv with slots := tset (fun _ => SSlot.idle) s.srv.slots k x } }
def slotOpen (s : State) (k : Nat) : Bool := rdBit s Reg.SMP_SLOT_OPEN (k / 32) (k % 32)

/-- Slots a partition holds. -/
def slotsHeld (s : State) (p : Nat) : Nat :=
  ((List.range 128).filter fun k => slotOpen s k && (sslot s k).part == p).length

/-- Why a command may not use a slot: 0 for nothing. -/
def slotBar (s : State) (p k : Nat) : Nat :=
  if k > 127 then 0x72 else if !slotOpen s k then 0x70 else if (sslot s k).part ≠ p then 0x71 else 0

/-- A SPILL names 64 KiB of LOCAL T2 pages with WR set. -/
def spillOk (s : State) (p a : Nat) : Bool :=
  a == 0 || (pagesOf a 65536).all fun g =>
    let e := l3e s p g
    rd s Reg.XLT_ROOT_VALID p == 1 && isLocal e && eTier e == 0 && eWr e

/-- Parameters in the ranges of R268. -/
def slotParamsOk (c : Cmd) : Bool :=
  let f (o : Nat) := c.fld o 4
  decide (c.fld 0x12 2 ≤ 1024) && ((ofF32 (f 0x14)).isZero || f32in (f 0x14) 0x3A800000 0x42C80000) &&
  f32lt 0 (f 0x18) && f32le (f 0x18) 0x3F800000 && f32le 0 (f 0x1C) && f32lt (f 0x1C) 0x3F800000 &&
  f32in (f 0x20) 0x3E000000 0x41000000 && f32in (f 0x24) 0xC1800000 0x41800000 && f32in (f 0x28) 0xC1800000 0x41800000 &&
  decide (1 ≤ f 0x2C) && decide (f 0x2C ≤ 262144)

/-- SLOT_SET (R267, R268, R269). OPEN on a slot the partition holds sets its parameters (DEDUCED, assumption 18). -/
def execSlotSet (r i : Nat) (s : State) : Out := onCmd r i 0x40 s fun c s =>
  let p := partOf r
  let k := c.fld 0x10 1
  let fl := c.fld 0x11 1
  if k > 127 ∨ !slotParamsOk c ∨ !spillOk s p (c.fld 0x38 8) then svcEnd s c 0x72 0 0
  else if slotOpen s k ∧ (sslot s k).part ≠ p then svcEnd s c 0x71 0 0
  else if !slotOpen s k ∧ !bit fl 0 then svcEnd s c 0x70 0 0
  else if !slotOpen s k ∧ slotsHeld s p ≥ rd s Reg.SMP_SLOT_Q_MAX p then svcEnd s c 0x73 0 0
  else
    let x := sslot s k
    let y : SSlot := { x with
      part := p, lpraw := bit fl 3, bf16 := bit fl 4, topk := c.fld 0x12 2, temp := c.fld 0x14 4, topp := c.fld 0x18 4,
      minp := c.fld 0x1C 4, rep := c.fld 0x20 4, pres := c.fld 0x24 4, freq := c.fld 0x28 4, vocab := c.fld 0x2C 4,
      seed := if bit fl 2 then c.fld 0x30 8 else x.seed, step := if bit fl 2 then 0 else x.step, spill := c.fld 0x38 8,
      lossy := if bit fl 1 then false else x.lossy, counts := if bit fl 1 then [] else x.counts }
    svcEnd (setBit (setSslot s k y) Reg.SMP_SLOT_OPEN (k / 32) (k % 32)) c 0 0 0

/-- SLOT_CLOSE (R267). -/
def execSlotClose (r i : Nat) (s : State) : Out := onCmd r i 0x41 s fun c s =>
  let k := c.fld 0x10 1
  let bar := slotBar s (partOf r) k
  if bar ≠ 0 then svcEnd s c bar 0 0
  else svcEnd (clrBit (setSslot s k { sslot s k with counts := [] }) Reg.SMP_SLOT_OPEN (k / 32) (k % 32)) c 0 0 0

/-! ### Counts (R269) -/

/-- The entry of a token in a slot's overflow table, or the free one where it would go: probed from token mod 16,384. -/
def spillFind (s : State) (p a tok : Nat) : Option (Nat × Nat) :=
  (List.range 16384).findSome? fun j =>
    let o := a + 4 * ((tok + j) % 16384)
    let e := memRead s p o 4
    if e / 2 ^ 18 = 0 ∨ e % 2 ^ 18 = tok then some (o, e) else none

/-- The count of a token in a slot. -/
def countOf (s : State) (x : SSlot) (tok : Nat) : Nat :=
  let n := tget (fun _ => 0) x.counts tok
  if n ≠ 0 then n
  else if x.counts.length < 8192 ∨ x.spill = 0 then 0
  else match spillFind s x.part x.spill tok with
    | some (_, e) => e / 2 ^ 18
    | none => 0

/-- One more of a token in slot `k`. -/
def addCount (s : State) (k tok : Nat) : State :=
  let x := sslot s k
  let n := tget (fun _ => 0) x.counts tok
  let lost (s : State) : State := bump (setSslot s k { x with lossy := true }) Reg.SMP_CNT_LOST 0 1
  if n ≠ 0 ∨ x.counts.length < 8192 then
    setSslot s k { x with counts := tset (fun _ => 0) x.counts tok (min 16383 (n + 1)) }
  else if x.spill = 0 then lost s
  else match spillFind s x.part x.spill tok with
    | some (o, e) =>
      bump (svcWrite s x.part o 4 (tok + 2 ^ 18 * min 16383 (e / 2 ^ 18 + 1))) Reg.SMP_CNT_SPILL 0 1
    | none => lost s

/-- The overflow tables of slots, as ranges a command writes. -/
def spills (s : State) (l : List Nat) : List (Nat × Nat) :=
  (l.eraseDups.map fun k => (sslot s k).spill).filterMap fun a => if a = 0 then none else some (a, 65536)

/-- COUNT_ADD (R269). -/
def execCountAdd (r i : Nat) (s : State) : Out := onCmd r i 0x44 s fun c s =>
  let p := partOf r
  let k := c.fld 0x10 1
  let n := c.fld 0x20 4
  let bar := slotBar s p k
  if n = 0 ∨ n > 16777215 then svcEnd s c 0x72 0 0
  else if bar ≠ 0 then svcEnd s c bar 0 0
  else svcGate s c ((c.fld 0x18 8, 4 * n) :: spills s [k]) (spills s [k]) fun s =>
    let toks := (List.range n).map fun j => memRead s p (c.fld 0x18 8 + 4 * j) 4
    if toks.any fun t => decide (t ≥ (sslot s k).vocab) then svcEnd (fresh s) c 0x72 0 0
    else svcEnd (fresh (lockPages (eachOf toks s fun s t => addCount s k t) c (spills s [k]))) c 0 0 0

/-! ### The pick (R270 to R272) -/

/-- A draw of R272: the FP32 bits of u. -/
def drawOf (seed step j : Nat) : Nat :=
  let m := 2 ^ 64
  let x := (seed + 0x9E3779B97F4A7C15 * (step * 64 + j + 1)) % m
  let x := (x ^^^ (x >>> 30)) * 0xBF58476D1CE4E5B9 % m
  let x := (x ^^^ (x >>> 27)) * 0x94D049BB133111EB % m
  let x := x ^^^ (x >>> 31)
  toF32 (.num false (x >>> 40) (-24))

/-- Bytes of a logit row (R274). -/
def rowBytes (x : SSlot) : Nat := cdiv (x.vocab * (if x.bf16 then 2 else 4)) 64 * 64

/-- Step 1: the row as FP32, and the NaNs it held. -/
def entryRow (s : State) (p a : Nat) (x : SSlot) : List Nat × Nat :=
  let raw := (List.range x.vocab).map fun j =>
    if x.bf16 then memRead s p (a + 2 * j) 2 * 65536 else memRead s p (a + 4 * j) 4
  (raw.map fun v => if (ofF32 v).isNan then 0xFF800000 else if v = 0x7F800000 then 0x7F7FFFFF else v,
    (raw.filter fun v => (ofF32 v).isNan).length)

/-- Steps 2 and 3: penalties, with `more` tokens counted beyond the slot's counts. -/
def penalise (s : State) (x : SSlot) (more : List Nat) (row : List Nat) : List Nat :=
  row.zipIdx.map fun e =>
    let c := min 16383 (countOf s x e.2 + more.count e.2)
    if c = 0 then e.1
    else
      let z := if f32lt 0 e.1 then f32div e.1 x.rep else f32mul e.1 x.rep
      f32sub (f32sub z x.pres) (f32mul x.freq (toF32 (ofInt c)))

/-- Tokens with a value above −infinity, by rank: value and token. -/
def ranked (row : List Nat) : List (Nat × Nat) :=
  sortBy (fun a b => fvLt (ofF32 b.1) (ofF32 a.1) || (!(fvLt (ofF32 a.1) (ofF32 b.1)) && decide (a.2 ≤ b.2)))
    (row.zipIdx.filter fun e => decide (e.1 ≠ 0xFF800000))

/-- What steps 5 to 9 leave: kept tokens with their probabilities in the order step 10 sums, and what the counters take. -/
structure Dist where
  kept : List (Nat × Nat)
  implk : Nat
  short : Nat
  deriving DecidableEq, Repr

/-- The shortest start of the list whose running sum reaches a bound; none if it never does. -/
def shortest (bound : Nat) : Nat → List (Nat × Nat) → Option (List (Nat × Nat))
  | _, [] => none
  | acc, e :: l =>
    let t := f32add acc e.2
    if f32le bound t then some [e] else (shortest bound t l).map (e :: ·)

/-- Steps 5 to 9 on a row after its penalties. -/
def distOf (x : SSlot) (row : List Nat) : Dist :=
  let l := ranked (row.map fun z => f32div z x.temp)
  let imp := decide (x.topk = 0) && (f32lt x.topp 0x3F800000 || f32lt 0 x.minp)
  let full := decide (x.topk = 0) && !imp
  let l := if full then l else l.take (if imp then 1024 else x.topk)
  match l with
  | [] => ⟨[], oneIf imp, 0⟩
  | e0 :: _ =>
    let ex := l.map fun e => f32exp (f32sub e.1 e0.1)
    let sum := f32sum ex
    let ps := (l.zip ex).map fun e => (e.1.2, f32div e.2 sum)
    if full then ⟨sortBy (fun a b => decide (a.1 ≤ b.1)) ps, 0, 0⟩
    else
      let p0 := match ps with | e :: _ => e.2 | [] => 0
      let ps := ps.filter fun e => !(f32lt e.2 (f32mul x.minp p0))
      if x.topp = 0x3F800000 then ⟨ps, oneIf imp, 0⟩
      else match shortest (f32mul x.topp (f32sum (ps.map Prod.snd))) 0 ps with
        | some k => ⟨k, oneIf imp, 0⟩
        | none => ⟨ps, oneIf imp, oneIf imp⟩

/-- Step 10: the token drawn from weights in order, 2^32 − 1 where there are none. -/
def drawFrom (l : List (Nat × Nat)) (u : Nat) : Nat :=
  let bound := f32mul u (f32sum (l.map Prod.snd))
  let r := l.foldl (fun (st : Nat × Option Nat) e =>
    let t := f32add st.1 e.2
    (t, match st.2 with | some k => some k | none => if f32lt bound t then some e.1 else none)) ((0 : Nat), (none : Option Nat))
  match r.2 with
  | some k => k
  | none => match l.getLast? with | some e => e.1 | none => 0xFFFFFFFF

/-- Log-probability of an emitted token (R273). -/
def logProb (x : SSlot) (raw pen : List Nat) (kept : List (Nat × Nat)) (tok : Nat) : Nat :=
  if x.lpraw then (Config.logSoftmax raw tok).toNat
  else if (ofF32 x.temp).isZero then (Config.logSoftmax pen tok).toNat
  else
    let p := match kept.find? fun e => e.1 == tok with | some e => e.2 | none => 0
    f32log (f32div p (f32sum (kept.map Prod.snd)))

/-- A row as a pick sees it: after step 1, after step 3, its distribution; empty where no token is above −infinity. -/
structure RowView where
  raw : List Nat
  pen : List Nat
  dist : Dist
  empty : Bool
  nans : Nat
  deriving DecidableEq, Repr

def viewRow (s : State) (p a : Nat) (x : SSlot) (more : List Nat) : RowView :=
  let e := entryRow s p a x
  let pen := penalise s x more e.1
  let d : Dist := if (ofF32 x.temp).isZero then ⟨[], 0, 0⟩ else distOf x pen
  ⟨e.1, pen, d, (ranked pen).isEmpty, e.2⟩

/-- Rank-0 token after step 3. -/
def greedy (v : RowView) : Nat := match ranked v.pen with | e :: _ => e.2 | [] => 0xFFFFFFFF

/-- Counters a row moves (R270, R271, R294). -/
def countRow (s : State) (v : RowView) : State :=
  bump (bump (bump s Reg.SMP_NANLOG 0 v.nans) Reg.SMP_IMPLK 0 (if v.empty then 0 else v.dist.implk)) Reg.SMP_TOPP_SHORT 0
    v.dist.short

/-- Token and log-probability of a pick with draw `j` from a view. -/
def pickToken (x : SSlot) (v : RowView) (j : Nat) : Nat × Nat :=
  if v.empty then (0xFFFFFFFF, 0x7FC00000)
  else
    let t := if (ofF32 x.temp).isZero then greedy v else drawFrom v.dist.kept (drawOf x.seed x.step j)
    (t, logProb x v.raw v.pen v.dist.kept t)

/-- A PICK entry: LOGITS, SLOT, NOCOUNT. -/
def pickEntry (s : State) (p a : Nat) : Nat × Nat × Bool :=
  (memRead s p a 8, memRead s p (a + 8) 1, bit (memRead s p (a + 9) 1) 0)

/-- A row address a list may name. -/
def rowOk (a : Nat) : Bool := a % 64 == 0 && decide (a < 2 ^ 52)

/-- Picks of a PICK in list order: the state, tokens emitted so far, outputs. -/
def picks (p out : Nat) : List (Nat × Nat × Bool) → Nat → Nat → State → State × Nat
  | [], _, n, s => (s, n)
  | e :: l, k, n, s =>
    let x := sslot s e.2.1
    let v := viewRow s p e.1 x []
    let t := pickToken x v 0
    let s := countRow s v
    let s := svcWrite (svcWrite s p (out + 8 * k) 4 t.1) p (out + 8 * k + 4) 4 t.2
    if v.empty then picks p out l (k + 1) n (bump s Reg.SMP_EMPTYROW 0 1)
    else
      let s := if e.2.2 then s else addCount s e.2.1 t.1
      let y := sslot s e.2.1
      picks p out l (k + 1) (n + 1) (bump (setSslot s e.2.1 { y with step := (y.step + 1) % 2 ^ 32 }) Reg.SMP_PICKS 0 1)

/-- PICK (R270 to R273). -/
def execPick (r i : Nat) (s : State) : Out := onCmd r i 0x42 s fun c s =>
  let p := partOf r
  let n := c.fld 0x18 4
  let list := c.fld 0x10 8
  let out := c.fld 0x20 8
  if n = 0 ∨ n > 128 then svcEnd s c 0x72 0 0
  else svcPeek s c [(list, 16 * n)] fun s =>
    let es := (List.range n).map fun k => pickEntry s p (list + 16 * k)
    let bars := es.map fun e => let b := slotBar s p e.2.1; if b = 0 ∧ !rowOk e.1 then 0x72 else b
    match bars.findIdx? (fun b => decide (b ≠ 0)) with
    | some k => svcEnd (fresh s) c (bars.getD k 0) (k % 256) 0
    | none =>
      let sp := spills s ((es.filter fun e => !e.2.2).map fun e => e.2.1)
      svcGate s c ((list, 16 * n) :: (es.map fun e => (e.1, rowBytes (sslot s e.2.1))) ++ sp) ((out, 8 * n) :: sp) fun s =>
        let z := picks p out es 0 0 s
        svcEnd (fresh (lockPages z.1 c ((out, 8 * n) :: sp))) c 0 0 z.2

/-! ### Draft verification (R275 to R277) -/

/-- A node entry: DROW, TOKEN, PARENT. -/
structure DNode where
  drow : Nat
  tok : Nat
  par : Nat
  deriving DecidableEq, Repr

/-- A VERIFY entry. -/
structure VEntry where
  trows : Nat
  nodes : Nat
  out : Nat
  slot : Nat
  n : Nat
  deriving DecidableEq, Repr

def verifyEntry (s : State) (p a : Nat) : VEntry :=
  ⟨memRead s p a 8, memRead s p (a + 8) 8, memRead s p (a + 16) 8, memRead s p (a + 24) 1, memRead s p (a + 25) 1⟩
def nodeEntry (s : State) (p a : Nat) : DNode := ⟨memRead s p a 8, memRead s p (a + 8) 4, memRead s p (a + 12) 1⟩

/-- Depth of node `k`: 1 for a child of the root. -/
def nodeDepth (l : List DNode) : Nat → Nat → Nat
  | 0, _ => 0
  | f + 1, k => match l[k]? with
    | some d => if d.par = 0xFF then 1 else 1 + nodeDepth l f d.par
    | none => 0

/-- The draft tree is one R275 allows. -/
def treeOk (x : SSlot) (l : List DNode) : Bool :=
  l.zipIdx.all fun e => (e.1.par == 0xFF || decide (e.1.par < e.2)) && decide (nodeDepth l 17 e.2 ≤ 8) &&
    decide (e.1.tok < x.vocab)

/-- What a VERIFY entry has come to. -/
structure VerRun where
  s : State
  acc : List Nat
  toks : List (Nat × Nat)
  j : Nat

/-- Weight of a token in a list of weights. -/
def weightOf (l : List (Nat × Nat)) (t : Nat) : Nat := match l.find? fun e => e.1 == t with | some e => e.2 | none => 0

/-- The residual of R276: max(0, p − q) over its sum, where that is above zero. -/
def residual (p q : List (Nat × Nat)) : List (Nat × Nat) :=
  let d := p.map fun e => (e.1, let x := f32sub e.2 (weightOf q e.1); if f32lt 0 x then x else 0)
  if d.all fun e => e.2 == 0 then p
  else
    let sum := (Config.residualSum (d.map Prod.snd)).toNat
    if f32lt 0 sum then d.map fun e => (e.1, f32div e.2 sum) else p

/-- Children of a node tried in order: the one taken, the weights left, the draws used, the state's counters. -/
def tryKids (part : Nat) (x : SSlot) (more : List Nat) (v : RowView) :
    List (Nat × DNode) → List (Nat × Nat) → Nat → State → Option Nat × List (Nat × Nat) × Nat × State
  | [], w, j, s => (none, w, j, s)
  | (k, d) :: l, w, j, s =>
    if (ofF32 x.temp).isZero then
      if !v.empty && d.tok == greedy v then (some k, w, j, s) else tryKids part x more v l w j s
    else
      let qv := viewRow s part d.drow x more
      let s := countRow s qv
      let u := drawOf x.seed x.step j
      let pw := weightOf w d.tok
      if f32lt 0 pw && f32le (f32mul u (weightOf qv.dist.kept d.tok)) pw then (some k, w, j + 1, s)
      else tryKids part x more v l (residual w qv.dist.kept) (j + 1) s

/-- The loop of R276 from `cur` (0xFF the root): at most nine depths. -/
def verifyLoop (part : Nat) (x : SSlot) (e : VEntry) (nodes : List DNode) : Nat → Nat → VerRun → VerRun
  | 0, _, z => z
  | f + 1, cur, z =>
    let row := if cur = 0xFF then 0 else cur + 1
    let more := z.toks.map Prod.fst
    let v := viewRow z.s part (e.trows + row * rowBytes x) x more
    let s := countRow z.s v
    let kids := (nodes.zipIdx.filter fun d => d.1.par == cur).map fun d => (d.2, d.1)
    match tryKids part x more v kids v.dist.kept z.j s with
    | (some k, _, j, s) =>
      let tok := match nodes[k]? with | some d => d.tok | none => 0
      verifyLoop part x e nodes f k ⟨s, z.acc ++ [k], z.toks ++ [(tok, logProb x v.raw v.pen v.dist.kept tok)], j⟩
    | (none, w, j, s) =>
      if v.empty then ⟨bump s Reg.SMP_EMPTYROW 0 1, z.acc, z.toks ++ [(0xFFFFFFFF, 0x7FC00000)], j⟩
      else
        let live := w.filter fun a => f32lt 0 a.2
        let tok := if (ofF32 x.temp).isZero then greedy v else drawFrom live (drawOf x.seed x.step j)
        ⟨s, z.acc, z.toks ++ [(tok, logProb x v.raw v.pen v.dist.kept tok)], j + 1⟩

/-- One VERIFY entry: the state after it, drafts accepted. -/
def verifyOne (p : Nat) (e : VEntry) (s : State) : State × Nat :=
  let x := sslot s e.slot
  let nodes := (List.range e.n).map fun k => nodeEntry s p (e.nodes + 16 * k)
  let z := verifyLoop p x e nodes 10 0xFF ⟨s, [], [], 0⟩
  let a := z.acc.length
  let real := (z.toks.map Prod.fst).filter fun t => decide (t ≠ 0xFFFFFFFF)
  let bytes := [a] ++ (List.range 8).map (fun k => z.acc.getD k 0xFF) ++ List.replicate 7 0 ++
    z.toks.flatMap fun t => leBytes 4 t.1 ++ leBytes 4 t.2
  let s := svcWrite z.s p e.out 128 (leNum bytes)
  let s := eachOf real s fun s t => addCount s e.slot t
  let y := sslot s e.slot
  let s := if real.isEmpty then s else setSslot s e.slot { y with step := (y.step + 1) % 2 ^ 32 }
  let s := bump (bump (bump s Reg.SMP_VERIFIES 0 1) Reg.SMP_DRAFT_PROP 0 e.n) Reg.SMP_DRAFT_ACC 0 a
  (s, a)

/-- Why a VERIFY entry fails: 0 for nothing. -/
def verifyBar (s : State) (p : Nat) (e : VEntry) (nodes : List DNode) : Nat :=
  let b := slotBar s p e.slot
  let x := sslot s e.slot
  if b ≠ 0 then b
  else if e.n = 0 ∨ e.n > 16 ∨ !treeOk x nodes then 0x74
  else if !rowOk e.trows ∨ !rowOk e.out ∨ e.nodes % 8 ≠ 0 ∨
      (!(ofF32 x.temp).isZero && nodes.any fun d => !rowOk d.drow) then 0x72
  else 0

/-- VERIFY (R275 to R277). -/
def execVerify (r i : Nat) (s : State) : Out := onCmd r i 0x43 s fun c s =>
  let p := partOf r
  let n := c.fld 0x18 4
  let list := c.fld 0x10 8
  if n = 0 ∨ n > 128 then svcEnd s c 0x72 0 0
  else svcPeek s c [(list, 32 * n)] fun s =>
    let es := (List.range n).map fun k => verifyEntry s p (list + 32 * k)
    let small (e : VEntry) : Bool := decide (1 ≤ e.n) && decide (e.n ≤ 16)
    svcPeek s c ((es.filter small).map fun e => (e.nodes, 16 * e.n)) fun s =>
      let nodes (e : VEntry) := if small e then (List.range e.n).map fun k => nodeEntry s p (e.nodes + 16 * k) else []
      let bars := es.map fun e => verifyBar s p e (nodes e)
      match bars.findIdx? (fun b => decide (b ≠ 0)) with
      | some k => svcEnd (fresh s) c (bars.getD k 0) (k % 256) 0
      | none =>
        let rows := es.flatMap fun e =>
          let x := sslot s e.slot
          (e.trows, (e.n + 1) * rowBytes x) ::
            (if (ofF32 x.temp).isZero then [] else ((nodes e).map DNode.drow).eraseDups.map fun d => (d, rowBytes x))
        let outs := (es.map fun e => (e.out, 128)) ++ spills s (es.map VEntry.slot)
        let lists := (list, 32 * n) :: es.map fun e => (e.nodes, 16 * e.n)
        svcGate s c (lists ++ rows ++ spills s (es.map VEntry.slot)) outs fun s =>
          let z := es.foldl (fun (z : State × Nat) e => let q := verifyOne p e z.1; (q.1, z.2 + q.2)) (s, 0)
          svcEnd (fresh (lockPages z.1 c outs)) c 0 0 (z.2 % 2 ^ 32 + 2 ^ 32 * sumNat (es.map VEntry.n))

end Sys2Proof.Machine
end

