-- ==== Sys2Proof/Machine/IndexExec.lean ====
section
/-! DEFINITION. The index walker (R278 to R293): the prefix tree in the partition's memory, paused conversations, poisoned
blocks. -/

namespace Sys2Proof.Machine

/-! ### The walker's view of a tree -/

/-- A command at work on a tree: the state it makes, the partition, what the tree's registers say, every access made so
far (address, bytes, write), the first failure with its list entry, and whether the reclaim ring was full. -/
structure Walk where
  s : State
  p : Nat
  base : Nat
  dbkt : Nat
  bbkt : Nat
  recl : Nat
  n : Nat
  blksz : Nat
  touch : List (Nat × Nat × Bool)
  err : Nat
  errAt : Nat
  full : Bool

abbrev W := StateM Walk

/-- The walk of partition `p`. -/
def walkOf (s : State) (p : Nat) : Walk :=
  let l := tget (fun _ => []) s.srv.regions p
  ⟨s, p, l.getD 0 0, l.getD 1 0, l.getD 2 0, l.getD 3 0, rd s Reg.IDX_CFG_LOG2NODES p, rd s Reg.IDX_CFG_BLKSZ p, [], 0, 0, false⟩

/-- Reads `n` bytes at an address of the partition. -/
def wGet (a n : Nat) : W Nat := fun z => (memRead z.s z.p a n, { z with touch := z.touch ++ [(a, n, false)] })
/-- Writes them. -/
def wPut (a n v : Nat) : W Unit := fun z =>
  ((), { z with s := svcWrite z.s z.p a n v, touch := z.touch ++ [(a, n, true)] })
/-- The walker's own order of leaves, which no access to the tree gives (R291). -/
def wPeek (a n : Nat) : W Nat := fun z => (memRead z.s z.p a n, z)
/-- Changes the state otherwise. -/
def wState (f : State → State) : W Unit := fun z => ((), { z with s := f z.s })
/-- The first failure stands. -/
def wFail (status at_ : Nat) : W Unit := fun z => ((), if z.err = 0 then { z with err := status, errAt := at_ } else z)
def wOk : W Bool := fun z => (z.err == 0 && !z.full, z)

/-- Offsets of R280, with widths. -/
abbrev oDigest := (0x00, 8)
abbrev oBlock := (0x08, 8)
abbrev oNs := (0x10, 8)
abbrev oUse := (0x18, 8)
abbrev oExp := (0x20, 8)
abbrev oPar := (0x28, 4)
abbrev oKid := (0x2C, 4)
abbrev oSib := (0x30, 4)
abbrev oHnext := (0x34, 4)
abbrev oBnext := (0x38, 4)
abbrev oDepth := (0x3C, 4)
abbrev oRefs := (0x40, 4)
abbrev oState := (0x44, 1)
abbrev oFlags := (0x45, 1)

/-- A field of node `k`, read and written. -/
def nGet (k : Nat) (f : Nat × Nat) : W Nat := fun z => wGet (z.base + 128 * k + f.1) f.2 z
def nPut (k : Nat) (f : Nat × Nat) (v : Nat) : W Unit := fun z => wPut (z.base + 128 * k + f.1) f.2 v z
def nPeek (k : Nat) (f : Nat × Nat) : W Nat := fun z => wPeek (z.base + 128 * k + f.1) f.2 z

/-- Bucket of a digest, and of a block (R280). -/
def dBucket (d : Nat) : W Nat := fun z => (z.dbkt + 4 * (d % 2 ^ z.n), z)
def bBucket (blk : Nat) : W Nat := fun z => (z.bbkt + 4 * (blk / 2 ^ 21 % 2 ^ z.n), z)

/-- `k` is a node that is not FREE; otherwise the command fails with 0x7C. -/
def nValid (k at_ : Nat) : W Bool := do
  let z ← get
  if k = 0 ∨ k ≥ 2 ^ z.n then
    wFail 0x7C at_
    return false
  let st ← nGet k oState
  if st = 0 then
    wFail 0x7C at_
    return false
  return true

/-- The first node of a chain that `ok` accepts, following the link `f`. -/
def chainFind (f : Nat × Nat) (ok : Nat → W Bool) : Nat → Nat → W (Option Nat)
  | 0, _ => return none
  | fuel + 1, k => do
    if k = 0 then return none
    if ← ok k then return some k
    let j ← nGet k f
    chainFind f ok fuel (j % 2 ^ 24)

/-- Takes node `k` out of the chain that starts at `head`, following the link `f`. -/
def chainDrop (head : Nat) (f : Nat × Nat) (k : Nat) : W Unit := do
  let next ← nGet k f
  let first ← wGet head 4
  if first % 2 ^ 24 = k then wPut head 4 next
  else
    let z ← get
    let prev ← chainFind f (fun j => do return (← nGet j f) % 2 ^ 24 == k) (2 ^ z.n) (first % 2 ^ 24)
    match prev with
    | some j => nPut j f next
    | none => return ()

/-- The child of `par` (0: a depth-0 node) with a digest and namespace (R279, R283). -/
def childFind (par d ns : Nat) : W (Option Nat) := do
  let b ← dBucket d
  let first ← wGet b 4
  let z ← get
  chainFind oHnext (fun k => do
    let st ← nGet k oState
    let q ← nGet k oPar
    let e ← nGet k oDigest
    let m ← nGet k oNs
    return st != 0 && q % 2 ^ 24 == par && e == d && m == ns) (2 ^ z.n) (first % 2 ^ 24)

/-- Digest of a block: of its namespace at depth 0, of its parent's digest below (R279). -/
def blockDigest (above : List Nat) (toks : List Nat) : Nat :=
  Config.shake256 ([2] ++ above ++ toks.flatMap (leBytes 4)) % 2 ^ 64
def nsBytes (ns : Nat) : List Nat := leBytes 8 (Config.shake256 ([3] ++ leBytes 8 ns) % 2 ^ 64)

/-- The 64 tokens at an address. -/
def blockTokens (a : Nat) : W (List Nat) := do
  let x ← wGet a 256
  return (List.range 64).map fun j => bits x (32 * j) 32

/-! ### Moves of blocks (R288, R293) -/

/-- Segments of a block. -/
def blockSegs (p blk n : Nat) : List Nat := (List.range n).map fun j => 2 ^ 31 * p + (blk / 2 ^ 21 + j) % 2 ^ 31
/-- Pages of a block. -/
def blockPages (blk n : Nat) : List Nat := (List.range (32 * n)).map (blk / 65536 + ·)

/-- The migrations a move still needs are started, all or none; none where one cannot be charged. -/
def wmStart (s : State) (m : WMove) : Option State :=
  let go := m.segs.foldl (fun (t : Option State) k => match t with
    | none => none
    | some t => match getSeg t k with
      | some g => if g.tier = m.dst ∨ segPinned t k ∨ g.mig.isSome then some t
        else match startMig t k m.dst 3 none false with
        | (t, none) => some t
        | (_, some _) => none
      | none => some t) (some s)
  go

/-- A move begins: MOVING is set, or the block stays and `MOVE_FAIL` counts; a privileged partition's need waits for an
eviction, and a lock puts the move off (R194, R205). -/
def moveBegin (s : State) (m : WMove) : State × Bool :=
  if m.segs.any (segLocked s) then ({ s with srv := { s.srv with moves := s.srv.moves ++ [{ m with started := false }] } }, true)
  else match wmStart s m with
  | some t => ({ t with srv := { t.srv with moves := t.srv.moves ++ [{ m with started := true }] } }, true)
  | none => match evictFor s m.part m.dst with
    | some t => ({ t with srv := { t.srv with moves := t.srv.moves ++ [{ m with started := false }] } }, true)
    | none => (bump s Reg.IDX_MOVE_FAIL m.part 1, false)

def moveOf (s : State) (p k : Nat) : Option WMove := s.srv.moves.find? fun m => m.part == p && m.node == k
def moveDrop (s : State) (p k : Nat) : State :=
  { s with srv := { s.srv with moves := s.srv.moves.filter fun m => !(m.part == p && m.node == k) } }

/-- Node `k`'s block is to go to tier `t`, with the hint of its range (R288): at once, or after a move under way. -/
def moveTo (k t hint : Nat) (start : Bool) : W Unit := do
  let z ← get
  let blk ← nGet k oBlock
  wState fun s => hintPages s z.p hint (blockPages blk z.blksz)
  match moveOf z.s z.p k with
  | some _ => wState fun s => { s with srv := { s.srv with moves := s.srv.moves.map fun m =>
      if m.part = z.p ∧ m.node = k then { m with want := t } else m } }
  | none =>
    if start then
      let y ← get
      let x := moveBegin y.s ⟨z.p, k, t, blockSegs z.p blk z.blksz, false, t⟩
      wState fun _ => x.1
      if x.2 then
        let f ← nGet k oFlags
        nPut k oFlags (f ||| 1)

/-- Level registers of the tree. -/
def level (f : Fld) (d : Int) : W Unit := fun z => wState (fun s => wr s f z.p ((rd s f z.p + d).toNat)) z

/-- A match revives a PAUSED or DEMOTED node (R283, R288). -/
def revive (k : Nat) : W Unit := do
  let st ← nGet k oState
  if st = 3 ∨ st = 4 then
    nPut k oState 2
    nPut k oExp 0
    level Reg.IDX_PAUSED (-1)
    moveTo k 0 0 (st == 4)

/-- One more holder, with LAST_USE. -/
def hold (k at_ : Nat) : W Unit := do
  let z ← get
  let r ← nGet k oRefs
  if r = 2 ^ 32 - 1 then wFail 0x7A at_
  else
    nPut k oRefs (r + 1)
    nPut k oUse z.s.now
    revive k

/-! ### Freeing (R285 to R287, R289) -/

/-- Node `k` leaves the tree: its links, its record, its place in the free list (assumption 19), its reclaim entry with
a reason. -/
def freeNode (k reason : Nat) : W Unit := do
  let z ← get
  let p := z.p
  if sub32 (rd z.s Reg.IDX_RECL_WR p) (rd z.s Reg.IDX_RECL_RD p) ≥ 4096 then
    fun z => ((), { z with full := true })
  else
    let blk ← nGet k oBlock
    let d ← nGet k oDigest
    let par ← nGet k oPar
    let st ← nGet k oState
    chainDrop (← dBucket d) oHnext k
    chainDrop (← bBucket blk) oBnext k
    if par % 2 ^ 24 ≠ 0 then chainDrop (z.base + 128 * (par % 2 ^ 24) + oKid.1) oSib k
    let head ← wGet z.base 4
    let cnt ← wGet (z.base + 4) 4
    wPut (z.base + 128 * k) 128 0
    nPut k oHnext head
    wPut z.base 4 k
    wPut (z.base + 4) 4 (cnt + 1)
    let w := rd z.s Reg.IDX_RECL_WR p
    wPut (z.recl + 16 * (w % 4096)) 16 (blk + 2 ^ 64 * k + 2 ^ 96 * reason)
    wState fun s =>
      let s := wr s Reg.IDX_RECL_WR p (w + 1)
      raiseInt (moveDrop s p k) 5 p
    level Reg.IDX_NODES (-1)
    if st = 3 ∨ st = 4 then level Reg.IDX_PAUSED (-1)
    if st = 5 then level Reg.IDX_POISONED (-1)

/-- One holder less of node `k` (R285). -/
def unhold (k at_ : Nat) : W Unit := do
  let z ← get
  let r ← nGet k oRefs
  if r = 0 then wFail 0x7A at_
  else
    nPut k oRefs (r - 1)
    nPut k oUse z.s.now
    let st ← nGet k oState
    if st = 1 ∧ r = 1 then
      let kid ← nGet k oKid
      if kid % 2 ^ 24 ≠ 0 then wFail 0x7B at_ else freeNode k 3

/-- A PATH release from node `k` to depth 0. -/
def pathRelease : Nat → Nat → W Unit
  | 0, _ => return ()
  | f + 1, k => do
    if k = 0 then return ()
    let par ← nGet k oPar
    unhold k 0
    if ← wOk then pathRelease f (par % 2 ^ 24)

/-! ### Running a command -/

/-- A walk ends the command: held on the first access that faults, waiting for its regulators or for room in the reclaim
ring (assumption 20), failed with no change, or done with its pages locked. -/
def runWalk (s : State) (c : Cmd) (act : W Nat) (multi : Bool) : State :=
  let p := partOf c.ring
  if rd s Reg.IDX_CFG_VALID p = 0 then svcEnd s c 0x78 0 0
  else
    let x := act (walkOf s p)
    let z := x.2
    let judged := z.touch.foldl (fun (a : Acc × Bool) e =>
      if a.1 = .ok then (probe s p e.1 e.2.1 e.2.2, e.2.2) else a) (Acc.ok, false)
    match judged with
    | (.wait _, _) => s
    | (.flt page kind sub, w) => setAside (holdFault s p page kind sub w (.service c.ring c.idx)) c.ring c.idx
    | (.ok, _) =>
      if z.err ≠ 0 then svcEnd (fresh s) c z.err (if multi then z.errAt % 256 else 0) 0
      else if z.full then s
      else if !(z.touch.all fun e => grantedRange s p e.1 e.2.1) then s
      else
        let t := eachOf z.touch z.s fun t e => drawRange t p e.1 e.2.1
        let l := (z.touch.filter fun e => e.2.2).map fun e => (e.1, e.2.1)
        svcEnd (fresh (lockPages t c l)) c 0 0 x.1

/-- A field out of range. -/
def idxBad (s : State) (c : Cmd) (bad : Bool) (k : Unit → State) : State := if bad then svcEnd s c 0x7D 0 0 else k ()

/-! ### Setting up (R278) -/

/-- Every page of a region is LOCAL T2 with PIN and WR set. -/
def regionOk (s : State) (p a n : Nat) : Bool :=
  decide (a + n ≤ 2 ^ 52) && (pagesOf a n).all fun g =>
    let e := l3e s p g
    rd s Reg.XLT_ROOT_VALID p == 1 && isLocal e && eTier e == 0 && ePin e && eWr e

/-- Nodes of an adopted table in a set of states. -/
def nodesIn (s : State) (p base n : Nat) (ok : Nat → Bool) : Nat :=
  ((List.range (2 ^ n)).filter fun k => decide (k ≠ 0) && ok (memRead s p (base + 128 * k + 0x44) 1)).length

/-- IDX_SETUP (R278). -/
def execIdxSetup (r i : Nat) (s : State) : Out := onCmd r i 0x50 s fun c s =>
  let p := partOf r
  let n := c.fld 0x30 1
  let bz := c.fld 0x31 1
  let b := [c.fld 0x10 8, c.fld 0x18 8, c.fld 0x20 8, c.fld 0x28 8]
  let rg := [(b.getD 0 0, 128 * 2 ^ n), (b.getD 1 0, 4 * 2 ^ n), (b.getD 2 0, 4 * 2 ^ n), (b.getD 3 0, 65536)]
  idxBad s c (decide (n < 10) || decide (n > 24) || bz == 0 || !(rg.all fun e => regionOk s p e.1 e.2)) fun _ =>
    let clear := bit (c.fld 0x32 1) 0
    svcGate s c (if clear then [] else rg) (if clear then rg else []) fun s =>
      let s := { s with srv := { s.srv with
        regions := tset (fun _ => []) s.srv.regions p b
        moves := if clear then s.srv.moves.filter fun m => !(m.part == p) else s.srv.moves } }
      let s := wr (wr (wr s Reg.IDX_CFG_LOG2NODES p n) Reg.IDX_CFG_BLKSZ p bz) Reg.IDX_CFG_VALID p 1
      if clear then
        let s := eachOf rg s fun s e => svcWrite s p e.1 e.2 0
        let s := svcWrite (svcWrite s p (b.getD 0 0) 4 1) p (b.getD 0 0 + 4) 4 (2 ^ n - 1)
        svcEnd (lockPages (wr (wr (wr s Reg.IDX_NODES p 0) Reg.IDX_PAUSED p 0) Reg.IDX_POISONED p 0) c rg) c 0 0 0
      else
        let cnt (ok : Nat → Bool) := nodesIn s p (b.getD 0 0) n ok
        let s := wr s Reg.IDX_NODES p (cnt fun x => x != 0)
        svcEnd (wr (wr s Reg.IDX_PAUSED p (cnt fun x => x == 3 || x == 4)) Reg.IDX_POISONED p (cnt fun x => x == 5)) c 0 0 0

/-! ### LOOKUP (R283) -/

/-- What a walk down the tree has found. -/
structure Found where
  m : Nat
  last : Nat
  fill : Bool
  psn : Bool
  far : Bool

/-- A block of the node lies in T3 or is moving. -/
def blockFar (k : Nat) : W Bool := do
  let z ← get
  let blk ← nGet k oBlock
  return (blockSegs z.p blk z.blksz).any fun g => match getSeg z.s g with
    | some x => x.tier == 1 || x.mig.isSome
    | none => false

/-- Blocks left to hash: `left`, matches allowed: `cap`. -/
def lookupLoop (acq : Bool) (toks ns blist nlist : Nat) : Nat → Nat → List Nat → Found → W Found
  | 0, _, _, f => return f
  | left + 1, cap, above, f => do
    if cap = 0 then return f
    let d := blockDigest above (← blockTokens (toks + 256 * f.m))
    match ← childFind f.last d ns with
    | none => return f
    | some k =>
      let st ← nGet k oState
      if st = 1 then return { f with fill := true }
      if st = 5 then return { f with psn := true }
      let far ← blockFar k
      wPut (blist + 8 * f.m) 8 (← nGet k oBlock)
      wPut (nlist + 4 * f.m) 4 k
      if acq then hold k f.m
      lookupLoop acq toks ns blist nlist left (cap - 1) (leBytes 8 d)
        { f with m := f.m + 1, last := k, far := f.far || far }

/-- The walk of a LOOKUP: the blocks matched, the last node, and the bits of its RESULT (R283). -/
def lookupWalk (c : Cmd) : W Nat := do
  let cap := c.fld 0x1C 4
  let blocks := c.fld 0x18 4 / 64
  let z ← get
  let ns := c.fld 0x20 8
  let f ← lookupLoop (bit (c.fld 0x38 1) 0) (c.fld 0x10 8) ns (c.fld 0x28 8) (c.fld 0x30 8) (min blocks (cap + 1)) cap
    (nsBytes ns) ⟨0, 0, false, false, false⟩
  wState fun s => bump (bump s Reg.IDX_LOOKUPS z.p 1) Reg.IDX_HITS z.p f.m
  let trunc := decide (f.m = cap) && decide (blocks > cap)
  return f.m + 2 ^ 32 * f.last + 2 ^ 56 * oneIf trunc + 2 ^ 57 * oneIf f.fill + 2 ^ 58 * oneIf f.psn + 2 ^ 59 * oneIf f.far

/-- LOOKUP (R283). -/
def execLookup (r i : Nat) (s : State) : Out := onCmd r i 0x51 s fun c s =>
  let cap := c.fld 0x1C 4
  idxBad s c (decide (cap = 0) || decide (cap > 65536)) fun _ =>
    runWalk s c (lookupWalk c) false

/-! ### INSERT (R284) -/

/-- A node is taken from the free list (assumption 19). -/
def takeNode (at_ : Nat) : W Nat := do
  let z ← get
  let cnt ← wGet (z.base + 4) 4
  if cnt = 0 then
    wFail 0x79 at_
    return 0
  let k ← wGet z.base 4
  let next ← nGet k oHnext
  wPut z.base 4 (if next = 0 then k + 1 else next)
  wPut (z.base + 4) 4 (cnt - 1)
  return k

/-- Blocks left to insert below `par`: created and reused so far. -/
def insertLoop (toks ns blocks nlist : Nat) : Nat → Nat → Nat → Nat → List Nat → Nat × Nat → W (Nat × Nat)
  | 0, _, _, _, _, n => return n
  | left + 1, i, par, depth, above, n => do
    if !(← wOk) then return n
    let d := blockDigest above (← blockTokens (toks + 256 * i))
    match ← childFind par d ns with
    | some k =>
      let st ← nGet k oState
      if st = 5 then
        wFail 0x7B i
        return n
      hold k i
      wPut (nlist + 4 * i) 4 (k + 2 ^ 24 + 2 ^ 25 * oneIf (st == 1))
      insertLoop toks ns blocks nlist left (i + 1) k (depth + 1) (leBytes 8 d) (n.1, n.2 + 1)
    | none =>
      let blk ← wGet (blocks + 8 * i) 8
      if blk % 2 ^ 21 ≠ 0 ∨ blk ≥ 2 ^ 52 then
        wFail 0x7D i
        return n
      let k ← takeNode i
      if !(← wOk) then return n
      let z ← get
      let db ← dBucket d
      let bb ← bBucket blk
      let sib ← if par = 0 then pure 0 else nGet par oKid
      let hn ← wGet db 4
      let bn ← wGet bb 4
      wPut (z.base + 128 * k) 128 (leNum (leBytes 8 d ++ leBytes 8 blk ++ leBytes 8 ns ++ leBytes 8 z.s.now ++ leBytes 8 0 ++
        leBytes 4 par ++ leBytes 4 0 ++ leBytes 4 sib ++ leBytes 4 hn ++ leBytes 4 bn ++ leBytes 4 depth ++ leBytes 4 1 ++ [1]))
      wPut db 4 k
      wPut bb 4 k
      if par ≠ 0 then nPut par oKid k
      wPut (nlist + 4 * i) 4 k
      level Reg.IDX_NODES 1
      wState fun s => bump s Reg.IDX_INSERTED z.p 1
      insertLoop toks ns blocks nlist left (i + 1) k (depth + 1) (leBytes 8 d) (n.1 + 1, n.2)

/-- The walk of an INSERT: nodes created and reused (R284). -/
def insertWalk (c : Cmd) : W Nat := do
  let cnt := c.fld 0x18 4
  let par := c.fld 0x1C 4
  let ns := c.fld 0x20 8
  let go (depth : Nat) (above : List Nat) : W Nat := do
    let n ← insertLoop (c.fld 0x10 8) ns (c.fld 0x28 8) (c.fld 0x30 8) cnt 0 par depth above (0, 0)
    return n.1 + 2 ^ 32 * n.2
  if par = 0 then go 0 (nsBytes ns)
  else if ← nValid par 0 then
    let st ← nGet par oState
    let m ← nGet par oNs
    if m ≠ ns ∨ (st ≠ 1 ∧ st ≠ 2) then
      wFail 0x7B 0
      return 0
    go ((← nGet par oDepth) + 1) (leBytes 8 (← nGet par oDigest))
  else return 0

/-- INSERT (R284). -/
def execInsert (r i : Nat) (s : State) : Out := onCmd r i 0x52 s fun c s =>
  let cnt := c.fld 0x18 4
  idxBad s c (decide (cnt = 0) || decide (cnt > 4096)) fun _ =>
    runWalk s c (insertWalk c) true

/-! ### PUBLISH, RELEASE, PAUSE, EVICT, RECOMPUTE_SPAN, REPAIR (R285 to R290) -/

/-- Each node of a list, in order, until one fails. -/
def eachNode (nlist : Nat) (f : Nat → Nat → W Unit) : Nat → Nat → W Unit
  | 0, _ => return ()
  | left + 1, i => do
    if ← wOk then
      let k ← wGet (nlist + 4 * i) 4
      if ← nValid k i then f k i
      eachNode nlist f left (i + 1)

/-- The walk of a PUBLISH: FILLING nodes become VALID (R285). -/
def publishWalk (c : Cmd) : W Nat := do
  let cnt := c.fld 0x18 4
  eachNode (c.fld 0x10 8) (fun k at_ => do
    if (← nGet k oState) = 1 then nPut k oState 2 else wFail 0x7B at_) cnt 0
  return 0

/-- PUBLISH (R285). -/
def execPublish (r i : Nat) (s : State) : Out := onCmd r i 0x53 s fun c s =>
  let cnt := c.fld 0x18 4
  idxBad s c (decide (cnt = 0) || decide (cnt > 4096)) fun _ =>
    runWalk s c (publishWalk c) true

/-- The walk of a RELEASE: one holder less of each node, or of a path (R285). -/
def releaseWalk (c : Cmd) : W Nat := do
  let cnt := c.fld 0x18 4
  let path := bit (c.fld 0x1C 1) 0
  let z ← get
  eachNode (c.fld 0x10 8) (fun k at_ => if path then pathRelease (2 ^ z.n) k else unhold k at_) cnt 0
  return 0

/-- RELEASE (R285). -/
def execRelease (r i : Nat) (s : State) : Out := onCmd r i 0x54 s fun c s =>
  let cnt := c.fld 0x18 4
  let path := bit (c.fld 0x1C 1) 0
  idxBad s c (decide (cnt = 0) || decide (cnt > 4096) || (path && decide (cnt ≠ 1))) fun _ =>
    runWalk s c (releaseWalk c) true

/-- Nodes paused from `k` toward depth 0, the one just paused being `kid`. -/
def pauseLoop (exp : Nat) : Nat → Nat → Nat → Nat → W Nat
  | 0, _, _, n => return n
  | f + 1, k, kid, n => do
    if k = 0 then return n
    let st ← nGet k oState
    let refs ← nGet k oRefs
    let first ← nGet k oKid
    let sib ← nGet kid oSib
    let only := first % 2 ^ 24 == 0 || (first % 2 ^ 24 == kid && sib % 2 ^ 24 == 0)
    if st ≠ 2 ∨ refs ≠ 0 ∨ !only then return n
    nPut k oState 3
    nPut k oExp (max exp (← nGet k oExp))
    level Reg.IDX_PAUSED 1
    moveTo k 1 2 true
    let par ← nGet k oPar
    pauseLoop exp f (par % 2 ^ 24) k (n + 1)

/-- The walk of a PAUSE: nodes paused (R288). -/
def pauseWalk (c : Cmd) : W Nat := do
  let leaf := c.fld 0x10 4
  let ttl := c.fld 0x14 4
  let z ← get
  if ← nValid leaf 0 then
    if (← nGet leaf oState) ≠ 2 then
      wFail 0x7B 0
      return 0
    pathRelease (2 ^ z.n) leaf
    if ← wOk then pauseLoop (z.s.now + ttl * 1000000) (2 ^ z.n) leaf 0 0 else return 0
  else return 0

/-- PAUSE (R288). -/
def execPause (r i : Nat) (s : State) : Out := onCmd r i 0x55 s fun c s =>
  let ttl := c.fld 0x14 4
  idxBad s c (decide (ttl = 0) || decide (ttl > 86400)) fun _ =>
    runWalk s c (pauseWalk c) false

/-- The node EVICT frees next: a leaf with REFS 0, oldest LAST_USE, then lower index. -/
def evictPick (psn : Bool) (ns : Nat) (z : Walk) : Option Nat :=
  let g (k : Nat) (f : Nat × Nat) := memRead z.s z.p (z.base + 128 * k + f.1) f.2
  let l := (List.range (2 ^ z.n)).filter fun k =>
    decide (k ≠ 0) && (g k oState == 2 || (psn && g k oState == 5)) && g k oRefs == 0 && g k oKid % 2 ^ 24 == 0 &&
    (ns == 0 || g k oNs == ns)
  l.foldl (fun b k => match b with
    | none => some k
    | some j => if g k oUse < g j oUse then some k else some j) none

/-- Up to `left` nodes evicted; the ring being full ends it. -/
def evictLoop (psn : Bool) (ns : Nat) : Nat → Nat → W Nat
  | 0, n => return n
  | left + 1, n => do
    let z ← get
    match evictPick psn ns z with
    | none => return n
    | some k =>
      if sub32 (rd z.s Reg.IDX_RECL_WR z.p) (rd z.s Reg.IDX_RECL_RD z.p) ≥ 4096 then return n
      freeNode k 2
      wState fun s => bump s Reg.IDX_EVICTED z.p 1
      evictLoop psn ns left (n + 1)

/-- The walk of an EVICT: nodes freed (R286). -/
def evictWalk (c : Cmd) : W Nat := evictLoop (bit (c.fld 0x14 1) 0) (c.fld 0x18 8) (c.fld 0x10 4) 0

/-- EVICT (R286). -/
def execEvict (r i : Nat) (s : State) : Out := onCmd r i 0x56 s fun c s =>
  let cnt := c.fld 0x10 4
  idxBad s c (decide (cnt = 0) || decide (cnt > 65536)) fun _ =>
    runWalk s c (evictWalk c) false

/-- Nodes whose block covers a page, through the block buckets. -/
def covering (page : Nat) : Nat → W (List Nat)
  | 0 => return []
  | j + 1 => do
    let z ← get
    let seg := page / 2 ^ 21
    let more ← covering page j
    if j > seg then return more
    let b ← bBucket ((seg - j) * 2 ^ 21)
    let first ← wGet b 4
    let hit ← chainFind oBnext (fun k => do return (← nGet k oState) != 0 && (← nGet k oBlock) / 2 ^ 21 == seg - j) (2 ^ z.n)
      (first % 2 ^ 24)
    match hit with
    | none => return more
    | some k =>
      -- two nodes with one block stand in one chain
      let rest ← nGet k oBnext
      let again ← chainFind oBnext (fun k => do return (← nGet k oState) != 0 && (← nGet k oBlock) / 2 ^ 21 == seg - j) (2 ^ z.n)
        (rest % 2 ^ 24)
      return (match again with | some m => [k, m] | none => [k]) ++ more

/-- The walk of a RECOMPUTE_SPAN: the node poisoned, with its first token (R290, R293). -/
def recomputeSpanWalk (c : Cmd) : W Nat := do
  let z ← get
  let l ← covering (c.fld 0x10 8) z.blksz
  match l with
  | [] =>
    wFail 0x7E 0
    return 0
  | a :: t =>
    let k := t.foldl min a
    let st ← nGet k oState
    if st = 3 ∨ st = 4 then level Reg.IDX_PAUSED (-1)
    if st ≠ 5 then level Reg.IDX_POISONED 1
    nPut k oState 5
    nPut k oExp 0
    match moveOf z.s z.p k with
    | some m =>
      wState fun s =>
        let s := eachOf (s.mem.migs.filter fun g => m.segs.contains g.seg && g.cause == 3) s abortMig
        moveDrop s z.p k
      nPut k oFlags ((← nGet k oFlags) / 2 * 2)
    | none => pure ()
    return k + 2 ^ 24 * ((← nGet k oDepth) * 64)

/-- RECOMPUTE_SPAN (R290, R293). -/
def execRecomputeSpan (r i : Nat) (s : State) : Out := onCmd r i 0x57 s fun c s =>
  runWalk s c (recomputeSpanWalk c) false

/-- The walk of a REPAIR: poisoned nodes become VALID (R290). -/
def repairWalk (c : Cmd) : W Nat := do
  let cnt := c.fld 0x18 4
  eachNode (c.fld 0x10 8) (fun k at_ => do
    if (← nGet k oState) = 5 then
      nPut k oState 2
      level Reg.IDX_POISONED (-1)
    else wFail 0x7B at_) cnt 0
  return 0

/-- REPAIR (R290). -/
def execRepair (r i : Nat) (s : State) : Out := onCmd r i 0x58 s fun c s =>
  let cnt := c.fld 0x18 4
  idxBad s c (decide (cnt = 0) || decide (cnt > 4096)) fun _ =>
    runWalk s c (repairWalk c) true

/-! ### The walker's own actions (R266, R288, R289) -/

/-- A walk of the walker's own: nothing happens where one of its accesses cannot complete. -/
def ownWalk (s : State) (p : Nat) (act : W Unit) : State :=
  if rd s Reg.IDX_CFG_VALID p = 0 then s
  else
    let z := (act (walkOf s p)).2
    if z.touch.all (fun e => probe s p e.1 e.2.1 e.2.2 == .ok) && z.err == 0 then z.s else s

/-- An expired node without children. -/
def sweepPick (z : Walk) : Option Nat :=
  let g (k : Nat) (f : Nat × Nat) := memRead z.s z.p (z.base + 128 * k + f.1) f.2
  (List.range (2 ^ z.n)).find? fun k => decide (k ≠ 0) && (g k oState == 3 || g k oState == 4) && g k oRefs == 0 &&
    g k oKid % 2 ^ 24 == 0 && decide (g k oExp ≤ z.s.now)

def sweepLoop : Nat → W Unit
  | 0 => return ()
  | f + 1 => do
    let z ← get
    match sweepPick z with
    | none => return ()
    | some k =>
      if sub32 (rd z.s Reg.IDX_RECL_WR z.p) (rd z.s Reg.IDX_RECL_RD z.p) < 4096 then
        freeNode k 1
        wState fun s => bump s Reg.IDX_EXPIRED z.p 1
        sweepLoop f

/-- EXPIRY_SWEEP (R289, R442). -/
def execExpirySweep (s : State) : Out :=
  live s (if bit (rd s Reg.CEN_HOLD 0) 1 ∨ rd s Reg.PWR_STAT_PFHALT 0 = 1 then s
    else eachOf (List.range 8) s fun s p => ownWalk s p (sweepLoop (2 ^ rd s Reg.IDX_CFG_LOG2NODES p)))

/-- The end of a move of node `k` (R288, R293): complete when every segment has come to its tier or is pinned. -/
def moveEnd (m : WMove) : W Unit := do
  let z ← get
  let whole := m.segs.all fun g => match getSeg z.s g with
    | some x => x.tier == m.dst || segPinned z.s g
    | none => true
  wState fun s => moveDrop s m.part m.node
  let f ← nGet m.node oFlags
  let f := f / 2 * 2
  if whole then
    if m.dst = 1 then
      wState fun s => bump s Reg.IDX_DEMOTED m.part 1
      nPut m.node oFlags (f ||| 2)
      if (← nGet m.node oState) = 3 then nPut m.node oState 4
    else
      wState fun s => bump s Reg.IDX_PROMOTED m.part 1
      nPut m.node oFlags (if bit f 1 then f - 2 else f)
  else nPut m.node oFlags f
  if m.want ≠ m.dst then moveTo m.node m.want (if m.want = 0 then 0 else 2) true

/-- WALKER_MIGRATION_DONE (R288): the migrations of a node's move have ended, or those that waited for room start. -/
def execWalkerMigrationDone (p k : Nat) (s : State) : Out :=
  onUnit (decide (p < 8) && decide (k < 2 ^ 24)) (live s (match moveOf s p k with
    | none => s
    | some m =>
      if !m.started then
        if m.segs.any (segLocked s) then s
        else match wmStart s m with
        | some t => { t with srv := { t.srv with moves := t.srv.moves.map fun x =>
            if x.part = p ∧ x.node = k then { x with started := true } else x } }
        | none => (match evictFor s p m.dst with
          | some t => t
          | none => ownWalk (bump (moveDrop s p k) Reg.IDX_MOVE_FAIL p 1) p (do nPut k oFlags ((← nGet k oFlags) / 2 * 2)))
      else if s.mem.migs.any fun g => m.segs.contains g.seg && g.cause == 3 then s
      else ownWalk s p (moveEnd m)))

/-- RECL_RD_WRITE (R287, R295). -/
def execReclRdWrite (ag : Agent) (p v : Nat) (s : State) : Out :=
  onUnit (p < 8) (.next (agentWrite ag Reg.IDX_RECL_RD p (v % 2 ^ 32) (fun _ s => s) s))

end Sys2Proof.Machine
end

