-- ==== Sys2Proof/Machine/BuildExec.lean ====
section
/-! DEFINITION. The group builder (R296 to R316). -/

namespace Sys2Proof.Machine

/-- A BUILD's body (R297). -/
structure Build where
  scores : Nat
  expt : Nat
  out : Nat
  t : Nat
  e : Nat
  k : Nat
  pol : Nat
  renorm : Bool
  gfn : Nat
  bf16 : Bool
  fetch : Bool
  c : Nat
  zrow : Nat
  gmax : Nat
  nd : Nat
  deriving DecidableEq, Repr

def buildOf (c : Cmd) : Build :=
  let f := c.fld 0x2F 1
  ⟨c.fld 0x10 8, c.fld 0x18 8, c.fld 0x20 8, c.fld 0x28 4, c.fld 0x2C 2, c.fld 0x2E 1, bits f 0 2, bit f 2, bits f 3 2, bit f 5,
    bit f 6, c.fld 0x30 4, c.fld 0x34 3, c.fld 0x38 2, c.fld 0x3A 1⟩

/-- Row stride of the scores. -/
def Build.stride (b : Build) : Nat := 64 * cdiv (b.e * (if b.bf16 then 2 else 4)) 64

/-- The scores of token `t` as read. -/
def Build.raw (b : Build) (s : State) (p t : Nat) : List Nat :=
  (List.range b.e).map fun x =>
    if b.bf16 then memRead s p (b.scores + b.stride * t + 2 * x) 2 * 65536
    else memRead s p (b.scores + b.stride * t + 4 * x) 4

/-- Scores of a token: NaN and +infinity replaced (R299). -/
def cleanScore (v : Nat) : Nat := if (ofF32 v).isNan then 0xFF800000 else if v = 0x7F800000 then 0x7F7FFFFF else v

/-- Ranks of a token that are not empty: expert and score (R299). -/
def ranksOf (row : List Nat) : List (Nat × Nat) := (ranked row).map fun e => (e.2, e.1)

/-- Weights of a token's existing choices, in rank order (R300). -/
def gateWeights (gfn k : Nat) (row : List Nat) : List Nat :=
  let rk := ranksOf row
  let ch := rk.take k
  let s0 := match rk with | e :: _ => e.2 | [] => 0
  let ex (v : Nat) := f32exp (f32sub v s0)
  match gfn with
  | 0 =>
    let sum := f32sum ((row.filter fun v => decide (v ≠ 0xFF800000)).map ex)
    ch.map fun e => f32div (ex e.2) sum
  | 1 =>
    let sum := f32sum (ch.map fun e => ex e.2)
    ch.map fun e => f32div (ex e.2) sum
  | 2 => ch.map fun e => svcSpecial 0x25 e.2
  | _ => ch.map Prod.snd

/-- An assigned choice: token, rank, expert, pass 2, substitute. -/
structure Asg where
  t : Nat
  r : Nat
  e : Nat
  pass2 : Bool
  sub : Bool
  deriving DecidableEq, Repr

/-- Fill counts, overflow counts, assignments, overflowed choices, ranks taken by substitutes (R301). -/
structure Fill where
  f1 : Tbl Nat
  f2 : Tbl Nat
  ovf : Tbl Nat
  asg : List Asg
  excess : List (Nat × Nat)
  taken : List (Nat × Nat)
  deriving DecidableEq, Repr

def cnt (t : Tbl Nat) (k : Nat) : Nat := tget (fun _ => 0) t k
def inc (t : Tbl Nat) (k : Nat) : Tbl Nat := tset (fun _ => 0) t k (cnt t k + 1)

/-- First pass at one choice. -/
def firstPass (b : Build) (f : Fill) (t r e : Nat) : Fill :=
  if cnt f.f1 e < b.c then { f with f1 := inc f.f1 e, asg := f.asg ++ [⟨t, r, e, false, false⟩] }
  else { f with ovf := inc f.ovf e, excess := f.excess ++ [(t, r)] }

/-- NEXT: candidate ranks of a token from `rank` on (R302). -/
def nextTry (b : Build) (rk : List (Nat × Nat)) (t r : Nat) : Nat → Nat → Fill → Fill
  | 0, _, f => f
  | n + 1, rank, f => match rk[rank]? with
    | none => nextTry b rk t r n (rank + 1) f
    | some (e, _) =>
      if f.taken.contains (t, rank) then nextTry b rk t r n (rank + 1) f
      else if cnt f.f1 e < b.c then
        { f with f1 := inc f.f1 e, asg := f.asg ++ [⟨t, r, e, false, true⟩], taken := f.taken ++ [(t, rank)] }
      else nextTry b rk t r n (rank + 1) { f with ovf := inc f.ovf e }

/-- Policy at one overflowed choice (R302). -/
def overflowed (b : Build) (rk : List (Nat × Nat)) (f : Fill) (t r : Nat) : Fill :=
  match b.pol, rk[r]? with
  | 1, _ => nextTry b rk t r b.nd b.k f
  | 2, some (e, _) =>
    if cnt f.f2 e < b.c then { f with f2 := inc f.f2 e, asg := f.asg ++ [⟨t, r, e, true, false⟩] } else f
  | _, _ => f

/-- Both stages, rank-major (R301). `rows` are the tokens' ranks. -/
def assign (b : Build) (rows : List (List (Nat × Nat))) : Fill :=
  let f := (List.range b.k).foldl (fun f r => (rows.zipIdx).foldl (fun f x => match x.1[r]? with
    | some (e, _) => firstPass b f x.2 r e
    | none => f) f) (⟨[], [], [], [], [], []⟩ : Fill)
  f.excess.foldl (fun f x => overflowed b (rows.getD x.1 []) f x.1 x.2) f

/-- w × a / b rounded once to FP32. -/
def f32ratio (w a b : Nat) : Nat :=
  match ofF32 w, ofF32 a, ofF32 b with
  | .num x m e, .num y n d, .num z k q =>
    if k = 0 then w
    else
      let r := roundQ .even 24 (-149) (m * n) k (e + d - q)
      let neg := (x != y) != z
      if fpOver fmtF32 r.1 r.2 then fpInf fmtF32 neg else fpPack fmtF32 neg r.1 r.2
  | _, _, _ => f32mul w (f32div a b)

/-- Weight written for a token's slot `r`, RENORM applied (R304). -/
def finalWeight (b : Build) (ws : List Nat) (kept : List Nat) (r : Nat) : Nat :=
  let w := ws.getD r 0
  if !b.renorm || kept.isEmpty || decide (kept.length = b.k) then w
  else
    let sel := f32sum ws
    let kp := f32sum ((List.range ws.length).filterMap fun j => if kept.contains j then some (ws.getD j 0) else none)
    if (ofF32 kp).isZero then w else f32ratio w sel kp

/-- An expert table entry (R298). -/
structure Expert where
  weights : Nat
  wlen : Nat
  scales : Nat
  n : Nat
  k : Nat
  deriving DecidableEq, Repr

def expertAt (s : State) (p a : Nat) : Expert :=
  ⟨memRead s p a 8, memRead s p (a + 8) 8, memRead s p (a + 16) 8, memRead s p (a + 24) 4, memRead s p (a + 28) 4⟩

def expertOk (x : Expert) : Bool :=
  x.weights % 2 ^ 21 == 0 && x.wlen != 0 && x.wlen % 65536 == 0 &&
  (x.scales == 0 || (decide (x.weights ≤ x.scales) && decide (x.scales < x.weights + x.wlen) && x.scales % 64 == 0)) &&
  decide (1 ≤ x.n) && decide (x.n ≤ 65535) && decide (1 ≤ x.k) && decide (x.k ≤ 65535)

/-- What the probe of an expert's range meets: a page to wait for, a fault, or whether it is resident (R305). A window
that can be reached faults as NOT_PRESENT (assumption 21). -/
inductive Probe where
  | wait | flt (page kind sub : Nat) | res (resident : Bool)
  deriving DecidableEq, Repr

def probeExpert (s : State) (p : Nat) (x : Expert) : Probe :=
  (pagesOf x.weights x.wlen).foldl (fun a g => match a with
    | .res ok =>
      let e := l3e s p g
      (match translate s p (g * 65536) false with
      | .flt k sub => .flt g k sub
      | .zfill => .wait
      | .win w _ _ => .flt g 2 (if w = 0x40 then 2 else 3)
      | .t2 _ => .res (ok && !eMig e)
      | .t3 _ => .res false)
    | x => x) (.res true)

/-- Segments of an expert's range that stand in T3 and may be moved; and whether one is pinned there (R306). -/
def expertSegs (p : Nat) (x : Expert) : List Nat := ((pagesOf x.weights x.wlen).map (segKey p)).eraseDups

/-- A fetch of a non-resident expert (R306): the state, whether some segment was skipped or uncharged. -/
def fetchExpert (s : State) (p : Nat) (x : Expert) : State × Bool :=
  let q := anyPorter s
  (expertSegs p x).foldl (fun z k =>
    let s := z.1
    match getSeg s k with
    | some g =>
      if g.tier = 0 then z
      else if segPinned s k then (s, true)
      else if segLocked s k then ({ s with srv := { s.srv with needs := s.srv.needs ++ [k] } }, z.2)
      else match startMig s k 0 4 none false with
        | (t, none) =>
          (noteMigs (setMem t { t.mem with migs := t.mem.migs.map fun m =>
            if m.seg = k then { m with porter := q } else m }), z.2)
        | (_, some _) => match evictFor s p 0 with
          | some t => ({ t with srv := { t.srv with needs := t.srv.needs ++ [k] } }, z.2)
          | none => (s, true)
    | none => z) (s, false)

/-- A group entry before its numbers: expert, pass 2, resident, its records, whether another part follows. -/
structure Group where
  e : Nat
  pass2 : Bool
  res : Bool
  recs : List Asg
  split : Bool
  deriving DecidableEq, Repr

/-- Parts of at most `n` records. -/
def parts (n : Nat) : Nat → List Asg → List (List Asg)
  | 0, _ => []
  | f + 1, l => if l.isEmpty then [] else l.take n :: parts n f (l.drop n)

/-- The group entries in readiness order (R309). -/
def groups (b : Build) (asg : List Asg) (res : Nat → Bool) : List Group :=
  let of (e : Nat) (p2 : Bool) : List Group :=
    let l := sortBy (fun a c => decide (a.t ≤ c.t)) (asg.filter fun a => a.e == e && a.pass2 == p2)
    let ps := parts (16 * b.gmax) (l.length + 1) l
    ps.zipIdx.map fun x => ⟨e, p2, res e, x.1, decide (x.2 + 1 < ps.length)⟩
  let cls (r p2 : Bool) := ((List.range b.e).filter fun e => res e == r).flatMap fun e => of e p2
  cls true false ++ cls true true ++ cls false false ++ cls false true

/-- Entries with the number of their first tile. -/
def placed : Nat → List Group → List (Group × Nat)
  | _, [] => []
  | t, g :: l => (g, t) :: placed (t + cdiv g.recs.length 16) l

/-- Sizes and places of the output region (R307). -/
def Build.rmax (b : Build) : Nat := 16 * (cdiv (b.t * b.k) 16 + 4096)
def Build.oTile (_ : Build) : Nat := 135232
def Build.oRoute (b : Build) : Nat := 135232 + 64 * cdiv b.rmax 256
def Build.oComb (b : Build) : Nat := b.oRoute + 8 * b.rmax
def Build.size (b : Build) : Nat := b.oComb + 64 * cdiv (4 * b.t * b.k) 64

/-- The bytes of a group entry (R309). -/
def groupBytes (g : Group) (first : Nat) (x : Expert) : Nat :=
  leNum (leBytes 4 (g.recs.length + 2 ^ 17 * oneIf g.pass2 + 2 ^ 18 * oneIf (!g.res) + 2 ^ 19 * oneIf g.split + 2 ^ 24 * g.e) ++
    leBytes 4 x.n ++ leBytes 4 x.k ++ leBytes 4 (16 * first) ++ leBytes 8 x.weights ++ leBytes 8 x.scales)

/-- The output of a build: everything written, as address and bytes. -/
structure BuildOut where
  gs : List (Group × Nat)
  tiles : Nat
  dropped : Nat
  dead : Nat
  subst : Nat
  deferred : Nat
  deriving DecidableEq, Repr

/-- The writes of R307 to R311. -/
def buildWrites (b : Build) (f : Fill) (o : BuildOut) (exps : Nat → Expert) (weight : Nat → Nat → Nat) (res : Nat → Bool)
    (fetched failed : List Nat) : List (Nat × Nat × Nat) :=
  let hdr := leNum (leBytes 8 o.tiles ++ leBytes 4 o.gs.length ++ leBytes 4 (16 * o.tiles) ++ leBytes 4 f.asg.length ++
    leBytes 4 o.dropped ++ leBytes 4 o.subst ++ leBytes 4 o.deferred ++ leBytes 4 o.dead ++ leBytes 4 fetched.length ++
    leBytes 4 ((o.gs.findIdx? fun g => !g.1.res).getD o.gs.length))
  let recOf (a : Asg) : Nat :=
    a.t + 2 ^ 24 * a.r + 2 ^ 28 * oneIf a.sub + 2 ^ 29 * oneIf a.pass2 + 2 ^ 32 * weight a.t a.r
  let pad (p2 : Bool) : Nat := b.zrow + 2 ^ 27 + 2 ^ 29 * oneIf p2
  let ent := o.gs.zipIdx.map fun g => (b.out + 64 + 32 * g.2, 32, groupBytes g.1.1 g.1.2 (exps g.1.1.e))
  let cntE := (List.range b.e).map fun x =>
    (b.out + 131136 + 16 * x, 16, cnt f.f1 x + 2 ^ 32 * cnt f.f2 x + 2 ^ 64 * cnt f.ovf x +
      2 ^ 96 * (oneIf (f.asg.any (fun a => a.e == x) && res x) + 2 * oneIf (fetched.contains x) + 4 * oneIf (failed.contains x)))
  let tiles := o.gs.zipIdx.flatMap fun g => (List.range (cdiv g.1.1.recs.length 16)).map fun j =>
    (b.out + b.oTile + 4 * (g.1.2 + j), 4, g.2 + 2 ^ 12 * min 16 (g.1.1.recs.length - 16 * j))
  let routes := o.gs.flatMap fun g => (List.range (16 * cdiv g.1.recs.length 16)).map fun j =>
    (b.out + b.oRoute + 8 * (16 * g.2 + j), 8, match g.1.recs[j]? with | some a => recOf a | none => pad g.1.pass2)
  let place : Tbl Nat := o.gs.foldl (fun t g => g.1.recs.zipIdx.foldl (fun t a =>
    tset (fun _ => 0xFFFFFFFF) t (a.1.t * b.k + a.1.r) (16 * g.2 + a.2)) t) []
  let comb := (List.range (b.t * b.k)).map fun j => (b.out + b.oComb + 4 * j, 4, tget (fun _ => 0xFFFFFFFF) place j)
  (b.out, 64, hdr) :: ent ++ cntE ++ tiles ++ routes ++ comb

/-- The ranges of the output region a build writes (R307): header, used group entries, counts, used tile-table entries and
route records, combine table. -/
def Build.written (b : Build) (groups tiles : Nat) : List (Nat × Nat) :=
  [(b.out, 64), (b.out + 64, 32 * groups), (b.out + 131136, 16 * b.e), (b.out + b.oTile, 4 * tiles),
    (b.out + b.oRoute, 128 * tiles), (b.out + b.oComb, 4 * b.t * b.k)]

/-- Two ranges meet. -/
def rangesMeet (a n b m : Nat) : Bool := decide (a < b + m) && decide (b < a + n)

/-- The commit of a BUILD. -/
def buildCommit (s : State) (c : Cmd) (b : Build) (raws rows : List (List Nat)) (rks : List (List (Nat × Nat))) (f : Fill)
    (exps : Nat → Expert) (res : Nat → Bool) (gs : List Group) : State :=
  let p := partOf c.ring
  let used := (f.asg.map Asg.e).eraseDups
  let migs (s : State) (e : Nat) := (expertSegs p (exps e)).any fun k => match getSeg s k with | some g => g.mig.isSome | none => false
  let toFetch := if b.fetch then ((List.range b.e).filter fun e => used.contains e && !res e && !migs s e) else []
  let z := toFetch.foldl (fun (z : State × List Nat) e =>
    let q := fetchExpert z.1 p (exps e)
    (q.1, if q.2 then z.2 ++ [e] else z.2)) (s, ([] : List Nat))
  let s := z.1
  let pl := placed 0 gs
  let keptOf (t : Nat) : List Nat := (f.asg.filter fun a => a.t == t).map Asg.r
  let dead := (rks.filter List.isEmpty).length
  let o : BuildOut := {
    gs := pl, tiles := sumNat (gs.map fun g => cdiv g.recs.length 16), dropped := (b.t - dead) * b.k - f.asg.length,
    dead := dead, subst := (f.asg.filter Asg.sub).length, deferred := (f.asg.filter Asg.pass2).length }
  let weight (t r : Nat) : Nat := finalWeight b (gateWeights b.gfn b.k (rows.getD t [])) (keptOf t) r
  let ws := buildWrites b f o exps weight res toFetch z.2
  let s := lockPages (eachOf ws s fun s w => svcWrite s p w.1 w.2.1 w.2.2) c [(b.out, b.size)]
  let s := bump (bump (bump s Reg.GRP_CHOICES 0 (b.t * b.k)) Reg.GRP_ASSIGNED 0 f.asg.length) Reg.GRP_DROPPED 0 o.dropped
  let s := bump (bump (bump s Reg.GRP_SUBST 0 o.subst) Reg.GRP_DEFERRED 0 o.deferred) Reg.GRP_DEADTOK 0 o.dead
  let s := bump s Reg.GRP_NANSC 0 (sumNat (raws.map fun l => (l.filter fun v => (ofF32 v).isNan).length))
  svcEnd (fresh (bump (bump s Reg.GRP_FETCH 0 toFetch.length) Reg.GRP_FETCH_FAIL 0 z.2.length)) c 0 0 0

/-- BUILD (R296 to R311). -/
def execBuild (r i : Nat) (s : State) : Out := onCmd r i 0x60 s fun c s =>
  let p := partOf r
  let b := buildOf c
  svcGate s c [(b.scores, b.stride * b.t), (b.expt, 32 * b.e)] [] fun s =>
    let raws := (List.range b.t).map (b.raw s p)
    let rows := raws.map fun l => l.map cleanScore
    let rks := rows.map ranksOf
    let f := assign b rks
    let used := (List.range b.e).filter fun e => f.asg.any fun a => a.e == e
    let exps (e : Nat) := expertAt s p (b.expt + 32 * e)
    if used.any fun e => !expertOk (exps e) then svcEnd (fresh s) c 0x82 0 0
    else
      let pr := used.map fun e => probeExpert s p (exps e)
      match pr.find? fun x => match x with | .res _ => false | _ => true with
      | some (.flt page kind sub) => setAside (holdFault s p page kind sub false (.service r i)) r i
      | some _ => s
      | none =>
        let res (e : Nat) : Bool := probeExpert s p (exps e) == .res true
        let outOk := decide (b.out + b.size ≤ 2 ^ 52) && (pagesOf b.out b.size).all (fun g =>
          let e := l3e s p g
          isLocal e && eTier e == 0 && eWr e) && !rangesMeet b.out b.size b.scores (b.stride * b.t) &&
          !rangesMeet b.out b.size b.expt (32 * b.e)
        if !outOk then svcEnd (fresh s) c 0x80 0 0
        else
          let gs := groups b f.asg res
          if gs.length > 4096 then svcEnd (fresh s) c 0x81 0 0
          else svcGate s c [] (b.written gs.length (sumNat (gs.map fun g => cdiv g.recs.length 16))) fun s =>
            buildCommit s c b raws rows rks f exps res gs

end Sys2Proof.Machine
end

