-- ==== Sys2Proof/Machine/SkeinExec.lean ====
section
/-! DEFINITION. Skein ports and peer windows (R317 to R331, R345, R346). -/

namespace Sys2Proof.Machine

/-- A Skein port the device has. -/
def sklOk (n : Nat) : Bool := decide (n < 32)

/-! ### Windows at the requester (R323, R330) -/

/-- A host access through aperture 1 that finds no entry (kind 0) or meets a fault: counted, and the first recorded (R351,
R355). -/
def hostErr (s : State) (off kind : Nat) : State :=
  let s := bump s Reg.FUS_HERR_CNT 0 1
  if rd s Reg.FUS_HERR_VALID 0 = 1 then s
  else
    let s := wr (wr2 s Reg.FUS_HERR_OFF_LO Reg.FUS_HERR_OFF_HI 0 off) Reg.FUS_HERR_KIND 0 kind
    raiseInt (wr s Reg.FUS_HERR_VALID 0 1) 0x0F 2

/-- A window access is answered with a fault: a read finds it at its next attempt; a write is held in a record, its bushel
request or its command with it (R199, R203). -/
def winFault (s : State) (q : WReq) (kind sub : Nat) : State :=
  let put (s : State) (st : WSt) : State :=
    { s with skl := { s.skl with reqs := s.skl.reqs.map fun z => if z.id = q.id then { z with st := st } else z } }
  let gone : State := { s with skl := { s.skl with reqs := s.skl.reqs.filter fun z => z.id != q.id } }
  if !q.write then put s (.failed kind sub)
  else
    let hold (src r i : Nat) : State :=
      let s := holdFault (put s (.failed kind sub)) q.part q.page kind sub true (.winWrite q.id src r i)
      markHeld s r i
    match q.owner with
    | some (.tile r i) => hold 1 r i
    | some (.service r i) => hold 4 r i
    | some (.image r i) => hold 3 r i
    | some (.winWrite _ src r i) => hold src r i
    | some .host => hostErr gone 0 kind
    | some (.recWrite r i) => holdFault gone q.part q.page kind sub true (.recWrite r i)
    | some (.bushel b k) =>
      let s := setBsh gone b { bsh gone b with
        reqs := (bsh gone b).reqs.map fun z => if z.id = k then { z with st := .held } else z }
      holdFault s q.part q.page kind sub true (.bushel b k)
    | _ => gone

/-- The flit of a register access the lead forwards (R320, R332); the bytes of its payload are the model's. -/
def regFlit (s : State) (q : RegReq) : Flit :=
  mkFlit s 5 q.dev 0 q.off 0 true [q.id, if q.isWr then 1 else 0, q.size, q.v] []

/-- A write the host sent through a window toward a device is not yet acknowledged (R332). -/
def hostWritesTo (s : State) (d : Nat) : Bool :=
  s.skl.reqs.any fun q => q.owner == some .host && q.write && q.dev == d && q.st == .asked

/-- Forwarded accesses that waited for window writes go out in their order; a write sent needs no answer (R332). -/
def flushRegs (s : State) : State :=
  let go := s.skl.regs.filter fun q => !q.sent && !hostWritesTo s q.dev
  let kept := s.skl.regs.filter fun q => !(go.contains q && q.isWr)
  let l := kept.map fun q => if go.contains q then { q with sent := true } else q
  let s := { s with skl := { s.skl with regs := l } }
  eachOf go s fun s q => route s (regFlit s q)

/-- Every access under way that no path or no permission serves any more raises its fault (R323, R345). -/
def loseWindows (s : State) : State :=
  flushRegs (eachOf (s.skl.reqs.filter fun q => q.st == .asked && peerBar s q.dev != 0) s fun s q =>
    if peerBar s q.dev = 103 then winFault s q 3 3 else winFault s q 2 3)

/-! ### Ports (R318, R323, R325, R326, R346) -/

/-- What a write to `LINK_CTRL` does beyond its fields: EN rising starts training, EN falling takes the port down
(DEDUCED, assumption 25), RETRAIN trains it afresh, OPEN is judged (R318, R326, R346). -/
def fxLinkCtrl (n v : Nat) (old s : State) : State :=
  let was := rd old Reg.SKL_LINK_CTRL_EN n
  let now := rd s Reg.SKL_LINK_CTRL_EN n
  let s := if was = 0 ∧ now = 1 then wr s Reg.SKL_LINK_STAT_STATE n 1
    else if was = 1 ∧ now = 0 then dropPort s n 0
    else if now = 1 ∧ bit v 4 then dropPort s n 1 else s
  loseWindows (judgePort s n)

/-- LINK_CTRL_EN (R318): `v` is the word written to LINK_CTRL. -/
def execLinkCtrlEn (ag : Agent) (n v : Nat) (s : State) : Out :=
  onUnit (sklOk n) (.next (agentWrite ag Reg.SKL_LINK_CTRL_EN n (v % 2 ^ 32) (fun old s => fxLinkCtrl n (v % 2 ^ 32) old s) s))

/-- SKEIN_RETRAIN (R346). -/
def execSkeinRetrain (ag : Agent) (n : Nat) (s : State) : Out :=
  let v := (rw s (Reg.SKL_LINK_CTRL_EN.addr n)).toNat ||| 16
  onUnit (sklOk n) (.next (agentWrite ag Reg.SKL_LINK_CTRL_EN n v (fun old s => fxLinkCtrl n v old s) s))

/-- A port that cannot train stays DOWN and counts (R318). -/
def trainFails (s : State) (n : Nat) : State := bump (wr s Reg.SKL_LINK_STAT_STATE n 0) Reg.SKL_DOWN_CNT n 1

/-- PORT_TRAINED (R317, R318, R325, R326): `peer` is what the far end reports and the lanes that trained. -/
def execPortTrained (n : Nat) (peer : PeerInfo) (s : State) : Out :=
  onUnit (sklOk n) (live s (
    if rd s Reg.SKL_LINK_CTRL_EN n = 0 ∨ (port s n).trained ≠ 0 then s
    else if peer.x4 ∧ rd s Reg.SKL_LINK_CTRL_ALLOW_X4 n = 0 then trainFails s n
    else
      let d := meshOf n
      let dev := peer.dev % 64
      let foreign := !peer.isSwitch && decide (peer.domId % 2 ^ 32 ≠ rd s Reg.SKL0_DOM_ID 0)
      let right := !peer.isSwitch && dev / 4 == rd s Reg.SKL0_DEV_TRAY 0 && dev % 4 == (rd s Reg.SKL0_DEV_SLOT 0 ^^^ d)
      let t := if foreign then 3 else if d ≠ 0 ∧ !right then 4 else 2
      let s := wr (wr s Reg.SKL_LINK_STAT_RATE n (max (oneIf peer.rate112) (rd s Reg.SKL_LINK_CTRL_MAXRATE n)))
        Reg.SKL_LINK_STAT_X4 n (oneIf peer.x4)
      let s := wr (wr s Reg.SKL_LINK_STAT_UPPER n (oneIf (peer.x4 && peer.upper))) Reg.SKL_LINK_STAT_PEER n dev
      let s := wr s Reg.SKL_LINK_STAT_PEER_SW n (oneIf peer.isSwitch)
      let s := if t = 2 then s else bump s Reg.SKL_MISWIRE n 1
      judgePort (setPort s n { Port.idle with trained := t }) n))

/-- PORT_TRAIN_FAIL (R318). -/
def execPortTrainFail (n : Nat) (s : State) : Out :=
  onUnit (sklOk n) (live s (if rd s Reg.SKL_LINK_CTRL_EN n = 0 ∨ (port s n).trained ≠ 0 then s else trainFails s n))

/-- A port goes DOWN (R323). -/
def portFalls (s : State) (n : Nat) : State := loseWindows (dropPort s n 0)

/-- PORT_DOWN (R323). -/
def execPortDown (n : Nat) (s : State) : Out :=
  onUnit (sklOk n) (live s (if (port s n).trained = 0 then s else portFalls s n))

/-! ### Acknowledgement and replay (R322) -/

/-- `a` stands before `b` in the sequence of LSEQs. -/
def seqBefore (a b : Nat) : Bool := decide (0 < (b + 1024 - a % 1024) % 1024) && decide ((b + 1024 - a % 1024) % 1024 < 512)

/-- A MGMT flit arrives: credits come in; one that fails CRC is discarded. -/
def onMgmt (n : Nat) (h : FlitHdr) (s : State) (f : State → State) : Out :=
  onUnit (sklOk n) (live s (
    if (port s n).trained = 0 then s
    else if !h.crcOk then bump s Reg.SKL_CRC_ERR n 1
    else
      let p := port s n
      f (takeCredits (bump (setPort s n { p with owed := setAt p.owed 3 (p.owed.getD 3 0 + 1) }) Reg.SKL_RX_FLITS n 1) n h)))

/-- MGMT_ACK (R322): flits up to the one named are freed. -/
def execMgmtAck (n : Nat) (h : FlitHdr) (named : Nat) (s : State) : Out := onMgmt n h s fun s =>
  let p := port s n
  let l := p.replay.filter fun f => seqBefore (named % 1024) f.h.lseq
  flushPort (setPort s n { p with replay := l, fails := if l.length < p.replay.length then 0 else p.fails }) n

/-- MGMT_NAK (R322): flits before the one named are freed, and the rest go again in order; the sixteenth failed replay of
one flit takes the port down. -/
def execMgmtNak (n : Nat) (h : FlitHdr) (named : Nat) (s : State) : Out := onMgmt n h s fun s =>
  let p := port s n
  let l := p.replay.filter fun f => !(seqBefore f.h.lseq (named % 1024))
  let fails := if l.length < p.replay.length then 1 else p.fails + 1
  if l.isEmpty then setPort s n { p with replay := l, fails := 0 }
  else if fails > 16 then portFalls (setPort s n { p with replay := l }) n
  else
    let s := bump (setPort s n { p with replay := l, fails := fails }) Reg.SKL_REPLAY n 1
    eachOf l s fun s f => bump (emit s (.flit n f)) Reg.SKL_TX_FLITS n 1

/-- ACK_TIMER (R322): the last good LSEQ is named. -/
def execAckTimer (n : Nat) (s : State) : Out :=
  onUnit (sklOk n) (live s (
    if rd s Reg.SKL_LINK_STAT_STATE n ≠ 2 then s
    else
      let p := port s n
      sendMgmt (setPort s n { p with since := 0 }) n 0 ((p.rxSeq + 1023) % 1024)))

/-- A flit on VC 0 to 2 arrives: the link judges it, and `f` serves it; the power-fail sequence takes no requests (R385). -/
def onFlit (n vc : Nat) (h : FlitHdr) (s : State) (f : State → State) : Out :=
  onUnit (sklOk n) (live s (if vc = 0 ∧ s.pow.pfail = true then s else match receive s n vc h with
    | (s, true) => f s
    | (s, false) => s))

/-! ### Export (R330, R331) -/

/-- The export entry an arriving access goes through, of 32 (R330). -/
def exportEntry (s : State) (src wpage : Nat) (write : Bool) : Option Nat :=
  (List.range 32).find? fun k =>
    let base := rd s Reg.SKL0_EXP_WBASE_LO k + 2 ^ 32 * rd s Reg.SKL0_EXP_WBASE_HI k
    rd s Reg.SKL0_EXP_VALID k == 1 && decide (base ≤ wpage) && decide (wpage < base + rd s Reg.SKL0_EXP_NPAGES k) &&
    (rd s Reg.SKL0_EXP_IMASK_LO k + 2 ^ 32 * rd s Reg.SKL0_EXP_IMASK_HI k).testBit src &&
    rd s (if write then Reg.SKL0_EXP_WR else Reg.SKL0_EXP_RD) k == 1

/-- Partition and device address an entry maps a page to. -/
def exportAddr (s : State) (k wpage : Nat) : Nat × Nat :=
  let base := rd s Reg.SKL0_EXP_WBASE_LO k + 2 ^ 32 * rd s Reg.SKL0_EXP_WBASE_HI k
  (rd s Reg.SKL0_EXP_PART k,
    (rd s Reg.SKL0_EXP_DBASE_LO k * 65536 + 2 ^ 32 * rd s Reg.SKL0_EXP_DBASE_HI k + (wpage - base) * 65536) % 2 ^ 52)

/-- An outcome as an answer carries it: 0 success, else 16·kind + subcode. -/
def outcomeOf (kind sub : Nat) : Nat := 16 * kind + sub

/-- What the exporter finds (R330): where the access goes, or the outcome it answers. A detection error without a clean copy
answers subcode 0x2. -/
def exportFinds (s : State) (src wpage : Nat) (write : Bool) (det : Detect) : State × (Nat × Nat ⊕ Nat) :=
  match exportEntry s src wpage write with
  | none => (s, .inr (outcomeOf 3 3))
  | some k =>
    let (p, da) := exportAddr s k wpage
    if !isLocal (l3e s p (pageOf da)) then (s, .inr (outcomeOf 2 3))
    else match translate s p da write with
      | .flt kind sub => (told s p [pageOf da], .inr (outcomeOf kind sub))
      | _ =>
        if det = .clean then (s, .inl (p, da))
        else match detected s p (pageOf da) (det != .copyToo) with
          | (s, none) => (s, .inl (p, da))
          | (s, some _) => (s, .inr (outcomeOf 4 2))

/-- FLIT_WR (R330). -/
def execFlitWr (n : Nat) (h : FlitHdr) (req : Nat) (data : List Nat) (det : Detect) (s : State) : Out :=
  onFlit n 0 h s fun s =>
    let g := bits h.info 36 8
    let ans (s : State) (o : Nat) : State := route s (mkFlit s 2 h.src h.part 0 0 true [req, o] [])
    match exportFinds s (h.src % 64) (h.info % 2 ^ 36) true det with
    | (s, .inr o) => ans s o
    | (s, .inl (p, da)) =>
      let ls := setBits h.mask 4
      let s := eachOf ls s fun s l =>
        let a := da + 256 * g + 64 * l
        memWrite (abortOnWrite (takeLines s p a 64) p a 64) p a 64 (leNum ((data.drop (64 * l)).take 64))
      ans (bump2 s Reg.CMD_PART_LED_PB_LO Reg.CMD_PART_LED_PB_HI p (64 * ls.length)) 0

/-- RDREQ (R330, R331): a granule of 256 bytes is read and sent. -/
def execRdreq (n : Nat) (h : FlitHdr) (req : Nat) (det : Detect) (s : State) : Out := onFlit n 0 h s fun s =>
  let g := bits h.info 36 8
  let ans (s : State) (o : Nat) (d : List Nat) : State := route s (mkFlit s 4 h.src h.part 0 0 true [req, o] d)
  match exportFinds s (h.src % 64) (h.info % 2 ^ 36) false det with
  | (s, .inr o) => ans s o []
  | (s, .inl (p, da)) =>
    ans (bump2 s Reg.CMD_PART_LED_PB_LO Reg.CMD_PART_LED_PB_HI p 256) 0 (memList s p (da + 256 * g) 256)

/-- WRACK (R329, R330): request `req` is acknowledged, or refused with an outcome. -/
def execWrack (n : Nat) (h : FlitHdr) (req outcome : Nat) (s : State) : Out := onFlit n 1 h s fun s =>
  match s.skl.reqs.find? fun q => q.id == req && q.write && q.dev == h.src && q.st == .asked with
  | none => s
  | some q =>
    flushRegs (if outcome = 0 then
        let s := { s with skl := { s.skl with reqs := s.skl.reqs.filter fun z => z.id != req } }
        match q.owner with
        | some (.recWrite r i) => recordAcked s r i
        | _ => s
      else winFault s q (outcome / 16 % 8) (outcome % 16))

/-- RDDATA (R330, R331): what a read through a window brings. -/
def execRddata (n : Nat) (h : FlitHdr) (req outcome : Nat) (data : List Nat) (s : State) : Out := onFlit n 1 h s fun s =>
  match s.skl.reqs.find? fun q => q.id == req && !q.write && q.dev == h.src && q.st == .asked with
  | none => s
  | some q =>
    if outcome = 0 then
      { s with skl := { s.skl with reqs := s.skl.reqs.map fun z =>
          if z.id = req then { z with st := .here, data := data.map (· % 256) } else z } }
    else winFault s q (outcome / 16 % 8) (outcome % 16)

/-- INTR (R333): at the lead. -/
def execIntr (n : Nat) (h : FlitHdr) (page : Nat) (s : State) : Out := onFlit n 1 h s fun s =>
  let _ := page
  let d := h.src % 64
  if rd s Reg.SKL0_DOM_CTRL_LEAD 0 = 0 then s
  else
    let s := if d < 32 then setBit s Reg.SKL0_RINT_LO 0 d else setBit s Reg.SKL0_RINT_HI 0 (d - 32)
    raiseInt s 0x50 0

end Sys2Proof.Machine
end

