-- ==== Sys2Proof/Machine/CollExec.lean ====
section
/-! DEFINITION. Collective groups and collectives (R334 to R345, R348). -/

namespace Sys2Proof.Machine

/-! ### Bodies (R335, R336) -/

def Cmd.grp (c : Cmd) : Nat := c.fld 0x10 1 % 16
def Cmd.cred (c : Cmd) : Nat := bits (c.fld 0x11 1) 0 2
def Cmd.bf16 (c : Cmd) : Bool := bit (c.fld 0x11 1) 2
def Cmd.pre (c : Cmd) : Bool := bit (c.fld 0x11 1) 3
def Cmd.cseq (c : Cmd) : Nat := c.fld 0x14 4
def Cmd.csrc (c : Cmd) : Nat := c.fld 0x18 8
def Cmd.cdst (c : Cmd) : Nat := c.fld 0x20 8
def Cmd.ccount (c : Cmd) : Nat := c.fld 0x28 4
def Cmd.crows (c : Cmd) : Nat := c.fld 0x2C 4
def Cmd.caux (c : Cmd) : Nat := c.fld 0x30 8

/-- Bytes of an element, and flits of a chunk (R336). -/
def Cmd.esz (c : Cmd) : Nat := if c.bf16 then 2 else 4
def Cmd.chunk (c : Cmd) : Nat := c.ccount * c.esz / 256

/-- Members, own rank, and members in rank order of a group. -/
def gMem (s : State) (g : Nat) : Nat := rd s Reg.COL_GRP_NMEM g
def gRank (s : State) (g : Nat) : Nat := rd s Reg.COL_GRP_RANK g
def gDev (s : State) (g j : Nat) : Nat := (cgroup s g).members.getD j 0
/-- Ranks of the other members. -/
def others (s : State) (g : Nat) : List Nat := (List.range (gMem s g)).filter fun j => j != gRank s g

/-- The collective running on a group. -/
def getColl (s : State) (g : Nat) : Option Coll := s.skl.colls.find? fun x => x.grp == g
def setColl (s : State) (x : Coll) : State :=
  { s with skl := { s.skl with colls := s.skl.colls.map fun y => if y.grp = x.grp then x else y } }
def dropColl (s : State) (g : Nat) : State :=
  { s with skl := { s.skl with colls := s.skl.colls.filter fun y => y.grp != g } }

/-- End-to-end credit toward a device in use, of 64 flits (R341). -/
def e2eUsed (s : State) (d : Nat) : Nat := tget (fun _ => 0) s.skl.used d
def setUsed (s : State) (d v : Nat) : State :=
  { s with skl := { s.skl with used := tset (fun _ => 0) s.skl.used d v } }

def nsent (x : Coll) (j : Nat) : Nat := tget (fun _ => 0) x.sent j
def nret (x : Coll) (j : Nat) : Nat := tget (fun _ => 0) x.ret j
def nplaced (x : Coll) (j : Nat) : Nat := tget (fun _ => 0) x.placed j

/-! ### Elements (R338) -/

/-- FP32 values of the elements of a granule. -/
def granVals (bf : Bool) (v : Nat) : List Nat :=
  if bf then (List.range 128).map fun i => bits v (16 * i) 16 * 65536 else (List.range 64).map fun i => bits v (32 * i) 32

/-- A granule of results, rounded once to the element type; FP32 is what the reduction ran in. -/
def granPack (bf : Bool) (l : List Nat) : Nat :=
  if bf then leNum (l.flatMap fun x => leBytes 2 (fpEncode fmtBf16 .even false (ofF32 x)).bits)
  else leNum (l.flatMap (leBytes 4))

/-- One step of a reduction: 0 SUM, 1 MAX, 2 MIN (R28, R29, R336). -/
def reduce (red a b : Nat) : Nat :=
  let x := ofF32 a
  let y := ofF32 b
  if red = 0 then f32add a b
  else if x.isNan || y.isNan then 0x7FC00000
  else if red = 1 then (if fvBelow x y then b else a) else (if fvBelow y x then b else a)

/-! ### Ends -/

/-- A command of the collective engine retires; collectives are counted (R348). -/
def collEnd (s : State) (c : Cmd) (status sub : Nat) : State :=
  let s := if 0x70 ≤ c.op ∧ c.op ≤ 0x75 then bump s Reg.COL_COLLS 0 1 else s
  let s := if status = 0x91 then bump s Reg.COL_TIMEOUTS 0 1 else if status = 0x92 then bump s Reg.COL_ABORTS 0 1 else s
  svcEnd s c status sub 0

/-- A running collective fails: its credits are free again, a CABORT goes to every other member when it is the first to
know, and the group is BROKEN (R343). -/
def collFail (s : State) (x : Coll) (status sub : Nat) (abort : Bool) : State :=
  let s := eachOf (others s x.grp) s fun s j =>
    let d := gDev s x.grp j
    let s := setUsed s d (e2eUsed s d - (if x.fin.contains j then 0 else nsent x j - 16 * nret x j))
    if abort then route s (mkFlit s 11 d 0 0 0 true [x.grp, x.seq] []) else s
  let s := wr (dropColl s x.grp) Reg.COL_GRP_STATE x.grp 3
  match getCmd s x.ring x.idx with
  | some c => collEnd s c status sub
  | none => s

/-! ### Sending (R340, R341) -/

/-- Flits owed to rank `j`. A zero-length part of an ALLTOALL is one flit without payload, so that its receiver learns of it
(assumption 26). -/
def sendLen (c : Cmd) (x : Coll) (j : Nat) : Nat :=
  match c.op with
  | 0x70 => 2 * c.chunk
  | 0x71 => c.chunk
  | 0x72 => c.chunk
  | 0x73 => max 1 ((x.a2a.getD j []).getD 1 0 / 256)
  | 0x75 => cdiv (8 * c.crows) 256
  | _ => 0

/-- Flits rank `j` owes, once known. -/
def owedLen (c : Cmd) (x : Coll) (j : Nat) : Option Nat :=
  if c.op = 0x73 then (x.owed.find? fun e => e.1 == j).map Prod.snd
  else some (sendLen c x j)

/-- Flit `k` to rank `j`: its offset field, whether it is the last of a contribution, its source (an address and bytes, or
words of ROWSTAT). Offsets of chunk operations count from the first of the G chunks, others from the contribution's start
(assumption 26). -/
structure OutFlit where
  off : Nat
  last : Bool
  src : Option (Nat × Nat)

def outFlit (c : Cmd) (x : Coll) (me j k : Nat) : OutFlit :=
  let n := c.chunk
  match c.op with
  | 0x70 =>
    if k < n then ⟨j * n + k, k + 1 == n, some (c.csrc + 256 * (j * n + k), 256)⟩
    else ⟨me * n + (k - n), k + 1 == 2 * n, some (c.cdst + 256 * (me * n + (k - n)), 256)⟩
  | 0x71 => ⟨me * n + k, k + 1 == n, some (c.csrc + 256 * k, 256)⟩
  | 0x72 => ⟨j * n + k, k + 1 == n, some (c.csrc + 256 * (j * n + k), 256)⟩
  | 0x73 =>
    let e := x.a2a.getD j []
    if e.getD 1 0 / 256 = 0 then ⟨0, true, some (c.csrc, 0)⟩
    else ⟨k, k + 1 == e.getD 1 0 / 256, some (c.csrc + 256 * (e.getD 0 0 + k), 256)⟩
  | _ => ⟨k, k + 1 == cdiv (8 * c.crows) 256, none⟩

/-- What comes of the next flit to a rank. -/
inductive Push where
  | stop (s : State) | sent (s : State) | fail (kind sub : Nat)

/-- The next flit to rank `j` goes when its CREADY has come, a result it carries stands, credit and the Skein regulator
allow. -/
def pushFlit (s : State) (c : Cmd) (x : Coll) (j : Nat) : Push :=
  let p := partOf c.ring
  let d := gDev s x.grp j
  let me := gRank s x.grp
  let k := nsent x j
  let blocked := c.op == 0x70 && decide (c.chunk ≤ k) &&
    decide (tget (fun _ => 0) x.adds (k - c.chunk) < gMem s x.grp - 1)
  if !(x.ready.any fun e => e.1 == j) || decide (k ≥ sendLen c x j) || blocked then .stop s
  else if e2eUsed s d ≥ 64 then
    .stop (if x.stuck.contains j then s else bump (setColl s { x with stuck := x.stuck ++ [j] }) Reg.COL_CREDIT_WAIT 0 1)
  else if !(granted s p 2) then .stop s
  else
    let o := outFlit c x me j k
    let go (s : State) (data : List Nat) : Push :=
      let x := { x with sent := tset (fun _ => 0) x.sent j (k + 1), stuck := x.stuck.erase j }
      let s := setUsed (setColl (draw s p 2 256) x) d (e2eUsed s d + 1)
      .sent (route s (mkFlit s 9 d p (x.grp + 2 ^ 4 * (x.seq % 65536) + 2 ^ 20 * o.off) 0 o.last [] data))
    match o.src with
    | some (a, n) => if n = 0 then go s [] else match probe s p a n false with
      | .flt _ kind sub => .fail kind sub
      | .wait _ => .stop s
      | .ok => go s (memList s p a n)
    | none => go s ((List.range 64).flatMap fun w => leBytes 4 (tget (fun _ => 0) x.parts (2 ^ 17 * me + 64 * k + w)))

/-- Up to `n` flits to rank `j`. -/
def pushes (g j : Nat) : Nat → State → State
  | 0, s => s
  | n + 1, s => match getColl s g with
    | none => s
    | some x => match getCmd s x.ring x.idx with
      | none => s
      | some c => match pushFlit s c x j with
        | .stop s => s
        | .sent s => pushes g j n s
        | .fail kind sub => collFail s x (0x40 + kind) sub true

/-! ### Finishing (R336, R337, R339, R340) -/

/-- The records of ROWSTAT (R339). -/
def rowRecord (c : Cmd) (x : Coll) (n r : Nat) : List Nat :=
  let part (k w : Nat) : Nat := tget (fun _ => 0) x.parts (2 ^ 17 * k + 2 * r + w)
  let total (w : Nat) : Nat := ((List.range (n - 1)).map fun k => part (k + 1) w).foldl f32add (part 0 w)
  let nt := toF32 (ofInt (c.fld 0x3C 4 : Nat))
  let mean := f32div (total 0) nt
  let var := f32sub (f32div (total 1) nt) (f32mul mean mean)
  let rstd := svcSpecial 0x23 (f32add (reduce 1 0 var) (c.fld 0x38 4))
  [total 0, total 1, mean, rstd]

/-- What is written at the end. -/
def lastWrites (s : State) (c : Cmd) (x : Coll) : List (Nat × Nat × Nat) :=
  if c.op = 0x75 then
    (List.range c.crows).map fun r => (c.cdst + 16 * r, 16, leNum ((rowRecord c x (gMem s x.grp) r).flatMap (leBytes 4)))
  else if c.op = 0x73 then
    let me := gRank s x.grp
    (List.range (gMem s x.grp)).map fun j =>
      let n := if j = me then (x.a2a.getD me []).getD 1 0 / 256 else nplaced x j
      (c.caux + 16 * gMem s x.grp + 4 * j, 4, 256 * n)
  else []

/-- Every byte sent has been placed and every byte owed has come; a BARRIER holds every CREADY (R340). -/
def collDone (s : State) (c : Cmd) (x : Coll) : Bool :=
  (others s x.grp).all fun j =>
    if c.op = 0x74 then x.ready.any fun e => e.1 == j
    else x.fin.contains j && (match owedLen c x j with | some n => nplaced x j == n | none => false)

/-- A running collective goes on: flits that may go, then its end. -/
def collStep (s : State) (g : Nat) : State :=
  match getColl s g with
  | none => s
  | some x0 => match getCmd s x0.ring x0.idx with
    | none => s
    | some c =>
      let excess := (others s g).any fun j => c.op == 0x73 && (match x0.ready.find? fun e => e.1 == j with
        | some e => decide ((x0.a2a.getD j []).getD 1 0 > e.2)
        | none => false)
      if excess then collFail s x0 0x95 0 true
      else
        let s := eachOf (others s g) s fun s j => pushes g j 64 s
        match getColl s g with
        | none => s
        | some x =>
          if !collDone s c x then s
          else
            let s := eachOf (lastWrites s c x) s fun s w => svcWrite s (partOf c.ring) w.1 w.2.1 w.2.2
            let s := wr (dropColl s g) Reg.COL_GRP_STATE g 1
            collEnd (wr s Reg.COL_GRP_NEXT_SEQ g (rd s Reg.COL_GRP_NEXT_SEQ g + 1)) c 0 0

/-- Every running collective goes on. -/
def collSteps (s : State) : State := eachOf (s.skl.colls.map Coll.grp) s collStep

/-! ### Groups (R334, R335) -/

/-- Why a command may not use a group: 0 for nothing. -/
def groupBar (s : State) (c : Cmd) : Nat :=
  if rd s Reg.SKL0_DOM_CTRL_EN 0 = 0 then 0x97
  else if rd s Reg.COL_GRP_STATE c.grp ≠ 0 ∧ rd s Reg.COL_GRP_PART c.grp ≠ partOf c.ring then 0x99 else 0

/-- GROUP_SET (R335). MEMBERS are bytes, one for each device number (assumption 26). -/
def execGroupSet (r i : Nat) (s : State) : Out := onCmd r i 0x76 s fun c s =>
  let g := c.grp
  let n := c.fld 0x11 1
  let me := c.fld 0x12 1
  let bar := groupBar s c
  if bar ≠ 0 then collEnd s c bar 0
  else if rd s Reg.COL_GRP_STATE g = 2 then collEnd s c 0x98 0
  else svcGate s c [(c.csrc, n)] [] fun s =>
    let l := memList s (partOf r) c.csrc n
    let s := fresh s
    let bad := l.any fun d => decide (d ≥ 64) || rd s Reg.SKL0_ROSTER_PRESENT d == 0 ||
      rd s Reg.SKL0_ROSTER_SLICE d != rd s Reg.SKL0_DEV_SLICE 0
    if bad || l.eraseDups.length != n || l.getD me 64 != rd s Reg.SKL0_DEV_DEVNUM 0 then collEnd s c 0x96 0
    else
      let tag := c.fld 0x14 4
      let s := wr (wr (wr s Reg.COL_GRP_STATE g 1) Reg.COL_GRP_NMEM g n) Reg.COL_GRP_RANK g me
      let s := wr (wr s Reg.COL_GRP_PART g (partOf r)) Reg.COL_GRP_NEXT_SEQ g 0
      let early := (cgroup s g).early.filter fun e => e.tag == tag && e.nmem == n
      collEnd (setCgroup s g ⟨tag, l, early, []⟩) c 0 0

/-- GROUP_CLEAR (R335). -/
def execGroupClear (r i : Nat) (s : State) : Out := onCmd r i 0x77 s fun c s =>
  let g := c.grp
  let bar := groupBar s c
  if bar ≠ 0 then collEnd s c bar 0
  else if rd s Reg.COL_GRP_STATE g = 2 then collEnd s c 0x98 0
  else collEnd (setCgroup (ww (ww s (Reg.COL_GRP_STATE.addr g) 0) (Reg.COL_GRP_NEXT_SEQ.addr g) 0) g CGroup.idle) c 0 0

/-! ### Running a collective (R340) -/

/-- Ranges of SRC, of DST and of AUX a command reads and writes; `t` is the ALLTOALL table. -/
def collRanges (s : State) (c : Cmd) (t : List (List Nat)) : List (Nat × Nat) × List (Nat × Nat) × List (Nat × Nat) :=
  let g := gMem s c.grp
  let n := 256 * c.chunk
  match c.op with
  | 0x70 => ([(c.csrc, g * n)], [(c.cdst, g * n)], [])
  | 0x71 => ([(c.csrc, n)], [(c.cdst, g * n)], [])
  | 0x72 => ([(c.csrc, g * n)], [(c.cdst, n)], [])
  | 0x73 => (t.map fun e => (c.csrc + 256 * e.getD 0 0, e.getD 1 0), t.map fun e => (c.cdst + 256 * e.getD 2 0, e.getD 3 0),
      [(c.caux, 20 * g)])
  | 0x75 => (if c.pre then [(c.csrc, 8 * c.crows)]
        else (List.range c.crows).map fun r => (c.csrc + r * c.caux, c.ccount * c.esz),
      [(c.cdst, 16 * c.crows)], [])
  | _ => ([], [], [])

/-- Check 0x90: all LOCAL, and DST clear of SRC and AUX, but for an ALLREDUCE in place. -/
def rangesOk (s : State) (c : Cmd) (src dst aux : List (Nat × Nat)) : Bool :=
  let l := (src ++ dst ++ aux).filter fun e => decide (e.2 ≠ 0)
  l.all (fun e => decide (e.1 + e.2 ≤ 2 ^ 52) && (pagesOf e.1 e.2).all fun g => isLocal (l3e s (partOf c.ring) g)) &&
  ((c.op == 0x70 && c.csrc == c.cdst) ||
   !(dst.any fun d => (src ++ aux).any fun e => decide (d.2 ≠ 0) && decide (e.2 ≠ 0) && rangesMeet d.1 d.2 e.1 e.2))

/-- The ALLTOALL table at AUX (R337). -/
def a2aTable (s : State) (c : Cmd) : List (List Nat) :=
  (List.range (gMem s c.grp)).map fun j => (List.range 4).map fun k => memRead s (partOf c.ring) (c.caux + 16 * j + 4 * k) 4

/-- The row sums of this member (R339): pairs of FP32 words. -/
def ownPairs (s : State) (c : Cmd) : List Nat :=
  let p := partOf c.ring
  if c.pre then (List.range (2 * c.crows)).map fun w => memRead s p (c.csrc + 4 * w) 4
  else (List.range c.crows).flatMap fun r =>
    let l := (List.range c.ccount).map fun k =>
      let v := memRead s p (c.csrc + r * c.caux + c.esz * k) c.esz
      if c.bf16 then v * 65536 else v
    [f32sum l, f32sum (l.map fun v => f32mul v v)]

/-- This member's own part: its chunk of an ALLGATHER and its region of an ALLTOALL are placed at once. -/
def ownPart (s : State) (c : Cmd) (t : List (List Nat)) : State :=
  let p := partOf c.ring
  let me := gRank s c.grp
  if c.op = 0x71 then
    svcWrite s p (c.cdst + me * 256 * c.chunk) (256 * c.chunk) (memRead s p c.csrc (256 * c.chunk))
  else if c.op = 0x73 then
    let e := t.getD me []
    let n := e.getD 1 0 / 256 * 256
    if n = 0 ∨ e.getD 1 0 > e.getD 3 0 then s else svcWrite s p (c.cdst + 256 * e.getD 2 0) n (memRead s p (c.csrc + 256 * e.getD 0 0) n)
  else s

/-- A CREADY is taken into a running collective, or turns out a CABORT (R335, R340). -/
def takeReady (s : State) (g : Nat) (e : Early) : State :=
  match getColl s g with
  | none => s
  | some x =>
    let gr := cgroup s g
    match gr.members.findIdx? fun d => d == e.dev with
    | none => s
    | some j =>
      if e.tag ≠ gr.tag ∨ e.nmem ≠ gMem s g then collFail s x 0x92 0 false
      else setColl s { x with ready := x.ready ++ [(j, e.rcap)] }

/-- The Ready step (R340): the group is BUSY, pages are locked, and a CREADY goes to every other member. -/
def collReady (s : State) (c : Cmd) (t : List (List Nat)) (rs : List (Nat × Nat)) : State :=
  let g := c.grp
  let me := gRank s g
  let pairs := if c.op = 0x75 then ownPairs s c else []
  let parts := pairs.zipIdx.foldl (fun (m : Tbl Nat) e => tset (fun _ => 0) m (2 ^ 17 * me + e.2) e.1) []
  let x : Coll := {
    grp := g, ring := c.ring, idx := c.idx, seq := c.cseq, ready := [], sent := [], ret := [], fin := [], placed := [], owed := [],
    stuck := [], acc := [], adds := [], parts := parts, a2a := t }
  let s := lockPages (ownPart s c t) c (rs.filter fun e => decide (e.2 ≠ 0))
  let s := wr { s with skl := { s.skl with colls := s.skl.colls ++ [x] } } Reg.COL_GRP_STATE g 2
  let s := eachOf (others s g) s fun s j =>
    route s (mkFlit s 8 (gDev s g j) 0 0 0 true
      [g, c.cseq, (cgroup s g).tag, gMem s g, (t.getD j []).getD 3 0] [])
  let early := (cgroup s g).early
  let s := setCgroup s g { cgroup s g with early := early.filter fun e => e.seq != c.cseq }
  let own := t.getD me []
  if own.getD 1 0 > own.getD 3 0 then collFail s x 0x95 0 true
  else collStep (eachOf (early.filter fun e => e.seq == c.cseq) s fun s e => takeReady s g e) g

/-- A collective command (R340, R343): admitted, then sent on whenever its row comes round again. -/
def collCmd (op r i : Nat) (s : State) : Out := onCmd r i op s fun c s =>
  let g := c.grp
  if (s.skl.colls.any fun x => x.ring == r && x.idx == i) then collStep s g
  else
    let bar := groupBar s c
    let st := rd s Reg.COL_GRP_STATE g
    if bar ≠ 0 then collEnd s c bar 0
    else if st = 0 ∨ st = 3 then collEnd s c 0x93 0
    else if st = 2 then s
    else if c.cseq ≠ rd s Reg.COL_GRP_NEXT_SEQ g then collEnd s c 0x94 0
    else if (cgroup s g).aborted.contains c.cseq then
      collEnd (wr s Reg.COL_GRP_STATE g 3) c 0x92 0
    else
      let aux := if op = 0x73 then [(c.caux, 16 * gMem s g)] else []
      if !(rangesOk s c [] [] aux) then collEnd s c 0x90 0
      else svcPeek s c aux fun s =>
        let t := if op = 0x73 then a2aTable s c else []
        let (src, dst, ax) := collRanges s c t
        if !(rangesOk s c src dst ax) then collEnd s c 0x90 0
        else svcGate s c (src ++ aux) (dst ++ ax) fun s => collReady s c t (src ++ dst ++ ax)

/-- ALLREDUCE (R336, R338). -/
def execAllreduce (r i : Nat) (s : State) : Out := collCmd 0x70 r i s
/-- ALLGATHER (R336). -/
def execAllgather (r i : Nat) (s : State) : Out := collCmd 0x71 r i s
/-- REDUCESCATTER (R336, R338). -/
def execReducescatter (r i : Nat) (s : State) : Out := collCmd 0x72 r i s
/-- ALLTOALL (R337). -/
def execAlltoall (r i : Nat) (s : State) : Out := collCmd 0x73 r i s
/-- BARRIER (R340). -/
def execBarrier (r i : Nat) (s : State) : Out := collCmd 0x74 r i s
/-- ROWSTAT (R339). -/
def execRowstat (r i : Nat) (s : State) : Out := collCmd 0x75 r i s

/-! ### Flits (R340, R341, R343) -/

/-- A SEQ comes after or at the group's next one. -/
def seqAhead (s : State) (g seq : Nat) : Bool := decide (sub32 seq (rd s Reg.COL_GRP_NEXT_SEQ g) < 2 ^ 31)

/-- A running collective of (group, SEQ) is aborted, or its SEQ is marked (R343). -/
def abortSeq (s : State) (g seq : Nat) : State :=
  match getColl s g with
  | some x => if x.seq = seq then collFail s x 0x92 0 false
              else setCgroup s g { cgroup s g with aborted := (cgroup s g).aborted ++ [seq] }
  | none =>
    if seqAhead s g seq then setCgroup s g { cgroup s g with aborted := (cgroup s g).aborted ++ [seq] } else s

/-- CREADY (R335, R337, R340). -/
def execCready (n : Nat) (h : FlitHdr) (grp seq tag nmem rcap : Nat) (s : State) : Out := onFlit n 2 h s fun s =>
  let g := grp % 16
  let e : Early := ⟨h.src, seq, tag, nmem, rcap⟩
  match getColl s g with
  | some x =>
    if x.seq = seq then collStep (takeReady s g e) g
    else setCgroup s g { cgroup s g with early := (cgroup s g).early ++ [e] }
  | none =>
    let gr := cgroup s g
    if rd s Reg.COL_GRP_STATE g = 1 ∧ (tag ≠ gr.tag ∨ nmem ≠ gMem s g) then abortSeq s g seq
    else setCgroup s g { gr with early := gr.early ++ [e] }

/-- A granule of another member's contribution is added to this member's chunk; the last one finishes it (R338). -/
def addGran (s : State) (c : Cmd) (x : Coll) (k v : Nat) : State :=
  let p := partOf c.ring
  let me := gRank s x.grp
  let n := tget (fun _ => 0) x.adds k
  let own := if n = 0 then granVals c.bf16 (memRead s p (c.csrc + 256 * (me * c.chunk + k)) 256)
    else tget (fun _ => []) x.acc k
  let sum := List.zipWith (reduce c.cred) own (granVals c.bf16 v)
  let last := n + 2 = gMem s x.grp
  let x := { x with adds := tset (fun _ => 0) x.adds k (n + 1),
                    acc := tset (fun _ => []) x.acc k (if last then [] else sum) }
  let s := setColl s x
  if last then svcWrite s p (c.cdst + 256 * (if c.op = 0x70 then me * c.chunk + k else k)) 256 (granPack c.bf16 sum) else s

/-- The payload of a CDATA flit from rank `j` is placed or reduced (R336 to R339). -/
def placeFlit (s : State) (c : Cmd) (x : Coll) (j off : Nat) (data : List Nat) : State :=
  let p := partOf c.ring
  let v := leNum data
  let n := c.chunk
  let me := gRank s x.grp
  match c.op with
  | 0x70 => if off / n = me then addGran s c x (off % n) v
            else if off / n = j then svcWrite s p (c.cdst + 256 * off) 256 v else s
  | 0x71 => if off / n = j then svcWrite s p (c.cdst + 256 * off) 256 v else s
  | 0x72 => if off / n = me then addGran s c x (off % n) v else s
  | 0x73 => if data.isEmpty then s else svcWrite s p (c.cdst + 256 * ((x.a2a.getD j []).getD 2 0 + off)) 256 v
  | _ =>
    let parts := (List.range 64).foldl (fun m w => tset (fun _ => 0) m (2 ^ 17 * j + 64 * off + w) (bits v (32 * w) 32)) x.parts
    setColl s { x with parts := parts }

/-- CDATA (R336 to R341): the flit is placed, and credit goes back, one CCREDIT for 16 flits and a final one. How much of
the staging buffer was in use is a matter of timing (assumption 1). -/
def execCdata (n : Nat) (h : FlitHdr) (data : List Nat) (s : State) : Out := onFlit n 2 h s fun s =>
  let g := h.info % 16
  match getColl s g with
  | none => s
  | some x => match getCmd s x.ring x.idx, (cgroup s g).members.findIdx? fun d => d == h.src with
    | some c, some j =>
      if x.seq % 65536 ≠ bits h.info 4 16 ∨ j = gRank s g ∨ c.op = 0x74 then s
      else
        let off := bits h.info 20 24
        let s := placeFlit s c x j off (data.map (· % 256))
        let s := fresh (wr s Reg.COL_STAGE_HWM 0 (max (rd s Reg.COL_STAGE_HWM 0) (freeNat s % 1024 + 1)))
        match getColl s g with
        | none => s
        | some x =>
          let m := nplaced x j + (if data.isEmpty then 0 else 1)
          let owed := if c.op = 0x73 ∧ h.last then x.owed ++ [(j, if data.isEmpty then 0 else off + 1)] else x.owed
          let x := { x with placed := tset (fun _ => 0) x.placed j m, owed := owed }
          let fin := owedLen c x j == some m
          let s := setColl s x
          let s := if fin || (m % 16 == 0 && !data.isEmpty) then
              route s (mkFlit s 10 h.src 0 (g + 2 ^ 4 * (x.seq % 65536) + 2 ^ 20 * off) 0 fin [] [])
            else s
          collStep s g
    | _, _ => s

/-- CCREDIT (R340, R341): 16 flits of credit, or with LAST what is left of the contribution's. -/
def execCcredit (n : Nat) (h : FlitHdr) (s : State) : Out := onFlit n 2 h s fun s =>
  let g := h.info % 16
  match getColl s g with
  | none => s
  | some x => match (cgroup s g).members.findIdx? fun d => d == h.src with
    | some j =>
      if x.seq % 65536 ≠ bits h.info 4 16 ∨ j = gRank s g ∨ x.fin.contains j then s
      else
        let back := if h.last then nsent x j - 16 * nret x j else 16
        let x := { x with ret := tset (fun _ => 0) x.ret j (nret x j + 1), fin := if h.last then x.fin ++ [j] else x.fin }
        collSteps (setUsed (setColl s x) h.src (e2eUsed s h.src - back))
    | none => s

/-- CABORT (R343). -/
def execCabort (n : Nat) (h : FlitHdr) (grp seq : Nat) (s : State) : Out := onFlit n 2 h s fun s =>
  if (cgroup s (grp % 16)).members.contains h.src || (cgroup s (grp % 16)).members.isEmpty then abortSeq s (grp % 16) seq else s

/-- COLLECTIVE_TIMEOUT (R343): the collective of group `g` has waited `COL.TIMEOUT` on its peers. -/
def execCollectiveTimeout (g : Nat) (s : State) : Out :=
  onUnit (decide (g < 16)) (live s (match getColl s g with
    | some x => collFail s x 0x91 0 true
    | none => s))

/-! ### Domain registers (R324, R345, R347) -/

/-- What a write to `DOM_CTRL` does beyond its fields: EN cleared fails collectives with 0x97 and window accesses. -/
def fxDomCtrl (old s : State) : State :=
  if rd old Reg.SKL0_DOM_CTRL_EN 0 = 1 ∧ rd s Reg.SKL0_DOM_CTRL_EN 0 = 0 then
    loseWindows (eachOf s.skl.colls s fun s x => collFail s x 0x97 0 false)
  else eachOf (List.range 32) s judgePort

/-- Registers locked while EN is set keep their values; ports are judged by the new ones. -/
def fxDomain (a : Nat) (old s : State) : State :=
  if rd old Reg.SKL0_DOM_CTRL_EN 0 = 1 then ww s a (rw old a)
  else loseWindows (eachOf (List.range 32) s judgePort)

/-- DOM_EN_CLEAR (R345): `v` is the word written to DOM_CTRL. -/
def execDomEnClear (ag : Agent) (v : Nat) (s : State) : Out :=
  .next (agentWrite ag Reg.SKL0_DOM_CTRL_EN 0 (v % 2 ^ 32) (fun old s => fxDomCtrl old s) s)

end Sys2Proof.Machine
end

