-- ==== Sys2Proof/Machine/HostExec.lean ====
section
/-! DEFINITION. Host link, host accesses, mailbox, capacity ports, Ethernet (R349 to R367). -/

namespace Sys2Proof.Machine

/-! ### Aperture 1 and coherence (R351 to R353) -/

/-- The host export entry an access goes through, of 16 (R351). -/
def hostEntry (s : State) (off : Nat) (write : Bool) : Option Nat :=
  (List.range 16).find? fun k =>
    let lo := rd s Reg.FUS_HEXP_HOFF k * 65536
    rd s Reg.FUS_HEXP_VALID k == 1 && decide (lo ≤ off) && decide (off < lo + rd s Reg.FUS_HEXP_NPAGES k * 65536) &&
    rd s (if write then Reg.FUS_HEXP_WR else Reg.FUS_HEXP_RD) k == 1

/-- The host is granted the lines of an access it caches; a full directory first gives up, by a recall, the line granted
least recently (R353). -/
def grantLines (s : State) (p da n : Nat) : State :=
  let ls := (List.range (cdiv (da + n) 128 - da / 128)).map fun k => (p, da / 128 + k)
  eachOf ls s fun s l =>
    let old := s.hst.dir.filter fun e => e != l
    let (old, rec) := match old with
      | e :: t => if old.length ≥ 2 ^ 20 then (t ++ [e], if s.hst.recalls.contains e then [] else [e]) else (old, [])
      | [] => (old, [])
    { s with hst := { s.hst with dir := old ++ [l], recalls := s.hst.recalls ++ rec } }

/-- Pages of a range that are to be zero-filled are, at the access. -/
def fillRange (s : State) (p da n : Nat) : State :=
  eachOf (pagesOf da n) s fun s g => match translate s p (g * 65536) false with
    | .zfill => zeroFill p g s
    | _ => s

/-- HOST_APERTURE_ACCESS (R351, R353): `cached` says whether the host keeps the lines. An access is served through the
entry of its first byte, whatever its size. The regulators may delay an access and
never stop it. A read through a window to a peer is answered once its data are here. -/
def execHostApertureAccess (off size : Nat) (isWr cached : Bool) (v : Nat) (s : State) : Out :=
  onUnit (decide (off < 2 ^ 40)) (.next (
    let ones (s : State) : State := if isWr then s else { s with rdata := 2 ^ (8 * size) - 1 }
    if reach s .host 1 = .dead then (if rd s Reg.FUS_LINK_STAT_UP 0 = 0 ∨ awake s = false then s else ones s)
    else match hostEntry s off isWr with
      | none => ones (hostErr s off 0)
      | some k =>
        let p := rd s Reg.FUS_HEXP_PART k
        let da := (rd s Reg.FUS_HEXP_DBASE_LO k * 65536 + 2 ^ 32 * rd s Reg.FUS_HEXP_DBASE_HI k + off -
          rd s Reg.FUS_HEXP_HOFF k * 65536) % 2 ^ 52
        let s := fillRange s p da size
        match probe s p da size isWr with
        | .flt _ kind _ => ones (hostErr (told s p (pagesOf da size)) off kind)
        | .wait _ => ones (hostErr s off 5)
        | .ok =>
          let serve (s : State) : State :=
            let s := bump2 (drawRange s p da size) Reg.CMD_PART_LED_PB_LO Reg.CMD_PART_LED_PB_HI p size
            if cached then grantLines s p da size else s
          if isWr then serve (claim (memWrite (abortOnWrite s p da size) p da size v) .host)
          else match winRead s p .host [(da, size)] with
            | .wait s => s
            | .flt s _ kind _ => ones (hostErr s off kind)
            | .ready => fresh (serve (dropRead { s with rdata := memRead s p da size } .host))))

/-- A line as the recall commands name it: partition and 128-byte line of its range. -/
def lineOf (k : Nat) : Nat × Nat := (k / 2 ^ 45, k % 2 ^ 45)

/-- RECALL (R353): a device write to a line the host holds recalls it. -/
def execRecall (line : Nat) (s : State) : Out :=
  onUnit (decide (line < 2 ^ 48)) (live s (
    let l := lineOf line
    if s.hst.dir.contains l && !s.hst.recalls.contains l then
      { s with hst := { s.hst with recalls := s.hst.recalls ++ [l] } } else s))

/-- RECALL_DONE (R353): the line is the device's again, and the write that waited goes on. -/
def execRecallDone (line : Nat) (s : State) : Out :=
  onUnit (decide (line < 2 ^ 48)) (live s (
    let l := lineOf line
    if s.hst.recalls.contains l then
      { s with hst := { s.hst with recalls := s.hst.recalls.filter (· != l), dir := s.hst.dir.filter (· != l) } }
    else s))

/-! ### The link (R349, R357) -/

/-- The host's lines and the link are gone (R357). -/
def unlink (s : State) : State :=
  wr { s with hst := { s.hst with dir := [], recalls := [] } } Reg.FUS_LINK_STAT_UP 0 0

/-- Fustra goes down (R357). -/
def linkLost (s : State) : State := raiseInt (bump (unlink s) Reg.FUS_LINK_STAT_DOWN_CNT 0 1) 0x0F 1

/-- RECALL_TIMEOUT (R353): a recall has gone `RECALL_TO` without an answer. -/
def execRecallTimeout (line : Nat) (s : State) : Out :=
  onUnit (decide (line < 2 ^ 48)) (live s (if s.hst.recalls.contains (lineOf line) then linkLost s else s))

/-- FUSTRA_DOWN (R357). -/
def execFustraDown (s : State) : Out := live s (if rd s Reg.FUS_LINK_STAT_UP 0 = 1 then linkLost s else s)

/-- Pending vectors that are not masked are sent, once each (R355, R357). -/
def sendPending (s : State) : State :=
  eachOf (List.range 64) s fun s v =>
    if rd s Reg.FUS_IVEC_PEND v = 1 ∧ rd s Reg.FUS_IVEC_MASK v = 0 then sendVec (wr s Reg.FUS_IVEC_PEND v 0) v else s

/-- FUSTRA_UP (R349, R357): generation 2 where the far end or MAXGEN asks for it; recovery trains at generation 2 (R402). -/
def execFustraUp (gen2 x8 : Bool) (s : State) : Out :=
  live s (if rd s Reg.FUS_LINK_STAT_UP 0 = 1 then s
    else
      let g := gen2 || rd s Reg.FUS_LINK_CTRL_MAXGEN 0 == 1 || rd s Reg.RST_MODE 0 == 3
      sendPending (wr (wr (wr s Reg.FUS_LINK_STAT_UP 0 1) Reg.FUS_LINK_STAT_GEN2 0 (oneIf g)) Reg.FUS_LINK_STAT_X8 0 (oneIf x8)))

/-- RETRAIN written: the link trains again; no loss is counted (DEDUCED, assumption 27). -/
def fxFusLink (v : Nat) (s : State) : State := if bit v 1 then unlink s else s
/-- FUS_RETRAIN (R365). -/
def execFusRetrain (ag : Agent) (s : State) : Out :=
  .next (agentWrite ag Reg.FUS_LINK_CTRL_RETRAIN 0 (rd s Reg.FUS_LINK_CTRL_MAXGEN 0 + 2)
    (fun _ s => fxFusLink (rd s Reg.FUS_LINK_CTRL_MAXGEN 0 + 2) s) s)

/-! ### Mailbox and interrupts (R355, R356) -/

/-- The message in MB_H2R: header and the bytes its LEN counts (R356). -/
def mailbox (s : State) : List Nat :=
  let l := (List.range 64).flatMap fun k => leBytes 4 (rd s Reg.FUS_MB_H2R k)
  l.take (4 + min 252 (l.getD 1 0))

/-- The firmware, or the ROM in recovery (R402), takes a message that stands in the mailbox, and clears GO. -/
def takeMail (s : State) : State :=
  if rd s Reg.FUS_MB_CTRL_H2R_GO 0 = 1 ∧ (rimRuns s ∨ rd s Reg.RST_MODE 0 = 3) then
    wr { s with hst := { s.hst with inbox := s.hst.inbox ++ [mailbox s] } } Reg.FUS_MB_CTRL_H2R_GO 0 0
  else s

/-- A message stands in MB_R2H: R2H_FULL and its interrupt bit (R355, R356). -/
def putMail (s : State) (l : List Nat) : State :=
  let s := eachOf (List.range (cdiv l.length 4)) s fun s k => wr s Reg.FUS_MB_R2H k (leNum ((l.drop (4 * k)).take 4))
  raiseInt (wr s Reg.FUS_MB_CTRL_R2H_FULL 0 1) 0x0F 0

/-- The device sends a message of at most 252 bytes; it waits while the host has not taken the one before (R356). -/
def sendMail (s : State) (typ seq : Nat) (body : List Nat) : State :=
  let l := leBytes 1 typ ++ leBytes 1 body.length ++ leBytes 2 seq ++ body
  if rd s Reg.FUS_MB_CTRL_R2H_FULL 0 = 1 ∨ !s.hst.outbox.isEmpty then { s with hst := { s.hst with outbox := s.hst.outbox ++ [l] } }
  else putMail s l

/-- What a write to MB_CTRL does beyond its fields. -/
def fxMbCtrl (v : Nat) (s : State) : State :=
  let s := if bit v 0 then takeMail (wr s Reg.FUS_MB_CTRL_H2R_GO 0 1) else s
  if rd s Reg.FUS_MB_CTRL_R2H_FULL 0 = 1 then s
  else match s.hst.outbox with
    | l :: rest => putMail { s with hst := { s.hst with outbox := rest } } l
    | [] => s

/-- H2R_GO (R356). -/
def execH2rGo (s : State) : Out := .next (agentWrite .host Reg.FUS_MB_CTRL_H2R_GO 0 1 (fun _ s => fxMbCtrl 1 s) s)

/-- A write to MB_H2R while GO is set (R356). -/
def fxMbH2r (a : Nat) (old s : State) : State :=
  if rd old Reg.FUS_MB_CTRL_H2R_GO 0 = 1 then pageErr (ww s a (rw old a)) Reg.HDR_ERR_SUM_MB_OVR 0x0F else s

/-- A vector's mask cleared with PEND set sends one message (R355). -/
def fxIvecMask (k : Nat) (s : State) : State :=
  if rd s Reg.FUS_IVEC_MASK k = 0 ∧ rd s Reg.FUS_IVEC_PEND k = 1 then sendVec (wr s Reg.FUS_IVEC_PEND k 0) k else s
/-- IVEC_MASK_WRITE (R355). -/
def execIvecMaskWrite (ag : Agent) (k v : Nat) (s : State) : Out :=
  onUnit (decide (k < 64)) (.next (agentWrite ag Reg.FUS_IVEC_MASK k (v % 2 ^ 32) (fun _ s => fxIvecMask k s) s))

/-- INT_SET (R433). -/
def execIntSet (ag : Agent) (page v : Nat) (s : State) : Out :=
  onUnit (pageExists page) (.next (regWrite ag (page * 0x1000 + 0x28) 4 (v % 2 ^ 32) noFx s))

/-! ### Capacity ports (R358 to R361) -/

/-- A capacity port the device has. -/
def capOk (n : Nat) : Bool := decide (n < 8)

/-- Usable frames of an expander's capacity (R360). -/
def framesOf (bytes : Nat) : Nat := min (2 ^ 25) (bytes / 67584 / 32 * 32)

/-- Free T3 frame segments, counted afresh over the ports that are up. -/
def t3Recount (s : State) : State :=
  let up := (List.range 8).filter fun n => rd s Reg.CAP_STAT_UP n == 1
  wr s Reg.XLT_T3_FREE 0 (sumNat (up.map fun n => rd s Reg.CAP_FRAMES n / 32 -
    (s.mem.fsegs.filter fun e => decide (fsegKey 1 (2 ^ 20 * n) ≤ e.1) && decide (e.1 < fsegKey 1 (2 ^ 20 * (n + 1)))).length))

/-- The firmware enumerates a port (R359). -/
def capScan (s : State) (n : Nat) (d : CxlDev) : State :=
  let up := d.present && d.fault == 0
  let cause := if !d.present then 1 else d.fault
  let s := wr (wr s Reg.CAP_STAT_UP n (oneIf up)) Reg.CAP_STAT_CAUSE n (if up then 0 else cause)
  let s := wr (wr s Reg.CAP_STAT_MODE n (if up then d.mode else 0)) Reg.CAP_STAT_X8 n (if up then oneIf d.x8 else 0)
  let s := wr s Reg.CAP_FRAMES n (if up then framesOf d.bytes else 0)
  t3Recount (wr2 s Reg.CAP_SERIAL_LO Reg.CAP_SERIAL_HI n (if up then d.serial else 0))

/-- A frame of the port holds LOCAL data. -/
def capHolds (s : State) (n : Nat) : Bool :=
  s.mem.segs.any (fun e => match e.2 with | some g => g.tier == 1 && g.frame / 2 ^ 20 == n | none => false) ||
  s.mem.migs.any (fun m => m.dstTier == 1 && m.dstFrame / 2 ^ 20 == n)

/-- RESCAN written (R359). -/
def fxRescan (n v : Nat) (d : CxlDev) (s : State) : State :=
  if !bit v 0 then s
  else if capHolds s n then pageErr s Reg.HDR_ERR_SUM_RSVD_WR (0x40 + n)
  else
    let was := rd s Reg.CAP_STAT_UP n
    let s := capScan s n d
    if was = 0 ∧ rd s Reg.CAP_STAT_UP n = 1 then raiseInt s (0x40 + n) 1
    else if was = 1 ∧ rd s Reg.CAP_STAT_UP n = 0 then raiseInt s (0x40 + n) 0 else s
/-- RESCAN as a plain write brings it: what the scan finds is the model's free value (assumption 1). -/
def fxRescanFree (n v : Nat) (s : State) : State :=
  let x := freeNat s
  let d : CxlDev := ⟨bit x 0, bits x 1 3, bit x 4, bits x 5 2, (Config.freeValue (s.fv + 1)).toNat, (Config.freeValue (s.fv + 2)).toNat⟩
  fresh (fresh (fresh (fxRescan n v d s)))
/-- RESCAN (R359): `dev` is what the scan finds. -/
def execRescan (ag : Agent) (n : Nat) (dev : CxlDev) (s : State) : Out :=
  onUnit (capOk n) (.next (agentWrite ag Reg.CAP_CTRL_RESCAN n 1 (fun _ s => fxRescan n 1 dev s) s))

/-- CAP_OFFLINE (R361, R364): the link fails beyond retry, or the expander reports a fatal error. -/
def execCapOffline (n : Nat) (fatal : Bool) (s : State) : Out :=
  onUnit (capOk n) (live s (
    if rd s Reg.CAP_STAT_UP n = 0 then s
    else
      let s := wr (wr s Reg.CAP_STAT_UP n 0) Reg.CAP_STAT_CAUSE n (if fatal then 6 else 4)
      let inPort (t f : Nat) : Bool := t == 1 && f / 2 ^ 20 == n
      let s := eachOf (s.mem.migs.filter fun m => inPort m.srcTier m.srcFrame || inPort m.dstTier m.dstFrame) s fun s m =>
        bump (abortMig s m) Reg.XLT_MIG_ABORT_ERR 0 1
      raiseInt (t3Recount (bump s Reg.CAP_OFFLINE_CNT n 1)) (0x40 + n) 0))

/-- CAP_RETRAIN (R361): an offline port trains again, and what it finds decides. -/
def execCapRetrain (n : Nat) (serial : Option Nat) (s : State) : Out :=
  onUnit (capOk n) (live s (
    let c := rd s Reg.CAP_STAT_CAUSE n
    if rd s Reg.CAP_STAT_UP n = 1 ∨ ¬(c = 4 ∨ c = 6) ∨ rd s Reg.CAP_FRAMES n = 0 then s
    else match serial with
      | none => s
      | some x =>
        if x % 2 ^ 64 = rd2 s Reg.CAP_SERIAL_LO Reg.CAP_SERIAL_HI n then
          raiseInt (t3Recount (wr (wr s Reg.CAP_STAT_UP n 1) Reg.CAP_STAT_CAUSE n 0)) (0x40 + n) 1
        else wr s Reg.CAP_STAT_CAUSE n 5))

/-! ### Ethernet (R362, R363, R367) -/

/-- An Ethernet port the device has. -/
def ethOk (n : Nat) : Bool := decide (n < 2)

def qpair (s : State) (n q : Nat) : QPair := tget (fun _ => QPair.idle) s.hst.qps (512 * n + q)
def setQpair (s : State) (n q : Nat) (x : QPair) : State :=
  { s with hst := { s.hst with qps := tset (fun _ => QPair.idle) s.hst.qps (512 * n + q) x } }

/-- QP_DB written: a queue pair's tail. Queue pair 0 is the firmware's (R363, assumption 28). -/
def fxQpDb (n v : Nat) (s : State) : State :=
  let q := v % 512
  if q = 0 then s else setQpair s n q { qpair s n q with tail := v / 512 % 2 ^ 23 }
/-- QP_DB (R363). -/
def execQpDb (ag : Agent) (n v : Nat) (s : State) : Out :=
  onUnit (ethOk n) (.next (agentWrite ag Reg.ETH_QP_DB n (v % 2 ^ 32) (fun _ s => fxQpDb n (v % 2 ^ 32) s) s))

/-- QP_SEL written: queue pair 0 is refused, and PART becomes the owner of the one selected (R367). -/
def fxQpSel (n : Nat) (old s : State) : State :=
  let s := if rd s Reg.ETH_QP_SEL_QP n = 0 then wr s Reg.ETH_QP_SEL_QP n (rd old Reg.ETH_QP_SEL_QP n) else s
  let q := rd s Reg.ETH_QP_SEL_QP n
  if q = 0 then s else setQpair s n q { qpair s n q with part := rd s Reg.ETH_QP_SEL_PART n }
/-- QP_SEL_WRITE (R367). -/
def execQpSelWrite (ag : Agent) (n v : Nat) (s : State) : Out :=
  onUnit (ethOk n) (.next (agentWrite ag Reg.ETH_QP_SEL_QP n (v % 2 ^ 32) (fun old s => fxQpSel n old s) s))

/-- The completion entry of a work request, in the layout of R249; PROGRESS, RESULT and COST are not said (assumption 28). -/
def ethRecord (s : State) (w : EthWr) (idx op status : Nat) : Nat :=
  leNum (leBytes 4 w.tag ++ leBytes 4 idx ++ [status, 0, 1, op] ++ leBytes 4 0 ++ leBytes 8 0 ++ leBytes 4 0 ++
    leBytes 4 (s.now % 2 ^ 32))

/-- A work request ends: its completion is written where one is asked for or it failed, and a failure puts the queue pair in
error (R363). -/
def ethDone (s : State) (n q : Nat) (w : EthWr) (op status : Nat) : State :=
  let x := qpair s n q
  let s := setQpair s n q { x with head := (x.head + 1) % 2 ^ 23, err := x.err || decide (status ≠ 0) }
  let cq := w.cq % 2 ^ 52
  if !w.signal && status == 0 then s
  else match probe s x.part cq 32 true with
    | .ok => memWrite (abortOnWrite (takeLines s x.part cq 32) x.part cq 32) x.part cq 32 (ethRecord s w x.head op status)
    | _ => s

/-- Frames a transfer takes: the spec gives no frame size, so their number is free (assumption 1). -/
def ethFrames (s : State) (n len : Nat) (tx : Bool) : State :=
  let f := freeNat s % len + 1
  fresh (bump (bump s (if tx then Reg.ETH_TX_FRAMES else Reg.ETH_RX_FRAMES) n f)
    (if tx then Reg.ETH_RX_FRAMES else Reg.ETH_TX_FRAMES) n 1)

/-- A work request is performed: faults of its local range end it, the regulators may make it wait (R363). -/
def ethWork (n q : Nat) (w : EthWr) (op : Nat) (write : Bool) (s : State) (f : State → Nat → State) : Out :=
  onUnit (ethOk n && decide (1 ≤ q) && decide (q < 512)) (live s (
    let x := qpair s n q
    let a := w.laddr % 2 ^ 52
    if intakeStopped s ∨ rd s Reg.ETH_LINK_STAT_UP n = 0 ∨ x.err ∨ x.head = x.tail ∨ w.len = 0 ∨ w.len > 2 ^ 31 then s
    else
      let s := fillRange s x.part a w.len
      match probe s x.part a w.len write with
      | .flt _ kind _ => ethDone (told s x.part (pagesOf a w.len)) n q w op (0x40 + kind)
      | .wait _ => ethDone s n q w op 0x45
      | .ok =>
        if !grantedRange s x.part a w.len then s
        else
          let s := chargePb (drawRange s x.part a w.len) x.part w.len
          ethFrames (ethDone (f s a) n q w op 0) n w.len (!write)))

/-- What an RDMA WRITE or a SEND sends. -/
def ethOut (n q : Nat) (w : EthWr) (op : Nat) (s : State) (a : Nat) : State :=
  fresh (emit s (.eth n q op w.raddr w.rkey (memList s (qpair s n q).part a w.len)))

/-- ETH_WRITE (R363). -/
def execEthWrite (n qp : Nat) (w : EthWr) (s : State) : Out := ethWork n qp w 1 false s (ethOut n qp w 1)
/-- ETH_READ (R363): `data` is what the far end answers. -/
def execEthRead (n qp : Nat) (w : EthWr) (data : List Nat) (s : State) : Out := ethWork n qp w 2 true s fun s a =>
  let p := (qpair s n qp).part
  let l := (data ++ (List.range (w.len - data.length)).map fun k => (Config.outsideByte s.fv 0x43 k).toNat).take w.len
  fresh (memWrite (abortOnWrite (takeLines s p a w.len) p a w.len) p a w.len (leNum l))
/-- ETH_SEND (R363). -/
def execEthSend (n qp : Nat) (w : EthWr) (s : State) : Out := ethWork n qp w 3 false s (ethOut n qp w 3)

/-- ETH_LINK_CHANGE (R355, R362): a link comes up only where `LINK_CTRL.EN` is set. -/
def execEthLinkChange (n : Nat) (up : Bool) (s : State) : Out :=
  onUnit (ethOk n) (live s (
    if up then
      if rd s Reg.ETH_LINK_STAT_UP n = 0 ∧ rd s Reg.ETH_LINK_CTRL_EN n = 1 then
        raiseInt (wr s Reg.ETH_LINK_STAT_UP n 1) (0x48 + n) 1 else s
    else if rd s Reg.ETH_LINK_STAT_UP n = 1 then raiseInt (wr s Reg.ETH_LINK_STAT_UP n 0) (0x48 + n) 0 else s))

/-- What a write to an Ethernet LINK_CTRL does beyond its fields: SPEED 3 is clamped, and a port not enabled is down (R367,
DEDUCED, assumption 39). -/
def fxEthLink (n : Nat) (s : State) : State :=
  let s := wr s Reg.ETH_LINK_CTRL_SPEED n (min 2 (rd s Reg.ETH_LINK_CTRL_SPEED n))
  if rd s Reg.ETH_LINK_CTRL_EN n = 0 ∧ rd s Reg.ETH_LINK_STAT_UP n = 1 then
    raiseInt (wr s Reg.ETH_LINK_STAT_UP n 0) (0x48 + n) 0 else s

/-- PFC_PAUSE_FRAME_RECEIVE (R362, R367): transmission on the priority pauses; when it goes on is a matter of time. -/
def execPfcPauseFrameReceive (n pri : Nat) (s : State) : Out :=
  onUnit (ethOk n && decide (pri < 8)) (live s (
    bump { s with hst := { s.hst with
        pfc := tset (fun _ => 0) s.hst.pfc n (tget (fun _ => 0) s.hst.pfc n ||| 2 ^ pri) } } Reg.ETH_PFC_PAUSE n 1))

end Sys2Proof.Machine
end

