-- ==== Sys2Proof/Machine/PowerExec.lean ====
section
/-! DEFINITION. Power, thermal limits, the scales, the rail interface, frequency steps and the power-fail sequence (chapter 14,
R394, R453, R454). -/

namespace Sys2Proof.Machine

def setPow (s : State) (p : Power) : State := { s with pow := p }

/-! ### Skips and frequency steps (R143, R372, R375, R394) -/

/-- The weaves that run: binding, which of its two, the weave. -/
def running (s : State) : List (Nat × Bool × Weave) :=
  (List.range 32).flatMap fun bd => [false, true].filterMap fun nw => match weaveOf s bd nw, invOf s bd nw with
    | some w, some _ => some (bd, nw, w)
    | _, _ => none

/-- The frequency the islands of a placement run at, or are stepping to. -/
def curFreq (s : State) (place : List Nat) : Nat := match place with
  | k :: _ => (isl s k).step.getD (rd s Reg.CLK_FREQ_MHZ k / 100)
  | [] => 10

def setPlan (s : State) (bd : Nat) (nw : Bool) (f : Option Nat) : State :=
  setPow s { s.pow with plan := tset (fun _ => none) s.pow.plan (2 * bd + oneIf nw) f }

/-- A skip of `n` rounds, from each island's next round boundary (R143). -/
def sendSkip (s : State) (place : List Nat) (n : Nat) : State :=
  eachOf place s fun s k => if inRounds s k then setIsl s k { isl s k with skips := (isl s k).skips + n } else s

/-- A weave's step is planned; on a fall it skips while the clock generators prepare, for a time from 0.5 to 1.0 µs that is
free (R375, assumption 1). A step up sends its rails first (R372). -/
def planWeave (s : State) (x : Nat × Bool × Weave) : State :=
  let f := weaveFreq s x.2.2.part
  let cur := curFreq s x.2.2.place
  if f = cur then setPlan s x.1 x.2.1 none
  else if planOf s x.1 x.2.1 = some f then s
  else if f < cur then
    let l := match x.2.2.place with | k :: _ => rd s Reg.ISL_FAB_SLOT_LEN k + 1 | [] => 1
    let t := 500 + freeNat s % 501
    fresh (sendSkip (setPlan s x.1 x.2.1 (some f)) x.2.2.place (t * cur / (10 * l)))
  else setPlan s x.1 x.2.1 (some f)

/-- Every running weave's step is planned anew, and the rails follow. -/
def replan (s : State) : State := followRails (eachOf (running s) s planWeave)

/-- A rail of the placement's dies has not settled. -/
def railsBusy (s : State) (place : List Nat) : Bool := place.any fun k => tget (fun _ => false) s.pow.railWait (k / 8)

/-- The weaves of a binding that run. -/
def runningOn (s : State) (bd : Nat) : List (Nat × Bool × Weave) := (running s).filter fun x => x.1 == bd

/-- STEP_PREPARED (R394): the idle loop has locked; the islands freeze at their next round boundary. -/
def execStepPrepared (bd ns : Nat) (s : State) : Out :=
  onUnit (bd < 32) (live s (eachOf (runningOn s bd) s fun s x =>
    match planOf s x.1 x.2.1 with
    | none => s
    | some f =>
      if (x.2.2.place.any fun k => (isl s k).step.isSome) ∨ (f > curFreq s x.2.2.place ∧ railsBusy s x.2.2.place) then s
      else
        let s := wr s Reg.CLK_PREP_MAX 0 (max (rd s Reg.CLK_PREP_MAX 0) (min ns (2 ^ 32 - 1)))
        eachOf x.2.2.place (setPlan s x.1 x.2.1 none) fun s k => setIsl s k { isl s k with step := some f }))

/-- Freeze counters of an island (R166). -/
def frzSum (s : State) (k : Nat) : Nat :=
  sumNat ((List.range 11).map fun j => (rw s (0x10444 + 0x1000 * k + 4 * j)).toNat)

/-- An island's clock changes over: frequency and step log (R168, R178, R179). -/
def switchClock (s : State) (k f gap : Nat) : State :=
  let n := rd s Reg.ISL_WV_STAT_STEPS k
  let e := min n 15
  let put (s : State) (g : Fld) (v : Nat) : State := ww s (g.addr k + 16 * e) (setF g.lo g.w v (rw s (g.addr k + 16 * e)))
  let s := put s Reg.ISL_STEP_ROUND (rd s Reg.ISL_WV_RND k)
  let s := put s Reg.ISL_STEP_FRZ (min (frzSum s k) (2 ^ 32 - 1))
  let s := put s Reg.ISL_STEP_F_OLD (rd s Reg.CLK_FREQ_MHZ k)
  let s := put (put s Reg.ISL_STEP_F_NEW (100 * f)) Reg.ISL_STEP_GAP_NS (min gap 0xFFFF)
  let s := if n ≥ 16 then wr s Reg.ISL_WV_STAT_LOG_OVF k 1 else s
  wr (wr s Reg.ISL_WV_STAT_STEPS k (min (n + 1) 31)) Reg.CLK_FREQ_MHZ k (100 * f)

/-- CLOCK_SWITCH (R143, R394): every island of the weave is frozen; its clocks change over. -/
def execClockSwitch (bd gap : Nat) (s : State) : Out :=
  onUnit (bd < 32) (live s (eachOf (runningOn s bd) s fun s x =>
    let todo := x.2.2.place.filter fun k => (isl s k).step.isSome && inRounds s k
    if todo.isEmpty ∨ todo.any (fun k => !(isl s k).stepping) ∨
        todo.any (fun k => (isl s k).step == some (rd s Reg.CLK_FREQ_MHZ k / 100)) then s
    else
      let s := eachOf x.2.2.place s fun s k => match (isl s k).step with
        | some f => if inRounds s k then switchClock s k f gap else wr s Reg.CLK_FREQ_MHZ k (100 * f)
        | none => s
      wr s Reg.CLK_GAP_MAX 0 (max (rd s Reg.CLK_GAP_MAX 0) (min gap (2 ^ 32 - 1)))))

/-- The clock of an island has been switched and not restarted (R394). -/
def inGap (s : State) (k : Nat) : Bool :=
  (isl s k).stepping && (isl s k).step == some (rd s Reg.CLK_FREQ_MHZ k / 100)

/-- STEP_RESUME (R394): all islands restart together; rails may now fall (R372). -/
def execStepResume (bd : Nat) (s : State) : Out :=
  onUnit (bd < 32) (live s (followRails (eachOf (runningOn s bd) s fun s x =>
    if !(x.2.2.place.any (inGap s)) then s
    else
      let s := eachOf x.2.2.place s fun s k => noteHold (setIsl s k { isl s k with step := none, stepping := false }) k
      planWeave (bump s Reg.CLK_STEP_CNT 0 1) x)))

/-! ### Braking (R375, R377, R378, R381) -/

/-- Whether any brake is in force, and what follows when that changes (R378, R389). -/
def setBrake (s : State) : State :=
  let b := s.pow.pin || s.pow.hot || s.pow.alert || s.pow.pfBrake || rd s Reg.PWR_STAT_SLOPE 0 == 1
  let was := rd s Reg.PWR_STAT_BRAKE 0 == 1
  if b && !was then
    let s := bump (wr s Reg.PWR_STAT_BRAKE 0 1) Reg.PWR_BRAKE_CNT 0 1
    raiseInt (setPow s { s.pow with full := true }) 0x08 2
  else if !b && was then
    let s := wr s Reg.PWR_STAT_BRAKE 0 0
    let s := if s.pow.full then wr s Reg.PWR_STAT_D 0 15 else s
    setPow s { s.pow with full := false, want := 0 }
  else s

/-- BRAKE_ASSERT (R378). -/
def execBrakeAssert (s : State) : Out := live s (setBrake (setPow s { s.pow with pin := true }))
/-- BRAKE_RELEASE (R378). -/
def execBrakeRelease (s : State) : Out := live s (setBrake (setPow s { s.pow with pin := false }))

/-- DUTY_STEP (R377): D falls by one, towards what the last evaluation asks for. -/
def execDutyStep (s : State) : Out :=
  live s (if rd s Reg.PWR_STAT_BRAKE 0 = 0 ∧ rd s Reg.PWR_STAT_D 0 > s.pow.want ∧ rimRuns s
    then down s Reg.PWR_STAT_D 0 1 else s)

/-! ### Package power and the cap (R373 to R376, R383) -/

/-- POWER_ESTIMATE (R373): the last microsecond's power and the 100 µs average, in watts. -/
def execPowerEstimate (w avg : Nat) (s : State) : Out :=
  live s (
    let e := s.pow.energyUj + w
    let s := setPow s { s.pow with energyUj := e % 1000 }
    wr (bump2 s Reg.PWR_ENERGY_LO Reg.PWR_ENERGY_HI 0 (e / 1000)) Reg.PWR_PKG_W 0 (min avg 0xFFFF))

/-- The effective cap (R374, R383). -/
def effCap (s : State) : Nat :=
  let l := rd s Reg.PWR_CAP_CTRL_LIMIT 0
  if rd s Reg.PWR_STAT_SAFE 0 = 1 then min l (max (l * rd s Reg.PWR_SAFE_PCT 0 / 100) (l * 40 / 100)) else l

def setCap (s : State) : State := wr s Reg.PWR_EFF_CAP 0 (effCap s)

/-- The excess of an evaluation (R376). -/
def overrun (s : State) : State :=
  let p := rd s Reg.PWR_PKG_W 0
  let cap := rd s Reg.PWR_EFF_CAP 0
  if p ≤ cap then s
  else
    let e := s.pow.overUj + (p - cap) * 10
    let zero := rd s Reg.PWR_OVERRUN 0 == 0
    let s := bump (setPow s { s.pow with overUj := e % 1000 }) Reg.PWR_OVERRUN 0 (e / 1000)
    let s := wr s Reg.PWR_OVR_MAX 0 (max (rd s Reg.PWR_OVR_MAX 0) (p - cap))
    if zero then raiseInt s 0x08 6 else s

/-- The least skip duty whose estimate is at most `lim`. -/
def leastDuty (duty : List Nat) (lim : Nat) : Option Nat := (List.range 16).find? fun d => match duty[d]? with
  | some w => decide (w ≤ lim)
  | none => false

/-- The highest grid point whose estimate meets the cap (R374): `est` lists the estimates from 1.0 GHz up. -/
def bestPoint (s : State) (est : List Nat) (cap : Nat) : Option Nat :=
  ((List.range (gradeMax s - 9)).reverse.find? fun i => match est[i]? with
    | some w => decide (w ≤ cap)
    | none => false).map (· + 10)

/-- CAP_EVALUATION (R374 to R376, R378): `est` estimates by point, `duty` by skip duty. The firmware's restart holds point
and duty (R445). -/
def execCapEvaluation (est duty : List Nat) (s : State) : Out :=
  live s (
    let s := overrun s
    if !rimRuns s then s
    else if rd s Reg.PWR_STAT_BRAKE 0 = 1 then
      if rd s Reg.PWR_STAT_DEEP 0 = 1 then s
      else match leastDuty duty (rd s Reg.PWR_CAP_CTRL_LIMIT 0 * 40 / 100) with
        | some d => setPow (wr s Reg.PWR_STAT_D 0 d) { s.pow with full := false }
        | none => setPow s { s.pow with full := true }
    else
      let cap := rd s Reg.PWR_EFF_CAP 0
      match bestPoint s est cap with
      | some f =>
        let s := setPow s { s.pow with want := 0 }
        replan (if f < rd s Reg.PWR_STAT_POINT 0 then wr s Reg.PWR_STAT_POINT 0 f else s)
      | none =>
        let d := (leastDuty duty cap).getD 15
        let s := setPow (wr s Reg.PWR_STAT_D 0 (max d (rd s Reg.PWR_STAT_D 0))) { s.pow with want := d }
        replan (wr s Reg.PWR_STAT_POINT 0 10))

/-- POINT_RAISE (R375): one step up, where its estimate meets the cap. -/
def execPointRaise (est : List Nat) (s : State) : Out :=
  live s (
    let f := rd s Reg.PWR_STAT_POINT 0
    if rimRuns s ∧ rd s Reg.PWR_STAT_BRAKE 0 = 0 ∧ f < gradeMax s ∧
        (match est[f - 9]? with | some w => decide (w ≤ rd s Reg.PWR_EFF_CAP 0) | none => false) = true
    then replan (wr s Reg.PWR_STAT_POINT 0 (f + 1)) else s)

/-- What a write to LIMIT does (R374, R383, R388). -/
def fxLimit (s : State) : State :=
  let l := max 1200 (min (gradeW s) (rd s Reg.PWR_CAP_CTRL_LIMIT 0))
  setCap (wr (wr s Reg.PWR_CAP_CTRL_LIMIT 0 l) Reg.PWR_STAT_SAFE 0 0)
/-- LIMIT_WRITE (R374). -/
def execLimitWrite (ag : Agent) (v : Nat) (s : State) : Out :=
  .next (agentWrite ag Reg.PWR_CAP_CTRL_LIMIT 0 (v % 2 ^ 32) (fun _ s => fxLimit s) s)

/-- What a write to HB does (R383). -/
def fxHb (s : State) : State := wr s Reg.PWR_STAT_HBLOST 0 0
/-- HB (R383). -/
def execHb (ag : Agent) (v : Nat) (s : State) : Out :=
  .next (agentWrite ag Reg.PWR_HB 0 (v % 2 ^ 32) (fun _ s => fxHb s) s)

/-- HB_TIMEOUT (R383). -/
def execHbTimeout (s : State) : Out :=
  live s (if rd s Reg.PWR_HB_CTRL_EN 0 = 1 ∧ rd s Reg.PWR_STAT_HBLOST 0 = 0
    then raiseInt (wr s Reg.PWR_STAT_HBLOST 0 1) 0x08 4 else s)

/-- SAFE_CAP_ENGAGE (R383). -/
def execSafeCapEngage (s : State) : Out :=
  live s (if rd s Reg.PWR_HB_CTRL_EN 0 = 1 ∧ rd s Reg.PWR_STAT_HBLOST 0 = 1 ∧ rd s Reg.PWR_STAT_SAFE 0 = 0
    then raiseInt (setCap (wr s Reg.PWR_STAT_SAFE 0 1)) 0x08 4 else s)

/-! ### The power-fail sequence (R385, R386) -/

/-- CRC-32C, bit by bit (the polynomial and form are the usual ones, assumption 31). -/
def crc32cBits : Nat → Nat → Nat
  | 0, c => c
  | n + 1, c => crc32cBits n (if c % 2 = 1 then (c / 2) ^^^ 0x82F63B78 else c / 2)
def crc32c (l : List Nat) : Nat := (l.foldl (fun c b => crc32cBits 8 (c ^^^ (b % 256))) 0xFFFFFFFF) ^^^ 0xFFFFFFFF

/-- A command's record is written where its write completes, else it goes to the journal (R385 step 3). -/
def flushRecord (x : State × List Cmd) (c : Cmd) : State × List Cmd :=
  let s := x.1
  let p := partOf c.ring
  let a := ringBase s c.ring + 64 * ringSize s c.ring + 32 * (c.idx % ringSize s c.ring)
  let behind := tget (fun _ => false) s.front.recHeld c.ring || x.2.any (fun y => y.ring == c.ring)
  match probe s p a 32 true with
  | .ok =>
    if behind || s.hst.dir.any (fun e => e.1 == p && e.2 == a / 128) then (s, x.2 ++ [c])
    else (recordDone (memWrite (abortOnWrite s p a 32) p a 32 (recordOf s c)) c, x.2)
  | _ => (s, x.2 ++ [c])

/-- The islands of every running weave stop with nothing saved (R385 step 2). -/
def dropWeaves (s : State) : State :=
  eachOf (running s) s fun s x =>
    let s := setInv (idleIslands (dropHeld s x.2.2.place) x.2.2.place) x.1 x.2.1 none
    if rd s Reg.WVE_BIND_STATE x.1 = 3 then wr s Reg.WVE_BIND_STATE x.1 2 else s

/-- What is in flight is abandoned where it stands (R385 step 2). -/
def abandonAll (s : State) : State :=
  let s := eachOf s.mem.migs (dropWeaves s) abortMig
  { s with
    front := { s.front with fetched := [], inflight := [] }
    wve := { s.wve with yields := [], restores := [] }
    srv := { s.srv with moves := [], needs := [] }
    skl := { s.skl with reqs := [], colls := [], regs := [] }
    mem := { s.mem with locks := [] } }

/-- `n` little-endian bytes of each of a list's numbers. -/
def packNums (n : Nat) (l : List Nat) : List Nat := l.flatMap (leBytes n)

/-- A ring's entry in the closing record (R386). -/
def closeRing (s : State) (r : Nat) : List Nat :=
  packNums 4 [rd s Reg.CMD_RING_HEAD r, (rw s (0x1F00 + 4 * r)).toNat, rd s Reg.CMD_RING_LOW r, rd s Reg.CMD_RING_CQ_HEAD r,
    (rw s (Reg.CMD_RING_CFG_STATE.addr r)).toNat, ((tget (fun _ => none) s.front.topRet r).getD (freeNat s)) % 2 ^ 32, 0, 0]

/-- A sampler slot's entry (R386); the order of its fields is the model's (assumption 31). -/
def closeSlot (s : State) (k : Nat) : List Nat :=
  let x := sslot s k
  padTo 32 (leBytes 1 (oneIf (slotOpen s k)) ++ leBytes 1 x.part ++ leBytes 6 0 ++ leBytes 8 x.seed ++ leBytes 4 x.step ++
    leBytes 4 (oneIf x.lossy))

/-- The closing record but for its commit field, offsets 0 to 0x2_49BF (R386). -/
def closingBody (s : State) (journal : List Cmd) : List Nat :=
  padTo 64 ([0x4E, 0x4D, 0x43, 0x52] ++ leBytes 2 1 ++ leBytes 2 (if s.pow.cause = 2 then 2 else 1) ++ leBytes 8 s.now ++
    leBytes 4 journal.length ++ leBytes 4 (rd s Reg.PWR_TRIP_CNT 0)) ++
  (List.range 64).flatMap (closeRing s) ++
  padTo 131072 (journal.flatMap fun c => leBytes 32 (recordOf s c)) ++
  (List.range 8).flatMap (fun p =>
    leBytes 8 (rd2 s Reg.CMD_PART_LED_ISL_LO Reg.CMD_PART_LED_ISL_HI p) ++
    leBytes 8 (rd2 s Reg.CMD_PART_LED_PB_LO Reg.CMD_PART_LED_PB_HI p)) ++
  (List.range 2048).flatMap (fun k => leBytes 4 (semVal s (k / 256) (k % 256))) ++
  (List.range 256).map (fun b => ofBits ((List.range 8).filter fun j => semErr s (b / 32) (b % 32 * 8 + j))) ++
  (List.range 128).flatMap (closeSlot s) ++
  (List.range 4096).map fun i => (Config.outsideByte s.fv 0x44 i).toNat

/-- First byte of the closing region in T3, where its port is up (R384). -/
def regionAt (s : State) : Option Nat := s.pow.region.bind fun f =>
  if rd s Reg.CAP_STAT_UP (f / 2 ^ 20) = 1 then some (f * 2 ^ 21) else none

def putT3 (s : State) (a : Nat) (l : List Nat) : State :=
  { s with mem := { s.mem with t3 := tstore (fun _ => 0) s.mem.t3 a l.length (leNum l) } }

/-- The closing record is written, its commit field last (R385 step 4, R386). -/
def writeClosing (s : State) (journal : List Cmd) : State := match regionAt s with
  | none => s
  | some a =>
    let body := closingBody s journal
    let commit := padTo 64 (leBytes 4 0x434C4F53 ++ leBytes 4 (rd s Reg.RST_BOOT_CNT 0) ++ leBytes 4 (crc32c body))
    putT3 (putT3 (fresh (fresh s)) a body) (a + 0x249C0) commit

/-- Grace has ended: abandon, flush, close, halt (R385 steps 2 to 5); a trip drives `THERMTRIP_N` low (R382). -/
def closeDown (s : State) : State :=
  let s := abandonAll s
  let x := s.front.retired.foldl flushRecord (s, [])
  let s := writeClosing x.1 x.2
  let s := { s with front := { s.front with retired := [] } }
  wr (setPow s { s.pow with pfail := false, tripLow := s.pow.tripLow || decide (s.pow.cause ≥ 2) }) Reg.PWR_STAT_PFHALT 0 1

/-- The sequence of R385 begins. -/
def startPfail (s : State) (cause : Nat) : State :=
  let s := bump s Reg.PWR_PF_CNT 0 1
  setBrake (setPow s { s.pow with
    pfail := true, cause := cause, pfBrake := s.pow.pfBrake || rd s Reg.PWR_PFAIL_CTRL_BRK 0 == 1 })

/-- POWER_FAIL (R385). -/
def execPowerFail (s : State) : Out := live s (if s.pow.pfail then s else startPfail s 1)

/-- PFAIL_GRACE_END (R385). -/
def execPfailGraceEnd (s : State) : Out := live s (if s.pow.pfail then closeDown s else s)

/-- Trip (R382, R388): the sequence without grace; one under way goes on without further grace. -/
def trip (s : State) : State :=
  let s := bump s Reg.PWR_TRIP_CNT 0 1
  closeDown (if s.pow.pfail then setPow s { s.pow with cause := 3 } else startPfail s 2)

/-- What a write of 1 to CREC.ACK does (R386). -/
def fxCrecAck (v : Nat) (s : State) : State :=
  if bit v 24 then (match regionAt s with | some a => putT3 s (a + 0x249C0) (List.replicate 64 0) | none => s) else s
/-- CREC_ACK (R386). -/
def execCrecAck (s : State) : Out :=
  .next (
    let v := rd s Reg.PWR_CREC_PORT 0 + 2 ^ 3 * rd s Reg.PWR_CREC_SEG 0 + 2 ^ 24
    agentWrite .host Reg.PWR_CREC_ACK 0 v (fun _ s => fxCrecAck v s) s)

/-! ### Temperatures (R368, R369, R379 to R382) -/

/-- A sensor's last reading in 0.125 °C, where it is valid. -/
def tempOf (s : State) (k : Nat) : Option Int :=
  if rd s Reg.SCL_TEMP_VALID k = 1 then some (sext 12 (rd s Reg.SCL_TEMP_VAL k)) else none

/-- Every sensor of island `n` is marked invalid (R369). -/
def blind (s : State) (n : Nat) : Bool := (List.range 5).all fun j => tget (fun _ => false) s.pow.bad (5 * n + j)

/-- The hottest valid sensor: number and reading. -/
def hottest (s : State) : Option (Nat × Int) :=
  (List.range 176).foldl (fun a k => match tempOf s k with
    | none => a
    | some t => match a with
      | none => some (k, t)
      | some (_, u) => if t > u then some (k, t) else a) none

/-- The package's temperature as the thresholds see it: an island with no valid sensor stands at Throttle (R369, R379). -/
def pkgTemp (s : State) : Option Int :=
  let h := (hottest s).map Prod.snd
  if (List.range 32).any (blind s) then
    let t : Int := 8 * rd s Reg.PWR_THERM_THROT 0
    some (match h with | some x => max x t | none => t)
  else h

/-- The thresholds judged (R379). -/
def judgeTemps (s : State) : State :=
  let s := match hottest s with
    | some (k, t) => wr (wr s Reg.PWR_HOT_IDX 0 k) Reg.PWR_HOT_TEMP 0 (toField 12 t)
    | none => s
  match pkgTemp s with
  | none => s
  | some t =>
    let w : Int := 8 * rd s Reg.PWR_THERM_WARN 0
    let s := if !s.pow.warn && decide (t ≥ w) then raiseInt (setPow s { s.pow with warn := true }) 0x08 0
      else if s.pow.warn && decide (t ≤ w - 24) then setPow s { s.pow with warn := false } else s
    let s := if !s.pow.hot && decide (t ≥ 864) then setBrake (setPow s { s.pow with hot := true })
      else if s.pow.hot && decide (t ≤ 840) then setBrake (setPow s { s.pow with hot := false }) else s
    if t ≥ 944 then trip s else s

/-- TEMP_SAMPLE (R368, R369): sensor `k` reads `raw` eighths of a degree. -/
def execTempSample (k : Nat) (raw : Int) (s : State) : Out :=
  onUnit (k < 176) (live s (
    let same := decide (rd s Reg.SCL_TEMP_VAL k = toField 12 raw)
    let runs := decide (k < 160) && rd s Reg.ISL_WV_STAT_RUN (k / 5) == 1
    let n := if same && runs then tget (fun _ => 0) s.pow.same k + 1 else 0
    let was := tget (fun _ => false) s.pow.bad k
    let bad := decide (raw < -320) || decide (raw > 1200) || decide (n ≥ 500) || (was && same)
    let s := setPow s { s.pow with
      same := tset (fun _ => 0) s.pow.same k n, bad := tset (fun _ => false) s.pow.bad k bad }
    let s := wr (wr s Reg.SCL_TEMP_VAL k (toField 12 raw)) Reg.SCL_TEMP_VALID k (oneIf !bad)
    let c := (s.pow.bad.filter fun e => e.2).length
    let s := if rd s Reg.SCL_BAD_CNT 0 ≤ 16 ∧ c > 16 then raiseInt (raiseInt s 0x08 5) 0x09 0 else s
    judgeTemps (wr s Reg.SCL_BAD_CNT 0 c)))

/-- Sensors of a placement: its islands', and the stack base dies' of its compute dies (R10, R380). -/
def partSensors (s : State) (p : Nat) : List Nat :=
  let isles := ((running s).filter fun x => x.2.2.part == p).flatMap fun x => x.2.2.place
  isles.flatMap (fun k => (List.range 5).map fun j => 5 * k + j) ++
  ((isles.map (· / 8)).eraseDups).flatMap fun j => [160 + 2 * j, 161 + 2 * j]

/-- Some sensor of the partition stands at or above `lim` eighths, or an island of it has none valid (R369, R380). -/
def partHot (s : State) (p : Nat) (lim : Int) : Bool :=
  (partSensors s p).any (fun k => match tempOf s k with | some t => decide (t ≥ lim) | none => false) ||
  ((running s).filter fun x => x.2.2.part == p).any fun x => x.2.2.place.any (blind s)

/-- THERMAL_TARGET_FALL (R380). -/
def execThermalTargetFall (p : Nat) (s : State) : Out :=
  onUnit (p < 8) (live s (
    if !partHot s p (8 * rd s Reg.PWR_THERM_THROT 0) then s
    else
      let t := rd s Reg.PWR_TTGT p
      let n := max 10 (min t (weaveFreq s p) - 1)
      let s := wr s Reg.PWR_TTGT p n
      replan (if t = gradeMax s ∧ n < t then raiseInt s 0x08 1 else s)))

/-- THERMAL_TARGET_RISE (R380). -/
def execThermalTargetRise (p : Nat) (s : State) : Out :=
  onUnit (p < 8) (live s (
    if partHot s p (8 * rd s Reg.PWR_THERM_THROT 0 - 24) ∨ rd s Reg.PWR_TTGT p ≥ gradeMax s then s
    else replan (up s Reg.PWR_TTGT p 1)))

/-- Slope braking and deep brake end (R381). -/
def endSlope (s : State) : State :=
  if rd s Reg.PWR_STAT_SLOPE 0 = 0 then s
  else replan (setBrake (wr (wr s Reg.PWR_STAT_SLOPE 0 0) Reg.PWR_STAT_DEEP 0 0))

/-- SLOPE_EVAL (R381): the slope in 0.01 K/s. -/
def execSlopeEval (v : Int) (s : State) : Out :=
  live s (
    let x := max (-32768) (min 32767 v)
    let s := wr s Reg.PWR_STAT_SLOPE_V 0 (toField 16 x)
    let s := setPow s { s.pow with
      steep := if v > 500 then s.pow.steep + 1 else 0, calm := if v ≤ 100 then s.pow.calm + 1 else 0 }
    if rd s Reg.PWR_STAT_SLOPE 0 = 0 then
      if s.pow.steep ≥ 2 then setBrake (raiseInt (wr s Reg.PWR_STAT_SLOPE 0 1) 0x08 3) else s
    else if s.pow.calm ≥ 1000 ∧ (match pkgTemp s with | some t => decide (t < 8 * rd s Reg.PWR_THERM_WARN 0) | none => true) = true
      then endSlope s else s)

/-- DEEP_BRAKE_CHECK (R381). -/
def execDeepBrakeCheck (v : Int) (s : State) : Out :=
  live s (
    if rd s Reg.PWR_STAT_SLOPE 0 = 0 ∨ rd s Reg.PWR_STAT_DEEP 0 = 1 ∨ v ≤ 500 then s
    else
      let s := raiseInt (wr s Reg.PWR_STAT_DEEP 0 1) 0x08 3
      replan (setPow s { s.pow with full := true }))

/-- What a write of 1 to SREL does (R381). -/
def fxSrel (v : Nat) (s : State) : State := if bit v 0 then endSlope s else s
/-- SREL (R381). -/
def execSrel (ag : Agent) (s : State) : Out := .next (agentWrite ag Reg.PWR_THERM_CTRL_SREL 0 1 (fun _ s => fxSrel 1 s) s)

/-! ### Droop, process monitors, rails (R368, R370, R372, R454) -/

/-- Droop monitor `m` watches domain `d` (R11, R368): which of its two domains an I/O die's monitor watches is not said. -/
def watches (m d : Nat) : Bool :=
  if m < 64 then m / 2 == d else if m < 80 then 32 + (m - 64) / 4 == d
  else if m < 88 then d == 36 || d == 38 else decide (m < 96) && (d == 37 || d == 39)

/-- DROOP_DETECT (R370, R388, R404): monitor `m` reads a droop of `mv`, and the domain loses `edges` clock edges. -/
def execDroopDetect (d m mv edges : Nat) (s : State) : Out :=
  onUnit (decide (d < 40) && watches m d) (live s (
    let s := wr s Reg.SCL_DMON_WORST m (max (rd s Reg.SCL_DMON_WORST m) (min mv 1023))
    if mv ≤ rd s Reg.CLK_DROOP_THR_MV d ∨ (d < 32 ∧ inGap s d = true) then s
    else
      let s := bump (setPow s { s.pow with droop := tset (fun _ => false) s.pow.droop d true }) Reg.SCL_DROOP d edges
      if d < 32 ∧ inRounds s d = true ∧ (ownCause s d = 0 ∨ ownCause s d = 8) then bump s Reg.ISL_FRZ_STEP d edges else s))

/-- DROOP_RECOVERY (R370). -/
def execDroopRecovery (d : Nat) (s : State) : Out :=
  onUnit (d < 40) (live s (setPow s { s.pow with droop := tset (fun _ => false) s.pow.droop d false }))

/-- PMON_READ (R368, R372): the process monitors' codes; the V/f tables, and so the rails, follow. -/
def execPmonRead (codes : List Nat) (s : State) : Out :=
  live s (if !rimRuns s then s
    else followRails (eachOf (List.range 48) s fun s m => match codes[m]? with
      | some c => wr s Reg.SCL_PMON_SPEED m c
      | none => s))

/-- Steps up that wait for a die's rail are given up (R454). -/
def dropSteps (s : State) (j : Nat) : State :=
  eachOf (running s) s fun s x => match planOf s x.1 x.2.1 with
    | some f => if f > curFreq s x.2.2.place ∧ x.2.2.place.any (fun k => k / 8 == j) then setPlan s x.1 x.2.1 none else s
    | none => s

/-- VRC_STAT_POLL (R453, R454): the rail's STAT; `late` when the slew time and 100 µs have passed. -/
def execVrcStatPoll (j stat : Nat) (late : Bool) (s : State) : Out :=
  onUnit (j < 4) (live s (
    if !(tget (fun _ => false) s.pow.railWait j) then s
    else
      let s := wr (emit s (.vrc (vrcFrame j 2 0))) Reg.PWR_VRC_STAT j stat
      let stop (s : State) : State := setPow s { s.pow with railWait := tset (fun _ => false) s.pow.railWait j false }
      if bit stat 0 then stop s
      else if late then
        let s := dropSteps (stop s) j
        if s.pow.alert then s else bump s Reg.PWR_VRC_TO 0 1
      else s))

/-- VRC_ALERT (R454): the brake, and every rail's STAT. -/
def execVrcAlert (stats : List Nat) (s : State) : Out :=
  live s (if s.pow.alert then s
    else
      let s := bump (setBrake (setPow s { s.pow with alert := true })) Reg.PWR_VRC_ALERT 0 1
      eachOf (List.range 4) s fun s j =>
        let s := emit s (.vrc (vrcFrame j 2 0))
        match stats[j]? with | some v => wr s Reg.PWR_VRC_STAT j v | none => s)

/-- VRC_ALERT_RELEASE (R454): CLEAR is sent, and the brake ends. -/
def execVrcAlertRelease (s : State) : Out :=
  live s (if !s.pow.alert then s
    else
      let s := eachOf (List.range 4) s fun s j => emit s (.vrc (vrcFrame j 4 0))
      setBrake (setPow s { s.pow with alert := false }))

end Sys2Proof.Machine
end

