-- ==== Sys2Proof/Machine/BootExec.lean ====
section
/-! DEFINITION. Clocks, resets, boot, device modes, recovery, and what of the security block a boot uses: slots, images,
measurements, the settings store (chapters 15 and 16). -/

namespace Sys2Proof.Machine

def setSec (s : State) (x : Security) : State := { s with sec := x }
def setFlash (s : State) (f : Flash) : State := { s with sec := { s.sec with flash := f } }

/-! ### Boot record, slots, images (R414 to R416) -/

/-- Of two copies, which is in force: the higher sequence number among those whose CRC is valid (R415, R420). -/
def newer (ok0 ok1 : Bool) (n0 n1 : Nat) : Option Nat :=
  if ok0 && (!ok1 || decide (n0 ≥ n1)) then some 0 else if ok1 then some 1 else none

def bootCopy (f : Flash) (k : Nat) : BootRec := f.boot.getD k ⟨0, 0, 0, 0, 0, false⟩
def bootLive (f : Flash) : Option Nat := newer (bootCopy f 0).crcOk (bootCopy f 1).crcOk (bootCopy f 0).seq (bootCopy f 1).seq

/-- The boot record in force; with no valid copy, both slots EMPTY. -/
def bootRec (f : Flash) : BootRec := match bootLive f with
  | some k => bootCopy f k
  | none => ⟨0, 0, 0, 0, 0, true⟩

/-- A rewrite of the boot record goes to the other copy (R415). -/
def writeBoot (f : Flash) (r : BootRec) : Flash :=
  let k := match bootLive f with | some 0 => 1 | _ => 0
  { f with boot := setAt f.boot k { r with seq := (bootRec f).seq + 1, crcOk := true } }

def slotState (r : BootRec) (k : Nat) : Nat := if k = 0 then r.s0 else r.s1
def setSlotState (r : BootRec) (k v : Nat) : BootRec := if k = 0 then { r with s0 := v } else { r with s1 := v }

/-- The slot that is PENDING. -/
def pendingSlot (r : BootRec) : Option Nat := if r.s0 = 2 then some 0 else if r.s1 = 2 then some 1 else none

/-- `FWU.SLOTS` follows the record in force (R426). -/
def showSlots (s : State) : State :=
  let r := bootRec s.sec.flash
  let s := wr (wr s Reg.FWU_SLOTS_S0 0 r.s0) Reg.FWU_SLOTS_S1 0 r.s1
  wr (wr s Reg.FWU_SLOTS_ACTIVE 0 r.active) Reg.FWU_SLOTS_TRIES 0 r.tries

def putBoot (s : State) (r : BootRec) : State := showSlots (setFlash s (writeBoot s.sec.flash r))

/-- Image of a slot: KIND 0 first stage, 1 rim firmware. -/
def imageOf (f : Flash) (kind k : Nat) : List Nat := (if kind = 0 then f.fs else f.rf).getD k []
def putImage (f : Flash) (kind k : Nat) (l : List Nat) : Flash :=
  if kind = 0 then { f with fs := setAt f.fs k l } else { f with rf := setAt f.rf k l }

/-- Largest image of a KIND (R400). -/
def imageLimit (kind : Nat) : Nat := if kind = 0 then 262144 else 4194304

/-- `n` bytes at offset `o` of an image, and the number they spell (R4). -/
def cut (l : List Nat) (o n : Nat) : List Nat := (l.drop o).take n
def numAt (l : List Nat) (o n : Nat) : Nat := leNum (cut l o n)

/-- The header's signature verifies under Tsungatex's key (R414). -/
def imageSigned (l : List Nat) : Bool := Config.sigOk Config.tsungatexKey (cut l 0 256) (cut l 0x100 3309)

/-- An image verifies for a KIND, the least security version apart (R414). -/
def imageGood (kind : Nat) (l : List Nat) : Bool :=
  decide (l.length = 0x1000 + numAt l 0xC 4) && decide (l.length ≤ imageLimit kind) &&
  cut l 0 4 == [0x4E, 0x46, 0x57, 0x31] && numAt l 4 1 == kind && imageSigned l &&
  numAt l 0x10 32 == Config.shake256 (l.drop 0x1000) && (cut l 0x30 208).all (· == 0) && (cut l 0xDED 531).all (· == 0)

/-- An image verifies (R414). -/
def imageOk (s : State) (kind : Nat) (l : List Nat) : Bool :=
  imageGood kind l && decide (numAt l 5 1 ≥ (if kind = 0 then s.sec.fuses.svnFs else s.sec.fuses.svnRf))

/-! ### Measurements (R409) -/

/-- A measurement's number, as its 32 bytes spell it. -/
def meas (s : State) (i : Nat) : Nat := (List.range 8).foldl (fun a j => a + rd s Reg.SEC_MEAS (8 * i + j) * 2 ^ (32 * j)) 0
def setMeas (s : State) (i v : Nat) : State :=
  eachOf (List.range 8) s fun s j => wr s Reg.SEC_MEAS (8 * i + j) (v / 2 ^ (32 * j))

/-- Fuses and unlock as `SEC` shows them (R425). -/
def showFuses (s : State) : State :=
  let f := s.sec.fuses
  let s := wr (wr s Reg.SEC_FUSE_STAT_OWNER 0 (oneIf (f.owner ≠ 0))) Reg.SEC_FUSE_STAT_DEBUG_EN 0 (oneIf f.debugEn)
  wr (wr s Reg.SEC_FUSE_STAT_SVN_FS 0 f.svnFs) Reg.SEC_FUSE_STAT_SVN_RF 0 f.svnRf

/-- Measurement 5 is made again: the security state (R409); the order of its bytes is the model's (assumption 34). -/
def measure5 (s : State) : State :=
  let f := s.sec.fuses
  let k := rd s Reg.RST_BOOT_STAT_SLOT 0
  setMeas (showFuses s) 5 (Config.shake256 (leBytes 1 f.svnFs ++ leBytes 1 f.svnRf ++ leBytes 32 f.owner ++
    leBytes 1 (oneIf f.debugEn) ++ leBytes 1 (rd s Reg.SEC_FUSE_STAT_UNLOCK 0) ++ leBytes 1 (rd s Reg.SEC_UNLOCK_CNT 0) ++
    leBytes 1 k ++ leBytes 1 (oneIf (slotState (bootRec s.sec.flash) k = 2))))

/-- Measurement 4 is made again: the publisher key list (R409). -/
def measure4 (s : State) : State :=
  setMeas (wr s Reg.SEC_KEYS_COUNT 0 s.sec.flash.keys.length) 4 (Config.shake256 s.sec.flash.keys.flatten)

/-! ### The settings store (R420 to R422) -/

/-- The settings (R421). -/
def settingIds : List Nat := [0x10, 0x20, 0x21, 0x22, 0x23, 0x24, 0x30, 0x31]

def storeCopy (f : Flash) (k : Nat) : StoreCopy := f.store.getD k ⟨0, false, []⟩
def storeLive (f : Flash) : Option Nat :=
  newer (storeCopy f 0).crcOk (storeCopy f 1).crcOk (storeCopy f 0).seq (storeCopy f 1).seq
def storeNow (f : Flash) : StoreCopy := match storeLive f with | some k => storeCopy f k | none => ⟨0, false, []⟩

/-- The store is rewritten in the other copy, in one rewrite (R420). -/
def writeStore (s : State) (l : List SetRec) : State :=
  let f := s.sec.flash
  let k := match storeLive f with | some 0 => 1 | _ => 0
  let s := setFlash s { f with store := setAt f.store k ⟨(storeNow f).seq + 1, true, l⟩ }
  wr s Reg.FWU_SET_DUAL 0 ((settingIds.filter fun i => (l.filter fun r => r.id == i).length ≥ 2).length)

/-- FORMAT the firmware of a slot reads for a setting: of all of them only 0x0031 has two (R420, R421). -/
def formatOf (s : State) (slot id : Nat) : Nat :=
  if id = 0x31 then (if Config.imageFormat (cut (imageOf s.sec.flash 1 slot) 0 256) id = 2 then 2 else 1) else 1

def runSlot (s : State) : Nat := rd s Reg.RST_BOOT_STAT_SLOT 0
def readFormat (s : State) (id : Nat) : Nat := formatOf s (runSlot s) id

/-- Bytes of a setting's value in a FORMAT (R421). -/
def valueLen (id fmt : Nat) : Nat :=
  if id = 0x10 ∨ id = 0x20 then 4 else if id = 0x21 ∨ id = 0x22 then 2 else if id = 0x23 ∨ id = 0x24 then 8
  else if id = 0x30 then 40 else if fmt = 2 then 8 else 4

/-- A mirrored setting's value as its registers hold it, in a FORMAT (R421). -/
def regValue (s : State) (id fmt : Nat) : List Nat :=
  let word (a : Nat) : List Nat := leBytes 4 (rw s a).toNat
  if id = 0x20 then leBytes 4 (rd s Reg.PWR_CREC_PORT 0 + 8 * rd s Reg.PWR_CREC_SEG 0)
  else if id = 0x21 then leBytes 2 (rd s Reg.PWR_CAP_CTRL_LIMIT 0)
  else if id = 0x22 then [rd s Reg.PWR_THERM_WARN 0, rd s Reg.PWR_THERM_THROT 0]
  else if id = 0x23 then word 0x814C ++ word 0x8150
  else if id = 0x24 then word 0x8154 ++ word 0x8118
  else if id = 0x30 then (List.range 40).map fun d => rd s Reg.CLK_DROOP_THR_MV d
  else if id = 0x31 then
    if fmt = 2 then leBytes 8 (sumNat ((List.range 32).map fun k =>
      rd s Reg.SKL_LINK_CTRL_EN k * 2 ^ (2 * k) + rd s Reg.SKL_LINK_CTRL_MAXRATE k * 2 ^ (2 * k + 1)))
    else leBytes 4 (ofBits ((List.range 32).filter fun k => rd s Reg.SKL_LINK_CTRL_EN k == 1))
  else leBytes 4 (rd s Reg.XLT_T2_RSV 0)

/-- A setting's value is one the device takes (R421 with the registers' ranges). -/
def valueOk (s : State) (id fmt : Nat) (l : List Nat) : Bool :=
  let n := leNum l
  decide (l.length = valueLen id fmt) && (
    if id = 0x10 then decide (256 ≤ n) && decide (n ≤ 65536)
    else if id = 0x20 then decide (n < 2 ^ 23)
    else if id = 0x21 then decide (1200 ≤ n) && decide (n ≤ gradeW s)
    else if id = 0x22 then decide (60 ≤ l.getD 0 0) && decide (l.getD 0 0 ≤ rd s Reg.PWR_THERM_WARN 0) &&
      decide (60 ≤ l.getD 1 0) && decide (l.getD 1 0 ≤ rd s Reg.PWR_THERM_THROT 0)
    else if id = 0x23 then decide (bits n 1 15 ≥ 1) && decide (40 ≤ bits n 32 32) && decide (bits n 32 32 ≤ 100)
    else if id = 0x24 then decide (bits n 0 11 ≤ 1500) && decide (bits n 12 20 = 0) && decide (16 ≤ bits n 32 32) &&
      decide (bits n 32 32 ≤ 1000)
    else if id = 0x30 then l.all fun x => decide (20 ≤ x) && decide (x ≤ 120)
    else true)

/-- A setting's registers take its value (R421); a sealed page keeps its own (R436). -/
def applyValue (s : State) (id fmt : Nat) (l : List Nat) : State :=
  let n := leNum l
  let pg := if id = 0x30 then 0x0A else 0x08
  if rd s Reg.HDR_LOCK_SEALED pg = 1 ∧ ¬(id = 0x10 ∨ id = 0x31) then s
  else if id = 0x10 then wr s Reg.XLT_T2_RSV 0 n
  else if id = 0x20 then wr (wr s Reg.PWR_CREC_PORT 0 (n % 8)) Reg.PWR_CREC_SEG 0 (n / 8)
  else if id = 0x21 then fxLimit (wr s Reg.PWR_CAP_CTRL_LIMIT 0 n)
  else if id = 0x22 then wr (wr s Reg.PWR_THERM_WARN 0 (l.getD 0 0)) Reg.PWR_THERM_THROT 0 (l.getD 1 0)
  else if id = 0x23 then
    setCap (wr (ww s 0x814C (BitVec.ofNat 32 (n % 2 ^ 32))) Reg.PWR_SAFE_PCT 0 (n / 2 ^ 32))
  else if id = 0x24 then wr (ww s 0x8154 (BitVec.ofNat 32 (n % 2 ^ 12))) Reg.PWR_RAMP_BUDGET 0 (n / 2 ^ 32)
  else if id = 0x30 then eachOf (List.range 40) s fun s d => wr s Reg.CLK_DROOP_THR_MV d (l.getD d 45)
  else eachOf (List.range 32) s fun s k =>
    if rd s Reg.HDR_LOCK_SEALED (0x50 + k) = 1 then s
    else
      let old := s
      let s := wr s Reg.SKL_LINK_CTRL_EN k (oneIf (n.testBit (if fmt = 2 then 2 * k else k)))
      let s := if fmt = 2 then wr s Reg.SKL_LINK_CTRL_MAXRATE k (oneIf (n.testBit (2 * k + 1))) else s
      fxLinkCtrl k 0 old s

/-- The store with a setting's value: in every FORMAT it is held in, and in the one the running firmware reads (R422). -/
def withValue (s : State) (id : Nat) (val : Nat → List Nat) : List SetRec :=
  let l := (storeNow s.sec.flash).recs
  let f := readFormat s id
  let l := l.map fun r => if r.id = id then { r with val := val r.fmt } else r
  if l.any (fun r => r.id == id && r.fmt == f) then l else l ++ [⟨id, f, val f⟩]

/-- Settings held in two FORMATs are closed: `keep` is the one that stays (R419, R422). -/
def closeDual (s : State) (keep : Nat → Nat) : State :=
  let l := (storeNow s.sec.flash).recs
  if (storeLive s.sec.flash).isNone then s
  else writeStore s (l.filter fun r => decide ((l.filter fun x => x.id == r.id).length < 2) || r.fmt == keep r.id)

/-- Each setting takes the value of the record whose FORMAT the running firmware reads (R420, R421). -/
def loadSettings (s : State) : State :=
  eachOf settingIds s fun s id =>
    match (storeNow s.sec.flash).recs.find? fun r => r.id == id && r.fmt == readFormat s id with
    | some r => if r.val.length = valueLen id r.fmt then applyValue s id r.fmt r.val else s
    | none => s

/-- Firmware booted from a PENDING slot writes beside the old record one in its own FORMAT; a fall-back erases it (R422). -/
def dualSettings (s : State) : State :=
  let k := runSlot s
  let r := bootRec s.sec.flash
  if (storeLive s.sec.flash).isNone then s
  else if slotState r k = 2 ∧ slotState r (1 - k) = 1 then
    eachOf settingIds s fun s id =>
      let l := (storeNow s.sec.flash).recs
      if formatOf s (1 - k) id ≠ readFormat s id ∧ l.any (fun x => x.id == id) ∧
          !(l.any fun x => x.id == id && x.fmt == readFormat s id) then
        writeStore s (l ++ [⟨id, readFormat s id, regValue s id (readFormat s id)⟩])
      else s
  else if (settingIds.any fun id => ((storeNow s.sec.flash).recs.filter fun x => x.id == id).length ≥ 2) then
    closeDual s (readFormat s)
  else s

/-! ### Resets (R398, R399, R404) -/

/-- Straps as latched: slot, tray, device number, and whether `RECOVERY_N` was low (R324, R398). -/
def latchStraps (s : State) (straps : Nat) (low : Bool) : State :=
  let s := wr (wr s Reg.SKL0_DEV_SLOT 0 straps) Reg.SKL0_DEV_TRAY 0 (straps / 4)
  wr (wr s Reg.SKL0_DEV_DEVNUM 0 straps) Reg.RST_BOOT_STAT_STRAP 0 (oneIf low)

/-- What every reset keeps: flash, fuses, expanders' contents, and what the model itself keeps. The pins stay as they are. -/
def blankFrom (s : State) : State :=
  let r := State.reset
  let s' := { r with
    pending := s.pending, fv := s.fv, now := s.now, out := s.out, rdata := s.rdata
    regs := gradeRegs (rd s Reg.HDR_CAPS_GRADE 0x0A)
    mem := { r.mem with t3 := s.mem.t3 }
    sec := { r.sec with flash := s.sec.flash, fuses := s.sec.fuses }
    pow := { r.pow with pin := s.pow.pin, alert := s.pow.alert, tripLow := s.pow.tripLow } }
  showSlots (showFuses s')

/-- A warm or soft reset (R399): what it keeps, why it came, and boot from step 1. `bit_` is the cause's bit. -/
def resetKeeping (s : State) (bit_ : Nat) : State :=
  let s' := blankFrom s
  let s' := wr s' Reg.PWR_TRIP_CNT 0 (rd s Reg.PWR_TRIP_CNT 0)
  let s' := wr s' Reg.RST_BOOT_CNT 0 (rd s Reg.RST_BOOT_CNT 0)
  let s' := wr s' Reg.SEC_UNLOCK_CNT 0 (rd s Reg.SEC_UNLOCK_CNT 0)
  let s' := latchStraps s' (rd s Reg.SKL0_DEV_SLOT 0 + 4 * rd s Reg.SKL0_DEV_TRAY 0) (rd s Reg.RST_BOOT_STAT_STRAP 0 == 1)
  let halt := rd s Reg.PWR_STAT_PFHALT 0 == 1
  setBrake (wr s' Reg.RST_CAUSE 0 (2 ^ bit_ + 8 * oneIf halt + 16 * oneIf (halt && decide (s.pow.cause ≥ 2))))

/-- A warm reset (R399). -/
def warmReset (s : State) : State := resetKeeping s 1

/-- A soft reset keeps the trained Fustra link and the aperture bases too (R399). -/
def softReset (s : State) : State :=
  let s' := resetKeeping s 2
  let s' := eachOf (List.range 3) s' fun x a =>
    wr (wr x Reg.FUS_APT_BASE_LO a (rd s Reg.FUS_APT_BASE_LO a)) Reg.FUS_APT_BASE_HI a (rd s Reg.FUS_APT_BASE_HI a)
  let s' := if rd s Reg.PWR_STAT_PFHALT 0 = 1 then s'
    else
      let x := wr s' Reg.FUS_LINK_STAT_UP 0 (rd s Reg.FUS_LINK_STAT_UP 0)
      wr (wr x Reg.FUS_LINK_STAT_GEN2 0 (rd s Reg.FUS_LINK_STAT_GEN2 0)) Reg.FUS_LINK_STAT_X8 0 (rd s Reg.FUS_LINK_STAT_X8 0)
  setSec s' { s'.sec with soft := true }

/-- POWER_ON_RESET (R398, R399, R455): `PORST_N` rises; `recoveryN` and the straps are sampled. Rails out of range hold the
device in reset. -/
def execPowerOnReset (straps : Nat) (recoveryN railsOk : Bool) (s : State) : Out :=
  onUnit (straps < 64) (.next (
    let s' := latchStraps (blankFrom { s with now := 0 }) straps (!recoveryN)
    setBrake (setPow s' { s'.pow with tripLow := false, off := !railsOk })))

/-- RAIL_MONITOR_RELEASE (R455). -/
def execRailMonitorRelease (s : State) : Out := .next (if s.pow.off then setPow s { s.pow with off := false } else s)

/-- POWER_LOSS (R387): everything but flash, fuses and the T3 contents that expanders keep; bit n of `keep` for CAP_n. -/
def execPowerLoss (keep : Nat) (s : State) : Out :=
  .next (
    let s' := blankFrom { s with now := 0 }
    let t3 := s.mem.t3.filter fun e => keep.testBit (e.1 / 2 ^ 41)
    setPow { s' with mem := { s'.mem with t3 := t3 } } { s'.pow with off := true, tripLow := false, pin := false, alert := false })

/-- WARM_RESET (R398, R399, R404). -/
def execWarmReset (s : State) : Out := .next (if s.pow.off then s else warmReset s)

/-- What a write to SOFT_KEY does (R399). -/
def fxSoftKey (v : Nat) (s : State) : State := if v = 0x534F4654 then softReset s else s
/-- SOFT_RESET (R399). -/
def execSoftReset (ag : Agent) (key : Nat) (s : State) : Out :=
  .next (if s.pow.off then s
    else agentWrite ag Reg.RST_SOFT_KEY 0 (key % 2 ^ 32) (fun _ s => fxSoftKey (key % 2 ^ 32) s) s)

/-! ### Clocks (R391, R392) -/

/-- AO_CLOCK_SWITCH (R391): needs a stable reference. -/
def execAoClockSwitch (s : State) : Out :=
  live s (if rd s Reg.CLK_REF_STAT_LOST 0 = 1 then s else wr s Reg.CLK_REF_STAT_AO_INT 0 0)

/-- REFCLK_LOST (R392). -/
def execRefclkLost (s : State) : Out := .next (if s.pow.off then s else wr s Reg.CLK_REF_STAT_LOST 0 1)

/-! ### Boot (R400 to R402) -/

/-- The ROM enters RECOVERY (R395, R402). -/
def enterRecovery (s : State) (code : Nat) : State :=
  let s := wr (wr s Reg.RST_MODE 0 3) Reg.RST_BOOT_STAT_CODE 0 code
  setSec s { s.sec with att := 3, wait := false }

/-- Boot goes on to a step; steps 4 to 6 wait for the reference (R392, R400). -/
def nextStep (s : State) (n : Nat) : State :=
  if n ≥ 4 ∧ rd s Reg.CLK_REF_STAT_LOST 0 = 1 then setSec s { s.sec with wait := true }
  else
    let s := wr s Reg.RST_BOOT_STAT_STEP 0 n
    if n = 6 then setSec s { s.sec with since := s.now, att := 1 } else s

/-- REFCLK_RESTORED (R392). -/
def execRefclkRestored (s : State) : Out :=
  .next (if s.pow.off then s
    else
      let s := wr s Reg.CLK_REF_STAT_LOST 0 0
      if s.sec.wait then nextStep (setSec s { s.sec with wait := false }) (rd s Reg.RST_BOOT_STAT_STEP 0 + 1) else s)

/-- A slot's first stage is measured and runs (R400 step 2, R409). -/
def runFirst (s : State) (k : Nat) : State :=
  let l := imageOf s.sec.flash 0 k
  let s := wr (wr s Reg.RST_BOOT_STAT_SLOT 0 k) Reg.FWU_VER_RUN_FS 0 (numAt l 8 4)
  setMeas s 1 (Config.shake256 (cut l 0 256))

/-- A slot that fails to verify is BAD; the other one is tried where it is GOOD or PENDING (R416). -/
def failSlot (s : State) (k : Nat) : State × Option Nat :=
  let s := putBoot s (setSlotState (bootRec s.sec.flash) k 3)
  let o := slotState (bootRec s.sec.flash) (1 - k)
  (s, if o = 1 ∨ o = 2 then some (1 - k) else none)

/-- The slot the ROM tries first (R416). -/
def firstSlot (s : State) : State × Nat :=
  let r := bootRec s.sec.flash
  match pendingSlot r with
  | some k => if r.tries > 0 then (putBoot s { r with tries := r.tries - 1 }, k) else (putBoot s (setSlotState r k 3), r.active)
  | none => (s, r.active)

/-- Step 2 (R400, R416). -/
def bootStep2 (s : State) : State :=
  let (s, k) := firstSlot s
  if imageOk s 0 (imageOf s.sec.flash 0 k) then nextStep (runFirst s k) 3
  else match failSlot s k with
    | (s, none) => enterRecovery s 1
    | (s, some j) =>
      if imageOk s 0 (imageOf s.sec.flash 0 j) then nextStep (runFirst s j) 3 else enterRecovery (failSlot s j).1 1

/-- The rim firmware of a slot is measured and starts; identity, keys and settings (R400 step 3, R408, R409, R421). -/
def runRim (s : State) (k : Nat) : State :=
  let l := imageOf s.sec.flash 1 k
  let s := setMeas (wr s Reg.FWU_VER_RUN_RF 0 (numAt l 8 4)) 2 (Config.shake256 (cut l 0 256))
  let st := storeNow s.sec.flash
  let s := if (storeLive s.sec.flash).isNone then wr s Reg.RST_BOOT_STAT_CODE 0 3 else dualSettings (loadSettings s)
  let s := setMeas s 3 (Config.shake256 (st.recs.flatMap fun r => leBytes 2 r.id ++ leBytes 1 r.fmt ++ leBytes 1 r.val.length ++ r.val))
  let s := measure5 (measure4 s)
  let seed := Config.shake256 (0x11 :: (leBytes 32 s.sec.fuses.uds ++ leBytes 32 (meas s 1) ++ leBytes 32 (meas s 2) ++
    leBytes 32 (meas s 5)))
  let s := bump (setSec s { s.sec with aliasSeed := seed }) Reg.SEC_SIGN_CNT 0 1
  nextStep (wr (wr s Reg.RIM_STAT_RUN0 0 1) Reg.RIM_STAT_RUN1 0 1) 4

/-- Step 3 (R400, R416). -/
def bootStep3 (s : State) : State :=
  let k := runSlot s
  if imageOk s 1 (imageOf s.sec.flash 1 k) then runRim s k
  else match failSlot s k with
    | (s, none) => enterRecovery s 2
    | (s, some j) =>
      if imageOk s 0 (imageOf s.sec.flash 0 j) && imageOk s 1 (imageOf s.sec.flash 1 j) then runRim (runFirst s j) j
      else enterRecovery (failSlot s j).1 2

/-- Step 4 (R182, R400): stacks, T2's frames, the self-test of every island. -/
def bootStep4 (rep : BootReport) (s : State) : State :=
  match setBits rep.badStacks 8 with
  | k :: _ => enterRecovery s (0x10 + k)
  | [] =>
    let s := eachOf (setBits rep.badIsles 32) s fun s k => wr s Reg.ISL_STK_HEALTH_SUSPECT k 1
    if rep.badIsles % 2 ^ 32 = 2 ^ 32 - 1 then enterRecovery s 0x20
    else
      let s := wr s Reg.XLT_T2_FREE 0 (262144 - rd s Reg.XLT_T2_RSV 0)
      nextStep (wr s Reg.XLT_TBL_FREE 0 Config.tablePool.toNat) 5

/-- `n` bytes of T3 from `a`. -/
def t3Num (s : State) (a n : Nat) : Nat := tbytes (fun _ => 0) s.mem.t3 a n

/-- A committed closing record stands in the region (R386). -/
def closingFound (s : State) : Bool := match regionAt s with
  | none => false
  | some a =>
    t3Num s (a + 0x249C0) 4 == 0x434C4F53 && t3Num s (a + 0x249C8) 4 == crc32c (leBytes 0x249C0 (t3Num s a 0x249C0))

/-- The closing region's segment leaves the frame pool (R384), and the firmware looks for a closing record (R386). -/
def openRegion (s : State) : State :=
  let n := rd s Reg.PWR_CREC_PORT 0
  let g := rd s Reg.PWR_CREC_SEG 0
  if rd s Reg.CAP_STAT_UP n = 1 ∧ g < rd s Reg.CAP_FRAMES n / 32 then
    let f := 2 ^ 20 * n + g
    let s := setFseg (setPow s { s.pow with region := some f }) (fsegKey 1 f) (some ⟨8, 0, false, true, 0, 0, false, none⟩)
    let s := t3Recount s
    wr s Reg.PWR_CREC_VALID 0 (oneIf (closingFound s))
  else s

/-- SERVICE is entered (R395, R399, R401). -/
def enterService (s : State) : State :=
  let s := wr (wr s Reg.RST_MODE 0 0) Reg.RST_BOOT_STAT_DONE 0 1
  setSec s { s.sec with att := 2 }

/-- Step 5 (R359, R400): capacity enumeration, and the host link, which boot waits for. -/
def bootStep5 (rep : BootReport) (s : State) : State :=
  let s := if s.mem.segs.isEmpty then
      openRegion (eachOf (List.range 8) s fun s n => capScan s n (rep.caps.getD n ⟨false, 0, false, 0, 0, 0⟩)) else s
  let s := if rep.fus ∧ rd s Reg.FUS_LINK_STAT_UP 0 = 0 then
      let s := wr (wr s Reg.FUS_LINK_STAT_UP 0 1) Reg.FUS_LINK_STAT_X8 0 (oneIf rep.x8)
      wr s Reg.FUS_LINK_STAT_GEN2 0 (oneIf (rep.gen2 || rd s Reg.FUS_LINK_CTRL_MAXGEN 0 == 1))
    else s
  if rd s Reg.FUS_LINK_STAT_UP 0 = 0 then wr s Reg.RST_BOOT_STAT_CODE 0 0x30
  else if s.sec.soft then enterService s else nextStep s 6

/-- The fixed domains run from their own generators, each at its frequency of R11 (R371, R391, assumption 47). -/
def fixedClocks (s : State) : State :=
  eachOf [(32, 2000), (33, 2000), (34, 2000), (35, 2000), (36, 1600), (37, 1600), (38, 2000), (39, 1000)] s fun s d =>
    wr s Reg.CLK_FREQ_MHZ d.1 d.2

/-- BOOT_STEP_DONE (R392, R400, R402): the step in progress ends after `us` microseconds. Step 6 ends by ATTACH_GO. A boot
counts in BOOT_CNT with its first step (R406, assumption 46). -/
def execBootStepDone (us : Nat) (rep : BootReport) (s : State) : Out :=
  live s (
    let n := rd s Reg.RST_BOOT_STAT_STEP 0
    if rd s Reg.RST_MODE 0 ≠ 1 ∨ s.sec.wait ∨ s.pow.pfail ∨ n = 6 ∨ n = 0 then s
    else
      let s := wr s Reg.RST_STEP_US (n - 1) (min us (2 ^ 32 - 1))
      if n = 1 then
        let s := fixedClocks (bump s Reg.RST_BOOT_CNT 0 1)
        let s := setMeas (showSlots (showFuses s)) 0 (Config.shake256 Config.romImage)
        if rd s Reg.RST_BOOT_STAT_STRAP 0 = 1 ∧ bit (rd s Reg.RST_CAUSE 0) 0 then enterRecovery s 0 else nextStep s 2
      else if n = 2 then bootStep2 s
      else if n = 3 then bootStep3 s
      else if n = 4 then bootStep4 rep s
      else bootStep5 rep s)

/-- Sizes of apertures 0 to 2 (R401). -/
def aptSize (a : Nat) : Nat := if a = 0 then 2 ^ 26 else if a = 1 then 2 ^ 40 else 2 ^ 32

/-- The three bases are aligned to their sizes and overlap nowhere (R401). -/
def basesOk (b : List Nat) : Bool :=
  (List.range 3).all fun a => b.getD a 0 % aptSize a == 0 && (List.range a).all fun c =>
    decide (b.getD a 0 + aptSize a ≤ b.getD c 0) || decide (b.getD c 0 + aptSize c ≤ b.getD a 0)

/-- ATTACH_GO (R401): in recovery BASE0 alone is decoded, and STATE stays 3. -/
def execAttachGo (b0 b1 b2 : Nat) (s : State) : Out :=
  live s (
    let b := [b0 % 2 ^ 64, b1 % 2 ^ 64, b2 % 2 ^ 64]
    if rd s Reg.FUS_LINK_STAT_UP 0 = 0 then s
    else if s.sec.att = 3 then
      (if b0 % aptSize 0 = 0 then wr2 s Reg.FUS_APT_BASE_LO Reg.FUS_APT_BASE_HI 0 (b0 % 2 ^ 64) else s)
    else if s.sec.att ≠ 1 ∨ basesOk b = false then s
    else
      let s := eachOf (List.range 3) s fun s a => wr2 s Reg.FUS_APT_BASE_LO Reg.FUS_APT_BASE_HI a (b.getD a 0)
      enterService (wr s Reg.RST_STEP_US 5 (min (s.now - s.sec.since) (2 ^ 32 - 1))))

/-! ### Modes and self-test (R395 to R397) -/

/-- What a write to MODE_REQ does (R396). -/
def fxModeReq (v : Nat) (s : State) : State :=
  let m := v % 4
  if (m = 0 ∨ m = 2) ∧ (rd s Reg.RST_MODE 0 = 0 ∨ rd s Reg.RST_MODE 0 = 2) ∧
      (List.range 32).all (fun b => rd s Reg.WVE_BIND_STATE b == 0) = true then wr s Reg.RST_MODE 0 m else s
/-- MODE_REQ (R396). -/
def execModeReq (ag : Agent) (v : Nat) (s : State) : Out :=
  .next (agentWrite ag Reg.RST_CTRL_MODE_REQ 0 (v % 2 ^ 32) (fun _ s => fxModeReq v s) s)

/-- What a write to ISL_TEST does (R397): `v` names the island and sets GO. -/
def fxIslTest (v : Nat) (s : State) : State :=
  let k := v % 32
  if bit v 5 ∧ (isl s k).bind.isNone ∧ rdBit s Reg.RST_TEST_HOLD 0 k = false then
    let s := wr (setBit s Reg.RST_TEST_HOLD 0 k) Reg.RST_ISL_TEST_STAT_ISL 0 k
    wr (wr (wr s Reg.RST_ISL_TEST_STAT_BUSY 0 1) Reg.RST_ISL_TEST_STAT_PASS 0 0) Reg.RST_ISL_TEST_STAT_FAIL 0 0
  else s
/-- ISL_TEST_GO (R397). -/
def execIslTestGo (ag : Agent) (v : Nat) (s : State) : Out :=
  .next (agentWrite ag Reg.RST_ISL_TEST_ISL 0 (v % 2 ^ 32) (fun _ s => fxIslTest v s) s)

/-- ISL_TEST_DONE (R397). -/
def execIslTestDone (k : Nat) (pass : Bool) (s : State) : Out :=
  onUnit (k < 32) (live s (
    if rdBit s Reg.RST_TEST_HOLD 0 k = false then s
    else
      let s := clrBit s Reg.RST_TEST_HOLD 0 k
      let s := if pass then s else wr s Reg.ISL_STK_HEALTH_SUSPECT k 1
      if rd s Reg.RST_ISL_TEST_STAT_ISL 0 ≠ k then s
      else wr (wr (wr s Reg.RST_ISL_TEST_STAT_BUSY 0 0) Reg.RST_ISL_TEST_STAT_PASS 0 (oneIf pass))
        Reg.RST_ISL_TEST_STAT_FAIL 0 (oneIf !pass)))

/-! ### Recovery (R403) -/

/-- The ROM sends a message of the recovery protocol on the interface of the request. -/
def rcvSend (s : State) (i3c : Bool) (seq : Nat) (body : List Nat) : State :=
  if i3c then emit s (.i3c (leBytes 1 2 ++ leBytes 1 body.length ++ leBytes 2 seq ++ body)) else sendMail s 2 seq body

/-- The response to a request: OP | 0x80, STATUS, 2 reserved (R403). -/
def rcvAnswer (s : State) (i3c : Bool) (seq op st : Nat) : State := rcvSend s i3c seq [op + 0x80, st, 0, 0]

/-- A request reaches the ROM in RECOVERY alone; over the mailbox the host link must be up (R402). -/
def onRcv (i3c : Bool) (s : State) (k : State) : Out :=
  live s (if rd s Reg.RST_MODE 0 ≠ 3 ∨ (i3c = false ∧ rd s Reg.FUS_LINK_STAT_UP 0 = 0) then s else k)

/-- The session stands open on the other interface (status 0x06). -/
def rcvOther (s : State) (i3c : Bool) : Bool :=
  rd s Reg.RST_RCV_STAT_SESSION 0 == 1 && !(rd s Reg.RST_RCV_STAT_I3C 0 == oneIf i3c)

/-- RCV_INFO (R403): the ROM's version is not in the spec, nor the order in the 24 bytes (assumption 35). -/
def execRcvInfo (i3c : Bool) (seq : Nat) (s : State) : Out :=
  onRcv i3c s (
    let r := bootRec s.sec.flash
    let s' := rcvAnswer s i3c seq 0x10 0
    fresh (rcvSend s' i3c seq (padTo 24 (leBytes 4 (freeNat s) ++ [rd s Reg.RST_BOOT_STAT_CODE 0, r.s0, r.s1]))))

/-- RCV_BEGIN (R403). -/
def execRcvBegin (i3c : Bool) (seq kind size : Nat) (s : State) : Out :=
  onRcv i3c s (
    if rcvOther s i3c then rcvAnswer s i3c seq 0x11 6
    else if kind > 1 ∨ size > 2 ^ 23 ∨ size > imageLimit kind then rcvAnswer s i3c seq 0x11 2
    else
      let s := wr (wr s Reg.RST_RCV_STAT_SESSION 0 1) Reg.RST_RCV_STAT_I3C 0 (oneIf i3c)
      let s := wr s Reg.RST_RCV_BYTES 0 0
      rcvAnswer (setSec s { s.sec with rcv := some (kind, size, []) }) i3c seq 0x11 0)

/-- RCV_DATA (R403). -/
def execRcvData (i3c : Bool) (seq off : Nat) (data : List Nat) (s : State) : Out :=
  onRcv i3c s (match s.sec.rcv with
    | none => rcvAnswer s i3c seq 0x12 5
    | some (kind, size, buf) =>
      if rcvOther s i3c then rcvAnswer s i3c seq 0x12 6
      else if off ≠ buf.length ∨ buf.length + data.length > 2 ^ 23 then rcvAnswer s i3c seq 0x12 1
      else
        let b := buf ++ (data.take 244).map (· % 256)
        rcvAnswer (wr (setSec s { s.sec with rcv := some (kind, size, b) }) Reg.RST_RCV_BYTES 0 b.length) i3c seq 0x12 0)

/-- The slot a recovery image goes to: the PENDING one, else the one not ACTIVE (R403, R424). -/
def rcvSlot (r : BootRec) : Nat := (pendingSlot r).getD (1 - r.active)

/-- RCV_END (R403, R416, R424): after a flash error what the slot holds is free (assumption 71). -/
def execRcvEnd (i3c : Bool) (seq : Nat) (flashOk : Bool) (s : State) : Out :=
  onRcv i3c s (match s.sec.rcv with
    | none => rcvAnswer s i3c seq 0x13 5
    | some (kind, size, buf) =>
      if rcvOther s i3c then rcvAnswer s i3c seq 0x13 6
      else if buf.length < size then rcvAnswer s i3c seq 0x13 7
      else if !imageSigned buf then rcvAnswer s i3c seq 0x13 3
      else if !flashOk then
        let l := (List.range buf.length).map fun j => (Config.outsideByte s.fv 0x46 j).toNat
        rcvAnswer (fresh (setFlash s (putImage s.sec.flash kind (rcvSlot (bootRec s.sec.flash)) l))) i3c seq 0x13 4
      else
        let r := bootRec s.sec.flash
        let k := rcvSlot r
        let s := setFlash s (putImage s.sec.flash kind k buf)
        rcvAnswer (putBoot s { setSlotState r k 2 with tries := 3 }) i3c seq 0x13 0)

/-- RCV_BOOT (R403): boots from step 1 as after warm reset. -/
def execRcvBoot (i3c : Bool) (seq : Nat) (s : State) : Out :=
  onRcv i3c s (if rcvOther s i3c then rcvAnswer s i3c seq 0x14 6 else warmReset (rcvAnswer s i3c seq 0x14 0))

end Sys2Proof.Machine
end

