-- ==== Sys2Proof/Machine/SecurityExec.lean ====
section
/-! DEFINITION. Attestation, keys, firmware update, the settings messages, the rim processors' watchdog (chapter 16, R445). -/

namespace Sys2Proof.Machine

/-! ### Attestation (R410, R411) -/

/-- The responder is served by the rim firmware over the host mailbox, and not in RECOVERY (R410). -/
def attests (s : State) : Bool :=
  awake s && rimRuns s && !(rd s Reg.RST_MODE 0 == 3) && rd s Reg.FUS_LINK_STAT_UP 0 == 1

/-- A response is sent: MCTP packets, one to a mailbox message. Their bytes are the message standards', and free here, as is
the place of packet boundaries beyond one packet for each 248 bytes of content (R410, assumption 36). -/
def reply (s : State) (r : Reply) (n : Nat) : State :=
  let s := raiseInt (emit s (.reply r)) 0x0C 0
  eachOf (List.range (max 1 (cdiv n 248))) s fun s _ =>
    let len := 1 + freeNat s % 252
    fresh (sendMail s 1 (freeNat s / 256) ((List.range len).map fun i => (Config.outsideByte s.fv 0x45 i).toNat))

def onAttest (s : State) (k : State) : Out := live s (if attests s then k else s)

/-- SET_ENDPOINT_ID (R410, R425). -/
def execSetEndpointId (eid : Nat) (s : State) : Out := onAttest s (reply (wr s Reg.SEC_SPDM_EID 0 eid) (.eidSet (eid % 256)) 0)
/-- GET_ENDPOINT_ID (R410). -/
def execGetEndpointId (s : State) : Out := onAttest s (reply s (.eid (rd s Reg.SEC_SPDM_EID 0)) 0)
/-- GET_MCTP_VERSION_SUPPORT (R410): 1.3. -/
def execGetMctpVersionSupport (s : State) : Out := onAttest s (reply s (.mctpVersions [0x13]) 0)
/-- GET_MESSAGE_TYPE_SUPPORT (R410). -/
def execGetMessageTypeSupport (s : State) : Out := onAttest s (reply s (.msgTypes [0x00, 0x05]) 0)
/-- GET_VERSION (R410, R411): SPDM 1.2 and 1.3. -/
def execGetVersion (s : State) : Out := onAttest s (reply s (.versions [0x12, 0x13]) 0)
/-- GET_CAPABILITIES (R411, R425): the version named is the one negotiated, where the responder supports it. -/
def execGetCapabilities (ver : Nat) (s : State) : Out :=
  onAttest s (if ver = 0x12 ∨ ver = 0x13 then reply (wr s Reg.SEC_SPDM_VER 0 ver) (.capabilities ver) 0
    else reply s (.unsupported ver) 0)
/-- NEGOTIATE_ALGORITHMS (R411). -/
def execNegotiateAlgorithms (s : State) : Out := onAttest s (reply s .algorithms 0)

/-- Seed of the DeviceID key (R408). -/
def deviceSeed (s : State) : Nat := Config.shake256 (0x10 :: leBytes 32 s.sec.fuses.uds)

/-- The chain of slot 0: the certificates kept in flash, and the Alias certificate (R408, R411). -/
def certChain (s : State) : List Nat := s.sec.flash.cert ++ Config.aliasCert s.sec.aliasSeed (deviceSeed s)

/-- GET_DIGESTS (R411). -/
def execGetDigests (s : State) : Out := onAttest s (reply s (.digests (Config.sha384 (certChain s))) 48)
/-- GET_CERTIFICATE (R411): slot 0 only. -/
def execGetCertificate (slot off len : Nat) (s : State) : Out :=
  onAttest s (if slot ≠ 0 then reply s (.unsupported slot) 0
    else let l := cut (certChain s) off len; reply s (.certificate l) l.length)

/-- A signature by the Alias key over the transcript, which the message standard makes and the model leaves free (R408, R411). -/
def sign (s : State) (l : List Nat) : List Nat := Config.signature s.sec.aliasSeed (leBytes 8 s.fv ++ l)

/-- Values of all six measurements (R409). -/
def allMeas (s : State) : List Nat := (List.range 6).map (meas s)

/-- CHALLENGE (R411). -/
def execChallenge (nonce : Nat) (s : State) : Out :=
  onAttest s (
    let sig := sign s (leBytes 32 nonce ++ packNums 32 (allMeas s))
    reply (fresh (bump s Reg.SEC_SIGN_CNT 0 1)) (.challenge nonce (allMeas s) sig) (32 + 3309))

/-- GET_MEASUREMENTS (R411): `sel` 0xFF asks for all, else the block whose index is one above the measurement's. -/
def execGetMeasurements (sel : Nat) (signed : Bool) (nonce : Nat) (s : State) : Out :=
  onAttest s (
    let l := ((List.range 6).filter fun i => sel == 0xFF || sel == i + 1).map fun i => (i + 1, meas s i)
    if sel ≠ 0xFF ∧ 6 < sel then reply s (.unsupported sel) 0
    else if signed then
      let sig := sign s (leBytes 32 nonce ++ packNums 32 (l.map Prod.snd))
      reply (fresh (bump s Reg.SEC_SIGN_CNT 0 1)) (.measurements l nonce sig) (32 * l.length + 32 + 3309)
    else reply s (.measurements l nonce []) (32 * l.length + 32))

/-- UNSUPPORTED_REQUEST (R411). -/
def execUnsupportedRequest (s : State) : Out := onAttest s (reply s (.unsupported 0) 0)

/-! ### Firmware update (R412, R417 to R419, R423, R426) -/

/-- A write of an operation to `FWU.CMD` (R424, R426): `f` gives the state and the code the operation will end with. -/
def fwuStart (s : State) (op : Nat) (f : State → State × FwuOp) : State :=
  if rd s Reg.FWU_STAT_BUSY 0 = 1 then wr s Reg.FWU_STAT_CODE 0 1
  else if !rimRuns s ∨ rd s Reg.RST_MODE 0 = 3 ∨ op = 0 then s
  else
    let (s, o) := f s
    wr (setSec s { s.sec with op := some o }) Reg.FWU_STAT_BUSY 0 1

/-- An operation that only ends with a code. -/
def ends (op code : Nat) : FwuOp := ⟨op, code, 0, []⟩

/-- The operation stream of a package applied to a base image (R417): output so far; none where it is malformed. -/
def applyOps (base : List Nat) : Nat → List Nat → List Nat → Option (List Nat)
  | 0, _, _ => none
  | n + 1, ops, out =>
    if ops.isEmpty then some out
    else
      let len := numAt ops 4 4
      if ops.length < 8 then none
      else if numAt ops 0 1 = 1 then
        let o := numAt ops 8 4
        if ops.length < 16 ∨ o + len > base.length then none
        else applyOps base n (ops.drop 16) (out ++ cut base o len)
      else if numAt ops 0 1 = 2 then
        let k := 8 + (len + 7) / 8 * 8
        if ops.length < k then none else applyOps base n (ops.drop k) (out ++ cut ops 8 len)
      else none

/-- The image an update package makes (R417, R418 step 3); where the header's fields stand is the model's (assumption 37). -/
def buildImage (base pkg : List Nat) : Option (List Nat) :=
  let ops := cut pkg 0x1000 (numAt pkg 44 4)
  if cut pkg 0 4 ≠ [0x4E, 0x46, 0x44, 0x31] ∨ ops.length ≠ numAt pkg 44 4 then none
  else match applyOps base (ops.length + 1) ops [] with
    | some l => if l.length = numAt pkg 40 4 then some l else none
    | none => none

/-- APPLY up to its step 5 (R418): the inactive slot is BAD until the operation is done. -/
def applyGo (pkg : List Nat) (flashOk : Bool) (s : State) : State × FwuOp :=
  let r := bootRec s.sec.flash
  let k := runSlot s
  let o := 1 - k
  let spoil (s : State) : State := if slotState r o = 0 ∨ slotState r o = 2 then s else putBoot s (setSlotState r o 3)
  let pkg := pkg.take (rd s Reg.FWU_LEN 0)
  let kind := numAt pkg 4 1
  if rd s Reg.FWU_LEN 0 > 2 ^ 23 then (spoil s, ends 1 8)
  else if rd s Reg.FUS_LINK_STAT_UP 0 = 0 then (spoil s, ends 1 9)
  else if (pendingSlot r).isSome then (s, ends 1 0xC)
  else if !(Config.sigOk Config.tsungatexKey (cut pkg 0 256) (cut pkg 0x100 3309)) ∨
      numAt pkg 48 32 ≠ Config.shake256 (cut pkg 0x1000 (numAt pkg 44 4)) then (spoil s, ends 1 2)
  else if numAt pkg 8 32 ≠ meas s (if kind = 0 then 1 else 2) then (spoil s, ends 1 3)
  else match buildImage (imageOf s.sec.flash kind k) pkg with
    | none => (spoil s, ends 1 4)
    | some l =>
      if kind > 1 ∨ !imageGood kind l then (spoil s, ends 1 4)
      else if !imageOk s kind l then (spoil s, ends 1 5)
      else
        let s := putBoot s (setSlotState r o 3)
        let f := putImage (putImage s.sec.flash kind o l) (1 - kind) o (imageOf s.sec.flash (1 - kind) k)
        (setFlash s f, if flashOk then ⟨1, 0, kind, l⟩ else ends 1 6)

/-- What a write of APPLY does; `pkg` is what the firmware reads at SRC. -/
def fxApply (pkg : List Nat) (flashOk : Bool) (s : State) : State := fwuStart s 1 (applyGo pkg flashOk)

/-- The running slot is PENDING. -/
def runsPending (s : State) : Bool := slotState (bootRec s.sec.flash) (runSlot s) == 2

/-- CONFIRM (R419, R422). -/
def fxConfirm (svn : Bool) (s : State) : State := fwuStart s 2 fun s =>
  if !runsPending s then (s, ends 2 7)
  else
    let k := runSlot s
    let r := bootRec s.sec.flash
    let s := putBoot s { setSlotState (setSlotState r k 1) (1 - k) 1 with active := k }
    let s := closeDual s (readFormat s)
    let f := s.sec.fuses
    let fs := numAt (imageOf s.sec.flash 0 k) 5 1
    let rf := numAt (imageOf s.sec.flash 1 k) 5 1
    let s := if svn then setSec s { s.sec with fuses := { f with svnFs := max f.svnFs fs, svnRf := max f.svnRf rf } } else s
    (measure5 s, ends 2 0)

/-- REVERT (R419, R422): the warm reset it asks for comes when the operation is done. -/
def fxRevert (s : State) : State := fwuStart s 3 fun s =>
  if !runsPending s then (s, ends 3 7)
  else
    let k := runSlot s
    let s := putBoot s (setSlotState (bootRec s.sec.flash) k 3)
    (measure5 (closeDual s (formatOf s (1 - k))), ends 3 0)

/-- ABORT (R418): an APPLY in progress is stopped before its step 6, and its slot is left BAD. -/
def fxAbort (s : State) : State := match s.sec.op with
  | some o =>
    if o.op = 1 then raiseInt (wr (setSec s { s.sec with op := none }) Reg.FWU_STAT_BUSY 0 0) 0x0D 0 else wr s Reg.FWU_STAT_CODE 0 1
  | none => s

/-- The blob of `n` bytes of content, an owner public key and a signature verifies (R412, R423): with no owner, against
Tsungatex's key where `first` allows. The order in the blob is the model's (assumption 37). -/
def blobOk (s : State) (blob : List Nat) (n : Nat) (first : Bool) : Bool :=
  let key := cut blob n 1952
  let sig := cut blob (n + 1952) 3309
  let msg := blob.take (n + 1952)
  if s.sec.fuses.owner = 0 then first && Config.sigOk Config.tsungatexKey msg sig
  else Config.shake256 key == s.sec.fuses.owner && Config.sigOk key msg sig

/-- KEYLIST (R412). -/
def fxKeylist (blob : List Nat) (s : State) : State := fwuStart s 5 fun s =>
  let n := numAt blob 0 4
  let m := 4 + 1952 * n
  if n > 32 ∨ blob.length ≠ m + 1952 + 3309 then (s, ends 5 0xB)
  else if !blobOk s blob m true then (s, ends 5 2)
  else
    let l := (List.range n).map fun i => cut blob (4 + 1952 * i) 1952
    (measure4 (setFlash s { s.sec.flash with keys := l }), ends 5 0)

/-- OWNER (R407, R412). -/
def fxOwner (blob : List Nat) (s : State) : State := fwuStart s 6 fun s =>
  if s.sec.fuses.owner ≠ 0 then (s, ends 6 0xA)
  else if blob.length ≠ 32 + 3309 then (s, ends 6 0xB)
  else if !(Config.sigOk Config.tsungatexKey (blob.take 32) (blob.drop 32)) then (s, ends 6 2)
  else
    let f := s.sec.fuses
    (measure5 (setSec s { s.sec with fuses := { f with owner := numAt blob 0 32 } }), ends 6 0)

/-- DEBUG (R423): with DEBUG_EN clear it is not accepted, and the spec names no code for that (assumption 37). -/
def fxDebug (blob : List Nat) (s : State) : State := fwuStart s 7 fun s =>
  if !s.sec.fuses.debugEn then (fresh s, ends 7 (2 + freeNat s % 11))
  else if blob.length < 1952 + 3309 then (s, ends 7 0xB)
  else if !blobOk s blob (blob.length - 1952 - 3309) false then (s, ends 7 2)
  else (measure5 (bump (wr s Reg.SEC_FUSE_STAT_UNLOCK 0 1) Reg.SEC_UNLOCK_CNT 0 1), ends 7 0)

/-- A write to `FWU.CMD` by its OP, as a plain register write brings it: the package or blob is what the host memory holds. -/
def fxFwu (v : Nat) (s : State) : State :=
  let l := (List.range (rd s Reg.FWU_LEN 0)).map fun i =>
    (Config.outsideByte s.fv 0x40 (rd2 s Reg.FWU_SRC_LO Reg.FWU_SRC_HI 0 + i)).toNat
  let op := v % 8
  if op = 1 then fresh (fxApply l true s)
  else if op = 2 then fxConfirm (bit v 3) s
  else if op = 3 then fxRevert s
  else if op = 4 then fxAbort s
  else if op = 5 then fresh (fxKeylist l s)
  else if op = 6 then fresh (fxOwner l s)
  else if op = 7 then fresh (fxDebug l s)
  else s

/-- The register write of an operation. -/
def fwuWrite (ag : Agent) (v : Nat) (f : State → State) (s : State) : Out :=
  .next (agentWrite ag Reg.FWU_CMD_OP 0 v (fun _ s => f s) s)

/-- APPLY (R418). -/
def execApply (ag : Agent) (pkg : List Nat) (flashOk : Bool) (s : State) : Out := fwuWrite ag 1 (fxApply pkg flashOk) s
/-- CONFIRM (R419). -/
def execConfirm (ag : Agent) (svnCommit : Bool) (s : State) : Out := fwuWrite ag (2 + 8 * oneIf svnCommit) (fxConfirm svnCommit) s
/-- REVERT (R419). -/
def execRevert (ag : Agent) (s : State) : Out := fwuWrite ag 3 fxRevert s
/-- ABORT (R418). -/
def execAbort (ag : Agent) (s : State) : Out := fwuWrite ag 4 fxAbort s
/-- KEYLIST (R412). -/
def execKeylist (ag : Agent) (blob : List Nat) (s : State) : Out := fwuWrite ag 5 (fxKeylist blob) s
/-- OWNER (R412). -/
def execOwner (ag : Agent) (blob : List Nat) (s : State) : Out := fwuWrite ag 6 (fxOwner blob) s
/-- DEBUG (R423). -/
def execDebug (ag : Agent) (blob : List Nat) (s : State) : Out := fwuWrite ag 7 (fxDebug blob) s

/-- FWU_OP_DONE (R418, R419, R426). -/
def execFwuOpDone (us : Nat) (s : State) : Out :=
  live s (match s.sec.op with
    | none => s
    | some o =>
      let s := wr (wr (setSec s { s.sec with op := none }) Reg.FWU_STAT_BUSY 0 0) Reg.FWU_STAT_CODE 0 o.code
      let s := if o.op = 1 then wr s Reg.FWU_APPLY_US 0 (min us (2 ^ 32 - 1)) else s
      let s := if o.op = 1 ∧ o.code = 0 then
          putBoot s { setSlotState (bootRec s.sec.flash) (1 - runSlot s) 2 with tries := 3 } else s
      let s := raiseInt s 0x0D 0
      if o.op = 3 ∧ o.code = 0 then warmReset s else s)

/-! ### Settings messages (R421, R422) -/

/-- SETTINGS_SET (R421): a firmware message; `flashOk` whether the store can be written. -/
def execSettingsSet (id fmt : Nat) (val : List Nat) (flashOk : Bool) (s : State) : Out :=
  live s (if attests s = false then s
    else
      let answer (s : State) (st : Nat) : State := fresh (sendMail s 2 (freeNat s) [0xA0, st])
      if !settingIds.contains id then answer s 1
      else if fmt ≠ readFormat s id then answer s 2
      else if !valueOk s id fmt val then answer s 3
      else if !flashOk then answer s 4
      else
        let s := if id = 0x10 then s else applyValue s id fmt val
        answer (writeStore s (withValue s id fun f => if f = fmt then val else regValue s id f)) 0)

/-- SETTINGS_MIRROR (R421, R422): a mirrored register that has changed is copied into the store. -/
def execSettingsMirror (id : Nat) (s : State) : Out :=
  live s (if !rimRuns s ∨ id = 0x10 ∨ settingIds.contains id = false then s
    else writeStore s (withValue s id fun f => regValue s id f))

/-! ### The rim processors (R445) -/

/-- RIM_BEAT (R445). -/
def execRimBeat (s : State) : Out :=
  live s (if rimRuns s then wr s Reg.RIM_BEAT 0 (rd s Reg.RIM_BEAT 0 + 1) else s)

/-- RIM_WATCHDOG (R445): `rpc` is the program counter recorded. -/
def execRimWatchdog (rpc : Nat) (s : State) : Out :=
  live s (if !rimRuns s then s
    else
      let s := wr (wr (wr s Reg.RIM_STAT_RUN0 0 0) Reg.RIM_STAT_RUN1 0 0) Reg.RIM_STAT_FAULT 0 1
      let s := bump (wr2 s Reg.RIM_FAULT_PC_LO Reg.RIM_FAULT_PC_HI 0 rpc) Reg.RIM_RESTARTS 0 1
      raiseInt s 0x0E 0)

/-- RIM_RESTART_COMPLETE (R445): what waited goes on. -/
def execRimRestartComplete (s : State) : Out :=
  live s (if rd s Reg.RIM_STAT_FAULT 0 = 0 ∧ rd s Reg.RIM_RESTARTS 0 = 0 ∨ rimRuns s = true then s
    else takeMail (wr (wr s Reg.RIM_STAT_RUN0 0 1) Reg.RIM_STAT_RUN1 0 1))

/-! ### I3C and the test port (R451) -/

/-- I3C_DYNAMIC_ADDRESS_ASSIGN (R451): the target stays served in the power-fail halt (R385). -/
def execI3cDynamicAddressAssign (addr : Nat) (s : State) : Out :=
  onUnit (addr < 128) (.next (if s.pow.off then s else setSec s { s.sec with i3c := some addr }))

/-- TEST_PORT_INSTRUCTION (R451): IDCODE puts the device's code on the data register. What the boundary-scan cells hold is the
board's; an instruction not listed selects BYPASS (assumption 38). -/
def execTestPortInstruction (ins : JtagIns) (s : State) : Out :=
  .next (if s.pow.off then s
    else
      let j := match ins with | .other _ => JtagIns.bypass | x => x
      let s := setSec s { s.sec with jtag := j }
      match j with
      | .idcode => emit s (.tdo 0x1C09A8B3)
      | .bypass => emit s (.tdo 0)
      | _ => s)

end Sys2Proof.Machine
end

