-- ==== Sys2Proof/Machine/CensusExec.lean ====
section
/-! DEFINITION. What writes do on each page, plain register accesses, holds, forwarded accesses, the census (chapter 17,
R177, R332, R333). -/

namespace Sys2Proof.Machine

/-! ### Fields that do not take every value -/

/-- PMASK (R177): an island a weave occupies is not removed, and one in another partition's mask is not set. -/
def fxPmask (p : Nat) (old s : State) : State :=
  let was := rd old Reg.WVE_PMASK p
  let v := rd s Reg.WVE_PMASK p
  let ok (k : Nat) : Bool :=
    if was.testBit k then v.testBit k || (isl s k).bind.isSome
    else v.testBit k && !((List.range 8).any fun q => q != p && rdBit s Reg.WVE_PMASK q k)
  let s := wr s Reg.WVE_PMASK p (ofBits ((List.range 32).filter ok))
  -- hot-set islands lie within the mask (R231): one that leaves it leaves the hot set
  let gone := (List.range 32).filter fun k => rdBit s Reg.WVE_HSET p k && !ok k
  down (eachOf gone s fun s k => clrBit s Reg.WVE_HSET p k) Reg.XLT_U_T1 p (32 * gone.length)

/-- A HOT weave occupies island `k`. -/
def hotOn (s : State) (k : Nat) : Bool := match (isl s k).bind with
  | some b => (match weaveOf s b (isl s k).newWeave with | some w => w.hot | none => false)
  | none => false

/-- HSET (R181, R231, R235, R237): bits are judged in ascending order. -/
def fxHset (p : Nat) (old s : State) : State :=
  let was := rd old Reg.WVE_HSET p
  let v := rd s Reg.WVE_HSET p
  eachOf (List.range 32) (wr s Reg.WVE_HSET p was) fun s k =>
    if was.testBit k && !v.testBit k then
      if hotOn s k then s else down (clrBit s Reg.WVE_HSET p k) Reg.XLT_U_T1 p 32
    else if !was.testBit k && v.testBit k then
      if rdBit s Reg.WVE_PMASK p k && decide (rd s Reg.XLT_U_T1 p + 32 ≤ rd s Reg.XLT_Q_T1 p)
      then up (setBit s Reg.WVE_HSET p k) Reg.XLT_U_T1 p 32 else s
    else s

/-- Registers given back their zeros. -/
def zeroRegs (s : State) (l : List Nat) : State := eachOf l s fun s a => ww s a 0

/-- FLT_CTRL of `WVE` (R180). -/
def fxWveClr (v : Nat) (s : State) : State :=
  let s := if bit v 0 then zeroRegs s [0x2120, 0x2124, 0x2128, 0x212C] else s
  if bit v 1 then zeroRegs s [0x2130, 0x2134] else s

/-- STK_HEALTH.FCLR (R90). -/
def fxStkClr (n v : Nat) (s : State) : State :=
  if bit v 1 then zeroRegs s [Reg.ISL_STK_FAULT_STAKE.addr n, Reg.ISL_STK_FAULT_D.addr n, Reg.ISL_STK_FAULT_E.addr n,
    Reg.ISL_STK_FAULT_M.addr n] else s
/-- BSH_CTRL.FCLR (R122). -/
def fxBshClr (n v : Nat) (s : State) : State :=
  if bit v 0 then zeroRegs s [Reg.ISL_BSH_FAULT_BUSHEL.addr n, Reg.ISL_BSH_FAULT_A_ADDR.addr n] else s
/-- FAB_CTRL.FCLR (R152). -/
def fxFabClr (n v : Nat) (s : State) : State :=
  if bit v 0 then zeroRegs s [Reg.ISL_FAB_FAULT_POS.addr n, Reg.ISL_FAB_FAULT_T_INFO.addr n] else s

/-- A field clamped between two bounds. -/
def clamp (s : State) (f : Fld) (i lo hi : Nat) : State := wr s f i (min hi (max lo (rd s f i)))

/-- `THERM` (R389): a field written above its value or below 60 keeps it. -/
def fxTherm (old s : State) : State :=
  let keep (f : Fld) (s : State) : State :=
    if rd s f 0 > rd old f 0 ∨ rd s f 0 < 60 then wr s f 0 (rd old f 0) else s
  keep Reg.PWR_THERM_THROT (keep Reg.PWR_THERM_WARN s)

/-- Pages of the engines `HOLD` names (R442). -/
def holdPage (k : Nat) : Nat := [4, 5, 6, 7, 3, 1].getD k 0

/-- HOLD (R442): a bit cleared releases its engine at once. -/
def fxHold (s : State) : State :=
  eachOf ((List.range 6).filter fun k => !rdBit s Reg.CEN_HOLD 0 k && rdBit s Reg.CEN_HOLD_ACK 0 k) s fun s k =>
    wr (clrBit s Reg.CEN_HOLD_ACK 0 k) Reg.HDR_STATUS_HELD (holdPage k) 0

/-! ### The census (R438 to R441) -/

/-- A list object (R438): count, then entries in ascending order of their first field. -/
def listObj (l : List (Nat × List Nat)) : List Nat :=
  leBytes 8 l.length ++ (sortBy (fun a b => decide (a.1 ≤ b.1)) l).flatMap Prod.snd

/-- RING (R441). -/
def objRing (s : State) (r : Nat) : List Nat :=
  let infl := (s.front.inflight ++ s.front.retired).filter fun c => c.ring == r
  let lat := match latch s r with | some (m, st) => m % 256 + 256 * (st % 2) + 512 | none => 0
  padTo 64 (packNums 4 [rd s Reg.CMD_RING_HEAD r, ringTail s r, rd s Reg.CMD_RING_LOW r, rd s Reg.CMD_RING_CQ_HEAD r,
      (rw s (Reg.CMD_RING_CFG_EN.addr r)).toNat, tget (fun _ => 0) s.front.pend r] ++
    leBytes 2 (fetchedOf s r).length ++ leBytes 2 infl.length ++ leBytes 4 lat ++ leBytes 8 (ringBase s r))

/-- STATE of an INFLIGHT entry (R440). -/
def CmdSt.code : CmdSt → Nat
  | .fetched => 1 | .dispatched => 1 | .running => 2 | .held => 3 | .yielding => 4 | .yielded => 5 | .restoring => 6
  | .retired => 7

/-- PROGRESS as it would read now (R249, R440). -/
def progressNow (s : State) (c : Cmd) : Nat :=
  if c.st = .retired then c.progress
  else match runOfCmd s c.ring c.idx with
    | some (_, _, w, _) => (match w.place with | k :: _ => rd s Reg.ISL_WV_RND k | [] => c.progress)
    | none => c.progress

/-- Fault records outstanding for a command (R440). -/
def recordsFor (s : State) (c : Cmd) : Nat :=
  let place := match runOfCmd s c.ring c.idx with | some (_, _, w, _) => w.place | none => []
  ((outstanding s).filter (holdsOn place c.ring c.idx)).length

/-- An INFLIGHT entry (R440). -/
def inflightEntry (s : State) (c : Cmd) (st : Nat) : List Nat :=
  leBytes 4 c.idx ++ [c.ring % 256, c.op, st, oneIf c.urgent + 2 * oneIf c.yOnce + 4 * (c.yReason % 4)] ++
    leBytes 4 c.tag ++ [c.engine % 256, c.bind.getD 0xFF] ++ leBytes 2 (recordsFor s c) ++
    leBytes 8 (if c.op = 0x11 then c.fld 0x30 8 else 0) ++ leBytes 4 (progressNow s c) ++ leBytes 4 0

/-- INFLIGHT (R439, R440). -/
def objInflight (s : State) (p : Nat) : List Nat :=
  listObj ((s.front.inflight.filter fun c => partOf c.ring == p).map (fun c => (c.idx, inflightEntry s c c.st.code)) ++
    (s.front.retired.filter fun c => partOf c.ring == p).map fun c => (c.idx, inflightEntry s c 7))

/-- SEMA (R439). -/
def objSema (s : State) (p : Nat) : List Nat :=
  (List.range 256).flatMap fun i => leBytes 4 (semVal s p i) ++ leBytes 4 (oneIf (semErr s p i))

/-- SHARE (R439). -/
def objShare (s : State) : List Nat :=
  (List.range 8).flatMap fun p => padTo 64 (leBytes 8 (standing s 0 p) ++ leBytes 8 (standing s 1 p) ++
    (List.range 3).flatMap fun k => leBytes 8 (toField 64 (bucket s p k)))

/-- BINDING (R439); the order of its fields is the model's (assumption 40). -/
def objBinding (s : State) (b : Nat) : List Nat :=
  let x := bind s b
  let mode := match x.op with | some (.drain, _) => 1 | some (.carry, _) => 2 | _ => 0
  let waiting := s.front.inflight.filter fun c => c.engine == 0 && !c.taken && c.bd == b
  padTo 64 (packNums 4 ((List.range 4).map fun j => (rw s (Reg.WVE_BIND_PART.addr b + 4 * j)).toNat) ++
    packNums 4 [rd s Reg.WVE_BIND_IMG_LO b, rd s Reg.WVE_BIND_IMG_HI b] ++
    leBytes 8 (match x.cur with | some w => w.size | none => 0) ++ leBytes 8 mode ++
    leBytes 8 (match x.new with | some w => w.img | none => 0) ++ leBytes 8 waiting.length)

/-- UNITS (R439); the places of its fields within a unit's bytes are the model's (assumption 40). -/
def objUnits (s : State) (n : Nat) : List Nat :=
  (List.range 32).flatMap (fun k =>
    let x := stk s (32 * n + k)
    padTo 8 (leBytes 4 x.pc ++ [x.frz % 256, oneIf x.ended])) ++
  (List.range 32).flatMap fun k =>
    let x := bsh s (32 * n + k)
    padTo 16 ((List.range 2).flatMap (fun e => leBytes 4 (x.eng.getD e Tally.idle).pc) ++ [x.code])

/-- Entries of a level of a partition's range (R186, R187, R439). -/
def objRange (s : State) (p lvl da : Nat) : List Nat ⊕ Nat :=
  let page := pageOf da
  if rd s Reg.XLT_ROOT_VALID p = 0 then .inr 5
  else if lvl = 1 then
    .inl ((List.range 4096).flatMap fun j => leBytes 8 (l1e s p (j * 2 ^ 24)))
  else if eKind (l1e s p page) = 0 then .inr 5
  else if lvl = 2 then
    .inl ((List.range 4096).flatMap fun j => leBytes 8 (l2e s p (page / 2 ^ 24 * 2 ^ 24 + j * 4096)))
  else if eKind (l2e s p page) = 0 then .inr 5
  else
    .inl ((List.range 4096).flatMap (fun j => leBytes 8 (l3e s p (page / 4096 * 4096 + j))) ++
      (List.range 4096).flatMap fun j => leBytes 8 (she s p (page / 4096 * 4096 + j)))

/-- FAULTS (R200, R439). -/
def objFaults (s : State) (p : Nat) : List Nat :=
  listObj ((recsOf s p).filterMap fun f => f.seq.map fun q => (q, leBytes 32 (logEntry f q)))

/-- MODEL (R232). -/
def objModel (s : State) (p m : Nat) : List Nat :=
  let x := model s p m
  leBytes 4 x.id ++ [x.cls % 256, x.active % 2 + 2 * oneIf x.swapPend] ++ leBytes 2 x.relSem ++
    packNums 8 [x.base.getD 0 0, x.size.getD 0 0, x.base.getD 1 0, x.size.getD 1 0] ++
    packNums 4 [x.refs.getD 0 0, x.refs.getD 1 0] ++ [if x.cls = 1 then x.bind else 0xFF] ++ leBytes 7 0 ++ leBytes 8 x.lastUse

/-- ADMIT (R227, R439); a free slot reads zero (assumption 40). -/
def objAdmit (s : State) (k : Nat) : List Nat := match tget (fun _ => none) s.mem.slots k with
  | some x => leBytes 8 x.part ++ leBytes 8 x.base ++ leBytes 8 x.first ++ leBytes 4 x.chunks.length ++ leBytes 4 x.keyId
  | none => List.replicate 32 0

/-- SLOT (R268, R439). -/
def objSlot (s : State) (k : Nat) : List Nat :=
  let x := sslot s k
  padTo 64 ([k, oneIf (slotOpen s k) + 8 * oneIf x.lpraw + 16 * oneIf x.bf16] ++ leBytes 2 x.topk ++
    packNums 4 [x.temp, x.topp, x.minp, x.rep, x.pres, x.freq, x.vocab] ++ leBytes 8 x.seed ++ leBytes 8 x.spill ++
    [x.part, oneIf (slotOpen s k), oneIf x.lossy, 0] ++ leBytes 4 x.step)

/-- COUNTS (R269, R439): entries in ascending order of token (assumption 40). -/
def objCounts (s : State) (k : Nat) : List Nat :=
  padTo 32768 ((sslot s k).counts.flatMap fun e => leBytes 4 (e.1 % 2 ^ 18 + 2 ^ 18 * e.2))

/-- TREE (R282, R439). -/
def objTree (s : State) (p : Nat) : List Nat :=
  let l := tget (fun _ => []) s.srv.regions p
  let b := l.getD 0 0
  padTo 64 (packNums 8 ((List.range 4).map fun j => l.getD j 0) ++
    [rd s Reg.IDX_CFG_LOG2NODES p, rd s Reg.IDX_CFG_BLKSZ p, 0, 0] ++ leBytes 4 (memRead s p b 4) ++ leBytes 4 (memRead s p (b + 4) 4))

/-- MIGR (R439). -/
def objMigr (s : State) : List Nat :=
  listObj (s.mem.migs.map fun m =>
    let da := m.seg % 2 ^ 31 * 2 ^ 21
    (da, padTo 32 (leBytes 8 da ++ [m.part, m.srcTier, m.dstTier, m.cause] ++ leBytes 4 m.copied)))

/-- LOCKS (R439). -/
def objLocks (s : State) : List Nat :=
  (List.range 112).flatMap fun pg => if pageExists pg then
    leBytes 4 (rw s (pg * 0x1000 + 0x38)).toNat ++ leBytes 4 (rw s (pg * 0x1000 + 0x3C)).toNat else List.replicate 8 0

/-- CMD_WO (R432, R439). -/
def objCmdWo (s : State) : List Nat :=
  padTo 512 ((List.range 64).flatMap (fun r => leBytes 4 (rw s (0x4000000 + 4 * r)).toNat) ++ leBytes 4 (rw s 0x4000100).toNat)

/-- CLOSE (R386, R439). -/
def objClose (s : State) : List Nat ⊕ Nat := match regionAt s with
  | some a => .inl ((List.range 150016).map fun i => (tget (fun _ => (0 : Byte)) s.mem.t3 (a + i)).toNat)
  | none => .inr 5

/-- HEAT (R197, R439). -/
def objHeat (s : State) (tier first : Nat) : List Nat :=
  (List.range 4096).flatMap fun j => leBytes 4 (match getFseg s (fsegKey tier (first + j)) with
    | some x => min 65535 x.heat + 2 ^ 16 * min 16383 x.age + 2 ^ 30 * oneIf x.pool
    | none => 0)

/-- Frame segments of a tier: 512 GiB of T2, eight ports of T3 (R182, R183). -/
def tierSegs (tier : Nat) : Nat := if tier = 0 then 262144 else 2 ^ 23

/-- An instance of an object, or the code its copy ends with (R439). -/
def census (s : State) (code p i sel : Nat) : List Nat ⊕ Nat :=
  let pick (n : Nat) (l : Unit → List Nat) : List Nat ⊕ Nat := if i < n then .inl (l ()) else .inr 2
  if code = 0x01 then pick 64 fun _ => objRing s i
  else if code = 0x02 then .inl (objInflight s p)
  else if code = 0x03 then .inl (objSema s p)
  else if code = 0x04 then .inl (objShare s)
  else if code = 0x05 then pick 32 fun _ => objBinding s i
  else if code = 0x06 then pick 32 fun _ => objUnits s i
  else if code = 0x07 then if i = 0 ∨ i > 3 ∨ sel ≥ 2 ^ 52 then .inr 2 else objRange s p i sel
  else if code = 0x08 then .inl (objFaults s p)
  else if code = 0x09 then pick 256 fun _ => objModel s p i
  else if code = 0x0A then pick 256 fun _ => objAdmit s i
  else if code = 0x0B then pick 128 fun _ => objSlot s i
  else if code = 0x0C then pick 128 fun _ => objCounts s i
  else if code = 0x0D then if (tget (fun _ => []) s.srv.regions p).isEmpty then .inr 5 else .inl (objTree s p)
  else if code = 0x0E then .inl (objMigr s)
  else if code = 0x0F then .inl (objLocks s)
  else if code = 0x10 then .inl (objCmdWo s)
  else if code = 0x11 then objClose s
  else if code = 0x12 then
    if sel ≥ 2 ^ 32 ∨ sel % 2 ^ 31 ≥ tierSegs (sel / 2 ^ 31) then .inr 2 else .inl (objHeat s (sel / 2 ^ 31) (sel % 2 ^ 31))
  else .inr 2

/-- COPY_GO written (R438): the snapshot is taken now. -/
def fxCopyGo (v : Nat) (s : State) : State :=
  if !bit v 0 ∨ rd s Reg.CEN_COPY_STAT_BUSY 0 = 1 then s
  else
    let p := rd s Reg.CEN_COPY_OBJ_PART 0
    let x := census s (rd s Reg.CEN_COPY_OBJ_OBJ 0) p (rd s Reg.CEN_COPY_OBJ_INDEX 0)
      (rd2 s Reg.CEN_COPY_SEL_LO Reg.CEN_COPY_SEL_HI 0)
    let dst := 64 * rd s Reg.CEN_COPY_DST_LO_ADDR 0 + 2 ^ 32 * rd s Reg.CEN_COPY_DST_HI_ADDR 0
    let job : CopyJob := match x with
      | .inr c => ⟨c, 0, dst, p, []⟩
      | .inl l => if rd s Reg.CEN_COPY_LEN 0 < l.length then ⟨3, l.length, dst, p, []⟩ else ⟨0, l.length, dst, p, l⟩
    let s := wr (wr s Reg.CEN_COPY_STAT_BUSY 0 1) Reg.CEN_COPY_STAT_CODE 0 1
    let s := wr s Reg.CEN_COPY_TIME 0 s.now
    { s with hst := { s.hst with copy := some job } }

/-- COPY_GO (R438). -/
def execCopyGo (s : State) : Out := .next (agentWrite .host Reg.CEN_COPY_GO 0 1 (fun _ s => fxCopyGo 1 s) s)

/-- CENSUS_COPY_DONE (R438, R447): `written` bytes reached the host before the copy ended. The copy goes through the porter
with the fewest undispatched tiles, unregulated and charged. -/
def execCensusCopyDone (written : Nat) (s : State) : Out :=
  live s (match s.hst.copy with
    | none => s
    | some j =>
      let n := if j.code = 0 then min written j.bytes.length else 0
      let whole := decide (n = j.bytes.length) && rd s Reg.FUS_LINK_STAT_UP 0 == 1
      let code := if j.code ≠ 0 then j.code else if whole then 0 else 4
      let s := if n = 0 then s else
        porterTile (chargePb (emit s (.write j.dst n (leNum (j.bytes.take n)))) j.part n) (anyPorter s) n
      let s := wr (wr s Reg.CEN_COPY_STAT_BUSY 0 0) Reg.CEN_COPY_STAT_CODE 0 code
      let s := wr s Reg.CEN_COPY_BYTES 0 (if code = 3 then j.need else n)
      { s with hst := { s.hst with copy := none } })

/-! ### What a write does, register by register -/

/-- The entry of a field's register at address `a`, where it is one. -/
def entryAt (f : Fld) (a : Nat) : Option Nat := if f.hits a then some ((a - f.addr0) / f.stride) else none

/-- Does `k` where `a` is a register of field `f`. -/
def onReg (f : Fld) (a : Nat) (k : Nat → State) (els : Unit → State) : State := match entryAt f a with
  | some i => k i
  | none => els ()

/-- Actions of `CEN`, `CMD`, `WVE` and `XLT`. -/
def fxLow (old : State) (a v : Nat) (s : State) : State :=
  onReg Reg.CEN_COPY_GO a (fun _ => fxCopyGo v s) fun _ =>
  onReg Reg.CEN_HOLD a (fun _ => fxHold s) fun _ =>
  onReg Reg.CMD_RING_CFG_EN a (fun r => fxRingCfg r v old s) fun _ =>
  onReg Reg.CMD_RING_DB a (fun r => fxDoorbell r v s) fun _ =>
  onReg (regWord 0) a (fun p => fxRegulator p 0 s) fun _ =>
  onReg (regWord 1) a (fun p => fxRegulator p 1 s) fun _ =>
  onReg (regWord 2) a (fun p => fxRegulator p 2 s) fun _ =>
  onReg Reg.CMD_SEM_VAL a (fun _ => fxSemVal v s) fun _ =>
  onReg Reg.CMD_SEM_ERR_ERR a (fun _ => fxSemErr v s) fun _ =>
  onReg Reg.CMD_LED_CLR a (fun _ => fxLedClr v s) fun _ =>
  onReg Reg.WVE_PMASK a (fun p => fxPmask p old s) fun _ =>
  onReg Reg.WVE_HSET a (fun p => fxHset p old s) fun _ =>
  onReg Reg.WVE_FLT_CTRL_LCLR a (fun _ => fxWveClr v s) fun _ =>
  onReg Reg.XLT_HEAT_PERIOD a (fun _ => wr s Reg.XLT_HEAT_PERIOD 0 (max 1 (rd s Reg.XLT_HEAT_PERIOD 0))) fun _ =>
  onReg Reg.XLT_T2_HIGH a (fun _ => wr s Reg.XLT_T2_HIGH 0 (max (rd s Reg.XLT_T2_LOW 0) (rd s Reg.XLT_T2_HIGH 0))) fun _ =>
  onReg Reg.XLT_FLOG_BASE_LO_ADDR a (fun p => fxFlogBase p s) fun _ =>
  onReg Reg.XLT_FLOG_BASE_HI_ADDR a (fun p => fxFlogBase p s) fun _ =>
  onReg Reg.XLT_RESOLVE a (fun p => fxResolve p v false s) fun _ =>
  onReg Reg.XLT_FAILSEQ a (fun p => fxResolve p v true s) fun _ =>
  onReg Reg.XLT_FLT_CTRL_RETRY_ALL a (fun p => fxFltCtrl p v s) fun _ => s

/-- Actions of `SMP`, `COL`, `PWR`, `CLK`, `RST`, `FWU` and `FUS`. -/
def fxMid (old : State) (a v : Nat) (s : State) : State :=
  onReg Reg.SMP_SLOT_Q_MAX a (fun p => clamp s Reg.SMP_SLOT_Q_MAX p 0 128) fun _ =>
  onReg Reg.COL_TIMEOUT a (fun _ => wr s Reg.COL_TIMEOUT 0 (max 1 (rd s Reg.COL_TIMEOUT 0))) fun _ =>
  onReg Reg.PWR_CAP_CTRL_LIMIT a (fun _ => fxLimit s) fun _ =>
  onReg Reg.PWR_RAMP_BUDGET a (fun _ => clamp s Reg.PWR_RAMP_BUDGET 0 16 1000) fun _ =>
  onReg Reg.PWR_PART_FMAX a (fun p => clamp s Reg.PWR_PART_FMAX p 10 (gradeMax s)) fun _ =>
  onReg Reg.PWR_THERM_WARN a (fun _ => fxTherm old s) fun _ =>
  onReg Reg.PWR_THERM_CTRL_SREL a (fun _ => fxSrel v s) fun _ =>
  onReg Reg.PWR_HB a (fun _ => fxHb s) fun _ =>
  onReg Reg.PWR_HB_CTRL_EN a (fun _ => wr s Reg.PWR_HB_CTRL_TIMEOUT 0 (max 1 (rd s Reg.PWR_HB_CTRL_TIMEOUT 0))) fun _ =>
  onReg Reg.PWR_SAFE_PCT a (fun _ => setCap (clamp s Reg.PWR_SAFE_PCT 0 40 100)) fun _ =>
  onReg Reg.PWR_PFAIL_CTRL_GRACE a (fun _ => clamp s Reg.PWR_PFAIL_CTRL_GRACE 0 0 1500) fun _ =>
  onReg Reg.PWR_CREC_ACK a (fun _ => fxCrecAck v s) fun _ =>
  onReg Reg.CLK_DROOP_THR_MV a (fun d => clamp s Reg.CLK_DROOP_THR_MV d 20 120) fun _ =>
  onReg Reg.RST_CTRL_MODE_REQ a (fun _ => fxModeReq v s) fun _ =>
  onReg Reg.RST_SOFT_KEY a (fun _ => fxSoftKey v s) fun _ =>
  onReg Reg.RST_ISL_TEST_ISL a (fun _ => fxIslTest v s) fun _ =>
  onReg Reg.FWU_CMD_OP a (fun _ => fxFwu v s) fun _ =>
  onReg Reg.FUS_LINK_CTRL_RETRAIN a (fun _ => fxFusLink v s) fun _ =>
  onReg Reg.FUS_RECALL_TO a (fun _ => wr s Reg.FUS_RECALL_TO 0 (max 1 (rd s Reg.FUS_RECALL_TO 0))) fun _ =>
  onReg Reg.FUS_IVEC_MASK a (fun k => fxIvecMask k s) fun _ =>
  onReg Reg.FUS_MB_CTRL_H2R_GO a (fun _ => fxMbCtrl v s) fun _ =>
  onReg Reg.FUS_MB_H2R a (fun _ => fxMbH2r a old s) fun _ => s

/-- Actions of the pages with instances. -/
def fxHigh (old : State) (a v : Nat) (s : State) : State :=
  onReg Reg.ISL_STK_HEALTH_FCLR a (fun n => fxStkClr n v s) fun _ =>
  onReg Reg.ISL_BSH_CTRL_FCLR a (fun n => fxBshClr n v s) fun _ =>
  onReg Reg.ISL_FAB_CTRL_FCLR a (fun n => fxFabClr n v s) fun _ =>
  onReg Reg.ISL_FAB_FRZ_LIMIT a (fun n =>
    wr s Reg.ISL_FAB_FRZ_LIMIT n (max 0x10000 (rd s Reg.ISL_FAB_FRZ_LIMIT n))) fun _ =>
  onReg Reg.CAP_CTRL_RESCAN a (fun n => fxRescanFree n v s) fun _ =>
  onReg Reg.ETH_LINK_CTRL_EN a (fun n => fxEthLink n s) fun _ =>
  onReg Reg.ETH_QP_SEL_QP a (fun n => fxQpSel n old s) fun _ =>
  onReg Reg.ETH_QP_DB a (fun n => fxQpDb n v s) fun _ =>
  onReg Reg.SKL_LINK_CTRL_EN a (fun n => fxLinkCtrl n v old s) fun _ =>
  onReg Reg.SKL0_DOM_CTRL_EN a (fun _ => fxDomCtrl old s) fun _ =>
  onReg Reg.SKL0_DOM_ID a (fun _ => fxDomain a old s) fun _ =>
  onReg Reg.SKL0_DEV_DEVNUM a (fun _ => fxDomain a old s) fun _ =>
  onReg Reg.SKL0_ROSTER_SLICE a (fun _ => fxDomain a old s) fun _ => s

/-- What a write to any register does beyond its plain fields. -/
def fxOf : WriteFx := fun old a v s =>
  if a < 0x4000 then fxLow old a v s else if a < 0x10000 then fxMid old a v s else fxHigh old a v s

/-! ### Commands on the window -/

/-- An address of the window, read or written as one access. -/
def inWindow (a : Nat) : Bool := decide (a < 2 ^ 26)

/-- REGISTER_WRITE (R6, R7, R429, R435, R436). -/
def execRegisterWrite (ag : Agent) (addr size v : Nat) (s : State) : Out :=
  onUnit (inWindow addr) (.next (regWrite ag addr size v fxOf s))

/-- RC_READ (R6): a read of any register, RC fields cleared. -/
def execRcRead (ag : Agent) (addr size : Nat) (s : State) : Out := onUnit (inWindow addr) (.next (readTo s ag addr size))

/-- LO_READ (R431). -/
def execLoRead (ag : Agent) (addr : Nat) (s : State) : Out :=
  onUnit (pairLo.any fun f => f.hits addr) (.next (readTo s ag addr 4))

/-- UNMAPPED_ACCESS (R428). -/
def execUnmappedAccess (ag : Agent) (addr : Nat) (isWr : Bool) (s : State) : Out :=
  onUnit (inWindow addr && !pageExists (addr / 0x1000))
    (.next (if isWr then regWrite ag addr 4 0 noFx s else readTo s ag addr 4))

/-- HOLD_WRITE (R442). -/
def execHoldWrite (ag : Agent) (v : Nat) (s : State) : Out :=
  .next (agentWrite ag Reg.CEN_HOLD 0 (v % 2 ^ 32) (fun _ s => fxHold s) s)

/-- The engine `HOLD` bit `k` names has no command in progress (R442). -/
def engineAtEnd (s : State) (k : Nat) : Bool :=
  decide (4 ≤ k) || !(s.front.inflight.any fun c => c.engine == 9 + k && c.taken)

/-- HOLD_ACK (R442, R447). -/
def execHoldAck (k : Nat) (s : State) : Out :=
  onUnit (decide (k < 6)) (live s (
    if rdBit s Reg.CEN_HOLD 0 k && !rdBit s Reg.CEN_HOLD_ACK 0 k && engineAtEnd s k then
      wr (setBit s Reg.CEN_HOLD_ACK 0 k) Reg.HDR_STATUS_HELD (holdPage k) 1 else s))

/-- A write to the LOCK of a page. -/
def lockWrite (ag : Agent) (page v : Nat) (s : State) : Out :=
  onUnit (pageExists page) (.next (regWrite ag (page * 0x1000 + 0x38) 4 v noFx s))

/-- LOCK_ACQ (R435). -/
def execLockAcq (ag : Agent) (page : Nat) (s : State) : Out := lockWrite ag page (2 ^ 8) s
/-- LOCK_REL (R435). -/
def execLockRel (ag : Agent) (page : Nat) (s : State) : Out := lockWrite ag page (2 ^ 9) s
/-- LOCK_SEAL (R436). -/
def execLockSeal (ag : Agent) (page : Nat) (s : State) : Out := lockWrite ag page (2 ^ 10) s

/-- PMASK_WRITE (R177). -/
def execPmaskWrite (ag : Agent) (p v : Nat) (s : State) : Out :=
  onUnit (decide (p < 8)) (.next (agentWrite ag Reg.WVE_PMASK p (v % 2 ^ 32) (fun old s => fxPmask p old s) s))
/-- HSET_WRITE (R237). -/
def execHsetWrite (ag : Agent) (p v : Nat) (s : State) : Out :=
  onUnit (decide (p < 8)) (.next (agentWrite ag Reg.WVE_HSET p (v % 2 ^ 32) (fun old s => fxHset p old s) s))
/-- LCLR (R180). -/
def execLclr (ag : Agent) (s : State) : Out := .next (agentWrite ag Reg.WVE_FLT_CTRL_LCLR 0 1 (fun _ s => fxWveClr 1 s) s)
/-- RCLR (R180). -/
def execRclr (ag : Agent) (s : State) : Out := .next (agentWrite ag Reg.WVE_FLT_CTRL_RCLR 0 2 (fun _ s => fxWveClr 2 s) s)
/-- STK_FCLR (R90). -/
def execStkFclr (ag : Agent) (n : Nat) (s : State) : Out :=
  onUnit (decide (n < 32)) (.next (agentWrite ag Reg.ISL_STK_HEALTH_FCLR n 2 (fun _ s => fxStkClr n 2 s) s))
/-- BSH_FCLR (R122). -/
def execBshFclr (ag : Agent) (n : Nat) (s : State) : Out :=
  onUnit (decide (n < 32)) (.next (agentWrite ag Reg.ISL_BSH_CTRL_FCLR n 1 (fun _ s => fxBshClr n 1 s) s))
/-- FAB_FCLR (R152). -/
def execFabFclr (ag : Agent) (n : Nat) (s : State) : Out :=
  onUnit (decide (n < 32)) (.next (agentWrite ag Reg.ISL_FAB_CTRL_FCLR n 1 (fun _ s => fxFabClr n 1 s) s))

/-! ### Forwarded accesses (R332, R333) -/

/-- A response to a forwarded read. -/
def regAnswer (s : State) (dev req v : Nat) : State := route s (mkFlit s 6 dev 0 0 0 true [req, v] [])

/-- REG (R333): taken from the lead alone. -/
def execReg (n : Nat) (h : FlitHdr) (req : Nat) (isWr : Bool) (size v : Nat) (s : State) : Out := onFlit n 0 h s fun s =>
  let d := h.src % 64
  let a := h.info % 2 ^ 26
  if rd s Reg.SKL0_DOM_LEAD_VALID 0 = 1 ∧ rd s Reg.SKL0_DOM_LEAD_DEV 0 = d then
    if isWr then regWrite .lead a size v fxOf s
    else
      let r := regRead s .lead a size
      regAnswer r.2 d req r.1
  else
    let s := bump s Reg.SKL_REG_DROP n 1
    if isWr then s else regAnswer s d req 0xFFFFFFFF

/-- REGRSP (R332): the read that waits for it is answered. -/
def execRegrsp (n : Nat) (h : FlitHdr) (req v : Nat) (s : State) : Out := onFlit n 1 h s fun s =>
  match s.skl.regs.find? fun q => q.id == req && !q.isWr && q.sent && q.dev == h.src % 64 with
  | none => s
  | some q =>
    let l := s.skl.regs.filter fun z => z != q
    { s with skl := { s.skl with regs := l }, rdata := v % 2 ^ (8 * q.size) }

/-- An access to another device's slot: kept until the window writes the host sent before it are acknowledged, and behind
those that wait for them (R332). -/
def forwardReg (s : State) (d off size : Nat) (isWr : Bool) (v : Nat) : State :=
  let q : RegReq := ⟨s.skl.reqNext, d, off, size, isWr, v, false⟩
  let behind := s.skl.regs.any fun z => z.dev == d && !z.sent
  let s := { s with skl := { s.skl with reqNext := s.skl.reqNext + 1 } }
  if behind || (isWr && hostWritesTo s d) then
    { s with skl := { s.skl with regs := s.skl.regs ++ [q] } }
  else
    let s := if isWr then s else { s with skl := { s.skl with regs := s.skl.regs ++ [{ q with sent := true }] } }
    route s (regFlit s q)

/-- DOMAIN_APERTURE_ACCESS (R332, R350, R357): slot DEVNUM is the lead's own window; a read of another answers when its REGRSP
comes. -/
def execDomainApertureAccess (off size : Nat) (isWr : Bool) (v : Nat) (s : State) : Out :=
  onUnit (decide (off < 2 ^ 32)) (.next (
    if cutOff s .host then s
    else if rd s Reg.SKL0_DOM_CTRL_LEAD 0 = 0 then (if isWr then s else { s with rdata := 2 ^ (8 * size) - 1 })
    else
      let d := off / 2 ^ 26
      let o := off % 2 ^ 26
      if d = rd s Reg.SKL0_DEV_DEVNUM 0 then (if isWr then regWrite .host o size v fxOf s else readTo s .host o size)
      else forwardReg s d o size isWr v))

end Sys2Proof.Machine
end

