-- ==== Sys2Proof/Machine/Dispatch.lean ====
section
/-! DEFINITION. One arm per command: each calls the meaning of its row. -/

namespace Sys2Proof.Machine

/-- A command's effect on everything but the queue. -/
def exec (i : Instr) (s : State) : Host.Outcome State Fault Refusal :=
  match i with
  | .stakeNop stk => Sys2Proof.Machine.execStakeNop stk s
  | .mtile stk => Sys2Proof.Machine.execMtile stk s
  | .vset stk => Sys2Proof.Machine.execVset stk s
  | .vrun stk => Sys2Proof.Machine.execVrun stk s
  | .vconst stk => Sys2Proof.Machine.execVconst stk s
  | .octl stk => Sys2Proof.Machine.execOctl stk s
  | .stakeLoop stk => Sys2Proof.Machine.execStakeLoop stk s
  | .waith stk => Sys2Proof.Machine.execWaith stk s
  | .relh stk => Sys2Proof.Machine.execRelh stk s
  | .stakeSync stk => Sys2Proof.Machine.execStakeSync stk s
  | .stakeEnd stk => Sys2Proof.Machine.execStakeEnd stk s
  | .tileDrain stk upset parity => Sys2Proof.Machine.execTileDrain stk upset parity s
  | .tileVerdict stk => Sys2Proof.Machine.execTileVerdict stk s
  | .recomputeDone stk upset => Sys2Proof.Machine.execRecomputeDone stk upset s
  | .tallyNop b e => Sys2Proof.Machine.execTallyNop b e s
  | .seti b e => Sys2Proof.Machine.execSeti b e s
  | .setv b e => Sys2Proof.Machine.execSetv b e s
  | .addi b e => Sys2Proof.Machine.execAddi b e s
  | .madd b e => Sys2Proof.Machine.execMadd b e s
  | .ldx b e => Sys2Proof.Machine.execLdx b e s
  | .tallyLoop b e => Sys2Proof.Machine.execTallyLoop b e s
  | .acq b e => Sys2Proof.Machine.execAcq b e s
  | .rel b e => Sys2Proof.Machine.execRel b e s
  | .rd b e bad => Sys2Proof.Machine.execRd b e bad s
  | .wr b e => Sys2Proof.Machine.execWr b e s
  | .fetch b e => Sys2Proof.Machine.execFetch b e s
  | .store b e => Sys2Proof.Machine.execStore b e s
  | .hpush b e => Sys2Proof.Machine.execHpush b e s
  | .htake b e => Sys2Proof.Machine.execHtake b e s
  | .hret b e => Sys2Proof.Machine.execHret b e s
  | .tallySync b e => Sys2Proof.Machine.execTallySync b e s
  | .tallyEnd b e => Sys2Proof.Machine.execTallyEnd b e s
  | .requestIssue b => Sys2Proof.Machine.execRequestIssue b s
  | .mergeWaitExpiry b q => Sys2Proof.Machine.execMergeWaitExpiry b q s
  | .arrivalLand b q => Sys2Proof.Machine.execArrivalLand b q s
  | .storeAck b q => Sys2Proof.Machine.execStoreAck b q s
  | .verdictSignal b stk => Sys2Proof.Machine.execVerdictSignal b stk s
  | .replayRequest b e stk => Sys2Proof.Machine.execReplayRequest b e stk s
  | .handleReturn b => Sys2Proof.Machine.execHandleReturn b s
  | .bushelDone b => Sys2Proof.Machine.execBushelDone b s
  | .linkBeat isl pos out slot flips => Sys2Proof.Machine.execLinkBeat isl pos out slot flips s
  | .crossingDeliver isl pos dir => Sys2Proof.Machine.execCrossingDeliver isl pos dir s
  | .fullChange isl pos dir => Sys2Proof.Machine.execFullChange isl pos dir s
  | .holdReceive isl dir => Sys2Proof.Machine.execHoldReceive isl dir s
  | .roundEnd isl => Sys2Proof.Machine.execRoundEnd isl s
  | .skipEnd isl => Sys2Proof.Machine.execSkipEnd isl s
  | .deadlockLimit isl pos => Sys2Proof.Machine.execDeadlockLimit isl pos s
  | .lastRound isl => Sys2Proof.Machine.execLastRound isl s
  | .islandDone isl tail ns => Sys2Proof.Machine.execIslandDone isl tail ns s
  | .load r ix => Sys2Proof.Machine.execLoad r ix s
  | .loadComplete bd => Sys2Proof.Machine.execLoadComplete bd s
  | .invoke r ix => Sys2Proof.Machine.execInvoke r ix s
  | .islandRelease bd ns => Sys2Proof.Machine.execIslandRelease bd ns s
  | .replace r ix => Sys2Proof.Machine.execReplace r ix s
  | .drainSwitch bd => Sys2Proof.Machine.execDrainSwitch bd s
  | .carryOldUnload bd => Sys2Proof.Machine.execCarryOldUnload bd s
  | .relocate r ix => Sys2Proof.Machine.execRelocate r ix s
  | .unload r ix => Sys2Proof.Machine.execUnload r ix s
  | .bindingDrained bd => Sys2Proof.Machine.execBindingDrained bd s
  | .yieldFull r ix => Sys2Proof.Machine.execYieldFull r ix s
  | .yieldBoundary r ix => Sys2Proof.Machine.execYieldBoundary r ix s
  | .yieldQuiesced bd => Sys2Proof.Machine.execYieldQuiesced bd s
  | .yieldSaveDone bd => Sys2Proof.Machine.execYieldSaveDone bd s
  | .resumeFull r ix => Sys2Proof.Machine.execResumeFull r ix s
  | .resumeBoundary r ix => Sys2Proof.Machine.execResumeBoundary r ix s
  | .resumeProceed r ix => Sys2Proof.Machine.execResumeProceed r ix s
  | .restoreDone r ix detErr => Sys2Proof.Machine.execRestoreDone r ix detErr s
  | .abandon r ix => Sys2Proof.Machine.execAbandon r ix s
  | .modelSet r ix => Sys2Proof.Machine.execModelSet r ix s
  | .modelStage r ix => Sys2Proof.Machine.execModelStage r ix s
  | .modelSwap r ix => Sys2Proof.Machine.execModelSwap r ix s
  | .move r ix => Sys2Proof.Machine.execMove r ix s
  | .map r ix => Sys2Proof.Machine.execMap r ix s
  | .unmap r ix => Sys2Proof.Machine.execUnmap r ix s
  | .protect r ix => Sys2Proof.Machine.execProtect r ix s
  | .pin r ix => Sys2Proof.Machine.execPin r ix s
  | .unpin r ix => Sys2Proof.Machine.execUnpin r ix s
  | .hint r ix => Sys2Proof.Machine.execHint r ix s
  | .migrate r ix => Sys2Proof.Machine.execMigrate r ix s
  | .shadow r ix => Sys2Proof.Machine.execShadow r ix s
  | .poison r ix => Sys2Proof.Machine.execPoison r ix s
  | .unpoison r ix => Sys2Proof.Machine.execUnpoison r ix s
  | .admitSlot r ix => Sys2Proof.Machine.execAdmit r ix s
  | .unadmit r ix => Sys2Proof.Machine.execUnadmit r ix s
  | .porterTile job det => Sys2Proof.Machine.execPorterTile job det s
  | .arrivalTile r ix tile => Sys2Proof.Machine.execArrivalTile r ix tile s
  | .migrationSwitch m detErr => Sys2Proof.Machine.execMigrationSwitch m detErr s
  | .zeroFill p page => Sys2Proof.Machine.execZeroFill p page s
  | .detectionRepair p page place copyOk => Sys2Proof.Machine.execDetectionRepair p page place copyOk s
  | .faultLogWrite p => Sys2Proof.Machine.execFaultLogWrite p s
  | .faultRetranslate k => Sys2Proof.Machine.execFaultRetranslate k s
  | .faultYieldWait bd => Sys2Proof.Machine.execFaultYieldWait bd s
  | .resolveWrite ag p seq => Sys2Proof.Machine.execResolveWrite ag p seq s
  | .failseqWrite ag p seq => Sys2Proof.Machine.execFailseqWrite ag p seq s
  | .retryAll ag p => Sys2Proof.Machine.execRetryAll ag p s
  | .failAll ag p => Sys2Proof.Machine.execFailAll ag p s
  | .flogRdWrite ag p v => Sys2Proof.Machine.execFlogRdWrite ag p v s
  | .flogBaseWrite ag p hi v => Sys2Proof.Machine.execFlogBaseWrite ag p hi v s
  | .nop r ix => Sys2Proof.Machine.execNop r ix s
  | .semSet r ix => Sys2Proof.Machine.execSemSet r ix s
  | .doorbell ag r v => Sys2Proof.Machine.execDoorbell ag r v s
  | .commandFetch r => Sys2Proof.Machine.execCommandFetch r s
  | .commandDispatch r => Sys2Proof.Machine.execCommandDispatch r s
  | .commandRetire r ix => Sys2Proof.Machine.execCommandRetire r ix s
  | .completionWrite r => Sys2Proof.Machine.execCompletionWrite r s
  | .coalTimeout r => Sys2Proof.Machine.execCoalTimeout r s
  | .ringEnWrite ag r v => Sys2Proof.Machine.execRingEnWrite ag r v s
  | .ringByld ag r => Sys2Proof.Machine.execRingByld ag r s
  | .ringBres ag r => Sys2Proof.Machine.execRingBres ag r s
  | .ringReset ag r => Sys2Proof.Machine.execRingReset ag r s
  | .semValWrite ag v => Sys2Proof.Machine.execSemValWrite ag v s
  | .ledClr ag v => Sys2Proof.Machine.execLedClr ag v s
  | .regulatorWrite ag p k v => Sys2Proof.Machine.execRegulatorWrite ag p k v s
  | .slotSet r ix => Sys2Proof.Machine.execSlotSet r ix s
  | .slotClose r ix => Sys2Proof.Machine.execSlotClose r ix s
  | .pick r ix => Sys2Proof.Machine.execPick r ix s
  | .verify r ix => Sys2Proof.Machine.execVerify r ix s
  | .countAdd r ix => Sys2Proof.Machine.execCountAdd r ix s
  | .idxSetup r ix => Sys2Proof.Machine.execIdxSetup r ix s
  | .lookup r ix => Sys2Proof.Machine.execLookup r ix s
  | .insert r ix => Sys2Proof.Machine.execInsert r ix s
  | .publish r ix => Sys2Proof.Machine.execPublish r ix s
  | .release r ix => Sys2Proof.Machine.execRelease r ix s
  | .pause r ix => Sys2Proof.Machine.execPause r ix s
  | .evict r ix => Sys2Proof.Machine.execEvict r ix s
  | .recomputeSpan r ix => Sys2Proof.Machine.execRecomputeSpan r ix s
  | .repair r ix => Sys2Proof.Machine.execRepair r ix s
  | .walkerMigrationDone p node => Sys2Proof.Machine.execWalkerMigrationDone p node s
  | .reclRdWrite ag p v => Sys2Proof.Machine.execReclRdWrite ag p v s
  | .build r ix => Sys2Proof.Machine.execBuild r ix s
  | .groupSet r ix => Sys2Proof.Machine.execGroupSet r ix s
  | .groupClear r ix => Sys2Proof.Machine.execGroupClear r ix s
  | .allreduce r ix => Sys2Proof.Machine.execAllreduce r ix s
  | .allgather r ix => Sys2Proof.Machine.execAllgather r ix s
  | .reducescatter r ix => Sys2Proof.Machine.execReducescatter r ix s
  | .alltoall r ix => Sys2Proof.Machine.execAlltoall r ix s
  | .barrier r ix => Sys2Proof.Machine.execBarrier r ix s
  | .rowstat r ix => Sys2Proof.Machine.execRowstat r ix s
  | .cready n h grp seq tag nmem rcap => Sys2Proof.Machine.execCready n h grp seq tag nmem rcap s
  | .cdata n h data => Sys2Proof.Machine.execCdata n h data s
  | .ccredit n h => Sys2Proof.Machine.execCcredit n h s
  | .cabort n h grp seq => Sys2Proof.Machine.execCabort n h grp seq s
  | .collectiveTimeout g => Sys2Proof.Machine.execCollectiveTimeout g s
  | .flitWr n h req data det => Sys2Proof.Machine.execFlitWr n h req data det s
  | .wrack n h req outcome => Sys2Proof.Machine.execWrack n h req outcome s
  | .rdreq n h req det => Sys2Proof.Machine.execRdreq n h req det s
  | .rddata n h req outcome data => Sys2Proof.Machine.execRddata n h req outcome data s
  | .reg n h req isWr size v => Sys2Proof.Machine.execReg n h req isWr size v s
  | .regrsp n h req v => Sys2Proof.Machine.execRegrsp n h req v s
  | .intr n h page => Sys2Proof.Machine.execIntr n h page s
  | .mgmtNak n h named => Sys2Proof.Machine.execMgmtNak n h named s
  | .mgmtAck n h named => Sys2Proof.Machine.execMgmtAck n h named s
  | .ackTimer n => Sys2Proof.Machine.execAckTimer n s
  | .portTrained n peer => Sys2Proof.Machine.execPortTrained n peer s
  | .portTrainFail n => Sys2Proof.Machine.execPortTrainFail n s
  | .portDown n => Sys2Proof.Machine.execPortDown n s
  | .linkCtrlEn ag n v => Sys2Proof.Machine.execLinkCtrlEn ag n v s
  | .skeinRetrain ag n => Sys2Proof.Machine.execSkeinRetrain ag n s
  | .domEnClear ag v => Sys2Proof.Machine.execDomEnClear ag v s
  | .hostApertureAccess off size isWr cached v => Sys2Proof.Machine.execHostApertureAccess off size isWr cached v s
  | .lineRecall line => Sys2Proof.Machine.execRecall line s
  | .recallDone line => Sys2Proof.Machine.execRecallDone line s
  | .recallTimeout line => Sys2Proof.Machine.execRecallTimeout line s
  | .fustraUp gen2 x8 => Sys2Proof.Machine.execFustraUp gen2 x8 s
  | .fusRetrain ag => Sys2Proof.Machine.execFusRetrain ag s
  | .ivecMaskWrite ag k v => Sys2Proof.Machine.execIvecMaskWrite ag k v s
  | .intSet ag page v => Sys2Proof.Machine.execIntSet ag page v s
  | .rescan ag n dev => Sys2Proof.Machine.execRescan ag n dev s
  | .capOffline n fatal => Sys2Proof.Machine.execCapOffline n fatal s
  | .capRetrain n serial => Sys2Proof.Machine.execCapRetrain n serial s
  | .qpDb ag n v => Sys2Proof.Machine.execQpDb ag n v s
  | .qpSelWrite ag n v => Sys2Proof.Machine.execQpSelWrite ag n v s
  | .ethWrite n qp w => Sys2Proof.Machine.execEthWrite n qp w s
  | .ethRead n qp w data => Sys2Proof.Machine.execEthRead n qp w data s
  | .ethSend n qp w => Sys2Proof.Machine.execEthSend n qp w s
  | .ethLinkChange n up => Sys2Proof.Machine.execEthLinkChange n up s
  | .tempSample k raw => Sys2Proof.Machine.execTempSample k raw s
  | .droopDetect d m mv edges => Sys2Proof.Machine.execDroopDetect d m mv edges s
  | .pmonRead codes => Sys2Proof.Machine.execPmonRead codes s
  | .powerEstimate w avg => Sys2Proof.Machine.execPowerEstimate w avg s
  | .capEvaluation est duty => Sys2Proof.Machine.execCapEvaluation est duty s
  | .pointRaise est => Sys2Proof.Machine.execPointRaise est s
  | .limitWrite ag v => Sys2Proof.Machine.execLimitWrite ag v s
  | .thermalTargetFall p => Sys2Proof.Machine.execThermalTargetFall p s
  | .thermalTargetRise p => Sys2Proof.Machine.execThermalTargetRise p s
  | .slopeEval v => Sys2Proof.Machine.execSlopeEval v s
  | .deepBrakeCheck v => Sys2Proof.Machine.execDeepBrakeCheck v s
  | .srel ag => Sys2Proof.Machine.execSrel ag s
  | .hb ag v => Sys2Proof.Machine.execHb ag v s
  | .vrcStatPoll j stat late => Sys2Proof.Machine.execVrcStatPoll j stat late s
  | .vrcAlert stats => Sys2Proof.Machine.execVrcAlert stats s
  | .stepPrepared bd ns => Sys2Proof.Machine.execStepPrepared bd ns s
  | .clockSwitch bd gap => Sys2Proof.Machine.execClockSwitch bd gap s
  | .stepResume bd => Sys2Proof.Machine.execStepResume bd s
  | .powerOnReset straps recoveryN railsOk => Sys2Proof.Machine.execPowerOnReset straps recoveryN railsOk s
  | .softReset ag key => Sys2Proof.Machine.execSoftReset ag key s
  | .bootStepDone us rep => Sys2Proof.Machine.execBootStepDone us rep s
  | .attachGo b0 b1 b2 => Sys2Proof.Machine.execAttachGo b0 b1 b2 s
  | .modeReq ag v => Sys2Proof.Machine.execModeReq ag v s
  | .islTestGo ag v => Sys2Proof.Machine.execIslTestGo ag v s
  | .islTestDone isl pass => Sys2Proof.Machine.execIslTestDone isl pass s
  | .rcvInfo i3c seq => Sys2Proof.Machine.execRcvInfo i3c seq s
  | .rcvBegin i3c seq kind size => Sys2Proof.Machine.execRcvBegin i3c seq kind size s
  | .rcvData i3c seq off data => Sys2Proof.Machine.execRcvData i3c seq off data s
  | .rcvEnd i3c seq flashOk => Sys2Proof.Machine.execRcvEnd i3c seq flashOk s
  | .rcvBoot i3c seq => Sys2Proof.Machine.execRcvBoot i3c seq s
  | .setEndpointId eid => Sys2Proof.Machine.execSetEndpointId eid s
  | .getCapabilities ver => Sys2Proof.Machine.execGetCapabilities ver s
  | .getCertificate slot off len => Sys2Proof.Machine.execGetCertificate slot off len s
  | .challenge nonce => Sys2Proof.Machine.execChallenge nonce s
  | .getMeasurements sel signed nonce => Sys2Proof.Machine.execGetMeasurements sel signed nonce s
  | .apply ag pkg flashOk => Sys2Proof.Machine.execApply ag pkg flashOk s
  | .confirm ag svnCommit => Sys2Proof.Machine.execConfirm ag svnCommit s
  | .revert ag => Sys2Proof.Machine.execRevert ag s
  | .abort ag => Sys2Proof.Machine.execAbort ag s
  | .keylist ag blob => Sys2Proof.Machine.execKeylist ag blob s
  | .owner ag blob => Sys2Proof.Machine.execOwner ag blob s
  | .debug ag blob => Sys2Proof.Machine.execDebug ag blob s
  | .fwuOpDone us => Sys2Proof.Machine.execFwuOpDone us s
  | .settingsSet id fmt val flashOk => Sys2Proof.Machine.execSettingsSet id fmt val flashOk s
  | .settingsMirror id => Sys2Proof.Machine.execSettingsMirror id s
  | .rimWatchdog rpc => Sys2Proof.Machine.execRimWatchdog rpc s
  | .censusCopyDone written => Sys2Proof.Machine.execCensusCopyDone written s
  | .holdWrite ag v => Sys2Proof.Machine.execHoldWrite ag v s
  | .holdAck k => Sys2Proof.Machine.execHoldAck k s
  | .lockAcq ag page => Sys2Proof.Machine.execLockAcq ag page s
  | .lockRel ag page => Sys2Proof.Machine.execLockRel ag page s
  | .lockSeal ag page => Sys2Proof.Machine.execLockSeal ag page s
  | .pmaskWrite ag p v => Sys2Proof.Machine.execPmaskWrite ag p v s
  | .hsetWrite ag p v => Sys2Proof.Machine.execHsetWrite ag p v s
  | .lclr ag => Sys2Proof.Machine.execLclr ag s
  | .rclr ag => Sys2Proof.Machine.execRclr ag s
  | .stkFclr ag isl => Sys2Proof.Machine.execStkFclr ag isl s
  | .bshFclr ag isl => Sys2Proof.Machine.execBshFclr ag isl s
  | .fabFclr ag isl => Sys2Proof.Machine.execFabFclr ag isl s
  | .rcRead ag addr size => Sys2Proof.Machine.execRcRead ag addr size s
  | .loRead ag addr => Sys2Proof.Machine.execLoRead ag addr s
  | .unmappedAccess ag addr isWr => Sys2Proof.Machine.execUnmappedAccess ag addr isWr s
  | .registerWrite ag addr size v => Sys2Proof.Machine.execRegisterWrite ag addr size v s
  | .droopRecovery d => Sys2Proof.Machine.execDroopRecovery d s
  | .domainApertureAccess off size isWr v => Sys2Proof.Machine.execDomainApertureAccess off size isWr v s
  | .i3cDynamicAddressAssign addr => Sys2Proof.Machine.execI3cDynamicAddressAssign addr s
  | .testPortInstruction ins => Sys2Proof.Machine.execTestPortInstruction ins s
  | .powerLoss keep => Sys2Proof.Machine.execPowerLoss keep s
  | .pfcPauseFrameReceive n pri => Sys2Proof.Machine.execPfcPauseFrameReceive n pri s
  | .heatScan => Sys2Proof.Machine.execHeatScan s
  | .expirySweep => Sys2Proof.Machine.execExpirySweep s
  | .fustraDown => Sys2Proof.Machine.execFustraDown s
  | .h2rGo => Sys2Proof.Machine.execH2rGo s
  | .brakeAssert => Sys2Proof.Machine.execBrakeAssert s
  | .brakeRelease => Sys2Proof.Machine.execBrakeRelease s
  | .dutyStep => Sys2Proof.Machine.execDutyStep s
  | .hbTimeout => Sys2Proof.Machine.execHbTimeout s
  | .safeCapEngage => Sys2Proof.Machine.execSafeCapEngage s
  | .powerFail => Sys2Proof.Machine.execPowerFail s
  | .pfailGraceEnd => Sys2Proof.Machine.execPfailGraceEnd s
  | .crecAck => Sys2Proof.Machine.execCrecAck s
  | .vrcAlertRelease => Sys2Proof.Machine.execVrcAlertRelease s
  | .refclkLost => Sys2Proof.Machine.execRefclkLost s
  | .aoClockSwitch => Sys2Proof.Machine.execAoClockSwitch s
  | .warmReset => Sys2Proof.Machine.execWarmReset s
  | .getEndpointId => Sys2Proof.Machine.execGetEndpointId s
  | .getMctpVersionSupport => Sys2Proof.Machine.execGetMctpVersionSupport s
  | .getMessageTypeSupport => Sys2Proof.Machine.execGetMessageTypeSupport s
  | .getVersion => Sys2Proof.Machine.execGetVersion s
  | .negotiateAlgorithms => Sys2Proof.Machine.execNegotiateAlgorithms s
  | .getDigests => Sys2Proof.Machine.execGetDigests s
  | .unsupportedRequest => Sys2Proof.Machine.execUnsupportedRequest s
  | .rimBeat => Sys2Proof.Machine.execRimBeat s
  | .copyGo => Sys2Proof.Machine.execCopyGo s
  | .refclkRestored => Sys2Proof.Machine.execRefclkRestored s
  | .rimRestartComplete => Sys2Proof.Machine.execRimRestartComplete s
  | .railMonitorRelease => Sys2Proof.Machine.execRailMonitorRelease s

end Sys2Proof.Machine
end

