-- ==== Sys2Proof/Machine/Tick.lean ====
section
/-! DEFINITION. What time alone does: the always-on time, the regulators' buckets (R256), the nanoseconds and frozen cycles
of running islands (R142, R166, R168, R254). -/

namespace Sys2Proof.Machine

/-- A microsecond of a regulator: RATE GB/s is 1,000 RATE bytes, up to BURST KiB (R256). -/
def fillBucket (s : State) (p k : Nat) : State :=
  let top : Int := (regBurst s p k * 1024 : Nat)
  let b := bucket s p k
  if regRate s p k = 0 ∨ b ≥ top then s else setBucket s p k (min top (b + (regRate s p k * 1000 : Nat)))

/-- The 24 regulators, as pairs of partition and kind. -/
def regulators : List (Nat × Nat) := (List.range 24).map fun j => (j / 3, j % 3)

/-- Freeze counters by place: the causes 1 to 8 of R141, then the switch codes 1 to 3 of R139 (R166, R178). -/
def frzRegs : List Fld :=
  [Reg.ISL_FRZ_FAULT, Reg.ISL_FRZ_PARITY, Reg.ISL_FRZ_THROTTLE, Reg.ISL_FRZ_MEM, Reg.ISL_FRZ_CHECK, Reg.ISL_FRZ_SCHED,
    Reg.ISL_FRZ_SKIP, Reg.ISL_FRZ_STEP, Reg.ISL_FRZ_XDRY, Reg.ISL_FRZ_XFULL, Reg.ISL_FRZ_SKEW]

/-- Every island of the weave on island `n` is frozen for a step: none has a clock (R143). -/
def clockless (s : State) (n : Nat) : Bool :=
  (isl s n).stepping && s.fab.isl.all fun e => decide (e.2.bind ≠ (isl s n).bind) || e.2.newWeave != (isl s n).newWeave || e.2.stepping

/-- The place of the counter a frozen cycle of island `n` counts in, from 1: its own cause, else the lowest a tree edge
delivers, else the lowest switch code; 0 where it is not frozen (R166). -/
def frzPlace (s : State) (n : Nat) : Nat :=
  let i := isl s n
  let held := i.tree.foldl (fun a e => minCause a (i.holdIn.getD e 0)) 0
  let z := switchCode s n
  if ownCause s n ≠ 0 then ownCause s n else if held ≠ 0 then held else if z ≠ 0 then 8 + z else 0

/-- A microsecond of an island in its rounds: the cycles of its clock count where it is frozen, but for those of a skip,
which its end counts, and toward the limit of R142. How many of its bushels' cycles a bank conflict froze is a matter of
instants: BSH_BANK rises by a free amount of at most that many cycles (R115, R122, assumption 78). -/
def islandCycles (s : State) (n : Nat) : State :=
  if !inRounds s n || clockless s n then s
  else
    let f := rd s Reg.CLK_FREQ_MHZ n
    let c := frzPlace s n
    let s := if c = 0 ∨ c = 7 then s else bump s (frzRegs.getD (c - 1) Reg.ISL_FRZ_SCHED) n f
    let s := setIsl s n { isl s n with dead := if schedFrozen s n then (isl s n).dead + f else 0 }
    fresh (bump s Reg.ISL_BSH_BANK n (freeNat s % (32 * f + 1)))

/-- A microsecond of an island whose weave has released its first island and which has not reported done (R168, R254). -/
def islandTime (s : State) (n : Nat) : State :=
  match runOf s n with
  | some (_, v) => if v.released = 0 ∨ v.stopped ∨ (isl s n).done then s else islNs s n 1000
  | none => s

/-- One microsecond passes, where the device has power (assumption 41). -/
def tick (s : State) : State :=
  if s.pow.off then s
  else
    let s := { s with now := s.now + 1 }
    if awake s then
      let s := eachOf regulators s fun s x => fillBucket s x.1 x.2
      eachOf (s.fab.isl.map Prod.fst) s fun s n => islandTime (islandCycles s n) n
    else s

end Sys2Proof.Machine
end

