-- ==== Sys2Proof/WellFormed.lean ====
section
/-! DEFINITION. Which commands name only units, pages and entries the device has. -/

namespace Sys2Proof

open Machine

/-- What a porter carries names a ring, or a bushel, the device has. -/
def jobOk : PorterJob → Bool
  | .cmdTile r i => ringOk r && decide (i < 2 ^ 32)
  | .bushel b _ => decide (b < 1024)
  | .migPage _ => true

/-- The command's operands lie in their ranges. -/
def Instr.wellFormed : Instr → Bool
  | .stakeNop stk => decide (stk < 1024)
  | .mtile stk => decide (stk.no < 1024)
  | .vset stk => decide (stk < 1024)
  | .vrun stk => decide (stk < 1024)
  | .vconst stk => decide (stk < 1024)
  | .octl stk => decide (stk < 1024)
  | .stakeLoop stk => decide (stk < 1024)
  | .waith stk => decide (stk < 1024)
  | .relh stk => decide (stk < 1024)
  | .stakeSync stk => decide (stk < 1024)
  | .stakeEnd stk => decide (stk < 1024)
  | .tileDrain stk _ _ => decide (stk < 1024)
  | .tileVerdict stk => decide (stk.no < 1024)
  | .recomputeDone stk _ => decide (stk.no < 1024)
  | .tallyNop b e => decide (b < 1024) && decide (e < 2)
  | .seti b e => decide (b < 1024) && decide (e < 2)
  | .setv b e => decide (b < 1024) && decide (e < 2)
  | .addi b e => decide (b < 1024) && decide (e < 2)
  | .madd b e => decide (b < 1024) && decide (e < 2)
  | .ldx b e => decide (b < 1024) && decide (e < 2)
  | .tallyLoop b e => decide (b < 1024) && decide (e < 2)
  | .acq b e => decide (b < 1024) && decide (e < 2)
  | .rel b e => decide (b < 1024) && decide (e < 2)
  | .rd b e _ => decide (b < 1024) && decide (e < 2)
  | .wr b e => decide (b < 1024) && decide (e < 2)
  | .fetch b e => decide (b < 1024) && decide (e < 2)
  | .store b e => decide (b < 1024) && decide (e < 2)
  | .hpush b e => decide (b < 1024) && decide (e < 2)
  | .htake b e => decide (b < 1024) && decide (e < 2)
  | .hret b e => decide (b < 1024) && decide (e < 2)
  | .tallySync b e => decide (b < 1024) && decide (e < 2)
  | .tallyEnd b e => decide (b < 1024) && decide (e < 2)
  | .requestIssue b => decide (b < 1024)
  | .mergeWaitExpiry b _ => decide (b < 1024)
  | .arrivalLand b _ => decide (b < 1024)
  | .storeAck b _ => decide (b < 1024)
  | .verdictSignal b stk => decide (b < 1024) && decide (stk.no < 1024)
  | .replayRequest b e stk => decide (b < 1024) && decide (e < 2) && decide (stk.no < 1024)
  | .handleReturn b => decide (b.no < 1024)
  | .bushelDone b => decide (b < 1024)
  | .linkBeat isl pos out slot _ => decide (isl < 32) && decide (pos < 64) && decide (out < 8) && decide (slot < 16)
  | .crossingDeliver isl pos dir => decide (isl < 32) && decide (pos < 64) && decide (dir.dir < 4) && decide (dir.stage < 3)
  | .fullChange isl pos dir => decide (isl < 32) && decide (pos < 64) && decide (dir.dir < 4) && decide (dir.stage < 3)
  | .holdReceive isl dir => decide (isl < 32) && decide (dir < 4)
  | .roundEnd isl => decide (isl < 32)
  | .skipEnd isl => decide (isl < 32)
  | .deadlockLimit isl pos => decide (isl < 32) && decide (pos < 64)
  | .lastRound isl => decide (isl < 32)
  | .islandDone isl _ _ => decide (isl < 32)
  | .load r i => ringOk r && decide (i < 2 ^ 32)
  | .loadComplete bd => decide (bd < 32)
  | .invoke r i => ringOk r && decide (i < 2 ^ 32)
  | .islandRelease bd _ => decide (bd < 32)
  | .replace r i => ringOk r && decide (i < 2 ^ 32)
  | .drainSwitch bd => decide (bd < 32)
  | .carryOldUnload bd => decide (bd < 32)
  | .relocate r i => ringOk r && decide (i < 2 ^ 32)
  | .unload r i => ringOk r && decide (i < 2 ^ 32)
  | .bindingDrained bd => decide (bd < 32)
  | .yieldFull r i => ringOk r && decide (i < 2 ^ 32)
  | .yieldBoundary r i => ringOk r && decide (i < 2 ^ 32)
  | .yieldQuiesced bd => decide (bd < 32)
  | .yieldSaveDone bd => decide (bd < 32)
  | .resumeFull r i => ringOk r && decide (i < 2 ^ 32)
  | .resumeBoundary r i => ringOk r && decide (i < 2 ^ 32)
  | .resumeProceed r i => ringOk r && decide (i < 2 ^ 32)
  | .restoreDone r i _ => ringOk r && decide (i < 2 ^ 32)
  | .abandon r i => ringOk r && decide (i < 2 ^ 32)
  | .modelSet r i => ringOk r && decide (i < 2 ^ 32)
  | .modelStage r i => ringOk r && decide (i < 2 ^ 32)
  | .modelSwap r i => ringOk r && decide (i < 2 ^ 32)
  | .move r i => ringOk r && decide (i < 2 ^ 32)
  | .map r i => ringOk r && decide (i < 2 ^ 32)
  | .unmap r i => ringOk r && decide (i < 2 ^ 32)
  | .protect r i => ringOk r && decide (i < 2 ^ 32)
  | .pin r i => ringOk r && decide (i < 2 ^ 32)
  | .unpin r i => ringOk r && decide (i < 2 ^ 32)
  | .hint r i => ringOk r && decide (i < 2 ^ 32)
  | .migrate r i => ringOk r && decide (i < 2 ^ 32)
  | .shadow r i => ringOk r && decide (i < 2 ^ 32)
  | .poison r i => ringOk r && decide (i < 2 ^ 32)
  | .unpoison r i => ringOk r && decide (i < 2 ^ 32)
  | .admitSlot r i => ringOk r && decide (i < 2 ^ 32)
  | .unadmit r i => ringOk r && decide (i < 2 ^ 32)
  | .porterTile job _ => jobOk job
  | .arrivalTile r i _ => ringOk r && decide (i < 2 ^ 32)
  | .migrationSwitch _ _ => true
  | .heatScan => true
  | .zeroFill p page => decide (p < 8) && decide (page < 2 ^ 36)
  | .detectionRepair p page place _ => decide (p < 8) && decide (page < 2 ^ 36) && decide (place ≤ 4)
  | .faultLogWrite p => decide (p < 8)
  | .faultRetranslate _ => true
  | .faultYieldWait bd => decide (bd < 32)
  | .resolveWrite _ p _ => decide (p < 8)
  | .failseqWrite _ p _ => decide (p < 8)
  | .retryAll _ p => decide (p < 8)
  | .failAll _ p => decide (p < 8)
  | .flogRdWrite _ p _ => decide (p < 8)
  | .flogBaseWrite _ p _ _ => decide (p < 8)
  | .nop r i => ringOk r && decide (i < 2 ^ 32)
  | .semSet r i => ringOk r && decide (i < 2 ^ 32)
  | .doorbell _ r _ => ringOk r
  | .commandFetch r => ringOk r
  | .commandDispatch r => ringOk r
  | .commandRetire r i => ringOk r && decide (i < 2 ^ 32)
  | .completionWrite r => ringOk r
  | .coalTimeout r => ringOk r
  | .ringEnWrite _ r _ => ringOk r
  | .ringByld _ r => ringOk r
  | .ringBres _ r => ringOk r
  | .ringReset _ r => ringOk r
  | .semValWrite _ _ => true
  | .ledClr _ _ => true
  | .regulatorWrite _ p k _ => decide (p < 8) && decide (k < 3)
  | .slotSet r i => ringOk r && decide (i < 2 ^ 32)
  | .slotClose r i => ringOk r && decide (i < 2 ^ 32)
  | .pick r i => ringOk r && decide (i < 2 ^ 32)
  | .verify r i => ringOk r && decide (i < 2 ^ 32)
  | .countAdd r i => ringOk r && decide (i < 2 ^ 32)
  | .idxSetup r i => ringOk r && decide (i < 2 ^ 32)
  | .lookup r i => ringOk r && decide (i < 2 ^ 32)
  | .insert r i => ringOk r && decide (i < 2 ^ 32)
  | .publish r i => ringOk r && decide (i < 2 ^ 32)
  | .release r i => ringOk r && decide (i < 2 ^ 32)
  | .pause r i => ringOk r && decide (i < 2 ^ 32)
  | .evict r i => ringOk r && decide (i < 2 ^ 32)
  | .recomputeSpan r i => ringOk r && decide (i < 2 ^ 32)
  | .repair r i => ringOk r && decide (i < 2 ^ 32)
  | .expirySweep => true
  | .walkerMigrationDone p node => decide (p < 8) && decide (node < 2 ^ 24)
  | .reclRdWrite _ p _ => decide (p < 8)
  | .build r i => ringOk r && decide (i < 2 ^ 32)
  | .groupSet r i => ringOk r && decide (i < 2 ^ 32)
  | .groupClear r i => ringOk r && decide (i < 2 ^ 32)
  | .allreduce r i => ringOk r && decide (i < 2 ^ 32)
  | .allgather r i => ringOk r && decide (i < 2 ^ 32)
  | .reducescatter r i => ringOk r && decide (i < 2 ^ 32)
  | .alltoall r i => ringOk r && decide (i < 2 ^ 32)
  | .barrier r i => ringOk r && decide (i < 2 ^ 32)
  | .rowstat r i => ringOk r && decide (i < 2 ^ 32)
  | .cready n _ _ _ _ _ _ => sklOk n
  | .cdata n _ _ => sklOk n
  | .ccredit n _ => sklOk n
  | .cabort n _ _ _ => sklOk n
  | .collectiveTimeout g => decide (g < 16)
  | .flitWr n _ _ _ _ => sklOk n
  | .wrack n _ _ _ => sklOk n
  | .rdreq n _ _ _ => sklOk n
  | .rddata n _ _ _ _ => sklOk n
  | .reg n _ _ _ _ _ => sklOk n
  | .regrsp n _ _ _ => sklOk n
  | .intr n _ _ => sklOk n
  | .mgmtNak n _ _ => sklOk n
  | .mgmtAck n _ _ => sklOk n
  | .ackTimer n => sklOk n
  | .portTrained n _ => sklOk n
  | .portTrainFail n => sklOk n
  | .portDown n => sklOk n
  | .linkCtrlEn _ n _ => sklOk n
  | .skeinRetrain _ n => sklOk n
  | .domEnClear _ _ => true
  | .hostApertureAccess off _ _ _ _ => decide (off < 2 ^ 40)
  | .lineRecall line => decide (line < 2 ^ 48)
  | .recallDone line => decide (line < 2 ^ 48)
  | .recallTimeout line => decide (line < 2 ^ 48)
  | .fustraDown => true
  | .fustraUp _ _ => true
  | .fusRetrain _ => true
  | .h2rGo => true
  | .ivecMaskWrite _ k _ => decide (k < 64)
  | .intSet _ page _ => pageExists page
  | .rescan _ n _ => capOk n
  | .capOffline n _ => capOk n
  | .capRetrain n _ => capOk n
  | .qpDb _ n _ => ethOk n
  | .qpSelWrite _ n _ => ethOk n
  | .ethWrite n qp _ => ethOk n && decide (1 ≤ qp) && decide (qp < 512)
  | .ethRead n qp _ _ => ethOk n && decide (1 ≤ qp) && decide (qp < 512)
  | .ethSend n qp _ => ethOk n && decide (1 ≤ qp) && decide (qp < 512)
  | .ethLinkChange n _ => ethOk n
  | .tempSample k _ => decide (k < 176)
  | .droopDetect d m _ _ => decide (d < 40) && watches m d
  | .pmonRead _ => true
  | .powerEstimate _ _ => true
  | .capEvaluation _ _ => true
  | .pointRaise _ => true
  | .limitWrite _ _ => true
  | .thermalTargetFall p => decide (p < 8)
  | .thermalTargetRise p => decide (p < 8)
  | .slopeEval _ => true
  | .deepBrakeCheck _ => true
  | .srel _ => true
  | .brakeAssert => true
  | .brakeRelease => true
  | .dutyStep => true
  | .hb _ _ => true
  | .hbTimeout => true
  | .safeCapEngage => true
  | .powerFail => true
  | .pfailGraceEnd => true
  | .crecAck => true
  | .vrcStatPoll j _ _ => decide (j < 4)
  | .vrcAlert _ => true
  | .vrcAlertRelease => true
  | .stepPrepared bd _ => decide (bd < 32)
  | .clockSwitch bd _ => decide (bd < 32)
  | .stepResume bd => decide (bd < 32)
  | .refclkLost => true
  | .aoClockSwitch => true
  | .powerOnReset straps _ _ => decide (straps < 64)
  | .warmReset => true
  | .softReset _ _ => true
  | .bootStepDone _ _ => true
  | .attachGo _ _ _ => true
  | .modeReq _ _ => true
  | .islTestGo _ _ => true
  | .islTestDone isl _ => decide (isl < 32)
  | .rcvInfo _ _ => true
  | .rcvBegin _ _ _ _ => true
  | .rcvData _ _ _ _ => true
  | .rcvEnd _ _ _ => true
  | .rcvBoot _ _ => true
  | .setEndpointId _ => true
  | .getEndpointId => true
  | .getMctpVersionSupport => true
  | .getMessageTypeSupport => true
  | .getVersion => true
  | .getCapabilities _ => true
  | .negotiateAlgorithms => true
  | .getDigests => true
  | .getCertificate _ _ _ => true
  | .challenge _ => true
  | .getMeasurements _ _ _ => true
  | .unsupportedRequest => true
  | .apply _ _ _ => true
  | .confirm _ _ => true
  | .revert _ => true
  | .abort _ => true
  | .keylist _ _ => true
  | .owner _ _ => true
  | .debug _ _ => true
  | .fwuOpDone _ => true
  | .settingsSet _ _ _ _ => true
  | .settingsMirror _ => true
  | .rimWatchdog _ => true
  | .rimBeat => true
  | .copyGo => true
  | .censusCopyDone _ => true
  | .holdWrite _ _ => true
  | .holdAck k => decide (k < 6)
  | .lockAcq _ page => pageExists page
  | .lockRel _ page => pageExists page
  | .lockSeal _ page => pageExists page
  | .pmaskWrite _ p _ => decide (p < 8)
  | .hsetWrite _ p _ => decide (p < 8)
  | .lclr _ => true
  | .rclr _ => true
  | .stkFclr _ isl => decide (isl < 32)
  | .bshFclr _ isl => decide (isl < 32)
  | .fabFclr _ isl => decide (isl < 32)
  | .rcRead _ addr _ => inWindow addr
  | .loRead _ addr => (pairLo.any fun f => f.hits addr)
  | .unmappedAccess _ addr _ => inWindow addr && !pageExists (addr / 0x1000)
  | .registerWrite _ addr _ _ => inWindow addr
  | .refclkRestored => true
  | .droopRecovery d => decide (d < 40)
  | .domainApertureAccess off _ _ _ => decide (off < 2 ^ 32)
  | .i3cDynamicAddressAssign addr => decide (addr < 128)
  | .testPortInstruction _ => true
  | .rimRestartComplete => true
  | .powerLoss _ => true
  | .railMonitorRelease => true
  | .pfcPauseFrameReceive n pri => decide (n < 2) && decide (pri < 8)

end Sys2Proof
end

