-- ==== Sys2Proof/Safety.lean ====
section
/-! DEFINITION. What the claims speak of: the canonical form of every memory, the queue, and the frames of a command. -/

namespace Sys2Proof.Machine

/-- Every table of the fabric is in canonical form: keys strictly rising, nothing listed that an unlisted key reads as. -/
structure Fabric.Canon (f : Fabric) : Prop where
  stk : twf (fun _ => Stake.idle) f.stk = true
  stkProg : twf (fun _ => 0) f.stkProg = true
  bsh : twf (fun _ => Bushel.idle) f.bsh = true
  bshProg : twf (fun _ => 0) f.bshProg = true
  vwords : twf (fun _ => 0) f.vwords = true
  sram : twf (fun _ => 0) f.sram = true
  badPar : twf (fun _ => false) f.badPar = true
  sw : twf (fun _ => Switch.idle) f.sw = true
  rows : twf (fun _ => 0) f.rows = true
  skewW : twf (fun _ => 0) f.skewW = true
  xing : twf (fun _ => Crossing.idle) f.xing = true
  lag : twf (fun _ => 0) f.lag = true
  isl : twf (fun _ => Island.idle) f.isl = true

/-- The memory tiers and the range's tables are in canonical form. -/
structure Memory.Canon (m : Memory) : Prop where
  t2 : twf (fun _ => 0) m.t2 = true
  t3 : twf (fun _ => 0) m.t3 = true
  l1 : twf (fun _ => 0) m.l1 = true
  l2 : twf (fun _ => 0) m.l2 = true
  l3 : twf (fun _ => 0) m.l3 = true
  sh : twf (fun _ => 0) m.sh = true

/-- The register file, the fabric's tables, the tiers and the range's tables are in canonical form, so that equal contents
are equal data. -/
structure Canon (s : State) : Prop where
  regs : twf resetWord s.regs = true
  fab : s.fab.Canon
  mem : s.mem.Canon

/-- Every command that waits names units the device has. -/
def Queued (s : State) : Prop := ∀ c ∈ s.pending, c.wellFormed = true

/-- The invariant every step keeps. -/
structure Inv (s : State) : Prop where
  queued : Queued s
  canon : Canon s

/-! ### Answers and frames -/

/-- The command answers a next state, and that state has `P`. -/
def Answers (c : Instr) (s : State) (P : State → Prop) : Prop := ∃ t, exec c s = .next t ∧ P t

/-- Register words other than those of a list are as before. -/
def WordsKept (s t : State) (l : List Nat) : Prop := ∀ a, a ∉ l → rw t a = rw s a

/-- The word `FAB_HOLD` of island `n` (R152). -/
def holdWord (n : Nat) : Nat := Reg.ISL_FAB_HOLD_OWN.addr n

/-- An island but for the hold causes that its edges' crossings carry, in and out (R140). -/
def Island.still (x : Island) : Island := { x with holdX := [], holdSent := [] }

/-- Only stake `k` changed, with its island's `FAB_HOLD` word and the hold causes on their way: no memory, no other unit,
nothing outside the fabric. -/
structure StakeFrame (s t : State) (k : Nat) : Prop where
  rest : t = { s with regs := t.regs, fab := t.fab }
  fab : t.fab = { s.fab with stk := t.fab.stk, isl := t.fab.isl }
  others : ∀ j, j ≠ k → stk t j = stk s j
  islands : ∀ j, (isl t j).still = (isl s j).still
  words : WordsKept s t [holdWord (k / 32)]

/-- Only bushel `b` changed, with its island's `FAB_HOLD` word, the hold causes on their way and the words of `l`: no SRAM
byte, no other unit, nothing outside the fabric. -/
structure BushelFrame (s t : State) (b : Nat) (l : List Nat) : Prop where
  rest : t = { s with regs := t.regs, fab := t.fab }
  fab : t.fab = { s.fab with bsh := t.fab.bsh, isl := t.fab.isl }
  others : ∀ j, j ≠ b → bsh t j = bsh s j
  islands : ∀ j, (isl t j).still = (isl s j).still
  words : WordsKept s t (holdWord (b / 32) :: l)

/-- Only stake `k` and bushel `b` changed, with the `FAB_HOLD` word of the stake's island and the hold causes on their way:
no SRAM byte, no other unit, nothing outside the fabric. -/
structure HandleFrame (s t : State) (k b : Nat) : Prop where
  rest : t = { s with regs := t.regs, fab := t.fab }
  fab : t.fab = { s.fab with stk := t.fab.stk, bsh := t.fab.bsh, isl := t.fab.isl }
  stakes : ∀ j, j ≠ k → stk t j = stk s j
  bushels : ∀ j, j ≠ b → bsh t j = bsh s j
  islands : ∀ j, (isl t j).still = (isl s j).still
  words : WordsKept s t [holdWord (k / 32)]

/-- Nothing but register words changed. -/
def OnlyRegs (s t : State) : Prop := t = { s with regs := t.regs }

/-- Stake `k` exists, its device runs, and it stands at a word of opcode `op` and may run it (R78, R80). -/
structure StakeReady (s : State) (k op : Nat) : Prop where
  unit : k < 1024
  awake : awake s = true
  at_ : stkAtOp s k op = true

/-- A stake with its program counter past the word (R80). -/
def stakePast (x : Stake) (from_ : Stake) : Stake :=
  { x with pc := (nextPc from_.pc from_.loops).1, loops := (nextPc from_.pc from_.loops).2, frz := 0 }

/-- Engine `e` of bushel `b` exists, its device runs, and it stands at a word of opcode `op` and may run it (R102, R115). -/
structure TallyReady (s : State) (b e op : Nat) : Prop where
  unit : b < 1024 ∧ e < 2
  awake : awake s = true
  at_ : tallyAt s b e op = true

/-- A bushel with engine `e` past its word; a fabric-side engine's freeze ends (R102, R115). -/
def bushelPast (y : Bushel) (e : Nat) : Bushel :=
  { setEng y e { eng y e with pc := (nextPc (eng y e).pc (eng y e).loops).1,
                              loops := (nextPc (eng y e).pc (eng y e).loops).2 } with
    frz := Machine.engThaw y e }

/-- Command (r, i), of opcode `op`, is in flight as `c`, its device runs, and it may take its step (R242). -/
structure Turn (s : State) (r i op : Nat) (c : Cmd) : Prop where
  ring : ringOk r = true
  idx : i < 2 ^ 32
  awake : awake s = true
  at_ : turnOf s r i op = some c

/-- The command as its engine runs it. -/
def going (c : Cmd) : Cmd := { c with taken := true, st := .running }

/-- The state after a command's step: window writes it has made are its own (R329). -/
def claimed (c : Cmd) (r i : Nat) (u : State) : State := claim u (if c.engine ≤ 8 then .tile r i else .service r i)

/-- Command (r, i) is done at its engine and stands ready to retire with this status (R249, R253). -/
def Ends (t : State) (r i status sub : Nat) : Prop :=
  ∃ c, getCmd t r i = some c ∧ c.finished = true ∧ c.status = status ∧ c.sub = sub

/-- Nothing but commands in flight, and the owners of window writes, changed. -/
def OnlyFlight (s t : State) : Prop := t = { s with front := t.front, skl := t.skl }

/-- The agent's write of the register at `a` is served: the page answers, no other agent's lock and no seal stands in its
way (R385, R395, R428, R435, R436). -/
structure Open (s : State) (ag : Agent) (a : Nat) : Prop where
  reach : reach s ag (a / 0x1000) = .open_
  page : pageExists (a / 0x1000) = true
  free : lockedOut s ag a = false
  clear : rd s Reg.HDR_LOCK_SEALED (a / 0x1000) = 0

/-- The register at `a` has taken the word `v`, before any action of its own: fields by their access codes, WO bits in the
page's shadow, a reserved bit written as 1 flagged (R6, R7, R432). -/
def stored (ag : Agent) (a v : Nat) (s : State) : State := writeWord ag noFx s a v

/-- What an operation reads that the porters grant at once: every range translated, none faulting, and charged (R205). -/
structure Granted (s : State) (p : Nat) (h : HeldReq) (reads writes : List (Nat × Nat)) (t : State) : Prop where
  mid : ∃ u, gateAll s p false h (reads.filter fun e => decide (e.2 ≠ 0)) = .go u ∧
    gates s u p true true h (writes.filter fun e => decide (e.2 ≠ 0)) = .go t

/-- Ranges a service command reads to learn what else it reads are translated, none faulting (R205). -/
structure Peeked (s : State) (r i : Nat) (reads : List (Nat × Nat)) (t : State) : Prop where
  ok : (reads.filter fun e => decide (e.2 ≠ 0)).foldl
    (fun a e => if a = .ok then probe s (partOf r) e.1 e.2 false else a) Acc.ok = .ok
  go : gates s s (partOf r) false false (.service r i) (reads.filter fun e => decide (e.2 ≠ 0)) = .go t

/-- The device runs and port `n` has taken in a flit on a virtual channel, which leaves the state `t` (R326, R327). -/
structure Received (s : State) (n vc : Nat) (h : FlitHdr) (t : State) : Prop where
  unit : sklOk n = true
  awake : awake s = true
  flows : ¬(vc = 0 ∧ s.pow.pfail = true)
  taken : receive s n vc h = (t, true)

end Sys2Proof.Machine
end

