-- ==== Sys2Proof/Certificates/Slice0/Obligations.lean ====
section
/-! DEFINITION. The statements for the provers. -/

open Sys2Proof Sys2Proof.Machine

/-! ### Every command and every step -/

/-- A step with a command at the front of the queue is that command's meaning on the state with the rest of the queue. -/
def Obligations.StepRunsFront : Prop :=
  ∀ (s : State) (c : Instr) (rest : List Instr),
    step { s with pending := c :: rest } = exec c { s with pending := rest }

/-- A command whose operands name units the device has answers a next state, in every state. A command whose operands name
a unit the device does not have stops, and only so. -/
def Obligations.AnswersExactly : Prop :=
  (∀ (s : State) (c : Instr), c.wellFormed = true → Answers c s fun _ => True) ∧
  (∀ (s : State) (c : Instr), c.wellFormed = false → exec c s = .fault .noSuchUnit)

/-- The block never stops: a step from a state that meets the invariant answers a next state, that state meets it, and its
queue is the rest of the queue (nothing waits on an empty one). -/
def Obligations.StepKeepsInv : Prop :=
  ∀ s : State, Inv s → ∃ t, step s = .next t ∧ Inv t ∧ t.pending = s.pending.tail

/-- Reset meets the invariant. What reset leaves (R4, R26, R406, R428, R446): each register at its reset word, BOOT at
step 1 after a power-on reset, no command in flight, no binding, no island released, every lock free, memory with
nothing listed, time 0. -/
def Obligations.ResetState : Prop :=
  (Inv State.reset) ∧
  (let s := State.reset
  (∀ a, rw s a = resetWord a) ∧ s.pending = [] ∧ s.now = 0 ∧ s.pow.off = false ∧
  rd s Reg.RST_MODE 0 = 1 ∧ rd s Reg.RST_BOOT_STAT_STEP 0 = 1 ∧ rd s Reg.RST_CAUSE 0 = 1 ∧ rd s Reg.FUS_LINK_STAT_UP 0 = 0 ∧
  s.front.fetched = [] ∧ s.front.inflight = [] ∧ s.front.retired = [] ∧
  s.mem.t2 = [] ∧ s.mem.t3 = [] ∧ s.mem.faults = [] ∧ s.mem.migs = [] ∧ s.mem.locks = [] ∧
  (∀ b < 32, rd s Reg.WVE_BIND_STATE b = 0) ∧ (∀ k < 32, (isl s k).released = false) ∧
  (∀ r < 64, rd s Reg.CMD_RING_CFG_STATE r = 0) ∧ (∀ p < 112, pageExists p = true → rd s Reg.HDR_LOCK_HELD p = 0))

/-! ### Stakes -/

/-- NOP, VSET, VCONST, OCTL, LOOP, SYNC and END (R80, R81, R83 to R85): what the stake becomes, with the frame. VSET,
VCONST and OCTL complete while no vector run has begun and no tile is unverified, and else wait (the model's choice,
assumption 84); SYNC waits for its units. -/
def Obligations.StakeControl : Prop :=
  ∀ (s : State) (k : Nat),
    let x := stk s k
    let w := curWord s k
    (StakeReady s k 0x00 → Answers (.stakeNop k) s fun t => stk t k = stakePast x x ∧ StakeFrame s t k) ∧
    (StakeReady s k 0x03 → vecSettled x = true → Answers (.vset k) s fun t =>
      let g := x.vec.stages.getD (bits w 55 3) Stage.idle
      stk t k = stakePast { x with vec := { x.vec with
        stages := setAt x.vec.stages (bits w 55 3) { g with set := stkWord s k x.pc } } } x ∧ StakeFrame s t k) ∧
    (StakeReady s k 0x05 → vecSettled x = true → Answers (.vconst k) s fun t =>
      let g := x.vec.stages.getD (bits w 55 3) Stage.idle
      stk t k = stakePast { x with vec := { x.vec with
        stages := setAt x.vec.stages (bits w 55 3) { g with consts := setAt g.consts (bits w 52 3) (bits w 0 32) } } } x ∧
      StakeFrame s t k) ∧
    (StakeReady s k 0x06 → vecSettled x = true → Answers (.octl k) s fun t =>
      stk t k = stakePast { x with vec := { x.vec with octl := stkWord s k x.pc } } x ∧ StakeFrame s t k) ∧
    (vecSettled x = false → (StakeReady s k 0x03 → exec (.vset k) s = .next s) ∧
      (StakeReady s k 0x05 → exec (.vconst k) s = .next s) ∧ (StakeReady s k 0x06 → exec (.octl k) s = .next s)) ∧
    (StakeReady s k 0x07 → Answers (.stakeLoop k) s fun t =>
      let n := enterLoop x.pc (bits w 49 9) (bits w 0 24) x.loops
      stk t k = { x with pc := n.1, loops := n.2, frz := 0 } ∧ StakeFrame s t k) ∧
    (StakeReady s k 0x0A → if syncDone x w = true
      then Answers (.stakeSync k) s fun t => stk t k = stakePast x x ∧ StakeFrame s t k
      else exec (.stakeSync k) s = .next s) ∧
    (StakeReady s k 0x0B → Answers (.stakeEnd k) s fun t =>
      stk t k = { x with ended := true, frz := 0 } ∧ StakeFrame s t k)

/-- MTILE (R60, R68, R69, R80, R82): the array takes a run of REP tiles, the bypass a run of REP columns, counted in
`BYP_INSTR`, and the program counter moves on; a panel kept in the B buffer serves the instruction where it is the one
it asks for, and is given up where it is not. MTILE waits while either unit has its run. VRUN (R55, R80, R84): where
the vector unit is free the run starts, the program counter moves on at once, and the run goes on as far as its beats
allow; else VRUN waits. -/
def Obligations.StakeCompute : Prop :=
  (∀ (s : State) (k : Nat) (parity : Bool), StakeReady s k 0x01 →
    let x := stk s k
    let word := stkWord s k x.pc
    let w := word.toNat
    let kept (byp : Bool) : Bool := match x.bhold with | some (key, _, _) => decide (key = panelKey byp w) | none => false
    (x.mt = none → x.byp = none → takesBypass x w = false →
      ∃ u, exec (.mtile ⟨k, parity⟩) s = .next (pullStk u k) ∧ StakeFrame s u k ∧
        stk u k = stakePast { x with mt := some ⟨word, x.pc, bits w 0 16, kept false⟩
                                     bhold := if kept false then x.bhold else none } x) ∧
    (x.mt = none → x.byp = none → takesBypass x w = true → x.vec.run = none → x.tile = none →
      ∃ u, exec (.mtile ⟨k, parity⟩) s = .next (bypGo (pullStk u k) k) ∧
        stk u k = stakePast { x with byp := some ⟨word, x.pc, bits w 0 16, if kept true then x.bhold.map (·.2) else none, parity⟩
                                     bhold := if kept true then x.bhold else none } x ∧
        (∀ j, j ≠ k → stk u j = stk s j) ∧ (∀ b, bsh u b = bsh s b) ∧
        rd u Reg.ISL_BYP_INSTR (k / 32) = min (rd s Reg.ISL_BYP_INSTR (k / 32) + 1) (2 ^ 32 - 1) ∧
        WordsKept s u [Reg.ISL_BYP_INSTR.addr (k / 32), holdWord (k / 32)]) ∧
    (x.mt.isSome = true ∨ x.byp.isSome = true → exec (.mtile ⟨k, parity⟩) s = .next s)) ∧
  (∀ (s : State) (k : Nat), StakeReady s k 0x04 →
    let x := stk s k
    let r : VRun := ⟨stkWord s k x.pc, 0, List.replicate 32 0, [], []⟩
    if vrunReady x = true then
      ∃ u, exec (.vrun k) s = .next (vecGo (pullStk u k) k) ∧ StakeFrame s u k ∧
        stk u k = stakePast { x with
          vec := { x.vec with run := some r }
          ckpt := if r.fromDrain then x.ckpt.map fun c => { c with run := some r } else x.ckpt } x
    else exec (.vrun k) s = .next s)

/-- TILE_DRAIN (R60 to R63, R66) where both feeds are there and the tile has a place to drain to: the other accumulator set
takes the tile the feeds make, with the injected errors; a checked tile stays unverified with a checkpoint and its rows
held; an unchecked one is taken at once, unless parity fails it. -/
def Obligations.TileDrain : Prop :=
  ∀ (s : State) (k : Nat) (ups : List Upset) (parity : Bool) (m : MtRun) (fa fb : Feed),
    k < 1024 → awake s = true → (stk s k).mt = some m → mayRun s (k / 32) (.stake k [6]) = true →
    (stk s k).tile = none → (stk s k).recomp = false →
    let s1 := pullStk s k
    let x := stk s1 k
    let w := m.word.toNat
    (bits w 23 2 = 0 → x.vec.drain = []) →
    feedA w (x.inq.getD 0 []) = some fa → bPanel x m.kept w (x.inq.getD 1 []) = some fb →
    let cur := 1 - x.cur
    let z := tileSet w fa fb ups
    let ints := isInt32Pair (bits w 54 4) (bits w 19 3)
    let t : DTile := ⟨m.word, m.at_, cur, ints, fa.bad || fb.bad || parity, !m.kept, x.hand, fa.runs ++ fb.runs⟩
    let x1 := { x with inq := setAt (setAt x.inq 0 fa.rest) 1 fb.rest
                       sets := setAt x.sets cur z.1, cur := cur
                       bhold := if bit w 26 then some (panelKey false w, fb.els, fb.scales)
                         else if m.left ≤ 1 then none else x.bhold
                       mt := if m.left ≤ 1 then none else some { m with left := m.left - 1, kept := m.kept || bit w 26 }
                       frz := 0 }
    let s2 := if bit x.mode 0 then bump s1 Reg.ISL_BUBBLE_CYC (k / 32) (bubbles fa.empties fb.empties) else s1
    let s3 := count (setStk s2 k x1) (k / 32) { Cnt.zero with intsat := (z.1.sat.filter id).length, nan := z.2 }
    exec (.tileDrain k ups parity) s = .next (
      if bit w 25 then drainRows (setStk s3 k { x1 with tile := some t, ckpt := some (ckptOf x1.vec) }) k m.word ints z.1.acc
      else if parity then mismatch (setStk s3 k { x1 with tile := some t }) k
      else
        let s4 := bump (signalRuns (drainRows s3 k m.word ints z.1.acc) k t.runs) Reg.ISL_ARR_TILES (k / 32) 1
        if fa.bad || fb.bad then failStk s4 k m.at_ else noteHold s4 (k / 32))

/-- TILE_VERDICT and RECOMPUTE_DONE (R41 to R43, R63 to R66): comparisons not made are counted; a pass releases what was
held; a mismatch or a parity event goes the way of the first or the second event of the command. A recompute judges
what the replayed operands give, with nothing of the first run: a pass is counted in `CHK_RECOMP` and drains the tile
again, a failure is a second event. What a pass leaves (R63, R98): the tile, its checkpoint and its held outputs are
gone, the outputs stand in order at their ports, the verdict is on its way to each bushel of the island that fed the
tile, and `ARR_TILES` counts one; no register word but that and the island's `FAB_HOLD` changes. -/
def Obligations.TileVerdict : Prop :=
  (∀ (s : State) (k : Nat) (ups : List Upset) (parity : Bool) (tile : DTile),
    k < 1024 → awake s = true → (stk s k).tile = some tile →
    let x := stk s k
    let js := judgements tile.word tile.ints (x.sets.getD tile.set .zero) x.mode
    (x.recomp = false → verdictMay s k = true →
      let s1 := count s (k / 32) { Cnt.zero with skip := (js.filter (· == Judge.skip)).length }
      exec (.tileVerdict ⟨k, parity⟩) s = .next (
        if tile.bad || parity || (firstFail js 0).isSome then
          mismatch (setStk s1 k { x with tile := some { tile with bad := tile.bad || parity } }) k
        else passTile s1 k tile)) ∧
    (∀ fa fb, x.recomp = true → inRounds s (k / 32) = true →
      let w := tile.word.toNat
      feedA w (x.rep.getD 0 []) = some fa → bPanel x (!tile.tookB) w (x.rep.getD 1 []) = some fb →
      let z := (tileSet w fa fb ups).1
      let again : DTile := { tile with bad := fa.bad || fb.bad || parity }
      let x1 := { x with sets := setAt x.sets tile.set z, tile := some again, rep := [[], [], [], []]
                         bhold := if bit w 26 then some (panelKey false w, fb.els, fb.scales) else x.bhold }
      let js1 := if bit w 25 then judgements tile.word tile.ints z x.mode else []
      let s1 := count (setStk s k x1) (k / 32) { Cnt.zero with skip := (js1.filter (· == Judge.skip)).length }
      exec (.recomputeDone ⟨k, parity⟩ ups) s = .next (
        if again.bad || (firstFail js1 0).isSome then secondEvent (checkEvent s1 (k / 32)) k
        else passTile (drainRows (setStk (bump s1 Reg.ISL_CHK_RECOMP (k / 32) 1) k
          { x1 with tile := none, ckpt := none, recomp := false, frz := 0 }) k tile.word tile.ints z.acc) k again))) ∧
  (∀ (s : State) (k : Nat) (tile : DTile), (stk s k).relq = [] →
    let x := stk s k
    let t := passTile s k tile
    stk t k = { x with tile := none, ckpt := none, held := [], recomp := false, outq := pushOut x.outq x.held, relq := [],
                       frz := 0 } ∧
    rd t Reg.ISL_ARR_TILES (k / 32) = min (rd s Reg.ISL_ARR_TILES (k / 32) + 1) (2 ^ 32 - 1) ∧
    (∀ j, j ≠ k → stk t j = stk s j) ∧
    (∀ b, bsh t b = if b / 32 = k / 32 ∧ b ∈ tile.runs.map (·.1)
      then { bsh s b with sigs := (bsh s b).sigs ++ [(k, runsOf tile.runs b)] } else bsh s b) ∧
    WordsKept s t [Reg.ISL_ARR_TILES.addr (k / 32), holdWord (k / 32)])

/-- WAITH and RELH (R63, R78, R85, R100, R101, R171): WAITH takes the oldest handle its bushel holds for this stake when
its epoch is the running command's, freezes with code 5 where there is none, and stops the weave on a foreign one; RELH
puts a handle on its owner's returns or on another bushel's queue, freezes with code 7 where that is full, leaves it to the
verdict of an unverified tile that held it, and does nothing where the stake holds none. -/
def Obligations.StakeHandles : Prop :=
  ∀ (s : State) (k b h : Nat),
    let x := stk s k
    let w := curWord s k
    let d := bits w 56 2
    let td := bits w 54 2
    (StakeReady s k 0x08 → bshAt k d = some b →
      (handleFor s k d = some h → bits h 16 12 = runEpoch s (k / 32) → Answers (.waith k) s fun t =>
        stk t k = stakePast { x with hand := setAt x.hand d (x.hand.getD d [] ++ [h]) } x ∧
        bsh t b = { bsh s b with hq := (bsh s b).hq.erase (h, opposite d), took := setAt (bsh s b).took (opposite d) (some h) } ∧
        HandleFrame s t k b) ∧
      (handleFor s k d = some h → bits h 16 12 ≠ runEpoch s (k / 32) → exec (.waith k) s = .next (foreignStk s k)) ∧
      (handleFor s k d = none → bit x.mode 0 = false → Answers (.waith k) s fun t =>
        stk t k = { x with frz := 5 } ∧ StakeFrame s t k)) ∧
    (StakeReady s k 0x09 →
      (∀ tile, x.tile = some tile → x.relq = [] → (x.hand.getD d [])[0]? = some h → h ∈ tile.hands.getD d [] →
        Answers (.relh k) s fun t => stk t k = stakePast { x with relq := [(h, d, td, bit w 53)] } x ∧ StakeFrame s t k) ∧
      (x.hand.getD d [] = [] → x.relq = [] → Answers (.relh k) s fun t => stk t k = stakePast x x ∧ StakeFrame s t k)) ∧
    (∀ rest, StakeReady s k 0x09 → x.tile = none → x.relq = [] → x.hand.getD d [] = h :: rest →
      (bit w 53 = false → bshAt k d = some b → Answers (.relh k) s fun t =>
        stk t k = stakePast { x with hand := setAt x.hand d rest } x ∧
        bsh t b = { bsh s b with rets := (bsh s b).rets ++ [h] } ∧ HandleFrame s t k b) ∧
      (bit w 53 = true → bshAt k td = some b → (bsh s b).hq.length < 16 → Answers (.relh k) s fun t =>
        stk t k = stakePast { x with hand := setAt x.hand d rest } x ∧
        bsh t b = { bsh s b with hq := (bsh s b).hq ++ [(h, 4 + oneIf (h.testBit 28))] } ∧ HandleFrame s t k b) ∧
      (bit w 53 = true → bshAt k td = some b → 16 ≤ (bsh s b).hq.length → bit x.mode 0 = false → Answers (.relh k) s fun t =>
        stk t k = { x with frz := 7 } ∧ StakeFrame s t k))

/-! ### Bushels -/

/-- NOP, SETI, SETV, ADDI, MADD, LDX, SYNC and END (R103 to R105, R110, R117): the register each writes, modulo 2^64, and
what the bushel becomes, with the frame. An LDX outside the SRAM or off an 8-byte boundary is run fault 4 (R107), a byte of
bad parity a parity hit; SYNC waits while a request it names is out. -/
def Obligations.TallyRegisters : Prop :=
  ∀ (s : State) (b e : Nat),
    let y := bsh s b
    let w := tallyWord s b e
    let d := bits w 55 3
    let a := (xreg y e (bits w 52 3) + bits w 0 21) % 2 ^ 64
    let out (store : Bool) : Bool := y.reqs.any fun q => q.eng == e && q.store == store
    (TallyReady s b e 0x00 → Answers (.tallyNop b e) s fun t => bsh t b = bushelPast y e ∧ BushelFrame s t b []) ∧
    (TallyReady s b e 0x01 → Answers (.seti b e) s fun t =>
      bsh t b = bushelPast (setX y e d (toField 64 (sext 32 (bits w 0 32)))) e ∧ BushelFrame s t b []) ∧
    (TallyReady s b e 0x02 → Answers (.setv b e) s fun t =>
      bsh t b = bushelPast (setX y e d (vword s (b / 32) (bits w 0 4)).toNat) e ∧ BushelFrame s t b []) ∧
    (TallyReady s b e 0x03 → Answers (.addi b e) s fun t =>
      bsh t b = bushelPast (setX y e d (xreg y e (bits w 52 3) + toField 64 (sext 32 (bits w 0 32)))) e ∧
      BushelFrame s t b []) ∧
    (TallyReady s b e 0x04 → Answers (.madd b e) s fun t =>
      bsh t b = bushelPast (setX y e d (xreg y e (bits w 52 3) + xreg y e (bits w 49 3) * bits w 0 16)) e ∧
      BushelFrame s t b []) ∧
    (TallyReady s b e 0x05 → a % 8 = 0 → a + 8 ≤ 0x180000 → badByte s b a 8 = none → Answers (.ldx b e) s fun t =>
      bsh t b = bushelPast (setX y e d (sramRead s b a 8)) e ∧ BushelFrame s t b []) ∧
    (∀ x, TallyReady s b e 0x05 → a % 8 = 0 → a + 8 ≤ 0x180000 → badByte s b a 8 = some x →
      exec (.ldx b e) s = .next (parityHit s b e x fun s c => tallyWait s b e c)) ∧
    (TallyReady s b e 0x05 → (a % 8 ≠ 0 ∨ 0x180000 < a + 8) → exec (.ldx b e) s = .next (tallyFault s b e 4 a)) ∧
    (TallyReady s b e 0x10 →
      if (bit w 57 = true ∧ out false = true) ∨ (bit w 56 = true ∧ out true = true) then exec (.tallySync b e) s = .next s
      else Answers (.tallySync b e) s fun t => bsh t b = bushelPast y e ∧ BushelFrame s t b []) ∧
    (TallyReady s b e 0x11 → Answers (.tallyEnd b e) s fun t =>
      bsh t b = { setEng y e { eng y e with ended := true } with frz := engThaw y e } ∧ BushelFrame s t b [])

/-- LOOP, ACQ and REL (R97, R98, R103 to R105, R115): the loop entered with its count; the slot taken at a ring's tail or
head, and its address; the slot released by its producer or its consumer. ACQ waits for its slot; a REL that finds none
moves on. A register count above the word's is run fault 3 (R107). -/
def Obligations.TallyRings : Prop :=
  ∀ (s : State) (b e : Nat),
    let y := bsh s b
    let w := tallyWord s b e
    let t0 := eng y e
    let n := bits w 55 3
    let cnt := if bit w 51 then xreg y e (bits w 48 3) else bits w 0 24
    let into := enterLoop t0.pc (bits w 52 6) cnt t0.loops
    let drains (z : Slot) : Bool := match z.st with | .draining _ => true | _ => false
    let fills (z : Slot) : Bool := z.st == .filling e && !z.relp
    (TallyReady s b e 0x06 → cnt ≤ bits w 0 24 → Answers (.tallyLoop b e) s fun t =>
      bsh t b = { setEng y e { t0 with pc := into.1, loops := into.2 } with frz := engThaw y e } ∧ BushelFrame s t b []) ∧
    (TallyReady s b e 0x06 → bits w 0 24 < cnt → exec (.tallyLoop b e) s = .next (tallyFault s b e 3 0)) ∧
    (∀ r, TallyReady s b e 0x07 → y.rings[n]? = some r → bit w 54 = true →
      let z := r.slots.getD r.head Slot.fresh
      if z.st = .full ∧ z.refetch = false then
        let r1 : Ring := { r.put r.head { z with st := .draining e } with head := (r.head + 1) % r.nslot }
        Answers (.acq b e) s fun t =>
          bsh t b = bushelPast (setX { y with rings := setAt y.rings n r1 } e (bits w 51 3) (r.slotAddr r.head)) e ∧
          BushelFrame s t b []
      else exec (.acq b e) s = .next (tallyWait s b e (waitCode y (r.slotAddr r.head) r.slotSz z.refetch))) ∧
    (∀ r, TallyReady s b e 0x07 → y.rings[n]? = some r → bit w 54 = false →
      if (r.slots.getD r.tail Slot.fresh).st = .free then
        let r1 : Ring := { r.put r.tail { Slot.fresh with st := .filling e } with tail := (r.tail + 1) % r.nslot }
        Answers (.acq b e) s fun t =>
          bsh t b = bushelPast (setX { y with rings := setAt y.rings n r1 } e (bits w 51 3) (r.slotAddr r.tail)) e ∧
          BushelFrame s t b []
      else ∃ code, (code = 1 ∨ code = 5) ∧ exec (.acq b e) s = .next (tallyWait s b e code)) ∧
    (∀ r i, TallyReady s b e 0x08 → y.rings[n]? = some r → bit w 54 = true → oldestSlot r r.head drains = some i →
      let z := r.slots.getD i Slot.fresh
      let z1 : Slot := if z.verdicts = [] then Slot.fresh else { z with st := .retained }
      Answers (.rel b e) s fun t =>
        bsh t b = bushelPast { y with rings := setAt y.rings n (r.put i z1) } e ∧ BushelFrame s t b []) ∧
    (∀ r i, TallyReady s b e 0x08 → y.rings[n]? = some r → bit w 54 = false → oldestSlot r r.tail fills = some i →
      let z : Slot := { r.slots.getD i Slot.fresh with relp := true }
      Answers (.rel b e) s fun t =>
        bsh t b = bushelPast (settle { y with rings := setAt y.rings n (r.put i z) }) e ∧ BushelFrame s t b []) ∧
    (∀ r, TallyReady s b e 0x08 → y.rings[n]? = some r →
      (if bit w 54 then oldestSlot r r.head drains else oldestSlot r r.tail fills) = none →
      Answers (.rel b e) s fun t => bsh t b = bushelPast y e ∧ BushelFrame s t b [])

/-- RD and WR (R92, R98, R103 to R105, R107, R116): a run within the SRAM joins its port's sequencer, which holds one in
progress and one queued; the engine waits while that is full. A retained RD run is numbered and recorded, the last eight
kept, and its slot owes a verdict for every stake the run feeds. A WR goes on as far as its beats allow. A run that leaves
the SRAM is run fault 7. -/
def Obligations.TallyStreams : Prop :=
  ∀ (s : State) (b e : Nat) (bad : Option Nat),
    let y := bsh s b
    let w := tallyWord s b e
    let p := bits w 56 2
    let n := bits w 12 16
    let width := widthOf (bits w 50 2)
    let a := (xreg y e (bits w 52 3) + bits w 28 21) % 2 ^ 64
    let xl := xreg y e (bits w 9 3)
    let s1 := match bad with | some x => setPar s b x true | none => s
    let run (no : Option Nat) : RdRun := ⟨e, no, a, width, n, xl, bit w 8, false, false⟩
    let queue (no : Option Nat) := setAt y.rd p (y.rd.getD p [] ++ [run no])
    (TallyReady s b e 0x09 → a + width * n ≤ 0x180000 → (y.rd.getD p []).length < 2 →
      (bit w 49 = false → Answers (.rd b e bad) s fun t =>
        bsh t b = bushelPast { y with rd := queue none } e ∧ BushelFrame s1 t b []) ∧
      (bit w 49 = true → e < y.eng.length → Answers (.rd b e bad) s fun t =>
        let no := (eng y e).runs
        let recs := (eng y e).recs ++ [(⟨no, p, a, width, n, xl, bit w 8⟩ : RdRec)]
        (bsh t b).rd = queue (some no) ∧ (eng (bsh t b) e).runs = no + 1 ∧
        (eng (bsh t b) e).recs = recs.drop (recs.length - 8) ∧
        (slotOf y a = none → (bsh t b).rings = y.rings) ∧
        (∀ q i r, slotOf y a = some (q, i) → y.rings[q]? = some r →
          let z := r.slots.getD i Slot.fresh
          (bsh t b).rings = setAt y.rings q (r.put i { z with
            verdicts := z.verdicts ++ (portStakes s1 b p).map fun k => (e, no, k) })) ∧
        BushelFrame s1 t b [])) ∧
    (TallyReady s b e 0x09 → a + width * n ≤ 0x180000 → 2 ≤ (y.rd.getD p []).length →
      exec (.rd b e bad) s = .next s) ∧
    (TallyReady s b e 0x0A → a + width * n ≤ 0x180000 →
      if (y.wr.getD p []).length < 2 then
        ∃ s2, exec (.wr b e) s = .next (wrGo s2 b p) ∧
          bsh s2 b = bushelPast (noSrc { y with wr := setAt y.wr p (y.wr.getD p [] ++ [⟨e, a, width, n⟩]) } a) e ∧
          BushelFrame s s2 b []
      else exec (.wr b e) s = .next s) ∧
    (0x180000 < a + width * n →
      (TallyReady s b e 0x09 → exec (.rd b e bad) s = .next (tallyFault s b e 7 (min a (2 ^ 21 - 1)))) ∧
      (TallyReady s b e 0x0A → exec (.wr b e) s = .next (tallyFault s b e 7 (min a (2 ^ 21 - 1)))))

/-- FETCH and STORE (R104, R107 to R109, R117): with room in the queue of 64 unissued requests the request joins the
newest of them or is appended, a merge counts in `BSH_MERGE`, no byte moves yet, and a fetch is noted at its slot
where it is read-only; the engine waits while the queue is full. A range outside the SRAM is run fault 7.
REQUEST_ISSUE (R108, R110, R122, R184, R256): the oldest eligible request that no earlier store of its bushel overlaps
is issued when the regulators grant what is left of its range, drawn on them and counted; where they do not, it waits,
throttled. -/
def Obligations.Requests : Prop :=
  (∀ (s : State) (b e : Nat),
    let y := bsh s b
    let w := tallyWord s b e
    let len := bits w 32 11 * 64
    let m := xreg y e (bits w 52 3)
    let req (store : Bool) : Req :=
      { id := y.reqNext, eng := e, store := store,
        da := toField 64 ((xreg y e (bits w 55 3) : Int) + sext 32 (bits w 0 32)) % 2 ^ 52, sram := m, len := len,
        porter := 2 * (b / 32 / 8) + bits w 51 1, ro := !store && bit w 50,
        st := if len ≥ 4096 ∨ !bit y.mode 3 then .eligible else .open_, throttled := false, sent := 0, data := 0 }
    let merges (store : Bool) := oneIf (enqueue y (req store)).2
    let q := req false
    (m + len ≤ 0x180000 → queued y < 64 →
      (TallyReady s b e 0x0B → Answers (.fetch b e) s fun t =>
        bsh t b = bushelPast { (enqueue y q).1 with rings := (bsh t b).rings } e ∧
        (slotOf y m = none → (bsh t b).rings = y.rings) ∧
        (∀ n i g, slotOf y m = some (n, i) → y.rings[n]? = some g →
          let z := g.slots.getD i Slot.fresh
          (bsh t b).rings = setAt y.rings n (g.put i { z with
            src := if q.ro = true ∧ (z.src ≠ [] ∨ rangeBusy y (g.slotAddr i) g.slotSz = false)
              then z.src ++ [(q.da, m, len, e, q.porter)] else [] })) ∧
        rd t Reg.ISL_BSH_MERGE (b / 32) = min (rd s Reg.ISL_BSH_MERGE (b / 32) + merges false) (2 ^ 32 - 1) ∧
        BushelFrame s t b [Reg.ISL_BSH_MERGE.addr (b / 32)]) ∧
      (TallyReady s b e 0x0C → Answers (.store b e) s fun t =>
        bsh t b = bushelPast (enqueue y (req true)).1 e ∧
        rd t Reg.ISL_BSH_MERGE (b / 32) = min (rd s Reg.ISL_BSH_MERGE (b / 32) + merges true) (2 ^ 32 - 1) ∧
        BushelFrame s t b [Reg.ISL_BSH_MERGE.addr (b / 32)])) ∧
    (m + len ≤ 0x180000 → 64 ≤ queued y →
      (TallyReady s b e 0x0B → exec (.fetch b e) s = .next s) ∧ (TallyReady s b e 0x0C → exec (.store b e) s = .next s)) ∧
    (0x180000 < m + len →
      (TallyReady s b e 0x0B → exec (.fetch b e) s = .next (tallyFault s b e 7 (min m (2 ^ 21 - 1)))) ∧
      (TallyReady s b e 0x0C → exec (.store b e) s = .next (tallyFault s b e 7 (min m (2 ^ 21 - 1)))))) ∧
  (∀ (s : State) (b : Nat) (x : Req), b < 1024 → awake s = true → (isl s (b / 32)).released = true →
    (isl s (b / 32)).stopped = false →
    let y := bsh s b
    let clash (x : Req) : Bool := !x.store && y.reqs.any fun z =>
      z.store && decide (z.id < x.id) && overlap z.da z.len x.da x.len
    y.reqs.find? (fun x => x.st == .eligible && !clash x) = some x →
    let p := partOfIsl s (b / 32)
    (grantedRange s p (x.da + x.sent) (x.len - x.sent) = false → Answers (.requestIssue b) s fun t =>
      t = setBsh s b { y with reqs := y.reqs.map fun z => if z.id = x.id then { z with throttled := true } else z }) ∧
    (grantedRange s p (x.da + x.sent) (x.len - x.sent) = true → Answers (.requestIssue b) s fun t =>
      (bsh t b).reqs = y.reqs.map (fun z => if z.id = x.id then { z with st := .issued, throttled := false } else z) ∧
      rd t Reg.ISL_BSH_REQ (b / 32) = min (rd s Reg.ISL_BSH_REQ (b / 32) + 1) (2 ^ 32 - 1) ∧
      rd t Reg.ISL_BSH_SHORT (b / 32) =
        min (rd s Reg.ISL_BSH_SHORT (b / 32) + if x.len < 4096 then 1 else 0) (2 ^ 32 - 1) ∧
      (∀ j, j ≠ b → bsh t j = bsh s j)))

/-- HPUSH, HTAKE, HRET and HANDLE_RETURN (R99 to R101, R105, R107, R115, R146, R171). -/
def Obligations.TallyHandles : Prop :=
  ∀ (s : State) (b e : Nat),
    let y := bsh s b
    let w := tallyWord s b e
    let dest := bits w 52 3
    let h := xreg y e (bits w 55 3) % 2 ^ 32
    let made (n : Nat) := relNo s b + 2 ^ 10 * n + 2 ^ 16 * runEpoch s (b / 32)
    let baseOf (n : Nat) := bits (y.bufs.getD n 0) 0 15 * 64
    let own (g : Nat) := if bits g 0 10 = relNo s b then baseOf (bits g 10 6) else 0
    (TallyReady s b e 0x0D → (dest < 4 → bits h 0 10 = relNo s b) →
      if y.hq.length < 16 then Answers (.hpush b e) s fun t =>
        bsh t b = bushelPast { y with hq := y.hq ++ [(if dest ≥ 4 then putBits h 28 1 (dest % 2) else h, dest)] } e ∧
        BushelFrame s t b []
      else exec (.hpush b e) s = .next (tallyWait s b e 7)) ∧
    (TallyReady s b e 0x0D → dest < 4 → bits h 0 10 ≠ relNo s b → exec (.hpush b e) s = .next (tallyFault s b e 6 0)) ∧
    (∀ g, TallyReady s b e 0x0E → bits w 50 2 = 0 → y.hq.find? (fun p => p.2 == 4 + e) = some (g, 4 + e) →
      bits g 16 12 = runEpoch s (b / 32) → Answers (.htake b e) s fun t =>
      bsh t b = bushelPast (setX (setX { y with hq := y.hq.erase (g, 4 + e) } e (bits w 52 3) g) e (bits w 55 3) (own g)) e ∧
      BushelFrame s t b []) ∧
    (∀ n rest, TallyReady s b e 0x0E → bits w 50 2 = 1 → y.freeBufs = n :: rest → Answers (.htake b e) s fun t =>
      bsh t b = bushelPast (setX (setX { y with freeBufs := rest } e (bits w 52 3) (made n)) e (bits w 55 3) (baseOf n)) e ∧
      BushelFrame s t b []) ∧
    (∀ g, TallyReady s b e 0x0E → 2 ≤ bits w 50 2 → y.took.getD (bits w 48 2) none = some g →
      bits g 16 12 = runEpoch s (b / 32) → Answers (.htake b e) s fun t =>
      bsh t b = bushelPast (setX (setX { y with took := setAt y.took (bits w 48 2) none } e (bits w 52 3) g) e (bits w 55 3)
        (own g)) e ∧ BushelFrame s t b []) ∧
    (∀ g, TallyReady s b e 0x0E → takeFor s b e = some g → bits g 16 12 ≠ runEpoch s (b / 32) →
      exec (.htake b e) s = .next (foreignBsh s b e)) ∧
    (TallyReady s b e 0x0E → takeFor s b e = none → (bits w 50 2 = 1 → y.freeBufs = []) →
      exec (.htake b e) s = .next (tallyWait s b e 6)) ∧
    (TallyReady s b e 0x0F → ∃ s2, bsh s2 b = bushelPast y e ∧ BushelFrame s s2 b [] ∧
      let o := ownerOf s2 (b / 32) h
      exec (.hret b e) s = .next (setBsh s2 o { bsh s2 o with rets := (bsh s2 o).rets ++ [h] })) ∧
    (∀ g rest, b < 1024 → awake s = true → y.rets = g :: rest →
      let n := bits g 10 6
      exec (.handleReturn ⟨b, false⟩) s = .next (setBsh s b { y with
        rets := rest, freeBufs := if y.bufs.getD n 0 = 0 then y.freeBufs else insertAsc n y.freeBufs }) ∧
      exec (.handleReturn ⟨b, true⟩) s = .next (failEvent (setBsh s b { y with rets := rest }) (b / 32) 0x28 0))

/-- Events of a bushel's requests and verdicts: MERGE_WAIT_EXPIRY makes an open request eligible (R109); a STORE_ACK ends
a store no window write is open for (R110); a VERDICT_SIGNAL pays the slots the tile read, or fails the command where
it comes with bad parity (R98, R146); a bushel that may report done does (R119). ARRIVAL_LAND (R93, R94, R97, R110,
R117): the bytes of a fetch the porter carried stand in the SRAM from its address on, every other byte of every bushel
reads as before, the request leaves the queue, slots it completes become full, and a sequencer that waited for a
refetch goes on when none is left. -/
def Obligations.BushelEvents : Prop :=
  (∀ (s : State) (b q k : Nat), b < 1024 → awake s = true →
    let y := bsh s b
    exec (.mergeWaitExpiry b q) s = .next (setBsh s b { y with
      reqs := y.reqs.map fun r => if r.id = q ∧ r.st = .open_ then { r with st := .eligible } else r }) ∧
    ((s.skl.reqs.any fun x => x.write && x.owner == some (.bushel b q)) = false → exec (.storeAck b q) s =
      .next (setBsh s b (settle { y with reqs := y.reqs.filter fun r => !(r.id == q && r.store && r.st == .carried) }))) ∧
    (∀ g, k < 1024 → y.sigs.find? (fun g => g.1 == k) = some g →
      exec (.verdictSignal b ⟨k, false⟩) s = .next (setBsh s b { y with
        sigs := y.sigs.erase g, rings := g.2.foldl (payRun k) y.rings }) ∧
      exec (.verdictSignal b ⟨k, true⟩) s = .next (failEvent (setBsh s b { y with sigs := y.sigs.erase g }) (b / 32) 0x28 0)) ∧
    (bushelIdle y = true → (isl s (b / 32)).released = true →
      exec (.bushelDone b) s = .next (setBsh s b { y with reported := true }))) ∧
  (∀ (s : State) (b q : Nat) (r : Req), b < 1024 → awake s = true → r.sram + r.len ≤ 0x180000 →
    (bsh s b).reqs.find? (fun r => r.id == q && !r.store && r.st == .carried) = some r →
    let y := settle { bsh s b with reqs := (bsh s b).reqs.filter fun x => !(x.id == q) }
    Answers (.arrivalLand b q) s fun t =>
      sramRead t b r.sram r.len = r.data % 2 ^ (8 * r.len) ∧
      (∀ c a, c < 1024 → a < 2 ^ 21 → (c ≠ b ∨ a < r.sram ∨ r.sram + r.len ≤ a) → sramRead t c a 1 = sramRead s c a 1) ∧
      bsh t b = (if y.frz.getD 2 0 ≤ 4 ∧ (y.rings.any fun r => r.slots.any Slot.refetch) = false
        then { y with frz := setAt y.frz 2 0 } else y) ∧
      (∀ j, j ≠ b → bsh t j = bsh s j) ∧ (∀ j, (isl t j).still = (isl s j).still) ∧ WordsKept s t [holdWord (b / 32)] ∧
      t = { s with regs := t.regs, fab := { s.fab with
        bsh := t.fab.bsh, sram := t.fab.sram, badPar := t.fab.badPar, isl := t.fab.isl } })

/-- REPLAY_REQUEST (R64, R116, R121, R146) of a stake of the island that recomputes a tile this engine fed: every retained
run from the first that fed it is queued to be sent again, marked as replay, and counted; where that run's record is no
longer kept the recompute has failed; a request of bad parity fails the command. -/
def Obligations.BushelReplay : Prop :=
  ∀ (s : State) (b e k no : Nat) (tile : DTile), b < 1024 → e < 2 → k < 1024 → awake s = true → (stk s k).recomp = true →
    inRounds s (b / 32) = true → b / 32 = k / 32 → (stk s k).tile = some tile →
    (((runsOf tile.runs b).filter fun r => r.1 = e).map (·.2)).min? = some no →
    let y := bsh s b
    ((∃ r ∈ (eng y e).recs, r.no = no) → Answers (.replayRequest b e ⟨k, false⟩) s fun t =>
      bsh t b = { y with rpl := (replayRuns y e no).foldl (fun q p => setAt q p.1 (q.getD p.1 [] ++ [p.2])) y.rpl } ∧
      rd t Reg.ISL_BSH_REPLAY (b / 32) = min (rd s Reg.ISL_BSH_REPLAY (b / 32) + 1) (2 ^ 32 - 1) ∧
      BushelFrame s t b [Reg.ISL_BSH_REPLAY.addr (b / 32)]) ∧
    ((∀ r ∈ (eng y e).recs, r.no ≠ no) → exec (.replayRequest b e ⟨k, false⟩) s =
      .next (secondEvent (checkEvent (bshFault s b 5 e (eng y e).pc 0) (b / 32)) k)) ∧
    exec (.replayRequest b e ⟨k, true⟩) s = .next (failEvent s (b / 32) 0x28 0)

/-! ### Fabric -/

/-- LINK_BEAT (R112, R116, R124 to R130, R137, R144, R145, R149). An output that names no input sends nothing. A replay
beat at the input goes in its own slot, whatever the slot counter shows. Any other token goes in the present slot, to
all the outputs of its row that name its input or to none: to none where one of them cannot take it, which freezes the
switch or the unit; a dry crossing freezes the switch; an input with no token has its outputs served with none. What a
switched beat does (R123, R124, R130, R149): one whose tag is not the row's, its control bits standing, is a route
fault, counted in `FAB_RTAG`, and stops the weave; any other is checked at the input and goes out on every output, on
a direction link inside an island as the last of the queue at the opposite input of the neighbouring switch. -/
def Obligations.LinkBeat : Prop :=
  (∀ (s : State) (n pos out slot : Nat) (flips : List Nat), n < 32 → pos < 64 → out < 8 → slot < 16 → awake s = true →
    inRounds s n = true → slot ≤ rd s Reg.ISL_FAB_SLOT_LEN n →
    let z := 64 * n + pos
    let row := (slotRow s z slot).toNat
    let code := bits row (4 * out) 4
    let outs := outsOf row code
    let s1 := portMake s n pos code true
    let s2 := slotsGo 16 s1 n
    let s3 := portMake s2 n pos code false
    let done (u : State) : State := setSw u z { sw u z with done := (sw u z).done ++ outs }
    (code = 0 ∨ 8 < code → exec (.linkBeat n pos out slot flips) s = .next s) ∧
    (∀ x, 1 ≤ code → code ≤ 8 → offerReplay s1 n pos code slot row = some x →
      exec (.linkBeat n pos out slot flips) s = .next (switchBeat (consumeReplay s1 n pos code x slot) n pos code row
        ((slot + 1) % (rd s1 Reg.ISL_FAB_SLOT_LEN n + 1)) outs (flipBeat x flips))) ∧
    (1 ≤ code → code ≤ 8 → offerReplay s1 n pos code slot row = none → rd s2 Reg.ISL_FAB_SLOT_SLOT n = slot →
      (sw s2 z).done.contains out = false → (sw s2 z).blk = [] → mayRun s2 n (actor s2 n pos code row) = true →
      mayRun s3 n (actor s3 n pos code row) = true →
      (isStakePos (pos / 8) (pos % 8) = false → 5 ≤ code →
        (bsh s3 (32 * n + localOf (pos / 8) (pos % 8))).frz.getD 2 0 = 0) →
      (offer s3 n pos code row = .none_ →
        exec (.linkBeat n pos out slot flips) s = .next (slotsGo 16 (done s3) n)) ∧
      (offer s3 n pos code row = .dry →
        exec (.linkBeat n pos out slot flips) s = .next (slotsGo 16 (swBlock s3 z 1 (code - 1)) n)) ∧
      (∀ x0 k, offer s3 n pos code row = .beat x0 →
        (outs.findSome? fun o => stuckAt s3 n pos o (flipBeat x0 flips)) = some k →
        exec (.linkBeat n pos out slot flips) s = .next (slotsGo 16 (stuckFreeze s3 n pos k) n)) ∧
      (∀ x0, offer s3 n pos code row = .beat x0 →
        (outs.findSome? fun o => stuckAt s3 n pos o (flipBeat x0 flips)) = none →
        let s4 := done (consume s3 n pos code row)
        exec (.linkBeat n pos out slot flips) s = .next (slotsGo 16
          (switchBeat s4 n pos code row (cycleOf s4 n + 1) outs (flipBeat x0 flips)) n)))) ∧
  (∀ (s : State) (n pos code row due : Nat) (outs : List Nat) (x : Beat),
    (∀ o, outs.find? (fun o => x.tag ≠ rowTag row o && cpOk x) = some o → switchBeat s n pos code row due outs x =
      stopIsl (fabFault (bump s Reg.ISL_FAB_RTAG n 1) n pos 3 (code - 1) 0 0 (rowTag row o + 16 * x.tag)) n 0x2A 3) ∧
    (outs.find? (fun o => x.tag ≠ rowTag row o && cpOk x) = none → switchBeat s n pos code row due outs x =
      outs.foldl (fun s o => sendOut s n pos o due (checkBeat s n pos code x).2) (checkBeat s n pos code x).1) ∧
    (∀ d r c, d < 4 → stepPos (pos / 8) (pos % 8) d = some (r, c) →
      let z := 64 * n + 8 * r + c
      sendOut s n pos d due x = setSw s z { sw s z with
        inl := setAt (sw s z).inl (opposite d) ((sw s z).inl.getD (opposite d) [] ++ [(due, x)]) }))

/-- CROSSING_DELIVER, FULL_CHANGE and HOLD_RECEIVE (R133, R135, R138, R140): the oldest beat in flight becomes the newest that
the receiving switch sees, which ends its XDRY, or goes into the next crossing of its link once that has not raised FULL;
the sender sees FULL as the occupancy gives it, from 24 entries; the cause in a tree edge's hold crossing arrives. -/
def Obligations.CrossingEvents : Prop :=
  ∀ (s : State) (n pos d stage m : Nat), n < 32 → pos < 64 → d < 4 → stage < 3 → awake s = true → nextIsl n d = some m →
    let key := xingKey n pos d stage
    let x := xing s key
    (∀ b rest, x.flight = b :: rest →
      (stage = 2 → exec (.crossingDeliver n pos ⟨d, stage⟩) s =
        .next (swClear (setXing s key { x with flight := rest, avail := x.avail ++ [b] }) (64 * n + pos) 1 d)) ∧
      (stage ≠ 2 → (xing s (key + 1)).fullSeen = false → exec (.crossingDeliver n pos ⟨d, stage⟩) s =
        .next (crossWrite (setXing s key { x with flight := rest }) m n (key + 1) pos d (stage + 1) b)) ∧
      (stage ≠ 2 → (xing s (key + 1)).fullSeen = true → exec (.crossingDeliver n pos ⟨d, stage⟩) s = .next s)) ∧
    (let full := decide (24 ≤ x.flight.length + x.avail.length)
      let t := setXing s key { x with fullSeen := full }
      exec (.fullChange n pos ⟨d, stage⟩) s = .next (if full = false ∧ stage = firstStage m n
        then swClear t (64 * m + acrossPos pos d) 2 (opposite d) else t)) ∧
    (∀ c, n ≠ m → (isl s n).holdX.getD d none = some c → Answers (.holdReceive n d) s fun t =>
      (isl t n).still = { (isl s n).still with holdIn := setAt (isl s n).holdIn d c } ∧
      (∀ j, j ≠ n → (isl t j).still = (isl s j).still) ∧ WordsKept s t [holdWord n, holdWord m] ∧
      t = { s with regs := t.regs, fab := { s.fab with isl := t.fab.isl } })

/-- ROUND_END, SKIP_END and LAST_ROUND (R126, R142, R143, R165 to R167, R169): a round whose slots are served is counted
and the slot counter returns to zero; skipped rounds count as frozen cycles of SKIP; the last round is noted, or a
unit short of END is a round overrun 0x24, and a bubble weave that reaches RND_MAX stops with 0x25. DEADLOCK_LIMIT and
ISLAND_DONE (R142, R150, R167, R168, R254): an island whose count of frozen cycles has reached its limit is recorded
as cause 5, and its weave, unless it has stopped already, stops with 0x2B; an island whose units have all reported
counts its tail and the rest of its time, and the invocation ends with status 0 when it is the last. -/
def Obligations.RoundsAndEnds : Prop :=
  (∀ (s : State) (n : Nat), n < 32 → awake s = true →
    let s1 := slotsGo 16 s n
    (∀ w v, runOf s n = some (w, v) → mayRun s n .none_ = true → mayRun s1 n .none_ = true → roundServed s1 n = true →
      (isl s1 n).rounds + 1 < v.rounds → (w.bubble = true → (isl s1 n).rounds + 1 < w.rndMax) → Answers (.roundEnd n) s fun t =>
        rd t Reg.ISL_WV_RND n = min (rd s1 Reg.ISL_WV_RND n + 1) (2 ^ 32 - 1) ∧ rd t Reg.ISL_FAB_SLOT_SLOT n = 0 ∧
        (isl t n).rounds = (isl s1 n).rounds + 1 ∧ t = dutySkip (atBoundary (roundOver s1 n v) n) n) ∧
    ((isl s n).skipping ≠ 0 → Answers (.skipEnd n) s fun t =>
      rd t Reg.ISL_FRZ_SKIP n =
        min (rd s Reg.ISL_FRZ_SKIP n + (isl s n).skipping * (rd s Reg.ISL_FAB_SLOT_LEN n + 1)) (2 ^ 32 - 1) ∧
      WordsKept s t [Reg.ISL_FRZ_SKIP.addr n, holdWord n] ∧
      t = { s with regs := t.regs, fab := { s.fab with isl := t.fab.isl } }) ∧
    (∀ w v, runOf s n = some (w, v) → mayRun s n .none_ = true → mayRun s1 n .none_ = true →
      v.rounds ≤ (isl s1 n).rounds + 1 → (w.bubble = true → shortUnit s1 n = none) →
      (v.rounds ≠ 0 → roundServed s1 n = true) →
      let s2 := if v.rounds = 0 then s1 else roundOver s1 n v
      let s3 := setIsl s2 n { isl s2 n with lastRound := true }
      (w.bubble = true → w.rndMax ≤ (isl s3 n).rounds → exec (.lastRound n) s = .next (rndMaxFault s3 n)) ∧
      ((w.bubble = true → (isl s3 n).rounds < w.rndMax) → shortUnit s3 n = none → exec (.lastRound n) s = .next s3) ∧
      (∀ pos, (w.bubble = true → (isl s3 n).rounds < w.rndMax) → shortUnit s3 n = some pos → exec (.lastRound n) s =
        .next (stopIsl (runFault s3 (bindOf s3 n) 0x24 (isl s3 n).wrel pos 0) n 0x24 0)))) ∧
  (∀ (s : State) (n pos tail ns : Nat), n < 32 → pos < 64 → awake s = true →
    (rd s Reg.ISL_FAB_FRZ_LIMIT n ≤ (isl s n).dead → (codeAt s n pos).1 ≠ 0 →
      let s1 := fabFault (setIsl s n { isl s n with dead := 0 }) n pos 5 0 (codeAt s n pos).1 (oneIf (codeAt s n pos).2) 0
      exec (.deadlockLimit n pos) s = .next (if inRounds s1 n = true then stopIsl s1 n 0x2B 0 else s1)) ∧
    (∀ w v, runOf s n = some (w, v) → (isl s n).lastRound = true → (isl s n).done = false → (isl s n).stopped = false →
      (∀ x < 32, bushelIdle (bsh s (32 * n + x)) = true) →
      let s1 := wr s Reg.ISL_WV_TAIL n (min tail (2 ^ 32 - 1))
      let s2 := setIsl (islNs s1 n (ns - rd s1 Reg.ISL_WV_TIME_NS n)) n { isl s n with done := true }
      let v1 := { v with done := v.done ++ [(isl s n).wrel] }
      let s3 := setInv s2 (bindOf s2 n) (isl s n).newWeave (some v1)
      exec (.islandDone n tail ns) s = .next (
        if v1.done.length = w.nisl then endInvoc s3 (bindOf s2 n) (isl s n).newWeave 0 0 else s3)))

/-! ### Weaves -/

/-- LOAD, REPLACE, RELOCATE and UNLOAD (R158, R160, R161, R170, R172 to R175, R181, R231, R244) where the binding is in a
state that takes them. A LOAD names its binding's partition and reads its image; one that passes its checks takes its
T1 bushels, its islands and its configuration on the placement found, and one that fails them leaves the binding
EMPTY. A REPLACE that passes its checks enters SWITCHING with the next generation, a carry with the new weave placed
beside the old. RELOCATE and UNLOAD drain. The partition rule of bindings (R161, R253): a LOAD, REPLACE, RELOCATE or
UNLOAD of another partition's binding ends with 0x36, and one but LOAD of an EMPTY or NOPLACE binding with 0x23; no
register word changes. -/
def Obligations.WeaveControl : Prop :=
  (∀ (s : State) (r i : Nat) (c : Cmd),
    let s1 := takeCmd s c
    let p := partOf r
    let bd := c.bd
    let a := c.fld 0x10 8
    let st := rd s1 Reg.WVE_BIND_STATE bd
    (Turn s r i 0x10 c → st = 0 → c.landed = [] → c.arv = 0 → (bind s1 bd).cur = none →
      let s2 := modCmd (setBind (wr (setState s1 bd 1) Reg.WVE_BIND_PART bd p) bd { bind s1 bd with loading := some (r, i) })
        r i fun d => { d with bind := some bd }
      (∀ u, readImage s2 p a r i = .wait u → exec (.load r i) s = .next (claimed c r i u)) ∧
      (∀ u, readImage s2 p a r i = .held u → exec (.load r i) s = .next (claimed c r i (setAside u r i))) ∧
      (∀ u, readImage s2 p a r i = .go u →
        let u1 := modCmd u r i fun d => { d with arv := 1 }
        let im := imgAt u1 p a
        let w := parseWeave im p a (bit (c.fld 0x19 1) 0)
        (∀ f, checkImage u1 im w 0 = some f →
          exec (.load r i) s = .next (claimed c r i (loadFails (loadFault (fresh u1) bd f) (going c) bd f.code))) ∧
        (∀ u2 pl, checkImage u1 im w 0 = none → placeLoad im w c.only 32 u1 = (u2, .inl pl) →
          exec (.load r i) s = .next (claimed c r i (loadPlaced (takeT1 u2 w) (going c) bd im w pl))) ∧
        (∀ u2 f, checkImage u1 im w 0 = none → placeLoad im w c.only 32 u1 = (u2, .inr f) → c.urgent = false →
          exec (.load r i) s = .next (claimed c r i (loadFails (loadFault (fresh u2) bd f) (going c) bd f.code))))) ∧
    (∀ u, Turn s r i 0x12 c → st ≠ 0 → st ≠ 6 → rd s1 Reg.WVE_BIND_PART bd = p → (bind s1 bd).op = none →
      readImage s1 p a r i = .go u →
      let carry := bit (c.fld 0x19 1) 2
      let cur := (bind s1 bd).cur
      let im := imgAt u p a
      let w := parseWeave im p a ((cur.map Weave.hot).getD false)
      let check := checkImage u im w (if carry then 0 else (cur.map t1Of).getD 0)
      let found := replacePlace u im w ((cur.map Weave.place).getD []) carry c.only
      (∀ f, (check = some f ∨ (check = none ∧ found = .inr f)) →
        exec (.replace r i) s = .next (claimed c r i (finish (loadFault (fresh u) bd f) r i f.code 0))) ∧
      (∀ pl, check = none → found = .inl pl →
        let w1 := { w with place := pl }
        let u1 := wr (setState u bd 4) Reg.WVE_BIND_GEN bd ((rd u Reg.WVE_BIND_GEN bd + 1) % 2 ^ 32)
        let u2 := wr (wr u1 Reg.WVE_BIND_PLACE_NEW bd (placeMask pl)) Reg.WVE_BIND_CARRY bd (oneIf carry)
        let u3 := modCmd u2 r i fun d => { d with bind := some bd }
        let u4 := takeT1 (putWeave u3 im w1 bd 0 true pl) w1
        exec (.replace r i) s = .next (claimed c r i (fresh (
          if carry then setBind u4 bd { bind u4 bd with
            new := some w1, op := some (.carry, r, i), loading := some (r, i), since := u4.now }
          else setBind u3 bd { bind u3 bd with new := some w1, op := some (.drain, r, i) }))))) ∧
    (∀ u, Turn s r i 0x12 c → st ≠ 0 → st ≠ 6 → rd s1 Reg.WVE_BIND_PART bd = p → (bind s1 bd).op = none →
      (readImage s1 p a r i = .wait u → exec (.replace r i) s = .next (claimed c r i u)) ∧
      (readImage s1 p a r i = .held u → exec (.replace r i) s = .next (claimed c r i (setAside u r i)))) ∧
    (st ≠ 0 → st ≠ 6 → rd s1 Reg.WVE_BIND_PART bd = p → (bind s1 bd).op = none →
      (Turn s r i 0x13 c → Answers (.relocate r i) s fun t => rd t Reg.WVE_BIND_STATE bd = 5 ∧
        bind t bd = { bind s bd with op := some (.relocate, r, i) } ∧ WordsKept s t [Reg.WVE_BIND_STATE.addr bd]) ∧
      (Turn s r i 0x14 c → Answers (.unload r i) s fun t => rd t Reg.WVE_BIND_STATE bd = 5 ∧
        bind t bd = { bind s bd with op := some (.unload, r, i) } ∧ WordsKept s t [Reg.WVE_BIND_STATE.addr bd]))) ∧
  (∀ (s : State) (r i : Nat) (c : Cmd),
    let s1 := takeCmd s c
    let st := rd s1 Reg.WVE_BIND_STATE c.bd
    let foreign := st ≠ 0 ∧ rd s1 Reg.WVE_BIND_PART c.bd ≠ partOf r
    let own := rd s1 Reg.WVE_BIND_PART c.bd = partOf r
    (Turn s r i 0x10 c →
      (foreign → Answers (.load r i) s fun t => Ends t r i 0x36 0 ∧ WordsKept s t []) ∧
      (own → st = 6 → Answers (.load r i) s fun t => Ends t r i 0x23 0 ∧ WordsKept s t [])) ∧
    (Turn s r i 0x12 c →
      (foreign → Answers (.replace r i) s fun t => Ends t r i 0x36 0 ∧ WordsKept s t []) ∧
      (own → st = 0 ∨ st = 6 → Answers (.replace r i) s fun t => Ends t r i 0x23 0 ∧ WordsKept s t [])) ∧
    (Turn s r i 0x13 c →
      (foreign → Answers (.relocate r i) s fun t => Ends t r i 0x36 0 ∧ WordsKept s t []) ∧
      (own → st = 0 ∨ st = 6 → Answers (.relocate r i) s fun t => Ends t r i 0x23 0 ∧ WordsKept s t [])) ∧
    (Turn s r i 0x14 c →
      (foreign → Answers (.unload r i) s fun t => Ends t r i 0x36 0 ∧ WordsKept s t []) ∧
      (own → st = 0 ∨ st = 6 → Answers (.unload r i) s fun t => Ends t r i 0x23 0 ∧ WordsKept s t [])))

/-- LOAD_COMPLETE (R160, R170, R254): a loaded binding is READY at generation 1 with its placement and image, a drained or
relocated one READY at the generation it has, its command done with status 0; a carried weave's load ends without
leaving SWITCHING. The time of the writing is charged. DRAIN_SWITCH, CARRY_OLD_UNLOAD and BINDING_DRAINED (R173 to
R175, R181): when the old generation's commands are done, a drain goes on to its load step, a carry takes up the new
weave and gives up the old one's islands, an UNLOAD leaves the binding EMPTY and a RELOCATE goes on to its load step. -/
def Obligations.WeaveCompletion : Prop :=
  (∀ (s : State) (bd r i : Nat) (w : Weave), bd < 32 → w.part < 8 → awake s = true → (bind s bd).loading = some (r, i) →
    ((bind s bd).op = none → (bind s bd).cur = some w → Answers (.loadComplete bd) s fun t =>
      rd t Reg.WVE_BIND_STATE bd = 2 ∧ rd t Reg.WVE_BIND_GEN bd = 1 ∧ rd t Reg.WVE_BIND_VAR bd = 0 ∧
      rd t Reg.WVE_BIND_PLACE bd = placeMask w.place % 2 ^ 32 ∧ rd t Reg.WVE_BIND_CARRY bd = 0 ∧
      (bind t bd).loading = none ∧ (bind t bd).op = none ∧ (bind t bd).cur = some w ∧
      (∀ c, getCmd s r i = some c → Ends t r i 0 0)) ∧
    (∀ k x y, (bind s bd).op = some (k, x, y) → k = .drain ∨ k = .relocate → (bind s bd).cur = some w →
      Answers (.loadComplete bd) s fun t =>
      rd t Reg.WVE_BIND_STATE bd = 2 ∧ rd t Reg.WVE_BIND_GEN bd = rd s Reg.WVE_BIND_GEN bd ∧
      rd t Reg.WVE_BIND_PLACE bd = placeMask w.place % 2 ^ 32 ∧ (bind t bd).op = none ∧ (bind t bd).cur = some w) ∧
    (∀ x y, (bind s bd).op = some (.carry, x, y) → (bind s bd).new = some w →
      exec (.loadComplete bd) s = .next (chargeSince (setBind s bd { bind s bd with loading := none }) w.part w.place.length
        (bind s bd).since r i))) ∧
  (∀ (s : State) (bd r i : Nat) (w : Weave), bd < 32 → awake s = true → (bind s bd).loading = none →
    let b := bind s bd
    let g := rd s Reg.WVE_BIND_GEN bd
    (b.op = some (.drain, r, i) → b.new = some w → oldDone s bd (genBefore g) r i = true → isHeld s r i = false →
      exec (.drainSwitch bd) s = .next (loadStep s bd r i w (some w.place) ((getCmd s r i).bind Cmd.only) false)) ∧
    (b.op = some (.carry, r, i) → b.new = some w → oldDone s bd (genBefore g) r i = true →
      Answers (.carryOldUnload bd) s fun t =>
        bind t bd = { b with cur := some w, new := none, inv := b.invNew, invNew := none, op := none, lastUse := s.now } ∧
        rd t Reg.WVE_BIND_STATE bd = (if b.invNew.isSome then 3 else 2) ∧ rd t Reg.WVE_BIND_PLACE_NEW bd = 0 ∧
        rd t Reg.WVE_BIND_CARRY bd = 0 ∧ rd t Reg.WVE_BIND_VAR bd = w.var % 2 ^ Reg.WVE_BIND_VAR.w) ∧
    (b.op = some (.unload, r, i) → oldDone s bd g r i = true → isHeld s r i = false →
      exec (.bindingDrained bd) s = .next (finish (emptyBinding (match b.cur with | some o => dropWeave s o | none => s) bd)
        r i 0 0)) ∧
    (b.op = some (.relocate, r, i) → oldDone s bd g r i = true → isHeld s r i = false →
      (b.cur.orElse fun _ => b.new) = some w →
      exec (.bindingDrained bd) s = .next (loadStep s bd r i w none none true)))

/-- INVOKE and ISLAND_RELEASE (R163, R165, R170, R178, R234, R245): an invocation that its binding takes latches its model and
goes on to the checks, the configuration and the reset of R163; one with a direct N, no words to read and the variant that
is configured stands ready for its first release, its rounds counted. The next island of a running invocation is released
and counts in it. -/
def Obligations.WeaveInvoke : Prop :=
  (∀ (s : State) (r i : Nat) (c : Cmd), Turn s r i 0x11 c →
    let s1 := takeCmd s c
    let stale := bit (c.fld 0x11 1) 1 = true ∧ (model s1 (partOf r) (c.fld 0x12 1)).cls = 2
    runOfCmd s1 r i = none →
    (∀ nw w, invokeVerdict s1 (going c) = .start nw → ¬stale → weaveOf (latchModel s1 (going c)) c.bd nw = some w →
      exec (.invoke r i) s = .next (claimed c r i (invokeGo (latchModel s1 (going c)) (going c) nw w))) ∧
    (∀ nw w v, invokeVerdict s1 (going c) = .start nw → weaveOf s1 c.bd nw = some w → bits (c.fld 0x11 1) 0 2 = 0 →
      c.fld 0x13 1 = 0 → w.rtmode = 0 → w.var = 0 → w.variants[0]? = some v → c.fld 0x18 8 % 2 ^ 24 ≤ w.tripMax →
      Answers (.invoke r i) s fun t =>
        let n := c.fld 0x18 8 % 2 ^ 24
        ∃ words, invOf t c.bd nw = some ⟨r, i, c.fld 0x14 4, 0, n, c.fld 0x20 4 % 2 ^ 24, c.fld 0x24 4, words, 0, [], false,
          v.pro + n * (v.bfix + v.tiles * v.btile) + v.epi⟩) ∧
    (∀ nw, invokeVerdict s1 (going c) = .start nw → stale → Answers (.invoke r i) s fun t =>
      Ends t r i 0x56 0 ∧ WordsKept s t []) ∧
    (∀ code, invokeVerdict s1 (going c) = .fail code → code ≠ 0x36 → ¬stale →
      exec (.invoke r i) s = .next (claimed c r i (invokeFails (latchModel s1 (going c)) (going c) code
        (if code = 0x22 then c.fld 0x14 4 else 0)))) ∧
    (invokeVerdict s1 (going c) = .fail 0x36 → Answers (.invoke r i) s fun t => Ends t r i 0x36 0 ∧ WordsKept s t [])) ∧
  (∀ (s : State) (bd ns n : Nat) (w : Weave) (v : Invoc), bd < 32 → awake s = true → weaveOf s bd false = some w →
    invOf s bd false = some v → v.stopped = false → yieldBusy s v.ring v.idx = false → w.place[v.released]? = some n →
    rd s Reg.PWR_STAT_BRAKE 0 = 0 → Answers (.islandRelease bd ns) s fun t =>
      (isl t n).released = true ∧ (isl t n).stopped = false ∧ rd t Reg.ISL_WV_STAT_RUN n = 1 ∧
      rd t Reg.ISL_FAB_SLOT_RUN n = 1 ∧ invOf t bd false = some { v with released := v.released + 1 } ∧
      (∀ c, getCmd s v.ring v.idx = some c → c.yOnce = false → rd t Reg.ISL_WV_STAGGER n = min ns (2 ^ 32 - 1)))

/-! ### Yields and models -/

/-- YIELD and RESUME with MODE 1 (R257): every ring named is yielded, or resumed, and the command ends with 0, a YIELD's
own ring stopping when it retires; rings of another partition end it with 0x36. -/
def Obligations.BoundaryYield : Prop :=
  ∀ (s : State) (r i : Nat) (c : Cmd),
    let s1 := takeCmd s c
    yieldMode s r i = 1 →
    ((∀ q ∈ boundRings c, partOf q = partOf r) →
      (Turn s r i 0x15 c → exec (.yieldBoundary r i) s = .next (claimed c r i
        (eachOf ((boundRings c).filter (· ≠ r)) (finish s1 r i 0 0) boundaryYield))) ∧
      (Turn s r i 0x16 c → exec (.resumeBoundary r i) s = .next (claimed c r i
        (finish (eachOf (boundRings c) s1 boundaryResume) r i 0 0)))) ∧
    ((∃ q ∈ boundRings c, partOf q ≠ partOf r) →
      (Turn s r i 0x15 c → Answers (.yieldBoundary r i) s fun t => Ends t r i 0x36 0 ∧ WordsKept s t []) ∧
      (Turn s r i 0x16 c → Answers (.resumeBoundary r i) s fun t => Ends t r i 0x36 0 ∧ WordsKept s t []))

/-- YIELD with MODE 0, YIELD_QUIESCED and YIELD_SAVE_DONE (R206, R258 to R260): the yield of a running invocation starts, or
is refused and counted; it is quiet when no request of its islands is out; the save then holds its units, its islands are
free, and both commands are charged and told. -/
def Obligations.FullYield : Prop :=
  (∀ (s : State) (r i : Nat) (c d : Cmd), Turn s r i 0x15 c → yieldMode s r i = 0 →
    let s1 := takeCmd s c
    let x := c.target
    (s1.wve.yields.any fun y => y.by_ == some (r, i)) = false → partOf x.1 = partOf r → getCmd s1 x.1 x.2 = some d →
    d.op = 0x11 → d.finished = false → d.st ≠ .yielded → yieldBusy s1 x.1 x.2 = false → (runOfCmd s1 x.1 x.2).isSome = true →
    (∀ u, startYield s1 x.1 x.2 1 (some (r, i)) = .started u → exec (.yieldFull r i) s = .next (claimed c r i u)) ∧
    (∀ code, startYield s1 x.1 x.2 1 (some (r, i)) = .no code → Answers (.yieldFull r i) s fun t =>
      Ends t r i code (if code = 0x31 ∨ code = 0x33 then 1 else 0) ∧
      rd t Reg.CMD_YLD_REFUSE 0 = min (rd s Reg.CMD_YLD_REFUSE 0 + 1) (2 ^ 32 - 1) ∧
      WordsKept s t [Reg.CMD_YLD_REFUSE.addr 0])) ∧
  (∀ (s : State) (bd : Nat) (y : Yielding) (b : Nat) (nw : Bool) (w : Weave) (v : Invoc), bd < 32 → awake s = true →
    s.wve.yields.find? (fun y => y.bind == bd && !y.quiesced) = some y → yieldLost s y = false → y.pinning = false →
    runOfCmd s y.ring y.idx = some (b, nw, w, v) → quiet s w.place = true →
    let u := withdrawHeld s y.ring y.idx w.place
    exec (.yieldQuiesced bd) s = .next { u with wve := { u.wve with yields := u.wve.yields.map fun z =>
      if z.ring = y.ring ∧ z.idx = y.idx then { z with quiesced := true } else z } }) ∧
  (∀ (s : State) (bd : Nat) (y : Yielding) (b : Nat) (nw : Bool) (w : Weave) (v : Invoc) (c : Cmd), bd < 32 → w.part < 8 →
    partOf y.ring < 8 → awake s = true → s.wve.yields.find? (fun y => y.bind == bd && y.quiesced) = some y →
    yieldLost s y = false → getCmd s y.ring y.idx = some c → runOfCmd s y.ring y.idx = some (b, nw, w, v) →
    (∀ n ∈ w.place, n < 32) → (∀ a e, y.by_ = some (a, e) → ¬(a = y.ring ∧ e = y.idx)) → Answers (.yieldSaveDone bd) s fun t =>
      (∃ d, getCmd t y.ring y.idx = some d ∧ d.st = .yielded ∧ d.yOnce = true ∧ d.yReason = y.reason) ∧
      t.wve.saved = s.wve.saved ++ [⟨y.ring, y.idx, bd, y.reason, true, w, v, latch s y.ring, c.fld 0x30 8, w.place,
        saveUnits s w.place⟩] ∧
      (∀ a e d, y.by_ = some (a, e) → getCmd s a e = some d → Ends t a e 0 0) ∧
      rd t Reg.CMD_YLD_FULL 0 = min (rd s Reg.CMD_YLD_FULL 0 + 1) (2 ^ 32 - 1))

/-- RESUME with MODE 0 and RESUME_PROCEED (R160, R176, R261): with the target yielded, its records ended and its
generation accepted, the image is read once and the restore starts on the placement found, or the command waits; one
that waits tries again, and one whose islands have been freed for it starts there. RESTORE_DONE and ABANDON (R203,
R260 to R262): a good commit word restores the units, as the save area holds them, on the new placement, and the
invocation runs again from its release; a bad one, or a detection error, ends both commands with 0x32; an abandoned
invocation ends with 0x30. -/
def Obligations.Resumes : Prop :=
  ((∀ (s : State) (r i : Nat) (c d : Cmd) (y : Saved) (u : State), Turn s r i 0x16 c → yieldMode s r i = 0 →
    let s1 := takeCmd s c
    let x := c.target
    (s1.wve.restores.any fun z => z.ring == c.ring && z.idx == c.idx) = false → partOf x.1 = partOf c.ring →
    getCmd s1 x.1 x.2 = some d → savedOf s1 x.1 x.2 = some y → d.st = .yielded → d.finished = false →
    recordsOut s1 x.1 x.2 = false → accepts s1 y.bind y.inv.gen = true →
    readOnce s1 (partOf c.ring) y.weave.img (going c) = .go u →
    let im := imgAt u (partOf c.ring) y.weave.img
    (∀ pl, c.landed = [] → resumePlace u im y c.only = some pl →
      exec (.resumeFull r i) s = .next (claimed c r i (startRestore u (going c) im y pl))) ∧
    (c.landed = [] → resumePlace u im y c.only = none → c.urgent = false →
      exec (.resumeFull r i) s = .next (claimed c r i u)) ∧
    (c.landed ≠ [] → (∀ k ∈ c.landed, (isl u k).bind = none) →
      exec (.resumeFull r i) s = .next (claimed c r i (startRestore u (going c) im y c.landed)))) ∧
  (∀ (s : State) (r i : Nat) (c d : Cmd), Turn s r i 0x16 c → yieldMode s r i = 0 →
    (takeCmd s c).wve.restores = [] →
    (partOf c.target.1 ≠ partOf c.ring → Answers (.resumeFull r i) s fun t => Ends t r i 0x36 0 ∧ WordsKept s t []) ∧
    (partOf c.target.1 = partOf c.ring → getCmd (takeCmd s c) c.target.1 c.target.2 = some d →
      (d.st ≠ .yielded ∨ d.finished = true) → Answers (.resumeFull r i) s fun t => Ends t r i 0x34 0 ∧ WordsKept s t [])) ∧
  (∀ (s : State) (r i : Nat) (c : Cmd), Turn s r i 0x16 c → c.taken = true → c.fld 0x10 1 = 0 →
    exec (.resumeProceed r i) s = .next (resumeGo s c) ∧
    (∀ d y u pl, (s.wve.restores.any fun z => z.ring == c.ring && z.idx == c.idx) = false →
      partOf c.target.1 = partOf c.ring → getCmd s c.target.1 c.target.2 = some d →
      savedOf s c.target.1 c.target.2 = some y → d.st = .yielded → d.finished = false →
      recordsOut s c.target.1 c.target.2 = false → accepts s y.bind y.inv.gen = true →
      readOnce s (partOf c.ring) y.weave.img c = .go u → c.landed = [] →
      resumePlace u (imgAt u (partOf c.ring) y.weave.img) y c.only = some pl →
      exec (.resumeProceed r i) s = .next (startRestore u c (imgAt u (partOf c.ring) y.weave.img) y pl)))) ∧
  ((∀ (s : State) (r i : Nat) (bad : Bool) (x : Restoring) (y : Saved), ringOk r = true → i < 2 ^ 32 → awake s = true →
    s.wve.restores.find? (fun x => x.ring == r && x.idx == i) = some x →
    let s1 : State := { s with wve := { s.wve with restores := s.wve.restores.filter fun z => !(z.ring == r && z.idx == i) } }
    savedOf s1 x.tring x.tidx = some y →
    let lost := bad = true ∨ memRead s1 (partOf r) (y.area + 65532) 4 ≠ 0x59415645
    (lost → exec (.restoreDone r i bad) s = .next (finish (endSaved s1 y 0x32 0) r i 0x32 0)) ∧
    (¬lost →
      let s2 := restoreUnits s1 x.place (unitsBack (imgAt s1 (partOf r) y.area) y.oldPlace y.units)
      let s3 := match runOfCmd s2 x.tring x.tidx with
        | some (bd, nw, _, v) => setInv s2 bd nw (some { v with released := 0, stopped := false })
        | none => s2
      let s4 : State := { s3 with wve := { s3.wve with
        saved := s3.wve.saved.filter fun z => !(z.ring == x.tring && z.idx == x.tidx) } }
      let s5 := modCmd s4 x.tring x.tidx fun c => { c with st := .running }
      exec (.restoreDone r i bad) s = .next (finish (chargeSince (chargePb s5 (partOf r) (saveSize x.place)) (partOf r)
        x.place.length x.since r i) r i 0 0))) ∧
  (∀ (s : State) (r i : Nat) (c d : Cmd) (y : Saved), Turn s r i 0x17 c →
    let s1 := takeCmd s c
    let x := c.target
    partOf x.1 = partOf r → getCmd s1 x.1 x.2 = some d → savedOf s1 x.1 x.2 = some y → d.st = .yielded → d.finished = false →
    let u := endSaved s1 y 0x30 0
    exec (.abandon r i) s = .next (claimed c r i (finish (setMem u { u.mem with faults := u.mem.faults.map fun f =>
      let l := f.held.filter fun h => !(heldBy h x.1 x.2)
      if l.length = f.held.length then f else { f with held := l, ended := f.ended || l.isEmpty } }) r i 0 0))))

/-- MODEL_SET, MODEL_STAGE and MODEL_SWAP (R230, R232 to R234, R244, R246): the descriptor written, the inactive set staged,
the sets swapped with the release owed; a resident class pins its pages first, a resting one hints them. A model in use
or mid-swap ends them with 0x57, a swap to an empty set too; a binding of another partition ends MODEL_SET with 0x36. -/
def Obligations.Models : Prop :=
  ∀ (s : State) (r i : Nat) (c : Cmd),
    let s1 := takeCmd s c
    let p := partOf r
    let m := c.fld 0x10 1
    let x := model s1 p m
    let k := 1 - x.active
    let y : Model := {
      id := c.fld 0x14 4, cls := c.fld 0x11 1, active := bits (c.fld 0x39 1) 0 1, swapPend := false, relSem := c.fld 0x12 2,
      base := [c.fld 0x18 8, c.fld 0x28 8], size := [c.fld 0x20 8, c.fld 0x30 8], refs := [0, 0], bind := c.fld 0x38 1,
      lastUse := x.lastUse }
    let pages := setPages (c.fld 0x18 8) (c.fld 0x20 8) ++ setPages (c.fld 0x28 8) (c.fld 0x30 8)
    let own := rd s1 Reg.WVE_BIND_STATE (c.fld 0x38 1) = 0 ∨ rd s1 Reg.WVE_BIND_PART (c.fld 0x38 1) = p
    let staged : Model := { x with base := setAt x.base k (c.fld 0x18 8), size := setAt x.size k (c.fld 0x20 8) }
    let stagePages := setPages (c.fld 0x18 8) (c.fld 0x20 8)
    (Turn s r i 0x18 c → own → x.refs = [0, 0] → x.swapPend = false →
      (∀ u, c.fld 0x11 1 = 0 → pinPages s1 p 0 (some (c.ring, c.idx)) pages = .done u →
        exec (.modelSet r i) s = .next (claimed c r i (finish (setModel u p m y) r i 0 0))) ∧
      (c.fld 0x11 1 = 2 →
        exec (.modelSet r i) s = .next (claimed c r i (finish (setModel (hintPages s1 p 2 pages) p m y) r i 0 0))) ∧
      (c.fld 0x11 1 = 1 → Answers (.modelSet r i) s fun t => model t p m = y ∧ Ends t r i 0 0 ∧ WordsKept s t [])) ∧
    (Turn s r i 0x18 c → own → (x.refs ≠ [0, 0] ∨ x.swapPend = true) → Answers (.modelSet r i) s fun t =>
      model t p m = x ∧ Ends t r i 0x57 0 ∧ WordsKept s t []) ∧
    (Turn s r i 0x18 c → ¬own → Answers (.modelSet r i) s fun t => model t p m = x ∧ Ends t r i 0x36 0 ∧ WordsKept s t []) ∧
    (Turn s r i 0x19 c → x.refs.getD k 0 = 0 → x.swapPend = false →
      (∀ u, x.cls = 0 → pinPages s1 p 0 (some (c.ring, c.idx)) stagePages = .done u →
        exec (.modelStage r i) s = .next (claimed c r i (finish (setModel u p m staged) r i 0 0))) ∧
      (x.cls = 2 →
        exec (.modelStage r i) s = .next (claimed c r i (finish (setModel (hintPages s1 p 2 stagePages) p m staged) r i 0 0))) ∧
      (x.cls = 1 → Answers (.modelStage r i) s fun t => model t p m = staged ∧ Ends t r i 0 0 ∧ WordsKept s t [])) ∧
    (Turn s r i 0x19 c → (x.refs.getD k 0 ≠ 0 ∨ x.swapPend = true) → Answers (.modelStage r i) s fun t =>
      model t p m = x ∧ Ends t r i 0x57 0 ∧ WordsKept s t []) ∧
    (Turn s r i 0x1A c → x.size.getD k 0 ≠ 0 → x.swapPend = false →
      let u := setModel s1 p m { x with active := k, swapPend := true, relSem := c.fld 0x12 2 }
      exec (.modelSwap r i) s = .next (claimed c r i (finish (swapCheck
        (eachOf (List.range 8) u fun u q => latchDrop u (8 * p + q)) p m) r i 0 0))) ∧
    (Turn s r i 0x1A c → (x.size.getD k 0 = 0 ∨ x.swapPend = true) → Answers (.modelSwap r i) s fun t =>
      model t p m = x ∧ Ends t r i 0x57 0 ∧ WordsKept s t [])

/-! ### Porters and the unified range -/

/-- The ten memory operations (R191, R247) go on from the page they have reached, each page by its own rule, until one waits
or fails or all are done; a MIGRATE first starts the moves of its pages. -/
def Obligations.MemoryOps : Prop :=
  ∀ (s : State) (r i : Nat) (c : Cmd),
    let s1 := takeCmd s c
    let left := c.total - c.progress
    let run (u : State) := claimed c r i (pageOps left u (going c) c.progress)
    (Turn s r i 0x21 c → exec (.map r i) s = .next (run s1)) ∧
    (Turn s r i 0x22 c → exec (.unmap r i) s = .next (run s1)) ∧
    (Turn s r i 0x23 c → exec (.protect r i) s = .next (run s1)) ∧
    (Turn s r i 0x24 c → exec (.pin r i) s = .next (run s1)) ∧
    (Turn s r i 0x25 c → exec (.unpin r i) s = .next (run s1)) ∧
    (Turn s r i 0x26 c → exec (.hint r i) s = .next (run s1)) ∧
    (Turn s r i 0x27 c → exec (.migrate r i) s = .next (run (startMoves s1 (going c) left c.progress))) ∧
    (Turn s r i 0x28 c → exec (.shadow r i) s = .next (run s1)) ∧
    (Turn s r i 0x29 c → exec (.poison r i) s = .next (run s1)) ∧
    (Turn s r i 0x2A c → exec (.unpoison r i) s = .next (run s1))

/-- PROTECT, UNPIN, HINT, POISON and UNPOISON of one page that is mapped (R187, R191): the bits each sets in the page's
entry; no other page's entry, no byte of T2 or T3 and no register word changes, and the command ends with 0. MAP and
UNMAP of one page (R189 to R191): an unmapped page whose tables stand becomes ABSENT or a WINDOW with the flags named;
a mapped one of a segment that does not migrate, in no save area and under no lock, becomes NONE; MAP of a mapped page
ends with 0x48. No byte of T2 or T3 changes. -/
def Obligations.PageOps : Prop :=
  (∀ (s : State) (r i : Nat) (c : Cmd), c.total = 1 → c.progress = 0 → c.ring = r → c.idx = i →
    let p := partOf r
    let g := pageOf (c.fld 0x10 8)
    let opt := c.fld 0x31 1
    let kept (t : State) (e : Nat) : Prop := l3e t p g = e % 2 ^ 64 ∧ (∀ h, h ≠ g → l3e t p h = l3e s p h) ∧
      t.mem.t2 = s.mem.t2 ∧ t.mem.t3 = s.mem.t3 ∧ WordsKept s t [] ∧ Ends t r i 0 0
    eKind (l3e s p g) ≠ 0 →
    (Turn s r i 0x23 c → Answers (.protect r i) s fun t => kept t (putBits (l3e s p g) 2 2 (bits opt 3 2))) ∧
    (Turn s r i 0x25 c → Answers (.unpin r i) s fun t => kept t (putBits (l3e s p g) 6 1 0)) ∧
    (Turn s r i 0x26 c → Answers (.hint r i) s fun t => kept t (putBits (l3e s p g) 8 2 (bits opt 5 2))) ∧
    (Turn s r i 0x29 c → Answers (.poison r i) s fun t => kept t (putBits (l3e s p g) 5 1 1)) ∧
    (Turn s r i 0x2A c → Answers (.unpoison r i) s fun t => kept t (putBits (l3e s p g) 5 1 0))) ∧
  (∀ (s : State) (r i : Nat) (c : Cmd), c.total = 1 → c.progress = 0 → c.ring = r → c.idx = i →
    let s1 := takeCmd s c
    let p := partOf r
    let g := pageOf (c.fld 0x10 8)
    let opt := c.fld 0x31 1
    let flags := 4 * bits opt 3 2 + 2 ^ 8 * bits opt 5 2
    let tables := rd s Reg.XLT_ROOT_VALID p = 1 ∧ bits (l1e s p g) 0 2 = 2 ∧ bits (l2e s p g) 0 2 = 2
    let bytes (t : State) : Prop := t.mem.t2 = s.mem.t2 ∧ t.mem.t3 = s.mem.t3
    (Turn s r i 0x21 c → eKind (l3e s p g) < 2 → tables → bits opt 0 2 = 1 → Answers (.map r i) s fun t =>
      l3e t p g = (1 + flags + 2 ^ 10 * bits opt 2 1) % 2 ^ 64 ∧ Ends t r i 0 0 ∧ bytes t) ∧
    (Turn s r i 0x21 c → eKind (l3e s p g) < 2 → tables → bits opt 0 2 = 3 → Answers (.map r i) s fun t =>
      l3e t p g = (3 + flags + 2 ^ 12 * c.fld 0x32 1 + 2 ^ 19 * (bits (c.fld 0x18 8) 0 36 % 2 ^ 36)) % 2 ^ 64 ∧
      Ends t r i 0 0 ∧ bytes t) ∧
    (Turn s r i 0x21 c → 2 ≤ eKind (l3e s p g) → Answers (.map r i) s fun t =>
      l3e t p g = l3e s p g ∧ Ends t r i 0x48 0 ∧ bytes t ∧ WordsKept s t []) ∧
    (Turn s r i 0x22 c → eKind (l3e s p g) = 3 → savePinned s1 p g = false → pageLocked s1 p g = false →
      Answers (.unmap r i) s fun t => l3e t p g = 0 ∧ Ends t r i 0 0 ∧ bytes t))

/-- MOVE (R184, R203, R214): a plain copy is accepted by its porter and moves nothing yet; a move with an arrival
descriptor reads and judges it first, waits or is set aside where it cannot be read, and ends with 0x53 where it is
bad. PORTER_TILE (R117, R184, R203, R207, R208, R254, R256) at the work's turn, with nothing found by the detection
codes: the next tile of a plain copy is read, stored at its destination, charged and counted, and the last one ends
the command; a bushel's request is carried up to the 64 KiB boundary that splits it, and is done when all of it is; a
store whose SRAM bytes fail their parity is not carried; a page of a migration is counted as copied. ARRIVAL_TILE
(R184, R214, R219 to R222, R228): at the work's turn a tile of an arrival move that has not landed goes through the
steps its descriptor selects; one that its container no longer has ends with 0x53. -/
def Obligations.Moves : Prop :=
  (∀ (s : State) (r i : Nat) (c : Cmd) (u : State), Turn s r i 0x20 c →
    let s1 := takeCmd s c
    let p := partOf r
    let a := c.fld 0x28 8
    (a = 0 → exec (.move r i) s = .next (claimed c r i s1)) ∧
    (a ≠ 0 → c.arv = 0 → gate s1 p a 64 false true (.tile r i) = .wait u →
      exec (.move r i) s = .next (claimed c r i u)) ∧
    (a ≠ 0 → c.arv = 0 → gate s1 p a 64 false true (.tile r i) = .held u →
      exec (.move r i) s = .next (claimed c r i (setAside u r i))) ∧
    (a ≠ 0 → c.arv = 0 → gate s1 p a 64 false true (.tile r i) = .go u →
      let d := memRead u p a 64
      if arvBad (fresh u) (going c) d = true then exec (.move r i) s = .next (claimed c r i (finish (fresh u) r i 0x53 0))
      else exec (.move r i) s = .next (claimed c r i (modCmd (fresh u) r i fun x => { x with
        arv := d, total := (moveTiles (fresh u) { going c with arv := d }).length })))) ∧
  ((∀ (s : State) (r i : Nat) (c : Cmd) (o n : Nat) (u w : State), Turn s r i 0x20 c → c.taken = true → c.fld 0x28 8 = 0 →
    porterTurn s (c.engine - 1) (partOf r) = true → s.pow.pfail = false → (moveTiles s c)[c.progress]? = some (o, n) →
    let p := partOf c.ring
    let h := HeldReq.tile c.ring c.idx
    let src := c.fld 0x10 8 + o
    let dst := c.fld 0x18 8 + o
    gateAll s p false h [(src, n)] = .go u → gates s u p true true h [(dst, n)] = .go w →
    let w1 := accWrite (heatUp w p src n) p dst n (memRead w p src n)
    let w2 := porterMoved (chargePb (dropRead (fresh w1) h) p n) p (c.engine - 1) n
    let w3 := modCmd w2 c.ring c.idx fun x => { x with progress := x.progress + 1, cost := x.cost + n }
    exec (.porterTile (.cmdTile r i) .clean) s = .next (claim
      (if c.progress + 1 ≥ c.total then finish w3 c.ring c.idx 0 0 else w3) (.tile r i))) ∧
  (∀ (s : State) (b q : Nat) (x : Req) (u : State), b < 1024 → awake s = true →
    (bsh s b).reqs.find? (fun x => x.id == q && x.st == .issued && porterTurn s x.porter (partOfIsl s (b / 32))) = some x →
    let p := partOfIsl s (b / 32)
    let a := x.part.1
    let m := x.part.2
    (∀ e, x.store = true → badByte s b (x.sram + x.sent) m = some e →
      exec (.porterTile (.bushel b q) .clean) s = .next (parityHit s b x.eng e fun s _ => s)) ∧
    ((x.store = true → badByte s b (x.sram + x.sent) m = none) → gate s p a m x.store false (.bushel b q) = .go u →
      let data := if x.store then 0 else memRead u p a m * 2 ^ (8 * x.sent)
      let u1 := if x.store then accWrite u p a m (sramRead u b (x.sram + x.sent) m) else fresh (heatUp u p a m)
      let u2 := claim (dropRead (porterMoved (chargePb u1 p m) p x.porter m) (.bushel b q)) (.bushel b q)
      exec (.porterTile (.bushel b q) .clean) s = .next (setBsh u2 b { bsh u2 b with reqs := (bsh u2 b).reqs.map fun z =>
        if z.id = q then { z with st := if z.sent + m ≥ z.len then .carried else z.st
                                  sent := z.sent + m, data := z.data + data } else z }))) ∧
  (∀ (s : State) (id : Nat) (m : Migr) (g : Nat), awake s = true →
    s.mem.migs.find? (fun m => m.id == id && porterTurn s m.porter m.part) = some m →
    ((localPages s m.seg).filter fun g => !ePsn (l3e s m.part g))[m.copied]? = some g →
    hostHolds s m.part (g * 65536) 65536 = false →
    (m.cause = 0 ∨ (granted s m.part m.srcTier && granted s m.part m.dstTier) = true) →
    Answers (.porterTile (.migPage id) .clean) s fun t =>
      t.mem.migs = s.mem.migs.map (fun x => if x.id = id then { x with copied := x.copied + 1 } else x) ∧
      t.mem.t2 = s.mem.t2 ∧ t.mem.t3 = s.mem.t3 ∧ t.mem.l3 = s.mem.l3)) ∧
  (∀ (s : State) (r i tile : Nat) (c : Cmd), Turn s r i 0x20 c → c.taken = true → c.arv ≠ 0 → tile ∉ c.landed →
    porterTurn s (c.engine - 1) (partOf r) = true → s.pow.pfail = false →
    (∀ o n, (moveTiles s c)[tile]? = some (o, n) →
      (aGather c.arv = true → exec (.arrivalTile r i tile) s = .next (gatherTile s c tile o n)) ∧
      (aGather c.arv = false → aHash c.arv = true → exec (.arrivalTile r i tile) s = .next (unpackTile s c tile o n)) ∧
      (aGather c.arv = false → aHash c.arv = false → exec (.arrivalTile r i tile) s = .next (shapeTile s c tile o n))) ∧
    ((moveTiles s c)[tile]? = none → tile < c.total →
      exec (.arrivalTile r i tile) s = .next (tileSettled s c tile (some 0x53) 0)))

/-- HEAT_SCAN and ZERO_FILL (R193, R197, R198, R202): a heat period retires what is due, runs the policy scan where it is
enabled and free to, and ages every frame segment; the first access to a page of a segment that has its frame segment
makes it LOCAL there, readable and writable, with zeros, and counts it. MIGRATION_SWITCH (R196 steps 4 and 5) of a
migration whose copy is complete: its pages' bytes stand in the destination's frames, their entries name the
destination with MIG clear, the segment stands there, the source's frame segment is given back, and the move is
counted. An error at the destination aborts it instead. -/
def Obligations.Migration : Prop :=
  ((∀ (s : State), awake s = true →
    let s1 := eachOf s.mem.fsegs s fun s e => match e.2 with
      | some x => if x.retired then retireSeg s e.1 else s
      | none => s
    let s2 := if rd s1 Reg.XLT_MIG_CTRL_EN 0 = 1 ∧ bit (rd s1 Reg.CEN_HOLD 0) 4 = false ∧ rimRuns s1 = true
      then policyScan s1 else s1
    let sh := rd s2 Reg.XLT_HEAT_CFG_SHIFT 0
    exec .heatScan s = .next (resumePinned (setMem s2 { s2.mem with fsegs := s2.mem.fsegs.map fun e =>
      (e.1, e.2.map fun x => { x with heat := x.heat / 2 ^ sh, age := if x.touched then x.age else min 16383 (x.age + 1),
                                      touched := false }) }))) ∧
  (∀ (s : State) (p g : Nat) (x : Segm), p < 8 → g < 2 ^ 36 → awake s = true → translate s p (g * 65536) false = .zfill →
    getSeg s (segKey p g) = some x → x.tier = 0 → x.frame < 2 ^ 23 → s.mem.migs = [] → Answers (.zeroFill p g) s fun t =>
      let e := l3e t p g
      let a := (x.frame * 32 + g % 32) * 65536
      eKind e = 2 ∧ eRd e = true ∧ eWr e = true ∧ eTier e = 0 ∧ eFrame e = x.frame * 32 + g % 32 ∧
      (∀ j, tget (fun _ => 0) t.mem.t2 j = if a ≤ j ∧ j < a + 65536 then 0 else tget (fun _ => 0) s.mem.t2 j) ∧
      rd t Reg.XLT_ZFILL 0 = min (rd s Reg.XLT_ZFILL 0 + 1) (2 ^ 32 - 1) ∧ WordsKept s t [Reg.XLT_ZFILL.addr 0])) ∧
  (∀ (s : State) (id : Nat) (m : Migr), awake s = true → s.mem.migs.find? (fun m => m.id == id) = some m →
    let pages := (localPages s m.seg).filter fun g => !ePsn (l3e s m.part g)
    pages.length ≤ m.copied →
    (exec (.migrationSwitch id true) s = .next (bump (abortMig s m) Reg.XLT_MIG_ABORT_ERR 0 1)) ∧
    (let frame (g : Nat) : Nat := m.dstFrame * 32 + g % 32
     let s1 := eachOf pages s fun s g => copyFrame s m.srcTier (eFrame (l3e s m.part g)) m.dstTier (frame g)
     let s2 := eachOf (localPages s1 m.seg) s1 fun s g =>
       setL3 s m.part g (putBits (putBits (putBits (l3e s m.part g) 7 1 0) 10 1 m.dstTier) 12 28 (frame g))
     let s3 := setSeg s2 m.seg (some ⟨m.dstTier, m.dstFrame, none⟩)
     let s4 := match getFseg s3 (fsegKey m.srcTier m.srcFrame), getFseg s3 (fsegKey m.dstTier m.dstFrame) with
       | some x, some y =>
         let z : FSeg := { y with heat := x.heat, age := x.age, touched := x.touched }
         setFseg s3 (fsegKey m.dstTier m.dstFrame) (some z)
       | _, _ => s3
     let s5 := if m.dstPool then (if m.srcTier = 0 then bump s4 Reg.XLT_T2_RETIRED 0 1 else s4)
       else dropFseg s4 m.srcTier m.srcFrame
     let s6 := if m.srcTier = 1 ∧ m.dstTier = 0 then bump s5 Reg.XLT_MIG_PROM 0 1
       else if m.srcTier = 0 ∧ m.dstTier = 1 then bump s5 Reg.XLT_MIG_DEM 0 1 else s5
     exec (.migrationSwitch id false) s =
       .next (resumePinned (noteMigs (setMem s6 { s6.mem with migs := s6.mem.migs.filter fun x => !(x.id == id) })))))

/-- DETECTION_REPAIR (R197, R208, R209). On a LOCAL page without CLN: the page is poisoned, counted, and the next access
is told subcode 0x2; on one with CLN: rewritten from the clean copy that serves, or poisoned with subcode 0x3. An
error in a range table that serves the page marks that table; one in the heat entry of the page's frame segment makes
it zero. A write of bytes that lie in one LOCAL page of T2 is read back, and every byte of T2 outside it, and all of
T3, reads as before (R4, R185, R187). -/
def Obligations.Bytes : Prop :=
  (∀ (s : State) (p g : Nat) (ok : Bool), p < 8 → g < 2 ^ 36 → awake s = true →
    let e := l3e s p g
    let s0 := if eTier e = 1 then bump s Reg.CAP_TAG_ERR (bits (eFrame e) 25 3) 1 else s
    let k := fsegKey (eTier e) (eFrame e / 32)
    let h := HeldReq.repair p g
    let poisoned := bump (setL3 s0 p g (putBits e 5 1 1)) Reg.XLT_POISONED 0 1
    let tell (u : State) (sub : Nat) : State :=
      setMem u { u.mem with found := u.mem.found.filter (fun x => !(x.1 == p && x.2.1 == g)) ++ [(p, g, sub)] }
    (isLocal e = false → exec (.detectionRepair p g 0 ok) s = .next (dropRead s h)) ∧
    (isLocal e = true →
      (eCln e = false → exec (.detectionRepair p g 0 ok) s = .next (tell (dropRead (noteError poisoned k) h) 2)) ∧
      (eCln e = true → cleanCopy s p g ok = false → cleanCopy s0 p g ok = false →
        exec (.detectionRepair p g 0 ok) s = .next (tell (dropRead (noteError poisoned k) h) 3)) ∧
      (eCln e = true → cleanCopy s p g ok = true → cleanCopy s0 p g ok = true →
        winAsk s p h (copyParts s p g) = .ready → exec (.detectionRepair p g 0 ok) s =
        .next (dropRead (noteError (bump (repairPage s0 p g) Reg.XLT_REPAIR 0 1) k) h)) ∧
      (eCln e = false → eTier e = 0 → getFseg s k = none → Answers (.detectionRepair p g 0 ok) s fun t =>
        l3e t p g = putBits e 5 1 1 % 2 ^ 64 ∧ (∀ h, h ≠ g → l3e t p h = l3e s p h) ∧
        rd t Reg.XLT_POISONED 0 = min (rd s Reg.XLT_POISONED 0 + 1) (2 ^ 32 - 1) ∧ psnSub t p g = 2 ∧ t.mem.t2 = s.mem.t2) ∧
      (∀ x, getFseg s k = some x →
        exec (.detectionRepair p g 4 ok) s = .next (setFseg s k (some { x with heat := 0, age := 0 })))) ∧
    (rd s Reg.XLT_ROOT_VALID p = 1 → exec (.detectionRepair p g 1 ok) s = .next (setTblBad s 1 p g true)) ∧
    (bits (l1e s p g) 0 2 = 2 → exec (.detectionRepair p g 2 ok) s = .next (setTblBad s 2 p g true)) ∧
    (bits (l2e s p g) 0 2 = 2 → exec (.detectionRepair p g 3 ok) s = .next (setTblBad s 3 p g true))) ∧
  (∀ (s : State) (p da n v : Nat) (a : Nat), 0 < n → da % 65536 + n ≤ 65536 →
    translate s p da true = .t2 a → translate s p da false = .t2 a →
    let t := memWrite s p da n v
    memRead t p da n = v % 2 ^ (8 * n) ∧
    (∀ j, j < a ∨ a + n ≤ j → tget (fun _ => 0) t.mem.t2 j = tget (fun _ => 0) s.mem.t2 j) ∧
    t = { s with mem := { s.mem with t2 := t.mem.t2 } })

/-! ### Admission and fault records -/

/-- ADMIT and UNADMIT (R227, R235, R247) while the rim processors run: a container whose header or regions do not hold ends
an ADMIT with 0x53; one whose ranges the porters grant is judged, and its slot stands in the result; a range that waits or
is held leaves the command there. An UNADMIT frees the partition's slot, which moves under way keep as it was, and leaves a
slot of another partition or one that is free (the model's choice, assumption 17). -/
def Obligations.Admission : Prop :=
  ∀ (s : State) (r i : Nat) (c : Cmd),
    let s1 := takeCmd s c
    let p := partOf r
    let b := c.fld 0x10 8
    let k := c.fld 0x33 1
    rimRuns s1 = true →
    (Turn s r i 0x2B c →
      (∀ u, gate s1 p b 256 false false (.tile r i) = .go u →
        let h := readContainer u p b
        let l := admitReads h (c.fld 0x18 8) (c.fld 0x20 8)
        (headerOk u p h = false ∨ regionsOk h.size (regions h) = false →
          exec (.admitSlot r i) s = .next (claimed c r i (finish (fresh (imageBytes u p [(b, 256)])) r i 0x53 0))) ∧
        (headerOk u p h = true → regionsOk h.size (regions h) = true →
          (∀ v, gateAll u p false (.tile r i) ((b, 256) :: l) = .go v →
            exec (.admitSlot r i) s = .next (claimed c r i (fresh (admitGo (imageBytes v p ((b, 256) :: l)) (going c) h
              (c.fld 0x18 8) (c.fld 0x20 8))))) ∧
          (∀ v, gateAll u p false (.tile r i) ((b, 256) :: l) = .wait v →
            exec (.admitSlot r i) s = .next (claimed c r i v)) ∧
          (∀ v, gateAll u p false (.tile r i) ((b, 256) :: l) = .held v →
            exec (.admitSlot r i) s = .next (claimed c r i (setAside v r i))))) ∧
      (∀ u, gate s1 p b 256 false false (.tile r i) = .wait u → exec (.admitSlot r i) s = .next (claimed c r i u)) ∧
      (∀ u, gate s1 p b 256 false false (.tile r i) = .held u →
        exec (.admitSlot r i) s = .next (claimed c r i (setAside u r i)))) ∧
    (Turn s r i 0x2C c →
      (∀ x, tget (fun _ => none) s.mem.slots k = some x → x.part = p → Answers (.unadmit r i) s fun t =>
        tget (fun _ => none) t.mem.slots k = none ∧
        (∀ j, j ≠ k → tget (fun _ => none) t.mem.slots j = tget (fun _ => none) s.mem.slots j) ∧
        Ends t r i 0 0 ∧ WordsKept s t []) ∧
      (∀ x, tget (fun _ => none) s.mem.slots k = some x → x.part ≠ p → Answers (.unadmit r i) s fun t =>
        Ends t r i 0x36 0 ∧ OnlyFlight s t) ∧
      (tget (fun _ => none) s.mem.slots k = none → Answers (.unadmit r i) s fun t => Ends t r i 0 0 ∧ OnlyFlight s t))

/-- FAULT_LOG_WRITE (R200, R212): the next record of a partition is written at its place in the log, the write index moves
on, and the partition's fault interrupt is raised. RESOLVE_WRITE, FAILSEQ_WRITE, RETRY_ALL, FAIL_ALL, FLOG_RD_WRITE
and FLOG_BASE_WRITE (R200, R201, R212): the record of a SEQ ends with its requests let go or failed; all of a
partition's do; the read index and the base stand as written, and a base decides whether the log is usable.
FAULT_RETRANSLATE and FAULT_YIELD_WAIT (R200, R202, R204): a fault held without a record lets its requests go when the
page translates now, or can be filled with zeros; an invocation whose held requests have waited starts a full yield of
reason FAULT, or is counted in `FLT_NOYIELD` and `YLD_REFUSE` where the yield is refused. -/
def Obligations.Faults : Prop :=
  (∀ (s : State) (p : Nat) (f : FaultRec), p < 8 → awake s = true →
    let seq := rd s Reg.XLT_FLOG_WR p
    let a := logAddr s p seq
    s.mem.faults.find? (fun f => f.part == p && f.seq == some seq && !f.written) = some f →
    rd s Reg.XLT_FLT_CTRL_LOG_OK p = 1 → sub32 seq (rd s Reg.XLT_FLOG_RD p) < 256 → probe s p a 32 true = .ok →
    let s1 := wr (memWrite (abortOnWrite s p a 32) p a 32 (logEntry f seq)) Reg.XLT_FLOG_WR p (seq + 1)
    exec (.faultLogWrite p) s = .next (raiseInt
      (modRecs s1 (fun x => x.part == p && x.seq == some seq) fun x => { x with written := true }) 3 p)) ∧
  (∀ (s : State) (ag : Agent) (p v : Nat), p < 8 →
    let w := v % 2 ^ 32
    let one (fail : Bool) (u : State) : State := match (recsOf u p).find? fun f => f.seq == some w with
      | some f => endRec u f fail
      | none => u
    let all (fail : Bool) (u : State) : State := eachOf (recsOf u p) u fun u f => endRec u f fail
    (Open s ag (Reg.XLT_RESOLVE.addr p) →
      exec (.resolveWrite ag p v) s = .next (one false (stored ag (Reg.XLT_RESOLVE.addr p) w s))) ∧
    (Open s ag (Reg.XLT_FAILSEQ.addr p) →
      exec (.failseqWrite ag p v) s = .next (one true (stored ag (Reg.XLT_FAILSEQ.addr p) w s))) ∧
    (Open s ag (Reg.XLT_FLT_CTRL_RETRY_ALL.addr p) →
      exec (.retryAll ag p) s = .next (all false (stored ag (Reg.XLT_FLT_CTRL_RETRY_ALL.addr p) 1 s)) ∧
      exec (.failAll ag p) s = .next (all true (stored ag (Reg.XLT_FLT_CTRL_FAIL_ALL.addr p) 2 s))) ∧
    (Open s ag (Reg.XLT_FLOG_RD.addr p) → Answers (.flogRdWrite ag p v) s fun t =>
      rd t Reg.XLT_FLOG_RD p = w ∧ OnlyRegs s t ∧ WordsKept s t [Reg.XLT_FLOG_RD.addr p]) ∧
    (∀ hi, Open s ag ((if hi then Reg.XLT_FLOG_BASE_HI_ADDR else Reg.XLT_FLOG_BASE_LO_ADDR).addr p) →
      Answers (.flogBaseWrite ag p hi v) s fun t =>
        rd t Reg.XLT_FLT_CTRL_LOG_OK p = oneIf (logOk t p))) ∧
  ((∀ (s : State) (k : Nat) (f : FaultRec), awake s = true → (s.mem.faults.filter fun f => f.seq.isNone)[k]? = some f →
    (∀ kind sub, translate s f.part (f.page * 65536) f.wr ≠ .flt kind sub) →
    (translate s f.part (f.page * 65536) f.wr ≠ .zfill ∨ (alloc s f.part 0).isNo = false ∨ (alloc s f.part 1).isNo = false) →
    exec (.faultRetranslate k) s = .next (eachOf f.held (setMem s { s.mem with faults := s.mem.faults.erase f }) retryHeld)) ∧
  (∀ (s : State) (bd : Nat) (w : Weave) (v : Invoc), bd < 32 → awake s = true → rd s Reg.XLT_YIELD_WAIT 0 ≠ 0 →
    weaveOf s bd false = some w → invOf s bd false = some v →
    (∃ n ∈ w.place, ∃ k < 32, ∃ q ∈ (bsh s (32 * n + k)).reqs, q.st = .held) → yieldBusy s v.ring v.idx = false →
    (∀ t, startYield s v.ring v.idx 2 none = .started t →
      exec (.faultYieldWait bd) s = .next (setConv t w.place v.ring v.idx)) ∧
    (∀ code, startYield s v.ring v.idx 2 none = .no code → Answers (.faultYieldWait bd) s fun t =>
      rd t Reg.XLT_FLT_NOYIELD 0 = min (rd s Reg.XLT_FLT_NOYIELD 0 + 1) (2 ^ 32 - 1) ∧
      rd t Reg.CMD_YLD_REFUSE 0 = min (rd s Reg.CMD_YLD_REFUSE 0 + 1) (2 ^ 32 - 1) ∧ OnlyRegs s t)))

/-! ### Front end -/

/-- DOORBELL (R239, R252): the tail stands as written, and a tail further ahead of CQ_HEAD than the ring is long stops the
ring in error with code 3. RING_EN_WRITE, RING_BYLD, RING_BRES and RING_RESET (R252, R257, R265): each is a write of
the ring's CFG, by the bits it sets. A ring's STATE follows these writes (R252, R257, R265): enabling a stopped ring
makes it run with the size clamped to 6 to 16; a running ring yields at its boundary and resumes from it; each with
its word kept otherwise. SEM_VAL_WRITE, LED_CLR and REGULATOR_WRITE (R254, R256, R264, R265): the selected semaphore
takes the value; the named ledgers are cleared; a regulator's BURST is at least 64 KiB and its bucket full. -/
def Obligations.RingRegisters : Prop :=
  (∀ (s : State) (ag : Agent) (r v : Nat), r < 64 → Open s ag (Reg.CMD_RING_DB.addr r) →
    let w := v % 2 ^ 32
    let far := ringSize s r < sub32 w (rd s Reg.CMD_RING_CQ_HEAD r)
    (rd s Reg.CMD_RING_CFG_STATE r ≠ 3 → ¬far → Answers (.doorbell ag r v) s fun t =>
      ringTail t r = w ∧ rd t Reg.CMD_RING_CFG_STATE r = rd s Reg.CMD_RING_CFG_STATE r ∧ OnlyRegs s t ∧
      WordsKept s t [shadowAddr (Reg.CMD_RING_DB.addr r)]) ∧
    (rd s Reg.CMD_RING_CFG_STATE r ≠ 3 → far → Answers (.doorbell ag r v) s fun t =>
      rd t Reg.CMD_RING_CFG_STATE r = 3 ∧ rd t Reg.CMD_RING_CFG_ERR r = 3)) ∧
  (∀ (s : State) (ag : Agent) (r v : Nat), r < 64 → Open s ag (Reg.CMD_RING_CFG_EN.addr r) →
    let a := Reg.CMD_RING_CFG_EN.addr r
    let put (w : Nat) : State := fxRingCfg r w s (stored ag a w s)
    exec (.ringEnWrite ag r v) s = .next (put (v % 2 ^ 32)) ∧
    exec (.ringByld ag r) s = .next (put (cfgKeep s r + 2 ^ 8)) ∧
    exec (.ringBres ag r) s = .next (put (cfgKeep s r + 2 ^ 9)) ∧
    exec (.ringReset ag r) s = .next (put (cfgKeep s r + 2 ^ 10))) ∧
  (∀ (s : State) (ag : Agent) (r v : Nat), r < 64 → Open s ag (Reg.CMD_RING_CFG_EN.addr r) →
    let st := rd s Reg.CMD_RING_CFG_STATE r
    (v < 2 ^ 32 → rd s Reg.CMD_RING_CFG_EN r = 0 → bit v 5 = true → bits v 8 3 = 0 → st = 0 → Answers (.ringEnWrite ag r v) s fun t =>
      rd t Reg.CMD_RING_CFG_STATE r = 1 ∧ rd t Reg.CMD_RING_CFG_EN r = 1 ∧
      rd t Reg.CMD_RING_CFG_LOG2SIZE r = min 16 (max 6 (bits v 0 5)) ∧
      tget (fun _ => 6) t.front.log2 r = min 16 (max 6 (bits v 0 5))) ∧
    (st = 1 → Answers (.ringByld ag r) s fun t => rd t Reg.CMD_RING_CFG_STATE r = 2 ∧
      rd t Reg.CMD_YLD_BOUND 0 = min (rd s Reg.CMD_YLD_BOUND 0 + 1) (2 ^ 32 - 1)) ∧
    (st = 2 → Answers (.ringBres ag r) s fun t => rd t Reg.CMD_RING_CFG_STATE r = 1) ∧
    (inflightOf s r = [] → Answers (.ringReset ag r) s fun t =>
      rd t Reg.CMD_RING_HEAD r = 0 ∧ rd t Reg.CMD_RING_LOW r = 0 ∧ rd t Reg.CMD_RING_CQ_HEAD r = 0 ∧
      rd t Reg.CMD_RING_CFG_ERR r = 0)) ∧
  (∀ (s : State) (ag : Agent) (v : Nat),
    let w := v % 2 ^ 32
    (Open s ag (Reg.CMD_SEM_VAL.addr 0) → Answers (.semValWrite ag v) s fun t =>
      semVal t (rd s Reg.CMD_SEM_SEL_PART 0) (rd s Reg.CMD_SEM_SEL_IDX 0) = w) ∧
    (Open s ag (Reg.CMD_LED_CLR.addr 0) → Answers (.ledClr ag v) s fun t => ∀ p < 8, bit w p = true →
      rd2 t Reg.CMD_PART_LED_ISL_LO Reg.CMD_PART_LED_ISL_HI p = 0 ∧ rd2 t Reg.CMD_PART_LED_PB_LO Reg.CMD_PART_LED_PB_HI p = 0) ∧
    (∀ p k, p < 8 → k < 3 → Open s ag ((regWord k).addr p) → Answers (.regulatorWrite ag p k v) s fun t =>
      rd t (regWord k) p = bits w 0 16 + 2 ^ 16 * max 64 (bits w 16 16) ∧
      bucket t p k = (max 64 (bits w 16 16) * 1024 : Nat)))

/-- COMMAND_FETCH and COMMAND_DISPATCH (R239, R240, R242, R243, R248, R250): the command at HEAD is read, as the porters
grant it, and HEAD moves on; the ring's oldest command goes to its engine when it holds a collector entry, or ends at
once with 0x60 where it is malformed and 0x61 where the semaphore it waited for carries a failure. NOP and SEM_SET
(R241): the front end ends them with 0 and changes nothing else; the set applies at retirement. -/
def Obligations.FetchDispatch : Prop :=
  ((∀ (s u : State) (r : Nat), r < 64 → awake s = true → mayFetch s r = true →
    let i := rd s Reg.CMD_RING_HEAD r
    let a := ringBase s r + 64 * (i % ringSize s r)
    gate s (partOf r) a 64 false true (.descRead r) = .go u →
    let d := newCmd r i (memRead u (partOf r) a 64)
    Answers (.commandFetch r) s fun t =>
      t.front.fetched.map (fun c => { c with ready := false }) =
        (u.front.fetched ++ [d]).map (fun c => { c with ready := false }) ∧
      rd t Reg.CMD_RING_HEAD r = (i + 1) % 2 ^ 32 ∧ WordsKept u t [Reg.CMD_RING_HEAD.addr r] ∧ t.mem = u.mem) ∧
  (∀ (s : State) (r : Nat) (c : Cmd), r < 64 → awake s = true → intakeStopped s = false → bit (rd s Reg.CEN_HOLD 0) 5 = false →
    stopping s r = false → readyCmd s r = some c →
    ((entryOrder s).length ≤ 4096 - colUse s ∨ (0 < 4096 - colUse s ∧ (entryOrder s).head? = some r)) →
    (exec (.commandDispatch r) s = .next (noteReady (dispatch s c))) ∧
    (∀ o, malformed { c with st := .dispatched } = some o → Answers (.commandDispatch r) s fun t =>
      t.front.inflight = s.front.inflight ++ [{ c with st := .dispatched, finished := true, status := 0x60, sub := o }] ∧
      WordsKept s t []) ∧
    (malformed { c with st := .dispatched } = none → c.flag 1 = true → c.flag 4 = true →
      semErr s (partOf c.ring) (c.fld 2 1) = true → Answers (.commandDispatch r) s fun t =>
      t.front.inflight = s.front.inflight ++ [{ c with st := .dispatched, finished := true, status := 0x61 }] ∧
      WordsKept s t []) ∧
    (malformed { c with st := .dispatched } = none → c.flag 4 = false → engineOf c.op ≠ 1 → Answers (.commandDispatch r) s fun t =>
      t.front.inflight = s.front.inflight ++
        [{ c with st := .dispatched, engine := engineOf c.op,
                  total := if 1 ≤ engineOf c.op ∧ engineOf c.op ≤ 8 then cmdTotal c else 0 }] ∧ WordsKept s t []))) ∧
  (∀ (s : State) (r i : Nat) (c : Cmd),
    (Turn s r i 0x00 c → Answers (.nop r i) s fun t => Ends t r i 0 0 ∧ OnlyFlight s t) ∧
    (Turn s r i 0x01 c → Answers (.semSet r i) s fun t => Ends t r i 0 0 ∧ OnlyFlight s t))

/-- COMMAND_RETIRE (R234, R241, R243, R249, R257): a finished command whose writes are all acknowledged leaves its engine,
its record waits with the time, a SEM_SET applies, a signal adds one to its semaphore and marks a failure, and its
locks are given back; a boundary YIELD of its own ring stops that ring now. COMPLETION_WRITE and COAL_TIMEOUT (R203,
R249 to R251): the record of the ring's oldest retired command is written at its place in the completion queue as the
porters grant it; it is written at once in the device's own tiers, and through a peer's window once the peer has
acknowledged it; a time limit with records pending interrupts. -/
def Obligations.Retirement : Prop :=
  (∀ (s : State) (r i : Nat) (c : Cmd), r < 64 → i < 2 ^ 32 → awake s = true → getCmd s r i = some c → c.finished = true →
    c.st ≠ .held → writesOpen s r i = false → rd s Reg.PWR_STAT_PFHALT 0 = 0 →
    let p := partOf r
    let k := c.fld 3 1
    (stopsSelf c = false → ∃ t, exec (.commandRetire r i) s = .next t ∧
      t.front.inflight = s.front.inflight.filter (fun x => !(x.ring == r && x.idx == i)) ∧
      (tget (fun _ => false) s.front.recStop r = false → t.front.retired = s.front.retired ++
        [{ c with time := s.now % 2 ^ 32, st := .retired, semErr := c.flag 2 && decide (c.status ≠ 0) }]) ∧
      t.mem.locks = s.mem.locks.filter (fun l => !(l.ring == r && l.idx == i))) ∧
    (c.mref = none → latch s r = none → c.op ≠ 1 → c.flag 2 = true → Answers (.commandRetire r i) s fun t =>
      semVal t p k = (semVal s p k + 1) % 2 ^ 32 ∧ semErr t p k = (semErr s p k || decide (c.status ≠ 0))) ∧
    (c.mref = none → latch s r = none → c.op = 1 → c.status = 0 → c.flag 2 = false → Answers (.commandRetire r i) s fun t =>
      semVal t p k = c.fld 0x10 4 % 2 ^ 32 ∧ semErr t p k = false) ∧
    (stopsSelf c = true → rd s Reg.CMD_RING_CFG_STATE r = 1 → Answers (.commandRetire r i) s fun t =>
      rd t Reg.CMD_RING_CFG_STATE r = 2)) ∧
  ((∀ (s u : State) (r : Nat) (c : Cmd), r < 64 → awake s = true → s.front.retired.find? (fun c => c.ring == r) = some c →
    tget (fun _ => false) s.front.recHeld r = false → rd s Reg.PWR_STAT_PFHALT 0 = 0 →
    let p := partOf r
    let a := ringBase s r + 64 * ringSize s r + 32 * (c.idx % ringSize s r)
    gate s p a 32 true true (.recWrite r c.idx) = .go u →
    let v := claim (memWrite (abortOnWrite u p a 32) p a 32 (recordOf u c)) (.recWrite r c.idx)
    (recordOpen v r c.idx = false → exec (.completionWrite r) s = .next (recordDone v c)) ∧
    (recordOpen v r c.idx = true → exec (.completionWrite r) s = .next { v with front := { v.front with
      recHeld := tset (fun _ => false) v.front.recHeld r true } })) ∧
  (∀ (s : State) (r : Nat), r < 64 → awake s = true → rd s Reg.CMD_RING_COAL_TIME r ≠ 0 →
    tget (fun _ => 0) s.front.pend r ≠ 0 → exec (.coalTimeout r) s = .next (ringIrq s r)))

/-! ### Service engines -/

/-- SLOT_SET, SLOT_CLOSE and COUNT_ADD (R267 to R269): a slot the partition may set takes its parameters and is open; a
closed one has no counts; the tokens of a COUNT_ADD are counted in order. A slot out of range, not open or of another
partition ends the command with 0x72, 0x70 or 0x71 and changes no slot. -/
def Obligations.SamplerSlots : Prop :=
  ∀ (s : State) (r i : Nat) (c : Cmd),
    let s1 := takeCmd s c
    let d := going c
    let p := partOf r
    let k := c.fld 0x10 1
    let fl := c.fld 0x11 1
    let n := c.fld 0x20 4
    let a := c.fld 0x18 8
    let x := sslot s k
    let y : SSlot := { x with
      part := p, lpraw := bit fl 3, bf16 := bit fl 4, topk := c.fld 0x12 2, temp := c.fld 0x14 4, topp := c.fld 0x18 4,
      minp := c.fld 0x1C 4, rep := c.fld 0x20 4, pres := c.fld 0x24 4, freq := c.fld 0x28 4, vocab := c.fld 0x2C 4,
      seed := if bit fl 2 then c.fld 0x30 8 else x.seed, step := if bit fl 2 then 0 else x.step, spill := c.fld 0x38 8,
      lossy := if bit fl 1 then false else x.lossy, counts := if bit fl 1 then [] else x.counts }
    let kept (t : State) : Prop := (∀ j, j ≠ k → sslot t j = sslot s j) ∧ (∀ j < 128, j ≠ k → slotOpen t j = slotOpen s j) ∧
      WordsKept s t [Reg.SMP_SLOT_OPEN.addr (k / 32)] ∧ t.mem = s.mem
    let turned (t : State) (code : Nat) : Prop := Ends t r i code 0 ∧ t.srv = s.srv ∧ WordsKept s t []
    (Turn s r i 0x40 c → k < 128 → slotParamsOk c = true → spillOk s p (c.fld 0x38 8) = true →
      (slotOpen s k = true → x.part = p) →
      (slotOpen s k = false → bit fl 0 = true ∧ slotsHeld s p < rd s Reg.SMP_SLOT_Q_MAX p) →
      Answers (.slotSet r i) s fun t => sslot t k = y ∧ slotOpen t k = true ∧ kept t ∧ Ends t r i 0 0) ∧
    (Turn s r i 0x40 c → 128 ≤ k → Answers (.slotSet r i) s fun t => turned t 0x72) ∧
    (Turn s r i 0x41 c → slotBar s p k = 0 → Answers (.slotClose r i) s fun t =>
      sslot t k = { x with counts := [] } ∧ slotOpen t k = false ∧ kept t ∧ Ends t r i 0 0) ∧
    (Turn s r i 0x41 c → slotBar s p k ≠ 0 → Answers (.slotClose r i) s fun t => turned t (slotBar s p k)) ∧
    (∀ w, Turn s r i 0x44 c → 1 ≤ n → n ≤ 16777215 → slotBar s p k = 0 →
      Granted s1 p (.service r i) ((a, 4 * n) :: spills s1 [k]) (spills s1 [k]) w →
      let toks := (List.range n).map fun j => memRead w p (a + 4 * j) 4
      (∀ t ∈ toks, t < (sslot w k).vocab) → exec (.countAdd r i) s = .next (claimed c r i
        (svcEnd (fresh (lockPages (eachOf toks w fun u t => addCount u k t) d (spills s1 [k]))) d 0 0 0))) ∧
    (Turn s r i 0x44 c → 1 ≤ n → n ≤ 16777215 → slotBar s p k ≠ 0 →
      Answers (.countAdd r i) s fun t => turned t (slotBar s p k))

/-- PICK (R270 to R274): with its entries good and its ranges granted, the picks are made in list order and the tokens and
log-probabilities written; a list of none or of more than 128 ends it with 0x72. A draw picks one of the tokens it
draws from, and TOPK bounds how many there are. VERIFY (R275 to R277): with its entries and trees good and its ranges
granted, each entry is judged in list order, and RESULT tells the drafts accepted and proposed; a list of none or of
more than 128 ends it with 0x72. An entry accepts no more drafts than its tree has levels, and gives at most one token
more. -/
def Obligations.SamplerDraws : Prop :=
  ((∀ (s : State) (r i : Nat) (c : Cmd) (u w : State),
    let s1 := takeCmd s c
    let d := going c
    let p := partOf r
    let n := c.fld 0x18 4
    let list := c.fld 0x10 8
    let out := c.fld 0x20 8
    Turn s r i 0x42 c →
    ((n = 0 ∨ 128 < n) → Answers (.pick r i) s fun t => Ends t r i 0x72 0 ∧ t.srv = s.srv ∧ WordsKept s t []) ∧
    (1 ≤ n → n ≤ 128 → Peeked s1 r i [(list, 16 * n)] u →
      let es := (List.range n).map fun k => pickEntry u p (list + 16 * k)
      (∀ e ∈ es, slotBar u p e.2.1 = 0 ∧ rowOk e.1 = true) →
      let sp := spills u ((es.filter fun e => !e.2.2).map fun e => e.2.1)
      Granted u p (.service r i) ((list, 16 * n) :: (es.map fun e => (e.1, rowBytes (sslot u e.2.1))) ++ sp)
        ((out, 8 * n) :: sp) w →
      let z := picks p out es 0 0 w
      exec (.pick r i) s = .next (claimed c r i
        (svcEnd (fresh (lockPages z.1 d ((out, 8 * n) :: sp))) d 0 0 z.2)))) ∧
  (∀ (l : List (Nat × Nat)) (u : Nat), l ≠ [] → drawFrom l u ∈ l.map Prod.fst) ∧
  (∀ (x : SSlot) (row : List Nat), x.topk ≠ 0 → (distOf x row).kept.length ≤ x.topk) ∧
  (∀ (x : SSlot) (row : List Nat), ∀ e ∈ (distOf x row).kept, e.1 < row.length)) ∧
  ((∀ (s : State) (r i : Nat) (c : Cmd) (u v w : State),
    let s1 := takeCmd s c
    let d := going c
    let p := partOf r
    let n := c.fld 0x18 4
    let list := c.fld 0x10 8
    Turn s r i 0x43 c →
    ((n = 0 ∨ 128 < n) → Answers (.verify r i) s fun t => Ends t r i 0x72 0 ∧ t.srv = s.srv ∧ WordsKept s t []) ∧
    (1 ≤ n → n ≤ 128 → Peeked s1 r i [(list, 32 * n)] u →
      let es := (List.range n).map fun k => verifyEntry u p (list + 32 * k)
      (∀ e ∈ es, 1 ≤ e.n ∧ e.n ≤ 16) → Peeked u r i (es.map fun e => (e.nodes, 16 * e.n)) v →
      let nodes (e : VEntry) := (List.range e.n).map fun k => nodeEntry v p (e.nodes + 16 * k)
      (∀ e ∈ es, verifyBar v p e (nodes e) = 0) →
      let rows := es.flatMap fun e =>
        (e.trows, (e.n + 1) * rowBytes (sslot v e.slot)) ::
          (if (ofF32 (sslot v e.slot).temp).isZero then [] else
            ((nodes e).map DNode.drow).eraseDups.map fun d => (d, rowBytes (sslot v e.slot)))
      let outs := (es.map fun e => (e.out, 128)) ++ spills v (es.map VEntry.slot)
      Granted v p (.service r i) (((list, 32 * n) :: es.map fun e => (e.nodes, 16 * e.n)) ++ rows ++
        spills v (es.map VEntry.slot)) outs w →
      let z := es.foldl (fun (z : State × Nat) e => let q := verifyOne p e z.1; (q.1, z.2 + q.2)) (w, 0)
      exec (.verify r i) s = .next (claimed c r i
        (svcEnd (fresh (lockPages z.1 d outs)) d 0 0 (z.2 % 2 ^ 32 + 2 ^ 32 * sumNat (es.map VEntry.n)))))) ∧
  (∀ (p f cur : Nat) (x : SSlot) (e : VEntry) (nodes : List DNode) (z : VerRun),
    let z1 := verifyLoop p x e nodes f cur z
    z.acc.length ≤ z1.acc.length ∧ z1.acc.length ≤ z.acc.length + f ∧
    z1.toks.length + z.acc.length ≤ z1.acc.length + z.toks.length + 1))

/-- The index walker's commands (R278, R283 to R290): each walks the tree and ends. A field out of range ends it with
0x7D, a tree that is not set up with 0x78; a walk that fails changes nothing and tells its failure; one whose accesses
all serve and are granted writes what it has made, locks its pages and gives its RESULT; one that finds the reclaim
ring full, or its regulators empty, waits (the model's choice, assumption 20). IDX_SETUP sets the tree up, empty where
it clears. EXPIRY_SWEEP, WALKER_MIGRATION_DONE and RECL_RD_WRITE (R287 to R289): a sweep frees what has expired in
every partition's tree unless the walker is held; a move that waited starts, one whose migrations are over ends; the
reclaim ring's read index stands as written. -/
def Obligations.IndexTree : Prop :=
  (∀ (s : State) (r i : Nat) (c : Cmd),
    let s1 := takeCmd s c
    let d := going c
    let p := partOf r
    let n := c.fld 0x18 4
    let m := c.fld 0x10 4
    let out (hi x : Nat) : Bool := x == 0 || decide (hi < x)
    let does (con : Instr) (op : Nat) (bad : Bool) (act : W Nat) (multi : Bool) : Prop := Turn s r i op c →
      let x := act (walkOf s1 p)
      let may := ∀ e ∈ x.2.touch, grantedRange s1 p e.1 e.2.1 = true
      (bad = true → exec con s = .next (claimed c r i (svcEnd s1 d 0x7D 0 0))) ∧
      (bad = false → rd s Reg.IDX_CFG_VALID p = 0 → exec con s = .next (claimed c r i (svcEnd s1 d 0x78 0 0))) ∧
      (bad = false → rd s Reg.IDX_CFG_VALID p ≠ 0 → (∀ e ∈ x.2.touch, probe s1 p e.1 e.2.1 e.2.2 = .ok) →
        (x.2.err = 0 → x.2.full = false → may → exec con s = .next (claimed c r i
          (svcEnd (fresh (lockPages (eachOf x.2.touch x.2.s fun t e => drawRange t p e.1 e.2.1) d
            ((x.2.touch.filter fun e => e.2.2).map fun e => (e.1, e.2.1)))) d 0 0 x.1))) ∧
        (x.2.err ≠ 0 → exec con s = .next (claimed c r i
          (svcEnd (fresh s1) d x.2.err (if multi then x.2.errAt % 256 else 0) 0))) ∧
        (x.2.err = 0 → x.2.full = true ∨ ¬may → exec con s = .next (claimed c r i s1)))
    does (.lookup r i) 0x51 (out 65536 (c.fld 0x1C 4)) (lookupWalk d) false ∧
    does (.insert r i) 0x52 (out 4096 n) (insertWalk d) true ∧
    does (.publish r i) 0x53 (out 4096 n) (publishWalk d) true ∧
    does (.release r i) 0x54 (out 4096 n || (bit (c.fld 0x1C 1) 0 && n != 1)) (releaseWalk d) true ∧
    does (.pause r i) 0x55 (out 86400 (c.fld 0x14 4)) (pauseWalk d) false ∧
    does (.evict r i) 0x56 (out 65536 m) (evictWalk d) false ∧
    does (.recomputeSpan r i) 0x57 false (recomputeSpanWalk d) false ∧
    does (.repair r i) 0x58 (out 4096 n) (repairWalk d) true ∧
    (let sz := c.fld 0x30 1
     let b := [c.fld 0x10 8, c.fld 0x18 8, c.fld 0x20 8, c.fld 0x28 8]
     let rg := [(c.fld 0x10 8, 128 * 2 ^ sz), (c.fld 0x18 8, 4 * 2 ^ sz), (c.fld 0x20 8, 4 * 2 ^ sz), (c.fld 0x28 8, 65536)]
     let bad := sz < 10 ∨ 24 < sz ∨ c.fld 0x31 1 = 0 ∨ ∃ e ∈ rg, regionOk s1 p e.1 e.2 = false
     let clear := bit (c.fld 0x32 1) 0
     (Turn s r i 0x50 c → bad → Answers (.idxSetup r i) s fun t => Ends t r i 0x7D 0 ∧ t.srv = s.srv ∧ WordsKept s t []) ∧
     (∀ w, Turn s r i 0x50 c → ¬bad →
      Granted s1 p (.service r i) (if clear then [] else rg) (if clear then rg else []) w →
      (clear = true → ∀ m ∈ s.mem.migs, ∀ e ∈ rg, ∀ g ∈ pagesOf e.1 e.2, m.seg ≠ segKey p g) →
      Answers (.idxSetup r i) s fun t => tget (fun _ => []) t.srv.regions p = b ∧
        rd t Reg.IDX_CFG_LOG2NODES p = sz ∧ rd t Reg.IDX_CFG_BLKSZ p = c.fld 0x31 1 ∧ rd t Reg.IDX_CFG_VALID p = 1 ∧
        (clear = true → rd t Reg.IDX_NODES p = 0 ∧ rd t Reg.IDX_PAUSED p = 0 ∧ rd t Reg.IDX_POISONED p = 0) ∧
        Ends t r i 0 0))) ∧
  ((∀ (s : State), awake s = true →
    (bit (rd s Reg.CEN_HOLD 0) 1 = false → exec .expirySweep s = .next (eachOf (List.range 8) s fun u p =>
      ownWalk u p (sweepLoop (2 ^ rd u Reg.IDX_CFG_LOG2NODES p)))) ∧
    (bit (rd s Reg.CEN_HOLD 0) 1 = true → exec .expirySweep s = .next s)) ∧
  (∀ (s : State) (p k : Nat) (m : WMove), p < 8 → k < 2 ^ 24 → awake s = true → moveOf s p k = some m →
    (∀ t, m.started = false → wmStart s m = some t → exec (.walkerMigrationDone p k) s = .next { t with srv := { t.srv with
      moves := t.srv.moves.map fun x => if x.part = p ∧ x.node = k then { x with started := true } else x } }) ∧
    (m.started = true → (∃ g ∈ s.mem.migs, g.seg ∈ m.segs ∧ g.cause = 3) → exec (.walkerMigrationDone p k) s = .next s) ∧
    (m.started = true → (∀ g ∈ s.mem.migs, g.seg ∈ m.segs → g.cause ≠ 3) →
      exec (.walkerMigrationDone p k) s = .next (ownWalk s p (moveEnd m)))) ∧
  (∀ (s : State) (ag : Agent) (p v : Nat), p < 8 → Open s ag (Reg.IDX_RECL_RD.addr p) → Answers (.reclRdWrite ag p v) s fun t =>
    rd t Reg.IDX_RECL_RD p = v % 2 ^ 32 ∧ OnlyRegs s t ∧ WordsKept s t [Reg.IDX_RECL_RD.addr p]))

/-- BUILD (R296 to R311): with its scores and expert table granted, its experts resident or not but none faulting, and its
output region good, the groups are built and written; an expert entry that is bad ends it with 0x82, a bad region with
0x80, more than 4,096 groups with 0x81. No expert takes more than its capacity in either pass (R301, R302). -/
def Obligations.GroupBuild : Prop :=
  (∀ (s : State) (r i : Nat) (c : Cmd) (u : State),
    let s1 := takeCmd s c
    let d := going c
    let p := partOf r
    let b := buildOf c
    Turn s r i 0x60 c → Granted s1 p (.service r i) [(b.scores, b.stride * b.t), (b.expt, 32 * b.e)] [] u →
    let raws := (List.range b.t).map (b.raw u p)
    let rows := raws.map fun l => l.map cleanScore
    let rks := rows.map ranksOf
    let f := assign b rks
    let used := (List.range b.e).filter fun e => f.asg.any fun a => a.e == e
    let exps (e : Nat) := expertAt u p (b.expt + 32 * e)
    let res (e : Nat) : Bool := probeExpert u p (exps e) == .res true
    let gs := groups b f.asg res
    let region := b.out + b.size ≤ 2 ^ 52 ∧
      (∀ g ∈ pagesOf b.out b.size, isLocal (l3e u p g) = true ∧ eTier (l3e u p g) = 0 ∧ eWr (l3e u p g) = true) ∧
      rangesMeet b.out b.size b.scores (b.stride * b.t) = false ∧ rangesMeet b.out b.size b.expt (32 * b.e) = false
    let seen := ∀ e ∈ used, ∃ ok, probeExpert u p (exps e) = .res ok
    ((∃ e ∈ used, expertOk (exps e) = false) → exec (.build r i) s = .next (claimed c r i (svcEnd (fresh u) d 0x82 0 0))) ∧
    ((∀ e ∈ used, expertOk (exps e) = true) → seen →
      (¬region → exec (.build r i) s = .next (claimed c r i (svcEnd (fresh u) d 0x80 0 0))) ∧
      (region → 4096 < gs.length → exec (.build r i) s = .next (claimed c r i (svcEnd (fresh u) d 0x81 0 0))) ∧
      (∀ w, region → gs.length ≤ 4096 → Granted u p (.service r i) []
          (b.written gs.length (sumNat (gs.map fun g => cdiv g.recs.length 16))) w →
        exec (.build r i) s = .next (claimed c r i (buildCommit w d b raws rows rks f exps res gs))))) ∧
  (∀ (b : Build) (rows : List (List (Nat × Nat))) (e : Nat),
    cnt (assign b rows).f1 e ≤ b.c ∧ cnt (assign b rows).f2 e ≤ b.c) ∧
  (∀ (b : Build) (rows : List (List (Nat × Nat))) (e : Nat),
    ((assign b rows).asg.filter fun a => a.e == e && !a.pass2).length = cnt (assign b rows).f1 e ∧
    ((assign b rows).asg.filter fun a => a.e == e && a.pass2).length = cnt (assign b rows).f2 e)

/-! ### Collectives -/

/-- GROUP_SET and GROUP_CLEAR (R334, R335): a group with good members is SET for the partition, its sequence from 0; a
cleared one is empty; a BUSY one ends the command with 0x98, a domain that is off with 0x97, another partition's group
with 0x99. Other groups are as before. The six collectives (R336 to R340, R343): a command whose group is SET, whose
SEQ is the group's next and whose ranges are good becomes the group's running collective; a running one goes on; an
unset or broken group ends it with 0x93, a wrong SEQ with 0x94. CREADY, CDATA, CCREDIT, CABORT and COLLECTIVE_TIMEOUT
(R335, R338, R340, R341, R343): a CREADY of the running collective is taken in, an early one kept; a CDATA flit is
placed before its credit goes back and the collective goes on; credit frees 16 flits, or with LAST the rest; an abort
or a time-out breaks the group. -/
def Obligations.Collectives : Prop :=
  (∀ (s : State) (r i : Nat) (c : Cmd),
    let s1 := takeCmd s c
    let p := partOf r
    let g := c.grp
    let n := c.fld 0x11 1
    let me := c.fld 0x12 1
    let free := rd s Reg.SKL0_DOM_CTRL_EN 0 ≠ 0 ∧ (rd s Reg.COL_GRP_STATE g = 0 ∨ rd s Reg.COL_GRP_PART g = p)
    let rest (t : State) : Prop := (∀ j < 16, j ≠ g → cgroup t j = cgroup s j ∧ rd t Reg.COL_GRP_STATE j = rd s Reg.COL_GRP_STATE j ∧
      rd t Reg.COL_GRP_NEXT_SEQ j = rd s Reg.COL_GRP_NEXT_SEQ j)
    (∀ w, Turn s r i 0x76 c → free → rd s Reg.COL_GRP_STATE g ≠ 2 → Granted s1 p (.service r i) [(c.csrc, n)] [] w →
      let l := memList w p c.csrc n
      (∀ x ∈ l, x < 64 ∧ rd s Reg.SKL0_ROSTER_PRESENT x ≠ 0 ∧
        rd s Reg.SKL0_ROSTER_SLICE x = rd s Reg.SKL0_DEV_SLICE 0) →
      l.eraseDups.length = n → l.getD me 64 = rd s Reg.SKL0_DEV_DEVNUM 0 → Answers (.groupSet r i) s fun t =>
        rd t Reg.COL_GRP_STATE g = 1 ∧ rd t Reg.COL_GRP_NMEM g = n % 2 ^ Reg.COL_GRP_NMEM.w ∧
        rd t Reg.COL_GRP_RANK g = me % 2 ^ Reg.COL_GRP_RANK.w ∧ rd t Reg.COL_GRP_PART g = p ∧
        rd t Reg.COL_GRP_NEXT_SEQ g = 0 ∧ (cgroup t g).members = l ∧ (cgroup t g).tag = c.fld 0x14 4 ∧ rest t ∧ Ends t r i 0 0) ∧
    (Turn s r i 0x77 c → free → rd s Reg.COL_GRP_STATE g ≠ 2 → Answers (.groupClear r i) s fun t =>
      rd t Reg.COL_GRP_STATE g = 0 ∧ rd t Reg.COL_GRP_NMEM g = 0 ∧ rd t Reg.COL_GRP_NEXT_SEQ g = 0 ∧
      cgroup t g = CGroup.idle ∧ rest t ∧ Ends t r i 0 0) ∧
    (∀ x ∈ [(0x76, Instr.groupSet r i), (0x77, Instr.groupClear r i)], Turn s r i x.1 c →
      (rd s Reg.SKL0_DOM_CTRL_EN 0 = 0 → Answers x.2 s fun t => Ends t r i 0x97 0 ∧ t.skl.groups = s.skl.groups ∧ WordsKept s t []) ∧
      (rd s Reg.SKL0_DOM_CTRL_EN 0 ≠ 0 → rd s Reg.COL_GRP_STATE g ≠ 0 → rd s Reg.COL_GRP_PART g ≠ p → Answers x.2 s fun t =>
        Ends t r i 0x99 0 ∧ t.skl.groups = s.skl.groups ∧ WordsKept s t []) ∧
      (free → rd s Reg.COL_GRP_STATE g = 2 → Answers x.2 s fun t =>
        Ends t r i 0x98 0 ∧ t.skl.groups = s.skl.groups ∧ WordsKept s t []))) ∧
  (∀ (s : State) (r i : Nat) (c : Cmd),
    let s1 := takeCmd s c
    let d := going c
    let p := partOf r
    let g := c.grp
    let free := rd s Reg.SKL0_DOM_CTRL_EN 0 ≠ 0 ∧ (rd s Reg.COL_GRP_STATE g = 0 ∨ rd s Reg.COL_GRP_PART g = p)
    let mine := ∃ x ∈ s.skl.colls, x.ring = r ∧ x.idx = i
    ∀ op ∈ [(0x70, Instr.allreduce r i), (0x71, .allgather r i), (0x72, .reducescatter r i), (0x73, .alltoall r i),
        (0x74, .barrier r i), (0x75, .rowstat r i)],
      Turn s r i op.1 c →
      (mine → exec op.2 s = .next (claimed c r i (collStep s1 g))) ∧
      (¬mine → free → rd s Reg.COL_GRP_STATE g = 0 ∨ rd s Reg.COL_GRP_STATE g = 3 → Answers op.2 s fun t =>
        Ends t r i 0x93 0 ∧ rd t Reg.COL_COLLS 0 = min (rd s Reg.COL_COLLS 0 + 1) (2 ^ 32 - 1) ∧
        WordsKept s t [Reg.COL_COLLS.addr 0]) ∧
      (¬mine → free → rd s Reg.COL_GRP_STATE g = 1 → c.cseq ≠ rd s Reg.COL_GRP_NEXT_SEQ g → Answers op.2 s fun t =>
        Ends t r i 0x94 0 ∧ WordsKept s t [Reg.COL_COLLS.addr 0]) ∧
      (∀ u w, ¬mine → free → rd s Reg.COL_GRP_STATE g = 1 → c.cseq = rd s Reg.COL_GRP_NEXT_SEQ g →
        c.cseq ∉ (cgroup s g).aborted →
        let aux := if op.1 = 0x73 then [(c.caux, 16 * gMem s g)] else []
        rangesOk s1 d [] [] aux = true → Peeked s1 r i aux u →
        let tab := if op.1 = 0x73 then a2aTable u d else []
        let x := collRanges u d tab
        rangesOk u d x.1 x.2.1 x.2.2 = true → Granted u p (.service r i) (x.1 ++ aux) (x.2.1 ++ x.2.2) w →
        exec op.2 s = .next (claimed c r i (collReady w d tab (x.1 ++ x.2.1 ++ x.2.2))))) ∧
  ((∀ (s t : State) (n : Nat) (h : FlitHdr) (grp seq tag nmem rcap : Nat), Received s n 2 h t →
    let g := grp % 16
    let e : Early := ⟨h.src, seq, tag, nmem, rcap⟩
    let keep := setCgroup t g { cgroup t g with early := (cgroup t g).early ++ [e] }
    (∀ x, getColl t g = some x → x.seq = seq →
      exec (.cready n h grp seq tag nmem rcap) s = .next (collStep (takeReady t g e) g)) ∧
    (∀ x, getColl t g = some x → x.seq ≠ seq → exec (.cready n h grp seq tag nmem rcap) s = .next keep) ∧
    (getColl t g = none → (rd t Reg.COL_GRP_STATE g ≠ 1 ∨ (tag = (cgroup t g).tag ∧ nmem = gMem t g)) →
      exec (.cready n h grp seq tag nmem rcap) s = .next keep) ∧
    (getColl t g = none → rd t Reg.COL_GRP_STATE g = 1 → (tag ≠ (cgroup t g).tag ∨ nmem ≠ gMem t g) →
      exec (.cready n h grp seq tag nmem rcap) s = .next (abortSeq t g seq)) ∧
    ((h.src ∈ (cgroup t g).members ∨ (cgroup t g).members = []) →
      exec (.cabort n h grp seq) s = .next (abortSeq t g seq))) ∧
  (∀ (s t : State) (n : Nat) (h : FlitHdr) (data : List Nat) (x : Coll) (c : Cmd) (j : Nat), Received s n 2 h t →
    let g := h.info % 16
    let off := bits h.info 20 24
    getColl t g = some x → getCmd t x.ring x.idx = some c → (cgroup t g).members.findIdx? (fun d => d == h.src) = some j →
    x.seq % 65536 = bits h.info 4 16 → j ≠ gRank t g →
    (c.op ≠ 0x74 →
      let u := placeFlit t c x j off (data.map (· % 256))
      let u1 := fresh (wr u Reg.COL_STAGE_HWM 0 (max (rd u Reg.COL_STAGE_HWM 0) (freeNat u % 1024 + 1)))
      ∀ y, getColl u1 g = some y →
        let m := nplaced y j + (if data = [] then 0 else 1)
        let y1 := { y with
          placed := tset (fun _ => 0) y.placed j m
          owed := if c.op = 0x73 ∧ h.last = true then y.owed ++ [(j, if data = [] then 0 else off + 1)] else y.owed }
        let fin := owedLen c y1 j == some m
        exec (.cdata n h data) s = .next (collStep (if fin = true ∨ (m % 16 = 0 ∧ data ≠ [])
          then route (setColl u1 y1) (mkFlit (setColl u1 y1) 10 h.src 0 (g + 2 ^ 4 * (y.seq % 65536) + 2 ^ 20 * off) 0 fin [] [])
          else setColl u1 y1) g)) ∧
    (j ∉ x.fin →
      let back := if h.last then nsent x j - 16 * nret x j else 16
      let y := { x with ret := tset (fun _ => 0) x.ret j (nret x j + 1), fin := if h.last then x.fin ++ [j] else x.fin }
      exec (.ccredit n h) s = .next (collSteps (setUsed (setColl t y) h.src (e2eUsed t h.src - back))))) ∧
  (∀ (s : State) (g : Nat) (x : Coll), g < 16 → awake s = true → getColl s g = some x →
    exec (.collectiveTimeout g) s = .next (collFail s x 0x91 0 true) ∧
    (others s x.grp = [] → Answers (.collectiveTimeout g) s fun t => rd t Reg.COL_GRP_STATE g = 3 ∧ getColl t g = none)))

/-! ### Skein and domains -/

/-- FLIT_WR and RDREQ at the exporter, WRACK and RDDATA at the requester, REG, REGRSP and INTR (R329 to R333): a write the
export table lets through lands by its mask and is answered 0, a read sends its granule; without an entry the answer is
NOT_PRESENT 3. An acknowledged write is over, and a completion record it carried is written; a read's data are here; a
register access comes from the lead alone. -/
def Obligations.SkeinRequests : Prop :=
  (∀ (s t : State) (n : Nat) (h : FlitHdr) (req : Nat) (data : List Nat) (det : Detect), Received s n 0 h t →
    let g := bits h.info 36 8
    let src := h.src % 64
    let page := h.info % 2 ^ 36
    let ans (typ : Nat) (u : State) (o : Nat) (l : List Nat) : State := route u (mkFlit u typ h.src h.part 0 0 true [req, o] l)
    let charge (u : State) (p k : Nat) : State := bump2 u Reg.CMD_PART_LED_PB_LO Reg.CMD_PART_LED_PB_HI p k
    (∀ k, exportEntry t src page true = some k →
      let x := exportAddr t k page
      isLocal (l3e t x.1 (pageOf x.2)) = true → (∀ kind sub, translate t x.1 x.2 true ≠ .flt kind sub) →
      exec (.flitWr n h req data .clean) s = .next (ans 2 (charge (eachOf (setBits h.mask 4) t fun u l =>
        let a := x.2 + 256 * g + 64 * l
        memWrite (abortOnWrite (takeLines u x.1 a 64) x.1 a 64) x.1 a 64 (leNum ((data.drop (64 * l)).take 64))) x.1
          (64 * (setBits h.mask 4).length)) 0 [])) ∧
    (exportEntry t src page true = none → exec (.flitWr n h req data det) s = .next (ans 2 t 0x33 [])) ∧
    (∀ k, exportEntry t src page false = some k →
      let x := exportAddr t k page
      isLocal (l3e t x.1 (pageOf x.2)) = true → (∀ kind sub, translate t x.1 x.2 false ≠ .flt kind sub) →
      exec (.rdreq n h req .clean) s = .next (ans 4 (charge t x.1 256) 0 (memList t x.1 (x.2 + 256 * g) 256))) ∧
    (exportEntry t src page false = none → exec (.rdreq n h req det) s = .next (ans 4 t 0x33 []))) ∧
  (∀ (s t : State) (n : Nat) (h : FlitHdr) (req o : Nat) (data : List Nat), Received s n 1 h t →
    (∀ q, t.skl.reqs.find? (fun q => q.id == req && q.write && q.dev == h.src && q.st == .asked) = some q →
      let gone : State := { t with skl := { t.skl with reqs := t.skl.reqs.filter fun z => z.id != req } }
      (o = 0 → (∀ a b, q.owner ≠ some (.recWrite a b)) → exec (.wrack n h req o) s = .next (flushRegs gone)) ∧
      (∀ a b, o = 0 → q.owner = some (.recWrite a b) →
        exec (.wrack n h req o) s = .next (flushRegs (recordAcked gone a b))) ∧
      (o ≠ 0 → exec (.wrack n h req o) s = .next (flushRegs (winFault t q (o / 16 % 8) (o % 16))))) ∧
    (∀ q, t.skl.reqs.find? (fun q => q.id == req && !q.write && q.dev == h.src && q.st == .asked) = some q →
      (o = 0 → exec (.rddata n h req o data) s = .next { t with skl := { t.skl with reqs := t.skl.reqs.map fun z =>
        if z.id = req then { z with st := .here, data := data.map (· % 256) } else z } }) ∧
      (o ≠ 0 → exec (.rddata n h req o data) s = .next (winFault t q (o / 16 % 8) (o % 16)))) ∧
    (∀ q v, t.skl.regs.find? (fun q => q.id == req && !q.isWr && q.sent && q.dev == h.src % 64) = some q →
      exec (.regrsp n h req v) s = .next { t with
        skl := { t.skl with regs := t.skl.regs.filter fun z => z != q }, rdata := v % 2 ^ (8 * q.size) }) ∧
    (∀ page, rd t Reg.SKL0_DOM_CTRL_LEAD 0 = 1 → h.src % 64 < 32 → Answers (.intr n h page) s fun u =>
      rdBit u Reg.SKL0_RINT_LO 0 (h.src % 64) = true ∧
      u = raiseInt (setBit t Reg.SKL0_RINT_LO 0 (h.src % 64)) 0x50 0)) ∧
  (∀ (s t : State) (n : Nat) (h : FlitHdr) (req size v : Nat), Received s n 0 h t →
    let d := h.src % 64
    let a := h.info % 2 ^ 26
    let lead := rd t Reg.SKL0_DOM_LEAD_VALID 0 = 1 ∧ rd t Reg.SKL0_DOM_LEAD_DEV 0 = d
    (lead → exec (.reg n h req true size v) s = .next (regWrite .lead a size v fxOf t)) ∧
    (lead → exec (.reg n h req false size v) s = .next (regAnswer (regRead t .lead a size).2 d req (regRead t .lead a size).1)) ∧
    (¬lead → exec (.reg n h req true size v) s = .next (bump t Reg.SKL_REG_DROP n 1)))

/-- MGMT_ACK, MGMT_NAK and ACK_TIMER (R321, R322): a good ACK frees the flits up to the one it names; a NAK frees those
before it and sends the rest again in order, counted, the sixteenth failed replay of one flit taking the port down;
the timer names the last good LSEQ. A MGMT flit that fails its CRC is counted and dropped. PORT_TRAINED,
PORT_TRAIN_FAIL, PORT_DOWN, LINK_CTRL_EN, SKEIN_RETRAIN and DOM_EN_CLEAR (R317, R318, R323, R325, R326, R345, R346):
what a port that trains records of its peer; a foreign or a wrong one is counted; a failed training and a loss leave
the port DOWN; EN rising starts training; the domain turned off fails what runs on it. -/
def Obligations.SkeinPorts : Prop :=
  (∀ (s : State) (n : Nat) (h : FlitHdr) (named : Nat), n < 32 → awake s = true →
    (rd s Reg.SKL_LINK_STAT_STATE n = 2 → exec (.ackTimer n) s = .next
      (sendMgmt (setPort s n { port s n with since := 0 }) n 0 (((port s n).rxSeq + 1023) % 1024))) ∧
    ((port s n).trained ≠ 0 →
      (h.crcOk = false → Answers (.mgmtAck n h named) s fun t => t = bump s Reg.SKL_CRC_ERR n 1) ∧
      (h.crcOk = false → Answers (.mgmtNak n h named) s fun t => t = bump s Reg.SKL_CRC_ERR n 1) ∧
      (h.crcOk = true →
        let x := port s n
        let u := takeCredits (bump (setPort s n { x with owed := setAt x.owed 3 (x.owed.getD 3 0 + 1) }) Reg.SKL_RX_FLITS n 1) n h
        let p := port u n
        let after := p.replay.filter fun f => seqBefore (named % 1024) f.h.lseq
        let from_ := p.replay.filter fun f => !(seqBefore f.h.lseq (named % 1024))
        let fails := if from_.length < p.replay.length then 1 else p.fails + 1
        (exec (.mgmtAck n h named) s = .next (flushPort (setPort u n { p with
          replay := after, fails := if after.length < p.replay.length then 0 else p.fails }) n)) ∧
        (from_ = [] → exec (.mgmtNak n h named) s = .next (setPort u n { p with replay := [], fails := 0 })) ∧
        (from_ ≠ [] → 16 < fails → exec (.mgmtNak n h named) s = .next (portFalls (setPort u n { p with replay := from_ }) n)) ∧
        (from_ ≠ [] → fails ≤ 16 → Answers (.mgmtNak n h named) s fun t =>
          t.out = u.out ++ from_.map (fun f => .flit n f) ∧ (port t n).replay = from_ ∧
          rd t Reg.SKL_REPLAY n = min (rd u Reg.SKL_REPLAY n + 1) (2 ^ 32 - 1)))) ∧
    ((port s n).trained = 0 → exec (.mgmtAck n h named) s = .next s ∧ exec (.mgmtNak n h named) s = .next s)) ∧
  ((∀ (s : State) (n : Nat), n < 32 → awake s = true →
    (rd s Reg.SKL_LINK_CTRL_EN n = 1 → (port s n).trained = 0 →
      (∀ x : PeerInfo, (x.x4 = true → rd s Reg.SKL_LINK_CTRL_ALLOW_X4 n = 1) → Answers (.portTrained n x) s fun t =>
        let foreign := x.isSwitch = false ∧ x.domId % 2 ^ 32 ≠ rd s Reg.SKL0_DOM_ID 0
        let right := x.isSwitch = false ∧ x.dev % 64 / 4 = rd s Reg.SKL0_DEV_TRAY 0 ∧
          x.dev % 64 % 4 = (rd s Reg.SKL0_DEV_SLOT 0 ^^^ meshOf n)
        rd t Reg.SKL_LINK_STAT_PEER n = x.dev % 64 ∧ rd t Reg.SKL_LINK_STAT_PEER_SW n = oneIf x.isSwitch ∧
        rd t Reg.SKL_LINK_STAT_X4 n = oneIf x.x4 ∧
        (foreign → (port t n).trained = 3) ∧ (¬foreign → meshOf n ≠ 0 → ¬right → (port t n).trained = 4) ∧
        (¬foreign → (meshOf n = 0 ∨ right) → (port t n).trained = 2 ∧ rd t Reg.SKL_MISWIRE n = rd s Reg.SKL_MISWIRE n) ∧
        (foreign ∨ (meshOf n ≠ 0 ∧ ¬right) → rd t Reg.SKL_MISWIRE n = min (rd s Reg.SKL_MISWIRE n + 1) (2 ^ 32 - 1)) ∧
        (∀ j, j ≠ n → port t j = port s j) ∧
        WordsKept s t [Reg.SKL_LINK_STAT_STATE.addr n, Reg.SKL_MISWIRE.addr n]) ∧
      (Answers (.portTrainFail n) s fun t => rd t Reg.SKL_LINK_STAT_STATE n = 0 ∧
        rd t Reg.SKL_DOWN_CNT n = min (rd s Reg.SKL_DOWN_CNT n + 1) (2 ^ 32 - 1) ∧ OnlyRegs s t ∧
        WordsKept s t [Reg.SKL_LINK_STAT_STATE.addr n, Reg.SKL_DOWN_CNT.addr n])) ∧
    ((port s n).trained ≠ 0 → exec (.portDown n) s = .next (loseWindows (dropPort s n 0)))) ∧
  (∀ (s : State) (ag : Agent) (n v : Nat), n < 32 → Open s ag (Reg.SKL_LINK_CTRL_EN.addr n) →
    let a := Reg.SKL_LINK_CTRL_EN.addr n
    let put (w : Nat) : State := fxLinkCtrl n w s (stored ag a w s)
    exec (.linkCtrlEn ag n v) s = .next (put (v % 2 ^ 32)) ∧
    exec (.skeinRetrain ag n) s = .next (put ((rw s a).toNat ||| 16)) ∧
    (rd s Reg.SKL_LINK_CTRL_EN n = 0 → bit v 0 = true → (port s n).trained = 0 → s.skl.reqs = [] → s.skl.regs = [] →
      Answers (.linkCtrlEn ag n v) s fun t => rd t Reg.SKL_LINK_STAT_STATE n = 1 ∧ rd t Reg.SKL_LINK_CTRL_EN n = 1)) ∧
  (∀ (s : State) (ag : Agent) (v : Nat), Open s ag (Reg.SKL0_DOM_CTRL_EN.addr 0) →
    let t := stored ag (Reg.SKL0_DOM_CTRL_EN.addr 0) (v % 2 ^ 32) s
    exec (.domEnClear ag v) s = .next (fxDomCtrl s t) ∧
    (rd s Reg.SKL0_DOM_CTRL_EN 0 = 1 → rd t Reg.SKL0_DOM_CTRL_EN 0 = 0 →
      fxDomCtrl s t = loseWindows (eachOf t.skl.colls t fun u x => collFail u x 0x97 0 false))))

/-! ### Host, capacity ports, Ethernet -/

/-- HOST_APERTURE_ACCESS and DOMAIN_APERTURE_ACCESS (R332, R350, R351, R353): an access an entry maps to pages that serve
it reads or writes the range, of any size, drawn and charged (the entry is that of its first byte: the model's choice,
assumption 77); one without an entry reads as ones and is counted; an access of slot DEVNUM is the lead's own
window's, of another slot forwarded. RECALL, RECALL_DONE, RECALL_TIMEOUT, FUSTRA_UP, FUSTRA_DOWN, FUS_RETRAIN, H2R_GO,
IVEC_MASK_WRITE and INT_SET (R349, R353, R355 to R357, R433): lines the host holds come back one by one; a lost link
gives up every line, counts and interrupts; a link that comes up sends what is pending; the mailbox is taken once; a
mask that falls sends its pending vector. -/
def Obligations.HostSide : Prop :=
  ((∀ (s : State) (off n v : Nat) (cached : Bool), off < 2 ^ 40 → reach s .host 1 = .open_ →
    let mapped (k : Nat) : Nat := (rd s Reg.FUS_HEXP_DBASE_LO k * 65536 + 2 ^ 32 * rd s Reg.FUS_HEXP_DBASE_HI k + off -
      rd s Reg.FUS_HEXP_HOFF k * 65536) % 2 ^ 52
    let serve (u : State) (p da : Nat) : State :=
      let u1 := bump2 (drawRange u p da n) Reg.CMD_PART_LED_PB_LO Reg.CMD_PART_LED_PB_HI p n
      if cached then grantLines u1 p da n else u1
    (∀ k, hostEntry s off true = some k →
      let p := rd s Reg.FUS_HEXP_PART k
      let u := fillRange s p (mapped k) n
      probe u p (mapped k) n true = .ok → exec (.hostApertureAccess off n true cached v) s = .next
        (serve (claim (memWrite (abortOnWrite u p (mapped k) n) p (mapped k) n v) .host) p (mapped k))) ∧
    (∀ k, hostEntry s off false = some k →
      let p := rd s Reg.FUS_HEXP_PART k
      let u := fillRange s p (mapped k) n
      probe u p (mapped k) n false = .ok → winRead u p .host [(mapped k, n)] = .ready →
      exec (.hostApertureAccess off n false cached v) s = .next
        (fresh (serve (dropRead { u with rdata := memRead u p (mapped k) n } .host) p (mapped k)))) ∧
    (hostEntry s off false = none → Answers (.hostApertureAccess off n false cached v) s fun t =>
      t.rdata = 2 ^ (8 * n) - 1 ∧ rd t Reg.FUS_HERR_CNT 0 = min (rd s Reg.FUS_HERR_CNT 0 + 1) (2 ^ 32 - 1) ∧ t.mem = s.mem)) ∧
  (∀ (s : State) (off n v : Nat), off < 2 ^ 32 → cutOff s .host = false →
    let d := off / 2 ^ 26
    let o := off % 2 ^ 26
    (rd s Reg.SKL0_DOM_CTRL_LEAD 0 = 1 →
      (d = rd s Reg.SKL0_DEV_DEVNUM 0 →
        exec (.domainApertureAccess off n true v) s = .next (regWrite .host o n v fxOf s) ∧
        exec (.domainApertureAccess off n false v) s = .next (readTo s .host o n)) ∧
      (d ≠ rd s Reg.SKL0_DEV_DEVNUM 0 → ∀ isWr, exec (.domainApertureAccess off n isWr v) s =
        .next (forwardReg s d o n isWr v))) ∧
    (rd s Reg.SKL0_DOM_CTRL_LEAD 0 = 0 → exec (.domainApertureAccess off n true v) s = .next s ∧
      exec (.domainApertureAccess off n false v) s = .next { s with rdata := 2 ^ (8 * n) - 1 }))) ∧
  ((∀ (s : State) (line : Nat), line < 2 ^ 48 → awake s = true →
    let l := lineOf line
    (l ∈ s.hst.dir → l ∉ s.hst.recalls → Answers (.lineRecall line) s fun t =>
      t = { s with hst := { s.hst with recalls := s.hst.recalls ++ [l] } }) ∧
    (l ∈ s.hst.recalls → Answers (.recallDone line) s fun t =>
      l ∉ t.hst.dir ∧ l ∉ t.hst.recalls ∧ (∀ x, x ≠ l → (x ∈ t.hst.dir ↔ x ∈ s.hst.dir)) ∧
      t = { s with hst := { s.hst with recalls := t.hst.recalls, dir := t.hst.dir } }) ∧
    (l ∈ s.hst.recalls → exec (.recallTimeout line) s = .next (linkLost s))) ∧
  (∀ s : State, awake s = true →
    (rd s Reg.FUS_LINK_STAT_UP 0 = 1 → exec .fustraDown s = .next (linkLost s) ∧ Answers .fustraDown s fun t =>
      rd t Reg.FUS_LINK_STAT_UP 0 = 0 ∧ t.hst.dir = [] ∧ t.hst.recalls = [] ∧
      rd t Reg.FUS_LINK_STAT_DOWN_CNT 0 = min (rd s Reg.FUS_LINK_STAT_DOWN_CNT 0 + 1) (2 ^ Reg.FUS_LINK_STAT_DOWN_CNT.w - 1)) ∧
    (∀ gen2 x8, rd s Reg.FUS_LINK_STAT_UP 0 = 0 → Answers (.fustraUp gen2 x8) s fun t =>
      rd t Reg.FUS_LINK_STAT_UP 0 = 1 ∧ rd t Reg.FUS_LINK_STAT_X8 0 = oneIf x8 ∧
      (gen2 = true → rd t Reg.FUS_LINK_STAT_GEN2 0 = 1) ∧
      (∀ k < 64, rd s Reg.FUS_IVEC_MASK k = 0 → rd t Reg.FUS_IVEC_PEND k = 0))) ∧
  (∀ (s : State) (ag : Agent) (k v : Nat),
    (Open s ag (Reg.FUS_LINK_CTRL_RETRAIN.addr 0) →
      let a := Reg.FUS_LINK_CTRL_RETRAIN.addr 0
      let w := rd s Reg.FUS_LINK_CTRL_MAXGEN 0 + 2
      exec (.fusRetrain ag) s = .next (unlink (stored ag a w s))) ∧
    (Open s .host (Reg.FUS_MB_CTRL_H2R_GO.addr 0) →
      exec .h2rGo s = .next (fxMbCtrl 1 (stored .host (Reg.FUS_MB_CTRL_H2R_GO.addr 0) 1 s))) ∧
    (k < 64 → Open s ag (Reg.FUS_IVEC_MASK.addr k) →
      exec (.ivecMaskWrite ag k v) s = .next (fxIvecMask k (stored ag (Reg.FUS_IVEC_MASK.addr k) (v % 2 ^ 32) s)) ∧
      (rd s Reg.FUS_IVEC_PEND k = 0 → Answers (.ivecMaskWrite ag k v) s fun t => rd t Reg.FUS_IVEC_MASK k = v % 2)) ∧
    (pageExists k = true → Open s ag (k * 0x1000 + 0x28) →
      exec (.intSet ag k v) s = .next (stored ag (k * 0x1000 + 0x28) (v % 2 ^ 32) s))) ∧
  (∀ (s : State), rd s Reg.FUS_MB_CTRL_H2R_GO 0 = 0 → rimRuns s = true → rd s Reg.FUS_MB_CTRL_R2H_FULL 0 = 1 →
    fxMbCtrl 1 s = takeMail (wr s Reg.FUS_MB_CTRL_H2R_GO 0 1) ∧
    (fxMbCtrl 1 s).hst.inbox = s.hst.inbox ++ [mailbox s] ∧ rd (fxMbCtrl 1 s) Reg.FUS_MB_CTRL_H2R_GO 0 = 0))

/-- RESCAN, CAP_OFFLINE and CAP_RETRAIN (R359 to R361): what a scan finds stands in the port's registers, and a change
interrupts; a port whose frames hold data is not scanned; a port that fails is down with its cause, its migrations
aborted; one that trains again is up when the serial number is its own, or stays down with cause 5. QP_DB,
QP_SEL_WRITE, ETH_WRITE, ETH_READ, ETH_SEND, ETH_LINK_CHANGE and PFC_PAUSE_FRAME_RECEIVE (R362, R363, R367): a
doorbell moves its queue pair's tail, a selection its owner; a work request whose range serves it is performed,
charged and ended with 0, one that faults ends with 0x40 plus the kind; a link's change and a pause are recorded. -/
def Obligations.CapacityAndEthernet : Prop :=
  ((∀ (s : State) (ag : Agent) (n : Nat) (d : CxlDev), n < 8 → Open s ag (Reg.CAP_CTRL_RESCAN.addr n) →
    let u := stored ag (Reg.CAP_CTRL_RESCAN.addr n) 1 s
    let t := capScan u n d
    let was := rd s Reg.CAP_STAT_UP n
    exec (.rescan ag n d) s = .next (if capHolds u n then pageErr u Reg.HDR_ERR_SUM_RSVD_WR (0x40 + n)
      else if was = 0 ∧ rd t Reg.CAP_STAT_UP n = 1 then raiseInt t (0x40 + n) 1
      else if was = 1 ∧ rd t Reg.CAP_STAT_UP n = 0 then raiseInt t (0x40 + n) 0 else t) ∧
    (d.present = true → d.fault = 0 → rd t Reg.CAP_STAT_UP n = 1 ∧ rd t Reg.CAP_STAT_CAUSE n = 0 ∧
      rd t Reg.CAP_FRAMES n = min (2 ^ 25) (d.bytes / 67584 / 32 * 32) % 2 ^ Reg.CAP_FRAMES.w) ∧
    (d.present = false → rd t Reg.CAP_STAT_UP n = 0 ∧ rd t Reg.CAP_STAT_CAUSE n = 1 ∧ rd t Reg.CAP_FRAMES n = 0)) ∧
  (∀ (s : State) (n : Nat), n < 8 → awake s = true →
    (∀ fatal, rd s Reg.CAP_STAT_UP n = 1 → s.mem.migs = [] → Answers (.capOffline n fatal) s fun t =>
      rd t Reg.CAP_STAT_UP n = 0 ∧ rd t Reg.CAP_STAT_CAUSE n = (if fatal then 6 else 4) ∧
      rd t Reg.CAP_OFFLINE_CNT n = min (rd s Reg.CAP_OFFLINE_CNT n + 1) (2 ^ Reg.CAP_OFFLINE_CNT.w - 1) ∧
      rd t Reg.CAP_FRAMES n = rd s Reg.CAP_FRAMES n ∧ t.mem = s.mem) ∧
    (∀ x, rd s Reg.CAP_STAT_UP n = 0 → (rd s Reg.CAP_STAT_CAUSE n = 4 ∨ rd s Reg.CAP_STAT_CAUSE n = 6) →
      rd s Reg.CAP_FRAMES n ≠ 0 →
      (x % 2 ^ 64 = rd2 s Reg.CAP_SERIAL_LO Reg.CAP_SERIAL_HI n → Answers (.capRetrain n (some x)) s fun t =>
        rd t Reg.CAP_STAT_UP n = 1 ∧ rd t Reg.CAP_STAT_CAUSE n = 0 ∧ t.mem = s.mem) ∧
      (x % 2 ^ 64 ≠ rd2 s Reg.CAP_SERIAL_LO Reg.CAP_SERIAL_HI n → Answers (.capRetrain n (some x)) s fun t =>
        rd t Reg.CAP_STAT_UP n = 0 ∧ rd t Reg.CAP_STAT_CAUSE n = 5 ∧ OnlyRegs s t ∧
        WordsKept s t [Reg.CAP_STAT_CAUSE.addr n])))) ∧
  ((∀ (s : State) (ag : Agent) (n v : Nat), n < 2 →
    (Open s ag (Reg.ETH_QP_DB.addr n) →
      let u := stored ag (Reg.ETH_QP_DB.addr n) (v % 2 ^ 32) s
      let q := v % 2 ^ 32 % 512
      exec (.qpDb ag n v) s = .next (fxQpDb n (v % 2 ^ 32) u) ∧
      (q ≠ 0 → Answers (.qpDb ag n v) s fun t => (qpair t n q).tail = v / 512 % 2 ^ 23 ∧ (qpair t n q).head = (qpair s n q).head ∧
        (qpair t n q).part = (qpair s n q).part)) ∧
    (Open s ag (Reg.ETH_QP_SEL_QP.addr n) →
      exec (.qpSelWrite ag n v) s = .next (fxQpSel n s (stored ag (Reg.ETH_QP_SEL_QP.addr n) (v % 2 ^ 32) s)))) ∧
  (∀ (s : State) (n q : Nat) (w : EthWr) (data : List Nat), n < 2 → 1 ≤ q → q < 512 → awake s = true →
    let x := qpair s n q
    let p := x.part
    let a := w.laddr % 2 ^ 52
    intakeStopped s = false → rd s Reg.ETH_LINK_STAT_UP n = 1 → x.err = false → x.head ≠ x.tail → 1 ≤ w.len → w.len ≤ 2 ^ 31 →
    let u := fillRange s p a w.len
    let paid := chargePb (drawRange u p a w.len) p w.len
    let got := (data ++ (List.range (w.len - data.length)).map fun k => (Config.outsideByte paid.fv 0x43 k).toNat).take w.len
    (grantedRange u p a w.len = true →
      (probe u p a w.len false = .ok →
        exec (.ethWrite n q w) s = .next (ethFrames (ethDone (ethOut n q w 1 paid a) n q w 1 0) n w.len true) ∧
        exec (.ethSend n q w) s = .next (ethFrames (ethDone (ethOut n q w 3 paid a) n q w 3 0) n w.len true)) ∧
      (probe u p a w.len true = .ok → exec (.ethRead n q w data) s = .next (ethFrames (ethDone
        (fresh (memWrite (abortOnWrite (takeLines paid p a w.len) p a w.len) p a w.len (leNum got))) n q w 2 0) n w.len false))) ∧
    (∀ g kind sub, probe u p a w.len false = .flt g kind sub →
      exec (.ethSend n q w) s = .next (ethDone (told u p (pagesOf a w.len)) n q w 3 (0x40 + kind)))) ∧
  (∀ (s : State) (n : Nat), n < 2 → awake s = true →
    (rd s Reg.ETH_LINK_STAT_UP n = 0 → rd s Reg.ETH_LINK_CTRL_EN n = 1 → Answers (.ethLinkChange n true) s fun t =>
      t = raiseInt (wr s Reg.ETH_LINK_STAT_UP n 1) (0x48 + n) 1 ∧ rd t Reg.ETH_LINK_STAT_UP n = 1) ∧
    (rd s Reg.ETH_LINK_STAT_UP n = 1 → Answers (.ethLinkChange n false) s fun t =>
      t = raiseInt (wr s Reg.ETH_LINK_STAT_UP n 0) (0x48 + n) 0 ∧ rd t Reg.ETH_LINK_STAT_UP n = 0) ∧
    (∀ pri < 8, Answers (.pfcPauseFrameReceive n pri) s fun t =>
      (tget (fun _ => 0) t.hst.pfc n).testBit pri = true ∧
      rd t Reg.ETH_PFC_PAUSE n = min (rd s Reg.ETH_PFC_PAUSE n + 1) (2 ^ Reg.ETH_PFC_PAUSE.w - 1))))

/-! ### Power and clocks -/

/-- TEMP_SAMPLE, DROOP_DETECT, DROOP_RECOVERY, PMON_READ and POWER_ESTIMATE (R368 to R373, R404): a reading stands, valid or not,
and the hottest sensor is judged; a droop above its threshold is recorded and its lost edges counted; the monitors' codes
stand and the rails follow; energy and the average power are counted. -/
def Obligations.PowerReadings : Prop :=
  ∀ s : State, awake s = true →
    (∀ k raw, k < 176 → -320 ≤ raw → raw ≤ 1200 → rd s Reg.SCL_TEMP_VAL k ≠ toField 12 raw →
      ∃ u, exec (.tempSample k raw) s = .next (judgeTemps u) ∧ rd u Reg.SCL_TEMP_VAL k = toField 12 raw ∧
        rd u Reg.SCL_TEMP_VALID k = 1 ∧ (∀ j < 176, j ≠ k → rw u (Reg.SCL_TEMP_VAL.addr j) = rw s (Reg.SCL_TEMP_VAL.addr j)) ∧
        tget (fun _ => false) u.pow.bad k = false) ∧
    (∀ k raw, k < 176 → (raw < -320 ∨ 1200 < raw) →
      ∃ u, exec (.tempSample k raw) s = .next (judgeTemps u) ∧ rd u Reg.SCL_TEMP_VALID k = 0 ∧
        tget (fun _ => false) u.pow.bad k = true) ∧
    (∀ d m mv edges, d < 40 → m < 96 → watches m d = true → mv ≤ rd s Reg.CLK_DROOP_THR_MV d →
      Answers (.droopDetect d m mv edges) s fun t =>
        rd t Reg.SCL_DMON_WORST m = max (rd s Reg.SCL_DMON_WORST m) (min mv 1023) ∧ OnlyRegs s t ∧
        WordsKept s t [Reg.SCL_DMON_WORST.addr m]) ∧
    (∀ d m mv edges, d < 40 → m < 96 → watches m d = true → rd s Reg.CLK_DROOP_THR_MV d < mv → (32 ≤ d ∨ inGap s d = false) →
      Answers (.droopDetect d m mv edges) s fun t =>
        rd t Reg.SCL_DMON_WORST m = max (rd s Reg.SCL_DMON_WORST m) (min mv 1023) ∧
        rd t Reg.SCL_DROOP d = min (rd s Reg.SCL_DROOP d + edges) (2 ^ 32 - 1) ∧
        tget (fun _ => false) t.pow.droop d = true) ∧
    (∀ d < 40, Answers (.droopRecovery d) s fun t => tget (fun _ => false) t.pow.droop d = false ∧
      (∀ j, j ≠ d → tget (fun _ => false) t.pow.droop j = tget (fun _ => false) s.pow.droop j) ∧ t.regs = s.regs) ∧
    (∀ codes : List Nat, rimRuns s = true → ∃ u, exec (.pmonRead codes) s = .next (followRails u) ∧ OnlyRegs s u ∧
      ∀ m < 48, rd u Reg.SCL_PMON_SPEED m = match codes[m]? with
        | some c => c % 2 ^ 16
        | none => rd s Reg.SCL_PMON_SPEED m) ∧
    (∀ w avg, Answers (.powerEstimate w avg) s fun t =>
      let e := s.pow.energyUj + w
      rd2 t Reg.PWR_ENERGY_LO Reg.PWR_ENERGY_HI 0 =
        min (rd2 s Reg.PWR_ENERGY_LO Reg.PWR_ENERGY_HI 0 + e / 1000) (2 ^ 64 - 1) ∧
      t.pow.energyUj = e % 1000 ∧ rd t Reg.PWR_PKG_W 0 = min avg 0xFFFF)

/-- CAP_EVALUATION, POINT_RAISE, DUTY_STEP, THERMAL_TARGET_FALL and THERMAL_TARGET_RISE (R374 to R377, R380): the package goes
to the highest point whose estimate meets the cap, never up at an evaluation, or to 1.0 GHz with the least duty that meets
it; it rises by one step where the cap allows; duty falls by one; a partition's target falls by one from its frequency,
and rises by one, between 1.0 GHz and the grade's maximum. -/
def Obligations.PowerControl : Prop :=
  ∀ s : State, awake s = true →
    let u := overrun s
    let cap := rd u Reg.PWR_EFF_CAP 0
    (∀ est duty f, rimRuns u = true → rd u Reg.PWR_STAT_BRAKE 0 = 0 → bestPoint u est cap = some f →
      exec (.capEvaluation est duty) s = .next (replan (if f < rd u Reg.PWR_STAT_POINT 0
        then wr (setPow u { u.pow with want := 0 }) Reg.PWR_STAT_POINT 0 f else setPow u { u.pow with want := 0 }))) ∧
    (∀ est duty, rimRuns u = true → rd u Reg.PWR_STAT_BRAKE 0 = 0 → bestPoint u est cap = none →
      let d := (leastDuty duty cap).getD 15
      exec (.capEvaluation est duty) s = .next (replan (wr (setPow (wr u Reg.PWR_STAT_D 0
        (max d (rd u Reg.PWR_STAT_D 0))) { u.pow with want := d }) Reg.PWR_STAT_POINT 0 10))) ∧
    (∀ est duty d, rimRuns u = true → rd u Reg.PWR_STAT_BRAKE 0 = 1 → rd u Reg.PWR_STAT_DEEP 0 = 0 →
      leastDuty duty (rd u Reg.PWR_CAP_CTRL_LIMIT 0 * 40 / 100) = some d → Answers (.capEvaluation est duty) s fun t =>
        rd t Reg.PWR_STAT_D 0 = d ∧ t.pow.full = false) ∧
    (rd s Reg.PWR_PKG_W 0 ≤ rd s Reg.PWR_EFF_CAP 0 → u = s) ∧
    (∀ est w, rimRuns s = true → rd s Reg.PWR_STAT_BRAKE 0 = 0 → rd s Reg.PWR_STAT_POINT 0 < gradeMax s →
      est[rd s Reg.PWR_STAT_POINT 0 - 9]? = some w → w ≤ rd s Reg.PWR_EFF_CAP 0 →
      exec (.pointRaise est) s = .next (replan (wr s Reg.PWR_STAT_POINT 0 (rd s Reg.PWR_STAT_POINT 0 + 1)))) ∧
    (rd s Reg.PWR_STAT_BRAKE 0 = 0 → s.pow.want < rd s Reg.PWR_STAT_D 0 → rimRuns s = true → Answers .dutyStep s fun t =>
      rd t Reg.PWR_STAT_D 0 = rd s Reg.PWR_STAT_D 0 - 1 ∧ OnlyRegs s t ∧ WordsKept s t [Reg.PWR_STAT_D.addr 0]) ∧
    (∀ p < 8, partHot s p (8 * rd s Reg.PWR_THERM_THROT 0) = true →
      let n := max 10 (min (rd s Reg.PWR_TTGT p) (weaveFreq s p) - 1)
      let w := wr s Reg.PWR_TTGT p n
      exec (.thermalTargetFall p) s = .next (replan
        (if rd s Reg.PWR_TTGT p = gradeMax s ∧ n < rd s Reg.PWR_TTGT p then raiseInt w 0x08 1 else w))) ∧
    (∀ p < 8, partHot s p (8 * rd s Reg.PWR_THERM_THROT 0) = false → exec (.thermalTargetFall p) s = .next s) ∧
    (∀ p < 8, partHot s p (8 * rd s Reg.PWR_THERM_THROT 0 - 24) = false → rd s Reg.PWR_TTGT p < gradeMax s →
      exec (.thermalTargetRise p) s = .next (replan (wr s Reg.PWR_TTGT p (rd s Reg.PWR_TTGT p + 1)))) ∧
    (∀ est f, bestPoint s est cap = some f → 10 ≤ f ∧ f ≤ gradeMax s ∧ (∃ w, est[f - 10]? = some w ∧ w ≤ cap) ∧
      ∀ g, f < g → g ≤ gradeMax s → ∀ w, est[g - 10]? = some w → cap < w)

/-- BRAKE_ASSERT, BRAKE_RELEASE, SLOPE_EVAL, DEEP_BRAKE_CHECK, SREL, HB, HB_TIMEOUT, SAFE_CAP_ENGAGE and LIMIT_WRITE (R374, R378,
R381, R383): the pin brakes at full skip and counts; the second steep second brakes, a slope still steep at the check
makes it a deep brake, software may end both; a heartbeat lost and not renewed engages the safe cap, a write of LIMIT, from
1,200 W to the grade's, ends it. -/
def Obligations.BrakesAndCaps : Prop :=
  (∀ s : State, awake s = true →
    (rd s Reg.PWR_STAT_BRAKE 0 = 0 → Answers .brakeAssert s fun t => rd t Reg.PWR_STAT_BRAKE 0 = 1 ∧ t.pow.pin = true ∧
      t.pow.full = true ∧ rd t Reg.PWR_BRAKE_CNT 0 = min (rd s Reg.PWR_BRAKE_CNT 0 + 1) (2 ^ 32 - 1)) ∧
    (rd s Reg.PWR_STAT_BRAKE 0 = 1 → s.pow.hot = false → s.pow.alert = false → s.pow.pfBrake = false →
      rd s Reg.PWR_STAT_SLOPE 0 = 0 → Answers .brakeRelease s fun t => rd t Reg.PWR_STAT_BRAKE 0 = 0 ∧ t.pow.pin = false ∧
        t.pow.full = false ∧ WordsKept s t [Reg.PWR_STAT_BRAKE.addr 0]) ∧
    (∀ v : Int, 500 < v → v ≤ 32767 → rd s Reg.PWR_STAT_SLOPE 0 = 0 → 1 ≤ s.pow.steep → Answers (.slopeEval v) s fun t =>
      rd t Reg.PWR_STAT_SLOPE 0 = 1 ∧ rd t Reg.PWR_STAT_BRAKE 0 = 1 ∧ rd t Reg.PWR_STAT_SLOPE_V 0 = toField 16 v) ∧
    (∀ v : Int, v ≤ 500 → rd s Reg.PWR_STAT_SLOPE 0 = 0 → Answers (.slopeEval v) s fun t =>
      rd t Reg.PWR_STAT_SLOPE 0 = 0 ∧ t.pow.steep = 0 ∧ WordsKept s t [Reg.PWR_STAT_SLOPE_V.addr 0]) ∧
    (∀ v : Int, 500 < v → rd s Reg.PWR_STAT_SLOPE 0 = 1 → rd s Reg.PWR_STAT_DEEP 0 = 0 →
      let u := raiseInt (wr s Reg.PWR_STAT_DEEP 0 1) 0x08 3
      exec (.deepBrakeCheck v) s = .next (replan (setPow u { u.pow with full := true }))) ∧
    (rd s Reg.PWR_HB_CTRL_EN 0 = 1 → rd s Reg.PWR_STAT_HBLOST 0 = 0 → Answers .hbTimeout s fun t =>
      rd t Reg.PWR_STAT_HBLOST 0 = 1 ∧ t = raiseInt (wr s Reg.PWR_STAT_HBLOST 0 1) 0x08 4) ∧
    (rd s Reg.PWR_HB_CTRL_EN 0 = 1 → rd s Reg.PWR_STAT_HBLOST 0 = 1 → rd s Reg.PWR_STAT_SAFE 0 = 0 →
      Answers .safeCapEngage s fun t =>
        let l := rd s Reg.PWR_CAP_CTRL_LIMIT 0
        rd t Reg.PWR_STAT_SAFE 0 = 1 ∧
        rd t Reg.PWR_EFF_CAP 0 = min l (max (l * rd s Reg.PWR_SAFE_PCT 0 / 100) (l * 40 / 100)))) ∧
  (∀ (s : State) (ag : Agent) (v : Nat),
    (Open s ag (Reg.PWR_CAP_CTRL_LIMIT.addr 0) → Answers (.limitWrite ag v) s fun t =>
      let l := max 1200 (min (gradeW s) (v % 2 ^ 16))
      rd t Reg.PWR_CAP_CTRL_LIMIT 0 = l ∧ rd t Reg.PWR_EFF_CAP 0 = l ∧ rd t Reg.PWR_STAT_SAFE 0 = 0) ∧
    (Open s ag (Reg.PWR_HB.addr 0) → Answers (.hb ag v) s fun t => rd t Reg.PWR_STAT_HBLOST 0 = 0 ∧
      rd t Reg.PWR_STAT_SAFE 0 = rd s Reg.PWR_STAT_SAFE 0 ∧ OnlyRegs s t) ∧
    (Open s ag (Reg.PWR_THERM_CTRL_SREL.addr 0) →
      let u := stored ag (Reg.PWR_THERM_CTRL_SREL.addr 0) 1 s
      exec (.srel ag) s = .next (endSlope u) ∧
      (rd s Reg.PWR_STAT_SLOPE 0 = 1 →
        endSlope u = replan (setBrake (wr (wr u Reg.PWR_STAT_SLOPE 0 0) Reg.PWR_STAT_DEEP 0 0)))))

/-- POWER_FAIL, PFAIL_GRACE_END, CREC_ACK, POWER_LOSS, RAIL_MONITOR_RELEASE, VRC_STAT_POLL, VRC_ALERT and VRC_ALERT_RELEASE (R384 to
R387, R453 to R455): the sequence counts and brakes, abandons what is in flight, writes its closing record with the commit
last and halts; an acknowledgement clears the commit; a loss leaves flash, fuses and kept expanders; a rail that settles,
is late or alerts. -/
def Obligations.PowerFailure : Prop :=
  (∀ s : State, awake s = true →
    (s.pow.pfail = false → Answers .powerFail s fun t => t = startPfail s 1 ∧ t.pow.pfail = true ∧
      rd t Reg.PWR_PF_CNT 0 = min (rd s Reg.PWR_PF_CNT 0 + 1) (2 ^ 32 - 1) ∧ t.front.inflight = s.front.inflight) ∧
    (s.pow.pfail = true → Answers .pfailGraceEnd s fun t => t = closeDown s ∧ rd t Reg.PWR_STAT_PFHALT 0 = 1 ∧
      t.pow.pfail = false ∧ t.front.inflight = [] ∧ t.front.fetched = [] ∧ t.front.retired = [] ∧ t.mem.locks = []) ∧
    (∀ j stat late, j < 4 → tget (fun _ => false) s.pow.railWait j = true → bit stat 0 = true →
      Answers (.vrcStatPoll j stat late) s fun t => tget (fun _ => false) t.pow.railWait j = false ∧
        rd t Reg.PWR_VRC_STAT j = stat % 2 ^ 16 ∧ t.out = s.out ++ [.vrc (vrcFrame j 2 0)] ∧
        WordsKept s t [Reg.PWR_VRC_STAT.addr j]) ∧
    (∀ j stat, j < 4 → tget (fun _ => false) s.pow.railWait j = true → bit stat 0 = false → s.pow.alert = false →
      Answers (.vrcStatPoll j stat true) s fun t => tget (fun _ => false) t.pow.railWait j = false ∧
        rd t Reg.PWR_VRC_TO 0 = min (rd s Reg.PWR_VRC_TO 0 + 1) (2 ^ 32 - 1)) ∧
    (∀ stats : List Nat, s.pow.alert = false → rd s Reg.PWR_STAT_BRAKE 0 = 0 → Answers (.vrcAlert stats) s fun t =>
      rd t Reg.PWR_STAT_BRAKE 0 = 1 ∧ t.pow.alert = true ∧
      rd t Reg.PWR_VRC_ALERT 0 = min (rd s Reg.PWR_VRC_ALERT 0 + 1) (2 ^ 32 - 1) ∧
      ∀ j < 4, ∀ v, stats[j]? = some v → rd t Reg.PWR_VRC_STAT j = v % 2 ^ 16) ∧
    (s.pow.alert = true → Answers .vrcAlertRelease s fun t => t.pow.alert = false ∧
      (s.pow.pin = false → s.pow.hot = false → s.pow.pfBrake = false → rd s Reg.PWR_STAT_SLOPE 0 = 0 →
        rd t Reg.PWR_STAT_BRAKE 0 = 0))) ∧
  (∀ (s : State), Open s .host (Reg.PWR_CREC_ACK.addr 0) →
    let v := rd s Reg.PWR_CREC_PORT 0 + 2 ^ 3 * rd s Reg.PWR_CREC_SEG 0 + 2 ^ 24
    let u := stored .host (Reg.PWR_CREC_ACK.addr 0) v s
    exec .crecAck s = .next (fxCrecAck v u) ∧
    (∀ a, regionAt u = some a → Answers .crecAck s fun t =>
      (∀ k < 64, tget (fun _ => 0) t.mem.t3 (a + 0x249C0 + k) = 0) ∧
      (∀ b, b < a + 0x249C0 ∨ a + 0x24A00 ≤ b → tget (fun _ => 0) t.mem.t3 b = tget (fun _ => 0) s.mem.t3 b))) ∧
  (∀ (s : State) (keep : Nat), Answers (.powerLoss keep) s fun t => t.pow.off = true ∧ t.sec.flash = s.sec.flash ∧
    t.sec.fuses = s.sec.fuses ∧ t.mem.t2 = [] ∧ t.pending = s.pending ∧
    (∀ a, keep.testBit (a / 2 ^ 41) = true → tget (fun _ => 0) t.mem.t3 a = tget (fun _ => 0) s.mem.t3 a)) ∧
  (∀ s : State, Answers .railMonitorRelease s fun t => t.pow.off = false ∧ t = { s with pow := { s.pow with off := false } })

/-- STEP_PREPARED, CLOCK_SWITCH, STEP_RESUME, REFCLK_LOST, REFCLK_RESTORED and AO_CLOCK_SWITCH (R143, R391, R392, R394): a planned
step freezes the weave's islands at their next round boundary, their clocks change over together, and they restart
together, counted; the always-on clock leaves its own oscillator where the reference is stable. -/
def Obligations.ClockSteps : Prop :=
  ∀ (s : State) (bd n : Nat), bd < 32 → awake s = true →
    (∀ w nw f, runningOn s bd = [(bd, nw, w)] → planOf s bd nw = some f → (∀ k ∈ w.place, (isl s k).step = none) →
      (f ≤ curFreq s w.place ∨ railsBusy s w.place = false) → Answers (.stepPrepared bd n) s fun t =>
        (∀ k ∈ w.place, (isl t k).step = some f) ∧ (∀ k, k ∉ w.place → isl t k = isl s k) ∧ planOf t bd nw = none ∧
        rd t Reg.CLK_PREP_MAX 0 = max (rd s Reg.CLK_PREP_MAX 0) (min n (2 ^ 32 - 1)) ∧
        WordsKept s t [Reg.CLK_PREP_MAX.addr 0]) ∧
    (∀ w nw f, runningOn s bd = [(bd, nw, w)] → w.place.Nodup → w.place ≠ [] → (∀ k ∈ w.place, k < 32 ∧
        (isl s k).step = some f ∧ (isl s k).stepping = true ∧ inRounds s k = true ∧ f ≠ rd s Reg.CLK_FREQ_MHZ k / 100) →
      f ≤ 33 → Answers (.clockSwitch bd n) s fun t => (∀ k ∈ w.place, rd t Reg.CLK_FREQ_MHZ k = 100 * f) ∧
        rd t Reg.CLK_GAP_MAX 0 = max (rd s Reg.CLK_GAP_MAX 0) (min n (2 ^ 32 - 1)) ∧ t.fab = s.fab) ∧
    (∀ w nw, runningOn s bd = [(bd, nw, w)] → (∃ k ∈ w.place, inGap s k = true) →
      let u := eachOf w.place s fun u k => noteHold (setIsl u k { isl u k with step := none, stepping := false }) k
      exec (.stepResume bd) s = .next (followRails (planWeave (bump u Reg.CLK_STEP_CNT 0 1) (bd, nw, w)))) ∧
    (Answers .refclkLost s fun t => rd t Reg.CLK_REF_STAT_LOST 0 = 1 ∧ OnlyRegs s t ∧
      WordsKept s t [Reg.CLK_REF_STAT_LOST.addr 0]) ∧
    (s.sec.wait = false → Answers .refclkRestored s fun t => rd t Reg.CLK_REF_STAT_LOST 0 = 0 ∧ OnlyRegs s t ∧
      WordsKept s t [Reg.CLK_REF_STAT_LOST.addr 0]) ∧
    (s.sec.wait = true →
      let u := wr s Reg.CLK_REF_STAT_LOST 0 0
      exec .refclkRestored s = .next (nextStep (setSec u { u.sec with wait := false }) (rd s Reg.RST_BOOT_STAT_STEP 0 + 1))) ∧
    (rd s Reg.CLK_REF_STAT_LOST 0 = 0 → Answers .aoClockSwitch s fun t => rd t Reg.CLK_REF_STAT_AO_INT 0 = 0 ∧ OnlyRegs s t ∧
      WordsKept s t [Reg.CLK_REF_STAT_AO_INT.addr 0])

/-! ### Resets, boot, recovery -/

/-- Idle steps (R142, R166, R168, R254, R256, R406): with nothing waiting, a device that has power counts one microsecond,
which is the model's own reading of time (assumptions 41 and 89); one that runs fills its regulators' buckets, counts the
cycles of each frozen island in the counter of its cause, but for those a skip's end counts, adds to BSH_BANK a free number
(assumption 78), and the nanoseconds of each island at work, for its partition's ledger and standing; nothing else changes. -/
def Obligations.IdleStep : Prop :=
  ∀ s : State, s.pending = [] →
    (s.pow.off = true → step s = .next s) ∧
    (s.pow.off = false → awake s = false → step s = .next { s with now := s.now + 1 }) ∧
    (awake s = true → twf (fun _ => Island.idle) s.fab.isl = true → ∃ t, step s = .next t ∧ t.now = s.now + 1 ∧
      t = { s with
        now := t.now
        fv := t.fv
        regs := t.regs
        front := { s.front with bucket := t.front.bucket, inflight := t.front.inflight, vf := t.front.vf }
        fab := { s.fab with isl := t.fab.isl } } ∧
      (t.front.inflight.map fun c => { c with cost := 0 }) = (s.front.inflight.map fun c => { c with cost := 0 }) ∧
      (∀ n, isl t n = { isl s n with dead := (isl t n).dead }) ∧
      (∀ n < 32, inRounds s n = true → clockless s n = false → ∀ j < 11,
        let g := frzRegs.getD j Reg.ISL_FRZ_SCHED
        rd t g n = if frzPlace s n = j + 1 ∧ j ≠ 6 then min (rd s g n + rd s Reg.CLK_FREQ_MHZ n) (2 ^ 32 - 1) else rd s g n) ∧
      (∀ n < 32, ∀ w v, runOf s n = some (w, v) → v.released ≠ 0 → v.stopped = false → (isl s n).done = false →
        (isl s n).released = true →
        rd t Reg.ISL_WV_TIME_NS n = min (rd s Reg.ISL_WV_TIME_NS n + 1000) (2 ^ 32 - 1)) ∧
      ∀ p < 8, ∀ k < 3, bucket t p k =
        if regRate s p k = 0 ∨ (regBurst s p k * 1024 : Nat) ≤ bucket s p k then bucket s p k
        else min (regBurst s p k * 1024 : Nat) (bucket s p k + (regRate s p k * 1000 : Nat)))

/-- POWER_ON_RESET, WARM_RESET, SOFT_RESET and BOOT_STEP_DONE (R398 to R400, R406, R416, R455): a reset keeps flash, fuses and
expanders and starts at step 1, a warm one the counts too, a soft one the link; each boot step goes on, tries the other
slot or enters RECOVERY. -/
def Obligations.ResetsAndBoot : Prop :=
  (∀ (s : State) (straps : Nat) (rn ok : Bool), straps < 64 → Answers (.powerOnReset straps rn ok) s fun t =>
    rd t Reg.SKL0_DEV_DEVNUM 0 = straps ∧ rd t Reg.RST_BOOT_STAT_STRAP 0 = oneIf (!rn) ∧ rd t Reg.RST_MODE 0 = 1 ∧
    rd t Reg.RST_BOOT_STAT_STEP 0 = 1 ∧ rd t Reg.RST_CAUSE 0 = 1 ∧ t.now = 0 ∧ t.pow.off = !ok ∧
    t.sec.flash = s.sec.flash ∧ t.sec.fuses = s.sec.fuses ∧ t.mem.t3 = s.mem.t3 ∧ t.mem.t2 = [] ∧
    t.front.inflight = [] ∧ t.pending = s.pending) ∧
  (∀ s : State, s.pow.off = false → Answers .warmReset s fun t =>
    let halt := rd s Reg.PWR_STAT_PFHALT 0 = 1
    t = warmReset s ∧ (¬halt → rd t Reg.RST_CAUSE 0 = 2) ∧ (halt → bit (rd t Reg.RST_CAUSE 0) 3 = true) ∧
    rd t Reg.PWR_TRIP_CNT 0 = rd s Reg.PWR_TRIP_CNT 0 ∧ rd t Reg.RST_BOOT_CNT 0 = rd s Reg.RST_BOOT_CNT 0 ∧
    rd t Reg.SEC_UNLOCK_CNT 0 = rd s Reg.SEC_UNLOCK_CNT 0 ∧ rd t Reg.RST_MODE 0 = 1 ∧ rd t Reg.RST_BOOT_STAT_STEP 0 = 1 ∧
    rd t Reg.FUS_LINK_STAT_UP 0 = 0 ∧ t.sec.flash = s.sec.flash ∧ t.sec.fuses = s.sec.fuses ∧ t.mem.t3 = s.mem.t3 ∧
    t.mem.t2 = [] ∧ t.now = s.now ∧ t.front.inflight = []) ∧
  (∀ (s : State) (ag : Agent), Open s ag (Reg.RST_SOFT_KEY.addr 0) →
    let u := stored ag (Reg.RST_SOFT_KEY.addr 0) 0x534F4654 s
    Answers (.softReset ag 0x534F4654) s fun t => t = softReset u ∧ bit (rd t Reg.RST_CAUSE 0) 2 = true ∧
      rd t Reg.RST_MODE 0 = 1 ∧ t.sec.soft = true ∧
      (rd s Reg.PWR_STAT_PFHALT 0 = 0 → rd t Reg.FUS_LINK_STAT_UP 0 = rd s Reg.FUS_LINK_STAT_UP 0) ∧
      ∀ a < 3, rd t Reg.FUS_APT_BASE_LO a = rd s Reg.FUS_APT_BASE_LO a) ∧
  (∀ (s : State) (us : Nat) (rep : BootReport), awake s = true → rd s Reg.RST_MODE 0 = 1 → s.sec.wait = false →
    s.pow.pfail = false →
    let n := rd s Reg.RST_BOOT_STAT_STEP 0
    let u := wr s Reg.RST_STEP_US (n - 1) (min us (2 ^ 32 - 1))
    (n = 1 → bit (rd s Reg.RST_CAUSE 0) 0 = false → Answers (.bootStepDone us rep) s fun t =>
      rd t Reg.RST_BOOT_STAT_STEP 0 = 2 ∧ rd t Reg.RST_BOOT_CNT 0 = min (rd s Reg.RST_BOOT_CNT 0 + 1) (2 ^ 32 - 1)) ∧
    (n = 2 → exec (.bootStepDone us rep) s = .next (bootStep2 u)) ∧
    (n = 3 → exec (.bootStepDone us rep) s = .next (bootStep3 u)) ∧
    (n = 4 → exec (.bootStepDone us rep) s = .next (bootStep4 rep u)) ∧
    (n = 5 → exec (.bootStepDone us rep) s = .next (bootStep5 rep u)) ∧
    (n = 2 → pendingSlot (bootRec s.sec.flash) = none → Answers (.bootStepDone us rep) s fun t =>
      imageOk u 0 (imageOf u.sec.flash 0 (bootRec s.sec.flash).active) = true →
        rd t Reg.RST_BOOT_STAT_STEP 0 = 3 ∧ rd t Reg.RST_BOOT_STAT_SLOT 0 = (bootRec s.sec.flash).active % 2) ∧
    (n = 4 → rep.badStacks % 256 = 0 → rep.badIsles % 2 ^ 32 = 2 ^ 32 - 1 → Answers (.bootStepDone us rep) s fun t =>
      rd t Reg.RST_MODE 0 = 3 ∧ rd t Reg.RST_BOOT_STAT_CODE 0 = 0x20))

/-- ATTACH_GO, MODE_REQ, ISL_TEST_GO and ISL_TEST_DONE (R395 to R397, R401): good bases attach the device, which enters SERVICE;
a request for mode 0 or 2 takes effect while no binding holds a weave, and changes nothing otherwise; a test holds its island, and a failed one is suspect. -/
def Obligations.AttachAndModes : Prop :=
  (∀ (s : State) (b0 b1 b2 : Nat), awake s = true → rd s Reg.FUS_LINK_STAT_UP 0 = 1 → s.sec.att = 1 →
    basesOk [b0 % 2 ^ 64, b1 % 2 ^ 64, b2 % 2 ^ 64] = true → Answers (.attachGo b0 b1 b2) s fun t =>
      rd t Reg.RST_MODE 0 = 0 ∧ rd t Reg.RST_BOOT_STAT_DONE 0 = 1 ∧ t.sec.att = 2 ∧
      rd2 t Reg.FUS_APT_BASE_LO Reg.FUS_APT_BASE_HI 0 = b0 % 2 ^ 64 ∧
      rd2 t Reg.FUS_APT_BASE_LO Reg.FUS_APT_BASE_HI 1 = b1 % 2 ^ 64 ∧
      rd2 t Reg.FUS_APT_BASE_LO Reg.FUS_APT_BASE_HI 2 = b2 % 2 ^ 64) ∧
  (∀ (s : State) (ag : Agent) (v : Nat),
    (Open s ag (Reg.RST_CTRL_MODE_REQ.addr 0) → (∀ b < 32, rd s Reg.WVE_BIND_STATE b = 0) → (v % 4 = 0 ∨ v % 4 = 2) →
      (rd s Reg.RST_MODE 0 = 0 ∨ rd s Reg.RST_MODE 0 = 2) → Answers (.modeReq ag v) s fun t => rd t Reg.RST_MODE 0 = v % 4) ∧
    (Open s ag (Reg.RST_CTRL_MODE_REQ.addr 0) →
      ((∃ b < 32, rd s Reg.WVE_BIND_STATE b ≠ 0) ∨ v % 4 = 1 ∨ v % 4 = 3 ∨ rd s Reg.RST_MODE 0 = 1 ∨ rd s Reg.RST_MODE 0 = 3) →
      Answers (.modeReq ag v) s fun t => rd t Reg.RST_MODE 0 = rd s Reg.RST_MODE 0 ∧
        t = stored ag (Reg.RST_CTRL_MODE_REQ.addr 0) (v % 2 ^ 32) s) ∧
    (Open s ag (Reg.RST_ISL_TEST_ISL.addr 0) → bit v 5 = true → (isl s (v % 32)).bind = none →
      rdBit s Reg.RST_TEST_HOLD 0 (v % 32) = false → Answers (.islTestGo ag v) s fun t =>
        rdBit t Reg.RST_TEST_HOLD 0 (v % 32) = true ∧ rd t Reg.RST_ISL_TEST_STAT_ISL 0 = v % 32 ∧
        rd t Reg.RST_ISL_TEST_STAT_BUSY 0 = 1)) ∧
  (∀ (s : State) (k : Nat) (pass : Bool), k < 32 → awake s = true → rdBit s Reg.RST_TEST_HOLD 0 k = true →
    Answers (.islTestDone k pass) s fun t => rdBit t Reg.RST_TEST_HOLD 0 k = false ∧
      (pass = false → rd t Reg.ISL_STK_HEALTH_SUSPECT k = 1) ∧
      (pass = true → rd t Reg.ISL_STK_HEALTH_SUSPECT k = rd s Reg.ISL_STK_HEALTH_SUSPECT k) ∧
      (rd s Reg.RST_ISL_TEST_STAT_ISL 0 = k → rd t Reg.RST_ISL_TEST_STAT_BUSY 0 = 0 ∧
        rd t Reg.RST_ISL_TEST_STAT_PASS 0 = oneIf pass ∧ rd t Reg.RST_ISL_TEST_STAT_FAIL 0 = oneIf (!pass)) ∧
      OnlyRegs s t)

/-- The recovery protocol, the I3C target and the test port (R402, R403, R451): in RECOVERY a session opens, takes its bytes in
order, and writes a signed image to the slot it makes PENDING with three tries; outside RECOVERY nothing happens. -/
def Obligations.Recovery : Prop :=
  (∀ (s : State) (i3c : Bool) (seq kind n off : Nat) (data : List Nat), awake s = true → rd s Reg.RST_MODE 0 = 3 →
    (i3c = false → rd s Reg.FUS_LINK_STAT_UP 0 = 1) → rcvOther s i3c = false →
    let r := bootRec s.sec.flash
    let u := rcvAnswer s i3c seq 0x10 0
    (exec (.rcvInfo i3c seq) s = .next (fresh (rcvSend u i3c seq
      (padTo 24 (leBytes 4 (freeNat s) ++ [rd s Reg.RST_BOOT_STAT_CODE 0, r.s0, r.s1]))))) ∧
    (kind ≤ 1 → n ≤ 2 ^ 23 → n ≤ imageLimit kind → Answers (.rcvBegin i3c seq kind n) s fun t =>
      t.sec.rcv = some (kind, n, []) ∧ rd t Reg.RST_RCV_STAT_SESSION 0 = 1 ∧ rd t Reg.RST_RCV_STAT_I3C 0 = oneIf i3c ∧
      rd t Reg.RST_RCV_BYTES 0 = 0) ∧
    (∀ k m buf, s.sec.rcv = some (k, m, buf) → off = buf.length → buf.length + data.length ≤ 2 ^ 23 →
      Answers (.rcvData i3c seq off data) s fun t =>
        t.sec.rcv = some (k, m, buf ++ (data.take 244).map (· % 256)) ∧
        rd t Reg.RST_RCV_BYTES 0 = buf.length + min 244 data.length) ∧
    (∀ k m buf, s.sec.rcv = some (k, m, buf) → m ≤ buf.length →
      exec (.rcvEnd i3c seq true) s = .next (
        let x := setFlash s (putImage s.sec.flash k (rcvSlot r) buf)
        if imageSigned buf then rcvAnswer (putBoot x { setSlotState r (rcvSlot r) 2 with tries := 3 }) i3c seq 0x13 0
        else rcvAnswer s i3c seq 0x13 3)) ∧
    (exec (.rcvBoot i3c seq) s = .next (warmReset (rcvAnswer s i3c seq 0x14 0)))) ∧
  (∀ (s : State) (i3c : Bool) (seq kind n : Nat), rd s Reg.RST_MODE 0 ≠ 3 →
    exec (.rcvInfo i3c seq) s = .next s ∧ exec (.rcvBegin i3c seq kind n) s = .next s ∧ exec (.rcvBoot i3c seq) s = .next s) ∧
  (∀ (s : State) (a : Nat), a < 128 → s.pow.off = false → Answers (.i3cDynamicAddressAssign a) s fun t =>
    t = { s with sec := { s.sec with i3c := some a } }) ∧
  (∀ s : State, s.pow.off = false →
    (Answers (.testPortInstruction .idcode) s fun t => t.out = s.out ++ [.tdo 0x1C09A8B3] ∧ t.sec.jtag = .idcode) ∧
    (Answers (.testPortInstruction .bypass) s fun t => t.out = s.out ++ [.tdo 0] ∧ t.sec.jtag = .bypass) ∧
    (∀ k, Answers (.testPortInstruction (.other k)) s fun t => t.sec.jtag = .bypass))

/-! ### Attestation, firmware, settings -/

/-- The attestation messages (R408 to R411, R425): each is answered while the responder is served, a response and its interrupt
for each; signed answers count in `SIGN_CNT`; the EID and the version named stand; where it is not served nothing happens. -/
def Obligations.Attestation : Prop :=
  (∀ (s : State) (eid ver slot off len sel nonce : Nat), attests s = true →
    let chain := certChain s
    let signed (l : List Nat) : List Nat := sign s (leBytes 32 nonce ++ packNums 32 l)
    let counted : State := fresh (bump s Reg.SEC_SIGN_CNT 0 1)
    let ms := ((List.range 6).filter fun i => sel == 0xFF || sel == i + 1).map fun i => (i + 1, meas s i)
    exec (.setEndpointId eid) s = .next (reply (wr s Reg.SEC_SPDM_EID 0 eid) (.eidSet (eid % 256)) 0) ∧
    exec .getEndpointId s = .next (reply s (.eid (rd s Reg.SEC_SPDM_EID 0)) 0) ∧
    exec .getMctpVersionSupport s = .next (reply s (.mctpVersions [0x13]) 0) ∧
    exec .getMessageTypeSupport s = .next (reply s (.msgTypes [0x00, 0x05]) 0) ∧
    exec .getVersion s = .next (reply s (.versions [0x12, 0x13]) 0) ∧
    (ver = 0x12 ∨ ver = 0x13 →
      exec (.getCapabilities ver) s = .next (reply (wr s Reg.SEC_SPDM_VER 0 ver) (.capabilities ver) 0)) ∧
    exec .negotiateAlgorithms s = .next (reply s .algorithms 0) ∧
    exec .getDigests s = .next (reply s (.digests (Config.sha384 chain)) 48) ∧
    exec (.getCertificate 0 off len) s = .next (reply s (.certificate (cut chain off len)) (cut chain off len).length) ∧
    (slot ≠ 0 → exec (.getCertificate slot off len) s = .next (reply s (.unsupported slot) 0)) ∧
    exec (.challenge nonce) s = .next (reply counted (.challenge nonce (allMeas s) (signed (allMeas s))) (32 + 3309)) ∧
    (sel = 0xFF ∨ sel ≤ 6 →
      exec (.getMeasurements sel true nonce) s = .next (reply counted (.measurements ms nonce (signed (ms.map Prod.snd)))
        (32 * ms.length + 32 + 3309)) ∧
      exec (.getMeasurements sel false nonce) s = .next (reply s (.measurements ms nonce []) (32 * ms.length + 32))) ∧
    exec .unsupportedRequest s = .next (reply s (.unsupported 0) 0)) ∧
  (∀ (s : State) (x : Reply) (n : Nat), .reply x ∈ (reply s x n).out ∧ (reply s x n).sec = s.sec ∧
    rdBit (reply s x n) Reg.HDR_INT_STAT 0x0C 0 = true) ∧
  (∀ (s : State) (nonce : Nat), attests s = true → Answers (.challenge nonce) s fun t =>
    rd t Reg.SEC_SIGN_CNT 0 = min (rd s Reg.SEC_SIGN_CNT 0 + 1) (2 ^ 32 - 1)) ∧
  (∀ (s : State) (nonce : Nat), attests s = false → exec (.challenge nonce) s = .next s)

/-- Firmware update (R412, R416 to R419, R423, R426): each write of `FWU.CMD` starts its operation; a busy unit ends it
with code 1; an operation that is done shows its code and interrupts, an APPLY that went well leaves the other slot
PENDING; no operation writes an image of the slot that runs. SETTINGS_SET and SETTINGS_MIRROR (R420 to R422): a
setting the firmware knows, in the FORMAT it reads and in range, is applied and written to the store's other copy; the
answer says why one is not, and the store then stands. -/
def Obligations.FirmwareAndSettings : Prop :=
  ((∀ (s : State) (ag : Agent) (l : List Nat) (b : Bool), Open s ag (Reg.FWU_CMD_OP.addr 0) →
    let put (w : Nat) : State := stored ag (Reg.FWU_CMD_OP.addr 0) w s
    exec (.apply ag l b) s = .next (fxApply l b (put 1)) ∧ exec (.confirm ag b) s = .next (fxConfirm b (put (2 + 8 * oneIf b))) ∧
    exec (.revert ag) s = .next (fxRevert (put 3)) ∧ exec (.abort ag) s = .next (fxAbort (put 4)) ∧
    exec (.keylist ag l) s = .next (fxKeylist l (put 5)) ∧ exec (.owner ag l) s = .next (fxOwner l (put 6)) ∧
    exec (.debug ag l) s = .next (fxDebug l (put 7))) ∧
  (∀ (s : State) (l : List Nat) (b : Bool), rd s Reg.FWU_STAT_BUSY 0 = 0 → rimRuns s = true → rd s Reg.RST_MODE 0 ≠ 3 →
    (rd (fxApply l b s) Reg.FWU_STAT_BUSY 0 = 1 ∧ (fxApply l b s).sec.op = some (applyGo l b s).2) ∧
    (runsPending s = false → (fxConfirm b s).sec.op = some ⟨2, 7, 0, []⟩ ∧ (fxRevert s).sec.op = some ⟨3, 7, 0, []⟩) ∧
    (s.sec.fuses.owner ≠ 0 → (fxOwner l s).sec.op = some ⟨6, 0xA, 0, []⟩ ∧ (fxOwner l s).sec.fuses = s.sec.fuses) ∧
    (s.sec.fuses.debugEn = true → l.length < 5261 → (fxDebug l s).sec.op = some ⟨7, 0xB, 0, []⟩)) ∧
  (∀ (s : State) (l : List Nat) (b : Bool), rd s Reg.FWU_STAT_BUSY 0 = 1 →
    fxApply l b s = wr s Reg.FWU_STAT_CODE 0 1 ∧ fxConfirm b s = wr s Reg.FWU_STAT_CODE 0 1 ∧
    fxRevert s = wr s Reg.FWU_STAT_CODE 0 1) ∧
  (∀ (s : State) (o : FwuOp), s.sec.op = some o → o.op = 1 →
    (fxAbort s).sec.op = none ∧ rd (fxAbort s) Reg.FWU_STAT_BUSY 0 = 0 ∧ (fxAbort s).sec.flash = s.sec.flash) ∧
  (∀ (s : State) (us : Nat) (o : FwuOp), awake s = true → s.sec.op = some o → o.code < 256 →
    (o.op ≠ 3 ∨ o.code ≠ 0) → Answers (.fwuOpDone us) s fun t => t.sec.op = none ∧ rd t Reg.FWU_STAT_BUSY 0 = 0 ∧
      rd t Reg.FWU_STAT_CODE 0 = o.code ∧ (o.op = 1 → rd t Reg.FWU_APPLY_US 0 = min us (2 ^ 32 - 1)) ∧
      (o.op = 1 → o.code = 0 → s.sec.flash.boot.length = 2 →
        slotState (bootRec t.sec.flash) (1 - runSlot s) = 2 ∧ (bootRec t.sec.flash).tries = 3) ∧
      rdBit t Reg.HDR_INT_STAT 0x0D 0 = true) ∧
  (∀ (s : State) (l : List Nat) (b : Bool) (kind : Nat), kind < 2 →
    imageOf (fxApply l b s).sec.flash kind (runSlot s) = imageOf s.sec.flash kind (runSlot s) ∧
    imageOf (fxConfirm b s).sec.flash kind (runSlot s) = imageOf s.sec.flash kind (runSlot s) ∧
    imageOf (fxRevert s).sec.flash kind (runSlot s) = imageOf s.sec.flash kind (runSlot s))) ∧
  (∀ (s : State) (id fmt : Nat) (val : List Nat) (ok : Bool), attests s = true →
    let answer (u : State) (st : Nat) : State := fresh (sendMail u 2 (freeNat u) [0xA0, st])
    (id ∈ settingIds → fmt = readFormat s id → valueOk s id fmt val = true →
      let u := if id = 0x10 then s else applyValue s id fmt val
      exec (.settingsSet id fmt val true) s = .next
        (answer (writeStore u (withValue u id fun f => if f = fmt then val else regValue u id f)) 0)) ∧
    (id ∉ settingIds → exec (.settingsSet id fmt val ok) s = .next (answer s 1)) ∧
    (id ∈ settingIds → fmt ≠ readFormat s id → exec (.settingsSet id fmt val ok) s = .next (answer s 2)) ∧
    (id ∈ settingIds → fmt = readFormat s id → valueOk s id fmt val = false →
      exec (.settingsSet id fmt val ok) s = .next (answer s 3)) ∧
    (id ∈ settingIds → fmt = readFormat s id → valueOk s id fmt val = true →
      exec (.settingsSet id fmt val false) s = .next (answer s 4)) ∧
    (id ∈ settingIds → id ≠ 0x10 → exec (.settingsMirror id) s = .next (writeStore s (withValue s id fun f => regValue s id f))) ∧
    (∀ l, s.sec.flash.store.length = 2 → (storeNow (writeStore s l).sec.flash).recs = l ∧
      (∀ k, storeLive s.sec.flash = some k → storeCopy (writeStore s l).sec.flash k = storeCopy s.sec.flash k)))

/-! ### Registers, locks, holds, the census -/

/-- REGISTER_WRITE, RC_READ, LO_READ and UNMAPPED_ACCESS (R6, R7, R428, R429, R431, R435, R436): a write a page serves takes each
field by its access code and does its register's action; one that a lock shuts out changes no field and is counted; a read
gives the register and clears its RC fields; a read of a pair's low half latches the high one for the agent, its next read of
the page gives the latched value there or drops the latch, and a read of 8 bytes needs none; an index without a page reads
zero and is counted. -/
def Obligations.RegisterAccess : Prop :=
  (∀ (s : State) (ag : Agent) (a v : Nat), a < 2 ^ 26 → a % 4 = 0 → a % 0x1000 < 0xF00 → Open s ag a →
    exec (.registerWrite ag a 4 v) s = .next (fxOf s a (v % 2 ^ 32) (stored ag a (v % 2 ^ 32) s))) ∧
  (∀ (s : State) (ag : Agent) (a v : Nat), a < 2 ^ 26 → a % 4 = 0 → a % 0x1000 < 0xF00 → reach s ag (a / 0x1000) = .open_ →
    pageExists (a / 0x1000) = true → lockedOut s ag a = true → Answers (.registerWrite ag a 4 v) s fun t =>
      t = refused s (a / 0x1000) ∧ rd t Reg.HDR_ERR_SUM_LOCK_WR (a / 0x1000) = 1) ∧
  (∀ (s : State) (ag : Agent) (a : Nat), a < 2 ^ 26 → a % 4 = 0 → cutOff s ag = false → reach s ag (a / 0x1000) = .open_ →
    pageExists (a / 0x1000) = true →
    ((∀ f ∈ pairLo, f.hits a = false) → tget (fun _ => none) s.lat (latchKey ag (a / 0x1000)) = none →
      Answers (.rcRead ag a 4) s fun t => t = { clearRc s a with rdata := (regView s a).toNat }) ∧
    ((∃ f ∈ pairLo, f.hits a = true) → Answers (.loRead ag a) s fun t => t.rdata = (regView s a).toNat ∧
      tget (fun _ => none) t.lat (latchKey ag (a / 0x1000)) = some (a + 4, (regView s (a + 4)).toNat) ∧
      t = { clearRc s a with rdata := t.rdata, lat := t.lat }) ∧
    (∀ h v, tget (fun _ => none) s.lat (latchKey ag (a / 0x1000)) = some (h, v) → (∀ f ∈ pairLo, f.hits a = false) →
      Answers (.rcRead ag a 4) s fun t => t.rdata = (if h = a then v else (regView s a).toNat) ∧
        tget (fun _ => none) t.lat (latchKey ag (a / 0x1000)) = none ∧
        (∀ k, k ≠ latchKey ag (a / 0x1000) → tget (fun _ => none) t.lat k = tget (fun _ => none) s.lat k)) ∧
    (a % 8 = 0 → ag ≠ .board → Answers (.rcRead ag a 8) s fun t =>
      t.rdata = (regView s a).toNat + 2 ^ 32 * (regView s (a + 4)).toNat ∧
      tget (fun _ => none) t.lat (latchKey ag (a / 0x1000)) = none) ∧
    (∀ f ∈ fieldsAt a, f.acc = .rc → getF f.lo f.w (rw (clearRc s a) a) = 0) ∧
    (∀ b, b ≠ a → rw (clearRc s a) b = rw s b)) ∧
  (∀ (s : State) (ag : Agent) (a : Nat), a < 2 ^ 26 → pageExists (a / 0x1000) = false → cutOff s ag = false →
    rd s Reg.PWR_STAT_PFHALT 0 = 0 → a % 4 = 0 →
    (Answers (.unmappedAccess ag a false) s fun t => t.rdata = 0 ∧
      rd t Reg.CEN_UNMAPPED 0 = min (rd s Reg.CEN_UNMAPPED 0 + 1) (2 ^ 32 - 1) ∧ WordsKept s t [Reg.CEN_UNMAPPED.addr 0]) ∧
    (Answers (.unmappedAccess ag a true) s fun t => OnlyRegs s t ∧
      rd t Reg.CEN_UNMAPPED 0 = min (rd s Reg.CEN_UNMAPPED 0 + 1) (2 ^ 32 - 1) ∧ WordsKept s t [Reg.CEN_UNMAPPED.addr 0]))

/-- LOCK_ACQ, LOCK_REL, LOCK_SEAL, HOLD_WRITE and HOLD_ACK (R435, R436, R442): a free lock is taken, a held one of another agent
is refused and counted, its holder gives it back; a seal stands on a page that takes one; a hold is acknowledged when its
engine has no command in progress, and released at once. -/
def Obligations.LocksAndHolds : Prop :=
  (∀ (s : State) (ag : Agent) (p : Nat), pageExists p = true → reach s ag p = .open_ →
    (rd s Reg.HDR_LOCK_SEALED p = 0 →
      (rd s Reg.HDR_LOCK_HELD p = 0 → Answers (.lockAcq ag p) s fun t => rd t Reg.HDR_LOCK_HELD p = 1 ∧
        rd t Reg.HDR_LOCK_HOLDER p = ag.code ∧ rd t Reg.HDR_STATUS_LOCKED p = 1) ∧
      (rd s Reg.HDR_LOCK_HELD p = 1 → rd s Reg.HDR_LOCK_HOLDER p ≠ ag.code → Answers (.lockAcq ag p) s fun t =>
        rd t Reg.HDR_LOCK_HOLDER p = rd s Reg.HDR_LOCK_HOLDER p ∧ rd t Reg.HDR_ERR_SUM_LOCK_WR p = 1 ∧
        rd t Reg.HDR_LOCK_REFUSED p = min (rd s Reg.HDR_LOCK_REFUSED p + 1) (2 ^ Reg.HDR_LOCK_REFUSED.w - 1)) ∧
      (rd s Reg.HDR_LOCK_HELD p = 1 → rd s Reg.HDR_LOCK_HOLDER p = ag.code → Answers (.lockRel ag p) s fun t =>
        rd t Reg.HDR_LOCK_HELD p = 0 ∧ rd t Reg.HDR_STATUS_LOCKED p = 0) ∧
      (sealable p = true → Answers (.lockSeal ag p) s fun t => rd t Reg.HDR_LOCK_SEALED p = 1 ∧
        rd t Reg.HDR_STATUS_SEALED p = 1) ∧
      (sealable p = false → Answers (.lockSeal ag p) s fun t => rd t Reg.HDR_LOCK_SEALED p = 0))) ∧
  (∀ (s : State) (ag : Agent) (v : Nat), Open s ag (Reg.CEN_HOLD.addr 0) → Answers (.holdWrite ag v) s fun t =>
    rd t Reg.CEN_HOLD 0 = v % 2 ^ 6 ∧ OnlyRegs s t ∧
    ∀ k < 6, rdBit t Reg.CEN_HOLD_ACK 0 k = (rdBit s Reg.CEN_HOLD_ACK 0 k && bit v k)) ∧
  (∀ (s : State) (k : Nat), k < 6 → awake s = true → rdBit s Reg.CEN_HOLD 0 k = true → rdBit s Reg.CEN_HOLD_ACK 0 k = false →
    (engineAtEnd s k = true → Answers (.holdAck k) s fun t => rdBit t Reg.CEN_HOLD_ACK 0 k = true ∧
      rd t Reg.HDR_STATUS_HELD (holdPage k) = 1 ∧ OnlyRegs s t) ∧
    (engineAtEnd s k = false → exec (.holdAck k) s = .next s))

/-- PMASK_WRITE, HSET_WRITE, LCLR, RCLR, STK_FCLR, BSH_FCLR and FAB_FCLR (R90, R122, R152, R177, R180, R231, R237): an island of a
mask that a weave occupies stays, one in another partition's mask is not taken; the record registers a clear names read
zero. -/
def Obligations.MasksAndClears : Prop :=
  (∀ (s : State) (ag : Agent) (p v : Nat), p < 8 →
    (Open s ag (Reg.WVE_PMASK.addr p) →
      exec (.pmaskWrite ag p v) s = .next (fxPmask p s (stored ag (Reg.WVE_PMASK.addr p) (v % 2 ^ 32) s)) ∧
      Answers (.pmaskWrite ag p v) s fun t => ∀ k < 32, rdBit t Reg.WVE_PMASK p k =
        if rdBit s Reg.WVE_PMASK p k then bit v k || (isl s k).bind.isSome
        else bit v k && !((List.range 8).any fun q => q != p && rdBit s Reg.WVE_PMASK q k)) ∧
    (Open s ag (Reg.WVE_HSET.addr p) →
      exec (.hsetWrite ag p v) s = .next (fxHset p s (stored ag (Reg.WVE_HSET.addr p) (v % 2 ^ 32) s)) ∧
      Answers (.hsetWrite ag p v) s fun t => ∀ k < 32,
        (rdBit s Reg.WVE_HSET p k = true → hotOn s k = true → rdBit t Reg.WVE_HSET p k = true) ∧
        (rdBit s Reg.WVE_HSET p k = false → rdBit t Reg.WVE_HSET p k = true → bit v k = true ∧ rdBit s Reg.WVE_PMASK p k = true))) ∧
  (∀ (s : State) (ag : Agent) (n : Nat), n < 32 →
    (Open s ag (Reg.WVE_FLT_CTRL_LCLR.addr 0) →
      (Answers (.lclr ag) s fun t => rd t Reg.WVE_LOAD_FAULT_VALID 0 = 0 ∧ OnlyRegs s t ∧
        (∀ a ∈ [0x2120, 0x2124, 0x2128, 0x212C], rw t a = 0)) ∧
      (Answers (.rclr ag) s fun t => rd t Reg.WVE_RUN_FAULT_VALID 0 = 0 ∧ OnlyRegs s t ∧
        (∀ a ∈ [0x2130, 0x2134], rw t a = 0))) ∧
    (Open s ag (Reg.ISL_STK_HEALTH_FCLR.addr n) → Answers (.stkFclr ag n) s fun t =>
      rw t (Reg.ISL_STK_FAULT_STAKE.addr n) = 0 ∧ rw t (Reg.ISL_STK_FAULT_M.addr n) = 0 ∧ OnlyRegs s t) ∧
    (Open s ag (Reg.ISL_BSH_CTRL_FCLR.addr n) → Answers (.bshFclr ag n) s fun t =>
      rw t (Reg.ISL_BSH_FAULT_BUSHEL.addr n) = 0 ∧ rw t (Reg.ISL_BSH_FAULT_A_ADDR.addr n) = 0 ∧ OnlyRegs s t) ∧
    (Open s ag (Reg.ISL_FAB_CTRL_FCLR.addr n) → Answers (.fabFclr ag n) s fun t =>
      rw t (Reg.ISL_FAB_FAULT_POS.addr n) = 0 ∧ rw t (Reg.ISL_FAB_FAULT_T_INFO.addr n) = 0 ∧ OnlyRegs s t))

/-- COPY_GO, CENSUS_COPY_DONE, RIM_BEAT, RIM_WATCHDOG and RIM_RESTART_COMPLETE (R438, R439, R445): a copy takes its object's bytes
at once, or the code it will end with; its end shows code and bytes; the firmware beats while it runs, stops with a fault
and the program counter recorded, and runs again. -/
def Obligations.CensusAndRim : Prop :=
  (∀ s : State, Open s .host (Reg.CEN_COPY_GO.addr 0) →
    let u := stored .host (Reg.CEN_COPY_GO.addr 0) 1 s
    exec .copyGo s = .next (fxCopyGo 1 u) ∧
    (rd s Reg.CEN_COPY_STAT_BUSY 0 = 0 → Answers .copyGo s fun t =>
      let obj := census u (rd s Reg.CEN_COPY_OBJ_OBJ 0) (rd s Reg.CEN_COPY_OBJ_PART 0) (rd s Reg.CEN_COPY_OBJ_INDEX 0)
        (rd2 s Reg.CEN_COPY_SEL_LO Reg.CEN_COPY_SEL_HI 0)
      rd t Reg.CEN_COPY_STAT_BUSY 0 = 1 ∧ rd t Reg.CEN_COPY_STAT_CODE 0 = 1 ∧ rd t Reg.CEN_COPY_TIME 0 = s.now % 2 ^ 32 ∧
      (∀ k, obj = .inr k → ∃ j, t.hst.copy = some j ∧ j.code = k ∧ j.bytes = []) ∧
      (∀ l, obj = .inl l → rd s Reg.CEN_COPY_LEN 0 < l.length → ∃ j, t.hst.copy = some j ∧ j.code = 3 ∧ j.need = l.length) ∧
      (∀ l, obj = .inl l → l.length ≤ rd s Reg.CEN_COPY_LEN 0 → ∃ j, t.hst.copy = some j ∧ j.code = 0 ∧ j.bytes = l)) ∧
    (rd s Reg.CEN_COPY_STAT_BUSY 0 = 1 → exec .copyGo s = .next u)) ∧
  (∀ (s : State) (n : Nat) (j : CopyJob), awake s = true → s.hst.copy = some j →
    (j.code = 0 → n = j.bytes.length → n < 2 ^ 32 → rd s Reg.FUS_LINK_STAT_UP 0 = 1 → Answers (.censusCopyDone n) s fun t =>
      rd t Reg.CEN_COPY_STAT_BUSY 0 = 0 ∧ rd t Reg.CEN_COPY_STAT_CODE 0 = 0 ∧ rd t Reg.CEN_COPY_BYTES 0 = n ∧
      t.hst.copy = none ∧ (n ≠ 0 → t.out = s.out ++ [.write j.dst n (leNum j.bytes)])) ∧
    (j.code ≠ 0 → j.code < 16 → Answers (.censusCopyDone n) s fun t => rd t Reg.CEN_COPY_STAT_BUSY 0 = 0 ∧
      rd t Reg.CEN_COPY_STAT_CODE 0 = j.code ∧ t.out = s.out ∧ t.hst.copy = none)) ∧
  (∀ s : State, awake s = true →
    (rimRuns s = true → Answers .rimBeat s fun t => rd t Reg.RIM_BEAT 0 = (rd s Reg.RIM_BEAT 0 + 1) % 2 ^ 32 ∧
      OnlyRegs s t ∧ WordsKept s t [Reg.RIM_BEAT.addr 0]) ∧
    (∀ pc, rimRuns s = true → Answers (.rimWatchdog pc) s fun t => rimRuns t = false ∧ rd t Reg.RIM_STAT_FAULT 0 = 1 ∧
      rd2 t Reg.RIM_FAULT_PC_LO Reg.RIM_FAULT_PC_HI 0 = pc % 2 ^ 64 ∧
      rd t Reg.RIM_RESTARTS 0 = min (rd s Reg.RIM_RESTARTS 0 + 1) (2 ^ 32 - 1)) ∧
    (rimRuns s = false → rd s Reg.RIM_RESTARTS 0 ≠ 0 → Answers .rimRestartComplete s fun t => rimRuns t = true ∧
      t = takeMail (wr (wr s Reg.RIM_STAT_RUN0 0 1) Reg.RIM_STAT_RUN1 0 1)))
end

