-- ==== Sys2Proof/Laws/Bits.lean ====
section
/-! SUPPORT. Register fields: what a field write does to the fields of the word. -/

namespace Sys2Proof.Machine

theorem getLsbD_maskF (lo w i : Nat) :
    (maskF lo w).getLsbD i = (decide (i < 32) && decide (lo ≤ i) && decide (i < lo + w)) := by
  simp only [maskF, BitVec.getLsbD_shiftLeft, BitVec.getLsbD_ofNat, Nat.testBit_two_pow_sub_one]
  by_cases h1 : i < 32 <;> by_cases h2 : lo ≤ i <;> by_cases h3 : i < lo + w <;> simp [h1, h2, h3] <;> omega

theorem getLsbD_setF (lo w v : Nat) (x : Word) (i : Nat) (hi : i < 32) :
    (setF lo w v x).getLsbD i = if lo ≤ i ∧ i < lo + w then v.testBit (i - lo) else x.getLsbD i := by
  simp only [setF, BitVec.getLsbD_or, BitVec.getLsbD_and, BitVec.getLsbD_not, getLsbD_maskF,
    BitVec.getLsbD_shiftLeft, BitVec.getLsbD_ofNat, Nat.testBit_mod_two_pow]
  by_cases h2 : lo ≤ i
  · by_cases h3 : i < lo + w
    · simp [hi, h2, h3, show i - lo < w by omega, show ¬ (i < lo) by omega, show i - lo < 32 by omega]
    · simp [hi, h2, h3, show ¬ (i - lo < w) by omega]
  · simp [hi, h2]

/-- A field holds what was put into it, cut to its width. -/
theorem getF_setF_same (lo w v : Nat) (x : Word) (h : lo + w ≤ 32) : getF lo w (setF lo w v x) = v % 2 ^ w := by
  apply Nat.eq_of_testBit_eq
  intro i
  simp only [getF, BitVec.testBit_toNat, BitVec.getLsbD_extractLsb', Nat.testBit_mod_two_pow]
  by_cases hi : i < w
  · rw [getLsbD_setF _ _ _ _ _ (by omega)]
    have a : lo ≤ lo + i ∧ lo + i < lo + w := by omega
    simp only [hi, a, and_self, if_true, decide_true, Bool.true_and, Nat.add_sub_cancel_left]
  · simp [hi]

/-- A field keeps its value when another is written. -/
theorem getF_setF_other (lo w v lo' w' : Nat) (x : Word) (h : lo' + w' ≤ 32) (d : lo' + w' ≤ lo ∨ lo + w ≤ lo') :
    getF lo' w' (setF lo w v x) = getF lo' w' x := by
  apply Nat.eq_of_testBit_eq
  intro i
  simp only [getF, BitVec.testBit_toNat, BitVec.getLsbD_extractLsb']
  by_cases hi : i < w'
  · rw [getLsbD_setF _ _ _ _ _ (by omega), if_neg (by omega)]
  · simp [hi]

theorem getF_lt (lo w : Nat) (x : Word) : getF lo w x < 2 ^ w := (x.extractLsb' lo w).isLt

end Sys2Proof.Machine
end

