-- ==== Sys2Proof/Laws/Tbl.lean ====
section
/-! SUPPORT. Sparse tables: what a write does to a read, and the canonical form every write keeps. -/

namespace Sys2Proof.Machine

variable {α : Type}

@[simp] theorem tget_nil (d : Nat → α) (k : Nat) : tget d [] k = d k := rfl

theorem tget_tput_same (d : Nat → α) (t : Tbl α) (k : Nat) (v : α) : tget d (tput k v t) k = v := by
  induction t with
  | nil => simp [tput, tget]
  | cons e t ih =>
    obtain ⟨j, w⟩ := e
    simp only [tput]
    split
    · simp [tget]
    · split
      · simp [tget]
      · rename_i h1 h2
        simp only [tget, if_neg (fun h : j = k => h2 h.symm), ih]

theorem tget_tput_ne (d : Nat → α) (t : Tbl α) {j k : Nat} (v : α) (h : j ≠ k) :
    tget d (tput k v t) j = tget d t j := by
  induction t with
  | nil => simp [tput, tget, Ne.symm h]
  | cons e t ih =>
    obtain ⟨i, w⟩ := e
    simp only [tput]
    split
    · simp [tget, Ne.symm h]
    · split
      · subst_vars; simp [tget, Ne.symm h]
      · simp only [tget, ih]

theorem tget_tdel_same (d : Nat → α) (t : Tbl α) (k : Nat) : tget d (tdel k t) k = d k := by
  induction t with
  | nil => rfl
  | cons e t ih =>
    obtain ⟨i, w⟩ := e
    simp only [tdel, List.filter_cons] at *
    split
    · rename_i h
      simp only [decide_eq_true_eq] at h
      simp only [tget, if_neg h, ih]
    · exact ih

theorem tget_tdel_ne (d : Nat → α) (t : Tbl α) {j k : Nat} (h : j ≠ k) : tget d (tdel k t) j = tget d t j := by
  induction t with
  | nil => rfl
  | cons e t ih =>
    obtain ⟨i, w⟩ := e
    simp only [tdel, List.filter_cons] at *
    split
    · simp only [tget, ih]
    · rename_i h'
      simp only [decide_eq_true_eq, not_not] at h'
      subst h'
      simp only [tget, if_neg (Ne.symm h), ih]

@[simp] theorem tget_tset_same [DecidableEq α] (d : Nat → α) (t : Tbl α) (k : Nat) (v : α) :
    tget d (tset d t k v) k = v := by
  unfold tset
  split
  · rename_i h; rw [tget_tdel_same, h]
  · exact tget_tput_same d t k v

theorem tget_tset_ne [DecidableEq α] (d : Nat → α) (t : Tbl α) {j k : Nat} (v : α) (h : j ≠ k) :
    tget d (tset d t k v) j = tget d t j := by
  unfold tset
  split
  · exact tget_tdel_ne d t h
  · exact tget_tput_ne d t v h

theorem tget_tset [DecidableEq α] (d : Nat → α) (t : Tbl α) (j k : Nat) (v : α) :
    tget d (tset d t k v) j = if j = k then v else tget d t j := by
  split
  · subst_vars; simp
  · rename_i h; exact tget_tset_ne d t v h

/-! ### The canonical form -/

@[simp] theorem twf_nil [DecidableEq α] (d : Nat → α) : twf d [] = true := rfl

theorem twfFrom_mono [DecidableEq α] {d : Nat → α} {a b : Nat} {t : Tbl α} (h : a ≤ b) (w : twfFrom d b t = true) :
    twfFrom d a t = true := by
  cases t with
  | nil => rfl
  | cons e t =>
    obtain ⟨j, v⟩ := e
    simp only [twfFrom, Bool.and_eq_true, decide_eq_true_eq] at *
    exact ⟨⟨by omega, w.1.2⟩, w.2⟩

theorem twfFrom_filter [DecidableEq α] {d : Nat → α} (p : Nat × α → Bool) {a : Nat} {t : Tbl α}
    (w : twfFrom d a t = true) : twfFrom d a (t.filter p) = true := by
  induction t generalizing a with
  | nil => rfl
  | cons e t ih =>
    obtain ⟨j, v⟩ := e
    simp only [twfFrom, Bool.and_eq_true, decide_eq_true_eq] at w
    rw [List.filter_cons]
    split
    · simp only [twfFrom, Bool.and_eq_true, decide_eq_true_eq]
      exact ⟨w.1, ih w.2⟩
    · exact twfFrom_mono (by omega) (ih w.2)

theorem twfFrom_tput [DecidableEq α] {d : Nat → α} {k : Nat} {v : α} (hv : v ≠ d k) {a : Nat} (ha : a ≤ k) {t : Tbl α}
    (w : twfFrom d a t = true) : twfFrom d a (tput k v t) = true := by
  induction t generalizing a with
  | nil => simp [tput, twfFrom, ha, hv]
  | cons e t ih =>
    obtain ⟨j, x⟩ := e
    simp only [twfFrom, Bool.and_eq_true, decide_eq_true_eq] at w
    simp only [tput]
    split
    · simp only [twfFrom, Bool.and_eq_true, decide_eq_true_eq]
      exact ⟨⟨ha, hv⟩, ⟨by omega, w.1.2⟩, w.2⟩
    · split
      · subst_vars
        simp only [twfFrom, Bool.and_eq_true, decide_eq_true_eq]
        exact ⟨⟨ha, hv⟩, w.2⟩
      · simp only [twfFrom, Bool.and_eq_true, decide_eq_true_eq]
        exact ⟨w.1, ih (by omega) w.2⟩

/-- A write keeps the canonical form. -/
theorem twf_tset [DecidableEq α] {d : Nat → α} {t : Tbl α} (k : Nat) (v : α) (w : twf d t = true) :
    twf d (tset d t k v) = true := by
  unfold tset
  split
  · exact twfFrom_filter _ w
  · rename_i h; exact twfFrom_tput h (Nat.zero_le k) w

/-- Clearing keys keeps the canonical form. -/
theorem twf_tclear [DecidableEq α] {d : Nat → α} {t : Tbl α} (k n : Nat) (w : twf d t = true) :
    twf d (tclear t k n) = true := twfFrom_filter _ w

/-- Storing bytes keeps the canonical form. -/
theorem twf_tstore {d : Nat → Byte} (n : Nat) {t : Tbl Byte} (k v : Nat) (w : twf d t = true) :
    twf d (tstore d t k n v) = true := by
  induction n generalizing t k v with
  | zero => exact w
  | succ n ih => exact ih _ _ (twf_tset _ _ w)

/-! ### Bytes -/

theorem tget_tstore_out (d : Nat → Byte) (n : Nat) (t : Tbl Byte) (k v j : Nat) (h : j < k ∨ k + n ≤ j) :
    tget d (tstore d t k n v) j = tget d t j := by
  induction n generalizing t k v with
  | zero => rfl
  | succ n ih =>
    rw [tstore, ih _ _ _ (by omega), tget_tset_ne _ _ _ (by omega)]

theorem tbytes_tstore_out (d : Nat → Byte) (m n : Nat) (t : Tbl Byte) (k v a : Nat) (h : a + m ≤ k ∨ k + n ≤ a) :
    tbytes d (tstore d t k n v) a m = tbytes d t a m := by
  induction m generalizing a with
  | zero => rfl
  | succ m ih =>
    rw [tbytes, tbytes, ih _ (by omega), tget_tstore_out _ _ _ _ _ _ (by omega)]

/-- What is stored reads back. -/
theorem tbytes_tstore (d : Nat → Byte) (n : Nat) (t : Tbl Byte) (k v : Nat) :
    tbytes d (tstore d t k n v) k n = v % 256 ^ n := by
  induction n generalizing t k v with
  | zero => simp [tbytes, Nat.mod_one]
  | succ n ih =>
    rw [tbytes, tstore, ih, tget_tstore_out _ _ _ _ _ _ (by omega), tget_tset_same]
    have h : 256 ^ (n + 1) = 256 * 256 ^ n := by rw [Nat.pow_succ, Nat.mul_comm]
    rw [BitVec.toNat_ofNat, h, Nat.mod_mul]

end Sys2Proof.Machine
end

