-- ==== Sys2Proof/Laws/Regs.lean ====
section
/-! SUPPORT. The register file: what writing one field does to every field. -/

namespace Sys2Proof.Machine

/-- The field lies within its register word. -/
def Fld.fits (f : Fld) : Prop := f.lo + f.w ≤ 32

@[simp] theorem rw_ww_same (s : State) (a : Nat) (v : Word) : rw (ww s a v) a = v := by
  simp [rw, ww]

theorem rw_ww_ne (s : State) {a b : Nat} (v : Word) (h : b ≠ a) : rw (ww s a v) b = rw s b := by
  simp [rw, ww, tget_tset_ne _ _ _ h]

theorem rd_lt (s : State) (f : Fld) (i : Nat) : rd s f i < 2 ^ f.w := getF_lt _ _ _

/-- A field reads as written, cut to its width. -/
theorem rd_wr_same (s : State) (f : Fld) (i v : Nat) (h : f.fits) : rd (wr s f i v) f i = v % 2 ^ f.w := by
  unfold rd wr
  rw [rw_ww_same, getF_setF_same _ _ _ _ h]

/-- Fields of other registers keep their values. -/
theorem rd_wr_ne (s : State) (f g : Fld) (i j v : Nat) (h : g.addr j ≠ f.addr i) : rd (wr s f i v) g j = rd s g j := by
  unfold rd wr
  rw [rw_ww_ne _ _ h]

/-- The other fields of the register keep their values. -/
theorem rd_wr_disjoint (s : State) (f g : Fld) (i j v : Nat) (hg : g.fits)
    (d : g.lo + g.w ≤ f.lo ∨ f.lo + f.w ≤ g.lo) : rd (wr s f i v) g j = rd s g j := by
  by_cases h : g.addr j = f.addr i
  · unfold rd wr
    rw [h, rw_ww_same, getF_setF_other _ _ _ _ _ _ hg d]
  · exact rd_wr_ne s f g i j v h

/-- Two fields that share no bit of a register do not meet. -/
def Fld.apart (f : Fld) (i : Nat) (g : Fld) (j : Nat) : Prop :=
  g.addr j ≠ f.addr i ∨ (g.fits ∧ (g.lo + g.w ≤ f.lo ∨ f.lo + f.w ≤ g.lo))

theorem rd_wr_apart (s : State) (f g : Fld) (i j v : Nat) (h : f.apart i g j) : rd (wr s f i v) g j = rd s g j := by
  rcases h with h | ⟨hg, d⟩
  · exact rd_wr_ne s f g i j v h
  · exact rd_wr_disjoint s f g i j v hg d

/-- A counter field after a count: the sum, or its maximum. -/
theorem rd_bump_same (s : State) (f : Fld) (i n : Nat) (h : f.fits) :
    rd (bump s f i n) f i = min (rd s f i + n) (2 ^ f.w - 1) := by
  unfold bump
  rw [rd_wr_same _ _ _ _ h, Nat.mod_eq_of_lt]
  have := Nat.two_pow_pos f.w
  omega

theorem rd_bump_apart (s : State) (f g : Fld) (i j n : Nat) (h : f.apart i g j) : rd (bump s f i n) g j = rd s g j :=
  rd_wr_apart s f g i j _ h

/-- A register write keeps the register file's canonical form. -/
theorem twf_ww (s : State) (a : Nat) (v : Word) (h : twf resetWord s.regs = true) :
    twf resetWord (ww s a v).regs = true := twf_tset a v h

theorem twf_wr (s : State) (f : Fld) (i v : Nat) (h : twf resetWord s.regs = true) :
    twf resetWord (wr s f i v).regs = true := twf_ww s _ _ h

end Sys2Proof.Machine
end

