-- ==== Sys2Proof/Laws/State.lean ====
section
/-! SUPPORT. What each update of the state leaves as it was: one lemma for each field and update, true by unfolding. -/

namespace Sys2Proof.Machine

@[simp] theorem ww_pending (s : State) (a : Nat) (v : Word) : (ww s a v).pending = s.pending := rfl
@[simp] theorem ww_fv (s : State) (a : Nat) (v : Word) : (ww s a v).fv = s.fv := rfl
@[simp] theorem ww_now (s : State) (a : Nat) (v : Word) : (ww s a v).now = s.now := rfl
@[simp] theorem ww_fab (s : State) (a : Nat) (v : Word) : (ww s a v).fab = s.fab := rfl
@[simp] theorem ww_wve (s : State) (a : Nat) (v : Word) : (ww s a v).wve = s.wve := rfl
@[simp] theorem ww_front (s : State) (a : Nat) (v : Word) : (ww s a v).front = s.front := rfl
@[simp] theorem ww_mem (s : State) (a : Nat) (v : Word) : (ww s a v).mem = s.mem := rfl
@[simp] theorem ww_srv (s : State) (a : Nat) (v : Word) : (ww s a v).srv = s.srv := rfl
@[simp] theorem ww_pow (s : State) (a : Nat) (v : Word) : (ww s a v).pow = s.pow := rfl
@[simp] theorem ww_sec (s : State) (a : Nat) (v : Word) : (ww s a v).sec = s.sec := rfl
@[simp] theorem ww_skl (s : State) (a : Nat) (v : Word) : (ww s a v).skl = s.skl := rfl
@[simp] theorem ww_hst (s : State) (a : Nat) (v : Word) : (ww s a v).hst = s.hst := rfl
@[simp] theorem ww_rdata (s : State) (a : Nat) (v : Word) : (ww s a v).rdata = s.rdata := rfl
@[simp] theorem ww_out (s : State) (a : Nat) (v : Word) : (ww s a v).out = s.out := rfl
@[simp] theorem ww_lat (s : State) (a : Nat) (v : Word) : (ww s a v).lat = s.lat := rfl

@[simp] theorem wr_pending (s : State) (f : Fld) (i v : Nat) : (wr s f i v).pending = s.pending := rfl
@[simp] theorem wr_fv (s : State) (f : Fld) (i v : Nat) : (wr s f i v).fv = s.fv := rfl
@[simp] theorem wr_now (s : State) (f : Fld) (i v : Nat) : (wr s f i v).now = s.now := rfl
@[simp] theorem wr_fab (s : State) (f : Fld) (i v : Nat) : (wr s f i v).fab = s.fab := rfl
@[simp] theorem wr_wve (s : State) (f : Fld) (i v : Nat) : (wr s f i v).wve = s.wve := rfl
@[simp] theorem wr_front (s : State) (f : Fld) (i v : Nat) : (wr s f i v).front = s.front := rfl
@[simp] theorem wr_mem (s : State) (f : Fld) (i v : Nat) : (wr s f i v).mem = s.mem := rfl
@[simp] theorem wr_srv (s : State) (f : Fld) (i v : Nat) : (wr s f i v).srv = s.srv := rfl
@[simp] theorem wr_pow (s : State) (f : Fld) (i v : Nat) : (wr s f i v).pow = s.pow := rfl
@[simp] theorem wr_sec (s : State) (f : Fld) (i v : Nat) : (wr s f i v).sec = s.sec := rfl
@[simp] theorem wr_skl (s : State) (f : Fld) (i v : Nat) : (wr s f i v).skl = s.skl := rfl
@[simp] theorem wr_hst (s : State) (f : Fld) (i v : Nat) : (wr s f i v).hst = s.hst := rfl
@[simp] theorem wr_rdata (s : State) (f : Fld) (i v : Nat) : (wr s f i v).rdata = s.rdata := rfl
@[simp] theorem wr_out (s : State) (f : Fld) (i v : Nat) : (wr s f i v).out = s.out := rfl
@[simp] theorem wr_lat (s : State) (f : Fld) (i v : Nat) : (wr s f i v).lat = s.lat := rfl

@[simp] theorem bump_pending (s : State) (f : Fld) (i n : Nat) : (bump s f i n).pending = s.pending := rfl
@[simp] theorem bump_fv (s : State) (f : Fld) (i n : Nat) : (bump s f i n).fv = s.fv := rfl
@[simp] theorem bump_now (s : State) (f : Fld) (i n : Nat) : (bump s f i n).now = s.now := rfl
@[simp] theorem bump_fab (s : State) (f : Fld) (i n : Nat) : (bump s f i n).fab = s.fab := rfl
@[simp] theorem bump_wve (s : State) (f : Fld) (i n : Nat) : (bump s f i n).wve = s.wve := rfl
@[simp] theorem bump_front (s : State) (f : Fld) (i n : Nat) : (bump s f i n).front = s.front := rfl
@[simp] theorem bump_mem (s : State) (f : Fld) (i n : Nat) : (bump s f i n).mem = s.mem := rfl
@[simp] theorem bump_srv (s : State) (f : Fld) (i n : Nat) : (bump s f i n).srv = s.srv := rfl
@[simp] theorem bump_pow (s : State) (f : Fld) (i n : Nat) : (bump s f i n).pow = s.pow := rfl
@[simp] theorem bump_sec (s : State) (f : Fld) (i n : Nat) : (bump s f i n).sec = s.sec := rfl
@[simp] theorem bump_skl (s : State) (f : Fld) (i n : Nat) : (bump s f i n).skl = s.skl := rfl
@[simp] theorem bump_hst (s : State) (f : Fld) (i n : Nat) : (bump s f i n).hst = s.hst := rfl
@[simp] theorem bump_rdata (s : State) (f : Fld) (i n : Nat) : (bump s f i n).rdata = s.rdata := rfl
@[simp] theorem bump_out (s : State) (f : Fld) (i n : Nat) : (bump s f i n).out = s.out := rfl
@[simp] theorem bump_lat (s : State) (f : Fld) (i n : Nat) : (bump s f i n).lat = s.lat := rfl

@[simp] theorem up_pending (s : State) (f : Fld) (i n : Nat) : (up s f i n).pending = s.pending := rfl
@[simp] theorem up_fv (s : State) (f : Fld) (i n : Nat) : (up s f i n).fv = s.fv := rfl
@[simp] theorem up_now (s : State) (f : Fld) (i n : Nat) : (up s f i n).now = s.now := rfl
@[simp] theorem up_fab (s : State) (f : Fld) (i n : Nat) : (up s f i n).fab = s.fab := rfl
@[simp] theorem up_wve (s : State) (f : Fld) (i n : Nat) : (up s f i n).wve = s.wve := rfl
@[simp] theorem up_front (s : State) (f : Fld) (i n : Nat) : (up s f i n).front = s.front := rfl
@[simp] theorem up_mem (s : State) (f : Fld) (i n : Nat) : (up s f i n).mem = s.mem := rfl
@[simp] theorem up_srv (s : State) (f : Fld) (i n : Nat) : (up s f i n).srv = s.srv := rfl
@[simp] theorem up_pow (s : State) (f : Fld) (i n : Nat) : (up s f i n).pow = s.pow := rfl
@[simp] theorem up_sec (s : State) (f : Fld) (i n : Nat) : (up s f i n).sec = s.sec := rfl
@[simp] theorem up_skl (s : State) (f : Fld) (i n : Nat) : (up s f i n).skl = s.skl := rfl
@[simp] theorem up_hst (s : State) (f : Fld) (i n : Nat) : (up s f i n).hst = s.hst := rfl
@[simp] theorem up_rdata (s : State) (f : Fld) (i n : Nat) : (up s f i n).rdata = s.rdata := rfl
@[simp] theorem up_out (s : State) (f : Fld) (i n : Nat) : (up s f i n).out = s.out := rfl
@[simp] theorem up_lat (s : State) (f : Fld) (i n : Nat) : (up s f i n).lat = s.lat := rfl

@[simp] theorem down_pending (s : State) (f : Fld) (i n : Nat) : (down s f i n).pending = s.pending := rfl
@[simp] theorem down_fv (s : State) (f : Fld) (i n : Nat) : (down s f i n).fv = s.fv := rfl
@[simp] theorem down_now (s : State) (f : Fld) (i n : Nat) : (down s f i n).now = s.now := rfl
@[simp] theorem down_fab (s : State) (f : Fld) (i n : Nat) : (down s f i n).fab = s.fab := rfl
@[simp] theorem down_wve (s : State) (f : Fld) (i n : Nat) : (down s f i n).wve = s.wve := rfl
@[simp] theorem down_front (s : State) (f : Fld) (i n : Nat) : (down s f i n).front = s.front := rfl
@[simp] theorem down_mem (s : State) (f : Fld) (i n : Nat) : (down s f i n).mem = s.mem := rfl
@[simp] theorem down_srv (s : State) (f : Fld) (i n : Nat) : (down s f i n).srv = s.srv := rfl
@[simp] theorem down_pow (s : State) (f : Fld) (i n : Nat) : (down s f i n).pow = s.pow := rfl
@[simp] theorem down_sec (s : State) (f : Fld) (i n : Nat) : (down s f i n).sec = s.sec := rfl
@[simp] theorem down_skl (s : State) (f : Fld) (i n : Nat) : (down s f i n).skl = s.skl := rfl
@[simp] theorem down_hst (s : State) (f : Fld) (i n : Nat) : (down s f i n).hst = s.hst := rfl
@[simp] theorem down_rdata (s : State) (f : Fld) (i n : Nat) : (down s f i n).rdata = s.rdata := rfl
@[simp] theorem down_out (s : State) (f : Fld) (i n : Nat) : (down s f i n).out = s.out := rfl
@[simp] theorem down_lat (s : State) (f : Fld) (i n : Nat) : (down s f i n).lat = s.lat := rfl

@[simp] theorem setBit_pending (s : State) (f : Fld) (i k : Nat) : (setBit s f i k).pending = s.pending := rfl
@[simp] theorem setBit_fv (s : State) (f : Fld) (i k : Nat) : (setBit s f i k).fv = s.fv := rfl
@[simp] theorem setBit_now (s : State) (f : Fld) (i k : Nat) : (setBit s f i k).now = s.now := rfl
@[simp] theorem setBit_fab (s : State) (f : Fld) (i k : Nat) : (setBit s f i k).fab = s.fab := rfl
@[simp] theorem setBit_wve (s : State) (f : Fld) (i k : Nat) : (setBit s f i k).wve = s.wve := rfl
@[simp] theorem setBit_front (s : State) (f : Fld) (i k : Nat) : (setBit s f i k).front = s.front := rfl
@[simp] theorem setBit_mem (s : State) (f : Fld) (i k : Nat) : (setBit s f i k).mem = s.mem := rfl
@[simp] theorem setBit_srv (s : State) (f : Fld) (i k : Nat) : (setBit s f i k).srv = s.srv := rfl
@[simp] theorem setBit_pow (s : State) (f : Fld) (i k : Nat) : (setBit s f i k).pow = s.pow := rfl
@[simp] theorem setBit_sec (s : State) (f : Fld) (i k : Nat) : (setBit s f i k).sec = s.sec := rfl
@[simp] theorem setBit_skl (s : State) (f : Fld) (i k : Nat) : (setBit s f i k).skl = s.skl := rfl
@[simp] theorem setBit_hst (s : State) (f : Fld) (i k : Nat) : (setBit s f i k).hst = s.hst := rfl
@[simp] theorem setBit_rdata (s : State) (f : Fld) (i k : Nat) : (setBit s f i k).rdata = s.rdata := rfl
@[simp] theorem setBit_out (s : State) (f : Fld) (i k : Nat) : (setBit s f i k).out = s.out := rfl
@[simp] theorem setBit_lat (s : State) (f : Fld) (i k : Nat) : (setBit s f i k).lat = s.lat := rfl

@[simp] theorem clrBit_pending (s : State) (f : Fld) (i k : Nat) : (clrBit s f i k).pending = s.pending := rfl
@[simp] theorem clrBit_fv (s : State) (f : Fld) (i k : Nat) : (clrBit s f i k).fv = s.fv := rfl
@[simp] theorem clrBit_now (s : State) (f : Fld) (i k : Nat) : (clrBit s f i k).now = s.now := rfl
@[simp] theorem clrBit_fab (s : State) (f : Fld) (i k : Nat) : (clrBit s f i k).fab = s.fab := rfl
@[simp] theorem clrBit_wve (s : State) (f : Fld) (i k : Nat) : (clrBit s f i k).wve = s.wve := rfl
@[simp] theorem clrBit_front (s : State) (f : Fld) (i k : Nat) : (clrBit s f i k).front = s.front := rfl
@[simp] theorem clrBit_mem (s : State) (f : Fld) (i k : Nat) : (clrBit s f i k).mem = s.mem := rfl
@[simp] theorem clrBit_srv (s : State) (f : Fld) (i k : Nat) : (clrBit s f i k).srv = s.srv := rfl
@[simp] theorem clrBit_pow (s : State) (f : Fld) (i k : Nat) : (clrBit s f i k).pow = s.pow := rfl
@[simp] theorem clrBit_sec (s : State) (f : Fld) (i k : Nat) : (clrBit s f i k).sec = s.sec := rfl
@[simp] theorem clrBit_skl (s : State) (f : Fld) (i k : Nat) : (clrBit s f i k).skl = s.skl := rfl
@[simp] theorem clrBit_hst (s : State) (f : Fld) (i k : Nat) : (clrBit s f i k).hst = s.hst := rfl
@[simp] theorem clrBit_rdata (s : State) (f : Fld) (i k : Nat) : (clrBit s f i k).rdata = s.rdata := rfl
@[simp] theorem clrBit_out (s : State) (f : Fld) (i k : Nat) : (clrBit s f i k).out = s.out := rfl
@[simp] theorem clrBit_lat (s : State) (f : Fld) (i k : Nat) : (clrBit s f i k).lat = s.lat := rfl

@[simp] theorem wr2_pending (s : State) (lo hi : Fld) (i v : Nat) : (wr2 s lo hi i v).pending = s.pending := rfl
@[simp] theorem wr2_fv (s : State) (lo hi : Fld) (i v : Nat) : (wr2 s lo hi i v).fv = s.fv := rfl
@[simp] theorem wr2_now (s : State) (lo hi : Fld) (i v : Nat) : (wr2 s lo hi i v).now = s.now := rfl
@[simp] theorem wr2_fab (s : State) (lo hi : Fld) (i v : Nat) : (wr2 s lo hi i v).fab = s.fab := rfl
@[simp] theorem wr2_wve (s : State) (lo hi : Fld) (i v : Nat) : (wr2 s lo hi i v).wve = s.wve := rfl
@[simp] theorem wr2_front (s : State) (lo hi : Fld) (i v : Nat) : (wr2 s lo hi i v).front = s.front := rfl
@[simp] theorem wr2_mem (s : State) (lo hi : Fld) (i v : Nat) : (wr2 s lo hi i v).mem = s.mem := rfl
@[simp] theorem wr2_srv (s : State) (lo hi : Fld) (i v : Nat) : (wr2 s lo hi i v).srv = s.srv := rfl
@[simp] theorem wr2_pow (s : State) (lo hi : Fld) (i v : Nat) : (wr2 s lo hi i v).pow = s.pow := rfl
@[simp] theorem wr2_sec (s : State) (lo hi : Fld) (i v : Nat) : (wr2 s lo hi i v).sec = s.sec := rfl
@[simp] theorem wr2_skl (s : State) (lo hi : Fld) (i v : Nat) : (wr2 s lo hi i v).skl = s.skl := rfl
@[simp] theorem wr2_hst (s : State) (lo hi : Fld) (i v : Nat) : (wr2 s lo hi i v).hst = s.hst := rfl
@[simp] theorem wr2_rdata (s : State) (lo hi : Fld) (i v : Nat) : (wr2 s lo hi i v).rdata = s.rdata := rfl
@[simp] theorem wr2_out (s : State) (lo hi : Fld) (i v : Nat) : (wr2 s lo hi i v).out = s.out := rfl
@[simp] theorem wr2_lat (s : State) (lo hi : Fld) (i v : Nat) : (wr2 s lo hi i v).lat = s.lat := rfl

@[simp] theorem bump2_pending (s : State) (lo hi : Fld) (i n : Nat) : (bump2 s lo hi i n).pending = s.pending := rfl
@[simp] theorem bump2_fv (s : State) (lo hi : Fld) (i n : Nat) : (bump2 s lo hi i n).fv = s.fv := rfl
@[simp] theorem bump2_now (s : State) (lo hi : Fld) (i n : Nat) : (bump2 s lo hi i n).now = s.now := rfl
@[simp] theorem bump2_fab (s : State) (lo hi : Fld) (i n : Nat) : (bump2 s lo hi i n).fab = s.fab := rfl
@[simp] theorem bump2_wve (s : State) (lo hi : Fld) (i n : Nat) : (bump2 s lo hi i n).wve = s.wve := rfl
@[simp] theorem bump2_front (s : State) (lo hi : Fld) (i n : Nat) : (bump2 s lo hi i n).front = s.front := rfl
@[simp] theorem bump2_mem (s : State) (lo hi : Fld) (i n : Nat) : (bump2 s lo hi i n).mem = s.mem := rfl
@[simp] theorem bump2_srv (s : State) (lo hi : Fld) (i n : Nat) : (bump2 s lo hi i n).srv = s.srv := rfl
@[simp] theorem bump2_pow (s : State) (lo hi : Fld) (i n : Nat) : (bump2 s lo hi i n).pow = s.pow := rfl
@[simp] theorem bump2_sec (s : State) (lo hi : Fld) (i n : Nat) : (bump2 s lo hi i n).sec = s.sec := rfl
@[simp] theorem bump2_skl (s : State) (lo hi : Fld) (i n : Nat) : (bump2 s lo hi i n).skl = s.skl := rfl
@[simp] theorem bump2_hst (s : State) (lo hi : Fld) (i n : Nat) : (bump2 s lo hi i n).hst = s.hst := rfl
@[simp] theorem bump2_rdata (s : State) (lo hi : Fld) (i n : Nat) : (bump2 s lo hi i n).rdata = s.rdata := rfl
@[simp] theorem bump2_out (s : State) (lo hi : Fld) (i n : Nat) : (bump2 s lo hi i n).out = s.out := rfl
@[simp] theorem bump2_lat (s : State) (lo hi : Fld) (i n : Nat) : (bump2 s lo hi i n).lat = s.lat := rfl

@[simp] theorem fresh_pending (s : State) : (fresh s).pending = s.pending := rfl
@[simp] theorem fresh_now (s : State) : (fresh s).now = s.now := rfl
@[simp] theorem fresh_regs (s : State) : (fresh s).regs = s.regs := rfl
@[simp] theorem fresh_fab (s : State) : (fresh s).fab = s.fab := rfl
@[simp] theorem fresh_wve (s : State) : (fresh s).wve = s.wve := rfl
@[simp] theorem fresh_front (s : State) : (fresh s).front = s.front := rfl
@[simp] theorem fresh_mem (s : State) : (fresh s).mem = s.mem := rfl
@[simp] theorem fresh_srv (s : State) : (fresh s).srv = s.srv := rfl
@[simp] theorem fresh_pow (s : State) : (fresh s).pow = s.pow := rfl
@[simp] theorem fresh_sec (s : State) : (fresh s).sec = s.sec := rfl
@[simp] theorem fresh_skl (s : State) : (fresh s).skl = s.skl := rfl
@[simp] theorem fresh_hst (s : State) : (fresh s).hst = s.hst := rfl
@[simp] theorem fresh_rdata (s : State) : (fresh s).rdata = s.rdata := rfl
@[simp] theorem fresh_out (s : State) : (fresh s).out = s.out := rfl
@[simp] theorem fresh_lat (s : State) : (fresh s).lat = s.lat := rfl

@[simp] theorem emit_pending (s : State) (m : OutMsg) : (emit s m).pending = s.pending := rfl
@[simp] theorem emit_fv (s : State) (m : OutMsg) : (emit s m).fv = s.fv := rfl
@[simp] theorem emit_now (s : State) (m : OutMsg) : (emit s m).now = s.now := rfl
@[simp] theorem emit_regs (s : State) (m : OutMsg) : (emit s m).regs = s.regs := rfl
@[simp] theorem emit_fab (s : State) (m : OutMsg) : (emit s m).fab = s.fab := rfl
@[simp] theorem emit_wve (s : State) (m : OutMsg) : (emit s m).wve = s.wve := rfl
@[simp] theorem emit_front (s : State) (m : OutMsg) : (emit s m).front = s.front := rfl
@[simp] theorem emit_mem (s : State) (m : OutMsg) : (emit s m).mem = s.mem := rfl
@[simp] theorem emit_srv (s : State) (m : OutMsg) : (emit s m).srv = s.srv := rfl
@[simp] theorem emit_pow (s : State) (m : OutMsg) : (emit s m).pow = s.pow := rfl
@[simp] theorem emit_sec (s : State) (m : OutMsg) : (emit s m).sec = s.sec := rfl
@[simp] theorem emit_skl (s : State) (m : OutMsg) : (emit s m).skl = s.skl := rfl
@[simp] theorem emit_hst (s : State) (m : OutMsg) : (emit s m).hst = s.hst := rfl
@[simp] theorem emit_rdata (s : State) (m : OutMsg) : (emit s m).rdata = s.rdata := rfl
@[simp] theorem emit_lat (s : State) (m : OutMsg) : (emit s m).lat = s.lat := rfl

@[simp] theorem setStk_pending (s : State) (k : Nat) (x : Stake) : (setStk s k x).pending = s.pending := rfl
@[simp] theorem setStk_fv (s : State) (k : Nat) (x : Stake) : (setStk s k x).fv = s.fv := rfl
@[simp] theorem setStk_now (s : State) (k : Nat) (x : Stake) : (setStk s k x).now = s.now := rfl
@[simp] theorem setStk_regs (s : State) (k : Nat) (x : Stake) : (setStk s k x).regs = s.regs := rfl
@[simp] theorem setStk_wve (s : State) (k : Nat) (x : Stake) : (setStk s k x).wve = s.wve := rfl
@[simp] theorem setStk_front (s : State) (k : Nat) (x : Stake) : (setStk s k x).front = s.front := rfl
@[simp] theorem setStk_mem (s : State) (k : Nat) (x : Stake) : (setStk s k x).mem = s.mem := rfl
@[simp] theorem setStk_srv (s : State) (k : Nat) (x : Stake) : (setStk s k x).srv = s.srv := rfl
@[simp] theorem setStk_pow (s : State) (k : Nat) (x : Stake) : (setStk s k x).pow = s.pow := rfl
@[simp] theorem setStk_sec (s : State) (k : Nat) (x : Stake) : (setStk s k x).sec = s.sec := rfl
@[simp] theorem setStk_skl (s : State) (k : Nat) (x : Stake) : (setStk s k x).skl = s.skl := rfl
@[simp] theorem setStk_hst (s : State) (k : Nat) (x : Stake) : (setStk s k x).hst = s.hst := rfl
@[simp] theorem setStk_rdata (s : State) (k : Nat) (x : Stake) : (setStk s k x).rdata = s.rdata := rfl
@[simp] theorem setStk_out (s : State) (k : Nat) (x : Stake) : (setStk s k x).out = s.out := rfl
@[simp] theorem setStk_lat (s : State) (k : Nat) (x : Stake) : (setStk s k x).lat = s.lat := rfl

@[simp] theorem setBsh_pending (s : State) (k : Nat) (x : Bushel) : (setBsh s k x).pending = s.pending := rfl
@[simp] theorem setBsh_fv (s : State) (k : Nat) (x : Bushel) : (setBsh s k x).fv = s.fv := rfl
@[simp] theorem setBsh_now (s : State) (k : Nat) (x : Bushel) : (setBsh s k x).now = s.now := rfl
@[simp] theorem setBsh_regs (s : State) (k : Nat) (x : Bushel) : (setBsh s k x).regs = s.regs := rfl
@[simp] theorem setBsh_wve (s : State) (k : Nat) (x : Bushel) : (setBsh s k x).wve = s.wve := rfl
@[simp] theorem setBsh_front (s : State) (k : Nat) (x : Bushel) : (setBsh s k x).front = s.front := rfl
@[simp] theorem setBsh_mem (s : State) (k : Nat) (x : Bushel) : (setBsh s k x).mem = s.mem := rfl
@[simp] theorem setBsh_srv (s : State) (k : Nat) (x : Bushel) : (setBsh s k x).srv = s.srv := rfl
@[simp] theorem setBsh_pow (s : State) (k : Nat) (x : Bushel) : (setBsh s k x).pow = s.pow := rfl
@[simp] theorem setBsh_sec (s : State) (k : Nat) (x : Bushel) : (setBsh s k x).sec = s.sec := rfl
@[simp] theorem setBsh_skl (s : State) (k : Nat) (x : Bushel) : (setBsh s k x).skl = s.skl := rfl
@[simp] theorem setBsh_hst (s : State) (k : Nat) (x : Bushel) : (setBsh s k x).hst = s.hst := rfl
@[simp] theorem setBsh_rdata (s : State) (k : Nat) (x : Bushel) : (setBsh s k x).rdata = s.rdata := rfl
@[simp] theorem setBsh_out (s : State) (k : Nat) (x : Bushel) : (setBsh s k x).out = s.out := rfl
@[simp] theorem setBsh_lat (s : State) (k : Nat) (x : Bushel) : (setBsh s k x).lat = s.lat := rfl

@[simp] theorem setIsl_pending (s : State) (k : Nat) (x : Island) : (setIsl s k x).pending = s.pending := rfl
@[simp] theorem setIsl_fv (s : State) (k : Nat) (x : Island) : (setIsl s k x).fv = s.fv := rfl
@[simp] theorem setIsl_now (s : State) (k : Nat) (x : Island) : (setIsl s k x).now = s.now := rfl
@[simp] theorem setIsl_regs (s : State) (k : Nat) (x : Island) : (setIsl s k x).regs = s.regs := rfl
@[simp] theorem setIsl_wve (s : State) (k : Nat) (x : Island) : (setIsl s k x).wve = s.wve := rfl
@[simp] theorem setIsl_front (s : State) (k : Nat) (x : Island) : (setIsl s k x).front = s.front := rfl
@[simp] theorem setIsl_mem (s : State) (k : Nat) (x : Island) : (setIsl s k x).mem = s.mem := rfl
@[simp] theorem setIsl_srv (s : State) (k : Nat) (x : Island) : (setIsl s k x).srv = s.srv := rfl
@[simp] theorem setIsl_pow (s : State) (k : Nat) (x : Island) : (setIsl s k x).pow = s.pow := rfl
@[simp] theorem setIsl_sec (s : State) (k : Nat) (x : Island) : (setIsl s k x).sec = s.sec := rfl
@[simp] theorem setIsl_skl (s : State) (k : Nat) (x : Island) : (setIsl s k x).skl = s.skl := rfl
@[simp] theorem setIsl_hst (s : State) (k : Nat) (x : Island) : (setIsl s k x).hst = s.hst := rfl
@[simp] theorem setIsl_rdata (s : State) (k : Nat) (x : Island) : (setIsl s k x).rdata = s.rdata := rfl
@[simp] theorem setIsl_out (s : State) (k : Nat) (x : Island) : (setIsl s k x).out = s.out := rfl
@[simp] theorem setIsl_lat (s : State) (k : Nat) (x : Island) : (setIsl s k x).lat = s.lat := rfl

@[simp] theorem setSw_pending (s : State) (k : Nat) (x : Switch) : (setSw s k x).pending = s.pending := rfl
@[simp] theorem setSw_fv (s : State) (k : Nat) (x : Switch) : (setSw s k x).fv = s.fv := rfl
@[simp] theorem setSw_now (s : State) (k : Nat) (x : Switch) : (setSw s k x).now = s.now := rfl
@[simp] theorem setSw_regs (s : State) (k : Nat) (x : Switch) : (setSw s k x).regs = s.regs := rfl
@[simp] theorem setSw_wve (s : State) (k : Nat) (x : Switch) : (setSw s k x).wve = s.wve := rfl
@[simp] theorem setSw_front (s : State) (k : Nat) (x : Switch) : (setSw s k x).front = s.front := rfl
@[simp] theorem setSw_mem (s : State) (k : Nat) (x : Switch) : (setSw s k x).mem = s.mem := rfl
@[simp] theorem setSw_srv (s : State) (k : Nat) (x : Switch) : (setSw s k x).srv = s.srv := rfl
@[simp] theorem setSw_pow (s : State) (k : Nat) (x : Switch) : (setSw s k x).pow = s.pow := rfl
@[simp] theorem setSw_sec (s : State) (k : Nat) (x : Switch) : (setSw s k x).sec = s.sec := rfl
@[simp] theorem setSw_skl (s : State) (k : Nat) (x : Switch) : (setSw s k x).skl = s.skl := rfl
@[simp] theorem setSw_hst (s : State) (k : Nat) (x : Switch) : (setSw s k x).hst = s.hst := rfl
@[simp] theorem setSw_rdata (s : State) (k : Nat) (x : Switch) : (setSw s k x).rdata = s.rdata := rfl
@[simp] theorem setSw_out (s : State) (k : Nat) (x : Switch) : (setSw s k x).out = s.out := rfl
@[simp] theorem setSw_lat (s : State) (k : Nat) (x : Switch) : (setSw s k x).lat = s.lat := rfl

@[simp] theorem setXing_pending (s : State) (k : Nat) (x : Crossing) : (setXing s k x).pending = s.pending := rfl
@[simp] theorem setXing_fv (s : State) (k : Nat) (x : Crossing) : (setXing s k x).fv = s.fv := rfl
@[simp] theorem setXing_now (s : State) (k : Nat) (x : Crossing) : (setXing s k x).now = s.now := rfl
@[simp] theorem setXing_regs (s : State) (k : Nat) (x : Crossing) : (setXing s k x).regs = s.regs := rfl
@[simp] theorem setXing_wve (s : State) (k : Nat) (x : Crossing) : (setXing s k x).wve = s.wve := rfl
@[simp] theorem setXing_front (s : State) (k : Nat) (x : Crossing) : (setXing s k x).front = s.front := rfl
@[simp] theorem setXing_mem (s : State) (k : Nat) (x : Crossing) : (setXing s k x).mem = s.mem := rfl
@[simp] theorem setXing_srv (s : State) (k : Nat) (x : Crossing) : (setXing s k x).srv = s.srv := rfl
@[simp] theorem setXing_pow (s : State) (k : Nat) (x : Crossing) : (setXing s k x).pow = s.pow := rfl
@[simp] theorem setXing_sec (s : State) (k : Nat) (x : Crossing) : (setXing s k x).sec = s.sec := rfl
@[simp] theorem setXing_skl (s : State) (k : Nat) (x : Crossing) : (setXing s k x).skl = s.skl := rfl
@[simp] theorem setXing_hst (s : State) (k : Nat) (x : Crossing) : (setXing s k x).hst = s.hst := rfl
@[simp] theorem setXing_rdata (s : State) (k : Nat) (x : Crossing) : (setXing s k x).rdata = s.rdata := rfl
@[simp] theorem setXing_out (s : State) (k : Nat) (x : Crossing) : (setXing s k x).out = s.out := rfl
@[simp] theorem setXing_lat (s : State) (k : Nat) (x : Crossing) : (setXing s k x).lat = s.lat := rfl

@[simp] theorem sramWrite_pending (s : State) (b a n v : Nat) : (sramWrite s b a n v).pending = s.pending := rfl
@[simp] theorem sramWrite_fv (s : State) (b a n v : Nat) : (sramWrite s b a n v).fv = s.fv := rfl
@[simp] theorem sramWrite_now (s : State) (b a n v : Nat) : (sramWrite s b a n v).now = s.now := rfl
@[simp] theorem sramWrite_regs (s : State) (b a n v : Nat) : (sramWrite s b a n v).regs = s.regs := rfl
@[simp] theorem sramWrite_wve (s : State) (b a n v : Nat) : (sramWrite s b a n v).wve = s.wve := rfl
@[simp] theorem sramWrite_front (s : State) (b a n v : Nat) : (sramWrite s b a n v).front = s.front := rfl
@[simp] theorem sramWrite_mem (s : State) (b a n v : Nat) : (sramWrite s b a n v).mem = s.mem := rfl
@[simp] theorem sramWrite_srv (s : State) (b a n v : Nat) : (sramWrite s b a n v).srv = s.srv := rfl
@[simp] theorem sramWrite_pow (s : State) (b a n v : Nat) : (sramWrite s b a n v).pow = s.pow := rfl
@[simp] theorem sramWrite_sec (s : State) (b a n v : Nat) : (sramWrite s b a n v).sec = s.sec := rfl
@[simp] theorem sramWrite_skl (s : State) (b a n v : Nat) : (sramWrite s b a n v).skl = s.skl := rfl
@[simp] theorem sramWrite_hst (s : State) (b a n v : Nat) : (sramWrite s b a n v).hst = s.hst := rfl
@[simp] theorem sramWrite_rdata (s : State) (b a n v : Nat) : (sramWrite s b a n v).rdata = s.rdata := rfl
@[simp] theorem sramWrite_out (s : State) (b a n v : Nat) : (sramWrite s b a n v).out = s.out := rfl
@[simp] theorem sramWrite_lat (s : State) (b a n v : Nat) : (sramWrite s b a n v).lat = s.lat := rfl

@[simp] theorem setPar_pending (s : State) (b a : Nat) (x : Bool) : (setPar s b a x).pending = s.pending := rfl
@[simp] theorem setPar_fv (s : State) (b a : Nat) (x : Bool) : (setPar s b a x).fv = s.fv := rfl
@[simp] theorem setPar_now (s : State) (b a : Nat) (x : Bool) : (setPar s b a x).now = s.now := rfl
@[simp] theorem setPar_regs (s : State) (b a : Nat) (x : Bool) : (setPar s b a x).regs = s.regs := rfl
@[simp] theorem setPar_wve (s : State) (b a : Nat) (x : Bool) : (setPar s b a x).wve = s.wve := rfl
@[simp] theorem setPar_front (s : State) (b a : Nat) (x : Bool) : (setPar s b a x).front = s.front := rfl
@[simp] theorem setPar_mem (s : State) (b a : Nat) (x : Bool) : (setPar s b a x).mem = s.mem := rfl
@[simp] theorem setPar_srv (s : State) (b a : Nat) (x : Bool) : (setPar s b a x).srv = s.srv := rfl
@[simp] theorem setPar_pow (s : State) (b a : Nat) (x : Bool) : (setPar s b a x).pow = s.pow := rfl
@[simp] theorem setPar_sec (s : State) (b a : Nat) (x : Bool) : (setPar s b a x).sec = s.sec := rfl
@[simp] theorem setPar_skl (s : State) (b a : Nat) (x : Bool) : (setPar s b a x).skl = s.skl := rfl
@[simp] theorem setPar_hst (s : State) (b a : Nat) (x : Bool) : (setPar s b a x).hst = s.hst := rfl
@[simp] theorem setPar_rdata (s : State) (b a : Nat) (x : Bool) : (setPar s b a x).rdata = s.rdata := rfl
@[simp] theorem setPar_out (s : State) (b a : Nat) (x : Bool) : (setPar s b a x).out = s.out := rfl
@[simp] theorem setPar_lat (s : State) (b a : Nat) (x : Bool) : (setPar s b a x).lat = s.lat := rfl

@[simp] theorem setBind_pending (s : State) (k : Nat) (x : Binding) : (setBind s k x).pending = s.pending := rfl
@[simp] theorem setBind_fv (s : State) (k : Nat) (x : Binding) : (setBind s k x).fv = s.fv := rfl
@[simp] theorem setBind_now (s : State) (k : Nat) (x : Binding) : (setBind s k x).now = s.now := rfl
@[simp] theorem setBind_regs (s : State) (k : Nat) (x : Binding) : (setBind s k x).regs = s.regs := rfl
@[simp] theorem setBind_fab (s : State) (k : Nat) (x : Binding) : (setBind s k x).fab = s.fab := rfl
@[simp] theorem setBind_front (s : State) (k : Nat) (x : Binding) : (setBind s k x).front = s.front := rfl
@[simp] theorem setBind_mem (s : State) (k : Nat) (x : Binding) : (setBind s k x).mem = s.mem := rfl
@[simp] theorem setBind_srv (s : State) (k : Nat) (x : Binding) : (setBind s k x).srv = s.srv := rfl
@[simp] theorem setBind_pow (s : State) (k : Nat) (x : Binding) : (setBind s k x).pow = s.pow := rfl
@[simp] theorem setBind_sec (s : State) (k : Nat) (x : Binding) : (setBind s k x).sec = s.sec := rfl
@[simp] theorem setBind_skl (s : State) (k : Nat) (x : Binding) : (setBind s k x).skl = s.skl := rfl
@[simp] theorem setBind_hst (s : State) (k : Nat) (x : Binding) : (setBind s k x).hst = s.hst := rfl
@[simp] theorem setBind_rdata (s : State) (k : Nat) (x : Binding) : (setBind s k x).rdata = s.rdata := rfl
@[simp] theorem setBind_out (s : State) (k : Nat) (x : Binding) : (setBind s k x).out = s.out := rfl
@[simp] theorem setBind_lat (s : State) (k : Nat) (x : Binding) : (setBind s k x).lat = s.lat := rfl

@[simp] theorem modCmd_pending (s : State) (r i : Nat) (f : Cmd → Cmd) : (modCmd s r i f).pending = s.pending := rfl
@[simp] theorem modCmd_fv (s : State) (r i : Nat) (f : Cmd → Cmd) : (modCmd s r i f).fv = s.fv := rfl
@[simp] theorem modCmd_now (s : State) (r i : Nat) (f : Cmd → Cmd) : (modCmd s r i f).now = s.now := rfl
@[simp] theorem modCmd_regs (s : State) (r i : Nat) (f : Cmd → Cmd) : (modCmd s r i f).regs = s.regs := rfl
@[simp] theorem modCmd_fab (s : State) (r i : Nat) (f : Cmd → Cmd) : (modCmd s r i f).fab = s.fab := rfl
@[simp] theorem modCmd_wve (s : State) (r i : Nat) (f : Cmd → Cmd) : (modCmd s r i f).wve = s.wve := rfl
@[simp] theorem modCmd_mem (s : State) (r i : Nat) (f : Cmd → Cmd) : (modCmd s r i f).mem = s.mem := rfl
@[simp] theorem modCmd_srv (s : State) (r i : Nat) (f : Cmd → Cmd) : (modCmd s r i f).srv = s.srv := rfl
@[simp] theorem modCmd_pow (s : State) (r i : Nat) (f : Cmd → Cmd) : (modCmd s r i f).pow = s.pow := rfl
@[simp] theorem modCmd_sec (s : State) (r i : Nat) (f : Cmd → Cmd) : (modCmd s r i f).sec = s.sec := rfl
@[simp] theorem modCmd_skl (s : State) (r i : Nat) (f : Cmd → Cmd) : (modCmd s r i f).skl = s.skl := rfl
@[simp] theorem modCmd_hst (s : State) (r i : Nat) (f : Cmd → Cmd) : (modCmd s r i f).hst = s.hst := rfl
@[simp] theorem modCmd_rdata (s : State) (r i : Nat) (f : Cmd → Cmd) : (modCmd s r i f).rdata = s.rdata := rfl
@[simp] theorem modCmd_out (s : State) (r i : Nat) (f : Cmd → Cmd) : (modCmd s r i f).out = s.out := rfl
@[simp] theorem modCmd_lat (s : State) (r i : Nat) (f : Cmd → Cmd) : (modCmd s r i f).lat = s.lat := rfl

@[simp] theorem finish_pending (s : State) (r i status sub : Nat) : (finish s r i status sub).pending = s.pending := rfl
@[simp] theorem finish_fv (s : State) (r i status sub : Nat) : (finish s r i status sub).fv = s.fv := rfl
@[simp] theorem finish_now (s : State) (r i status sub : Nat) : (finish s r i status sub).now = s.now := rfl
@[simp] theorem finish_regs (s : State) (r i status sub : Nat) : (finish s r i status sub).regs = s.regs := rfl
@[simp] theorem finish_fab (s : State) (r i status sub : Nat) : (finish s r i status sub).fab = s.fab := rfl
@[simp] theorem finish_wve (s : State) (r i status sub : Nat) : (finish s r i status sub).wve = s.wve := rfl
@[simp] theorem finish_mem (s : State) (r i status sub : Nat) : (finish s r i status sub).mem = s.mem := rfl
@[simp] theorem finish_srv (s : State) (r i status sub : Nat) : (finish s r i status sub).srv = s.srv := rfl
@[simp] theorem finish_pow (s : State) (r i status sub : Nat) : (finish s r i status sub).pow = s.pow := rfl
@[simp] theorem finish_sec (s : State) (r i status sub : Nat) : (finish s r i status sub).sec = s.sec := rfl
@[simp] theorem finish_skl (s : State) (r i status sub : Nat) : (finish s r i status sub).skl = s.skl := rfl
@[simp] theorem finish_hst (s : State) (r i status sub : Nat) : (finish s r i status sub).hst = s.hst := rfl
@[simp] theorem finish_rdata (s : State) (r i status sub : Nat) : (finish s r i status sub).rdata = s.rdata := rfl
@[simp] theorem finish_out (s : State) (r i status sub : Nat) : (finish s r i status sub).out = s.out := rfl
@[simp] theorem finish_lat (s : State) (r i status sub : Nat) : (finish s r i status sub).lat = s.lat := rfl

@[simp] theorem setPort_pending (s : State) (n : Nat) (x : Port) : (setPort s n x).pending = s.pending := rfl
@[simp] theorem setPort_fv (s : State) (n : Nat) (x : Port) : (setPort s n x).fv = s.fv := rfl
@[simp] theorem setPort_now (s : State) (n : Nat) (x : Port) : (setPort s n x).now = s.now := rfl
@[simp] theorem setPort_regs (s : State) (n : Nat) (x : Port) : (setPort s n x).regs = s.regs := rfl
@[simp] theorem setPort_fab (s : State) (n : Nat) (x : Port) : (setPort s n x).fab = s.fab := rfl
@[simp] theorem setPort_wve (s : State) (n : Nat) (x : Port) : (setPort s n x).wve = s.wve := rfl
@[simp] theorem setPort_front (s : State) (n : Nat) (x : Port) : (setPort s n x).front = s.front := rfl
@[simp] theorem setPort_mem (s : State) (n : Nat) (x : Port) : (setPort s n x).mem = s.mem := rfl
@[simp] theorem setPort_srv (s : State) (n : Nat) (x : Port) : (setPort s n x).srv = s.srv := rfl
@[simp] theorem setPort_pow (s : State) (n : Nat) (x : Port) : (setPort s n x).pow = s.pow := rfl
@[simp] theorem setPort_sec (s : State) (n : Nat) (x : Port) : (setPort s n x).sec = s.sec := rfl
@[simp] theorem setPort_hst (s : State) (n : Nat) (x : Port) : (setPort s n x).hst = s.hst := rfl
@[simp] theorem setPort_rdata (s : State) (n : Nat) (x : Port) : (setPort s n x).rdata = s.rdata := rfl
@[simp] theorem setPort_out (s : State) (n : Nat) (x : Port) : (setPort s n x).out = s.out := rfl
@[simp] theorem setPort_lat (s : State) (n : Nat) (x : Port) : (setPort s n x).lat = s.lat := rfl

@[simp] theorem setCgroup_pending (s : State) (g : Nat) (x : CGroup) : (setCgroup s g x).pending = s.pending := rfl
@[simp] theorem setCgroup_fv (s : State) (g : Nat) (x : CGroup) : (setCgroup s g x).fv = s.fv := rfl
@[simp] theorem setCgroup_now (s : State) (g : Nat) (x : CGroup) : (setCgroup s g x).now = s.now := rfl
@[simp] theorem setCgroup_regs (s : State) (g : Nat) (x : CGroup) : (setCgroup s g x).regs = s.regs := rfl
@[simp] theorem setCgroup_fab (s : State) (g : Nat) (x : CGroup) : (setCgroup s g x).fab = s.fab := rfl
@[simp] theorem setCgroup_wve (s : State) (g : Nat) (x : CGroup) : (setCgroup s g x).wve = s.wve := rfl
@[simp] theorem setCgroup_front (s : State) (g : Nat) (x : CGroup) : (setCgroup s g x).front = s.front := rfl
@[simp] theorem setCgroup_mem (s : State) (g : Nat) (x : CGroup) : (setCgroup s g x).mem = s.mem := rfl
@[simp] theorem setCgroup_srv (s : State) (g : Nat) (x : CGroup) : (setCgroup s g x).srv = s.srv := rfl
@[simp] theorem setCgroup_pow (s : State) (g : Nat) (x : CGroup) : (setCgroup s g x).pow = s.pow := rfl
@[simp] theorem setCgroup_sec (s : State) (g : Nat) (x : CGroup) : (setCgroup s g x).sec = s.sec := rfl
@[simp] theorem setCgroup_hst (s : State) (g : Nat) (x : CGroup) : (setCgroup s g x).hst = s.hst := rfl
@[simp] theorem setCgroup_rdata (s : State) (g : Nat) (x : CGroup) : (setCgroup s g x).rdata = s.rdata := rfl
@[simp] theorem setCgroup_out (s : State) (g : Nat) (x : CGroup) : (setCgroup s g x).out = s.out := rfl
@[simp] theorem setCgroup_lat (s : State) (g : Nat) (x : CGroup) : (setCgroup s g x).lat = s.lat := rfl

@[simp] theorem setMem_pending (s : State) (m : Memory) : (setMem s m).pending = s.pending := rfl
@[simp] theorem setMem_fv (s : State) (m : Memory) : (setMem s m).fv = s.fv := rfl
@[simp] theorem setMem_now (s : State) (m : Memory) : (setMem s m).now = s.now := rfl
@[simp] theorem setMem_regs (s : State) (m : Memory) : (setMem s m).regs = s.regs := rfl
@[simp] theorem setMem_fab (s : State) (m : Memory) : (setMem s m).fab = s.fab := rfl
@[simp] theorem setMem_wve (s : State) (m : Memory) : (setMem s m).wve = s.wve := rfl
@[simp] theorem setMem_front (s : State) (m : Memory) : (setMem s m).front = s.front := rfl
@[simp] theorem setMem_srv (s : State) (m : Memory) : (setMem s m).srv = s.srv := rfl
@[simp] theorem setMem_pow (s : State) (m : Memory) : (setMem s m).pow = s.pow := rfl
@[simp] theorem setMem_sec (s : State) (m : Memory) : (setMem s m).sec = s.sec := rfl
@[simp] theorem setMem_skl (s : State) (m : Memory) : (setMem s m).skl = s.skl := rfl
@[simp] theorem setMem_hst (s : State) (m : Memory) : (setMem s m).hst = s.hst := rfl
@[simp] theorem setMem_rdata (s : State) (m : Memory) : (setMem s m).rdata = s.rdata := rfl
@[simp] theorem setMem_out (s : State) (m : Memory) : (setMem s m).out = s.out := rfl
@[simp] theorem setMem_lat (s : State) (m : Memory) : (setMem s m).lat = s.lat := rfl

@[simp] theorem setTblBad_pending (s : State) (l p page : Nat) (b : Bool) : (setTblBad s l p page b).pending = s.pending := rfl
@[simp] theorem setTblBad_fv (s : State) (l p page : Nat) (b : Bool) : (setTblBad s l p page b).fv = s.fv := rfl
@[simp] theorem setTblBad_now (s : State) (l p page : Nat) (b : Bool) : (setTblBad s l p page b).now = s.now := rfl
@[simp] theorem setTblBad_regs (s : State) (l p page : Nat) (b : Bool) : (setTblBad s l p page b).regs = s.regs := rfl
@[simp] theorem setTblBad_fab (s : State) (l p page : Nat) (b : Bool) : (setTblBad s l p page b).fab = s.fab := rfl
@[simp] theorem setTblBad_wve (s : State) (l p page : Nat) (b : Bool) : (setTblBad s l p page b).wve = s.wve := rfl
@[simp] theorem setTblBad_front (s : State) (l p page : Nat) (b : Bool) : (setTblBad s l p page b).front = s.front := rfl
@[simp] theorem setTblBad_srv (s : State) (l p page : Nat) (b : Bool) : (setTblBad s l p page b).srv = s.srv := rfl
@[simp] theorem setTblBad_pow (s : State) (l p page : Nat) (b : Bool) : (setTblBad s l p page b).pow = s.pow := rfl
@[simp] theorem setTblBad_sec (s : State) (l p page : Nat) (b : Bool) : (setTblBad s l p page b).sec = s.sec := rfl
@[simp] theorem setTblBad_skl (s : State) (l p page : Nat) (b : Bool) : (setTblBad s l p page b).skl = s.skl := rfl
@[simp] theorem setTblBad_hst (s : State) (l p page : Nat) (b : Bool) : (setTblBad s l p page b).hst = s.hst := rfl
@[simp] theorem setTblBad_rdata (s : State) (l p page : Nat) (b : Bool) : (setTblBad s l p page b).rdata = s.rdata := rfl
@[simp] theorem setTblBad_out (s : State) (l p page : Nat) (b : Bool) : (setTblBad s l p page b).out = s.out := rfl
@[simp] theorem setTblBad_lat (s : State) (l p page : Nat) (b : Bool) : (setTblBad s l p page b).lat = s.lat := rfl

@[simp] theorem setL1_pending (s : State) (p page e : Nat) : (setL1 s p page e).pending = s.pending := rfl
@[simp] theorem setL1_fv (s : State) (p page e : Nat) : (setL1 s p page e).fv = s.fv := rfl
@[simp] theorem setL1_now (s : State) (p page e : Nat) : (setL1 s p page e).now = s.now := rfl
@[simp] theorem setL1_regs (s : State) (p page e : Nat) : (setL1 s p page e).regs = s.regs := rfl
@[simp] theorem setL1_fab (s : State) (p page e : Nat) : (setL1 s p page e).fab = s.fab := rfl
@[simp] theorem setL1_wve (s : State) (p page e : Nat) : (setL1 s p page e).wve = s.wve := rfl
@[simp] theorem setL1_front (s : State) (p page e : Nat) : (setL1 s p page e).front = s.front := rfl
@[simp] theorem setL1_srv (s : State) (p page e : Nat) : (setL1 s p page e).srv = s.srv := rfl
@[simp] theorem setL1_pow (s : State) (p page e : Nat) : (setL1 s p page e).pow = s.pow := rfl
@[simp] theorem setL1_sec (s : State) (p page e : Nat) : (setL1 s p page e).sec = s.sec := rfl
@[simp] theorem setL1_skl (s : State) (p page e : Nat) : (setL1 s p page e).skl = s.skl := rfl
@[simp] theorem setL1_hst (s : State) (p page e : Nat) : (setL1 s p page e).hst = s.hst := rfl
@[simp] theorem setL1_rdata (s : State) (p page e : Nat) : (setL1 s p page e).rdata = s.rdata := rfl
@[simp] theorem setL1_out (s : State) (p page e : Nat) : (setL1 s p page e).out = s.out := rfl
@[simp] theorem setL1_lat (s : State) (p page e : Nat) : (setL1 s p page e).lat = s.lat := rfl

@[simp] theorem setL2_pending (s : State) (p page e : Nat) : (setL2 s p page e).pending = s.pending := rfl
@[simp] theorem setL2_fv (s : State) (p page e : Nat) : (setL2 s p page e).fv = s.fv := rfl
@[simp] theorem setL2_now (s : State) (p page e : Nat) : (setL2 s p page e).now = s.now := rfl
@[simp] theorem setL2_regs (s : State) (p page e : Nat) : (setL2 s p page e).regs = s.regs := rfl
@[simp] theorem setL2_fab (s : State) (p page e : Nat) : (setL2 s p page e).fab = s.fab := rfl
@[simp] theorem setL2_wve (s : State) (p page e : Nat) : (setL2 s p page e).wve = s.wve := rfl
@[simp] theorem setL2_front (s : State) (p page e : Nat) : (setL2 s p page e).front = s.front := rfl
@[simp] theorem setL2_srv (s : State) (p page e : Nat) : (setL2 s p page e).srv = s.srv := rfl
@[simp] theorem setL2_pow (s : State) (p page e : Nat) : (setL2 s p page e).pow = s.pow := rfl
@[simp] theorem setL2_sec (s : State) (p page e : Nat) : (setL2 s p page e).sec = s.sec := rfl
@[simp] theorem setL2_skl (s : State) (p page e : Nat) : (setL2 s p page e).skl = s.skl := rfl
@[simp] theorem setL2_hst (s : State) (p page e : Nat) : (setL2 s p page e).hst = s.hst := rfl
@[simp] theorem setL2_rdata (s : State) (p page e : Nat) : (setL2 s p page e).rdata = s.rdata := rfl
@[simp] theorem setL2_out (s : State) (p page e : Nat) : (setL2 s p page e).out = s.out := rfl
@[simp] theorem setL2_lat (s : State) (p page e : Nat) : (setL2 s p page e).lat = s.lat := rfl

@[simp] theorem setL3_pending (s : State) (p page e : Nat) : (setL3 s p page e).pending = s.pending := rfl
@[simp] theorem setL3_fv (s : State) (p page e : Nat) : (setL3 s p page e).fv = s.fv := rfl
@[simp] theorem setL3_now (s : State) (p page e : Nat) : (setL3 s p page e).now = s.now := rfl
@[simp] theorem setL3_regs (s : State) (p page e : Nat) : (setL3 s p page e).regs = s.regs := rfl
@[simp] theorem setL3_fab (s : State) (p page e : Nat) : (setL3 s p page e).fab = s.fab := rfl
@[simp] theorem setL3_wve (s : State) (p page e : Nat) : (setL3 s p page e).wve = s.wve := rfl
@[simp] theorem setL3_front (s : State) (p page e : Nat) : (setL3 s p page e).front = s.front := rfl
@[simp] theorem setL3_srv (s : State) (p page e : Nat) : (setL3 s p page e).srv = s.srv := rfl
@[simp] theorem setL3_pow (s : State) (p page e : Nat) : (setL3 s p page e).pow = s.pow := rfl
@[simp] theorem setL3_sec (s : State) (p page e : Nat) : (setL3 s p page e).sec = s.sec := rfl
@[simp] theorem setL3_skl (s : State) (p page e : Nat) : (setL3 s p page e).skl = s.skl := rfl
@[simp] theorem setL3_hst (s : State) (p page e : Nat) : (setL3 s p page e).hst = s.hst := rfl
@[simp] theorem setL3_rdata (s : State) (p page e : Nat) : (setL3 s p page e).rdata = s.rdata := rfl
@[simp] theorem setL3_out (s : State) (p page e : Nat) : (setL3 s p page e).out = s.out := rfl
@[simp] theorem setL3_lat (s : State) (p page e : Nat) : (setL3 s p page e).lat = s.lat := rfl

@[simp] theorem setSh_pending (s : State) (p page e : Nat) : (setSh s p page e).pending = s.pending := rfl
@[simp] theorem setSh_fv (s : State) (p page e : Nat) : (setSh s p page e).fv = s.fv := rfl
@[simp] theorem setSh_now (s : State) (p page e : Nat) : (setSh s p page e).now = s.now := rfl
@[simp] theorem setSh_regs (s : State) (p page e : Nat) : (setSh s p page e).regs = s.regs := rfl
@[simp] theorem setSh_fab (s : State) (p page e : Nat) : (setSh s p page e).fab = s.fab := rfl
@[simp] theorem setSh_wve (s : State) (p page e : Nat) : (setSh s p page e).wve = s.wve := rfl
@[simp] theorem setSh_front (s : State) (p page e : Nat) : (setSh s p page e).front = s.front := rfl
@[simp] theorem setSh_srv (s : State) (p page e : Nat) : (setSh s p page e).srv = s.srv := rfl
@[simp] theorem setSh_pow (s : State) (p page e : Nat) : (setSh s p page e).pow = s.pow := rfl
@[simp] theorem setSh_sec (s : State) (p page e : Nat) : (setSh s p page e).sec = s.sec := rfl
@[simp] theorem setSh_skl (s : State) (p page e : Nat) : (setSh s p page e).skl = s.skl := rfl
@[simp] theorem setSh_hst (s : State) (p page e : Nat) : (setSh s p page e).hst = s.hst := rfl
@[simp] theorem setSh_rdata (s : State) (p page e : Nat) : (setSh s p page e).rdata = s.rdata := rfl
@[simp] theorem setSh_out (s : State) (p page e : Nat) : (setSh s p page e).out = s.out := rfl
@[simp] theorem setSh_lat (s : State) (p page e : Nat) : (setSh s p page e).lat = s.lat := rfl

@[simp] theorem setSeg_pending (s : State) (k : Nat) (v : Option Segm) : (setSeg s k v).pending = s.pending := rfl
@[simp] theorem setSeg_fv (s : State) (k : Nat) (v : Option Segm) : (setSeg s k v).fv = s.fv := rfl
@[simp] theorem setSeg_now (s : State) (k : Nat) (v : Option Segm) : (setSeg s k v).now = s.now := rfl
@[simp] theorem setSeg_regs (s : State) (k : Nat) (v : Option Segm) : (setSeg s k v).regs = s.regs := rfl
@[simp] theorem setSeg_fab (s : State) (k : Nat) (v : Option Segm) : (setSeg s k v).fab = s.fab := rfl
@[simp] theorem setSeg_wve (s : State) (k : Nat) (v : Option Segm) : (setSeg s k v).wve = s.wve := rfl
@[simp] theorem setSeg_front (s : State) (k : Nat) (v : Option Segm) : (setSeg s k v).front = s.front := rfl
@[simp] theorem setSeg_srv (s : State) (k : Nat) (v : Option Segm) : (setSeg s k v).srv = s.srv := rfl
@[simp] theorem setSeg_pow (s : State) (k : Nat) (v : Option Segm) : (setSeg s k v).pow = s.pow := rfl
@[simp] theorem setSeg_sec (s : State) (k : Nat) (v : Option Segm) : (setSeg s k v).sec = s.sec := rfl
@[simp] theorem setSeg_skl (s : State) (k : Nat) (v : Option Segm) : (setSeg s k v).skl = s.skl := rfl
@[simp] theorem setSeg_hst (s : State) (k : Nat) (v : Option Segm) : (setSeg s k v).hst = s.hst := rfl
@[simp] theorem setSeg_rdata (s : State) (k : Nat) (v : Option Segm) : (setSeg s k v).rdata = s.rdata := rfl
@[simp] theorem setSeg_out (s : State) (k : Nat) (v : Option Segm) : (setSeg s k v).out = s.out := rfl
@[simp] theorem setSeg_lat (s : State) (k : Nat) (v : Option Segm) : (setSeg s k v).lat = s.lat := rfl

@[simp] theorem setFseg_pending (s : State) (k : Nat) (v : Option FSeg) : (setFseg s k v).pending = s.pending := rfl
@[simp] theorem setFseg_fv (s : State) (k : Nat) (v : Option FSeg) : (setFseg s k v).fv = s.fv := rfl
@[simp] theorem setFseg_now (s : State) (k : Nat) (v : Option FSeg) : (setFseg s k v).now = s.now := rfl
@[simp] theorem setFseg_regs (s : State) (k : Nat) (v : Option FSeg) : (setFseg s k v).regs = s.regs := rfl
@[simp] theorem setFseg_fab (s : State) (k : Nat) (v : Option FSeg) : (setFseg s k v).fab = s.fab := rfl
@[simp] theorem setFseg_wve (s : State) (k : Nat) (v : Option FSeg) : (setFseg s k v).wve = s.wve := rfl
@[simp] theorem setFseg_front (s : State) (k : Nat) (v : Option FSeg) : (setFseg s k v).front = s.front := rfl
@[simp] theorem setFseg_srv (s : State) (k : Nat) (v : Option FSeg) : (setFseg s k v).srv = s.srv := rfl
@[simp] theorem setFseg_pow (s : State) (k : Nat) (v : Option FSeg) : (setFseg s k v).pow = s.pow := rfl
@[simp] theorem setFseg_sec (s : State) (k : Nat) (v : Option FSeg) : (setFseg s k v).sec = s.sec := rfl
@[simp] theorem setFseg_skl (s : State) (k : Nat) (v : Option FSeg) : (setFseg s k v).skl = s.skl := rfl
@[simp] theorem setFseg_hst (s : State) (k : Nat) (v : Option FSeg) : (setFseg s k v).hst = s.hst := rfl
@[simp] theorem setFseg_rdata (s : State) (k : Nat) (v : Option FSeg) : (setFseg s k v).rdata = s.rdata := rfl
@[simp] theorem setFseg_out (s : State) (k : Nat) (v : Option FSeg) : (setFseg s k v).out = s.out := rfl
@[simp] theorem setFseg_lat (s : State) (k : Nat) (v : Option FSeg) : (setFseg s k v).lat = s.lat := rfl

@[simp] theorem setPow_pending (s : State) (p : Power) : (setPow s p).pending = s.pending := rfl
@[simp] theorem setPow_fv (s : State) (p : Power) : (setPow s p).fv = s.fv := rfl
@[simp] theorem setPow_now (s : State) (p : Power) : (setPow s p).now = s.now := rfl
@[simp] theorem setPow_regs (s : State) (p : Power) : (setPow s p).regs = s.regs := rfl
@[simp] theorem setPow_fab (s : State) (p : Power) : (setPow s p).fab = s.fab := rfl
@[simp] theorem setPow_wve (s : State) (p : Power) : (setPow s p).wve = s.wve := rfl
@[simp] theorem setPow_front (s : State) (p : Power) : (setPow s p).front = s.front := rfl
@[simp] theorem setPow_mem (s : State) (p : Power) : (setPow s p).mem = s.mem := rfl
@[simp] theorem setPow_srv (s : State) (p : Power) : (setPow s p).srv = s.srv := rfl
@[simp] theorem setPow_sec (s : State) (p : Power) : (setPow s p).sec = s.sec := rfl
@[simp] theorem setPow_skl (s : State) (p : Power) : (setPow s p).skl = s.skl := rfl
@[simp] theorem setPow_hst (s : State) (p : Power) : (setPow s p).hst = s.hst := rfl
@[simp] theorem setPow_rdata (s : State) (p : Power) : (setPow s p).rdata = s.rdata := rfl
@[simp] theorem setPow_out (s : State) (p : Power) : (setPow s p).out = s.out := rfl
@[simp] theorem setPow_lat (s : State) (p : Power) : (setPow s p).lat = s.lat := rfl

@[simp] theorem setSec_pending (s : State) (x : Security) : (setSec s x).pending = s.pending := rfl
@[simp] theorem setSec_fv (s : State) (x : Security) : (setSec s x).fv = s.fv := rfl
@[simp] theorem setSec_now (s : State) (x : Security) : (setSec s x).now = s.now := rfl
@[simp] theorem setSec_regs (s : State) (x : Security) : (setSec s x).regs = s.regs := rfl
@[simp] theorem setSec_fab (s : State) (x : Security) : (setSec s x).fab = s.fab := rfl
@[simp] theorem setSec_wve (s : State) (x : Security) : (setSec s x).wve = s.wve := rfl
@[simp] theorem setSec_front (s : State) (x : Security) : (setSec s x).front = s.front := rfl
@[simp] theorem setSec_mem (s : State) (x : Security) : (setSec s x).mem = s.mem := rfl
@[simp] theorem setSec_srv (s : State) (x : Security) : (setSec s x).srv = s.srv := rfl
@[simp] theorem setSec_pow (s : State) (x : Security) : (setSec s x).pow = s.pow := rfl
@[simp] theorem setSec_skl (s : State) (x : Security) : (setSec s x).skl = s.skl := rfl
@[simp] theorem setSec_hst (s : State) (x : Security) : (setSec s x).hst = s.hst := rfl
@[simp] theorem setSec_rdata (s : State) (x : Security) : (setSec s x).rdata = s.rdata := rfl
@[simp] theorem setSec_out (s : State) (x : Security) : (setSec s x).out = s.out := rfl
@[simp] theorem setSec_lat (s : State) (x : Security) : (setSec s x).lat = s.lat := rfl

@[simp] theorem setFlash_pending (s : State) (f : Flash) : (setFlash s f).pending = s.pending := rfl
@[simp] theorem setFlash_fv (s : State) (f : Flash) : (setFlash s f).fv = s.fv := rfl
@[simp] theorem setFlash_now (s : State) (f : Flash) : (setFlash s f).now = s.now := rfl
@[simp] theorem setFlash_regs (s : State) (f : Flash) : (setFlash s f).regs = s.regs := rfl
@[simp] theorem setFlash_fab (s : State) (f : Flash) : (setFlash s f).fab = s.fab := rfl
@[simp] theorem setFlash_wve (s : State) (f : Flash) : (setFlash s f).wve = s.wve := rfl
@[simp] theorem setFlash_front (s : State) (f : Flash) : (setFlash s f).front = s.front := rfl
@[simp] theorem setFlash_mem (s : State) (f : Flash) : (setFlash s f).mem = s.mem := rfl
@[simp] theorem setFlash_srv (s : State) (f : Flash) : (setFlash s f).srv = s.srv := rfl
@[simp] theorem setFlash_pow (s : State) (f : Flash) : (setFlash s f).pow = s.pow := rfl
@[simp] theorem setFlash_skl (s : State) (f : Flash) : (setFlash s f).skl = s.skl := rfl
@[simp] theorem setFlash_hst (s : State) (f : Flash) : (setFlash s f).hst = s.hst := rfl
@[simp] theorem setFlash_rdata (s : State) (f : Flash) : (setFlash s f).rdata = s.rdata := rfl
@[simp] theorem setFlash_out (s : State) (f : Flash) : (setFlash s f).out = s.out := rfl
@[simp] theorem setFlash_lat (s : State) (f : Flash) : (setFlash s f).lat = s.lat := rfl

@[simp] theorem setUsed_pending (s : State) (d v : Nat) : (setUsed s d v).pending = s.pending := rfl
@[simp] theorem setUsed_fv (s : State) (d v : Nat) : (setUsed s d v).fv = s.fv := rfl
@[simp] theorem setUsed_now (s : State) (d v : Nat) : (setUsed s d v).now = s.now := rfl
@[simp] theorem setUsed_regs (s : State) (d v : Nat) : (setUsed s d v).regs = s.regs := rfl
@[simp] theorem setUsed_fab (s : State) (d v : Nat) : (setUsed s d v).fab = s.fab := rfl
@[simp] theorem setUsed_wve (s : State) (d v : Nat) : (setUsed s d v).wve = s.wve := rfl
@[simp] theorem setUsed_front (s : State) (d v : Nat) : (setUsed s d v).front = s.front := rfl
@[simp] theorem setUsed_mem (s : State) (d v : Nat) : (setUsed s d v).mem = s.mem := rfl
@[simp] theorem setUsed_srv (s : State) (d v : Nat) : (setUsed s d v).srv = s.srv := rfl
@[simp] theorem setUsed_pow (s : State) (d v : Nat) : (setUsed s d v).pow = s.pow := rfl
@[simp] theorem setUsed_sec (s : State) (d v : Nat) : (setUsed s d v).sec = s.sec := rfl
@[simp] theorem setUsed_hst (s : State) (d v : Nat) : (setUsed s d v).hst = s.hst := rfl
@[simp] theorem setUsed_rdata (s : State) (d v : Nat) : (setUsed s d v).rdata = s.rdata := rfl
@[simp] theorem setUsed_out (s : State) (d v : Nat) : (setUsed s d v).out = s.out := rfl
@[simp] theorem setUsed_lat (s : State) (d v : Nat) : (setUsed s d v).lat = s.lat := rfl

@[simp] theorem setQpair_pending (s : State) (n q : Nat) (x : QPair) : (setQpair s n q x).pending = s.pending := rfl
@[simp] theorem setQpair_fv (s : State) (n q : Nat) (x : QPair) : (setQpair s n q x).fv = s.fv := rfl
@[simp] theorem setQpair_now (s : State) (n q : Nat) (x : QPair) : (setQpair s n q x).now = s.now := rfl
@[simp] theorem setQpair_regs (s : State) (n q : Nat) (x : QPair) : (setQpair s n q x).regs = s.regs := rfl
@[simp] theorem setQpair_fab (s : State) (n q : Nat) (x : QPair) : (setQpair s n q x).fab = s.fab := rfl
@[simp] theorem setQpair_wve (s : State) (n q : Nat) (x : QPair) : (setQpair s n q x).wve = s.wve := rfl
@[simp] theorem setQpair_front (s : State) (n q : Nat) (x : QPair) : (setQpair s n q x).front = s.front := rfl
@[simp] theorem setQpair_mem (s : State) (n q : Nat) (x : QPair) : (setQpair s n q x).mem = s.mem := rfl
@[simp] theorem setQpair_srv (s : State) (n q : Nat) (x : QPair) : (setQpair s n q x).srv = s.srv := rfl
@[simp] theorem setQpair_pow (s : State) (n q : Nat) (x : QPair) : (setQpair s n q x).pow = s.pow := rfl
@[simp] theorem setQpair_sec (s : State) (n q : Nat) (x : QPair) : (setQpair s n q x).sec = s.sec := rfl
@[simp] theorem setQpair_skl (s : State) (n q : Nat) (x : QPair) : (setQpair s n q x).skl = s.skl := rfl
@[simp] theorem setQpair_rdata (s : State) (n q : Nat) (x : QPair) : (setQpair s n q x).rdata = s.rdata := rfl
@[simp] theorem setQpair_out (s : State) (n q : Nat) (x : QPair) : (setQpair s n q x).out = s.out := rfl
@[simp] theorem setQpair_lat (s : State) (n q : Nat) (x : QPair) : (setQpair s n q x).lat = s.lat := rfl

@[simp] theorem setSem_pending (s : State) (p i v : Nat) : (setSem s p i v).pending = s.pending := rfl
@[simp] theorem setSem_fv (s : State) (p i v : Nat) : (setSem s p i v).fv = s.fv := rfl
@[simp] theorem setSem_now (s : State) (p i v : Nat) : (setSem s p i v).now = s.now := rfl
@[simp] theorem setSem_regs (s : State) (p i v : Nat) : (setSem s p i v).regs = s.regs := rfl
@[simp] theorem setSem_fab (s : State) (p i v : Nat) : (setSem s p i v).fab = s.fab := rfl
@[simp] theorem setSem_wve (s : State) (p i v : Nat) : (setSem s p i v).wve = s.wve := rfl
@[simp] theorem setSem_mem (s : State) (p i v : Nat) : (setSem s p i v).mem = s.mem := rfl
@[simp] theorem setSem_srv (s : State) (p i v : Nat) : (setSem s p i v).srv = s.srv := rfl
@[simp] theorem setSem_pow (s : State) (p i v : Nat) : (setSem s p i v).pow = s.pow := rfl
@[simp] theorem setSem_sec (s : State) (p i v : Nat) : (setSem s p i v).sec = s.sec := rfl
@[simp] theorem setSem_skl (s : State) (p i v : Nat) : (setSem s p i v).skl = s.skl := rfl
@[simp] theorem setSem_hst (s : State) (p i v : Nat) : (setSem s p i v).hst = s.hst := rfl
@[simp] theorem setSem_rdata (s : State) (p i v : Nat) : (setSem s p i v).rdata = s.rdata := rfl
@[simp] theorem setSem_out (s : State) (p i v : Nat) : (setSem s p i v).out = s.out := rfl
@[simp] theorem setSem_lat (s : State) (p i v : Nat) : (setSem s p i v).lat = s.lat := rfl

@[simp] theorem setSemErr_pending (s : State) (p i : Nat) (b : Bool) : (setSemErr s p i b).pending = s.pending := rfl
@[simp] theorem setSemErr_fv (s : State) (p i : Nat) (b : Bool) : (setSemErr s p i b).fv = s.fv := rfl
@[simp] theorem setSemErr_now (s : State) (p i : Nat) (b : Bool) : (setSemErr s p i b).now = s.now := rfl
@[simp] theorem setSemErr_regs (s : State) (p i : Nat) (b : Bool) : (setSemErr s p i b).regs = s.regs := rfl
@[simp] theorem setSemErr_fab (s : State) (p i : Nat) (b : Bool) : (setSemErr s p i b).fab = s.fab := rfl
@[simp] theorem setSemErr_wve (s : State) (p i : Nat) (b : Bool) : (setSemErr s p i b).wve = s.wve := rfl
@[simp] theorem setSemErr_mem (s : State) (p i : Nat) (b : Bool) : (setSemErr s p i b).mem = s.mem := rfl
@[simp] theorem setSemErr_srv (s : State) (p i : Nat) (b : Bool) : (setSemErr s p i b).srv = s.srv := rfl
@[simp] theorem setSemErr_pow (s : State) (p i : Nat) (b : Bool) : (setSemErr s p i b).pow = s.pow := rfl
@[simp] theorem setSemErr_sec (s : State) (p i : Nat) (b : Bool) : (setSemErr s p i b).sec = s.sec := rfl
@[simp] theorem setSemErr_skl (s : State) (p i : Nat) (b : Bool) : (setSemErr s p i b).skl = s.skl := rfl
@[simp] theorem setSemErr_hst (s : State) (p i : Nat) (b : Bool) : (setSemErr s p i b).hst = s.hst := rfl
@[simp] theorem setSemErr_rdata (s : State) (p i : Nat) (b : Bool) : (setSemErr s p i b).rdata = s.rdata := rfl
@[simp] theorem setSemErr_out (s : State) (p i : Nat) (b : Bool) : (setSemErr s p i b).out = s.out := rfl
@[simp] theorem setSemErr_lat (s : State) (p i : Nat) (b : Bool) : (setSemErr s p i b).lat = s.lat := rfl

@[simp] theorem setLatch_pending (s : State) (ag : Agent) (pg : Nat) (x : Option (Nat × Nat)) : (setLatch s ag pg x).pending = s.pending := rfl
@[simp] theorem setLatch_fv (s : State) (ag : Agent) (pg : Nat) (x : Option (Nat × Nat)) : (setLatch s ag pg x).fv = s.fv := rfl
@[simp] theorem setLatch_now (s : State) (ag : Agent) (pg : Nat) (x : Option (Nat × Nat)) : (setLatch s ag pg x).now = s.now := rfl
@[simp] theorem setLatch_regs (s : State) (ag : Agent) (pg : Nat) (x : Option (Nat × Nat)) : (setLatch s ag pg x).regs = s.regs := rfl
@[simp] theorem setLatch_fab (s : State) (ag : Agent) (pg : Nat) (x : Option (Nat × Nat)) : (setLatch s ag pg x).fab = s.fab := rfl
@[simp] theorem setLatch_wve (s : State) (ag : Agent) (pg : Nat) (x : Option (Nat × Nat)) : (setLatch s ag pg x).wve = s.wve := rfl
@[simp] theorem setLatch_front (s : State) (ag : Agent) (pg : Nat) (x : Option (Nat × Nat)) : (setLatch s ag pg x).front = s.front := rfl
@[simp] theorem setLatch_mem (s : State) (ag : Agent) (pg : Nat) (x : Option (Nat × Nat)) : (setLatch s ag pg x).mem = s.mem := rfl
@[simp] theorem setLatch_srv (s : State) (ag : Agent) (pg : Nat) (x : Option (Nat × Nat)) : (setLatch s ag pg x).srv = s.srv := rfl
@[simp] theorem setLatch_pow (s : State) (ag : Agent) (pg : Nat) (x : Option (Nat × Nat)) : (setLatch s ag pg x).pow = s.pow := rfl
@[simp] theorem setLatch_sec (s : State) (ag : Agent) (pg : Nat) (x : Option (Nat × Nat)) : (setLatch s ag pg x).sec = s.sec := rfl
@[simp] theorem setLatch_skl (s : State) (ag : Agent) (pg : Nat) (x : Option (Nat × Nat)) : (setLatch s ag pg x).skl = s.skl := rfl
@[simp] theorem setLatch_hst (s : State) (ag : Agent) (pg : Nat) (x : Option (Nat × Nat)) : (setLatch s ag pg x).hst = s.hst := rfl
@[simp] theorem setLatch_rdata (s : State) (ag : Agent) (pg : Nat) (x : Option (Nat × Nat)) : (setLatch s ag pg x).rdata = s.rdata := rfl
@[simp] theorem setLatch_out (s : State) (ag : Agent) (pg : Nat) (x : Option (Nat × Nat)) : (setLatch s ag pg x).out = s.out := rfl

@[simp] theorem setModel_pending (s : State) (p m : Nat) (x : Model) : (setModel s p m x).pending = s.pending := rfl
@[simp] theorem setModel_fv (s : State) (p m : Nat) (x : Model) : (setModel s p m x).fv = s.fv := rfl
@[simp] theorem setModel_now (s : State) (p m : Nat) (x : Model) : (setModel s p m x).now = s.now := rfl
@[simp] theorem setModel_regs (s : State) (p m : Nat) (x : Model) : (setModel s p m x).regs = s.regs := rfl
@[simp] theorem setModel_fab (s : State) (p m : Nat) (x : Model) : (setModel s p m x).fab = s.fab := rfl
@[simp] theorem setModel_front (s : State) (p m : Nat) (x : Model) : (setModel s p m x).front = s.front := rfl
@[simp] theorem setModel_mem (s : State) (p m : Nat) (x : Model) : (setModel s p m x).mem = s.mem := rfl
@[simp] theorem setModel_srv (s : State) (p m : Nat) (x : Model) : (setModel s p m x).srv = s.srv := rfl
@[simp] theorem setModel_pow (s : State) (p m : Nat) (x : Model) : (setModel s p m x).pow = s.pow := rfl
@[simp] theorem setModel_sec (s : State) (p m : Nat) (x : Model) : (setModel s p m x).sec = s.sec := rfl
@[simp] theorem setModel_skl (s : State) (p m : Nat) (x : Model) : (setModel s p m x).skl = s.skl := rfl
@[simp] theorem setModel_hst (s : State) (p m : Nat) (x : Model) : (setModel s p m x).hst = s.hst := rfl
@[simp] theorem setModel_rdata (s : State) (p m : Nat) (x : Model) : (setModel s p m x).rdata = s.rdata := rfl
@[simp] theorem setModel_out (s : State) (p m : Nat) (x : Model) : (setModel s p m x).out = s.out := rfl
@[simp] theorem setModel_lat (s : State) (p m : Nat) (x : Model) : (setModel s p m x).lat = s.lat := rfl

@[simp] theorem setLatchM_pending (s : State) (r : Nat) (x : Option (Nat × Nat)) : (setLatchM s r x).pending = s.pending := rfl
@[simp] theorem setLatchM_fv (s : State) (r : Nat) (x : Option (Nat × Nat)) : (setLatchM s r x).fv = s.fv := rfl
@[simp] theorem setLatchM_now (s : State) (r : Nat) (x : Option (Nat × Nat)) : (setLatchM s r x).now = s.now := rfl
@[simp] theorem setLatchM_regs (s : State) (r : Nat) (x : Option (Nat × Nat)) : (setLatchM s r x).regs = s.regs := rfl
@[simp] theorem setLatchM_fab (s : State) (r : Nat) (x : Option (Nat × Nat)) : (setLatchM s r x).fab = s.fab := rfl
@[simp] theorem setLatchM_wve (s : State) (r : Nat) (x : Option (Nat × Nat)) : (setLatchM s r x).wve = s.wve := rfl
@[simp] theorem setLatchM_mem (s : State) (r : Nat) (x : Option (Nat × Nat)) : (setLatchM s r x).mem = s.mem := rfl
@[simp] theorem setLatchM_srv (s : State) (r : Nat) (x : Option (Nat × Nat)) : (setLatchM s r x).srv = s.srv := rfl
@[simp] theorem setLatchM_pow (s : State) (r : Nat) (x : Option (Nat × Nat)) : (setLatchM s r x).pow = s.pow := rfl
@[simp] theorem setLatchM_sec (s : State) (r : Nat) (x : Option (Nat × Nat)) : (setLatchM s r x).sec = s.sec := rfl
@[simp] theorem setLatchM_skl (s : State) (r : Nat) (x : Option (Nat × Nat)) : (setLatchM s r x).skl = s.skl := rfl
@[simp] theorem setLatchM_hst (s : State) (r : Nat) (x : Option (Nat × Nat)) : (setLatchM s r x).hst = s.hst := rfl
@[simp] theorem setLatchM_rdata (s : State) (r : Nat) (x : Option (Nat × Nat)) : (setLatchM s r x).rdata = s.rdata := rfl
@[simp] theorem setLatchM_out (s : State) (r : Nat) (x : Option (Nat × Nat)) : (setLatchM s r x).out = s.out := rfl
@[simp] theorem setLatchM_lat (s : State) (r : Nat) (x : Option (Nat × Nat)) : (setLatchM s r x).lat = s.lat := rfl

@[simp] theorem setSslot_pending (s : State) (k : Nat) (x : SSlot) : (setSslot s k x).pending = s.pending := rfl
@[simp] theorem setSslot_fv (s : State) (k : Nat) (x : SSlot) : (setSslot s k x).fv = s.fv := rfl
@[simp] theorem setSslot_now (s : State) (k : Nat) (x : SSlot) : (setSslot s k x).now = s.now := rfl
@[simp] theorem setSslot_regs (s : State) (k : Nat) (x : SSlot) : (setSslot s k x).regs = s.regs := rfl
@[simp] theorem setSslot_fab (s : State) (k : Nat) (x : SSlot) : (setSslot s k x).fab = s.fab := rfl
@[simp] theorem setSslot_wve (s : State) (k : Nat) (x : SSlot) : (setSslot s k x).wve = s.wve := rfl
@[simp] theorem setSslot_front (s : State) (k : Nat) (x : SSlot) : (setSslot s k x).front = s.front := rfl
@[simp] theorem setSslot_mem (s : State) (k : Nat) (x : SSlot) : (setSslot s k x).mem = s.mem := rfl
@[simp] theorem setSslot_pow (s : State) (k : Nat) (x : SSlot) : (setSslot s k x).pow = s.pow := rfl
@[simp] theorem setSslot_sec (s : State) (k : Nat) (x : SSlot) : (setSslot s k x).sec = s.sec := rfl
@[simp] theorem setSslot_skl (s : State) (k : Nat) (x : SSlot) : (setSslot s k x).skl = s.skl := rfl
@[simp] theorem setSslot_hst (s : State) (k : Nat) (x : SSlot) : (setSslot s k x).hst = s.hst := rfl
@[simp] theorem setSslot_rdata (s : State) (k : Nat) (x : SSlot) : (setSslot s k x).rdata = s.rdata := rfl
@[simp] theorem setSslot_out (s : State) (k : Nat) (x : SSlot) : (setSslot s k x).out = s.out := rfl
@[simp] theorem setSslot_lat (s : State) (k : Nat) (x : SSlot) : (setSslot s k x).lat = s.lat := rfl

@[simp] theorem setBucket_pending (s : State) (p k : Nat) (v : Int) : (setBucket s p k v).pending = s.pending := rfl
@[simp] theorem setBucket_fv (s : State) (p k : Nat) (v : Int) : (setBucket s p k v).fv = s.fv := rfl
@[simp] theorem setBucket_now (s : State) (p k : Nat) (v : Int) : (setBucket s p k v).now = s.now := rfl
@[simp] theorem setBucket_regs (s : State) (p k : Nat) (v : Int) : (setBucket s p k v).regs = s.regs := rfl
@[simp] theorem setBucket_fab (s : State) (p k : Nat) (v : Int) : (setBucket s p k v).fab = s.fab := rfl
@[simp] theorem setBucket_wve (s : State) (p k : Nat) (v : Int) : (setBucket s p k v).wve = s.wve := rfl
@[simp] theorem setBucket_mem (s : State) (p k : Nat) (v : Int) : (setBucket s p k v).mem = s.mem := rfl
@[simp] theorem setBucket_srv (s : State) (p k : Nat) (v : Int) : (setBucket s p k v).srv = s.srv := rfl
@[simp] theorem setBucket_pow (s : State) (p k : Nat) (v : Int) : (setBucket s p k v).pow = s.pow := rfl
@[simp] theorem setBucket_sec (s : State) (p k : Nat) (v : Int) : (setBucket s p k v).sec = s.sec := rfl
@[simp] theorem setBucket_skl (s : State) (p k : Nat) (v : Int) : (setBucket s p k v).skl = s.skl := rfl
@[simp] theorem setBucket_hst (s : State) (p k : Nat) (v : Int) : (setBucket s p k v).hst = s.hst := rfl
@[simp] theorem setBucket_rdata (s : State) (p k : Nat) (v : Int) : (setBucket s p k v).rdata = s.rdata := rfl
@[simp] theorem setBucket_out (s : State) (p k : Nat) (v : Int) : (setBucket s p k v).out = s.out := rfl
@[simp] theorem setBucket_lat (s : State) (p k : Nat) (v : Int) : (setBucket s p k v).lat = s.lat := rfl

@[simp] theorem dropHeld_pending (s : State) (place : List Nat) : (dropHeld s place).pending = s.pending := rfl
@[simp] theorem dropHeld_fv (s : State) (place : List Nat) : (dropHeld s place).fv = s.fv := rfl
@[simp] theorem dropHeld_now (s : State) (place : List Nat) : (dropHeld s place).now = s.now := rfl
@[simp] theorem dropHeld_regs (s : State) (place : List Nat) : (dropHeld s place).regs = s.regs := rfl
@[simp] theorem dropHeld_fab (s : State) (place : List Nat) : (dropHeld s place).fab = s.fab := rfl
@[simp] theorem dropHeld_wve (s : State) (place : List Nat) : (dropHeld s place).wve = s.wve := rfl
@[simp] theorem dropHeld_front (s : State) (place : List Nat) : (dropHeld s place).front = s.front := rfl
@[simp] theorem dropHeld_srv (s : State) (place : List Nat) : (dropHeld s place).srv = s.srv := rfl
@[simp] theorem dropHeld_pow (s : State) (place : List Nat) : (dropHeld s place).pow = s.pow := rfl
@[simp] theorem dropHeld_sec (s : State) (place : List Nat) : (dropHeld s place).sec = s.sec := rfl
@[simp] theorem dropHeld_skl (s : State) (place : List Nat) : (dropHeld s place).skl = s.skl := rfl
@[simp] theorem dropHeld_hst (s : State) (place : List Nat) : (dropHeld s place).hst = s.hst := rfl
@[simp] theorem dropHeld_rdata (s : State) (place : List Nat) : (dropHeld s place).rdata = s.rdata := rfl
@[simp] theorem dropHeld_out (s : State) (place : List Nat) : (dropHeld s place).out = s.out := rfl
@[simp] theorem dropHeld_lat (s : State) (place : List Nat) : (dropHeld s place).lat = s.lat := rfl

@[simp] theorem stk_setStk (s : State) (k : Nat) (x : Stake) : stk (setStk s k x) k = x := tget_tset_same _ _ _ _
theorem stk_setStk_ne (s : State) {j k : Nat} (x : Stake) (h : j ≠ k) : stk (setStk s k x) j = stk s j := tget_tset_ne _ _ _ h

@[simp] theorem bsh_setBsh (s : State) (k : Nat) (x : Bushel) : bsh (setBsh s k x) k = x := tget_tset_same _ _ _ _
theorem bsh_setBsh_ne (s : State) {j k : Nat} (x : Bushel) (h : j ≠ k) : bsh (setBsh s k x) j = bsh s j := tget_tset_ne _ _ _ h

@[simp] theorem isl_setIsl (s : State) (k : Nat) (x : Island) : isl (setIsl s k x) k = x := tget_tset_same _ _ _ _
theorem isl_setIsl_ne (s : State) {j k : Nat} (x : Island) (h : j ≠ k) : isl (setIsl s k x) j = isl s j := tget_tset_ne _ _ _ h

@[simp] theorem sw_setSw (s : State) (k : Nat) (x : Switch) : sw (setSw s k x) k = x := tget_tset_same _ _ _ _
theorem sw_setSw_ne (s : State) {j k : Nat} (x : Switch) (h : j ≠ k) : sw (setSw s k x) j = sw s j := tget_tset_ne _ _ _ h

@[simp] theorem xing_setXing (s : State) (k : Nat) (x : Crossing) : xing (setXing s k x) k = x := tget_tset_same _ _ _ _
theorem xing_setXing_ne (s : State) {j k : Nat} (x : Crossing) (h : j ≠ k) : xing (setXing s k x) j = xing s j := tget_tset_ne _ _ _ h

@[simp] theorem bind_setBind (s : State) (k : Nat) (x : Binding) : bind (setBind s k x) k = x := tget_tset_same _ _ _ _
theorem bind_setBind_ne (s : State) {j k : Nat} (x : Binding) (h : j ≠ k) : bind (setBind s k x) j = bind s j := tget_tset_ne _ _ _ h

@[simp] theorem port_setPort (s : State) (k : Nat) (x : Port) : port (setPort s k x) k = x := tget_tset_same _ _ _ _
theorem port_setPort_ne (s : State) {j k : Nat} (x : Port) (h : j ≠ k) : port (setPort s k x) j = port s j := tget_tset_ne _ _ _ h

@[simp] theorem cgroup_setCgroup (s : State) (k : Nat) (x : CGroup) : cgroup (setCgroup s k x) k = x := tget_tset_same _ _ _ _
theorem cgroup_setCgroup_ne (s : State) {j k : Nat} (x : CGroup) (h : j ≠ k) : cgroup (setCgroup s k x) j = cgroup s j := tget_tset_ne _ _ _ h

@[simp] theorem bsh_setStk (s : State) (j k : Nat) (x : Stake) : bsh (setStk s k x) j = bsh s j := rfl
@[simp] theorem isl_setStk (s : State) (j k : Nat) (x : Stake) : isl (setStk s k x) j = isl s j := rfl
@[simp] theorem sw_setStk (s : State) (j k : Nat) (x : Stake) : sw (setStk s k x) j = sw s j := rfl
@[simp] theorem xing_setStk (s : State) (j k : Nat) (x : Stake) : xing (setStk s k x) j = xing s j := rfl

@[simp] theorem stk_setBsh (s : State) (j k : Nat) (x : Bushel) : stk (setBsh s k x) j = stk s j := rfl
@[simp] theorem isl_setBsh (s : State) (j k : Nat) (x : Bushel) : isl (setBsh s k x) j = isl s j := rfl
@[simp] theorem sw_setBsh (s : State) (j k : Nat) (x : Bushel) : sw (setBsh s k x) j = sw s j := rfl
@[simp] theorem xing_setBsh (s : State) (j k : Nat) (x : Bushel) : xing (setBsh s k x) j = xing s j := rfl

@[simp] theorem stk_setIsl (s : State) (j k : Nat) (x : Island) : stk (setIsl s k x) j = stk s j := rfl
@[simp] theorem bsh_setIsl (s : State) (j k : Nat) (x : Island) : bsh (setIsl s k x) j = bsh s j := rfl
@[simp] theorem sw_setIsl (s : State) (j k : Nat) (x : Island) : sw (setIsl s k x) j = sw s j := rfl
@[simp] theorem xing_setIsl (s : State) (j k : Nat) (x : Island) : xing (setIsl s k x) j = xing s j := rfl

@[simp] theorem stk_setSw (s : State) (j k : Nat) (x : Switch) : stk (setSw s k x) j = stk s j := rfl
@[simp] theorem bsh_setSw (s : State) (j k : Nat) (x : Switch) : bsh (setSw s k x) j = bsh s j := rfl
@[simp] theorem isl_setSw (s : State) (j k : Nat) (x : Switch) : isl (setSw s k x) j = isl s j := rfl
@[simp] theorem xing_setSw (s : State) (j k : Nat) (x : Switch) : xing (setSw s k x) j = xing s j := rfl

@[simp] theorem stk_setXing (s : State) (j k : Nat) (x : Crossing) : stk (setXing s k x) j = stk s j := rfl
@[simp] theorem bsh_setXing (s : State) (j k : Nat) (x : Crossing) : bsh (setXing s k x) j = bsh s j := rfl
@[simp] theorem isl_setXing (s : State) (j k : Nat) (x : Crossing) : isl (setXing s k x) j = isl s j := rfl
@[simp] theorem sw_setXing (s : State) (j k : Nat) (x : Crossing) : sw (setXing s k x) j = sw s j := rfl

@[simp] theorem stk_ww (s : State) (a : Nat) (v : Word) (j_ : Nat) : stk (ww s a v) j_ = stk s j_ := rfl
@[simp] theorem bsh_ww (s : State) (a : Nat) (v : Word) (j_ : Nat) : bsh (ww s a v) j_ = bsh s j_ := rfl
@[simp] theorem isl_ww (s : State) (a : Nat) (v : Word) (j_ : Nat) : isl (ww s a v) j_ = isl s j_ := rfl
@[simp] theorem sw_ww (s : State) (a : Nat) (v : Word) (j_ : Nat) : sw (ww s a v) j_ = sw s j_ := rfl
@[simp] theorem xing_ww (s : State) (a : Nat) (v : Word) (j_ : Nat) : xing (ww s a v) j_ = xing s j_ := rfl

@[simp] theorem stk_wr (s : State) (f : Fld) (i v : Nat) (j_ : Nat) : stk (wr s f i v) j_ = stk s j_ := rfl
@[simp] theorem bsh_wr (s : State) (f : Fld) (i v : Nat) (j_ : Nat) : bsh (wr s f i v) j_ = bsh s j_ := rfl
@[simp] theorem isl_wr (s : State) (f : Fld) (i v : Nat) (j_ : Nat) : isl (wr s f i v) j_ = isl s j_ := rfl
@[simp] theorem sw_wr (s : State) (f : Fld) (i v : Nat) (j_ : Nat) : sw (wr s f i v) j_ = sw s j_ := rfl
@[simp] theorem xing_wr (s : State) (f : Fld) (i v : Nat) (j_ : Nat) : xing (wr s f i v) j_ = xing s j_ := rfl

@[simp] theorem stk_bump (s : State) (f : Fld) (i n : Nat) (j_ : Nat) : stk (bump s f i n) j_ = stk s j_ := rfl
@[simp] theorem bsh_bump (s : State) (f : Fld) (i n : Nat) (j_ : Nat) : bsh (bump s f i n) j_ = bsh s j_ := rfl
@[simp] theorem isl_bump (s : State) (f : Fld) (i n : Nat) (j_ : Nat) : isl (bump s f i n) j_ = isl s j_ := rfl
@[simp] theorem sw_bump (s : State) (f : Fld) (i n : Nat) (j_ : Nat) : sw (bump s f i n) j_ = sw s j_ := rfl
@[simp] theorem xing_bump (s : State) (f : Fld) (i n : Nat) (j_ : Nat) : xing (bump s f i n) j_ = xing s j_ := rfl

@[simp] theorem stk_setMem (s : State) (m : Memory) (j_ : Nat) : stk (setMem s m) j_ = stk s j_ := rfl
@[simp] theorem bsh_setMem (s : State) (m : Memory) (j_ : Nat) : bsh (setMem s m) j_ = bsh s j_ := rfl
@[simp] theorem isl_setMem (s : State) (m : Memory) (j_ : Nat) : isl (setMem s m) j_ = isl s j_ := rfl
@[simp] theorem sw_setMem (s : State) (m : Memory) (j_ : Nat) : sw (setMem s m) j_ = sw s j_ := rfl
@[simp] theorem xing_setMem (s : State) (m : Memory) (j_ : Nat) : xing (setMem s m) j_ = xing s j_ := rfl

@[simp] theorem stk_setPow (s : State) (p : Power) (j_ : Nat) : stk (setPow s p) j_ = stk s j_ := rfl
@[simp] theorem bsh_setPow (s : State) (p : Power) (j_ : Nat) : bsh (setPow s p) j_ = bsh s j_ := rfl
@[simp] theorem isl_setPow (s : State) (p : Power) (j_ : Nat) : isl (setPow s p) j_ = isl s j_ := rfl
@[simp] theorem sw_setPow (s : State) (p : Power) (j_ : Nat) : sw (setPow s p) j_ = sw s j_ := rfl
@[simp] theorem xing_setPow (s : State) (p : Power) (j_ : Nat) : xing (setPow s p) j_ = xing s j_ := rfl

@[simp] theorem stk_modCmd (s : State) (r i : Nat) (f : Cmd → Cmd) (j_ : Nat) : stk (modCmd s r i f) j_ = stk s j_ := rfl
@[simp] theorem bsh_modCmd (s : State) (r i : Nat) (f : Cmd → Cmd) (j_ : Nat) : bsh (modCmd s r i f) j_ = bsh s j_ := rfl
@[simp] theorem isl_modCmd (s : State) (r i : Nat) (f : Cmd → Cmd) (j_ : Nat) : isl (modCmd s r i f) j_ = isl s j_ := rfl
@[simp] theorem sw_modCmd (s : State) (r i : Nat) (f : Cmd → Cmd) (j_ : Nat) : sw (modCmd s r i f) j_ = sw s j_ := rfl
@[simp] theorem xing_modCmd (s : State) (r i : Nat) (f : Cmd → Cmd) (j_ : Nat) : xing (modCmd s r i f) j_ = xing s j_ := rfl

@[simp] theorem stk_finish (s : State) (r i status sub : Nat) (j_ : Nat) : stk (finish s r i status sub) j_ = stk s j_ := rfl
@[simp] theorem bsh_finish (s : State) (r i status sub : Nat) (j_ : Nat) : bsh (finish s r i status sub) j_ = bsh s j_ := rfl
@[simp] theorem isl_finish (s : State) (r i status sub : Nat) (j_ : Nat) : isl (finish s r i status sub) j_ = isl s j_ := rfl
@[simp] theorem sw_finish (s : State) (r i status sub : Nat) (j_ : Nat) : sw (finish s r i status sub) j_ = sw s j_ := rfl
@[simp] theorem xing_finish (s : State) (r i status sub : Nat) (j_ : Nat) : xing (finish s r i status sub) j_ = xing s j_ := rfl

@[simp] theorem stk_fresh (s : State) (j_ : Nat) : stk (fresh s) j_ = stk s j_ := rfl
@[simp] theorem bsh_fresh (s : State) (j_ : Nat) : bsh (fresh s) j_ = bsh s j_ := rfl
@[simp] theorem isl_fresh (s : State) (j_ : Nat) : isl (fresh s) j_ = isl s j_ := rfl
@[simp] theorem sw_fresh (s : State) (j_ : Nat) : sw (fresh s) j_ = sw s j_ := rfl
@[simp] theorem xing_fresh (s : State) (j_ : Nat) : xing (fresh s) j_ = xing s j_ := rfl

@[simp] theorem stk_emit (s : State) (m : OutMsg) (j_ : Nat) : stk (emit s m) j_ = stk s j_ := rfl
@[simp] theorem bsh_emit (s : State) (m : OutMsg) (j_ : Nat) : bsh (emit s m) j_ = bsh s j_ := rfl
@[simp] theorem isl_emit (s : State) (m : OutMsg) (j_ : Nat) : isl (emit s m) j_ = isl s j_ := rfl
@[simp] theorem sw_emit (s : State) (m : OutMsg) (j_ : Nat) : sw (emit s m) j_ = sw s j_ := rfl
@[simp] theorem xing_emit (s : State) (m : OutMsg) (j_ : Nat) : xing (emit s m) j_ = xing s j_ := rfl

end Sys2Proof.Machine
end

