-- ==== Sys2Proof/Laws/Hold.lean ====
section
/-! SUPPORT. `FAB_HOLD` shown again changes that word of its island alone; stake and engine steps keep to their frames. -/

namespace Sys2Proof.Machine

theorem rw_wr_ne (s : State) (f : Fld) (i v a : Nat) (h : a ≠ f.addr i) : rw (wr s f i v) a = rw s a :=
  rw_ww_ne s _ h

/-- All but the registers and the hold causes on their way. -/
structure HoldsMove (s t : State) : Prop where
  rest : t = { s with regs := t.regs, fab := { s.fab with isl := t.fab.isl } }
  islands : ∀ j, (isl t j).still = (isl s j).still

theorem HoldsMove.refl (s : State) : HoldsMove s s := ⟨rfl, fun _ => rfl⟩

theorem HoldsMove.trans {s t u : State} (h : HoldsMove s t) (k : HoldsMove t u) : HoldsMove s u where
  rest := by
    have e := k.rest
    rw [h.rest] at e
    rw [e]
  islands j := (k.islands j).trans (h.islands j)

theorem HoldsMove.wr {s t : State} (h : HoldsMove s t) (f : Fld) (i v : Nat) : HoldsMove s (wr t f i v) where
  rest := by
    have e := h.rest
    generalize hx : Machine.wr t f i v = x
    have : x = { t with regs := x.regs } := by rw [← hx]; rfl
    rw [this, e]
  islands := h.islands

theorem HoldsMove.set (s : State) (k : Nat) (x : Island) (h : x.still = (isl s k).still) : HoldsMove s (setIsl s k x) where
  rest := rfl
  islands j := by
    by_cases e : j = k
    · subst e; rw [isl_setIsl]; exact h
    · rw [isl_setIsl_ne s x e]

theorem sendHold_moves (s : State) (k d : Nat) : HoldsMove s (sendHold s k d) := by
  unfold sendHold
  split
  · exact .refl s
  · extract_lets c x s1 y
    split
    · exact .refl s
    · refine (show HoldsMove s s1 from HoldsMove.set s k _ ?_).trans (HoldsMove.set s1 _ _ ?_) <;> rfl

theorem sendHolds_moves (s : State) (k : Nat) (l : List Nat) : HoldsMove s (l.foldl (fun s d => sendHold s k d) s) := by
  induction l generalizing s with
  | nil => exact .refl s
  | cons d l ih => exact (sendHold_moves s k d).trans (ih _)

theorem noteHold_moves (s : State) (n : Nat) : HoldsMove s (noteHold s n) := by
  unfold noteHold
  extract_lets s1 c s2 s3
  exact (((sendHolds_moves s n _).wr _ _ _).wr _ _ _).wr _ _ _

@[simp] theorem stk_noteHold (s : State) (n k : Nat) : stk (noteHold s n) k = stk s k := by
  rw [(noteHold_moves s n).rest]; rfl

@[simp] theorem bsh_noteHold (s : State) (n k : Nat) : bsh (noteHold s n) k = bsh s k := by
  rw [(noteHold_moves s n).rest]; rfl

theorem sendHolds_regs (s : State) (k : Nat) (l : List Nat) : (l.foldl (fun s d => sendHold s k d) s).regs = s.regs := by
  induction l generalizing s with
  | nil => rfl
  | cons d l ih =>
    refine (ih _).trans ?_
    show (sendHold s k d).regs = s.regs
    unfold sendHold
    split
    · rfl
    · extract_lets c
      split <;> rfl

theorem noteHold_words (s : State) (n a : Nat) (h : a ≠ holdWord n) : rw (noteHold s n) a = rw s a := by
  have h1 : a ≠ Reg.ISL_FAB_HOLD_OWN.addr n := h
  have h2 : a ≠ Reg.ISL_FAB_HOLD_IN.addr n := h
  have h3 : a ≠ Reg.ISL_FAB_HOLD_CAUSE.addr n := h
  unfold noteHold
  extract_lets s0 c s1 s2
  rw [rw_wr_ne s2 _ _ _ _ h3, rw_wr_ne s1 _ _ _ _ h2, rw_wr_ne s0 _ _ _ _ h1, rw, sendHolds_regs, rw]

theorem stakeFrame_put (s : State) (k : Nat) (x : Stake) : StakeFrame s (noteHold (setStk s k x) (k / 32)) k where
  rest := by rw [(noteHold_moves _ _).rest]; rfl
  fab := by rw [(noteHold_moves _ _).rest]; rfl
  others j h := by rw [stk_noteHold]; exact stk_setStk_ne s x h
  islands j := (noteHold_moves _ _).islands j
  words a h := noteHold_words _ _ a (by simpa using h)

theorem bushelFrame_put (s : State) (b : Nat) (y : Bushel) : BushelFrame s (noteHold (setBsh s b y) (b / 32)) b [] where
  rest := by rw [(noteHold_moves _ _).rest]; rfl
  fab := by rw [(noteHold_moves _ _).rest]; rfl
  others j h := by rw [bsh_noteHold]; exact bsh_setBsh_ne s y h
  islands j := (noteHold_moves _ _).islands j
  words a h := noteHold_words _ _ a (by simpa using h)

/-- A stake command whose word has come does what its meaning says. -/
theorem onStake_ready {s : State} {k op : Nat} (h : StakeReady s k op) (f : State → State) :
    onStake s k op f = .next (f s) := by
  simp [onStake, onUnit, live, h.unit, h.awake, h.at_]

/-- A tally command whose word has come does what its meaning says. -/
theorem onTally_ready {s : State} {b e op : Nat} (h : TallyReady s b e op) (f : State → State) :
    onTally s b e op f = .next (f s) := by
  simp [onTally, onUnit, live, h.unit, h.awake, h.at_]

end Sys2Proof.Machine
end

