-- ==== Sys2Proof/Laws/Kept.lean ====
section
/-! SUPPORT. What every operation keeps: the queue, and the canonical form of the memories. One rule for each way a state
is put together; the other files of this kind apply them, one lemma for each operation. -/

namespace Sys2Proof.Machine

/-- The queue is `q`, and the memories are in canonical form. -/
structure Kept (q : List Instr) (s : State) : Prop where
  queue : s.pending = q
  canon : Canon s

/-- The same of what a command answers, where it answers a next state. -/
def KeptOut (q : List Instr) : Out → Prop
  | .next s => Kept q s
  | _ => True

variable {q : List Instr} {s : State}

theorem twf_fold {α β : Type} [DecidableEq α] {d : Nat → α} (key : β → Nat) (val : β → α) (l : List β) {t : Tbl α}
    (w : twf d t = true) : twf d (l.foldl (fun t p => tset d t (key p) (val p)) t) = true := by
  induction l generalizing t with
  | nil => exact w
  | cons p l ih => exact ih (twf_tset _ _ w)

theorem twf_putWords {t : Tbl DWord} (k : Nat) (l : List Nat) (w : twf (fun _ => 0) t = true) :
    twf (fun _ => 0) (putWords t k l) = true :=
  twf_fold (fun p : Nat × Nat => k + p.2) (fun p => BitVec.ofNat 64 p.1) l.zipIdx w

theorem twf_filter {α : Type} [DecidableEq α] {d : Nat → α} (p : Nat × α → Bool) {t : Tbl α} (w : twf d t = true) :
    twf d (t.filter p) = true :=
  twfFrom_filter p w

theorem twf_putRel {α : Type} [DecidableEq α] {d : Nat → α} {t : Tbl α} (per : Nat) (place : List Nat) (l : List (Nat × α))
    (w : twf d t = true) : twf d (putRel d t per place l) = true :=
  twf_fold (fun e : Nat × α => per * place.getD (e.1 / per) 0 + e.1 % per) Prod.snd l (twf_filter _ w)

namespace Kept

/-- A state put together on the way is settled first. -/
theorem cut {g : Prop} (s : State) (h : Kept q s) (k : Kept q s → g) : g := k h

theorem ite {c : Prop} [Decidable c] {a b : State} (ha : c → Kept q a) (hb : ¬c → Kept q b) : Kept q (if c then a else b) := by
  split
  · exact ha ‹_›
  · exact hb ‹_›

theorem ite_fst {α : Type} {c : Prop} [Decidable c] {a b : State × α} (ha : c → Kept q a.1) (hb : ¬c → Kept q b.1) :
    Kept q (if c then a else b).1 := by
  split
  · exact ha ‹_›
  · exact hb ‹_›

theorem ite_snd {α : Type} {c : Prop} [Decidable c] {a b : α × State} (ha : c → Kept q a.2) (hb : ¬c → Kept q b.2) :
    Kept q (if c then a else b).2 := by
  split
  · exact ha ‹_›
  · exact hb ‹_›

theorem fst {α : Type} {p : State × α} {x : α} (e : p = (s, x)) (h : Kept q p.1) : Kept q s := by rw [e] at h; exact h

theorem snd {α : Type} {p : α × State} {x : α} (e : p = (x, s)) (h : Kept q p.2) : Kept q s := by rw [e] at h; exact h

theorem mk_other {nw : Nat} {fv : Nat} {wve : WeaveEng} {front : Front} {srv : Serving} {pow : Power} {sec : Security}
    {skl : Skein} {hst : HostSide} {rdata : Nat} {out : List OutMsg} {lat : Tbl (Option (Nat × Nat))} (h : Kept q s) :
    Kept q { pending := s.pending, fv := fv, now := nw, regs := s.regs, fab := s.fab, wve := wve, front := front,
             mem := s.mem, srv := srv, pow := pow, sec := sec, skl := skl, hst := hst, rdata := rdata, out := out,
             lat := lat } :=
  ⟨h.queue, ⟨h.canon.regs, h.canon.fab, h.canon.mem⟩⟩

theorem mk_fab {x : Fabric} (h : Kept q s) (hx : s.fab.Canon → x.Canon) : Kept q { s with fab := x } :=
  ⟨h.queue, ⟨h.canon.regs, hx h.canon.fab, h.canon.mem⟩⟩

theorem mk_mem {x : Memory} (h : Kept q s) (hx : s.mem.Canon → x.Canon) : Kept q { s with mem := x } :=
  ⟨h.queue, ⟨h.canon.regs, h.canon.fab, hx h.canon.mem⟩⟩

theorem mk_both {nw : Nat} {fv : Nat} {wve : WeaveEng} {front : Front} {srv : Serving} {pow : Power} {sec : Security}
    {skl : Skein} {hst : HostSide} {rdata : Nat} {out : List OutMsg} {lat : Tbl (Option (Nat × Nat))} {x : Memory}
    (h : Kept q s) (hx : s.mem.Canon → x.Canon) :
    Kept q { pending := s.pending, fv := fv, now := nw, regs := s.regs, fab := s.fab, wve := wve, front := front,
             mem := x, srv := srv, pow := pow, sec := sec, skl := skl, hst := hst, rdata := rdata, out := out,
             lat := lat } :=
  ⟨h.queue, ⟨h.canon.regs, h.canon.fab, hx h.canon.mem⟩⟩

theorem mk_any {nw : Nat} {fv : Nat} {wve : WeaveEng} {front : Front} {srv : Serving} {pow : Power} {sec : Security}
    {skl : Skein} {hst : HostSide} {rdata : Nat} {out : List OutMsg} {lat : Tbl (Option (Nat × Nat))} {x : Fabric}
    (h : Kept q s) (hx : s.fab.Canon → x.Canon) :
    Kept q { pending := s.pending, fv := fv, now := nw, regs := s.regs, fab := x, wve := wve, front := front,
             mem := s.mem, srv := srv, pow := pow, sec := sec, skl := skl, hst := hst, rdata := rdata, out := out,
             lat := lat } :=
  ⟨h.queue, ⟨h.canon.regs, hx h.canon.fab, h.canon.mem⟩⟩

theorem each {α : Type} {l : List α} {f : State → α → State} (h : Kept q s) (hf : ∀ t a, Kept q t → Kept q (f t a)) :
    Kept q (l.foldl f s) := by
  induction l generalizing s with
  | nil => exact h
  | cons a l ih => exact ih (hf _ _ h)

theorem each_ {α : Type} {l : List α} {f : State → α → State} (h : Kept q s) (hf : ∀ t a, Kept q t → Kept q (f t a)) :
    Kept q (eachOf l s f) := each h hf

/-- A fold that carries a state beside something else. -/
theorem each_fst {α β : Type} {l : List α} {f : State × β → α → State × β} {p : State × β} (h : Kept q p.1)
    (hf : ∀ t a, Kept q t.1 → Kept q (f t a).1) : Kept q (l.foldl f p).1 := by
  induction l generalizing p with
  | nil => exact h
  | cons a l ih => exact ih (hf _ _ h)

end Kept

namespace KeptOut

theorem next (h : Kept q s) : KeptOut q (.next s) := h

theorem fault {f : Fault} : KeptOut q (.fault f) := trivial

theorem unit {b : Bool} {o : Out} (h : KeptOut q o) : KeptOut q (onUnit b o) := by
  unfold onUnit
  split
  · exact h
  · trivial

theorem alive {t : State} (h : Kept q s) (ht : Kept q t) : KeptOut q (live s t) := by
  unfold live
  split
  · exact ht
  · exact h

theorem ite {c : Prop} [Decidable c] {a b : Out} (ha : c → KeptOut q a) (hb : ¬c → KeptOut q b) :
    KeptOut q (if c then a else b) := by
  split
  · exact ha ‹_›
  · exact hb ‹_›

end KeptOut

/-- The states a `Push` carries keep the queue and the form. -/
def KeptPush (q : List Instr) : Push → Prop
  | .stop s => Kept q s
  | .sent s => Kept q s
  | .fail _ _ => True

theorem KeptPush.stop (h : Kept q s) : KeptPush q (.stop s) := h

theorem KeptPush.of_stop {r : Push} (e : r = .stop s) (h : KeptPush q r) : Kept q s := by rw [e] at h; exact h

theorem KeptPush.sent (h : Kept q s) : KeptPush q (.sent s) := h

theorem KeptPush.of_sent {r : Push} (e : r = .sent s) (h : KeptPush q r) : Kept q s := by rw [e] at h; exact h

theorem KeptPush.fail {kind sub : Nat} : KeptPush q (.fail kind sub) := trivial

theorem KeptPush.ite {c : Prop} [Decidable c] {a b : Push} (ha : c → KeptPush q a) (hb : ¬c → KeptPush q b) :
    KeptPush q (if c then a else b) := by
  split
  · exact ha ‹_›
  · exact hb ‹_›

/-- The states a `PageRes` carries keep the queue and the form. -/
def KeptPageRes (q : List Instr) : PageRes → Prop
  | .done s => Kept q s
  | .wait s => Kept q s
  | .fail s _ _ => Kept q s

theorem KeptPageRes.done (h : Kept q s) : KeptPageRes q (.done s) := h

theorem KeptPageRes.of_done {r : PageRes} (e : r = .done s) (h : KeptPageRes q r) : Kept q s := by rw [e] at h; exact h

theorem KeptPageRes.wait (h : Kept q s) : KeptPageRes q (.wait s) := h

theorem KeptPageRes.of_wait {r : PageRes} (e : r = .wait s) (h : KeptPageRes q r) : Kept q s := by rw [e] at h; exact h

theorem KeptPageRes.fail {status sub : Nat} (h : Kept q s) : KeptPageRes q (.fail s status sub) := h

theorem KeptPageRes.of_fail {r : PageRes} {status sub : Nat} (e : r = .fail s status sub) (h : KeptPageRes q r) : Kept q s := by rw [e] at h; exact h

theorem KeptPageRes.ite {c : Prop} [Decidable c] {a b : PageRes} (ha : c → KeptPageRes q a) (hb : ¬c → KeptPageRes q b) :
    KeptPageRes q (if c then a else b) := by
  split
  · exact ha ‹_›
  · exact hb ‹_›

/-- The states a `Gate` carries keep the queue and the form. -/
def KeptGate (q : List Instr) : Gate → Prop
  | .go s => Kept q s
  | .wait s => Kept q s
  | .held s => Kept q s

theorem KeptGate.go (h : Kept q s) : KeptGate q (.go s) := h

theorem KeptGate.of_go {r : Gate} (e : r = .go s) (h : KeptGate q r) : Kept q s := by rw [e] at h; exact h

theorem KeptGate.wait (h : Kept q s) : KeptGate q (.wait s) := h

theorem KeptGate.of_wait {r : Gate} (e : r = .wait s) (h : KeptGate q r) : Kept q s := by rw [e] at h; exact h

theorem KeptGate.held (h : Kept q s) : KeptGate q (.held s) := h

theorem KeptGate.of_held {r : Gate} (e : r = .held s) (h : KeptGate q r) : Kept q s := by rw [e] at h; exact h

theorem KeptGate.ite {c : Prop} [Decidable c] {a b : Gate} (ha : c → KeptGate q a) (hb : ¬c → KeptGate q b) :
    KeptGate q (if c then a else b) := by
  split
  · exact ha ‹_›
  · exact hb ‹_›

/-- The states a `PinRes` carries keep the queue and the form. -/
def KeptPinRes (q : List Instr) : PinRes → Prop
  | .done s => Kept q s
  | .wait s => Kept q s
  | .quota s _ => Kept q s

theorem KeptPinRes.done (h : Kept q s) : KeptPinRes q (.done s) := h

theorem KeptPinRes.of_done {r : PinRes} (e : r = .done s) (h : KeptPinRes q r) : Kept q s := by rw [e] at h; exact h

theorem KeptPinRes.wait (h : Kept q s) : KeptPinRes q (.wait s) := h

theorem KeptPinRes.of_wait {r : PinRes} (e : r = .wait s) (h : KeptPinRes q r) : Kept q s := by rw [e] at h; exact h

theorem KeptPinRes.quota {sub : Nat} (h : Kept q s) : KeptPinRes q (.quota s sub) := h

theorem KeptPinRes.of_quota {r : PinRes} {sub : Nat} (e : r = .quota s sub) (h : KeptPinRes q r) : Kept q s := by rw [e] at h; exact h

theorem KeptPinRes.ite {c : Prop} [Decidable c] {a b : PinRes} (ha : c → KeptPinRes q a) (hb : ¬c → KeptPinRes q b) :
    KeptPinRes q (if c then a else b) := by
  split
  · exact ha ‹_›
  · exact hb ‹_›

/-- The states a `YieldRes` carries keep the queue and the form. -/
def KeptYieldRes (q : List Instr) : YieldRes → Prop
  | .started s => Kept q s
  | .no _ => True

theorem KeptYieldRes.started (h : Kept q s) : KeptYieldRes q (.started s) := h

theorem KeptYieldRes.of_started {r : YieldRes} (e : r = .started s) (h : KeptYieldRes q r) : Kept q s := by rw [e] at h; exact h

theorem KeptYieldRes.no {code : Nat} : KeptYieldRes q (.no code) := trivial

theorem KeptYieldRes.ite {c : Prop} [Decidable c] {a b : YieldRes} (ha : c → KeptYieldRes q a) (hb : ¬c → KeptYieldRes q b) :
    KeptYieldRes q (if c then a else b) := by
  split
  · exact ha ‹_›
  · exact hb ‹_›

/-- The states a `WinRes` carries keep the queue and the form. -/
def KeptWinRes (q : List Instr) : WinRes → Prop
  | .ready => True
  | .wait s => Kept q s
  | .flt s _ _ _ => Kept q s

theorem KeptWinRes.ready : KeptWinRes q (.ready) := trivial

theorem KeptWinRes.wait (h : Kept q s) : KeptWinRes q (.wait s) := h

theorem KeptWinRes.of_wait {r : WinRes} (e : r = .wait s) (h : KeptWinRes q r) : Kept q s := by rw [e] at h; exact h

theorem KeptWinRes.flt {page kind sub : Nat} (h : Kept q s) : KeptWinRes q (.flt s page kind sub) := h

theorem KeptWinRes.of_flt {r : WinRes} {page kind sub : Nat} (e : r = .flt s page kind sub) (h : KeptWinRes q r) : Kept q s := by rw [e] at h; exact h

theorem KeptWinRes.ite {c : Prop} [Decidable c] {a b : WinRes} (ha : c → KeptWinRes q a) (hb : ¬c → KeptWinRes q b) :
    KeptWinRes q (if c then a else b) := by
  split
  · exact ha ‹_›
  · exact hb ‹_›

/-- The states an `ErrAt` carries keep the queue and the form. -/
def KeptErrAt (q : List Instr) : ErrAt → Prop
  | .repaired s => Kept q s
  | .poisoned s _ => Kept q s
  | .reads s => Kept q s

theorem KeptErrAt.repaired (h : Kept q s) : KeptErrAt q (.repaired s) := h

theorem KeptErrAt.of_repaired {r : ErrAt} (e : r = .repaired s) (h : KeptErrAt q r) : Kept q s := by rw [e] at h; exact h

theorem KeptErrAt.poisoned {sub : Nat} (h : Kept q s) : KeptErrAt q (.poisoned s sub) := h

theorem KeptErrAt.of_poisoned {r : ErrAt} {sub : Nat} (e : r = .poisoned s sub) (h : KeptErrAt q r) : Kept q s := by
  rw [e] at h; exact h

theorem KeptErrAt.reads (h : Kept q s) : KeptErrAt q (.reads s) := h

theorem KeptErrAt.of_reads {r : ErrAt} (e : r = .reads s) (h : KeptErrAt q r) : Kept q s := by rw [e] at h; exact h

theorem KeptErrAt.ite {c : Prop} [Decidable c] {a b : ErrAt} (ha : c → KeptErrAt q a) (hb : ¬c → KeptErrAt q b) :
    KeptErrAt q (if c then a else b) := by
  split
  · exact ha ‹_›
  · exact hb ‹_›

/-- The state an answer carries, where it carries one. -/
def KeptOpt (q : List Instr) : Option State → Prop
  | some s => Kept q s
  | none => True

theorem keptOpt_fold {α : Type} {l : List α} {f : Option State → α → Option State}
    (hf : ∀ t a, KeptOpt q t → KeptOpt q (f t a)) {r : Option State} (h : KeptOpt q r) : KeptOpt q (l.foldl f r) := by
  induction l generalizing r with
  | nil => exact h
  | cons a l ih => exact ih (hf _ _ h)

/-- A walk of the index walker keeps the queue and the form of the state it makes. -/
structure KeptW {α : Type} (q : List Instr) (act : W α) : Prop where
  keeps : ∀ z, Kept q z.s → Kept q (act z).2.s

theorem KeptW.pure {α : Type} {a : α} : KeptW q (Pure.pure a : W α) := ⟨fun _ h => h⟩

theorem KeptW.bind {α β : Type} {x : W α} {f : α → W β} (hx : KeptW q x) (hf : ∀ a, KeptW q (f a)) : KeptW q (x >>= f) :=
  ⟨fun z h => (hf (x z).1).keeps (x z).2 (hx.keeps z h)⟩

theorem KeptW.getBind {β : Type} {f : Walk → W β} (hf : ∀ y, Kept q y.s → KeptW q (f y)) : KeptW q (get >>= f) :=
  ⟨fun z h => (hf z h).keeps z h⟩

theorem KeptW.full : KeptW q (fun z => ((), { z with full := true }) : W Unit) := ⟨fun _ h => h⟩

theorem KeptW.ite {α : Type} {c : Prop} [Decidable c] {a b : W α} (ha : c → KeptW q a) (hb : ¬c → KeptW q b) :
    KeptW q (if c then a else b) := by
  split
  · exact ha ‹_›
  · exact hb ‹_›

theorem KeptOpt.some_ (h : Kept q s) : KeptOpt q (some s) := h

theorem KeptOpt.none_ : KeptOpt q none := trivial

theorem KeptOpt.of_some {r : Option State} (e : r = some s) (h : KeptOpt q r) : Kept q s := by rw [e] at h; exact h

theorem KeptOpt.getD {r : Option State} (h : KeptOpt q r) (hs : Kept q s) : Kept q (r.getD s) := by
  cases r with
  | none => exact hs
  | some t => exact h

theorem KeptOpt.orElse {r : Option State} {f : Unit → Option State} (h : KeptOpt q r) (hf : ∀ u, KeptOpt q (f u)) :
    KeptOpt q (r.orElse f) := by
  cases r with
  | none => exact hf ()
  | some t => exact h

theorem KeptOpt.ite {c : Prop} [Decidable c] {a b : Option State} (ha : c → KeptOpt q a) (hb : ¬c → KeptOpt q b) :
    KeptOpt q (if c then a else b) := by
  split
  · exact ha ‹_›
  · exact hb ‹_›

end Sys2Proof.Machine
end

