-- ==== Sys2Proof/Laws/KeptOps.lean ====
section
/-! SUPPORT. The operations of `Machine/Ops.lean` keep the queue and the canonical form of the memories. -/

namespace Sys2Proof.Machine

variable {qu : List Instr}

theorem ww_kept (s : State) (a : Nat) (v : Word) (h : Kept q s) : Kept q (ww s a v) :=
  ⟨h.queue, ⟨twf_tset a v h.canon.regs, h.canon.fab, h.canon.mem⟩⟩

theorem setStk_kept (s : State) (k : Nat) (x : Stake) (h : Kept q s) : Kept q (setStk s k x) :=
  h.mk_fab fun c => { c with stk := twf_tset k x c.stk }

theorem setBsh_kept (s : State) (k : Nat) (x : Bushel) (h : Kept q s) : Kept q (setBsh s k x) :=
  h.mk_fab fun c => { c with bsh := twf_tset k x c.bsh }

theorem setIsl_kept (s : State) (k : Nat) (x : Island) (h : Kept q s) : Kept q (setIsl s k x) :=
  h.mk_fab fun c => { c with isl := twf_tset k x c.isl }

theorem setSw_kept (s : State) (k : Nat) (x : Switch) (h : Kept q s) : Kept q (setSw s k x) :=
  h.mk_fab fun c => { c with sw := twf_tset k x c.sw }

theorem setXing_kept (s : State) (k : Nat) (x : Crossing) (h : Kept q s) : Kept q (setXing s k x) :=
  h.mk_fab fun c => { c with xing := twf_tset k x c.xing }

theorem sramWrite_kept (s : State) (b a n v : Nat) (h : Kept q s) : Kept q (sramWrite s b a n v) :=
  h.mk_fab fun c => { c with sram := twf_tstore n _ v c.sram, badPar := twf_tclear _ n c.badPar }

theorem setPar_kept (s : State) (b a : Nat) (x : Bool) (h : Kept q s) : Kept q (setPar s b a x) :=
  h.mk_fab fun c => { c with badPar := twf_tset _ x c.badPar }

theorem dropHeld_kept (s : State) (place : List Nat) (h : Kept q s) : Kept q (dropHeld s place) :=
  h.mk_mem fun c => { c with }

theorem wr_kept (s : State) (f : Fld) (i v : Nat) (hK : Kept qu s) : Kept qu (wr s f i v) := by
  unfold wr
  repeat' with_reducible first | assumption | apply ww_kept

theorem bump_kept (s : State) (f : Fld) (i n : Nat) (hK : Kept qu s) : Kept qu (bump s f i n) := by
  unfold bump
  repeat' with_reducible first | assumption | apply wr_kept

theorem up_kept (s : State) (f : Fld) (i n : Nat) (hK : Kept qu s) : Kept qu (up s f i n) := by
  unfold up
  repeat' with_reducible first | assumption | apply wr_kept

theorem down_kept (s : State) (f : Fld) (i n : Nat) (hK : Kept qu s) : Kept qu (down s f i n) := by
  unfold down
  repeat' with_reducible first | assumption | apply wr_kept

theorem setBit_kept (s : State) (f : Fld) (i k : Nat) (hK : Kept qu s) : Kept qu (setBit s f i k) := by
  unfold setBit
  repeat' with_reducible first | assumption | apply wr_kept

theorem clrBit_kept (s : State) (f : Fld) (i k : Nat) (hK : Kept qu s) : Kept qu (clrBit s f i k) := by
  unfold clrBit
  repeat' with_reducible first | assumption | apply wr_kept

theorem wr2_kept (s : State) (lo hi : Fld) (i v : Nat) (hK : Kept qu s) : Kept qu (wr2 s lo hi i v) := by
  unfold wr2
  repeat' with_reducible first | assumption | apply wr_kept

theorem bump2_kept (s : State) (lo hi : Fld) (i n : Nat) (hK : Kept qu s) : Kept qu (bump2 s lo hi i n) := by
  unfold bump2
  repeat' with_reducible first | assumption | apply wr2_kept

theorem fresh_kept (s : State) (hK : Kept qu s) : Kept qu (fresh s) := by
  unfold fresh
  repeat' first
    | with_reducible assumption
    | (fail_if_no_progress with_reducible apply Kept.mk_other)

theorem emit_kept (s : State) (m : OutMsg) (hK : Kept qu s) : Kept qu (emit s m) := by
  unfold emit
  repeat' first
    | with_reducible assumption
    | (fail_if_no_progress with_reducible apply Kept.mk_other)

theorem setBind_kept (s : State) (k : Nat) (x : Binding) (hK : Kept qu s) : Kept qu (setBind s k x) := by
  unfold setBind
  repeat' first
    | with_reducible assumption
    | (extract_lets +onlyGivenNames x1; revert x1; intro y1)
    | (fail_if_no_progress with_reducible apply Kept.mk_other)

theorem modCmd_kept (s : State) (r i : Nat) (f : Cmd → Cmd) (hK : Kept qu s) : Kept qu (modCmd s r i f) := by
  unfold modCmd
  repeat' first
    | with_reducible assumption
    | (extract_lets +onlyGivenNames x1; revert x1; intro y1)
    | (fail_if_no_progress with_reducible apply Kept.mk_other)

theorem finish_kept (s : State) (r i status sub : Nat) (hK : Kept qu s) : Kept qu (finish s r i status sub) := by
  unfold finish
  repeat' with_reducible first | assumption | apply modCmd_kept

theorem setPort_kept (s : State) (n : Nat) (x : Port) (hK : Kept qu s) : Kept qu (setPort s n x) := by
  unfold setPort
  repeat' first
    | with_reducible assumption
    | (extract_lets +onlyGivenNames x1; revert x1; intro y1)
    | (fail_if_no_progress with_reducible apply Kept.mk_other)

theorem setCgroup_kept (s : State) (g : Nat) (x : CGroup) (hK : Kept qu s) : Kept qu (setCgroup s g x) := by
  unfold setCgroup
  repeat' first
    | with_reducible assumption
    | (extract_lets +onlyGivenNames x1; revert x1; intro y1)
    | (fail_if_no_progress with_reducible apply Kept.mk_other)

theorem setInv_kept (s : State) (bd : Nat) (nw : Bool) (v : Option Invoc) (hK : Kept qu s) : Kept qu (setInv s bd nw
    v) := by
  unfold setInv
  repeat' first
    | with_reducible assumption
    | intro _
    | (extract_lets +onlyGivenNames x1; revert x1; intro y1)
    | (with_reducible first | apply Kept.ite | apply setBind_kept)

theorem idleIslands_kept (s : State) (place : List Nat) (hK : Kept qu s) : Kept qu (idleIslands s place) := by
  unfold idleIslands
  repeat' first
    | with_reducible assumption
    | intro _
    | (extract_lets +onlyGivenNames s1; refine Kept.cut (q := qu) s1 ?_ ?_; subst s1; rotate_left; revert s1; intro
        z1; rotate_left)
    | (extract_lets +onlyGivenNames x1; revert x1; intro y1)
    | (with_reducible first | apply wr_kept | apply setIsl_kept | apply Kept.each_)

theorem endInvoc_kept (s : State) (bd : Nat) (nw : Bool) (status sub : Nat) (hK : Kept qu s) : Kept qu (endInvoc s
    bd nw status sub) := by
  unfold endInvoc
  repeat' first
    | with_reducible assumption
    | intro _
    | (extract_lets +onlyGivenNames s1; refine Kept.cut (q := qu) s1 ?_ ?_; subst s1; rotate_left; revert s1; intro
        z1; rotate_left)
    | (extract_lets +onlyGivenNames x1; revert x1; intro y1)
    | (with_reducible first
        | apply Kept.ite | apply wr_kept | apply modCmd_kept | apply finish_kept | apply setInv_kept
        | apply idleIslands_kept | apply dropHeld_kept)
    | split

theorem stopWeave_kept (s : State) (bd : Nat) (nw : Bool) (status sub : Nat) (hK : Kept qu s) : Kept qu (stopWeave s
    bd nw status sub) := by
  unfold stopWeave
  repeat' with_reducible first | assumption | apply endInvoc_kept

theorem runFault_kept (s : State) (bd code wisl pos v : Nat) (hK : Kept qu s) : Kept qu (runFault s bd code wisl pos
    v) := by
  unfold runFault
  repeat' first
    | with_reducible assumption
    | intro _
    | (extract_lets +onlyGivenNames s1; refine Kept.cut (q := qu) s1 ?_ ?_; subst s1; rotate_left; revert s1; intro
        z1; rotate_left)
    | (with_reducible first | apply Kept.ite | apply wr_kept)

theorem stopIsl_kept (s : State) (k status sub : Nat) (hK : Kept qu s) : Kept qu (stopIsl s k status sub) := by
  unfold stopIsl
  repeat' with_reducible first | assumption | apply stopWeave_kept

end Sys2Proof.Machine
end

