-- ==== Sys2Proof/Laws/KeptFlags.lean ====
section
/-! SUPPORT. The operations of `Machine/Flags.lean` keep the queue and the canonical form of the memories. -/

namespace Sys2Proof.Machine

variable {qu : List Instr}

theorem count_kept (s : State) (k : Nat) (c : Cnt) (hK : Kept qu s) : Kept qu (count s k c) := by
  unfold count
  repeat' first
    | with_reducible assumption
    | intro _
    | (extract_lets +onlyGivenNames s1; refine Kept.cut (q := qu) s1 ?_ ?_; subst s1; rotate_left; revert s1; intro
        z1; rotate_left)
    | with_reducible apply bump_kept

theorem sendHold_kept (s : State) (k d : Nat) (hK : Kept qu s) : Kept qu (sendHold s k d) := by
  unfold sendHold
  repeat' first
    | with_reducible assumption
    | intro _
    | (extract_lets +onlyGivenNames s1; refine Kept.cut (q := qu) s1 ?_ ?_; subst s1; rotate_left; revert s1; intro
        z1; rotate_left)
    | (extract_lets +onlyGivenNames x1; revert x1; intro y1)
    | (with_reducible first | apply Kept.ite | apply setIsl_kept)
    | split

theorem noteHold_kept (s : State) (k : Nat) (hK : Kept qu s) : Kept qu (noteHold s k) := by
  unfold noteHold
  repeat' first
    | with_reducible assumption
    | intro _
    | (extract_lets +onlyGivenNames s1; refine Kept.cut (q := qu) s1 ?_ ?_; subst s1; rotate_left; revert s1; intro
        z1; rotate_left)
    | (extract_lets +onlyGivenNames x1; revert x1; intro y1)
    | (with_reducible first | apply wr_kept | apply sendHold_kept | apply Kept.each)

theorem stkFreeze_kept (s : State) (k code : Nat) (hK : Kept qu s) : Kept qu (stkFreeze s k code) := by
  unfold stkFreeze
  repeat' first
    | with_reducible assumption
    | (extract_lets +onlyGivenNames x1; revert x1; intro y1)
    | (with_reducible first | apply setStk_kept | apply noteHold_kept)

theorem bshFreeze_kept (s : State) (b src code : Nat) (hK : Kept qu s) : Kept qu (bshFreeze s b src code) := by
  unfold bshFreeze
  repeat' first
    | with_reducible assumption
    | (extract_lets +onlyGivenNames x1; revert x1; intro y1)
    | (with_reducible first | apply setBsh_kept | apply noteHold_kept)

theorem stkFault_kept (s : State) (k cause word axis index d e m : Nat) (hK : Kept qu s) : Kept qu (stkFault s k
    cause word axis index d e m) := by
  unfold stkFault
  repeat' first
    | with_reducible assumption
    | intro _
    | (extract_lets +onlyGivenNames s1; refine Kept.cut (q := qu) s1 ?_ ?_; subst s1; rotate_left; revert s1; intro
        z1; rotate_left)
    | (extract_lets +onlyGivenNames x1; revert x1; intro y1)
    | (with_reducible first | apply Kept.ite | apply wr_kept)

theorem bshFault_kept (s : State) (b cause eng word addr : Nat) (hK : Kept qu s) : Kept qu (bshFault s b cause eng
    word addr) := by
  unfold bshFault
  repeat' first
    | with_reducible assumption
    | intro _
    | (extract_lets +onlyGivenNames s1; refine Kept.cut (q := qu) s1 ?_ ?_; subst s1; rotate_left; revert s1; intro
        z1; rotate_left)
    | (extract_lets +onlyGivenNames x1; revert x1; intro y1)
    | (with_reducible first | apply Kept.ite | apply wr_kept)

theorem fabFault_kept (s : State) (n pos cause port code src info : Nat) (hK : Kept qu s) : Kept qu (fabFault s n
    pos cause port code src info) := by
  unfold fabFault
  repeat' first
    | with_reducible assumption
    | intro _
    | (extract_lets +onlyGivenNames s1; refine Kept.cut (q := qu) s1 ?_ ?_; subst s1; rotate_left; revert s1; intro
        z1; rotate_left)
    | (with_reducible first | apply Kept.ite | apply wr_kept)

theorem checkEvent_kept (s : State) (n : Nat) (hK : Kept qu s) : Kept qu (checkEvent s n) := by
  unfold checkEvent
  repeat' with_reducible first | assumption | apply wr_kept | apply bump_kept

theorem suspect_kept (s : State) (n : Nat) (hK : Kept qu s) : Kept qu (suspect s n) := by
  unfold suspect
  repeat' with_reducible first | assumption | apply wr_kept

theorem failEvent_kept (s : State) (n status sub : Nat) (hK : Kept qu s) : Kept qu (failEvent s n status sub) := by
  unfold failEvent
  repeat' first
    | with_reducible assumption
    | intro _
    | (extract_lets +onlyGivenNames s1; refine Kept.cut (q := qu) s1 ?_ ?_; subst s1; rotate_left; revert s1; intro
        z1; rotate_left)
    | (with_reducible first | apply Kept.ite | apply stopIsl_kept | apply checkEvent_kept | apply suspect_kept)

end Sys2Proof.Machine
end

