-- ==== Sys2Proof/Laws/KeptLink.lean ====
section
/-! SUPPORT. The operations of `Machine/Link.lean` keep the queue and the canonical form of the memories. -/

namespace Sys2Proof.Machine

variable {qu : List Instr}

theorem judgePort_kept (s : State) (n : Nat) (hK : Kept qu s) : Kept qu (judgePort s n) := by
  unfold judgePort
  repeat' first
    | with_reducible assumption
    | intro _
    | (extract_lets +onlyGivenNames x1; revert x1; intro y1)
    | (with_reducible first | apply Kept.ite | apply wr_kept)

theorem transmit_kept (s : State) (n : Nat) (f : Flit) (hK : Kept qu s) : Kept qu (transmit s n f) := by
  unfold transmit
  repeat' first
    | with_reducible assumption
    | (extract_lets +onlyGivenNames x1; revert x1; intro y1)
    | (with_reducible first | apply bump_kept | apply emit_kept | apply setPort_kept)

theorem sendOn_kept (s : State) (n : Nat) (f : Flit) (hK : Kept qu s) : Kept qu (sendOn s n f) := by
  unfold sendOn
  repeat' first
    | with_reducible assumption
    | intro _
    | (extract_lets +onlyGivenNames x1; revert x1; intro y1)
    | (with_reducible first | apply Kept.ite | apply setPort_kept | apply transmit_kept)

theorem flushPort_kept (s : State) (n : Nat) (hK : Kept qu s) : Kept qu (flushPort s n) := by
  unfold flushPort
  repeat' first
    | with_reducible assumption
    | intro _
    | (extract_lets +onlyGivenNames x1; revert x1; intro y1)
    | (with_reducible first | apply setPort_kept | apply sendOn_kept | apply Kept.each_)

theorem choosePort_kept (s : State) (f : Flit) (hK : Kept qu s) : Kept qu (choosePort s f).2 := by
  unfold choosePort
  repeat' first
    | with_reducible assumption
    | intro _
    | (extract_lets +onlyGivenNames x1; revert x1; intro y1)
    | with_reducible apply Kept.ite_snd
    | (fail_if_no_progress with_reducible apply Kept.mk_other)

theorem route_kept (s : State) (f : Flit) (hK : Kept qu s) : Kept qu (route s f) := by
  unfold route
  repeat' first
    | with_reducible assumption
    | intro _
    | (with_reducible first | apply Kept.ite | apply sendOn_kept | apply choosePort_kept)
    | split
    | refine Kept.snd (by with_reducible assumption) ?_

theorem sendMgmt_kept (s : State) (n kind lseq : Nat) (hK : Kept qu s) : Kept qu (sendMgmt s n kind lseq) := by
  unfold sendMgmt
  repeat' with_reducible first | assumption | apply sendOn_kept

theorem takeCredits_kept (s : State) (n : Nat) (h : FlitHdr) (hK : Kept qu s) : Kept qu (takeCredits s n h) := by
  unfold takeCredits
  repeat' first
    | with_reducible assumption
    | (extract_lets +onlyGivenNames x1; revert x1; intro y1)
    | (with_reducible first | apply setPort_kept | apply flushPort_kept)

theorem receive_kept (s : State) (n vc : Nat) (h : FlitHdr) (hK : Kept qu s) : Kept qu (receive s n vc h).1 := by
  unfold receive
  repeat' first
    | with_reducible assumption
    | intro _
    | (extract_lets +onlyGivenNames s1; refine Kept.cut (q := qu) s1 ?_ ?_; subst s1; rotate_left; revert s1; intro
        z1; rotate_left)
    | (extract_lets +onlyGivenNames x1; revert x1; intro y1)
    | (with_reducible first
        | apply Kept.ite | apply Kept.ite_fst | apply bump_kept | apply setPort_kept | apply sendMgmt_kept
        | apply takeCredits_kept)

theorem dropPort_kept (s : State) (n st : Nat) (hK : Kept qu s) : Kept qu (dropPort s n st) := by
  unfold dropPort
  repeat' first
    | with_reducible assumption
    | intro _
    | (extract_lets +onlyGivenNames x1; revert x1; intro y1)
    | (with_reducible first | apply wr_kept | apply setPort_kept | apply route_kept | apply Kept.each_)

end Sys2Proof.Machine
end

