-- ==== Sys2Proof/Laws/KeptIntr.lean ====
section
/-! SUPPORT. The operations of `Machine/Intr.lean` keep the queue and the canonical form of the memories. -/

namespace Sys2Proof.Machine

variable {qu : List Instr}

theorem sendVec_kept (s : State) (v : Nat) (hK : Kept qu s) : Kept qu (sendVec s v) := by
  unfold sendVec
  repeat' first
    | with_reducible assumption
    | intro _
    | (with_reducible first | apply Kept.ite | apply wr_kept | apply emit_kept)

theorem forwardInt_kept (s : State) (pg : Nat) (hK : Kept qu s) : Kept qu (forwardInt s pg) := by
  unfold forwardInt
  repeat' first
    | with_reducible assumption
    | intro _
    | (with_reducible first | apply Kept.ite | apply route_kept)

theorem raiseInt_kept (s : State) (pg k : Nat) (hK : Kept qu s) : Kept qu (raiseInt s pg k) := by
  unfold raiseInt
  repeat' first
    | with_reducible assumption
    | intro _
    | (extract_lets +onlyGivenNames s1; refine Kept.cut (q := qu) s1 ?_ ?_; subst s1; rotate_left; revert s1; intro
        z1; rotate_left)
    | (extract_lets +onlyGivenNames x1; revert x1; intro y1)
    | (with_reducible first | apply Kept.ite | apply setBit_kept | apply sendVec_kept | apply forwardInt_kept)

theorem pageErr_kept (s : State) (f : Fld) (pg : Nat) (hK : Kept qu s) : Kept qu (pageErr s f pg) := by
  unfold pageErr
  repeat' with_reducible first | assumption | apply wr_kept

end Sys2Proof.Machine
end

