-- ==== Sys2Proof/Laws/KeptTranslate.lean ====
section
/-! SUPPORT. The operations of `Machine/Translate.lean` keep the queue and the canonical form of the memories. -/

namespace Sys2Proof.Machine

variable {qu : List Instr}

theorem setMem_kept (s : State) (m : Memory) (h : Kept qu s) (hm : s.mem.Canon → m.Canon) : Kept qu (setMem s m) :=
  h.mk_mem hm

/-- Writing only what is no memory of the tiers or the range's tables keeps their form. -/
theorem setMem_other (s : State) {badTbl : Tbl Bool} {fsegs : Tbl (Option FSeg)} {segs : Tbl (Option Segm)}
    {t3last tblNext : Nat} {migs : List Migr} {migNext : Nat} {faults : List FaultRec} {seqNext : Tbl Nat}
    {locks : List PageLock} {slots : Tbl (Option ASlot)} {noFill found : List (Nat × Nat × Nat)} (h : Kept qu s) :
    Kept qu (setMem s
      { t2 := s.mem.t2, t3 := s.mem.t3, l1 := s.mem.l1, l2 := s.mem.l2, l3 := s.mem.l3, sh := s.mem.sh,
        badTbl := badTbl, fsegs := fsegs, segs := segs, t3last := t3last, tblNext := tblNext, migs := migs, migNext := migNext,
        faults := faults, seqNext := seqNext, locks := locks, slots := slots, noFill := noFill, found := found }) :=
  setMem_kept _ _ h fun c => { c with }

theorem setL1_kept (s : State) (p page e : Nat) (h : Kept qu s) : Kept qu (setL1 s p page e) :=
  setMem_kept _ _ h fun c => { c with l1 := twf_tset _ _ c.l1 }

theorem setL2_kept (s : State) (p page e : Nat) (h : Kept qu s) : Kept qu (setL2 s p page e) :=
  setMem_kept _ _ h fun c => { c with l2 := twf_tset _ _ c.l2 }

theorem setL3_kept (s : State) (p page e : Nat) (h : Kept qu s) : Kept qu (setL3 s p page e) :=
  setMem_kept _ _ h fun c => { c with l3 := twf_tset _ _ c.l3 }

theorem setSh_kept (s : State) (p page e : Nat) (h : Kept qu s) : Kept qu (setSh s p page e) :=
  setMem_kept _ _ h fun c => { c with sh := twf_tset _ _ c.sh }

theorem clearFrame_kept (s : State) (t f : Nat) (h : Kept qu s) : Kept qu (clearFrame s t f) := by
  unfold clearFrame
  split
  · exact setMem_kept _ _ h fun c => { c with t2 := twf_tclear _ _ c.t2 }
  · exact setMem_kept _ _ h fun c => { c with t3 := twf_tclear _ _ c.t3 }

theorem setMem_t2 (s : State) (a n v : Nat) (h : Kept qu s) :
    Kept qu (setMem s { s.mem with t2 := tstore (fun _ => 0) s.mem.t2 a n v }) :=
  setMem_kept _ _ h fun c => { c with t2 := twf_tstore _ _ _ c.t2 }

theorem setMem_t3 (s : State) (a n v : Nat) (h : Kept qu s) :
    Kept qu (setMem s { s.mem with t3 := tstore (fun _ => 0) s.mem.t3 a n v }) :=
  setMem_kept _ _ h fun c => { c with t3 := twf_tstore _ _ _ c.t3 }

theorem setMem_sh (s : State) (k n : Nat) (h : Kept qu s) :
    Kept qu (setMem s { s.mem with sh := tclear s.mem.sh k n }) :=
  setMem_kept _ _ h fun c => { c with sh := twf_tclear _ _ c.sh }

theorem setTblBad_kept (s : State) (l p page : Nat) (b : Bool) (hK : Kept qu s) : Kept qu (setTblBad s l p page b) := by
  unfold setTblBad
  repeat' first
    | with_reducible assumption
    | (extract_lets +onlyGivenNames x1; revert x1; intro y1)
    | with_reducible apply setMem_other

theorem askWin_kept (s : State) (q : WReq) (last : Bool) (hK : Kept qu s) : Kept qu (askWin s q last) := by
  unfold askWin
  repeat' with_reducible first | assumption | apply route_kept

theorem newWin_kept (s : State) (q : WReq) (last : Bool) (hK : Kept qu s) : Kept qu (newWin s q last) := by
  unfold newWin
  repeat' first
    | with_reducible assumption
    | (extract_lets +onlyGivenNames x1; revert x1; intro y1)
    | with_reducible apply askWin_kept
    | (fail_if_no_progress with_reducible apply Kept.mk_other)

theorem winWrite_kept (s : State) (p page w wp off n v : Nat) (hK : Kept qu s) : Kept qu (winWrite s p page w wp off
    n v) := by
  unfold winWrite
  repeat' first
    | with_reducible assumption
    | intro _
    | (extract_lets +onlyGivenNames f1; (have hf : _ → _ := f1); clear hf; subst f1; try beta_reduce)
    | (extract_lets +onlyGivenNames x1; revert x1; intro y1)
    | (with_reducible first | apply fresh_kept | apply newWin_kept | apply Kept.each_)

theorem pageWrite_kept (s : State) (p da n v : Nat) (hK : Kept qu s) : Kept qu (pageWrite s p da n v) := by
  unfold pageWrite
  repeat' first
    | with_reducible assumption
    | intro _
    | (extract_lets +onlyGivenNames x1; revert x1; intro y1)
    | (with_reducible first
        | apply setMem_t2 | apply setMem_t3 | apply Kept.ite | apply emit_kept | apply winWrite_kept)
    | split

theorem memWrite_kept (s : State) (p da n v : Nat) (hK : Kept qu s) : Kept qu (memWrite s p da n v) := by
  unfold memWrite
  repeat' first
    | with_reducible assumption
    | intro _
    | (extract_lets +onlyGivenNames x1; revert x1; intro y1)
    | (with_reducible first | apply pageWrite_kept | apply Kept.each)

theorem setSeg_kept (s : State) (k : Nat) (v : Option Segm) (hK : Kept qu s) : Kept qu (setSeg s k v) := by
  unfold setSeg
  repeat' first
    | with_reducible assumption
    | (extract_lets +onlyGivenNames x1; revert x1; intro y1)
    | with_reducible apply setMem_other

theorem setFseg_kept (s : State) (k : Nat) (v : Option FSeg) (hK : Kept qu s) : Kept qu (setFseg s k v) := by
  unfold setFseg
  repeat' first
    | with_reducible assumption
    | (extract_lets +onlyGivenNames x1; revert x1; intro y1)
    | with_reducible apply setMem_other

theorem charge_kept (s : State) (p t : Nat) (pool : Bool) (hK : Kept qu s) : Kept qu (charge s p t pool) := by
  unfold charge
  repeat' first
    | with_reducible assumption
    | intro _
    | (with_reducible first | apply Kept.ite | apply up_kept)

theorem uncharge_kept (s : State) (p t : Nat) (pool : Bool) (hK : Kept qu s) : Kept qu (uncharge s p t pool) := by
  unfold uncharge
  repeat' first
    | with_reducible assumption
    | intro _
    | (with_reducible first | apply Kept.ite | apply down_kept)

theorem takeFseg_kept (s : State) (p seg t f : Nat) (pool : Bool) (hK : Kept qu s) : Kept qu (takeFseg s p seg t f
    pool) := by
  unfold takeFseg
  repeat' first
    | with_reducible assumption
    | intro _
    | (extract_lets +onlyGivenNames s1; refine Kept.cut (q := qu) s1 ?_ ?_; subst s1; rotate_left; revert s1; intro
        z1; rotate_left)
    | (extract_lets +onlyGivenNames x1; revert x1; intro y1)
    | (with_reducible first
        | apply setMem_other | apply Kept.ite | apply down_kept | apply fresh_kept | apply setFseg_kept
        | apply charge_kept)

theorem dropFseg_kept (s : State) (t f : Nat) (hK : Kept qu s) : Kept qu (dropFseg s t f) := by
  unfold dropFseg
  repeat' first
    | with_reducible assumption
    | intro _
    | (extract_lets +onlyGivenNames s1; refine Kept.cut (q := qu) s1 ?_ ?_; subst s1; rotate_left; revert s1; intro
        z1; rotate_left)
    | (with_reducible first
        | apply Kept.ite | apply bump_kept | apply up_kept | apply setFseg_kept | apply uncharge_kept)
    | split

theorem ensureTables_kept (s : State) (p page : Nat) (hK : Kept qu s) : KeptOpt qu (ensureTables s p page) := by
  unfold ensureTables
  extract_lets r a b need n s1 s2 s3
  have h1 : Kept qu s1 := by
    subst s1
    split
    · exact hK
    · exact wr_kept _ _ _ _ (wr_kept _ _ _ _ hK)
  have h2 : Kept qu s2 := by
    subst s2
    split
    · exact h1
    · exact setL1_kept _ _ _ _ h1
  have h3 : Kept qu s3 := by
    subst s3
    split
    · exact h2
    · exact setL2_kept _ _ _ _ h2
  clear_value s3
  split
  · trivial
  · exact down_kept _ _ _ _ (setMem_other _ h3)

theorem dropTables_kept (s : State) (p page : Nat) (hK : Kept qu s) : Kept qu (dropTables s p page) := by
  unfold dropTables
  repeat' first
    | with_reducible assumption
    | intro _
    | (extract_lets +onlyGivenNames s1; refine Kept.cut (q := qu) s1 ?_ ?_; subst s1; rotate_left; revert s1; intro
        z1; rotate_left)
    | (extract_lets +onlyGivenNames x1; revert x1; intro y1)
    | (with_reducible first
        | apply setMem_sh | apply Kept.ite | apply wr_kept | apply up_kept | apply setTblBad_kept
        | apply setL1_kept | apply setL2_kept)

theorem makeLocal_kept (s : State) (p page t f rdwr hint : Nat) (hK : Kept qu s) : Kept qu (makeLocal s p page t f
    rdwr hint) := by
  unfold makeLocal
  repeat' first
    | with_reducible assumption
    | (extract_lets +onlyGivenNames x1; revert x1; intro y1)
    | (with_reducible first | apply setL3_kept | apply clearFrame_kept)

theorem leaveLocal_kept (s : State) (p page : Nat) (hK : Kept qu s) : Kept qu (leaveLocal s p page) := by
  unfold leaveLocal
  repeat' first
    | with_reducible assumption
    | intro _
    | (extract_lets +onlyGivenNames x1; revert x1; intro y1)
    | (with_reducible first | apply Kept.ite | apply setSeg_kept | apply dropFseg_kept)
    | split

theorem heatUp_kept (s : State) (p da n : Nat) (hK : Kept qu s) : Kept qu (heatUp s p da n) := by
  unfold heatUp
  repeat' first
    | with_reducible assumption
    | intro _
    | (extract_lets +onlyGivenNames x1; revert x1; intro y1)
    | (with_reducible first | apply Kept.ite | apply setFseg_kept | apply Kept.each)
    | split

theorem setMigBits_kept (s : State) (k : Nat) (b : Bool) (hK : Kept qu s) : Kept qu (setMigBits s k b) := by
  unfold setMigBits
  repeat' first
    | with_reducible assumption
    | intro _
    | (with_reducible first | apply setL3_kept | apply Kept.each)

theorem noteMigs_kept (s : State) (hK : Kept qu s) : Kept qu (noteMigs s) := by
  unfold noteMigs
  repeat' first
    | with_reducible assumption
    | intro _
    | (with_reducible first | apply wr_kept | apply Kept.each)

theorem startMig_kept (s : State) (k t cause : Nat) (own : Option (Nat × Nat)) (like : Bool) (hK : Kept qu s) : Kept
    qu (startMig s k t cause own like).1 := by
  unfold startMig
  repeat' first
    | with_reducible assumption
    | intro _
    | (extract_lets +onlyGivenNames s1; refine Kept.cut (q := qu) s1 ?_ ?_; subst s1; rotate_left; revert s1; intro
        z1; rotate_left)
    | (extract_lets +onlyGivenNames x1; revert x1; intro y1)
    | (with_reducible first
        | apply setMem_other | apply Kept.ite | apply down_kept | apply fresh_kept | apply setSeg_kept
        | apply setFseg_kept | apply takeFseg_kept | apply setMigBits_kept | apply noteMigs_kept)
    | split
    | (fail_if_no_progress clear_value *; split)

theorem abortMig_kept (s : State) (m : Migr) (hK : Kept qu s) : Kept qu (abortMig s m) := by
  unfold abortMig
  repeat' first
    | with_reducible assumption
    | intro _
    | (extract_lets +onlyGivenNames s1; refine Kept.cut (q := qu) s1 ?_ ?_; subst s1; rotate_left; revert s1; intro
        z1; rotate_left)
    | (extract_lets +onlyGivenNames x1; revert x1; intro y1)
    | (with_reducible first
        | apply setMem_other | apply Kept.ite | apply up_kept | apply setSeg_kept | apply setFseg_kept
        | apply dropFseg_kept | apply setMigBits_kept | apply noteMigs_kept)
    | split

theorem abortOnWrite_kept (s : State) (p da n : Nat) (hK : Kept qu s) : Kept qu (abortOnWrite s p da n) := by
  unfold abortOnWrite
  repeat' first
    | with_reducible assumption
    | intro _
    | (with_reducible first | apply Kept.ite | apply bump_kept | apply abortMig_kept | apply Kept.each)
    | split

theorem accWrite_kept (s : State) (p da n v : Nat) (hK : Kept qu s) : Kept qu (accWrite s p da n v) := by
  unfold accWrite
  repeat' with_reducible first | assumption | apply memWrite_kept | apply heatUp_kept | apply abortOnWrite_kept

theorem told_kept (s : State) (p : Nat) (l : List Nat) (hK : Kept qu s) : Kept qu (told s p l) := by
  unfold told
  repeat' first
    | with_reducible assumption
    | (extract_lets +onlyGivenNames x1; revert x1; intro y1)
    | with_reducible apply setMem_other

theorem holdFault_kept (s : State) (p page kind sub : Nat) (write : Bool) (h : HeldReq) (hK : Kept qu s) : Kept qu
    (holdFault s p page kind sub write h) := by
  unfold holdFault
  repeat' first
    | with_reducible assumption
    | intro _
    | (extract_lets +onlyGivenNames s1; refine Kept.cut (q := qu) s1 ?_ ?_; subst s1; rotate_left; revert s1; intro
        z1; rotate_left)
    | (extract_lets +onlyGivenNames x1; revert x1; intro y1)
    | (with_reducible first
        | apply setMem_other | apply Kept.ite | apply bump_kept | apply fresh_kept | apply told_kept)
    | split

theorem claim_kept (s : State) (h : HeldReq) (hK : Kept qu s) : Kept qu (claim s h) := by
  unfold claim
  repeat' first
    | with_reducible assumption
    | (extract_lets +onlyGivenNames x1; revert x1; intro y1)
    | (fail_if_no_progress with_reducible apply Kept.mk_other)

theorem dropRead_kept (s : State) (h : HeldReq) (hK : Kept qu s) : Kept qu (dropRead s h) := by
  unfold dropRead
  repeat' first
    | with_reducible assumption
    | (extract_lets +onlyGivenNames x1; revert x1; intro y1)
    | (fail_if_no_progress with_reducible apply Kept.mk_other)

theorem winAsk_kept (s : State) (p : Nat) (h : HeldReq) (ps : List (Nat × Nat × Nat × Nat)) (hK : Kept qu s) :
    KeptWinRes qu (winAsk s p h ps) := by
  unfold winAsk
  repeat' first
    | with_reducible assumption
    | intro _
    | (extract_lets +onlyGivenNames f1; (have hf : _ → _ := f1); clear hf; subst f1; try beta_reduce)
    | (extract_lets +onlyGivenNames x1; revert x1; intro y1)
    | (with_reducible first
        | apply newWin_kept | apply KeptWinRes.ite | apply KeptWinRes.ready | apply KeptWinRes.wait
        | apply KeptWinRes.flt | apply Kept.each)
    | (fail_if_no_progress with_reducible apply Kept.mk_other)
    | (fail_if_no_progress clear_value *; split)

theorem winRead_kept (s : State) (p : Nat) (h : HeldReq) (l : List (Nat × Nat)) (hK : Kept qu s) : KeptWinRes qu
    (winRead s p h l) := by
  unfold winRead
  repeat' with_reducible first | assumption | apply winAsk_kept

theorem markHeld_kept (s : State) (r i : Nat) (hK : Kept qu s) : Kept qu (markHeld s r i) := by
  unfold markHeld
  repeat' with_reducible first | assumption | apply modCmd_kept

theorem setBucket_kept (s : State) (p k : Nat) (v : Int) (hK : Kept qu s) : Kept qu (setBucket s p k v) := by
  unfold setBucket
  repeat' first
    | with_reducible assumption
    | (extract_lets +onlyGivenNames x1; revert x1; intro y1)
    | (fail_if_no_progress with_reducible apply Kept.mk_other)

theorem draw_kept (s : State) (p k n : Nat) (hK : Kept qu s) : Kept qu (draw s p k n) := by
  unfold draw
  repeat' first
    | with_reducible assumption
    | intro _
    | (with_reducible first | apply Kept.ite | apply setBucket_kept)

theorem chargePb_kept (s : State) (p n : Nat) (hK : Kept qu s) : Kept qu (chargePb s p n) := by
  unfold chargePb
  repeat' first
    | with_reducible assumption
    | intro _
    | (extract_lets +onlyGivenNames s1; refine Kept.cut (q := qu) s1 ?_ ?_; subst s1; rotate_left; revert s1; intro
        z1; rotate_left)
    | (extract_lets +onlyGivenNames x1; revert x1; intro y1)
    | with_reducible apply bump2_kept
    | (fail_if_no_progress with_reducible apply Kept.mk_other)

theorem porterTile_kept (s : State) (q n : Nat) (hK : Kept qu s) : Kept qu (porterTile s q n) := by
  unfold porterTile
  repeat' with_reducible first | assumption | apply bump_kept

theorem porterMoved_kept (s : State) (p q n : Nat) (hK : Kept qu s) : Kept qu (porterMoved s p q n) := by
  unfold porterMoved
  repeat' first
    | with_reducible assumption
    | (extract_lets +onlyGivenNames x1; revert x1; intro y1)
    | (with_reducible first | apply bump_kept | apply fresh_kept | apply chargePb_kept | apply porterTile_kept)

end Sys2Proof.Machine
end

