-- ==== Sys2Proof/Laws/KeptAccess.lean ====
section
/-! SUPPORT. The operations of `Machine/Access.lean` keep the queue and the canonical form of the memories. -/

namespace Sys2Proof.Machine

variable {qu : List Instr}

theorem noteErr_kept (s : State) (pg : Nat) (hK : Kept qu s) : Kept qu (noteErr s pg) := by
  unfold noteErr
  repeat' with_reducible first | assumption | apply wr_kept

theorem refused_kept (s : State) (pg : Nat) (hK : Kept qu s) : Kept qu (refused s pg) := by
  unfold refused
  repeat' with_reducible first | assumption | apply bump_kept | apply pageErr_kept

theorem lockAcq_kept (s : State) (ag : Agent) (pg : Nat) (hK : Kept qu s) : Kept qu (lockAcq s ag pg) := by
  unfold lockAcq
  repeat' first
    | with_reducible assumption
    | intro _
    | (with_reducible first | apply Kept.ite | apply wr_kept | apply refused_kept)

theorem lockRel_kept (s : State) (ag : Agent) (pg : Nat) (hK : Kept qu s) : Kept qu (lockRel s ag pg) := by
  unfold lockRel
  repeat' first
    | with_reducible assumption
    | intro _
    | (with_reducible first | apply Kept.ite | apply wr_kept | apply refused_kept)

theorem lockSeal_kept (s : State) (pg : Nat) (hK : Kept qu s) : Kept qu (lockSeal s pg) := by
  unfold lockSeal
  repeat' first
    | with_reducible assumption
    | intro _
    | (with_reducible first | apply Kept.ite | apply wr_kept)

theorem intSetBits_kept (s : State) (pg v : Nat) (hK : Kept qu s) : Kept qu (intSetBits s pg v) := by
  unfold intSetBits
  repeat' first
    | with_reducible assumption
    | intro _
    | (with_reducible first | apply raiseInt_kept | apply Kept.each_)

theorem writeField_kept (a v : Nat) (s : State) (f : Fld) (hK : Kept qu s) : Kept qu (writeField a v s f) := by
  unfold writeField
  repeat' first
    | with_reducible assumption
    | (extract_lets +onlyGivenNames x1; revert x1; intro y1)
    | with_reducible apply ww_kept
    | split

theorem writeWord_kept (ag : Agent) (fx : WriteFx) (s : State) (a v : Nat) (hK : ∀ x0 x1 x2 x3, Kept qu x0 → Kept qu
    x3 → Kept qu (fx x0 x1 x2 x3)) (hK1 : Kept qu s) : Kept qu (writeWord ag fx s a v) := by
  unfold writeWord
  repeat' first
    | with_reducible assumption
    | intro _
    | (extract_lets +onlyGivenNames s1; refine Kept.cut (q := qu) s1 ?_ ?_; subst s1; rotate_left; revert s1; intro
        z1; rotate_left)
    | (extract_lets +onlyGivenNames x1; revert x1; intro y1)
    | (with_reducible first
        | apply hK | apply Kept.ite | apply ww_kept | apply pageErr_kept | apply noteErr_kept | apply lockAcq_kept
        | apply lockRel_kept | apply lockSeal_kept | apply intSetBits_kept | apply writeField_kept
        | apply Kept.each)

theorem noFx_kept  : ∀ x0 x1 x2 x3, Kept qu x0 → Kept qu x3 → Kept qu (noFx x0 x1 x2 x3) := by
  unfold noFx
  repeat' first
    | with_reducible assumption
    | intro _

theorem regWrite_kept (ag : Agent) (a size v : Nat) (fx : WriteFx) (s : State) (hK : ∀ x0 x1 x2 x3, Kept qu x0 →
    Kept qu x3 → Kept qu (fx x0 x1 x2 x3)) (hK1 : Kept qu s) : Kept qu (regWrite ag a size v fx s) := by
  unfold regWrite
  repeat' first
    | with_reducible assumption
    | intro _
    | (extract_lets +onlyGivenNames s1; refine Kept.cut (q := qu) s1 ?_ ?_; subst s1; rotate_left; revert s1; intro
        z1; rotate_left)
    | (extract_lets +onlyGivenNames x1; revert x1; intro y1)
    | (with_reducible first
        | apply hK | apply Kept.ite | apply bump_kept | apply pageErr_kept | apply refused_kept
        | apply writeWord_kept | apply noFx_kept | apply Kept.each)
    | split

theorem agentWrite_kept (ag : Agent) (f : Fld) (i v : Nat) (fx : State → State → State) (s : State) (hK : ∀ x0 x1,
    Kept qu x0 → Kept qu x1 → Kept qu (fx x0 x1)) (hK1 : Kept qu s) : Kept qu (agentWrite ag f i v fx s) := by
  unfold agentWrite
  repeat' first
    | with_reducible assumption
    | intro _
    | (with_reducible first | apply hK | apply regWrite_kept)

theorem setSem_kept (s : State) (p i v : Nat) (hK : Kept qu s) : Kept qu (setSem s p i v) := by
  unfold setSem
  repeat' first
    | with_reducible assumption
    | (extract_lets +onlyGivenNames x1; revert x1; intro y1)
    | (fail_if_no_progress with_reducible apply Kept.mk_other)

theorem setSemErr_kept (s : State) (p i : Nat) (b : Bool) (hK : Kept qu s) : Kept qu (setSemErr s p i b) := by
  unfold setSemErr
  repeat' first
    | with_reducible assumption
    | (extract_lets +onlyGivenNames x1; revert x1; intro y1)
    | (fail_if_no_progress with_reducible apply Kept.mk_other)

theorem clearRc_kept (s : State) (a : Nat) (hK : Kept qu s) : Kept qu (clearRc s a) := by
  unfold clearRc
  repeat' first
    | with_reducible assumption
    | intro _
    | (with_reducible first | apply ww_kept | apply Kept.each)

theorem setLatch_kept (s : State) (ag : Agent) (pg : Nat) (x : Option (Nat × Nat)) (hK : Kept qu s) : Kept qu
    (setLatch s ag pg x) := by
  unfold setLatch
  repeat' first
    | with_reducible assumption
    | (fail_if_no_progress with_reducible apply Kept.mk_other)

theorem regRead_kept (s : State) (ag : Agent) (a size : Nat) (hK : Kept qu s) : Kept qu (regRead s ag a size).2 := by
  unfold regRead
  repeat' first
    | with_reducible assumption
    | intro _
    | (extract_lets +onlyGivenNames x1; revert x1; intro y1)
    | (with_reducible first
        | apply Kept.ite | apply Kept.ite_snd | apply bump_kept | apply clearRc_kept | apply setLatch_kept)
    | split

theorem readTo_kept (s : State) (ag : Agent) (a size : Nat) (hK : Kept qu s) : Kept qu (readTo s ag a size) := by
  unfold readTo
  repeat' first
    | with_reducible assumption
    | intro _
    | (extract_lets +onlyGivenNames s1; refine Kept.cut (q := qu) s1 ?_ ?_; subst s1; rotate_left; revert s1; intro
        z1; rotate_left)
    | (extract_lets +onlyGivenNames x1; revert x1; intro y1)
    | (with_reducible first | apply Kept.ite | apply regRead_kept)
    | (fail_if_no_progress with_reducible apply Kept.mk_other)

theorem takeLines_kept (s : State) (p da n : Nat) (hK : Kept qu s) : Kept qu (takeLines s p da n) := by
  unfold takeLines
  repeat' first
    | with_reducible assumption
    | intro _
    | (extract_lets +onlyGivenNames f1; (have hf : _ → _ := f1); clear hf; subst f1; try beta_reduce)
    | (extract_lets +onlyGivenNames x1; revert x1; intro y1)
    | with_reducible apply Kept.ite
    | (fail_if_no_progress with_reducible apply Kept.mk_other)

theorem drawRange_kept (s : State) (p da n : Nat) (hK : Kept qu s) : Kept qu (drawRange s p da n) := by
  unfold drawRange
  repeat' first
    | with_reducible assumption
    | intro _
    | (with_reducible first | apply draw_kept | apply Kept.each_)
    | split

theorem gate1_kept (j s : State) (p da n : Nat) (write reg : Bool) (h : HeldReq) (hK : Kept qu j) (hK1 : Kept qu s)
    : KeptGate qu (gate1 j s p da n write reg h) := by
  unfold gate1
  repeat' first
    | with_reducible assumption
    | intro _
    | (with_reducible first
        | apply holdFault_kept | apply drawRange_kept | apply KeptGate.ite | apply KeptGate.go
        | apply KeptGate.wait | apply KeptGate.held)
    | split

theorem gateList_kept (j s : State) (p : Nat) (write reg : Bool) (h : HeldReq) (l : List (Nat × Nat)) (hJ : Kept qu
    j) (hK : Kept qu s) : KeptGate qu (gateList j s p write reg h l) := by
  induction l generalizing s with
  | nil => exact hK
  | cons y l ih =>
    unfold gateList
    repeat' first
      | (with_reducible first | assumption | apply ih | apply gate1_kept)
      | split
      | refine KeptGate.of_go (by with_reducible assumption) ?_

theorem gates_kept (j s : State) (p : Nat) (write reg : Bool) (h : HeldReq) (l : List (Nat × Nat)) (hK : Kept qu j)
    (hK1 : Kept qu s) : KeptGate qu (gates j s p write reg h l) := by
  unfold gates
  repeat' first
    | with_reducible assumption
    | intro _
    | (with_reducible first
        | apply holdFault_kept | apply winRead_kept | apply gateList_kept | apply KeptGate.go | apply KeptGate.wait
        | apply KeptGate.held | apply KeptWinRes.ite | apply KeptWinRes.ready)
    | split
    | refine KeptGate.of_go (by with_reducible assumption) ?_
    | refine KeptGate.of_held (by with_reducible assumption) ?_
    | refine KeptWinRes.of_wait (by with_reducible assumption) ?_
    | refine KeptWinRes.of_flt (by with_reducible assumption) ?_

theorem gate_kept (s : State) (p da n : Nat) (write reg : Bool) (h : HeldReq) (hK : Kept qu s) : KeptGate qu (gate s
    p da n write reg h) := by
  unfold gate
  repeat' with_reducible first | assumption | apply gates_kept

theorem gateAll_kept (s : State) (p : Nat) (write : Bool) (h : HeldReq) (l : List (Nat × Nat)) (hK : Kept qu s) :
    KeptGate qu (gateAll s p write h l) := by
  unfold gateAll
  repeat' with_reducible first | assumption | apply gates_kept

end Sys2Proof.Machine
end

