-- ==== Sys2Proof/Laws/KeptOperands.lean ====
section
/-! SUPPORT. The operations of `Machine/Operands.lean` keep the queue and the canonical form of the memories. -/

namespace Sys2Proof.Machine

variable {qu : List Instr}

theorem pullStk_kept (s : State) (k : Nat) (hK : Kept qu s) : Kept qu (pullStk s k) := by
  unfold pullStk
  repeat' first
    | with_reducible assumption
    | (extract_lets +onlyGivenNames x1; revert x1; intro y1)
    | (with_reducible first | apply setStk_kept | apply setSw_kept)

theorem pullBsh_kept (s : State) (b : Nat) (hK : Kept qu s) : Kept qu (pullBsh s b) := by
  unfold pullBsh
  repeat' first
    | with_reducible assumption
    | (extract_lets +onlyGivenNames x1; revert x1; intro y1)
    | (with_reducible first | apply setBsh_kept | apply setSw_kept)

end Sys2Proof.Machine
end

