-- ==== Sys2Proof/Laws/KeptFrontEnd.lean ====
section
/-! SUPPORT. The operations of `Machine/FrontEnd.lean` keep the queue and the canonical form of the memories. -/

namespace Sys2Proof.Machine

variable {qu : List Instr}

theorem setStanding_kept (s : State) (cls p v : Nat) (hK : Kept qu s) : Kept qu (setStanding s cls p v) := by
  unfold setStanding
  repeat' first
    | with_reducible assumption
    | intro _
    | (extract_lets +onlyGivenNames x1; revert x1; intro y1)
    | with_reducible apply Kept.ite
    | (fail_if_no_progress with_reducible apply Kept.mk_other)

theorem raiseStanding_kept (s : State) (c : Cmd) (hK : Kept qu s) : Kept qu (raiseStanding s c) := by
  unfold raiseStanding
  repeat' first
    | with_reducible assumption
    | intro _
    | (extract_lets +onlyGivenNames x1; revert x1; intro y1)
    | (with_reducible first | apply Kept.ite | apply setStanding_kept)
    | split
    | (fail_if_no_progress clear_value *; split)

theorem noteReady_kept (s : State) (hK : Kept qu s) : Kept qu (noteReady s) := by
  unfold noteReady
  repeat' first
    | with_reducible assumption
    | intro _
    | (extract_lets +onlyGivenNames s1; refine Kept.cut (q := qu) s1 ?_ ?_; subst s1; rotate_left; revert s1; intro
        z1; rotate_left)
    | (extract_lets +onlyGivenNames x1; revert x1; intro y1)
    | (with_reducible first | apply Kept.ite | apply raiseStanding_kept | apply Kept.each_)
    | split
    | (fail_if_no_progress with_reducible apply Kept.mk_other)

theorem setModel_kept (s : State) (p m : Nat) (x : Model) (hK : Kept qu s) : Kept qu (setModel s p m x) := by
  unfold setModel
  repeat' first
    | with_reducible assumption
    | (extract_lets +onlyGivenNames x1; revert x1; intro y1)
    | (fail_if_no_progress with_reducible apply Kept.mk_other)

theorem swapCheck_kept (s : State) (p m : Nat) (hK : Kept qu s) : Kept qu (swapCheck s p m) := by
  unfold swapCheck
  repeat' first
    | with_reducible assumption
    | intro _
    | (extract_lets +onlyGivenNames s1; refine Kept.cut (q := qu) s1 ?_ ?_; subst s1; rotate_left; revert s1; intro
        z1; rotate_left)
    | (extract_lets +onlyGivenNames x1; revert x1; intro y1)
    | (with_reducible first | apply Kept.ite | apply setSem_kept | apply noteReady_kept | apply setModel_kept)

theorem refAdd_kept (s : State) (p m set : Nat) (d : Int) (hK : Kept qu s) : Kept qu (refAdd s p m set d) := by
  unfold refAdd
  repeat' first
    | with_reducible assumption
    | (extract_lets +onlyGivenNames x1; revert x1; intro y1)
    | with_reducible apply setModel_kept

theorem setLatchM_kept (s : State) (r : Nat) (x : Option (Nat × Nat)) (hK : Kept qu s) : Kept qu (setLatchM s r x) := by
  unfold setLatchM
  repeat' first
    | with_reducible assumption
    | (extract_lets +onlyGivenNames x1; revert x1; intro y1)
    | (fail_if_no_progress with_reducible apply Kept.mk_other)

theorem latchDrop_kept (s : State) (r : Nat) (hK : Kept qu s) : Kept qu (latchDrop s r) := by
  unfold latchDrop
  repeat' first
    | with_reducible assumption
    | intro _
    | (extract_lets +onlyGivenNames x1; revert x1; intro y1)
    | (with_reducible first | apply Kept.ite | apply swapCheck_kept | apply refAdd_kept | apply setLatchM_kept)
    | split

theorem dropFetched_kept (s : State) (r : Nat) (hK : Kept qu s) : Kept qu (dropFetched s r) := by
  unfold dropFetched
  repeat' first
    | with_reducible assumption
    | intro _
    | (extract_lets +onlyGivenNames s1; refine Kept.cut (q := qu) s1 ?_ ?_; subst s1; rotate_left; revert s1; intro
        z1; rotate_left)
    | (extract_lets +onlyGivenNames x1; revert x1; intro y1)
    | with_reducible apply wr_kept
    | split
    | (fail_if_no_progress with_reducible apply Kept.mk_other)

theorem stopFetch_kept (s : State) (r : Nat) (hK : Kept qu s) : Kept qu (stopFetch s r) := by
  unfold stopFetch
  repeat' with_reducible first | assumption | apply latchDrop_kept | apply dropFetched_kept

theorem ringError_kept (s : State) (r code : Nat) (hK : Kept qu s) : Kept qu (ringError s r code) := by
  unfold ringError
  repeat' first
    | with_reducible assumption
    | intro _
    | (extract_lets +onlyGivenNames s1; refine Kept.cut (q := qu) s1 ?_ ?_; subst s1; rotate_left; revert s1; intro
        z1; rotate_left)
    | (with_reducible first | apply wr_kept | apply raiseInt_kept | apply stopFetch_kept)

theorem ringIrq_kept (s : State) (r : Nat) (hK : Kept qu s) : Kept qu (ringIrq s r) := by
  unfold ringIrq
  repeat' first
    | with_reducible assumption
    | intro _
    | (extract_lets +onlyGivenNames s1; refine Kept.cut (q := qu) s1 ?_ ?_; subst s1; rotate_left; revert s1; intro
        z1; rotate_left)
    | (extract_lets +onlyGivenNames x1; revert x1; intro y1)
    | (with_reducible first | apply wr_kept | apply raiseInt_kept)
    | (fail_if_no_progress with_reducible apply Kept.mk_other)

theorem noteStarted_kept (s : State) (r i : Nat) (hK : Kept qu s) : Kept qu (noteStarted s r i) := by
  unfold noteStarted
  repeat' first
    | with_reducible assumption
    | intro _
    | (extract_lets +onlyGivenNames x1; revert x1; intro y1)
    | with_reducible apply Kept.ite
    | split
    | (fail_if_no_progress with_reducible apply Kept.mk_other)

theorem boundaryYield_kept (s : State) (r : Nat) (hK : Kept qu s) : Kept qu (boundaryYield s r) := by
  unfold boundaryYield
  repeat' first
    | with_reducible assumption
    | intro _
    | (extract_lets +onlyGivenNames s1; refine Kept.cut (q := qu) s1 ?_ ?_; subst s1; rotate_left; revert s1; intro
        z1; rotate_left)
    | (extract_lets +onlyGivenNames x1; revert x1; intro y1)
    | (with_reducible first | apply Kept.ite | apply wr_kept | apply bump_kept | apply dropFetched_kept)
    | (fail_if_no_progress with_reducible apply Kept.mk_other)
    | (fail_if_no_progress clear_value *; split)

theorem boundaryResume_kept (s : State) (r : Nat) (hK : Kept qu s) : Kept qu (boundaryResume s r) := by
  unfold boundaryResume
  repeat' first
    | with_reducible assumption
    | intro _
    | (with_reducible first | apply Kept.ite | apply wr_kept)

theorem ringReset_kept (s : State) (r : Nat) (hK : Kept qu s) : Kept qu (ringReset s r) := by
  unfold ringReset
  repeat' first
    | with_reducible assumption
    | intro _
    | (extract_lets +onlyGivenNames s1; refine Kept.cut (q := qu) s1 ?_ ?_; subst s1; rotate_left; revert s1; intro
        z1; rotate_left)
    | (extract_lets +onlyGivenNames x1; revert x1; intro y1)
    | (with_reducible first | apply Kept.ite | apply ww_kept | apply wr_kept | apply stopFetch_kept)
    | (fail_if_no_progress with_reducible apply Kept.mk_other)

theorem fxRingCfg_kept (r : Nat) (v : Nat) (old s : State) (hK : Kept qu old) (hK1 : Kept qu s) : Kept qu (fxRingCfg
    r v old s) := by
  unfold fxRingCfg
  repeat' first
    | with_reducible assumption
    | intro _
    | (extract_lets +onlyGivenNames s1; refine Kept.cut (q := qu) s1 ?_ ?_; subst s1; rotate_left; revert s1; intro
        z1; rotate_left)
    | (extract_lets +onlyGivenNames x1; revert x1; intro y1)
    | (with_reducible first
        | apply Kept.ite | apply wr_kept | apply stopFetch_kept | apply boundaryYield_kept
        | apply boundaryResume_kept | apply ringReset_kept)
    | (fail_if_no_progress with_reducible apply Kept.mk_other)

theorem fxDoorbell_kept (r v : Nat) (s : State) (hK : Kept qu s) : Kept qu (fxDoorbell r v s) := by
  unfold fxDoorbell
  repeat' first
    | with_reducible assumption
    | intro _
    | (with_reducible first | apply Kept.ite | apply ringError_kept)

theorem execDoorbell_kept (ag : Agent) (r v : Nat) (s : State) (hK : Kept qu s) : KeptOut qu (execDoorbell ag r v s)
    := by
  unfold execDoorbell
  repeat' first
    | with_reducible assumption
    | intro _
    | (with_reducible first | apply KeptOut.next | apply KeptOut.unit | apply agentWrite_kept | apply fxDoorbell_kept)

theorem cfgWrite_kept (ag : Agent) (r v : Nat) (s : State) (hK : Kept qu s) : KeptOut qu (cfgWrite ag r v s) := by
  unfold cfgWrite
  repeat' first
    | with_reducible assumption
    | intro _
    | (with_reducible first | apply KeptOut.next | apply KeptOut.unit | apply agentWrite_kept | apply fxRingCfg_kept)

theorem execRingEnWrite_kept (ag : Agent) (r v : Nat) (s : State) (hK : Kept qu s) : KeptOut qu (execRingEnWrite ag
    r v s) := by
  unfold execRingEnWrite
  repeat' with_reducible first | assumption | apply cfgWrite_kept

theorem execRingByld_kept (ag : Agent) (r : Nat) (s : State) (hK : Kept qu s) : KeptOut qu (execRingByld ag r s) := by
  unfold execRingByld
  repeat' with_reducible first | assumption | apply cfgWrite_kept

theorem execRingBres_kept (ag : Agent) (r : Nat) (s : State) (hK : Kept qu s) : KeptOut qu (execRingBres ag r s) := by
  unfold execRingBres
  repeat' with_reducible first | assumption | apply cfgWrite_kept

theorem execRingReset_kept (ag : Agent) (r : Nat) (s : State) (hK : Kept qu s) : KeptOut qu (execRingReset ag r s) := by
  unfold execRingReset
  repeat' with_reducible first | assumption | apply cfgWrite_kept

theorem fxSemVal_kept (v : Nat) (s : State) (hK : Kept qu s) : Kept qu (fxSemVal v s) := by
  unfold fxSemVal
  repeat' with_reducible first | assumption | apply setSem_kept | apply noteReady_kept

theorem execSemValWrite_kept (ag : Agent) (v : Nat) (s : State) (hK : Kept qu s) : KeptOut qu (execSemValWrite ag v
    s) := by
  unfold execSemValWrite
  repeat' first
    | with_reducible assumption
    | intro _
    | (with_reducible first | apply KeptOut.next | apply agentWrite_kept | apply fxSemVal_kept)

theorem fxSemErr_kept (v : Nat) (s : State) (hK : Kept qu s) : Kept qu (fxSemErr v s) := by
  unfold fxSemErr
  repeat' first
    | with_reducible assumption
    | intro _
    | (with_reducible first | apply Kept.ite | apply setSemErr_kept)

theorem fxLedClr_kept (v : Nat) (s : State) (hK : Kept qu s) : Kept qu (fxLedClr v s) := by
  unfold fxLedClr
  repeat' first
    | with_reducible assumption
    | intro _
    | (with_reducible first | apply wr2_kept | apply Kept.each_)

theorem execLedClr_kept (ag : Agent) (v : Nat) (s : State) (hK : Kept qu s) : KeptOut qu (execLedClr ag v s) := by
  unfold execLedClr
  repeat' first
    | with_reducible assumption
    | intro _
    | (with_reducible first | apply KeptOut.next | apply agentWrite_kept | apply fxLedClr_kept)

theorem fxRegulator_kept (p k : Nat) (s : State) (hK : Kept qu s) : Kept qu (fxRegulator p k s) := by
  unfold fxRegulator
  repeat' first
    | with_reducible assumption
    | (extract_lets +onlyGivenNames x1; revert x1; intro y1)
    | (with_reducible first | apply wr_kept | apply setBucket_kept)

theorem execRegulatorWrite_kept (ag : Agent) (p k v : Nat) (s : State) (hK : Kept qu s) : KeptOut qu
    (execRegulatorWrite ag p k v s) := by
  unfold execRegulatorWrite
  repeat' first
    | with_reducible assumption
    | intro _
    | (with_reducible first
        | apply KeptOut.next | apply KeptOut.unit | apply agentWrite_kept | apply fxRegulator_kept)

theorem execCommandFetch_kept (r : Nat) (s : State) (hK : Kept qu s) : KeptOut qu (execCommandFetch r s) := by
  unfold execCommandFetch
  repeat' first
    | with_reducible assumption
    | intro _
    | (extract_lets +onlyGivenNames s1; refine Kept.cut (q := qu) s1 ?_ ?_; subst s1; rotate_left; revert s1; intro
        z1; rotate_left)
    | (extract_lets +onlyGivenNames x1; revert x1; intro y1)
    | (with_reducible first
        | apply KeptOut.unit | apply KeptOut.alive | apply Kept.ite | apply wr_kept | apply fresh_kept
        | apply dropRead_kept | apply gate_kept | apply noteReady_kept)
    | split
    | (fail_if_no_progress with_reducible apply Kept.mk_other)
    | refine KeptGate.of_go (by with_reducible assumption) ?_
    | refine KeptGate.of_wait (by with_reducible assumption) ?_
    | refine KeptGate.of_held (by with_reducible assumption) ?_

theorem dispatch_kept (s : State) (c : Cmd) (hK : Kept qu s) : Kept qu (dispatch s c) := by
  unfold dispatch
  repeat' first
    | with_reducible assumption
    | intro _
    | (extract_lets +onlyGivenNames s1; refine Kept.cut (q := qu) s1 ?_ ?_; subst s1; rotate_left; revert s1; intro
        z1; rotate_left)
    | (extract_lets +onlyGivenNames f1; (have hf : _ → _ := f1); clear hf; subst f1; try beta_reduce)
    | (extract_lets +onlyGivenNames x1; revert x1; intro y1)
    | (with_reducible first | apply Kept.ite | apply noteStarted_kept)
    | split
    | (fail_if_no_progress with_reducible apply Kept.mk_other)

theorem execCommandDispatch_kept (r : Nat) (s : State) (hK : Kept qu s) : KeptOut qu (execCommandDispatch r s) := by
  unfold execCommandDispatch
  repeat' first
    | with_reducible assumption
    | intro _
    | (extract_lets +onlyGivenNames x1; revert x1; intro y1)
    | (with_reducible first
        | apply KeptOut.unit | apply KeptOut.alive | apply Kept.ite | apply bump_kept | apply noteReady_kept
        | apply dispatch_kept)
    | split
    | (fail_if_no_progress with_reducible apply Kept.mk_other)

theorem takeCmd_kept (s : State) (c : Cmd) (hK : Kept qu s) : Kept qu (takeCmd s c) := by
  unfold takeCmd
  repeat' first
    | with_reducible assumption
    | intro _
    | (extract_lets +onlyGivenNames s1; refine Kept.cut (q := qu) s1 ?_ ?_; subst s1; rotate_left; revert s1; intro
        z1; rotate_left)
    | (extract_lets +onlyGivenNames x1; revert x1; intro y1)
    | (with_reducible first | apply Kept.ite | apply modCmd_kept | apply noteStarted_kept)
    | (fail_if_no_progress with_reducible apply Kept.mk_other)

theorem onCmd_kept (r i op : Nat) (s : State) (f : Cmd → State → State) (hK : Kept qu s) (hK1 : ∀ x0 x1, Kept qu x1
    → Kept qu (f x0 x1)) : KeptOut qu (onCmd r i op s f) := by
  unfold onCmd
  repeat' first
    | (with_reducible first
        | assumption | apply hK1 | apply KeptOut.unit | apply KeptOut.alive | apply claim_kept
        | apply takeCmd_kept)
    | split

theorem execNop_kept (r i : Nat) (s : State) (hK : Kept qu s) : KeptOut qu (execNop r i s) := by
  unfold execNop
  repeat' first
    | with_reducible assumption
    | intro _
    | (with_reducible first | apply finish_kept | apply onCmd_kept)

theorem execSemSet_kept (r i : Nat) (s : State) (hK : Kept qu s) : KeptOut qu (execSemSet r i s) := by
  unfold execSemSet
  repeat' first
    | with_reducible assumption
    | intro _
    | (with_reducible first | apply finish_kept | apply onCmd_kept)

theorem signal_kept (s : State) (c : Cmd) (hK : Kept qu s) : Kept qu (signal s c) := by
  unfold signal
  repeat' first
    | with_reducible assumption
    | intro _
    | (extract_lets +onlyGivenNames s1; refine Kept.cut (q := qu) s1 ?_ ?_; subst s1; rotate_left; revert s1; intro
        z1; rotate_left)
    | (extract_lets +onlyGivenNames x1; revert x1; intro y1)
    | (with_reducible first | apply Kept.ite | apply setSem_kept | apply setSemErr_kept)

theorem execCommandRetire_kept (r i : Nat) (s : State) (hK : Kept qu s) : KeptOut qu (execCommandRetire r i s) := by
  unfold execCommandRetire
  repeat' first
    | with_reducible assumption
    | intro _
    | (extract_lets +onlyGivenNames s1; refine Kept.cut (q := qu) s1 ?_ ?_; subst s1; rotate_left; revert s1; intro
        z1; rotate_left)
    | (extract_lets +onlyGivenNames x1; revert x1; intro y1)
    | (with_reducible first
        | apply KeptOut.unit | apply KeptOut.alive | apply Kept.ite | apply bump_kept | apply noteReady_kept
        | apply swapCheck_kept | apply refAdd_kept | apply latchDrop_kept | apply noteStarted_kept
        | apply boundaryYield_kept | apply signal_kept)
    | split
    | (fail_if_no_progress with_reducible apply Kept.mk_other)
    | refine Kept.mk_both ?_ (fun c => { c with })

theorem recordDone_kept (s : State) (c : Cmd) (hK : Kept qu s) : Kept qu (recordDone s c) := by
  unfold recordDone
  repeat' first
    | with_reducible assumption
    | intro _
    | (extract_lets +onlyGivenNames s1; refine Kept.cut (q := qu) s1 ?_ ?_; subst s1; rotate_left; revert s1; intro
        z1; rotate_left)
    | (extract_lets +onlyGivenNames x1; revert x1; intro y1)
    | (with_reducible first | apply Kept.ite | apply wr_kept | apply ringIrq_kept)
    | (fail_if_no_progress with_reducible apply Kept.mk_other)

theorem recordAcked_kept (s : State) (r i : Nat) (hK : Kept qu s) : Kept qu (recordAcked s r i) := by
  unfold recordAcked
  repeat' first
    | with_reducible assumption
    | intro _
    | (extract_lets +onlyGivenNames s1; refine Kept.cut (q := qu) s1 ?_ ?_; subst s1; rotate_left; revert s1; intro
        z1; rotate_left)
    | (extract_lets +onlyGivenNames x1; revert x1; intro y1)
    | (with_reducible first | apply Kept.ite | apply recordDone_kept)
    | split
    | (fail_if_no_progress with_reducible apply Kept.mk_other)

theorem execCompletionWrite_kept (r : Nat) (s : State) (hK : Kept qu s) : KeptOut qu (execCompletionWrite r s) := by
  unfold execCompletionWrite
  repeat' first
    | with_reducible assumption
    | intro _
    | (extract_lets +onlyGivenNames s1; refine Kept.cut (q := qu) s1 ?_ ?_; subst s1; rotate_left; revert s1; intro
        z1; rotate_left)
    | (extract_lets +onlyGivenNames f1; (have hf : _ → _ := f1); clear hf; subst f1; try beta_reduce)
    | (extract_lets +onlyGivenNames x1; revert x1; intro y1)
    | (with_reducible first
        | apply KeptOut.unit | apply KeptOut.alive | apply Kept.ite | apply memWrite_kept | apply abortOnWrite_kept
        | apply claim_kept | apply gate_kept | apply recordDone_kept)
    | split
    | (fail_if_no_progress with_reducible apply Kept.mk_other)
    | refine KeptGate.of_go (by with_reducible assumption) ?_
    | refine KeptGate.of_wait (by with_reducible assumption) ?_
    | refine KeptGate.of_held (by with_reducible assumption) ?_

theorem execCoalTimeout_kept (r : Nat) (s : State) (hK : Kept qu s) : KeptOut qu (execCoalTimeout r s) := by
  unfold execCoalTimeout
  repeat' first
    | with_reducible assumption
    | intro _
    | (with_reducible first | apply KeptOut.unit | apply KeptOut.alive | apply Kept.ite | apply ringIrq_kept)

end Sys2Proof.Machine
end

