-- ==== Sys2Proof/Laws/KeptPorterOps.lean ====
section
/-! SUPPORT. The operations of `Machine/PorterOps.lean` keep the queue and the canonical form of the memories. -/

namespace Sys2Proof.Machine

variable {qu : List Instr}

theorem evictFor_kept (s : State) (p t : Nat) (hK : Kept qu s) : KeptOpt qu (evictFor s p t) := by
  unfold evictFor
  repeat' first
    | with_reducible assumption
    | intro _
    | (with_reducible first
        | apply bump_kept | apply startMig_kept | apply KeptOpt.ite | apply KeptOpt.some_ | apply KeptOpt.none_)
    | split
    | refine Kept.fst (by with_reducible assumption) ?_

theorem retryNeeds_kept (s : State) (hK : Kept qu s) : Kept qu (retryNeeds s) := by
  unfold retryNeeds
  repeat' first
    | with_reducible assumption
    | intro _
    | (extract_lets +onlyGivenNames f1; (have hf : _ → _ := f1); clear hf; subst f1; try beta_reduce)
    | (extract_lets +onlyGivenNames x1; revert x1; intro y1)
    | (with_reducible first | apply Kept.ite | apply startMig_kept | apply evictFor_kept | apply Kept.each_)
    | split
    | (fail_if_no_progress with_reducible apply Kept.mk_other)
    | refine Kept.fst (by with_reducible assumption) ?_
    | refine KeptOpt.of_some (by with_reducible assumption) ?_

theorem bringTo_kept (s : State) (p page t cause : Nat) (own : Option (Nat × Nat)) (hK : Kept qu s) : KeptPinRes qu
    (bringTo s p page t cause own) := by
  unfold bringTo
  repeat' first
    | with_reducible assumption
    | intro _
    | (extract_lets +onlyGivenNames x1; revert x1; intro y1)
    | (with_reducible first
        | apply startMig_kept | apply evictFor_kept | apply KeptPinRes.ite | apply KeptPinRes.done
        | apply KeptPinRes.wait | apply KeptPinRes.quota)
    | split
    | refine Kept.fst (by with_reducible assumption) ?_
    | refine KeptOpt.of_some (by with_reducible assumption) ?_

theorem pinPage_kept (s : State) (p page t : Nat) (own : Option (Nat × Nat)) (hK : Kept qu s) : KeptPinRes qu
    (pinPage s p page t own) := by
  unfold pinPage
  repeat' first
    | with_reducible assumption
    | intro _
    | (with_reducible first | apply setL3_kept | apply bringTo_kept | apply KeptPinRes.ite | apply KeptPinRes.done)
    | split
    | refine KeptPinRes.of_done (by with_reducible assumption) ?_

theorem pinPages_kept (s : State) (p t : Nat) (own : Option (Nat × Nat)) (l : List Nat) (hK : Kept qu s) :
    KeptPinRes qu (pinPages s p t own l) := by
  induction l generalizing s with
  | nil => exact hK
  | cons y l ih =>
    unfold pinPages
    repeat' first
      | (with_reducible first | assumption | apply ih | apply pinPage_kept)
      | split
      | refine KeptPinRes.of_done (by with_reducible assumption) ?_

theorem hintPages_kept (s : State) (p h : Nat) (l : List Nat) (hK : Kept qu s) : Kept qu (hintPages s p h l) := by
  unfold hintPages
  repeat' first
    | with_reducible assumption
    | intro _
    | (with_reducible first | apply Kept.ite | apply setL3_kept | apply Kept.each_)

end Sys2Proof.Machine
end

