-- ==== Sys2Proof/Laws/KeptStakeExec.lean ====
section
/-! SUPPORT. The operations of `Machine/StakeExec.lean` keep the queue and the canonical form of the memories. -/

namespace Sys2Proof.Machine

variable {qu : List Instr}

theorem stkOut_kept (s : State) (k : Nat) (hold : Bool) (l : List (Nat × Beat)) (hK : Kept qu s) : Kept qu (stkOut s
    k hold l) := by
  unfold stkOut
  repeat' first
    | with_reducible assumption
    | intro _
    | (extract_lets +onlyGivenNames x1; revert x1; intro y1)
    | (with_reducible first | apply Kept.ite | apply setStk_kept)

theorem emitOut_kept (s : State) (k : Nat) (hold : Bool) (l : Lanes) (hK : Kept qu s) : Kept qu (emitOut s k hold l)
    := by
  unfold emitOut
  repeat' first
    | with_reducible assumption
    | intro _
    | (extract_lets +onlyGivenNames s1; refine Kept.cut (q := qu) s1 ?_ ?_; subst s1; rotate_left; revert s1; intro
        z1; rotate_left)
    | (extract_lets +onlyGivenNames x1; revert x1; intro y1)
    | (with_reducible first | apply setStk_kept | apply count_kept | apply stkOut_kept)

theorem failStk_kept (s : State) (k at_ : Nat) (hK : Kept qu s) : Kept qu (failStk s k at_) := by
  unfold failStk
  repeat' first
    | with_reducible assumption
    | intro _
    | (extract_lets +onlyGivenNames s1; refine Kept.cut (q := qu) s1 ?_ ?_; subst s1; rotate_left; revert s1; intro
        z1; rotate_left)
    | (extract_lets +onlyGivenNames x1; revert x1; intro y1)
    | (with_reducible first
        | apply Kept.ite | apply stopIsl_kept | apply stkFault_kept | apply checkEvent_kept | apply suspect_kept)

theorem vecPump_kept (n : Nat) (s : State) (k : Nat) (hK : Kept qu s) : Kept qu (vecPump n s k) := by
  induction n generalizing s with
  | zero => exact hK
  | succ n ih =>
    unfold vecPump
    repeat' first
      | (with_reducible first | assumption | apply ih)
      | intro _
      | (extract_lets +onlyGivenNames s1; refine Kept.cut (q := qu) s1 ?_ ?_; subst s1; rotate_left; revert s1; intro
          z1; rotate_left)
      | (extract_lets +onlyGivenNames x1; revert x1; intro y1)
      | (with_reducible first
          | apply Kept.ite | apply setStk_kept | apply count_kept | apply stkFreeze_kept | apply emitOut_kept
          | apply failStk_kept)
      | split

theorem vecGo_kept (s : State) (k : Nat) (hK : Kept qu s) : Kept qu (vecGo s k) := by
  unfold vecGo
  repeat' with_reducible first | assumption | apply noteHold_kept | apply vecPump_kept

theorem drainRows_kept (s : State) (k : Nat) (w : DWord) (ints : Bool) (acc : List Nat) (hK : Kept qu s) : Kept qu
    (drainRows s k w ints acc) := by
  unfold drainRows
  repeat' first
    | with_reducible assumption
    | (extract_lets +onlyGivenNames x1; revert x1; intro y1)
    | (with_reducible first | apply setStk_kept | apply stkOut_kept | apply vecGo_kept)
    | split

theorem signalRuns_kept (s : State) (k : Nat) (runs : List (Nat × Nat × Nat)) (hK : Kept qu s) : Kept qu (signalRuns
    s k runs) := by
  unfold signalRuns
  repeat' first
    | with_reducible assumption
    | intro _
    | (extract_lets +onlyGivenNames x1; revert x1; intro y1)
    | (with_reducible first | apply Kept.ite | apply setBsh_kept | apply Kept.each_)

theorem stkNext_kept (s : State) (k : Nat) (hK : Kept qu s) : Kept qu (stkNext s k) := by
  unfold stkNext
  repeat' first
    | with_reducible assumption
    | (extract_lets +onlyGivenNames x1; revert x1; intro y1)
    | (with_reducible first | apply setStk_kept | apply noteHold_kept)

theorem onStake_kept (s : State) (k op : Nat) (f : State → State) (hK : Kept qu s) (hK1 : ∀ x0, Kept qu x0 → Kept qu
    (f x0)) : KeptOut qu (onStake s k op f) := by
  unfold onStake
  repeat' first
    | with_reducible assumption
    | intro _
    | (with_reducible first | apply hK1 | apply KeptOut.unit | apply KeptOut.alive | apply Kept.ite)

theorem execStakeNop_kept (k : Nat) (s : State) (hK : Kept qu s) : KeptOut qu (execStakeNop k s) := by
  unfold execStakeNop
  repeat' first
    | with_reducible assumption
    | intro _
    | (with_reducible first | apply stkNext_kept | apply onStake_kept)

theorem execVset_kept (k : Nat) (s : State) (hK : Kept qu s) : KeptOut qu (execVset k s) := by
  unfold execVset
  repeat' first
    | with_reducible assumption
    | intro _
    | (extract_lets +onlyGivenNames x1; revert x1; intro y1)
    | (with_reducible first | apply Kept.ite | apply setStk_kept | apply stkNext_kept | apply onStake_kept)

theorem execVconst_kept (k : Nat) (s : State) (hK : Kept qu s) : KeptOut qu (execVconst k s) := by
  unfold execVconst
  repeat' first
    | with_reducible assumption
    | intro _
    | (extract_lets +onlyGivenNames x1; revert x1; intro y1)
    | (with_reducible first | apply Kept.ite | apply setStk_kept | apply stkNext_kept | apply onStake_kept)

theorem execOctl_kept (k : Nat) (s : State) (hK : Kept qu s) : KeptOut qu (execOctl k s) := by
  unfold execOctl
  repeat' first
    | with_reducible assumption
    | intro _
    | (extract_lets +onlyGivenNames x1; revert x1; intro y1)
    | (with_reducible first | apply Kept.ite | apply setStk_kept | apply stkNext_kept | apply onStake_kept)

theorem execStakeLoop_kept (k : Nat) (s : State) (hK : Kept qu s) : KeptOut qu (execStakeLoop k s) := by
  unfold execStakeLoop
  repeat' first
    | with_reducible assumption
    | intro _
    | (extract_lets +onlyGivenNames x1; revert x1; intro y1)
    | (with_reducible first | apply setStk_kept | apply noteHold_kept | apply onStake_kept)

theorem execStakeEnd_kept (k : Nat) (s : State) (hK : Kept qu s) : KeptOut qu (execStakeEnd k s) := by
  unfold execStakeEnd
  repeat' first
    | with_reducible assumption
    | intro _
    | (extract_lets +onlyGivenNames x1; revert x1; intro y1)
    | (with_reducible first | apply setStk_kept | apply noteHold_kept | apply onStake_kept)

theorem execStakeSync_kept (k : Nat) (s : State) (hK : Kept qu s) : KeptOut qu (execStakeSync k s) := by
  unfold execStakeSync
  repeat' first
    | with_reducible assumption
    | intro _
    | (with_reducible first | apply Kept.ite | apply stkNext_kept | apply onStake_kept)

theorem execVrun_kept (k : Nat) (s : State) (hK : Kept qu s) : KeptOut qu (execVrun k s) := by
  unfold execVrun
  repeat' first
    | with_reducible assumption
    | intro _
    | (extract_lets +onlyGivenNames x1; revert x1; intro y1)
    | (with_reducible first
        | apply Kept.ite | apply setStk_kept | apply pullStk_kept | apply vecGo_kept | apply stkNext_kept
        | apply onStake_kept)

theorem bypLoad_kept (s : State) (k : Nat) (y : BypRun) {p : State × BypRun} (e : bypLoad s k y = some p) (hK : Kept
    qu s) :
    Kept qu p.1 := by
  unfold bypLoad at e
  extract_lets at e
  split at e
  · cases e; exact hK
  · simp only [Option.map_eq_some_iff] at e
    obtain ⟨a, -, rfl⟩ := e
    exact setStk_kept _ _ _ hK

theorem bypColumn_kept (s : State) (k : Nat) (y : BypRun) {p : State × Bool} (e : bypColumn s k y = some p) (hK :
    Kept qu s) :
    Kept qu p.1 := by
  unfold bypColumn at e
  extract_lets at e
  split at e
  · cases e
  · extract_lets at e
    simp only [Option.map_eq_some_iff] at e
    obtain ⟨a, -, rfl⟩ := e
    exact emitOut_kept _ _ _ _ (setStk_kept _ _ _ hK)

theorem bypPump_kept (n : Nat) (s : State) (k : Nat) (hK : Kept qu s) : Kept qu (bypPump n s k) := by
  induction n generalizing s with
  | zero => exact hK
  | succ n ih =>
    unfold bypPump
    split
    · exact hK
    · split
      · exact hK
      · rename_i e
        have h1 : Kept qu _ := bypLoad_kept _ _ _ e hK
        extract_lets put keep
        have hp (t : State) (z : Option BypRun) (h : Kept qu t) : Kept qu (put t z) := setStk_kept _ _ _ h
        have hk (t : State) (h : Kept qu t) : Kept qu (keep t) := setStk_kept _ _ _ h
        split
        · exact failStk_kept _ _ _ (hp _ _ h1)
        · split
          · exact hp _ _ h1
          · rename_i e2
            have h2 : Kept qu _ := bypColumn_kept _ _ _ e2 h1
            extract_lets s1
            have h3 : Kept qu s1 := by
              subst s1
              split
              · exact hk _ (hp _ _ h2)
              · exact hp _ _ h2
            clear_value s1
            split
            · exact failStk_kept _ _ _ h3
            · exact ih _ h3

theorem bypGo_kept (s : State) (k : Nat) (hK : Kept qu s) : Kept qu (bypGo s k) := by
  unfold bypGo
  repeat' with_reducible first | assumption | apply noteHold_kept | apply bypPump_kept

theorem issueTiles_kept (k : Nat) (parity : Bool) (s : State) (hK : Kept qu s) : KeptOut qu (issueTiles k parity s)
    := by
  unfold issueTiles
  repeat' first
    | with_reducible assumption
    | intro _
    | (extract_lets +onlyGivenNames x1; revert x1; intro y1)
    | (with_reducible first
        | apply Kept.ite | apply bump_kept | apply setStk_kept | apply pullStk_kept | apply stkNext_kept
        | apply onStake_kept | apply bypGo_kept)

theorem execMtile_kept (u : Marked) (s : State) (hK : Kept qu s) : KeptOut qu (execMtile u s) := by
  unfold execMtile
  repeat' with_reducible first | assumption | apply issueTiles_kept

theorem releaseHandle_kept (s : State) (k h d td : Nat) (fwd : Bool) (hK : Kept qu s) : KeptOpt qu (releaseHandle s
    k h d td fwd) := by
  unfold releaseHandle
  repeat' first
    | with_reducible assumption
    | intro _
    | (extract_lets +onlyGivenNames s1; refine Kept.cut (q := qu) s1 ?_ ?_; subst s1; rotate_left; revert s1; intro
        z1; rotate_left)
    | (extract_lets +onlyGivenNames x1; revert x1; intro y1)
    | (with_reducible first
        | apply setStk_kept | apply setBsh_kept | apply KeptOpt.ite | apply KeptOpt.some_ | apply KeptOpt.none_)
    | split

theorem runRels_kept (k : Nat) (l : List (Nat × Nat × Nat × Bool)) (s : State) (hK : Kept qu s) : Kept qu (runRels k
    l s) := by
  induction l generalizing s with
  | nil => exact setStk_kept _ _ _ hK
  | cons r t ih =>
    unfold runRels
    repeat' first
      | (with_reducible first | assumption | apply ih)
      | (extract_lets +onlyGivenNames x1; revert x1; intro y1)
      | (with_reducible first | apply setStk_kept | apply releaseHandle_kept)
      | split
      | refine KeptOpt.of_some (by with_reducible assumption) ?_

theorem passTile_kept (s : State) (k : Nat) (t : DTile) (hK : Kept qu s) : Kept qu (passTile s k t) := by
  unfold passTile
  repeat' first
    | with_reducible assumption
    | intro _
    | (extract_lets +onlyGivenNames s1; refine Kept.cut (q := qu) s1 ?_ ?_; subst s1; rotate_left; revert s1; intro
        z1; rotate_left)
    | (extract_lets +onlyGivenNames x1; revert x1; intro y1)
    | (with_reducible first
        | apply bump_kept | apply setStk_kept | apply noteHold_kept | apply signalRuns_kept | apply runRels_kept)

theorem secondEvent_kept (s : State) (k : Nat) (hK : Kept qu s) : Kept qu (secondEvent s k) := by
  unfold secondEvent
  repeat' first
    | with_reducible assumption
    | intro _
    | (extract_lets +onlyGivenNames s1; refine Kept.cut (q := qu) s1 ?_ ?_; subst s1; rotate_left; revert s1; intro
        z1; rotate_left)
    | (extract_lets +onlyGivenNames x1; revert x1; intro y1)
    | (with_reducible first | apply Kept.ite | apply stopIsl_kept | apply stkFault_kept | apply suspect_kept)
    | split

theorem mismatch_kept (s : State) (k : Nat) (hK : Kept qu s) : Kept qu (mismatch s k) := by
  unfold mismatch
  repeat' first
    | with_reducible assumption
    | intro _
    | (extract_lets +onlyGivenNames s1; refine Kept.cut (q := qu) s1 ?_ ?_; subst s1; rotate_left; revert s1; intro
        z1; rotate_left)
    | (extract_lets +onlyGivenNames x1; revert x1; intro y1)
    | (with_reducible first
        | apply Kept.ite | apply setStk_kept | apply noteHold_kept | apply checkEvent_kept
        | apply secondEvent_kept)
    | split

theorem drainTile_kept (s : State) (k : Nat) (m : MtRun) (ups : List Upset) (parity : Bool) (hK : Kept qu s) : Kept
    qu (drainTile s k m ups parity) := by
  unfold drainTile
  repeat' first
    | with_reducible assumption
    | intro _
    | (extract_lets +onlyGivenNames s1; refine Kept.cut (q := qu) s1 ?_ ?_; subst s1; rotate_left; revert s1; intro
        z1; rotate_left)
    | (extract_lets +onlyGivenNames x1; revert x1; intro y1)
    | (with_reducible first
        | apply Kept.ite | apply bump_kept | apply setStk_kept | apply count_kept | apply noteHold_kept
        | apply stkFreeze_kept | apply failStk_kept | apply drainRows_kept | apply signalRuns_kept
        | apply mismatch_kept)
    | split

theorem execTileDrain_kept (k : Nat) (ups : List Upset) (parity : Bool) (s : State) (hK : Kept qu s) : KeptOut qu
    (execTileDrain k ups parity s) := by
  unfold execTileDrain
  repeat' first
    | with_reducible assumption
    | intro _
    | (extract_lets +onlyGivenNames x1; revert x1; intro y1)
    | (with_reducible first
        | apply KeptOut.unit | apply KeptOut.alive | apply Kept.ite | apply pullStk_kept | apply drainTile_kept)
    | split

theorem countSkips_kept (s : State) (k : Nat) (js : List Judge) (hK : Kept qu s) : Kept qu (countSkips s k js) := by
  unfold countSkips
  repeat' first
    | with_reducible assumption
    | (extract_lets +onlyGivenNames x1; revert x1; intro y1)
    | with_reducible apply count_kept

theorem unmet_kept (s : State) (n : Nat) (hK : Kept qu s) : Kept qu (unmet s n) := by
  unfold unmet
  repeat' first
    | with_reducible assumption
    | (extract_lets +onlyGivenNames f1; (have hf : _ → _ := f1); clear hf; subst f1; try beta_reduce)
    | (extract_lets +onlyGivenNames x1; revert x1; intro y1)
    | refine Kept.mk_any ?_ fun c => { c with stk := twf_filter _ c.stk }

theorem tileVerdict_kept (k : Nat) (parity : Bool) (s : State) (hK : Kept qu s) : KeptOut qu (tileVerdict k parity
    s) := by
  unfold tileVerdict
  repeat' first
    | with_reducible assumption
    | intro _
    | (extract_lets +onlyGivenNames s1; refine Kept.cut (q := qu) s1 ?_ ?_; subst s1; rotate_left; revert s1; intro
        z1; rotate_left)
    | (extract_lets +onlyGivenNames x1; revert x1; intro y1)
    | (with_reducible first
        | apply KeptOut.unit | apply KeptOut.alive | apply Kept.ite | apply setStk_kept | apply noteHold_kept
        | apply runRels_kept | apply passTile_kept | apply mismatch_kept | apply countSkips_kept)
    | split

theorem execTileVerdict_kept (u : Marked) (s : State) (hK : Kept qu s) : KeptOut qu (execTileVerdict u s) := by
  unfold execTileVerdict
  repeat' with_reducible first | assumption | apply tileVerdict_kept

theorem recomputed_kept (k : Nat) (ups : List Upset) (parity : Bool) (s : State) (hK : Kept qu s) : KeptOut qu
    (recomputed k ups parity s) := by
  unfold recomputed
  repeat' first
    | with_reducible assumption
    | intro _
    | (extract_lets +onlyGivenNames s1; refine Kept.cut (q := qu) s1 ?_ ?_; subst s1; rotate_left; revert s1; intro
        z1; rotate_left)
    | (extract_lets +onlyGivenNames x1; revert x1; intro y1)
    | (with_reducible first
        | apply KeptOut.unit | apply KeptOut.alive | apply Kept.ite | apply bump_kept | apply setStk_kept
        | apply checkEvent_kept | apply drainRows_kept | apply passTile_kept | apply secondEvent_kept
        | apply countSkips_kept)
    | split

theorem execRecomputeDone_kept (u : Marked) (ups : List Upset) (s : State) (hK : Kept qu s) : KeptOut qu
    (execRecomputeDone u ups s) := by
  unfold execRecomputeDone
  repeat' with_reducible first | assumption | apply recomputed_kept

theorem foreignStop_kept (s : State) (n pos : Nat) (hK : Kept qu s) : Kept qu (foreignStop s n pos) := by
  unfold foreignStop
  repeat' with_reducible first | assumption | apply runFault_kept | apply stopIsl_kept

theorem foreignStk_kept (s : State) (k : Nat) (hK : Kept qu s) : Kept qu (foreignStk s k) := by
  unfold foreignStk
  repeat' with_reducible first | assumption | apply stkFault_kept | apply foreignStop_kept

theorem execWaith_kept (k : Nat) (s : State) (hK : Kept qu s) : KeptOut qu (execWaith k s) := by
  unfold execWaith
  repeat' first
    | with_reducible assumption
    | intro _
    | (extract_lets +onlyGivenNames s1; refine Kept.cut (q := qu) s1 ?_ ?_; subst s1; rotate_left; revert s1; intro
        z1; rotate_left)
    | (extract_lets +onlyGivenNames x1; revert x1; intro y1)
    | (with_reducible first
        | apply KeptOut.unit | apply KeptOut.alive | apply KeptOut.ite | apply Kept.ite | apply setStk_kept
        | apply setBsh_kept | apply stkFreeze_kept | apply stkNext_kept | apply onStake_kept
        | apply foreignStk_kept)
    | split

theorem execRelh_kept (k : Nat) (s : State) (hK : Kept qu s) : KeptOut qu (execRelh k s) := by
  unfold execRelh
  repeat' first
    | with_reducible assumption
    | intro _
    | (extract_lets +onlyGivenNames x1; revert x1; intro y1)
    | (with_reducible first
        | apply Kept.ite | apply setStk_kept | apply stkFreeze_kept | apply stkNext_kept | apply onStake_kept
        | apply releaseHandle_kept)
    | split
    | refine KeptOpt.of_some (by with_reducible assumption) ?_

end Sys2Proof.Machine
end

