-- ==== Sys2Proof/Laws/KeptTallyExec.lean ====
section
/-! SUPPORT. The operations of `Machine/TallyExec.lean` keep the queue and the canonical form of the memories. -/

namespace Sys2Proof.Machine

variable {qu : List Instr}

theorem onTally_kept (s : State) (b e op : Nat) (f : State → State) (hK : Kept qu s) (hK1 : ∀ x0, Kept qu x0 → Kept
    qu (f x0)) : KeptOut qu (onTally s b e op f) := by
  unfold onTally
  repeat' first
    | with_reducible assumption
    | intro _
    | (with_reducible first | apply hK1 | apply KeptOut.unit | apply KeptOut.alive | apply Kept.ite)

theorem tallyNext_kept (s : State) (b e : Nat) (hK : Kept qu s) : Kept qu (tallyNext s b e) := by
  unfold tallyNext
  repeat' first
    | with_reducible assumption
    | (extract_lets +onlyGivenNames x1; revert x1; intro y1)
    | (with_reducible first | apply setBsh_kept | apply noteHold_kept)

theorem tallyDone_kept (s : State) (b e : Nat) (y : Bushel) (hK : Kept qu s) : Kept qu (tallyDone s b e y) := by
  unfold tallyDone
  repeat' with_reducible first | assumption | apply setBsh_kept | apply tallyNext_kept

theorem tallyWait_kept (s : State) (b e code : Nat) (hK : Kept qu s) : Kept qu (tallyWait s b e code) := by
  unfold tallyWait
  repeat' first
    | with_reducible assumption
    | intro _
    | (with_reducible first | apply Kept.ite | apply bshFreeze_kept)

theorem tallyFault_kept (s : State) (b e cause addr : Nat) (hK : Kept qu s) : Kept qu (tallyFault s b e cause addr)
    := by
  unfold tallyFault
  repeat' with_reducible first | assumption | apply stopIsl_kept | apply bshFault_kept

theorem execTallyNop_kept (b e : Nat) (s : State) (hK : Kept qu s) : KeptOut qu (execTallyNop b e s) := by
  unfold execTallyNop
  repeat' first
    | with_reducible assumption
    | intro _
    | (with_reducible first | apply onTally_kept | apply tallyNext_kept)

theorem execSeti_kept (b e : Nat) (s : State) (hK : Kept qu s) : KeptOut qu (execSeti b e s) := by
  unfold execSeti
  repeat' first
    | with_reducible assumption
    | intro _
    | (extract_lets +onlyGivenNames x1; revert x1; intro y1)
    | (with_reducible first | apply onTally_kept | apply tallyDone_kept)

theorem execSetv_kept (b e : Nat) (s : State) (hK : Kept qu s) : KeptOut qu (execSetv b e s) := by
  unfold execSetv
  repeat' first
    | with_reducible assumption
    | intro _
    | (extract_lets +onlyGivenNames x1; revert x1; intro y1)
    | (with_reducible first | apply onTally_kept | apply tallyDone_kept)

theorem execAddi_kept (b e : Nat) (s : State) (hK : Kept qu s) : KeptOut qu (execAddi b e s) := by
  unfold execAddi
  repeat' first
    | with_reducible assumption
    | intro _
    | (extract_lets +onlyGivenNames x1; revert x1; intro y1)
    | (with_reducible first | apply onTally_kept | apply tallyDone_kept)

theorem execMadd_kept (b e : Nat) (s : State) (hK : Kept qu s) : KeptOut qu (execMadd b e s) := by
  unfold execMadd
  repeat' first
    | with_reducible assumption
    | intro _
    | (extract_lets +onlyGivenNames x1; revert x1; intro y1)
    | (with_reducible first | apply onTally_kept | apply tallyDone_kept)

theorem execTallyLoop_kept (b e : Nat) (s : State) (hK : Kept qu s) : KeptOut qu (execTallyLoop b e s) := by
  unfold execTallyLoop
  repeat' first
    | with_reducible assumption
    | intro _
    | (extract_lets +onlyGivenNames x1; revert x1; intro y1)
    | (with_reducible first
        | apply Kept.ite | apply setBsh_kept | apply noteHold_kept | apply onTally_kept | apply tallyFault_kept)

theorem execAcq_kept (b e : Nat) (s : State) (hK : Kept qu s) : KeptOut qu (execAcq b e s) := by
  unfold execAcq
  repeat' first
    | with_reducible assumption
    | intro _
    | (extract_lets +onlyGivenNames x1; revert x1; intro y1)
    | (with_reducible first | apply Kept.ite | apply onTally_kept | apply tallyDone_kept | apply tallyWait_kept)
    | split

theorem execRel_kept (b e : Nat) (s : State) (hK : Kept qu s) : KeptOut qu (execRel b e s) := by
  unfold execRel
  repeat' first
    | with_reducible assumption
    | intro _
    | (extract_lets +onlyGivenNames x1; revert x1; intro y1)
    | (with_reducible first | apply Kept.ite | apply onTally_kept | apply tallyNext_kept | apply tallyDone_kept)
    | split

theorem parityHit_kept (s : State) (b e a : Nat) (wait : State → Nat → State) (hK : Kept qu s) (hK1 : ∀ x0 x1, Kept
    qu x0 → Kept qu (wait x0 x1)) : Kept qu (parityHit s b e a wait) := by
  unfold parityHit
  repeat' first
    | with_reducible assumption
    | intro _
    | (extract_lets +onlyGivenNames s1; refine Kept.cut (q := qu) s1 ?_ ?_; subst s1; rotate_left; revert s1; intro
        z1; rotate_left)
    | (extract_lets +onlyGivenNames x1; revert x1; intro y1)
    | (with_reducible first
        | apply hK1 | apply Kept.ite | apply bump_kept | apply setBsh_kept | apply bshFault_kept
        | apply failEvent_kept)
    | split

theorem execLdx_kept (b e : Nat) (s : State) (hK : Kept qu s) : KeptOut qu (execLdx b e s) := by
  unfold execLdx
  repeat' first
    | with_reducible assumption
    | intro _
    | (extract_lets +onlyGivenNames x1; revert x1; intro y1)
    | (with_reducible first
        | apply Kept.ite | apply onTally_kept | apply tallyDone_kept | apply tallyWait_kept | apply tallyFault_kept
        | apply parityHit_kept)
    | split

theorem execRd_kept (b e : Nat) (bad : Option Nat) (s : State) (hK : Kept qu s) : KeptOut qu (execRd b e bad s) := by
  unfold execRd
  repeat' first
    | with_reducible assumption
    | intro _
    | (extract_lets +onlyGivenNames s1; refine Kept.cut (q := qu) s1 ?_ ?_; subst s1; rotate_left; revert s1; intro
        z1; rotate_left)
    | (extract_lets +onlyGivenNames x1; revert x1; intro y1)
    | (with_reducible first
        | apply Kept.ite | apply setPar_kept | apply onTally_kept | apply tallyDone_kept | apply tallyFault_kept)
    | split

theorem rdMake_kept (s : State) (b q : Nat) (rpl : Bool) (hK : Kept qu s) : Kept qu (rdMake s b q rpl) := by
  unfold rdMake
  repeat' first
    | with_reducible assumption
    | intro _
    | (extract_lets +onlyGivenNames s1; refine Kept.cut (q := qu) s1 ?_ ?_; subst s1; rotate_left; revert s1; intro
        z1; rotate_left)
    | (extract_lets +onlyGivenNames x1; revert x1; intro y1)
    | (with_reducible first
        | apply Kept.ite | apply bump_kept | apply setBsh_kept | apply noteHold_kept | apply bshFreeze_kept
        | apply parityHit_kept)
    | split

theorem writeBeat_kept (s : State) (b a w : Nat) (x : Beat) (hK : Kept qu s) : Kept qu (writeBeat s b a w x) := by
  unfold writeBeat
  repeat' first
    | with_reducible assumption
    | intro _
    | (extract_lets +onlyGivenNames s1; refine Kept.cut (q := qu) s1 ?_ ?_; subst s1; rotate_left; revert s1; intro
        z1; rotate_left)
    | (with_reducible first | apply Kept.ite | apply sramWrite_kept | apply setPar_kept | apply Kept.each)

theorem wrPump_kept (n : Nat) (s : State) (b p : Nat) (hK : Kept qu s) : Kept qu (wrPump n s b p) := by
  induction n generalizing s with
  | zero => exact hK
  | succ n ih =>
    unfold wrPump
    repeat' first
      | (with_reducible first | assumption | apply ih)
      | intro _
      | (extract_lets +onlyGivenNames f1; (have hf : _ → _ := f1); clear hf; subst f1; try beta_reduce)
      | (extract_lets +onlyGivenNames x1; revert x1; intro y1)
      | (with_reducible first | apply Kept.ite | apply setBsh_kept | apply writeBeat_kept)
      | split

theorem wrGo_kept (s : State) (b p : Nat) (hK : Kept qu s) : Kept qu (wrGo s b p) := by
  unfold wrGo
  repeat' first
    | with_reducible assumption
    | intro _
    | (extract_lets +onlyGivenNames s1; refine Kept.cut (q := qu) s1 ?_ ?_; subst s1; rotate_left; revert s1; intro
        z1; rotate_left)
    | (with_reducible first | apply pullBsh_kept | apply wrPump_kept)

theorem execWr_kept (b e : Nat) (s : State) (hK : Kept qu s) : KeptOut qu (execWr b e s) := by
  unfold execWr
  repeat' first
    | with_reducible assumption
    | intro _
    | (extract_lets +onlyGivenNames x1; revert x1; intro y1)
    | (with_reducible first
        | apply Kept.ite | apply onTally_kept | apply tallyDone_kept | apply tallyFault_kept | apply wrGo_kept)

theorem offChip_kept (s : State) (b e : Nat) (store : Bool) (hK : Kept qu s) : Kept qu (offChip s b e store) := by
  unfold offChip
  repeat' first
    | with_reducible assumption
    | intro _
    | (extract_lets +onlyGivenNames s1; refine Kept.cut (q := qu) s1 ?_ ?_; subst s1; rotate_left; revert s1; intro
        z1; rotate_left)
    | (extract_lets +onlyGivenNames x1; revert x1; intro y1)
    | (with_reducible first | apply Kept.ite | apply bump_kept | apply tallyDone_kept | apply tallyFault_kept)

theorem execFetch_kept (b e : Nat) (s : State) (hK : Kept qu s) : KeptOut qu (execFetch b e s) := by
  unfold execFetch
  repeat' first
    | with_reducible assumption
    | intro _
    | (with_reducible first | apply onTally_kept | apply offChip_kept)

theorem execStore_kept (b e : Nat) (s : State) (hK : Kept qu s) : KeptOut qu (execStore b e s) := by
  unfold execStore
  repeat' first
    | with_reducible assumption
    | intro _
    | (with_reducible first | apply onTally_kept | apply offChip_kept)

theorem execMergeWaitExpiry_kept (b q : Nat) (s : State) (hK : Kept qu s) : KeptOut qu (execMergeWaitExpiry b q s) := by
  unfold execMergeWaitExpiry
  repeat' first
    | with_reducible assumption
    | (extract_lets +onlyGivenNames x1; revert x1; intro y1)
    | (with_reducible first | apply KeptOut.unit | apply KeptOut.alive | apply setBsh_kept)

theorem execArrivalLand_kept (b q : Nat) (s : State) (hK : Kept qu s) : KeptOut qu (execArrivalLand b q s) := by
  unfold execArrivalLand
  repeat' first
    | with_reducible assumption
    | intro _
    | (extract_lets +onlyGivenNames s1; refine Kept.cut (q := qu) s1 ?_ ?_; subst s1; rotate_left; revert s1; intro
        z1; rotate_left)
    | (extract_lets +onlyGivenNames x1; revert x1; intro y1)
    | (with_reducible first
        | apply KeptOut.unit | apply KeptOut.alive | apply setBsh_kept | apply sramWrite_kept
        | apply noteHold_kept)
    | split

theorem execStoreAck_kept (b q : Nat) (s : State) (hK : Kept qu s) : KeptOut qu (execStoreAck b q s) := by
  unfold execStoreAck
  repeat' first
    | with_reducible assumption
    | intro _
    | (extract_lets +onlyGivenNames x1; revert x1; intro y1)
    | (with_reducible first | apply KeptOut.unit | apply KeptOut.alive | apply Kept.ite | apply setBsh_kept)

theorem execHpush_kept (b e : Nat) (s : State) (hK : Kept qu s) : KeptOut qu (execHpush b e s) := by
  unfold execHpush
  repeat' first
    | with_reducible assumption
    | intro _
    | (extract_lets +onlyGivenNames x1; revert x1; intro y1)
    | (with_reducible first
        | apply Kept.ite | apply onTally_kept | apply tallyDone_kept | apply tallyWait_kept
        | apply tallyFault_kept)

theorem foreignBsh_kept (s : State) (b e : Nat) (hK : Kept qu s) : Kept qu (foreignBsh s b e) := by
  unfold foreignBsh
  repeat' with_reducible first | assumption | apply bshFault_kept | apply foreignStop_kept

theorem takeHandle_kept (s : State) (b e h : Nat) (y : Bushel) (hK : Kept qu s) : Kept qu (takeHandle s b e h y) := by
  unfold takeHandle
  repeat' first
    | with_reducible assumption
    | intro _
    | (extract_lets +onlyGivenNames x1; revert x1; intro y1)
    | (with_reducible first | apply Kept.ite | apply tallyDone_kept | apply foreignBsh_kept)

theorem execHtake_kept (b e : Nat) (s : State) (hK : Kept qu s) : KeptOut qu (execHtake b e s) := by
  unfold execHtake
  repeat' first
    | with_reducible assumption
    | intro _
    | (extract_lets +onlyGivenNames x1; revert x1; intro y1)
    | (with_reducible first
        | apply KeptOut.unit | apply KeptOut.alive | apply KeptOut.ite | apply onTally_kept | apply tallyDone_kept
        | apply tallyWait_kept | apply foreignBsh_kept | apply takeHandle_kept)
    | split

theorem execHret_kept (b e : Nat) (s : State) (hK : Kept qu s) : KeptOut qu (execHret b e s) := by
  unfold execHret
  repeat' first
    | with_reducible assumption
    | intro _
    | (extract_lets +onlyGivenNames s1; refine Kept.cut (q := qu) s1 ?_ ?_; subst s1; rotate_left; revert s1; intro
        z1; rotate_left)
    | (extract_lets +onlyGivenNames x1; revert x1; intro y1)
    | (with_reducible first | apply setBsh_kept | apply onTally_kept | apply tallyNext_kept)

theorem pathError_kept (s : State) (n : Nat) (hK : Kept qu s) : Kept qu (pathError s n) := by
  unfold pathError
  repeat' with_reducible first | assumption | apply failEvent_kept

theorem handleBack_kept (b : Nat) (bad : Bool) (s : State) (hK : Kept qu s) : KeptOut qu (handleBack b bad s) := by
  unfold handleBack
  repeat' first
    | with_reducible assumption
    | intro _
    | (extract_lets +onlyGivenNames x1; revert x1; intro y1)
    | (with_reducible first
        | apply KeptOut.unit | apply KeptOut.alive | apply Kept.ite | apply setBsh_kept | apply pathError_kept)
    | split

theorem execHandleReturn_kept (b : Marked) (s : State) (hK : Kept qu s) : KeptOut qu (execHandleReturn b s) := by
  unfold execHandleReturn
  repeat' with_reducible first | assumption | apply handleBack_kept

theorem execTallySync_kept (b e : Nat) (s : State) (hK : Kept qu s) : KeptOut qu (execTallySync b e s) := by
  unfold execTallySync
  repeat' first
    | with_reducible assumption
    | intro _
    | (extract_lets +onlyGivenNames f1; (have hf : _ → _ := f1); clear hf; subst f1; try beta_reduce)
    | (extract_lets +onlyGivenNames x1; revert x1; intro y1)
    | (with_reducible first | apply Kept.ite | apply onTally_kept | apply tallyNext_kept)

theorem execTallyEnd_kept (b e : Nat) (s : State) (hK : Kept qu s) : KeptOut qu (execTallyEnd b e s) := by
  unfold execTallyEnd
  repeat' first
    | with_reducible assumption
    | intro _
    | (extract_lets +onlyGivenNames x1; revert x1; intro y1)
    | (with_reducible first | apply setBsh_kept | apply noteHold_kept | apply onTally_kept)

theorem verdictCome_kept (b k : Nat) (bad : Bool) (s : State) (hK : Kept qu s) : KeptOut qu (verdictCome b k bad s)
    := by
  unfold verdictCome
  repeat' first
    | with_reducible assumption
    | intro _
    | (extract_lets +onlyGivenNames x1; revert x1; intro y1)
    | (with_reducible first
        | apply KeptOut.unit | apply KeptOut.alive | apply Kept.ite | apply setBsh_kept | apply pathError_kept)
    | split

theorem execVerdictSignal_kept (b : Nat) (u : Marked) (s : State) (hK : Kept qu s) : KeptOut qu (execVerdictSignal b
    u s) := by
  unfold execVerdictSignal
  repeat' with_reducible first | assumption | apply verdictCome_kept

theorem replayAsked_kept (b e k : Nat) (bad : Bool) (s : State) (hK : Kept qu s) : KeptOut qu (replayAsked b e k bad
    s) := by
  unfold replayAsked
  repeat' first
    | with_reducible assumption
    | intro _
    | (extract_lets +onlyGivenNames x1; revert x1; intro y1)
    | (with_reducible first
        | apply KeptOut.unit | apply KeptOut.alive | apply Kept.ite | apply bump_kept | apply setBsh_kept
        | apply bshFault_kept | apply checkEvent_kept | apply secondEvent_kept | apply pathError_kept)
    | split

theorem execReplayRequest_kept (b e : Nat) (u : Marked) (s : State) (hK : Kept qu s) : KeptOut qu (execReplayRequest
    b e u s) := by
  unfold execReplayRequest
  repeat' with_reducible first | assumption | apply replayAsked_kept

theorem execBushelDone_kept (b : Nat) (s : State) (hK : Kept qu s) : KeptOut qu (execBushelDone b s) := by
  unfold execBushelDone
  repeat' first
    | with_reducible assumption
    | intro _
    | (extract_lets +onlyGivenNames x1; revert x1; intro y1)
    | (with_reducible first | apply KeptOut.unit | apply KeptOut.alive | apply Kept.ite | apply setBsh_kept)

end Sys2Proof.Machine
end

