-- ==== Sys2Proof/Laws/KeptFabricExec.lean ====
section
/-! SUPPORT. The operations of `Machine/FabricExec.lean` keep the queue and the canonical form of the memories. -/

namespace Sys2Proof.Machine

variable {qu : List Instr}

theorem swBlock_kept (s : State) (z code ix : Nat) (hK : Kept qu s) : Kept qu (swBlock s z code ix) := by
  unfold swBlock
  repeat' first
    | with_reducible assumption
    | intro _
    | (extract_lets +onlyGivenNames x1; revert x1; intro y1)
    | (with_reducible first | apply Kept.ite | apply setSw_kept)

theorem swClear_kept (s : State) (z code ix : Nat) (hK : Kept qu s) : Kept qu (swClear s z code ix) := by
  unfold swClear
  repeat' first
    | with_reducible assumption
    | (extract_lets +onlyGivenNames x1; revert x1; intro y1)
    | with_reducible apply setSw_kept

theorem unitGo_kept (s : State) (n pos p : Nat) (hK : Kept qu s) : Kept qu (unitGo s n pos p) := by
  unfold unitGo
  repeat' first
    | with_reducible assumption
    | intro _
    | (extract_lets +onlyGivenNames s1; refine Kept.cut (q := qu) s1 ?_ ?_; subst s1; rotate_left; revert s1; intro
        z1; rotate_left)
    | (extract_lets +onlyGivenNames x1; revert x1; intro y1)
    | (with_reducible first
        | apply Kept.ite | apply pullStk_kept | apply vecGo_kept | apply bypGo_kept | apply wrGo_kept)

theorem giveEmpty_kept (s : State) (n pos p : Nat) (x : Beat) (hK : Kept qu s) : Kept qu (giveEmpty s n pos p x) := by
  unfold giveEmpty
  repeat' first
    | with_reducible assumption
    | intro _
    | (extract_lets +onlyGivenNames x1; revert x1; intro y1)
    | (with_reducible first | apply Kept.ite | apply setStk_kept | apply stkFreeze_kept)

theorem giveUnit_kept (s : State) (n pos p : Nat) (x : Beat) (hK : Kept qu s) : Kept qu (giveUnit s n pos p x) := by
  unfold giveUnit
  repeat' first
    | with_reducible assumption
    | intro _
    | (extract_lets +onlyGivenNames s1; refine Kept.cut (q := qu) s1 ?_ ?_; subst s1; rotate_left; revert s1; intro
        z1; rotate_left)
    | (extract_lets +onlyGivenNames x1; revert x1; intro y1)
    | (with_reducible first
        | apply Kept.ite | apply setStk_kept | apply setBsh_kept | apply noteHold_kept | apply unitGo_kept)

theorem giveReplay_kept (s : State) (n pos p : Nat) (x : Beat) (hK : Kept qu s) : Kept qu (giveReplay s n pos p x) := by
  unfold giveReplay
  repeat' first
    | with_reducible assumption
    | intro _
    | (extract_lets +onlyGivenNames x1; revert x1; intro y1)
    | (with_reducible first | apply Kept.ite | apply setStk_kept)

theorem consume_kept (s : State) (n pos code row : Nat) (hK : Kept qu s) : Kept qu (consume s n pos code row) := by
  unfold consume
  repeat' first
    | with_reducible assumption
    | intro _
    | (extract_lets +onlyGivenNames x1; revert x1; intro y1)
    | (with_reducible first
        | apply Kept.ite | apply setStk_kept | apply setBsh_kept | apply setSw_kept | apply setXing_kept)
    | split

theorem consumeReplay_kept (s : State) (n pos code : Nat) (x : Beat) (slot : Nat) (hK : Kept qu s) : Kept qu
    (consumeReplay s n pos code x slot) := by
  unfold consumeReplay
  repeat' first
    | with_reducible assumption
    | intro _
    | (extract_lets +onlyGivenNames x1; revert x1; intro y1)
    | (with_reducible first | apply Kept.ite | apply setBsh_kept | apply setSw_kept)

theorem checkBeat_kept (s : State) (n pos code : Nat) (x : Beat) (hK : Kept qu s) : Kept qu (checkBeat s n pos code
    x).1 := by
  unfold checkBeat
  repeat' first
    | with_reducible assumption
    | intro _
    | (extract_lets +onlyGivenNames s1; refine Kept.cut (q := qu) s1 ?_ ?_; subst s1; rotate_left; revert s1; intro
        z1; rotate_left)
    | (with_reducible first | apply Kept.ite_fst | apply bump_kept | apply fabFault_kept)

theorem stuckFreeze_kept (s : State) (n pos : Nat) (k : Stuck) (hK : Kept qu s) : Kept qu (stuckFreeze s n pos k) := by
  unfold stuckFreeze
  repeat' first
    | with_reducible assumption
    | intro _
    | (extract_lets +onlyGivenNames x1; revert x1; intro y1)
    | (with_reducible first | apply Kept.ite | apply stkFreeze_kept | apply bshFreeze_kept | apply swBlock_kept)
    | (fail_if_no_progress clear_value *; split)

theorem crossWrite_kept (s : State) (n m key pos d stage : Nat) (x : Beat) (hK : Kept qu s) : Kept qu (crossWrite s
    n m key pos d stage x) := by
  unfold crossWrite
  repeat' first
    | with_reducible assumption
    | intro _
    | (extract_lets +onlyGivenNames s1; refine Kept.cut (q := qu) s1 ?_ ?_; subst s1; rotate_left; revert s1; intro
        z1; rotate_left)
    | (extract_lets +onlyGivenNames x1; revert x1; intro y1)
    | (with_reducible first
        | apply Kept.ite | apply wr_kept | apply bump_kept | apply setXing_kept | apply stopIsl_kept
        | apply fabFault_kept | apply suspect_kept)

theorem sendOut_kept (s : State) (n pos o due : Nat) (x : Beat) (hK : Kept qu s) : Kept qu (sendOut s n pos o due x)
    := by
  unfold sendOut
  repeat' first
    | with_reducible assumption
    | intro _
    | (extract_lets +onlyGivenNames s1; refine Kept.cut (q := qu) s1 ?_ ?_; subst s1; rotate_left; revert s1; intro
        z1; rotate_left)
    | (extract_lets +onlyGivenNames x1; revert x1; intro y1)
    | (with_reducible first
        | apply Kept.ite | apply setStk_kept | apply setSw_kept | apply noteHold_kept | apply unitGo_kept
        | apply giveEmpty_kept | apply giveUnit_kept | apply giveReplay_kept | apply crossWrite_kept)
    | split

theorem routeFault_kept (s : State) (n pos code want : Nat) (x : Beat) (hK : Kept qu s) : Kept qu (routeFault s n
    pos code want x) := by
  unfold routeFault
  repeat' first
    | with_reducible assumption
    | intro _
    | (extract_lets +onlyGivenNames s1; refine Kept.cut (q := qu) s1 ?_ ?_; subst s1; rotate_left; revert s1; intro
        z1; rotate_left)
    | (with_reducible first | apply bump_kept | apply stopIsl_kept | apply fabFault_kept)

theorem switchBeat_kept (s : State) (n pos code row due : Nat) (outs : List Nat) (x : Beat) (hK : Kept qu s) : Kept
    qu (switchBeat s n pos code row due outs x) := by
  unfold switchBeat
  repeat' first
    | with_reducible assumption
    | intro _
    | (extract_lets +onlyGivenNames x1; revert x1; intro y1)
    | (with_reducible first | apply checkBeat_kept | apply sendOut_kept | apply routeFault_kept | apply Kept.each)
    | split

theorem clearSlot_kept (s : State) (n : Nat) (hK : Kept qu s) : Kept qu (clearSlot s n) := by
  unfold clearSlot
  repeat' first
    | with_reducible assumption
    | intro _
    | (with_reducible first | apply Kept.ite | apply setSw_kept | apply Kept.each_)

theorem slotsGo_kept (f : Nat) (s : State) (n : Nat) (hK : Kept qu s) : Kept qu (slotsGo f s n) := by
  induction f generalizing s with
  | zero => exact hK
  | succ f ih =>
    unfold slotsGo
    repeat' first
      | (with_reducible first | assumption | apply ih)
      | intro _
      | (extract_lets +onlyGivenNames x1; revert x1; intro y1)
      | (with_reducible first | apply Kept.ite | apply wr_kept | apply clearSlot_kept)

theorem linkBeat_kept (s : State) (n pos code row : Nat) (fl : List Nat) (hK : Kept qu s) : Kept qu (linkBeat s n
    pos code row fl) := by
  unfold linkBeat
  repeat' first
    | with_reducible assumption
    | intro _
    | (extract_lets +onlyGivenNames s1; refine Kept.cut (q := qu) s1 ?_ ?_; subst s1; rotate_left; revert s1; intro
        z1; rotate_left)
    | (extract_lets +onlyGivenNames x1; revert x1; intro y1)
    | (with_reducible first
        | apply setSw_kept | apply swBlock_kept | apply consume_kept | apply stuckFreeze_kept
        | apply switchBeat_kept)
    | split

theorem portMake_kept (s : State) (n pos code : Nat) (rpl : Bool) (hK : Kept qu s) : Kept qu (portMake s n pos code
    rpl) := by
  unfold portMake
  repeat' first
    | with_reducible assumption
    | intro _
    | (with_reducible first | apply Kept.ite | apply rdMake_kept)

theorem execLinkBeat_kept (n pos out slot : Nat) (fl : List Nat) (s : State) (hK : Kept qu s) : KeptOut qu
    (execLinkBeat n pos out slot fl s) := by
  unfold execLinkBeat
  repeat' first
    | with_reducible assumption
    | intro _
    | (extract_lets +onlyGivenNames s1; refine Kept.cut (q := qu) s1 ?_ ?_; subst s1; rotate_left; revert s1; intro
        z1; rotate_left)
    | (extract_lets +onlyGivenNames x1; revert x1; intro y1)
    | (with_reducible first
        | apply KeptOut.unit | apply KeptOut.alive | apply Kept.ite | apply consumeReplay_kept
        | apply switchBeat_kept | apply slotsGo_kept | apply linkBeat_kept | apply portMake_kept)
    | split

theorem crossDeliver_kept (n pos d stage : Nat) (s : State) (hK : Kept qu s) : KeptOut qu (crossDeliver n pos d
    stage s) := by
  unfold crossDeliver
  repeat' first
    | with_reducible assumption
    | intro _
    | (extract_lets +onlyGivenNames s1; refine Kept.cut (q := qu) s1 ?_ ?_; subst s1; rotate_left; revert s1; intro
        z1; rotate_left)
    | (extract_lets +onlyGivenNames x1; revert x1; intro y1)
    | (with_reducible first
        | apply KeptOut.unit | apply KeptOut.alive | apply Kept.ite | apply setXing_kept | apply swClear_kept
        | apply crossWrite_kept)
    | split

theorem execCrossingDeliver_kept (n pos : Nat) (d : LinkSide) (s : State) (hK : Kept qu s) : KeptOut qu
    (execCrossingDeliver n pos d s) := by
  unfold execCrossingDeliver
  repeat' with_reducible first | assumption | apply crossDeliver_kept

theorem crossFull_kept (n pos d stage : Nat) (s : State) (hK : Kept qu s) : KeptOut qu (crossFull n pos d stage s) := by
  unfold crossFull
  repeat' first
    | with_reducible assumption
    | intro _
    | (extract_lets +onlyGivenNames s1; refine Kept.cut (q := qu) s1 ?_ ?_; subst s1; rotate_left; revert s1; intro
        z1; rotate_left)
    | (extract_lets +onlyGivenNames x1; revert x1; intro y1)
    | (with_reducible first
        | apply KeptOut.unit | apply KeptOut.alive | apply Kept.ite | apply setXing_kept | apply swClear_kept)
    | split

theorem execFullChange_kept (n pos : Nat) (d : LinkSide) (s : State) (hK : Kept qu s) : KeptOut qu (execFullChange n
    pos d s) := by
  unfold execFullChange
  repeat' with_reducible first | assumption | apply crossFull_kept

theorem execHoldReceive_kept (n d : Nat) (s : State) (hK : Kept qu s) : KeptOut qu (execHoldReceive n d s) := by
  unfold execHoldReceive
  repeat' first
    | with_reducible assumption
    | intro _
    | (extract_lets +onlyGivenNames s1; refine Kept.cut (q := qu) s1 ?_ ?_; subst s1; rotate_left; revert s1; intro
        z1; rotate_left)
    | (extract_lets +onlyGivenNames x1; revert x1; intro y1)
    | (with_reducible first | apply KeptOut.unit | apply KeptOut.alive | apply setIsl_kept | apply noteHold_kept)
    | split

theorem roundOver_kept (s : State) (n : Nat) (v : Invoc) (hK : Kept qu s) : Kept qu (roundOver s n v) := by
  unfold roundOver
  repeat' first
    | with_reducible assumption
    | intro _
    | (extract_lets +onlyGivenNames s1; refine Kept.cut (q := qu) s1 ?_ ?_; subst s1; rotate_left; revert s1; intro
        z1; rotate_left)
    | (extract_lets +onlyGivenNames x1; revert x1; intro y1)
    | (with_reducible first
        | apply Kept.ite | apply wr_kept | apply bump_kept | apply setIsl_kept | apply clearSlot_kept)

theorem atBoundary_kept (s : State) (n : Nat) (hK : Kept qu s) : Kept qu (atBoundary s n) := by
  unfold atBoundary
  repeat' first
    | with_reducible assumption
    | intro _
    | (extract_lets +onlyGivenNames x1; revert x1; intro y1)
    | (with_reducible first | apply Kept.ite | apply setIsl_kept | apply noteHold_kept)

theorem dutySkip_kept (s : State) (n : Nat) (hK : Kept qu s) : Kept qu (dutySkip s n) := by
  unfold dutySkip
  repeat' first
    | with_reducible assumption
    | intro _
    | (extract_lets +onlyGivenNames f1; (have hf : _ → _ := f1); clear hf; subst f1; try beta_reduce)
    | (extract_lets +onlyGivenNames x1; revert x1; intro y1)
    | (with_reducible first | apply Kept.ite | apply setIsl_kept | apply noteHold_kept)
    | (fail_if_no_progress with_reducible apply Kept.mk_other)

theorem rndMaxFault_kept (s : State) (n : Nat) (hK : Kept qu s) : Kept qu (rndMaxFault s n) := by
  unfold rndMaxFault
  repeat' with_reducible first | assumption | apply runFault_kept | apply stopIsl_kept

theorem execRoundEnd_kept (n : Nat) (s : State) (hK : Kept qu s) : KeptOut qu (execRoundEnd n s) := by
  unfold execRoundEnd
  repeat' first
    | with_reducible assumption
    | intro _
    | (extract_lets +onlyGivenNames s1; refine Kept.cut (q := qu) s1 ?_ ?_; subst s1; rotate_left; revert s1; intro
        z1; rotate_left)
    | (with_reducible first
        | apply KeptOut.unit | apply KeptOut.alive | apply Kept.ite | apply slotsGo_kept | apply roundOver_kept
        | apply atBoundary_kept | apply dutySkip_kept | apply rndMaxFault_kept)
    | split

theorem execSkipEnd_kept (n : Nat) (s : State) (hK : Kept qu s) : KeptOut qu (execSkipEnd n s) := by
  unfold execSkipEnd
  repeat' first
    | with_reducible assumption
    | intro _
    | (extract_lets +onlyGivenNames s1; refine Kept.cut (q := qu) s1 ?_ ?_; subst s1; rotate_left; revert s1; intro
        z1; rotate_left)
    | (extract_lets +onlyGivenNames x1; revert x1; intro y1)
    | (with_reducible first
        | apply KeptOut.unit | apply KeptOut.alive | apply Kept.ite | apply bump_kept | apply setIsl_kept
        | apply noteHold_kept | apply atBoundary_kept)

theorem execDeadlockLimit_kept (n pos : Nat) (s : State) (hK : Kept qu s) : KeptOut qu (execDeadlockLimit n pos s) := by
  unfold execDeadlockLimit
  repeat' first
    | with_reducible assumption
    | intro _
    | (extract_lets +onlyGivenNames s1; refine Kept.cut (q := qu) s1 ?_ ?_; subst s1; rotate_left; revert s1; intro
        z1; rotate_left)
    | (extract_lets +onlyGivenNames x1; revert x1; intro y1)
    | (with_reducible first
        | apply KeptOut.unit | apply KeptOut.alive | apply Kept.ite | apply setIsl_kept | apply stopIsl_kept
        | apply fabFault_kept)

theorem execLastRound_kept (n : Nat) (s : State) (hK : Kept qu s) : KeptOut qu (execLastRound n s) := by
  unfold execLastRound
  repeat' first
    | with_reducible assumption
    | intro _
    | (extract_lets +onlyGivenNames s1; refine Kept.cut (q := qu) s1 ?_ ?_; subst s1; rotate_left; revert s1; intro
        z1; rotate_left)
    | (extract_lets +onlyGivenNames x1; revert x1; intro y1)
    | (with_reducible first
        | apply KeptOut.unit | apply KeptOut.alive | apply Kept.ite | apply setIsl_kept | apply runFault_kept
        | apply stopIsl_kept | apply slotsGo_kept | apply roundOver_kept | apply rndMaxFault_kept)
    | split

theorem chargeIsl_kept (s : State) (p ns : Nat) (hK : Kept qu s) : Kept qu (chargeIsl s p ns) := by
  unfold chargeIsl
  repeat' first
    | with_reducible assumption
    | intro _
    | (extract_lets +onlyGivenNames s1; refine Kept.cut (q := qu) s1 ?_ ?_; subst s1; rotate_left; revert s1; intro
        z1; rotate_left)
    | (extract_lets +onlyGivenNames x1; revert x1; intro y1)
    | with_reducible apply bump2_kept
    | (fail_if_no_progress with_reducible apply Kept.mk_other)

theorem islNs_kept (s : State) (n ns : Nat) (hK : Kept qu s) : Kept qu (islNs s n ns) := by
  unfold islNs
  repeat' first
    | with_reducible assumption
    | intro _
    | (extract_lets +onlyGivenNames s1; refine Kept.cut (q := qu) s1 ?_ ?_; subst s1; rotate_left; revert s1; intro
        z1; rotate_left)
    | (with_reducible first | apply bump_kept | apply modCmd_kept | apply chargeIsl_kept)
    | split

theorem execIslandDone_kept (n tail ns : Nat) (s : State) (hK : Kept qu s) : KeptOut qu (execIslandDone n tail ns s)
    := by
  unfold execIslandDone
  repeat' first
    | with_reducible assumption
    | intro _
    | (extract_lets +onlyGivenNames s1; refine Kept.cut (q := qu) s1 ?_ ?_; subst s1; rotate_left; revert s1; intro
        z1; rotate_left)
    | (extract_lets +onlyGivenNames x1; revert x1; intro y1)
    | (with_reducible first
        | apply KeptOut.unit | apply KeptOut.alive | apply Kept.ite | apply wr_kept | apply setIsl_kept
        | apply setInv_kept | apply endInvoc_kept | apply islNs_kept)
    | split

end Sys2Proof.Machine
end

