-- ==== Sys2Proof/Laws/KeptFreq.lean ====
section
/-! SUPPORT. The operations of `Machine/Freq.lean` keep the queue and the canonical form of the memories. -/

namespace Sys2Proof.Machine

variable {qu : List Instr}

theorem followRails_kept (s : State) (hK : Kept qu s) : Kept qu (followRails s) := by
  unfold followRails
  repeat' first
    | with_reducible assumption
    | intro _
    | (extract_lets +onlyGivenNames s1; refine Kept.cut (q := qu) s1 ?_ ?_; subst s1; rotate_left; revert s1; intro
        z1; rotate_left)
    | (extract_lets +onlyGivenNames x1; revert x1; intro y1)
    | (with_reducible first | apply Kept.ite | apply wr_kept | apply emit_kept | apply Kept.each_)
    | (fail_if_no_progress with_reducible apply Kept.mk_other)

theorem setFreqs_kept (s : State) (p : Nat) (place : List Nat) (hK : Kept qu s) : Kept qu (setFreqs s p place) := by
  unfold setFreqs
  repeat' first
    | with_reducible assumption
    | intro _
    | (with_reducible first | apply wr_kept | apply followRails_kept | apply Kept.each_)

end Sys2Proof.Machine
end

