-- ==== Sys2Proof/Laws/KeptWeaveImage.lean ====
section
/-! SUPPORT. The operations of `Machine/WeaveImage.lean` keep the queue and the canonical form of the memories. -/

namespace Sys2Proof.Machine

variable {qu : List Instr}

theorem loadFault_kept (s : State) (bd : Nat) (f : LoadFail) (hK : Kept qu s) : Kept qu (loadFault s bd f) := by
  unfold loadFault
  repeat' first
    | with_reducible assumption
    | intro _
    | (extract_lets +onlyGivenNames s1; refine Kept.cut (q := qu) s1 ?_ ?_; subst s1; rotate_left; revert s1; intro
        z1; rotate_left)
    | (with_reducible first | apply Kept.ite | apply wr_kept)

theorem writeIsland_kept (s : State) (im : Img) (cfg i n : Nat) (hK : Kept qu s) : Kept qu (writeIsland s im cfg i
    n) := by
  unfold writeIsland
  generalize List.range 512 = l512
  generalize List.range 64 = l64
  generalize List.range 32 = l32
  generalize List.range 16 = l16
  generalize List.range 8 = l8
  refine Kept.each_ (Kept.each_ hK fun t k h => ?_) fun t pos h => ?_
  · refine Kept.mk_fab ?_ fun c => { c with bshProg := twf_putWords _ _ c.bshProg }
    apply setBsh_kept
    refine Kept.mk_fab ?_ fun c => { c with stkProg := twf_putWords _ _ c.stkProg }
    exact setStk_kept _ _ _ h
  · exact (setSw_kept _ _ _ h).mk_fab fun c => { c with rows := twf_putWords _ _ c.rows, skewW := twf_tset _ _ c.skewW }

theorem writeLags_kept (s : State) (w : Weave) (place : List Nat) (hK : Kept qu s) : Kept qu (writeLags s w place) := by
  unfold writeLags
  repeat' first
    | with_reducible assumption
    | intro _
    | (extract_lets +onlyGivenNames x1; revert x1; intro y1)
    | with_reducible apply Kept.each_
    | refine Kept.mk_any ?_ fun c => { c with lag := twf_tset _ _ c.lag }

theorem writeVariant_kept (s : State) (im : Img) (w : Weave) (v : Nat) (place : List Nat) (hK : Kept qu s) : Kept qu
    (writeVariant s im w v place) := by
  unfold writeVariant
  repeat' first
    | with_reducible assumption
    | intro _
    | (extract_lets +onlyGivenNames x1; revert x1; intro y1)
    | (with_reducible first | apply wr_kept | apply writeIsland_kept | apply writeLags_kept | apply Kept.each_)

theorem clearFabric_kept (s : State) (n : Nat) (hK : Kept qu s) : Kept qu (clearFabric s n) := by
  unfold clearFabric
  repeat' first
    | with_reducible assumption
    | intro _
    | (with_reducible first | apply setSw_kept | apply setXing_kept | apply Kept.each_)

theorem takeIslands_kept (s : State) (bd : Nat) (nw : Bool) (place : List Nat) (hK : Kept qu s) : Kept qu
    (takeIslands s bd nw place) := by
  unfold takeIslands
  repeat' first
    | with_reducible assumption
    | intro _
    | (extract_lets +onlyGivenNames s1; refine Kept.cut (q := qu) s1 ?_ ?_; subst s1; rotate_left; revert s1; intro
        z1; rotate_left)
    | (extract_lets +onlyGivenNames x1; revert x1; intro y1)
    | (with_reducible first | apply wr_kept | apply setIsl_kept | apply Kept.each_)

theorem linkTree_kept (s : State) (place : List Nat) (hK : Kept qu s) : Kept qu (linkTree s place) := by
  unfold linkTree
  repeat' first
    | with_reducible assumption
    | intro _
    | (extract_lets +onlyGivenNames s1; refine Kept.cut (q := qu) s1 ?_ ?_; subst s1; rotate_left; revert s1; intro
        z1; rotate_left)
    | (extract_lets +onlyGivenNames x1; revert x1; intro y1)
    | (with_reducible first | apply wr_kept | apply setIsl_kept | apply Kept.each_)

theorem freeIslands_kept (s : State) (place : List Nat) (hK : Kept qu s) : Kept qu (freeIslands s place) := by
  unfold freeIslands
  generalize List.range 32 = l32
  generalize 4096 = c4096
  refine Kept.each_ hK fun t n h => ?_
  extract_lets s1 s2 f s3 s4
  have h2 : Kept qu s2 := clearFabric_kept _ n (Kept.each_ h fun u k hu =>
    setBsh_kept _ (32 * n + k) Bushel.idle (setStk_kept _ (32 * n + k) Stake.idle hu))
  clear_value s2
  have h3 : Kept qu s3 := Kept.mk_fab h2 fun c => { c with lag := twf_tclear _ _ c.lag }
  have h4 : Kept qu s4 := setIsl_kept _ _ _ h3
  clear_value s4
  exact wr_kept _ _ _ _ (wr_kept _ _ _ _ (wr_kept _ _ _ _ (wr_kept _ _ _ _ (wr_kept _ _ _ _
    (wr_kept _ _ _ _ (wr_kept _ _ _ _ (wr_kept _ _ _ _ (wr_kept _ _ _ _ (wr_kept _ _ _ _
    (wr_kept _ _ _ _ (wr_kept _ _ _ _ h4)))))))))))

end Sys2Proof.Machine
end

