-- ==== Sys2Proof/Laws/KeptWeaveExec.lean ====
section
/-! SUPPORT. The operations of `Machine/WeaveExec.lean` keep the queue and the canonical form of the memories. -/

namespace Sys2Proof.Machine

variable {qu : List Instr}

theorem setState_kept (s : State) (bd v : Nat) (hK : Kept qu s) : Kept qu (setState s bd v) := by
  unfold setState
  repeat' with_reducible first | assumption | apply wr_kept

theorem imageBytes_kept (s : State) (p : Nat) (l : List (Nat × Nat)) (hK : Kept qu s) : Kept qu (imageBytes s p l) := by
  unfold imageBytes
  repeat' first
    | with_reducible assumption
    | intro _
    | (with_reducible first | apply heatUp_kept | apply chargePb_kept | apply Kept.each_)

theorem readImage_kept (s : State) (p a r i : Nat) (hK : Kept qu s) : KeptGate qu (readImage s p a r i) := by
  unfold readImage
  repeat' first
    | with_reducible assumption
    | intro _
    | (extract_lets +onlyGivenNames x1; revert x1; intro y1)
    | (with_reducible first
        | apply gate_kept | apply gateAll_kept | apply imageBytes_kept | apply KeptGate.ite | apply KeptGate.go
        | apply KeptGate.wait)
    | split
    | refine KeptGate.of_go (by with_reducible assumption) ?_

theorem readOnce_kept (s : State) (p a : Nat) (c : Cmd) (hK : Kept qu s) : KeptGate qu (readOnce s p a c) := by
  unfold readOnce
  repeat' first
    | with_reducible assumption
    | intro _
    | (with_reducible first | apply modCmd_kept | apply readImage_kept | apply KeptGate.ite | apply KeptGate.go)
    | split
    | refine KeptGate.of_go (by with_reducible assumption) ?_

theorem setAside_kept (s : State) (r i : Nat) (hK : Kept qu s) : Kept qu (setAside s r i) := by
  unfold setAside
  repeat' with_reducible first | assumption | apply markHeld_kept

theorem takeT1_kept (s : State) (w : Weave) (hK : Kept qu s) : Kept qu (takeT1 s w) := by
  unfold takeT1
  repeat' with_reducible first | assumption | apply up_kept

theorem giveT1_kept (s : State) (w : Weave) (hK : Kept qu s) : Kept qu (giveT1 s w) := by
  unfold giveT1
  repeat' with_reducible first | assumption | apply down_kept

theorem dropWeave_kept (s : State) (w : Weave) (hK : Kept qu s) : Kept qu (dropWeave s w) := by
  unfold dropWeave
  repeat' with_reducible first | assumption | apply down_kept | apply freeIslands_kept

theorem emptyBinding_kept (s : State) (bd : Nat) (hK : Kept qu s) : Kept qu (emptyBinding s bd) := by
  unfold emptyBinding
  repeat' first
    | with_reducible assumption
    | intro _
    | (extract_lets +onlyGivenNames s1; refine Kept.cut (q := qu) s1 ?_ ?_; subst s1; rotate_left; revert s1; intro
        z1; rotate_left)
    | (with_reducible first | apply wr_kept | apply wr2_kept | apply setBind_kept | apply setState_kept)

theorem putWeave_kept (s : State) (im : Img) (w : Weave) (bd v : Nat) (nw : Bool) (place : List Nat) (hK : Kept qu
    s) : Kept qu (putWeave s im w bd v nw place) := by
  unfold putWeave
  repeat' with_reducible first | assumption | apply writeVariant_kept | apply takeIslands_kept | apply linkTree_kept

theorem chargeSince_kept (s : State) (p n since r i : Nat) (hK : Kept qu s) : Kept qu (chargeSince s p n since r i)
    := by
  unfold chargeSince
  repeat' first
    | with_reducible assumption
    | (extract_lets +onlyGivenNames x1; revert x1; intro y1)
    | (with_reducible first | apply modCmd_kept | apply chargeIsl_kept)

theorem zeroSram_kept (s : State) (place : List Nat) (hK : Kept qu s) : Kept qu (zeroSram s place) := by
  unfold zeroSram
  repeat' first
    | with_reducible assumption
    | intro _
    | (extract_lets +onlyGivenNames x1; revert x1; intro y1)
    | with_reducible apply Kept.each_
    | refine Kept.mk_any ?_ fun c => { c with sram := twf_tclear _ _ c.sram, badPar := twf_tclear _ _ c.badPar }

theorem loadFails_kept (s : State) (c : Cmd) (bd code : Nat) (hK : Kept qu s) : Kept qu (loadFails s c bd code) := by
  unfold loadFails
  repeat' with_reducible first | assumption | apply finish_kept | apply emptyBinding_kept

theorem loadPlaced_kept (s : State) (c : Cmd) (bd : Nat) (im : Img) (w : Weave) (place : List Nat) (hK : Kept qu s)
    : Kept qu (loadPlaced s c bd im w place) := by
  unfold loadPlaced
  repeat' first
    | with_reducible assumption
    | intro _
    | (extract_lets +onlyGivenNames s1; refine Kept.cut (q := qu) s1 ?_ ?_; subst s1; rotate_left; revert s1; intro
        z1; rotate_left)
    | (extract_lets +onlyGivenNames x1; revert x1; intro y1)
    | (with_reducible first
        | apply Kept.ite | apply fresh_kept | apply setBind_kept | apply modCmd_kept | apply putWeave_kept
        | apply zeroSram_kept)

theorem hotEvict_kept (s : State) (b : Nat) (hK : Kept qu s) : Kept qu (hotEvict s b) := by
  unfold hotEvict
  repeat' first
    | with_reducible assumption
    | intro _
    | (extract_lets +onlyGivenNames s1; refine Kept.cut (q := qu) s1 ?_ ?_; subst s1; rotate_left; revert s1; intro
        z1; rotate_left)
    | (with_reducible first | apply wr_kept | apply bump_kept | apply dropWeave_kept | apply emptyBinding_kept)
    | split

theorem placeLoad_kept (im : Img) (w : Weave) (only : Option Nat) (n : Nat) (s : State) (hK : Kept qu s) : Kept qu
    (placeLoad im w only n s).1 := by
  induction n generalizing s with
  | zero => exact hK
  | succ n ih =>
    unfold placeLoad
    repeat' first
      | (with_reducible first | assumption | apply ih)
      | intro _
      | (with_reducible first | apply Kept.ite_fst | apply hotEvict_kept)
      | split

theorem stopForYield_kept (s : State) (r i : Nat) (hK : Kept qu s) : Kept qu (stopForYield s r i) := by
  unfold stopForYield
  repeat' first
    | with_reducible assumption
    | intro _
    | (extract_lets +onlyGivenNames s1; refine Kept.cut (q := qu) s1 ?_ ?_; subst s1; rotate_left; revert s1; intro
        z1; rotate_left)
    | (extract_lets +onlyGivenNames x1; revert x1; intro y1)
    | (with_reducible first | apply setIsl_kept | apply modCmd_kept | apply setInv_kept | apply Kept.each_)
    | split
    | (fail_if_no_progress with_reducible apply Kept.mk_other)

theorem promote_kept (s : State) (p : Nat) (l : List Nat) (hK : Kept qu s) : KeptOpt qu (promote s p l) := by
  induction l generalizing s with
  | nil => exact hK
  | cons y l ih =>
    unfold promote
    repeat' first
      | (with_reducible first | assumption | apply ih | apply bringTo_kept | apply KeptOpt.none_)
      | split
      | refine KeptPinRes.of_done (by with_reducible assumption) ?_
      | refine KeptPinRes.of_wait (by with_reducible assumption) ?_

theorem startYield_kept (s : State) (r i reason : Nat) (by_ : Option (Nat × Nat)) (hK : Kept qu s) : KeptYieldRes qu
    (startYield s r i reason by_) := by
  unfold startYield
  repeat' first
    | with_reducible assumption
    | intro _
    | (extract_lets +onlyGivenNames s1; refine Kept.cut (q := qu) s1 ?_ ?_; subst s1; rotate_left; revert s1; intro
        z1; rotate_left)
    | (extract_lets +onlyGivenNames x1; revert x1; intro y1)
    | (with_reducible first
        | apply Kept.ite | apply modCmd_kept | apply stopForYield_kept | apply promote_kept
        | apply KeptYieldRes.ite | apply KeptYieldRes.started | apply KeptYieldRes.no)
    | split
    | (fail_if_no_progress with_reducible apply Kept.mk_other)
    | refine KeptOpt.of_some (by with_reducible assumption) ?_

theorem urgentRefused_kept (s : State) (place : List Nat) (hK : Kept qu s) : Kept qu (urgentRefused s place) := by
  unfold urgentRefused
  repeat' first
    | with_reducible assumption
    | intro _
    | (extract_lets +onlyGivenNames s1; refine Kept.cut (q := qu) s1 ?_ ?_; subst s1; rotate_left; revert s1; intro
        z1; rotate_left)
    | (extract_lets +onlyGivenNames f1; (have hf : _ → _ := f1); clear hf; subst f1; try beta_reduce)
    | (extract_lets +onlyGivenNames x1; revert x1; intro y1)
    | (with_reducible first
        | apply Kept.ite | apply finish_kept | apply loadFault_kept | apply giveT1_kept | apply loadFails_kept)
    | split

theorem refuseYield_kept (s : State) (y : Yielding) (code : Nat) (hK : Kept qu s) : Kept qu (refuseYield s y code) := by
  unfold refuseYield
  repeat' first
    | with_reducible assumption
    | intro _
    | (extract_lets +onlyGivenNames s1; refine Kept.cut (q := qu) s1 ?_ ?_; subst s1; rotate_left; revert s1; intro
        z1; rotate_left)
    | (extract_lets +onlyGivenNames x1; revert x1; intro y1)
    | (with_reducible first | apply Kept.ite | apply bump_kept | apply finish_kept | apply urgentRefused_kept)
    | split
    | (fail_if_no_progress with_reducible apply Kept.mk_other)

theorem resumePinned_kept (s : State) (hK : Kept qu s) : Kept qu (resumePinned s) := by
  unfold resumePinned
  repeat' first
    | with_reducible assumption
    | intro _
    | (with_reducible first
        | apply Kept.ite | apply retryNeeds_kept | apply stopForYield_kept | apply promote_kept
        | apply refuseYield_kept | apply Kept.each_)
    | split
    | refine KeptOpt.of_some (by with_reducible assumption) ?_

theorem urgentYields_kept (s : State) (l : List (Nat × Nat × List Nat)) (hK : Kept qu s) : Kept qu (urgentYields s
    l).1 := by
  induction l generalizing s with
  | nil => exact hK
  | cons y l ih =>
    unfold urgentYields
    repeat' first
      | (with_reducible first | assumption | apply ih)
      | intro _
      | (with_reducible first | apply Kept.ite_fst | apply bump_kept | apply startYield_kept)
      | split
      | refine KeptYieldRes.of_started (by with_reducible assumption) ?_

theorem urgentPlace_kept (s : State) (c : Cmd) (im : Img) (w : Weave) (only : Option Nat) (ok : List Nat → Bool) (hK
    : Kept qu s) : Kept qu (urgentPlace s c im w only ok).1 := by
  unfold urgentPlace
  repeat' first
    | with_reducible assumption
    | intro _
    | (extract_lets +onlyGivenNames x1; revert x1; intro y1)
    | (with_reducible first | apply Kept.ite_fst | apply modCmd_kept | apply urgentYields_kept)
    | split

theorem loadGo_kept (s : State) (c : Cmd) (bd : Nat) (hK : Kept qu s) : Kept qu (loadGo s c bd) := by
  unfold loadGo
  repeat' first
    | with_reducible assumption
    | intro _
    | (extract_lets +onlyGivenNames f1; (have hf : _ → _ := f1); clear hf; subst f1; try beta_reduce)
    | (extract_lets +onlyGivenNames x1; revert x1; intro y1)
    | (with_reducible first
        | apply Kept.ite | apply fresh_kept | apply loadFault_kept | apply takeT1_kept | apply loadFails_kept
        | apply loadPlaced_kept | apply placeLoad_kept | apply urgentPlace_kept)
    | split
    | refine Kept.fst (by with_reducible assumption) ?_

theorem execLoad_kept (r i : Nat) (s : State) (hK : Kept qu s) : KeptOut qu (execLoad r i s) := by
  unfold execLoad
  repeat' first
    | with_reducible assumption
    | intro _
    | (extract_lets +onlyGivenNames s1; refine Kept.cut (q := qu) s1 ?_ ?_; subst s1; rotate_left; revert s1; intro
        z1; rotate_left)
    | (extract_lets +onlyGivenNames f1; (have hf : _ → _ := f1); clear hf; subst f1; try beta_reduce)
    | (extract_lets +onlyGivenNames x1; revert x1; intro y1)
    | (with_reducible first
        | apply Kept.ite | apply wr_kept | apply setBind_kept | apply modCmd_kept | apply finish_kept
        | apply onCmd_kept | apply setState_kept | apply readOnce_kept | apply setAside_kept
        | apply loadPlaced_kept | apply loadGo_kept)
    | split
    | refine KeptGate.of_go (by with_reducible assumption) ?_
    | refine KeptGate.of_wait (by with_reducible assumption) ?_
    | refine KeptGate.of_held (by with_reducible assumption) ?_

theorem execLoadComplete_kept (bd : Nat) (s : State) (hK : Kept qu s) : KeptOut qu (execLoadComplete bd s) := by
  unfold execLoadComplete
  repeat' first
    | with_reducible assumption
    | intro _
    | (extract_lets +onlyGivenNames s1; refine Kept.cut (q := qu) s1 ?_ ?_; subst s1; rotate_left; revert s1; intro
        z1; rotate_left)
    | (extract_lets +onlyGivenNames f1; (have hf : _ → _ := f1); clear hf; subst f1; try beta_reduce)
    | (extract_lets +onlyGivenNames x1; revert x1; intro y1)
    | (with_reducible first
        | apply KeptOut.unit | apply KeptOut.alive | apply wr_kept | apply wr2_kept | apply setBind_kept
        | apply finish_kept | apply setState_kept | apply chargeSince_kept)
    | split

theorem latchModel_kept (s : State) (c : Cmd) (hK : Kept qu s) : Kept qu (latchModel s c) := by
  unfold latchModel
  repeat' first
    | with_reducible assumption
    | intro _
    | (extract_lets +onlyGivenNames s1; refine Kept.cut (q := qu) s1 ?_ ?_; subst s1; rotate_left; revert s1; intro
        z1; rotate_left)
    | (extract_lets +onlyGivenNames x1; revert x1; intro y1)
    | (with_reducible first
        | apply Kept.ite | apply modCmd_kept | apply setModel_kept | apply swapCheck_kept | apply refAdd_kept
        | apply setLatchM_kept)
    | split
    | (fail_if_no_progress clear_value *; split)

theorem writeOvers_kept (s : State) (w : Weave) (place : List Nat) (n t e : Nat) (hK : Kept qu s) : Kept qu
    (writeOvers s w place n t e) := by
  unfold writeOvers
  repeat' first
    | with_reducible assumption
    | intro _
    | (extract_lets +onlyGivenNames x1; revert x1; intro y1)
    | (with_reducible first | apply Kept.ite | apply Kept.each_)
    | refine Kept.mk_any ?_ fun c => { c with bshProg := twf_tset _ _ c.bshProg }
    | refine Kept.mk_any ?_ fun c => { c with stkProg := twf_tset _ _ c.stkProg }

theorem resetUnits_kept (s : State) (place : List Nat) (seed : Nat) (words : List Nat) (hK : Kept qu s) : Kept qu
    (resetUnits s place seed words) := by
  unfold resetUnits
  generalize List.range 64 = l64
  generalize List.range 32 = l32
  generalize List.range 16 = l16
  generalize List.range 4 = l4
  refine Kept.each_ hK fun t n h => ?_
  apply noteHold_kept
  apply setIsl_kept
  refine Kept.mk_fab ?_ fun c => { c with vwords := twf_putWords _ _ c.vwords }
  apply wr_kept
  apply wr_kept
  apply wr_kept
  apply wr_kept
  refine Kept.each_ ?_ fun t k h => ww_kept _ _ _ h
  refine Kept.each_ ?_ fun t k h => ww_kept _ _ _ h
  refine Kept.each_ ?_ fun t k h => Kept.each_ (setSw_kept _ _ _ h) fun t d h => setXing_kept _ _ _ h
  exact Kept.each_ h fun t k h => setBsh_kept _ _ _ (setStk_kept _ _ _ h)

theorem invokeRun_kept (s : State) (c : Cmd) (bd : Nat) (nw : Bool) (w : Weave) (n : Nat) (l : List (Nat × Nat)) (hK
    : Kept qu s) : Kept qu (invokeRun s c bd nw w n l) := by
  unfold invokeRun
  repeat' first
    | with_reducible assumption
    | intro _
    | (extract_lets +onlyGivenNames s1; refine Kept.cut (q := qu) s1 ?_ ?_; subst s1; rotate_left; revert s1; intro
        z1; rotate_left)
    | (extract_lets +onlyGivenNames x1; revert x1; intro y1)
    | (with_reducible first
        | apply Kept.ite | apply wr_kept | apply fresh_kept | apply setBind_kept | apply modCmd_kept
        | apply setInv_kept | apply gateAll_kept | apply writeVariant_kept | apply setState_kept
        | apply imageBytes_kept | apply setAside_kept | apply writeOvers_kept | apply resetUnits_kept)
    | split
    | refine KeptGate.of_go (by with_reducible assumption) ?_
    | refine KeptGate.of_wait (by with_reducible assumption) ?_
    | refine KeptGate.of_held (by with_reducible assumption) ?_

theorem invokeFails_kept (s : State) (c : Cmd) (code v : Nat) (hK : Kept qu s) : Kept qu (invokeFails s c code v) := by
  unfold invokeFails
  repeat' with_reducible first | assumption | apply finish_kept | apply runFault_kept

theorem invokeGo_kept (s : State) (c : Cmd) (nw : Bool) (w : Weave) (hK : Kept qu s) : Kept qu (invokeGo s c nw w) := by
  unfold invokeGo
  repeat' first
    | with_reducible assumption
    | intro _
    | (extract_lets +onlyGivenNames f1; (have hf : _ → _ := f1); clear hf; subst f1; try beta_reduce)
    | (extract_lets +onlyGivenNames x1; revert x1; intro y1)
    | (with_reducible first
        | apply Kept.ite | apply fresh_kept | apply gates_kept | apply gateAll_kept | apply imageBytes_kept
        | apply setAside_kept | apply invokeRun_kept | apply invokeFails_kept)
    | split
    | refine KeptGate.of_go (by with_reducible assumption) ?_
    | refine KeptGate.of_wait (by with_reducible assumption) ?_
    | refine KeptGate.of_held (by with_reducible assumption) ?_

theorem execInvoke_kept (r i : Nat) (s : State) (hK : Kept qu s) : KeptOut qu (execInvoke r i s) := by
  unfold execInvoke
  repeat' first
    | with_reducible assumption
    | intro _
    | (extract_lets +onlyGivenNames s1; refine Kept.cut (q := qu) s1 ?_ ?_; subst s1; rotate_left; revert s1; intro
        z1; rotate_left)
    | (extract_lets +onlyGivenNames x1; revert x1; intro y1)
    | (with_reducible first
        | apply Kept.ite | apply finish_kept | apply onCmd_kept | apply latchModel_kept | apply invokeFails_kept
        | apply invokeGo_kept)
    | split

theorem execIslandRelease_kept (bd ns : Nat) (s : State) (hK : Kept qu s) : KeptOut qu (execIslandRelease bd ns s) := by
  unfold execIslandRelease
  repeat' first
    | with_reducible assumption
    | intro _
    | (extract_lets +onlyGivenNames s1; refine Kept.cut (q := qu) s1 ?_ ?_; subst s1; rotate_left; revert s1; intro
        z1; rotate_left)
    | (extract_lets +onlyGivenNames f1; (have hf : _ → _ := f1); clear hf; subst f1; try beta_reduce)
    | (extract_lets +onlyGivenNames x1; revert x1; intro y1)
    | (with_reducible first
        | apply KeptOut.unit | apply KeptOut.alive | apply Kept.ite | apply wr_kept | apply setIsl_kept
        | apply setInv_kept | apply setFreqs_kept | apply KeptOpt.getD | apply KeptOpt.orElse | apply KeptOpt.ite
        | apply KeptOpt.some_ | apply KeptOpt.none_)
    | split

theorem execReplace_kept (r i : Nat) (s : State) (hK : Kept qu s) : KeptOut qu (execReplace r i s) := by
  unfold execReplace
  repeat' first
    | with_reducible assumption
    | intro _
    | (extract_lets +onlyGivenNames s1; refine Kept.cut (q := qu) s1 ?_ ?_; subst s1; rotate_left; revert s1; intro
        z1; rotate_left)
    | (extract_lets +onlyGivenNames f1; (have hf : _ → _ := f1); clear hf; subst f1; try beta_reduce)
    | (extract_lets +onlyGivenNames x1; revert x1; intro y1)
    | (with_reducible first
        | apply Kept.ite | apply wr_kept | apply fresh_kept | apply setBind_kept | apply modCmd_kept
        | apply finish_kept | apply onCmd_kept | apply loadFault_kept | apply setState_kept | apply readImage_kept
        | apply setAside_kept | apply takeT1_kept | apply putWeave_kept)
    | split
    | refine KeptGate.of_go (by with_reducible assumption) ?_
    | refine KeptGate.of_wait (by with_reducible assumption) ?_
    | refine KeptGate.of_held (by with_reducible assumption) ?_

theorem noPlace_kept (s : State) (bd r i code : Nat) (hK : Kept qu s) : Kept qu (noPlace s bd r i code) := by
  unfold noPlace
  repeat' first
    | with_reducible assumption
    | intro _
    | (extract_lets +onlyGivenNames s1; refine Kept.cut (q := qu) s1 ?_ ?_; subst s1; rotate_left; revert s1; intro
        z1; rotate_left)
    | (extract_lets +onlyGivenNames x1; revert x1; intro y1)
    | (with_reducible first | apply wr_kept | apply setBind_kept | apply finish_kept | apply setState_kept)

theorem loadStep_kept (s : State) (bd r i : Nat) (w : Weave) (try_ : Option (List Nat)) (only : Option Nat) (all :
    Bool) (hK : Kept qu s) : Kept qu (loadStep s bd r i w try_ only all) := by
  unfold loadStep
  repeat' first
    | with_reducible assumption
    | intro _
    | (extract_lets +onlyGivenNames s1; refine Kept.cut (q := qu) s1 ?_ ?_; subst s1; rotate_left; revert s1; intro
        z1; rotate_left)
    | (extract_lets +onlyGivenNames f1; (have hf : _ → _ := f1); clear hf; subst f1; try beta_reduce)
    | (extract_lets +onlyGivenNames x1; revert x1; intro y1)
    | (with_reducible first
        | apply wr_kept | apply fresh_kept | apply setBind_kept | apply loadFault_kept | apply readImage_kept
        | apply setAside_kept | apply takeT1_kept | apply dropWeave_kept | apply putWeave_kept
        | apply noPlace_kept)
    | split
    | refine KeptGate.of_go (by with_reducible assumption) ?_
    | refine KeptGate.of_wait (by with_reducible assumption) ?_
    | refine KeptGate.of_held (by with_reducible assumption) ?_
    | (fail_if_no_progress clear_value *; split)

theorem execDrainSwitch_kept (bd : Nat) (s : State) (hK : Kept qu s) : KeptOut qu (execDrainSwitch bd s) := by
  unfold execDrainSwitch
  repeat' first
    | with_reducible assumption
    | intro _
    | (with_reducible first | apply KeptOut.unit | apply KeptOut.alive | apply Kept.ite | apply loadStep_kept)
    | split

theorem execCarryOldUnload_kept (bd : Nat) (s : State) (hK : Kept qu s) : KeptOut qu (execCarryOldUnload bd s) := by
  unfold execCarryOldUnload
  repeat' first
    | with_reducible assumption
    | intro _
    | (extract_lets +onlyGivenNames s1; refine Kept.cut (q := qu) s1 ?_ ?_; subst s1; rotate_left; revert s1; intro
        z1; rotate_left)
    | (extract_lets +onlyGivenNames x1; revert x1; intro y1)
    | (with_reducible first
        | apply KeptOut.unit | apply KeptOut.alive | apply Kept.ite | apply wr_kept | apply wr2_kept
        | apply setIsl_kept | apply setBind_kept | apply finish_kept | apply setState_kept | apply dropWeave_kept
        | apply Kept.each_)
    | split

theorem startDrain_kept (op : Nat) (kind : BindOp) (r i : Nat) (s : State) (hK : Kept qu s) : KeptOut qu (startDrain
    op kind r i s) := by
  unfold startDrain
  repeat' first
    | with_reducible assumption
    | intro _
    | (extract_lets +onlyGivenNames s1; refine Kept.cut (q := qu) s1 ?_ ?_; subst s1; rotate_left; revert s1; intro
        z1; rotate_left)
    | (extract_lets +onlyGivenNames x1; revert x1; intro y1)
    | (with_reducible first
        | apply Kept.ite | apply setBind_kept | apply modCmd_kept | apply finish_kept | apply onCmd_kept
        | apply setState_kept)

theorem execRelocate_kept (r i : Nat) (s : State) (hK : Kept qu s) : KeptOut qu (execRelocate r i s) := by
  unfold execRelocate
  repeat' with_reducible first | assumption | apply startDrain_kept

theorem execUnload_kept (r i : Nat) (s : State) (hK : Kept qu s) : KeptOut qu (execUnload r i s) := by
  unfold execUnload
  repeat' with_reducible first | assumption | apply startDrain_kept

theorem execBindingDrained_kept (bd : Nat) (s : State) (hK : Kept qu s) : KeptOut qu (execBindingDrained bd s) := by
  unfold execBindingDrained
  repeat' first
    | with_reducible assumption
    | intro _
    | (extract_lets +onlyGivenNames s1; refine Kept.cut (q := qu) s1 ?_ ?_; subst s1; rotate_left; revert s1; intro
        z1; rotate_left)
    | (extract_lets +onlyGivenNames x1; revert x1; intro y1)
    | (with_reducible first
        | apply KeptOut.unit | apply KeptOut.alive | apply Kept.ite | apply finish_kept | apply dropWeave_kept
        | apply emptyBinding_kept | apply loadStep_kept)
    | split

end Sys2Proof.Machine
end

