-- ==== Sys2Proof/Laws/KeptYieldExec.lean ====
section
/-! SUPPORT. The operations of `Machine/YieldExec.lean` keep the queue and the canonical form of the memories. -/

namespace Sys2Proof.Machine

variable {qu : List Instr}

theorem yieldRefused_kept (s : State) (r i code sub : Nat) (hK : Kept qu s) : Kept qu (yieldRefused s r i code sub)
    := by
  unfold yieldRefused
  repeat' with_reducible first | assumption | apply bump_kept | apply finish_kept

theorem execYieldFull_kept (r i : Nat) (s : State) (hK : Kept qu s) : KeptOut qu (execYieldFull r i s) := by
  unfold execYieldFull
  repeat' first
    | with_reducible assumption
    | intro _
    | (extract_lets +onlyGivenNames x1; revert x1; intro y1)
    | (with_reducible first
        | apply KeptOut.next | apply KeptOut.unit | apply KeptOut.ite | apply Kept.ite | apply onCmd_kept
        | apply startYield_kept | apply yieldRefused_kept)
    | split
    | refine KeptYieldRes.of_started (by with_reducible assumption) ?_

theorem execYieldBoundary_kept (r i : Nat) (s : State) (hK : Kept qu s) : KeptOut qu (execYieldBoundary r i s) := by
  unfold execYieldBoundary
  repeat' first
    | with_reducible assumption
    | intro _
    | (with_reducible first
        | apply KeptOut.next | apply KeptOut.unit | apply KeptOut.ite | apply Kept.ite | apply finish_kept
        | apply boundaryYield_kept | apply onCmd_kept | apply Kept.each_)

theorem execResumeBoundary_kept (r i : Nat) (s : State) (hK : Kept qu s) : KeptOut qu (execResumeBoundary r i s) := by
  unfold execResumeBoundary
  repeat' first
    | with_reducible assumption
    | intro _
    | (with_reducible first
        | apply KeptOut.next | apply KeptOut.unit | apply KeptOut.ite | apply Kept.ite | apply finish_kept
        | apply boundaryResume_kept | apply onCmd_kept | apply Kept.each_)

theorem withdrawHeld_kept (s : State) (r i : Nat) (place : List Nat) (hK : Kept qu s) : Kept qu (withdrawHeld s r i
    place) := by
  unfold withdrawHeld
  repeat' first
    | with_reducible assumption
    | intro _
    | (extract_lets +onlyGivenNames s1; refine Kept.cut (q := qu) s1 ?_ ?_; subst s1; rotate_left; revert s1; intro
        z1; rotate_left)
    | (extract_lets +onlyGivenNames x1; revert x1; intro y1)
    | (with_reducible first | apply setMem_other | apply setBsh_kept | apply Kept.each_)

theorem dropYield_kept (s : State) (y : Yielding) (hK : Kept qu s) : Kept qu (dropYield s y) := by
  unfold dropYield
  repeat' first
    | with_reducible assumption
    | intro _
    | (extract_lets +onlyGivenNames s1; refine Kept.cut (q := qu) s1 ?_ ?_; subst s1; rotate_left; revert s1; intro
        z1; rotate_left)
    | (extract_lets +onlyGivenNames x1; revert x1; intro y1)
    | (with_reducible first | apply bump_kept | apply finish_kept)
    | split
    | (fail_if_no_progress with_reducible apply Kept.mk_other)

theorem execYieldQuiesced_kept (bd : Nat) (s : State) (hK : Kept qu s) : KeptOut qu (execYieldQuiesced bd s) := by
  unfold execYieldQuiesced
  repeat' first
    | with_reducible assumption
    | intro _
    | (extract_lets +onlyGivenNames s1; refine Kept.cut (q := qu) s1 ?_ ?_; subst s1; rotate_left; revert s1; intro
        z1; rotate_left)
    | (extract_lets +onlyGivenNames x1; revert x1; intro y1)
    | (with_reducible first
        | apply KeptOut.unit | apply KeptOut.alive | apply Kept.ite | apply withdrawHeld_kept
        | apply dropYield_kept)
    | split
    | (fail_if_no_progress with_reducible apply Kept.mk_other)

theorem restoreUnits_kept (s : State) (place : List Nat) (u : SavedUnits) (hK : Kept qu s) : Kept qu (restoreUnits s
    place u) := by
  unfold restoreUnits
  repeat' first
    | with_reducible assumption
    | intro _
    | (extract_lets +onlyGivenNames s1; refine Kept.cut (q := qu) s1 ?_ ?_; subst s1; rotate_left; revert s1; intro
        z1; rotate_left)
    | (extract_lets +onlyGivenNames x1; revert x1; intro y1)
    | (with_reducible first | apply ww_kept | apply setIsl_kept | apply noteHold_kept | apply Kept.each_)
    | refine Kept.mk_any ?_ fun c => { c with
          stk := twf_putRel _ _ _ c.stk,
          bsh := twf_putRel _ _ _ c.bsh,
          sram := twf_putRel _ _ _ c.sram,
          badPar := twf_putRel _ _ _ c.badPar,
          vwords := twf_putRel _ _ _ c.vwords,
          sw := twf_putRel _ _ _ c.sw,
          xing := twf_putRel _ _ _ c.xing }

theorem writeArea_kept (s : State) (p n : Nat) (desc : Nat) (y : Saved) (hK : Kept qu s) : Kept qu (writeArea s p n
    desc y) := by
  unfold writeArea
  repeat' first
    | with_reducible assumption
    | intro _
    | (extract_lets +onlyGivenNames s1; refine Kept.cut (q := qu) s1 ?_ ?_; subst s1; rotate_left; revert s1; intro
        z1; rotate_left)
    | (extract_lets +onlyGivenNames x1; revert x1; intro y1)
    | (with_reducible first | apply fresh_kept | apply memWrite_kept | apply abortOnWrite_kept | apply Kept.each_)

theorem execYieldSaveDone_kept (bd : Nat) (s : State) (hK : Kept qu s) : KeptOut qu (execYieldSaveDone bd s) := by
  unfold execYieldSaveDone
  repeat' first
    | with_reducible assumption
    | intro _
    | (extract_lets +onlyGivenNames s1; refine Kept.cut (q := qu) s1 ?_ ?_; subst s1; rotate_left; revert s1; intro
        z1; rotate_left)
    | (extract_lets +onlyGivenNames x1; revert x1; intro y1)
    | (with_reducible first
        | apply KeptOut.unit | apply KeptOut.alive | apply Kept.ite | apply wr_kept | apply bump_kept
        | apply setBind_kept | apply modCmd_kept | apply finish_kept | apply chargePb_kept | apply dropWeave_kept
        | apply chargeSince_kept | apply dropYield_kept | apply writeArea_kept)
    | split
    | (fail_if_no_progress with_reducible apply Kept.mk_other)

theorem startRestore_kept (s : State) (c : Cmd) (im : Img) (y : Saved) (place : List Nat) (hK : Kept qu s) : Kept qu
    (startRestore s c im y place) := by
  unfold startRestore
  repeat' first
    | with_reducible assumption
    | intro _
    | (extract_lets +onlyGivenNames s1; refine Kept.cut (q := qu) s1 ?_ ?_; subst s1; rotate_left; revert s1; intro
        z1; rotate_left)
    | (extract_lets +onlyGivenNames x1; revert x1; intro y1)
    | (with_reducible first
        | apply Kept.ite | apply wr_kept | apply up_kept | apply fresh_kept | apply setBind_kept
        | apply modCmd_kept | apply putWeave_kept | apply writeOvers_kept)
    | (fail_if_no_progress with_reducible apply Kept.mk_other)

theorem resumeGo_kept (s : State) (c : Cmd) (hK : Kept qu s) : Kept qu (resumeGo s c) := by
  unfold resumeGo
  repeat' first
    | with_reducible assumption
    | intro _
    | (extract_lets +onlyGivenNames f1; (have hf : _ → _ := f1); clear hf; subst f1; try beta_reduce)
    | (extract_lets +onlyGivenNames x1; revert x1; intro y1)
    | (with_reducible first
        | apply Kept.ite | apply finish_kept | apply loadFault_kept | apply readOnce_kept | apply setAside_kept
        | apply urgentPlace_kept | apply startRestore_kept)
    | split
    | refine Kept.fst (by with_reducible assumption) ?_
    | refine KeptGate.of_go (by with_reducible assumption) ?_
    | refine KeptGate.of_wait (by with_reducible assumption) ?_
    | refine KeptGate.of_held (by with_reducible assumption) ?_

theorem execResumeFull_kept (r i : Nat) (s : State) (hK : Kept qu s) : KeptOut qu (execResumeFull r i s) := by
  unfold execResumeFull
  repeat' first
    | with_reducible assumption
    | intro _
    | (with_reducible first
        | apply KeptOut.next | apply KeptOut.unit | apply KeptOut.ite | apply onCmd_kept | apply resumeGo_kept)

theorem execResumeProceed_kept (r i : Nat) (s : State) (hK : Kept qu s) : KeptOut qu (execResumeProceed r i s) := by
  unfold execResumeProceed
  repeat' first
    | with_reducible assumption
    | intro _
    | (with_reducible first | apply KeptOut.unit | apply KeptOut.alive | apply Kept.ite | apply resumeGo_kept)
    | split

theorem endSaved_kept (s : State) (y : Saved) (status sub : Nat) (hK : Kept qu s) : Kept qu (endSaved s y status
    sub) := by
  unfold endSaved
  repeat' first
    | with_reducible assumption
    | intro _
    | (extract_lets +onlyGivenNames s1; refine Kept.cut (q := qu) s1 ?_ ?_; subst s1; rotate_left; revert s1; intro
        z1; rotate_left)
    | (extract_lets +onlyGivenNames f1; (have hf : _ → _ := f1); clear hf; subst f1; try beta_reduce)
    | (extract_lets +onlyGivenNames x1; revert x1; intro y1)
    | (with_reducible first
        | apply Kept.ite | apply wr_kept | apply setBind_kept | apply modCmd_kept | apply finish_kept
        | apply setState_kept | apply dropWeave_kept)
    | split
    | (fail_if_no_progress with_reducible apply Kept.mk_other)

theorem execRestoreDone_kept (r i : Nat) (detErr : Bool) (s : State) (hK : Kept qu s) : KeptOut qu (execRestoreDone
    r i detErr s) := by
  unfold execRestoreDone
  repeat' first
    | with_reducible assumption
    | intro _
    | (extract_lets +onlyGivenNames s1; refine Kept.cut (q := qu) s1 ?_ ?_; subst s1; rotate_left; revert s1; intro
        z1; rotate_left)
    | (extract_lets +onlyGivenNames x1; revert x1; intro y1)
    | (with_reducible first
        | apply KeptOut.unit | apply KeptOut.alive | apply Kept.ite | apply modCmd_kept | apply finish_kept
        | apply setInv_kept | apply chargePb_kept | apply chargeSince_kept | apply restoreUnits_kept
        | apply endSaved_kept)
    | split
    | (fail_if_no_progress with_reducible apply Kept.mk_other)

theorem execAbandon_kept (r i : Nat) (s : State) (hK : Kept qu s) : KeptOut qu (execAbandon r i s) := by
  unfold execAbandon
  repeat' first
    | with_reducible assumption
    | intro _
    | (extract_lets +onlyGivenNames s1; refine Kept.cut (q := qu) s1 ?_ ?_; subst s1; rotate_left; revert s1; intro
        z1; rotate_left)
    | (extract_lets +onlyGivenNames x1; revert x1; intro y1)
    | (with_reducible first
        | apply setMem_other | apply Kept.ite | apply finish_kept | apply onCmd_kept | apply endSaved_kept)
    | split

theorem placeSet_kept (s : State) (c : Cmd) (cls : Nat) (pages : List Nat) (k : State → State) (hK : Kept qu s) (hK1
    : ∀ x0, Kept qu x0 → Kept qu (k x0)) : Kept qu (placeSet s c cls pages k) := by
  unfold placeSet
  repeat' first
    | with_reducible assumption
    | intro _
    | (extract_lets +onlyGivenNames x1; revert x1; intro y1)
    | (with_reducible first
        | apply hK1 | apply Kept.ite | apply finish_kept | apply pinPages_kept | apply hintPages_kept)
    | split
    | refine KeptPinRes.of_done (by with_reducible assumption) ?_
    | refine KeptPinRes.of_wait (by with_reducible assumption) ?_
    | refine KeptPinRes.of_quota (by with_reducible assumption) ?_

theorem execModelSet_kept (r i : Nat) (s : State) (hK : Kept qu s) : KeptOut qu (execModelSet r i s) := by
  unfold execModelSet
  repeat' first
    | with_reducible assumption
    | intro _
    | (extract_lets +onlyGivenNames x1; revert x1; intro y1)
    | (with_reducible first
        | apply Kept.ite | apply finish_kept | apply setModel_kept | apply onCmd_kept | apply placeSet_kept)

theorem execModelStage_kept (r i : Nat) (s : State) (hK : Kept qu s) : KeptOut qu (execModelStage r i s) := by
  unfold execModelStage
  repeat' first
    | with_reducible assumption
    | intro _
    | (extract_lets +onlyGivenNames x1; revert x1; intro y1)
    | (with_reducible first
        | apply Kept.ite | apply finish_kept | apply setModel_kept | apply onCmd_kept | apply placeSet_kept)

theorem execModelSwap_kept (r i : Nat) (s : State) (hK : Kept qu s) : KeptOut qu (execModelSwap r i s) := by
  unfold execModelSwap
  repeat' first
    | with_reducible assumption
    | intro _
    | (extract_lets +onlyGivenNames s1; refine Kept.cut (q := qu) s1 ?_ ?_; subst s1; rotate_left; revert s1; intro
        z1; rotate_left)
    | (extract_lets +onlyGivenNames x1; revert x1; intro y1)
    | (with_reducible first
        | apply Kept.ite | apply finish_kept | apply setModel_kept | apply swapCheck_kept | apply latchDrop_kept
        | apply onCmd_kept | apply Kept.each_)

end Sys2Proof.Machine
end

