-- ==== Sys2Proof/Laws/KeptPorterExec.lean ====
section
/-! SUPPORT. The operations of `Machine/PorterExec.lean` keep the queue and the canonical form of the memories. -/

namespace Sys2Proof.Machine

variable {qu : List Instr}

theorem pageBits_kept (s : State) (p g lo w v : Nat) (hK : Kept qu s) : KeptPageRes qu (pageBits s p g lo w v) := by
  unfold pageBits
  repeat' first
    | with_reducible assumption
    | intro _
    | (extract_lets +onlyGivenNames x1; revert x1; intro y1)
    | (with_reducible first | apply Kept.ite | apply setL3_kept | apply KeptPageRes.done)

theorem mapLocal_kept (s : State) (p g opt : Nat) (hK : Kept qu s) : KeptPageRes qu (mapLocal s p g opt) := by
  unfold mapLocal
  repeat' first
    | with_reducible assumption
    | intro _
    | (extract_lets +onlyGivenNames s1; refine Kept.cut (q := qu) s1 ?_ ?_; subst s1; rotate_left; revert s1; intro
        z1; rotate_left)
    | (extract_lets +onlyGivenNames x1; revert x1; intro y1)
    | (with_reducible first
        | apply setSeg_kept | apply takeFseg_kept | apply ensureTables_kept | apply makeLocal_kept
        | apply evictFor_kept | apply KeptPageRes.ite | apply KeptPageRes.done | apply KeptPageRes.wait
        | apply KeptPageRes.fail)
    | split
    | refine KeptOpt.of_some (by with_reducible assumption) ?_

theorem mapPage_kept (s : State) (p g k : Nat) (c : Cmd) (hK : Kept qu s) : KeptPageRes qu (mapPage s p g k c) := by
  unfold mapPage
  repeat' first
    | with_reducible assumption
    | intro _
    | (extract_lets +onlyGivenNames x1; revert x1; intro y1)
    | (with_reducible first
        | apply setL3_kept | apply ensureTables_kept | apply mapLocal_kept | apply KeptPageRes.ite
        | apply KeptPageRes.done | apply KeptPageRes.fail)
    | split
    | refine KeptOpt.of_some (by with_reducible assumption) ?_

theorem unmapPage_kept (s : State) (p g : Nat) (hK : Kept qu s) : KeptPageRes qu (unmapPage s p g) := by
  unfold unmapPage
  repeat' first
    | with_reducible assumption
    | intro _
    | (extract_lets +onlyGivenNames s1; refine Kept.cut (q := qu) s1 ?_ ?_; subst s1; rotate_left; revert s1; intro
        z1; rotate_left)
    | (extract_lets +onlyGivenNames x1; revert x1; intro y1)
    | (with_reducible first
        | apply Kept.ite | apply setL3_kept | apply dropTables_kept | apply leaveLocal_kept | apply abortMig_kept
        | apply told_kept | apply KeptPageRes.ite | apply KeptPageRes.done | apply KeptPageRes.wait
        | apply KeptPageRes.fail)
    | split

theorem shadowPage_kept (s : State) (p g k : Nat) (c : Cmd) (hK : Kept qu s) : KeptPageRes qu (shadowPage s p g k c)
    := by
  unfold shadowPage
  repeat' first
    | with_reducible assumption
    | intro _
    | (extract_lets +onlyGivenNames s1; refine Kept.cut (q := qu) s1 ?_ ?_; subst s1; rotate_left; revert s1; intro
        z1; rotate_left)
    | (extract_lets +onlyGivenNames x1; revert x1; intro y1)
    | (with_reducible first
        | apply setL2_kept | apply setL3_kept | apply setSh_kept | apply KeptPageRes.ite | apply KeptPageRes.done
        | apply KeptPageRes.fail)

theorem migratePage_kept (s : State) (p g t : Nat) (own : Nat × Nat) (hK : Kept qu s) : KeptPageRes qu (migratePage
    s p g t own) := by
  unfold migratePage
  repeat' first
    | with_reducible assumption
    | intro _
    | (with_reducible first
        | apply bringTo_kept | apply KeptPageRes.ite | apply KeptPageRes.done | apply KeptPageRes.wait
        | apply KeptPageRes.fail)
    | split
    | refine KeptPinRes.of_done (by with_reducible assumption) ?_
    | refine KeptPinRes.of_wait (by with_reducible assumption) ?_
    | refine KeptPinRes.of_quota (by with_reducible assumption) ?_

theorem pinOp_kept (s : State) (p g t : Nat) (own : Nat × Nat) (hK : Kept qu s) : KeptPageRes qu (pinOp s p g t own)
    := by
  unfold pinOp
  repeat' first
    | with_reducible assumption
    | intro _
    | (with_reducible first
        | apply pinPage_kept | apply KeptPageRes.ite | apply KeptPageRes.done | apply KeptPageRes.wait
        | apply KeptPageRes.fail)
    | split
    | refine KeptPinRes.of_done (by with_reducible assumption) ?_
    | refine KeptPinRes.of_wait (by with_reducible assumption) ?_
    | refine KeptPinRes.of_quota (by with_reducible assumption) ?_

theorem pageOp_kept (s : State) (c : Cmd) (k : Nat) (hK : Kept qu s) : KeptPageRes qu (pageOp s c k) := by
  unfold pageOp
  repeat' first
    | with_reducible assumption
    | (extract_lets +onlyGivenNames x1; revert x1; intro y1)
    | (with_reducible first
        | apply told_kept | apply pageBits_kept | apply mapPage_kept | apply unmapPage_kept | apply shadowPage_kept
        | apply migratePage_kept | apply pinOp_kept)
    | split

theorem pageOps_kept (n : Nat) (s : State) (c : Cmd) (k : Nat) (hK : Kept qu s) : Kept qu (pageOps n s c k) := by
  induction n generalizing s c k with
  | zero => exact finish_kept _ _ _ _ _ hK
  | succ n ih =>
    unfold pageOps
    repeat' first
      | (with_reducible first | assumption | apply ih | apply modCmd_kept | apply finish_kept | apply pageOp_kept)
      | split
      | refine KeptPageRes.of_done (by with_reducible assumption) ?_
      | refine KeptPageRes.of_wait (by with_reducible assumption) ?_
      | refine KeptPageRes.of_fail (by with_reducible assumption) ?_

theorem startMoves_kept (s : State) (c : Cmd) (n k : Nat) (hK : Kept qu s) : Kept qu (startMoves s c n k) := by
  induction n generalizing s k with
  | zero => exact hK
  | succ n ih =>
    unfold startMoves
    repeat' first
      | (with_reducible first | assumption | apply ih | apply pageOp_kept)
      | split
      | refine KeptPageRes.of_done (by with_reducible assumption) ?_
      | refine KeptPageRes.of_wait (by with_reducible assumption) ?_

theorem memOp_kept (op r i : Nat) (s : State) (hK : Kept qu s) : KeptOut qu (memOp op r i s) := by
  unfold memOp
  repeat' first
    | with_reducible assumption
    | intro _
    | (extract_lets +onlyGivenNames s1; refine Kept.cut (q := qu) s1 ?_ ?_; subst s1; rotate_left; revert s1; intro
        z1; rotate_left)
    | (extract_lets +onlyGivenNames x1; revert x1; intro y1)
    | (with_reducible first | apply Kept.ite | apply onCmd_kept | apply pageOps_kept | apply startMoves_kept)

theorem execMap_kept (r i : Nat) (s : State) (hK : Kept qu s) : KeptOut qu (execMap r i s) := by
  unfold execMap
  repeat' with_reducible first | assumption | apply memOp_kept

theorem execUnmap_kept (r i : Nat) (s : State) (hK : Kept qu s) : KeptOut qu (execUnmap r i s) := by
  unfold execUnmap
  repeat' with_reducible first | assumption | apply memOp_kept

theorem execProtect_kept (r i : Nat) (s : State) (hK : Kept qu s) : KeptOut qu (execProtect r i s) := by
  unfold execProtect
  repeat' with_reducible first | assumption | apply memOp_kept

theorem execPin_kept (r i : Nat) (s : State) (hK : Kept qu s) : KeptOut qu (execPin r i s) := by
  unfold execPin
  repeat' with_reducible first | assumption | apply memOp_kept

theorem execUnpin_kept (r i : Nat) (s : State) (hK : Kept qu s) : KeptOut qu (execUnpin r i s) := by
  unfold execUnpin
  repeat' with_reducible first | assumption | apply memOp_kept

theorem execHint_kept (r i : Nat) (s : State) (hK : Kept qu s) : KeptOut qu (execHint r i s) := by
  unfold execHint
  repeat' with_reducible first | assumption | apply memOp_kept

theorem execMigrate_kept (r i : Nat) (s : State) (hK : Kept qu s) : KeptOut qu (execMigrate r i s) := by
  unfold execMigrate
  repeat' with_reducible first | assumption | apply memOp_kept

theorem execShadow_kept (r i : Nat) (s : State) (hK : Kept qu s) : KeptOut qu (execShadow r i s) := by
  unfold execShadow
  repeat' with_reducible first | assumption | apply memOp_kept

theorem execPoison_kept (r i : Nat) (s : State) (hK : Kept qu s) : KeptOut qu (execPoison r i s) := by
  unfold execPoison
  repeat' with_reducible first | assumption | apply memOp_kept

theorem execUnpoison_kept (r i : Nat) (s : State) (hK : Kept qu s) : KeptOut qu (execUnpoison r i s) := by
  unfold execUnpoison
  repeat' with_reducible first | assumption | apply memOp_kept

theorem copyFrame_kept (s : State) (t f t' f' : Nat) (hK : Kept qu s) : Kept qu (copyFrame s t f t' f') := by
  have h := clearFrame_kept s t' f' hK
  unfold copyFrame
  extract_lets src s1 put
  have hp (tb : Tbl Byte) (w : twf (fun _ => 0) tb = true) : twf (fun _ => 0) (put tb) = true :=
    twf_fold (fun e : Nat × Byte => e.1 - f * 65536 + f' * 65536) Prod.snd src w
  split
  · exact setMem_kept _ _ h fun c => { c with t2 := hp _ c.t2 }
  · exact setMem_kept _ _ h fun c => { c with t3 := hp _ c.t3 }

theorem retireSeg_kept (s : State) (k : Nat) (hK : Kept qu s) : Kept qu (retireSeg s k) := by
  unfold retireSeg
  repeat' first
    | with_reducible assumption
    | intro _
    | (extract_lets +onlyGivenNames s1; refine Kept.cut (q := qu) s1 ?_ ?_; subst s1; rotate_left; revert s1; intro
        z1; rotate_left)
    | (with_reducible first | apply Kept.ite | apply setFseg_kept | apply startMig_kept)
    | split

theorem noteError_kept (s : State) (k : Nat) (hK : Kept qu s) : Kept qu (noteError s k) := by
  unfold noteError
  repeat' first
    | with_reducible assumption
    | intro _
    | (extract_lets +onlyGivenNames s1; refine Kept.cut (q := qu) s1 ?_ ?_; subst s1; rotate_left; revert s1; intro
        z1; rotate_left)
    | (extract_lets +onlyGivenNames x1; revert x1; intro y1)
    | (with_reducible first | apply Kept.ite | apply setFseg_kept | apply retireSeg_kept)
    | split

theorem repairPage_kept (s : State) (p g : Nat) (hK : Kept qu s) : Kept qu (repairPage s p g) := by
  unfold repairPage
  generalize List.range 65536 = l
  extract_lets e c d put
  have hp (tb : Tbl Byte) (w : twf (fun _ => 0) tb = true) : twf (fun _ => 0) (put tb) = true :=
    twf_fold (fun k : Nat => eFrame e * 65536 + k) d l w
  split
  · exact copyFrame_kept _ _ _ _ _ hK
  · apply fresh_kept
    split
    · exact setMem_kept _ _ hK fun c => { c with t2 := hp _ c.t2 }
    · exact setMem_kept _ _ hK fun c => { c with t3 := hp _ c.t3 }

theorem detected_kept (s : State) (p g : Nat) (copyOk : Bool) (hK : Kept qu s) : Kept qu (detected s p g copyOk).1 := by
  unfold detected
  repeat' first
    | with_reducible assumption
    | intro _
    | (extract_lets +onlyGivenNames s1; refine Kept.cut (q := qu) s1 ?_ ?_; subst s1; rotate_left; revert s1; intro
        z1; rotate_left)
    | (extract_lets +onlyGivenNames f1; (have hf : _ → _ := f1); clear hf; subst f1; try beta_reduce)
    | (extract_lets +onlyGivenNames x1; revert x1; intro y1)
    | (with_reducible first
        | apply Kept.ite | apply Kept.ite_fst | apply bump_kept | apply setL3_kept | apply noteError_kept
        | apply repairPage_kept)

theorem findError_kept (s : State) (p g : Nat) (copyOk : Bool) (hK : Kept qu s) : KeptErrAt qu (findError s p g
    copyOk) := by
  unfold findError
  repeat' first
    | with_reducible assumption
    | intro _
    | (extract_lets +onlyGivenNames f1; (have hf : _ → _ := f1); clear hf; subst f1; try beta_reduce)
    | (extract_lets +onlyGivenNames x1; revert x1; intro y1)
    | (with_reducible first
        | apply dropRead_kept | apply winAsk_kept | apply detected_kept | apply KeptErrAt.ite
        | apply KeptErrAt.repaired | apply KeptErrAt.poisoned | apply KeptErrAt.reads)
    | split
    | refine Kept.fst (by with_reducible assumption) ?_
    | refine KeptWinRes.of_wait (by with_reducible assumption) ?_
    | refine KeptWinRes.of_flt (by with_reducible assumption) ?_

theorem heatLost_kept (s : State) (p g : Nat) (hK : Kept qu s) : Kept qu (heatLost s p g) := by
  unfold heatLost
  repeat' first
    | with_reducible assumption
    | intro _
    | (extract_lets +onlyGivenNames x1; revert x1; intro y1)
    | (with_reducible first | apply Kept.ite | apply setFseg_kept)
    | split

theorem execDetectionRepair_kept (p g place : Nat) (copyOk : Bool) (s : State) (hK : Kept qu s) : KeptOut qu
    (execDetectionRepair p g place copyOk s) := by
  unfold execDetectionRepair
  repeat' first
    | with_reducible assumption
    | intro _
    | (extract_lets +onlyGivenNames x1; revert x1; intro y1)
    | (with_reducible first
        | apply setMem_other | apply KeptOut.unit | apply KeptOut.alive | apply Kept.ite | apply setTblBad_kept
        | apply findError_kept | apply heatLost_kept)
    | split
    | refine KeptErrAt.of_repaired (by with_reducible assumption) ?_
    | refine KeptErrAt.of_poisoned (by with_reducible assumption) ?_
    | refine KeptErrAt.of_reads (by with_reducible assumption) ?_

theorem execMove_kept (r i : Nat) (s : State) (hK : Kept qu s) : KeptOut qu (execMove r i s) := by
  unfold execMove
  repeat' first
    | with_reducible assumption
    | intro _
    | (extract_lets +onlyGivenNames s1; refine Kept.cut (q := qu) s1 ?_ ?_; subst s1; rotate_left; revert s1; intro
        z1; rotate_left)
    | (extract_lets +onlyGivenNames x1; revert x1; intro y1)
    | (with_reducible first
        | apply Kept.ite | apply fresh_kept | apply modCmd_kept | apply finish_kept | apply gate_kept
        | apply onCmd_kept | apply setAside_kept)
    | split
    | refine KeptGate.of_go (by with_reducible assumption) ?_
    | refine KeptGate.of_wait (by with_reducible assumption) ?_
    | refine KeptGate.of_held (by with_reducible assumption) ?_

theorem detectAt_kept (s : State) (p da : Nat) (det : Detect) (write : Bool) (h : HeldReq) (hK : Kept qu s) :
    KeptGate qu (detectAt s p da det write h) := by
  unfold detectAt
  repeat' first
    | with_reducible assumption
    | intro _
    | (with_reducible first
        | apply holdFault_kept | apply findError_kept | apply KeptGate.ite | apply KeptGate.go
        | apply KeptGate.wait | apply KeptGate.held)
    | split
    | refine KeptErrAt.of_repaired (by with_reducible assumption) ?_
    | refine KeptErrAt.of_poisoned (by with_reducible assumption) ?_
    | refine KeptErrAt.of_reads (by with_reducible assumption) ?_

theorem copyTile_kept (s : State) (c : Cmd) (det : Detect) (hK : Kept qu s) : Kept qu (copyTile s c det) := by
  unfold copyTile
  repeat' first
    | with_reducible assumption
    | intro _
    | (extract_lets +onlyGivenNames s1; refine Kept.cut (q := qu) s1 ?_ ?_; subst s1; rotate_left; revert s1; intro
        z1; rotate_left)
    | (extract_lets +onlyGivenNames x1; revert x1; intro y1)
    | (with_reducible first
        | apply Kept.ite | apply fresh_kept | apply modCmd_kept | apply finish_kept | apply heatUp_kept
        | apply accWrite_kept | apply dropRead_kept | apply chargePb_kept | apply porterMoved_kept
        | apply gates_kept | apply gateAll_kept | apply setAside_kept | apply findError_kept | apply detectAt_kept)
    | split
    | refine KeptErrAt.of_reads (by with_reducible assumption) ?_
    | refine KeptGate.of_go (by with_reducible assumption) ?_
    | refine KeptGate.of_wait (by with_reducible assumption) ?_
    | refine KeptGate.of_held (by with_reducible assumption) ?_

theorem bushelTile_kept (s : State) (b q : Nat) (det : Detect) (hK : Kept qu s) : Kept qu (bushelTile s b q det) := by
  unfold bushelTile
  repeat' first
    | with_reducible assumption
    | intro _
    | (extract_lets +onlyGivenNames s1; refine Kept.cut (q := qu) s1 ?_ ?_; subst s1; rotate_left; revert s1; intro
        z1; rotate_left)
    | (extract_lets +onlyGivenNames f1; (have hf : _ → _ := f1); clear hf; subst f1; try beta_reduce)
    | (extract_lets +onlyGivenNames x1; revert x1; intro y1)
    | (with_reducible first
        | apply Kept.ite | apply fresh_kept | apply setBsh_kept | apply heatUp_kept | apply accWrite_kept
        | apply claim_kept | apply dropRead_kept | apply chargePb_kept | apply porterMoved_kept | apply gate_kept
        | apply parityHit_kept | apply detectAt_kept)
    | split
    | refine KeptGate.of_go (by with_reducible assumption) ?_
    | refine KeptGate.of_wait (by with_reducible assumption) ?_
    | refine KeptGate.of_held (by with_reducible assumption) ?_

theorem migTile_kept (s : State) (id : Nat) (det : Detect) (hK : Kept qu s) : Kept qu (migTile s id det) := by
  unfold migTile
  repeat' first
    | with_reducible assumption
    | intro _
    | (extract_lets +onlyGivenNames s1; refine Kept.cut (q := qu) s1 ?_ ?_; subst s1; rotate_left; revert s1; intro
        z1; rotate_left)
    | (extract_lets +onlyGivenNames x1; revert x1; intro y1)
    | (with_reducible first
        | apply setMem_other | apply Kept.ite | apply bump_kept | apply modCmd_kept | apply abortMig_kept
        | apply draw_kept | apply chargePb_kept | apply porterMoved_kept | apply findError_kept)
    | split
    | refine KeptErrAt.of_repaired (by with_reducible assumption) ?_
    | refine KeptErrAt.of_poisoned (by with_reducible assumption) ?_
    | refine KeptErrAt.of_reads (by with_reducible assumption) ?_

theorem execPorterTile_kept (job : PorterJob) (det : Detect) (s : State) (hK : Kept qu s) : KeptOut qu
    (execPorterTile job det s) := by
  unfold execPorterTile
  repeat' first
    | with_reducible assumption
    | intro _
    | (with_reducible first
        | apply KeptOut.unit | apply KeptOut.alive | apply Kept.ite | apply claim_kept | apply copyTile_kept
        | apply bushelTile_kept | apply migTile_kept)
    | split

theorem poisonRange_kept (s : State) (p da n : Nat) (hK : Kept qu s) : Kept qu (poisonRange s p da n) := by
  unfold poisonRange
  repeat' first
    | with_reducible assumption
    | intro _
    | (with_reducible first | apply setL3_kept | apply Kept.each_)

theorem arvNote_kept (s : State) (hK : Kept qu s) : Kept qu (arvNote s) := by
  unfold arvNote
  repeat' first
    | with_reducible assumption
    | intro _
    | (extract_lets +onlyGivenNames x1; revert x1; intro y1)
    | (with_reducible first | apply wr_kept | apply Kept.each_)

theorem tileHeld_kept (s : State) (c : Cmd) (tile : Nat) (hK : Kept qu s) : Kept qu (tileHeld s c tile) := by
  unfold tileHeld
  repeat' first
    | with_reducible assumption
    | intro _
    | (extract_lets +onlyGivenNames s1; refine Kept.cut (q := qu) s1 ?_ ?_; subst s1; rotate_left; revert s1; intro
        z1; rotate_left)
    | (with_reducible first | apply modCmd_kept | apply setAside_kept | apply arvNote_kept)

theorem tileSettled_kept (s : State) (c : Cmd) (tile : Nat) (fail : Option Nat) (n : Nat) (hK : Kept qu s) : Kept qu
    (tileSettled s c tile fail n) := by
  unfold tileSettled
  repeat' first
    | with_reducible assumption
    | intro _
    | (extract_lets +onlyGivenNames s1; refine Kept.cut (q := qu) s1 ?_ ?_; subst s1; rotate_left; revert s1; intro
        z1; rotate_left)
    | (with_reducible first
        | apply Kept.ite | apply modCmd_kept | apply finish_kept | apply claim_kept | apply dropRead_kept
        | apply arvNote_kept)
    | split

theorem arvCount_kept (s : State) (k read written : Nat) (hK : Kept qu s) : Kept qu (arvCount s k read written) := by
  unfold arvCount
  repeat' with_reducible first | assumption | apply bump_kept

theorem writeTile_kept (s0 s : State) (c : Cmd) (tile dst n v : Nat) (scales : List (Nat × Nat)) (read : Nat) (hK :
    Kept qu s0) (hK1 : Kept qu s) : Kept qu (writeTile s0 s c tile dst n v scales read) := by
  unfold writeTile
  repeat' first
    | with_reducible assumption
    | intro _
    | (extract_lets +onlyGivenNames s1; refine Kept.cut (q := qu) s1 ?_ ?_; subst s1; rotate_left; revert s1; intro
        z1; rotate_left)
    | (extract_lets +onlyGivenNames x1; revert x1; intro y1)
    | (with_reducible first
        | apply fresh_kept | apply accWrite_kept | apply chargePb_kept | apply porterMoved_kept | apply gates_kept
        | apply tileHeld_kept | apply tileSettled_kept | apply arvCount_kept | apply Kept.each_)
    | split
    | refine KeptGate.of_go (by with_reducible assumption) ?_
    | refine KeptGate.of_held (by with_reducible assumption) ?_

theorem gatherTile_kept (s : State) (c : Cmd) (tile o n : Nat) (hK : Kept qu s) : Kept qu (gatherTile s c tile o n)
    := by
  unfold gatherTile
  repeat' first
    | with_reducible assumption
    | intro _
    | (extract_lets +onlyGivenNames s1; refine Kept.cut (q := qu) s1 ?_ ?_; subst s1; rotate_left; revert s1; intro
        z1; rotate_left)
    | (extract_lets +onlyGivenNames f1; (have hf : _ → _ := f1); clear hf; subst f1; try beta_reduce)
    | (extract_lets +onlyGivenNames x1; revert x1; intro y1)
    | (with_reducible first
        | apply heatUp_kept | apply gates_kept | apply gateAll_kept | apply tileHeld_kept | apply writeTile_kept
        | apply Kept.each_)
    | split
    | refine KeptGate.of_go (by with_reducible assumption) ?_
    | refine KeptGate.of_wait (by with_reducible assumption) ?_
    | refine KeptGate.of_held (by with_reducible assumption) ?_

theorem shapeTile_kept (s : State) (c : Cmd) (tile o n : Nat) (hK : Kept qu s) : Kept qu (shapeTile s c tile o n) := by
  unfold shapeTile
  repeat' first
    | with_reducible assumption
    | intro _
    | (extract_lets +onlyGivenNames s1; refine Kept.cut (q := qu) s1 ?_ ?_; subst s1; rotate_left; revert s1; intro
        z1; rotate_left)
    | (extract_lets +onlyGivenNames x1; revert x1; intro y1)
    | (with_reducible first
        | apply heatUp_kept | apply gateAll_kept | apply tileHeld_kept | apply writeTile_kept | apply Kept.each_)
    | split
    | refine KeptGate.of_go (by with_reducible assumption) ?_
    | refine KeptGate.of_wait (by with_reducible assumption) ?_
    | refine KeptGate.of_held (by with_reducible assumption) ?_

theorem unpackTile_kept (s : State) (c : Cmd) (tile o n : Nat) (hK : Kept qu s) : Kept qu (unpackTile s c tile o n)
    := by
  unfold unpackTile
  repeat' first
    | with_reducible assumption
    | intro _
    | (extract_lets +onlyGivenNames s1; refine Kept.cut (q := qu) s1 ?_ ?_; subst s1; rotate_left; revert s1; intro
        z1; rotate_left)
    | (extract_lets +onlyGivenNames f1; (have hf : _ → _ := f1); clear hf; subst f1; try beta_reduce)
    | (extract_lets +onlyGivenNames x1; revert x1; intro y1)
    | (with_reducible first
        | apply Kept.ite | apply wr_kept | apply bump_kept | apply fresh_kept | apply gateAll_kept
        | apply poisonRange_kept | apply tileHeld_kept | apply tileSettled_kept | apply arvCount_kept
        | apply writeTile_kept | apply Kept.each_)
    | split
    | refine KeptGate.of_go (by with_reducible assumption) ?_
    | refine KeptGate.of_wait (by with_reducible assumption) ?_
    | refine KeptGate.of_held (by with_reducible assumption) ?_

theorem execArrivalTile_kept (r i tile : Nat) (s : State) (hK : Kept qu s) : KeptOut qu (execArrivalTile r i tile s)
    := by
  unfold execArrivalTile
  repeat' first
    | with_reducible assumption
    | intro _
    | (with_reducible first
        | apply KeptOut.unit | apply KeptOut.alive | apply Kept.ite | apply tileSettled_kept
        | apply gatherTile_kept | apply shapeTile_kept | apply unpackTile_kept)
    | split

theorem execMigrationSwitch_kept (id : Nat) (det : Bool) (s : State) (hK : Kept qu s) : KeptOut qu
    (execMigrationSwitch id det s) := by
  unfold execMigrationSwitch
  repeat' first
    | with_reducible assumption
    | intro _
    | (extract_lets +onlyGivenNames s1; refine Kept.cut (q := qu) s1 ?_ ?_; subst s1; rotate_left; revert s1; intro
        z1; rotate_left)
    | (extract_lets +onlyGivenNames f1; (have hf : _ → _ := f1); clear hf; subst f1; try beta_reduce)
    | (extract_lets +onlyGivenNames x1; revert x1; intro y1)
    | (with_reducible first
        | apply setMem_other | apply KeptOut.alive | apply Kept.ite | apply bump_kept | apply setL3_kept
        | apply setSeg_kept | apply setFseg_kept | apply dropFseg_kept | apply noteMigs_kept | apply abortMig_kept
        | apply resumePinned_kept | apply copyFrame_kept | apply Kept.each_)
    | split

theorem scanMoves_kept (t : Nat) (go : State → Bool) (l : List FSeg) (n left : Nat) (s : State) (hK : Kept qu s) :
    Kept qu (scanMoves t go l n left s).1 := by
  induction l generalizing n left s with
  | nil => unfold scanMoves; exact hK
  | cons y l ih =>
    cases n with
    | zero => unfold scanMoves; exact hK
    | succ n =>
      cases left with
      | zero => unfold scanMoves; exact hK
      | succ left =>
        unfold scanMoves
        repeat' first
          | (with_reducible first | assumption | apply ih)
          | intro _
          | (with_reducible first | apply Kept.ite_fst | apply startMig_kept)
          | split
          | refine Kept.fst (by with_reducible assumption) ?_

theorem policyScan_kept (s : State) (hK : Kept qu s) : Kept qu (policyScan s) := by
  unfold policyScan
  extract_lets left cold yes r1 s1 e1 r2 s2 need r s3
  have h1 : Kept qu s1 := Kept.each_fst hK fun t a h => scanMoves_kept _ _ _ _ _ _ h
  have h2 : Kept qu s2 := scanMoves_kept _ _ _ _ _ _ h1
  have h3 : Kept qu s3 := by
    subst s3 r
    with_reducible apply Kept.ite_fst <;> intro _
    · exact hK
    · with_reducible apply Kept.ite_fst <;> intro _
      · exact scanMoves_kept _ _ _ _ _ _ h2
      · exact h2
  clear_value s3
  with_reducible apply Kept.ite <;> intro _
  · exact h3
  · exact scanMoves_kept _ _ _ _ _ _ h3

theorem execHeatScan_kept (s : State) (hK : Kept qu s) : KeptOut qu (execHeatScan s) := by
  unfold execHeatScan
  repeat' first
    | with_reducible assumption
    | intro _
    | (extract_lets +onlyGivenNames s1; refine Kept.cut (q := qu) s1 ?_ ?_; subst s1; rotate_left; revert s1; intro
        z1; rotate_left)
    | (extract_lets +onlyGivenNames x1; revert x1; intro y1)
    | (with_reducible first
        | apply setMem_other | apply KeptOut.alive | apply Kept.ite | apply resumePinned_kept
        | apply retireSeg_kept | apply policyScan_kept | apply Kept.each_)
    | split

theorem zeroFill_kept (p g : Nat) (s : State) (hK : Kept qu s) : Kept qu (zeroFill p g s) := by
  unfold zeroFill
  repeat' first
    | with_reducible assumption
    | intro _
    | (extract_lets +onlyGivenNames s1; refine Kept.cut (q := qu) s1 ?_ ?_; subst s1; rotate_left; revert s1; intro
        z1; rotate_left)
    | (extract_lets +onlyGivenNames f1; (have hf : _ → _ := f1); clear hf; subst f1; try beta_reduce)
    | (extract_lets +onlyGivenNames x1; revert x1; intro y1)
    | (with_reducible first
        | apply setMem_other | apply bump_kept | apply setL3_kept | apply setSeg_kept | apply takeFseg_kept
        | apply makeLocal_kept | apply abortMig_kept | apply evictFor_kept)
    | split
    | refine KeptOpt.of_some (by with_reducible assumption) ?_

theorem execZeroFill_kept (p g : Nat) (s : State) (hK : Kept qu s) : KeptOut qu (execZeroFill p g s) := by
  unfold execZeroFill
  repeat' with_reducible first | assumption | apply KeptOut.unit | apply KeptOut.alive | apply zeroFill_kept

theorem execRequestIssue_kept (b : Nat) (s : State) (hK : Kept qu s) : KeptOut qu (execRequestIssue b s) := by
  unfold execRequestIssue
  repeat' first
    | with_reducible assumption
    | intro _
    | (extract_lets +onlyGivenNames s1; refine Kept.cut (q := qu) s1 ?_ ?_; subst s1; rotate_left; revert s1; intro
        z1; rotate_left)
    | (extract_lets +onlyGivenNames f1; (have hf : _ → _ := f1); clear hf; subst f1; try beta_reduce)
    | (extract_lets +onlyGivenNames x1; revert x1; intro y1)
    | (with_reducible first
        | apply KeptOut.unit | apply KeptOut.alive | apply Kept.ite | apply bump_kept | apply setBsh_kept
        | apply drawRange_kept)
    | split

end Sys2Proof.Machine
end

