-- ==== Sys2Proof/Laws/KeptFaultExec.lean ====
section
/-! SUPPORT. The operations of `Machine/FaultExec.lean` keep the queue and the canonical form of the memories. -/

namespace Sys2Proof.Machine

variable {qu : List Instr}

theorem modRecs_kept (s : State) (q : FaultRec → Bool) (f : FaultRec → FaultRec) (hK : Kept qu s) : Kept qu (modRecs
    s q f) := by
  unfold modRecs
  repeat' first
    | with_reducible assumption
    | (extract_lets +onlyGivenNames x1; revert x1; intro y1)
    | with_reducible apply setMem_other

theorem execFaultLogWrite_kept (p : Nat) (s : State) (hK : Kept qu s) : KeptOut qu (execFaultLogWrite p s) := by
  unfold execFaultLogWrite
  repeat' first
    | with_reducible assumption
    | intro _
    | (extract_lets +onlyGivenNames s1; refine Kept.cut (q := qu) s1 ?_ ?_; subst s1; rotate_left; revert s1; intro
        z1; rotate_left)
    | (extract_lets +onlyGivenNames x1; revert x1; intro y1)
    | (with_reducible first
        | apply KeptOut.unit | apply KeptOut.alive | apply Kept.ite | apply wr_kept | apply raiseInt_kept
        | apply memWrite_kept | apply abortOnWrite_kept | apply modRecs_kept)
    | split

theorem retryHeld_kept (s : State) (h : HeldReq) (hK : Kept qu s) : Kept qu (retryHeld s h) := by
  unfold retryHeld
  repeat' first
    | with_reducible assumption
    | intro _
    | (extract_lets +onlyGivenNames s1; refine Kept.cut (q := qu) s1 ?_ ?_; subst s1; rotate_left; revert s1; intro
        z1; rotate_left)
    | (extract_lets +onlyGivenNames x1; revert x1; intro y1)
    | (with_reducible first | apply setBsh_kept | apply modCmd_kept | apply askWin_kept)
    | split
    | (fail_if_no_progress with_reducible apply Kept.mk_other)

theorem failImage_kept (s : State) (r i : Nat) (hK : Kept qu s) : Kept qu (failImage s r i) := by
  unfold failImage
  repeat' first
    | with_reducible assumption
    | intro _
    | (extract_lets +onlyGivenNames s1; refine Kept.cut (q := qu) s1 ?_ ?_; subst s1; rotate_left; revert s1; intro
        z1; rotate_left)
    | (extract_lets +onlyGivenNames x1; revert x1; intro y1)
    | (with_reducible first
        | apply Kept.ite | apply finish_kept | apply runFault_kept | apply emptyBinding_kept | apply noPlace_kept)
    | split

theorem letGo_kept (s : State) (r i : Nat) (hK : Kept qu s) : Kept qu (letGo s r i) := by
  unfold letGo
  repeat' with_reducible first | assumption | apply modCmd_kept

theorem failHeld_kept (kind sub : Nat) (s : State) (h : HeldReq) (hK : Kept qu s) : Kept qu (failHeld kind sub s h)
    := by
  unfold failHeld
  repeat' first
    | with_reducible assumption
    | (extract_lets +onlyGivenNames x1; revert x1; intro y1)
    | (with_reducible first
        | apply modCmd_kept | apply finish_kept | apply stopIsl_kept | apply ringError_kept | apply endSaved_kept
        | apply arvNote_kept | apply failImage_kept | apply letGo_kept)
    | split
    | (fail_if_no_progress with_reducible apply Kept.mk_other)

theorem endRec_kept (s : State) (f : FaultRec) (fail : Bool) (hK : Kept qu s) : Kept qu (endRec s f fail) := by
  unfold endRec
  repeat' first
    | with_reducible assumption
    | intro _
    | (extract_lets +onlyGivenNames s1; refine Kept.cut (q := qu) s1 ?_ ?_; subst s1; rotate_left; revert s1; intro
        z1; rotate_left)
    | (with_reducible first | apply modRecs_kept | apply retryHeld_kept | apply failHeld_kept | apply Kept.each_)
    | (fail_if_no_progress clear_value *; split)

theorem fxResolve_kept (p seq : Nat) (fail : Bool) (s : State) (hK : Kept qu s) : Kept qu (fxResolve p seq fail s) := by
  unfold fxResolve
  repeat' first
    | (with_reducible first | assumption | apply endRec_kept)
    | split

theorem fxFltCtrl_kept (p v : Nat) (s : State) (hK : Kept qu s) : Kept qu (fxFltCtrl p v s) := by
  unfold fxFltCtrl
  repeat' first
    | with_reducible assumption
    | intro _
    | (with_reducible first | apply Kept.ite | apply endRec_kept | apply Kept.each_)

theorem fxFlogBase_kept (p : Nat) (s : State) (hK : Kept qu s) : Kept qu (fxFlogBase p s) := by
  unfold fxFlogBase
  repeat' with_reducible first | assumption | apply wr_kept

theorem execResolveWrite_kept (ag : Agent) (p seq : Nat) (s : State) (hK : Kept qu s) : KeptOut qu (execResolveWrite
    ag p seq s) := by
  unfold execResolveWrite
  repeat' first
    | with_reducible assumption
    | intro _
    | (with_reducible first | apply KeptOut.next | apply KeptOut.unit | apply agentWrite_kept | apply fxResolve_kept)

theorem execFailseqWrite_kept (ag : Agent) (p seq : Nat) (s : State) (hK : Kept qu s) : KeptOut qu (execFailseqWrite
    ag p seq s) := by
  unfold execFailseqWrite
  repeat' first
    | with_reducible assumption
    | intro _
    | (with_reducible first | apply KeptOut.next | apply KeptOut.unit | apply agentWrite_kept | apply fxResolve_kept)

theorem execRetryAll_kept (ag : Agent) (p : Nat) (s : State) (hK : Kept qu s) : KeptOut qu (execRetryAll ag p s) := by
  unfold execRetryAll
  repeat' first
    | with_reducible assumption
    | intro _
    | (with_reducible first | apply KeptOut.next | apply KeptOut.unit | apply agentWrite_kept | apply fxFltCtrl_kept)

theorem execFailAll_kept (ag : Agent) (p : Nat) (s : State) (hK : Kept qu s) : KeptOut qu (execFailAll ag p s) := by
  unfold execFailAll
  repeat' first
    | with_reducible assumption
    | intro _
    | (with_reducible first | apply KeptOut.next | apply KeptOut.unit | apply agentWrite_kept | apply fxFltCtrl_kept)

theorem execFlogRdWrite_kept (ag : Agent) (p v : Nat) (s : State) (hK : Kept qu s) : KeptOut qu (execFlogRdWrite ag
    p v s) := by
  unfold execFlogRdWrite
  repeat' first
    | with_reducible assumption
    | intro _
    | (with_reducible first | apply KeptOut.next | apply KeptOut.unit | apply agentWrite_kept)

theorem execFlogBaseWrite_kept (ag : Agent) (p : Nat) (hi : Bool) (v : Nat) (s : State) (hK : Kept qu s) : KeptOut
    qu (execFlogBaseWrite ag p hi v s) := by
  unfold execFlogBaseWrite
  repeat' first
    | with_reducible assumption
    | intro _
    | (with_reducible first | apply KeptOut.next | apply KeptOut.unit | apply agentWrite_kept | apply fxFlogBase_kept)

theorem execFaultRetranslate_kept (k : Nat) (s : State) (hK : Kept qu s) : KeptOut qu (execFaultRetranslate k s) := by
  unfold execFaultRetranslate
  repeat' first
    | with_reducible assumption
    | intro _
    | (extract_lets +onlyGivenNames s1; refine Kept.cut (q := qu) s1 ?_ ?_; subst s1; rotate_left; revert s1; intro
        z1; rotate_left)
    | (extract_lets +onlyGivenNames x1; revert x1; intro y1)
    | (with_reducible first
        | apply setMem_other | apply KeptOut.alive | apply Kept.ite | apply holdFault_kept | apply retryHeld_kept
        | apply Kept.each_)
    | split

theorem setConv_kept (s : State) (place : List Nat) (r i : Nat) (hK : Kept qu s) : Kept qu (setConv s place r i) := by
  unfold setConv
  repeat' first
    | with_reducible assumption
    | intro _
    | (extract_lets +onlyGivenNames s1; refine Kept.cut (q := qu) s1 ?_ ?_; subst s1; rotate_left; revert s1; intro
        z1; rotate_left)
    | (extract_lets +onlyGivenNames x1; revert x1; intro y1)
    | (with_reducible first
        | apply Kept.ite | apply memWrite_kept | apply abortOnWrite_kept | apply modRecs_kept | apply Kept.each_)
    | split

theorem execFaultYieldWait_kept (bd : Nat) (s : State) (hK : Kept qu s) : KeptOut qu (execFaultYieldWait bd s) := by
  unfold execFaultYieldWait
  repeat' first
    | with_reducible assumption
    | intro _
    | (extract_lets +onlyGivenNames f1; (have hf : _ → _ := f1); clear hf; subst f1; try beta_reduce)
    | (extract_lets +onlyGivenNames x1; revert x1; intro y1)
    | (with_reducible first
        | apply KeptOut.unit | apply KeptOut.alive | apply Kept.ite | apply bump_kept | apply startYield_kept
        | apply setConv_kept | apply KeptOpt.getD | apply KeptOpt.orElse | apply KeptOpt.ite | apply KeptOpt.some_
        | apply KeptOpt.none_)
    | split
    | refine KeptYieldRes.of_started (by with_reducible assumption) ?_

end Sys2Proof.Machine
end

