-- ==== Sys2Proof/Laws/KeptAdmitExec.lean ====
section
/-! SUPPORT. The operations of `Machine/AdmitExec.lean` keep the queue and the canonical form of the memories. -/

namespace Sys2Proof.Machine

variable {qu : List Instr}

theorem setSlot_kept (s : State) (k : Nat) (x : Option ASlot) (hK : Kept qu s) : Kept qu (setSlot s k x) := by
  unfold setSlot
  repeat' first
    | with_reducible assumption
    | (extract_lets +onlyGivenNames x1; revert x1; intro y1)
    | with_reducible apply setMem_other

theorem admitGo_kept (s : State) (cmd : Cmd) (c : Container) (first count : Nat) (hK : Kept qu s) : Kept qu (admitGo
    s cmd c first count) := by
  unfold admitGo
  repeat' first
    | with_reducible assumption
    | intro _
    | (extract_lets +onlyGivenNames x1; revert x1; intro y1)
    | (with_reducible first | apply Kept.ite | apply modCmd_kept | apply finish_kept | apply setSlot_kept)
    | split

theorem execAdmit_kept (r i : Nat) (s : State) (hK : Kept qu s) : KeptOut qu (execAdmit r i s) := by
  unfold execAdmit
  repeat' first
    | with_reducible assumption
    | intro _
    | (extract_lets +onlyGivenNames x1; revert x1; intro y1)
    | (with_reducible first
        | apply Kept.ite | apply fresh_kept | apply finish_kept | apply gate_kept | apply gateAll_kept
        | apply onCmd_kept | apply imageBytes_kept | apply setAside_kept | apply admitGo_kept)
    | split
    | refine KeptGate.of_go (by with_reducible assumption) ?_
    | refine KeptGate.of_wait (by with_reducible assumption) ?_
    | refine KeptGate.of_held (by with_reducible assumption) ?_

theorem slotLost_kept (s : State) (k : Nat) (sl : ASlot) (hK : Kept qu s) : Kept qu (slotLost s k sl) := by
  unfold slotLost
  repeat' first
    | with_reducible assumption
    | (extract_lets +onlyGivenNames x1; revert x1; intro y1)
    | (fail_if_no_progress with_reducible apply Kept.mk_other)

theorem execUnadmit_kept (r i : Nat) (s : State) (hK : Kept qu s) : KeptOut qu (execUnadmit r i s) := by
  unfold execUnadmit
  repeat' first
    | with_reducible assumption
    | intro _
    | (extract_lets +onlyGivenNames x1; revert x1; intro y1)
    | (with_reducible first
        | apply Kept.ite | apply finish_kept | apply onCmd_kept | apply setSlot_kept | apply slotLost_kept)
    | split

end Sys2Proof.Machine
end

