-- ==== Sys2Proof/Laws/KeptSamplerExec.lean ====
section
/-! SUPPORT. The operations of `Machine/SamplerExec.lean` keep the queue and the canonical form of the memories. -/

namespace Sys2Proof.Machine

variable {qu : List Instr}

theorem lockPages_kept (s : State) (c : Cmd) (l : List (Nat × Nat)) (hK : Kept qu s) : Kept qu (lockPages s c l) := by
  unfold lockPages
  repeat' first
    | with_reducible assumption
    | (extract_lets +onlyGivenNames x1; revert x1; intro y1)
    | with_reducible apply setMem_other

theorem svcPeek_kept (s : State) (c : Cmd) (reads : List (Nat × Nat)) (k : State → State) (hK : Kept qu s) (hK1 : ∀
    x0, Kept qu x0 → Kept qu (k x0)) : Kept qu (svcPeek s c reads k) := by
  unfold svcPeek
  repeat' first
    | with_reducible assumption
    | (extract_lets +onlyGivenNames x1; revert x1; intro y1)
    | (with_reducible first | apply hK1 | apply holdFault_kept | apply gates_kept | apply setAside_kept)
    | split
    | refine KeptGate.of_go (by with_reducible assumption) ?_
    | refine KeptGate.of_wait (by with_reducible assumption) ?_
    | refine KeptGate.of_held (by with_reducible assumption) ?_

theorem svcGate_kept (s : State) (c : Cmd) (reads writes : List (Nat × Nat)) (k : State → State) (hK : Kept qu s)
    (hK1 : ∀ x0, Kept qu x0 → Kept qu (k x0)) : Kept qu (svcGate s c reads writes k) := by
  unfold svcGate
  repeat' first
    | with_reducible assumption
    | (extract_lets +onlyGivenNames x1; revert x1; intro y1)
    | (with_reducible first | apply hK1 | apply gates_kept | apply gateAll_kept | apply setAside_kept)
    | split
    | refine KeptGate.of_go (by with_reducible assumption) ?_
    | refine KeptGate.of_wait (by with_reducible assumption) ?_
    | refine KeptGate.of_held (by with_reducible assumption) ?_

theorem svcWrite_kept (s : State) (p a n v : Nat) (hK : Kept qu s) : Kept qu (svcWrite s p a n v) := by
  unfold svcWrite
  repeat' with_reducible first | assumption | apply memWrite_kept | apply abortOnWrite_kept

theorem svcEnd_kept (s : State) (c : Cmd) (status sub result : Nat) (hK : Kept qu s) : Kept qu (svcEnd s c status
    sub result) := by
  unfold svcEnd
  repeat' with_reducible first | assumption | apply modCmd_kept | apply finish_kept

theorem setSslot_kept (s : State) (k : Nat) (x : SSlot) (hK : Kept qu s) : Kept qu (setSslot s k x) := by
  unfold setSslot
  repeat' first
    | with_reducible assumption
    | (extract_lets +onlyGivenNames x1; revert x1; intro y1)
    | (fail_if_no_progress with_reducible apply Kept.mk_other)

theorem execSlotSet_kept (r i : Nat) (s : State) (hK : Kept qu s) : KeptOut qu (execSlotSet r i s) := by
  unfold execSlotSet
  repeat' first
    | with_reducible assumption
    | intro _
    | (extract_lets +onlyGivenNames x1; revert x1; intro y1)
    | (with_reducible first
        | apply Kept.ite | apply setBit_kept | apply onCmd_kept | apply svcEnd_kept | apply setSslot_kept)

theorem execSlotClose_kept (r i : Nat) (s : State) (hK : Kept qu s) : KeptOut qu (execSlotClose r i s) := by
  unfold execSlotClose
  repeat' first
    | with_reducible assumption
    | intro _
    | (extract_lets +onlyGivenNames x1; revert x1; intro y1)
    | (with_reducible first
        | apply Kept.ite | apply clrBit_kept | apply onCmd_kept | apply svcEnd_kept | apply setSslot_kept)

theorem addCount_kept (s : State) (k tok : Nat) (hK : Kept qu s) : Kept qu (addCount s k tok) := by
  unfold addCount
  repeat' first
    | with_reducible assumption
    | intro _
    | (extract_lets +onlyGivenNames f1; (have hf : _ → _ := f1); clear hf; subst f1; try beta_reduce)
    | (extract_lets +onlyGivenNames x1; revert x1; intro y1)
    | (with_reducible first | apply Kept.ite | apply bump_kept | apply svcWrite_kept | apply setSslot_kept)
    | split

theorem execCountAdd_kept (r i : Nat) (s : State) (hK : Kept qu s) : KeptOut qu (execCountAdd r i s) := by
  unfold execCountAdd
  repeat' first
    | with_reducible assumption
    | intro _
    | (extract_lets +onlyGivenNames x1; revert x1; intro y1)
    | (with_reducible first
        | apply Kept.ite | apply fresh_kept | apply onCmd_kept | apply lockPages_kept | apply svcGate_kept
        | apply svcEnd_kept | apply addCount_kept | apply Kept.each_)

theorem countRow_kept (s : State) (v : RowView) (hK : Kept qu s) : Kept qu (countRow s v) := by
  unfold countRow
  repeat' with_reducible first | assumption | apply bump_kept

theorem picks_kept (p out : Nat) (l : List (Nat × Nat × Bool)) (k n : Nat) (s : State) (hK : Kept qu s) : Kept qu
    (picks p out l k n s).1 := by
  induction l generalizing k n s with
  | nil => exact hK
  | cons y l ih =>
    unfold picks
    repeat' first
      | (with_reducible first | assumption | apply ih)
      | intro _
      | (extract_lets +onlyGivenNames s1; refine Kept.cut (q := qu) s1 ?_ ?_; subst s1; rotate_left; revert s1; intro
          z1; rotate_left)
      | (extract_lets +onlyGivenNames x1; revert x1; intro y1)
      | (with_reducible first
          | apply Kept.ite | apply Kept.ite_fst | apply bump_kept | apply svcWrite_kept | apply setSslot_kept
          | apply addCount_kept | apply countRow_kept)

theorem execPick_kept (r i : Nat) (s : State) (hK : Kept qu s) : KeptOut qu (execPick r i s) := by
  unfold execPick
  repeat' first
    | with_reducible assumption
    | intro _
    | (extract_lets +onlyGivenNames x1; revert x1; intro y1)
    | (with_reducible first
        | apply Kept.ite | apply fresh_kept | apply onCmd_kept | apply lockPages_kept | apply svcPeek_kept
        | apply svcGate_kept | apply svcEnd_kept | apply picks_kept)
    | split

theorem tryKids_kept (part : Nat) (x : SSlot) (more : List Nat) (v : RowView) (l : List (Nat × DNode)) (w : List
    (Nat × Nat)) (j : Nat) (s : State) (hK : Kept qu s) : Kept qu (tryKids part x more v l w j s).2.2.2 := by
  induction l generalizing w j s with
  | nil => exact hK
  | cons y l ih =>
    unfold tryKids
    split
    · split
      · exact hK
      · exact ih _ _ _ hK
    · extract_lets qv s1 u pw
      have h1 : Kept qu s1 := countRow_kept _ _ hK
      split
      · exact h1
      · exact ih _ _ _ h1

theorem verifyLoop_kept (part : Nat) (x : SSlot) (e : VEntry) (nodes : List DNode) (f cur : Nat) (z : VerRun) (hK :
    Kept qu z.s) : Kept qu (verifyLoop part x e nodes f cur z).s := by
  induction f generalizing cur z with
  | zero => exact hK
  | succ f ih =>
    unfold verifyLoop
    extract_lets row more v s1 kids
    have h1 : Kept qu s1 := countRow_kept _ _ hK
    have h2 := tryKids_kept part x more v kids v.dist.kept z.j s1 h1
    split
    · rename_i e2
      rw [e2] at h2
      exact ih _ _ h2
    · rename_i e2
      rw [e2] at h2
      split
      · exact bump_kept _ _ _ _ h2
      · exact h2

theorem verifyOne_kept (p : Nat) (e : VEntry) (s : State) (hK : Kept qu s) : Kept qu (verifyOne p e s).1 := by
  unfold verifyOne
  repeat' first
    | with_reducible assumption
    | intro _
    | (extract_lets +onlyGivenNames s1; refine Kept.cut (q := qu) s1 ?_ ?_; subst s1; rotate_left; revert s1; intro
        z1; rotate_left)
    | (extract_lets +onlyGivenNames x1; revert x1; intro y1)
    | (with_reducible first
        | apply Kept.ite | apply bump_kept | apply svcWrite_kept | apply setSslot_kept | apply addCount_kept
        | apply verifyLoop_kept | apply Kept.each_)

theorem execVerify_kept (r i : Nat) (s : State) (hK : Kept qu s) : KeptOut qu (execVerify r i s) := by
  unfold execVerify
  repeat' first
    | with_reducible assumption
    | intro _
    | (extract_lets +onlyGivenNames f1; (have hf : _ → _ := f1); clear hf; subst f1; try beta_reduce)
    | (extract_lets +onlyGivenNames x1; revert x1; intro y1)
    | (with_reducible first
        | apply Kept.ite | apply fresh_kept | apply onCmd_kept | apply lockPages_kept | apply svcPeek_kept
        | apply svcGate_kept | apply svcEnd_kept | apply verifyOne_kept | apply Kept.each_fst)
    | split

end Sys2Proof.Machine
end

