-- ==== Sys2Proof/Laws/KeptIndexExec.lean ====
section
/-! SUPPORT. The operations of `Machine/IndexExec.lean` keep the queue and the canonical form of the memories. -/

namespace Sys2Proof.Machine

variable {qu : List Instr}

theorem wGet_kept (a n : Nat) : KeptW qu (wGet a n) := ⟨fun _ h => h⟩

theorem wPut_kept (a n v : Nat) : KeptW qu (wPut a n v) := ⟨fun z h => svcWrite_kept z.s z.p a n v h⟩

theorem wPeek_kept (a n : Nat) : KeptW qu (wPeek a n) := ⟨fun _ h => h⟩

theorem wState_kept (f : State → State) (hf : ∀ t, Kept qu t → Kept qu (f t)) : KeptW qu (wState f) := ⟨fun z h =>
    hf z.s h⟩

theorem wFail_kept (status at_ : Nat) : KeptW qu (wFail status at_) := by
  constructor
  intro z h
  unfold wFail
  split <;> exact h

theorem wOk_kept  : KeptW qu (wOk) := ⟨fun _ h => h⟩

theorem nGet_kept (k : Nat) (f : Nat × Nat) : KeptW qu (nGet k f) := ⟨fun z h => (wGet_kept _ _).keeps z h⟩

theorem nPut_kept (k : Nat) (f : Nat × Nat) (v : Nat) : KeptW qu (nPut k f v) := ⟨fun z h => (wPut_kept _ _ _).keeps
    z h⟩

theorem nPeek_kept (k : Nat) (f : Nat × Nat) : KeptW qu (nPeek k f) := ⟨fun z h => (wPeek_kept _ _).keeps z h⟩

theorem dBucket_kept (d : Nat) : KeptW qu (dBucket d) := ⟨fun _ h => h⟩

theorem bBucket_kept (d : Nat) : KeptW qu (bBucket d) := ⟨fun _ h => h⟩

theorem nValid_kept (k at_ : Nat)  : KeptW qu (nValid k at_) := by
  unfold nValid
  repeat' first
    | intro _
    | (with_reducible first
        | apply KeptW.ite | apply KeptW.pure | apply KeptW.getBind | apply KeptW.bind | apply wFail_kept
        | apply nGet_kept)

theorem chainFind_kept (f : Nat × Nat) (ok : Nat → W Bool) (hK : ∀ k, KeptW qu (ok k)) (fuel k : Nat) : KeptW qu
    (chainFind f ok fuel k) := by
  induction fuel generalizing k with
  | zero => exact KeptW.pure
  | succ n ih =>
    unfold chainFind
    repeat' first
      | (with_reducible first | apply hK | apply ih)
      | intro _
      | (with_reducible first | apply KeptW.ite | apply KeptW.pure | apply KeptW.bind | apply nGet_kept)

theorem chainDrop_kept (head : Nat) (f : Nat × Nat) (k : Nat)  : KeptW qu (chainDrop head f k) := by
  unfold chainDrop
  repeat' first
    | intro _
    | (with_reducible first
        | apply KeptW.ite | apply KeptW.pure | apply KeptW.getBind | apply KeptW.bind | apply wGet_kept
        | apply wPut_kept | apply nGet_kept | apply nPut_kept | apply chainFind_kept)
    | split

theorem childFind_kept (par d ns : Nat)  : KeptW qu (childFind par d ns) := by
  unfold childFind
  repeat' first
    | intro _
    | (with_reducible first
        | apply KeptW.pure | apply KeptW.getBind | apply KeptW.bind | apply wGet_kept | apply nGet_kept
        | apply dBucket_kept | apply chainFind_kept)

theorem blockTokens_kept (a : Nat)  : KeptW qu (blockTokens a) := by
  unfold blockTokens
  repeat' first
    | intro _
    | (with_reducible first | apply KeptW.pure | apply KeptW.bind | apply wGet_kept)

theorem wmStart_kept (s : State) (m : WMove) (hK : Kept qu s) : KeptOpt qu (wmStart s m) := by
  unfold wmStart
  refine keptOpt_fold (q := qu) (fun t k ht => ?_) (r := some s) hK
  cases t with
  | none => exact ht
  | some t =>
    have hT : Kept qu t := ht
    repeat' first
      | with_reducible assumption
      | intro _
      | (with_reducible first | apply startMig_kept | apply KeptOpt.ite | apply KeptOpt.some_ | apply KeptOpt.none_)
      | split
      | refine Kept.fst (by with_reducible assumption) ?_
      | refine KeptOpt.of_some (by with_reducible assumption) ?_

theorem moveBegin_kept (s : State) (m : WMove) (hK : Kept qu s) : Kept qu (moveBegin s m).1 := by
  unfold moveBegin
  repeat' first
    | with_reducible assumption
    | intro _
    | (extract_lets +onlyGivenNames x1; revert x1; intro y1)
    | (with_reducible first | apply Kept.ite_fst | apply bump_kept | apply evictFor_kept | apply wmStart_kept)
    | split
    | (fail_if_no_progress with_reducible apply Kept.mk_other)
    | refine KeptOpt.of_some (by with_reducible assumption) ?_

theorem moveDrop_kept (s : State) (p k : Nat) (hK : Kept qu s) : Kept qu (moveDrop s p k) := by
  unfold moveDrop
  repeat' first
    | with_reducible assumption
    | (extract_lets +onlyGivenNames x1; revert x1; intro y1)
    | (fail_if_no_progress with_reducible apply Kept.mk_other)

theorem moveTo_kept (k t hint : Nat) (start : Bool)  : KeptW qu (moveTo k t hint start) := by
  unfold moveTo
  repeat' first
    | with_reducible assumption
    | intro _
    | (extract_lets +onlyGivenNames x1; revert x1; intro y1)
    | (with_reducible first
        | apply KeptW.ite | apply KeptW.pure | apply KeptW.getBind | apply KeptW.bind | apply hintPages_kept
        | apply wState_kept | apply nGet_kept | apply nPut_kept | apply moveBegin_kept)
    | split
    | (fail_if_no_progress with_reducible apply Kept.mk_other)

theorem level_kept (f : Fld) (d : Int) : KeptW qu (level f d) := ⟨fun z h => (wState_kept _ fun _ ht => wr_kept _ _
    _ _ ht).keeps z h⟩

theorem revive_kept (k : Nat)  : KeptW qu (revive k) := by
  unfold revive
  repeat' first
    | intro _
    | (with_reducible first
        | apply KeptW.ite | apply KeptW.pure | apply KeptW.bind | apply nGet_kept | apply nPut_kept
        | apply moveTo_kept | apply level_kept)

theorem hold_kept (k at_ : Nat)  : KeptW qu (hold k at_) := by
  unfold hold
  repeat' first
    | intro _
    | (with_reducible first
        | apply KeptW.ite | apply KeptW.getBind | apply KeptW.bind | apply wFail_kept | apply nGet_kept
        | apply nPut_kept | apply revive_kept)

theorem freeNode_kept (k reason : Nat)  : KeptW qu (freeNode k reason) := by
  unfold freeNode
  repeat' first
    | with_reducible assumption
    | intro _
    | (extract_lets +onlyGivenNames s1; refine Kept.cut (q := qu) s1 ?_ ?_; subst s1; rotate_left; revert s1; intro
        z1; rotate_left)
    | (extract_lets +onlyGivenNames f1; (have hf : _ → _ := f1); clear hf; subst f1; try beta_reduce)
    | (extract_lets +onlyGivenNames x1; revert x1; intro y1)
    | (with_reducible first
        | apply KeptW.ite | apply KeptW.pure | apply KeptW.getBind | apply KeptW.bind | apply KeptW.full
        | apply wr_kept | apply raiseInt_kept | apply wGet_kept | apply wPut_kept | apply wState_kept
        | apply nGet_kept | apply nPut_kept | apply dBucket_kept | apply bBucket_kept | apply chainDrop_kept
        | apply moveDrop_kept | apply level_kept)

theorem unhold_kept (k at_ : Nat)  : KeptW qu (unhold k at_) := by
  unfold unhold
  repeat' first
    | intro _
    | (with_reducible first
        | apply KeptW.ite | apply KeptW.pure | apply KeptW.getBind | apply KeptW.bind | apply wFail_kept
        | apply nGet_kept | apply nPut_kept | apply freeNode_kept)

theorem pathRelease_kept (f k : Nat) : KeptW qu (pathRelease f k) := by
  induction f generalizing k with
  | zero => exact KeptW.pure
  | succ n ih =>
    unfold pathRelease
    repeat' first
      | with_reducible apply ih
      | intro _
      | (with_reducible first
          | apply KeptW.ite | apply KeptW.pure | apply KeptW.bind | apply wOk_kept | apply nGet_kept
          | apply unhold_kept)

theorem runWalk_kept (s : State) (c : Cmd) (act : W Nat) (multi : Bool) (hK : Kept qu s) (hW : KeptW qu act) : Kept
    qu (runWalk s c act multi) := by
  have hz : Kept qu (act (walkOf s (partOf c.ring))).2.s := hW.keeps (walkOf s (partOf c.ring)) hK
  unfold runWalk
  extract_lets p x z judged
  have h1 : Kept qu z.s := hz
  clear_value z judged
  repeat' first
    | with_reducible assumption
    | intro _
    | (with_reducible first
        | apply Kept.ite | apply fresh_kept | apply holdFault_kept | apply drawRange_kept | apply setAside_kept
        | apply lockPages_kept | apply svcEnd_kept | apply Kept.each_)
    | split

theorem idxBad_kept (s : State) (c : Cmd) (bad : Bool) (k : Unit → State) (hK : Kept qu s) (hK1 : ∀ x0,  Kept qu (k
    x0)) : Kept qu (idxBad s c bad k) := by
  unfold idxBad
  repeat' first
    | with_reducible assumption
    | intro _
    | (with_reducible first | apply hK1 | apply Kept.ite | apply svcEnd_kept)

theorem execIdxSetup_kept (r i : Nat) (s : State) (hK : Kept qu s) : KeptOut qu (execIdxSetup r i s) := by
  unfold execIdxSetup
  repeat' first
    | with_reducible assumption
    | intro _
    | (extract_lets +onlyGivenNames s1; refine Kept.cut (q := qu) s1 ?_ ?_; subst s1; rotate_left; revert s1; intro
        z1; rotate_left)
    | (extract_lets +onlyGivenNames f1; (have hf : _ → _ := f1); clear hf; subst f1; try beta_reduce)
    | (extract_lets +onlyGivenNames x1; revert x1; intro y1)
    | (with_reducible first
        | apply Kept.ite | apply wr_kept | apply onCmd_kept | apply lockPages_kept | apply svcGate_kept
        | apply svcWrite_kept | apply svcEnd_kept | apply idxBad_kept | apply Kept.each_)
    | (fail_if_no_progress with_reducible apply Kept.mk_other)

theorem blockFar_kept (k : Nat)  : KeptW qu (blockFar k) := by
  unfold blockFar
  repeat' first
    | intro _
    | (with_reducible first | apply KeptW.pure | apply KeptW.getBind | apply KeptW.bind | apply nGet_kept)

theorem lookupLoop_kept (acq : Bool) (toks ns blist nlist : Nat) (left cap : Nat) (above : List Nat) (f : Found) :
    KeptW qu (lookupLoop acq toks ns blist nlist left cap above f) := by
  induction left generalizing cap above f with
  | zero => exact KeptW.pure
  | succ n ih =>
    unfold lookupLoop
    repeat' first
      | with_reducible apply ih
      | intro _
      | (extract_lets +onlyGivenNames f1; (have hf : _ → _ := f1); clear hf; subst f1; try beta_reduce)
      | (extract_lets +onlyGivenNames x1; revert x1; intro y1)
      | (with_reducible first
          | apply KeptW.ite | apply KeptW.pure | apply KeptW.bind | apply wPut_kept | apply nGet_kept
          | apply childFind_kept | apply blockTokens_kept | apply hold_kept | apply blockFar_kept)
      | split

theorem lookupWalk_kept (c : Cmd)  : KeptW qu (lookupWalk c) := by
  unfold lookupWalk
  repeat' first
    | with_reducible assumption
    | intro _
    | (extract_lets +onlyGivenNames x1; revert x1; intro y1)
    | (with_reducible first
        | apply KeptW.pure | apply KeptW.getBind | apply KeptW.bind | apply bump_kept | apply wState_kept
        | apply lookupLoop_kept)

theorem execLookup_kept (r i : Nat) (s : State) (hK : Kept qu s) : KeptOut qu (execLookup r i s) := by
  unfold execLookup
  repeat' first
    | with_reducible assumption
    | intro _
    | (extract_lets +onlyGivenNames x1; revert x1; intro y1)
    | (with_reducible first | apply onCmd_kept | apply runWalk_kept | apply idxBad_kept | apply lookupWalk_kept)

theorem takeNode_kept (at_ : Nat)  : KeptW qu (takeNode at_) := by
  unfold takeNode
  repeat' first
    | intro _
    | (with_reducible first
        | apply KeptW.ite | apply KeptW.pure | apply KeptW.getBind | apply KeptW.bind | apply wGet_kept
        | apply wPut_kept | apply wFail_kept | apply nGet_kept)

theorem insertLoop_kept (toks ns blocks nlist : Nat) (left i par depth : Nat) (above : List Nat) (n : Nat × Nat) :
    KeptW qu (insertLoop toks ns blocks nlist left i par depth above n) := by
  induction left generalizing i par depth above n with
  | zero => exact KeptW.pure
  | succ n ih =>
    unfold insertLoop
    repeat' first
      | (with_reducible first | assumption | apply ih)
      | intro _
      | (extract_lets +onlyGivenNames f1; (have hf : _ → _ := f1); clear hf; subst f1; try beta_reduce)
      | (extract_lets +onlyGivenNames x1; revert x1; intro y1)
      | (with_reducible first
          | apply KeptW.ite | apply KeptW.pure | apply KeptW.getBind | apply KeptW.bind | apply bump_kept
          | apply wGet_kept | apply wPut_kept | apply wState_kept | apply wFail_kept | apply wOk_kept
          | apply nGet_kept | apply nPut_kept | apply dBucket_kept | apply bBucket_kept | apply childFind_kept
          | apply blockTokens_kept | apply level_kept | apply hold_kept | apply takeNode_kept)
      | split

theorem insertWalk_kept (c : Cmd)  : KeptW qu (insertWalk c) := by
  unfold insertWalk
  repeat' first
    | intro _
    | (extract_lets +onlyGivenNames f1; (have hf : _ → _ := f1); clear hf; subst f1; try beta_reduce)
    | (extract_lets +onlyGivenNames x1; revert x1; intro y1)
    | (with_reducible first
        | apply KeptW.ite | apply KeptW.pure | apply KeptW.bind | apply wFail_kept | apply nGet_kept
        | apply nValid_kept | apply insertLoop_kept)

theorem execInsert_kept (r i : Nat) (s : State) (hK : Kept qu s) : KeptOut qu (execInsert r i s) := by
  unfold execInsert
  repeat' first
    | with_reducible assumption
    | intro _
    | (extract_lets +onlyGivenNames x1; revert x1; intro y1)
    | (with_reducible first | apply onCmd_kept | apply runWalk_kept | apply idxBad_kept | apply insertWalk_kept)

theorem eachNode_kept (nlist : Nat) (f : Nat → Nat → W Unit) (hK : ∀ k a, KeptW qu (f k a)) (left i : Nat) : KeptW
    qu (eachNode nlist f left i) := by
  induction left generalizing i with
  | zero => exact KeptW.pure
  | succ n ih =>
    unfold eachNode
    repeat' first
      | (with_reducible first | apply hK | apply ih)
      | intro _
      | (extract_lets +onlyGivenNames f1; (have hf : _ → _ := f1); clear hf; subst f1; try beta_reduce)
      | (with_reducible first
          | apply KeptW.ite | apply KeptW.pure | apply KeptW.bind | apply wGet_kept | apply wOk_kept
          | apply nValid_kept)

theorem publishWalk_kept (c : Cmd)  : KeptW qu (publishWalk c) := by
  unfold publishWalk
  repeat' first
    | intro _
    | (extract_lets +onlyGivenNames x1; revert x1; intro y1)
    | (with_reducible first
        | apply KeptW.ite | apply KeptW.pure | apply KeptW.bind | apply wFail_kept | apply nGet_kept
        | apply nPut_kept | apply eachNode_kept)

theorem execPublish_kept (r i : Nat) (s : State) (hK : Kept qu s) : KeptOut qu (execPublish r i s) := by
  unfold execPublish
  repeat' first
    | with_reducible assumption
    | intro _
    | (extract_lets +onlyGivenNames x1; revert x1; intro y1)
    | (with_reducible first | apply onCmd_kept | apply runWalk_kept | apply idxBad_kept | apply publishWalk_kept)

theorem releaseWalk_kept (c : Cmd)  : KeptW qu (releaseWalk c) := by
  unfold releaseWalk
  repeat' first
    | intro _
    | (extract_lets +onlyGivenNames x1; revert x1; intro y1)
    | (with_reducible first
        | apply KeptW.ite | apply KeptW.pure | apply KeptW.getBind | apply KeptW.bind | apply unhold_kept
        | apply pathRelease_kept | apply eachNode_kept)

theorem execRelease_kept (r i : Nat) (s : State) (hK : Kept qu s) : KeptOut qu (execRelease r i s) := by
  unfold execRelease
  repeat' first
    | with_reducible assumption
    | intro _
    | (extract_lets +onlyGivenNames x1; revert x1; intro y1)
    | (with_reducible first | apply onCmd_kept | apply runWalk_kept | apply idxBad_kept | apply releaseWalk_kept)

theorem pauseLoop_kept (exp f k kid n : Nat) : KeptW qu (pauseLoop exp f k kid n) := by
  induction f generalizing k kid n with
  | zero => exact KeptW.pure
  | succ n ih =>
    unfold pauseLoop
    repeat' first
      | with_reducible apply ih
      | intro _
      | (extract_lets +onlyGivenNames x1; revert x1; intro y1)
      | (with_reducible first
          | apply KeptW.ite | apply KeptW.pure | apply KeptW.bind | apply nGet_kept | apply nPut_kept
          | apply moveTo_kept | apply level_kept)

theorem pauseWalk_kept (c : Cmd)  : KeptW qu (pauseWalk c) := by
  unfold pauseWalk
  repeat' first
    | intro _
    | (extract_lets +onlyGivenNames x1; revert x1; intro y1)
    | (with_reducible first
        | apply KeptW.ite | apply KeptW.pure | apply KeptW.getBind | apply KeptW.bind | apply wFail_kept
        | apply wOk_kept | apply nGet_kept | apply nValid_kept | apply pathRelease_kept | apply pauseLoop_kept)

theorem execPause_kept (r i : Nat) (s : State) (hK : Kept qu s) : KeptOut qu (execPause r i s) := by
  unfold execPause
  repeat' first
    | with_reducible assumption
    | intro _
    | (extract_lets +onlyGivenNames x1; revert x1; intro y1)
    | (with_reducible first | apply onCmd_kept | apply runWalk_kept | apply idxBad_kept | apply pauseWalk_kept)

theorem evictLoop_kept (psn : Bool) (ns left n : Nat) : KeptW qu (evictLoop psn ns left n) := by
  induction left generalizing n with
  | zero => exact KeptW.pure
  | succ n ih =>
    unfold evictLoop
    repeat' first
      | (with_reducible first | assumption | apply ih)
      | intro _
      | (with_reducible first
          | apply KeptW.ite | apply KeptW.pure | apply KeptW.getBind | apply KeptW.bind | apply bump_kept
          | apply wState_kept | apply freeNode_kept)
      | split

theorem evictWalk_kept (c : Cmd)  : KeptW qu (evictWalk c) := by
  unfold evictWalk
  repeat' with_reducible apply evictLoop_kept

theorem execEvict_kept (r i : Nat) (s : State) (hK : Kept qu s) : KeptOut qu (execEvict r i s) := by
  unfold execEvict
  repeat' first
    | with_reducible assumption
    | intro _
    | (extract_lets +onlyGivenNames x1; revert x1; intro y1)
    | (with_reducible first | apply onCmd_kept | apply runWalk_kept | apply idxBad_kept | apply evictWalk_kept)

theorem covering_kept (page j : Nat) : KeptW qu (covering page j) := by
  induction j with
  | zero => exact KeptW.pure
  | succ n ih =>
    unfold covering
    repeat' first
      | with_reducible assumption
      | intro _
      | (extract_lets +onlyGivenNames x1; revert x1; intro y1)
      | (with_reducible first
          | apply KeptW.ite | apply KeptW.pure | apply KeptW.getBind | apply KeptW.bind | apply wGet_kept
          | apply nGet_kept | apply bBucket_kept | apply chainFind_kept)
      | split

theorem recomputeSpanWalk_kept (c : Cmd)  : KeptW qu (recomputeSpanWalk c) := by
  unfold recomputeSpanWalk
  repeat' first
    | with_reducible assumption
    | intro _
    | (extract_lets +onlyGivenNames s1; refine Kept.cut (q := qu) s1 ?_ ?_; subst s1; rotate_left; revert s1; intro
        z1; rotate_left)
    | (extract_lets +onlyGivenNames f1; (have hf : _ → _ := f1); clear hf; subst f1; try beta_reduce)
    | (extract_lets +onlyGivenNames x1; revert x1; intro y1)
    | (with_reducible first
        | apply KeptW.ite | apply KeptW.pure | apply KeptW.getBind | apply KeptW.bind | apply abortMig_kept
        | apply wState_kept | apply wFail_kept | apply nGet_kept | apply nPut_kept | apply moveDrop_kept
        | apply level_kept | apply covering_kept | apply Kept.each_)
    | split

theorem execRecomputeSpan_kept (r i : Nat) (s : State) (hK : Kept qu s) : KeptOut qu (execRecomputeSpan r i s) := by
  unfold execRecomputeSpan
  repeat' first
    | with_reducible assumption
    | intro _
    | (with_reducible first | apply onCmd_kept | apply runWalk_kept | apply recomputeSpanWalk_kept)

theorem repairWalk_kept (c : Cmd)  : KeptW qu (repairWalk c) := by
  unfold repairWalk
  repeat' first
    | intro _
    | (extract_lets +onlyGivenNames x1; revert x1; intro y1)
    | (with_reducible first
        | apply KeptW.ite | apply KeptW.pure | apply KeptW.bind | apply wFail_kept | apply nGet_kept
        | apply nPut_kept | apply level_kept | apply eachNode_kept)

theorem execRepair_kept (r i : Nat) (s : State) (hK : Kept qu s) : KeptOut qu (execRepair r i s) := by
  unfold execRepair
  repeat' first
    | with_reducible assumption
    | intro _
    | (extract_lets +onlyGivenNames x1; revert x1; intro y1)
    | (with_reducible first | apply onCmd_kept | apply runWalk_kept | apply idxBad_kept | apply repairWalk_kept)

theorem ownWalk_kept (s : State) (p : Nat) (act : W Unit) (hK : Kept qu s) (hW : KeptW qu act) : Kept qu (ownWalk s
    p act) := by
  have hz : Kept qu (act (walkOf s p)).2.s := hW.keeps (walkOf s p) hK
  unfold ownWalk
  repeat' first
    | with_reducible assumption
    | intro _
    | (extract_lets +onlyGivenNames x1; revert x1; intro y1)
    | with_reducible apply Kept.ite

theorem sweepLoop_kept (f : Nat) : KeptW qu (sweepLoop f) := by
  induction f with
  | zero => exact KeptW.pure
  | succ n ih =>
    unfold sweepLoop
    repeat' first
      | with_reducible assumption
      | intro _
      | (with_reducible first
          | apply KeptW.ite | apply KeptW.pure | apply KeptW.getBind | apply KeptW.bind | apply bump_kept
          | apply wState_kept | apply freeNode_kept)
      | split

theorem execExpirySweep_kept (s : State) (hK : Kept qu s) : KeptOut qu (execExpirySweep s) := by
  unfold execExpirySweep
  repeat' first
    | with_reducible assumption
    | intro _
    | (with_reducible first
        | apply KeptOut.alive | apply Kept.ite | apply ownWalk_kept | apply sweepLoop_kept | apply Kept.each_)

theorem moveEnd_kept (m : WMove)  : KeptW qu (moveEnd m) := by
  unfold moveEnd
  repeat' first
    | with_reducible assumption
    | intro _
    | (extract_lets +onlyGivenNames f1; (have hf : _ → _ := f1); clear hf; subst f1; try beta_reduce)
    | (extract_lets +onlyGivenNames x1; revert x1; intro y1)
    | (with_reducible first
        | apply KeptW.ite | apply KeptW.pure | apply KeptW.getBind | apply KeptW.bind | apply bump_kept
        | apply wState_kept | apply nGet_kept | apply nPut_kept | apply moveDrop_kept | apply moveTo_kept)

theorem execWalkerMigrationDone_kept (p k : Nat) (s : State) (hK : Kept qu s) : KeptOut qu (execWalkerMigrationDone
    p k s) := by
  unfold execWalkerMigrationDone
  repeat' first
    | with_reducible assumption
    | intro _
    | (extract_lets +onlyGivenNames x1; revert x1; intro y1)
    | (with_reducible first
        | apply KeptW.bind | apply KeptOut.unit | apply KeptOut.alive | apply Kept.ite | apply bump_kept
        | apply evictFor_kept | apply nGet_kept | apply nPut_kept | apply wmStart_kept | apply moveDrop_kept
        | apply ownWalk_kept | apply moveEnd_kept)
    | split
    | (fail_if_no_progress with_reducible apply Kept.mk_other)
    | refine KeptOpt.of_some (by with_reducible assumption) ?_

theorem execReclRdWrite_kept (ag : Agent) (p v : Nat) (s : State) (hK : Kept qu s) : KeptOut qu (execReclRdWrite ag
    p v s) := by
  unfold execReclRdWrite
  repeat' first
    | with_reducible assumption
    | intro _
    | (with_reducible first | apply KeptOut.next | apply KeptOut.unit | apply agentWrite_kept)

end Sys2Proof.Machine
end

