-- ==== Sys2Proof/Laws/KeptBuildExec.lean ====
section
/-! SUPPORT. The operations of `Machine/BuildExec.lean` keep the queue and the canonical form of the memories. -/

namespace Sys2Proof.Machine

variable {qu : List Instr}

theorem fetchExpert_kept (s : State) (p : Nat) (x : Expert) (hK : Kept qu s) : Kept qu (fetchExpert s p x).1 := by
  unfold fetchExpert
  repeat' first
    | with_reducible assumption
    | intro _
    | (extract_lets +onlyGivenNames s1; refine Kept.cut (q := qu) s1 ?_ ?_; subst s1; rotate_left; revert s1; intro
        z1; rotate_left)
    | (extract_lets +onlyGivenNames x1; revert x1; intro y1)
    | (with_reducible first
        | apply setMem_other | apply Kept.ite_fst | apply noteMigs_kept | apply startMig_kept | apply evictFor_kept
        | apply Kept.each_fst)
    | split
    | (fail_if_no_progress with_reducible apply Kept.mk_other)
    | refine Kept.fst (by with_reducible assumption) ?_
    | refine KeptOpt.of_some (by with_reducible assumption) ?_

theorem buildCommit_kept (s : State) (c : Cmd) (b : Build) (raws rows : List (List Nat)) (rks : List (List (Nat ×
    Nat))) (f : Fill) (exps : Nat → Expert) (res : Nat → Bool) (gs : List Group) (hK : Kept qu s) : Kept qu (buildCommit
    s c b raws rows rks f exps res gs) := by
  unfold buildCommit
  repeat' first
    | with_reducible assumption
    | intro _
    | (extract_lets +onlyGivenNames s1; refine Kept.cut (q := qu) s1 ?_ ?_; subst s1; rotate_left; revert s1; intro
        z1; rotate_left)
    | (extract_lets +onlyGivenNames f1; (have hf : _ → _ := f1); clear hf; subst f1; try beta_reduce)
    | (extract_lets +onlyGivenNames x1; revert x1; intro y1)
    | (with_reducible first
        | apply bump_kept | apply fresh_kept | apply lockPages_kept | apply svcWrite_kept | apply svcEnd_kept
        | apply fetchExpert_kept | apply Kept.each_ | apply Kept.each_fst)

theorem execBuild_kept (r i : Nat) (s : State) (hK : Kept qu s) : KeptOut qu (execBuild r i s) := by
  unfold execBuild
  repeat' first
    | with_reducible assumption
    | intro _
    | (extract_lets +onlyGivenNames f1; (have hf : _ → _ := f1); clear hf; subst f1; try beta_reduce)
    | (extract_lets +onlyGivenNames x1; revert x1; intro y1)
    | (with_reducible first
        | apply Kept.ite | apply fresh_kept | apply holdFault_kept | apply onCmd_kept | apply setAside_kept
        | apply svcGate_kept | apply svcEnd_kept | apply buildCommit_kept)
    | split

end Sys2Proof.Machine
end

