-- ==== Sys2Proof/Laws/KeptSkeinExec.lean ====
section
/-! SUPPORT. The operations of `Machine/SkeinExec.lean` keep the queue and the canonical form of the memories. -/

namespace Sys2Proof.Machine

variable {qu : List Instr}

theorem hostErr_kept (s : State) (off kind : Nat) (hK : Kept qu s) : Kept qu (hostErr s off kind) := by
  unfold hostErr
  repeat' first
    | with_reducible assumption
    | intro _
    | (extract_lets +onlyGivenNames s1; refine Kept.cut (q := qu) s1 ?_ ?_; subst s1; rotate_left; revert s1; intro
        z1; rotate_left)
    | (with_reducible first | apply Kept.ite | apply wr_kept | apply bump_kept | apply wr2_kept | apply raiseInt_kept)

theorem winFault_kept (s : State) (q : WReq) (kind sub : Nat) (hK : Kept qu s) : Kept qu (winFault s q kind sub) := by
  unfold winFault
  repeat' first
    | with_reducible assumption
    | intro _
    | (extract_lets +onlyGivenNames s1; refine Kept.cut (q := qu) s1 ?_ ?_; subst s1; rotate_left; revert s1; intro
        z1; rotate_left)
    | (extract_lets +onlyGivenNames f1; (have hf : _ → _ := f1); clear hf; subst f1; try beta_reduce)
    | (extract_lets +onlyGivenNames x1; revert x1; intro y1)
    | (with_reducible first
        | apply Kept.ite | apply setBsh_kept | apply holdFault_kept | apply markHeld_kept | apply hostErr_kept)
    | split
    | (fail_if_no_progress with_reducible apply Kept.mk_other)

theorem flushRegs_kept (s : State) (hK : Kept qu s) : Kept qu (flushRegs s) := by
  unfold flushRegs
  repeat' first
    | with_reducible assumption
    | intro _
    | (extract_lets +onlyGivenNames s1; refine Kept.cut (q := qu) s1 ?_ ?_; subst s1; rotate_left; revert s1; intro
        z1; rotate_left)
    | (extract_lets +onlyGivenNames x1; revert x1; intro y1)
    | (with_reducible first | apply route_kept | apply Kept.each_)
    | (fail_if_no_progress with_reducible apply Kept.mk_other)

theorem loseWindows_kept (s : State) (hK : Kept qu s) : Kept qu (loseWindows s) := by
  unfold loseWindows
  repeat' first
    | with_reducible assumption
    | intro _
    | (with_reducible first | apply Kept.ite | apply winFault_kept | apply flushRegs_kept | apply Kept.each_)

theorem fxLinkCtrl_kept (n v : Nat) (old s : State) (hK : Kept qu old) (hK1 : Kept qu s) : Kept qu (fxLinkCtrl n v
    old s) := by
  unfold fxLinkCtrl
  repeat' first
    | with_reducible assumption
    | intro _
    | (extract_lets +onlyGivenNames s1; refine Kept.cut (q := qu) s1 ?_ ?_; subst s1; rotate_left; revert s1; intro
        z1; rotate_left)
    | (extract_lets +onlyGivenNames x1; revert x1; intro y1)
    | (with_reducible first
        | apply Kept.ite | apply wr_kept | apply judgePort_kept | apply dropPort_kept | apply loseWindows_kept)

theorem execLinkCtrlEn_kept (ag : Agent) (n v : Nat) (s : State) (hK : Kept qu s) : KeptOut qu (execLinkCtrlEn ag n
    v s) := by
  unfold execLinkCtrlEn
  repeat' first
    | with_reducible assumption
    | intro _
    | (with_reducible first | apply KeptOut.next | apply KeptOut.unit | apply agentWrite_kept | apply fxLinkCtrl_kept)

theorem execSkeinRetrain_kept (ag : Agent) (n : Nat) (s : State) (hK : Kept qu s) : KeptOut qu (execSkeinRetrain ag
    n s) := by
  unfold execSkeinRetrain
  repeat' first
    | with_reducible assumption
    | intro _
    | (extract_lets +onlyGivenNames x1; revert x1; intro y1)
    | (with_reducible first | apply KeptOut.next | apply KeptOut.unit | apply agentWrite_kept | apply fxLinkCtrl_kept)

theorem trainFails_kept (s : State) (n : Nat) (hK : Kept qu s) : Kept qu (trainFails s n) := by
  unfold trainFails
  repeat' with_reducible first | assumption | apply wr_kept | apply bump_kept

theorem execPortTrained_kept (n : Nat) (peer : PeerInfo) (s : State) (hK : Kept qu s) : KeptOut qu (execPortTrained
    n peer s) := by
  unfold execPortTrained
  repeat' first
    | with_reducible assumption
    | intro _
    | (extract_lets +onlyGivenNames s1; refine Kept.cut (q := qu) s1 ?_ ?_; subst s1; rotate_left; revert s1; intro
        z1; rotate_left)
    | (extract_lets +onlyGivenNames x1; revert x1; intro y1)
    | (with_reducible first
        | apply KeptOut.unit | apply KeptOut.alive | apply Kept.ite | apply wr_kept | apply bump_kept
        | apply setPort_kept | apply judgePort_kept | apply trainFails_kept)

theorem execPortTrainFail_kept (n : Nat) (s : State) (hK : Kept qu s) : KeptOut qu (execPortTrainFail n s) := by
  unfold execPortTrainFail
  repeat' first
    | with_reducible assumption
    | intro _
    | (with_reducible first | apply KeptOut.unit | apply KeptOut.alive | apply Kept.ite | apply trainFails_kept)

theorem portFalls_kept (s : State) (n : Nat) (hK : Kept qu s) : Kept qu (portFalls s n) := by
  unfold portFalls
  repeat' with_reducible first | assumption | apply dropPort_kept | apply loseWindows_kept

theorem execPortDown_kept (n : Nat) (s : State) (hK : Kept qu s) : KeptOut qu (execPortDown n s) := by
  unfold execPortDown
  repeat' first
    | with_reducible assumption
    | intro _
    | (with_reducible first | apply KeptOut.unit | apply KeptOut.alive | apply Kept.ite | apply portFalls_kept)

theorem onMgmt_kept (n : Nat) (h : FlitHdr) (s : State) (f : State → State) (hK : Kept qu s) (hK1 : ∀ x0, Kept qu x0
    → Kept qu (f x0)) : KeptOut qu (onMgmt n h s f) := by
  unfold onMgmt
  repeat' first
    | with_reducible assumption
    | intro _
    | (extract_lets +onlyGivenNames x1; revert x1; intro y1)
    | (with_reducible first
        | apply hK1 | apply KeptOut.unit | apply KeptOut.alive | apply Kept.ite | apply bump_kept
        | apply setPort_kept | apply takeCredits_kept)

theorem execMgmtAck_kept (n : Nat) (h : FlitHdr) (named : Nat) (s : State) (hK : Kept qu s) : KeptOut qu
    (execMgmtAck n h named s) := by
  unfold execMgmtAck
  repeat' first
    | with_reducible assumption
    | intro _
    | (extract_lets +onlyGivenNames x1; revert x1; intro y1)
    | (with_reducible first | apply setPort_kept | apply flushPort_kept | apply onMgmt_kept)

theorem execMgmtNak_kept (n : Nat) (h : FlitHdr) (named : Nat) (s : State) (hK : Kept qu s) : KeptOut qu
    (execMgmtNak n h named s) := by
  unfold execMgmtNak
  repeat' first
    | with_reducible assumption
    | intro _
    | (extract_lets +onlyGivenNames s1; refine Kept.cut (q := qu) s1 ?_ ?_; subst s1; rotate_left; revert s1; intro
        z1; rotate_left)
    | (extract_lets +onlyGivenNames x1; revert x1; intro y1)
    | (with_reducible first
        | apply Kept.ite | apply bump_kept | apply emit_kept | apply setPort_kept | apply portFalls_kept
        | apply onMgmt_kept | apply Kept.each_)

theorem execAckTimer_kept (n : Nat) (s : State) (hK : Kept qu s) : KeptOut qu (execAckTimer n s) := by
  unfold execAckTimer
  repeat' first
    | with_reducible assumption
    | intro _
    | (extract_lets +onlyGivenNames x1; revert x1; intro y1)
    | (with_reducible first
        | apply KeptOut.unit | apply KeptOut.alive | apply Kept.ite | apply setPort_kept | apply sendMgmt_kept)

theorem onFlit_kept (n vc : Nat) (h : FlitHdr) (s : State) (f : State → State) (hK : Kept qu s) (hK1 : ∀ x0, Kept qu
    x0 → Kept qu (f x0)) : KeptOut qu (onFlit n vc h s f) := by
  unfold onFlit
  repeat' first
    | with_reducible assumption
    | intro _
    | (with_reducible first
        | apply hK1 | apply KeptOut.unit | apply KeptOut.alive | apply Kept.ite | apply receive_kept)
    | split
    | refine Kept.fst (by with_reducible assumption) ?_

theorem exportFinds_kept (s : State) (src wpage : Nat) (write : Bool) (det : Detect) (hK : Kept qu s) : Kept qu
    (exportFinds s src wpage write det).1 := by
  unfold exportFinds
  repeat' first
    | with_reducible assumption
    | intro _
    | (with_reducible first | apply Kept.ite_fst | apply told_kept | apply detected_kept)
    | split
    | refine Kept.fst (by with_reducible assumption) ?_

theorem execFlitWr_kept (n : Nat) (h : FlitHdr) (req : Nat) (data : List Nat) (det : Detect) (s : State) (hK : Kept
    qu s) : KeptOut qu (execFlitWr n h req data det s) := by
  unfold execFlitWr
  repeat' first
    | with_reducible assumption
    | intro _
    | (extract_lets +onlyGivenNames s1; refine Kept.cut (q := qu) s1 ?_ ?_; subst s1; rotate_left; revert s1; intro
        z1; rotate_left)
    | (extract_lets +onlyGivenNames f1; (have hf : _ → _ := f1); clear hf; subst f1; try beta_reduce)
    | (extract_lets +onlyGivenNames x1; revert x1; intro y1)
    | (with_reducible first
        | apply bump2_kept | apply route_kept | apply memWrite_kept | apply abortOnWrite_kept
        | apply takeLines_kept | apply onFlit_kept | apply exportFinds_kept | apply Kept.each_)
    | split
    | refine Kept.fst (by with_reducible assumption) ?_

theorem execRdreq_kept (n : Nat) (h : FlitHdr) (req : Nat) (det : Detect) (s : State) (hK : Kept qu s) : KeptOut qu
    (execRdreq n h req det s) := by
  unfold execRdreq
  repeat' first
    | with_reducible assumption
    | intro _
    | (extract_lets +onlyGivenNames f1; (have hf : _ → _ := f1); clear hf; subst f1; try beta_reduce)
    | (extract_lets +onlyGivenNames x1; revert x1; intro y1)
    | (with_reducible first | apply bump2_kept | apply route_kept | apply onFlit_kept | apply exportFinds_kept)
    | split
    | refine Kept.fst (by with_reducible assumption) ?_

theorem execWrack_kept (n : Nat) (h : FlitHdr) (req outcome : Nat) (s : State) (hK : Kept qu s) : KeptOut qu
    (execWrack n h req outcome s) := by
  unfold execWrack
  repeat' first
    | with_reducible assumption
    | intro _
    | (extract_lets +onlyGivenNames s1; refine Kept.cut (q := qu) s1 ?_ ?_; subst s1; rotate_left; revert s1; intro
        z1; rotate_left)
    | (extract_lets +onlyGivenNames x1; revert x1; intro y1)
    | (with_reducible first
        | apply Kept.ite | apply recordAcked_kept | apply winFault_kept | apply flushRegs_kept | apply onFlit_kept)
    | split
    | (fail_if_no_progress with_reducible apply Kept.mk_other)

theorem execRddata_kept (n : Nat) (h : FlitHdr) (req outcome : Nat) (data : List Nat) (s : State) (hK : Kept qu s) :
    KeptOut qu (execRddata n h req outcome data s) := by
  unfold execRddata
  repeat' first
    | with_reducible assumption
    | intro _
    | (extract_lets +onlyGivenNames x1; revert x1; intro y1)
    | (with_reducible first | apply Kept.ite | apply winFault_kept | apply onFlit_kept)
    | split
    | (fail_if_no_progress with_reducible apply Kept.mk_other)

theorem execIntr_kept (n : Nat) (h : FlitHdr) (page : Nat) (s : State) (hK : Kept qu s) : KeptOut qu (execIntr n h
    page s) := by
  unfold execIntr
  repeat' first
    | with_reducible assumption
    | intro _
    | (extract_lets +onlyGivenNames s1; refine Kept.cut (q := qu) s1 ?_ ?_; subst s1; rotate_left; revert s1; intro
        z1; rotate_left)
    | (extract_lets +onlyGivenNames x1; revert x1; intro y1)
    | (with_reducible first | apply Kept.ite | apply setBit_kept | apply raiseInt_kept | apply onFlit_kept)

end Sys2Proof.Machine
end

