-- ==== Sys2Proof/Laws/KeptCollExec.lean ====
section
/-! SUPPORT. The operations of `Machine/CollExec.lean` keep the queue and the canonical form of the memories. -/

namespace Sys2Proof.Machine

variable {qu : List Instr}

theorem setColl_kept (s : State) (x : Coll) (hK : Kept qu s) : Kept qu (setColl s x) := by
  unfold setColl
  repeat' first
    | with_reducible assumption
    | (extract_lets +onlyGivenNames x1; revert x1; intro y1)
    | (fail_if_no_progress with_reducible apply Kept.mk_other)

theorem dropColl_kept (s : State) (g : Nat) (hK : Kept qu s) : Kept qu (dropColl s g) := by
  unfold dropColl
  repeat' first
    | with_reducible assumption
    | (extract_lets +onlyGivenNames x1; revert x1; intro y1)
    | (fail_if_no_progress with_reducible apply Kept.mk_other)

theorem setUsed_kept (s : State) (d v : Nat) (hK : Kept qu s) : Kept qu (setUsed s d v) := by
  unfold setUsed
  repeat' first
    | with_reducible assumption
    | (extract_lets +onlyGivenNames x1; revert x1; intro y1)
    | (fail_if_no_progress with_reducible apply Kept.mk_other)

theorem collEnd_kept (s : State) (c : Cmd) (status sub : Nat) (hK : Kept qu s) : Kept qu (collEnd s c status sub) := by
  unfold collEnd
  repeat' first
    | with_reducible assumption
    | intro _
    | (extract_lets +onlyGivenNames s1; refine Kept.cut (q := qu) s1 ?_ ?_; subst s1; rotate_left; revert s1; intro
        z1; rotate_left)
    | (with_reducible first | apply Kept.ite | apply bump_kept | apply svcEnd_kept)

theorem collFail_kept (s : State) (x : Coll) (status sub : Nat) (abort : Bool) (hK : Kept qu s) : Kept qu (collFail
    s x status sub abort) := by
  unfold collFail
  repeat' first
    | with_reducible assumption
    | intro _
    | (extract_lets +onlyGivenNames s1; refine Kept.cut (q := qu) s1 ?_ ?_; subst s1; rotate_left; revert s1; intro
        z1; rotate_left)
    | (extract_lets +onlyGivenNames x1; revert x1; intro y1)
    | (with_reducible first
        | apply Kept.ite | apply wr_kept | apply route_kept | apply dropColl_kept | apply setUsed_kept
        | apply collEnd_kept | apply Kept.each_)
    | split

theorem pushFlit_kept (s : State) (c : Cmd) (x : Coll) (j : Nat) (hK : Kept qu s) : KeptPush qu (pushFlit s c x j) := by
  unfold pushFlit
  repeat' first
    | with_reducible assumption
    | intro _
    | (extract_lets +onlyGivenNames s1; refine Kept.cut (q := qu) s1 ?_ ?_; subst s1; rotate_left; revert s1; intro
        z1; rotate_left)
    | (extract_lets +onlyGivenNames f1; (have hf : _ → _ := f1); clear hf; subst f1; try beta_reduce)
    | (extract_lets +onlyGivenNames x1; revert x1; intro y1)
    | (with_reducible first
        | apply Kept.ite | apply bump_kept | apply route_kept | apply draw_kept | apply setColl_kept
        | apply setUsed_kept | apply KeptPush.ite | apply KeptPush.stop | apply KeptPush.sent
        | apply KeptPush.fail)
    | split

theorem pushes_kept (g j n : Nat) (s : State) (hK : Kept qu s) : Kept qu (pushes g j n s) := by
  induction n generalizing s with
  | zero => exact hK
  | succ n ih =>
    unfold pushes
    repeat' first
      | (with_reducible first | assumption | apply ih | apply collFail_kept | apply pushFlit_kept)
      | split
      | refine KeptPush.of_stop (by with_reducible assumption) ?_
      | refine KeptPush.of_sent (by with_reducible assumption) ?_

theorem collStep_kept (s : State) (g : Nat) (hK : Kept qu s) : Kept qu (collStep s g) := by
  unfold collStep
  repeat' first
    | with_reducible assumption
    | intro _
    | (extract_lets +onlyGivenNames s1; refine Kept.cut (q := qu) s1 ?_ ?_; subst s1; rotate_left; revert s1; intro
        z1; rotate_left)
    | (extract_lets +onlyGivenNames x1; revert x1; intro y1)
    | (with_reducible first
        | apply Kept.ite | apply wr_kept | apply svcWrite_kept | apply dropColl_kept | apply collEnd_kept
        | apply collFail_kept | apply pushes_kept | apply Kept.each_)
    | split

theorem collSteps_kept (s : State) (hK : Kept qu s) : Kept qu (collSteps s) := by
  unfold collSteps
  repeat' first
    | with_reducible assumption
    | intro _
    | (with_reducible first | apply collStep_kept | apply Kept.each_)

theorem execGroupSet_kept (r i : Nat) (s : State) (hK : Kept qu s) : KeptOut qu (execGroupSet r i s) := by
  unfold execGroupSet
  repeat' first
    | with_reducible assumption
    | intro _
    | (extract_lets +onlyGivenNames s1; refine Kept.cut (q := qu) s1 ?_ ?_; subst s1; rotate_left; revert s1; intro
        z1; rotate_left)
    | (extract_lets +onlyGivenNames x1; revert x1; intro y1)
    | (with_reducible first
        | apply Kept.ite | apply wr_kept | apply fresh_kept | apply setCgroup_kept | apply onCmd_kept
        | apply svcGate_kept | apply collEnd_kept)

theorem execGroupClear_kept (r i : Nat) (s : State) (hK : Kept qu s) : KeptOut qu (execGroupClear r i s) := by
  unfold execGroupClear
  repeat' first
    | with_reducible assumption
    | intro _
    | (extract_lets +onlyGivenNames x1; revert x1; intro y1)
    | (with_reducible first
        | apply Kept.ite | apply ww_kept | apply setCgroup_kept | apply onCmd_kept | apply collEnd_kept)

theorem ownPart_kept (s : State) (c : Cmd) (t : List (List Nat)) (hK : Kept qu s) : Kept qu (ownPart s c t) := by
  unfold ownPart
  repeat' first
    | with_reducible assumption
    | intro _
    | (extract_lets +onlyGivenNames x1; revert x1; intro y1)
    | (with_reducible first | apply Kept.ite | apply svcWrite_kept)

theorem takeReady_kept (s : State) (g : Nat) (e : Early) (hK : Kept qu s) : Kept qu (takeReady s g e) := by
  unfold takeReady
  repeat' first
    | with_reducible assumption
    | intro _
    | (extract_lets +onlyGivenNames x1; revert x1; intro y1)
    | (with_reducible first | apply Kept.ite | apply setColl_kept | apply collFail_kept)
    | split

theorem collReady_kept (s : State) (c : Cmd) (t : List (List Nat)) (rs : List (Nat × Nat)) (hK : Kept qu s) : Kept
    qu (collReady s c t rs) := by
  unfold collReady
  repeat' first
    | with_reducible assumption
    | intro _
    | (extract_lets +onlyGivenNames s1; refine Kept.cut (q := qu) s1 ?_ ?_; subst s1; rotate_left; revert s1; intro
        z1; rotate_left)
    | (extract_lets +onlyGivenNames x1; revert x1; intro y1)
    | (with_reducible first
        | apply Kept.ite | apply wr_kept | apply setCgroup_kept | apply route_kept | apply lockPages_kept
        | apply collFail_kept | apply collStep_kept | apply ownPart_kept | apply takeReady_kept | apply Kept.each_)
    | (fail_if_no_progress with_reducible apply Kept.mk_other)

theorem collCmd_kept (op r i : Nat) (s : State) (hK : Kept qu s) : KeptOut qu (collCmd op r i s) := by
  unfold collCmd
  repeat' first
    | with_reducible assumption
    | intro _
    | (extract_lets +onlyGivenNames x1; revert x1; intro y1)
    | (with_reducible first
        | apply Kept.ite | apply wr_kept | apply onCmd_kept | apply svcPeek_kept | apply svcGate_kept
        | apply collEnd_kept | apply collStep_kept | apply collReady_kept)

theorem execAllreduce_kept (r i : Nat) (s : State) (hK : Kept qu s) : KeptOut qu (execAllreduce r i s) := by
  unfold execAllreduce
  repeat' with_reducible first | assumption | apply collCmd_kept

theorem execAllgather_kept (r i : Nat) (s : State) (hK : Kept qu s) : KeptOut qu (execAllgather r i s) := by
  unfold execAllgather
  repeat' with_reducible first | assumption | apply collCmd_kept

theorem execReducescatter_kept (r i : Nat) (s : State) (hK : Kept qu s) : KeptOut qu (execReducescatter r i s) := by
  unfold execReducescatter
  repeat' with_reducible first | assumption | apply collCmd_kept

theorem execAlltoall_kept (r i : Nat) (s : State) (hK : Kept qu s) : KeptOut qu (execAlltoall r i s) := by
  unfold execAlltoall
  repeat' with_reducible first | assumption | apply collCmd_kept

theorem execBarrier_kept (r i : Nat) (s : State) (hK : Kept qu s) : KeptOut qu (execBarrier r i s) := by
  unfold execBarrier
  repeat' with_reducible first | assumption | apply collCmd_kept

theorem execRowstat_kept (r i : Nat) (s : State) (hK : Kept qu s) : KeptOut qu (execRowstat r i s) := by
  unfold execRowstat
  repeat' with_reducible first | assumption | apply collCmd_kept

theorem abortSeq_kept (s : State) (g seq : Nat) (hK : Kept qu s) : Kept qu (abortSeq s g seq) := by
  unfold abortSeq
  repeat' first
    | with_reducible assumption
    | intro _
    | (extract_lets +onlyGivenNames x1; revert x1; intro y1)
    | (with_reducible first | apply Kept.ite | apply setCgroup_kept | apply collFail_kept)
    | split

theorem execCready_kept (n : Nat) (h : FlitHdr) (grp seq tag nmem rcap : Nat) (s : State) (hK : Kept qu s) : KeptOut
    qu (execCready n h grp seq tag nmem rcap s) := by
  unfold execCready
  repeat' first
    | with_reducible assumption
    | intro _
    | (extract_lets +onlyGivenNames x1; revert x1; intro y1)
    | (with_reducible first
        | apply Kept.ite | apply setCgroup_kept | apply onFlit_kept | apply collStep_kept | apply takeReady_kept
        | apply abortSeq_kept)
    | split

theorem addGran_kept (s : State) (c : Cmd) (x : Coll) (k v : Nat) (hK : Kept qu s) : Kept qu (addGran s c x k v) := by
  unfold addGran
  repeat' first
    | with_reducible assumption
    | intro _
    | (extract_lets +onlyGivenNames s1; refine Kept.cut (q := qu) s1 ?_ ?_; subst s1; rotate_left; revert s1; intro
        z1; rotate_left)
    | (extract_lets +onlyGivenNames x1; revert x1; intro y1)
    | (with_reducible first | apply Kept.ite | apply svcWrite_kept | apply setColl_kept)

theorem placeFlit_kept (s : State) (c : Cmd) (x : Coll) (j off : Nat) (data : List Nat) (hK : Kept qu s) : Kept qu
    (placeFlit s c x j off data) := by
  unfold placeFlit
  repeat' first
    | with_reducible assumption
    | intro _
    | (extract_lets +onlyGivenNames x1; revert x1; intro y1)
    | (with_reducible first | apply Kept.ite | apply svcWrite_kept | apply setColl_kept | apply addGran_kept)
    | split

theorem execCdata_kept (n : Nat) (h : FlitHdr) (data : List Nat) (s : State) (hK : Kept qu s) : KeptOut qu
    (execCdata n h data s) := by
  unfold execCdata
  repeat' first
    | with_reducible assumption
    | intro _
    | (extract_lets +onlyGivenNames s1; refine Kept.cut (q := qu) s1 ?_ ?_; subst s1; rotate_left; revert s1; intro
        z1; rotate_left)
    | (extract_lets +onlyGivenNames x1; revert x1; intro y1)
    | (with_reducible first
        | apply Kept.ite | apply wr_kept | apply fresh_kept | apply route_kept | apply onFlit_kept
        | apply setColl_kept | apply collStep_kept | apply placeFlit_kept)
    | split

theorem execCcredit_kept (n : Nat) (h : FlitHdr) (s : State) (hK : Kept qu s) : KeptOut qu (execCcredit n h s) := by
  unfold execCcredit
  repeat' first
    | with_reducible assumption
    | intro _
    | (extract_lets +onlyGivenNames x1; revert x1; intro y1)
    | (with_reducible first
        | apply Kept.ite | apply onFlit_kept | apply setColl_kept | apply setUsed_kept | apply collSteps_kept)
    | split

theorem execCabort_kept (n : Nat) (h : FlitHdr) (grp seq : Nat) (s : State) (hK : Kept qu s) : KeptOut qu
    (execCabort n h grp seq s) := by
  unfold execCabort
  repeat' first
    | with_reducible assumption
    | intro _
    | (with_reducible first | apply Kept.ite | apply onFlit_kept | apply abortSeq_kept)

theorem execCollectiveTimeout_kept (g : Nat) (s : State) (hK : Kept qu s) : KeptOut qu (execCollectiveTimeout g s) := by
  unfold execCollectiveTimeout
  repeat' first
    | (with_reducible first | assumption | apply KeptOut.unit | apply KeptOut.alive | apply collFail_kept)
    | split

theorem fxDomCtrl_kept (old s : State) (hK : Kept qu old) (hK1 : Kept qu s) : Kept qu (fxDomCtrl old s) := by
  unfold fxDomCtrl
  repeat' first
    | with_reducible assumption
    | intro _
    | (with_reducible first
        | apply Kept.ite | apply judgePort_kept | apply loseWindows_kept | apply collFail_kept | apply Kept.each_)

theorem fxDomain_kept (a : Nat) (old s : State) (hK : Kept qu old) (hK1 : Kept qu s) : Kept qu (fxDomain a old s) := by
  unfold fxDomain
  repeat' first
    | with_reducible assumption
    | intro _
    | (with_reducible first
        | apply Kept.ite | apply ww_kept | apply judgePort_kept | apply loseWindows_kept | apply Kept.each_)

theorem execDomEnClear_kept (ag : Agent) (v : Nat) (s : State) (hK : Kept qu s) : KeptOut qu (execDomEnClear ag v s)
    := by
  unfold execDomEnClear
  repeat' first
    | with_reducible assumption
    | intro _
    | (with_reducible first | apply KeptOut.next | apply agentWrite_kept | apply fxDomCtrl_kept)

end Sys2Proof.Machine
end

