-- ==== Sys2Proof/Laws/KeptHostExec.lean ====
section
/-! SUPPORT. The operations of `Machine/HostExec.lean` keep the queue and the canonical form of the memories. -/

namespace Sys2Proof.Machine

variable {qu : List Instr}

theorem grantLines_kept (s : State) (p da n : Nat) (hK : Kept qu s) : Kept qu (grantLines s p da n) := by
  unfold grantLines
  repeat' first
    | with_reducible assumption
    | intro _
    | (extract_lets +onlyGivenNames x1; revert x1; intro y1)
    | with_reducible apply Kept.each_
    | split
    | (fail_if_no_progress with_reducible apply Kept.mk_other)

theorem fillRange_kept (s : State) (p da n : Nat) (hK : Kept qu s) : Kept qu (fillRange s p da n) := by
  unfold fillRange
  repeat' first
    | with_reducible assumption
    | intro _
    | (with_reducible first | apply zeroFill_kept | apply Kept.each_)
    | split

theorem execHostApertureAccess_kept (off size : Nat) (isWr cached : Bool) (v : Nat) (s : State) (hK : Kept qu s) :
    KeptOut qu (execHostApertureAccess off size isWr cached v s) := by
  unfold execHostApertureAccess
  repeat' first
    | with_reducible assumption
    | intro _
    | (extract_lets +onlyGivenNames s1; refine Kept.cut (q := qu) s1 ?_ ?_; subst s1; rotate_left; revert s1; intro
        z1; rotate_left)
    | (extract_lets +onlyGivenNames f1; (have hf : _ → _ := f1); clear hf; subst f1; try beta_reduce)
    | (extract_lets +onlyGivenNames x1; revert x1; intro y1)
    | (with_reducible first
        | apply KeptOut.next | apply KeptOut.unit | apply Kept.ite | apply bump2_kept | apply fresh_kept
        | apply memWrite_kept | apply abortOnWrite_kept | apply told_kept | apply claim_kept | apply dropRead_kept
        | apply winRead_kept | apply drawRange_kept | apply hostErr_kept | apply grantLines_kept
        | apply fillRange_kept)
    | split
    | (fail_if_no_progress with_reducible apply Kept.mk_other)
    | refine KeptWinRes.of_wait (by with_reducible assumption) ?_
    | refine KeptWinRes.of_flt (by with_reducible assumption) ?_

theorem execRecall_kept (line : Nat) (s : State) (hK : Kept qu s) : KeptOut qu (execRecall line s) := by
  unfold execRecall
  repeat' first
    | with_reducible assumption
    | intro _
    | (extract_lets +onlyGivenNames x1; revert x1; intro y1)
    | (with_reducible first | apply KeptOut.unit | apply KeptOut.alive | apply Kept.ite)
    | (fail_if_no_progress with_reducible apply Kept.mk_other)

theorem execRecallDone_kept (line : Nat) (s : State) (hK : Kept qu s) : KeptOut qu (execRecallDone line s) := by
  unfold execRecallDone
  repeat' first
    | with_reducible assumption
    | intro _
    | (extract_lets +onlyGivenNames x1; revert x1; intro y1)
    | (with_reducible first | apply KeptOut.unit | apply KeptOut.alive | apply Kept.ite)
    | (fail_if_no_progress with_reducible apply Kept.mk_other)

theorem unlink_kept (s : State) (hK : Kept qu s) : Kept qu (unlink s) := by
  unfold unlink
  repeat' first
    | with_reducible assumption
    | (extract_lets +onlyGivenNames x1; revert x1; intro y1)
    | with_reducible apply wr_kept
    | (fail_if_no_progress with_reducible apply Kept.mk_other)

theorem linkLost_kept (s : State) (hK : Kept qu s) : Kept qu (linkLost s) := by
  unfold linkLost
  repeat' with_reducible first | assumption | apply bump_kept | apply raiseInt_kept | apply unlink_kept

theorem execRecallTimeout_kept (line : Nat) (s : State) (hK : Kept qu s) : KeptOut qu (execRecallTimeout line s) := by
  unfold execRecallTimeout
  repeat' first
    | with_reducible assumption
    | intro _
    | (with_reducible first | apply KeptOut.unit | apply KeptOut.alive | apply Kept.ite | apply linkLost_kept)

theorem execFustraDown_kept (s : State) (hK : Kept qu s) : KeptOut qu (execFustraDown s) := by
  unfold execFustraDown
  repeat' first
    | with_reducible assumption
    | intro _
    | (with_reducible first | apply KeptOut.alive | apply Kept.ite | apply linkLost_kept)

theorem sendPending_kept (s : State) (hK : Kept qu s) : Kept qu (sendPending s) := by
  unfold sendPending
  repeat' first
    | with_reducible assumption
    | intro _
    | (with_reducible first | apply Kept.ite | apply wr_kept | apply sendVec_kept | apply Kept.each_)

theorem execFustraUp_kept (gen2 x8 : Bool) (s : State) (hK : Kept qu s) : KeptOut qu (execFustraUp gen2 x8 s) := by
  unfold execFustraUp
  repeat' first
    | with_reducible assumption
    | intro _
    | (extract_lets +onlyGivenNames x1; revert x1; intro y1)
    | (with_reducible first | apply KeptOut.alive | apply Kept.ite | apply wr_kept | apply sendPending_kept)

theorem fxFusLink_kept (v : Nat) (s : State) (hK : Kept qu s) : Kept qu (fxFusLink v s) := by
  unfold fxFusLink
  repeat' first
    | with_reducible assumption
    | intro _
    | (with_reducible first | apply Kept.ite | apply unlink_kept)

theorem execFusRetrain_kept (ag : Agent) (s : State) (hK : Kept qu s) : KeptOut qu (execFusRetrain ag s) := by
  unfold execFusRetrain
  repeat' first
    | with_reducible assumption
    | intro _
    | (with_reducible first | apply KeptOut.next | apply agentWrite_kept | apply fxFusLink_kept)

theorem takeMail_kept (s : State) (hK : Kept qu s) : Kept qu (takeMail s) := by
  unfold takeMail
  repeat' first
    | with_reducible assumption
    | intro _
    | (extract_lets +onlyGivenNames x1; revert x1; intro y1)
    | (with_reducible first | apply Kept.ite | apply wr_kept)
    | (fail_if_no_progress with_reducible apply Kept.mk_other)

theorem putMail_kept (s : State) (l : List Nat) (hK : Kept qu s) : Kept qu (putMail s l) := by
  unfold putMail
  repeat' first
    | with_reducible assumption
    | intro _
    | (extract_lets +onlyGivenNames s1; refine Kept.cut (q := qu) s1 ?_ ?_; subst s1; rotate_left; revert s1; intro
        z1; rotate_left)
    | (with_reducible first | apply wr_kept | apply raiseInt_kept | apply Kept.each_)

theorem sendMail_kept (s : State) (typ seq : Nat) (body : List Nat) (hK : Kept qu s) : Kept qu (sendMail s typ seq
    body) := by
  unfold sendMail
  repeat' first
    | with_reducible assumption
    | intro _
    | (extract_lets +onlyGivenNames x1; revert x1; intro y1)
    | (with_reducible first | apply Kept.ite | apply putMail_kept)
    | (fail_if_no_progress with_reducible apply Kept.mk_other)

theorem fxMbCtrl_kept (v : Nat) (s : State) (hK : Kept qu s) : Kept qu (fxMbCtrl v s) := by
  unfold fxMbCtrl
  repeat' first
    | with_reducible assumption
    | intro _
    | (extract_lets +onlyGivenNames s1; refine Kept.cut (q := qu) s1 ?_ ?_; subst s1; rotate_left; revert s1; intro
        z1; rotate_left)
    | (extract_lets +onlyGivenNames x1; revert x1; intro y1)
    | (with_reducible first | apply Kept.ite | apply wr_kept | apply takeMail_kept | apply putMail_kept)
    | split
    | (fail_if_no_progress with_reducible apply Kept.mk_other)

theorem execH2rGo_kept (s : State) (hK : Kept qu s) : KeptOut qu (execH2rGo s) := by
  unfold execH2rGo
  repeat' first
    | with_reducible assumption
    | intro _
    | (with_reducible first | apply KeptOut.next | apply agentWrite_kept | apply fxMbCtrl_kept)

theorem fxMbH2r_kept (a : Nat) (old s : State) (hK : Kept qu old) (hK1 : Kept qu s) : Kept qu (fxMbH2r a old s) := by
  unfold fxMbH2r
  repeat' first
    | with_reducible assumption
    | intro _
    | (with_reducible first | apply Kept.ite | apply ww_kept | apply pageErr_kept)

theorem fxIvecMask_kept (k : Nat) (s : State) (hK : Kept qu s) : Kept qu (fxIvecMask k s) := by
  unfold fxIvecMask
  repeat' first
    | with_reducible assumption
    | intro _
    | (with_reducible first | apply Kept.ite | apply wr_kept | apply sendVec_kept)

theorem execIvecMaskWrite_kept (ag : Agent) (k v : Nat) (s : State) (hK : Kept qu s) : KeptOut qu (execIvecMaskWrite
    ag k v s) := by
  unfold execIvecMaskWrite
  repeat' first
    | with_reducible assumption
    | intro _
    | (with_reducible first | apply KeptOut.next | apply KeptOut.unit | apply agentWrite_kept | apply fxIvecMask_kept)

theorem execIntSet_kept (ag : Agent) (page v : Nat) (s : State) (hK : Kept qu s) : KeptOut qu (execIntSet ag page v
    s) := by
  unfold execIntSet
  repeat' first
    | with_reducible assumption
    | intro _
    | (with_reducible first | apply KeptOut.next | apply KeptOut.unit | apply noFx_kept | apply regWrite_kept)

theorem t3Recount_kept (s : State) (hK : Kept qu s) : Kept qu (t3Recount s) := by
  unfold t3Recount
  repeat' first
    | with_reducible assumption
    | (extract_lets +onlyGivenNames x1; revert x1; intro y1)
    | with_reducible apply wr_kept

theorem capScan_kept (s : State) (n : Nat) (d : CxlDev) (hK : Kept qu s) : Kept qu (capScan s n d) := by
  unfold capScan
  repeat' first
    | with_reducible assumption
    | intro _
    | (extract_lets +onlyGivenNames s1; refine Kept.cut (q := qu) s1 ?_ ?_; subst s1; rotate_left; revert s1; intro
        z1; rotate_left)
    | (extract_lets +onlyGivenNames x1; revert x1; intro y1)
    | (with_reducible first | apply wr_kept | apply wr2_kept | apply t3Recount_kept)

theorem fxRescan_kept (n v : Nat) (d : CxlDev) (s : State) (hK : Kept qu s) : Kept qu (fxRescan n v d s) := by
  unfold fxRescan
  repeat' first
    | with_reducible assumption
    | intro _
    | (extract_lets +onlyGivenNames s1; refine Kept.cut (q := qu) s1 ?_ ?_; subst s1; rotate_left; revert s1; intro
        z1; rotate_left)
    | (extract_lets +onlyGivenNames x1; revert x1; intro y1)
    | (with_reducible first | apply Kept.ite | apply raiseInt_kept | apply pageErr_kept | apply capScan_kept)

theorem fxRescanFree_kept (n v : Nat) (s : State) (hK : Kept qu s) : Kept qu (fxRescanFree n v s) := by
  unfold fxRescanFree
  repeat' first
    | with_reducible assumption
    | (extract_lets +onlyGivenNames x1; revert x1; intro y1)
    | (with_reducible first | apply fresh_kept | apply fxRescan_kept)

theorem execRescan_kept (ag : Agent) (n : Nat) (dev : CxlDev) (s : State) (hK : Kept qu s) : KeptOut qu (execRescan
    ag n dev s) := by
  unfold execRescan
  repeat' first
    | with_reducible assumption
    | intro _
    | (with_reducible first | apply KeptOut.next | apply KeptOut.unit | apply agentWrite_kept | apply fxRescan_kept)

theorem execCapOffline_kept (n : Nat) (fatal : Bool) (s : State) (hK : Kept qu s) : KeptOut qu (execCapOffline n
    fatal s) := by
  unfold execCapOffline
  repeat' first
    | with_reducible assumption
    | intro _
    | (extract_lets +onlyGivenNames s1; refine Kept.cut (q := qu) s1 ?_ ?_; subst s1; rotate_left; revert s1; intro
        z1; rotate_left)
    | (extract_lets +onlyGivenNames f1; (have hf : _ → _ := f1); clear hf; subst f1; try beta_reduce)
    | (with_reducible first
        | apply KeptOut.unit | apply KeptOut.alive | apply Kept.ite | apply wr_kept | apply bump_kept
        | apply raiseInt_kept | apply abortMig_kept | apply t3Recount_kept | apply Kept.each_)

theorem execCapRetrain_kept (n : Nat) (serial : Option Nat) (s : State) (hK : Kept qu s) : KeptOut qu
    (execCapRetrain n serial s) := by
  unfold execCapRetrain
  repeat' first
    | with_reducible assumption
    | intro _
    | (extract_lets +onlyGivenNames x1; revert x1; intro y1)
    | (with_reducible first
        | apply KeptOut.unit | apply KeptOut.alive | apply Kept.ite | apply wr_kept | apply raiseInt_kept
        | apply t3Recount_kept)
    | split

theorem setQpair_kept (s : State) (n q : Nat) (x : QPair) (hK : Kept qu s) : Kept qu (setQpair s n q x) := by
  unfold setQpair
  repeat' first
    | with_reducible assumption
    | (extract_lets +onlyGivenNames x1; revert x1; intro y1)
    | (fail_if_no_progress with_reducible apply Kept.mk_other)

theorem fxQpDb_kept (n v : Nat) (s : State) (hK : Kept qu s) : Kept qu (fxQpDb n v s) := by
  unfold fxQpDb
  repeat' first
    | with_reducible assumption
    | intro _
    | (extract_lets +onlyGivenNames x1; revert x1; intro y1)
    | (with_reducible first | apply Kept.ite | apply setQpair_kept)

theorem execQpDb_kept (ag : Agent) (n v : Nat) (s : State) (hK : Kept qu s) : KeptOut qu (execQpDb ag n v s) := by
  unfold execQpDb
  repeat' first
    | with_reducible assumption
    | intro _
    | (with_reducible first | apply KeptOut.next | apply KeptOut.unit | apply agentWrite_kept | apply fxQpDb_kept)

theorem fxQpSel_kept (n : Nat) (old s : State) (hK : Kept qu old) (hK1 : Kept qu s) : Kept qu (fxQpSel n old s) := by
  unfold fxQpSel
  repeat' first
    | with_reducible assumption
    | intro _
    | (extract_lets +onlyGivenNames s1; refine Kept.cut (q := qu) s1 ?_ ?_; subst s1; rotate_left; revert s1; intro
        z1; rotate_left)
    | (extract_lets +onlyGivenNames x1; revert x1; intro y1)
    | (with_reducible first | apply Kept.ite | apply wr_kept | apply setQpair_kept)

theorem execQpSelWrite_kept (ag : Agent) (n v : Nat) (s : State) (hK : Kept qu s) : KeptOut qu (execQpSelWrite ag n
    v s) := by
  unfold execQpSelWrite
  repeat' first
    | with_reducible assumption
    | intro _
    | (with_reducible first | apply KeptOut.next | apply KeptOut.unit | apply agentWrite_kept | apply fxQpSel_kept)

theorem ethDone_kept (s : State) (n q : Nat) (w : EthWr) (op status : Nat) (hK : Kept qu s) : Kept qu (ethDone s n q
    w op status) := by
  unfold ethDone
  repeat' first
    | with_reducible assumption
    | intro _
    | (extract_lets +onlyGivenNames s1; refine Kept.cut (q := qu) s1 ?_ ?_; subst s1; rotate_left; revert s1; intro
        z1; rotate_left)
    | (extract_lets +onlyGivenNames x1; revert x1; intro y1)
    | (with_reducible first
        | apply Kept.ite | apply memWrite_kept | apply abortOnWrite_kept | apply takeLines_kept
        | apply setQpair_kept)
    | split

theorem ethFrames_kept (s : State) (n len : Nat) (tx : Bool) (hK : Kept qu s) : Kept qu (ethFrames s n len tx) := by
  unfold ethFrames
  repeat' first
    | with_reducible assumption
    | (extract_lets +onlyGivenNames x1; revert x1; intro y1)
    | (with_reducible first | apply bump_kept | apply fresh_kept)

theorem ethWork_kept (n q : Nat) (w : EthWr) (op : Nat) (write : Bool) (s : State) (f : State → Nat → State) (hK :
    Kept qu s) (hK1 : ∀ x0 x1, Kept qu x0 → Kept qu (f x0 x1)) : KeptOut qu (ethWork n q w op write s f) := by
  unfold ethWork
  repeat' first
    | with_reducible assumption
    | intro _
    | (extract_lets +onlyGivenNames s1; refine Kept.cut (q := qu) s1 ?_ ?_; subst s1; rotate_left; revert s1; intro
        z1; rotate_left)
    | (extract_lets +onlyGivenNames x1; revert x1; intro y1)
    | (with_reducible first
        | apply hK1 | apply KeptOut.unit | apply KeptOut.alive | apply Kept.ite | apply told_kept
        | apply chargePb_kept | apply drawRange_kept | apply fillRange_kept | apply ethDone_kept
        | apply ethFrames_kept)
    | split

theorem ethOut_kept (n q : Nat) (w : EthWr) (op : Nat) (s : State) (a : Nat) (hK : Kept qu s) : Kept qu (ethOut n q
    w op s a) := by
  unfold ethOut
  repeat' with_reducible first | assumption | apply fresh_kept | apply emit_kept

theorem execEthWrite_kept (n qp : Nat) (w : EthWr) (s : State) (hK : Kept qu s) : KeptOut qu (execEthWrite n qp w s)
    := by
  unfold execEthWrite
  repeat' first
    | with_reducible assumption
    | intro _
    | (with_reducible first | apply ethWork_kept | apply ethOut_kept)

theorem execEthRead_kept (n qp : Nat) (w : EthWr) (data : List Nat) (s : State) (hK : Kept qu s) : KeptOut qu
    (execEthRead n qp w data s) := by
  unfold execEthRead
  repeat' first
    | with_reducible assumption
    | intro _
    | (extract_lets +onlyGivenNames x1; revert x1; intro y1)
    | (with_reducible first
        | apply fresh_kept | apply memWrite_kept | apply abortOnWrite_kept | apply takeLines_kept
        | apply ethWork_kept)

theorem execEthSend_kept (n qp : Nat) (w : EthWr) (s : State) (hK : Kept qu s) : KeptOut qu (execEthSend n qp w s) := by
  unfold execEthSend
  repeat' first
    | with_reducible assumption
    | intro _
    | (with_reducible first | apply ethWork_kept | apply ethOut_kept)

theorem execEthLinkChange_kept (n : Nat) (up : Bool) (s : State) (hK : Kept qu s) : KeptOut qu (execEthLinkChange n
    up s) := by
  unfold execEthLinkChange
  repeat' first
    | with_reducible assumption
    | intro _
    | (with_reducible first
        | apply KeptOut.unit | apply KeptOut.alive | apply Kept.ite | apply wr_kept | apply raiseInt_kept)

theorem fxEthLink_kept (n : Nat) (s : State) (hK : Kept qu s) : Kept qu (fxEthLink n s) := by
  unfold fxEthLink
  repeat' first
    | with_reducible assumption
    | intro _
    | (extract_lets +onlyGivenNames s1; refine Kept.cut (q := qu) s1 ?_ ?_; subst s1; rotate_left; revert s1; intro
        z1; rotate_left)
    | (with_reducible first | apply Kept.ite | apply wr_kept | apply raiseInt_kept)

theorem execPfcPauseFrameReceive_kept (n pri : Nat) (s : State) (hK : Kept qu s) : KeptOut qu
    (execPfcPauseFrameReceive n pri s) := by
  unfold execPfcPauseFrameReceive
  repeat' first
    | with_reducible assumption
    | (extract_lets +onlyGivenNames x1; revert x1; intro y1)
    | (with_reducible first | apply KeptOut.unit | apply KeptOut.alive | apply bump_kept)
    | (fail_if_no_progress with_reducible apply Kept.mk_other)

end Sys2Proof.Machine
end

