-- ==== Sys2Proof/Laws/KeptPowerExec.lean ====
section
/-! SUPPORT. The operations of `Machine/PowerExec.lean` keep the queue and the canonical form of the memories. -/

namespace Sys2Proof.Machine

variable {qu : List Instr}

theorem setPow_kept (s : State) (p : Power) (hK : Kept qu s) : Kept qu (setPow s p) := by
  unfold setPow
  repeat' first
    | with_reducible assumption
    | (fail_if_no_progress with_reducible apply Kept.mk_other)

theorem setPlan_kept (s : State) (bd : Nat) (nw : Bool) (f : Option Nat) (hK : Kept qu s) : Kept qu (setPlan s bd nw
    f) := by
  unfold setPlan
  repeat' first
    | with_reducible assumption
    | (extract_lets +onlyGivenNames x1; revert x1; intro y1)
    | with_reducible apply setPow_kept

theorem sendSkip_kept (s : State) (place : List Nat) (n : Nat) (hK : Kept qu s) : Kept qu (sendSkip s place n) := by
  unfold sendSkip
  repeat' first
    | with_reducible assumption
    | intro _
    | (extract_lets +onlyGivenNames x1; revert x1; intro y1)
    | (with_reducible first | apply Kept.ite | apply setIsl_kept | apply Kept.each_)

theorem planWeave_kept (s : State) (x : Nat × Bool × Weave) (hK : Kept qu s) : Kept qu (planWeave s x) := by
  unfold planWeave
  repeat' first
    | with_reducible assumption
    | intro _
    | (extract_lets +onlyGivenNames x1; revert x1; intro y1)
    | (with_reducible first | apply Kept.ite | apply fresh_kept | apply setPlan_kept | apply sendSkip_kept)

theorem replan_kept (s : State) (hK : Kept qu s) : Kept qu (replan s) := by
  unfold replan
  repeat' first
    | with_reducible assumption
    | intro _
    | (with_reducible first | apply followRails_kept | apply planWeave_kept | apply Kept.each_)

theorem execStepPrepared_kept (bd ns : Nat) (s : State) (hK : Kept qu s) : KeptOut qu (execStepPrepared bd ns s) := by
  unfold execStepPrepared
  repeat' first
    | with_reducible assumption
    | intro _
    | (extract_lets +onlyGivenNames s1; refine Kept.cut (q := qu) s1 ?_ ?_; subst s1; rotate_left; revert s1; intro
        z1; rotate_left)
    | (extract_lets +onlyGivenNames x1; revert x1; intro y1)
    | (with_reducible first
        | apply KeptOut.unit | apply KeptOut.alive | apply Kept.ite | apply wr_kept | apply setIsl_kept
        | apply setPlan_kept | apply Kept.each_)
    | split

theorem switchClock_kept (s : State) (k f gap : Nat) (hK : Kept qu s) : Kept qu (switchClock s k f gap) := by
  unfold switchClock
  repeat' first
    | with_reducible assumption
    | intro _
    | (extract_lets +onlyGivenNames s1; refine Kept.cut (q := qu) s1 ?_ ?_; subst s1; rotate_left; revert s1; intro
        z1; rotate_left)
    | (extract_lets +onlyGivenNames f1; (have hf : _ → _ := f1); clear hf; subst f1; try beta_reduce)
    | (extract_lets +onlyGivenNames x1; revert x1; intro y1)
    | (with_reducible first | apply Kept.ite | apply ww_kept | apply wr_kept)

theorem execClockSwitch_kept (bd gap : Nat) (s : State) (hK : Kept qu s) : KeptOut qu (execClockSwitch bd gap s) := by
  unfold execClockSwitch
  repeat' first
    | with_reducible assumption
    | intro _
    | (extract_lets +onlyGivenNames s1; refine Kept.cut (q := qu) s1 ?_ ?_; subst s1; rotate_left; revert s1; intro
        z1; rotate_left)
    | (extract_lets +onlyGivenNames x1; revert x1; intro y1)
    | (with_reducible first
        | apply KeptOut.unit | apply KeptOut.alive | apply Kept.ite | apply wr_kept | apply switchClock_kept
        | apply Kept.each_)
    | split

theorem execStepResume_kept (bd : Nat) (s : State) (hK : Kept qu s) : KeptOut qu (execStepResume bd s) := by
  unfold execStepResume
  repeat' first
    | with_reducible assumption
    | intro _
    | (extract_lets +onlyGivenNames s1; refine Kept.cut (q := qu) s1 ?_ ?_; subst s1; rotate_left; revert s1; intro
        z1; rotate_left)
    | (extract_lets +onlyGivenNames x1; revert x1; intro y1)
    | (with_reducible first
        | apply KeptOut.unit | apply KeptOut.alive | apply Kept.ite | apply bump_kept | apply setIsl_kept
        | apply noteHold_kept | apply followRails_kept | apply planWeave_kept | apply Kept.each_)

theorem setBrake_kept (s : State) (hK : Kept qu s) : Kept qu (setBrake s) := by
  unfold setBrake
  repeat' first
    | with_reducible assumption
    | intro _
    | (extract_lets +onlyGivenNames s1; refine Kept.cut (q := qu) s1 ?_ ?_; subst s1; rotate_left; revert s1; intro
        z1; rotate_left)
    | (extract_lets +onlyGivenNames x1; revert x1; intro y1)
    | (with_reducible first
        | apply Kept.ite | apply wr_kept | apply bump_kept | apply raiseInt_kept | apply setPow_kept)

theorem execBrakeAssert_kept (s : State) (hK : Kept qu s) : KeptOut qu (execBrakeAssert s) := by
  unfold execBrakeAssert
  repeat' first
    | with_reducible assumption
    | (extract_lets +onlyGivenNames x1; revert x1; intro y1)
    | (with_reducible first | apply KeptOut.alive | apply setPow_kept | apply setBrake_kept)

theorem execBrakeRelease_kept (s : State) (hK : Kept qu s) : KeptOut qu (execBrakeRelease s) := by
  unfold execBrakeRelease
  repeat' first
    | with_reducible assumption
    | (extract_lets +onlyGivenNames x1; revert x1; intro y1)
    | (with_reducible first | apply KeptOut.alive | apply setPow_kept | apply setBrake_kept)

theorem execDutyStep_kept (s : State) (hK : Kept qu s) : KeptOut qu (execDutyStep s) := by
  unfold execDutyStep
  repeat' first
    | with_reducible assumption
    | intro _
    | (with_reducible first | apply KeptOut.alive | apply Kept.ite | apply down_kept)

theorem execPowerEstimate_kept (w avg : Nat) (s : State) (hK : Kept qu s) : KeptOut qu (execPowerEstimate w avg s) := by
  unfold execPowerEstimate
  repeat' first
    | with_reducible assumption
    | intro _
    | (extract_lets +onlyGivenNames s1; refine Kept.cut (q := qu) s1 ?_ ?_; subst s1; rotate_left; revert s1; intro
        z1; rotate_left)
    | (extract_lets +onlyGivenNames x1; revert x1; intro y1)
    | (with_reducible first | apply KeptOut.alive | apply wr_kept | apply bump2_kept | apply setPow_kept)

theorem setCap_kept (s : State) (hK : Kept qu s) : Kept qu (setCap s) := by
  unfold setCap
  repeat' with_reducible first | assumption | apply wr_kept

theorem overrun_kept (s : State) (hK : Kept qu s) : Kept qu (overrun s) := by
  unfold overrun
  repeat' first
    | with_reducible assumption
    | intro _
    | (extract_lets +onlyGivenNames s1; refine Kept.cut (q := qu) s1 ?_ ?_; subst s1; rotate_left; revert s1; intro
        z1; rotate_left)
    | (extract_lets +onlyGivenNames x1; revert x1; intro y1)
    | (with_reducible first
        | apply Kept.ite | apply wr_kept | apply bump_kept | apply raiseInt_kept | apply setPow_kept)

theorem execCapEvaluation_kept (est duty : List Nat) (s : State) (hK : Kept qu s) : KeptOut qu (execCapEvaluation
    est duty s) := by
  unfold execCapEvaluation
  repeat' first
    | with_reducible assumption
    | intro _
    | (extract_lets +onlyGivenNames s1; refine Kept.cut (q := qu) s1 ?_ ?_; subst s1; rotate_left; revert s1; intro
        z1; rotate_left)
    | (extract_lets +onlyGivenNames x1; revert x1; intro y1)
    | (with_reducible first
        | apply KeptOut.alive | apply Kept.ite | apply wr_kept | apply setPow_kept | apply replan_kept
        | apply overrun_kept)
    | split

theorem execPointRaise_kept (est : List Nat) (s : State) (hK : Kept qu s) : KeptOut qu (execPointRaise est s) := by
  unfold execPointRaise
  repeat' first
    | with_reducible assumption
    | intro _
    | (extract_lets +onlyGivenNames x1; revert x1; intro y1)
    | (with_reducible first | apply KeptOut.alive | apply Kept.ite | apply wr_kept | apply replan_kept)

theorem fxLimit_kept (s : State) (hK : Kept qu s) : Kept qu (fxLimit s) := by
  unfold fxLimit
  repeat' first
    | with_reducible assumption
    | (extract_lets +onlyGivenNames x1; revert x1; intro y1)
    | (with_reducible first | apply wr_kept | apply setCap_kept)

theorem execLimitWrite_kept (ag : Agent) (v : Nat) (s : State) (hK : Kept qu s) : KeptOut qu (execLimitWrite ag v s)
    := by
  unfold execLimitWrite
  repeat' first
    | with_reducible assumption
    | intro _
    | (with_reducible first | apply KeptOut.next | apply agentWrite_kept | apply fxLimit_kept)

theorem fxHb_kept (s : State) (hK : Kept qu s) : Kept qu (fxHb s) := by
  unfold fxHb
  repeat' with_reducible first | assumption | apply wr_kept

theorem execHb_kept (ag : Agent) (v : Nat) (s : State) (hK : Kept qu s) : KeptOut qu (execHb ag v s) := by
  unfold execHb
  repeat' first
    | with_reducible assumption
    | intro _
    | (with_reducible first | apply KeptOut.next | apply agentWrite_kept | apply fxHb_kept)

theorem execHbTimeout_kept (s : State) (hK : Kept qu s) : KeptOut qu (execHbTimeout s) := by
  unfold execHbTimeout
  repeat' first
    | with_reducible assumption
    | intro _
    | (with_reducible first | apply KeptOut.alive | apply Kept.ite | apply wr_kept | apply raiseInt_kept)

theorem execSafeCapEngage_kept (s : State) (hK : Kept qu s) : KeptOut qu (execSafeCapEngage s) := by
  unfold execSafeCapEngage
  repeat' first
    | with_reducible assumption
    | intro _
    | (with_reducible first
        | apply KeptOut.alive | apply Kept.ite | apply wr_kept | apply raiseInt_kept | apply setCap_kept)

theorem flushRecord_kept (x : State × List Cmd) (c : Cmd) (hK : Kept qu x.1) : Kept qu (flushRecord x c).1 := by
  unfold flushRecord
  repeat' first
    | with_reducible assumption
    | intro _
    | (extract_lets +onlyGivenNames s1; refine Kept.cut (q := qu) s1 ?_ ?_; subst s1; rotate_left; revert s1; intro
        z1; rotate_left)
    | (extract_lets +onlyGivenNames x1; revert x1; intro y1)
    | (with_reducible first
        | apply Kept.ite_fst | apply memWrite_kept | apply abortOnWrite_kept | apply recordDone_kept)
    | split

theorem dropWeaves_kept (s : State) (hK : Kept qu s) : Kept qu (dropWeaves s) := by
  unfold dropWeaves
  repeat' first
    | with_reducible assumption
    | intro _
    | (extract_lets +onlyGivenNames s1; refine Kept.cut (q := qu) s1 ?_ ?_; subst s1; rotate_left; revert s1; intro
        z1; rotate_left)
    | (with_reducible first
        | apply Kept.ite | apply wr_kept | apply setInv_kept | apply idleIslands_kept | apply dropHeld_kept
        | apply Kept.each_)

theorem abandonAll_kept (s : State) (hK : Kept qu s) : Kept qu (abandonAll s) := by
  unfold abandonAll
  repeat' first
    | with_reducible assumption
    | intro _
    | (extract_lets +onlyGivenNames s1; refine Kept.cut (q := qu) s1 ?_ ?_; subst s1; rotate_left; revert s1; intro
        z1; rotate_left)
    | (extract_lets +onlyGivenNames x1; revert x1; intro y1)
    | (with_reducible first | apply abortMig_kept | apply dropWeaves_kept | apply Kept.each_)
    | refine Kept.mk_both ?_ (fun c => { c with })

theorem putT3_kept (s : State) (a : Nat) (l : List Nat) (hK : Kept qu s) : Kept qu (putT3 s a l) :=
  hK.mk_mem fun c => { c with t3 := twf_tstore _ _ _ c.t3 }

theorem writeClosing_kept (s : State) (journal : List Cmd) (hK : Kept qu s) : Kept qu (writeClosing s journal) := by
  unfold writeClosing
  repeat' first
    | with_reducible assumption
    | (extract_lets +onlyGivenNames x1; revert x1; intro y1)
    | (with_reducible first | apply fresh_kept | apply putT3_kept)
    | split

theorem closeDown_kept (s : State) (hK : Kept qu s) : Kept qu (closeDown s) := by
  unfold closeDown
  repeat' first
    | with_reducible assumption
    | intro _
    | (extract_lets +onlyGivenNames s1; refine Kept.cut (q := qu) s1 ?_ ?_; subst s1; rotate_left; revert s1; intro
        z1; rotate_left)
    | (extract_lets +onlyGivenNames x1; revert x1; intro y1)
    | (with_reducible first
        | apply wr_kept | apply setPow_kept | apply flushRecord_kept | apply abandonAll_kept
        | apply writeClosing_kept | apply Kept.each_fst)
    | (fail_if_no_progress with_reducible apply Kept.mk_other)

theorem startPfail_kept (s : State) (cause : Nat) (hK : Kept qu s) : Kept qu (startPfail s cause) := by
  unfold startPfail
  repeat' first
    | with_reducible assumption
    | intro _
    | (extract_lets +onlyGivenNames s1; refine Kept.cut (q := qu) s1 ?_ ?_; subst s1; rotate_left; revert s1; intro
        z1; rotate_left)
    | (extract_lets +onlyGivenNames x1; revert x1; intro y1)
    | (with_reducible first | apply bump_kept | apply setPow_kept | apply setBrake_kept)

theorem execPowerFail_kept (s : State) (hK : Kept qu s) : KeptOut qu (execPowerFail s) := by
  unfold execPowerFail
  repeat' first
    | with_reducible assumption
    | intro _
    | (with_reducible first | apply KeptOut.alive | apply Kept.ite | apply startPfail_kept)

theorem execPfailGraceEnd_kept (s : State) (hK : Kept qu s) : KeptOut qu (execPfailGraceEnd s) := by
  unfold execPfailGraceEnd
  repeat' first
    | with_reducible assumption
    | intro _
    | (with_reducible first | apply KeptOut.alive | apply Kept.ite | apply closeDown_kept)

theorem trip_kept (s : State) (hK : Kept qu s) : Kept qu (trip s) := by
  unfold trip
  repeat' first
    | with_reducible assumption
    | intro _
    | (extract_lets +onlyGivenNames s1; refine Kept.cut (q := qu) s1 ?_ ?_; subst s1; rotate_left; revert s1; intro
        z1; rotate_left)
    | (extract_lets +onlyGivenNames x1; revert x1; intro y1)
    | (with_reducible first
        | apply Kept.ite | apply bump_kept | apply setPow_kept | apply closeDown_kept | apply startPfail_kept)

theorem fxCrecAck_kept (v : Nat) (s : State) (hK : Kept qu s) : Kept qu (fxCrecAck v s) := by
  unfold fxCrecAck
  repeat' first
    | with_reducible assumption
    | intro _
    | (with_reducible first | apply Kept.ite | apply putT3_kept)
    | split

theorem execCrecAck_kept (s : State) (hK : Kept qu s) : KeptOut qu (execCrecAck s) := by
  unfold execCrecAck
  repeat' first
    | with_reducible assumption
    | intro _
    | (extract_lets +onlyGivenNames x1; revert x1; intro y1)
    | (with_reducible first | apply KeptOut.next | apply agentWrite_kept | apply fxCrecAck_kept)

theorem judgeTemps_kept (s : State) (hK : Kept qu s) : Kept qu (judgeTemps s) := by
  unfold judgeTemps
  repeat' first
    | with_reducible assumption
    | intro _
    | (extract_lets +onlyGivenNames s1; refine Kept.cut (q := qu) s1 ?_ ?_; subst s1; rotate_left; revert s1; intro
        z1; rotate_left)
    | (extract_lets +onlyGivenNames x1; revert x1; intro y1)
    | (with_reducible first
        | apply Kept.ite | apply wr_kept | apply raiseInt_kept | apply setPow_kept | apply setBrake_kept
        | apply trip_kept)
    | split

theorem execTempSample_kept (k : Nat) (raw : Int) (s : State) (hK : Kept qu s) : KeptOut qu (execTempSample k raw s)
    := by
  unfold execTempSample
  repeat' first
    | with_reducible assumption
    | intro _
    | (extract_lets +onlyGivenNames s1; refine Kept.cut (q := qu) s1 ?_ ?_; subst s1; rotate_left; revert s1; intro
        z1; rotate_left)
    | (extract_lets +onlyGivenNames x1; revert x1; intro y1)
    | (with_reducible first
        | apply KeptOut.unit | apply KeptOut.alive | apply Kept.ite | apply wr_kept | apply raiseInt_kept
        | apply setPow_kept | apply judgeTemps_kept)

theorem execThermalTargetFall_kept (p : Nat) (s : State) (hK : Kept qu s) : KeptOut qu (execThermalTargetFall p s) := by
  unfold execThermalTargetFall
  repeat' first
    | with_reducible assumption
    | intro _
    | (extract_lets +onlyGivenNames s1; refine Kept.cut (q := qu) s1 ?_ ?_; subst s1; rotate_left; revert s1; intro
        z1; rotate_left)
    | (extract_lets +onlyGivenNames x1; revert x1; intro y1)
    | (with_reducible first
        | apply KeptOut.unit | apply KeptOut.alive | apply Kept.ite | apply wr_kept | apply raiseInt_kept
        | apply replan_kept)

theorem execThermalTargetRise_kept (p : Nat) (s : State) (hK : Kept qu s) : KeptOut qu (execThermalTargetRise p s) := by
  unfold execThermalTargetRise
  repeat' first
    | with_reducible assumption
    | intro _
    | (with_reducible first
        | apply KeptOut.unit | apply KeptOut.alive | apply Kept.ite | apply up_kept | apply replan_kept)

theorem endSlope_kept (s : State) (hK : Kept qu s) : Kept qu (endSlope s) := by
  unfold endSlope
  repeat' first
    | with_reducible assumption
    | intro _
    | (with_reducible first | apply Kept.ite | apply wr_kept | apply replan_kept | apply setBrake_kept)

theorem execSlopeEval_kept (v : Int) (s : State) (hK : Kept qu s) : KeptOut qu (execSlopeEval v s) := by
  unfold execSlopeEval
  repeat' first
    | with_reducible assumption
    | intro _
    | (extract_lets +onlyGivenNames s1; refine Kept.cut (q := qu) s1 ?_ ?_; subst s1; rotate_left; revert s1; intro
        z1; rotate_left)
    | (extract_lets +onlyGivenNames x1; revert x1; intro y1)
    | (with_reducible first
        | apply KeptOut.alive | apply Kept.ite | apply wr_kept | apply raiseInt_kept | apply setPow_kept
        | apply setBrake_kept | apply endSlope_kept)

theorem execDeepBrakeCheck_kept (v : Int) (s : State) (hK : Kept qu s) : KeptOut qu (execDeepBrakeCheck v s) := by
  unfold execDeepBrakeCheck
  repeat' first
    | with_reducible assumption
    | intro _
    | (extract_lets +onlyGivenNames s1; refine Kept.cut (q := qu) s1 ?_ ?_; subst s1; rotate_left; revert s1; intro
        z1; rotate_left)
    | (extract_lets +onlyGivenNames x1; revert x1; intro y1)
    | (with_reducible first
        | apply KeptOut.alive | apply Kept.ite | apply wr_kept | apply raiseInt_kept | apply setPow_kept
        | apply replan_kept)

theorem fxSrel_kept (v : Nat) (s : State) (hK : Kept qu s) : Kept qu (fxSrel v s) := by
  unfold fxSrel
  repeat' first
    | with_reducible assumption
    | intro _
    | (with_reducible first | apply Kept.ite | apply endSlope_kept)

theorem execSrel_kept (ag : Agent) (s : State) (hK : Kept qu s) : KeptOut qu (execSrel ag s) := by
  unfold execSrel
  repeat' first
    | with_reducible assumption
    | intro _
    | (with_reducible first | apply KeptOut.next | apply agentWrite_kept | apply fxSrel_kept)

theorem execDroopDetect_kept (d m mv edges : Nat) (s : State) (hK : Kept qu s) : KeptOut qu (execDroopDetect d m mv
    edges s) := by
  unfold execDroopDetect
  repeat' first
    | with_reducible assumption
    | intro _
    | (extract_lets +onlyGivenNames s1; refine Kept.cut (q := qu) s1 ?_ ?_; subst s1; rotate_left; revert s1; intro
        z1; rotate_left)
    | (extract_lets +onlyGivenNames x1; revert x1; intro y1)
    | (with_reducible first
        | apply KeptOut.unit | apply KeptOut.alive | apply Kept.ite | apply wr_kept | apply bump_kept
        | apply setPow_kept)

theorem execDroopRecovery_kept (d : Nat) (s : State) (hK : Kept qu s) : KeptOut qu (execDroopRecovery d s) := by
  unfold execDroopRecovery
  repeat' first
    | with_reducible assumption
    | (extract_lets +onlyGivenNames x1; revert x1; intro y1)
    | (with_reducible first | apply KeptOut.unit | apply KeptOut.alive | apply setPow_kept)

theorem execPmonRead_kept (codes : List Nat) (s : State) (hK : Kept qu s) : KeptOut qu (execPmonRead codes s) := by
  unfold execPmonRead
  repeat' first
    | with_reducible assumption
    | intro _
    | (with_reducible first
        | apply KeptOut.alive | apply Kept.ite | apply wr_kept | apply followRails_kept | apply Kept.each_)
    | split

theorem dropSteps_kept (s : State) (j : Nat) (hK : Kept qu s) : Kept qu (dropSteps s j) := by
  unfold dropSteps
  repeat' first
    | with_reducible assumption
    | intro _
    | (with_reducible first | apply Kept.ite | apply setPlan_kept | apply Kept.each_)
    | split

theorem execVrcStatPoll_kept (j stat : Nat) (late : Bool) (s : State) (hK : Kept qu s) : KeptOut qu (execVrcStatPoll
    j stat late s) := by
  unfold execVrcStatPoll
  repeat' first
    | with_reducible assumption
    | intro _
    | (extract_lets +onlyGivenNames s1; refine Kept.cut (q := qu) s1 ?_ ?_; subst s1; rotate_left; revert s1; intro
        z1; rotate_left)
    | (extract_lets +onlyGivenNames f1; (have hf : _ → _ := f1); clear hf; subst f1; try beta_reduce)
    | (extract_lets +onlyGivenNames x1; revert x1; intro y1)
    | (with_reducible first
        | apply KeptOut.unit | apply KeptOut.alive | apply Kept.ite | apply wr_kept | apply bump_kept
        | apply emit_kept | apply setPow_kept | apply dropSteps_kept)

theorem execVrcAlert_kept (stats : List Nat) (s : State) (hK : Kept qu s) : KeptOut qu (execVrcAlert stats s) := by
  unfold execVrcAlert
  repeat' first
    | with_reducible assumption
    | intro _
    | (extract_lets +onlyGivenNames s1; refine Kept.cut (q := qu) s1 ?_ ?_; subst s1; rotate_left; revert s1; intro
        z1; rotate_left)
    | (extract_lets +onlyGivenNames x1; revert x1; intro y1)
    | (with_reducible first
        | apply KeptOut.alive | apply Kept.ite | apply wr_kept | apply bump_kept | apply emit_kept
        | apply setPow_kept | apply setBrake_kept | apply Kept.each_)
    | split

theorem execVrcAlertRelease_kept (s : State) (hK : Kept qu s) : KeptOut qu (execVrcAlertRelease s) := by
  unfold execVrcAlertRelease
  repeat' first
    | with_reducible assumption
    | intro _
    | (extract_lets +onlyGivenNames s1; refine Kept.cut (q := qu) s1 ?_ ?_; subst s1; rotate_left; revert s1; intro
        z1; rotate_left)
    | (extract_lets +onlyGivenNames x1; revert x1; intro y1)
    | (with_reducible first
        | apply KeptOut.alive | apply Kept.ite | apply emit_kept | apply setPow_kept | apply setBrake_kept
        | apply Kept.each_)

end Sys2Proof.Machine
end

