-- ==== Sys2Proof/Laws/KeptBootExec.lean ====
section
/-! SUPPORT. The operations of `Machine/BootExec.lean` keep the queue and the canonical form of the memories. -/

namespace Sys2Proof.Machine

variable {qu : List Instr}

theorem twf_presetF (f : Fld) (i v : Nat) {t : Tbl Word} (w : twf resetWord t = true) :
    twf resetWord (presetF f i v t) = true := twf_tset _ _ w

theorem twf_gradeRegs (grade : Nat) : twf resetWord (gradeRegs grade) = true := by
  unfold gradeRegs
  extract_lets w f t1 t2 t3
  have h3 : twf resetWord t3 = true := twf_presetF _ _ _ (twf_presetF _ _ _ (twf_presetF _ _ _ (twf_presetF _ _ _ rfl)))
  clear_value t3
  generalize List.range 8 = l
  induction l generalizing t3 with
  | nil => exact h3
  | cons p l ih => exact ih _ (twf_presetF _ _ _ (twf_presetF _ _ _ h3))

theorem canon_fabric_reset : Fabric.reset.Canon := by constructor <;> rfl

theorem canon_memory_reset : Memory.reset.Canon := by constructor <;> rfl

theorem reset_regs : State.reset.regs = gradeRegs 0 := by simp only [State.reset]
theorem reset_fab : State.reset.fab = Fabric.reset := by simp only [State.reset]
theorem reset_mem : State.reset.mem = Memory.reset := by simp only [State.reset]

theorem canon_reset : Canon State.reset := by
  constructor
  · rw [reset_regs]; exact twf_gradeRegs 0
  · rw [reset_fab]; exact canon_fabric_reset
  · rw [reset_mem]; exact canon_memory_reset

theorem setSec_kept (s : State) (x : Security) (hK : Kept qu s) : Kept qu (setSec s x) := by
  unfold setSec
  repeat' first
    | with_reducible assumption
    | (fail_if_no_progress with_reducible apply Kept.mk_other)

theorem setFlash_kept (s : State) (f : Flash) (hK : Kept qu s) : Kept qu (setFlash s f) := by
  unfold setFlash
  repeat' first
    | with_reducible assumption
    | (extract_lets +onlyGivenNames x1; revert x1; intro y1)
    | (fail_if_no_progress with_reducible apply Kept.mk_other)

theorem showSlots_kept (s : State) (hK : Kept qu s) : Kept qu (showSlots s) := by
  unfold showSlots
  repeat' first
    | with_reducible assumption
    | intro _
    | (extract_lets +onlyGivenNames s1; refine Kept.cut (q := qu) s1 ?_ ?_; subst s1; rotate_left; revert s1; intro
        z1; rotate_left)
    | (extract_lets +onlyGivenNames x1; revert x1; intro y1)
    | with_reducible apply wr_kept

theorem putBoot_kept (s : State) (r : BootRec) (hK : Kept qu s) : Kept qu (putBoot s r) := by
  unfold putBoot
  repeat' with_reducible first | assumption | apply setFlash_kept | apply showSlots_kept

theorem setMeas_kept (s : State) (i v : Nat) (hK : Kept qu s) : Kept qu (setMeas s i v) := by
  unfold setMeas
  repeat' first
    | with_reducible assumption
    | intro _
    | (with_reducible first | apply wr_kept | apply Kept.each_)

theorem showFuses_kept (s : State) (hK : Kept qu s) : Kept qu (showFuses s) := by
  unfold showFuses
  repeat' first
    | with_reducible assumption
    | intro _
    | (extract_lets +onlyGivenNames s1; refine Kept.cut (q := qu) s1 ?_ ?_; subst s1; rotate_left; revert s1; intro
        z1; rotate_left)
    | (extract_lets +onlyGivenNames x1; revert x1; intro y1)
    | with_reducible apply wr_kept

theorem measure5_kept (s : State) (hK : Kept qu s) : Kept qu (measure5 s) := by
  unfold measure5
  repeat' first
    | with_reducible assumption
    | (extract_lets +onlyGivenNames x1; revert x1; intro y1)
    | (with_reducible first | apply setMeas_kept | apply showFuses_kept)

theorem measure4_kept (s : State) (hK : Kept qu s) : Kept qu (measure4 s) := by
  unfold measure4
  repeat' with_reducible first | assumption | apply wr_kept | apply setMeas_kept

theorem writeStore_kept (s : State) (l : List SetRec) (hK : Kept qu s) : Kept qu (writeStore s l) := by
  unfold writeStore
  repeat' first
    | with_reducible assumption
    | intro _
    | (extract_lets +onlyGivenNames s1; refine Kept.cut (q := qu) s1 ?_ ?_; subst s1; rotate_left; revert s1; intro
        z1; rotate_left)
    | (extract_lets +onlyGivenNames x1; revert x1; intro y1)
    | (with_reducible first | apply wr_kept | apply setFlash_kept)

theorem applyValue_kept (s : State) (id fmt : Nat) (l : List Nat) (hK : Kept qu s) : Kept qu (applyValue s id fmt l)
    := by
  unfold applyValue
  repeat' first
    | with_reducible assumption
    | intro _
    | (extract_lets +onlyGivenNames s1; refine Kept.cut (q := qu) s1 ?_ ?_; subst s1; rotate_left; revert s1; intro
        z1; rotate_left)
    | (extract_lets +onlyGivenNames x1; revert x1; intro y1)
    | (with_reducible first
        | apply Kept.ite | apply ww_kept | apply wr_kept | apply fxLinkCtrl_kept | apply setCap_kept
        | apply fxLimit_kept | apply Kept.each_)

theorem closeDual_kept (s : State) (keep : Nat → Nat) (hK : Kept qu s) : Kept qu (closeDual s keep) := by
  unfold closeDual
  repeat' first
    | with_reducible assumption
    | intro _
    | (extract_lets +onlyGivenNames x1; revert x1; intro y1)
    | (with_reducible first | apply Kept.ite | apply writeStore_kept)

theorem loadSettings_kept (s : State) (hK : Kept qu s) : Kept qu (loadSettings s) := by
  unfold loadSettings
  repeat' first
    | with_reducible assumption
    | intro _
    | (with_reducible first | apply Kept.ite | apply applyValue_kept | apply Kept.each_)
    | split

theorem dualSettings_kept (s : State) (hK : Kept qu s) : Kept qu (dualSettings s) := by
  unfold dualSettings
  repeat' first
    | with_reducible assumption
    | intro _
    | (extract_lets +onlyGivenNames x1; revert x1; intro y1)
    | (with_reducible first | apply Kept.ite | apply writeStore_kept | apply closeDual_kept | apply Kept.each_)

theorem latchStraps_kept (s : State) (straps : Nat) (low : Bool) (hK : Kept qu s) : Kept qu (latchStraps s straps
    low) := by
  unfold latchStraps
  repeat' first
    | with_reducible assumption
    | intro _
    | (extract_lets +onlyGivenNames s1; refine Kept.cut (q := qu) s1 ?_ ?_; subst s1; rotate_left; revert s1; intro
        z1; rotate_left)
    | with_reducible apply wr_kept

theorem blankFrom_kept (s : State) (hK : Kept qu s) : Kept qu (blankFrom s) := by
  unfold blankFrom
  apply showSlots_kept
  apply showFuses_kept
  exact ⟨hK.queue, ⟨twf_gradeRegs _, (canon_reset).fab, { (canon_reset).mem with t3 := hK.canon.mem.t3 }⟩⟩

theorem resetKeeping_kept (s : State) (bit_ : Nat) (hK : Kept qu s) : Kept qu (resetKeeping s bit_) := by
  unfold resetKeeping
  repeat' first
    | with_reducible assumption
    | intro _
    | (extract_lets +onlyGivenNames s1; refine Kept.cut (q := qu) s1 ?_ ?_; subst s1; rotate_left; revert s1; intro
        z1; rotate_left)
    | (extract_lets +onlyGivenNames x1; revert x1; intro y1)
    | (with_reducible first | apply wr_kept | apply setBrake_kept | apply latchStraps_kept | apply blankFrom_kept)

theorem warmReset_kept (s : State) (hK : Kept qu s) : Kept qu (warmReset s) := by
  unfold warmReset
  repeat' with_reducible first | assumption | apply resetKeeping_kept

theorem softReset_kept (s : State) (hK : Kept qu s) : Kept qu (softReset s) := by
  unfold softReset
  repeat' first
    | with_reducible assumption
    | intro _
    | (extract_lets +onlyGivenNames s1; refine Kept.cut (q := qu) s1 ?_ ?_; subst s1; rotate_left; revert s1; intro
        z1; rotate_left)
    | (extract_lets +onlyGivenNames x1; revert x1; intro y1)
    | (with_reducible first
        | apply Kept.ite | apply wr_kept | apply setSec_kept | apply resetKeeping_kept | apply Kept.each_)

theorem execPowerOnReset_kept (straps : Nat) (recoveryN railsOk : Bool) (s : State) (hK : Kept qu s) : KeptOut qu
    (execPowerOnReset straps recoveryN railsOk s) := by
  unfold execPowerOnReset
  repeat' first
    | with_reducible assumption
    | intro _
    | (extract_lets +onlyGivenNames s1; refine Kept.cut (q := qu) s1 ?_ ?_; subst s1; rotate_left; revert s1; intro
        z1; rotate_left)
    | (extract_lets +onlyGivenNames x1; revert x1; intro y1)
    | (with_reducible first
        | apply KeptOut.next | apply KeptOut.unit | apply setPow_kept | apply setBrake_kept
        | apply latchStraps_kept | apply blankFrom_kept)
    | (fail_if_no_progress with_reducible apply Kept.mk_other)

theorem execRailMonitorRelease_kept (s : State) (hK : Kept qu s) : KeptOut qu (execRailMonitorRelease s) := by
  unfold execRailMonitorRelease
  repeat' first
    | with_reducible assumption
    | intro _
    | (extract_lets +onlyGivenNames x1; revert x1; intro y1)
    | (with_reducible first | apply KeptOut.next | apply Kept.ite | apply setPow_kept)

theorem execPowerLoss_kept (keep : Nat) (s : State) (hK : Kept qu s) : KeptOut qu (execPowerLoss keep s) := by
  have h : Kept qu (blankFrom { s with now := 0 }) := blankFrom_kept _ (Kept.mk_other hK)
  unfold execPowerLoss
  exact setPow_kept _ _ (Kept.mk_mem h fun c => { c with t3 := twf_filter _ hK.canon.mem.t3 })

theorem execWarmReset_kept (s : State) (hK : Kept qu s) : KeptOut qu (execWarmReset s) := by
  unfold execWarmReset
  repeat' first
    | with_reducible assumption
    | intro _
    | (with_reducible first | apply KeptOut.next | apply Kept.ite | apply warmReset_kept)

theorem fxSoftKey_kept (v : Nat) (s : State) (hK : Kept qu s) : Kept qu (fxSoftKey v s) := by
  unfold fxSoftKey
  repeat' first
    | with_reducible assumption
    | intro _
    | (with_reducible first | apply Kept.ite | apply softReset_kept)

theorem execSoftReset_kept (ag : Agent) (key : Nat) (s : State) (hK : Kept qu s) : KeptOut qu (execSoftReset ag key
    s) := by
  unfold execSoftReset
  repeat' first
    | with_reducible assumption
    | intro _
    | (with_reducible first | apply KeptOut.next | apply Kept.ite | apply agentWrite_kept | apply fxSoftKey_kept)

theorem execAoClockSwitch_kept (s : State) (hK : Kept qu s) : KeptOut qu (execAoClockSwitch s) := by
  unfold execAoClockSwitch
  repeat' first
    | with_reducible assumption
    | intro _
    | (with_reducible first | apply KeptOut.alive | apply Kept.ite | apply wr_kept)

theorem execRefclkLost_kept (s : State) (hK : Kept qu s) : KeptOut qu (execRefclkLost s) := by
  unfold execRefclkLost
  repeat' first
    | with_reducible assumption
    | intro _
    | (with_reducible first | apply KeptOut.next | apply Kept.ite | apply wr_kept)

theorem enterRecovery_kept (s : State) (code : Nat) (hK : Kept qu s) : Kept qu (enterRecovery s code) := by
  unfold enterRecovery
  repeat' first
    | with_reducible assumption
    | intro _
    | (extract_lets +onlyGivenNames s1; refine Kept.cut (q := qu) s1 ?_ ?_; subst s1; rotate_left; revert s1; intro
        z1; rotate_left)
    | (extract_lets +onlyGivenNames x1; revert x1; intro y1)
    | (with_reducible first | apply wr_kept | apply setSec_kept)

theorem nextStep_kept (s : State) (n : Nat) (hK : Kept qu s) : Kept qu (nextStep s n) := by
  unfold nextStep
  repeat' first
    | with_reducible assumption
    | intro _
    | (extract_lets +onlyGivenNames s1; refine Kept.cut (q := qu) s1 ?_ ?_; subst s1; rotate_left; revert s1; intro
        z1; rotate_left)
    | (extract_lets +onlyGivenNames x1; revert x1; intro y1)
    | (with_reducible first | apply Kept.ite | apply wr_kept | apply setSec_kept)

theorem execRefclkRestored_kept (s : State) (hK : Kept qu s) : KeptOut qu (execRefclkRestored s) := by
  unfold execRefclkRestored
  repeat' first
    | with_reducible assumption
    | intro _
    | (extract_lets +onlyGivenNames s1; refine Kept.cut (q := qu) s1 ?_ ?_; subst s1; rotate_left; revert s1; intro
        z1; rotate_left)
    | (extract_lets +onlyGivenNames x1; revert x1; intro y1)
    | (with_reducible first
        | apply KeptOut.next | apply Kept.ite | apply wr_kept | apply setSec_kept | apply nextStep_kept)

theorem runFirst_kept (s : State) (k : Nat) (hK : Kept qu s) : Kept qu (runFirst s k) := by
  unfold runFirst
  repeat' first
    | with_reducible assumption
    | intro _
    | (extract_lets +onlyGivenNames s1; refine Kept.cut (q := qu) s1 ?_ ?_; subst s1; rotate_left; revert s1; intro
        z1; rotate_left)
    | (extract_lets +onlyGivenNames x1; revert x1; intro y1)
    | (with_reducible first | apply wr_kept | apply setMeas_kept)

theorem failSlot_kept (s : State) (k : Nat) (hK : Kept qu s) : Kept qu (failSlot s k).1 := by
  unfold failSlot
  repeat' first
    | with_reducible assumption
    | intro _
    | (extract_lets +onlyGivenNames s1; refine Kept.cut (q := qu) s1 ?_ ?_; subst s1; rotate_left; revert s1; intro
        z1; rotate_left)
    | with_reducible apply putBoot_kept

theorem firstSlot_kept (s : State) (hK : Kept qu s) : Kept qu (firstSlot s).1 := by
  unfold firstSlot
  repeat' first
    | with_reducible assumption
    | intro _
    | (extract_lets +onlyGivenNames x1; revert x1; intro y1)
    | (with_reducible first | apply Kept.ite_fst | apply putBoot_kept)
    | split

theorem bootStep2_kept (s : State) (hK : Kept qu s) : Kept qu (bootStep2 s) := by
  unfold bootStep2
  repeat' first
    | with_reducible assumption
    | intro _
    | (with_reducible first
        | apply Kept.ite | apply enterRecovery_kept | apply nextStep_kept | apply runFirst_kept
        | apply failSlot_kept | apply firstSlot_kept)
    | split
    | refine Kept.fst (by with_reducible assumption) ?_

theorem runRim_kept (s : State) (k : Nat) (hK : Kept qu s) : Kept qu (runRim s k) := by
  unfold runRim
  repeat' first
    | with_reducible assumption
    | intro _
    | (extract_lets +onlyGivenNames s1; refine Kept.cut (q := qu) s1 ?_ ?_; subst s1; rotate_left; revert s1; intro
        z1; rotate_left)
    | (extract_lets +onlyGivenNames x1; revert x1; intro y1)
    | (with_reducible first
        | apply Kept.ite | apply wr_kept | apply bump_kept | apply setSec_kept | apply setMeas_kept
        | apply measure5_kept | apply measure4_kept | apply loadSettings_kept | apply dualSettings_kept
        | apply nextStep_kept)

theorem bootStep3_kept (s : State) (hK : Kept qu s) : Kept qu (bootStep3 s) := by
  unfold bootStep3
  repeat' first
    | with_reducible assumption
    | intro _
    | (extract_lets +onlyGivenNames x1; revert x1; intro y1)
    | (with_reducible first
        | apply Kept.ite | apply enterRecovery_kept | apply runFirst_kept | apply failSlot_kept
        | apply runRim_kept)
    | split
    | refine Kept.fst (by with_reducible assumption) ?_

theorem bootStep4_kept (rep : BootReport) (s : State) (hK : Kept qu s) : Kept qu (bootStep4 rep s) := by
  unfold bootStep4
  repeat' first
    | with_reducible assumption
    | intro _
    | (extract_lets +onlyGivenNames s1; refine Kept.cut (q := qu) s1 ?_ ?_; subst s1; rotate_left; revert s1; intro
        z1; rotate_left)
    | (with_reducible first
        | apply Kept.ite | apply wr_kept | apply enterRecovery_kept | apply nextStep_kept | apply Kept.each_)
    | split

theorem openRegion_kept (s : State) (hK : Kept qu s) : Kept qu (openRegion s) := by
  unfold openRegion
  repeat' first
    | with_reducible assumption
    | intro _
    | (extract_lets +onlyGivenNames s1; refine Kept.cut (q := qu) s1 ?_ ?_; subst s1; rotate_left; revert s1; intro
        z1; rotate_left)
    | (extract_lets +onlyGivenNames x1; revert x1; intro y1)
    | (with_reducible first
        | apply Kept.ite | apply wr_kept | apply setFseg_kept | apply t3Recount_kept | apply setPow_kept)

theorem enterService_kept (s : State) (hK : Kept qu s) : Kept qu (enterService s) := by
  unfold enterService
  repeat' first
    | with_reducible assumption
    | intro _
    | (extract_lets +onlyGivenNames s1; refine Kept.cut (q := qu) s1 ?_ ?_; subst s1; rotate_left; revert s1; intro
        z1; rotate_left)
    | (extract_lets +onlyGivenNames x1; revert x1; intro y1)
    | (with_reducible first | apply wr_kept | apply setSec_kept)

theorem bootStep5_kept (rep : BootReport) (s : State) (hK : Kept qu s) : Kept qu (bootStep5 rep s) := by
  unfold bootStep5
  repeat' first
    | with_reducible assumption
    | intro _
    | (extract_lets +onlyGivenNames s1; refine Kept.cut (q := qu) s1 ?_ ?_; subst s1; rotate_left; revert s1; intro
        z1; rotate_left)
    | (with_reducible first
        | apply Kept.ite | apply wr_kept | apply capScan_kept | apply nextStep_kept | apply openRegion_kept
        | apply enterService_kept | apply Kept.each_)

theorem fixedClocks_kept (s : State) (hK : Kept qu s) : Kept qu (fixedClocks s) := by
  unfold fixedClocks
  repeat' first
    | with_reducible assumption
    | intro _
    | (with_reducible first | apply wr_kept | apply Kept.each_)

theorem execBootStepDone_kept (us : Nat) (rep : BootReport) (s : State) (hK : Kept qu s) : KeptOut qu
    (execBootStepDone us rep s) := by
  unfold execBootStepDone
  repeat' first
    | with_reducible assumption
    | intro _
    | (extract_lets +onlyGivenNames s1; refine Kept.cut (q := qu) s1 ?_ ?_; subst s1; rotate_left; revert s1; intro
        z1; rotate_left)
    | (extract_lets +onlyGivenNames x1; revert x1; intro y1)
    | (with_reducible first
        | apply KeptOut.alive | apply Kept.ite | apply wr_kept | apply bump_kept | apply showSlots_kept
        | apply setMeas_kept | apply showFuses_kept | apply enterRecovery_kept | apply nextStep_kept
        | apply bootStep2_kept | apply bootStep3_kept | apply bootStep4_kept | apply bootStep5_kept
        | apply fixedClocks_kept)

theorem execAttachGo_kept (b0 b1 b2 : Nat) (s : State) (hK : Kept qu s) : KeptOut qu (execAttachGo b0 b1 b2 s) := by
  unfold execAttachGo
  repeat' first
    | with_reducible assumption
    | intro _
    | (extract_lets +onlyGivenNames s1; refine Kept.cut (q := qu) s1 ?_ ?_; subst s1; rotate_left; revert s1; intro
        z1; rotate_left)
    | (extract_lets +onlyGivenNames x1; revert x1; intro y1)
    | (with_reducible first
        | apply KeptOut.alive | apply Kept.ite | apply wr_kept | apply wr2_kept | apply enterService_kept
        | apply Kept.each_)

theorem fxModeReq_kept (v : Nat) (s : State) (hK : Kept qu s) : Kept qu (fxModeReq v s) := by
  unfold fxModeReq
  repeat' first
    | with_reducible assumption
    | intro _
    | (extract_lets +onlyGivenNames x1; revert x1; intro y1)
    | (with_reducible first | apply Kept.ite | apply wr_kept)

theorem execModeReq_kept (ag : Agent) (v : Nat) (s : State) (hK : Kept qu s) : KeptOut qu (execModeReq ag v s) := by
  unfold execModeReq
  repeat' first
    | with_reducible assumption
    | intro _
    | (with_reducible first | apply KeptOut.next | apply agentWrite_kept | apply fxModeReq_kept)

theorem fxIslTest_kept (v : Nat) (s : State) (hK : Kept qu s) : Kept qu (fxIslTest v s) := by
  unfold fxIslTest
  repeat' first
    | with_reducible assumption
    | intro _
    | (extract_lets +onlyGivenNames s1; refine Kept.cut (q := qu) s1 ?_ ?_; subst s1; rotate_left; revert s1; intro
        z1; rotate_left)
    | (extract_lets +onlyGivenNames x1; revert x1; intro y1)
    | (with_reducible first | apply Kept.ite | apply wr_kept | apply setBit_kept)

theorem execIslTestGo_kept (ag : Agent) (v : Nat) (s : State) (hK : Kept qu s) : KeptOut qu (execIslTestGo ag v s) := by
  unfold execIslTestGo
  repeat' first
    | with_reducible assumption
    | intro _
    | (with_reducible first | apply KeptOut.next | apply agentWrite_kept | apply fxIslTest_kept)

theorem execIslTestDone_kept (k : Nat) (pass : Bool) (s : State) (hK : Kept qu s) : KeptOut qu (execIslTestDone k
    pass s) := by
  unfold execIslTestDone
  repeat' first
    | with_reducible assumption
    | intro _
    | (extract_lets +onlyGivenNames s1; refine Kept.cut (q := qu) s1 ?_ ?_; subst s1; rotate_left; revert s1; intro
        z1; rotate_left)
    | (with_reducible first
        | apply KeptOut.unit | apply KeptOut.alive | apply Kept.ite | apply wr_kept | apply clrBit_kept)

theorem rcvSend_kept (s : State) (i3c : Bool) (seq : Nat) (body : List Nat) (hK : Kept qu s) : Kept qu (rcvSend s
    i3c seq body) := by
  unfold rcvSend
  repeat' first
    | with_reducible assumption
    | intro _
    | (with_reducible first | apply Kept.ite | apply emit_kept | apply sendMail_kept)

theorem rcvAnswer_kept (s : State) (i3c : Bool) (seq op st : Nat) (hK : Kept qu s) : Kept qu (rcvAnswer s i3c seq op
    st) := by
  unfold rcvAnswer
  repeat' with_reducible first | assumption | apply rcvSend_kept

theorem onRcv_kept (i3c : Bool) (s : State) (k : State) (hK : Kept qu s) (hK1 : Kept qu k) : KeptOut qu (onRcv i3c s
    k) := by
  unfold onRcv
  repeat' first
    | with_reducible assumption
    | intro _
    | (with_reducible first | apply KeptOut.alive | apply Kept.ite)

theorem execRcvInfo_kept (i3c : Bool) (seq : Nat) (s : State) (hK : Kept qu s) : KeptOut qu (execRcvInfo i3c seq s)
    := by
  unfold execRcvInfo
  repeat' first
    | with_reducible assumption
    | intro _
    | (extract_lets +onlyGivenNames s1; refine Kept.cut (q := qu) s1 ?_ ?_; subst s1; rotate_left; revert s1; intro
        z1; rotate_left)
    | (extract_lets +onlyGivenNames x1; revert x1; intro y1)
    | (with_reducible first | apply fresh_kept | apply rcvSend_kept | apply rcvAnswer_kept | apply onRcv_kept)

theorem execRcvBegin_kept (i3c : Bool) (seq kind size : Nat) (s : State) (hK : Kept qu s) : KeptOut qu (execRcvBegin
    i3c seq kind size s) := by
  unfold execRcvBegin
  repeat' first
    | with_reducible assumption
    | intro _
    | (extract_lets +onlyGivenNames s1; refine Kept.cut (q := qu) s1 ?_ ?_; subst s1; rotate_left; revert s1; intro
        z1; rotate_left)
    | (extract_lets +onlyGivenNames x1; revert x1; intro y1)
    | (with_reducible first
        | apply Kept.ite | apply wr_kept | apply setSec_kept | apply rcvAnswer_kept | apply onRcv_kept)

theorem execRcvData_kept (i3c : Bool) (seq off : Nat) (data : List Nat) (s : State) (hK : Kept qu s) : KeptOut qu
    (execRcvData i3c seq off data s) := by
  unfold execRcvData
  repeat' first
    | with_reducible assumption
    | intro _
    | (extract_lets +onlyGivenNames x1; revert x1; intro y1)
    | (with_reducible first
        | apply Kept.ite | apply wr_kept | apply setSec_kept | apply rcvAnswer_kept | apply onRcv_kept)
    | split

theorem execRcvEnd_kept (i3c : Bool) (seq : Nat) (flashOk : Bool) (s : State) (hK : Kept qu s) : KeptOut qu
    (execRcvEnd i3c seq flashOk s) := by
  unfold execRcvEnd
  repeat' first
    | with_reducible assumption
    | intro _
    | (extract_lets +onlyGivenNames s1; refine Kept.cut (q := qu) s1 ?_ ?_; subst s1; rotate_left; revert s1; intro
        z1; rotate_left)
    | (extract_lets +onlyGivenNames x1; revert x1; intro y1)
    | (with_reducible first
        | apply Kept.ite | apply fresh_kept | apply setFlash_kept | apply putBoot_kept | apply rcvAnswer_kept
        | apply onRcv_kept)
    | split

theorem execRcvBoot_kept (i3c : Bool) (seq : Nat) (s : State) (hK : Kept qu s) : KeptOut qu (execRcvBoot i3c seq s)
    := by
  unfold execRcvBoot
  repeat' first
    | with_reducible assumption
    | intro _
    | (with_reducible first | apply Kept.ite | apply warmReset_kept | apply rcvAnswer_kept | apply onRcv_kept)

end Sys2Proof.Machine
end

