-- ==== Sys2Proof/Laws/KeptSecurityExec.lean ====
section
/-! SUPPORT. The operations of `Machine/SecurityExec.lean` keep the queue and the canonical form of the memories. -/

namespace Sys2Proof.Machine

variable {qu : List Instr}

theorem reply_kept (s : State) (r : Reply) (n : Nat) (hK : Kept qu s) : Kept qu (reply s r n) := by
  unfold reply
  repeat' first
    | with_reducible assumption
    | intro _
    | (extract_lets +onlyGivenNames s1; refine Kept.cut (q := qu) s1 ?_ ?_; subst s1; rotate_left; revert s1; intro
        z1; rotate_left)
    | (extract_lets +onlyGivenNames x1; revert x1; intro y1)
    | (with_reducible first
        | apply fresh_kept | apply emit_kept | apply raiseInt_kept | apply sendMail_kept | apply Kept.each_)

theorem onAttest_kept (s : State) (k : State) (hK : Kept qu s) (hK1 : Kept qu k) : KeptOut qu (onAttest s k) := by
  unfold onAttest
  repeat' first
    | with_reducible assumption
    | intro _
    | (with_reducible first | apply KeptOut.alive | apply Kept.ite)

theorem execSetEndpointId_kept (eid : Nat) (s : State) (hK : Kept qu s) : KeptOut qu (execSetEndpointId eid s) := by
  unfold execSetEndpointId
  repeat' with_reducible first | assumption | apply wr_kept | apply reply_kept | apply onAttest_kept

theorem execGetEndpointId_kept (s : State) (hK : Kept qu s) : KeptOut qu (execGetEndpointId s) := by
  unfold execGetEndpointId
  repeat' with_reducible first | assumption | apply reply_kept | apply onAttest_kept

theorem execGetMctpVersionSupport_kept (s : State) (hK : Kept qu s) : KeptOut qu (execGetMctpVersionSupport s) := by
  unfold execGetMctpVersionSupport
  repeat' with_reducible first | assumption | apply reply_kept | apply onAttest_kept

theorem execGetMessageTypeSupport_kept (s : State) (hK : Kept qu s) : KeptOut qu (execGetMessageTypeSupport s) := by
  unfold execGetMessageTypeSupport
  repeat' with_reducible first | assumption | apply reply_kept | apply onAttest_kept

theorem execGetVersion_kept (s : State) (hK : Kept qu s) : KeptOut qu (execGetVersion s) := by
  unfold execGetVersion
  repeat' with_reducible first | assumption | apply reply_kept | apply onAttest_kept

theorem execGetCapabilities_kept (ver : Nat) (s : State) (hK : Kept qu s) : KeptOut qu (execGetCapabilities ver s) := by
  unfold execGetCapabilities
  repeat' first
    | with_reducible assumption
    | intro _
    | (with_reducible first | apply Kept.ite | apply wr_kept | apply reply_kept | apply onAttest_kept)

theorem execNegotiateAlgorithms_kept (s : State) (hK : Kept qu s) : KeptOut qu (execNegotiateAlgorithms s) := by
  unfold execNegotiateAlgorithms
  repeat' with_reducible first | assumption | apply reply_kept | apply onAttest_kept

theorem execGetDigests_kept (s : State) (hK : Kept qu s) : KeptOut qu (execGetDigests s) := by
  unfold execGetDigests
  repeat' with_reducible first | assumption | apply reply_kept | apply onAttest_kept

theorem execGetCertificate_kept (slot off len : Nat) (s : State) (hK : Kept qu s) : KeptOut qu (execGetCertificate
    slot off len s) := by
  unfold execGetCertificate
  repeat' first
    | with_reducible assumption
    | intro _
    | (extract_lets +onlyGivenNames x1; revert x1; intro y1)
    | (with_reducible first | apply Kept.ite | apply reply_kept | apply onAttest_kept)

theorem execChallenge_kept (nonce : Nat) (s : State) (hK : Kept qu s) : KeptOut qu (execChallenge nonce s) := by
  unfold execChallenge
  repeat' first
    | with_reducible assumption
    | (extract_lets +onlyGivenNames x1; revert x1; intro y1)
    | (with_reducible first | apply bump_kept | apply fresh_kept | apply reply_kept | apply onAttest_kept)

theorem execGetMeasurements_kept (sel : Nat) (signed : Bool) (nonce : Nat) (s : State) (hK : Kept qu s) : KeptOut qu
    (execGetMeasurements sel signed nonce s) := by
  unfold execGetMeasurements
  repeat' first
    | with_reducible assumption
    | intro _
    | (extract_lets +onlyGivenNames x1; revert x1; intro y1)
    | (with_reducible first
        | apply Kept.ite | apply bump_kept | apply fresh_kept | apply reply_kept | apply onAttest_kept)

theorem execUnsupportedRequest_kept (s : State) (hK : Kept qu s) : KeptOut qu (execUnsupportedRequest s) := by
  unfold execUnsupportedRequest
  repeat' with_reducible first | assumption | apply reply_kept | apply onAttest_kept

theorem fwuStart_kept (s : State) (op : Nat) (f : State → State × FwuOp) (hK : Kept qu s) (hK1 : ∀ x0, Kept qu x0 →
    Kept qu (f x0).1) : Kept qu (fwuStart s op f) := by
  unfold fwuStart
  repeat' first
    | with_reducible assumption
    | intro _
    | (extract_lets +onlyGivenNames x1; revert x1; intro y1)
    | (with_reducible first | apply hK1 | apply Kept.ite | apply wr_kept | apply setSec_kept)

theorem applyGo_kept (pkg : List Nat) (flashOk : Bool) (s : State) (hK : Kept qu s) : Kept qu (applyGo pkg flashOk
    s).1 := by
  unfold applyGo
  repeat' first
    | with_reducible assumption
    | intro _
    | (extract_lets +onlyGivenNames s1; refine Kept.cut (q := qu) s1 ?_ ?_; subst s1; rotate_left; revert s1; intro
        z1; rotate_left)
    | (extract_lets +onlyGivenNames f1; (have hf : _ → _ := f1); clear hf; subst f1; try beta_reduce)
    | (extract_lets +onlyGivenNames x1; revert x1; intro y1)
    | (with_reducible first | apply Kept.ite | apply Kept.ite_fst | apply setFlash_kept | apply putBoot_kept)
    | split

theorem fxApply_kept (pkg : List Nat) (flashOk : Bool) (s : State) (hK : Kept qu s) : Kept qu (fxApply pkg flashOk
    s) := by
  unfold fxApply
  repeat' first
    | with_reducible assumption
    | intro _
    | (with_reducible first | apply fwuStart_kept | apply applyGo_kept)

theorem fxConfirm_kept (svn : Bool) (s : State) (hK : Kept qu s) : Kept qu (fxConfirm svn s) := by
  unfold fxConfirm
  repeat' first
    | with_reducible assumption
    | intro _
    | (extract_lets +onlyGivenNames s1; refine Kept.cut (q := qu) s1 ?_ ?_; subst s1; rotate_left; revert s1; intro
        z1; rotate_left)
    | (extract_lets +onlyGivenNames x1; revert x1; intro y1)
    | (with_reducible first
        | apply Kept.ite | apply Kept.ite_fst | apply setSec_kept | apply putBoot_kept | apply measure5_kept
        | apply closeDual_kept | apply fwuStart_kept)

theorem fxRevert_kept (s : State) (hK : Kept qu s) : Kept qu (fxRevert s) := by
  unfold fxRevert
  repeat' first
    | with_reducible assumption
    | intro _
    | (extract_lets +onlyGivenNames s1; refine Kept.cut (q := qu) s1 ?_ ?_; subst s1; rotate_left; revert s1; intro
        z1; rotate_left)
    | (extract_lets +onlyGivenNames x1; revert x1; intro y1)
    | (with_reducible first
        | apply Kept.ite_fst | apply putBoot_kept | apply measure5_kept | apply closeDual_kept
        | apply fwuStart_kept)

theorem fxAbort_kept (s : State) (hK : Kept qu s) : Kept qu (fxAbort s) := by
  unfold fxAbort
  repeat' first
    | with_reducible assumption
    | intro _
    | (extract_lets +onlyGivenNames x1; revert x1; intro y1)
    | (with_reducible first | apply Kept.ite | apply wr_kept | apply raiseInt_kept | apply setSec_kept)
    | split

theorem fxKeylist_kept (blob : List Nat) (s : State) (hK : Kept qu s) : Kept qu (fxKeylist blob s) := by
  unfold fxKeylist
  repeat' first
    | with_reducible assumption
    | intro _
    | (extract_lets +onlyGivenNames x1; revert x1; intro y1)
    | (with_reducible first | apply Kept.ite_fst | apply setFlash_kept | apply measure4_kept | apply fwuStart_kept)

theorem fxOwner_kept (blob : List Nat) (s : State) (hK : Kept qu s) : Kept qu (fxOwner blob s) := by
  unfold fxOwner
  repeat' first
    | with_reducible assumption
    | intro _
    | (extract_lets +onlyGivenNames x1; revert x1; intro y1)
    | (with_reducible first | apply Kept.ite_fst | apply setSec_kept | apply measure5_kept | apply fwuStart_kept)

theorem fxDebug_kept (blob : List Nat) (s : State) (hK : Kept qu s) : Kept qu (fxDebug blob s) := by
  unfold fxDebug
  repeat' first
    | with_reducible assumption
    | intro _
    | (with_reducible first
        | apply Kept.ite_fst | apply wr_kept | apply bump_kept | apply fresh_kept | apply measure5_kept
        | apply fwuStart_kept)

theorem fxFwu_kept (v : Nat) (s : State) (hK : Kept qu s) : Kept qu (fxFwu v s) := by
  unfold fxFwu
  repeat' first
    | with_reducible assumption
    | intro _
    | (extract_lets +onlyGivenNames x1; revert x1; intro y1)
    | (with_reducible first
        | apply Kept.ite | apply fresh_kept | apply fxApply_kept | apply fxConfirm_kept | apply fxRevert_kept
        | apply fxAbort_kept | apply fxKeylist_kept | apply fxOwner_kept | apply fxDebug_kept)

theorem fwuWrite_kept (ag : Agent) (v : Nat) (f : State → State) (s : State) (hK : ∀ x0, Kept qu x0 → Kept qu (f
    x0)) (hK1 : Kept qu s) : KeptOut qu (fwuWrite ag v f s) := by
  unfold fwuWrite
  repeat' first
    | with_reducible assumption
    | intro _
    | (with_reducible first | apply hK | apply KeptOut.next | apply agentWrite_kept)

theorem execApply_kept (ag : Agent) (pkg : List Nat) (flashOk : Bool) (s : State) (hK : Kept qu s) : KeptOut qu
    (execApply ag pkg flashOk s) := by
  unfold execApply
  repeat' first
    | with_reducible assumption
    | intro _
    | (with_reducible first | apply fxApply_kept | apply fwuWrite_kept)

theorem execConfirm_kept (ag : Agent) (svnCommit : Bool) (s : State) (hK : Kept qu s) : KeptOut qu (execConfirm ag
    svnCommit s) := by
  unfold execConfirm
  repeat' first
    | with_reducible assumption
    | intro _
    | (with_reducible first | apply fxConfirm_kept | apply fwuWrite_kept)

theorem execRevert_kept (ag : Agent) (s : State) (hK : Kept qu s) : KeptOut qu (execRevert ag s) := by
  unfold execRevert
  repeat' first
    | with_reducible assumption
    | intro _
    | (with_reducible first | apply fxRevert_kept | apply fwuWrite_kept)

theorem execAbort_kept (ag : Agent) (s : State) (hK : Kept qu s) : KeptOut qu (execAbort ag s) := by
  unfold execAbort
  repeat' first
    | with_reducible assumption
    | intro _
    | (with_reducible first | apply fxAbort_kept | apply fwuWrite_kept)

theorem execKeylist_kept (ag : Agent) (blob : List Nat) (s : State) (hK : Kept qu s) : KeptOut qu (execKeylist ag
    blob s) := by
  unfold execKeylist
  repeat' first
    | with_reducible assumption
    | intro _
    | (with_reducible first | apply fxKeylist_kept | apply fwuWrite_kept)

theorem execOwner_kept (ag : Agent) (blob : List Nat) (s : State) (hK : Kept qu s) : KeptOut qu (execOwner ag blob
    s) := by
  unfold execOwner
  repeat' first
    | with_reducible assumption
    | intro _
    | (with_reducible first | apply fxOwner_kept | apply fwuWrite_kept)

theorem execDebug_kept (ag : Agent) (blob : List Nat) (s : State) (hK : Kept qu s) : KeptOut qu (execDebug ag blob
    s) := by
  unfold execDebug
  repeat' first
    | with_reducible assumption
    | intro _
    | (with_reducible first | apply fxDebug_kept | apply fwuWrite_kept)

theorem execFwuOpDone_kept (us : Nat) (s : State) (hK : Kept qu s) : KeptOut qu (execFwuOpDone us s) := by
  unfold execFwuOpDone
  repeat' first
    | with_reducible assumption
    | intro _
    | (extract_lets +onlyGivenNames s1; refine Kept.cut (q := qu) s1 ?_ ?_; subst s1; rotate_left; revert s1; intro
        z1; rotate_left)
    | (extract_lets +onlyGivenNames x1; revert x1; intro y1)
    | (with_reducible first
        | apply KeptOut.alive | apply Kept.ite | apply wr_kept | apply raiseInt_kept | apply setSec_kept
        | apply putBoot_kept | apply warmReset_kept)
    | split

theorem execSettingsSet_kept (id fmt : Nat) (val : List Nat) (flashOk : Bool) (s : State) (hK : Kept qu s) : KeptOut
    qu (execSettingsSet id fmt val flashOk s) := by
  unfold execSettingsSet
  repeat' first
    | with_reducible assumption
    | intro _
    | (extract_lets +onlyGivenNames s1; refine Kept.cut (q := qu) s1 ?_ ?_; subst s1; rotate_left; revert s1; intro
        z1; rotate_left)
    | (extract_lets +onlyGivenNames f1; (have hf : _ → _ := f1); clear hf; subst f1; try beta_reduce)
    | (with_reducible first
        | apply KeptOut.alive | apply Kept.ite | apply fresh_kept | apply sendMail_kept | apply writeStore_kept
        | apply applyValue_kept)

theorem execSettingsMirror_kept (id : Nat) (s : State) (hK : Kept qu s) : KeptOut qu (execSettingsMirror id s) := by
  unfold execSettingsMirror
  repeat' first
    | with_reducible assumption
    | intro _
    | (with_reducible first | apply KeptOut.alive | apply Kept.ite | apply writeStore_kept)

theorem execRimBeat_kept (s : State) (hK : Kept qu s) : KeptOut qu (execRimBeat s) := by
  unfold execRimBeat
  repeat' first
    | with_reducible assumption
    | intro _
    | (with_reducible first | apply KeptOut.alive | apply Kept.ite | apply wr_kept)

theorem execRimWatchdog_kept (rpc : Nat) (s : State) (hK : Kept qu s) : KeptOut qu (execRimWatchdog rpc s) := by
  unfold execRimWatchdog
  repeat' first
    | with_reducible assumption
    | intro _
    | (extract_lets +onlyGivenNames s1; refine Kept.cut (q := qu) s1 ?_ ?_; subst s1; rotate_left; revert s1; intro
        z1; rotate_left)
    | (with_reducible first
        | apply KeptOut.alive | apply Kept.ite | apply wr_kept | apply bump_kept | apply wr2_kept
        | apply raiseInt_kept)

theorem execRimRestartComplete_kept (s : State) (hK : Kept qu s) : KeptOut qu (execRimRestartComplete s) := by
  unfold execRimRestartComplete
  repeat' first
    | with_reducible assumption
    | intro _
    | (with_reducible first | apply KeptOut.alive | apply Kept.ite | apply wr_kept | apply takeMail_kept)

theorem execI3cDynamicAddressAssign_kept (addr : Nat) (s : State) (hK : Kept qu s) : KeptOut qu
    (execI3cDynamicAddressAssign addr s) := by
  unfold execI3cDynamicAddressAssign
  repeat' first
    | with_reducible assumption
    | intro _
    | (extract_lets +onlyGivenNames x1; revert x1; intro y1)
    | (with_reducible first | apply KeptOut.next | apply KeptOut.unit | apply Kept.ite | apply setSec_kept)

theorem execTestPortInstruction_kept (ins : JtagIns) (s : State) (hK : Kept qu s) : KeptOut qu
    (execTestPortInstruction ins s) := by
  unfold execTestPortInstruction
  repeat' first
    | with_reducible assumption
    | intro _
    | (extract_lets +onlyGivenNames s1; refine Kept.cut (q := qu) s1 ?_ ?_; subst s1; rotate_left; revert s1; intro
        z1; rotate_left)
    | (extract_lets +onlyGivenNames x1; revert x1; intro y1)
    | (with_reducible first | apply KeptOut.next | apply Kept.ite | apply emit_kept | apply setSec_kept)
    | (fail_if_no_progress clear_value *; split)

end Sys2Proof.Machine
end

