-- ==== Sys2Proof/Laws/KeptCensusExec.lean ====
section
/-! SUPPORT. The operations of `Machine/CensusExec.lean` keep the queue and the canonical form of the memories. -/

namespace Sys2Proof.Machine

variable {qu : List Instr}

theorem fxPmask_kept (p : Nat) (old s : State) (hK : Kept qu old) (hK1 : Kept qu s) : Kept qu (fxPmask p old s) := by
  unfold fxPmask
  repeat' first
    | with_reducible assumption
    | intro _
    | (extract_lets +onlyGivenNames s1; refine Kept.cut (q := qu) s1 ?_ ?_; subst s1; rotate_left; revert s1; intro
        z1; rotate_left)
    | (extract_lets +onlyGivenNames f1; (have hf : _ → _ := f1); clear hf; subst f1; try beta_reduce)
    | (extract_lets +onlyGivenNames x1; revert x1; intro y1)
    | (with_reducible first | apply wr_kept | apply down_kept | apply clrBit_kept | apply Kept.each_)

theorem fxHset_kept (p : Nat) (old s : State) (hK : Kept qu old) (hK1 : Kept qu s) : Kept qu (fxHset p old s) := by
  unfold fxHset
  repeat' first
    | with_reducible assumption
    | intro _
    | (extract_lets +onlyGivenNames x1; revert x1; intro y1)
    | (with_reducible first
        | apply Kept.ite | apply wr_kept | apply up_kept | apply down_kept | apply setBit_kept | apply clrBit_kept
        | apply Kept.each_)

theorem zeroRegs_kept (s : State) (l : List Nat) (hK : Kept qu s) : Kept qu (zeroRegs s l) := by
  unfold zeroRegs
  repeat' first
    | with_reducible assumption
    | intro _
    | (with_reducible first | apply ww_kept | apply Kept.each_)

theorem fxWveClr_kept (v : Nat) (s : State) (hK : Kept qu s) : Kept qu (fxWveClr v s) := by
  unfold fxWveClr
  repeat' first
    | with_reducible assumption
    | intro _
    | (extract_lets +onlyGivenNames s1; refine Kept.cut (q := qu) s1 ?_ ?_; subst s1; rotate_left; revert s1; intro
        z1; rotate_left)
    | (with_reducible first | apply Kept.ite | apply zeroRegs_kept)

theorem fxStkClr_kept (n v : Nat) (s : State) (hK : Kept qu s) : Kept qu (fxStkClr n v s) := by
  unfold fxStkClr
  repeat' first
    | with_reducible assumption
    | intro _
    | (with_reducible first | apply Kept.ite | apply zeroRegs_kept)

theorem fxBshClr_kept (n v : Nat) (s : State) (hK : Kept qu s) : Kept qu (fxBshClr n v s) := by
  unfold fxBshClr
  repeat' first
    | with_reducible assumption
    | intro _
    | (with_reducible first | apply Kept.ite | apply zeroRegs_kept)

theorem fxFabClr_kept (n v : Nat) (s : State) (hK : Kept qu s) : Kept qu (fxFabClr n v s) := by
  unfold fxFabClr
  repeat' first
    | with_reducible assumption
    | intro _
    | (with_reducible first | apply Kept.ite | apply zeroRegs_kept)

theorem clamp_kept (s : State) (f : Fld) (i lo hi : Nat) (hK : Kept qu s) : Kept qu (clamp s f i lo hi) := by
  unfold clamp
  repeat' with_reducible first | assumption | apply wr_kept

theorem fxTherm_kept (old s : State) (hK : Kept qu old) (hK1 : Kept qu s) : Kept qu (fxTherm old s) := by
  unfold fxTherm
  repeat' first
    | with_reducible assumption
    | intro _
    | (extract_lets +onlyGivenNames f1; (have hf : _ → _ := f1); clear hf; subst f1; try beta_reduce)
    | (with_reducible first | apply Kept.ite | apply wr_kept)

theorem fxHold_kept (s : State) (hK : Kept qu s) : Kept qu (fxHold s) := by
  unfold fxHold
  repeat' first
    | with_reducible assumption
    | intro _
    | (with_reducible first | apply wr_kept | apply clrBit_kept | apply Kept.each_)

theorem fxCopyGo_kept (v : Nat) (s : State) (hK : Kept qu s) : Kept qu (fxCopyGo v s) := by
  unfold fxCopyGo
  repeat' first
    | with_reducible assumption
    | intro _
    | (extract_lets +onlyGivenNames s1; refine Kept.cut (q := qu) s1 ?_ ?_; subst s1; rotate_left; revert s1; intro
        z1; rotate_left)
    | (extract_lets +onlyGivenNames x1; revert x1; intro y1)
    | (with_reducible first | apply Kept.ite | apply wr_kept)
    | (fail_if_no_progress with_reducible apply Kept.mk_other)

theorem execCopyGo_kept (s : State) (hK : Kept qu s) : KeptOut qu (execCopyGo s) := by
  unfold execCopyGo
  repeat' first
    | with_reducible assumption
    | intro _
    | (with_reducible first | apply KeptOut.next | apply agentWrite_kept | apply fxCopyGo_kept)

theorem execCensusCopyDone_kept (written : Nat) (s : State) (hK : Kept qu s) : KeptOut qu (execCensusCopyDone
    written s) := by
  unfold execCensusCopyDone
  repeat' first
    | with_reducible assumption
    | intro _
    | (extract_lets +onlyGivenNames s1; refine Kept.cut (q := qu) s1 ?_ ?_; subst s1; rotate_left; revert s1; intro
        z1; rotate_left)
    | (extract_lets +onlyGivenNames x1; revert x1; intro y1)
    | (with_reducible first
        | apply KeptOut.alive | apply Kept.ite | apply wr_kept | apply emit_kept | apply chargePb_kept
        | apply porterTile_kept)
    | split
    | (fail_if_no_progress with_reducible apply Kept.mk_other)

theorem onReg_kept (f : Fld) (a : Nat) (k : Nat → State) (els : Unit → State) (hK : ∀ x0,  Kept qu (k x0)) (hK1 : ∀
    x0,  Kept qu (els x0)) : Kept qu (onReg f a k els) := by
  unfold onReg
  repeat' first
    | (with_reducible first | apply hK | apply hK1)
    | split

theorem fxLow_kept (old : State) (a v : Nat) (s : State) (hK : Kept qu old) (hK1 : Kept qu s) : Kept qu (fxLow old a
    v s) := by
  unfold fxLow
  repeat' first
    | with_reducible assumption
    | intro _
    | (with_reducible first
        | apply wr_kept | apply fxRingCfg_kept | apply fxDoorbell_kept | apply fxSemVal_kept | apply fxSemErr_kept
        | apply fxLedClr_kept | apply fxRegulator_kept | apply fxResolve_kept | apply fxFltCtrl_kept
        | apply fxFlogBase_kept | apply fxPmask_kept | apply fxHset_kept | apply fxWveClr_kept | apply fxHold_kept
        | apply fxCopyGo_kept | apply onReg_kept)

theorem fxMid_kept (old : State) (a v : Nat) (s : State) (hK : Kept qu old) (hK1 : Kept qu s) : Kept qu (fxMid old a
    v s) := by
  unfold fxMid
  repeat' first
    | with_reducible assumption
    | intro _
    | (with_reducible first
        | apply wr_kept | apply fxFusLink_kept | apply fxMbCtrl_kept | apply fxMbH2r_kept | apply fxIvecMask_kept
        | apply setCap_kept | apply fxLimit_kept | apply fxHb_kept | apply fxCrecAck_kept | apply fxSrel_kept
        | apply fxSoftKey_kept | apply fxModeReq_kept | apply fxIslTest_kept | apply fxFwu_kept | apply clamp_kept
        | apply fxTherm_kept | apply onReg_kept)

theorem fxHigh_kept (old : State) (a v : Nat) (s : State) (hK : Kept qu old) (hK1 : Kept qu s) : Kept qu (fxHigh old
    a v s) := by
  unfold fxHigh
  repeat' first
    | with_reducible assumption
    | intro _
    | (with_reducible first
        | apply wr_kept | apply fxLinkCtrl_kept | apply fxDomCtrl_kept | apply fxDomain_kept
        | apply fxRescanFree_kept | apply fxQpDb_kept | apply fxQpSel_kept | apply fxEthLink_kept
        | apply fxStkClr_kept | apply fxBshClr_kept | apply fxFabClr_kept | apply onReg_kept)

theorem fxOf_kept  : ∀ x0 x1 x2 x3, Kept qu x0 → Kept qu x3 → Kept qu (fxOf x0 x1 x2 x3) := by
  unfold fxOf
  repeat' first
    | with_reducible assumption
    | intro _
    | (with_reducible first | apply Kept.ite | apply fxLow_kept | apply fxMid_kept | apply fxHigh_kept)

theorem execRegisterWrite_kept (ag : Agent) (addr size v : Nat) (s : State) (hK : Kept qu s) : KeptOut qu
    (execRegisterWrite ag addr size v s) := by
  unfold execRegisterWrite
  repeat' first
    | with_reducible assumption
    | intro _
    | (with_reducible first | apply KeptOut.next | apply KeptOut.unit | apply regWrite_kept | apply fxOf_kept)

theorem execRcRead_kept (ag : Agent) (addr size : Nat) (s : State) (hK : Kept qu s) : KeptOut qu (execRcRead ag addr
    size s) := by
  unfold execRcRead
  repeat' with_reducible first | assumption | apply KeptOut.next | apply KeptOut.unit | apply readTo_kept

theorem execLoRead_kept (ag : Agent) (addr : Nat) (s : State) (hK : Kept qu s) : KeptOut qu (execLoRead ag addr s) := by
  unfold execLoRead
  repeat' with_reducible first | assumption | apply KeptOut.next | apply KeptOut.unit | apply readTo_kept

theorem execUnmappedAccess_kept (ag : Agent) (addr : Nat) (isWr : Bool) (s : State) (hK : Kept qu s) : KeptOut qu
    (execUnmappedAccess ag addr isWr s) := by
  unfold execUnmappedAccess
  repeat' first
    | with_reducible assumption
    | intro _
    | (with_reducible first
        | apply KeptOut.next | apply KeptOut.unit | apply Kept.ite | apply noFx_kept | apply regWrite_kept
        | apply readTo_kept)

theorem execHoldWrite_kept (ag : Agent) (v : Nat) (s : State) (hK : Kept qu s) : KeptOut qu (execHoldWrite ag v s) := by
  unfold execHoldWrite
  repeat' first
    | with_reducible assumption
    | intro _
    | (with_reducible first | apply KeptOut.next | apply agentWrite_kept | apply fxHold_kept)

theorem execHoldAck_kept (k : Nat) (s : State) (hK : Kept qu s) : KeptOut qu (execHoldAck k s) := by
  unfold execHoldAck
  repeat' first
    | with_reducible assumption
    | intro _
    | (with_reducible first
        | apply KeptOut.unit | apply KeptOut.alive | apply Kept.ite | apply wr_kept | apply setBit_kept)

theorem lockWrite_kept (ag : Agent) (page v : Nat) (s : State) (hK : Kept qu s) : KeptOut qu (lockWrite ag page v s)
    := by
  unfold lockWrite
  repeat' first
    | with_reducible assumption
    | intro _
    | (with_reducible first | apply KeptOut.next | apply KeptOut.unit | apply noFx_kept | apply regWrite_kept)

theorem execLockAcq_kept (ag : Agent) (page : Nat) (s : State) (hK : Kept qu s) : KeptOut qu (execLockAcq ag page s)
    := by
  unfold execLockAcq
  repeat' with_reducible first | assumption | apply lockWrite_kept

theorem execLockRel_kept (ag : Agent) (page : Nat) (s : State) (hK : Kept qu s) : KeptOut qu (execLockRel ag page s)
    := by
  unfold execLockRel
  repeat' with_reducible first | assumption | apply lockWrite_kept

theorem execLockSeal_kept (ag : Agent) (page : Nat) (s : State) (hK : Kept qu s) : KeptOut qu (execLockSeal ag page
    s) := by
  unfold execLockSeal
  repeat' with_reducible first | assumption | apply lockWrite_kept

theorem execPmaskWrite_kept (ag : Agent) (p v : Nat) (s : State) (hK : Kept qu s) : KeptOut qu (execPmaskWrite ag p
    v s) := by
  unfold execPmaskWrite
  repeat' first
    | with_reducible assumption
    | intro _
    | (with_reducible first | apply KeptOut.next | apply KeptOut.unit | apply agentWrite_kept | apply fxPmask_kept)

theorem execHsetWrite_kept (ag : Agent) (p v : Nat) (s : State) (hK : Kept qu s) : KeptOut qu (execHsetWrite ag p v
    s) := by
  unfold execHsetWrite
  repeat' first
    | with_reducible assumption
    | intro _
    | (with_reducible first | apply KeptOut.next | apply KeptOut.unit | apply agentWrite_kept | apply fxHset_kept)

theorem execLclr_kept (ag : Agent) (s : State) (hK : Kept qu s) : KeptOut qu (execLclr ag s) := by
  unfold execLclr
  repeat' first
    | with_reducible assumption
    | intro _
    | (with_reducible first | apply KeptOut.next | apply agentWrite_kept | apply fxWveClr_kept)

theorem execRclr_kept (ag : Agent) (s : State) (hK : Kept qu s) : KeptOut qu (execRclr ag s) := by
  unfold execRclr
  repeat' first
    | with_reducible assumption
    | intro _
    | (with_reducible first | apply KeptOut.next | apply agentWrite_kept | apply fxWveClr_kept)

theorem execStkFclr_kept (ag : Agent) (n : Nat) (s : State) (hK : Kept qu s) : KeptOut qu (execStkFclr ag n s) := by
  unfold execStkFclr
  repeat' first
    | with_reducible assumption
    | intro _
    | (with_reducible first | apply KeptOut.next | apply KeptOut.unit | apply agentWrite_kept | apply fxStkClr_kept)

theorem execBshFclr_kept (ag : Agent) (n : Nat) (s : State) (hK : Kept qu s) : KeptOut qu (execBshFclr ag n s) := by
  unfold execBshFclr
  repeat' first
    | with_reducible assumption
    | intro _
    | (with_reducible first | apply KeptOut.next | apply KeptOut.unit | apply agentWrite_kept | apply fxBshClr_kept)

theorem execFabFclr_kept (ag : Agent) (n : Nat) (s : State) (hK : Kept qu s) : KeptOut qu (execFabFclr ag n s) := by
  unfold execFabFclr
  repeat' first
    | with_reducible assumption
    | intro _
    | (with_reducible first | apply KeptOut.next | apply KeptOut.unit | apply agentWrite_kept | apply fxFabClr_kept)

theorem regAnswer_kept (s : State) (dev req v : Nat) (hK : Kept qu s) : Kept qu (regAnswer s dev req v) := by
  unfold regAnswer
  repeat' with_reducible first | assumption | apply route_kept

theorem execReg_kept (n : Nat) (h : FlitHdr) (req : Nat) (isWr : Bool) (size v : Nat) (s : State) (hK : Kept qu s) :
    KeptOut qu (execReg n h req isWr size v s) := by
  unfold execReg
  repeat' first
    | with_reducible assumption
    | intro _
    | (extract_lets +onlyGivenNames s1; refine Kept.cut (q := qu) s1 ?_ ?_; subst s1; rotate_left; revert s1; intro
        z1; rotate_left)
    | (extract_lets +onlyGivenNames x1; revert x1; intro y1)
    | (with_reducible first
        | apply Kept.ite | apply bump_kept | apply regWrite_kept | apply regRead_kept | apply onFlit_kept
        | apply fxOf_kept | apply regAnswer_kept)

theorem execRegrsp_kept (n : Nat) (h : FlitHdr) (req v : Nat) (s : State) (hK : Kept qu s) : KeptOut qu (execRegrsp
    n h req v s) := by
  unfold execRegrsp
  repeat' first
    | with_reducible assumption
    | intro _
    | (extract_lets +onlyGivenNames x1; revert x1; intro y1)
    | with_reducible apply onFlit_kept
    | split
    | (fail_if_no_progress with_reducible apply Kept.mk_other)

theorem forwardReg_kept (s : State) (d off size : Nat) (isWr : Bool) (v : Nat) (hK : Kept qu s) : Kept qu
    (forwardReg s d off size isWr v) := by
  unfold forwardReg
  repeat' first
    | with_reducible assumption
    | intro _
    | (extract_lets +onlyGivenNames s1; refine Kept.cut (q := qu) s1 ?_ ?_; subst s1; rotate_left; revert s1; intro
        z1; rotate_left)
    | (extract_lets +onlyGivenNames x1; revert x1; intro y1)
    | (with_reducible first | apply Kept.ite | apply route_kept)
    | (fail_if_no_progress with_reducible apply Kept.mk_other)

theorem execDomainApertureAccess_kept (off size : Nat) (isWr : Bool) (v : Nat) (s : State) (hK : Kept qu s) :
    KeptOut qu (execDomainApertureAccess off size isWr v s) := by
  unfold execDomainApertureAccess
  repeat' first
    | with_reducible assumption
    | intro _
    | (extract_lets +onlyGivenNames x1; revert x1; intro y1)
    | (with_reducible first
        | apply KeptOut.next | apply KeptOut.unit | apply Kept.ite | apply regWrite_kept | apply readTo_kept
        | apply fxOf_kept | apply forwardReg_kept)
    | (fail_if_no_progress with_reducible apply Kept.mk_other)

end Sys2Proof.Machine
end

