-- ==== Sys2Proof/Laws/KeptTick.lean ====
section
/-! SUPPORT. The operations of `Machine/Tick.lean` keep the queue and the canonical form of the memories. -/

namespace Sys2Proof.Machine

variable {qu : List Instr}

theorem fillBucket_kept (s : State) (p k : Nat) (hK : Kept qu s) : Kept qu (fillBucket s p k) := by
  unfold fillBucket
  repeat' first
    | with_reducible assumption
    | intro _
    | (extract_lets +onlyGivenNames x1; revert x1; intro y1)
    | (with_reducible first | apply Kept.ite | apply setBucket_kept)

theorem islandCycles_kept (s : State) (n : Nat) (hK : Kept qu s) : Kept qu (islandCycles s n) := by
  unfold islandCycles
  repeat' first
    | with_reducible assumption
    | intro _
    | (extract_lets +onlyGivenNames s1; refine Kept.cut (q := qu) s1 ?_ ?_; subst s1; rotate_left; revert s1; intro
        z1; rotate_left)
    | (extract_lets +onlyGivenNames x1; revert x1; intro y1)
    | (with_reducible first | apply Kept.ite | apply bump_kept | apply fresh_kept | apply setIsl_kept)

theorem islandTime_kept (s : State) (n : Nat) (hK : Kept qu s) : Kept qu (islandTime s n) := by
  unfold islandTime
  repeat' first
    | with_reducible assumption
    | intro _
    | (with_reducible first | apply Kept.ite | apply islNs_kept)
    | split

theorem tick_kept (s : State) (hK : Kept qu s) : Kept qu (tick s) := by
  unfold tick
  repeat' first
    | with_reducible assumption
    | intro _
    | (extract_lets +onlyGivenNames s1; refine Kept.cut (q := qu) s1 ?_ ?_; subst s1; rotate_left; revert s1; intro
        z1; rotate_left)
    | (with_reducible first
        | apply Kept.ite | apply fillBucket_kept | apply islandCycles_kept | apply islandTime_kept
        | apply Kept.each_)
    | (fail_if_no_progress with_reducible apply Kept.mk_other)

end Sys2Proof.Machine
end

