-- ==== Sys2Proof/Laws/Safety.lean ====
section
/-! SUPPORT. What the notions of Safety give at once: an engine command at its turn, an open register, a flit taken in. -/

namespace Sys2Proof.Machine

/-- Nothing but the commands' own table changes when an engine takes a command. -/
theorem takeCmd_rest (s : State) (c : Cmd) : takeCmd s c = { s with front := (takeCmd s c).front } := by
  unfold takeCmd noteStarted modCmd
  split
  · rfl
  · split
    · split <;> rfl
    · rfl

@[simp] theorem takeCmd_regs (s : State) (c : Cmd) : (takeCmd s c).regs = s.regs := by rw [takeCmd_rest]
@[simp] theorem takeCmd_mem (s : State) (c : Cmd) : (takeCmd s c).mem = s.mem := by rw [takeCmd_rest]
@[simp] theorem takeCmd_fab (s : State) (c : Cmd) : (takeCmd s c).fab = s.fab := by rw [takeCmd_rest]
@[simp] theorem takeCmd_wve (s : State) (c : Cmd) : (takeCmd s c).wve = s.wve := by rw [takeCmd_rest]
@[simp] theorem takeCmd_srv (s : State) (c : Cmd) : (takeCmd s c).srv = s.srv := by rw [takeCmd_rest]
@[simp] theorem takeCmd_skl (s : State) (c : Cmd) : (takeCmd s c).skl = s.skl := by rw [takeCmd_rest]
@[simp] theorem takeCmd_hst (s : State) (c : Cmd) : (takeCmd s c).hst = s.hst := by rw [takeCmd_rest]
@[simp] theorem takeCmd_pow (s : State) (c : Cmd) : (takeCmd s c).pow = s.pow := by rw [takeCmd_rest]
@[simp] theorem takeCmd_sec (s : State) (c : Cmd) : (takeCmd s c).sec = s.sec := by rw [takeCmd_rest]
@[simp] theorem takeCmd_fv (s : State) (c : Cmd) : (takeCmd s c).fv = s.fv := by rw [takeCmd_rest]
@[simp] theorem takeCmd_now (s : State) (c : Cmd) : (takeCmd s c).now = s.now := by rw [takeCmd_rest]
@[simp] theorem rd_takeCmd (s : State) (c : Cmd) (f : Fld) (i : Nat) : rd (takeCmd s c) f i = rd s f i := by
  unfold rd rw; rw [takeCmd_regs]
@[simp] theorem rw_takeCmd (s : State) (c : Cmd) (a : Nat) : rw (takeCmd s c) a = rw s a := by
  unfold rw; rw [takeCmd_regs]

/-- A command at its turn: its meaning runs on it, the state after it is its own. -/
theorem onCmd_turn {s : State} {r i op : Nat} {c : Cmd} (h : Turn s r i op c) (f : Cmd → State → State) :
    onCmd r i op s f = .next (claimed c r i (f (going c) (takeCmd s c))) := by
  have i := h.idx
  simp only [onCmd, onUnit, live, h.ring, decide_eq_true i, h.awake, h.at_, claimed, going, Bool.and_self, if_true]

/-- The command of a turn is the one the table holds. -/
theorem Turn.get {s : State} {r i op : Nat} {c : Cmd} (h : Turn s r i op c) : getCmd s r i = some c := by
  have h := h.at_
  unfold turnOf at h
  split at h
  · cases h
  · next d e =>
    split at h
    · cases h
    · split at h
      · cases h
      · split at h
        · cases h; exact e
        · split at h
          · cases h
          · split at h
            · split at h
              · cases h; exact e
              · cases h
            · cases h

theorem getCmd_ids {s : State} {r i : Nat} {c : Cmd} (h : getCmd s r i = some c) : c.ring = r ∧ c.idx = i := by
  have := List.find?_some h
  simpa using this

theorem Turn.ids {s : State} {r i op : Nat} {c : Cmd} (h : Turn s r i op c) : c.ring = r ∧ c.idx = i := getCmd_ids h.get

/-- A register write that is served: the plain write of the word, then the register's action. -/
theorem regWrite_open {s : State} {ag : Agent} {a : Nat} (h : Open s ag a) (h4 : a % 4 = 0) (v : Nat) (fx : WriteFx) :
    regWrite ag a 4 v fx s = writeWord ag fx s a (v % 2 ^ 32) := by
  simp [regWrite, h.reach, h.page, h.free, h4, sealWord, h.clear]

theorem writeWord_fx {ag : Agent} {a : Nat} (h : a % 0x1000 < 0xF00) (fx : WriteFx) (s : State) (v : Nat) :
    writeWord ag fx s a v = fx s a v (stored ag a v s) := by
  have : ¬ a % 0x1000 ≥ 0xF00 := by omega
  simp only [stored, writeWord, if_neg this, noFx]

/-- An agent's write of a register that is served. -/
theorem agentWrite_open {s : State} {ag : Agent} {f : Fld} {i : Nat} (h : Open s ag (f.addr i)) (h4 : f.addr i % 4 = 0)
    (hb : f.addr i % 0x1000 < 0xF00) (v : Nat) (fx : State → State → State) :
    agentWrite ag f i v fx s = fx s (stored ag (f.addr i) (v % 2 ^ 32) s) := by
  rw [agentWrite, regWrite_open h h4, writeWord_fx hb]

/-- A flit taken in goes to its meaning. -/
theorem onFlit_received {s t : State} {n vc : Nat} {h : FlitHdr} (r : Received s n vc h t) (f : State → State) :
    onFlit n vc h s f = .next (f t) := by
  have := r.flows
  simp [onFlit, onUnit, live, r.unit, r.awake, r.taken]
  intro a b; exact absurd ⟨a, b⟩ this

end Sys2Proof.Machine
end

