-- ==== Sys2Proof/Tests/Setup.lean ====
section
/-! SUPPORT. Small states the tests and the witnesses of the statements stand on. -/

namespace Sys2Proof.Machine

/-- Fields of a state take values: field, instance, value. -/
def put (s : State) (l : List (Fld × Nat × Nat)) : State := l.foldl (fun s e => wr s e.1 e.2.1 e.2.2) s

/-- A device in SERVICE: the firmware runs and the host link is up. -/
def svc : State := put State.reset
  [(Reg.RST_MODE, 0, 0), (Reg.FUS_LINK_STAT_UP, 0, 1), (Reg.RIM_STAT_RUN0, 0, 1), (Reg.RIM_STAT_RUN1, 0, 1)]

/-- Island `n` runs rounds for binding 0. -/
def runIsl (s : State) (n : Nat) : State := setIsl s n { Island.idle with bind := some 0, released := true }

/-- A program word: operation code and the rest. -/
def pword (op rest : Nat) : DWord := BitVec.ofNat 64 (op * 2 ^ 58 + rest)

/-- Stake `k` runs and stands at a word. -/
def stakeOn (k op rest : Nat) (x : Stake) : State :=
  let s := runIsl svc (k / 32)
  { s with fab := { s.fab with stk := [(k, x)], stkProg := [(512 * k + x.pc, pword op rest)] } }

/-- Engine `e` of bushel `b` runs and stands at a word. -/
def tallyOn (b e op rest : Nat) (y : Bushel) : State :=
  let s := runIsl svc (b / 32)
  { s with fab := { s.fab with bsh := [(b, y)], bshProg := [(64 * (2 * b + e) + (y.eng.getD e Tally.idle).pc, pword op rest)] } }

theorem stakeReady_of (s : State) (k op : Nat) (h : (decide (k < 1024) && awake s && stkAtOp s k op) = true) :
    StakeReady s k op := by
  simp only [Bool.and_eq_true, decide_eq_true_eq] at h
  exact ⟨h.1.1, h.1.2, h.2⟩

theorem tallyReady_of (s : State) (b e op : Nat)
    (h : (decide (b < 1024) && decide (e < 2) && awake s && tallyAt s b e op) = true) : TallyReady s b e op := by
  simp only [Bool.and_eq_true, decide_eq_true_eq] at h
  exact ⟨h.1.1, h.1.2, h.2⟩

theorem open_of (s : State) (ag : Agent) (a : Nat)
    (h : (decide (reach s ag (a / 0x1000) = .open_) && pageExists (a / 0x1000) && !lockedOut s ag a &&
      decide (rd s Reg.HDR_LOCK_SEALED (a / 0x1000) = 0)) = true) : Open s ag a := by
  simp only [Bool.and_eq_true, decide_eq_true_eq, Bool.not_eq_true'] at h
  exact ⟨h.1.1.1, h.1.1.2, h.1.2, h.2⟩

/-- A command as it stands dispatched: ring, index, operation code, engine, and fields of its descriptor by offset. -/
def cmdOf (r i op eng : Nat) (l : List (Nat × Nat)) : Cmd :=
  { ring := r, idx := i, desc := BitVec.ofNat 512 (l.foldl (fun a e => a + e.2 * 2 ^ (8 * e.1)) op), engine := eng,
    st := .dispatched, taken := false, finished := false, status := 0, sub := 0, progress := 0, result := 0, cost := 0, total := 0,
    yOnce := false, yReason := 0, semErr := false, time := 0, bind := none, mref := none, colWait := false, arv := 0, landed := [],
    fails := [], begun := [], oldSlot := none, ready := false }

/-- Commands in flight. -/
def flight (s : State) (l : List Cmd) : State := { s with front := { s.front with inflight := l } }

theorem turn_of (s : State) (r i op : Nat) (c : Cmd)
    (h : (ringOk r && decide (i < 2 ^ 32) && awake s && decide (turnOf s r i op = some c)) = true) : Turn s r i op c := by
  simp only [Bool.and_eq_true, decide_eq_true_eq] at h
  exact ⟨h.1.1.1, h.1.1.2, h.1.2, h.2⟩

theorem turns_of (s : Nat → State) (c : Nat → Cmd) (r i : Nat) (l : List Nat)
    (h : (l.all fun op => ringOk r && decide (i < 2 ^ 32) && awake (s op) && decide (turnOf (s op) r i op = some (c op))) = true) :
    ∀ op ∈ l, Turn (s op) r i op (c op) := fun op m => turn_of _ _ _ _ _ (List.all_eq_true.1 h op m)

/-- Page `g` of partition `p` has the level-3 entry `e`, its tables standing. -/
def mapped (p g e : Nat) : State := setL3 (setL2 (setL1 (put svc [(Reg.XLT_ROOT_VALID, p, 1)]) p g 2) p g 2) p g e

/-- A LOCAL page of T2, readable and writable, in frame `f`. -/
def t2Page (f : Nat) : Nat := 2 + 4 + 8 + f * 2 ^ 12

theorem opens_of (s : State) (ag : Agent) (l : List Nat)
    (h : (l.all fun a => decide (reach s ag (a / 0x1000) = .open_) && pageExists (a / 0x1000) && !lockedOut s ag a &&
      decide (rd s Reg.HDR_LOCK_SEALED (a / 0x1000) = 0)) = true) : ∀ a ∈ l, Open s ag a :=
  fun a m => open_of s ag a (List.all_eq_true.1 h a m)

/-- The state behind a gate that lets go. -/
def goneOf : Gate → Option State
  | .go u => some u
  | _ => none
theorem gone_of (g : Gate) (u : State) (h : goneOf g = some u) : g = .go u := by
  cases g with
  | go v => simp only [goneOf, Option.some.injEq] at h; rw [h]
  | _ => simp [goneOf] at h
theorem go_of (g : Gate) (h : (goneOf g).isSome = true) : ∃ u, g = .go u :=
  (Option.isSome_iff_exists.1 h).imp fun u => gone_of g u

theorem granted_of (s : State) (p : Nat) (h : HeldReq) (r w : List (Nat × Nat))
    (b : ((goneOf (gateAll s p false h (r.filter fun e => decide (e.2 ≠ 0)))).bind fun u =>
      goneOf (gates s u p true true h (w.filter fun e => decide (e.2 ≠ 0)))).isSome = true) : ∃ t, Granted s p h r w t := by
  obtain ⟨t, e⟩ := Option.isSome_iff_exists.1 b
  obtain ⟨u, hu, ht⟩ := Option.bind_eq_some_iff.1 e
  exact ⟨t, ⟨u, gone_of _ _ hu, gone_of _ _ ht⟩⟩

/-- What a service command's first reads leave, where they go. -/
def peek (s : State) (r i : Nat) (reads : List (Nat × Nat)) : Option State :=
  if (reads.filter fun e => decide (e.2 ≠ 0)).foldl
      (fun a e => if a = .ok then probe s (partOf r) e.1 e.2 false else a) Acc.ok = .ok
  then goneOf (gates s s (partOf r) false false (.service r i) (reads.filter fun e => decide (e.2 ≠ 0))) else none
theorem peeked_of (s : State) (r i : Nat) (l : List (Nat × Nat)) (t : State) (h : peek s r i l = some t) : Peeked s r i l t := by
  unfold peek at h
  split at h
  · exact ⟨‹_›, gone_of _ _ h⟩
  · cases h

theorem received_of (s : State) (n vc : Nat) (h : FlitHdr)
    (b : (sklOk n && awake s && !(decide (vc = 0) && s.pow.pfail) && (receive s n vc h).2) = true) :
    Received s n vc h (receive s n vc h).1 := by
  simp only [Bool.and_eq_true, Bool.not_eq_true', Bool.and_eq_false_iff, decide_eq_false_iff_not] at b
  refine ⟨b.1.1.1, b.1.1.2, ?_, by rw [← b.2]⟩
  rintro ⟨h0, h1⟩
  rcases b.1.2 with h | h
  · exact h h0
  · rw [h1] at h; cases h
theorem someD {α : Type} (o : Option α) (d : α) (h : o.isSome = true) : o = some (o.getD d) := by
  cases o with
  | some x => rfl
  | none => cases h
/-- A flit's header, its CRC good, no field set. -/
def hdr0 : FlitHdr := ⟨0, 0, 0, 0, 0, 0, 0, 0, false, 0, true⟩
theorem granted_reads (s : State) (p : Nat) (h : HeldReq) (r : List (Nat × Nat))
    (b : (goneOf (gateAll s p false h (r.filter fun e => decide (e.2 ≠ 0)))).isSome = true) :
    Granted s p h r [] ((goneOf (gateAll s p false h (r.filter fun e => decide (e.2 ≠ 0)))).getD svc) :=
  ⟨_, gone_of _ _ (someD _ svc b), rfl⟩

end Sys2Proof.Machine
end

