-- ==== Sys2Proof/Tests/Slice0.lean ====
section
/-! SUPPORT. Tests of the model: an ill-formed term for each check of WellFormed, which the check refuses; and small
tests of one command each, their expected values worked from the rule their comment names. -/

namespace Sys2Proof.Tests

open Machine

set_option Elab.async false

def hdr : FlitHdr := ⟨0, 0, 0, 0, 0, 0, 0, 0, false, 0, true⟩
def peer : PeerInfo := ⟨0, 0, false, false, false, false⟩
def wreq : EthWr := ⟨false, 0, 0, 0, 0, 0, 0⟩
def cxl : CxlDev := ⟨false, 0, false, 0, 0, 0⟩

/-- Ill-formed terms from stakeNop to ldx. -/
theorem test_wellFormed_refuses_stakeNop_ldx : (
    [.stakeNop 1024, .mtile ⟨1024, false⟩, .vset 1024, .vrun 1024, .vconst 1024, .octl 1024, .stakeLoop 1024, .waith 1024,
     .relh 1024, .stakeSync 1024, .stakeEnd 1024, .tileDrain 1024 [] false, .tileVerdict ⟨1024, false⟩,
     .recomputeDone ⟨1024, false⟩ [], .tallyNop 1024 0, .tallyNop 0 2, .seti 1024 0, .seti 0 2, .setv 1024 0, .setv 0 2,
     .addi 1024 0, .addi 0 2, .madd 1024 0, .madd 0 2, .ldx 1024 0, .ldx 0 2] : List Instr).all (fun c => !c.wellFormed) = true := by decide +kernel

/-- Ill-formed terms from tallyLoop to mergeWaitExpiry. -/
theorem test_wellFormed_refuses_tallyLoop_mergeWaitExpiry : (
    [.tallyLoop 1024 0, .tallyLoop 0 2, .acq 1024 0, .acq 0 2, .rel 1024 0, .rel 0 2, .rd 1024 0 none, .rd 0 2 none,
     .wr 1024 0, .wr 0 2, .fetch 1024 0, .fetch 0 2, .store 1024 0, .store 0 2, .hpush 1024 0, .hpush 0 2,
     .htake 1024 0, .htake 0 2, .hret 1024 0, .hret 0 2, .tallySync 1024 0, .tallySync 0 2, .tallyEnd 1024 0,
     .tallyEnd 0 2, .requestIssue 1024, .mergeWaitExpiry 1024 0] : List Instr).all (fun c => !c.wellFormed) = true := by decide +kernel

/-- Ill-formed terms from arrivalLand to lastRound. -/
theorem test_wellFormed_refuses_arrivalLand_lastRound : (
    [.arrivalLand 1024 0, .storeAck 1024 0, .verdictSignal 1024 ⟨0, false⟩, .verdictSignal 0 ⟨1024, false⟩, .replayRequest 1024 0 ⟨0, false⟩,
     .replayRequest 0 2 ⟨0, false⟩, .replayRequest 0 0 ⟨1024, false⟩, .handleReturn ⟨1024, false⟩, .bushelDone 1024, .linkBeat 32 0 0 0 [],
     .linkBeat 0 64 0 0 [], .linkBeat 0 0 8 0 [], .linkBeat 0 0 0 16 [], .crossingDeliver 32 0 ⟨0, 0⟩,
     .crossingDeliver 0 64 ⟨0, 0⟩, .crossingDeliver 0 0 ⟨4, 0⟩, .crossingDeliver 0 0 ⟨0, 3⟩, .fullChange 32 0 ⟨0, 0⟩, .fullChange 0 64 ⟨0, 0⟩,
     .fullChange 0 0 ⟨4, 0⟩, .fullChange 0 0 ⟨0, 3⟩,
     .holdReceive 32 0, .holdReceive 0 4, .roundEnd 32, .skipEnd 32, .deadlockLimit 32 0, .deadlockLimit 0 64,
     .lastRound 32] : List Instr).all (fun c => !c.wellFormed) = true := by decide +kernel

/-- Ill-formed terms from islandDone to resumeBoundary. -/
theorem test_wellFormed_refuses_islandDone_resumeBoundary : (
    [.islandDone 32 0 0, .load 64 0, .load 0 (2 ^ 32), .loadComplete 32, .invoke 64 0, .invoke 0 (2 ^ 32),
     .islandRelease 32 0, .replace 64 0, .replace 0 (2 ^ 32), .drainSwitch 32, .carryOldUnload 32, .relocate 64 0,
     .relocate 0 (2 ^ 32), .unload 64 0, .unload 0 (2 ^ 32), .bindingDrained 32, .yieldFull 64 0,
     .yieldFull 0 (2 ^ 32), .yieldBoundary 64 0, .yieldBoundary 0 (2 ^ 32), .yieldQuiesced 32, .yieldSaveDone 32,
     .resumeFull 64 0, .resumeFull 0 (2 ^ 32), .resumeBoundary 64 0, .resumeBoundary 0 (2 ^ 32)] : List Instr).all (fun c => !c.wellFormed) = true := by decide +kernel

/-- Ill-formed terms from resumeProceed to hint. -/
theorem test_wellFormed_refuses_resumeProceed_hint : (
    [.resumeProceed 64 0, .resumeProceed 0 (2 ^ 32), .restoreDone 64 0 false, .restoreDone 0 (2 ^ 32) false,
     .abandon 64 0, .abandon 0 (2 ^ 32), .modelSet 64 0, .modelSet 0 (2 ^ 32), .modelStage 64 0,
     .modelStage 0 (2 ^ 32), .modelSwap 64 0, .modelSwap 0 (2 ^ 32), .move 64 0, .move 0 (2 ^ 32), .map 64 0,
     .map 0 (2 ^ 32), .unmap 64 0, .unmap 0 (2 ^ 32), .protect 64 0, .protect 0 (2 ^ 32), .pin 64 0, .pin 0 (2 ^ 32),
     .unpin 64 0, .unpin 0 (2 ^ 32), .hint 64 0, .hint 0 (2 ^ 32)] : List Instr).all (fun c => !c.wellFormed) = true := by decide +kernel

/-- Ill-formed terms from migrate to retryAll. -/
theorem test_wellFormed_refuses_migrate_retryAll : (
    [.migrate 64 0, .migrate 0 (2 ^ 32), .shadow 64 0, .shadow 0 (2 ^ 32), .poison 64 0, .poison 0 (2 ^ 32),
     .unpoison 64 0, .unpoison 0 (2 ^ 32), .admitSlot 64 0, .admitSlot 0 (2 ^ 32), .unadmit 64 0,
     .unadmit 0 (2 ^ 32), .porterTile (.cmdTile 64 0) .clean, .porterTile (.cmdTile 0 (2 ^ 32)) .clean,
     .porterTile (.bushel 1024 0) .clean, .arrivalTile 64 0 0, .arrivalTile 0 (2 ^ 32) 0, .zeroFill 8 0,
     .zeroFill 0 (2 ^ 36), .detectionRepair 8 0 0 false, .detectionRepair 0 (2 ^ 36) 0 false, .detectionRepair 0 0 5 false,
     .faultLogWrite 8, .faultYieldWait 32, .resolveWrite .host 8 0, .failseqWrite .host 8 0, .retryAll .host 8] : List Instr).all (fun c => !c.wellFormed) = true := by decide +kernel

/-- Ill-formed terms from failAll to pick. -/
theorem test_wellFormed_refuses_failAll_pick : (
    [.failAll .host 8, .flogRdWrite .host 8 0, .flogBaseWrite .host 8 false 0, .nop 64 0, .nop 0 (2 ^ 32),
     .semSet 64 0, .semSet 0 (2 ^ 32), .doorbell .host 64 0, .commandFetch 64, .commandDispatch 64,
     .commandRetire 64 0, .commandRetire 0 (2 ^ 32), .completionWrite 64, .coalTimeout 64, .ringEnWrite .host 64 0,
     .ringByld .host 64, .ringBres .host 64, .ringReset .host 64, .regulatorWrite .host 8 0 0,
     .regulatorWrite .host 0 3 0, .slotSet 64 0, .slotSet 0 (2 ^ 32), .slotClose 64 0, .slotClose 0 (2 ^ 32),
     .pick 64 0, .pick 0 (2 ^ 32)] : List Instr).all (fun c => !c.wellFormed) = true := by decide +kernel

/-- Ill-formed terms from verify to build. -/
theorem test_wellFormed_refuses_verify_build : (
    [.verify 64 0, .verify 0 (2 ^ 32), .countAdd 64 0, .countAdd 0 (2 ^ 32), .idxSetup 64 0, .idxSetup 0 (2 ^ 32),
     .lookup 64 0, .lookup 0 (2 ^ 32), .insert 64 0, .insert 0 (2 ^ 32), .publish 64 0, .publish 0 (2 ^ 32),
     .release 64 0, .release 0 (2 ^ 32), .pause 64 0, .pause 0 (2 ^ 32), .evict 64 0, .evict 0 (2 ^ 32),
     .recomputeSpan 64 0, .recomputeSpan 0 (2 ^ 32), .repair 64 0, .repair 0 (2 ^ 32), .walkerMigrationDone 8 0,
     .walkerMigrationDone 0 (2 ^ 24), .reclRdWrite .host 8 0, .build 64 0] : List Instr).all (fun c => !c.wellFormed) = true := by decide +kernel

/-- Ill-formed terms from build to rddata. -/
theorem test_wellFormed_refuses_build_rddata : (
    [.build 0 (2 ^ 32), .groupSet 64 0, .groupSet 0 (2 ^ 32), .groupClear 64 0, .groupClear 0 (2 ^ 32),
     .allreduce 64 0, .allreduce 0 (2 ^ 32), .allgather 64 0, .allgather 0 (2 ^ 32), .reducescatter 64 0,
     .reducescatter 0 (2 ^ 32), .alltoall 64 0, .alltoall 0 (2 ^ 32), .barrier 64 0, .barrier 0 (2 ^ 32),
     .rowstat 64 0, .rowstat 0 (2 ^ 32), .cready 32 hdr 0 0 0 0 0, .cdata 32 hdr [], .ccredit 32 hdr,
     .cabort 32 hdr 0 0, .collectiveTimeout 16, .flitWr 32 hdr 0 [] .clean, .wrack 32 hdr 0 0,
     .rdreq 32 hdr 0 .clean, .rddata 32 hdr 0 0 []] : List Instr).all (fun c => !c.wellFormed) = true := by decide +kernel

/-- Ill-formed terms from reg to ethWrite. -/
theorem test_wellFormed_refuses_reg_ethWrite : (
    [.reg 32 hdr 0 false 0 0, .regrsp 32 hdr 0 0, .intr 32 hdr 0, .mgmtNak 32 hdr 0, .mgmtAck 32 hdr 0, .ackTimer 32,
     .portTrained 32 peer, .portTrainFail 32, .portDown 32, .linkCtrlEn .host 32 0, .skeinRetrain .host 32,
     .hostApertureAccess (2 ^ 40) 1 false false 0, .lineRecall (2 ^ 48), .recallDone (2 ^ 48), .recallTimeout (2 ^ 48),
     .ivecMaskWrite .host 64 0, .intSet .host 0x4A 0, .intSet .host 0x70 0, .rescan .host 8 cxl, .capOffline 8 false,
     .capRetrain 8 none, .qpDb .host 2 0, .qpSelWrite .host 2 0, .ethWrite 2 1 wreq] : List Instr).all (fun c => !c.wellFormed) = true := by decide +kernel

/-- Ill-formed terms from ethWrite to lockSeal. -/
theorem test_wellFormed_refuses_ethWrite_lockSeal : (
    [.ethWrite 0 0 wreq, .ethWrite 0 512 wreq, .ethRead 2 1 wreq [], .ethRead 0 0 wreq [], .ethRead 0 512 wreq [],
     .ethSend 2 1 wreq, .ethSend 0 0 wreq, .ethSend 0 512 wreq, .ethLinkChange 2 false, .tempSample 176 0,
     .droopDetect 40 0 0 0, .droopDetect 0 2 0 0, .thermalTargetFall 8, .thermalTargetRise 8, .vrcStatPoll 4 0 false,
     .stepPrepared 32 0, .clockSwitch 32 0, .stepResume 32, .powerOnReset 64 false false, .islTestDone 32 false,
     .holdAck 6, .lockAcq .host 0x4A, .lockAcq .host 0x70, .lockRel .host 0x4A, .lockRel .host 0x70,
     .lockSeal .host 0x4A] : List Instr).all (fun c => !c.wellFormed) = true := by decide +kernel

/-- Ill-formed terms from lockSeal to pfcPauseFrameReceive. -/
theorem test_wellFormed_refuses_lockSeal_pfcPauseFrameReceive : (
    [.lockSeal .host 0x70, .pmaskWrite .host 8 0, .hsetWrite .host 8 0, .stkFclr .host 32, .bshFclr .host 32,
     .fabFclr .host 32, .rcRead .host 0x4000000 0, .loRead .host 0x4, .unmappedAccess .host 0x4000000 false,
     .unmappedAccess .host 0x49FFC false, .registerWrite .host 0x4000000 0 0, .droopRecovery 40,
     .domainApertureAccess (2 ^ 32) 0 false 0, .i3cDynamicAddressAssign 128, .pfcPauseFrameReceive 2 0,
     .pfcPauseFrameReceive 0 8] : List Instr).all (fun c => !c.wellFormed) = true := by decide +kernel

/-- The state a command answers, or the state it found. -/
def after (i : Instr) (s : State) : State := match exec i s with
  | .next t => t
  | _ => s

/-- R33, R34: 500 goes to E4M3 as 448 (0x7E) saturating and as NaN (0x7F) not; 65,536 to E5M2 as 57,344 (0x7B) or
infinity (0x7C); a tie goes to even (17 halfway between 16 and 18 in E4M3, code 0x58). -/
theorem test_narrow : (fpEncode fmtE4m3 .even true (.num false 500 0)).bits = 0x7E ∧
    (fpEncode fmtE4m3 .even false (.num false 500 0)).bits = 0x7F ∧
    (fpEncode fmtE5m2 .even true (.num false 1 16)).bits = 0x7B ∧
    (fpEncode fmtE5m2 .even false (.num false 1 16)).bits = 0x7C ∧
    (fpEncode fmtE4m3 .even true (.num false 17 0)).bits = 0x58 := by decide +kernel

/-- R35: a block of 32 whose largest magnitude is 6 goes to E2M1 under scale 2^0 (code 127), 6 as code 7; a NaN in it makes
the scale 0xFF and every code 0. -/
theorem test_mxBlock : (mxBlock 9 true (List.replicate 32 .even) (.num false 6 0 :: List.replicate 31 (.num false 0 0))).1 = 127 ∧
    ((mxBlock 9 true (List.replicate 32 .even) (.num false 6 0 :: List.replicate 31 (.num false 0 0))).2.map (·.bits)).head? = some 7 ∧
    (mxBlock 9 true (List.replicate 32 .even) (.nan :: List.replicate 31 (.num false 6 0))).1 = 0xFF ∧
    ((mxBlock 9 true (List.replicate 32 .even) (.nan :: List.replicate 31 (.num false 6 0))).2.all fun c => c.bits == 0) = true := by
  decide +kernel

def x7 (v : Nat) : Bushel := { Bushel.idle with eng := [Tally.idle, { Tally.idle with x := [0, 0, 0, 0, 0, 0, 0, v] }] }
def regOf (s : State) (b e k : Nat) : Nat := ((bsh s b).eng.getD e Tally.idle).x.getD k 0

/-- R104, R105: SETI X5 with IMM 0xFFFFFFFF gives 2^64 - 1. -/
theorem test_seti : regOf (after (.seti 1023 1) (tallyOn 1023 1 0x01 (5 * 2 ^ 55 + 0xFFFFFFFF) (x7 0))) 1023 1 5 = 2 ^ 64 - 1 := by
  decide +kernel
/-- R103: ADDI X7 ← X7 + 1 wraps, source and destination the same. -/
theorem test_addi : regOf (after (.addi 0 1) (tallyOn 0 1 0x03 (7 * 2 ^ 55 + 7 * 2 ^ 52 + 1) (x7 (2 ^ 64 - 1)))) 0 1 7 = 0 := by
  decide +kernel
/-- R104, R105: MADD X1 ← X0 + X7 × 0xFFFF, IMM unsigned; only X1 changes. -/
theorem test_madd : let t := after (.madd 0 1) (tallyOn 0 1 0x04 (1 * 2 ^ 55 + 7 * 2 ^ 49 + 0xFFFF) (x7 3))
    regOf t 0 1 1 = 196605 ∧ regOf t 0 1 7 = 3 ∧ regOf t 0 1 0 = 0 := by decide +kernel

/-- R435: the board takes a free lock; the host's attempt is refused and counted; the board gives it back. -/
theorem test_lock : let s := after (.lockAcq .board 8) svc
    rd s Reg.HDR_LOCK_HELD 8 = 1 ∧ rd s Reg.HDR_LOCK_HOLDER 8 = 1 ∧
    rd (after (.lockAcq .host 8) s) Reg.HDR_LOCK_HOLDER 8 = 1 ∧
    rd (after (.lockAcq .host 8) s) Reg.HDR_LOCK_REFUSED 8 = 1 ∧
    rd (after (.lockRel .board 8) s) Reg.HDR_LOCK_HELD 8 = 0 := by decide +kernel

/-- R374: a LIMIT below 1,200 W is clamped to 1,200, and EFF_CAP shows it at once. -/
theorem test_limit : rd (after (.limitWrite .host 1000) svc) Reg.PWR_CAP_CTRL_LIMIT 0 = 1200 ∧
    rd (after (.limitWrite .host 1000) svc) Reg.PWR_EFF_CAP 0 = 1200 := by decide +kernel

/-- R369: a temperature sensor that reads 151 °C is marked invalid and counted; 150 °C stands. -/
theorem test_temp : rd (after (.tempSample 175 1208) svc) Reg.SCL_TEMP_VALID 175 = 0 ∧
    rd (after (.tempSample 175 1200) svc) Reg.SCL_TEMP_VALID 175 = 1 := by decide +kernel

/-- Assumption 41: an empty queue lets the time of one step pass. -/
theorem test_idle_step : (step State.reset) = .next (tick State.reset) := by rfl
/-- A command with a unit the device lacks stops by its name. -/
theorem test_noSuchUnit : (match exec (.stakeNop 1024) svc with
  | .fault f => f == .noSuchUnit
  | _ => false) = true := by decide +kernel

end Sys2Proof.Tests
end

