-- ==== Sys2Proof/Tests/WitnessFabric.lean ====
section
/-! SUPPORT. Witnesses of the statements on stakes, bushels, switches and rounds: states and operands that meet their hypotheses. -/

namespace Sys2Proof.Tests

open Machine

set_option Elab.async false

theorem witness_StakeControl_nop : StakeReady (stakeOn 1023 0x00 0 Stake.idle) 1023 0x00 := stakeReady_of _ _ _ (by decide +kernel)
theorem witness_StakeControl_vset : StakeReady (stakeOn 1023 0x03 (5 * 2 ^ 55) Stake.idle) 1023 0x03 :=
  stakeReady_of _ _ _ (by decide +kernel)
theorem witness_StakeControl_vconst : StakeReady (stakeOn 0 0x05 (7 * 2 ^ 52) Stake.idle) 0 0x05 :=
  stakeReady_of _ _ _ (by decide +kernel)
theorem witness_StakeControl_octl : StakeReady (stakeOn 31 0x06 0 Stake.idle) 31 0x06 := stakeReady_of _ _ _ (by decide +kernel)
theorem witness_StakeControl_settled : vecSettled Stake.idle = true := by decide
/-- A stake whose vector run has begun. -/
def runBegun : Stake := { Stake.idle with vec := { Vec.idle with run := some ⟨pword 0x04 (3 * 2 ^ 56 + 9), 1, [], [], []⟩ } }
theorem witness_StakeControl_waits : vecSettled runBegun = false ∧ StakeReady (stakeOn 0 0x03 0 runBegun) 0 0x03 ∧
    StakeReady (stakeOn 0 0x05 0 runBegun) 0 0x05 ∧ StakeReady (stakeOn 0 0x06 0 runBegun) 0 0x06 :=
  ⟨by decide, stakeReady_of _ _ _ (by decide +kernel), stakeReady_of _ _ _ (by decide +kernel), stakeReady_of _ _ _ (by decide +kernel)⟩
theorem witness_StakeControl_loop : StakeReady (stakeOn 32 0x07 (511 * 2 ^ 49) Stake.idle) 32 0x07 :=
  stakeReady_of _ _ _ (by decide +kernel)
/-- SYNC on every unit, all idle; and with a tile unverified. -/
theorem witness_StakeControl_sync : StakeReady (stakeOn 0 0x0A (15 * 2 ^ 54) Stake.idle) 0 0x0A ∧
    syncDone Stake.idle (0x0A * 2 ^ 58 + 15 * 2 ^ 54) = true := ⟨stakeReady_of _ _ _ (by decide +kernel), by decide +kernel⟩
theorem witness_StakeControl_end : StakeReady (stakeOn 1023 0x0B 0 { Stake.idle with pc := 511 }) 1023 0x0B :=
  stakeReady_of _ _ _ (by decide +kernel)

/-- Stake 1023 at an MTILE of one column of one index and one row for the bypass, its operands there. -/
def bypassOn : State := stakeOn 1023 0x01 (3 * 2 ^ 54 + 3 * 2 ^ 50 + 2 ^ 34 + 2 ^ 29 + 2 ^ 27 + 1)
  { Stake.idle with inq := List.replicate 4 (List.replicate 2 (mkBeat 0 false)) }

theorem witness_StakeCompute_mtile : let s := stakeOn 0 0x01 1 Stake.idle
    StakeReady s 0 0x01 ∧ (stk s 0).mt = none ∧ (stk s 0).byp = none ∧ takesBypass (stk s 0) (0x01 * 2 ^ 58 + 1) = false :=
  ⟨stakeReady_of _ _ _ (by decide +kernel), by decide +kernel⟩
theorem witness_StakeCompute_bypass : let x := stk bypassOn 1023
    StakeReady bypassOn 1023 0x01 ∧ x.mt = none ∧ x.byp = none ∧
      takesBypass x (stkWord bypassOn 1023 x.pc).toNat = true ∧ x.vec.run = none ∧ x.tile = none :=
  ⟨stakeReady_of _ _ _ (by decide +kernel), by decide +kernel⟩
/-- A stake whose array has a run of one tile. -/
def arrayBusy : Stake := { Stake.idle with mt := some ⟨pword 0x01 1, 0, 1, false⟩ }
theorem witness_StakeCompute_busy : StakeReady (stakeOn 5 0x01 1 arrayBusy) 5 0x01 ∧ arrayBusy.mt.isSome = true :=
  ⟨stakeReady_of _ _ _ (by decide +kernel), by decide⟩
theorem witness_StakeCompute_vrun : StakeReady (stakeOn 31 0x04 0 Stake.idle) 31 0x04 ∧ vrunReady Stake.idle = true :=
  ⟨stakeReady_of _ _ _ (by decide +kernel), by decide⟩
theorem witness_StakeCompute_vrun_waits : StakeReady (stakeOn 31 0x04 0 runBegun) 31 0x04 ∧ vrunReady runBegun = false :=
  ⟨stakeReady_of _ _ _ (by decide +kernel), by decide⟩

/-- An array word of one index and one row, checked. -/
def tileWord : DWord := pword 0x01 (3 * 2 ^ 54 + 3 * 2 ^ 50 + 2 ^ 34 + 2 ^ 29 + 2 ^ 25 + 1)
/-- Stake 1023 with a tile of one index and one row to drain: the word, and its feeds. -/
def drainOn : State := let s := runIsl svc 31
  { s with fab := { s.fab with stk := [(1023, { Stake.idle with
    mt := some ⟨tileWord, 0, 1, false⟩
    inq := List.replicate 4 (List.replicate 2 (mkBeat 0 false)) })] } }

theorem witness_TileDrain : ∃ fa fb, let m : MtRun := ⟨tileWord, 0, 1, false⟩
    let x := stk (pullStk drainOn 1023) 1023
    let w := m.word.toNat
    awake drainOn = true ∧ (stk drainOn 1023).mt = some m ∧ mayRun drainOn (1023 / 32) (.stake 1023 [6]) = true ∧
    (stk drainOn 1023).tile = none ∧ (stk drainOn 1023).recomp = false ∧ (bits w 23 2 = 0 → x.vec.drain = []) ∧
    feedA w (x.inq.getD 0 []) = some fa ∧ bPanel x m.kept w (x.inq.getD 1 []) = some fb := by
  obtain ⟨fa, ha⟩ := Option.isSome_iff_exists.1 (show (feedA tileWord.toNat
    ((stk (pullStk drainOn 1023) 1023).inq.getD 0 [])).isSome = true by decide +kernel)
  obtain ⟨fb, hb⟩ := Option.isSome_iff_exists.1 (show (bPanel (stk (pullStk drainOn 1023) 1023) false tileWord.toNat
    ((stk (pullStk drainOn 1023) 1023).inq.getD 1 [])).isSome = true by decide +kernel)
  exact ⟨fa, fb, by decide +kernel, by decide +kernel, by decide +kernel, by decide +kernel, by decide +kernel,
    by decide +kernel, ha, hb⟩

/-- A tile of zeros, checked. -/
def zeroTile : DTile := ⟨tileWord, 0, 0, false, false, true, [], []⟩
/-- Stake 1023 with such a tile; `r`: it is being recomputed, its replay beats there. -/
def tileOn (r : Bool) : State := let s := runIsl svc 31
  { s with fab := { s.fab with stk := [(1023, { Stake.idle with
    tile := some zeroTile, recomp := r, rep := if r then List.replicate 4 (List.replicate 2 (mkBeat 0 false)) else [[], [], [], []] })] } }

theorem witness_TileVerdict : let s := tileOn false
    awake s = true ∧ (stk s 1023).tile = some zeroTile ∧ (stk s 1023).recomp = false ∧ verdictMay s 1023 = true := by
  decide +kernel
theorem witness_TileVerdict_recompute : ∃ fa fb, let s := tileOn true
    let x := stk s 1023
    let w := zeroTile.word.toNat
    awake s = true ∧ x.tile = some zeroTile ∧ x.recomp = true ∧ inRounds s (1023 / 32) = true ∧
      feedA w (x.rep.getD 0 []) = some fa ∧ bPanel x (!zeroTile.tookB) w (x.rep.getD 1 []) = some fb := by
  obtain ⟨fa, ha⟩ := Option.isSome_iff_exists.1 (show (feedA zeroTile.word.toNat
    ((stk (tileOn true) 1023).rep.getD 0 [])).isSome = true by decide +kernel)
  obtain ⟨fb, hb⟩ := Option.isSome_iff_exists.1 (show (bPanel (stk (tileOn true) 1023) (!zeroTile.tookB) zeroTile.word.toNat
    ((stk (tileOn true) 1023).rep.getD 1 [])).isSome = true by decide +kernel)
  exact ⟨fa, fb, by decide +kernel, by decide +kernel, by decide +kernel, by decide +kernel, ha, hb⟩
theorem witness_TileVerdict_pass : (stk (tileOn false) 1023).relq = [] := by decide +kernel

/-- Stake 0, its handles `hs` from direction 1, at a word; bushel 0 to its east holds `q`. -/
def handOn (op rest : Nat) (hs : List Nat) (t : Option DTile) (q : List (Nat × Nat)) : State :=
  let s := stakeOn 0 op rest { Stake.idle with hand := [[], hs, [], []], tile := t }
  { s with fab := { s.fab with bsh := [(0, { Bushel.idle with hq := q })] } }

theorem witness_StakeHandles_waith : let s := handOn 0x08 (1 * 2 ^ 56) [] none [(0, 3)]
    StakeReady s 0 0x08 ∧ bshAt 0 (bits (curWord s 0) 56 2) = some 0 ∧ handleFor s 0 (bits (curWord s 0) 56 2) = some 0 ∧
      bits 0 16 12 = runEpoch s (0 / 32) := ⟨stakeReady_of _ _ _ (by decide +kernel), by decide +kernel⟩
theorem witness_StakeHandles_foreign : let s := handOn 0x08 (1 * 2 ^ 56) [] none [(2 ^ 16, 3)]
    StakeReady s 0 0x08 ∧ bshAt 0 (bits (curWord s 0) 56 2) = some 0 ∧
      handleFor s 0 (bits (curWord s 0) 56 2) = some (2 ^ 16) ∧ bits (2 ^ 16) 16 12 ≠ runEpoch s (0 / 32) :=
  ⟨stakeReady_of _ _ _ (by decide +kernel), by decide +kernel⟩
theorem witness_StakeHandles_none : let s := handOn 0x08 (1 * 2 ^ 56) [] none []
    StakeReady s 0 0x08 ∧ bshAt 0 (bits (curWord s 0) 56 2) = some 0 ∧
      handleFor s 0 (bits (curWord s 0) 56 2) = none ∧ bit (stk s 0).mode 0 = false :=
  ⟨stakeReady_of _ _ _ (by decide +kernel), by decide +kernel⟩
/-- A release behind a tile that held the handle, and one of a handle the stake does not have. -/
theorem witness_StakeHandles_behind : let z := { zeroTile with hands := [[], [7], [], []] }
    let s := handOn 0x09 (1 * 2 ^ 56 + 1 * 2 ^ 54 + 2 ^ 53) [7] (some z) []
    StakeReady s 0 0x09 ∧ (stk s 0).tile = some z ∧ (stk s 0).relq = [] ∧
      ((stk s 0).hand.getD (bits (curWord s 0) 56 2) [])[0]? = some 7 ∧ 7 ∈ z.hands.getD (bits (curWord s 0) 56 2) [] :=
  ⟨stakeReady_of _ _ _ (by decide +kernel), by decide +kernel⟩
theorem witness_StakeHandles_absent : let s := handOn 0x09 (1 * 2 ^ 56) [] none []
    StakeReady s 0 0x09 ∧ (stk s 0).hand.getD (bits (curWord s 0) 56 2) [] = [] ∧ (stk s 0).relq = [] :=
  ⟨stakeReady_of _ _ _ (by decide +kernel), by decide +kernel⟩
theorem witness_StakeHandles_return : let s := handOn 0x09 (1 * 2 ^ 56) [7] none []
    StakeReady s 0 0x09 ∧ (stk s 0).tile = none ∧ (stk s 0).relq = [] ∧ bit (curWord s 0) 53 = false ∧
      bshAt 0 (bits (curWord s 0) 56 2) = some 0 ∧ (stk s 0).hand.getD (bits (curWord s 0) 56 2) [] = [7] :=
  ⟨stakeReady_of _ _ _ (by decide +kernel), by decide +kernel⟩
/-- A forward into a queue of `n` handles. -/
def forwardOn (n : Nat) : State := handOn 0x09 (1 * 2 ^ 56 + 1 * 2 ^ 54 + 2 ^ 53) [2 ^ 28] none (List.replicate n (0, 0))
theorem witness_StakeHandles_forward : let s := forwardOn 15
    StakeReady s 0 0x09 ∧ (stk s 0).tile = none ∧ (stk s 0).relq = [] ∧ bit (curWord s 0) 53 = true ∧
      bshAt 0 (bits (curWord s 0) 54 2) = some 0 ∧ (bsh s 0).hq.length < 16 ∧
      (stk s 0).hand.getD (bits (curWord s 0) 56 2) [] = [2 ^ 28] :=
  ⟨stakeReady_of _ _ _ (by decide +kernel), by decide +kernel⟩
theorem witness_StakeHandles_forward_full : let s := forwardOn 16
    StakeReady s 0 0x09 ∧ (stk s 0).tile = none ∧ (stk s 0).relq = [] ∧ bit (curWord s 0) 53 = true ∧
      bshAt 0 (bits (curWord s 0) 54 2) = some 0 ∧ 16 ≤ (bsh s 0).hq.length ∧ bit (stk s 0).mode 0 = false :=
  ⟨stakeReady_of _ _ _ (by decide +kernel), by decide +kernel⟩

/-! ### Bushels -/

theorem witness_TallyRegisters_nop : TallyReady (tallyOn 0 0 0x00 0 Bushel.idle) 0 0 0x00 := tallyReady_of _ _ _ _ (by decide +kernel)
theorem witness_TallyRegisters_seti : TallyReady (tallyOn 1023 1 0x01 (7 * 2 ^ 55 + 2 ^ 31) Bushel.idle) 1023 1 0x01 :=
  tallyReady_of _ _ _ _ (by decide +kernel)
theorem witness_TallyRegisters_setv : TallyReady (tallyOn 31 0 0x02 15 Bushel.idle) 31 0 0x02 := tallyReady_of _ _ _ _ (by decide +kernel)
theorem witness_TallyRegisters_addi : TallyReady (tallyOn 32 1 0x03 0 Bushel.idle) 32 1 0x03 := tallyReady_of _ _ _ _ (by decide +kernel)
theorem witness_TallyRegisters_madd : TallyReady (tallyOn 5 0 0x04 0xFFFF Bushel.idle) 5 0 0x04 := tallyReady_of _ _ _ _ (by decide +kernel)
/-- The last word of the SRAM, the first beyond it, and a word with a byte of bad parity. -/
theorem witness_TallyRegisters_ldx : let s := tallyOn 5 0 0x05 0x17FFF8 Bushel.idle
    (TallyReady s 5 0 0x05 ∧ 0x17FFF8 % 8 = 0 ∧ 0x17FFF8 + 8 ≤ 0x180000 ∧ badByte s 5 0x17FFF8 8 = none) ∧
    (TallyReady (tallyOn 5 0 0x05 0x180000 Bushel.idle) 5 0 0x05 ∧ 0x180000 < 0x180000 + 8) ∧
    (TallyReady (setPar s 5 0x17FFFF true) 5 0 0x05 ∧ badByte (setPar s 5 0x17FFFF true) 5 0x17FFF8 8 = some 0x17FFFF) :=
  ⟨⟨tallyReady_of _ _ _ _ (by decide +kernel), by decide +kernel⟩, ⟨tallyReady_of _ _ _ _ (by decide +kernel), by decide⟩,
    tallyReady_of _ _ _ _ (by decide +kernel), by decide +kernel⟩
theorem witness_TallyRegisters_sync : let s := tallyOn 5 0 0x10 (3 * 2 ^ 56) Bushel.idle
    TallyReady s 5 0 0x10 ∧ (bsh s 5).reqs = [] := ⟨tallyReady_of _ _ _ _ (by decide +kernel), by decide +kernel⟩
theorem witness_TallyRegisters_end : TallyReady (tallyOn 5 1 0x11 0 Bushel.idle) 5 1 0x11 := tallyReady_of _ _ _ _ (by decide +kernel)

/-- A loop whose count is the word's limit, and one whose register count exceeds it. -/
theorem witness_TallyRings_loop :
    TallyReady (tallyOn 5 0 0x06 (2 ^ 52 + 0xFFFFFF) Bushel.idle) 5 0 0x06 ∧
    (let y : Bushel := { Bushel.idle with eng := [{ Tally.idle with x := [2, 0, 0, 0, 0, 0, 0, 0] }, Tally.idle] }
     let s := tallyOn 5 0 0x06 (2 ^ 51 + 1) y
     TallyReady s 5 0 0x06 ∧ bits (tallyWord s 5 0) 0 24 < xreg (bsh s 5) 0 (bits (tallyWord s 5 0) 48 3)) :=
  ⟨tallyReady_of _ _ _ _ (by decide +kernel), tallyReady_of _ _ _ _ (by decide +kernel), by decide +kernel⟩

/-- A ring of two slots in these states. -/
def ring2 (a b : Slot) : Ring := ⟨BitVec.ofNat 64 (2 ^ 16 + 2 ^ 31), [a, b], 0, 0⟩
def ringsOn (op rest : Nat) (a b : Slot) : State := tallyOn 5 0 op rest { Bushel.idle with rings := [ring2 a b] }

theorem witness_TallyRings_acq_full : let z : Slot := { Slot.fresh with st := .full }
    let s := ringsOn 0x07 (2 ^ 54) z z
    TallyReady s 5 0 0x07 ∧ (bsh s 5).rings[bits (tallyWord s 5 0) 55 3]? = some (ring2 z z) ∧ bit (tallyWord s 5 0) 54 = true ∧
      ((ring2 z z).slots.getD 0 Slot.fresh).st = .full ∧ ((ring2 z z).slots.getD 0 Slot.fresh).refetch = false :=
  ⟨tallyReady_of _ _ _ _ (by decide +kernel), by decide +kernel⟩
theorem witness_TallyRings_acq_free : let s := ringsOn 0x07 0 Slot.fresh Slot.fresh
    TallyReady s 5 0 0x07 ∧ (bsh s 5).rings[bits (tallyWord s 5 0) 55 3]? = some (ring2 Slot.fresh Slot.fresh) ∧
      bit (tallyWord s 5 0) 54 = false ∧ ((ring2 Slot.fresh Slot.fresh).slots.getD 0 Slot.fresh).st = .free :=
  ⟨tallyReady_of _ _ _ _ (by decide +kernel), by decide +kernel⟩
theorem witness_TallyRings_rel_consumer : let z : Slot := { Slot.fresh with st := .draining 0 }
    let s := ringsOn 0x08 (2 ^ 54) Slot.fresh z
    TallyReady s 5 0 0x08 ∧ (bsh s 5).rings[bits (tallyWord s 5 0) 55 3]? = some (ring2 Slot.fresh z) ∧
      bit (tallyWord s 5 0) 54 = true ∧ oldestSlot (ring2 Slot.fresh z) 0
        (fun z => match z.st with | .draining _ => true | _ => false) = some 1 :=
  ⟨tallyReady_of _ _ _ _ (by decide +kernel), by decide +kernel⟩
theorem witness_TallyRings_rel_producer : let z : Slot := { Slot.fresh with st := .filling 0 }
    let s := ringsOn 0x08 0 z Slot.fresh
    TallyReady s 5 0 0x08 ∧ (bsh s 5).rings[bits (tallyWord s 5 0) 55 3]? = some (ring2 z Slot.fresh) ∧
      bit (tallyWord s 5 0) 54 = false ∧ oldestSlot (ring2 z Slot.fresh) 0 (fun z => z.st == .filling 0 && !z.relp) = some 0 :=
  ⟨tallyReady_of _ _ _ _ (by decide +kernel), by decide +kernel⟩
theorem witness_TallyRings_rel_none : let s := ringsOn 0x08 0 Slot.fresh Slot.fresh
    TallyReady s 5 0 0x08 ∧ (bsh s 5).rings[bits (tallyWord s 5 0) 55 3]? = some (ring2 Slot.fresh Slot.fresh) ∧
      bit (tallyWord s 5 0) 54 = false ∧
      oldestSlot (ring2 Slot.fresh Slot.fresh) 0 (fun z => z.st == .filling 0 && !z.relp) = none :=
  ⟨tallyReady_of _ _ _ _ (by decide +kernel), by decide +kernel⟩

/-- A run of one 64-byte beat that ends at the SRAM's last byte, from offset `o`. -/
def streamOn (op o rest : Nat) : State := tallyOn 5 0 op (2 * 2 ^ 50 + o * 2 ^ 28 + 2 ^ 12 + rest) Bushel.idle

theorem witness_TallyStreams_rd : let s := streamOn 0x09 0x17FFC0 0
    let w := tallyWord s 5 0
    TallyReady s 5 0 0x09 ∧ bits w 28 21 + widthOf (bits w 50 2) * bits w 12 16 = 0x180000 ∧
      ((bsh s 5).rd.getD (bits w 56 2) []).length < 2 ∧ bit w 49 = false :=
  ⟨tallyReady_of _ _ _ _ (by decide +kernel), by decide +kernel⟩
theorem witness_TallyStreams_rd_kept : let s := streamOn 0x09 0 (2 ^ 49)
    let w := tallyWord s 5 0
    TallyReady s 5 0 0x09 ∧ bits w 28 21 + widthOf (bits w 50 2) * bits w 12 16 ≤ 0x180000 ∧
      ((bsh s 5).rd.getD (bits w 56 2) []).length < 2 ∧ bit w 49 = true ∧ 0 < (bsh s 5).eng.length ∧ slotOf (bsh s 5) 0 = none :=
  ⟨tallyReady_of _ _ _ _ (by decide +kernel), by decide +kernel⟩
/-- The same from a slot of a ring. -/
theorem witness_TallyStreams_rd_slot : let r := ring2 { Slot.fresh with st := .draining 0 } Slot.fresh
    let s := tallyOn 5 0 0x09 (2 * 2 ^ 50 + 2 ^ 49 + 2 ^ 12) { Bushel.idle with rings := [r] }
    TallyReady s 5 0 0x09 ∧ slotOf (bsh s 5) 0 = some (0, 0) ∧ (bsh s 5).rings[0]? = some r :=
  ⟨tallyReady_of _ _ _ _ (by decide +kernel), by decide +kernel⟩
theorem witness_TallyStreams_rd_waits : let q : RdRun := ⟨0, none, 0, 64, 1, 0, false, false, false⟩
    let s := tallyOn 5 0 0x09 (2 * 2 ^ 50 + 2 ^ 12) { Bushel.idle with rd := [[q, q], [], [], []] }
    let w := tallyWord s 5 0
    TallyReady s 5 0 0x09 ∧ bits w 28 21 + widthOf (bits w 50 2) * bits w 12 16 ≤ 0x180000 ∧
      2 ≤ ((bsh s 5).rd.getD (bits w 56 2) []).length := ⟨tallyReady_of _ _ _ _ (by decide +kernel), by decide +kernel⟩
theorem witness_TallyStreams_wr : let s := streamOn 0x0A 0x17FFC0 (3 * 2 ^ 56)
    let w := tallyWord s 5 0
    TallyReady s 5 0 0x0A ∧ bits w 28 21 + widthOf (bits w 50 2) * bits w 12 16 = 0x180000 ∧
      ((bsh s 5).wr.getD (bits w 56 2) []).length < 2 := ⟨tallyReady_of _ _ _ _ (by decide +kernel), by decide +kernel⟩
theorem witness_TallyStreams_outside : (TallyReady (streamOn 0x09 0x17FFFF 0) 5 0 0x09 ∧ TallyReady (streamOn 0x0A 0x17FFFF 0) 5 0 0x0A) ∧
    let w := tallyWord (streamOn 0x09 0x17FFFF 0) 5 0
    0x180000 < bits w 28 21 + widthOf (bits w 50 2) * bits w 12 16 :=
  ⟨⟨tallyReady_of _ _ _ _ (by decide +kernel), tallyReady_of _ _ _ _ (by decide +kernel)⟩, by decide +kernel⟩

/-- A request of one line whose SRAM address is in register 1. -/
def offOn (op a n : Nat) : State := tallyOn 5 0 op (2 ^ 32 + 2 ^ 52)
  { Bushel.idle with eng := [{ Tally.idle with x := [0, a, 0, 0, 0, 0, 0, 0] }, Tally.idle],
                     reqs := List.replicate n ⟨0, 0, false, 0, 0, 0, 0, false, .eligible, false, 0, 0⟩ }

/-- With 63 requests in the queue, the last line of the SRAM; and the first beyond it. -/
theorem witness_Requests_fetch : let s := offOn 0x0B 0x17FFC0 63
    TallyReady s 5 0 0x0B ∧ xreg (bsh s 5) 0 (bits (tallyWord s 5 0) 52 3) + bits (tallyWord s 5 0) 32 11 * 64 = 0x180000 ∧
      queued (bsh s 5) < 64 := ⟨tallyReady_of _ _ _ _ (by decide +kernel), by decide +kernel⟩
theorem witness_Requests_store : let s := offOn 0x0C 0x17FFC0 0
    TallyReady s 5 0 0x0C ∧ xreg (bsh s 5) 0 (bits (tallyWord s 5 0) 52 3) + bits (tallyWord s 5 0) 32 11 * 64 ≤ 0x180000 ∧
      queued (bsh s 5) < 64 := ⟨tallyReady_of _ _ _ _ (by decide +kernel), by decide +kernel⟩
theorem witness_Requests_full : TallyReady (offOn 0x0B 0 64) 5 0 0x0B ∧ TallyReady (offOn 0x0C 0 64) 5 0 0x0C ∧
    64 ≤ queued (bsh (offOn 0x0B 0 64) 5) ∧ xreg (bsh (offOn 0x0B 0 64) 5) 0 1 + 64 ≤ 0x180000 :=
  ⟨tallyReady_of _ _ _ _ (by decide +kernel), tallyReady_of _ _ _ _ (by decide +kernel), by decide +kernel⟩
theorem witness_Requests_outside : TallyReady (offOn 0x0B 0x180000 0) 5 0 0x0B ∧ TallyReady (offOn 0x0C 0x180000 0) 5 0 0x0C ∧
    0x180000 < xreg (bsh (offOn 0x0B 0x180000 0) 5) 0 1 + 64 :=
  ⟨tallyReady_of _ _ _ _ (by decide +kernel), tallyReady_of _ _ _ _ (by decide +kernel), by decide +kernel⟩
/-- A fetch into a slot of a ring. -/
theorem witness_Requests_slot : let r := ring2 { Slot.fresh with st := .filling 0 } Slot.fresh
    let s := tallyOn 5 0 0x0B (2 ^ 32 + 2 ^ 50) { Bushel.idle with rings := [r] }
    TallyReady s 5 0 0x0B ∧ slotOf (bsh s 5) (xreg (bsh s 5) 0 0) = some (0, 0) ∧ (bsh s 5).rings[0]? = some r :=
  ⟨tallyReady_of _ _ _ _ (by decide +kernel), by decide +kernel⟩

/-- A handle of bushel 5 in register 0. -/
def pushOn (op rest h : Nat) (q : List (Nat × Nat)) (free : List Nat) (took : List (Option Nat)) : State :=
  tallyOn 5 0 op rest { Bushel.idle with eng := [{ Tally.idle with x := [h, 0, 0, 0, 0, 0, 0, 0] }, Tally.idle], hq := q,
                                         freeBufs := free, took := took }

theorem witness_TallyHandles_push : let s := pushOn 0x0D (3 * 2 ^ 52) 5 (List.replicate 15 (0, 0)) [] []
    TallyReady s 5 0 0x0D ∧ bits (xreg (bsh s 5) 0 (bits (tallyWord s 5 0) 55 3)) 0 10 = relNo s 5 ∧ (bsh s 5).hq.length < 16 :=
  ⟨tallyReady_of _ _ _ _ (by decide +kernel), by decide +kernel⟩
theorem witness_TallyHandles_push_foreign : let s := pushOn 0x0D (3 * 2 ^ 52) 6 [] [] []
    TallyReady s 5 0 0x0D ∧ bits (tallyWord s 5 0) 52 3 < 4 ∧
      bits (xreg (bsh s 5) 0 (bits (tallyWord s 5 0) 55 3) % 2 ^ 32) 0 10 ≠ relNo s 5 :=
  ⟨tallyReady_of _ _ _ _ (by decide +kernel), by decide +kernel⟩
theorem witness_TallyHandles_take : let s := pushOn 0x0E 0 0 [(5, 4)] [] []
    TallyReady s 5 0 0x0E ∧ bits (tallyWord s 5 0) 50 2 = 0 ∧ (bsh s 5).hq.find? (fun p => p.2 == 4 + 0) = some (5, 4 + 0) ∧
      bits 5 16 12 = runEpoch s (5 / 32) := ⟨tallyReady_of _ _ _ _ (by decide +kernel), by decide +kernel⟩
theorem witness_TallyHandles_take_fresh : let s := pushOn 0x0E (2 ^ 50) 0 [] [63] []
    TallyReady s 5 0 0x0E ∧ bits (tallyWord s 5 0) 50 2 = 1 ∧ (bsh s 5).freeBufs = [63] :=
  ⟨tallyReady_of _ _ _ _ (by decide +kernel), by decide +kernel⟩
theorem witness_TallyHandles_take_bound : let s := pushOn 0x0E (2 * 2 ^ 50 + 3 * 2 ^ 48) 0 [] [] [none, none, none, some 5]
    TallyReady s 5 0 0x0E ∧ 2 ≤ bits (tallyWord s 5 0) 50 2 ∧
      (bsh s 5).took.getD (bits (tallyWord s 5 0) 48 2) none = some 5 ∧ bits 5 16 12 = runEpoch s (5 / 32) :=
  ⟨tallyReady_of _ _ _ _ (by decide +kernel), by decide +kernel⟩
theorem witness_TallyHandles_take_foreign : let s := pushOn 0x0E 0 0 [(2 ^ 16, 4)] [] []
    TallyReady s 5 0 0x0E ∧ takeFor s 5 0 = some (2 ^ 16) ∧ bits (2 ^ 16) 16 12 ≠ runEpoch s (5 / 32) :=
  ⟨tallyReady_of _ _ _ _ (by decide +kernel), by decide +kernel⟩
theorem witness_TallyHandles_take_none : let s := pushOn 0x0E (2 ^ 50) 0 [] [] []
    TallyReady s 5 0 0x0E ∧ takeFor s 5 0 = none ∧ (bsh s 5).freeBufs = [] :=
  ⟨tallyReady_of _ _ _ _ (by decide +kernel), by decide +kernel⟩
theorem witness_TallyHandles_ret : TallyReady (pushOn 0x0F 0 5 [] [] []) 5 0 0x0F := tallyReady_of _ _ _ _ (by decide +kernel)
theorem witness_TallyHandles_returned : let s := setBsh svc 1023 { Bushel.idle with rets := [5] }
    1023 < 1024 ∧ awake s = true ∧ (bsh s 1023).rets = [5] := by decide +kernel

/-- Bushel 1023 with a store and a fetch that porters carry, the fetch of the SRAM's last line. -/
def eventsOn : State := setBsh (runIsl svc 31) 1023 { Bushel.idle with
  eng := [{ Tally.idle with ended := true }, { Tally.idle with ended := true }]
  reqs := [⟨0, 0, true, 0, 0, 64, 0, false, .carried, false, 0, 0⟩, ⟨1, 0, false, 0, 0x17FFC0, 64, 0, false, .carried, false, 0, 0⟩] }

theorem witness_BushelEvents : awake eventsOn = true ∧
    (eventsOn.skl.reqs.any fun x => x.write && x.owner == some (.bushel 1023 0)) = false ∧
    (bsh eventsOn 1023).reqs.find? (fun r => r.id == 1 && !r.store && r.st == .carried) =
      some ⟨1, 0, false, 0, 0x17FFC0, 64, 0, false, .carried, false, 0, 0⟩ := by decide +kernel
theorem witness_BushelEvents_done : let s := setBsh (runIsl svc 31) 1023 { Bushel.idle with
      eng := [{ Tally.idle with ended := true }, { Tally.idle with ended := true }] }
    awake s = true ∧ bushelIdle (bsh s 1023) = true ∧ (isl s (1023 / 32)).released = true := by decide +kernel

/-- A verdict of stake 3 on its way to bushel 5. -/
theorem witness_BushelEvents_verdict : let s := setBsh svc 5 { Bushel.idle with sigs := [(3, [(0, 0)])] }
    awake s = true ∧ (bsh s 5).sigs.find? (fun g => g.1 == 3) = some (3, [(0, 0)]) := by decide +kernel

/-- Stake 3 recomputes a tile that run 0 of engine 0 of bushel 5 fed; the engine's records are `l`. -/
def replayOn (l : List RdRec) : State := let s := runIsl svc 0
  let x : Stake := { Stake.idle with recomp := true, tile := some { zeroTile with runs := [(5, 0, 0)] } }
  let y : Bushel := { Bushel.idle with eng := [{ Tally.idle with recs := l }, Tally.idle] }
  setBsh (setStk s 3 x) 5 y
theorem witness_BushelReplay : let s := replayOn [⟨0, 0, 0, 64, 1, 0, false⟩]
    let tile : DTile := { zeroTile with runs := [(5, 0, 0)] }
    awake s = true ∧ (stk s 3).recomp = true ∧ inRounds s (5 / 32) = true ∧ (stk s 3).tile = some tile ∧
      (((runsOf tile.runs 5).filter fun r => r.1 = 0).map (·.2)).min? = some 0 ∧ ∃ r ∈ (eng (bsh s 5) 0).recs, r.no = 0 := by
  decide +kernel
theorem witness_BushelReplay_none : let s := replayOn []
    (stk s 3).recomp = true ∧ ∀ r ∈ (eng (bsh s 5) 0).recs, r.no ≠ 0 := by decide +kernel

/-! ### Fabric -/

/-- Switch 63 of island `n` at slot 15, its row, and what its north input holds; `m` runs too. -/
def linkOn (n m row : Nat) (q : List (Nat × Beat)) : State :=
  let s := put (runIsl (runIsl svc m) n) [(Reg.ISL_FAB_SLOT_LEN, n, 15), (Reg.ISL_FAB_SLOT_SLOT, n, 15)]
  { s with fab := { s.fab with
    rows := [(16 * (64 * n + 63) + 15, BitVec.ofNat 64 row)], sw := [(64 * n + 63, { Switch.idle with inl := [q, [], [], []] })] } }

theorem linkOn_ready : ∀ row ∈ [0, 9 * 2 ^ 28, 2 ^ 28], let s := linkOn 31 31 row []
    awake s = true ∧ inRounds s 31 = true ∧ 15 ≤ rd s Reg.ISL_FAB_SLOT_LEN 31 := by decide +kernel

/-- No input, and an input code above 8. -/
theorem witness_LinkBeat_off : bits (slotRow (linkOn 31 31 0 []) (64 * 31 + 63) 15).toNat (4 * 7) 4 = 0 ∧
    8 < bits (slotRow (linkOn 31 31 (9 * 2 ^ 28) []) (64 * 31 + 63) 15).toNat (4 * 7) 4 := by decide +kernel
theorem witness_LinkBeat_replay : let s := linkOn 31 31 (2 ^ 28) [(15, mkBeat 0 true)]
    let row := (slotRow s (64 * 31 + 63) 15).toNat
    awake s = true ∧ inRounds s 31 = true ∧ bits row (4 * 7) 4 = 1 ∧
      offerReplay (portMake s 31 63 1 true) 31 63 1 15 row = some (mkBeat 0 true) := by decide +kernel

/-- The premises a token of the present slot meets at output 7 of switch 63 of island `n`. -/
def slotPremises (s : State) (n : Nat) : Bool :=
  let z := 64 * n + 63
  let row := (slotRow s z 15).toNat
  let code := bits row (4 * 7) 4
  let s1 := portMake s n 63 code true
  let s2 := slotsGo 16 s1 n
  let s3 := portMake s2 n 63 code false
  awake s && inRounds s n && decide (15 ≤ rd s Reg.ISL_FAB_SLOT_LEN n) && decide (1 ≤ code) && decide (code ≤ 8) &&
    (offerReplay s1 n 63 code 15 row).isNone && decide (rd s2 Reg.ISL_FAB_SLOT_SLOT n = 15) &&
    !(sw s2 z).done.contains 7 && (sw s2 z).blk.isEmpty && mayRun s2 n (actor s2 n 63 code row) &&
    mayRun s3 n (actor s3 n 63 code row) &&
    (isStakePos 7 7 || decide (code < 5) || decide ((bsh s3 (32 * n + localOf 7 7)).frz.getD 2 0 = 0))

/-- What output 7 of that switch is offered. -/
def offered (s : State) (n : Nat) : Offer :=
  let row := (slotRow s (64 * n + 63) 15).toNat
  let code := bits row (4 * 7) 4
  offer (portMake (slotsGo 16 (portMake s n 63 code true) n) n 63 code false) n 63 code row

theorem witness_LinkBeat_none : slotPremises (linkOn 31 31 (2 ^ 28) []) 31 = true ∧
    offered (linkOn 31 31 (2 ^ 28) []) 31 = .none_ := by decide +kernel
theorem witness_LinkBeat_dry : slotPremises (linkOn 0 4 (3 * 2 ^ 28) []) 0 = true ∧
    offered (linkOn 0 4 (3 * 2 ^ 28) []) 0 = .dry := by decide +kernel

/-- A beat for the unit of switch 63, with a skew queue of one beat at its port, that holds `q`. -/
def skewOn (q : List Beat) : State :=
  let s := linkOn 31 31 (2 ^ 28) []
  let z : Switch := { Switch.idle with inl := [[(15, mkBeat 0 false)], [], [], []], skew := [[], [], [], q] }
  { s with fab := { s.fab with skewW := [(64 * 31 + 63, BitVec.ofNat 32 (2 ^ 24))], sw := [(64 * 31 + 63, z)] } }
theorem witness_LinkBeat_stuck : let s := skewOn [mkBeat 0 false]
    slotPremises s 31 = true ∧ offered s 31 = .beat (mkBeat 0 false) ∧ stuckAt s 31 63 7 (mkBeat 0 false) = some (.skew 3) ∧
      outsOf (slotRow s (64 * 31 + 63) 15).toNat 1 = [7] := by decide +kernel
theorem witness_LinkBeat_beat : let s := skewOn []
    slotPremises s 31 = true ∧ offered s 31 = .beat (mkBeat 0 false) ∧ stuckAt s 31 63 7 (mkBeat 0 false) = none ∧
      outsOf (slotRow s (64 * 31 + 63) 15).toNat 1 = [7] := by decide +kernel

/-- A tag that is not the row's, the row's own, and a step inside the island. -/
theorem witness_LinkBeat_linkHop : [7].find? (fun o => (mkBeat 0 false).tag ≠ rowTag (5 * 2 ^ 60) o && cpOk (mkBeat 0 false)) = some 7 ∧
    [7].find? (fun o => (mkBeat 0 false).tag ≠ rowTag 0 o && cpOk (mkBeat 0 false)) = none ∧
    stepPos (0 / 8) (0 % 8) 1 = some (0, 1) ∧ stepPos (63 / 8) (63 % 8) 0 = some (6, 7) := by decide +kernel

/-- Crossing `stage` of the link into switch 63 of island `n` from direction `d`, a beat in flight in it; the next one of
the link has raised FULL, as the sender sees it, or not. -/
def crossOn (n d stage : Nat) (full : Bool) : State :=
  let s := setXing svc (xingKey n 63 d stage) ⟨[mkBeat 0 false], [], false⟩
  if stage = 2 then s else setXing s (xingKey n 63 d stage + 1) ⟨[], [], full⟩
theorem witness_CrossingEvents_last : awake (crossOn 31 0 2 false) = true ∧ nextIsl 31 0 = some 27 ∧
    (xing (crossOn 31 0 2 false) (xingKey 31 63 0 2)).flight = [mkBeat 0 false] := by decide +kernel
theorem witness_CrossingEvents_stage : ∀ f ∈ [false, true], let s := crossOn 4 0 0 f
    awake s = true ∧ nextIsl 4 0 = some 0 ∧ (xing s (xingKey 4 63 0 0)).flight = [mkBeat 0 false] ∧
      (xing s (xingKey 4 63 0 0 + 1)).fullSeen = f := by decide +kernel
theorem witness_CrossingEvents_hold : let s := setIsl svc 31 { Island.idle with holdX := [some 6, none, none, none] }
    awake s = true ∧ nextIsl 31 0 = some 27 ∧ (isl s 31).holdX.getD 0 none = some 6 := by decide +kernel

/-- A weave of one island, and an invocation of `rounds` rounds for command 0 of ring 0. -/
def weave0 (flags nisl rndMax : Nat) (place : List Nat) : Weave :=
  { part := 0, img := 0, flags := flags, size := 0, shape := 1, nisl := nisl, lenM1 := 0, nvar := 1, tripMax := 0, extMax := 0,
    extTile := 1, rndMax := rndMax, weaveId := 7, variants := [⟨0, 1, 1, 1, 1, 1, 0⟩], links := [], overs := [], rcvs := [],
    place := place, hot := false, var := 0 }
def inv0 (rounds : Nat) : Invoc := ⟨0, 0, 0, 0, 0, 0, 0, [], 1, [], false, rounds⟩

/-- Island 31 runs the invocation, in the state `i`. -/
def roundsOn (flags rndMax rounds : Nat) (i : Island) : State := let b : Binding := { Binding.idle with
    cur := some (weave0 flags 1 rndMax [31]), inv := some (inv0 rounds) }
  setBind (setIsl svc 31 i) 0 b
def islRun : Island := { Island.idle with bind := some 0, released := true }

theorem witness_RoundsAndEnds_rounds_round : let s := roundsOn 0 2 2 islRun
    let s1 := slotsGo 16 s 31
    awake s = true ∧ runOf s 31 = some (weave0 0 1 2 [31], inv0 2) ∧ mayRun s 31 .none_ = true ∧ mayRun s1 31 .none_ = true ∧
      roundServed s1 31 = true ∧ (isl s1 31).rounds + 1 < (inv0 2).rounds := by decide +kernel
theorem witness_RoundsAndEnds_rounds_skip : (isl (roundsOn 0 2 2 { islRun with skipping := 1 }) 31).skipping ≠ 0 := by decide +kernel
/-- Every unit of island 31 has ended. -/
def allEnded (s : State) : State :=
  let e : Tally := { Tally.idle with ended := true }
  { s with fab := { s.fab with
    stk := (List.range 32).map fun k => (992 + k, { Stake.idle with ended := true })
    bsh := (List.range 32).map fun k => (992 + k, { Bushel.idle with eng := [e, e] }) } }
/-- The last round of an invocation of one round on island 31. -/
theorem witness_RoundsAndEnds_rounds_last : ∀ f ∈ [0, 1], let s := allEnded (roundsOn f 2 1 islRun)
    let s1 := slotsGo 16 s 31
    awake s = true ∧ runOf s 31 = some (weave0 f 1 2 [31], inv0 1) ∧ mayRun s 31 .none_ = true ∧ mayRun s1 31 .none_ = true ∧
      (inv0 1).rounds ≤ (isl s1 31).rounds + 1 ∧ shortUnit s1 31 = none ∧ roundServed s1 31 = true := by decide +kernel
/-- Its bubble weave has reached RND_MAX, or not; all units have ended, or the first has not. -/
theorem witness_RoundsAndEnds_rounds_ends : let f (m : Nat) (s : State) := (let s1 := slotsGo 16 s 31
      let s2 := roundOver s1 31 (inv0 1)
      let s3 := setIsl s2 31 { isl s2 31 with lastRound := true }
      (decide (m ≤ (isl s3 31).rounds), shortUnit s3 31))
    (weave0 1 1 1 [31]).bubble = true ∧ f 1 (allEnded (roundsOn 1 1 1 islRun)) = (true, none) ∧
      f 2 (allEnded (roundsOn 1 2 1 islRun)) = (false, none) ∧ (weave0 0 1 2 [31]).bubble = false ∧
      f 2 (roundsOn 0 2 1 islRun) = (false, some 0) := by decide +kernel
theorem witness_RoundsAndEnds_islandEnds_deadlock : let s0 := put (setIsl svc 31 { islRun with dead := 9 }) [(Reg.ISL_FAB_FRZ_LIMIT, 31, 9)]
    let s := swBlock s0 (64 * 31 + 63) 1 0
    awake s = true ∧ rd s Reg.ISL_FAB_FRZ_LIMIT 31 ≤ (isl s 31).dead ∧ (codeAt s 31 63).1 ≠ 0 := by decide +kernel
theorem witness_RoundsAndEnds_islandEnds_done : let s := allEnded (roundsOn 0 2 1 { islRun with lastRound := true })
    runOf s 31 = some (weave0 0 1 2 [31], inv0 1) ∧ (isl s 31).lastRound = true ∧ (isl s 31).done = false ∧
      (isl s 31).stopped = false ∧ ∀ x < 32, bushelIdle (bsh s (32 * 31 + x)) = true := by decide +kernel

end Sys2Proof.Tests
end

