-- ==== Sys2Proof/Tests/WitnessWeave.lean ====
section
/-! SUPPORT. Witnesses of the statements on weaves, yields and models: states and operands that meet their hypotheses. -/

namespace Sys2Proof.Tests

open Machine

set_option Elab.async false

/-! ### Weaves -/

/-- The last command a ring can have, of the weave engine, on binding 31. -/
def weaveCmd (op : Nat) (l : List (Nat × Nat)) : Cmd := cmdOf 63 (2 ^ 32 - 1) op 0 ((if op = 0x11 then (0x10, 31) else (0x18, 31)) :: l)
/-- It stands in flight, binding 31 in state `st` of partition `p`. -/
def weaveOn (op st p : Nat) (l : List (Nat × Nat)) : State :=
  flight (put svc [(Reg.WVE_BIND_STATE, 31, st), (Reg.WVE_BIND_PART, 31, p)]) [weaveCmd op l]

theorem witness_WeaveControl_load : Turn (weaveOn 0x10 0 0 []) 63 (2 ^ 32 - 1) 0x10 (weaveCmd 0x10 []) ∧
    let s1 := takeCmd (weaveOn 0x10 0 0 []) (weaveCmd 0x10 [])
    rd s1 Reg.WVE_BIND_STATE (weaveCmd 0x10 []).bd = 0 ∧ (weaveCmd 0x10 []).landed = [] ∧ (bind s1 (weaveCmd 0x10 []).bd).cur = none :=
  ⟨turn_of _ _ _ _ _ (by decide +kernel), by decide +kernel⟩
theorem witness_WeaveControl_replace : Turn (weaveOn 0x12 2 7 []) 63 (2 ^ 32 - 1) 0x12 (weaveCmd 0x12 []) ∧
    let s1 := takeCmd (weaveOn 0x12 2 7 []) (weaveCmd 0x12 [])
    rd s1 Reg.WVE_BIND_STATE 31 ≠ 0 ∧ rd s1 Reg.WVE_BIND_STATE 31 ≠ 6 ∧ rd s1 Reg.WVE_BIND_PART (weaveCmd 0x12 []).bd = partOf 63 ∧
      (bind s1 31).op = none := ⟨turn_of _ _ _ _ _ (by decide +kernel), by decide +kernel⟩
theorem witness_WeaveControl_drains : Turn (weaveOn 0x13 2 7 []) 63 (2 ^ 32 - 1) 0x13 (weaveCmd 0x13 []) ∧
    Turn (weaveOn 0x14 3 7 []) 63 (2 ^ 32 - 1) 0x14 (weaveCmd 0x14 []) ∧
    ∀ x ∈ [(0x13, 2), (0x14, 3)], let s1 := takeCmd (weaveOn x.1 x.2 7 []) (weaveCmd x.1 [])
      rd s1 Reg.WVE_BIND_STATE 31 ≠ 0 ∧ rd s1 Reg.WVE_BIND_STATE 31 ≠ 6 ∧ rd s1 Reg.WVE_BIND_PART (weaveCmd x.1 []).bd = partOf 63 ∧
      (bind s1 31).op = none :=
  ⟨turn_of _ _ _ _ _ (by decide +kernel), turn_of _ _ _ _ _ (by decide +kernel), by decide +kernel⟩
/-- Another partition's binding. -/
theorem witness_WeaveControl_foreign : Turn (weaveOn 0x10 2 6 []) 63 (2 ^ 32 - 1) 0x10 (weaveCmd 0x10 []) ∧
    Turn (weaveOn 0x12 2 6 []) 63 (2 ^ 32 - 1) 0x12 (weaveCmd 0x12 []) ∧ Turn (weaveOn 0x13 2 6 []) 63 (2 ^ 32 - 1) 0x13 (weaveCmd 0x13 []) ∧
    Turn (weaveOn 0x14 2 6 []) 63 (2 ^ 32 - 1) 0x14 (weaveCmd 0x14 []) ∧
    ∀ op ∈ [0x10, 0x12, 0x13, 0x14], let s1 := takeCmd (weaveOn op 2 6 []) (weaveCmd op [])
      rd s1 Reg.WVE_BIND_STATE (weaveCmd op []).bd ≠ 0 ∧ rd s1 Reg.WVE_BIND_PART (weaveCmd op []).bd ≠ partOf 63 :=
  ⟨turn_of _ _ _ _ _ (by decide +kernel), turn_of _ _ _ _ _ (by decide +kernel), turn_of _ _ _ _ _ (by decide +kernel),
    turn_of _ _ _ _ _ (by decide +kernel), by decide +kernel⟩
/-- Its own binding, NOPLACE and EMPTY. -/
theorem witness_WeaveControl_none : ∀ st ∈ [6, 0], Turn (weaveOn 0x10 st 7 []) 63 (2 ^ 32 - 1) 0x10 (weaveCmd 0x10 []) ∧
    Turn (weaveOn 0x12 st 7 []) 63 (2 ^ 32 - 1) 0x12 (weaveCmd 0x12 []) ∧ Turn (weaveOn 0x13 st 7 []) 63 (2 ^ 32 - 1) 0x13 (weaveCmd 0x13 []) ∧
    Turn (weaveOn 0x14 st 7 []) 63 (2 ^ 32 - 1) 0x14 (weaveCmd 0x14 []) ∧
    ∀ op ∈ [0x10, 0x12, 0x13, 0x14], let s1 := takeCmd (weaveOn op st 7 []) (weaveCmd op [])
      rd s1 Reg.WVE_BIND_STATE (weaveCmd op []).bd = st ∧ rd s1 Reg.WVE_BIND_PART (weaveCmd op []).bd = partOf 63 := by
  intro st h
  rcases List.mem_cons.1 h with rfl | h
  · exact ⟨turn_of _ _ _ _ _ (by decide +kernel), turn_of _ _ _ _ _ (by decide +kernel), turn_of _ _ _ _ _ (by decide +kernel),
      turn_of _ _ _ _ _ (by decide +kernel), by decide +kernel⟩
  · rw [List.mem_singleton] at h
    subst h
    exact ⟨turn_of _ _ _ _ _ (by decide +kernel), turn_of _ _ _ _ _ (by decide +kernel), turn_of _ _ _ _ _ (by decide +kernel),
      turn_of _ _ _ _ _ (by decide +kernel), by decide +kernel⟩

/-- Binding 31 in the state `b`. -/
def bound (b : Binding) : State := setBind svc 31 b
def w31 : Weave := weave0 0 1 2 [31]

theorem witness_WeaveCompletion_loaded : let s := bound { Binding.idle with cur := some w31, loading := some (63, 0) }
    w31.part < 8 ∧ awake s = true ∧ (bind s 31).loading = some (63, 0) ∧ (bind s 31).op = none ∧ (bind s 31).cur = some w31 := by
  decide +kernel
theorem witness_WeaveCompletion_reloaded : ∀ k ∈ [BindOp.drain, BindOp.relocate],
    let s := bound { Binding.idle with cur := some w31, loading := some (63, 0), op := some (k, 63, 0) }
    awake s = true ∧ (bind s 31).loading = some (63, 0) ∧ (bind s 31).op = some (k, 63, 0) ∧ (bind s 31).cur = some w31 := by
  decide +kernel
theorem witness_WeaveCompletion_carried :
    let s := bound { Binding.idle with new := some w31, loading := some (63, 0), op := some (.carry, 63, 0) }
    awake s = true ∧ (bind s 31).loading = some (63, 0) ∧ (bind s 31).op = some (.carry, 63, 0) ∧ (bind s 31).new = some w31 := by
  decide +kernel

/-- An INVOKE of binding 31 at epoch 1, the binding at generation 1 in state `st` of partition `p`; model 0 of class `k`. -/
def invokeOn (l : List (Nat × Nat)) (st p k : Nat) : State :=
  let b : Binding := { Binding.idle with cur := some w31 }
  let s := setBind (put (weaveOn 0x11 st p ((0x14, 1) :: l)) [(Reg.WVE_BIND_GEN, 31, 1)]) 31 b
  setModel s 7 0 { Model.idle with cls := k }
theorem witness_WeaveInvoke_start : let c := weaveCmd 0x11 [(0x14, 1)]
    let s := invokeOn [] 2 7 0
    let s1 := takeCmd s c
    Turn s 63 (2 ^ 32 - 1) 0x11 c ∧ runOfCmd s1 63 (2 ^ 32 - 1) = none ∧ invokeVerdict s1 (going c) = .start false ∧
      ¬(bit (c.fld 0x11 1) 1 = true ∧ (model s1 (partOf 63) (c.fld 0x12 1)).cls = 2) ∧
      weaveOf (latchModel s1 (going c)) c.bd false = some w31 := ⟨turn_of _ _ _ _ _ (by decide +kernel), by decide +kernel⟩
theorem witness_WeaveInvoke_stale : let c := weaveCmd 0x11 [(0x14, 1), (0x11, 2)]
    let s := invokeOn [(0x11, 2)] 2 7 2
    let s1 := takeCmd s c
    Turn s 63 (2 ^ 32 - 1) 0x11 c ∧ runOfCmd s1 63 (2 ^ 32 - 1) = none ∧ invokeVerdict s1 (going c) = .start false ∧
      bit (c.fld 0x11 1) 1 = true ∧ (model s1 (partOf 63) (c.fld 0x12 1)).cls = 2 := ⟨turn_of _ _ _ _ _ (by decide +kernel), by decide +kernel⟩
theorem witness_WeaveInvoke_fails : let c := weaveCmd 0x11 [(0x14, 1)]
    ∀ x ∈ [(6, 7, 0x23), (2, 6, 0x36)], let s := invokeOn [] x.1 x.2.1 0
    let s1 := takeCmd s c
    (ringOk 63 = true ∧ awake s = true ∧ turnOf s 63 (2 ^ 32 - 1) 0x11 = some c) ∧ runOfCmd s1 63 (2 ^ 32 - 1) = none ∧
      invokeVerdict s1 (going c) = .fail x.2.2 ∧ ¬(bit (c.fld 0x11 1) 1 = true ∧ (model s1 (partOf 63) (c.fld 0x12 1)).cls = 2) := by
  decide +kernel
theorem witness_WeaveInvoke_release : let v : Invoc := { inv0 2 with released := 0 }
    let s := bound { Binding.idle with cur := some w31, inv := some v }
    awake s = true ∧ weaveOf s 31 false = some w31 ∧ invOf s 31 false = some v ∧ v.stopped = false ∧
      yieldBusy s v.ring v.idx = false ∧ w31.place[v.released]? = some 31 ∧ rd s Reg.PWR_STAT_BRAKE 0 = 0 := by decide +kernel

theorem witness_WeaveCompletion_drain : let s := bound { Binding.idle with new := some w31, op := some (.drain, 63, 0) }
    awake s = true ∧ (bind s 31).loading = none ∧ (bind s 31).op = some (.drain, 63, 0) ∧ (bind s 31).new = some w31 ∧
      oldDone s 31 (genBefore (rd s Reg.WVE_BIND_GEN 31)) 63 0 = true ∧ isHeld s 63 0 = false := by decide +kernel
theorem witness_WeaveCompletion_carry : let s := bound { Binding.idle with new := some w31, op := some (.carry, 63, 0) }
    awake s = true ∧ (bind s 31).loading = none ∧ (bind s 31).op = some (.carry, 63, 0) ∧ (bind s 31).new = some w31 ∧
      oldDone s 31 (genBefore (rd s Reg.WVE_BIND_GEN 31)) 63 0 = true := by decide +kernel
theorem witness_WeaveCompletion_unload : let s := bound { Binding.idle with cur := some w31, op := some (.unload, 63, 0) }
    awake s = true ∧ (bind s 31).loading = none ∧ (bind s 31).op = some (.unload, 63, 0) ∧
      oldDone s 31 (rd s Reg.WVE_BIND_GEN 31) 63 0 = true ∧ isHeld s 63 0 = false := by decide +kernel
theorem witness_WeaveCompletion_relocate : let s := bound { Binding.idle with cur := some w31, op := some (.relocate, 63, 0) }
    awake s = true ∧ (bind s 31).loading = none ∧ (bind s 31).op = some (.relocate, 63, 0) ∧
      oldDone s 31 (rd s Reg.WVE_BIND_GEN 31) 63 0 = true ∧ isHeld s 63 0 = false ∧
      ((bind s 31).cur.orElse fun _ => (bind s 31).new) = some w31 := by decide +kernel

/-- LOAD and REPLACE at binding 31 with their image on page 0 of partition 7, its entry `e`. -/
def imageOn (op st e : Nat) : State :=
  flight (put (mapped 7 0 e) [(Reg.WVE_BIND_STATE, 31, st), (Reg.WVE_BIND_PART, 31, if st = 0 then 0 else 7)]) [weaveCmd op []]
/-- The state in which LOAD reads its image. -/
def loadReads (s : State) : State :=
  let s1 := takeCmd s (weaveCmd 0x10 [])
  modCmd (setBind (wr (setState s1 31 1) Reg.WVE_BIND_PART 31 7) 31 { bind s1 31 with loading := some (63, 2 ^ 32 - 1) })
    63 (2 ^ 32 - 1) fun d => { d with bind := some 31 }
/-- How far a gate lets go: it goes, is held, or waits. -/
def gateKind : Gate → Nat | .go _ => 0 | .held _ => 1 | .wait _ => 2
theorem held_of (g : Gate) (h : gateKind g = 1) : ∃ u, g = .held u := by
  cases g with | held u => exact ⟨u, rfl⟩ | _ => cases h
theorem wait_of (g : Gate) (h : gateKind g = 2) : ∃ u, g = .wait u := by
  cases g with | wait u => exact ⟨u, rfl⟩ | _ => cases h
/-- The image is there: its first word is no header, so the first check fails. -/
theorem witness_WeaveControl_load_image : ∃ u f, Turn (imageOn 0x10 0 (t2Page 9)) 63 (2 ^ 32 - 1) 0x10 (weaveCmd 0x10 []) ∧
    readImage (loadReads (imageOn 0x10 0 (t2Page 9))) 7 0 63 (2 ^ 32 - 1) = .go u ∧
    checkImage u (imgAt u 7 0) (parseWeave (imgAt u 7 0) 7 0 false) 0 = some f := by
  obtain ⟨u, hu⟩ := Option.isSome_iff_exists.1 (show (goneOf (readImage (loadReads (imageOn 0x10 0 (t2Page 9))) 7 0 63
    (2 ^ 32 - 1))).isSome = true by decide +kernel)
  have h : (goneOf (readImage (loadReads (imageOn 0x10 0 (t2Page 9))) 7 0 63 (2 ^ 32 - 1))).any (fun u =>
    (checkHeader (imgAt u 7 0) (parseWeave (imgAt u 7 0) 7 0 false)).isSome) = true := by decide +kernel
  rw [hu] at h
  obtain ⟨f, hf⟩ := Option.isSome_iff_exists.1 (show (checkHeader (imgAt u 7 0) (parseWeave (imgAt u 7 0) 7 0 false)).isSome = true
    from h)
  exact ⟨u, f, turn_of _ _ _ _ _ (by decide +kernel), gone_of _ _ hu, by unfold checkImage; rw [hf]⟩
/-- Its page is not there. -/
theorem witness_WeaveControl_load_held : ∃ u, Turn (imageOn 0x10 0 0) 63 (2 ^ 32 - 1) 0x10 (weaveCmd 0x10 []) ∧
    readImage (loadReads (imageOn 0x10 0 0)) 7 0 63 (2 ^ 32 - 1) = .held u :=
  (held_of _ (show gateKind (readImage (loadReads (imageOn 0x10 0 0)) 7 0 63 (2 ^ 32 - 1)) = 1 by decide +kernel)).imp
    fun _ h => ⟨turn_of _ _ _ _ _ (by decide +kernel), h⟩
/-- A save goes before it at every porter. -/
def imageWaits (op st : Nat) : State :=
  let s := imageOn op st (t2Page 9)
  { s with wve := { s.wve with yields := [⟨0, 0, 0, 1, none, false, true, 0⟩] } }
theorem witness_WeaveControl_load_wait : ∃ u, Turn (imageWaits 0x10 0) 63 (2 ^ 32 - 1) 0x10 (weaveCmd 0x10 []) ∧
    readImage (loadReads (imageWaits 0x10 0)) 7 0 63 (2 ^ 32 - 1) = .wait u :=
  (wait_of _ (show gateKind (readImage (loadReads (imageWaits 0x10 0)) 7 0 63 (2 ^ 32 - 1)) = 2 by decide +kernel)).imp
    fun _ h => ⟨turn_of _ _ _ _ _ (by decide +kernel), h⟩
/-- The same three for REPLACE of a READY binding. -/
def replaceReads (s : State) : Gate := readImage (takeCmd s (weaveCmd 0x12 [])) 7 0 63 (2 ^ 32 - 1)
theorem witness_WeaveControl_replace_image : ∃ u f, Turn (imageOn 0x12 2 (t2Page 9)) 63 (2 ^ 32 - 1) 0x12 (weaveCmd 0x12 []) ∧
    replaceReads (imageOn 0x12 2 (t2Page 9)) = .go u ∧
    checkImage u (imgAt u 7 0) (parseWeave (imgAt u 7 0) 7 0 false) 0 = some f := by
  obtain ⟨u, hu⟩ := Option.isSome_iff_exists.1 (show (goneOf (replaceReads (imageOn 0x12 2 (t2Page 9)))).isSome = true by
    decide +kernel)
  have h : (goneOf (replaceReads (imageOn 0x12 2 (t2Page 9)))).any (fun u =>
    (checkHeader (imgAt u 7 0) (parseWeave (imgAt u 7 0) 7 0 false)).isSome) = true := by decide +kernel
  rw [hu] at h
  obtain ⟨f, hf⟩ := Option.isSome_iff_exists.1 (show (checkHeader (imgAt u 7 0) (parseWeave (imgAt u 7 0) 7 0 false)).isSome = true
    from h)
  exact ⟨u, f, turn_of _ _ _ _ _ (by decide +kernel), gone_of _ _ hu, by unfold checkImage; rw [hf]⟩
theorem witness_WeaveControl_replace_stops :
    gateKind (replaceReads (imageOn 0x12 2 0)) = 1 ∧ gateKind (replaceReads (imageWaits 0x12 2)) = 2 ∧
    Turn (imageOn 0x12 2 0) 63 (2 ^ 32 - 1) 0x12 (weaveCmd 0x12 []) ∧
    Turn (imageWaits 0x12 2) 63 (2 ^ 32 - 1) 0x12 (weaveCmd 0x12 []) :=
  ⟨by decide +kernel, by decide +kernel, turn_of _ _ _ _ _ (by decide +kernel), turn_of _ _ _ _ _ (by decide +kernel)⟩

/-- An INVOKE with a direct N, no words to read, and the configured variant. -/
theorem witness_WeaveInvoke_counts : let c := weaveCmd 0x11 [(0x14, 1)]
    let s1 := takeCmd (invokeOn [] 2 7 0) c
    invokeVerdict s1 (going c) = .start false ∧ weaveOf s1 c.bd false = some w31 ∧ bits (c.fld 0x11 1) 0 2 = 0 ∧
      c.fld 0x13 1 = 0 ∧ w31.rtmode = 0 ∧ w31.var = 0 ∧ w31.variants[0]? = some ⟨0, 1, 1, 1, 1, 1, 0⟩ ∧
      c.fld 0x18 8 % 2 ^ 24 ≤ w31.tripMax := by decide +kernel

/-! ### Yields and models -/

/-- A command of ring 0, index 5, beside command 0 of the same ring. -/
def yieldCmd (op : Nat) (l : List (Nat × Nat)) : Cmd := cmdOf 0 5 op 0 l
def runCmd : Cmd := { cmdOf 0 0 0x11 0 [(0x14, 1)] with taken := true, st := .running, bind := some 0 }

theorem witness_BoundaryYield : ∀ q ∈ [7, 0xFFFF], let c (op : Nat) := yieldCmd op [(0x10, 1), (0x1C, q)]
    ∀ op ∈ [0x15, 0x16], let s := flight svc [c op]
    (ringOk 0 = true ∧ awake s = true ∧ turnOf s 0 5 op = some (c op)) ∧ yieldMode s 0 5 = 1 ∧
      ∀ q ∈ boundRings (c op), partOf q = partOf 0 := by decide +kernel
theorem witness_BoundaryYield_foreign : let c (op : Nat) := yieldCmd op [(0x10, 1), (0x1C, 8)]
    ∀ op ∈ [0x15, 0x16], let s := flight svc [c op]
    (ringOk 0 = true ∧ awake s = true ∧ turnOf s 0 5 op = some (c op)) ∧ yieldMode s 0 5 = 1 ∧
      ∃ q ∈ boundRings (c op), partOf q ≠ partOf 0 := by decide +kernel

/-- Command 0 of ring 0 runs on island 31; `c` stands behind it. -/
def yieldOn (d c : Cmd) (y : List Yielding) : State := let s := flight (roundsOn 0 2 2 islRun) [d, c]
  { s with wve := { s.wve with yields := y } }
theorem witness_FullYield_start : let c := yieldCmd 0x15 []
    let s := yieldOn runCmd c []
    let s1 := takeCmd s c
    Turn s 0 5 0x15 c ∧ yieldMode s 0 5 = 0 ∧ (s1.wve.yields.any fun y => y.by_ == some (0, 5)) = false ∧
      partOf c.target.1 = partOf 0 ∧ getCmd s1 c.target.1 c.target.2 = some runCmd ∧ runCmd.op = 0x11 ∧ runCmd.finished = false ∧
      runCmd.st ≠ .yielded ∧ yieldBusy s1 c.target.1 c.target.2 = false ∧ (runOfCmd s1 c.target.1 c.target.2).isSome = true :=
  ⟨turn_of _ _ _ _ _ (by decide +kernel), by decide +kernel⟩
def yielding (q : Bool) : Yielding := ⟨0, 0, 0, 1, some (0, 5), false, q, 0⟩
theorem witness_FullYield_quiet : let s := yieldOn runCmd (yieldCmd 0x15 []) [yielding false]
    awake s = true ∧ s.wve.yields.find? (fun y => y.bind == 0 && !y.quiesced) = some (yielding false) ∧
      yieldLost s (yielding false) = false ∧ (yielding false).pinning = false ∧
      runOfCmd s 0 0 = some (0, false, weave0 0 1 2 [31], inv0 2) ∧ quiet s [31] = true := by decide +kernel
theorem witness_FullYield_saved : let s := yieldOn runCmd (yieldCmd 0x15 []) [yielding true]
    (weave0 0 1 2 [31]).part < 8 ∧ partOf (yielding true).ring < 8 ∧ awake s = true ∧
      s.wve.yields.find? (fun y => y.bind == 0 && y.quiesced) = some (yielding true) ∧ yieldLost s (yielding true) = false ∧
      getCmd s 0 0 = some runCmd ∧ runOfCmd s 0 0 = some (0, false, weave0 0 1 2 [31], inv0 2) ∧ (∀ n ∈ [31], n < 32) ∧
      (yielding true).by_ = some (0, 5) ∧ ¬(0 = (yielding true).ring ∧ 5 = (yielding true).idx) := by decide +kernel

/-- What a full yield of command 0 of ring 0 has saved. -/
def saved0 : Saved := ⟨0, 0, 0, 1, true, { weave0 0 1 2 [31] with place := [] }, { inv0 2 with gen := 1 }, none, 0, [31],
  ⟨[], [], [], [], [], [], [], [], []⟩⟩
def yielded : Cmd := { runCmd with st := .yielded, yOnce := true }
/-- Command 0 is yielded; `c` stands behind it; restores under way. -/
def savedOn (c : Cmd) (l : List Restoring) : State := let s := put (flight svc [yielded, c]) [(Reg.WVE_BIND_STATE, 0, 2), (Reg.WVE_BIND_GEN, 0, 1)]
  { s with wve := { s.wve with saved := [saved0], restores := l } }

theorem witness_Resumes_full : let c := yieldCmd 0x16 []
    let s := savedOn c []
    let s1 := takeCmd s c
    Turn s 0 5 0x16 c ∧ yieldMode s 0 5 = 0 ∧ (s1.wve.restores.any fun z => z.ring == c.ring && z.idx == c.idx) = false ∧
      partOf c.target.1 = partOf c.ring ∧ getCmd s1 c.target.1 c.target.2 = some yielded ∧
      savedOf s1 c.target.1 c.target.2 = some saved0 ∧ yielded.st = .yielded ∧ yielded.finished = false ∧
      recordsOut s1 c.target.1 c.target.2 = false ∧ accepts s1 saved0.bind saved0.inv.gen = true ∧ c.landed = [] ∧ c.urgent = false :=
  ⟨turn_of _ _ _ _ _ (by decide +kernel), by decide +kernel⟩
theorem witness_Resumes_proceed : let c : Cmd := { yieldCmd 0x16 [] with taken := true }
    Turn (savedOn c []) 0 5 0x16 c ∧ c.taken = true ∧ c.fld 0x10 1 = 0 := ⟨turn_of _ _ _ _ _ (by decide +kernel), by decide +kernel⟩

/-- A restore of the RESUME (0, 5) has ended; the commit word of its area is `w`. -/
def restoreOn (w : Nat) : State := let s := savedOn { yieldCmd 0x16 [] with taken := true } [⟨0, 5, 0, 0, [31], 0⟩]
  memWrite s 0 65532 4 w
theorem witness_Resumes_restored : let s := restoreOn 0
    awake s = true ∧ s.wve.restores.find? (fun x => x.ring == 0 && x.idx == 5) = some ⟨0, 5, 0, 0, [31], 0⟩ ∧
    let s1 : State := { s with wve := { s.wve with restores := s.wve.restores.filter fun z => !(z.ring == 0 && z.idx == 5) } }
    savedOf s1 0 0 = some saved0 ∧ memRead s1 (partOf 0) (saved0.area + 65532) 4 ≠ 0x59415645 := by decide +kernel

/-- A RESUME that has read its image, and the saved weave with no variant left to check. -/
def resumeCmd (l : List (Nat × Nat)) : Cmd := { yieldCmd 0x16 l with arv := 1 }
def savedBare : Saved := { saved0 with weave := { saved0.weave with variants := [] } }
/-- The islands of partition 0 are `mask`. -/
def resumeOn (c : Cmd) (mask : Nat) : State :=
  let s := put (savedOn c []) [(Reg.WVE_PMASK, 0, mask)]
  { s with wve := { s.wve with saved := [savedBare] } }
/-- What a RESUME of command 0 of ring 0 meets before its placement. -/
def resumeMay (s : State) (c : Cmd) : Bool :=
  !(s.wve.restores.any fun z => z.ring == c.ring && z.idx == c.idx) && decide (partOf c.target.1 = partOf c.ring) &&
    decide (getCmd s c.target.1 c.target.2 = some yielded) && decide (savedOf s c.target.1 c.target.2 = some savedBare) &&
    decide (yielded.st = .yielded) && !yielded.finished && !recordsOut s c.target.1 c.target.2 &&
    accepts s savedBare.bind savedBare.inv.gen && decide (c.arv ≠ 0)
theorem witness_Resumes_fullResume_place : let c := resumeCmd []
    Turn (resumeOn c (2 ^ 32 - 1)) 0 5 0x16 c ∧
      let s1 := takeCmd (resumeOn c (2 ^ 32 - 1)) c
      resumeMay s1 (going c) = true ∧ c.landed = [] ∧
        resumePlace s1 (imgAt s1 0 0) savedBare c.only = some [31] :=
  ⟨turn_of _ _ _ _ _ (by decide +kernel), by decide +kernel⟩
theorem witness_Resumes_fullResume_waits : let c := resumeCmd []
    Turn (resumeOn c 0) 0 5 0x16 c ∧
      let s1 := takeCmd (resumeOn c 0) c
      resumeMay s1 (going c) = true ∧ c.landed = [] ∧ c.urgent = false ∧
        resumePlace s1 (imgAt s1 0 0) savedBare c.only = none :=
  ⟨turn_of _ _ _ _ _ (by decide +kernel), by decide +kernel⟩
theorem witness_Resumes_fullResume_freed : let c : Cmd := { resumeCmd [] with landed := [31] }
    Turn (resumeOn c 0) 0 5 0x16 c ∧
      let s1 := takeCmd (resumeOn c 0) c
      resumeMay s1 (going c) = true ∧ c.landed ≠ [] ∧ ∀ k ∈ c.landed, (isl s1 k).bind = none :=
  ⟨turn_of _ _ _ _ _ (by decide +kernel), by decide +kernel⟩
theorem witness_Resumes_fullResume_proceed : let c : Cmd := { resumeCmd [] with taken := true }
    Turn (resumeOn c (2 ^ 32 - 1)) 0 5 0x16 c ∧
      resumeMay (resumeOn c (2 ^ 32 - 1)) c = true ∧ c.landed = [] ∧
        resumePlace (resumeOn c (2 ^ 32 - 1)) (imgAt (resumeOn c (2 ^ 32 - 1)) 0 0) savedBare c.only = some [31] :=
  ⟨turn_of _ _ _ _ _ (by decide +kernel), by decide +kernel⟩
/-- A target of another partition; one that is not yielded. -/
theorem witness_Resumes_fullResume_refused :
    (let c := yieldCmd 0x16 [(0x1C, 63)]
     Turn (flight svc [c]) 0 5 0x16 c ∧ yieldMode (flight svc [c]) 0 5 = 0 ∧ (takeCmd (flight svc [c]) c).wve.restores = [] ∧
       partOf c.target.1 ≠ partOf c.ring) ∧
    (let c := yieldCmd 0x16 []
     Turn (flight svc [runCmd, c]) 0 5 0x16 c ∧ partOf c.target.1 = partOf c.ring ∧
       getCmd (takeCmd (flight svc [runCmd, c]) c) c.target.1 c.target.2 = some runCmd ∧ runCmd.st ≠ .yielded) :=
  ⟨⟨turn_of _ _ _ _ _ (by decide +kernel), by decide +kernel⟩, turn_of _ _ _ _ _ (by decide +kernel), by decide +kernel⟩
/-- The commit word of the area stands on its page of T2. -/
def restoreGood : State :=
  let s := savedOn { yieldCmd 0x16 [] with taken := true } [⟨0, 5, 0, 0, [31], 0⟩]
  memWrite (put { s with mem := (mapped 0 0 (t2Page 9)).mem } [(Reg.XLT_ROOT_VALID, 0, 1)]) 0 65532 4 0x59415645
theorem witness_Resumes_yieldEnds_good : let s := restoreGood
    awake s = true ∧ s.wve.restores.find? (fun x => x.ring == 0 && x.idx == 5) = some ⟨0, 5, 0, 0, [31], 0⟩ ∧
    let s1 : State := { s with wve := { s.wve with restores := s.wve.restores.filter fun z => !(z.ring == 0 && z.idx == 5) } }
    savedOf s1 0 0 = some saved0 ∧ memRead s1 (partOf 0) (saved0.area + 65532) 4 = 0x59415645 := by decide +kernel
theorem witness_Resumes_yieldEnds_abandon : let c := yieldCmd 0x17 []
    let s1 := takeCmd (savedOn c []) c
    Turn (savedOn c []) 0 5 0x17 c ∧ partOf c.target.1 = partOf 0 ∧ getCmd s1 c.target.1 c.target.2 = some yielded ∧
      savedOf s1 c.target.1 c.target.2 = some saved0 ∧ yielded.st = .yielded ∧ yielded.finished = false :=
  ⟨turn_of _ _ _ _ _ (by decide +kernel), by decide +kernel⟩
/-- A running invocation with no save area; with one of no T2 page, or of a page of T2. -/
theorem witness_FullYield_refused : let c := yieldCmd 0x15 []
    let s1 := takeCmd (yieldOn runCmd c []) c
    (match startYield s1 0 0 1 (some (0, 5)) with | .no code => code | .started _ => 0) = 0x33 := by decide +kernel
/-- A save area of the last pages of a device range of 1,024 pages, in T2, for one island. -/
def areaCmd : Cmd := { cmdOf 0 0 0x11 0 [(0x14, 1), (0x30, 65536), (0x38, 54637824)] with
  taken := true, st := .running, bind := some 0 }
/-- Level 3 entries of T2 pages `a` to `a + n - 1`. -/
def t2Entries (a n : Nat) : Tbl DWord := (List.range' a n).map fun i => (i, BitVec.ofNat 64 (t2Page i))
theorem t2Entries_get (k n a : Nat) (h : a ≤ k) (hk : k < a + n) :
    tget (fun _ => 0) (t2Entries a n) k = BitVec.ofNat 64 (t2Page k) := by
  induction n generalizing a with
  | zero => omega
  | succ n ih =>
    rw [t2Entries, List.range'_succ, List.map_cons, tget]
    split
    · simp [*]
    · exact ih (a + 1) (by omega) (by omega)
def areaOn (c : Cmd) : State :=
  let s := put (yieldOn areaCmd c []) [(Reg.XLT_ROOT_VALID, 0, 1)]
  { s with mem := { s.mem with l3 := t2Entries 1 834 } }
/-- The pages of that area are in T2 already. -/
theorem savePages_area (s : State) (h : s.mem.l3 = t2Entries 1 834) (hr : rd s Reg.XLT_ROOT_VALID 0 = 1) (hm : s.mem.segs = []) :
    savePages s 0 areaCmd = some [] := by
  have hp : pagesOf (areaCmd.fld 0x30 8) (areaCmd.fld 0x38 8) = (List.range 834).map (1 + ·) := by decide +kernel
  have hb : ∀ g < 835, let e := (BitVec.ofNat 64 (t2Page g)).toNat
      isLocal e = true ∧ eWr e = true ∧ ePsn e = false ∧ eTier e = 0 := by decide +kernel
  have he (g : Nat) (hg : g ∈ (List.range 834).map (1 + ·)) : l3e s 0 g = (BitVec.ofNat 64 (t2Page g)).toNat ∧ g < 835 := by
    obtain ⟨j, hj, rfl⟩ := List.mem_map.1 hg
    have := List.mem_range.1 hj
    refine ⟨?_, by omega⟩
    rw [l3e, h, Nat.mul_zero, Nat.zero_add, t2Entries_get _ _ _ (by omega) (by omega)]
  have hn (k : Nat) : migTo s k = none := by rw [migTo, getSeg, hm]; rfl
  unfold savePages
  rw [hp, if_pos, List.filter_eq_nil_iff.2]
  · intro g hg
    obtain ⟨e, l⟩ := he g hg
    obtain ⟨_, _, _, t⟩ := hb g l
    rw [e, t, hn]
    decide
  · refine List.all_eq_true.2 fun g hg => ?_
    obtain ⟨e, l⟩ := he g hg
    obtain ⟨a, b, c, _⟩ := hb g l
    simp only [e, a, b, c, hr]
    decide
/-- A yield of the running invocation whose save area that is starts. -/
theorem starts_area (s : State) (reason : Nat) (x : Option (Nat × Nat)) (hc : getCmd s 0 0 = some areaCmd)
    (hr : (match runOfCmd s 0 0 with | some y => y.2.2.1.place == [31] | none => false) = true)
    (h : savePages s 0 areaCmd = some []) :
    ∃ t, startYield s 0 0 reason x = .started t := by
  obtain ⟨⟨bd, nw, w, v⟩, hr, hp⟩ : ∃ y, runOfCmd s 0 0 = some y ∧ y.2.2.1.place = [31] := by
    split at hr
    · exact ⟨_, ‹_›, by simpa using hr⟩
    · cases hr
  have hs : ¬(areaCmd.fld 0x30 8 = 0 ∨ areaCmd.fld 0x38 8 < saveSize [31]) := by decide +kernel
  have h0 : savePages s (partOf 0) areaCmd = some [] := h
  replace hp : w.place = [31] := hp
  rw [← hp] at hs
  simp only [startYield, hc, hr, if_neg hs, h0, promote]
  exact ⟨_, rfl⟩
theorem witness_FullYield_started : ∃ t, startYield (takeCmd (areaOn (yieldCmd 0x15 [])) (yieldCmd 0x15 [])) 0 0 1
    (some (0, 5)) = .started t :=
  starts_area (takeCmd (areaOn (yieldCmd 0x15 [])) (yieldCmd 0x15 [])) 1 (some (0, 5)) (by decide +kernel)
    (by decide +kernel) (savePages_area _ rfl (by decide +kernel) (by decide +kernel))

def modelCmd (op : Nat) (l : List (Nat × Nat)) : Cmd := cmdOf 0 5 op 0 ((0x10, 255) :: l)
def modelOn (op : Nat) (l : List (Nat × Nat)) (x : Model) : State := flight (setModel svc 0 255 x) [modelCmd op l]

theorem witness_Models_set : let c := modelCmd 0x18 [(0x11, 1)]
    let s := modelOn 0x18 [(0x11, 1)] Model.idle
    Turn s 0 5 0x18 c ∧ (model (takeCmd s c) 0 (c.fld 0x10 1)).refs = [0, 0] ∧
      (model (takeCmd s c) 0 (c.fld 0x10 1)).swapPend = false ∧ c.fld 0x11 1 = 1 :=
  ⟨turn_of _ _ _ _ _ (by decide +kernel), by decide +kernel⟩
theorem witness_Models_busy : let x : Model := { Model.idle with refs := [0, 1] }
    let c := modelCmd 0x18 []
    let s := modelOn 0x18 [] x
    Turn s 0 5 0x18 c ∧ (model (takeCmd s c) 0 (c.fld 0x10 1)).refs ≠ [0, 0] :=
  ⟨turn_of _ _ _ _ _ (by decide +kernel), by decide +kernel⟩
/-- The active set is in use; the other may be staged, and swapped to once it has a size. -/
theorem witness_Models_stage_swap : let x : Model := { Model.idle with refs := [1, 0], size := [0, 65536] }
    (let c := modelCmd 0x19 []
     let s := modelOn 0x19 [] x
     let x := model (takeCmd s c) 0 (c.fld 0x10 1)
     Turn s 0 5 0x19 c ∧ x.refs.getD (1 - x.active) 0 = 0 ∧ x.swapPend = false) ∧
    (let c := modelCmd 0x1A []
     let s := modelOn 0x1A [] x
     let x := model (takeCmd s c) 0 (c.fld 0x10 1)
     Turn s 0 5 0x1A c ∧ x.size.getD (1 - x.active) 0 ≠ 0 ∧ x.swapPend = false) :=
  ⟨⟨turn_of _ _ _ _ _ (by decide +kernel), by decide +kernel⟩, turn_of _ _ _ _ _ (by decide +kernel), by decide +kernel⟩

/-- MODEL_SET of every class where no binding is taken: a set of no pages is pinned at once. -/
theorem witness_Models_set_classes : ∀ k ∈ [0, 1, 2], let c := modelCmd 0x18 [(0x11, k)]
    let s := modelOn 0x18 [(0x11, k)] Model.idle
    (ringOk 0 = true ∧ awake s = true ∧ turnOf s 0 5 0x18 = some c) ∧ c.fld 0x11 1 = k ∧
      rd (takeCmd s c) Reg.WVE_BIND_STATE (c.fld 0x38 1) = 0 ∧
      setPages (c.fld 0x18 8) (c.fld 0x20 8) ++ setPages (c.fld 0x28 8) (c.fld 0x30 8) = [] := by decide +kernel
theorem witness_Models_pin (s : State) : pinPages s 0 0 (some (0, 5)) [] = .done s := rfl
/-- Its binding is another partition's. -/
theorem witness_Models_foreign : let c := modelCmd 0x18 []
    let s := put (modelOn 0x18 [] Model.idle) [(Reg.WVE_BIND_STATE, 0, 2), (Reg.WVE_BIND_PART, 0, 7)]
    Turn s 0 5 0x18 c ∧ rd (takeCmd s c) Reg.WVE_BIND_STATE (c.fld 0x38 1) ≠ 0 ∧
      rd (takeCmd s c) Reg.WVE_BIND_PART (c.fld 0x38 1) ≠ partOf 0 :=
  ⟨turn_of _ _ _ _ _ (by decide +kernel), by decide +kernel⟩
/-- MODEL_STAGE of every class, and of a set in use; MODEL_SWAP to an empty set. -/
theorem witness_Models_stage_classes : ∀ k ∈ [0, 1, 2], let c := modelCmd 0x19 []
    let s := modelOn 0x19 [] { Model.idle with cls := k }
    let x := model (takeCmd s c) 0 (c.fld 0x10 1)
    (ringOk 0 = true ∧ awake s = true ∧ turnOf s 0 5 0x19 = some c) ∧ x.refs.getD (1 - x.active) 0 = 0 ∧ x.swapPend = false ∧
      x.cls = k ∧ setPages (c.fld 0x18 8) (c.fld 0x20 8) = [] := by decide +kernel
theorem witness_Models_refused :
    (let c := modelCmd 0x19 []
     let s := modelOn 0x19 [] { Model.idle with refs := [0, 1] }
     let x := model (takeCmd s c) 0 (c.fld 0x10 1)
     (ringOk 0 = true ∧ awake s = true ∧ turnOf s 0 5 0x19 = some c) ∧ x.refs.getD (1 - x.active) 0 ≠ 0) ∧
    (let c := modelCmd 0x1A []
     let s := modelOn 0x1A [] Model.idle
     let x := model (takeCmd s c) 0 (c.fld 0x10 1)
     (ringOk 0 = true ∧ awake s = true ∧ turnOf s 0 5 0x1A = some c) ∧ x.size.getD (1 - x.active) 0 = 0) := by decide +kernel

end Sys2Proof.Tests
end

