-- ==== Sys2Proof/Tests/WitnessRange.lean ====
section
/-! SUPPORT. Witnesses of the statements on the unified range, its porters, admission and faults: states and operands that meet their hypotheses. -/

namespace Sys2Proof.Tests

open Machine

set_option Elab.async false

/-! ### Memory operations and moves -/

/-- A memory operation of partition 7 on one page, the last of its range, engine 8. -/
def memCmd (op opt : Nat) (l : List (Nat × Nat)) : Cmd :=
  { cmdOf 63 5 op 8 ((0x10, 2 ^ 52 - 65536) :: (0x31, opt) :: l) with total := 1 }
def lastPage : Nat := 2 ^ 36 - 1
def memOn (e : Nat) (c : Cmd) : State := flight (mapped 7 lastPage e) [c]

theorem witness_MemoryOps : ∀ op ∈ [0x21, 0x22, 0x23, 0x24, 0x25, 0x26, 0x27, 0x28, 0x29, 0x2A],
    Turn (memOn (t2Page 0) (memCmd op 0 [])) 63 5 op (memCmd op 0 []) :=
  turns_of (fun op => memOn (t2Page 0) (memCmd op 0 [])) (fun op => memCmd op 0 []) _ _ _ (by decide +kernel)

theorem witness_PageOps_bits : (∀ op ∈ [0x23, 0x25, 0x26, 0x29, 0x2A],
      Turn (memOn (t2Page 0) (memCmd op 0xFF [])) 63 5 op (memCmd op 0xFF [])) ∧
    ∀ op ∈ [0x23, 0x25, 0x26, 0x29, 0x2A], let c := memCmd op 0xFF []
      c.total = 1 ∧ c.progress = 0 ∧ c.ring = 63 ∧ c.idx = 5 ∧
        eKind (l3e (memOn (t2Page 0) c) (partOf 63) (pageOf (c.fld 0x10 8))) ≠ 0 :=
  ⟨turns_of (fun op => memOn (t2Page 0) (memCmd op 0xFF [])) (fun op => memCmd op 0xFF []) _ _ _ (by decide +kernel),
    by decide +kernel⟩

/-- MAP of an unmapped page to ABSENT and to a WINDOW, of a mapped page; UNMAP of a WINDOW. -/
theorem witness_PageOps_map : ∀ x ∈ [(0x21, 1, 0), (0x21, 3, 0), (0x21, 1, t2Page 0), (0x22, 0, 3)],
    let c := memCmd x.1 x.2.1 [(0x32, 0x40)]
    let s := memOn x.2.2 c
    let g := pageOf (c.fld 0x10 8)
    (ringOk 63 = true ∧ awake s = true ∧ turnOf s 63 5 x.1 = some c) ∧ c.total = 1 ∧ c.progress = 0 ∧ c.ring = 63 ∧ c.idx = 5 ∧
      (rd s Reg.XLT_ROOT_VALID 7 = 1 ∧ bits (l1e s 7 g) 0 2 = 2 ∧ bits (l2e s 7 g) 0 2 = 2) ∧
      (x.1 = 0x21 → x.2.2 = 0 → eKind (l3e s 7 g) < 2 ∧ bits (c.fld 0x31 1) 0 2 = x.2.1) ∧
      (x.1 = 0x21 → x.2.2 ≠ 0 → 2 ≤ eKind (l3e s 7 g)) ∧
      (x.1 = 0x22 → eKind (l3e s 7 g) = 3 ∧ savePinned (takeCmd s c) 7 g = false ∧ pageLocked (takeCmd s c) 7 g = false) := by
  decide +kernel

/-- A MOVE of 64 KiB between two LOCAL pages of partition 0, on porter 1. -/
def moveCmd (arv : Nat) : Cmd := cmdOf 0 5 0x20 1 [(0x18, 65536), (0x20, 65536), (0x28, arv)]
def moveOn (c : Cmd) : State := flight (setL3 (mapped 0 0 (t2Page 0)) 0 1 (t2Page 1)) [c]

theorem witness_Moves_accepted : (Turn (moveOn (moveCmd 0)) 0 5 0x20 (moveCmd 0) ∧ (moveCmd 0).fld 0x28 8 = 0) ∧
    (Turn (moveOn (moveCmd 64)) 0 5 0x20 (moveCmd 64) ∧ (moveCmd 64).fld 0x28 8 ≠ 0 ∧ (moveCmd 64).arv = 0) :=
  ⟨⟨turn_of _ _ _ _ _ (by decide +kernel), by decide +kernel⟩, turn_of _ _ _ _ _ (by decide +kernel), by decide +kernel⟩

def moving : Cmd := { going (moveCmd 0) with total := 1 }
theorem witness_Moves_tile : let s := moveOn moving
    let h := HeldReq.tile 0 5
    ∃ o n u w, Turn s 0 5 0x20 moving ∧ moving.taken = true ∧ moving.fld 0x28 8 = 0 ∧ porterTurn s (moving.engine - 1) (partOf 0) = true ∧
      s.pow.pfail = false ∧ (moveTiles s moving)[moving.progress]? = some (o, n) ∧
      gateAll s (partOf 0) false h [(moving.fld 0x10 8 + o, n)] = .go u ∧
      gates s u (partOf 0) true true h [(moving.fld 0x18 8 + o, n)] = .go w := by
  obtain ⟨u, hu⟩ := Option.isSome_iff_exists.1
    (show (goneOf (gateAll (moveOn moving) (partOf 0) false (.tile 0 5) [(0, 65536)])).isSome = true by decide +kernel)
  have hw : (goneOf (gates (moveOn moving) ((goneOf (gateAll (moveOn moving) (partOf 0) false (.tile 0 5)
    [(0, 65536)])).getD svc) (partOf 0) true true (.tile 0 5) [(65536, 65536)])).isSome = true := by decide +kernel
  rw [hu, Option.getD_some] at hw
  obtain ⟨w, hw⟩ := go_of _ hw
  exact ⟨0, 65536, u, w, turn_of _ _ _ _ _ (by decide +kernel), by decide +kernel, by decide +kernel, by decide +kernel,
    by decide +kernel, by decide +kernel, gone_of _ _ hu, hw⟩

/-- Bushel 1023 has an issued request of 64 bytes, a fetch or a store. -/
def reqOn (store : Bool) : State :=
  let s := runIsl (mapped 0 0 (t2Page 0)) 31
  let s := setBind s 0 { Binding.idle with cur := some (weave0 0 1 0 [31]) }
  setBsh s 1023 { Bushel.idle with reqs := [⟨9, 0, store, 0, 0, 64, 0, false, .issued, false, 0, 0⟩] }
theorem witness_Moves_porterTile_bushel : ∀ store ∈ [false, true], let s := reqOn store
    let x : Req := ⟨9, 0, store, 0, 0, 64, 0, false, .issued, false, 0, 0⟩
    (awake s = true ∧ (bsh s 1023).reqs.find? (fun x => x.id == 9 && x.st == .issued &&
      porterTurn s x.porter (partOfIsl s (1023 / 32))) = some x) ∧ badByte s 1023 (x.sram + x.sent) x.part.2 = none ∧
      (goneOf (gate s (partOfIsl s (1023 / 32)) x.part.1 x.part.2 x.store false (.bushel 1023 9))).isSome = true := by decide +kernel
/-- A byte of what the store reads fails its parity. -/
theorem witness_Moves_porterTile_parity : let s0 := reqOn true
    let s : State := { s0 with fab := { s0.fab with badPar := [(2 ^ 21 * 1023 + 63, true)] } }
    let x : Req := ⟨9, 0, true, 0, 0, 64, 0, false, .issued, false, 0, 0⟩
    (bsh s 1023).reqs.find? (fun x => x.id == 9 && x.st == .issued && porterTurn s x.porter (partOfIsl s (1023 / 32))) = some x ∧
      badByte s 1023 (x.sram + x.sent) x.part.2 = some 63 := by decide +kernel

/-- A migration of the segment of page 0 from T2 to T3. -/
def migr0 (n : Nat) : Migr := ⟨4, 0, 0, 0, 0, 1, 0, false, n, 1, 1, none⟩
def migOn (n : Nat) : State := let s := mapped 0 0 (t2Page 0)
  let s := setSeg (setFseg (setFseg s 0 (some ⟨0, 0, false, false, 0, 0, false, none⟩)) (fsegKey 1 0)
    (some ⟨0, 0, false, false, 0, 0, false, none⟩)) 0 (some ⟨0, 0, some 4⟩)
  setMem s { s.mem with migs := [migr0 n] }
theorem witness_Moves_porterTile_migration : let s := migOn 0
    awake s = true ∧ s.mem.migs.find? (fun m => m.id == 4 && porterTurn s m.porter m.part) = some (migr0 0) ∧
      ((localPages s 0).filter fun g => !ePsn (l3e s 0 g))[(migr0 0).copied]? = some 0 ∧ hostHolds s 0 0 65536 = false ∧
      (granted s 0 (migr0 0).srcTier && granted s 0 (migr0 0).dstTier) = true := by decide +kernel

/-- An arrival move that requantises, its first tile to come. -/
def arriving (bits : Nat) : Cmd := { going (moveCmd 64) with arv := bits, total := 1 }
theorem witness_Moves_arrivalTile : let c := arriving 4
    let s := moveOn c
    Turn s 0 5 0x20 c ∧ c.taken = true ∧ c.arv ≠ 0 ∧ 0 ∉ c.landed ∧ porterTurn s (c.engine - 1) (partOf 0) = true ∧
      s.pow.pfail = false ∧ (moveTiles s c)[0]?.isSome = true ∧ aGather c.arv = false ∧ aHash c.arv = false :=
  ⟨turn_of _ _ _ _ _ (by decide +kernel), by decide +kernel⟩
/-- One that gathers, one that is checked and unpacked, and a tile the container no longer has. -/
theorem witness_Moves_arrivalTile_kinds : ∀ x ∈ [(1, 0), (16, 0), (4, 1)], let c : Cmd := { arriving x.1 with total := 2 }
    let s := moveOn c
    (ringOk 0 = true ∧ awake s = true ∧ turnOf s 0 5 0x20 = some c) ∧ c.taken = true ∧ c.arv ≠ 0 ∧ x.2 ∉ c.landed ∧
      porterTurn s (c.engine - 1) (partOf 0) = true ∧ s.pow.pfail = false ∧
      (x.1 = 16 → aGather c.arv = true) ∧ (x.1 = 1 → aGather c.arv = false ∧ aHash c.arv = true) ∧
      (x.1 = 4 → (moveTiles s c)[x.2]? = none ∧ x.2 < c.total) := by decide +kernel

/-- An arrival descriptor of zeros is bad, where it can be read; its page is not there; a save goes first. -/
theorem witness_Moves_moveAccepted_descriptor : ∃ u, let c := moveCmd 64
    let s1 := takeCmd (moveOn c) c
    gate s1 0 64 64 false true (.tile 0 5) = .go u ∧ arvBad (fresh u) (going c) (memRead u 0 64 64) = true := by
  obtain ⟨u, hu⟩ := Option.isSome_iff_exists.1 (show (goneOf (gate (takeCmd (moveOn (moveCmd 64)) (moveCmd 64)) 0 64 64 false true
    (.tile 0 5))).isSome = true by decide +kernel)
  have h : (goneOf (gate (takeCmd (moveOn (moveCmd 64)) (moveCmd 64)) 0 64 64 false true (.tile 0 5))).any (fun u =>
    arvBad (fresh u) (going (moveCmd 64)) (memRead u 0 64 64)) = true := by decide +kernel
  rw [hu] at h
  simp only [Option.any_some] at h
  exact ⟨u, gone_of _ _ hu, h⟩
theorem witness_Moves_moveAccepted_held : ∃ u, let c := moveCmd (2 ^ 51)
    Turn (moveOn c) 0 5 0x20 c ∧ c.arv = 0 ∧ gate (takeCmd (moveOn c) c) 0 (2 ^ 51) 64 false true (.tile 0 5) = .held u :=
  (held_of _ (show gateKind (gate (takeCmd (moveOn (moveCmd (2 ^ 51))) (moveCmd (2 ^ 51))) 0 (2 ^ 51) 64 false true (.tile 0 5)) = 1
    by decide +kernel)).imp fun _ h => ⟨turn_of _ _ _ _ _ (by decide +kernel), by decide +kernel, h⟩
/-- The regulator of its partition has nothing left. -/
def moveDry (a : Nat) : State := setBucket (put (moveOn (moveCmd a)) [(Reg.CMD_PART_REG_T2_RATE, 0, 1)]) 0 0 0
theorem witness_Moves_moveAccepted_wait : ∃ u, let c := moveCmd 64
    Turn (moveDry 64) 0 5 0x20 c ∧ gate (takeCmd (moveDry 64) c) 0 64 64 false true (.tile 0 5) = .wait u :=
  (wait_of _ (show gateKind (gate (takeCmd (moveDry 64) (moveCmd 64)) 0 64 64 false true (.tile 0 5)) = 2 by decide +kernel)).imp
    fun _ h => ⟨turn_of _ _ _ _ _ (by decide +kernel), h⟩

theorem witness_Migration_switch : let s := migOn 1
    awake s = true ∧ s.mem.migs.find? (fun m => m.id == 4) = some (migr0 1) ∧
      ((localPages s (migr0 1).seg).filter fun g => !ePsn (l3e s (migr0 1).part g)).length ≤ (migr0 1).copied := by decide +kernel
theorem witness_Migration_heat : awake svc = true := by decide +kernel
theorem witness_Migration_zeroFill : let s := setSeg (mapped 7 lastPage (1 + 2 ^ 10)) (segKey 7 lastPage) (some ⟨0, 2 ^ 23 - 1, none⟩)
    awake s = true ∧ translate s 7 (lastPage * 65536) false = .zfill ∧
      getSeg s (segKey 7 lastPage) = some ⟨0, 2 ^ 23 - 1, none⟩ ∧ s.mem.migs = [] := by decide +kernel

/-- Bushel 0 has an eligible request: granted, and with its regulator empty. -/
def issueOn (l : List (Fld × Nat × Nat)) : State :=
  let s := runIsl (put (mapped 0 0 (t2Page 0)) l) 0
  let s := setBind s 0 { Binding.idle with cur := some (weave0 0 1 0 [0]) }
  setBsh s 0 { Bushel.idle with reqs := [⟨9, 0, false, 0, 0, 64, 0, false, .eligible, false, 0, 0⟩] }
theorem witness_Requests_issue : let s := issueOn []
    let x : Req := ⟨9, 0, false, 0, 0, 64, 0, false, .eligible, false, 0, 0⟩
    let y := bsh s 0
    let clash (x : Req) : Bool := !x.store && y.reqs.any fun z => z.store && decide (z.id < x.id) && overlap z.da z.len x.da x.len
    awake s = true ∧ (isl s 0).released = true ∧ (isl s 0).stopped = false ∧
      y.reqs.find? (fun x => x.st == .eligible && !clash x) = some x ∧ grantedRange s (partOfIsl s 0) (x.da + x.sent) (x.len - x.sent) = true := by
  decide +kernel
theorem witness_Requests_throttled : let s := setBucket (issueOn [(Reg.CMD_PART_REG_T2_RATE, 0, 1)]) 0 0 0
    let x : Req := ⟨9, 0, false, 0, 0, 64, 0, false, .eligible, false, 0, 0⟩
    let y := bsh s 0
    let clash (x : Req) : Bool := !x.store && y.reqs.any fun z => z.store && decide (z.id < x.id) && overlap z.da z.len x.da x.len
    awake s = true ∧ (isl s 0).released = true ∧ (isl s 0).stopped = false ∧
      y.reqs.find? (fun x => x.st == .eligible && !clash x) = some x ∧ grantedRange s (partOfIsl s 0) (x.da + x.sent) (x.len - x.sent) = false := by
  decide +kernel

theorem witness_Bytes_poisoned : let s := mapped 7 lastPage (t2Page 5)
    let e := l3e s 7 lastPage
    awake s = true ∧ isLocal e = true ∧ eCln e = false ∧ eTier e = 0 ∧ getFseg s (fsegKey (eTier e) (eFrame e / 32)) = none ∧
      bits (l2e s 7 lastPage) 0 2 = 2 := by decide +kernel
/-- A page with CLN whose shadow entry names a clean copy; it serves where the second argument says so. -/
theorem witness_Bytes_clean : let s := setSh (mapped 7 lastPage (t2Page 5 + 16)) 7 lastPage (2 + 2 ^ 12)
    let e := l3e s 7 lastPage
    awake s = true ∧ isLocal e = true ∧ eCln e = true ∧ cleanCopy s 7 lastPage true = true ∧ cleanCopy s 7 lastPage false = false := by
  decide +kernel
/-- Its clean copy can be had at once. -/
theorem witness_Bytes_detection_ready : let s := setSh (mapped 7 lastPage (t2Page 5 + 16)) 7 lastPage (2 + 2 ^ 12)
    (match winAsk s 7 (.repair 7 lastPage) (copyParts s 7 lastPage) with | .ready => true | _ => false) = true := by decide +kernel
/-- An error in the heat entry of the page's frame segment; a page that is not LOCAL. -/
theorem witness_Bytes_detection_heat :
    let s := setFseg (mapped 0 0 (t2Page 0)) (fsegKey 0 0) (some ⟨0, 0, false, false, 9, 3, false, none⟩)
    let u := mapped 7 lastPage (t2Page 5)
    isLocal (l3e s 0 0) = true ∧ getFseg s (fsegKey (eTier (l3e s 0 0)) (eFrame (l3e s 0 0) / 32)) =
        some ⟨0, 0, false, false, 9, 3, false, none⟩ ∧ isLocal (l3e (mapped 0 0 1) 0 0) = false ∧
      rd u Reg.XLT_ROOT_VALID 7 = 1 ∧ bits (l1e u 7 lastPage) 0 2 = 2 ∧ bits (l2e u 7 lastPage) 0 2 = 2 := by decide +kernel
/-- The last byte of a page. -/
theorem witness_Bytes_write : let s := mapped 0 0 (t2Page 1)
    0 < 1 ∧ 65535 % 65536 + 1 ≤ 65536 ∧ translate s 0 65535 true = .t2 (65536 + 65535) ∧
      translate s 0 65535 false = .t2 (65536 + 65535) := by decide +kernel

/-! ### Admission and faults -/

/-- A command of ring 63, index 5, on its engine, alone in flight. -/
def soleCmd (op eng : Nat) (l : List (Nat × Nat)) : Cmd := cmdOf 63 5 op eng l
def slot7 : ASlot := ⟨7, 0, 0, 0, 0, [], []⟩

theorem witness_Admission : let c := soleCmd 0x2B 1 [(0x18, 2 ^ 51), (0x20, 2 ^ 50)]
    let d := soleCmd 0x2C 1 [(0x33, 255)]
    let s := flight (mapped 7 0 (t2Page 0)) [c]
    let u := flight svc [d]
    let u : State := { u with mem := { u.mem with slots := tset (fun _ => none) u.mem.slots 255 (some slot7) } }
    (Turn s 63 5 0x2B c ∧ rimRuns (takeCmd s c) = true) ∧ (Turn u 63 5 0x2C d ∧ rimRuns (takeCmd u d) = true ∧
      tget (fun _ => none) u.mem.slots (d.fld 0x33 1) = some slot7 ∧ slot7.part = partOf 63) :=
  ⟨⟨turn_of _ _ _ _ _ (by decide +kernel), by decide +kernel⟩, turn_of _ _ _ _ _ (by decide +kernel), by decide +kernel⟩

/-- A container of zeros is read, and is none; its page is not there; it has no frame yet. -/
def admitOn (e : Nat) : State := flight (setSeg (mapped 7 0 e) (segKey 7 0) (some ⟨0, 5, none⟩)) [soleCmd 0x2B 1 []]
def admitGate (s : State) : Gate := gate (takeCmd s (soleCmd 0x2B 1 [])) 7 0 256 false false (.tile 63 5)
theorem witness_Admission_bad : ∃ u, Turn (admitOn (t2Page 0)) 63 5 0x2B (soleCmd 0x2B 1 []) ∧
    admitGate (admitOn (t2Page 0)) = .go u ∧ headerOk u 7 (readContainer u 7 0) = false := by
  obtain ⟨u, hu⟩ := Option.isSome_iff_exists.1 (show (goneOf (admitGate (admitOn (t2Page 0)))).isSome = true by decide +kernel)
  have h : (goneOf (admitGate (admitOn (t2Page 0)))).all (fun u => !headerOk u 7 (readContainer u 7 0)) = true := by decide +kernel
  rw [hu, Option.all_some, Bool.not_eq_true'] at h
  exact ⟨u, turn_of _ _ _ _ _ (by decide +kernel), gone_of _ _ hu, h⟩
theorem witness_Admission_held : ∃ u, Turn (admitOn 0) 63 5 0x2B (soleCmd 0x2B 1 []) ∧ admitGate (admitOn 0) = .held u :=
  (held_of _ (show gateKind (admitGate (admitOn 0)) = 1 by decide +kernel)).imp
    fun _ h => ⟨turn_of _ _ _ _ _ (by decide +kernel), h⟩
theorem witness_Admission_wait : ∃ u, let s := admitOn (1 + 2 ^ 10)
    Turn s 63 5 0x2B (soleCmd 0x2B 1 []) ∧ admitGate s = .wait u :=
  (wait_of _ (show gateKind (admitGate (admitOn (1 + 2 ^ 10))) = 2 by decide +kernel)).imp
    fun _ h => ⟨turn_of _ _ _ _ _ (by decide +kernel), h⟩
/-- A container of one chunk and one code table, its regions one after the other: magic, version, size, counts, offsets. -/
def container : State :=
  flight ([(0, 4, 0x31434D4E), (4, 2, 1), (8, 8, 4688), (0x10, 8, 1), (0x1C, 4, 1), (0x20, 8, 256), (0x28, 8, 4624), (0x30, 8, 4352),
      (0x38, 8, 4624), (0x40, 8, 4368), (0x48, 8, 4624)].foldl (fun s x => memWrite s 7 x.1 x.2.1 x.2.2) (mapped 7 0 (t2Page 0)))
    [soleCmd 0x2B 1 []]
theorem witness_Admission_good : ∃ u v, Turn container 63 5 0x2B (soleCmd 0x2B 1 []) ∧ admitGate container = .go u ∧
    let h := readContainer u 7 0
    headerOk u 7 h = true ∧ regionsOk h.size (regions h) = true ∧
      gateAll u 7 false (.tile 63 5) ((0, 256) :: admitReads h 0 0) = .go v := by
  obtain ⟨u, hu⟩ := Option.isSome_iff_exists.1 (show (goneOf (admitGate container)).isSome = true by decide +kernel)
  have h : (goneOf (admitGate container)).all (fun u => let h := readContainer u 7 0
    headerOk u 7 h && regionsOk h.size (regions h) &&
      (goneOf (gateAll u 7 false (.tile 63 5) ((0, 256) :: admitReads h 0 0))).isSome) = true := by decide +kernel
  rw [hu, Option.all_some] at h
  simp only [Bool.and_eq_true] at h
  obtain ⟨v, hv⟩ := Option.isSome_iff_exists.1 h.2
  exact ⟨u, v, turn_of _ _ _ _ _ (by decide +kernel), gone_of _ _ hu, h.1.1, h.1.2, gone_of _ _ hv⟩
/-- The slot of another partition; a free one. -/
theorem witness_Admission_unadmit : let d := soleCmd 0x2C 1 [(0x33, 255)]
    let u := flight svc [d]
    let v : State := { u with mem := { u.mem with slots := tset (fun _ => none) u.mem.slots 255 (some { slot7 with part := 6 }) } }
    (Turn v 63 5 0x2C d ∧ tget (fun _ => none) v.mem.slots (d.fld 0x33 1) = some { slot7 with part := 6 }) ∧
      (Turn u 63 5 0x2C d ∧ tget (fun _ => none) u.mem.slots (d.fld 0x33 1) = none) :=
  ⟨⟨turn_of _ _ _ _ _ (by decide +kernel), by decide +kernel⟩, turn_of _ _ _ _ _ (by decide +kernel), by decide +kernel⟩

/-- A record of partition 7, its SEQ `q`, of page 0, a fault that holds a tile. -/
def rec7 (q : Option Nat) : FaultRec := ⟨q, 7, 0, 1, 3, 1, false, false, false, false, 0, 63, 0, 0, [.tile 63 5]⟩
/-- Its log stands on page 1, the last place but one before the index wraps in use. -/
def logOn (f : FaultRec) : State :=
  let s := put (setL3 (mapped 7 0 (t2Page 0)) 7 1 (t2Page 1 + 64))
    [(Reg.XLT_FLT_CTRL_LOG_OK, 7, 1), (Reg.XLT_FLOG_BASE_LO_ADDR, 7, 65536 / 2 ^ Reg.XLT_FLOG_BASE_LO_ADDR.lo),
     (Reg.XLT_FLOG_WR, 7, 2 ^ 32 - 1), (Reg.XLT_FLOG_RD, 7, 2 ^ 32 - 256)]
  setMem s { s.mem with faults := [f] }
theorem witness_Faults_log : let f := rec7 (some (2 ^ 32 - 1))
    let s := logOn f
    let seq := rd s Reg.XLT_FLOG_WR 7
    awake s = true ∧ s.mem.faults.find? (fun f => f.part == 7 && f.seq == some seq && !f.written) = some f ∧
      rd s Reg.XLT_FLT_CTRL_LOG_OK 7 = 1 ∧ sub32 seq (rd s Reg.XLT_FLOG_RD 7) < 256 ∧ probe s 7 (logAddr s 7 seq) 32 true = .ok := by
  decide +kernel

theorem witness_Faults_ends : ∀ a ∈ [Reg.XLT_RESOLVE.addr 7, Reg.XLT_FAILSEQ.addr 7, Reg.XLT_FLT_CTRL_RETRY_ALL.addr 7,
    Reg.XLT_FLOG_RD.addr 7, Reg.XLT_FLOG_BASE_LO_ADDR.addr 7, Reg.XLT_FLOG_BASE_HI_ADDR.addr 7],
    Open (logOn (rec7 (some 5))) .host a := opens_of _ _ _ (by decide +kernel)

theorem witness_Faults_retranslate : let f : FaultRec := rec7 none
    let s := logOn f
    awake s = true ∧ (s.mem.faults.filter fun f => f.seq.isNone)[0]? = some f ∧
      ∀ kind sub, translate s f.part (f.page * 65536) f.wr ≠ .flt kind sub := by
  refine ⟨by decide +kernel, by decide +kernel, fun kind sub h => ?_⟩
  rw [show translate (logOn (rec7 none)) (rec7 none).part ((rec7 none).page * 65536) (rec7 none).wr = .t2 0 by decide +kernel] at h
  cases h

/-- The running weave of binding 31 has a request that a fault holds. -/
theorem witness_Faults_wait :
    let v : Invoc := inv0 1
    let s := setBind (put svc [(Reg.XLT_YIELD_WAIT, 0, 1)]) 31 { Binding.idle with cur := some (weave0 0 1 0 [31]), inv := some v }
    let s := setBsh s 1023 { Bushel.idle with reqs := [⟨9, 0, false, 0, 0, 64, 0, false, .held, false, 0, 0⟩] }
    awake s = true ∧ rd s Reg.XLT_YIELD_WAIT 0 ≠ 0 ∧ weaveOf s 31 false = some (weave0 0 1 0 [31]) ∧ invOf s 31 false = some v ∧
      (∃ n ∈ (weave0 0 1 0 [31]).place, ∃ k < 32, ∃ q ∈ (bsh s (32 * n + k)).reqs, q.st = .held) ∧
      yieldBusy s v.ring v.idx = false := by decide +kernel
/-- Its yield is refused, for want of a save area; or it starts. -/
theorem witness_Faults_faultWaits_yield :
    (let s := flight (roundsOn 0 2 2 islRun) [runCmd]
     (match startYield s 0 0 2 none with | .no code => code | .started _ => 0) = 0x33) ∧
    ∃ t, startYield (areaOn (yieldCmd 0x15 [])) 0 0 2 none = .started t :=
  ⟨by decide +kernel, starts_area (areaOn (yieldCmd 0x15 [])) 2 none (by decide +kernel) (by decide +kernel)
    (savePages_area _ rfl (by decide +kernel) (by decide +kernel))⟩

end Sys2Proof.Tests
end

