-- ==== Sys2Proof/Tests/WitnessFront.lean ====
section
/-! SUPPORT. Witnesses of the statements on the front end, the sampler and the index: states and operands that meet their hypotheses. -/

namespace Sys2Proof.Tests

open Machine

set_option Elab.async false

/-! ### The front end -/

/-- Rings' registers take writes of every agent. -/
theorem witness_RingRegisters_open : ∀ ag ∈ [Agent.host, .board, .rim, .lead], ∀ a ∈ [Reg.CMD_RING_DB.addr 63, Reg.CMD_RING_CFG_EN.addr 63,
    Reg.CMD_SEM_VAL.addr 0, Reg.CMD_LED_CLR.addr 0, (regWord 0).addr 7, (regWord 1).addr 7, (regWord 2).addr 0], Open svc ag a := by
  intro ag h
  fin_cases h <;> exact opens_of _ _ _ (by decide +kernel)
/-- A tail as far ahead of CQ_HEAD as the ring is long, and one further. -/
theorem witness_RingRegisters_doorbell : rd svc Reg.CMD_RING_CFG_STATE 63 ≠ 3 ∧
    ¬(ringSize svc 63 < sub32 (64 % 2 ^ 32) (rd svc Reg.CMD_RING_CQ_HEAD 63)) ∧
    ringSize svc 63 < sub32 (65 % 2 ^ 32) (rd svc Reg.CMD_RING_CQ_HEAD 63) := by decide +kernel
theorem witness_RingRegisters_states : (∀ v ∈ [32, 48, 63], v < 2 ^ 32 ∧ rd svc Reg.CMD_RING_CFG_EN 63 = 0 ∧ bit v 5 = true ∧
      bits v 8 3 = 0 ∧ rd svc Reg.CMD_RING_CFG_STATE 63 = 0) ∧
    (∀ st ∈ [1, 2], rd (put svc [(Reg.CMD_RING_CFG_STATE, 63, st)]) Reg.CMD_RING_CFG_STATE 63 = st) ∧ inflightOf svc 63 = [] := by
  decide +kernel

/-- Ring 63 runs, its base at 0 of partition 7, a page of T2, HEAD at the last index and the tail one beyond it. -/
def ringOn : State := put (mapped 7 0 (t2Page 0)) [(Reg.CMD_RING_CFG_STATE, 63, 1), (Reg.CMD_RING_HEAD, 63, 2 ^ 32 - 1),
  (Reg.CMD_RING_CQ_HEAD, 63, 2 ^ 32 - 64)]
theorem witness_FetchDispatch_fetch : ∃ u, awake ringOn = true ∧ mayFetch ringOn 63 = true ∧
    gate ringOn (partOf 63) (ringBase ringOn 63 + 64 * (rd ringOn Reg.CMD_RING_HEAD 63 % ringSize ringOn 63)) 64 false true
      (.descRead 63) = .go u := by
  obtain ⟨u, h⟩ := go_of (gate ringOn (partOf 63) (ringBase ringOn 63 + 64 * (rd ringOn Reg.CMD_RING_HEAD 63 % ringSize ringOn 63)) 64
    false true (.descRead 63)) (by decide +kernel)
  exact ⟨u, by decide +kernel, by decide +kernel, h⟩

/-- A fetched command of ring 63; the collector has one entry left. -/
def fetchedOn (c : Cmd) : State := { ringOn with front := { ringOn.front with fetched := [c] } }
theorem witness_FetchDispatch_dispatch : ∀ d ∈ [0x02, 0x00, 0x21], let c := newCmd 63 7 d
    let s := fetchedOn c
    awake s = true ∧ intakeStopped s = false ∧ bit (rd s Reg.CEN_HOLD 0) 5 = false ∧ stopping s 63 = false ∧
      readyCmd s 63 = some c ∧ (entryOrder s).length ≤ 4096 - colUse s := by decide +kernel
/-- An unknown operation is malformed at offset 0; a NOP is not, and goes to the front end. -/
theorem witness_FetchDispatch_malformed : malformed { newCmd 63 7 0x02 with st := .dispatched } = some 0 ∧
    malformed { newCmd 63 7 0 with st := .dispatched } = none ∧ (newCmd 63 7 0).flag 4 = false ∧
    engineOf (newCmd 63 7 0).op ≠ 1 := by decide +kernel
/-- A NOP that waits for semaphore 0 of partition 7 and ends where the semaphore tells of a failure, which it does. -/
theorem witness_FetchDispatch_semErr : let c := newCmd 63 7 0x1200
    let s := setSemErr (fetchedOn c) 7 0 true
    readyCmd s 63 = some c ∧ stopping s 63 = false ∧ (entryOrder s).length ≤ 4096 - colUse s ∧
      malformed { c with st := .dispatched } = none ∧ c.flag 1 = true ∧ c.flag 4 = true ∧ semErr s 7 (c.fld 2 1) = true := by
  decide +kernel

theorem witness_FetchDispatch_front : ∀ op ∈ [0x00, 0x01], Turn (flight svc [cmdOf 63 5 op 14 []]) 63 5 op (cmdOf 63 5 op 14 []) :=
  turns_of (fun op => flight svc [cmdOf 63 5 op 14 []]) (fun op => cmdOf 63 5 op 14 []) _ _ _ (by decide +kernel)

/-- A finished command: one that signals semaphore 255 of partition 7, and a SEM_SET of it. -/
def finished (op flags : Nat) : Cmd := { cmdOf 63 5 op 14 [(1, flags), (3, 255)] with finished := true }
theorem witness_Retirement : ∀ x ∈ [(0x00, 4), (0x01, 0)], let c := finished x.1 x.2
    let s := flight svc [c]
    awake s = true ∧ getCmd s 63 5 = some c ∧ c.finished = true ∧ c.st ≠ .held ∧ writesOpen s 63 5 = false ∧
      rd s Reg.PWR_STAT_PFHALT 0 = 0 ∧ stopsSelf c = false ∧
      tget (fun _ => false) s.front.recStop 63 = false ∧ c.mref = none ∧ latch s 63 = none ∧
      (x.1 = 0 → c.op ≠ 1 ∧ c.flag 2 = true) ∧ (x.1 = 1 → c.op = 1 ∧ c.status = 0 ∧ c.flag 2 = false) := by decide +kernel
/-- A finished boundary YIELD of its own ring, which runs. -/
theorem witness_Retirement_stops : let c : Cmd := { cmdOf 63 5 0x15 0 [(0x10, 1), (0x1C, 63)] with finished := true }
    let s := flight (put svc [(Reg.CMD_RING_CFG_STATE, 63, 1)]) [c]
    awake s = true ∧ getCmd s 63 5 = some c ∧ c.finished = true ∧ c.st ≠ .held ∧ writesOpen s 63 5 = false ∧ stopsSelf c = true ∧
      rd s Reg.CMD_RING_CFG_STATE 63 = 1 := by decide +kernel
/-- A retired command and a time limit; a write of its record to a peer is open or not. -/
def retiredCmd : Cmd := { finished 0 0 with st := .retired }
def retiredOn (l : List WReq) : State :=
  let s := put ringOn [(Reg.CMD_RING_COAL_TIME, 63, 1)]
  { s with front := { s.front with retired := [retiredCmd], pend := tset (fun _ => 0) s.front.pend 63 1 }
           skl := { s.skl with reqs := l } }
def recGate (s : State) : Gate :=
  gate s (partOf 63) (ringBase s 63 + 64 * ringSize s 63 + 32 * (retiredCmd.idx % ringSize s 63)) 32 true true (.recWrite 63 5)
def recAfter (s u : State) : State :=
  let a := ringBase s 63 + 64 * ringSize s 63 + 32 * (retiredCmd.idx % ringSize s 63)
  claim (memWrite (abortOnWrite u (partOf 63) a 32) (partOf 63) a 32 (recordOf u retiredCmd)) (.recWrite 63 5)
theorem witness_Retirement_completion_written : ∃ u, let s := retiredOn []
    awake s = true ∧ s.front.retired.find? (fun c => c.ring == 63) = some retiredCmd ∧
      tget (fun _ => false) s.front.recHeld 63 = false ∧ rd s Reg.PWR_STAT_PFHALT 0 = 0 ∧ recGate s = .go u ∧
      recordOpen (recAfter s u) 63 5 = false := by
  have h : (goneOf (recGate (retiredOn []))).any (fun u => !recordOpen (recAfter (retiredOn []) u) 63 5) = true := by decide +kernel
  obtain ⟨u, hu⟩ := go_of (recGate (retiredOn [])) (by decide +kernel)
  rw [hu] at h
  exact ⟨u, by decide +kernel, by decide +kernel, by decide +kernel, by decide +kernel, hu, by simpa [goneOf] using h⟩
theorem witness_Retirement_completion_open : ∃ u, let s := retiredOn [⟨0, 1, 7, 0, 0, 0, some (.recWrite 63 5), true, 0, [], .asked⟩]
    recGate s = .go u ∧ recordOpen (recAfter s u) 63 5 = true := by
  have h : (goneOf (recGate (retiredOn [⟨0, 1, 7, 0, 0, 0, some (.recWrite 63 5), true, 0, [], .asked⟩]))).any (fun u =>
    recordOpen (recAfter (retiredOn [⟨0, 1, 7, 0, 0, 0, some (.recWrite 63 5), true, 0, [], .asked⟩]) u) 63 5) = true := by
    decide +kernel
  obtain ⟨u, hu⟩ := go_of (recGate (retiredOn [⟨0, 1, 7, 0, 0, 0, some (.recWrite 63 5), true, 0, [], .asked⟩])) (by decide +kernel)
  rw [hu] at h
  exact ⟨u, hu, by simpa [goneOf] using h⟩
theorem witness_Retirement_completion_timeout : awake (retiredOn []) = true ∧ rd (retiredOn []) Reg.CMD_RING_COAL_TIME 63 ≠ 0 ∧
    tget (fun _ => 0) (retiredOn []).front.pend 63 ≠ 0 := by decide +kernel

/-! ### The sampler -/

/-- A command of partition 7 on an engine, its page 0 LOCAL in T2, pinned. -/
def svcOn (c : Cmd) : State := flight (mapped 7 0 (t2Page 0 + 64)) [c]
/-- Slot 127, good parameters: TEMP 1, TOPP 1, REP 1, vocabulary 1. -/
def setCmd : Cmd := soleCmd 0x40 9 [(0x10, 127), (0x11, 7), (0x14, 0x3F800000), (0x18, 0x3F800000), (0x20, 0x3F800000), (0x2C, 1)]
/-- Slot 127 is open, of partition `p`, greedy, of a vocabulary of two. -/
def slotOn (p : Nat) (s : State) : State :=
  setSslot (put s [(Reg.SMP_SLOT_OPEN, 3, 2 ^ 31)]) 127 { SSlot.idle with part := p, vocab := 2, topp := 0x3F800000, rep := 0x3F800000 }

theorem witness_SamplerSlots_set : (let c := setCmd
    let s := put (svcOn c) [(Reg.SMP_SLOT_Q_MAX, 7, 1)]
    Turn s 63 5 0x40 c ∧ c.fld 0x10 1 < 128 ∧ slotParamsOk c = true ∧ spillOk s (partOf 63) (c.fld 0x38 8) = true ∧
      (slotOpen s (c.fld 0x10 1) = true → (sslot s (c.fld 0x10 1)).part = partOf 63) ∧
      (slotOpen s (c.fld 0x10 1) = false → bit (c.fld 0x11 1) 0 = true ∧ slotsHeld s (partOf 63) < rd s Reg.SMP_SLOT_Q_MAX (partOf 63))) ∧
    (let c := soleCmd 0x40 9 [(0x10, 128)]
     Turn (svcOn c) 63 5 0x40 c ∧ 128 ≤ c.fld 0x10 1) :=
  ⟨⟨turn_of _ _ _ _ _ (by decide +kernel), by decide +kernel⟩, turn_of _ _ _ _ _ (by decide +kernel), by decide +kernel⟩
/-- Closing a slot of the partition, and another partition's. -/
theorem witness_SamplerSlots_close : ∀ p ∈ [7, 6], let c := soleCmd 0x41 9 [(0x10, 127)]
    let s := slotOn p (svcOn c)
    (ringOk 63 = true ∧ awake s = true ∧ turnOf s 63 5 0x41 = some c) ∧
      slotBar s (partOf 63) (c.fld 0x10 1) = (if p = 7 then 0 else 0x71) := by decide +kernel
/-- Tokens 0 and 0, at 0, counted; another partition's slot. -/
theorem witness_SamplerSlots_count : let c := soleCmd 0x44 9 [(0x10, 127), (0x20, 2)]
    let s := slotOn 7 (svcOn c)
    Turn s 63 5 0x44 c ∧ 1 ≤ c.fld 0x20 4 ∧ c.fld 0x20 4 ≤ 16777215 ∧ slotBar s (partOf 63) (c.fld 0x10 1) = 0 ∧
      slotBar (slotOn 6 (svcOn c)) (partOf 63) (c.fld 0x10 1) ≠ 0 ∧
      ∃ w, Granted (takeCmd s c) (partOf 63) (.service 63 5) ((c.fld 0x18 8, 4 * c.fld 0x20 4) :: spills (takeCmd s c) [c.fld 0x10 1])
        (spills (takeCmd s c) [c.fld 0x10 1]) w :=
  ⟨turn_of _ _ _ _ _ (by decide +kernel), by decide +kernel, by decide +kernel, by decide +kernel, by decide +kernel,
    granted_of _ _ _ _ _ (by decide +kernel)⟩

/-- A PICK of one entry (slot 127, row at 64) whose list is at 0; its output at 1,024. -/
def pickOn (n : Nat) : Cmd := soleCmd 0x42 9 [(0x18, n), (0x20, 1024)]
def pickSt : State := memWrite (memWrite (slotOn 7 (svcOn (pickOn 1))) 7 0 8 64) 7 8 1 127
theorem witness_SamplerDraws_pick_none : ∀ n ∈ [0, 129], let c := pickOn n
    (ringOk 63 = true ∧ awake (svcOn c) = true ∧ turnOf (svcOn c) 63 5 0x42 = some c) ∧ (c.fld 0x18 4 = 0 ∨ 128 < c.fld 0x18 4) := by
  decide +kernel
theorem witness_SamplerDraws_pick : let c := pickOn 1
    ∃ u w, Turn pickSt 63 5 0x42 c ∧ 1 ≤ c.fld 0x18 4 ∧ c.fld 0x18 4 ≤ 128 ∧
      Peeked (takeCmd pickSt c) 63 5 [(c.fld 0x10 8, 16 * c.fld 0x18 4)] u ∧
      let es := (List.range (c.fld 0x18 4)).map fun k => pickEntry u (partOf 63) (c.fld 0x10 8 + 16 * k)
      (∀ e ∈ es, slotBar u (partOf 63) e.2.1 = 0 ∧ rowOk e.1 = true) ∧
      let sp := spills u ((es.filter fun e => !e.2.2).map fun e => e.2.1)
      Granted u (partOf 63) (.service 63 5) ((c.fld 0x10 8, 16 * c.fld 0x18 4) :: (es.map fun e => (e.1, rowBytes (sslot u e.2.1))) ++ sp)
        ((c.fld 0x20 8, 8 * c.fld 0x18 4) :: sp) w := by
  have h : (peek (takeCmd pickSt (pickOn 1)) 63 5 [((pickOn 1).fld 0x10 8, 16 * (pickOn 1).fld 0x18 4)]).isSome = true := by
    decide +kernel
  obtain ⟨u, hu⟩ := Option.isSome_iff_exists.1 h
  have hb : (let u := (peek (takeCmd pickSt (pickOn 1)) 63 5 [((pickOn 1).fld 0x10 8, 16 * (pickOn 1).fld 0x18 4)]).getD svc
      let c := pickOn 1
      let es := (List.range (c.fld 0x18 4)).map fun k => pickEntry u (partOf 63) (c.fld 0x10 8 + 16 * k)
      let sp := spills u ((es.filter fun e => !e.2.2).map fun e => e.2.1)
      (∀ e ∈ es, slotBar u (partOf 63) e.2.1 = 0 ∧ rowOk e.1 = true) ∧
      (((goneOf (gateAll u (partOf 63) false (.service 63 5) (((c.fld 0x10 8, 16 * c.fld 0x18 4) ::
        (es.map fun e => (e.1, rowBytes (sslot u e.2.1))) ++ sp).filter fun e => decide (e.2 ≠ 0)))).bind fun v =>
          goneOf (gates u v (partOf 63) true true (.service 63 5)
            (((c.fld 0x20 8, 8 * c.fld 0x18 4) :: sp).filter fun e => decide (e.2 ≠ 0)))).isSome = true)) := by decide +kernel
  rw [hu, Option.getD_some] at hb
  obtain ⟨w, hw⟩ := granted_of _ _ _ _ _ hb.2
  exact ⟨u, w, turn_of _ _ _ _ _ (by decide +kernel), by decide +kernel, by decide +kernel, peeked_of _ _ _ _ _ hu, hb.1, hw⟩
/-- The two ends of a draw: a list of one, and a row under TOPK 1. -/
theorem witness_SamplerDraws_draw : [(5, 0x3F800000)] ≠ ([] : List (Nat × Nat)) ∧ ({ SSlot.idle with topk := 1 } : SSlot).topk ≠ 0 := by
  decide

/-- A VERIFY of one entry at 0 (tree rows at 64, output at 1,024, nodes at 4,096, slot 127, one node, a child of the root). -/
def verCmd (n : Nat) : Cmd := soleCmd 0x43 9 [(0x18, n)]
def verSt : State :=
  [(0, 8, 64), (8, 8, 4096), (16, 8, 1024), (24, 1, 127), (25, 1, 1), (4096 + 12, 1, 0xFF)].foldl
    (fun s e => memWrite s 7 e.1 e.2.1 e.2.2) (slotOn 7 (svcOn (verCmd 1)))
theorem witness_SamplerDraws_verify_none : ∀ n ∈ [0, 129], let c := verCmd n
    (ringOk 63 = true ∧ awake (svcOn c) = true ∧ turnOf (svcOn c) 63 5 0x43 = some c) ∧ (c.fld 0x18 4 = 0 ∨ 128 < c.fld 0x18 4) := by
  decide +kernel
theorem witness_SamplerDraws_verify :
    let c := verCmd 1
    let s1 := takeCmd verSt c
    let l1 := [(c.fld 0x10 8, 32 * c.fld 0x18 4)]
    let u := (peek s1 63 5 l1).getD svc
    let es := (List.range (c.fld 0x18 4)).map fun k => verifyEntry u 7 (c.fld 0x10 8 + 32 * k)
    let l2 := es.map fun e => (e.nodes, 16 * e.n)
    let v := (peek u 63 5 l2).getD svc
    let nodes (e : VEntry) := (List.range e.n).map fun k => nodeEntry v 7 (e.nodes + 16 * k)
    let rows := es.flatMap fun e => (e.trows, (e.n + 1) * rowBytes (sslot v e.slot)) ::
      (if (ofF32 (sslot v e.slot).temp).isZero then [] else
        ((nodes e).map DNode.drow).eraseDups.map fun d => (d, rowBytes (sslot v e.slot)))
    let outs := (es.map fun e => (e.out, 128)) ++ spills v (es.map VEntry.slot)
    Turn verSt 63 5 0x43 c ∧ 1 ≤ c.fld 0x18 4 ∧ c.fld 0x18 4 ≤ 128 ∧ Peeked s1 63 5 l1 u ∧ (∀ e ∈ es, 1 ≤ e.n ∧ e.n ≤ 16) ∧
      Peeked u 63 5 l2 v ∧ (∀ e ∈ es, verifyBar v 7 e (nodes e) = 0) ∧
      ∃ w, Granted v 7 (.service 63 5) ((l1 ++ l2) ++ rows ++ spills v (es.map VEntry.slot)) outs w := by
  have some_of {α : Type} (o : Option α) (d : α) (h : o.isSome = true) : o = some (o.getD d) := by
    cases o with
    | some x => rfl
    | none => cases h
  refine ⟨turn_of _ _ _ _ _ (by decide +kernel), by decide +kernel, by decide +kernel,
    peeked_of _ _ _ _ _ (some_of _ _ (by decide +kernel)), by decide +kernel, peeked_of _ _ _ _ _ (some_of _ _ (by decide +kernel)),
    by decide +kernel, granted_of _ _ _ _ _ (by decide +kernel)⟩

/-! ### The index walker -/

def idxCmd (op : Nat) (l : List (Nat × Nat)) : Cmd := soleCmd op 10 l
theorem witness_IndexTree_walks : ∀ op ∈ [0x51, 0x52, 0x53, 0x54, 0x55, 0x56, 0x57, 0x58],
    Turn (svcOn (idxCmd op [(0x18, 1)])) 63 5 op (idxCmd op [(0x18, 1)]) :=
  turns_of (fun op => svcOn (idxCmd op [(0x18, 1)])) (fun op => idxCmd op [(0x18, 1)]) _ _ _ (by decide +kernel)

/-- A tree of 1,024 nodes is set up on page 0. -/
def treeOn (c : Cmd) : State :=
  let s := put (svcOn c) [(Reg.IDX_CFG_VALID, 7, 1), (Reg.IDX_CFG_LOG2NODES, 7, 10), (Reg.IDX_CFG_BLKSZ, 7, 1)]
  { s with srv := { s.srv with regions := tset (fun _ => []) s.srv.regions 7 [0, 0x4000, 0x6000, 0x8000] } }
/-- A LOOKUP of one block whose tokens stand at 0; a RELEASE that names node 0, which fails. -/
theorem witness_IndexTree_served : (let c := idxCmd 0x51 [(0x1C, 64)]
    let s1 := takeCmd (treeOn c) c
    let x := lookupWalk (going c) (walkOf s1 7)
    ringOk 63 = true ∧ c.ring = 63 ∧ rd s1 Reg.IDX_CFG_VALID 7 ≠ 0 ∧ (∀ e ∈ x.2.touch, probe s1 7 e.1 e.2.1 e.2.2 = .ok) ∧
      x.2.err = 0 ∧ x.2.full = false ∧ ∀ e ∈ x.2.touch, grantedRange s1 7 e.1 e.2.1 = true) ∧
    (let c := idxCmd 0x54 [(0x18, 1)]
     let s1 := takeCmd (treeOn c) c
     let x := releaseWalk (going c) (walkOf s1 7)
     rd s1 Reg.IDX_CFG_VALID 7 ≠ 0 ∧ (∀ e ∈ x.2.touch, probe s1 7 e.1 e.2.1 e.2.2 = .ok) ∧ x.2.err ≠ 0) ∧
    rd (svcOn (idxCmd 0x51 [])) Reg.IDX_CFG_VALID 7 = 0 := by decide +kernel

/-- Fields out of range; a tree in range whose INSERT finds a regulator empty. -/
theorem witness_IndexTree_bad : (idxCmd 0x51 []).fld 0x1C 4 = 0 ∧ 65536 < (idxCmd 0x51 [(0x1C, 65537)]).fld 0x1C 4 ∧
    (idxCmd 0x52 []).fld 0x18 4 = 0 ∧ 4096 < (idxCmd 0x52 [(0x18, 4097)]).fld 0x18 4 ∧
    86400 < (idxCmd 0x55 [(0x14, 86401)]).fld 0x14 4 ∧ (idxCmd 0x56 []).fld 0x10 4 = 0 := by decide +kernel
/-- A PUBLISH of node 1, which fills; the regulator of the partition grants it or not. -/
def publishOn (l : List (Fld × Nat × Nat)) : State :=
  let s := setBucket (put (treeOn (idxCmd 0x53 [(0x10, 0xF000), (0x18, 1)])) l) 7 0 0
  memWrite (memWrite s 7 0xF000 4 1) 7 (128 + oState.1) oState.2 1
theorem witness_IndexTree_publish : ∀ l ∈ [[], [(Reg.CMD_PART_REG_T2_RATE, 7, 1)]], let c := idxCmd 0x53 [(0x10, 0xF000), (0x18, 1)]
    let s1 := takeCmd (publishOn l) c
    let x := publishWalk (going c) (walkOf s1 7)
    (ringOk 63 = true ∧ awake (publishOn l) = true ∧ turnOf (publishOn l) 63 5 0x53 = some c) ∧ rd s1 Reg.IDX_CFG_VALID 7 ≠ 0 ∧
      (∀ e ∈ x.2.touch, probe s1 7 e.1 e.2.1 e.2.2 = .ok) ∧ x.2.err = 0 ∧ x.2.full = false ∧ x.2.touch.length = 4 ∧
      ∀ e ∈ x.2.touch, grantedRange s1 7 e.1 e.2.1 = decide (l = []) := by decide +kernel

/-- The smallest tree, 1,024 nodes: its nodes take pages 0 and 1, buckets and the reclaim ring stand on page 2 and 3. -/
def setupCmd (clear sz : Nat) : Cmd :=
  idxCmd 0x50 [(0x18, 2 * 65536), (0x20, 2 * 65536 + 4096), (0x28, 3 * 65536), (0x30, sz), (0x31, 1), (0x32, clear)]
def setupOn (c : Cmd) : State :=
  flight ([1, 2, 3].foldl (fun s g => setL3 s 7 g (t2Page g + 64)) (mapped 7 0 (t2Page 0 + 64))) [c]
def setupRegions (c : Cmd) : List (Nat × Nat) := let sz := c.fld 0x30 1
  [(c.fld 0x10 8, 128 * 2 ^ sz), (c.fld 0x18 8, 4 * 2 ^ sz), (c.fld 0x20 8, 4 * 2 ^ sz), (c.fld 0x28 8, 65536)]
def setupBad (s : State) (c : Cmd) : Prop := c.fld 0x30 1 < 10 ∨ 24 < c.fld 0x30 1 ∨ c.fld 0x31 1 = 0 ∨
  ∃ e ∈ setupRegions c, regionOk (takeCmd s c) (partOf 63) e.1 e.2 = false
theorem witness_IndexTree_setup_bad : (∀ sz ∈ [9, 25], let c := setupCmd 1 sz
      (ringOk 63 = true ∧ awake (setupOn c) = true ∧ turnOf (setupOn c) 63 5 0x50 = some c) ∧ (c.fld 0x30 1 < 10 ∨ 24 < c.fld 0x30 1)) ∧
    setupBad (setupOn (setupCmd 1 9)) (setupCmd 1 9) := ⟨by decide +kernel, .inl (by decide +kernel)⟩
theorem witness_IndexTree_setup_clear : let c := setupCmd 1 10
    let s := setupOn c
    Turn s 63 5 0x50 c ∧ ¬setupBad s c ∧ bit (c.fld 0x32 1) 0 = true ∧ s.mem.migs = [] ∧
      ∃ w, Granted (takeCmd s c) (partOf 63) (.service 63 5) [] (setupRegions c) w :=
  ⟨turn_of _ _ _ _ _ (by decide +kernel), by unfold setupBad; decide +kernel, by decide +kernel, by decide +kernel,
    granted_of _ _ _ _ _ (by decide +kernel)⟩
theorem witness_IndexTree_setup_adopt : let c := setupCmd 0 10
    let s := setupOn c
    Turn s 63 5 0x50 c ∧ ¬setupBad s c ∧ bit (c.fld 0x32 1) 0 = false ∧
      ∃ w, Granted (takeCmd s c) (partOf 63) (.service 63 5) (setupRegions c) [] w :=
  ⟨turn_of _ _ _ _ _ (by decide +kernel), by unfold setupBad; decide +kernel, by decide +kernel, granted_of _ _ _ _ _ (by decide +kernel)⟩

theorem witness_IndexTree_sweep : (awake svc = true ∧ bit (rd svc Reg.CEN_HOLD 0) 1 = false) ∧
    (let s := put svc [(Reg.CEN_HOLD, 0, 2)]
     awake s = true ∧ bit (rd s Reg.CEN_HOLD 0) 1 = true) := by decide +kernel
/-- A move of the last node's block, on segment `k`; whether it has started. -/
def blkMove (started : Bool) : WMove := ⟨7, 2 ^ 24 - 1, 0, [3], started, 0⟩
def movesOn (started : Bool) (l : List Migr) : State :=
  { svc with srv := { svc.srv with moves := [blkMove started] }, mem := { svc.mem with migs := l } }
theorem witness_IndexTree_moves : (awake (movesOn false []) = true ∧ moveOf (movesOn false []) 7 (2 ^ 24 - 1) = some (blkMove false) ∧
      (blkMove false).started = false ∧ (wmStart (movesOn false []) (blkMove false)).isSome = true) ∧
    (let s := movesOn true [⟨4, 7, 3, 1, 0, 0, 0, false, 0, 3, 1, none⟩]
     awake s = true ∧ moveOf s 7 (2 ^ 24 - 1) = some (blkMove true) ∧ ∃ g ∈ s.mem.migs, g.seg ∈ (blkMove true).segs ∧ g.cause = 3) ∧
    (let s := movesOn true []
     moveOf s 7 (2 ^ 24 - 1) = some (blkMove true) ∧ ∀ g ∈ s.mem.migs, g.seg ∈ (blkMove true).segs → g.cause ≠ 3) := by decide +kernel
theorem witness_IndexTree_reclaim : Open svc .host (Reg.IDX_RECL_RD.addr 7) := open_of _ _ _ (by decide +kernel)

end Sys2Proof.Tests
end

