-- ==== Sys2Proof/Tests/WitnessSkein.lean ====
section
/-! SUPPORT. Witnesses of the statements on the group builder, collectives and the skein: states and operands that meet their hypotheses. -/

namespace Sys2Proof.Tests

open Machine

set_option Elab.async false

/-! ### The group builder and collectives -/

/-- A BUILD of partition 7: one token, one expert, K 1, capacity 1, the expert table at 64, its output at `out`. -/
def buildCmd (out : Nat) : Cmd :=
  soleCmd 0x60 11 [(0x18, 64), (0x20, out), (0x28, 1), (0x2C, 1), (0x2E, 1), (0x30, 1), (0x38, 1)]
/-- Scores at 0; the expert's weights fill page 0 (64 KiB), one row and one column; pages 32 to 95 stand for the output. -/
def buildSt (c : Cmd) (bytes : List (Nat × Nat × Nat)) : State :=
  bytes.foldl (fun s e => memWrite s 7 e.1 e.2.1 e.2.2)
    ((List.range 64).foldl (fun s g => setL3 s 7 (32 + g) (t2Page (32 + g))) (svcOn c))
def oneExpert : List (Nat × Nat × Nat) := [(72, 8, 65536), (88, 4, 1), (92, 4, 1)]
/-- What every clause asks of the expert table. (The clause on more than 4,096 groups takes more than 65,536 choices.) -/
def BuildReady (s : State) (c : Cmd) (u : State) : Prop :=
  Turn s 63 5 0x60 c ∧ Granted (takeCmd s c) 7 (.service 63 5)
    [((buildOf c).scores, (buildOf c).stride * (buildOf c).t), ((buildOf c).expt, 32 * (buildOf c).e)] [] u
def buildU (s : State) (c : Cmd) : State :=
  (goneOf (gateAll (takeCmd s c) 7 false (.service 63 5)
    ([((buildOf c).scores, (buildOf c).stride * (buildOf c).t), ((buildOf c).expt, 32 * (buildOf c).e)].filter
      fun e => decide (e.2 ≠ 0)))).getD svc
theorem buildReady_of (s : State) (c : Cmd) (h : (ringOk 63 && decide (5 < 2 ^ 32) && awake s && decide (turnOf s 63 5 0x60 = some c)) = true)
    (g : (goneOf (gateAll (takeCmd s c) 7 false (.service 63 5)
    ([((buildOf c).scores, (buildOf c).stride * (buildOf c).t), ((buildOf c).expt, 32 * (buildOf c).e)].filter
      fun e => decide (e.2 ≠ 0)))).isSome = true) : BuildReady s c (buildU s c) := ⟨turn_of _ _ _ _ _ h, granted_reads _ _ _ _ g⟩
/-- Experts the assignment uses. -/
def usedOf (u : State) (b : Build) : List Nat :=
  let f := assign b (((List.range b.t).map (b.raw u 7)).map fun l => ranksOf (l.map cleanScore))
  (List.range b.e).filter fun e => f.asg.any fun a => a.e == e
def regionFits (u : State) (b : Build) : Prop := b.out + b.size ≤ 2 ^ 52 ∧
  (∀ g ∈ pagesOf b.out b.size, isLocal (l3e u 7 g) = true ∧ eTier (l3e u 7 g) = 0 ∧ eWr (l3e u 7 g) = true) ∧
  rangesMeet b.out b.size b.scores (b.stride * b.t) = false ∧ rangesMeet b.out b.size b.expt (32 * b.e) = false

theorem witness_GroupBuild_badExpert : let c := buildCmd (32 * 65536)
    let s := buildSt c []
    BuildReady s c (buildU s c) ∧ ∃ e ∈ usedOf (buildU s c) (buildOf c), expertOk (expertAt (buildU s c) 7 ((buildOf c).expt + 32 * e)) = false :=
  ⟨buildReady_of _ _ (by decide +kernel) (by decide +kernel), by decide +kernel⟩
theorem witness_GroupBuild_badRegion : let c := buildCmd (2 ^ 52 - 65536)
    let s := buildSt c oneExpert
    let u := buildU s c
    BuildReady s c u ∧ (∀ e ∈ usedOf u (buildOf c), expertOk (expertAt u 7 ((buildOf c).expt + 32 * e)) = true ∧
      probeExpert u 7 (expertAt u 7 ((buildOf c).expt + 32 * e)) = .res true) ∧ ¬regionFits u (buildOf c) :=
  ⟨buildReady_of _ _ (by decide +kernel) (by decide +kernel), by decide +kernel, fun h => absurd h.1 (by decide +kernel)⟩
theorem witness_GroupBuild_built : let c := buildCmd (32 * 65536)
    let s := buildSt c oneExpert
    let u := buildU s c
    let b := buildOf c
    let f := assign b (((List.range b.t).map (b.raw u 7)).map fun l => ranksOf (l.map cleanScore))
    BuildReady s c u ∧ (usedOf u b = [0] ∧ ∀ e ∈ usedOf u b, expertOk (expertAt u 7 (b.expt + 32 * e)) = true ∧
      probeExpert u 7 (expertAt u 7 (b.expt + 32 * e)) = .res true) ∧ regionFits u b ∧
      (groups b f.asg fun e => probeExpert u 7 (expertAt u 7 (b.expt + 32 * e)) == .res true).length ≤ 4096 ∧
      ∃ w, Granted u 7 (.service 63 5) [] (b.written
        (groups b f.asg fun e => probeExpert u 7 (expertAt u 7 (b.expt + 32 * e)) == .res true).length
        (sumNat ((groups b f.asg fun e => probeExpert u 7 (expertAt u 7 (b.expt + 32 * e)) == .res true).map
          fun g => cdiv g.recs.length 16))) w :=
  ⟨buildReady_of _ _ (by decide +kernel) (by decide +kernel), by decide +kernel, by unfold regionFits; decide +kernel,
    by decide +kernel, granted_of _ _ _ _ _ (by decide +kernel)⟩

/-- Group 15 of partition 7 in state `st`, the domain on; two members: devices 0 (this one) and 1. -/
def groupSt (st part : Nat) (s : State) : State :=
  let s := put s [(Reg.SKL0_DOM_CTRL_EN, 0, 1), (Reg.COL_GRP_STATE, 15, st), (Reg.COL_GRP_PART, 15, part), (Reg.COL_GRP_NMEM, 15, 2),
    (Reg.SKL0_ROSTER_PRESENT, 0, 1), (Reg.SKL0_ROSTER_PRESENT, 1, 1)]
  setCgroup s 15 ⟨3, [0, 1], [], []⟩
def colCmd (op : Nat) (l : List (Nat × Nat)) : Cmd := soleCmd op 12 ((0x10, 15) :: l)
def colSt (st part : Nat) (c : Cmd) : State := memWrite (groupSt st part (svcOn c)) 7 1 1 1

theorem witness_Collectives_set : let c := colCmd 0x76 [(0x11, 2)]
    let s := colSt 0 0 c
    ∃ w, Turn s 63 5 0x76 c ∧ rd s Reg.SKL0_DOM_CTRL_EN 0 ≠ 0 ∧ rd s Reg.COL_GRP_STATE c.grp = 0 ∧
      Granted (takeCmd s c) (partOf 63) (.service 63 5) [(c.csrc, c.fld 0x11 1)] [] w ∧
      (∀ x ∈ memList w (partOf 63) c.csrc (c.fld 0x11 1), x < 64 ∧ rd s Reg.SKL0_ROSTER_PRESENT x ≠ 0 ∧
        rd s Reg.SKL0_ROSTER_SLICE x = rd s Reg.SKL0_DEV_SLICE 0) ∧
      (memList w (partOf 63) c.csrc (c.fld 0x11 1)).eraseDups.length = c.fld 0x11 1 ∧
      (memList w (partOf 63) c.csrc (c.fld 0x11 1)).getD (c.fld 0x12 1) 64 = rd s Reg.SKL0_DEV_DEVNUM 0 := by
  refine ⟨_, turn_of _ _ _ _ _ (by decide +kernel), by decide +kernel, by decide +kernel,
    granted_reads _ _ _ _ (by decide +kernel), by decide +kernel, by decide +kernel, by decide +kernel⟩
/-- CLEAR of a SET group; SET and CLEAR with the domain off, of another partition's group, of a BUSY one. -/
theorem witness_Collectives_clear : let c := colCmd 0x77 []
    Turn (colSt 1 7 c) 63 5 0x77 c ∧ rd (colSt 1 7 c) Reg.SKL0_DOM_CTRL_EN 0 ≠ 0 ∧ rd (colSt 1 7 c) Reg.COL_GRP_PART c.grp = partOf 63 ∧
      rd (colSt 1 7 c) Reg.COL_GRP_STATE c.grp ≠ 2 := ⟨turn_of _ _ _ _ _ (by decide +kernel), by decide +kernel⟩
theorem witness_Collectives_refused : ∀ op ∈ [0x76, 0x77], let c := colCmd op []
    (ringOk 63 = true ∧ awake (svcOn c) = true ∧ turnOf (svcOn c) 63 5 op = some c ∧ rd (svcOn c) Reg.SKL0_DOM_CTRL_EN 0 = 0) ∧
    (awake (colSt 1 6 c) = true ∧ turnOf (colSt 1 6 c) 63 5 op = some c ∧ rd (colSt 1 6 c) Reg.SKL0_DOM_CTRL_EN 0 ≠ 0 ∧
      rd (colSt 1 6 c) Reg.COL_GRP_STATE c.grp ≠ 0 ∧ rd (colSt 1 6 c) Reg.COL_GRP_PART c.grp ≠ partOf 63) ∧
    (awake (colSt 2 7 c) = true ∧ turnOf (colSt 2 7 c) 63 5 op = some c ∧ rd (colSt 2 7 c) Reg.SKL0_DOM_CTRL_EN 0 ≠ 0 ∧
      rd (colSt 2 7 c) Reg.COL_GRP_PART c.grp = partOf 63 ∧ rd (colSt 2 7 c) Reg.COL_GRP_STATE c.grp = 2) := by decide +kernel

/-- A collective of group 15 that this command runs. -/
def coll15 (seq : Nat) : Coll := ⟨15, 63, 5, seq, [], [], [], [], [], [], [], [], [], [], []⟩
def withColl (x : Coll) (s : State) : State := { s with skl := { s.skl with colls := [x] } }
def collOps : List Nat := [0x70, 0x71, 0x72, 0x73, 0x74, 0x75]
theorem witness_Collectives_mine : ∀ op ∈ collOps, let c := colCmd op []
    let s := withColl (coll15 0) (colSt 2 7 c)
    (ringOk 63 = true ∧ awake s = true ∧ turnOf s 63 5 op = some c) ∧ ∃ x ∈ s.skl.colls, x.ring = 63 ∧ x.idx = 5 := by decide +kernel
/-- An unset group, a broken one, and a wrong SEQ. -/
theorem witness_Collectives_ended : ∀ op ∈ collOps, let c := colCmd op [(0x14, 1)]
    ∀ st ∈ [0, 1, 3], let s := colSt st 7 c
    (ringOk 63 = true ∧ awake s = true ∧ turnOf s 63 5 op = some c) ∧ s.skl.colls = [] ∧ rd s Reg.SKL0_DOM_CTRL_EN 0 ≠ 0 ∧
      rd s Reg.COL_GRP_PART c.grp = partOf 63 ∧ rd s Reg.COL_GRP_STATE c.grp = st ∧ c.cseq ≠ rd s Reg.COL_GRP_NEXT_SEQ c.grp := by
  decide +kernel
/-- 64 elements of FP32 for each of two members, source at 0, destination at 4,096, AUX at 8,192. -/
theorem witness_Collectives_begin : ∀ op ∈ collOps, let c := colCmd op [(0x20, 4096), (0x28, 64), (0x30, 8192)]
    let s := colSt 1 7 c
    let s1 := takeCmd s c
    let aux := if op = 0x73 then [(c.caux, 16 * gMem s c.grp)] else []
    let u := (peek s1 63 5 aux).getD svc
    let tab := if op = 0x73 then a2aTable u (going c) else []
    let x := collRanges u (going c) tab
    Turn s 63 5 op c ∧ s.skl.colls = [] ∧ rd s Reg.SKL0_DOM_CTRL_EN 0 ≠ 0 ∧ rd s Reg.COL_GRP_PART c.grp = partOf 63 ∧
      rd s Reg.COL_GRP_STATE c.grp = 1 ∧ c.cseq = rd s Reg.COL_GRP_NEXT_SEQ c.grp ∧ c.cseq ∉ (cgroup s c.grp).aborted ∧
      rangesOk s1 (going c) [] [] aux = true ∧ Peeked s1 63 5 aux u ∧ rangesOk u (going c) x.1 x.2.1 x.2.2 = true ∧
      ∃ w, Granted u (partOf 63) (.service 63 5) (x.1 ++ aux) (x.2.1 ++ x.2.2) w := by
  intro op h
  fin_cases h <;> exact ⟨turn_of _ _ _ _ _ (by decide +kernel), by decide +kernel, by decide +kernel, by decide +kernel,
    by decide +kernel, by decide +kernel, by decide +kernel, by decide +kernel, peeked_of _ _ _ _ _ (someD _ svc (by decide +kernel)),
    by decide +kernel, granted_of _ _ _ _ _ (by decide +kernel)⟩

/-- Port 31 is ACTIVE in a domain that is on. -/
def linked (s : State) : State := put s [(Reg.SKL_LINK_STAT_STATE, 31, 2), (Reg.SKL0_DOM_CTRL_EN, 0, 1)]
/-- A flit of device 1 for group 15, SEQ 0, offset `off`. -/
def flit15 (off : Nat) : FlitHdr := { hdr0 with src := 1, info := 15 + off * 2 ^ 20 }
def colFlits (op seq : Nat) : State := withColl (coll15 seq) (linked (colSt 2 7 { colCmd op [(0x28, 64)] with taken := true }))
theorem witness_Collectives_ready : Received (colFlits 0x70 0) 31 2 (flit15 0) (receive (colFlits 0x70 0) 31 2 (flit15 0)).1 ∧
    (let t := (receive (colFlits 0x70 0) 31 2 (flit15 0)).1
     getColl t 15 = some (coll15 0) ∧ (coll15 0).seq = 0 ∧ (flit15 0).src ∈ (cgroup t 15).members) ∧
    (let s := linked (colSt 1 7 (colCmd 0x70 []))
     let t := (receive s 31 2 (flit15 0)).1
     Received s 31 2 (flit15 0) t ∧ getColl t 15 = none ∧ rd t Reg.COL_GRP_STATE 15 = 1 ∧ (cgroup t 15).tag = 3 ∧ gMem t 15 = 2) :=
  ⟨received_of _ _ _ _ (by decide +kernel), by decide +kernel, received_of _ _ _ _ (by decide +kernel), by decide +kernel⟩
/-- Data of member 1, of 256 bytes, for every collective but BARRIER; credit in every one. -/
theorem witness_Collectives_data : ∀ op ∈ collOps, let s := colFlits op 0
    let h := flit15 0
    let t := (receive s 31 2 h).1
    (sklOk 31 = true ∧ awake s = true ∧ s.pow.pfail = false ∧ (receive s 31 2 h).2 = true) ∧
      getColl t (h.info % 16) = some (coll15 0) ∧ (getCmd t 63 5).map Cmd.op = some op ∧
      (cgroup t 15).members.findIdx? (fun d => d == h.src) = some 1 ∧ (coll15 0).seq % 65536 = bits h.info 4 16 ∧ 1 ≠ gRank t 15 ∧
      1 ∉ (coll15 0).fin := by decide +kernel
theorem witness_Collectives_timeout : let s := colFlits 0x70 0
    awake s = true ∧ getColl s 15 = some (coll15 0) ∧
    (let s := put s [(Reg.COL_GRP_NMEM, 15, 1)]
     getColl s 15 = some (coll15 0) ∧ others s (coll15 0).grp = []) := by decide +kernel

/-! ### The Skein -/

/-- Export entry 31 lets device 63 reach page 0 of partition 7. -/
def exportSt : State := put (linked (svcOn (colCmd 0x70 [])))
  [(Reg.SKL0_EXP_VALID, 31, 1), (Reg.SKL0_EXP_NPAGES, 31, 1), (Reg.SKL0_EXP_IMASK_HI, 31, 2 ^ 31), (Reg.SKL0_EXP_PART, 31, 7),
   (Reg.SKL0_EXP_WR, 31, 1), (Reg.SKL0_EXP_RD, 31, 1)]
/-- A flit of device 63 for granule 255 of page `page`. -/
def winFlit (page : Nat) : FlitHdr := { hdr0 with src := 63, mask := 15, info := page + 255 * 2 ^ 36 }
/-- The page the entry maps, and the next one, which no entry does. -/
theorem witness_SkeinRequests_exporter : (∀ g ∈ [0, 1],
      Received exportSt 31 0 (winFlit g) (receive exportSt 31 0 (winFlit g)).1) ∧
    (let t := (receive exportSt 31 0 (winFlit 0)).1
     exportEntry t 63 0 true = some 31 ∧ exportEntry t 63 0 false = some 31 ∧ exportAddr t 31 0 = (7, 0) ∧
       isLocal (l3e t 7 (pageOf 0)) = true) ∧
    (let t := (receive exportSt 31 0 (winFlit 1)).1
     exportEntry t 63 1 true = none ∧ exportEntry t 63 1 false = none) := by
  refine ⟨fun g h => ?_, by decide +kernel, by decide +kernel⟩
  fin_cases h <;> exact received_of _ _ _ _ (by decide +kernel)
theorem witness_SkeinRequests_serves : let t := (receive exportSt 31 0 (winFlit 0)).1
    ∀ write kind sub, translate t 7 0 write ≠ .flt kind sub := by
  intro t write kind sub h
  have e : translate t 7 0 write = .t2 0 := by cases write <;> decide +kernel
  rw [e] at h
  cases h

/-- Window accesses of this device toward device 63, and a register access it forwarded. -/
def askedReq (write : Bool) : WReq := ⟨9, 63, 0, 0, 0, 0, none, write, 15, [], .asked⟩
def regReq : RegReq := ⟨9, 63, 0, 4, false, 0, true⟩
def requesterSt (write : Bool) : State := let s := linked svc
  { s with skl := { s.skl with reqs := [askedReq write], regs := [regReq] } }
theorem witness_SkeinRequests_requester : (∀ write ∈ [false, true],
      Received (requesterSt write) 31 1 (winFlit 0) (receive (requesterSt write) 31 1 (winFlit 0)).1) ∧
    (let t := (receive (requesterSt true) 31 1 (winFlit 0)).1
     t.skl.reqs.find? (fun q => q.id == 9 && q.write && q.dev == 63 && q.st == .asked) = some (askedReq true)) ∧
    (let t := (receive (requesterSt false) 31 1 (winFlit 0)).1
     t.skl.reqs.find? (fun q => q.id == 9 && !q.write && q.dev == 63 && q.st == .asked) = some (askedReq false) ∧
       t.skl.regs.find? (fun q => q.id == 9 && !q.isWr && q.sent && q.dev == 63 % 64) = some regReq) := by
  refine ⟨fun g h => ?_, by decide +kernel, by decide +kernel⟩
  fin_cases h <;> exact received_of _ _ _ _ (by decide +kernel)
/-- An interrupt flit of device 31 at the lead; register flits of the lead (63) and of another (31). -/
theorem witness_SkeinRequests_registers :
    (let s := put (linked svc) [(Reg.SKL0_DOM_CTRL_LEAD, 0, 1)]
     let h : FlitHdr := { hdr0 with src := 31 }
     Received s 31 1 h (receive s 31 1 h).1 ∧ rd (receive s 31 1 h).1 Reg.SKL0_DOM_CTRL_LEAD 0 = 1 ∧ h.src % 64 < 32) ∧
    (let s := put (linked svc) [(Reg.SKL0_DOM_LEAD_VALID, 0, 1), (Reg.SKL0_DOM_LEAD_DEV, 0, 63)]
     (Received s 31 0 (winFlit 0) (receive s 31 0 (winFlit 0)).1 ∧ rd (receive s 31 0 (winFlit 0)).1 Reg.SKL0_DOM_LEAD_VALID 0 = 1 ∧
       rd (receive s 31 0 (winFlit 0)).1 Reg.SKL0_DOM_LEAD_DEV 0 = 63) ∧
     (let h : FlitHdr := { hdr0 with src := 31 }
      Received s 31 0 h (receive s 31 0 h).1 ∧ rd (receive s 31 0 h).1 Reg.SKL0_DOM_LEAD_DEV 0 ≠ 31)) :=
  ⟨⟨received_of _ _ _ _ (by decide +kernel), by decide +kernel⟩,
    ⟨received_of _ _ _ _ (by decide +kernel), by decide +kernel⟩, received_of _ _ _ _ (by decide +kernel), by decide +kernel⟩

/-- A port that has sent flits 1023 and 0 and failed `fails` replays. -/
def replaySt (fails : Nat) : State :=
  setPort (linked svc) 31 { Port.idle with trained := 2, txSeq := 1, fails := fails, replay := [⟨0, { hdr0 with lseq := 1023 }, [], []⟩, ⟨0, hdr0, [], []⟩] }
/-- What the statement computes of a NAK that names `named`. -/
def nakOf (s : State) (named : Nat) : List Flit × Nat :=
  let x := port s 31
  let u := takeCredits (bump (setPort s 31 { x with owed := setAt x.owed 3 (x.owed.getD 3 0 + 1) }) Reg.SKL_RX_FLITS 31 1) 31 hdr0
  let p := port u 31
  let from_ := p.replay.filter fun f => !(seqBefore f.h.lseq (named % 1024))
  (from_, if from_.length < p.replay.length then 1 else p.fails + 1)
/-- A NAK of the flit after the last (nothing to send again), of the first for the sixteenth and the seventeenth time. -/
theorem witness_SkeinPorts_replay : awake (replaySt 0) = true ∧ rd (replaySt 0) Reg.SKL_LINK_STAT_STATE 31 = 2 ∧ (port (replaySt 0) 31).trained ≠ 0 ∧
    hdr0.crcOk = true ∧ (nakOf (replaySt 0) 1).1 = [] ∧ ((nakOf (replaySt 15) 1023).1 ≠ [] ∧ (nakOf (replaySt 15) 1023).2 = 16) ∧
    ((nakOf (replaySt 16) 1023).1 ≠ [] ∧ (nakOf (replaySt 16) 1023).2 = 17) ∧ (port svc 31).trained = 0 ∧
    ({ hdr0 with crcOk := false } : FlitHdr).crcOk = false := by decide +kernel

/-- Training of port 31 with a peer of the same domain, a foreign one and a switch, and one at half width. -/
theorem witness_SkeinPorts_training : let s := put svc [(Reg.SKL_LINK_CTRL_EN, 31, 1), (Reg.SKL_LINK_CTRL_ALLOW_X4, 31, 1)]
    awake s = true ∧ rd s Reg.SKL_LINK_CTRL_EN 31 = 1 ∧ (port s 31).trained = 0 ∧
    ∀ x ∈ ([⟨1, 0, false, false, false, false⟩, ⟨1, 5, false, false, true, false⟩, ⟨1, 0, true, false, false, false⟩] : List PeerInfo),
      x.x4 = true → rd s Reg.SKL_LINK_CTRL_ALLOW_X4 31 = 1 := by decide +kernel
theorem witness_SkeinPorts_down : (port (replaySt 0) 31).trained ≠ 0 ∧ awake (replaySt 0) = true := by decide +kernel
theorem witness_SkeinPorts_enable : Open svc .host (Reg.SKL_LINK_CTRL_EN.addr 31) ∧ rd svc Reg.SKL_LINK_CTRL_EN 31 = 0 ∧ bit 1 0 = true ∧
    (port svc 31).trained = 0 ∧ svc.skl.reqs = [] ∧ svc.skl.regs = [] := ⟨open_of _ _ _ (by decide +kernel), by decide +kernel⟩
theorem witness_SkeinPorts_domain : let s := linked svc
    Open s .host (Reg.SKL0_DOM_CTRL_EN.addr 0) ∧ rd s Reg.SKL0_DOM_CTRL_EN 0 = 1 ∧
      rd (stored .host (Reg.SKL0_DOM_CTRL_EN.addr 0) (0 % 2 ^ 32) s) Reg.SKL0_DOM_CTRL_EN 0 = 0 :=
  ⟨open_of _ _ _ (by decide +kernel), by decide +kernel⟩
/-- The write that carries completion record 5 of ring 63. -/
theorem witness_SkeinRequests_record : let q : WReq := { askedReq true with owner := some (.recWrite 63 5) }
    let s := linked svc
    let s : State := { s with skl := { s.skl with reqs := [q] } }
    Received s 31 1 (winFlit 0) (receive s 31 1 (winFlit 0)).1 ∧
      (receive s 31 1 (winFlit 0)).1.skl.reqs.find? (fun q => q.id == 9 && q.write && q.dev == 63 && q.st == .asked) = some q :=
  ⟨received_of _ _ _ _ (by decide +kernel), by decide +kernel⟩

end Sys2Proof.Tests
end

