-- ==== Sys2Proof/Tests/WitnessHost.lean ====
section
/-! SUPPORT. Witnesses of the statements on the host side, power and boot: states and operands that meet their hypotheses. -/

namespace Sys2Proof.Tests

open Machine

set_option Elab.async false

/-! ### The host side -/

/-- Host entry 15 maps offset 0, 64 KiB, to page 0 of partition 7. -/
def hostSt : State := put (mapped 7 0 (t2Page 0)) [(Reg.FUS_HEXP_VALID, 15, 1), (Reg.FUS_HEXP_NPAGES, 15, 1), (Reg.FUS_HEXP_PART, 15, 7),
  (Reg.FUS_HEXP_WR, 15, 1), (Reg.FUS_HEXP_RD, 15, 1)]
theorem witness_HostSide_aperture : let u := fillRange hostSt 7 65280 256
    reach hostSt .host 1 = .open_ ∧ hostEntry hostSt 65280 true = some 15 ∧ hostEntry hostSt 65280 false = some 15 ∧
      rd hostSt Reg.FUS_HEXP_PART 15 = 7 ∧
      (rd hostSt Reg.FUS_HEXP_DBASE_LO 15 * 65536 + 2 ^ 32 * rd hostSt Reg.FUS_HEXP_DBASE_HI 15 + 65280 -
        rd hostSt Reg.FUS_HEXP_HOFF 15 * 65536) % 2 ^ 52 = 65280 ∧
      probe u 7 65280 256 true = .ok ∧ probe u 7 65280 256 false = .ok ∧
      hostEntry hostSt (2 ^ 40 - 1) false = none := by decide +kernel
def winReady : WinRes → Bool
  | .ready => true
  | _ => false
theorem ready_of (w : WinRes) (h : winReady w = true) : w = .ready := by
  cases w with
  | ready => rfl
  | _ => simp [winReady] at h
theorem witness_HostSide_ready : winRead (fillRange hostSt 7 65280 256) 7 .host [(65280, 256)] = .ready := ready_of _ (by decide +kernel)
/-- The lead's own slot, and another; a device that does not lead. -/
theorem witness_HostSide_domain : let s := put svc [(Reg.SKL0_DOM_CTRL_LEAD, 0, 1)]
    cutOff s .host = false ∧ rd s Reg.SKL0_DOM_CTRL_LEAD 0 = 1 ∧ 0 / 2 ^ 26 = rd s Reg.SKL0_DEV_DEVNUM 0 ∧
      (2 ^ 32 - 1) / 2 ^ 26 ≠ rd s Reg.SKL0_DEV_DEVNUM 0 ∧ rd svc Reg.SKL0_DOM_CTRL_LEAD 0 = 0 ∧ cutOff svc .host = false := by
  decide +kernel
/-- The last line of all, held by the host; recalled or not. -/
def lineSt (l : List (Nat × Nat)) : State := { svc with hst := { svc.hst with dir := [lineOf (2 ^ 48 - 1)], recalls := l } }
theorem witness_HostSide_lines : awake (lineSt []) = true ∧ lineOf (2 ^ 48 - 1) ∈ (lineSt []).hst.dir ∧
    lineOf (2 ^ 48 - 1) ∉ (lineSt []).hst.recalls ∧ lineOf (2 ^ 48 - 1) ∈ (lineSt [lineOf (2 ^ 48 - 1)]).hst.recalls := by decide +kernel
theorem witness_HostSide_link : awake svc = true ∧ rd svc Reg.FUS_LINK_STAT_UP 0 = 1 ∧
    (let s := put svc [(Reg.FUS_LINK_STAT_UP, 0, 0)]
     awake s = true ∧ rd s Reg.FUS_LINK_STAT_UP 0 = 0) := by decide +kernel
theorem witness_HostSide_registers : ∀ a ∈ [Reg.FUS_LINK_CTRL_RETRAIN.addr 0, Reg.FUS_MB_CTRL_H2R_GO.addr 0, Reg.FUS_IVEC_MASK.addr 63,
    0x6F * 0x1000 + 0x28], Open svc .host a := opens_of _ _ _ (by decide +kernel)
theorem witness_HostSide_mail : let s := put svc [(Reg.FUS_MB_CTRL_R2H_FULL, 0, 1)]
    rd s Reg.FUS_MB_CTRL_H2R_GO 0 = 0 ∧ rimRuns s = true ∧ rd s Reg.FUS_MB_CTRL_R2H_FULL 0 = 1 ∧ rd s Reg.FUS_IVEC_PEND 63 = 0 ∧
      pageExists 0x6F = true := by decide +kernel

theorem witness_CapacityAndEthernet_capacity : Open svc .host (Reg.CAP_CTRL_RESCAN.addr 7) ∧
    (let s := put svc [(Reg.CAP_STAT_UP, 7, 1)]
     awake s = true ∧ rd s Reg.CAP_STAT_UP 7 = 1 ∧ s.mem.migs = []) ∧
    (∀ c ∈ [4, 6], let s := put svc [(Reg.CAP_STAT_CAUSE, 7, c), (Reg.CAP_FRAMES, 7, 32), (Reg.CAP_SERIAL_LO, 7, 9)]
     awake s = true ∧ rd s Reg.CAP_STAT_UP 7 = 0 ∧ rd s Reg.CAP_STAT_CAUSE 7 = c ∧ rd s Reg.CAP_FRAMES 7 ≠ 0 ∧
       9 % 2 ^ 64 = rd2 s Reg.CAP_SERIAL_LO Reg.CAP_SERIAL_HI 7 ∧ 8 % 2 ^ 64 ≠ rd2 s Reg.CAP_SERIAL_LO Reg.CAP_SERIAL_HI 7) :=
  ⟨open_of _ _ _ (by decide +kernel), by decide +kernel, by decide +kernel⟩

theorem witness_CapacityAndEthernet_registers : ∀ a ∈ [Reg.ETH_QP_DB.addr 1, Reg.ETH_QP_SEL_QP.addr 0], Open svc .host a :=
  opens_of _ _ _ (by decide +kernel)
/-- Queue pair 511 of port 1, of partition 7, has a request of 64 bytes at `a`. -/
def ethSt : State := setQpair (put (mapped 7 0 (t2Page 0)) [(Reg.ETH_LINK_STAT_UP, 1, 1)]) 1 511 ⟨7, 1, 0, false⟩
def ethWr (a : Nat) : EthWr := ⟨true, 0, a, 0, 0, 64, 0⟩
theorem witness_CapacityAndEthernet_work : let x := qpair ethSt 1 511
    let u := fillRange ethSt x.part ((ethWr 0).laddr % 2 ^ 52) (ethWr 0).len
    awake ethSt = true ∧ intakeStopped ethSt = false ∧ rd ethSt Reg.ETH_LINK_STAT_UP 1 = 1 ∧ x.err = false ∧ x.head ≠ x.tail ∧
      1 ≤ (ethWr 0).len ∧ (ethWr 0).len ≤ 2 ^ 31 ∧ grantedRange u x.part 0 64 = true ∧
      probe u x.part 0 64 false = .ok ∧ probe u x.part 0 64 true = .ok := by decide +kernel
theorem witness_CapacityAndEthernet_fault : let x := qpair ethSt 1 511
    let u := fillRange ethSt x.part ((ethWr 65536).laddr % 2 ^ 52) (ethWr 65536).len
    probe u x.part 65536 64 false = .flt 1 1 3 := by decide +kernel
theorem witness_CapacityAndEthernet_link : let s := put svc [(Reg.ETH_LINK_CTRL_EN, 1, 1)]
    awake s = true ∧ rd s Reg.ETH_LINK_STAT_UP 1 = 0 ∧ rd s Reg.ETH_LINK_CTRL_EN 1 = 1 ∧
    rd (put svc [(Reg.ETH_LINK_STAT_UP, 1, 1)]) Reg.ETH_LINK_STAT_UP 1 = 1 := by decide +kernel

/-! ### Power and clocks -/

/-- Readings at both ends of the range and beyond; a droop at the threshold and above it. -/
theorem witness_PowerReadings : awake svc = true ∧ (∀ raw ∈ [(-320 : Int), 1200], -320 ≤ raw ∧ raw ≤ 1200 ∧
      rd svc Reg.SCL_TEMP_VAL 175 ≠ toField 12 raw) ∧ (∀ raw ∈ [(-321 : Int), 1201], raw < -320 ∨ 1200 < raw) ∧
    watches 63 31 = true ∧ watches 95 39 = true ∧ inGap svc 31 = false ∧ rimRuns svc = true ∧
    (let v := rd svc Reg.CLK_DROOP_THR_MV 31
     v ≤ v ∧ v < v + 1) := by decide +kernel

/-- The grid's estimates where every point meets the cap, where none does; duties of which the last meets it. -/
def estAll : List Nat := List.replicate 24 100
def estNone : List Nat := List.replicate 24 9999
theorem witness_PowerControl_cap : let s := put svc [(Reg.PWR_EFF_CAP, 0, 1200), (Reg.PWR_PKG_W, 0, 1300)]
    let u := overrun s
    awake s = true ∧ rimRuns u = true ∧ rd u Reg.PWR_STAT_BRAKE 0 = 0 ∧ bestPoint u estAll (rd u Reg.PWR_EFF_CAP 0) = some 33 ∧
      bestPoint u estNone (rd u Reg.PWR_EFF_CAP 0) = none ∧ rd svc Reg.PWR_PKG_W 0 ≤ rd svc Reg.PWR_EFF_CAP 0 := by decide +kernel
theorem witness_PowerControl_brake : let s := put svc [(Reg.PWR_STAT_BRAKE, 0, 1), (Reg.PWR_CAP_CTRL_LIMIT, 0, 1200)]
    let u := overrun s
    awake s = true ∧ rimRuns u = true ∧ rd u Reg.PWR_STAT_BRAKE 0 = 1 ∧ rd u Reg.PWR_STAT_DEEP 0 = 0 ∧
      leastDuty (List.replicate 15 9999 ++ [480]) (rd u Reg.PWR_CAP_CTRL_LIMIT 0 * 40 / 100) = some 15 := by decide +kernel
theorem witness_PowerControl_raise : let s := put svc [(Reg.PWR_STAT_POINT, 0, 32), (Reg.PWR_EFF_CAP, 0, 100)]
    rimRuns s = true ∧ rd s Reg.PWR_STAT_BRAKE 0 = 0 ∧ rd s Reg.PWR_STAT_POINT 0 < gradeMax s ∧
      estAll[rd s Reg.PWR_STAT_POINT 0 - 9]? = some 100 ∧ 100 ≤ rd s Reg.PWR_EFF_CAP 0 := by decide +kernel
theorem witness_PowerControl_duty : let s := put svc [(Reg.PWR_STAT_D, 0, 1)]
    rd s Reg.PWR_STAT_BRAKE 0 = 0 ∧ s.pow.want < rd s Reg.PWR_STAT_D 0 ∧ rimRuns s = true := by decide +kernel
/-- Partition 7's weave runs on island 31, whose first sensor reads `t` eighths of a kelvin. -/
def hotSt (t : Nat) : State :=
  let s := put svc [(Reg.ISL_WV_STAT_RUN, 31, 1), (Reg.SCL_TEMP_VAL, 155, t), (Reg.SCL_TEMP_VALID, 155, 1), (Reg.PWR_TTGT, 7, 32)]
  let w : Weave := { weave0 0 1 2 [31] with part := 7 }
  setBind (setIsl s 31 { islRun with bind := some 0 }) 0 { Binding.idle with cur := some w, inv := some (inv0 2) }
theorem witness_PowerControl_hot : (let s := hotSt 1199
     partHot s 7 (8 * rd s Reg.PWR_THERM_THROT 0) = true) ∧
    (let s := hotSt 0
     partHot s 7 (8 * rd s Reg.PWR_THERM_THROT 0) = false ∧ partHot s 7 (8 * rd s Reg.PWR_THERM_THROT 0 - 24) = false ∧
       rd s Reg.PWR_TTGT 7 < gradeMax s) := by decide +kernel

theorem witness_BrakesAndCaps_pin : awake svc = true ∧ rd svc Reg.PWR_STAT_BRAKE 0 = 0 ∧
    (let s := put svc [(Reg.PWR_STAT_BRAKE, 0, 1)]
     rd s Reg.PWR_STAT_BRAKE 0 = 1 ∧ s.pow.hot = false ∧ s.pow.alert = false ∧ s.pow.pfBrake = false ∧
       rd s Reg.PWR_STAT_SLOPE 0 = 0) := by decide +kernel
/-- Slopes of 5 K/s and just above, after one steep second. -/
theorem witness_BrakesAndCaps_slope : let s : State := { svc with pow := { svc.pow with steep := 1 } }
    awake s = true ∧ (500 : Int) < 501 ∧ (501 : Int) ≤ 32767 ∧ rd s Reg.PWR_STAT_SLOPE 0 = 0 ∧ 1 ≤ s.pow.steep ∧ (500 : Int) ≤ 500 ∧
    (let s := put svc [(Reg.PWR_STAT_SLOPE, 0, 1)]
     rd s Reg.PWR_STAT_SLOPE 0 = 1 ∧ rd s Reg.PWR_STAT_DEEP 0 = 0) := by decide +kernel
theorem witness_BrakesAndCaps_heartbeat : ∀ lost ∈ [0, 1], let s := put svc [(Reg.PWR_HB_CTRL_EN, 0, 1), (Reg.PWR_STAT_HBLOST, 0, lost)]
    awake s = true ∧ rd s Reg.PWR_HB_CTRL_EN 0 = 1 ∧ rd s Reg.PWR_STAT_HBLOST 0 = lost ∧ rd s Reg.PWR_STAT_SAFE 0 = 0 := by decide +kernel
theorem witness_BrakesAndCaps_registers : ∀ a ∈ [Reg.PWR_CAP_CTRL_LIMIT.addr 0, Reg.PWR_HB.addr 0, Reg.PWR_THERM_CTRL_SREL.addr 0],
    Open svc .board a := opens_of _ _ _ (by decide +kernel)

theorem witness_PowerFailure_sequence : awake svc = true ∧ svc.pow.pfail = false ∧
    (let s : State := { svc with pow := { svc.pow with pfail := true } }
     awake s = true ∧ s.pow.pfail = true) := by decide +kernel
theorem witness_PowerFailure_rails : let s : State := { svc with pow := { svc.pow with railWait := tset (fun _ => false) [] 3 true } }
    awake s = true ∧ tget (fun _ => false) s.pow.railWait 3 = true ∧ bit 1 0 = true ∧ bit 0 0 = false ∧ s.pow.alert = false ∧
      rd s Reg.PWR_STAT_BRAKE 0 = 0 := by decide +kernel
theorem witness_PowerFailure_alert : let s : State := { svc with pow := { svc.pow with alert := true } }
    awake s = true ∧ s.pow.alert = true ∧ s.pow.pin = false ∧ s.pow.hot = false ∧ s.pow.pfBrake = false ∧
      rd s Reg.PWR_STAT_SLOPE 0 = 0 := by decide +kernel
theorem witness_PowerFailure_closing : let s : State := { put svc [(Reg.CAP_STAT_UP, 7, 1)] with
      pow := { svc.pow with region := some (7 * 2 ^ 20) } }
    Open s .host (Reg.PWR_CREC_ACK.addr 0) ∧
      regionAt (stored .host (Reg.PWR_CREC_ACK.addr 0)
        (rd s Reg.PWR_CREC_PORT 0 + 2 ^ 3 * rd s Reg.PWR_CREC_SEG 0 + 2 ^ 24) s) = some (7 * 2 ^ 41) ∧
      (1 : Nat).testBit (0 / 2 ^ 41) = true :=
  ⟨open_of _ _ _ (by decide +kernel), by decide +kernel, by decide⟩

/-- Binding 31's weave runs on island 31 at 1.0 GHz, a step to `f` planned. -/
def stepSt (f : Option Nat) (i : Island) : State :=
  let s := put svc [(Reg.ISL_WV_STAT_RUN, 31, 1), (Reg.CLK_FREQ_MHZ, 31, 1000)]
  let s := setBind (setIsl s 31 { i with bind := some 31, released := true }) 31
    { Binding.idle with cur := some (weave0 0 1 2 [31]), inv := some (inv0 2) }
  { s with pow := { s.pow with plan := tset (fun _ => none) s.pow.plan 62 f } }
theorem witness_ClockSteps_prepared : let s := stepSt (some 33) Island.idle
    awake s = true ∧ runningOn s 31 = [(31, false, weave0 0 1 2 [31])] ∧ planOf s 31 false = some 33 ∧
      (∀ k ∈ (weave0 0 1 2 [31]).place, (isl s k).step = none) ∧ railsBusy s (weave0 0 1 2 [31]).place = false := by decide +kernel
theorem witness_ClockSteps_switch : let s := stepSt none { Island.idle with step := some 33, stepping := true }
    runningOn s 31 = [(31, false, weave0 0 1 2 [31])] ∧ (weave0 0 1 2 [31]).place.Nodup ∧ (weave0 0 1 2 [31]).place ≠ [] ∧
      ∀ k ∈ (weave0 0 1 2 [31]).place, k < 32 ∧ (isl s k).step = some 33 ∧ (isl s k).stepping = true ∧ inRounds s k = true ∧
        33 ≠ rd s Reg.CLK_FREQ_MHZ k / 100 := by decide +kernel
theorem witness_ClockSteps_resume : let s := stepSt none { Island.idle with step := some 10, stepping := true }
    runningOn s 31 = [(31, false, weave0 0 1 2 [31])] ∧ ∃ k ∈ (weave0 0 1 2 [31]).place, inGap s k = true := by decide +kernel
theorem witness_ClockSteps_reference : svc.sec.wait = false ∧ rd svc Reg.CLK_REF_STAT_LOST 0 = 0 ∧ awake svc = true ∧
    (let s : State := { svc with sec := { svc.sec with wait := true } }
     s.sec.wait = true ∧ awake s = true) := by decide +kernel

/-! ### Resets, boot, recovery -/

/-- The device without power, and with it; a bucket below its burst. -/
theorem witness_IdleStep : (let s : State := { svc with pow := { svc.pow with off := true } }
     s.pending = [] ∧ s.pow.off = true) ∧ svc.pending = [] ∧ svc.pow.off = false ∧ awake svc = true := by decide +kernel
/-- A device that has halted; one whose island 31 is at work, frozen by a dry crossing; a bucket below its burst. -/
theorem witness_IdleStep_halted : let s := put svc [(Reg.PWR_STAT_PFHALT, 0, 1)]
    s.pending = [] ∧ s.pow.off = false ∧ awake s = false := by decide +kernel
theorem witness_IdleStep_works : let s0 := roundsOn 0 2 2 islRun
    let s1 := swBlock s0 (64 * 31 + 63) 1 0
    let s := setBind s1 0 { bind s1 0 with inv := some { inv0 2 with released := 1 } }
    s.pending = [] ∧ awake s = true ∧ twf (fun _ => Island.idle) s.fab.isl = true ∧ inRounds s 31 = true ∧ clockless s 31 = false ∧
      frzPlace s 31 ≠ 0 ∧ runOf s 31 = some (weave0 0 1 2 [31], { inv0 2 with released := 1 }) ∧ (isl s 31).done = false ∧
      (isl s 31).released = true ∧ regRate s 0 0 = 0 := by decide +kernel

def bootAt (n : Nat) : State := put State.reset [(Reg.RST_BOOT_STAT_STEP, 0, n), (Reg.RST_CAUSE, 0, 2)]
theorem witness_ResetsAndBoot_resets : svc.pow.off = false ∧ Open svc .lead (Reg.RST_SOFT_KEY.addr 0) ∧ (63 : Nat) < 64 :=
  ⟨by decide +kernel, open_of _ _ _ (by decide +kernel), by decide⟩
theorem witness_ResetsAndBoot_steps : ∀ n ∈ [1, 2, 3, 4, 5], let s := bootAt n
    awake s = true ∧ rd s Reg.RST_MODE 0 = 1 ∧ s.sec.wait = false ∧ s.pow.pfail = false ∧ rd s Reg.RST_BOOT_STAT_STEP 0 = n ∧
      bit (rd s Reg.RST_CAUSE 0) 0 = false ∧ pendingSlot (bootRec s.sec.flash) = none := by decide +kernel
/-- A report of step 4 in which every island fails. -/
theorem witness_ResetsAndBoot_dead : let rep : BootReport := ⟨0, 2 ^ 32 - 1, true, true, true, []⟩
    rep.badStacks % 256 = 0 ∧ rep.badIsles % 2 ^ 32 = 2 ^ 32 - 1 := by decide

theorem witness_AttachAndModes_attach : let s : State := { put State.reset [(Reg.FUS_LINK_STAT_UP, 0, 1)] with
      sec := { State.reset.sec with att := 1 } }
    awake s = true ∧ rd s Reg.FUS_LINK_STAT_UP 0 = 1 ∧ s.sec.att = 1 ∧
      basesOk [0 % 2 ^ 64, 2 ^ 50 % 2 ^ 64, 2 ^ 51 % 2 ^ 64] = true := by decide +kernel
/-- SERVICE and TEST with no binding in use, for requests 0, 2 and 6; and a binding READY. -/
theorem witness_AttachAndModes_modes : (∀ m ∈ [0, 2], let s := put svc [(Reg.RST_MODE, 0, m)]
      Open s .host (Reg.RST_CTRL_MODE_REQ.addr 0)) ∧
    (∀ m ∈ [0, 2], let s := put svc [(Reg.RST_MODE, 0, m)]
      (∀ b < 32, rd s Reg.WVE_BIND_STATE b = 0) ∧ rd s Reg.RST_MODE 0 = m) ∧ (∀ v ∈ [0, 2, 6], v % 4 = 0 ∨ v % 4 = 2) ∧
    (let s := put svc [(Reg.WVE_BIND_STATE, 31, 2)]
     ∃ b < 32, rd s Reg.WVE_BIND_STATE b ≠ 0) := by
  refine ⟨fun m h => ?_, by decide +kernel, by decide, 31, by decide, by decide +kernel⟩
  fin_cases h <;> exact open_of _ _ _ (by decide +kernel)
theorem witness_AttachAndModes_refused : let s := put svc [(Reg.WVE_BIND_STATE, 31, 2)]
    Open s .host (Reg.RST_CTRL_MODE_REQ.addr 0) ∧ ∃ b < 32, rd s Reg.WVE_BIND_STATE b ≠ 0 :=
  ⟨open_of _ _ _ (by decide +kernel), 31, by decide, by decide +kernel⟩
theorem witness_AttachAndModes_test : Open svc .host (Reg.RST_ISL_TEST_ISL.addr 0) ∧ bit 63 5 = true ∧ (isl svc (63 % 32)).bind = none ∧
    rdBit svc Reg.RST_TEST_HOLD 0 (63 % 32) = false ∧
    (let s := put svc [(Reg.RST_TEST_HOLD, 0, 2 ^ 31)]
     awake s = true ∧ rdBit s Reg.RST_TEST_HOLD 0 31 = true) ∧
    (let s := put svc [(Reg.RST_ISL_TEST_STAT_ISL, 0, 31)]
     rd s Reg.RST_ISL_TEST_STAT_ISL 0 = 31) := ⟨open_of _ _ _ (by decide +kernel), by decide +kernel⟩

/-- RECOVERY, over either path, with a session that has two bytes of three, and of two. -/
def rcvSt (m : Nat) : State := { put svc [(Reg.RST_MODE, 0, 3)] with sec := { svc.sec with rcv := some (1, m, [1, 2]) } }
theorem witness_Recovery : awake (rcvSt 3) = true ∧ rd (rcvSt 3) Reg.RST_MODE 0 = 3 ∧ rd (rcvSt 3) Reg.FUS_LINK_STAT_UP 0 = 1 ∧
    rcvOther (rcvSt 3) false = false ∧ rcvOther (rcvSt 3) true = false ∧ 1 ≤ 1 ∧ 2 ^ 22 ≤ 2 ^ 23 ∧ 2 ^ 22 ≤ imageLimit 1 ∧
    (rcvSt 3).sec.rcv = some (1, 3, [1, 2]) ∧ [1, 2].length + [3].length ≤ 2 ^ 23 ∧ (rcvSt 2).sec.rcv = some (1, 2, [1, 2]) ∧
    2 ≤ [1, 2].length ∧ rd svc Reg.RST_MODE 0 ≠ 3 ∧ svc.pow.off = false := by decide +kernel

end Sys2Proof.Tests
end

