-- ==== Sys2Proof/Tests/WitnessService.lean ====
section
/-! SUPPORT. Witnesses of the statements on security, firmware and registers: states and operands that meet their hypotheses. -/

namespace Sys2Proof.Tests

open Machine

set_option Elab.async false

/-! ### Attestation, firmware, settings -/

theorem witness_Attestation : attests svc = true ∧ attests State.reset = false := by decide +kernel

theorem witness_FirmwareAndSettings_open : Open svc .host (Reg.FWU_CMD_OP.addr 0) := open_of _ _ _ (by decide +kernel)
/-- An idle unit that runs the slot in force, with an owner fused and debug enabled; a busy one. -/
theorem witness_FirmwareAndSettings_idle : let s : State := { svc with sec := { svc.sec with
      fuses := { svc.sec.fuses with owner := 1, debugEn := true } } }
    rd s Reg.FWU_STAT_BUSY 0 = 0 ∧ rimRuns s = true ∧ rd s Reg.RST_MODE 0 ≠ 3 ∧ runsPending s = false ∧ s.sec.fuses.owner ≠ 0 ∧
      s.sec.fuses.debugEn = true ∧ ([] : List Nat).length < 5261 ∧
      rd (put svc [(Reg.FWU_STAT_BUSY, 0, 1)]) Reg.FWU_STAT_BUSY 0 = 1 := by decide +kernel
/-- An APPLY that is done, well or with the highest code. -/
theorem witness_FirmwareAndSettings_done : ∀ code ∈ [0, 255], let o : FwuOp := ⟨1, code, 0, []⟩
    let s : State := { svc with sec := { svc.sec with op := some o } }
    awake s = true ∧ s.sec.op = some o ∧ o.code < 256 ∧ (o.op ≠ 3 ∨ o.code ≠ 0) ∧ o.op = 1 ∧ s.sec.flash.boot.length = 2 := by
  decide +kernel
/-- LIMIT (0x21) at its least value, and below it; an identifier no firmware knows; another FORMAT. -/
theorem witness_FirmwareAndSettings_settings : attests svc = true ∧ 0x21 ∈ settingIds ∧
    valueOk svc 0x21 (readFormat svc 0x21) [0xB0, 4] = true ∧ valueOk svc 0x21 (readFormat svc 0x21) [0xAF, 4] = false ∧
    0x11 ∉ settingIds ∧ readFormat svc 0x21 + 1 ≠ readFormat svc 0x21 ∧ 0x21 ≠ 0x10 ∧ svc.sec.flash.store.length = 2 := by decide +kernel
theorem witness_FirmwareAndSettings_store : ∃ k, storeLive (writeStore svc []).sec.flash = some k :=
  Option.isSome_iff_exists.1 (by decide +kernel)

/-! ### Registers, locks, holds, the census -/

/-- The last register below the shadows of the last page; the same page locked by the board. -/
theorem witness_RegisterAccess_write : Open svc .host 0x6FEFC ∧ 0x6FEFC < 2 ^ 26 ∧ 0x6FEFC % 4 = 0 ∧ 0x6FEFC % 0x1000 < 0xF00 ∧
    (let s := put svc [(Reg.HDR_LOCK_HELD, 0x6F, 1), (Reg.HDR_LOCK_HOLDER, 0x6F, 1)]
     reach s .host 0x6F = .open_ ∧ pageExists 0x6F = true ∧ lockedOut s .host 0x6FEFC = true) :=
  ⟨open_of _ _ _ (by decide +kernel), by decide +kernel⟩
/-- Reads: of no pair without a latch, of a pair's low half, behind a latch at the address and at another, of 8 bytes. -/
theorem witness_RegisterAccess_read : let a := Reg.PWR_ENERGY_LO.addr 0
    (∀ x ∈ [a, a + 4, 0x8000], x < 2 ^ 26 ∧ x % 4 = 0 ∧ cutOff svc .host = false ∧ reach svc .host (x / 0x1000) = .open_ ∧
      pageExists (x / 0x1000) = true) ∧
    (∀ f ∈ pairLo, f.hits 0x8000 = false) ∧ (∀ f ∈ pairLo, f.hits (a + 4) = false) ∧ (∃ f ∈ pairLo, f.hits a = true) ∧
    tget (fun _ => none) svc.lat (latchKey .host (0x8000 / 0x1000)) = none ∧
    tget (fun _ => none) (setLatch svc .host 8 (some (a + 4, 7))).lat (latchKey .host (0x8000 / 0x1000)) = some (a + 4, 7) ∧
    0x8000 % 8 = 0 ∧ Agent.host ≠ .board := by decide +kernel
/-- The first and the last index without a page. -/
theorem witness_RegisterAccess_unmapped : ∀ a ∈ [0x4A000, 0x3FFFFFC], a < 2 ^ 26 ∧ pageExists (a / 0x1000) = false ∧ cutOff svc .host = false ∧
    rd svc Reg.PWR_STAT_PFHALT 0 = 0 ∧ a % 4 = 0 := by decide +kernel

theorem witness_LocksAndHolds_locks : (∀ p ∈ [0, 8, 0x49, 0x6F], pageExists p = true ∧ reach svc .board p = .open_ ∧
      rd svc Reg.HDR_LOCK_SEALED p = 0 ∧ rd svc Reg.HDR_LOCK_HELD p = 0) ∧ sealable 0x6F = true ∧ sealable 0x49 = false ∧
    (let s := put svc [(Reg.HDR_LOCK_HELD, 8, 1), (Reg.HDR_LOCK_HOLDER, 8, 1)]
     rd s Reg.HDR_LOCK_SEALED 8 = 0 ∧ rd s Reg.HDR_LOCK_HELD 8 = 1 ∧ rd s Reg.HDR_LOCK_HOLDER 8 ≠ Agent.host.code ∧
       rd s Reg.HDR_LOCK_HOLDER 8 = Agent.board.code) := by decide +kernel
theorem witness_LocksAndHolds_holds : Open svc .host (Reg.CEN_HOLD.addr 0) ∧
    (∀ k ∈ [0, 5], let s := put svc [(Reg.CEN_HOLD, 0, 63)]
      awake s = true ∧ rdBit s Reg.CEN_HOLD 0 k = true ∧ rdBit s Reg.CEN_HOLD_ACK 0 k = false ∧ engineAtEnd s k = true) ∧
    (let s := flight (put svc [(Reg.CEN_HOLD, 0, 1)]) [going (soleCmd 0x42 9 [])]
     rdBit s Reg.CEN_HOLD 0 0 = true ∧ rdBit s Reg.CEN_HOLD_ACK 0 0 = false ∧ engineAtEnd s 0 = false) :=
  ⟨open_of _ _ _ (by decide +kernel), by decide +kernel, by decide +kernel⟩

theorem witness_MasksAndClears : ∀ a ∈ [Reg.WVE_PMASK.addr 7, Reg.WVE_HSET.addr 7, Reg.WVE_FLT_CTRL_LCLR.addr 0, Reg.ISL_STK_HEALTH_FCLR.addr 31,
    Reg.ISL_BSH_CTRL_FCLR.addr 31, Reg.ISL_FAB_CTRL_FCLR.addr 31], Open svc .host a := opens_of _ _ _ (by decide +kernel)

theorem witness_CensusAndRim_copy : Open svc .host (Reg.CEN_COPY_GO.addr 0) ∧ rd svc Reg.CEN_COPY_STAT_BUSY 0 = 0 ∧
    rd (put svc [(Reg.CEN_COPY_STAT_BUSY, 0, 1)]) Reg.CEN_COPY_STAT_BUSY 0 = 1 :=
  ⟨open_of _ _ _ (by decide +kernel), by decide +kernel⟩
theorem witness_CensusAndRim_done : ∀ code ∈ [0, 15], let j : CopyJob := ⟨code, 0, 0, 0, [1, 2]⟩
    let s : State := { svc with hst := { svc.hst with copy := some j } }
    awake s = true ∧ s.hst.copy = some j ∧ 2 = j.bytes.length ∧ rd s Reg.FUS_LINK_STAT_UP 0 = 1 ∧ j.code = code ∧ j.code < 16 := by
  decide +kernel
theorem witness_CensusAndRim_rim : awake svc = true ∧ rimRuns svc = true ∧
    (let s := put svc [(Reg.RIM_STAT_RUN0, 0, 0), (Reg.RIM_RESTARTS, 0, 1)]
     awake s = true ∧ rimRuns s = false ∧ rd s Reg.RIM_RESTARTS 0 ≠ 0) := by decide +kernel

/-! ### Every command and every step -/

/-- The first and the last number of a stake, and the first beyond. -/
theorem witness_AnswersExactly : (Instr.stakeNop 0).wellFormed = true ∧ (Instr.stakeNop 1023).wellFormed = true ∧
    (Instr.stakeNop 1024).wellFormed = false := by decide

theorem inv_waits (s : State) (c : Instr) (h : Canon s) (w : c.wellFormed = true) : Inv { s with pending := [c] } where
  queued d m := by rw [List.mem_singleton.1 (show d ∈ [c] from m)]; exact w
  canon := ⟨h.regs, h.fab, h.mem⟩
/-- A command waits at reset. -/
theorem witness_StepKeepsInv : Inv { State.reset with pending := [.stakeNop 1023] } := inv_waits _ _ canon_reset rfl

end Sys2Proof.Tests
end

/-! Attachment, device modes and island self-tests (R395 to R397, R401). -/

namespace Sys2Proof.Machine

/-! ### Bits and pairs of the register file -/

theorem fits_of_le {f : Fld} (h : f.lo + f.w ≤ 32) : f.fits := h

theorem rdBit_setBit_same (s : State) (f : Fld) (i k : Nat) (hf : f.fits) (hk : k < f.w) :
    rdBit (setBit s f i k) f i k = true := by
  simp [rdBit, setBit, rd_wr_same _ _ _ _ hf, hk]

theorem testBit_sub_two_pow_same {x k : Nat} (h : x.testBit k = true) : (x - 2 ^ k).testBit k = false := by
  have hdiv : (x - 2 ^ k) / 2 ^ k = x / 2 ^ k - 1 := by simpa using Nat.sub_mul_div x (2 ^ k) 1
  simp only [Nat.testBit_eq_decide_div_mod_eq, hdiv, decide_eq_true_eq, decide_eq_false_iff_not] at h ⊢
  omega

theorem rdBit_clrBit_same (s : State) (f : Fld) (i k : Nat) (hf : f.fits) : rdBit (clrBit s f i k) f i k = false := by
  simp only [rdBit, clrBit, rd_wr_same _ _ _ _ hf, Nat.testBit_mod_two_pow]
  split
  · next h => simp [testBit_sub_two_pow_same h]
  · next h => simp [h]

theorem rd_wr2_ne (s : State) (lo hi g : Fld) (i j v : Nat) (hlo : g.addr j ≠ lo.addr i) (hhi : g.addr j ≠ hi.addr i) :
    rd (wr2 s lo hi i v) g j = rd s g j := by
  rw [wr2, rd_wr_ne _ _ _ _ _ _ hhi, rd_wr_ne _ _ _ _ _ _ hlo]

theorem aptBaseLo_addr (a : Nat) : Reg.FUS_APT_BASE_LO.addr a = 0xF120 + a * 8 := rfl
theorem aptBaseHi_addr (a : Nat) : Reg.FUS_APT_BASE_HI.addr a = 0xF124 + a * 8 := rfl

theorem rd2_wr2_aptBase_same (s : State) (a v : Nat) :
    rd2 (wr2 s Reg.FUS_APT_BASE_LO Reg.FUS_APT_BASE_HI a v) Reg.FUS_APT_BASE_LO Reg.FUS_APT_BASE_HI a = v % 2 ^ 64 := by
  have hne : Reg.FUS_APT_BASE_LO.addr a ≠ Reg.FUS_APT_BASE_HI.addr a := by rw [aptBaseLo_addr, aptBaseHi_addr]; omega
  rw [rd2, wr2, rd_wr_ne _ _ _ _ _ _ hne, rd_wr_same _ _ _ _ (fits_of_le (by decide)),
    rd_wr_same _ _ _ _ (fits_of_le (by decide))]
  simp only [Reg.FUS_APT_BASE_LO, Reg.FUS_APT_BASE_HI]
  omega

theorem rd2_wr2_aptBase_ne (s : State) {a c : Nat} (v : Nat) (h : c ≠ a) :
    rd2 (wr2 s Reg.FUS_APT_BASE_LO Reg.FUS_APT_BASE_HI a v) Reg.FUS_APT_BASE_LO Reg.FUS_APT_BASE_HI c =
      rd2 s Reg.FUS_APT_BASE_LO Reg.FUS_APT_BASE_HI c := by
  have hll : Reg.FUS_APT_BASE_LO.addr c ≠ Reg.FUS_APT_BASE_LO.addr a := by rw [aptBaseLo_addr, aptBaseLo_addr]; omega
  have hlh : Reg.FUS_APT_BASE_LO.addr c ≠ Reg.FUS_APT_BASE_HI.addr a := by rw [aptBaseLo_addr, aptBaseHi_addr]; omega
  have hhl : Reg.FUS_APT_BASE_HI.addr c ≠ Reg.FUS_APT_BASE_LO.addr a := by rw [aptBaseLo_addr, aptBaseHi_addr]; omega
  have hhh : Reg.FUS_APT_BASE_HI.addr c ≠ Reg.FUS_APT_BASE_HI.addr a := by rw [aptBaseHi_addr, aptBaseHi_addr]; omega
  rw [rd2, rd_wr2_ne _ _ _ _ _ _ _ hll hlh, rd_wr2_ne _ _ _ _ _ _ _ hhl hhh, rd2]

/-! ### What the plain write of a register leaves -/

theorem OnlyRegs.refl (s : State) : OnlyRegs s s := Eq.refl s

theorem OnlyRegs.ww {s t : State} (h : OnlyRegs s t) (a : Nat) (v : Word) : OnlyRegs s (ww t a v) := by
  unfold OnlyRegs at *
  rw [h]
  rfl

theorem OnlyRegs.wr {s t : State} (h : OnlyRegs s t) (f : Fld) (i v : Nat) : OnlyRegs s (wr t f i v) := h.ww _ _

theorem OnlyRegs.isl {s t : State} (h : OnlyRegs s t) (k : Nat) : isl t k = isl s k := by
  rw [h]
  rfl

/-- The words a plain write of the block register at `a` may change: its own, its WO shadow, and the page's error
summary and status (R7, R432, R433). -/
def storeWords (a : Nat) : List Nat :=
  [a, shadowAddr a, Reg.HDR_ERR_SUM_RSVD_WR.addr (a / 0x1000), Reg.HDR_STATUS_ERROR.addr (a / 0x1000)]

/-- Only register words differ, and of those only the ones listed. -/
structure RegsWithin (l : List Nat) (s t : State) : Prop where
  only : OnlyRegs s t
  kept : WordsKept s t l

theorem RegsWithin.refl (l : List Nat) (s : State) : RegsWithin l s s := ⟨OnlyRegs.refl s, fun _ _ => rfl⟩

theorem RegsWithin.ww {l : List Nat} {s t : State} (h : RegsWithin l s t) {a : Nat} (ha : a ∈ l) (v : Word) :
    RegsWithin l s (ww t a v) where
  only := h.only.ww a v
  kept b hb := by
    have hne : b ≠ a := fun e => hb (e ▸ ha)
    rw [rw_ww_ne _ _ hne, h.kept b hb]

theorem RegsWithin.rd {l : List Nat} {s t : State} (h : RegsWithin l s t) {f : Fld} {i : Nat} (hf : f.addr i ∉ l) :
    rd t f i = rd s f i := by
  unfold Machine.rd
  rw [h.kept _ hf]

theorem RegsWithin.writeField {l : List Nat} {s t : State} (h : RegsWithin l s t) {a : Nat} (ha : a ∈ l) (v : Nat)
    (f : Fld) : RegsWithin l s (writeField a v t f) := by
  unfold Machine.writeField
  split
  · exact h.ww ha _
  · exact h.ww ha _
  · exact h

theorem RegsWithin.writeFields {l : List Nat} {s t : State} (h : RegsWithin l s t) {a : Nat} (ha : a ∈ l) (v : Nat)
    (fs : List Fld) : RegsWithin l s (fs.foldl (Machine.writeField a v) t) := by
  induction fs generalizing t with
  | nil => exact h
  | cons f fs ih => exact ih (h.writeField ha v f)

theorem RegsWithin.pageErr {l : List Nat} {s t : State} (h : RegsWithin l s t) {f : Fld} {pg : Nat} (hf : f.addr pg ∈ l)
    (he : Reg.HDR_STATUS_ERROR.addr pg ∈ l) : RegsWithin l s (pageErr t f pg) := (h.ww hf _).ww he _

theorem RegsWithin.ite {l : List Nat} {s t u : State} {c : Prop} [Decidable c] (ht : RegsWithin l s t)
    (hu : RegsWithin l s u) : RegsWithin l s (if c then t else u) := by
  split
  · exact ht
  · exact hu

/-- A register beyond the page header has no action in the plain write: its fields, its shadow and a flagged reserved
bit are all that is written. -/
theorem stored_regsWithin (ag : Agent) {a : Nat} (h : 0x100 ≤ a % 0x1000) (v : Nat) (s : State) :
    RegsWithin (storeWords a) s (stored ag a v s) := by
  have hErr : a % 0x1000 ≠ 0x18 := by omega
  have hInt : a % 0x1000 ≠ 0x28 := by omega
  have hLock : a % 0x1000 ≠ 0x38 := by omega
  simp only [stored, writeWord, noFx, if_neg hErr, if_neg hInt, if_neg hLock]
  have hfields := (RegsWithin.refl (storeWords a) s).writeFields (a := a) (by simp [storeWords]) v (fieldsAt a)
  have hshadow := RegsWithin.ite (c := woMask a = 0) hfields
    (hfields.ww (a := shadowAddr a) (by simp [storeWords]) (BitVec.ofNat 32 (v &&& woMask a)))
  exact (RegsWithin.refl _ s).ite (hshadow.ite (hshadow.pageErr (by simp [storeWords]) (by simp [storeWords])))

theorem shadowAddr_modeReq : shadowAddr (Reg.RST_CTRL_MODE_REQ.addr 0) = 0xBF04 := by decide +kernel
theorem shadowAddr_islTest : shadowAddr (Reg.RST_ISL_TEST_ISL.addr 0) = 0xBF0C := by decide +kernel

/-! ### ATTACH_GO (R401) -/

/-- The three aperture bases read as taken from the attach header. -/
theorem rd2_bases (s : State) (b : List Nat) {c : Nat} (hc : c < 3) :
    rd2 (eachOf (List.range 3) s fun s a => wr2 s Reg.FUS_APT_BASE_LO Reg.FUS_APT_BASE_HI a (b.getD a 0))
      Reg.FUS_APT_BASE_LO Reg.FUS_APT_BASE_HI c = b.getD c 0 % 2 ^ 64 := by
  have hrange : List.range 3 = [0, 1, 2] := rfl
  rw [eachOf, hrange, List.foldl_cons, List.foldl_cons, List.foldl_cons, List.foldl_nil]
  interval_cases c
  · rw [rd2_wr2_aptBase_ne _ _ (by decide), rd2_wr2_aptBase_ne _ _ (by decide), rd2_wr2_aptBase_same]
  · rw [rd2_wr2_aptBase_ne _ _ (by decide), rd2_wr2_aptBase_same]
  · rw [rd2_wr2_aptBase_same]

theorem rd_enterService_mode (s : State) : rd (enterService s) Reg.RST_MODE 0 = 0 := by
  have hne : Reg.RST_MODE.addr 0 ≠ Reg.RST_BOOT_STAT_DONE.addr 0 := by decide
  have h : rd (enterService s) Reg.RST_MODE 0 =
      rd (wr (wr s Reg.RST_MODE 0 0) Reg.RST_BOOT_STAT_DONE 0 1) Reg.RST_MODE 0 := rfl
  rw [h, rd_wr_ne _ _ _ _ _ _ hne, rd_wr_same _ _ _ _ (fits_of_le (by decide)), Nat.zero_mod]

theorem rd_enterService_done (s : State) : rd (enterService s) Reg.RST_BOOT_STAT_DONE 0 = 1 :=
  rd_wr_same (wr s Reg.RST_MODE 0 0) Reg.RST_BOOT_STAT_DONE 0 1 (fits_of_le (by decide))

theorem enterService_att (s : State) : (enterService s).sec.att = 2 := rfl

/-- Registers other than MODE and BOOT_STAT keep their values when SERVICE is entered. -/
theorem rd_enterService_ne (s : State) (f : Fld) (i : Nat) (hm : f.addr i ≠ Reg.RST_MODE.addr 0)
    (hb : f.addr i ≠ Reg.RST_BOOT_STAT_DONE.addr 0) : rd (enterService s) f i = rd s f i := by
  have h : rd (enterService s) f i = rd (wr (wr s Reg.RST_MODE 0 0) Reg.RST_BOOT_STAT_DONE 0 1) f i := rfl
  rw [h, rd_wr_ne _ _ _ _ _ _ hb, rd_wr_ne _ _ _ _ _ _ hm]

/-- The state a valid GO leaves: the bases taken, step 6 timed, SERVICE entered (R401). -/
def attached (b : List Nat) (s : State) : State :=
  let u := eachOf (List.range 3) s fun s a => wr2 s Reg.FUS_APT_BASE_LO Reg.FUS_APT_BASE_HI a (b.getD a 0)
  enterService (wr u Reg.RST_STEP_US 5 (min (u.now - u.sec.since) (2 ^ 32 - 1)))

theorem exec_attachGo_valid {s : State} {b0 b1 b2 : Nat} (hawake : awake s = true)
    (hlink : rd s Reg.FUS_LINK_STAT_UP 0 = 1) (hatt : s.sec.att = 1)
    (hok : basesOk [b0 % 2 ^ 64, b1 % 2 ^ 64, b2 % 2 ^ 64] = true) :
    exec (.attachGo b0 b1 b2) s = .next (attached [b0 % 2 ^ 64, b1 % 2 ^ 64, b2 % 2 ^ 64] s) := by
  have harm : exec (.attachGo b0 b1 b2) s = execAttachGo b0 b1 b2 s := rfl
  rw [harm, execAttachGo, live, if_pos hawake]
  simp only [hlink, hatt, hok, attached]
  rfl

theorem rd2_attached_base (b : List Nat) (s : State) {c : Nat} (hc : c < 3) :
    rd2 (attached b s) Reg.FUS_APT_BASE_LO Reg.FUS_APT_BASE_HI c = b.getD c 0 % 2 ^ 64 := by
  have hfar : ∀ f ∈ [Reg.FUS_APT_BASE_LO, Reg.FUS_APT_BASE_HI], ∀ g ∈ [(Reg.RST_MODE, 0), (Reg.RST_BOOT_STAT_DONE, 0),
      (Reg.RST_STEP_US, 5)], f.addr c ≠ g.1.addr g.2 := by
    interval_cases c <;> decide
  simp only [List.forall_mem_cons] at hfar
  obtain ⟨⟨lo1, lo2, lo3, -⟩, ⟨hi1, hi2, hi3, -⟩, -⟩ := hfar
  rw [← rd2_bases s b hc, attached, rd2, rd2, rd_enterService_ne _ _ _ lo1 lo2, rd_enterService_ne _ _ _ hi1 hi2,
    rd_wr_ne _ _ _ _ _ _ lo3, rd_wr_ne _ _ _ _ _ _ hi3]

/-- A valid GO attaches the device, which enters SERVICE (R401). -/
theorem attachGo_attaches (s : State) (b0 b1 b2 : Nat) (hawake : awake s = true) (hlink : rd s Reg.FUS_LINK_STAT_UP 0 = 1)
    (hatt : s.sec.att = 1) (hok : basesOk [b0 % 2 ^ 64, b1 % 2 ^ 64, b2 % 2 ^ 64] = true) :
    Answers (.attachGo b0 b1 b2) s fun t =>
      rd t Reg.RST_MODE 0 = 0 ∧ rd t Reg.RST_BOOT_STAT_DONE 0 = 1 ∧ t.sec.att = 2 ∧
      rd2 t Reg.FUS_APT_BASE_LO Reg.FUS_APT_BASE_HI 0 = b0 % 2 ^ 64 ∧
      rd2 t Reg.FUS_APT_BASE_LO Reg.FUS_APT_BASE_HI 1 = b1 % 2 ^ 64 ∧
      rd2 t Reg.FUS_APT_BASE_LO Reg.FUS_APT_BASE_HI 2 = b2 % 2 ^ 64 := by
  refine ⟨_, exec_attachGo_valid hawake hlink hatt hok, rd_enterService_mode _, rd_enterService_done _,
    enterService_att _, ?_, ?_, ?_⟩
  · exact (rd2_attached_base _ s (by decide)).trans (Nat.mod_mod _ _)
  · exact (rd2_attached_base _ s (by decide)).trans (Nat.mod_mod _ _)
  · exact (rd2_attached_base _ s (by decide)).trans (Nat.mod_mod _ _)

/-! ### MODE_REQ (R396) -/

/-- A served write of MODE_REQ is stored, then acts. -/
theorem exec_modeReq_open {s : State} {ag : Agent} (h : Open s ag (Reg.RST_CTRL_MODE_REQ.addr 0)) (v : Nat) :
    exec (.modeReq ag v) s = .next (fxModeReq v (stored ag (Reg.RST_CTRL_MODE_REQ.addr 0) (v % 2 ^ 32) s)) := by
  have harm : exec (.modeReq ag v) s = execModeReq ag v s := rfl
  rw [harm, execModeReq, agentWrite_open h (by decide) (by decide), Nat.mod_mod]

/-- MODE, and every register below page RST, stand as they were when the action of MODE_REQ reads them. -/
theorem rd_stored_modeReq (ag : Agent) (v : Nat) (s : State) {f : Fld} {i : Nat}
    (hf : f.addr i < 0xB010 ∨ f.addr i = 0xB100) :
    rd (stored ag (Reg.RST_CTRL_MODE_REQ.addr 0) v s) f i = rd s f i := by
  refine (stored_regsWithin ag (by decide) v s).rd ?_
  rw [storeWords, shadowAddr_modeReq]
  simp only [List.mem_cons, List.not_mem_nil, or_false, Fld.addr, Reg.RST_CTRL_MODE_REQ, Reg.HDR_ERR_SUM_RSVD_WR,
    Reg.HDR_STATUS_ERROR] at hf ⊢
  omega

/-- A request takes effect exactly where it asks for SERVICE or TEST, the device is in one of them, and every binding is
EMPTY. -/
theorem fxModeReq_eq (v : Nat) (s : State) : fxModeReq v s =
    if (v % 4 = 0 ∨ v % 4 = 2) ∧ (rd s Reg.RST_MODE 0 = 0 ∨ rd s Reg.RST_MODE 0 = 2) ∧
      (∀ b < 32, rd s Reg.WVE_BIND_STATE b = 0) then wr s Reg.RST_MODE 0 (v % 4) else s := by
  simp [fxModeReq]

theorem fxModeReq_stored (ag : Agent) (v w : Nat) (s : State) :
    let u := stored ag (Reg.RST_CTRL_MODE_REQ.addr 0) w s
    fxModeReq v u =
      if (v % 4 = 0 ∨ v % 4 = 2) ∧ (rd s Reg.RST_MODE 0 = 0 ∨ rd s Reg.RST_MODE 0 = 2) ∧
        (∀ b < 32, rd s Reg.WVE_BIND_STATE b = 0) then wr u Reg.RST_MODE 0 (v % 4) else u := by
  have hmode := rd_stored_modeReq ag w s (f := Reg.RST_MODE) (i := 0) (Or.inr (by decide))
  have hbind : ∀ b < 32, rd (stored ag (Reg.RST_CTRL_MODE_REQ.addr 0) w s) Reg.WVE_BIND_STATE b =
      rd s Reg.WVE_BIND_STATE b := fun b hb =>
    rd_stored_modeReq ag w s (Or.inl (by simp only [Fld.addr, Reg.WVE_BIND_STATE]; omega))
  simp +contextual only [fxModeReq_eq, hmode, hbind]

theorem modeReq_takes (s : State) (ag : Agent) (v : Nat) (h : Open s ag (Reg.RST_CTRL_MODE_REQ.addr 0))
    (hempty : ∀ b < 32, rd s Reg.WVE_BIND_STATE b = 0) (hv : v % 4 = 0 ∨ v % 4 = 2)
    (hmode : rd s Reg.RST_MODE 0 = 0 ∨ rd s Reg.RST_MODE 0 = 2) :
    Answers (.modeReq ag v) s fun t => rd t Reg.RST_MODE 0 = v % 4 := by
  refine ⟨_, exec_modeReq_open h v, ?_⟩
  rw [fxModeReq_stored, if_pos ⟨hv, hmode, hempty⟩]
  exact (rd_wr_same _ _ _ _ (fits_of_le (by decide))).trans (Nat.mod_mod v 4)

theorem modeReq_ignored (s : State) (ag : Agent) (v : Nat) (h : Open s ag (Reg.RST_CTRL_MODE_REQ.addr 0))
    (hno : (∃ b < 32, rd s Reg.WVE_BIND_STATE b ≠ 0) ∨ v % 4 = 1 ∨ v % 4 = 3 ∨ rd s Reg.RST_MODE 0 = 1 ∨
      rd s Reg.RST_MODE 0 = 3) :
    Answers (.modeReq ag v) s fun t => rd t Reg.RST_MODE 0 = rd s Reg.RST_MODE 0 ∧
      t = stored ag (Reg.RST_CTRL_MODE_REQ.addr 0) (v % 2 ^ 32) s := by
  have hcond : ¬((v % 4 = 0 ∨ v % 4 = 2) ∧ (rd s Reg.RST_MODE 0 = 0 ∨ rd s Reg.RST_MODE 0 = 2) ∧
      ∀ b < 32, rd s Reg.WVE_BIND_STATE b = 0) := by
    rintro ⟨hv, hmode, hempty⟩
    rcases hno with ⟨b, hb, hne⟩ | hno
    · exact hne (hempty b hb)
    · omega
  refine ⟨_, exec_modeReq_open h v, ?_, ?_⟩
  · rw [fxModeReq_stored, if_neg hcond, rd_stored_modeReq ag _ s (Or.inr (by decide))]
  · rw [fxModeReq_stored, if_neg hcond]

/-! ### Island self-tests (R397) -/

/-- ISL_TEST_STAT shows whether a test runs, and how the last one ended; the island it names stays (R406). -/
def showTest (busy pass fail : Nat) (s : State) : State :=
  wr (wr (wr s Reg.RST_ISL_TEST_STAT_BUSY 0 busy) Reg.RST_ISL_TEST_STAT_PASS 0 pass) Reg.RST_ISL_TEST_STAT_FAIL 0 fail

theorem rd_showTest_isl (busy pass fail : Nat) (s : State) :
    rd (showTest busy pass fail s) Reg.RST_ISL_TEST_STAT_ISL 0 = rd s Reg.RST_ISL_TEST_STAT_ISL 0 := by
  have hfit : Reg.RST_ISL_TEST_STAT_ISL.fits := fits_of_le (by decide)
  rw [showTest, rd_wr_disjoint _ _ _ _ _ _ hfit (by decide), rd_wr_disjoint _ _ _ _ _ _ hfit (by decide),
    rd_wr_disjoint _ _ _ _ _ _ hfit (by decide)]

theorem rd_showTest_busy (busy pass fail : Nat) (s : State) :
    rd (showTest busy pass fail s) Reg.RST_ISL_TEST_STAT_BUSY 0 = busy % 2 := by
  have hfit : Reg.RST_ISL_TEST_STAT_BUSY.fits := fits_of_le (by decide)
  rw [showTest, rd_wr_disjoint _ _ _ _ _ _ hfit (by decide), rd_wr_disjoint _ _ _ _ _ _ hfit (by decide),
    rd_wr_same _ _ _ _ hfit]
  rfl

theorem rd_showTest_pass (busy pass fail : Nat) (s : State) :
    rd (showTest busy pass fail s) Reg.RST_ISL_TEST_STAT_PASS 0 = pass % 2 := by
  have hfit : Reg.RST_ISL_TEST_STAT_PASS.fits := fits_of_le (by decide)
  rw [showTest, rd_wr_disjoint _ _ _ _ _ _ hfit (by decide), rd_wr_same _ _ _ _ hfit]
  rfl

theorem rd_showTest_fail (busy pass fail : Nat) (s : State) :
    rd (showTest busy pass fail s) Reg.RST_ISL_TEST_STAT_FAIL 0 = fail % 2 :=
  rd_wr_same _ _ _ _ (fits_of_le (by decide))

/-- Every other register keeps its value when ISL_TEST_STAT is shown. -/
theorem rd_showTest_ne (busy pass fail : Nat) (s : State) {f : Fld} {i : Nat}
    (hf : f.addr i ≠ Reg.RST_ISL_TEST_STAT_ISL.addr 0) : rd (showTest busy pass fail s) f i = rd s f i := by
  rw [showTest, rd_wr_ne _ Reg.RST_ISL_TEST_STAT_FAIL f 0 i _ hf, rd_wr_ne _ Reg.RST_ISL_TEST_STAT_PASS f 0 i _ hf,
    rd_wr_ne _ Reg.RST_ISL_TEST_STAT_BUSY f 0 i _ hf]

theorem OnlyRegs.showTest {s t : State} (h : OnlyRegs s t) (busy pass fail : Nat) :
    OnlyRegs s (showTest busy pass fail t) := ((h.wr _ _ _).wr _ _ _).wr _ _ _

/-- A served write of ISL_TEST is stored, then acts. -/
theorem exec_islTestGo_open {s : State} {ag : Agent} (h : Open s ag (Reg.RST_ISL_TEST_ISL.addr 0)) (v : Nat) :
    exec (.islTestGo ag v) s = .next (fxIslTest v (stored ag (Reg.RST_ISL_TEST_ISL.addr 0) (v % 2 ^ 32) s)) := by
  have harm : exec (.islTestGo ag v) s = execIslTestGo ag v s := rfl
  rw [harm, execIslTestGo, agentWrite_open h (by decide) (by decide), Nat.mod_mod]

theorem rdBit_stored_islTest (ag : Agent) (v : Nat) (s : State) (k : Nat) :
    rdBit (stored ag (Reg.RST_ISL_TEST_ISL.addr 0) v s) Reg.RST_TEST_HOLD 0 k = rdBit s Reg.RST_TEST_HOLD 0 k := by
  have hfar : Reg.RST_TEST_HOLD.addr 0 ∉ storeWords (Reg.RST_ISL_TEST_ISL.addr 0) := by
    rw [storeWords, shadowAddr_islTest]
    decide
  rw [rdBit, (stored_regsWithin ag (by decide) v s).rd hfar, rdBit]

theorem isl_stored_islTest (ag : Agent) (v : Nat) (s : State) (k : Nat) :
    isl (stored ag (Reg.RST_ISL_TEST_ISL.addr 0) v s) k = isl s k :=
  (stored_regsWithin ag (by decide) v s).only.isl k

/-- Island `k`'s test has begun: its hold bit stands, and ISL_TEST_STAT names it and is busy (R397, R406). -/
def testBegun (k : Nat) (s : State) : State :=
  showTest 1 0 0 (wr (setBit s Reg.RST_TEST_HOLD 0 k) Reg.RST_ISL_TEST_STAT_ISL 0 k)

theorem fxIslTest_begins {v : Nat} {s : State} (hgo : bit v 5 = true) (hidle : (isl s (v % 32)).bind = none)
    (hfree : rdBit s Reg.RST_TEST_HOLD 0 (v % 32) = false) : fxIslTest v s = testBegun (v % 32) s := by
  have hcond : bit v 5 ∧ (isl s (v % 32)).bind.isNone ∧ rdBit s Reg.RST_TEST_HOLD 0 (v % 32) = false :=
    ⟨hgo, by rw [hidle]; rfl, hfree⟩
  exact if_pos hcond

theorem rdBit_testBegun_hold {k : Nat} (hk : k < 32) (s : State) : rdBit (testBegun k s) Reg.RST_TEST_HOLD 0 k = true := by
  rw [rdBit, testBegun, rd_showTest_ne _ _ _ _ (by decide), rd_wr_ne _ _ _ _ _ _ (by decide)]
  exact rdBit_setBit_same s Reg.RST_TEST_HOLD 0 k (fits_of_le (by decide)) hk

theorem rd_testBegun_isl {k : Nat} (hk : k < 32) (s : State) : rd (testBegun k s) Reg.RST_ISL_TEST_STAT_ISL 0 = k := by
  rw [testBegun, rd_showTest_isl, rd_wr_same _ _ _ _ (fits_of_le (by decide))]
  exact Nat.mod_eq_of_lt hk

/-- A served write of ISL_TEST with GO, naming an idle island not under test, begins its test (R397). -/
theorem islTestGo_begins (s : State) (ag : Agent) (v : Nat) (h : Open s ag (Reg.RST_ISL_TEST_ISL.addr 0))
    (hgo : bit v 5 = true) (hidle : (isl s (v % 32)).bind = none) (hfree : rdBit s Reg.RST_TEST_HOLD 0 (v % 32) = false) :
    Answers (.islTestGo ag v) s fun t => rdBit t Reg.RST_TEST_HOLD 0 (v % 32) = true ∧
      rd t Reg.RST_ISL_TEST_STAT_ISL 0 = v % 32 ∧ rd t Reg.RST_ISL_TEST_STAT_BUSY 0 = 1 := by
  have hk : v % 32 < 32 := Nat.mod_lt _ (by decide)
  refine ⟨_, exec_islTestGo_open h v, ?_⟩
  rw [fxIslTest_begins hgo (by rwa [isl_stored_islTest]) (by rwa [rdBit_stored_islTest])]
  exact ⟨rdBit_testBegun_hold hk _, rd_testBegun_isl hk _, rd_showTest_busy _ _ _ _⟩

/-- The verdict of island `k`'s test: its hold ends, and a failure makes it suspect (R397). -/
def testJudged (k : Nat) (pass : Bool) (s : State) : State :=
  let u := clrBit s Reg.RST_TEST_HOLD 0 k
  if pass then u else wr u Reg.ISL_STK_HEALTH_SUSPECT k 1

/-- The test is over: ISL_TEST_STAT shows the verdict where it names island `k`, and stands as it was elsewhere. -/
def testEnded (k : Nat) (pass : Bool) (s : State) : State :=
  let u := testJudged k pass s
  if rd u Reg.RST_ISL_TEST_STAT_ISL 0 ≠ k then u else showTest 0 (oneIf pass) (oneIf !pass) u

theorem exec_islTestDone_held {s : State} {k : Nat} (pass : Bool) (hk : k < 32) (hawake : awake s = true)
    (hheld : rdBit s Reg.RST_TEST_HOLD 0 k = true) : exec (.islTestDone k pass) s = .next (testEnded k pass s) := by
  have harm : exec (.islTestDone k pass) s = execIslTestDone k pass s := rfl
  rw [harm, execIslTestDone, onUnit, if_pos (decide_eq_true hk), live, if_pos hawake, if_neg (by simp [hheld])]
  rfl

theorem testJudged_onlyRegs (k : Nat) (pass : Bool) (s : State) : OnlyRegs s (testJudged k pass s) := by
  cases pass
  · exact ((OnlyRegs.refl s).wr _ _ _).wr _ _ _
  · exact (OnlyRegs.refl s).wr _ _ _

/-- A verdict writes the hold bits and the island's health word alone. -/
theorem rd_testJudged_ne (k : Nat) (pass : Bool) (s : State) {f : Fld} {i : Nat} (hh : f.addr i ≠ Reg.RST_TEST_HOLD.addr 0)
    (hs : f.addr i ≠ Reg.ISL_STK_HEALTH_SUSPECT.addr k) : rd (testJudged k pass s) f i = rd s f i := by
  cases pass
  · exact (rd_wr_ne _ _ _ _ _ _ hs).trans (rd_wr_ne _ _ _ _ _ _ hh)
  · exact rd_wr_ne _ _ _ _ _ _ hh

/-- The health words of the islands lie beyond page RST. -/
theorem suspect_addr_gt (k : Nat) : Reg.RST_TEST_HOLD.addr 0 < Reg.ISL_STK_HEALTH_SUSPECT.addr k := by
  simp only [Fld.addr, Reg.RST_TEST_HOLD, Reg.ISL_STK_HEALTH_SUSPECT]
  omega

theorem suspect_ne_hold (k : Nat) : Reg.ISL_STK_HEALTH_SUSPECT.addr k ≠ Reg.RST_TEST_HOLD.addr 0 :=
  (suspect_addr_gt k).ne'

theorem suspect_ne_stat (k : Nat) : Reg.ISL_STK_HEALTH_SUSPECT.addr k ≠ Reg.RST_ISL_TEST_STAT_ISL.addr 0 :=
  (Nat.lt_trans (by decide) (suspect_addr_gt k)).ne'

theorem rdBit_testJudged_hold (k : Nat) (pass : Bool) (s : State) :
    rdBit (testJudged k pass s) Reg.RST_TEST_HOLD 0 k = false := by
  rw [← rdBit_clrBit_same s Reg.RST_TEST_HOLD 0 k (fits_of_le (by decide))]
  cases pass
  · exact congrArg (Nat.testBit · k) (rd_wr_ne _ _ _ _ _ _ (suspect_ne_hold k).symm)
  · rfl

theorem rd_testJudged_suspect (k : Nat) (pass : Bool) (s : State) :
    rd (testJudged k pass s) Reg.ISL_STK_HEALTH_SUSPECT k = if pass then rd s Reg.ISL_STK_HEALTH_SUSPECT k else 1 := by
  cases pass
  · exact rd_wr_same _ _ _ _ (fits_of_le (by decide))
  · exact rd_wr_ne _ _ _ _ _ _ (suspect_ne_hold k)

theorem rd_testJudged_isl (k : Nat) (pass : Bool) (s : State) :
    rd (testJudged k pass s) Reg.RST_ISL_TEST_STAT_ISL 0 = rd s Reg.RST_ISL_TEST_STAT_ISL 0 :=
  rd_testJudged_ne k pass s (by decide) (suspect_ne_stat k).symm

/-- Beyond ISL_TEST_STAT a test that is over leaves what its verdict leaves. -/
theorem rd_testEnded_ne (k : Nat) (pass : Bool) (s : State) {f : Fld} {i : Nat}
    (hf : f.addr i ≠ Reg.RST_ISL_TEST_STAT_ISL.addr 0) : rd (testEnded k pass s) f i = rd (testJudged k pass s) f i := by
  simp only [testEnded]
  split
  · rfl
  · exact rd_showTest_ne _ _ _ _ hf

theorem testEnded_onlyRegs (k : Nat) (pass : Bool) (s : State) : OnlyRegs s (testEnded k pass s) := by
  simp only [testEnded]
  split
  · exact testJudged_onlyRegs k pass s
  · exact (testJudged_onlyRegs k pass s).showTest _ _ _

/-- Where ISL_TEST_STAT names the island, it shows the verdict. -/
theorem testEnded_named {k : Nat} {s : State} (pass : Bool) (h : rd s Reg.RST_ISL_TEST_STAT_ISL 0 = k) :
    testEnded k pass s = showTest 0 (oneIf pass) (oneIf !pass) (testJudged k pass s) := by
  rw [testEnded, if_neg (not_not_intro ((rd_testJudged_isl k pass s).trans h))]

theorem oneIf_mod_two (b : Bool) : oneIf b % 2 = oneIf b := by cases b <;> rfl

/-- The end of a test: the island is held no longer, a failure makes it suspect and a pass leaves its health, and the
verdict is shown where ISL_TEST_STAT names the island (R397). -/
theorem islTestDone_ends (s : State) (k : Nat) (pass : Bool) (hk : k < 32) (hawake : awake s = true)
    (hheld : rdBit s Reg.RST_TEST_HOLD 0 k = true) :
    Answers (.islTestDone k pass) s fun t => rdBit t Reg.RST_TEST_HOLD 0 k = false ∧
      (pass = false → rd t Reg.ISL_STK_HEALTH_SUSPECT k = 1) ∧
      (pass = true → rd t Reg.ISL_STK_HEALTH_SUSPECT k = rd s Reg.ISL_STK_HEALTH_SUSPECT k) ∧
      (rd s Reg.RST_ISL_TEST_STAT_ISL 0 = k → rd t Reg.RST_ISL_TEST_STAT_BUSY 0 = 0 ∧
        rd t Reg.RST_ISL_TEST_STAT_PASS 0 = oneIf pass ∧ rd t Reg.RST_ISL_TEST_STAT_FAIL 0 = oneIf (!pass)) ∧
      OnlyRegs s t := by
  have hsuspect := (rd_testEnded_ne k pass s (suspect_ne_stat k)).trans (rd_testJudged_suspect k pass s)
  refine ⟨_, exec_islTestDone_held pass hk hawake hheld, ?_, ?_, ?_, ?_, testEnded_onlyRegs k pass s⟩
  · rw [rdBit, rd_testEnded_ne k pass s (by decide)]
    exact rdBit_testJudged_hold k pass s
  · rintro rfl
    exact hsuspect
  · rintro rfl
    exact hsuspect
  · intro hnamed
    rw [testEnded_named pass hnamed, rd_showTest_busy, rd_showTest_pass, rd_showTest_fail, oneIf_mod_two, oneIf_mod_two]
    exact ⟨rfl, rfl, rfl⟩

/-- Settles O53: ATTACH_GO takes its bases and enters SERVICE, MODE_REQ acts on an empty device alone, and an island's
self-test holds it until its verdict. -/
theorem attachAndModes : Obligations.AttachAndModes :=
  ⟨attachGo_attaches,
    fun s ag v => ⟨modeReq_takes s ag v, modeReq_ignored s ag v, islTestGo_begins s ag v⟩,
    islTestDone_ends⟩

end Sys2Proof.Machine

/-! Reads and writes of registers (R6, R7, R428, R429, R431, R435, R436). -/

namespace Sys2Proof.Machine

/-! ### RC fields clear when read (R6) -/

/-- A field put to zero clears its own bits and leaves the others. -/
theorem getLsbD_setF_zero (lo w : Nat) (x : Word) (i : Nat) :
    (setF lo w 0 x).getLsbD i = (x.getLsbD i && !(decide (lo ≤ i) && decide (i < lo + w))) := by
  by_cases hi : i < 32
  · rw [getLsbD_setF _ _ _ _ _ hi]
    split
    · next hin => simp [hin]
    · next hout => simpa using fun _ => by omega
  · simp [BitVec.getLsbD_of_ge _ _ (Nat.le_of_not_lt hi)]

theorem testBit_getF (lo w : Nat) (x : Word) (i : Nat) :
    (getF lo w x).testBit i = (decide (i < w) && x.getLsbD (lo + i)) := by
  simp only [getF, BitVec.testBit_toNat, BitVec.getLsbD_extractLsb']

theorem getF_setF_zero_same (lo w : Nat) (x : Word) : getF lo w (setF lo w 0 x) = 0 := by
  refine Nat.zero_of_testBit_eq_false fun i => ?_
  rw [testBit_getF, getLsbD_setF_zero]
  by_cases hi : i < w
  · simp [hi]
  · rw [decide_eq_false hi, Bool.false_and]

/-- A field that reads zero reads zero still when any field is put to zero, whether or not they share bits. -/
theorem getF_setF_zero_of_zero {lo w : Nat} {x : Word} (lo' w' : Nat) (h : getF lo w x = 0) :
    getF lo w (setF lo' w' 0 x) = 0 := by
  refine Nat.zero_of_testBit_eq_false fun i => ?_
  have hbit : (decide (i < w) && x.getLsbD (lo + i)) = false := by rw [← testBit_getF, h, Nat.zero_testBit]
  rw [testBit_getF, getLsbD_setF_zero, ← Bool.and_assoc, hbit, Bool.false_and]

/-- Field `f` of the register at `a` is put to zero. -/
def zeroField (a : Nat) (s : State) (f : Fld) : State := ww s a (setF f.lo f.w 0 (rw s a))

theorem clearRc_eq_zeroFields (s : State) (a : Nat) :
    clearRc s a = ((fieldsAt a).filter fun f => f.acc == .rc).foldl (zeroField a) s := rfl

theorem RegsWithin.zeroFields {l : List Nat} {s t : State} (h : RegsWithin l s t) {a : Nat} (ha : a ∈ l) (fs : List Fld) :
    RegsWithin l s (fs.foldl (zeroField a) t) := by
  induction fs generalizing t with
  | nil => exact h
  | cons f fs ih => exact ih (h.ww ha _)

/-- Of all the state only the word read changes when its RC fields clear. -/
theorem clearRc_regsWithin (s : State) (a : Nat) : RegsWithin [a] s (clearRc s a) := by
  rw [clearRc_eq_zeroFields]
  exact (RegsWithin.refl _ s).zeroFields (List.mem_singleton_self a) _

theorem rw_clearRc_ne (s : State) {a b : Nat} (h : b ≠ a) : rw (clearRc s a) b = rw s b :=
  (clearRc_regsWithin s a).kept b (by simpa using h)

theorem clearRc_lat (s : State) (a : Nat) : (clearRc s a).lat = s.lat := by
  rw [(clearRc_regsWithin s a).only]

theorem zeroFields_keep_zero {a lo w : Nat} (fs : List Fld) {s : State} (h : getF lo w (rw s a) = 0) :
    getF lo w (rw (fs.foldl (zeroField a) s) a) = 0 := by
  induction fs generalizing s with
  | nil => exact h
  | cons f fs ih => exact ih (by rw [zeroField, rw_ww_same]; exact getF_setF_zero_of_zero _ _ h)

theorem zeroFields_zero (a : Nat) {f : Fld} {fs : List Fld} (hf : f ∈ fs) (s : State) :
    getF f.lo f.w (rw (fs.foldl (zeroField a) s) a) = 0 := by
  induction hf generalizing s with
  | head fs => exact zeroFields_keep_zero fs (by rw [zeroField, rw_ww_same]; exact getF_setF_zero_same _ _ _)
  | tail g _ ih => exact ih _

theorem getF_clearRc {a : Nat} {f : Fld} (hf : f ∈ fieldsAt a) (hrc : f.acc = .rc) (s : State) :
    getF f.lo f.w (rw (clearRc s a) a) = 0 := by
  rw [clearRc_eq_zeroFields]
  exact zeroFields_zero a (List.mem_filter.2 ⟨hf, by rw [hrc]; rfl⟩) s

/-! ### Reads a page serves (R428, R431) -/

/-- An agent's read of the register at `a` reaches the device, and a page serves it. -/
structure Readable (s : State) (ag : Agent) (a : Nat) : Prop where
  reaches : cutOff s ag = false
  served : reach s ag (a / 0x1000) = .open_
  page : pageExists (a / 0x1000) = true

/-- The state `u` with the answer `v` to a read in `rdata`. -/
def answered (v : Nat) (u : State) : State := { u with rdata := v }

@[simp] theorem answered_rdata (v : Nat) (u : State) : (answered v u).rdata = v := rfl
@[simp] theorem answered_lat (v : Nat) (u : State) : (answered v u).lat = u.lat := rfl

theorem readTo_of_reaches {s : State} {ag : Agent} (h : cutOff s ag = false) (a n : Nat) :
    readTo s ag a n = answered (regRead s ag a n).1 (regRead s ag a n).2 := by
  rw [readTo, h]
  rfl

theorem any_pairLo_false {a : Nat} (h : ∀ f ∈ pairLo, f.hits a = false) : (pairLo.any fun f => f.hits a) = false :=
  List.any_eq_false.2 fun f hf => by simp [h f hf]

/-- A read of a pair's low half latches the high half (R431). -/
theorem readTo_pairLo {s : State} {ag : Agent} {a : Nat} (h : Readable s ag a) (h4 : a % 4 = 0)
    (hlo : (pairLo.any fun f => f.hits a) = true) : readTo s ag a 4 = answered (regView s a).toNat
      (setLatch (clearRc s a) ag (a / 0x1000) (some (a + 4, (regView s (a + 4)).toNat))) := by
  simp [readTo_of_reaches h.reaches, regRead, h.served, h.page, h4, hlo]

/-- Any other register, where no latch of the agent stands on the page. -/
theorem readTo_unlatched {s : State} {ag : Agent} {a : Nat} (h : Readable s ag a) (h4 : a % 4 = 0)
    (hlo : ∀ f ∈ pairLo, f.hits a = false) (hlat : tget (fun _ => none) s.lat (latchKey ag (a / 0x1000)) = none) :
    readTo s ag a 4 = answered (regView s a).toNat (clearRc s a) := by
  simp [readTo_of_reaches h.reaches, regRead, h.served, h.page, h4, any_pairLo_false hlo, hlat]

/-- Any other register, where a latch stands: it answers at its own address, and is dropped (R431). -/
theorem readTo_latched {s : State} {ag : Agent} {a k v : Nat} (h : Readable s ag a) (h4 : a % 4 = 0)
    (hlat : tget (fun _ => none) s.lat (latchKey ag (a / 0x1000)) = some (k, v)) (hlo : ∀ f ∈ pairLo, f.hits a = false) :
    readTo s ag a 4 =
      answered (if k = a then v else (regView s a).toNat) (setLatch (clearRc s a) ag (a / 0x1000) none) := by
  by_cases hk : k = a <;>
    simp [readTo_of_reaches h.reaches, regRead, h.served, h.page, h4, any_pairLo_false hlo, hlat, hk]

/-- A read of 8 bytes takes both words at once (R431). -/
theorem readTo_eight {s : State} {ag : Agent} {a : Nat} (h : Readable s ag a) (h8 : a % 8 = 0) (hag : ag ≠ .board) :
    readTo s ag a 8 = answered ((regView s a).toNat + 2 ^ 32 * (regView s (a + 4)).toNat)
      (setLatch (clearRc (clearRc s a) (a + 4)) ag (a / 0x1000) none) := by
  simp [readTo_of_reaches h.reaches, regRead, h.served, h.page, h8, hag]

@[simp] theorem tget_setLatch_same (s : State) (ag : Agent) (pg : Nat) (x : Option (Nat × Nat)) :
    tget (fun _ => none) (setLatch s ag pg x).lat (latchKey ag pg) = x := tget_tset_same _ _ _ _

theorem tget_setLatch_ne (s : State) (ag : Agent) (pg : Nat) (x : Option (Nat × Nat)) {k : Nat} (h : k ≠ latchKey ag pg) :
    tget (fun _ => none) (setLatch s ag pg x).lat k = tget (fun _ => none) s.lat k := tget_tset_ne _ _ _ h

theorem exec_rcRead {a : Nat} (ha : a < 2 ^ 26) (ag : Agent) (n : Nat) (s : State) :
    exec (.rcRead ag a n) s = .next (readTo s ag a n) := by
  have harm : exec (.rcRead ag a n) s = execRcRead ag a n s := rfl
  rw [harm, execRcRead, onUnit, inWindow, if_pos (decide_eq_true ha)]

theorem exec_loRead {a : Nat} (hlo : (pairLo.any fun f => f.hits a) = true) (ag : Agent) (s : State) :
    exec (.loRead ag a) s = .next (readTo s ag a 4) := by
  have harm : exec (.loRead ag a) s = execLoRead ag a s := rfl
  rw [harm, execLoRead, onUnit, if_pos hlo]

/-- A read of a pair's low half answers it and latches the high half for the agent (R431). -/
theorem loRead_latches {s : State} {ag : Agent} {a : Nat} (h : Readable s ag a) (h4 : a % 4 = 0)
    (hlo : ∃ f ∈ pairLo, f.hits a = true) : Answers (.loRead ag a) s fun t => t.rdata = (regView s a).toNat ∧
      tget (fun _ => none) t.lat (latchKey ag (a / 0x1000)) = some (a + 4, (regView s (a + 4)).toNat) ∧
      t = { clearRc s a with rdata := t.rdata, lat := t.lat } := by
  have hany : (pairLo.any fun f => f.hits a) = true := List.any_eq_true.2 hlo
  refine ⟨_, exec_loRead hany ag s, ?_⟩
  rw [readTo_pairLo h h4 hany]
  exact ⟨rfl, by rw [answered_lat, tget_setLatch_same], rfl⟩

/-- A read of any other register answers it and clears its RC fields (R6). -/
theorem rcRead_unlatched {s : State} {ag : Agent} {a : Nat} (ha : a < 2 ^ 26) (h : Readable s ag a) (h4 : a % 4 = 0)
    (hlo : ∀ f ∈ pairLo, f.hits a = false) (hlat : tget (fun _ => none) s.lat (latchKey ag (a / 0x1000)) = none) :
    Answers (.rcRead ag a 4) s fun t => t = { clearRc s a with rdata := (regView s a).toNat } :=
  ⟨_, exec_rcRead ha ag 4 s, readTo_unlatched h h4 hlo hlat⟩

/-- The agent's next read of the page takes its latch: the latched value at the latch's address, the register elsewhere;
the latches of other agents and pages stand (R431). -/
theorem rcRead_latched {s : State} {ag : Agent} {a k v : Nat} (ha : a < 2 ^ 26) (h : Readable s ag a) (h4 : a % 4 = 0)
    (hlat : tget (fun _ => none) s.lat (latchKey ag (a / 0x1000)) = some (k, v)) (hlo : ∀ f ∈ pairLo, f.hits a = false) :
    Answers (.rcRead ag a 4) s fun t => t.rdata = (if k = a then v else (regView s a).toNat) ∧
      tget (fun _ => none) t.lat (latchKey ag (a / 0x1000)) = none ∧
      (∀ j, j ≠ latchKey ag (a / 0x1000) → tget (fun _ => none) t.lat j = tget (fun _ => none) s.lat j) := by
  refine ⟨_, exec_rcRead ha ag 4 s, ?_⟩
  rw [readTo_latched h h4 hlat hlo]
  exact ⟨rfl, by rw [answered_lat, tget_setLatch_same],
    fun j hj => by rw [answered_lat, tget_setLatch_ne _ _ _ _ hj, clearRc_lat]⟩

/-- A read of 8 bytes answers both halves as they stand, and leaves the agent no latch on the page (R431). -/
theorem rcRead_eight {s : State} {ag : Agent} {a : Nat} (ha : a < 2 ^ 26) (h : Readable s ag a) (h8 : a % 8 = 0)
    (hag : ag ≠ .board) : Answers (.rcRead ag a 8) s fun t =>
      t.rdata = (regView s a).toNat + 2 ^ 32 * (regView s (a + 4)).toNat ∧
      tget (fun _ => none) t.lat (latchKey ag (a / 0x1000)) = none := by
  refine ⟨_, exec_rcRead ha ag 8 s, ?_⟩
  rw [readTo_eight h h8 hag]
  exact ⟨rfl, by rw [answered_lat, tget_setLatch_same]⟩

/-! ### Writes (R6, R7, R435) -/

theorem exec_registerWrite {a : Nat} (ha : a < 2 ^ 26) (ag : Agent) (n v : Nat) (s : State) :
    exec (.registerWrite ag a n v) s = .next (regWrite ag a n v fxOf s) := by
  have harm : exec (.registerWrite ag a n v) s = execRegisterWrite ag a n v s := rfl
  rw [harm, execRegisterWrite, onUnit, inWindow, if_pos (decide_eq_true ha)]

/-- A write that a page serves is stored, then the register acts. -/
theorem exec_registerWrite_open {s : State} {ag : Agent} {a : Nat} (ha : a < 2 ^ 26) (h4 : a % 4 = 0)
    (hb : a % 0x1000 < 0xF00) (h : Open s ag a) (v : Nat) :
    exec (.registerWrite ag a 4 v) s = .next (fxOf s a (v % 2 ^ 32) (stored ag a (v % 2 ^ 32) s)) := by
  rw [exec_registerWrite ha, regWrite_open h h4, writeWord_fx hb]

/-- A write that a lock shuts out is refused, and does nothing else (R435). -/
theorem regWrite_lockedOut {s : State} {ag : Agent} {a : Nat} (h4 : a % 4 = 0) (hb : a % 0x1000 < 0xF00)
    (hreach : reach s ag (a / 0x1000) = .open_) (hpage : pageExists (a / 0x1000) = true)
    (hlock : lockedOut s ag a = true) (v : Nat) (fx : WriteFx) : regWrite ag a 4 v fx s = refused s (a / 0x1000) := by
  simp [regWrite, hreach, hpage, h4, hlock, hb]

theorem rd_refused_lockWr (s : State) (pg : Nat) : rd (refused s pg) Reg.HDR_ERR_SUM_LOCK_WR pg = 1 := by
  have hstatus : Reg.HDR_ERR_SUM_LOCK_WR.addr pg ≠ Reg.HDR_STATUS_ERROR.addr pg := by
    simp [Fld.addr, Reg.HDR_ERR_SUM_LOCK_WR, Reg.HDR_STATUS_ERROR]
  have hcount : Reg.HDR_ERR_SUM_LOCK_WR.addr pg ≠ Reg.HDR_LOCK_REFUSED.addr pg := by
    simp [Fld.addr, Reg.HDR_ERR_SUM_LOCK_WR, Reg.HDR_LOCK_REFUSED]
  rw [refused, rd_bump_apart _ _ _ _ _ _ (.inl hcount), pageErr, rd_wr_ne _ _ _ _ _ _ hstatus,
    rd_wr_same _ _ _ _ (fits_of_le (by decide))]
  rfl

theorem registerWrite_lockedOut {s : State} {ag : Agent} {a : Nat} (ha : a < 2 ^ 26) (h4 : a % 4 = 0)
    (hb : a % 0x1000 < 0xF00) (hreach : reach s ag (a / 0x1000) = .open_) (hpage : pageExists (a / 0x1000) = true)
    (hlock : lockedOut s ag a = true) (v : Nat) : Answers (.registerWrite ag a 4 v) s fun t =>
      t = refused s (a / 0x1000) ∧ rd t Reg.HDR_ERR_SUM_LOCK_WR (a / 0x1000) = 1 := by
  refine ⟨_, exec_registerWrite ha ag 4 v s, ?_⟩
  rw [regWrite_lockedOut h4 hb hreach hpage hlock]
  exact ⟨rfl, rd_refused_lockWr s _⟩

/-! ### Indices without a page (R428) -/

/-- An agent that reaches the device outside the power-fail halt is served where no page stands. -/
theorem reach_unmapped {s : State} {ag : Agent} {pg : Nat} (hreaches : cutOff s ag = false)
    (hhalt : rd s Reg.PWR_STAT_PFHALT 0 = 0) (hpage : pageExists pg = false) : reach s ag pg = .open_ := by
  simp only [cutOff, Bool.or_eq_false_iff] at hreaches
  obtain ⟨hoff, hlink⟩ := hreaches
  have hup : ¬(ag = .host ∧ rd s Reg.FUS_LINK_STAT_UP 0 = 0) := by
    rintro ⟨rfl, hdown⟩
    simp [hdown] at hlink
  simp [reach, hoff, hhalt, hup, hpage]

theorem regRead_unmapped {s : State} {ag : Agent} {a : Nat} (hreach : reach s ag (a / 0x1000) = .open_)
    (hhalt : rd s Reg.PWR_STAT_PFHALT 0 = 0) (hpage : pageExists (a / 0x1000) = false) (n : Nat) :
    regRead s ag a n = (0, bump s Reg.CEN_UNMAPPED 0 1) := by
  simp [regRead, hreach, hhalt, hpage]

theorem regWrite_unmapped {s : State} {ag : Agent} {a : Nat} (hreach : reach s ag (a / 0x1000) = .open_)
    (hpage : pageExists (a / 0x1000) = false) (n v : Nat) (fx : WriteFx) :
    regWrite ag a n v fx s = bump s Reg.CEN_UNMAPPED 0 1 := by
  simp [regWrite, hreach, hpage]

theorem exec_unmappedAccess {a : Nat} (ha : a < 2 ^ 26) (hpage : pageExists (a / 0x1000) = false) (ag : Agent)
    (isWr : Bool) (s : State) :
    exec (.unmappedAccess ag a isWr) s = .next (if isWr then regWrite ag a 4 0 noFx s else readTo s ag a 4) := by
  have harm : exec (.unmappedAccess ag a isWr) s = execUnmappedAccess ag a isWr s := rfl
  have hunit : (inWindow a && !pageExists (a / 0x1000)) = true := by
    rw [inWindow, decide_eq_true ha, hpage]
    rfl
  rw [harm, execUnmappedAccess, onUnit, if_pos hunit]

theorem rd_bump_unmapped (s : State) : rd (bump s Reg.CEN_UNMAPPED 0 1) Reg.CEN_UNMAPPED 0 =
    min (rd s Reg.CEN_UNMAPPED 0 + 1) (2 ^ 32 - 1) := rd_bump_same s _ 0 1 (fits_of_le (by decide))

theorem bump_regsWithin (s : State) (f : Fld) (i n : Nat) : RegsWithin [f.addr i] s (bump s f i n) :=
  (RegsWithin.refl _ s).ww (List.mem_singleton_self _) _

/-- A read where no page stands answers zero and is counted. -/
theorem unmappedAccess_reads {s : State} {ag : Agent} {a : Nat} (ha : a < 2 ^ 26)
    (hpage : pageExists (a / 0x1000) = false) (hreaches : cutOff s ag = false) (hhalt : rd s Reg.PWR_STAT_PFHALT 0 = 0) :
    Answers (.unmappedAccess ag a false) s fun t => t.rdata = 0 ∧
      rd t Reg.CEN_UNMAPPED 0 = min (rd s Reg.CEN_UNMAPPED 0 + 1) (2 ^ 32 - 1) ∧
      WordsKept s t [Reg.CEN_UNMAPPED.addr 0] := by
  refine ⟨_, exec_unmappedAccess ha hpage ag false s, ?_⟩
  rw [if_neg Bool.false_ne_true, readTo_of_reaches hreaches,
    regRead_unmapped (reach_unmapped hreaches hhalt hpage) hhalt hpage]
  exact ⟨rfl, rd_bump_unmapped s, (bump_regsWithin s _ 0 1).kept⟩

/-- A write where no page stands is counted, and changes nothing else. -/
theorem unmappedAccess_writes {s : State} {ag : Agent} {a : Nat} (ha : a < 2 ^ 26)
    (hpage : pageExists (a / 0x1000) = false) (hreaches : cutOff s ag = false) (hhalt : rd s Reg.PWR_STAT_PFHALT 0 = 0) :
    Answers (.unmappedAccess ag a true) s fun t => OnlyRegs s t ∧
      rd t Reg.CEN_UNMAPPED 0 = min (rd s Reg.CEN_UNMAPPED 0 + 1) (2 ^ 32 - 1) ∧
      WordsKept s t [Reg.CEN_UNMAPPED.addr 0] := by
  refine ⟨_, exec_unmappedAccess ha hpage ag true s, ?_⟩
  rw [if_pos rfl, regWrite_unmapped (reach_unmapped hreaches hhalt hpage) hpage]
  have hwithin := bump_regsWithin s Reg.CEN_UNMAPPED 0 1
  exact ⟨hwithin.only, rd_bump_unmapped s, hwithin.kept⟩

/-- Settles O57: served writes store and act, locked ones are refused; reads answer the register, clear its RC fields and
latch high halves; an index without a page reads zero and is counted. -/
theorem registerAccess : Obligations.RegisterAccess := by
  unfold Obligations.RegisterAccess
  refine ⟨fun s ag a v ha h4 hb hopen => exec_registerWrite_open ha h4 hb hopen v,
    fun s ag a v ha h4 hb hreach hpage hlock => registerWrite_lockedOut ha h4 hb hreach hpage hlock v,
    fun s ag a ha h4 hreaches hserved hpage => ?_,
    fun s ag a ha hpage hreaches hhalt _ =>
      ⟨unmappedAccess_reads ha hpage hreaches hhalt, unmappedAccess_writes ha hpage hreaches hhalt⟩⟩
  have hread : Readable s ag a := ⟨hreaches, hserved, hpage⟩
  exact ⟨rcRead_unlatched ha hread h4, loRead_latches hread h4, fun _ _ => rcRead_latched ha hread h4,
    rcRead_eight ha hread, fun _ hf hrc => getF_clearRc hf hrc s, fun _ => rw_clearRc_ne s⟩

end Sys2Proof.Machine

/-! Every command and every step: who answers, and what a step keeps. -/

namespace Sys2Proof.Machine

/-- A command keeps the queue behind it and the canonical form of the memories. -/
theorem exec_kept {q : List Instr} (c : Instr) {s : State} (hK : Kept q s) : KeptOut q (exec c s) :=
  match c with
  | .stakeNop stk => execStakeNop_kept stk s hK
  | .mtile stk => execMtile_kept stk s hK
  | .vset stk => execVset_kept stk s hK
  | .vrun stk => execVrun_kept stk s hK
  | .vconst stk => execVconst_kept stk s hK
  | .octl stk => execOctl_kept stk s hK
  | .stakeLoop stk => execStakeLoop_kept stk s hK
  | .waith stk => execWaith_kept stk s hK
  | .relh stk => execRelh_kept stk s hK
  | .stakeSync stk => execStakeSync_kept stk s hK
  | .stakeEnd stk => execStakeEnd_kept stk s hK
  | .tileDrain stk upset parity => execTileDrain_kept stk upset parity s hK
  | .tileVerdict stk => execTileVerdict_kept stk s hK
  | .recomputeDone stk upset => execRecomputeDone_kept stk upset s hK
  | .tallyNop b e => execTallyNop_kept b e s hK
  | .seti b e => execSeti_kept b e s hK
  | .setv b e => execSetv_kept b e s hK
  | .addi b e => execAddi_kept b e s hK
  | .madd b e => execMadd_kept b e s hK
  | .ldx b e => execLdx_kept b e s hK
  | .tallyLoop b e => execTallyLoop_kept b e s hK
  | .acq b e => execAcq_kept b e s hK
  | .rel b e => execRel_kept b e s hK
  | .rd b e bad => execRd_kept b e bad s hK
  | .wr b e => execWr_kept b e s hK
  | .fetch b e => execFetch_kept b e s hK
  | .store b e => execStore_kept b e s hK
  | .hpush b e => execHpush_kept b e s hK
  | .htake b e => execHtake_kept b e s hK
  | .hret b e => execHret_kept b e s hK
  | .tallySync b e => execTallySync_kept b e s hK
  | .tallyEnd b e => execTallyEnd_kept b e s hK
  | .requestIssue b => execRequestIssue_kept b s hK
  | .mergeWaitExpiry b q => execMergeWaitExpiry_kept b q s hK
  | .arrivalLand b q => execArrivalLand_kept b q s hK
  | .storeAck b q => execStoreAck_kept b q s hK
  | .verdictSignal b stk => execVerdictSignal_kept b stk s hK
  | .replayRequest b e stk => execReplayRequest_kept b e stk s hK
  | .handleReturn b => execHandleReturn_kept b s hK
  | .bushelDone b => execBushelDone_kept b s hK
  | .linkBeat isl pos out slot flips => execLinkBeat_kept isl pos out slot flips s hK
  | .crossingDeliver isl pos dir => execCrossingDeliver_kept isl pos dir s hK
  | .fullChange isl pos dir => execFullChange_kept isl pos dir s hK
  | .holdReceive isl dir => execHoldReceive_kept isl dir s hK
  | .roundEnd isl => execRoundEnd_kept isl s hK
  | .skipEnd isl => execSkipEnd_kept isl s hK
  | .deadlockLimit isl pos => execDeadlockLimit_kept isl pos s hK
  | .lastRound isl => execLastRound_kept isl s hK
  | .islandDone isl tail ns => execIslandDone_kept isl tail ns s hK
  | .load r ix => execLoad_kept r ix s hK
  | .loadComplete bd => execLoadComplete_kept bd s hK
  | .invoke r ix => execInvoke_kept r ix s hK
  | .islandRelease bd ns => execIslandRelease_kept bd ns s hK
  | .replace r ix => execReplace_kept r ix s hK
  | .drainSwitch bd => execDrainSwitch_kept bd s hK
  | .carryOldUnload bd => execCarryOldUnload_kept bd s hK
  | .relocate r ix => execRelocate_kept r ix s hK
  | .unload r ix => execUnload_kept r ix s hK
  | .bindingDrained bd => execBindingDrained_kept bd s hK
  | .yieldFull r ix => execYieldFull_kept r ix s hK
  | .yieldBoundary r ix => execYieldBoundary_kept r ix s hK
  | .yieldQuiesced bd => execYieldQuiesced_kept bd s hK
  | .yieldSaveDone bd => execYieldSaveDone_kept bd s hK
  | .resumeFull r ix => execResumeFull_kept r ix s hK
  | .resumeBoundary r ix => execResumeBoundary_kept r ix s hK
  | .resumeProceed r ix => execResumeProceed_kept r ix s hK
  | .restoreDone r ix detErr => execRestoreDone_kept r ix detErr s hK
  | .abandon r ix => execAbandon_kept r ix s hK
  | .modelSet r ix => execModelSet_kept r ix s hK
  | .modelStage r ix => execModelStage_kept r ix s hK
  | .modelSwap r ix => execModelSwap_kept r ix s hK
  | .move r ix => execMove_kept r ix s hK
  | .map r ix => execMap_kept r ix s hK
  | .unmap r ix => execUnmap_kept r ix s hK
  | .protect r ix => execProtect_kept r ix s hK
  | .pin r ix => execPin_kept r ix s hK
  | .unpin r ix => execUnpin_kept r ix s hK
  | .hint r ix => execHint_kept r ix s hK
  | .migrate r ix => execMigrate_kept r ix s hK
  | .shadow r ix => execShadow_kept r ix s hK
  | .poison r ix => execPoison_kept r ix s hK
  | .unpoison r ix => execUnpoison_kept r ix s hK
  | .admitSlot r ix => execAdmit_kept r ix s hK
  | .unadmit r ix => execUnadmit_kept r ix s hK
  | .porterTile job det => execPorterTile_kept job det s hK
  | .arrivalTile r ix tile => execArrivalTile_kept r ix tile s hK
  | .migrationSwitch m detErr => execMigrationSwitch_kept m detErr s hK
  | .zeroFill p page => execZeroFill_kept p page s hK
  | .detectionRepair p page place copyOk => execDetectionRepair_kept p page place copyOk s hK
  | .faultLogWrite p => execFaultLogWrite_kept p s hK
  | .faultRetranslate k => execFaultRetranslate_kept k s hK
  | .faultYieldWait bd => execFaultYieldWait_kept bd s hK
  | .resolveWrite ag p seq => execResolveWrite_kept ag p seq s hK
  | .failseqWrite ag p seq => execFailseqWrite_kept ag p seq s hK
  | .retryAll ag p => execRetryAll_kept ag p s hK
  | .failAll ag p => execFailAll_kept ag p s hK
  | .flogRdWrite ag p v => execFlogRdWrite_kept ag p v s hK
  | .flogBaseWrite ag p hi v => execFlogBaseWrite_kept ag p hi v s hK
  | .nop r ix => execNop_kept r ix s hK
  | .semSet r ix => execSemSet_kept r ix s hK
  | .doorbell ag r v => execDoorbell_kept ag r v s hK
  | .commandFetch r => execCommandFetch_kept r s hK
  | .commandDispatch r => execCommandDispatch_kept r s hK
  | .commandRetire r ix => execCommandRetire_kept r ix s hK
  | .completionWrite r => execCompletionWrite_kept r s hK
  | .coalTimeout r => execCoalTimeout_kept r s hK
  | .ringEnWrite ag r v => execRingEnWrite_kept ag r v s hK
  | .ringByld ag r => execRingByld_kept ag r s hK
  | .ringBres ag r => execRingBres_kept ag r s hK
  | .ringReset ag r => execRingReset_kept ag r s hK
  | .semValWrite ag v => execSemValWrite_kept ag v s hK
  | .ledClr ag v => execLedClr_kept ag v s hK
  | .regulatorWrite ag p k v => execRegulatorWrite_kept ag p k v s hK
  | .slotSet r ix => execSlotSet_kept r ix s hK
  | .slotClose r ix => execSlotClose_kept r ix s hK
  | .pick r ix => execPick_kept r ix s hK
  | .verify r ix => execVerify_kept r ix s hK
  | .countAdd r ix => execCountAdd_kept r ix s hK
  | .idxSetup r ix => execIdxSetup_kept r ix s hK
  | .lookup r ix => execLookup_kept r ix s hK
  | .insert r ix => execInsert_kept r ix s hK
  | .publish r ix => execPublish_kept r ix s hK
  | .release r ix => execRelease_kept r ix s hK
  | .pause r ix => execPause_kept r ix s hK
  | .evict r ix => execEvict_kept r ix s hK
  | .recomputeSpan r ix => execRecomputeSpan_kept r ix s hK
  | .repair r ix => execRepair_kept r ix s hK
  | .walkerMigrationDone p node => execWalkerMigrationDone_kept p node s hK
  | .reclRdWrite ag p v => execReclRdWrite_kept ag p v s hK
  | .build r ix => execBuild_kept r ix s hK
  | .groupSet r ix => execGroupSet_kept r ix s hK
  | .groupClear r ix => execGroupClear_kept r ix s hK
  | .allreduce r ix => execAllreduce_kept r ix s hK
  | .allgather r ix => execAllgather_kept r ix s hK
  | .reducescatter r ix => execReducescatter_kept r ix s hK
  | .alltoall r ix => execAlltoall_kept r ix s hK
  | .barrier r ix => execBarrier_kept r ix s hK
  | .rowstat r ix => execRowstat_kept r ix s hK
  | .cready n h grp seq tag nmem rcap => execCready_kept n h grp seq tag nmem rcap s hK
  | .cdata n h data => execCdata_kept n h data s hK
  | .ccredit n h => execCcredit_kept n h s hK
  | .cabort n h grp seq => execCabort_kept n h grp seq s hK
  | .collectiveTimeout g => execCollectiveTimeout_kept g s hK
  | .flitWr n h req data det => execFlitWr_kept n h req data det s hK
  | .wrack n h req outcome => execWrack_kept n h req outcome s hK
  | .rdreq n h req det => execRdreq_kept n h req det s hK
  | .rddata n h req outcome data => execRddata_kept n h req outcome data s hK
  | .reg n h req isWr size v => execReg_kept n h req isWr size v s hK
  | .regrsp n h req v => execRegrsp_kept n h req v s hK
  | .intr n h page => execIntr_kept n h page s hK
  | .mgmtNak n h named => execMgmtNak_kept n h named s hK
  | .mgmtAck n h named => execMgmtAck_kept n h named s hK
  | .ackTimer n => execAckTimer_kept n s hK
  | .portTrained n peer => execPortTrained_kept n peer s hK
  | .portTrainFail n => execPortTrainFail_kept n s hK
  | .portDown n => execPortDown_kept n s hK
  | .linkCtrlEn ag n v => execLinkCtrlEn_kept ag n v s hK
  | .skeinRetrain ag n => execSkeinRetrain_kept ag n s hK
  | .domEnClear ag v => execDomEnClear_kept ag v s hK
  | .hostApertureAccess off size isWr cached v => execHostApertureAccess_kept off size isWr cached v s hK
  | .lineRecall line => execRecall_kept line s hK
  | .recallDone line => execRecallDone_kept line s hK
  | .recallTimeout line => execRecallTimeout_kept line s hK
  | .fustraUp gen2 x8 => execFustraUp_kept gen2 x8 s hK
  | .fusRetrain ag => execFusRetrain_kept ag s hK
  | .ivecMaskWrite ag k v => execIvecMaskWrite_kept ag k v s hK
  | .intSet ag page v => execIntSet_kept ag page v s hK
  | .rescan ag n dev => execRescan_kept ag n dev s hK
  | .capOffline n fatal => execCapOffline_kept n fatal s hK
  | .capRetrain n serial => execCapRetrain_kept n serial s hK
  | .qpDb ag n v => execQpDb_kept ag n v s hK
  | .qpSelWrite ag n v => execQpSelWrite_kept ag n v s hK
  | .ethWrite n qp w => execEthWrite_kept n qp w s hK
  | .ethRead n qp w data => execEthRead_kept n qp w data s hK
  | .ethSend n qp w => execEthSend_kept n qp w s hK
  | .ethLinkChange n up => execEthLinkChange_kept n up s hK
  | .tempSample k raw => execTempSample_kept k raw s hK
  | .droopDetect d m mv edges => execDroopDetect_kept d m mv edges s hK
  | .pmonRead codes => execPmonRead_kept codes s hK
  | .powerEstimate w avg => execPowerEstimate_kept w avg s hK
  | .capEvaluation est duty => execCapEvaluation_kept est duty s hK
  | .pointRaise est => execPointRaise_kept est s hK
  | .limitWrite ag v => execLimitWrite_kept ag v s hK
  | .thermalTargetFall p => execThermalTargetFall_kept p s hK
  | .thermalTargetRise p => execThermalTargetRise_kept p s hK
  | .slopeEval v => execSlopeEval_kept v s hK
  | .deepBrakeCheck v => execDeepBrakeCheck_kept v s hK
  | .srel ag => execSrel_kept ag s hK
  | .hb ag v => execHb_kept ag v s hK
  | .vrcStatPoll j stat late => execVrcStatPoll_kept j stat late s hK
  | .vrcAlert stats => execVrcAlert_kept stats s hK
  | .stepPrepared bd ns => execStepPrepared_kept bd ns s hK
  | .clockSwitch bd gap => execClockSwitch_kept bd gap s hK
  | .stepResume bd => execStepResume_kept bd s hK
  | .powerOnReset straps recoveryN railsOk => execPowerOnReset_kept straps recoveryN railsOk s hK
  | .softReset ag key => execSoftReset_kept ag key s hK
  | .bootStepDone us rep => execBootStepDone_kept us rep s hK
  | .attachGo b0 b1 b2 => execAttachGo_kept b0 b1 b2 s hK
  | .modeReq ag v => execModeReq_kept ag v s hK
  | .islTestGo ag v => execIslTestGo_kept ag v s hK
  | .islTestDone isl pass => execIslTestDone_kept isl pass s hK
  | .rcvInfo i3c seq => execRcvInfo_kept i3c seq s hK
  | .rcvBegin i3c seq kind size => execRcvBegin_kept i3c seq kind size s hK
  | .rcvData i3c seq off data => execRcvData_kept i3c seq off data s hK
  | .rcvEnd i3c seq flashOk => execRcvEnd_kept i3c seq flashOk s hK
  | .rcvBoot i3c seq => execRcvBoot_kept i3c seq s hK
  | .setEndpointId eid => execSetEndpointId_kept eid s hK
  | .getCapabilities ver => execGetCapabilities_kept ver s hK
  | .getCertificate slot off len => execGetCertificate_kept slot off len s hK
  | .challenge nonce => execChallenge_kept nonce s hK
  | .getMeasurements sel signed nonce => execGetMeasurements_kept sel signed nonce s hK
  | .apply ag pkg flashOk => execApply_kept ag pkg flashOk s hK
  | .confirm ag svnCommit => execConfirm_kept ag svnCommit s hK
  | .revert ag => execRevert_kept ag s hK
  | .abort ag => execAbort_kept ag s hK
  | .keylist ag blob => execKeylist_kept ag blob s hK
  | .owner ag blob => execOwner_kept ag blob s hK
  | .debug ag blob => execDebug_kept ag blob s hK
  | .fwuOpDone us => execFwuOpDone_kept us s hK
  | .settingsSet id fmt val flashOk => execSettingsSet_kept id fmt val flashOk s hK
  | .settingsMirror id => execSettingsMirror_kept id s hK
  | .rimWatchdog rpc => execRimWatchdog_kept rpc s hK
  | .censusCopyDone written => execCensusCopyDone_kept written s hK
  | .holdWrite ag v => execHoldWrite_kept ag v s hK
  | .holdAck k => execHoldAck_kept k s hK
  | .lockAcq ag page => execLockAcq_kept ag page s hK
  | .lockRel ag page => execLockRel_kept ag page s hK
  | .lockSeal ag page => execLockSeal_kept ag page s hK
  | .pmaskWrite ag p v => execPmaskWrite_kept ag p v s hK
  | .hsetWrite ag p v => execHsetWrite_kept ag p v s hK
  | .lclr ag => execLclr_kept ag s hK
  | .rclr ag => execRclr_kept ag s hK
  | .stkFclr ag isl => execStkFclr_kept ag isl s hK
  | .bshFclr ag isl => execBshFclr_kept ag isl s hK
  | .fabFclr ag isl => execFabFclr_kept ag isl s hK
  | .rcRead ag addr size => execRcRead_kept ag addr size s hK
  | .loRead ag addr => execLoRead_kept ag addr s hK
  | .unmappedAccess ag addr isWr => execUnmappedAccess_kept ag addr isWr s hK
  | .registerWrite ag addr size v => execRegisterWrite_kept ag addr size v s hK
  | .droopRecovery d => execDroopRecovery_kept d s hK
  | .domainApertureAccess off size isWr v => execDomainApertureAccess_kept off size isWr v s hK
  | .i3cDynamicAddressAssign addr => execI3cDynamicAddressAssign_kept addr s hK
  | .testPortInstruction ins => execTestPortInstruction_kept ins s hK
  | .powerLoss keep => execPowerLoss_kept keep s hK
  | .pfcPauseFrameReceive n pri => execPfcPauseFrameReceive_kept n pri s hK
  | .heatScan => execHeatScan_kept s hK
  | .expirySweep => execExpirySweep_kept s hK
  | .fustraDown => execFustraDown_kept s hK
  | .h2rGo => execH2rGo_kept s hK
  | .brakeAssert => execBrakeAssert_kept s hK
  | .brakeRelease => execBrakeRelease_kept s hK
  | .dutyStep => execDutyStep_kept s hK
  | .hbTimeout => execHbTimeout_kept s hK
  | .safeCapEngage => execSafeCapEngage_kept s hK
  | .powerFail => execPowerFail_kept s hK
  | .pfailGraceEnd => execPfailGraceEnd_kept s hK
  | .crecAck => execCrecAck_kept s hK
  | .vrcAlertRelease => execVrcAlertRelease_kept s hK
  | .refclkLost => execRefclkLost_kept s hK
  | .aoClockSwitch => execAoClockSwitch_kept s hK
  | .warmReset => execWarmReset_kept s hK
  | .getEndpointId => execGetEndpointId_kept s hK
  | .getMctpVersionSupport => execGetMctpVersionSupport_kept s hK
  | .getMessageTypeSupport => execGetMessageTypeSupport_kept s hK
  | .getVersion => execGetVersion_kept s hK
  | .negotiateAlgorithms => execNegotiateAlgorithms_kept s hK
  | .getDigests => execGetDigests_kept s hK
  | .unsupportedRequest => execUnsupportedRequest_kept s hK
  | .rimBeat => execRimBeat_kept s hK
  | .copyGo => execCopyGo_kept s hK
  | .refclkRestored => execRefclkRestored_kept s hK
  | .rimRestartComplete => execRimRestartComplete_kept s hK
  | .railMonitorRelease => execRailMonitorRelease_kept s hK

theorem onUnit_named {ok : Bool} (h : ok = true) (t : State) : onUnit ok (.next t) = .next t := if_pos h

/-- A command that splits on a condition of the state answers where both of its sides do. -/
theorem next_of_ite {p : Prop} [Decidable p] {x y : Out} (hx : ∃ t, x = .next t) (hy : ∃ t, y = .next t) :
    ∃ t, (if p then x else y) = .next t := by
  split
  · exact hx
  · exact hy

/-- A command whose operands name units the device has answers a next state. -/
theorem exec_answers (s : State) (c : Instr) (h : c.wellFormed = true) : ∃ t, exec c s = .next t := by
  cases c
  case waith k => exact next_of_ite ⟨_, onUnit_named h _⟩ ⟨_, onUnit_named h _⟩
  case htake b e => exact next_of_ite ⟨_, onUnit_named h _⟩ ⟨_, onUnit_named h _⟩
  case yieldFull r i => exact next_of_ite ⟨_, onUnit_named h _⟩ ⟨_, onUnit_named h _⟩
  case yieldBoundary r i => exact next_of_ite ⟨_, onUnit_named h _⟩ ⟨_, onUnit_named h _⟩
  case resumeFull r i => exact next_of_ite ⟨_, onUnit_named h _⟩ ⟨_, onUnit_named h _⟩
  case resumeBoundary r i => exact next_of_ite ⟨_, onUnit_named h _⟩ ⟨_, onUnit_named h _⟩
  case porterTile job det =>
    cases job
    · exact ⟨_, onUnit_named h _⟩
    · exact ⟨_, onUnit_named h _⟩
    · exact ⟨_, rfl⟩
  case detectionRepair p g place copyOk =>
    have hunit : (decide (p < 8) && decide (g < 2 ^ 36)) = true := Bool.and_elim_left h
    exact ⟨_, onUnit_named hunit _⟩
  all_goals exact ⟨_, onUnit_named h _⟩

/-- Settles O3: each command keeps the queue behind it and the canonical form, and answers where its operands are in
range; on an empty queue time alone passes. -/
theorem stepKeepsInv : Obligations.StepKeepsInv := by
  unfold Obligations.StepKeepsInv
  intro s hInv
  obtain ⟨hqueued, hcanon⟩ := hInv
  cases hq : s.pending with
  | nil =>
    have hkept := tick_kept s ⟨hq, hcanon⟩
    refine ⟨tick s, by rw [step, hq], ⟨fun c hc => ?_, hkept.canon⟩, hkept.queue⟩
    rw [hkept.queue] at hc
    cases hc
  | cons c rest =>
    have hwf : ∀ d ∈ c :: rest, d.wellFormed = true := fun d hd => hqueued d (hq ▸ hd)
    obtain ⟨t, ht⟩ := exec_answers { s with pending := rest } c (hwf c List.mem_cons_self)
    have hrest : Kept rest { s with pending := rest } := ⟨rfl, hcanon.regs, hcanon.fab, hcanon.mem⟩
    have hkept : KeptOut rest (exec c { s with pending := rest }) := exec_kept c hrest
    rw [ht] at hkept
    refine ⟨t, by rw [step, hq]; exact ht, ⟨fun d hd => ?_, hkept.canon⟩, hkept.queue⟩
    rw [hkept.queue] at hd
    exact hwf d (List.mem_cons_of_mem c hd)

/-- DETECTION_REPAIR of an error's place beyond the five it knows repairs the heat entry, and does not stop. -/
theorem exec_detectionRepair_beyond (s : State) : ∃ t, exec (.detectionRepair 0 0 5 true) s = .next t := ⟨_, rfl⟩

/-- Refutes O2: DETECTION_REPAIR with a place above 4 is ill-formed, yet it answers a next state. -/
theorem not_answersExactly : ¬ Obligations.AnswersExactly := by
  unfold Obligations.AnswersExactly
  rintro ⟨-, hstops⟩
  obtain ⟨t, ht⟩ := exec_detectionRepair_beyond State.reset
  have hfault := hstops State.reset (.detectionRepair 0 0 5 true) rfl
  rw [ht] at hfault
  cases hfault

/-- Settles O1: by the definition of a step. -/
theorem stepRunsFront : Obligations.StepRunsFront := fun _ _ _ => rfl

/-- After reset `PWR.CAP_CTRL` holds the grade's cap, 2,500 W (R389), which no field of its table gives. -/
theorem rw_reset_cap : rw State.reset 0x8100 = 2500 ∧ resetWord 0x8100 = 0 := by decide +kernel

/-- Refutes O4: at reset `PWR.CAP_CTRL` holds the cap of the grade, where its reset fields give 0. -/
theorem not_resetState : ¬ Obligations.ResetState := by
  unfold Obligations.ResetState
  rintro ⟨-, hwords, -⟩
  have hcap := hwords 0x8100
  rw [rw_reset_cap.1, rw_reset_cap.2] at hcap
  exact absurd hcap (by decide)

end Sys2Proof.Machine

/-! Stake words on the program, the pipeline's settings and the bypass (R55, R68, R80 to R85). -/

namespace Sys2Proof.Machine

/-! ### Frames of a stake's step -/

theorem StakeFrame.trans {s t u : State} {k : Nat} (h : StakeFrame s t k) (g : StakeFrame t u k) : StakeFrame s u k where
  rest := by rw [g.rest, h.rest]
  fab := by rw [g.fab, h.fab]
  others j hj := (g.others j hj).trans (h.others j hj)
  islands j := (g.islands j).trans (h.islands j)
  words a ha := (g.words a ha).trans (h.words a ha)

theorem stakeFrame_setStk (s : State) (k : Nat) (x : Stake) : StakeFrame s (setStk s k x) k where
  rest := rfl
  fab := rfl
  others _ hj := stk_setStk_ne s x hj
  islands _ := rfl
  words _ _ := rfl

/-- The step of a stake's word: the stake takes its new value, and its holds go out. -/
theorem stake_put (s : State) (k : Nat) (x : Stake) :
    stk (noteHold (setStk s k x) (k / 32)) k = x ∧ StakeFrame s (noteHold (setStk s k x) (k / 32)) k :=
  ⟨by rw [stk_noteHold, stk_setStk], stakeFrame_put s k x⟩

theorem stkNext_put (s : State) (k : Nat) :
    stk (stkNext s k) k = stakePast (stk s k) (stk s k) ∧ StakeFrame s (stkNext s k) k :=
  stake_put s k _

/-- The stake takes a value, and its program moves past the word. -/
theorem stkNext_setStk (s : State) (k : Nat) (x : Stake) :
    stk (stkNext (setStk s k x) k) k = stakePast x x ∧ StakeFrame s (stkNext (setStk s k x) k) k := by
  obtain ⟨hstk, hframe⟩ := stkNext_put (setStk s k x) k
  rw [stk_setStk] at hstk
  exact ⟨hstk, (stakeFrame_setStk s k x).trans hframe⟩

/-! ### Words on the program and the settings -/

section Settings

variable {s : State} {k : Nat}

theorem exec_vset_ready (h : StakeReady s k 0x03) :
    let x := stk s k
    let n := bits (curWord s k) 55 3
    let g := x.vec.stages.getD n Stage.idle
    exec (.vset k) s = .next (if !vecSettled x then s else stkNext (setStk s k { x with vec := { x.vec with
      stages := setAt x.vec.stages n { g with set := stkWord s k x.pc } } }) k) := by
  show execVset k s = _
  rw [execVset, onStake_ready h]
  rfl

theorem exec_vconst_ready (h : StakeReady s k 0x05) :
    let x := stk s k
    let w := curWord s k
    let n := bits w 55 3
    let g := x.vec.stages.getD n Stage.idle
    exec (.vconst k) s = .next (if !vecSettled x then s else stkNext (setStk s k { x with vec := { x.vec with
      stages := setAt x.vec.stages n { g with consts := setAt g.consts (bits w 52 3) (bits w 0 32) } } }) k) := by
  show execVconst k s = _
  rw [execVconst, onStake_ready h]

theorem exec_octl_ready (h : StakeReady s k 0x06) :
    let x := stk s k
    exec (.octl k) s = .next (if !vecSettled x then s else stkNext (setStk s k
      { x with vec := { x.vec with octl := stkWord s k x.pc } }) k) := by
  show execOctl k s = _
  rw [execOctl, onStake_ready h]

theorem exec_stakeSync_ready (h : StakeReady s k 0x0A) :
    exec (.stakeSync k) s = .next (if syncDone (stk s k) (curWord s k) then stkNext s k else s) := by
  show execStakeSync k s = _
  rw [execStakeSync, onStake_ready h]

theorem exec_stakeNop_ready (h : StakeReady s k 0x00) : exec (.stakeNop k) s = .next (stkNext s k) := by
  show execStakeNop k s = _
  rw [execStakeNop, onStake_ready h]

theorem exec_stakeLoop_ready (h : StakeReady s k 0x07) :
    let x := stk s k
    let n := enterLoop x.pc (bits (curWord s k) 49 9) (bits (curWord s k) 0 24) x.loops
    exec (.stakeLoop k) s = .next (noteHold (setStk s k { x with pc := n.1, loops := n.2, frz := 0 }) (k / 32)) := by
  show execStakeLoop k s = _
  rw [execStakeLoop, onStake_ready h]

theorem exec_stakeEnd_ready (h : StakeReady s k 0x0B) :
    exec (.stakeEnd k) s = .next (noteHold (setStk s k { stk s k with ended := true, frz := 0 }) (k / 32)) := by
  show execStakeEnd k s = _
  rw [execStakeEnd, onStake_ready h]

theorem stakeSync_step (h : StakeReady s k 0x0A) : if syncDone (stk s k) (curWord s k) = true
    then Answers (.stakeSync k) s fun t => stk t k = stakePast (stk s k) (stk s k) ∧ StakeFrame s t k
    else exec (.stakeSync k) s = .next s := by
  split
  · next hdone => exact ⟨_, (exec_stakeSync_ready h).trans (by rw [if_pos hdone]), stkNext_put s k⟩
  · next hdone => exact (exec_stakeSync_ready h).trans (by rw [if_neg hdone])

end Settings

/-- Settles O5: each word puts the stake past itself with its setting; settings and SYNC wait where their units do. -/
theorem stakeControl : Obligations.StakeControl := by
  unfold Obligations.StakeControl
  intro s k
  have settled : vecSettled (stk s k) = true → ¬(!vecSettled (stk s k)) = true := fun hset => by simp [hset]
  exact ⟨fun h => ⟨_, exec_stakeNop_ready h, stkNext_put s k⟩,
    fun h hset => ⟨_, (exec_vset_ready h).trans (by rw [if_neg (settled hset)]), stkNext_setStk s k _⟩,
    fun h hset => ⟨_, (exec_vconst_ready h).trans (by rw [if_neg (settled hset)]), stkNext_setStk s k _⟩,
    fun h hset => ⟨_, (exec_octl_ready h).trans (by rw [if_neg (settled hset)]), stkNext_setStk s k _⟩,
    fun hset => ⟨fun h => (exec_vset_ready h).trans (by rw [hset]; rfl), fun h => (exec_vconst_ready h).trans (by rw [hset]; rfl),
      fun h => (exec_octl_ready h).trans (by rw [hset]; rfl)⟩,
    fun h => ⟨_, exec_stakeLoop_ready h, stake_put s k _⟩,
    stakeSync_step,
    fun h => ⟨_, exec_stakeEnd_ready h, stake_put s k _⟩⟩

end Sys2Proof.Machine

/-! MTILE and VRUN issue to their units (R55, R60, R68, R69, R80, R82, R84). -/

namespace Sys2Proof.Machine

theorem StakeFrame.bsh {s t : State} {k : Nat} (h : StakeFrame s t k) (b : Nat) : bsh t b = bsh s b := by
  unfold Machine.bsh
  rw [h.fab]

theorem StakeFrame.rd {s t : State} {k : Nat} (h : StakeFrame s t k) {f : Fld} {i : Nat} (hf : f.addr i ≠ holdWord (k / 32)) :
    rd t f i = rd s f i := by
  unfold Machine.rd
  rw [h.words _ (by simpa using hf)]

theorem bypInstr_ne_holdWord (n : Nat) : Reg.ISL_BYP_INSTR.addr n ≠ holdWord n := by
  simp only [holdWord, Fld.addr, Reg.ISL_BYP_INSTR, Reg.ISL_FAB_HOLD_OWN]
  omega

/-- The stake takes a value, its island counts a bypass instruction, and its program moves past the word. -/
def bypassTaken (s : State) (k : Nat) (x : Stake) : State :=
  stkNext (bump (setStk s k x) Reg.ISL_BYP_INSTR (k / 32) 1) k

theorem bypassTaken_leaves (s : State) (k : Nat) (x : Stake) : let u := bypassTaken s k x
    stk u k = stakePast x x ∧ (∀ j, j ≠ k → stk u j = stk s j) ∧ (∀ b, bsh u b = bsh s b) ∧
    rd u Reg.ISL_BYP_INSTR (k / 32) = min (rd s Reg.ISL_BYP_INSTR (k / 32) + 1) (2 ^ 32 - 1) ∧
    WordsKept s u [Reg.ISL_BYP_INSTR.addr (k / 32), holdWord (k / 32)] := by
  obtain ⟨hstk, hframe⟩ := stkNext_put (bump (setStk s k x) Reg.ISL_BYP_INSTR (k / 32) 1) k
  rw [stk_bump, stk_setStk] at hstk
  refine ⟨hstk, fun j hj => (hframe.others j hj).trans (stk_setStk_ne s x hj), fun b => hframe.bsh b, ?_, fun a ha => ?_⟩
  · exact (hframe.rd (bypInstr_ne_holdWord _)).trans (rd_bump_same (setStk s k x) _ _ 1 (fits_of_le (by decide)))
  · simp only [List.mem_cons, List.not_mem_nil, or_false, not_or] at ha
    exact (hframe.words a (by simpa using ha.2)).trans (rw_wr_ne _ _ _ _ _ ha.1)

section Issue

variable {s : State} {k : Nat} {parity : Bool}

/-- The panel kept in the B buffer is the one an MTILE asks for (R60). -/
def panelKept (x : Stake) (byp : Bool) (w : Nat) : Bool :=
  match x.bhold with | some (key, _, _) => decide (key = panelKey byp w) | none => false

theorem exec_mtile_ready (h : StakeReady s k 0x01) : let x := stk s k
    let word := stkWord s k x.pc
    let byp := takesBypass x word.toNat
    let kept := panelKept x byp word.toNat
    let bhold := if kept then x.bhold else none
    exec (.mtile ⟨k, parity⟩) s = .next (
      if x.mt.isSome || x.byp.isSome then s
      else if byp then
        if x.vec.run.isSome || x.tile.isSome then s
        else bypGo (pullStk (bypassTaken s k { x with
          byp := some ⟨word, x.pc, bits word.toNat 0 16, if kept then x.bhold.map (·.2) else none, parity⟩
          bhold := bhold }) k) k
      else pullStk (stkNext (setStk s k { x with
        mt := some ⟨word, x.pc, bits word.toNat 0 16, kept⟩, bhold := bhold }) k) k) := by
  show issueTiles k parity s = _
  rw [issueTiles, onStake_ready h]
  rfl

theorem exec_mtile_array (h : StakeReady s k 0x01) : let x := stk s k
    let word := stkWord s k x.pc
    let kept := panelKept x false word.toNat
    x.mt = none → x.byp = none → takesBypass x word.toNat = false →
    exec (.mtile ⟨k, parity⟩) s = .next (pullStk (stkNext (setStk s k
      { x with mt := some ⟨word, x.pc, bits word.toNat 0 16, kept⟩, bhold := if kept then x.bhold else none }) k) k) := by
  intro x word kept hmt hbyp hpath
  simp [exec_mtile_ready h, hmt, hbyp, hpath, x, word, kept]

theorem exec_mtile_bypass (h : StakeReady s k 0x01) : let x := stk s k
    let word := stkWord s k x.pc
    let kept := panelKept x true word.toNat
    x.mt = none → x.byp = none → takesBypass x word.toNat = true → x.vec.run = none → x.tile = none →
    exec (.mtile ⟨k, parity⟩) s = .next (bypGo (pullStk (bypassTaken s k
      { x with byp := some ⟨word, x.pc, bits word.toNat 0 16, if kept then x.bhold.map (·.2) else none, parity⟩
               bhold := if kept then x.bhold else none }) k) k) := by
  intro x word kept hmt hbyp hpath hrun htile
  simp [exec_mtile_ready h, hmt, hbyp, hpath, hrun, htile, x, word, kept]

theorem exec_mtile_waits (h : StakeReady s k 0x01) (hbusy : (stk s k).mt.isSome = true ∨ (stk s k).byp.isSome = true) :
    exec (.mtile ⟨k, parity⟩) s = .next s := by
  rw [exec_mtile_ready h, if_pos (by simpa using hbusy)]

theorem exec_vrun_ready (h : StakeReady s k 0x04) : let x := stk s k
    let r : VRun := ⟨stkWord s k x.pc, 0, List.replicate 32 0, [], []⟩
    exec (.vrun k) s = .next (if !vrunReady x then s else vecGo (pullStk (stkNext (setStk s k { x with
      vec := { x.vec with run := some r }
      ckpt := if r.fromDrain then x.ckpt.map fun c => { c with run := some r } else x.ckpt }) k) k) k) := by
  show execVrun k s = _
  rw [execVrun, onStake_ready h]

end Issue

/-- Settles O6: MTILE gives its tiles or columns to a free unit and moves on, VRUN starts a free vector unit; both wait
for theirs. -/
theorem stakeCompute : Obligations.StakeCompute := by
  unfold Obligations.StakeCompute
  refine ⟨fun s k parity h => ⟨fun hmt hbyp hpath => ?_, fun hmt hbyp hpath hrun htile => ?_, exec_mtile_waits h⟩,
    fun s k h => ?_⟩
  · obtain ⟨hstk, hframe⟩ := stkNext_setStk s k _
    exact ⟨_, exec_mtile_array h hmt hbyp hpath, hframe, hstk⟩
  · exact ⟨_, exec_mtile_bypass h hmt hbyp hpath hrun htile, bypassTaken_leaves s k _⟩
  · intro x r
    split
    · next hready =>
      obtain ⟨hstk, hframe⟩ := stkNext_setStk s k _
      exact ⟨_, by simp [exec_vrun_ready h, hready, x, r], hframe, hstk⟩
    · next hready => simp [exec_vrun_ready h, hready, x]

end Sys2Proof.Machine

/-! TILE_DRAIN (R60 to R63, R66). -/

namespace Sys2Proof.Machine

/-- A command of one unit of a device that runs does what it says. -/
theorem onUnit_live {ok : Bool} {s : State} (hok : ok = true) (hawake : awake s = true) (t : State) :
    onUnit ok (live s t) = .next t := by rw [onUnit, if_pos hok, live, if_pos hawake]

theorem exec_tileDrain_of {s : State} {k : Nat} {m : MtRun} (ups : List Upset) (parity : Bool) (hk : k < 1024)
    (hawake : awake s = true) (hmt : (stk s k).mt = some m) (hrun : mayRun s (k / 32) (.stake k [6]) = true)
    (htile : (stk s k).tile = none) (hrecomp : (stk s k).recomp = false) :
    exec (.tileDrain k ups parity) s = .next (drainTile (pullStk s k) k m ups parity) := by
  show execTileDrain k ups parity s = _
  rw [execTileDrain, onUnit_live (decide_eq_true hk) hawake]
  simp [hmt, hrun, htile, hrecomp]

/-- Settles O7: with both feeds there and room in the drain buffer, the tile goes where its word and its parity say. -/
theorem tileDrain : Obligations.TileDrain := by
  unfold Obligations.TileDrain
  intro s k ups parity m fa fb hk hawake hmt hrun htile hrecomp s1 x w hroom ha hb
  have hdrain : ¬(decide (bits m.word.toNat 23 2 = 0) && !(stk (pullStk s k) k).vec.drain.isEmpty) = true := by
    simpa using hroom
  rw [exec_tileDrain_of ups parity hk hawake hmt hrun htile hrecomp, drainTile, ha, hb]
  simp only [if_neg hdrain, decide_eq_true_eq]
  rfl

end Sys2Proof.Machine

/-! TILE_VERDICT and RECOMPUTE_DONE (R41 to R43, R63 to R66, R98). -/

namespace Sys2Proof.Machine

theorem nodup_eraseDups {α : Type} [BEq α] [LawfulBEq α] (l : List α) : l.eraseDups.Nodup := by
  induction h : l.length using Nat.strongRecOn generalizing l with
  | ind n ih =>
    cases l with
    | nil => exact List.nodup_nil
    | cons a l =>
      rw [List.eraseDups_cons, List.nodup_cons]
      refine ⟨by simp, ih _ ?_ _ rfl⟩
      have := List.length_filter_le (fun b => !b == a) l
      simp only [List.length_cons] at h
      omega

/-! ### Bushels told of a verdict -/

/-- A sweep over bushels, each taking a value of its own, keeps every bushel it does not name. -/
theorem bsh_each_set (p : Nat → Prop) [DecidablePred p] (f : Nat → Bushel → Bushel) (l : List Nat) (hl : l.Nodup)
    (s : State) (b : Nat) :
    bsh (eachOf l s fun s b => if p b then setBsh s b (f b (bsh s b)) else s) b =
      if p b ∧ b ∈ l then f b (bsh s b) else bsh s b := by
  induction l generalizing s with
  | nil => simp [eachOf]
  | cons a l ih =>
    obtain ⟨ha, hl⟩ := List.nodup_cons.1 hl
    rw [eachOf, List.foldl_cons, ← eachOf, ih hl]
    by_cases hab : b = a
    · subst hab
      by_cases hp : p b <;> simp [ha, hp]
    · have hbsh : bsh (if p a then setBsh s a (f a (bsh s a)) else s) b = bsh s b := by
        split
        · exact bsh_setBsh_ne s _ hab
        · rfl
      simp [hbsh, hab]

/-- Only the bushels differ. -/
def OnlyBushels (s t : State) : Prop := t = { s with fab := { s.fab with bsh := t.fab.bsh } }

theorem onlyBushels_each {α : Type} (f : State → α → State) (hf : ∀ s a, OnlyBushels s (f s a)) (l : List α) (s : State) :
    OnlyBushels s (eachOf l s f) := by
  induction l generalizing s with
  | nil => exact Eq.refl s
  | cons a l ih =>
    have h : OnlyBushels (f s a) (eachOf (a :: l) s f) := ih (f s a)
    unfold OnlyBushels at *
    rw [h, hf s a]

theorem signalRuns_onlyBushels (s : State) (k : Nat) (runs : List (Nat × Nat × Nat)) :
    OnlyBushels s (signalRuns s k runs) :=
  onlyBushels_each _ (fun s b => by
    unfold OnlyBushels
    split <;> rfl) _ s

theorem stk_signalRuns (s : State) (k : Nat) (runs : List (Nat × Nat × Nat)) (j : Nat) :
    stk (signalRuns s k runs) j = stk s j := by
  rw [signalRuns_onlyBushels s k runs]
  rfl

theorem rw_signalRuns (s : State) (k : Nat) (runs : List (Nat × Nat × Nat)) (a : Nat) :
    rw (signalRuns s k runs) a = rw s a := by
  rw [signalRuns_onlyBushels s k runs]
  rfl

theorem bsh_signalRuns (s : State) (k : Nat) (runs : List (Nat × Nat × Nat)) (b : Nat) :
    bsh (signalRuns s k runs) b = if b / 32 = k / 32 ∧ b ∈ runs.map (·.1)
      then { bsh s b with sigs := (bsh s b).sigs ++ [(k, runsOf runs b)] } else bsh s b := by
  rw [signalRuns, bsh_each_set (fun b => b / 32 = k / 32) (fun b y => { y with sigs := y.sigs ++ [(k, runsOf runs b)] }) _
    (nodup_eraseDups _)]
  simp only [List.mem_eraseDups]

/-! ### A pass -/

theorem arrTiles_ne_holdWord (n : Nat) : Reg.ISL_ARR_TILES.addr n ≠ holdWord n := by
  simp only [holdWord, Fld.addr, Reg.ISL_ARR_TILES, Reg.ISL_FAB_HOLD_OWN]
  omega

/-- The stake after a pass that no release waits for. -/
def passedStake (x : Stake) : Stake :=
  { x with tile := none, ckpt := none, held := [], recomp := false, outq := pushOut x.outq x.held, relq := [], frz := 0 }

/-- A pass that no release waits for, before its holds go out. -/
def passed (s : State) (k : Nat) (t : DTile) : State :=
  let x := stk s k
  let u := signalRuns (setStk s k { x with tile := none, ckpt := none, held := [], recomp := false,
                                           outq := pushOut x.outq x.held }) k t.runs
  bump (setStk u k (passedStake x)) Reg.ISL_ARR_TILES (k / 32) 1

theorem passTile_eq {s : State} {k : Nat} (t : DTile) (hrel : (stk s k).relq = []) :
    passTile s k t = noteHold (passed s k t) (k / 32) := by
  simp only [passTile, hrel, runRels, stk_signalRuns, stk_setStk, passed, passedStake]

/-- The tile and what it held are gone, its outputs stand at their ports, its verdict is on its way (R63, R98). -/
theorem passTile_leaves (s : State) (k : Nat) (tile : DTile) (hrel : (stk s k).relq = []) :
    let x := stk s k
    let t := passTile s k tile
    stk t k = passedStake x ∧
    rd t Reg.ISL_ARR_TILES (k / 32) = min (rd s Reg.ISL_ARR_TILES (k / 32) + 1) (2 ^ 32 - 1) ∧
    (∀ j, j ≠ k → stk t j = stk s j) ∧
    (∀ b, bsh t b = if b / 32 = k / 32 ∧ b ∈ tile.runs.map (·.1)
      then { bsh s b with sigs := (bsh s b).sigs ++ [(k, runsOf tile.runs b)] } else bsh s b) ∧
    WordsKept s t [Reg.ISL_ARR_TILES.addr (k / 32), holdWord (k / 32)] := by
  simp only [passTile_eq tile hrel]
  refine ⟨?_, ?_, fun j hj => ?_, fun b => ?_, fun a ha => ?_⟩
  · rw [stk_noteHold, passed, stk_bump, stk_setStk]
  · rw [rd, noteHold_words _ _ _ (arrTiles_ne_holdWord _), ← rd, passed, rd_bump_same _ _ _ 1 (fits_of_le (by decide))]
    congr 2
    exact congrArg _ (rw_signalRuns _ _ _ _)
  · rw [stk_noteHold, passed, stk_bump, stk_setStk_ne _ _ hj, stk_signalRuns, stk_setStk_ne _ _ hj]
  · rw [bsh_noteHold, passed, bsh_bump, bsh_setStk, bsh_signalRuns, bsh_setStk]
  · simp only [List.mem_cons, List.not_mem_nil, or_false, not_or] at ha
    rw [noteHold_words _ _ _ ha.2, passed, bump, rw_wr_ne _ _ _ _ _ ha.1]
    exact rw_signalRuns _ _ _ a

/-! ### Verdict and recompute -/

theorem stk_countSkips (s : State) (k : Nat) (js : List Judge) (j : Nat) : stk (countSkips s k js) j = stk s j := by
  simp only [countSkips, count, stk_bump]

section Verdict

variable {s : State} {k : Nat} {parity : Bool} {tile : DTile}

theorem exec_tileVerdict_of (hk : k < 1024) (hawake : awake s = true) (htile : (stk s k).tile = some tile)
    (hrecomp : (stk s k).recomp = false) (hmay : verdictMay s k = true) :
    let x := stk s k
    let js := judgements tile.word tile.ints (x.sets.getD tile.set .zero) x.mode
    exec (.tileVerdict ⟨k, parity⟩) s = .next (
      if tile.bad || parity || (firstFail js 0).isSome then
        mismatch (setStk (countSkips s k js) k { x with tile := some { tile with bad := tile.bad || parity } }) k
      else passTile (countSkips s k js) k tile) := by
  show Machine.tileVerdict k parity s = _
  rw [Machine.tileVerdict, onUnit_live (decide_eq_true hk) hawake]
  simp only [htile, hrecomp, hmay, stk_countSkips, Bool.not_true, Bool.or_self, Bool.false_eq_true, if_false]

theorem exec_recomputeDone_of {ups : List Upset} {fa fb : Feed} (hk : k < 1024) (hawake : awake s = true)
    (htile : (stk s k).tile = some tile) (hrecomp : (stk s k).recomp = true) (hrounds : inRounds s (k / 32) = true) :
    let x := stk s k
    let w := tile.word.toNat
    feedA w (x.rep.getD 0 []) = some fa → bPanel x (!tile.tookB) w (x.rep.getD 1 []) = some fb →
    let z := (tileSet w fa fb ups).1
    let again : DTile := { tile with bad := fa.bad || fb.bad || parity }
    let x1 := { x with sets := setAt x.sets tile.set z, tile := some again, rep := [[], [], [], []]
                       bhold := if bit w 26 then some (panelKey false w, fb.els, fb.scales) else x.bhold }
    let js1 := if bit w 25 then judgements tile.word tile.ints z x.mode else []
    let s1 := countSkips (setStk s k x1) k js1
    exec (.recomputeDone ⟨k, parity⟩ ups) s = .next (
      if again.bad || (firstFail js1 0).isSome then secondEvent (checkEvent s1 (k / 32)) k
      else passTile (drainRows (setStk (bump s1 Reg.ISL_CHK_RECOMP (k / 32) 1) k
        { x1 with tile := none, ckpt := none, recomp := false, frz := 0 }) k tile.word tile.ints z.acc) k again) := by
  intro x w ha hb z again x1 js1 s1
  have hstk : stk (bump s1 Reg.ISL_CHK_RECOMP (k / 32) 1) k = x1 := by
    rw [stk_bump, stk_countSkips, stk_setStk]
  show recomputed k ups parity s = _
  rw [recomputed, onUnit_live (decide_eq_true hk) hawake]
  simp only [htile]
  rw [if_neg (by simp [hrecomp, hrounds]), ha, hb]
  show Host.Outcome.next (if again.bad || (firstFail js1 0).isSome then secondEvent (checkEvent s1 (k / 32)) k
      else passTile (drainRows (setStk (bump s1 Reg.ISL_CHK_RECOMP (k / 32) 1) k
        { stk (bump s1 Reg.ISL_CHK_RECOMP (k / 32) 1) k with tile := none, ckpt := none, recomp := false, frz := 0 })
          k tile.word tile.ints z.acc) k again) = _
  rw [hstk]

end Verdict

/-- Settles O8: a verdict passes the tile or takes its mismatch, a recompute judges the replayed operands alone, and a
pass leaves nothing of the tile but its outputs and its verdict. -/
theorem tileVerdict_holds : Obligations.TileVerdict := by
  unfold Obligations.TileVerdict
  exact ⟨fun s k ups parity tile hk hawake htile =>
      ⟨fun hrecomp hmay => exec_tileVerdict_of hk hawake htile hrecomp hmay,
        fun fa fb hrecomp hrounds ha hb => exec_recomputeDone_of hk hawake htile hrecomp hrounds ha hb⟩,
    fun s k tile hrel => passTile_leaves s k tile hrel⟩

end Sys2Proof.Machine

/-! WAITH and RELH (R63, R78, R85, R100, R101, R171). -/

namespace Sys2Proof.Machine

theorem HandleFrame.trans {s t u : State} {k b : Nat} (h : HandleFrame s t k b) (g : HandleFrame t u k b) :
    HandleFrame s u k b where
  rest := by rw [g.rest, h.rest]
  fab := by rw [g.fab, h.fab]
  stakes j hj := (g.stakes j hj).trans (h.stakes j hj)
  bushels j hj := (g.bushels j hj).trans (h.bushels j hj)
  islands j := (g.islands j).trans (h.islands j)
  words a ha := (g.words a ha).trans (h.words a ha)

theorem StakeFrame.handle {s t : State} {k : Nat} (h : StakeFrame s t k) (b : Nat) : HandleFrame s t k b where
  rest := h.rest
  fab := by rw [h.fab]
  stakes := h.others
  bushels j _ := h.bsh j
  islands := h.islands
  words := h.words

theorem handleFrame_setBsh (s : State) (k b : Nat) (y : Bushel) : HandleFrame s (setBsh s b y) k b where
  rest := rfl
  fab := rfl
  stakes _ _ := rfl
  bushels _ hj := bsh_setBsh_ne s y hj
  islands _ := rfl
  words _ _ := rfl

/-- The stake and the bushel take their values, and the stake's program moves past the word. -/
theorem stkNext_handed (s : State) (k b : Nat) (x : Stake) (y : Bushel) :
    let t := stkNext (setStk (setBsh s b y) k x) k
    stk t k = stakePast x x ∧ bsh t b = y ∧ HandleFrame s t k b := by
  obtain ⟨hstk, hframe⟩ := stkNext_setStk (setBsh s b y) k x
  exact ⟨hstk, by rw [hframe.bsh, bsh_setBsh], (handleFrame_setBsh s k b y).trans (hframe.handle b)⟩

/-- The same, the stake's value put first. -/
theorem stkNext_returned (s : State) (k b : Nat) (x : Stake) (y : Bushel) :
    let t := stkNext (setBsh (setStk s k x) b y) k
    stk t k = stakePast x x ∧ bsh t b = y ∧ HandleFrame s t k b := by
  obtain ⟨hstk, hframe⟩ := stkNext_put (setBsh (setStk s k x) b y) k
  rw [stk_setBsh, stk_setStk] at hstk
  exact ⟨hstk, by rw [hframe.bsh, bsh_setBsh],
    (((stakeFrame_setStk s k x).handle b).trans (handleFrame_setBsh _ k b y)).trans (hframe.handle b)⟩

section Handles

variable {s : State} {k b h : Nat}

/-! ### WAITH -/

theorem exec_waith_ready (hr : StakeReady s k 0x08) : let d := bits (curWord s k) 56 2
    bshAt k d = some b → exec (.waith k) s = .next (match handleFor s k d with
      | none => if bit (stk s k).mode 0 then s else stkFreeze s k 5
      | some h =>
        if bits h 16 12 ≠ runEpoch s (k / 32) then foreignStk s k
        else stkNext (setStk (setBsh s b { bsh s b with hq := (bsh s b).hq.erase (h, opposite d),
                                                        took := setAt (bsh s b).took (opposite d) (some h) }) k
          { stk s k with hand := setAt (stk s k).hand d ((stk s k).hand.getD d [] ++ [h]) }) k) := by
  intro d hb
  show execWaith k s = _
  rw [execWaith, if_neg (by simp [hr.at_]), onStake_ready hr]
  simp only [d] at hb
  simp only [hb]
  cases hh : handleFor s k d with
  | none => rfl
  | some h => simp only [decide_eq_true_eq, d]

/-! ### RELH -/

theorem exec_relh_ready (hr : StakeReady s k 0x09) (hrel : (stk s k).relq = []) : let x := stk s k
    let w := curWord s k
    let d := bits w 56 2
    let td := bits w 54 2
    exec (.relh k) s = .next (match (x.hand.getD d [])[0]? with
      | none => stkNext s k
      | some h =>
        if (match x.tile with | some t => (t.hands.getD d []).contains h | none => false) then
          stkNext (setStk s k { x with relq := [(h, d, td, bit w 53)] }) k
        else match releaseHandle s k h d td (bit w 53) with
          | some s => stkNext s k
          | none => if bit x.mode 0 then s else stkFreeze s k 7) := by
  intro x w d td
  show execRelh k s = _
  rw [execRelh, onStake_ready hr]
  simp only [hrel, List.filter_nil, List.length_nil, List.nil_append, List.isEmpty_nil, Bool.not_true, Bool.or_false]
  rfl

/-- A handle no unverified tile held is let go at once (R85). -/
theorem exec_relh_free {rest : List Nat} (hr : StakeReady s k 0x09) (htile : (stk s k).tile = none)
    (hrel : (stk s k).relq = []) : let w := curWord s k
    (stk s k).hand.getD (bits w 56 2) [] = h :: rest →
    exec (.relh k) s = .next (match releaseHandle s k h (bits w 56 2) (bits w 54 2) (bit w 53) with
      | some s => stkNext s k
      | none => if bit (stk s k).mode 0 then s else stkFreeze s k 7) := by
  intro w hhand
  simp only [exec_relh_ready hr hrel, hhand, List.getElem?_cons_zero, htile, Bool.false_eq_true, if_false, w]

/-- The stake without its oldest handle from a direction. -/
def handleGone (x : Stake) (d : Nat) (rest : List Nat) : Stake := { x with hand := setAt x.hand d rest }

theorem releaseHandle_returns {d td : Nat} {rest : List Nat} (hhand : (stk s k).hand.getD d [] = h :: rest)
    (hb : bshAt k d = some b) : releaseHandle s k h d td false =
      some (setBsh (setStk s k (handleGone (stk s k) d rest)) b { bsh s b with rets := (bsh s b).rets ++ [h] }) := by
  simp only [releaseHandle, hhand, List.erase_cons_head, hb, Bool.false_eq_true, if_false, bsh_setStk, handleGone]

theorem releaseHandle_forwards {d td : Nat} {rest : List Nat} (hhand : (stk s k).hand.getD d [] = h :: rest)
    (hb : bshAt k td = some b) (hroom : (bsh s b).hq.length < 16) : releaseHandle s k h d td true =
      some (setBsh (setStk s k (handleGone (stk s k) d rest)) b
        { bsh s b with hq := (bsh s b).hq ++ [(h, 4 + oneIf (h.testBit 28))] }) := by
  simp only [releaseHandle, hhand, List.erase_cons_head, hb, if_true, bsh_setStk, handleGone, ge_iff_le, if_neg (Nat.not_le.2 hroom)]

theorem releaseHandle_full {d td : Nat} (hb : bshAt k td = some b) (hfull : 16 ≤ (bsh s b).hq.length) :
    releaseHandle s k h d td true = none := by
  simp [releaseHandle, hb, hfull]

end Handles

/-- Settles O9: WAITH takes, waits for or refuses its handle; RELH lets it go at once, at the verdict, or waits. -/
theorem stakeHandles : Obligations.StakeHandles := by
  unfold Obligations.StakeHandles
  intro s k b h x w d td
  refine ⟨fun hr hb => ⟨fun hh hepoch => ?_, fun hh hepoch => ?_, fun hh hmode => ?_⟩,
    fun hr => ⟨fun tile htile hrel hhand hmem => ?_, fun hhand hrel => ?_⟩,
    fun rest hr htile hrel hhand => ⟨fun hret hb => ?_, fun hfwd hb hroom => ?_, fun hfwd hb hfull hmode => ?_⟩⟩
  · refine ⟨_, (exec_waith_ready hr hb).trans ?_, stkNext_handed s k b _ _⟩
    rw [hh]
    simp only [hepoch, ne_eq, not_true_eq_false, if_false]
    rfl
  · refine (exec_waith_ready hr hb).trans ?_
    rw [hh]
    simp only [ne_eq, hepoch, not_false_eq_true, if_true]
  · refine ⟨_, (exec_waith_ready hr hb).trans ?_, stake_put s k _⟩
    rw [hh]
    simp only [if_neg (show ¬bit (stk s k).mode 0 = true by simp [hmode, x])]
    rfl
  · refine ⟨_, (exec_relh_ready hr hrel).trans ?_, stkNext_setStk s k _⟩
    have hkept : (tile.hands.getD (bits (curWord s k) 56 2) []).contains h = true := List.contains_iff_mem.2 hmem
    rw [hhand, htile]
    simp only [hkept, if_true]
    rfl
  · refine ⟨_, (exec_relh_ready hr hrel).trans ?_, stkNext_put s k⟩
    rw [hhand]
    rfl
  · refine ⟨_, (exec_relh_free hr htile hrel hhand).trans ?_, stkNext_returned s k b _ _⟩
    rw [show bit (curWord s k) 53 = false from hret, releaseHandle_returns hhand hb]
    rfl
  · refine ⟨_, (exec_relh_free hr htile hrel hhand).trans ?_, stkNext_returned s k b _ _⟩
    rw [show bit (curWord s k) 53 = true from hfwd, releaseHandle_forwards hhand hb hroom]
    rfl
  · refine ⟨_, (exec_relh_free hr htile hrel hhand).trans ?_, stake_put s k _⟩
    rw [show bit (curWord s k) 53 = true from hfwd, releaseHandle_full hb hfull]
    simp only [show bit (stk s k).mode 0 = false from hmode, Bool.false_eq_true, if_false]
    rfl

end Sys2Proof.Machine

/-! Tally words on registers (R103 to R105, R107, R110, R117). -/

namespace Sys2Proof.Machine

/-! ### Frames of a bushel's step -/

theorem BushelFrame.trans {s t u : State} {b : Nat} {l : List Nat} (h : BushelFrame s t b l) (g : BushelFrame t u b l) :
    BushelFrame s u b l where
  rest := by rw [g.rest, h.rest]
  fab := by rw [g.fab, h.fab]
  others j hj := (g.others j hj).trans (h.others j hj)
  islands j := (g.islands j).trans (h.islands j)
  words a ha := (g.words a ha).trans (h.words a ha)

theorem BushelFrame.weaken {s t : State} {b : Nat} (h : BushelFrame s t b []) (l : List Nat) : BushelFrame s t b l where
  rest := h.rest
  fab := h.fab
  others := h.others
  islands := h.islands
  words a ha := h.words a (by
    simp only [List.mem_cons, List.not_mem_nil, or_false]
    exact fun e => ha (e ▸ List.mem_cons_self))

theorem bushelFrame_setBsh (s : State) (b : Nat) (y : Bushel) (l : List Nat) : BushelFrame s (setBsh s b y) b l where
  rest := rfl
  fab := rfl
  others _ hj := bsh_setBsh_ne s y hj
  islands _ := rfl
  words _ _ := rfl

theorem bushelFrame_bump (s : State) (b : Nat) (f : Fld) (i n : Nat) : BushelFrame s (bump s f i n) b [f.addr i] where
  rest := rfl
  fab := rfl
  others _ _ := rfl
  islands _ := rfl
  words a ha := rw_wr_ne s f i _ a fun e => ha (by simp [e])

/-- The step of a bushel: it takes its new value, and its holds go out. -/
theorem bushel_put (s : State) (b : Nat) (y : Bushel) :
    bsh (noteHold (setBsh s b y) (b / 32)) b = y ∧ BushelFrame s (noteHold (setBsh s b y) (b / 32)) b [] :=
  ⟨by rw [bsh_noteHold, bsh_setBsh], bushelFrame_put s b y⟩

theorem tallyNext_put (s : State) (b e : Nat) :
    bsh (tallyNext s b e) b = bushelPast (bsh s b) e ∧ BushelFrame s (tallyNext s b e) b [] := bushel_put s b _

/-- The bushel takes a value, and engine `e` moves past its word. -/
theorem tallyDone_put (s : State) (b e : Nat) (y : Bushel) :
    bsh (tallyDone s b e y) b = bushelPast y e ∧ BushelFrame s (tallyDone s b e y) b [] := by
  obtain ⟨hbsh, hframe⟩ := tallyNext_put (setBsh s b y) b e
  rw [bsh_setBsh] at hbsh
  exact ⟨hbsh, (bushelFrame_setBsh s b y []).trans hframe⟩

/-! ### The words -/

section Registers

variable {s : State} {b e : Nat}

theorem exec_tallyNop_ready (h : TallyReady s b e 0x00) : exec (.tallyNop b e) s = .next (tallyNext s b e) := by
  show execTallyNop b e s = _
  rw [execTallyNop, onTally_ready h]

theorem exec_seti_ready (h : TallyReady s b e 0x01) : let w := tallyWord s b e
    exec (.seti b e) s = .next (tallyDone s b e (setX (bsh s b) e (bits w 55 3) (toField 64 (sext 32 (bits w 0 32))))) := by
  show execSeti b e s = _
  rw [execSeti, onTally_ready h]

theorem exec_setv_ready (h : TallyReady s b e 0x02) : let w := tallyWord s b e
    exec (.setv b e) s =
      .next (tallyDone s b e (setX (bsh s b) e (bits w 55 3) (vword s (b / 32) (bits w 0 4)).toNat)) := by
  show execSetv b e s = _
  rw [execSetv, onTally_ready h]

theorem exec_addi_ready (h : TallyReady s b e 0x03) : let w := tallyWord s b e
    exec (.addi b e) s = .next (tallyDone s b e (setX (bsh s b) e (bits w 55 3)
      (xreg (bsh s b) e (bits w 52 3) + toField 64 (sext 32 (bits w 0 32))))) := by
  show execAddi b e s = _
  rw [execAddi, onTally_ready h]

theorem exec_madd_ready (h : TallyReady s b e 0x04) : let w := tallyWord s b e
    exec (.madd b e) s = .next (tallyDone s b e (setX (bsh s b) e (bits w 55 3)
      (xreg (bsh s b) e (bits w 52 3) + xreg (bsh s b) e (bits w 49 3) * bits w 0 16))) := by
  show execMadd b e s = _
  rw [execMadd, onTally_ready h]

theorem exec_ldx_ready (h : TallyReady s b e 0x05) : let y := bsh s b
    let w := tallyWord s b e
    let a := (xreg y e (bits w 52 3) + bits w 0 21) % 2 ^ 64
    exec (.ldx b e) s = .next (if a % 8 ≠ 0 ∨ a + 8 > sramBytes then tallyFault s b e 4 a
      else match badByte s b a 8 with
        | some x => parityHit s b e x fun s c => tallyWait s b e c
        | none => tallyDone s b e (setX y e (bits w 55 3) (sramRead s b a 8))) := by
  show execLdx b e s = _
  rw [execLdx, onTally_ready h] <;> rfl

/-- An LDX within the SRAM, on an 8-byte boundary (R107). -/
theorem exec_ldx_inside (h : TallyReady s b e 0x05) : let y := bsh s b
    let w := tallyWord s b e
    let a := (xreg y e (bits w 52 3) + bits w 0 21) % 2 ^ 64
    a % 8 = 0 → a + 8 ≤ 0x180000 → exec (.ldx b e) s = .next (match badByte s b a 8 with
        | some x => parityHit s b e x fun s c => tallyWait s b e c
        | none => tallyDone s b e (setX y e (bits w 55 3) (sramRead s b a 8))) := by
  intro y w a h8 hin
  have hok : ¬(a % 8 ≠ 0 ∨ a + 8 > sramBytes) := by
    unfold sramBytes
    omega
  exact (exec_ldx_ready h).trans (by rw [if_neg hok])

theorem exec_tallySync_ready (h : TallyReady s b e 0x10) : let w := tallyWord s b e
    let out (store : Bool) : Bool := (bsh s b).reqs.any fun q => q.eng == e && q.store == store
    exec (.tallySync b e) s =
      .next (if (bit w 57 && out false) || (bit w 56 && out true) then s else tallyNext s b e) := by
  show execTallySync b e s = _
  rw [execTallySync, onTally_ready h]

theorem tallySync_step (h : TallyReady s b e 0x10) : let w := tallyWord s b e
    let out (store : Bool) : Bool := (bsh s b).reqs.any fun q => q.eng == e && q.store == store
    if (bit w 57 = true ∧ out false = true) ∨ (bit w 56 = true ∧ out true = true) then exec (.tallySync b e) s = .next s
    else Answers (.tallySync b e) s fun t => bsh t b = bushelPast (bsh s b) e ∧ BushelFrame s t b [] := by
  intro w out
  have hcond : (((bit w 57 && out false) || (bit w 56 && out true)) = true) =
      ((bit w 57 = true ∧ out false = true) ∨ (bit w 56 = true ∧ out true = true)) := by
    simp only [Bool.or_eq_true, Bool.and_eq_true]
  split
  · next hbusy => exact (exec_tallySync_ready h).trans (by rw [if_pos (hcond ▸ hbusy)])
  · next hbusy => exact ⟨_, (exec_tallySync_ready h).trans (by rw [if_neg (hcond ▸ hbusy)]), tallyNext_put s b e⟩

theorem exec_tallyEnd_ready (h : TallyReady s b e 0x11) : exec (.tallyEnd b e) s = .next (noteHold (setBsh s b
    { setEng (bsh s b) e { eng (bsh s b) e with ended := true } with frz := engThaw (bsh s b) e }) (b / 32)) := by
  show execTallyEnd b e s = _
  rw [execTallyEnd, onTally_ready h]

end Registers

/-- Settles O10: each word writes its register and moves on; LDX faults, meets bad parity or reads, SYNC waits. -/
theorem tallyRegisters : Obligations.TallyRegisters := by
  unfold Obligations.TallyRegisters
  intro s b e y w d a out
  exact ⟨fun h => ⟨_, exec_tallyNop_ready h, tallyNext_put s b e⟩,
    fun h => ⟨_, exec_seti_ready h, tallyDone_put s b e _⟩,
    fun h => ⟨_, exec_setv_ready h, tallyDone_put s b e _⟩,
    fun h => ⟨_, exec_addi_ready h, tallyDone_put s b e _⟩,
    fun h => ⟨_, exec_madd_ready h, tallyDone_put s b e _⟩,
    fun h h8 hin hgood => ⟨_, (exec_ldx_inside h h8 hin).trans (by rw [hgood]), tallyDone_put s b e _⟩,
    fun x h h8 hin hbad => (exec_ldx_inside h h8 hin).trans (by rw [hbad]),
    fun h hout => (exec_ldx_ready h).trans (congrArg Host.Outcome.next (if_pos hout)),
    tallySync_step,
    fun h => ⟨_, exec_tallyEnd_ready h, bushel_put s b _⟩⟩

end Sys2Proof.Machine

/-! Tally words LOOP, ACQ and REL (R97, R98, R103 to R105, R107, R115). -/

namespace Sys2Proof.Machine

/-- A slot some engine drains. -/
def isDraining (z : Slot) : Bool := match z.st with | .draining _ => true | _ => false

section Rings

variable {s : State} {b e : Nat}

theorem exec_tallyLoop_ready (h : TallyReady s b e 0x06) : let y := bsh s b
    let w := tallyWord s b e
    let t := eng y e
    let n := if bit w 51 then xreg y e (bits w 48 3) else bits w 0 24
    let into := enterLoop t.pc (bits w 52 6) n t.loops
    exec (.tallyLoop b e) s = .next (if bit w 51 ∧ n > bits w 0 24 then tallyFault s b e 3 0
      else noteHold (setBsh s b { setEng y e { t with pc := into.1, loops := into.2 } with frz := engThaw y e })
        (b / 32)) := by
  show execTallyLoop b e s = _
  rw [execTallyLoop, onTally_ready h]

theorem exec_acq_ready {r : Ring} (h : TallyReady s b e 0x07) : let y := bsh s b
    let w := tallyWord s b e
    let n := bits w 55 3
    y.rings[n]? = some r → exec (.acq b e) s = .next (
      if bit w 54 then
        let z := r.slots.getD r.head Slot.fresh
        if z.st = .full ∧ z.refetch = false then
          let r1 : Ring := { r.put r.head { z with st := .draining e } with head := (r.head + 1) % r.nslot }
          tallyDone s b e (setX { y with rings := setAt y.rings n r1 } e (bits w 51 3) (r.slotAddr r.head))
        else tallyWait s b e (waitCode y (r.slotAddr r.head) r.slotSz z.refetch)
      else if (r.slots.getD r.tail Slot.fresh).st = .free then
        let r1 : Ring := { r.put r.tail { Slot.fresh with st := .filling e } with tail := (r.tail + 1) % r.nslot }
        tallyDone s b e (setX { y with rings := setAt y.rings n r1 } e (bits w 51 3) (r.slotAddr r.tail))
      else
        let held := y.reqs.any fun q => q.store && q.st == .held && overlap q.sram q.len (r.slotAddr r.tail) r.slotSz
        tallyWait s b e (if held then 1 else 5)) := by
  intro y w n hr
  show execAcq b e s = _
  rw [execAcq, onTally_ready h]
  simp only [n, y, w] at hr
  simp only [hr, Bool.and_eq_true, beq_iff_eq, Bool.not_eq_true', y, w, n]
  rfl

theorem exec_rel_ready {r : Ring} (h : TallyReady s b e 0x08) : let y := bsh s b
    let w := tallyWord s b e
    let n := bits w 55 3
    y.rings[n]? = some r → exec (.rel b e) s = .next (
      if bit w 54 then
        match oldestSlot r r.head isDraining with
        | none => tallyNext s b e
        | some i =>
          let z := r.slots.getD i Slot.fresh
          tallyDone s b e { y with rings := setAt y.rings n (r.put i
            (if z.verdicts.isEmpty then Slot.fresh else { z with st := .retained })) }
      else
        match oldestSlot r r.tail (fun z => z.st == .filling e && !z.relp) with
        | none => tallyNext s b e
        | some i => tallyDone s b e (settle { y with rings := setAt y.rings n (r.put i
            { r.slots.getD i Slot.fresh with relp := true }) })) := by
  intro y w n hr
  show execRel b e s = _
  rw [execRel, onTally_ready h]
  simp only [n, y, w] at hr
  simp only [hr]
  rfl

theorem tallyLoop_enters (h : TallyReady s b e 0x06) : let y := bsh s b
    let w := tallyWord s b e
    let t := eng y e
    let n := if bit w 51 then xreg y e (bits w 48 3) else bits w 0 24
    let into := enterLoop t.pc (bits w 52 6) n t.loops
    n ≤ bits w 0 24 → Answers (.tallyLoop b e) s fun u =>
      bsh u b = { setEng y e { t with pc := into.1, loops := into.2 } with frz := engThaw y e } ∧ BushelFrame s u b [] := by
  intro y w t n into hn
  refine ⟨_, (exec_tallyLoop_ready h).trans (congrArg Host.Outcome.next (if_neg ?_)), bushel_put s b _⟩
  exact fun hc => absurd hc.2 (Nat.not_lt.2 hn)

theorem tallyLoop_faults (h : TallyReady s b e 0x06) : let w := tallyWord s b e
    let n := if bit w 51 then xreg (bsh s b) e (bits w 48 3) else bits w 0 24
    bits w 0 24 < n → exec (.tallyLoop b e) s = .next (tallyFault s b e 3 0) := by
  intro w n hn
  refine (exec_tallyLoop_ready h).trans (congrArg Host.Outcome.next (if_pos ⟨?_, hn⟩))
  by_contra hbit
  have hcnt : n = bits w 0 24 := if_neg hbit
  omega

end Rings

/-- Settles O11: LOOP enters or faults, ACQ takes its slot or waits for it, REL gives its slot up or finds none. -/
theorem tallyRings : Obligations.TallyRings := by
  unfold Obligations.TallyRings
  intro s b e y w t0 n cnt into drains fills
  refine ⟨tallyLoop_enters, tallyLoop_faults, fun r h hr h54 => ?_, fun r h hr h54 => ?_, fun r i h hr h54 hi => ?_,
    fun r i h hr h54 hi => ?_, fun r h hr hnone => ?_⟩
  · have hexec := (exec_acq_ready h hr).trans (congrArg Host.Outcome.next (if_pos h54))
    dsimp only
    split
    · next hfull => exact ⟨_, hexec.trans (congrArg Host.Outcome.next (if_pos hfull)), tallyDone_put s b e _⟩
    · next hfull => exact hexec.trans (congrArg Host.Outcome.next (if_neg hfull))
  · have hexec := (exec_acq_ready h hr).trans (congrArg Host.Outcome.next (if_neg (Bool.eq_false_iff.1 h54)))
    split
    · next hfree => exact ⟨_, hexec.trans (congrArg Host.Outcome.next (if_pos hfree)), tallyDone_put s b e _⟩
    · next hfree =>
      refine ⟨_, ?_, hexec.trans (congrArg Host.Outcome.next (if_neg hfree))⟩
      split
      · exact .inl rfl
      · exact .inr rfl
  · refine ⟨_, ((exec_rel_ready h hr).trans (congrArg Host.Outcome.next (if_pos h54))).trans ?_, tallyDone_put s b e _⟩
    rw [show oldestSlot r r.head isDraining = some i from hi]
    simp only [List.isEmpty_iff]
    rfl
  · refine ⟨_, ((exec_rel_ready h hr).trans (congrArg Host.Outcome.next (if_neg (Bool.eq_false_iff.1 h54)))).trans ?_,
      tallyDone_put s b e _⟩
    rw [show oldestSlot r r.tail (fun z => z.st == .filling e && !z.relp) = some i from hi]
  · refine ⟨_, (exec_rel_ready h hr).trans ?_, tallyNext_put s b e⟩
    by_cases h54 : bit w 54 = true
    · rw [if_pos h54] at hnone
      refine congrArg Host.Outcome.next ((if_pos h54).trans ?_)
      rw [show oldestSlot r r.head isDraining = none from hnone]
    · rw [if_neg h54] at hnone
      refine congrArg Host.Outcome.next ((if_neg h54).trans ?_)
      rw [show oldestSlot r r.tail (fun z => z.st == .filling e && !z.relp) = none from hnone]

end Sys2Proof.Machine

/-! Tally words RD and WR (R92, R98, R103 to R105, R107, R116). -/

namespace Sys2Proof.Machine

theorem eng_setEng_same {y : Bushel} {e : Nat} (t : Tally) (h : e < y.eng.length) : eng (setEng y e t) e = t := by
  simp [eng, setEng, setAt, List.getD_eq_getElem?_getD, List.getElem?_set_self h]

/-- Past its word an engine keeps the record of its retained runs. -/
theorem eng_bushelPast {y : Bushel} {e : Nat} (h : e < y.eng.length) :
    (eng (bushelPast y e) e).runs = (eng y e).runs ∧ (eng (bushelPast y e) e).recs = (eng y e).recs := by
  have heng : eng (bushelPast y e) e =
      { eng y e with pc := (nextPc (eng y e).pc (eng y e).loops).1, loops := (nextPc (eng y e).pc (eng y e).loops).2 } :=
    eng_setEng_same _ h
  rw [heng]
  exact ⟨rfl, rfl⟩

/-- The slot at SRAM address `a` owes these verdicts besides. -/
def oweVerdicts (y : Bushel) (a : Nat) (owed : List (Nat × Nat × Nat)) : Bushel :=
  match slotOf y a with
  | some (k, i) => match y.rings[k]? with
    | some r =>
      let z := r.slots.getD i Slot.fresh
      { y with rings := setAt y.rings k (r.put i { z with verdicts := z.verdicts ++ owed }) }
    | none => y
  | none => y

theorem oweVerdicts_rest (y : Bushel) (a : Nat) (owed : List (Nat × Nat × Nat)) :
    oweVerdicts y a owed = { y with rings := (oweVerdicts y a owed).rings } := by
  unfold oweVerdicts
  split
  · split <;> rfl
  · rfl

theorem oweVerdicts_rings_none {y : Bushel} {a : Nat} (owed : List (Nat × Nat × Nat)) (h : slotOf y a = none) :
    (oweVerdicts y a owed).rings = y.rings := by
  rw [oweVerdicts, h]

theorem oweVerdicts_rings_some {y : Bushel} {a q i : Nat} {r : Ring} (owed : List (Nat × Nat × Nat))
    (h : slotOf y a = some (q, i)) (hr : y.rings[q]? = some r) : (oweVerdicts y a owed).rings =
      setAt y.rings q (r.put i { r.slots.getD i Slot.fresh with
        verdicts := (r.slots.getD i Slot.fresh).verdicts ++ owed }) := by
  rw [oweVerdicts, h]
  simp only [hr]

/-- A retained read run of engine `e`: numbered and recorded, the last eight kept. -/
def keepRun (y : Bushel) (e : Nat) (rec : RdRec) : Bushel :=
  let recs := (eng y e).recs ++ [rec]
  setEng y e { eng y e with recs := recs.drop (recs.length - 8), runs := (eng y e).runs + 1 }

/-- A byte the environment has given wrong parity. -/
def parityGiven (s : State) (b : Nat) : Option Nat → State
  | some x => setPar s b x true
  | none => s

section Streams

variable {s : State} {b e : Nat} {bad : Option Nat}

theorem exec_rd_ready (h : TallyReady s b e 0x09) : let y := bsh s b
    let w := tallyWord s b e
    let p := bits w 56 2
    let n := bits w 12 16
    let width := widthOf (bits w 50 2)
    let a := (xreg y e (bits w 52 3) + bits w 28 21) % 2 ^ 64
    let xl := xreg y e (bits w 9 3)
    let t := eng y e
    let s1 := parityGiven s b bad
    let run : RdRun := ⟨e, if bit w 49 then some t.runs else none, a, width, n, xl, bit w 8, false, false⟩
    let y1 := { y with rd := setAt y.rd p (y.rd.getD p [] ++ [run]) }
    exec (.rd b e bad) s = .next (
      if a + width * n > sramBytes then tallyFault s b e 7 (min a (2 ^ 21 - 1))
      else if (y.rd.getD p []).length ≥ 2 then s
      else tallyDone s1 b e (if bit w 49 then
        oweVerdicts (keepRun y1 e ⟨t.runs, p, a, width, n, xl, bit w 8⟩) a
          ((portStakes s1 b p).map fun k => (e, t.runs, k))
        else y1)) := by
  show execRd b e bad s = _
  rw [execRd, onTally_ready h]
  cases bad <;> rfl

theorem exec_wr_ready (h : TallyReady s b e 0x0A) : let y := bsh s b
    let w := tallyWord s b e
    let p := bits w 56 2
    let n := bits w 12 16
    let width := widthOf (bits w 50 2)
    let a := (xreg y e (bits w 52 3) + bits w 28 21) % 2 ^ 64
    exec (.wr b e) s = .next (
      if a + width * n > sramBytes then tallyFault s b e 7 (min a (2 ^ 21 - 1))
      else if (y.wr.getD p []).length ≥ 2 then s
      else wrGo (tallyDone s b e (noSrc { y with wr := setAt y.wr p (y.wr.getD p [] ++ [⟨e, a, width, n⟩]) } a)) b p) := by
  show execWr b e s = _
  rw [execWr, onTally_ready h]

end Streams

/-- Settles O12: RD and WR queue their runs at the port's sequencer, wait where it is full, fault outside the SRAM; a
retained run is recorded and its slot owes the verdicts. -/
theorem tallyStreams : Obligations.TallyStreams := by
  unfold Obligations.TallyStreams
  intro s b e bad y w p n width a xl s1 run queue
  refine ⟨fun h hin hroom => ?_, fun h hin hfull => ?_, fun h hin => ?_, fun hout => ⟨fun h => ?_, fun h => ?_⟩⟩
  · have hexec := (exec_rd_ready (bad := bad) h).trans (congrArg Host.Outcome.next
      ((if_neg (Nat.not_lt.2 hin)).trans (if_neg (Nat.not_le.2 hroom))))
    have hs1 : parityGiven s b bad = s1 := by cases bad <;> rfl
    refine ⟨fun h49 => ?_, fun h49 he => ?_⟩
    · obtain ⟨hbsh, hframe⟩ := tallyDone_put s1 b e { y with rd := queue none }
      refine ⟨_, hexec.trans (congrArg Host.Outcome.next ?_), hbsh, hframe⟩
      rw [hs1]
      simp only [show bit (tallyWord s b e) 49 = false from h49, Bool.false_eq_true, if_false]
      rfl
    · let y1 := keepRun { y with rd := queue (some (eng y e).runs) } e ⟨(eng y e).runs, p, a, width, n, xl, bit w 8⟩
      let owed := (portStakes s1 b p).map fun k => (e, (eng y e).runs, k)
      obtain ⟨hbsh, hframe⟩ := tallyDone_put s1 b e (oweVerdicts y1 a owed)
      have hy1 : eng y1 e = { eng y e with
          recs := ((eng y e).recs ++ [(⟨(eng y e).runs, p, a, width, n, xl, bit w 8⟩ : RdRec)]).drop
            (((eng y e).recs ++ [(⟨(eng y e).runs, p, a, width, n, xl, bit w 8⟩ : RdRec)]).length - 8)
          runs := (eng y e).runs + 1 } := eng_setEng_same _ he
      have hlen : e < (oweVerdicts y1 a owed).eng.length := by
        rw [oweVerdicts_rest]
        simpa [y1, keepRun, setEng, setAt] using he
      have heng : eng (oweVerdicts y1 a owed) e = eng y1 e := by
        rw [oweVerdicts_rest]
        rfl
      refine ⟨tallyDone s1 b e (oweVerdicts y1 a owed), hexec.trans (congrArg Host.Outcome.next ?_), ?_, ?_, ?_, ?_, ?_,
        hframe⟩
      · rw [hs1]
        simp only [show bit (tallyWord s b e) 49 = true from h49, if_true]
        rfl
      · rw [hbsh, oweVerdicts_rest]
        rfl
      · rw [hbsh, (eng_bushelPast hlen).1, heng, hy1]
      · rw [hbsh, (eng_bushelPast hlen).2, heng, hy1]
      · intro hslot
        rw [hbsh]
        exact oweVerdicts_rings_none owed hslot
      · intro q i r hslot hr
        rw [hbsh]
        exact oweVerdicts_rings_some owed hslot hr
  · exact (exec_rd_ready h).trans (congrArg Host.Outcome.next ((if_neg (Nat.not_lt.2 hin)).trans (if_pos hfull)))
  · have hexec := (exec_wr_ready h).trans (congrArg Host.Outcome.next (if_neg (Nat.not_lt.2 hin)))
    split
    · next hroom =>
      exact ⟨_, hexec.trans (congrArg Host.Outcome.next (if_neg (Nat.not_le.2 hroom))), tallyDone_put s b e _⟩
    · next hfull => exact hexec.trans (congrArg Host.Outcome.next (if_pos (Nat.not_lt.1 hfull)))
  · exact (exec_rd_ready h).trans (congrArg Host.Outcome.next (if_pos hout))
  · exact (exec_wr_ready h).trans (congrArg Host.Outcome.next (if_pos hout))

end Sys2Proof.Machine

/-! Tally words FETCH and STORE, and the issue of their requests (R104, R107 to R110, R117, R122, R184, R256). -/

namespace Sys2Proof.Machine

/-! ### The queue of requests -/

theorem enqueue_rest (y : Bushel) (q : Req) :
    (enqueue y q).1 = { y with reqs := (enqueue y q).1.reqs, reqNext := (enqueue y q).1.reqNext } := by
  unfold enqueue
  split
  · split <;> rfl
  · rfl

theorem enqueue_rings (y : Bushel) (q : Req) : (enqueue y q).1.rings = y.rings := by rw [enqueue_rest]

theorem slotOf_enqueue (y : Bushel) (q : Req) (a : Nat) : slotOf (enqueue y q).1 a = slotOf y a := by
  rw [slotOf, enqueue_rings]
  rfl

/-- A fetch is noted at its slot while nothing but read-only fetches fill it (R117). -/
def noteFetch (y0 y : Bushel) (q : Req) : Bushel :=
  match slotOf y q.sram with
  | some (k, i) => match y.rings[k]? with
    | some g =>
      let z := g.slots.getD i Slot.fresh
      { y with rings := setAt y.rings k (g.put i { z with
          src := if q.ro && (z.src.length > 0 || !rangeBusy y0 (g.slotAddr i) g.slotSz)
            then z.src ++ [(q.da, q.sram, q.len, q.eng, q.porter)] else [] }) }
    | none => y
  | none => y

theorem noteFetch_rest (y0 y : Bushel) (q : Req) : noteFetch y0 y q = { y with rings := (noteFetch y0 y q).rings } := by
  unfold noteFetch
  split
  · split <;> rfl
  · rfl

theorem noteFetch_rings_none {y0 y : Bushel} {q : Req} (h : slotOf y q.sram = none) :
    (noteFetch y0 y q).rings = y.rings := by
  rw [noteFetch, h]

theorem noteFetch_rings_some {y0 y : Bushel} {q : Req} {n i : Nat} {g : Ring} (h : slotOf y q.sram = some (n, i))
    (hg : y.rings[n]? = some g) : let z := g.slots.getD i Slot.fresh
    (noteFetch y0 y q).rings = setAt y.rings n (g.put i { z with
      src := if q.ro = true ∧ (z.src ≠ [] ∨ rangeBusy y0 (g.slotAddr i) g.slotSz = false)
        then z.src ++ [(q.da, q.sram, q.len, q.eng, q.porter)] else [] }) := by
  rw [noteFetch, h]
  simp only [hg, Bool.and_eq_true, Bool.or_eq_true, decide_eq_true_eq, Bool.not_eq_true', gt_iff_lt, List.length_pos_iff]

/-- The request of engine `e`'s word. -/
def wordReq (s : State) (b e : Nat) (store : Bool) : Req :=
  let y := bsh s b
  let w := tallyWord s b e
  let len := bits w 32 11 * 64
  { id := y.reqNext, eng := e, store := store,
    da := toField 64 ((xreg y e (bits w 55 3) : Int) + sext 32 (bits w 0 32)) % 2 ^ 52, sram := xreg y e (bits w 52 3),
    len := len, porter := 2 * (b / 32 / 8) + bits w 51 1, ro := !store && bit w 50,
    st := if len ≥ 4096 ∨ !bit y.mode 3 then .eligible else .open_, throttled := false, sent := 0, data := 0 }

/-- The queue takes the request, and a merge is counted (R109). -/
def queueReq (s : State) (b e : Nat) (q : Req) (y : Bushel) : State :=
  tallyDone (if (enqueue (bsh s b) q).2 then bump s Reg.ISL_BSH_MERGE (b / 32) 1 else s) b e y

theorem offChip_eq (s : State) (b e : Nat) (store : Bool) : let y := bsh s b
    let q := wordReq s b e store
    offChip s b e store = if q.sram + q.len > sramBytes then tallyFault s b e 7 (min q.sram (2 ^ 21 - 1))
      else if queued y ≥ 64 then s
      else queueReq s b e q (if store then (enqueue y q).1 else noteFetch y (enqueue y q).1 q) := by
  cases store <;> rfl

theorem merge_ne_holdWord (n : Nat) : Reg.ISL_BSH_MERGE.addr n ≠ holdWord n := by
  simp only [holdWord, Fld.addr, Reg.ISL_BSH_MERGE, Reg.ISL_FAB_HOLD_OWN]
  omega

theorem BushelFrame.rd {s t : State} {b : Nat} {l : List Nat} (h : BushelFrame s t b l) {f : Fld} {i : Nat}
    (hf : f.addr i ∉ holdWord (b / 32) :: l) : rd t f i = rd s f i := by
  unfold Machine.rd
  rw [h.words _ hf]

/-- A counter that counts nothing keeps its value. -/
theorem min_rd_max (s : State) (f : Fld) (i : Nat) : min (rd s f i) (2 ^ f.w - 1) = rd s f i := by
  have := rd_lt s f i
  omega

theorem queueReq_put (s : State) (b e : Nat) (q : Req) (y : Bushel) : let t := queueReq s b e q y
    bsh t b = bushelPast y e ∧
    rd t Reg.ISL_BSH_MERGE (b / 32) =
      min (rd s Reg.ISL_BSH_MERGE (b / 32) + oneIf (enqueue (bsh s b) q).2) (2 ^ 32 - 1) ∧
    BushelFrame s t b [Reg.ISL_BSH_MERGE.addr (b / 32)] := by
  have hmerge : ∀ u, Reg.ISL_BSH_MERGE.addr (b / 32) ∉ [holdWord (b / 32)] → BushelFrame u (tallyDone u b e y) b [] →
      rd (tallyDone u b e y) Reg.ISL_BSH_MERGE (b / 32) = rd u Reg.ISL_BSH_MERGE (b / 32) := fun u hne hf => hf.rd hne
  have hne : Reg.ISL_BSH_MERGE.addr (b / 32) ∉ [holdWord (b / 32)] := by simp [merge_ne_holdWord]
  unfold queueReq
  cases (enqueue (bsh s b) q).2 with
  | true =>
    obtain ⟨hbsh, hframe⟩ := tallyDone_put (bump s Reg.ISL_BSH_MERGE (b / 32) 1) b e y
    refine ⟨hbsh, ?_, (bushelFrame_bump s b _ _ 1).trans (hframe.weaken _)⟩
    exact (hmerge _ hne hframe).trans (rd_bump_same s _ _ 1 (fits_of_le (by decide)))
  | false =>
    obtain ⟨hbsh, hframe⟩ := tallyDone_put s b e y
    refine ⟨hbsh, ?_, hframe.weaken _⟩
    exact (hmerge _ hne hframe).trans (min_rd_max s Reg.ISL_BSH_MERGE (b / 32)).symm

theorem exec_fetch_ready {s : State} {b e : Nat} (h : TallyReady s b e 0x0B) :
    exec (.fetch b e) s = .next (offChip s b e false) := by
  show execFetch b e s = _
  rw [execFetch, onTally_ready h]

theorem exec_store_ready {s : State} {b e : Nat} (h : TallyReady s b e 0x0C) :
    exec (.store b e) s = .next (offChip s b e true) := by
  show execStore b e s = _
  rw [execStore, onTally_ready h]

/-! ### The issue -/

theorem onlyFront_draw (s : State) (p k n : Nat) : draw s p k n = { s with front := (draw s p k n).front } := by
  unfold draw
  split <;> rfl

theorem onlyFront_each {α : Type} (f : State → α → State) (hf : ∀ s a, f s a = { s with front := (f s a).front })
    (l : List α) (s : State) : eachOf l s f = { s with front := (eachOf l s f).front } := by
  induction l generalizing s with
  | nil => rfl
  | cons a l ih =>
    have h : eachOf (a :: l) s f = { f s a with front := (eachOf (a :: l) s f).front } := ih (f s a)
    rw [h, hf s a]

/-- What a request draws on the regulators is all in the front end (R256). -/
theorem onlyFront_drawRange (s : State) (p da n : Nat) : drawRange s p da n = { s with front := (drawRange s p da n).front } :=
  onlyFront_each _ (fun s x => by
    split
    · exact onlyFront_draw s p _ _
    · rfl) _ s

/-- One request of bushel `b`'s queue changed. -/
def putReq (s : State) (b : Nat) (x : Req) (f : Req → Req) : State :=
  setBsh s b { bsh s b with reqs := (bsh s b).reqs.map fun z => if z.id = x.id then f z else z }

/-- The oldest eligible request of a bushel that no earlier store of its own overlaps (R110). -/
def oldestEligible (y : Bushel) : Option Req :=
  let clash (x : Req) : Bool := !x.store && y.reqs.any fun z =>
    z.store && decide (z.id < x.id) && overlap z.da z.len x.da x.len
  y.reqs.find? fun x => x.st == .eligible && !clash x

/-- The request issued and counted. -/
def issued (s : State) (b : Nat) (x : Req) : State :=
  let u := bump (putReq (drawRange s (partOfIsl s (b / 32)) (x.da + x.sent) (x.len - x.sent)) b x
    fun z => { z with st := .issued, throttled := false }) Reg.ISL_BSH_REQ (b / 32) 1
  if x.len < 4096 then bump u Reg.ISL_BSH_SHORT (b / 32) 1 else u

theorem exec_requestIssue_of {s : State} {b : Nat} {x : Req} (hb : b < 1024) (hawake : awake s = true)
    (hrel : (isl s (b / 32)).released = true) (hstop : (isl s (b / 32)).stopped = false)
    (hx : oldestEligible (bsh s b) = some x) : exec (.requestIssue b) s = .next (
      if !grantedRange s (partOfIsl s (b / 32)) (x.da + x.sent) (x.len - x.sent) then
        putReq s b x fun z => { z with throttled := true }
      else issued s b x) := by
  show execRequestIssue b s = _
  rw [execRequestIssue, onUnit_live (decide_eq_true hb) hawake]
  simp only [oldestEligible] at hx
  simp only [hx, hrel, hstop, Bool.not_true, Bool.or_self, Bool.false_eq_true, if_false]
  rfl

theorem short_ne_req (n : Nat) : Reg.ISL_BSH_SHORT.addr n ≠ Reg.ISL_BSH_REQ.addr n := by
  simp only [Fld.addr, Reg.ISL_BSH_SHORT, Reg.ISL_BSH_REQ]
  omega

theorem bsh_drawRange (s : State) (p da n j : Nat) : bsh (drawRange s p da n) j = bsh s j := by
  rw [onlyFront_drawRange]
  rfl

theorem rd_putReq_drawRange (s : State) (p da n b : Nat) (x : Req) (g : Req → Req) (f : Fld) (i : Nat) :
    rd (putReq (drawRange s p da n) b x g) f i = rd s f i := by
  have h : rd (putReq (drawRange s p da n) b x g) f i = rd (drawRange s p da n) f i := rfl
  rw [h, onlyFront_drawRange]
  rfl

theorem bsh_issued (s : State) (b : Nat) (x : Req) (j : Nat) : bsh (issued s b x) j =
    bsh (putReq (drawRange s (partOfIsl s (b / 32)) (x.da + x.sent) (x.len - x.sent)) b x
      fun z => { z with st := .issued, throttled := false }) j := by
  unfold issued
  dsimp only
  split <;> rfl

theorem rd_issued_req (s : State) (b : Nat) (x : Req) : rd (issued s b x) Reg.ISL_BSH_REQ (b / 32) =
    min (rd s Reg.ISL_BSH_REQ (b / 32) + 1) (2 ^ 32 - 1) := by
  unfold issued
  dsimp only
  split
  · rw [rd_bump_apart _ _ _ _ _ _ (.inl (short_ne_req _).symm), rd_bump_same _ _ _ 1 (fits_of_le (by decide)),
      rd_putReq_drawRange]
    rfl
  · rw [rd_bump_same _ _ _ 1 (fits_of_le (by decide)), rd_putReq_drawRange]
    rfl

theorem rd_issued_short (s : State) (b : Nat) (x : Req) : rd (issued s b x) Reg.ISL_BSH_SHORT (b / 32) =
    min (rd s Reg.ISL_BSH_SHORT (b / 32) + if x.len < 4096 then 1 else 0) (2 ^ 32 - 1) := by
  unfold issued
  dsimp only
  split
  · rw [rd_bump_same _ _ _ 1 (fits_of_le (by decide)), rd_bump_apart _ _ _ _ _ _ (.inl (short_ne_req _)),
      rd_putReq_drawRange]
    rfl
  · rw [rd_bump_apart _ _ _ _ _ _ (.inl (short_ne_req _)), rd_putReq_drawRange]
    exact (min_rd_max s Reg.ISL_BSH_SHORT (b / 32)).symm

/-- Settles O13: FETCH and STORE fault, wait, or queue their request and count its merge; the oldest eligible request is
issued where the regulators grant it. -/
theorem requests : Obligations.Requests := by
  unfold Obligations.Requests
  refine ⟨fun s b e => ?_, fun s b x hb hawake hrel hstop => ?_⟩
  · intro y w len m req merges q
    refine ⟨fun hin hroom => ⟨fun h => ?_, fun h => ?_⟩, fun hin hfull => ⟨fun h => ?_, fun h => ?_⟩,
      fun hout => ⟨fun h => ?_, fun h => ?_⟩⟩
    · obtain ⟨hbsh, hmerge, hframe⟩ := queueReq_put s b e q (noteFetch y (enqueue y q).1 q)
      refine ⟨queueReq s b e q (noteFetch y (enqueue y q).1 q), (exec_fetch_ready h).trans (congrArg Host.Outcome.next
        ((offChip_eq s b e false).trans ((if_neg (Nat.not_lt.2 hin)).trans (if_neg (Nat.not_le.2 hroom))))), ?_, fun hslot => ?_,
        fun n i g hslot hg => ?_, hmerge, hframe⟩
      · refine hbsh.trans ?_
        rw [congrArg Bushel.rings hbsh]
        exact congrArg (bushelPast · e) (noteFetch_rest y _ q)
      · rw [congrArg Bushel.rings hbsh]
        exact (noteFetch_rings_none ((slotOf_enqueue y q m).trans hslot)).trans (enqueue_rings y q)
      · rw [congrArg Bushel.rings hbsh]
        refine (noteFetch_rings_some ((slotOf_enqueue y q m).trans hslot) ((congrArg (·[n]?) (enqueue_rings y q)).trans hg)).trans ?_
        rw [enqueue_rings]
    · exact ⟨_, (exec_store_ready h).trans (congrArg Host.Outcome.next ((offChip_eq s b e true).trans
        ((if_neg (Nat.not_lt.2 hin)).trans (if_neg (Nat.not_le.2 hroom))))), queueReq_put s b e (req true) _⟩
    · exact (exec_fetch_ready h).trans (congrArg Host.Outcome.next ((offChip_eq s b e false).trans
        ((if_neg (Nat.not_lt.2 hin)).trans (if_pos hfull))))
    · exact (exec_store_ready h).trans (congrArg Host.Outcome.next ((offChip_eq s b e true).trans
        ((if_neg (Nat.not_lt.2 hin)).trans (if_pos hfull))))
    · exact (exec_fetch_ready h).trans (congrArg Host.Outcome.next ((offChip_eq s b e false).trans (if_pos hout)))
    · exact (exec_store_ready h).trans (congrArg Host.Outcome.next ((offChip_eq s b e true).trans (if_pos hout)))
  · intro y clash hx p
    have hexec := exec_requestIssue_of hb hawake hrel hstop hx
    refine ⟨fun hno => ?_, fun hgo => ?_⟩
    · exact ⟨_, hexec.trans (congrArg Host.Outcome.next (if_pos (by simp [hno, p]))), rfl⟩
    · refine ⟨_, hexec.trans (congrArg Host.Outcome.next (if_neg (by simp [hgo, p]))), ?_, rd_issued_req s b x,
        rd_issued_short s b x, fun j hj => ?_⟩
      · rw [bsh_issued, putReq, bsh_setBsh, bsh_drawRange]
      · rw [bsh_issued, putReq, bsh_setBsh_ne _ _ hj, bsh_drawRange]

end Sys2Proof.Machine

/-! Tally words on handles (R99 to R101, R105, R107, R115, R146, R171). -/

namespace Sys2Proof.Machine

section Handles

variable {s : State} {b e : Nat}

theorem exec_hpush_ready (h : TallyReady s b e 0x0D) : let y := bsh s b
    let w := tallyWord s b e
    let dest := bits w 52 3
    let g := xreg y e (bits w 55 3) % 2 ^ 32
    exec (.hpush b e) s = .next (if dest < 4 ∧ bits g 0 10 ≠ relNo s b then tallyFault s b e 6 0
      else if y.hq.length ≥ 16 then tallyWait s b e 7
      else tallyDone s b e { y with hq := y.hq ++ [(if dest ≥ 4 then putBits g 28 1 (dest % 2) else g, dest)] }) := by
  show execHpush b e s = _
  rw [execHpush, onTally_ready h]

/-- What an HTAKE does, by what its word takes (R105). -/
def htakeStep (s : State) (b e : Nat) : State :=
  let w := tallyWord s b e
  let y := bsh s b
  match bits w 50 2 with
  | 0 =>
    match y.hq.find? (fun p => p.2 == 4 + e) with
    | some p => takeHandle s b e p.1 { y with hq := y.hq.erase p }
    | none => tallyWait s b e 6
  | 1 =>
    match y.freeBufs with
    | n :: t => tallyDone s b e (setX (setX { y with freeBufs := t } e (bits w 52 3)
        (relNo s b + 2 ^ 10 * n + 2 ^ 16 * runEpoch s (b / 32))) e (bits w 55 3) (bits (y.bufs.getD n 0) 0 15 * 64))
    | [] => tallyWait s b e 6
  | _ =>
    match y.took.getD (bits w 48 2) none with
    | some h => takeHandle s b e h { y with took := setAt y.took (bits w 48 2) none }
    | none => tallyWait s b e 6

theorem exec_htake_ready (h : TallyReady s b e 0x0E) : exec (.htake b e) s = .next (htakeStep s b e) := by
  show execHtake b e s = _
  rw [execHtake, if_neg (by simp [h.at_]), onTally_ready h]
  rfl

theorem htakeStep_addressed (h0 : bits (tallyWord s b e) 50 2 = 0) :
    htakeStep s b e = match (bsh s b).hq.find? (fun p => p.2 == 4 + e) with
      | some p => takeHandle s b e p.1 { bsh s b with hq := (bsh s b).hq.erase p }
      | none => tallyWait s b e 6 := by
  simp only [htakeStep, h0]

theorem htakeStep_made (h1 : bits (tallyWord s b e) 50 2 = 1) : htakeStep s b e = match (bsh s b).freeBufs with
      | n :: t => tallyDone s b e (setX (setX { bsh s b with freeBufs := t } e (bits (tallyWord s b e) 52 3)
          (relNo s b + 2 ^ 10 * n + 2 ^ 16 * runEpoch s (b / 32))) e (bits (tallyWord s b e) 55 3)
          (bits ((bsh s b).bufs.getD n 0) 0 15 * 64))
      | [] => tallyWait s b e 6 := by
  simp only [htakeStep, h1]

theorem htakeStep_taken (h2 : 2 ≤ bits (tallyWord s b e) 50 2) :
    htakeStep s b e = match (bsh s b).took.getD (bits (tallyWord s b e) 48 2) none with
      | some h => takeHandle s b e h { bsh s b with took := setAt (bsh s b).took (bits (tallyWord s b e) 48 2) none }
      | none => tallyWait s b e 6 := by
  obtain ⟨n, hn⟩ := Nat.exists_eq_add_of_le h2
  simp only [htakeStep, hn, Nat.add_comm 2 n]

theorem takeHandle_own {g : Nat} (y : Bushel) (hepoch : bits g 16 12 = runEpoch s (b / 32)) :
    let w := tallyWord s b e
    takeHandle s b e g y = tallyDone s b e (setX (setX y e (bits w 52 3) g) e (bits w 55 3)
      (if bits g 0 10 = relNo s b then bits (y.bufs.getD (bits g 10 6) 0) 0 15 * 64 else 0)) := by
  simp only [takeHandle, hepoch, ne_eq, not_true_eq_false, if_false]

theorem takeHandle_foreign {g : Nat} (y : Bushel) (hepoch : bits g 16 12 ≠ runEpoch s (b / 32)) :
    takeHandle s b e g y = foreignBsh s b e := by
  simp only [takeHandle, ne_eq, hepoch, not_false_eq_true, if_true]

/-- A handle of another epoch stops the weave, wherever the word takes it from (R171). -/
theorem htakeStep_foreign {g : Nat} (hg : takeFor s b e = some g) (hepoch : bits g 16 12 ≠ runEpoch s (b / 32)) :
    htakeStep s b e = foreignBsh s b e := by
  unfold takeFor at hg
  unfold htakeStep
  dsimp only at hg ⊢
  split at hg
  · next h0 =>
    obtain ⟨p, hp, rfl⟩ := Option.map_eq_some_iff.1 hg
    simp only [h0, hp]
    exact takeHandle_foreign _ hepoch
  · cases hg
  · next h0 h1 =>
    simp only [hg]
    exact takeHandle_foreign _ hepoch

/-- With nothing to take the engine waits (R105, R115). -/
theorem htakeStep_waits (hg : takeFor s b e = none) (hfree : bits (tallyWord s b e) 50 2 = 1 → (bsh s b).freeBufs = []) :
    htakeStep s b e = tallyWait s b e 6 := by
  unfold takeFor at hg
  unfold htakeStep
  dsimp only at hg ⊢
  split at hg
  · next h0 =>
    simp only [h0, Option.map_eq_none_iff.1 hg]
  · next h1 =>
    simp only [h1, hfree h1]
  · next h0 h1 =>
    simp only [hg]

theorem exec_hret_ready (h : TallyReady s b e 0x0F) : let g := xreg (bsh s b) e (bits (tallyWord s b e) 55 3) % 2 ^ 32
    let s2 := tallyNext s b e
    let o := ownerOf s2 (b / 32) g
    exec (.hret b e) s = .next (setBsh s2 o { bsh s2 o with rets := (bsh s2 o).rets ++ [g] }) := by
  show execHret b e s = _
  rw [execHret, onTally_ready h]

theorem exec_handleReturn_of {g : Nat} {rest : List Nat} (hb : b < 1024) (hawake : awake s = true)
    (hrets : (bsh s b).rets = g :: rest) (bad : Bool) : let y := bsh s b
    let n := bits g 10 6
    exec (.handleReturn ⟨b, bad⟩) s = .next (if bad then failEvent (setBsh s b { y with rets := rest }) (b / 32) 0x28 0
      else setBsh s b { y with
        rets := rest, freeBufs := if y.bufs.getD n 0 = 0 then y.freeBufs else insertAsc n y.freeBufs }) := by
  show handleBack b bad s = _
  rw [handleBack, onUnit_live (decide_eq_true hb) hawake]
  simp only [hrets, pathError]

end Handles

/-- Settles O14: HPUSH queues its handle, HTAKE takes one of its epoch, waits or stops the weave, HRET sends it home, and
a returned handle frees its buffer. -/
theorem tallyHandles : Obligations.TallyHandles := by
  unfold Obligations.TallyHandles
  intro s b e y w dest h made baseOf own
  refine ⟨fun hr hdest => ?_, fun hr hlt hne => ?_, fun g hr h0 hg hepoch => ?_, fun n rest hr h1 hfree => ?_,
    fun g hr h2 hg hepoch => ?_, fun g hr hg hepoch => ?_, fun hr hg hfree => ?_, fun hr => ?_,
    fun g rest hb hawake hrets => ⟨exec_handleReturn_of hb hawake hrets false, exec_handleReturn_of hb hawake hrets true⟩⟩
  · have hexec := (exec_hpush_ready hr).trans (congrArg Host.Outcome.next (if_neg fun hbad => hbad.2 (hdest hbad.1)))
    split
    · next hroom =>
      exact ⟨_, hexec.trans (congrArg Host.Outcome.next (if_neg (Nat.not_le.2 hroom))), tallyDone_put s b e _⟩
    · next hfull => exact hexec.trans (congrArg Host.Outcome.next (if_pos (Nat.not_lt.1 hfull)))
  · exact (exec_hpush_ready hr).trans (congrArg Host.Outcome.next (if_pos ⟨hlt, hne⟩))
  · refine ⟨_, (exec_htake_ready hr).trans ?_, tallyDone_put s b e _⟩
    rw [htakeStep_addressed h0, hg]
    exact congrArg Host.Outcome.next (takeHandle_own _ hepoch)
  · refine ⟨_, (exec_htake_ready hr).trans ?_, tallyDone_put s b e _⟩
    rw [htakeStep_made h1, hfree]
  · refine ⟨_, (exec_htake_ready hr).trans ?_, tallyDone_put s b e _⟩
    rw [htakeStep_taken h2, hg]
    exact congrArg Host.Outcome.next (takeHandle_own _ hepoch)
  · rw [exec_htake_ready hr, htakeStep_foreign hg hepoch]
  · rw [exec_htake_ready hr, htakeStep_waits hg hfree]
  · obtain ⟨hbsh, hframe⟩ := tallyNext_put s b e
    exact ⟨tallyNext s b e, hbsh, hframe, exec_hret_ready hr⟩

end Sys2Proof.Machine

/-! Events of a bushel's requests, verdicts and replays (R93, R94, R97, R98, R109, R110, R116, R117, R119, R121, R146). -/

namespace Sys2Proof.Machine

section Events

variable {s : State} {b q k : Nat}

theorem exec_mergeWaitExpiry_of (hb : b < 1024) (hawake : awake s = true) : exec (.mergeWaitExpiry b q) s =
    .next (setBsh s b { bsh s b with
      reqs := (bsh s b).reqs.map fun r => if r.id = q ∧ r.st = .open_ then { r with st := .eligible } else r }) := by
  show execMergeWaitExpiry b q s = _
  rw [execMergeWaitExpiry, onUnit_live (decide_eq_true hb) hawake]

theorem exec_storeAck_of (hb : b < 1024) (hawake : awake s = true)
    (hacked : (s.skl.reqs.any fun x => x.write && x.owner == some (.bushel b q)) = false) : exec (.storeAck b q) s =
    .next (setBsh s b (settle { bsh s b with
      reqs := (bsh s b).reqs.filter fun r => !(r.id == q && r.store && r.st == .carried) })) := by
  show execStoreAck b q s = _
  rw [execStoreAck, onUnit_live (decide_eq_true hb) hawake]
  simp only [hacked, Bool.false_eq_true, if_false]

theorem exec_verdictSignal_of {g : Nat × List (Nat × Nat)} (hb : b < 1024) (hk : k < 1024) (hawake : awake s = true)
    (hg : (bsh s b).sigs.find? (fun g => g.1 == k) = some g) (bad : Bool) : let y := bsh s b
    exec (.verdictSignal b ⟨k, bad⟩) s = .next (
      if bad then failEvent (setBsh s b { y with sigs := y.sigs.erase g }) (b / 32) 0x28 0
      else setBsh s b { y with sigs := y.sigs.erase g, rings := g.2.foldl (payRun k) y.rings }) := by
  have hunit : (decide (b < 1024) && decide (k < 1024)) = true := by simp [hb, hk]
  show verdictCome b k bad s = _
  rw [verdictCome, onUnit_live hunit hawake]
  simp only [hg, pathError]

theorem exec_bushelDone_of (hb : b < 1024) (hawake : awake s = true) (hidle : bushelIdle (bsh s b) = true)
    (hrel : (isl s (b / 32)).released = true) :
    exec (.bushelDone b) s = .next (setBsh s b { bsh s b with reported := true }) := by
  show execBushelDone b s = _
  rw [execBushelDone, onUnit_live (decide_eq_true hb) hawake]
  simp only [hidle, hrel, Bool.and_self, if_true]

/-! ### A fetch lands -/

/-- The bushel once request `q` has landed and what it completes is settled. -/
def fetchLanded (y : Bushel) (q : Nat) : Bushel :=
  let y := settle { y with reqs := y.reqs.filter fun x => !(x.id == q) }
  if y.frz.getD 2 0 ≤ 4 ∧ (y.rings.any fun r => r.slots.any Slot.refetch) = false
    then { y with frz := setAt y.frz 2 0 } else y

theorem exec_arrivalLand_of {r : Req} (hb : b < 1024) (hawake : awake s = true)
    (hr : (bsh s b).reqs.find? (fun r => r.id == q && !r.store && r.st == .carried) = some r) :
    exec (.arrivalLand b q) s =
      .next (noteHold (setBsh (sramWrite s b r.sram r.len r.data) b (fetchLanded (bsh s b) q)) (b / 32)) := by
  show execArrivalLand b q s = _
  rw [execArrivalLand, onUnit_live (decide_eq_true hb) hawake]
  simp only [hr, fetchLanded, Bool.and_eq_true, decide_eq_true_eq, Bool.not_eq_true']

/-- A step of holds leaves the SRAM. -/
theorem sramRead_noteHold (s : State) (n b a m : Nat) : sramRead (noteHold s n) b a m = sramRead s b a m := by
  rw [(noteHold_moves s n).rest]
  rfl

theorem sramRead_sramWrite_same (s : State) (b a n v : Nat) : sramRead (sramWrite s b a n v) b a n = v % 2 ^ (8 * n) := by
  rw [show (2 : Nat) ^ (8 * n) = 256 ^ n by rw [pow_mul]; rfl]
  exact tbytes_tstore _ n s.fab.sram _ v

theorem sramRead_sramWrite_out (s : State) {b a n c x : Nat} (v : Nat) (ha : a + n ≤ 2 ^ 21) (hx : x < 2 ^ 21)
    (hout : c ≠ b ∨ x < a ∨ a + n ≤ x) : sramRead (sramWrite s b a n v) c x 1 = sramRead s c x 1 :=
  tbytes_tstore_out _ 1 n s.fab.sram _ v _ (by omega)

end Events

/-- Settles O15: each event makes its request eligible, ended, paid or reported; a fetch's bytes land where its request
says and nowhere else. -/
theorem bushelEvents : Obligations.BushelEvents := by
  unfold Obligations.BushelEvents
  refine ⟨fun s b q k hb hawake => ⟨exec_mergeWaitExpiry_of hb hawake, exec_storeAck_of hb hawake,
      fun g hk hg => ⟨exec_verdictSignal_of hb hk hawake hg false, exec_verdictSignal_of hb hk hawake hg true⟩,
      exec_bushelDone_of hb hawake⟩,
    fun s b q r hb hawake hin hr => ⟨_, exec_arrivalLand_of hb hawake hr, ?_, fun c a hc ha hout => ?_, ?_, fun j hj => ?_,
      fun j => ?_, fun a ha => ?_, ?_⟩⟩
  · rw [sramRead_noteHold]
    exact sramRead_sramWrite_same s b r.sram r.len r.data
  · rw [sramRead_noteHold]
    exact sramRead_sramWrite_out s r.data (by omega) ha hout
  · rw [bsh_noteHold, bsh_setBsh, fetchLanded]
  · rw [bsh_noteHold, bsh_setBsh_ne _ _ hj]
    rfl
  · exact (noteHold_moves _ _).islands j
  · exact noteHold_words _ _ a (by simpa using ha)
  · rw [(noteHold_moves _ _).rest]
    rfl

/-! ### Replay -/

theorem exec_replayRequest_of {s : State} {b e k no : Nat} {tile : DTile} (hb : b < 1024) (he : e < 2) (hk : k < 1024)
    (hawake : awake s = true) (hrecomp : (stk s k).recomp = true) (hrounds : inRounds s (b / 32) = true)
    (hisl : b / 32 = k / 32) (htile : (stk s k).tile = some tile)
    (hno : (((runsOf tile.runs b).filter fun r => r.1 = e).map (·.2)).min? = some no) (bad : Bool) : let y := bsh s b
    exec (.replayRequest b e ⟨k, bad⟩) s = .next (
      if bad then failEvent s (b / 32) 0x28 0
      else if !((eng y e).recs.any fun r => r.no == no) then
        secondEvent (checkEvent (bshFault s b 5 e (eng y e).pc 0) (b / 32)) k
      else bump (setBsh s b { y with
          rpl := (replayRuns y e no).foldl (fun q p => setAt q p.1 (q.getD p.1 [] ++ [p.2])) y.rpl })
        Reg.ISL_BSH_REPLAY (b / 32) 1) := by
  have hunit : (decide (b < 1024) && decide (e < 2) && decide (k < 1024)) = true := by simp [hb, he, hk]
  have hgo : ¬(!(stk s k).recomp || !inRounds s (b / 32) || decide (b / 32 ≠ k / 32)) = true := by
    simp [hrecomp, hrounds, ← hisl]
  show replayAsked b e k bad s = _
  rw [replayAsked, onUnit_live hunit hawake]
  simp only [htile]
  rw [if_neg hgo, hno]
  rfl

/-- Settles O16: with the record of the first run that fed the stake still kept, every run from it on is queued again. -/
theorem bushelReplay : Obligations.BushelReplay := by
  unfold Obligations.BushelReplay
  intro s b e k no tile hb he hk hawake hrecomp hrounds hisl htile hno y
  have hexec := exec_replayRequest_of hb he hk hawake hrecomp hrounds hisl htile hno
  refine ⟨fun hkept => ?_, fun hlost => ?_, hexec true⟩
  · have hany : ((eng (bsh s b) e).recs.any fun r => r.no == no) = true := by simpa using hkept
    refine ⟨_, (hexec false).trans (congrArg Host.Outcome.next ((if_neg Bool.false_ne_true).trans (if_neg (by simp [hany])))), ?_, ?_, ?_⟩
    · rw [bsh_bump, bsh_setBsh]
    · exact rd_bump_same (setBsh s b _) _ _ 1 (fits_of_le (by decide))
    · exact (bushelFrame_setBsh s b _ _).trans (bushelFrame_bump _ b _ _ 1)
  · have hany : ((eng (bsh s b) e).recs.any fun r => r.no == no) = false := by simpa using hlost
    exact (hexec false).trans (congrArg Host.Outcome.next ((if_neg Bool.false_ne_true).trans (if_pos (by simp [hany]))))

end Sys2Proof.Machine

/-! A beat on a switch link (R112, R116, R123 to R130, R137, R144, R145, R149). -/

namespace Sys2Proof.Machine

section LinkBeats

variable {s : State} {n pos out slot code row : Nat} {fl : List Nat}

/-- The units LINK_BEAT names, and the island whose switch acts, running its rounds (R126). -/
structure LinkReady (s : State) (n pos out slot : Nat) : Prop where
  unit : (decide (n < 32) && decide (pos < 64) && decide (out < 8) && decide (slot < 16)) = true
  awake : awake s = true
  rounds : inRounds s n = true
  len : slot ≤ rd s Reg.ISL_FAB_SLOT_LEN n

theorem exec_linkBeat_unrouted (h : LinkReady s n pos out slot)
    (hcode : bits (slotRow s (64 * n + pos) slot).toNat (4 * out) 4 = 0 ∨
      8 < bits (slotRow s (64 * n + pos) slot).toNat (4 * out) 4) :
    exec (.linkBeat n pos out slot fl) s = .next s := by
  show execLinkBeat n pos out slot fl s = _
  rw [execLinkBeat, onUnit_live h.unit h.awake]
  exact congrArg Host.Outcome.next (if_pos (hcode.imp_right .inl))

section Routed

variable (h : LinkReady s n pos out slot) (hrow : row = (slotRow s (64 * n + pos) slot).toNat)
  (hcode : code = bits row (4 * out) 4) (hlo : 1 ≤ code) (hhi : code ≤ 8)
include h hrow hcode hlo hhi

theorem exec_linkBeat_replay {x : Beat} (hx : offerReplay (portMake s n pos code true) n pos code slot row = some x) :
    let s1 := portMake s n pos code true
    exec (.linkBeat n pos out slot fl) s = .next (switchBeat (consumeReplay s1 n pos code x slot) n pos code row
      ((slot + 1) % (rd s1 Reg.ISL_FAB_SLOT_LEN n + 1)) (outsOf row code) (flipBeat x fl)) := by
  have hgo : ¬(code = 0 ∨ code > 8 ∨ !inRounds s n ∨ slot > rd s Reg.ISL_FAB_SLOT_LEN n) := by
    simp [h.rounds]; have := h.len; omega
  show execLinkBeat n pos out slot fl s = _
  rw [execLinkBeat, onUnit_live h.unit h.awake]
  dsimp only
  rw [← hrow, ← hcode, if_neg hgo, hx]

theorem exec_linkBeat_slot (hx : offerReplay (portMake s n pos code true) n pos code slot row = none) :
    let s2 := slotsGo 16 (portMake s n pos code true) n
    let s3 := portMake s2 n pos code false
    rd s2 Reg.ISL_FAB_SLOT_SLOT n = slot → (sw s2 (64 * n + pos)).done.contains out = false →
    (sw s2 (64 * n + pos)).blk = [] → mayRun s2 n (actor s2 n pos code row) = true →
    mayRun s3 n (actor s3 n pos code row) = true →
    (isStakePos (pos / 8) (pos % 8) = false → 5 ≤ code →
      (bsh s3 (32 * n + localOf (pos / 8) (pos % 8))).frz.getD 2 0 = 0) →
    exec (.linkBeat n pos out slot fl) s = .next (slotsGo 16 (linkBeat s3 n pos code row fl) n) := by
  intro s2 s3 hslot hdone hblk hrun2 hrun3 hfrz
  have hgo : ¬(code = 0 ∨ code > 8 ∨ !inRounds s n ∨ slot > rd s Reg.ISL_FAB_SLOT_LEN n) := by
    simp [h.rounds]; have := h.len; omega
  have hturn : ¬(rd s2 Reg.ISL_FAB_SLOT_SLOT n ≠ slot ∨ (sw s2 (64 * n + pos)).done.contains out ∨
      !(sw s2 (64 * n + pos)).blk.isEmpty ∨ !mayRun s2 n (actor s2 n pos code row)) := by
    rw [hslot, hdone, hblk, hrun2]; simp
  have hfree : ¬(!mayRun s3 n (actor s3 n pos code row) ∨ (!isStakePos (pos / 8) (pos % 8) ∧ code ≥ 5 ∧
      (bsh s3 (32 * n + localOf (pos / 8) (pos % 8))).frz.getD 2 0 ≠ 0)) := by
    rw [hrun3]; simpa using hfrz
  show execLinkBeat n pos out slot fl s = _
  rw [execLinkBeat, onUnit_live h.unit h.awake]
  dsimp only
  rw [← hrow, ← hcode, if_neg hgo, hx]
  dsimp only
  rw [if_neg hturn, if_neg hfree]

end Routed

/-! ### The present slot's token -/

theorem linkBeat_none (h : offer s n pos code row = .none_) : linkBeat s n pos code row fl =
    setSw s (64 * n + pos) { sw s (64 * n + pos) with done := (sw s (64 * n + pos)).done ++ outsOf row code } := by
  rw [linkBeat, h]

theorem linkBeat_dry (h : offer s n pos code row = .dry) :
    linkBeat s n pos code row fl = swBlock s (64 * n + pos) 1 (code - 1) := by
  rw [linkBeat, h]

theorem linkBeat_stuck {x : Beat} {k : Stuck} (h : offer s n pos code row = .beat x)
    (hk : ((outsOf row code).findSome? fun o => stuckAt s n pos o (flipBeat x fl)) = some k) :
    linkBeat s n pos code row fl = stuckFreeze s n pos k := by
  simp only [linkBeat, h, hk]

theorem linkBeat_sent {x : Beat} (h : offer s n pos code row = .beat x)
    (hk : ((outsOf row code).findSome? fun o => stuckAt s n pos o (flipBeat x fl)) = none) :
    let t := consume s n pos code row
    let u := setSw t (64 * n + pos) { sw t (64 * n + pos) with done := (sw t (64 * n + pos)).done ++ outsOf row code }
    linkBeat s n pos code row fl = switchBeat u n pos code row (cycleOf u n + 1) (outsOf row code) (flipBeat x fl) := by
  simp only [linkBeat, h, hk]

/-! ### A switched beat -/

theorem switchBeat_misrouted {due o : Nat} {outs : List Nat} {x : Beat}
    (h : outs.find? (fun o => x.tag ≠ rowTag row o && cpOk x) = some o) :
    switchBeat s n pos code row due outs x = routeFault s n pos code (rowTag row o) x := by
  simp only [switchBeat, h]

/-- What the check of an input makes of a beat does not depend on the state. -/
theorem checkBeat_beat (s t : State) (n pos code : Nat) (x : Beat) :
    (checkBeat s n pos code x).2 = (checkBeat t n pos code x).2 := by
  unfold checkBeat
  split <;> rfl

theorem switchBeat_routed {due : Nat} {outs : List Nat} {x : Beat}
    (h : outs.find? (fun o => x.tag ≠ rowTag row o && cpOk x) = none) : switchBeat s n pos code row due outs x =
      outs.foldl (fun s o => sendOut s n pos o due (checkBeat s n pos code x).2) (checkBeat s n pos code x).1 := by
  rw [switchBeat, h]
  simp only [checkBeat_beat _ s]

theorem sendOut_neighbour {d due r c : Nat} {x : Beat} (hd : d < 4) (hstep : stepPos (pos / 8) (pos % 8) d = some (r, c)) :
    let z := 64 * n + 8 * r + c
    sendOut s n pos d due x = setSw s z { sw s z with
      inl := setAt (sw s z).inl (opposite d) ((sw s z).inl.getD (opposite d) [] ++ [(due, x)]) } := by
  simp only [sendOut, if_pos hd, hstep]

end LinkBeats

/-- Settles O17: the slot's row says what goes where, by the token its input offers. -/
theorem linkBeat_holds : Obligations.LinkBeat := by
  unfold Obligations.LinkBeat
  refine ⟨?_, fun s n pos code row due outs x =>
    ⟨fun o => switchBeat_misrouted, switchBeat_routed, fun d r c => sendOut_neighbour⟩⟩
  intro s n pos out slot flips hn hpos hout hslot hawake hrounds hlen z row code outs s1 s2 s3 done
  have ready : LinkReady s n pos out slot := ⟨by simp [hn, hpos, hout, hslot], hawake, hrounds, hlen⟩
  refine ⟨exec_linkBeat_unrouted ready, fun x hlo hhi => exec_linkBeat_replay ready rfl rfl hlo hhi, ?_⟩
  intro hlo hhi hrep hnow hundone hclear hmay2 hmay3 hfrz
  have hexec := exec_linkBeat_slot (fl := flips) ready rfl rfl hlo hhi hrep hnow hundone hclear hmay2 hmay3 hfrz
  have through {t : State} (ht : linkBeat s3 n pos code row flips = t) :
      exec (.linkBeat n pos out slot flips) s = .next (slotsGo 16 t n) := hexec.trans (by rw [← ht])
  exact ⟨fun h => through (linkBeat_none h), fun h => through (linkBeat_dry h),
    fun x0 k h hk => through (linkBeat_stuck h hk), fun x0 h hk => through (linkBeat_sent h hk)⟩

end Sys2Proof.Machine

/-! Crossings between islands and the holds they carry (R133, R135, R138, R140). -/

namespace Sys2Proof.Machine

section Crossings

variable {s : State} {n pos d stage m : Nat}

/-- The side of a link an event of a crossing names (R131, R135). -/
structure XingReady (s : State) (n pos d stage : Nat) : Prop where
  unit : (decide (n < 32) && decide (pos < 64) && decide (d < 4) && decide (stage < 3)) = true
  awake : awake s = true

theorem exec_crossingDeliver_of {b : Beat} {rest : List Beat} (h : XingReady s n pos d stage)
    (hm : nextIsl n d = some m) (hb : (xing s (xingKey n pos d stage)).flight = b :: rest) :
    let key := xingKey n pos d stage
    let x := xing s key
    exec (.crossingDeliver n pos ⟨d, stage⟩) s = .next (
      if stage = 2 then swClear (setXing s key { x with flight := rest, avail := x.avail ++ [b] }) (64 * n + pos) 1 d
      else if (xing s (key + 1)).fullSeen then s
      else crossWrite (setXing s key { x with flight := rest }) m n (key + 1) pos d (stage + 1) b) := by
  show crossDeliver n pos d stage s = _
  rw [crossDeliver, onUnit_live h.unit h.awake]
  simp only [hb, hm, Option.getD_some]

theorem exec_fullChange_of (h : XingReady s n pos d stage) (hm : nextIsl n d = some m) :
    let key := xingKey n pos d stage
    let x := xing s key
    let full := decide (24 ≤ x.flight.length + x.avail.length)
    let t := setXing s key { x with fullSeen := full }
    exec (.fullChange n pos ⟨d, stage⟩) s = .next (if full = false ∧ stage = firstStage m n
      then swClear t (64 * m + acrossPos pos d) 2 (opposite d) else t) := by
  show crossFull n pos d stage s = _
  rw [crossFull, onUnit_live h.unit h.awake]
  simp only [hm, Bool.and_eq_true, Bool.not_eq_true', decide_eq_true_eq]
  rfl

theorem exec_holdReceive_of {c : Nat} (hn : n < 32) (hd : d < 4) (hawake : awake s = true) (hm : nextIsl n d = some m)
    (hc : (isl s n).holdX.getD d none = some c) : exec (.holdReceive n d) s = .next (noteHold (noteHold (setIsl s n
      { isl s n with holdIn := setAt (isl s n).holdIn d c, holdX := setAt (isl s n).holdX d none }) n) m) := by
  have hunit : (decide (n < 32) && decide (d < 4)) = true := by simp [hn, hd]
  show execHoldReceive n d s = _
  rw [execHoldReceive, onUnit_live hunit hawake]
  simp only [hc, hm]

end Crossings

/-- Two islands note their holds: only hold causes on their way and the two `FAB_HOLD` words change. -/
theorem isl_still_noteHold (s : State) (n j : Nat) : (isl (noteHold s n) j).still = (isl s j).still :=
  (noteHold_moves s n).islands j

/-- Settles O18: each event moves the head of its crossing, or its hold cause, as its stage says. -/
theorem crossingEvents : Obligations.CrossingEvents := by
  unfold Obligations.CrossingEvents
  intro s n pos d stage m hn hpos hd hstage hawake hm key x
  have ready : XingReady s n pos d stage := ⟨by simp [hn, hpos, hd, hstage], hawake⟩
  refine ⟨fun b rest hb => ?_, exec_fullChange_of ready hm, fun c hne hc =>
    ⟨_, exec_holdReceive_of hn hd hawake hm hc, ?_, fun j hj => ?_, fun a ha => ?_, ?_⟩⟩
  · have hexec := exec_crossingDeliver_of ready hm hb
    exact ⟨fun h => hexec.trans (congrArg Host.Outcome.next (if_pos h)),
      fun h hfull => hexec.trans (congrArg Host.Outcome.next ((if_neg h).trans (if_neg (by simp [key, hfull])))),
      fun h hfull => hexec.trans (congrArg Host.Outcome.next ((if_neg h).trans (if_pos hfull)))⟩
  · rw [isl_still_noteHold, isl_still_noteHold, isl_setIsl]
    rfl
  · rw [isl_still_noteHold, isl_still_noteHold, isl_setIsl_ne _ _ hj]
  · rw [noteHold_words _ _ _ (by simp_all), noteHold_words _ _ _ (by simp_all)]
    rfl
  · rw [(noteHold_moves _ _).rest, (noteHold_moves _ _).rest]
    rfl

end Sys2Proof.Machine

/-! Rounds, skips, deadlocks and the end of an island (R126, R142, R143, R150, R165 to R169). -/

namespace Sys2Proof.Machine

/-! ### What an island at a round's boundary leaves -/

/-- An island of `n` put and its holds noted: other words than its `FAB_HOLD` are as before. -/
theorem rw_noteHold_setIsl (s : State) (n : Nat) (x : Island) {a : Nat} (ha : a ≠ holdWord n) :
    rw (noteHold (setIsl s n x) n) a = rw s a :=
  noteHold_words _ _ _ ha

theorem rest_noteHold_setIsl (s : State) (n : Nat) (x : Island) : let t := noteHold (setIsl s n x) n
    t = { s with regs := t.regs, fab := { s.fab with isl := t.fab.isl } } :=
  (noteHold_moves (setIsl s n x) n).rest

/-- Holds noted leave the rounds an island counts. -/
theorem rounds_noteHold (s : State) (n j : Nat) : (isl (noteHold s n) j).rounds = (isl s j).rounds := by
  have h := congrArg Island.rounds ((noteHold_moves s n).islands j)
  exact h

theorem rounds_noteHold_setIsl (s : State) (n : Nat) (x : Island) :
    (isl (noteHold (setIsl s n x) n) n).rounds = x.rounds := by
  rw [rounds_noteHold, isl_setIsl]

theorem atBoundary_words (s : State) (n : Nat) {a : Nat} (ha : a ≠ holdWord n) : rw (atBoundary s n) a = rw s a := by
  unfold atBoundary
  dsimp only
  split
  · exact rw_noteHold_setIsl s n _ ha
  · split
    · exact rw_noteHold_setIsl s n _ ha
    · split
      · exact rw_noteHold_setIsl s n _ ha
      · rfl

theorem atBoundary_rounds (s : State) (n : Nat) : (isl (atBoundary s n) n).rounds = (isl s n).rounds := by
  unfold atBoundary
  dsimp only
  split
  · exact rounds_noteHold_setIsl s n _
  · split
    · exact rounds_noteHold_setIsl s n _
    · split
      · exact rounds_noteHold_setIsl s n _
      · rfl

theorem atBoundary_rest (s : State) (n : Nat) :
    atBoundary s n = { s with regs := (atBoundary s n).regs, fab := { s.fab with isl := (atBoundary s n).fab.isl } } := by
  unfold atBoundary
  dsimp only
  split
  · exact rest_noteHold_setIsl s n _
  · split
    · exact rest_noteHold_setIsl s n _
    · split
      · exact rest_noteHold_setIsl s n _
      · rfl

theorem dutySkip_words (s : State) (n : Nat) {a : Nat} (ha : a ≠ holdWord n) : rw (dutySkip s n) a = rw s a := by
  unfold dutySkip
  dsimp only
  split
  · rfl
  · split
    · exact noteHold_words _ _ _ ha
    · rfl

theorem dutySkip_rounds (s : State) (n : Nat) : (isl (dutySkip s n) n).rounds = (isl s n).rounds := by
  unfold dutySkip
  dsimp only
  split
  · rfl
  · split
    · exact rounds_noteHold_setIsl _ n _
    · rfl

theorem rd_of_rw {s t : State} {f : Fld} {i : Nat} (h : rw t (f.addr i) = rw s (f.addr i)) : rd t f i = rd s f i := by
  rw [rd, h]
  rfl

theorem rd_dutySkip_atBoundary (s : State) (n : Nat) (f : Fld) (h : f.addr n ≠ holdWord n) :
    rd (dutySkip (atBoundary s n) n) f n = rd s f n :=
  rd_of_rw ((dutySkip_words _ n h).trans (atBoundary_words s n h))

/-! ### A round that is over -/

/-- Switches made ready for the next slot leave the registers. -/
theorem clearSlot_regs (s : State) (n : Nat) : (clearSlot s n).regs = s.regs := by
  unfold clearSlot eachOf
  generalize s.fab.sw.map (·.1) = l
  induction l generalizing s with
  | nil => rfl
  | cons z l ih =>
    refine (ih _).trans ?_
    dsimp only
    split <;> rfl

theorem rd_clearSlot (s : State) (n : Nat) (f : Fld) (i : Nat) : rd (clearSlot s n) f i = rd s f i := by
  rw [rd, rw, clearSlot_regs]
  rfl

theorem isl_clearSlot (s : State) (n j : Nat) : isl (clearSlot s n) j = isl s j := by
  unfold clearSlot eachOf
  generalize s.fab.sw.map (·.1) = l
  induction l generalizing s with
  | nil => rfl
  | cons z l ih =>
    refine (ih _).trans ?_
    dsimp only
    split <;> rfl

theorem wvRnd_ne_slot (n : Nat) : Reg.ISL_WV_RND.addr n ≠ Reg.ISL_FAB_SLOT_SLOT.addr n := by
  simp only [Fld.addr, Reg.ISL_WV_RND, Reg.ISL_FAB_SLOT_SLOT]
  omega

theorem wvRnd_ne_extra (n : Nat) : Reg.ISL_WV_RND.addr n ≠ Reg.ISL_WV_EXTRA.addr n := by
  simp only [Fld.addr, Reg.ISL_WV_RND, Reg.ISL_WV_EXTRA]
  omega

theorem roundOver_wvRnd (s : State) (n : Nat) (v : Invoc) :
    rd (roundOver s n v) Reg.ISL_WV_RND n = min (rd s Reg.ISL_WV_RND n + 1) (2 ^ 32 - 1) := by
  have hextra : rd (if (isl s n).rounds ≥ v.rounds then bump s Reg.ISL_WV_EXTRA n 1 else s) Reg.ISL_WV_RND n =
      rd s Reg.ISL_WV_RND n := by
    split
    · exact rd_bump_apart _ _ _ _ _ 1 (.inl (wvRnd_ne_extra n))
    · rfl
  refine (rd_bump_same _ Reg.ISL_WV_RND n 1 (fits_of_le (by decide))).trans ?_
  rw [rd_wr_ne _ _ _ _ _ _ (wvRnd_ne_slot n), rd_clearSlot, hextra]
  rfl

theorem roundOver_slot (s : State) (n : Nat) (v : Invoc) : rd (roundOver s n v) Reg.ISL_FAB_SLOT_SLOT n = 0 := by
  refine (rd_bump_apart _ Reg.ISL_WV_RND Reg.ISL_FAB_SLOT_SLOT n n 1 (.inl (wvRnd_ne_slot n).symm)).trans ?_
  exact rd_wr_same _ _ _ 0 (fits_of_le (by decide))

theorem roundOver_rounds (s : State) (n : Nat) (v : Invoc) :
    (isl (roundOver s n v) n).rounds = (isl s n).rounds + 1 := by
  unfold roundOver
  dsimp only
  rw [isl_setIsl, isl_bump, isl_wr, isl_clearSlot]
  split <;> rfl

/-! ### The commands -/

section Rounds

variable {s : State} {n : Nat} {w : Weave} {v : Invoc}

theorem exec_roundEnd_of (hn : n < 32) (hawake : awake s = true) (hrun : runOf s n = some (w, v))
    (hmay : mayRun s n .none_ = true) : let s1 := slotsGo 16 s n
    mayRun s1 n .none_ = true → roundServed s1 n = true → (isl s1 n).rounds + 1 < v.rounds →
    (w.bubble = true → (isl s1 n).rounds + 1 < w.rndMax) →
    exec (.roundEnd n) s = .next (dutySkip (atBoundary (roundOver s1 n v) n) n) := by
  intro s1 hmay1 hserved hshort hmax
  have hbubble : ¬(w.bubble && decide ((isl (roundOver s1 n v) n).rounds ≥ w.rndMax)) = true := by
    simpa [roundOver_rounds] using hmax
  show execRoundEnd n s = _
  rw [execRoundEnd, onUnit_live (decide_eq_true hn) hawake, hrun]
  dsimp only
  rw [if_pos hmay, if_neg (by simp [s1, hmay1, hserved]), if_neg (by simp [s1] at hshort; simp; omega), if_neg hbubble]

theorem exec_skipEnd_of (hn : n < 32) (hawake : awake s = true) (hskip : (isl s n).skipping ≠ 0) :
    exec (.skipEnd n) s = .next (atBoundary (noteHold (setIsl
      (bump s Reg.ISL_FRZ_SKIP n ((isl s n).skipping * (rd s Reg.ISL_FAB_SLOT_LEN n + 1))) n
      { isl s n with skipping := 0 }) n) n) := by
  show execSkipEnd n s = _
  rw [execSkipEnd, onUnit_live (decide_eq_true hn) hawake]
  exact congrArg Host.Outcome.next (if_neg hskip)

theorem exec_lastRound_of (hn : n < 32) (hawake : awake s = true) (hrun : runOf s n = some (w, v))
    (hmay : mayRun s n .none_ = true) : let s1 := slotsGo 16 s n
    mayRun s1 n .none_ = true → v.rounds ≤ (isl s1 n).rounds + 1 → (w.bubble = true → shortUnit s1 n = none) →
    (v.rounds ≠ 0 → roundServed s1 n = true) →
    let s2 := if v.rounds = 0 then s1 else roundOver s1 n v
    let s3 := setIsl s2 n { isl s2 n with lastRound := true }
    exec (.lastRound n) s = .next (if w.bubble && decide ((isl s3 n).rounds ≥ w.rndMax) then rndMaxFault s3 n
      else match shortUnit s3 n with
        | some pos => stopIsl (runFault s3 (bindOf s3 n) 0x24 (isl s3 n).wrel pos 0) n 0x24 0
        | none => s3) := by
  intro s1 hmay1 hlast hbubble hserved s2 s3
  show execLastRound n s = _
  rw [execLastRound, onUnit_live (decide_eq_true hn) hawake, hrun]
  dsimp only
  have hgo : ¬(!mayRun s1 n .none_ || decide ((isl s1 n).rounds + 1 < v.rounds)) = true := by simp [hmay1]; omega
  have hunits : ¬(w.bubble && (shortUnit s1 n).isSome) = true := by
    cases hw : w.bubble <;> simp_all
  have hslots : ¬(decide (v.rounds ≠ 0) && !roundServed s1 n) = true := by simpa using hserved
  rw [if_pos hmay, if_neg hgo, if_neg hunits, if_neg hslots] <;> rfl

end Rounds

section Ends

variable {s : State} {n pos tail ns : Nat} {w : Weave} {v : Invoc}

theorem exec_deadlockLimit_of (hn : n < 32) (hpos : pos < 64) (hawake : awake s = true)
    (hdead : rd s Reg.ISL_FAB_FRZ_LIMIT n ≤ (isl s n).dead) (hcode : (codeAt s n pos).1 ≠ 0) :
    let s1 := fabFault (setIsl s n { isl s n with dead := 0 }) n pos 5 0 (codeAt s n pos).1 (oneIf (codeAt s n pos).2) 0
    exec (.deadlockLimit n pos) s = .next (if inRounds s1 n = true then stopIsl s1 n 0x2B 0 else s1) := by
  have hunit : (decide (n < 32) && decide (pos < 64)) = true := by simp [hn, hpos]
  show execDeadlockLimit n pos s = _
  rw [execDeadlockLimit, onUnit_live hunit hawake]
  exact congrArg Host.Outcome.next (if_neg (by simp [hdead, hcode]))

theorem exec_islandDone_of (hn : n < 32) (hawake : awake s = true) (hrun : runOf s n = some (w, v))
    (hlast : (isl s n).lastRound = true) (hdone : (isl s n).done = false) (hstop : (isl s n).stopped = false)
    (hidle : ∀ x < 32, bushelIdle (bsh s (32 * n + x)) = true) :
    let s1 := wr s Reg.ISL_WV_TAIL n (min tail (2 ^ 32 - 1))
    let s2 := setIsl (islNs s1 n (ns - rd s1 Reg.ISL_WV_TIME_NS n)) n { isl s n with done := true }
    let v1 := { v with done := v.done ++ [(isl s n).wrel] }
    let s3 := setInv s2 (bindOf s2 n) (isl s n).newWeave (some v1)
    exec (.islandDone n tail ns) s = .next (
      if v1.done.length = w.nisl then endInvoc s3 (bindOf s2 n) (isl s n).newWeave 0 0 else s3) := by
  have hgo : ¬(!(isl s n).lastRound || (isl s n).done || (isl s n).stopped ||
      !((List.range 32).all fun x => bushelIdle (bsh s (32 * n + x)))) = true := by
    simpa [hlast, hdone, hstop] using hidle
  show execIslandDone n tail ns s = _
  rw [execIslandDone, onUnit_live (decide_eq_true hn) hawake, hrun]
  exact congrArg Host.Outcome.next (if_neg hgo)

end Ends

theorem skip_ne_hold (n : Nat) : Reg.ISL_FRZ_SKIP.addr n ≠ holdWord n := by
  simp only [holdWord, Fld.addr, Reg.ISL_FRZ_SKIP, Reg.ISL_FAB_HOLD_OWN]
  omega

/-- Settles O19: rounds and skips are counted at their boundary, the last round judges the units, and the last island
done ends the invocation. -/
theorem roundsAndEnds : Obligations.RoundsAndEnds := by
  unfold Obligations.RoundsAndEnds
  refine ⟨?_, fun s n pos tail ns hn hpos hawake => ⟨exec_deadlockLimit_of hn hpos hawake,
    fun w v hrun hlast hdone hstop hidle => exec_islandDone_of hn hawake hrun hlast hdone hstop hidle⟩⟩
  intro s n hn hawake s1
  refine ⟨fun w v hrun hmay hmay1 hserved hshort hmax => ?_, fun hskip => ?_, ?_⟩
  · refine ⟨_, exec_roundEnd_of hn hawake hrun hmay hmay1 hserved hshort hmax, ?_, ?_, ?_, rfl⟩
    · rw [rd_dutySkip_atBoundary _ _ _ (by simp only [holdWord, Fld.addr, Reg.ISL_WV_RND, Reg.ISL_FAB_HOLD_OWN]; omega)]
      exact roundOver_wvRnd _ n v
    · rw [rd_dutySkip_atBoundary _ _ _
        (by simp only [holdWord, Fld.addr, Reg.ISL_FAB_SLOT_SLOT, Reg.ISL_FAB_HOLD_OWN]; omega)]
      exact roundOver_slot _ n v
    · rw [dutySkip_rounds, atBoundary_rounds]
      exact roundOver_rounds _ n v
  · refine ⟨_, exec_skipEnd_of hn hawake hskip, ?_, fun a ha => ?_, ?_⟩
    · rw [rd_of_rw ((atBoundary_words _ n (skip_ne_hold n)).trans (noteHold_words _ n _ (skip_ne_hold n)))]
      exact rd_bump_same s _ n _ (fits_of_le (by decide))
    · obtain ⟨hskipWord, hhold⟩ : a ≠ Reg.ISL_FRZ_SKIP.addr n ∧ a ≠ holdWord n := by simpa using ha
      rw [atBoundary_words _ _ hhold, noteHold_words _ _ _ hhold]
      exact rw_wr_ne _ _ _ _ _ hskipWord
    · rw [atBoundary_rest, (noteHold_moves _ _).rest]
      rfl
  · intro w v hrun hmay hmay1 hlast hbubble hserved s2 s3
    have hexec := exec_lastRound_of hn hawake hrun hmay hmay1 hlast hbubble hserved
    have on (h : w.bubble = true → (isl s3 n).rounds < w.rndMax) :
        ¬(w.bubble && decide ((isl s3 n).rounds ≥ w.rndMax)) = true := by simpa using h
    refine ⟨fun hw hmax => ?_, fun hmax hunit => ?_, fun pos hmax hunit => ?_⟩
    · exact hexec.trans (congrArg Host.Outcome.next (if_pos (by simp only [hw, Bool.true_and]; exact decide_eq_true hmax)))
    · refine hexec.trans (congrArg Host.Outcome.next ((if_neg (on hmax)).trans ?_))
      rw [hunit]
    · refine hexec.trans (congrArg Host.Outcome.next ((if_neg (on hmax)).trans ?_))
      rw [hunit]

end Sys2Proof.Machine

/-! Commands in flight: what a change of one leaves, and how one ends (R242, R249, R253). -/

namespace Sys2Proof.Machine

/-! ### What an update leaves: registers, bindings, commands in flight -/

theorem rd_of_regs {s t : State} (h : t.regs = s.regs) (g : Fld) (j : Nat) : rd t g j = rd s g j := by
  rw [rd, rw, h]
  rfl

/-- Fields of one stride at different first addresses keep their values. -/
theorem rd_wr_stride (s : State) {f g : Fld} (i v : Nat) (hs : g.stride = f.stride) (h0 : g.addr0 ≠ f.addr0) :
    rd (wr s f i v) g i = rd s g i :=
  rd_wr_ne s f g i i v (by simp only [Fld.addr, hs]; omega)

theorem rd_wr_bits (s : State) {f g : Fld} (i j v : Nat) (hg : g.lo + g.w ≤ 32)
    (d : g.lo + g.w ≤ f.lo ∨ f.lo + f.w ≤ g.lo) : rd (wr s f i v) g j = rd s g j :=
  rd_wr_disjoint s f g i j v (fits_of_le hg) d

theorem rd_wr_self (s : State) {f : Fld} (i v : Nat) (h : f.lo + f.w ≤ 32) : rd (wr s f i v) f i = v % 2 ^ f.w :=
  rd_wr_same s f i v (fits_of_le h)

@[simp] theorem rd_modCmd (s : State) (a b : Nat) (f : Cmd → Cmd) (g : Fld) (j : Nat) : rd (modCmd s a b f) g j = rd s g j := rfl
@[simp] theorem rd_finish (s : State) (a b c d : Nat) (g : Fld) (j : Nat) : rd (finish s a b c d) g j = rd s g j := rfl
@[simp] theorem rd_setBind (s : State) (k : Nat) (x : Binding) (g : Fld) (j : Nat) : rd (setBind s k x) g j = rd s g j := rfl
@[simp] theorem rd_setIsl (s : State) (k : Nat) (x : Island) (g : Fld) (j : Nat) : rd (setIsl s k x) g j = rd s g j := rfl
@[simp] theorem rd_setMem (s : State) (m : Memory) (g : Fld) (j : Nat) : rd (setMem s m) g j = rd s g j := rfl
@[simp] theorem rd_setPow (s : State) (p : Power) (g : Fld) (j : Nat) : rd (setPow s p) g j = rd s g j := rfl
@[simp] theorem rd_fresh (s : State) (g : Fld) (j : Nat) : rd (fresh s) g j = rd s g j := rfl
@[simp] theorem rd_emit (s : State) (m : OutMsg) (g : Fld) (j : Nat) : rd (emit s m) g j = rd s g j := rfl

@[simp] theorem rw_modCmd (s : State) (a b : Nat) (f : Cmd → Cmd) (j : Nat) : rw (modCmd s a b f) j = rw s j := rfl
@[simp] theorem rw_finish (s : State) (a b c d : Nat) (j : Nat) : rw (finish s a b c d) j = rw s j := rfl
@[simp] theorem rw_setBind (s : State) (k : Nat) (x : Binding) (j : Nat) : rw (setBind s k x) j = rw s j := rfl
@[simp] theorem rw_setIsl (s : State) (k : Nat) (x : Island) (j : Nat) : rw (setIsl s k x) j = rw s j := rfl
@[simp] theorem rw_setMem (s : State) (m : Memory) (j : Nat) : rw (setMem s m) j = rw s j := rfl
@[simp] theorem rw_setPow (s : State) (p : Power) (j : Nat) : rw (setPow s p) j = rw s j := rfl
@[simp] theorem rw_fresh (s : State) (j : Nat) : rw (fresh s) j = rw s j := rfl
@[simp] theorem rw_emit (s : State) (m : OutMsg) (j : Nat) : rw (emit s m) j = rw s j := rfl

@[simp] theorem bind_wr (s : State) (f : Fld) (i v : Nat) (j : Nat) : bind (wr s f i v) j = bind s j := rfl
@[simp] theorem bind_wr2 (s : State) (lo hi : Fld) (i v : Nat) (j : Nat) : bind (wr2 s lo hi i v) j = bind s j := rfl
@[simp] theorem bind_bump (s : State) (f : Fld) (i n : Nat) (j : Nat) : bind (bump s f i n) j = bind s j := rfl
@[simp] theorem bind_bump2 (s : State) (lo hi : Fld) (i n : Nat) (j : Nat) : bind (bump2 s lo hi i n) j = bind s j := rfl
@[simp] theorem bind_modCmd (s : State) (a b : Nat) (f : Cmd → Cmd) (j : Nat) : bind (modCmd s a b f) j = bind s j := rfl
@[simp] theorem bind_finish (s : State) (a b c d : Nat) (j : Nat) : bind (finish s a b c d) j = bind s j := rfl
@[simp] theorem bind_setIsl (s : State) (k : Nat) (x : Island) (j : Nat) : bind (setIsl s k x) j = bind s j := rfl
@[simp] theorem bind_setMem (s : State) (m : Memory) (j : Nat) : bind (setMem s m) j = bind s j := rfl
@[simp] theorem bind_setPow (s : State) (p : Power) (j : Nat) : bind (setPow s p) j = bind s j := rfl
@[simp] theorem bind_fresh (s : State) (j : Nat) : bind (fresh s) j = bind s j := rfl
@[simp] theorem bind_emit (s : State) (m : OutMsg) (j : Nat) : bind (emit s m) j = bind s j := rfl

@[simp] theorem getCmd_wr (s : State) (f : Fld) (i v : Nat) (q e : Nat) : getCmd (wr s f i v) q e = getCmd s q e := rfl
@[simp] theorem getCmd_wr2 (s : State) (lo hi : Fld) (i v : Nat) (q e : Nat) : getCmd (wr2 s lo hi i v) q e = getCmd s q e := rfl
@[simp] theorem getCmd_bump (s : State) (f : Fld) (i n : Nat) (q e : Nat) : getCmd (bump s f i n) q e = getCmd s q e := rfl
@[simp] theorem getCmd_bump2 (s : State) (lo hi : Fld) (i n : Nat) (q e : Nat) : getCmd (bump2 s lo hi i n) q e = getCmd s q e := rfl
@[simp] theorem getCmd_setBind (s : State) (k : Nat) (x : Binding) (q e : Nat) : getCmd (setBind s k x) q e = getCmd s q e := rfl
@[simp] theorem getCmd_setIsl (s : State) (k : Nat) (x : Island) (q e : Nat) : getCmd (setIsl s k x) q e = getCmd s q e := rfl
@[simp] theorem getCmd_setMem (s : State) (m : Memory) (q e : Nat) : getCmd (setMem s m) q e = getCmd s q e := rfl
@[simp] theorem getCmd_setPow (s : State) (p : Power) (q e : Nat) : getCmd (setPow s p) q e = getCmd s q e := rfl
@[simp] theorem getCmd_fresh (s : State) (q e : Nat) : getCmd (fresh s) q e = getCmd s q e := rfl
@[simp] theorem getCmd_emit (s : State) (m : OutMsg) (q e : Nat) : getCmd (emit s m) q e = getCmd s q e := rfl

section InFlight

variable {s t : State} {r i op : Nat} {c : Cmd}

theorem getCmd_congr (h : t.front.inflight = s.front.inflight) (r i : Nat) : getCmd t r i = getCmd s r i := by
  rw [getCmd, h]
  rfl

/-- A change that leaves a command's ring and index is what is then read of it. -/
theorem getCmd_modCmd {f : Cmd → Cmd} (hf : ∀ c, (f c).ring = c.ring ∧ (f c).idx = c.idx) (s : State) (r i a e : Nat) :
    getCmd (modCmd s r i f) a e = (getCmd s a e).map fun c => if c.ring = r ∧ c.idx = i then f c else c := by
  have hids : ∀ c : Cmd, (if c.ring = r ∧ c.idx = i then f c else c).ring = c.ring ∧
      (if c.ring = r ∧ c.idx = i then f c else c).idx = c.idx := fun c => by
    split
    · exact hf c
    · exact ⟨rfl, rfl⟩
  rw [getCmd, modCmd]
  dsimp only
  rw [List.find?_map]
  congr 2
  funext c
  simp only [Function.comp_apply, hids]

theorem getCmd_modCmd_same {f : Cmd → Cmd} (hf : ∀ c, (f c).ring = c.ring ∧ (f c).idx = c.idx)
    (h : getCmd s r i = some c) : getCmd (modCmd s r i f) r i = some (f c) := by
  rw [getCmd_modCmd hf, h, Option.map_some, if_pos (getCmd_ids h)]

theorem getCmd_modCmd_ne {f : Cmd → Cmd} (hf : ∀ c, (f c).ring = c.ring ∧ (f c).idx = c.idx) {a e : Nat}
    (h : ¬(a = r ∧ e = i)) : getCmd (modCmd s r i f) a e = getCmd s a e := by
  rw [getCmd_modCmd hf]
  cases hc : getCmd s a e with
  | none => rfl
  | some c =>
    obtain ⟨rfl, rfl⟩ := getCmd_ids hc
    rw [Option.map_some, if_neg h]

theorem getCmd_finish (h : getCmd s r i = some c) (status sub : Nat) :
    getCmd (finish s r i status sub) r i = some { c with finished := true, status := status, sub := sub } :=
  getCmd_modCmd_same (fun _ => ⟨rfl, rfl⟩) h

theorem ends_finish (h : getCmd s r i = some c) (status sub : Nat) : Ends (finish s r i status sub) r i status sub :=
  ⟨_, getCmd_finish h status sub, rfl, rfl, rfl⟩

@[simp] theorem getCmd_claimed (s : State) (r i a e : Nat) (c : Cmd) : getCmd (claimed c r i s) a e = getCmd s a e := rfl
@[simp] theorem rw_claimed (s : State) (r i a : Nat) (c : Cmd) : rw (claimed c r i s) a = rw s a := rfl
@[simp] theorem rd_claimed (s : State) (r i j : Nat) (f : Fld) (c : Cmd) : rd (claimed c r i s) f j = rd s f j := rfl
@[simp] theorem bind_claimed (s : State) (r i j : Nat) (c : Cmd) : bind (claimed c r i s) j = bind s j := rfl
@[simp] theorem bind_takeCmd (s : State) (c : Cmd) (j : Nat) : bind (takeCmd s c) j = bind s j := by
  rw [bind, takeCmd_wve]
  rfl

theorem claimed_congr {u v : State} (h : v = u) (r i : Nat) (c : Cmd) :
    (.next (claimed c r i v) : Out) = .next (claimed c r i u) := by rw [h]

theorem noteStarted_inflight (s : State) (r i : Nat) : (noteStarted s r i).front.inflight = s.front.inflight := by
  unfold noteStarted
  split
  · split <;> rfl
  · rfl

/-- The command as the table holds it once its engine has taken it. -/
theorem Turn.getTaken (h : Turn s r i op c) :
    getCmd (takeCmd s c) r i = some (if c.taken then c else going c) := by
  obtain ⟨hr, hi⟩ := h.ids
  unfold takeCmd
  split
  · exact h.get
  · rw [← hr, ← hi] at h ⊢
    refine (getCmd_congr (noteStarted_inflight _ _ _) _ _).trans ?_
    exact getCmd_modCmd_same (fun _ => ⟨rfl, rfl⟩) h.get

/-- A command that its engine ends at once. -/
theorem Turn.ends (h : Turn s r i op c) (status sub : Nat) :
    Ends (claimed c r i (finish (takeCmd s c) r i status sub)) r i status sub ∧
      WordsKept s (claimed c r i (finish (takeCmd s c) r i status sub)) [] :=
  ⟨ends_finish h.getTaken status sub, fun a _ => rw_takeCmd s c a⟩

end InFlight

end Sys2Proof.Machine

/-! LOAD, REPLACE, RELOCATE and UNLOAD (R158, R160, R161, R170, R172 to R175, R231, R244). -/

namespace Sys2Proof.Machine

/-! ### LOAD of an EMPTY binding -/

section Load

variable {s u : State} {c : Cmd} {p a bd : Nat} {w : Weave} {im : Img}

theorem readOnce_wait (harv : c.arv = 0) (h : readImage s p a c.ring c.idx = .wait u) : readOnce s p a c = .wait u := by
  rw [readOnce, if_neg (not_not.2 harv), h]

theorem readOnce_held (harv : c.arv = 0) (h : readImage s p a c.ring c.idx = .held u) : readOnce s p a c = .held u := by
  rw [readOnce, if_neg (not_not.2 harv), h]

theorem readOnce_go (harv : c.arv = 0) (h : readImage s p a c.ring c.idx = .go u) :
    readOnce s p a c = .go (modCmd u c.ring c.idx fun d => { d with arv := 1 }) := by
  rw [readOnce, if_neg (not_not.2 harv), h]

/-- The binding named by a LOAD: LOADING for the partition, its load the command's. -/
def loadNamed (s : State) (c : Cmd) : State :=
  modCmd (setBind (wr (setState s c.bd 1) Reg.WVE_BIND_PART c.bd (partOf c.ring)) c.bd
    { bind s c.bd with loading := some (c.ring, c.idx) }) c.ring c.idx fun d => { d with bind := some c.bd }

/-- The rest of a LOAD by what the read of its image gives, none of its islands chosen yet. -/
def loadRead (c : Cmd) : Gate → State
  | .wait u => u
  | .held u => setAside u c.ring c.idx
  | .go u => loadGo u c c.bd

/-- A LOAD's first turn at an EMPTY binding. -/
structure LoadFirst (s : State) (c : Cmd) : Prop where
  turn : Turn s c.ring c.idx 0x10 c
  empty : rd (takeCmd s c) Reg.WVE_BIND_STATE c.bd = 0
  noWeave : (bind (takeCmd s c) c.bd).cur = none
  unplaced : c.landed = []

theorem exec_load_first {g : Gate} (h : LoadFirst s c)
    (hg : readOnce (loadNamed (takeCmd s c) c) (partOf c.ring) (c.fld 0x10 8) (going c) = g) :
    exec (.load c.ring c.idx) s = .next (claimed c c.ring c.idx (loadRead (going c) g)) := by
  have hmine : ¬(((decide ((bind (takeCmd s c) c.bd).loading = some (c.ring, c.idx)) &&
      (bind (takeCmd s c) c.bd).op.isNone) = true) ∧ (bind (takeCmd s c) c.bd).cur.isSome = true) := by
    rw [h.noWeave]; simp
  have hland : (going c).landed.isEmpty = true := by rw [show (going c).landed = [] from h.unplaced]; rfl
  show execLoad c.ring c.idx s = _
  rw [execLoad, onCmd_turn h.turn]
  refine claimed_congr ?_ c.ring c.idx c
  refine (if_neg fun e => e.1 h.empty).trans ((if_neg fun e => by cases h.empty.symm.trans e).trans
    ((if_neg fun e => e.1 h.empty).trans ((if_neg hmine).trans ?_)))
  show (match readOnce (loadNamed (takeCmd s c) c) (partOf c.ring) (c.fld 0x10 8) (going c) with
    | .wait s => s
    | .held s => setAside s c.ring c.idx
    | .go s => _) = _
  rw [hg]
  cases g with
  | wait u => rfl
  | held u => rfl
  | go u => exact if_pos hland

theorem loadGo_refused {f : LoadFail}
    (hf : checkImage s (imgAt s (partOf c.ring) (c.fld 0x10 8)) (parseWeave (imgAt s (partOf c.ring) (c.fld 0x10 8)) (partOf c.ring)
      (c.fld 0x10 8) (bit (c.fld 0x19 1) 0)) 0 = some f) :
    loadGo s c bd = loadFails (loadFault (fresh s) bd f) c bd f.code := by
  rw [loadGo, hf]

section Checked

variable (him : im = imgAt s (partOf c.ring) (c.fld 0x10 8))
  (hw : w = parseWeave im (partOf c.ring) (c.fld 0x10 8) (bit (c.fld 0x19 1) 0)) (hok : checkImage s im w 0 = none)
include him hw hok

theorem loadGo_placed {pl : List Nat} (hpl : placeLoad im w c.only 32 s = (u, .inl pl)) :
    loadGo s c bd = loadPlaced (takeT1 u w) c bd im w pl := by
  subst hw him
  rw [loadGo, hok, hpl]

theorem loadGo_noPlace {f : LoadFail} (hpl : placeLoad im w c.only 32 s = (u, .inr f)) (hurgent : c.urgent = false) :
    loadGo s c bd = loadFails (loadFault (fresh u) bd f) c bd f.code := by
  subst hw him
  rw [loadGo, hok, hpl]
  simp only [hurgent, Bool.false_eq_true, if_false]

end Checked

end Load

/-! ### REPLACE -/

section Replace

variable {s u : State} {c : Cmd}

/-- A command that changes its binding's weave at a binding that takes it: its own partition's, neither EMPTY nor NOPLACE,
no such command under way. -/
structure Takes (s : State) (c : Cmd) : Prop where
  empty : rd (takeCmd s c) Reg.WVE_BIND_STATE c.bd ≠ 0
  noPlace : rd (takeCmd s c) Reg.WVE_BIND_STATE c.bd ≠ 6
  part : rd (takeCmd s c) Reg.WVE_BIND_PART c.bd = partOf c.ring
  idle : (bind (takeCmd s c) c.bd).op = none

theorem Takes.ite_body {α : Type} (h : Takes s c) (x y z w : α) :
    (if rd (takeCmd s c) Reg.WVE_BIND_STATE c.bd ≠ 0 ∧ rd (takeCmd s c) Reg.WVE_BIND_PART c.bd ≠ partOf c.ring then x
      else if rd (takeCmd s c) Reg.WVE_BIND_STATE c.bd = 0 ∨ rd (takeCmd s c) Reg.WVE_BIND_STATE c.bd = 6 then y
      else if (bind (takeCmd s c) c.bd).op.isSome = true then z else w) = w := by
  rw [if_neg fun e => e.2 h.part, if_neg fun e => e.elim h.empty h.noPlace, if_neg (by rw [h.idle]; simp)]

/-- The checks and placement of a REPLACE, its image read. -/
def replaceGo (s0 s : State) (c : Cmd) : State :=
  let carry := bit (c.fld 0x19 1) 2
  let cur := (bind s0 c.bd).cur
  let im := imgAt s (partOf c.ring) (c.fld 0x10 8)
  let w := parseWeave im (partOf c.ring) (c.fld 0x10 8) ((cur.map Weave.hot).getD false)
  let bad (f : LoadFail) := finish (loadFault (fresh s) c.bd f) c.ring c.idx f.code 0
  match checkImage s im w (if carry then 0 else (cur.map t1Of).getD 0) with
  | some f => bad f
  | none => match replacePlace s im w ((cur.map Weave.place).getD []) carry c.only with
    | .inr f => bad f
    | .inl pl =>
      let w := { w with place := pl }
      let s := wr (setState s c.bd 4) Reg.WVE_BIND_GEN c.bd ((rd s Reg.WVE_BIND_GEN c.bd + 1) % 2 ^ 32)
      let s := wr (wr s Reg.WVE_BIND_PLACE_NEW c.bd (placeMask pl)) Reg.WVE_BIND_CARRY c.bd (oneIf carry)
      let s := modCmd s c.ring c.idx fun d => { d with bind := some c.bd }
      if carry then
        let t := takeT1 (putWeave s im w c.bd 0 true pl) w
        fresh (setBind t c.bd { bind t c.bd with
          new := some w, op := some (.carry, c.ring, c.idx), loading := some (c.ring, c.idx), since := t.now })
      else fresh (setBind s c.bd { bind s c.bd with new := some w, op := some (.drain, c.ring, c.idx) })

/-- A REPLACE by what the read of its image gives. -/
def replaceRead (s0 : State) (c : Cmd) : Gate → State
  | .wait u => u
  | .held u => setAside u c.ring c.idx
  | .go u => replaceGo s0 u c

theorem exec_replace_takes {g : Gate} (h : Turn s c.ring c.idx 0x12 c) (ht : Takes s c)
    (hg : readImage (takeCmd s c) (partOf c.ring) (c.fld 0x10 8) c.ring c.idx = g) :
    exec (.replace c.ring c.idx) s = .next (claimed c c.ring c.idx (replaceRead (takeCmd s c) c g)) := by
  show execReplace c.ring c.idx s = _
  rw [execReplace, onCmd_turn h]
  refine claimed_congr ((ht.ite_body _ _ _ _).trans ?_) _ _ _
  show (match readImage (takeCmd s c) (partOf c.ring) (c.fld 0x10 8) c.ring c.idx with
    | .wait s => s
    | .held s => setAside s c.ring c.idx
    | .go s => _) = _
  rw [hg]
  cases g with
  | wait u => rfl
  | held u => rfl
  | go u => rfl

section Checked

variable {t : State} {carry : Bool} {cur : Option Weave} {im : Img} {w : Weave} (hcarry : carry = bit (c.fld 0x19 1) 2)
  (hcur : cur = (bind t c.bd).cur) (him : im = imgAt s (partOf c.ring) (c.fld 0x10 8))
  (hw : w = parseWeave im (partOf c.ring) (c.fld 0x10 8) ((cur.map Weave.hot).getD false))
include hcarry hcur him hw

theorem replaceGo_refused {f : LoadFail} (h : checkImage s im w (if carry then 0 else (cur.map t1Of).getD 0) = some f ∨
      (checkImage s im w (if carry then 0 else (cur.map t1Of).getD 0) = none ∧
        replacePlace s im w ((cur.map Weave.place).getD []) carry c.only = .inr f)) :
    replaceGo t s c = finish (loadFault (fresh s) c.bd f) c.ring c.idx f.code 0 := by
  subst hw him hcur hcarry
  rcases h with h | ⟨h, hf⟩
  · rw [replaceGo, h]
  · rw [replaceGo, h, hf]

theorem replaceGo_placed {pl : List Nat} (h : checkImage s im w (if carry then 0 else (cur.map t1Of).getD 0) = none)
    (hf : replacePlace s im w ((cur.map Weave.place).getD []) carry c.only = .inl pl) :
    let w1 := { w with place := pl }
    let u1 := wr (setState s c.bd 4) Reg.WVE_BIND_GEN c.bd ((rd s Reg.WVE_BIND_GEN c.bd + 1) % 2 ^ 32)
    let u2 := wr (wr u1 Reg.WVE_BIND_PLACE_NEW c.bd (placeMask pl)) Reg.WVE_BIND_CARRY c.bd (oneIf carry)
    let u3 := modCmd u2 c.ring c.idx fun d => { d with bind := some c.bd }
    let u4 := takeT1 (putWeave u3 im w1 c.bd 0 true pl) w1
    replaceGo t s c = fresh (if carry then setBind u4 c.bd { bind u4 c.bd with
        new := some w1, op := some (.carry, c.ring, c.idx), loading := some (c.ring, c.idx), since := u4.now }
      else setBind u3 c.bd { bind u3 c.bd with new := some w1, op := some (.drain, c.ring, c.idx) }) := by
  subst hw him hcur hcarry
  rw [replaceGo, h, hf]
  exact (apply_ite fresh _ _ _).symm

end Checked

end Replace

/-! ### RELOCATE and UNLOAD -/

section Drain

variable {s : State} {c : Cmd} {op : Nat} {k : BindOp}

/-- The binding that starts to drain for command `c`. -/
def drainStarted (s : State) (k : BindOp) (c : Cmd) : State :=
  modCmd (setBind (setState s c.bd 5) c.bd { bind s c.bd with op := some (k, c.ring, c.idx) }) c.ring c.idx
    fun d => { d with bind := some c.bd }

theorem startDrain_takes (h : Turn s c.ring c.idx op c) (ht : Takes s c) :
    startDrain op k c.ring c.idx s = .next (claimed c c.ring c.idx (drainStarted (takeCmd s c) k c)) := by
  rw [startDrain, onCmd_turn h]
  exact claimed_congr (ht.ite_body _ _ _ _) _ _ _

theorem drainStarted_binding (s : State) (k : BindOp) (c : Cmd) : let t := claimed c c.ring c.idx (drainStarted (takeCmd s c) k c)
    rd t Reg.WVE_BIND_STATE c.bd = 5 ∧ bind t c.bd = { bind s c.bd with op := some (k, c.ring, c.idx) } ∧
      WordsKept s t [Reg.WVE_BIND_STATE.addr c.bd] := by
  refine ⟨?_, ?_, fun a ha => ?_⟩
  · exact rd_wr_same (takeCmd s c) Reg.WVE_BIND_STATE c.bd 5 (fits_of_le (by decide))
  · rw [bind_claimed, drainStarted]
    exact (bind_setBind _ _ _).trans (by rw [bind_takeCmd])
  · rw [rw_claimed, ← rw_takeCmd s c a]
    exact rw_wr_ne _ _ _ _ _ (by simpa using ha)

end Drain

/-! ### Whose binding a command may name -/

section Owners

variable {s : State} {r i : Nat} {c : Cmd}

/-- The binding belongs to another partition than the command's ring. -/
def Foreign (s : State) (r : Nat) (c : Cmd) : Prop :=
  rd (takeCmd s c) Reg.WVE_BIND_STATE c.bd ≠ 0 ∧ rd (takeCmd s c) Reg.WVE_BIND_PART c.bd ≠ partOf r

/-- An engine command that ends at once with a status answers so. -/
theorem answers_ends {x : Instr} {op status sub : Nat} (h : Turn s r i op c)
    (hx : exec x s = .next (claimed c r i (finish (takeCmd s c) r i status sub))) :
    Answers x s fun t => Ends t r i status sub ∧ WordsKept s t [] :=
  ⟨_, hx, h.ends status sub⟩

theorem load_foreign (h : Turn s r i 0x10 c) (hf : Foreign s r c) :
    Answers (.load r i) s fun t => Ends t r i 0x36 0 ∧ WordsKept s t [] := by
  refine answers_ends h ?_
  show execLoad r i s = _
  rw [execLoad, onCmd_turn h]
  exact claimed_congr (if_pos hf) r i c

theorem load_noPlace (h : Turn s r i 0x10 c) (hown : rd (takeCmd s c) Reg.WVE_BIND_PART c.bd = partOf r)
    (hst : rd (takeCmd s c) Reg.WVE_BIND_STATE c.bd = 6) :
    Answers (.load r i) s fun t => Ends t r i 0x23 0 ∧ WordsKept s t [] := by
  refine answers_ends h ?_
  show execLoad r i s = _
  rw [execLoad, onCmd_turn h]
  exact claimed_congr ((if_neg fun e => e.2 hown).trans (if_pos hst)) r i c

theorem replace_foreign (h : Turn s r i 0x12 c) (hf : Foreign s r c) :
    Answers (.replace r i) s fun t => Ends t r i 0x36 0 ∧ WordsKept s t [] := by
  refine answers_ends h ?_
  show execReplace r i s = _
  rw [execReplace, onCmd_turn h]
  exact claimed_congr (if_pos hf) r i c

theorem replace_unplaced (h : Turn s r i 0x12 c) (hown : rd (takeCmd s c) Reg.WVE_BIND_PART c.bd = partOf r)
    (hst : rd (takeCmd s c) Reg.WVE_BIND_STATE c.bd = 0 ∨ rd (takeCmd s c) Reg.WVE_BIND_STATE c.bd = 6) :
    Answers (.replace r i) s fun t => Ends t r i 0x23 0 ∧ WordsKept s t [] := by
  refine answers_ends h ?_
  show execReplace r i s = _
  rw [execReplace, onCmd_turn h]
  exact claimed_congr ((if_neg fun e => e.2 hown).trans (if_pos hst)) r i c

section Drains

variable {x : Instr} {op : Nat} {k : BindOp} (hx : exec x s = startDrain op k r i s) (h : Turn s r i op c)
include hx h

theorem drain_foreign (hf : Foreign s r c) : Answers x s fun t => Ends t r i 0x36 0 ∧ WordsKept s t [] := by
  refine answers_ends h ?_
  rw [hx, startDrain, onCmd_turn h]
  exact claimed_congr (if_pos hf) r i c

theorem drain_unplaced (hown : rd (takeCmd s c) Reg.WVE_BIND_PART c.bd = partOf r)
    (hst : rd (takeCmd s c) Reg.WVE_BIND_STATE c.bd = 0 ∨ rd (takeCmd s c) Reg.WVE_BIND_STATE c.bd = 6) :
    Answers x s fun t => Ends t r i 0x23 0 ∧ WordsKept s t [] := by
  refine answers_ends h ?_
  rw [hx, startDrain, onCmd_turn h]
  exact claimed_congr ((if_neg fun e => e.2 hown).trans (if_pos hst)) r i c

end Drains

end Owners

/-- Settles O20: a binding that takes the command loads, replaces or starts to drain as its checks and its placement
allow; another partition's binding, or one without a weave, ends it. -/
theorem weaveControl : Obligations.WeaveControl := by
  unfold Obligations.WeaveControl
  refine ⟨fun s r i c => ⟨?_, ?_, ?_, ?_⟩, fun s r i c => ⟨fun h => ⟨load_foreign h, load_noPlace h⟩,
    fun h => ⟨replace_foreign h, replace_unplaced h⟩, fun h => ⟨drain_foreign rfl h, drain_unplaced rfl h⟩,
    fun h => ⟨drain_foreign rfl h, drain_unplaced rfl h⟩⟩⟩
  · intro h hst hland harv hcur
    obtain ⟨rfl, rfl⟩ := h.ids
    have first : LoadFirst s c := ⟨h, hst, hcur, hland⟩
    refine ⟨fun u hu => exec_load_first first (readOnce_wait harv hu),
      fun u hu => exec_load_first first (readOnce_held harv hu), fun u hu => ?_⟩
    have hexec := exec_load_first first (readOnce_go harv hu)
    exact ⟨fun f hf => hexec.trans (claimed_congr (loadGo_refused hf) _ _ _),
      fun u2 pl hok hpl => hexec.trans (claimed_congr (loadGo_placed rfl rfl hok hpl) _ _ _),
      fun u2 f hok hpl hurgent => hexec.trans (claimed_congr (loadGo_noPlace rfl rfl hok hpl hurgent) _ _ _)⟩
  · intro u h h0 h6 hpart hop hread
    obtain ⟨rfl, rfl⟩ := h.ids
    have hexec := exec_replace_takes h ⟨h0, h6, hpart, hop⟩ hread
    exact ⟨fun f hf => hexec.trans (claimed_congr (replaceGo_refused rfl rfl rfl rfl hf) _ _ _),
      fun pl hok hpl => hexec.trans (claimed_congr (replaceGo_placed rfl rfl rfl rfl hok hpl) _ _ _)⟩
  · intro u h h0 h6 hpart hop
    obtain ⟨rfl, rfl⟩ := h.ids
    exact ⟨exec_replace_takes h ⟨h0, h6, hpart, hop⟩, exec_replace_takes h ⟨h0, h6, hpart, hop⟩⟩
  · intro h0 h6 hpart hop
    refine ⟨fun h => ?_, fun h => ?_⟩
    · obtain ⟨rfl, rfl⟩ := h.ids
      exact ⟨_, startDrain_takes h ⟨h0, h6, hpart, hop⟩, drainStarted_binding s _ c⟩
    · obtain ⟨rfl, rfl⟩ := h.ids
      exact ⟨_, startDrain_takes h ⟨h0, h6, hpart, hop⟩, drainStarted_binding s _ c⟩

end Sys2Proof.Machine

/-! Loads complete; drains, carries and unloads end (R160, R170, R173 to R175, R181, R254). -/

namespace Sys2Proof.Machine

/-! ### Frames of what a weave's islands go through -/

/-- A relation that every step of a list keeps holds from its first state to its last. -/
theorem eachOf_rel {α : Type} {R : State → State → Prop} (hrefl : ∀ s, R s s) (htrans : ∀ s t u, R s t → R t u → R s u)
    {f : State → α → State} (hf : ∀ s a, R s (f s a)) (l : List α) (s : State) : R s (eachOf l s f) := by
  induction l generalizing s with
  | nil => exact hrefl s
  | cons a l ih => exact htrans _ _ _ (hf s a) (ih _)

/-- Nothing but registers and the fabric changed. -/
def OnlyFabric (s t : State) : Prop := t = { s with regs := t.regs, fab := t.fab }

theorem OnlyFabric.refl (s : State) : OnlyFabric s s := rfl

theorem OnlyFabric.trans {s t u : State} (h : OnlyFabric s t) (k : OnlyFabric t u) : OnlyFabric s u := by
  have e : u = { t with regs := u.regs, fab := u.fab } := k
  rw [show t = { s with regs := t.regs, fab := t.fab } from h] at e
  exact e

theorem OnlyFabric.each {α : Type} {f : State → α → State} (hf : ∀ s a, OnlyFabric s (f s a)) (l : List α) (s : State) :
    OnlyFabric s (eachOf l s f) :=
  eachOf_rel .refl (fun _ _ _ => .trans) hf l s

theorem OnlyFabric.binding {s t : State} (h : OnlyFabric s t) (bd : Nat) : bind t bd = bind s bd := by
  rw [show t = { s with regs := t.regs, fab := t.fab } from h]
  rfl

theorem OnlyFabric.inflight {s t : State} (h : OnlyFabric s t) : t.front.inflight = s.front.inflight := by
  rw [show t = { s with regs := t.regs, fab := t.fab } from h]

theorem OnlyFabric.time {s t : State} (h : OnlyFabric s t) : t.now = s.now := by
  rw [show t = { s with regs := t.regs, fab := t.fab } from h]

theorem onlyFabric_wr (s : State) (f : Fld) (i v : Nat) : OnlyFabric s (wr s f i v) := rfl
theorem onlyFabric_setIsl (s : State) (n : Nat) (x : Island) : OnlyFabric s (setIsl s n x) := rfl
theorem onlyFabric_setSw (s : State) (n : Nat) (x : Switch) : OnlyFabric s (setSw s n x) := rfl
theorem onlyFabric_setXing (s : State) (n : Nat) (x : Crossing) : OnlyFabric s (setXing s n x) := rfl
theorem onlyFabric_fab (s : State) (f : Fabric) : OnlyFabric s { s with fab := f } := rfl
theorem onlyFabric_units (s : State) (n : Nat) (x : Stake) (y : Bushel) : OnlyFabric s (setBsh (setStk s n x) n y) := rfl

theorem onlyFabric_clearFabric (s : State) (n : Nat) : OnlyFabric s (clearFabric s n) :=
  .each (fun s _ => (onlyFabric_setSw s _ _).trans (.each (fun s _ => onlyFabric_setXing s _ _) _ _)) _ s

theorem OnlyFabric.wr {s t : State} (h : OnlyFabric s t) (f : Fld) (i v : Nat) : OnlyFabric s (Machine.wr t f i v) :=
  h.trans (onlyFabric_wr t f i v)

theorem onlyFabric_freeIslands (s : State) (place : List Nat) : OnlyFabric s (freeIslands s place) := by
  refine .each (fun s n => ?_) place s
  have units : OnlyFabric s (eachOf (List.range 32) s fun s k =>
      setBsh (setStk s (32 * n + k) Stake.idle) (32 * n + k) Bushel.idle) := .each (fun s k => onlyFabric_units s _ _ _) _ s
  exact ((((((((((((((units.trans (onlyFabric_clearFabric _ n)).trans (onlyFabric_fab _ _)).trans
    (onlyFabric_setIsl _ n _)).wr _ _ _).wr _ _ _).wr _ _ _).wr _ _ _).wr _ _ _).wr _ _ _).wr _ _ _).wr _ _ _).wr _ _ _).wr
    _ _ _).wr _ _ _).wr _ _ _

theorem onlyFabric_dropWeave (s : State) (w : Weave) : OnlyFabric s (dropWeave s w) :=
  (onlyFabric_freeIslands s w.place).wr _ _ _

/-! ### LOAD_COMPLETE -/

section Charges

variable (s : State) (p n since r i : Nat)

theorem bind_chargeSince (bd : Nat) : bind (chargeSince s p n since r i) bd = bind s bd := rfl

theorem chargeIsl_regs (s : State) (p ns : Nat) :
    (chargeIsl s p ns).regs = (bump2 s Reg.CMD_PART_LED_ISL_LO Reg.CMD_PART_LED_ISL_HI p ns).regs := rfl

theorem rd_chargeSince {f : Fld} {j : Nat} (hlo : f.addr j ≠ Reg.CMD_PART_LED_ISL_LO.addr p)
    (hhi : f.addr j ≠ Reg.CMD_PART_LED_ISL_HI.addr p) : rd (chargeSince s p n since r i) f j = rd s f j := by
  rw [chargeSince, rd_modCmd, rd_of_regs (chargeIsl_regs s p _), bump2, rd_wr2_ne _ _ _ _ _ _ _ hlo hhi]

theorem getCmd_chargeSince {c : Cmd} (h : getCmd s r i = some c) : ∃ d, getCmd (chargeSince s p n since r i) r i = some d :=
  ⟨_, getCmd_modCmd_same (s := chargeIsl s p _) (fun _ => ⟨rfl, rfl⟩) h⟩

end Charges

/-- Words of the binding page are none of the ledgers'. -/
theorem rd_chargeSince_bind (s : State) {p bd : Nat} (n since r i : Nat) {f : Fld} (hp : p < 8) (hbd : bd < 32)
    (h0 : 0x2200 ≤ f.addr0) (h1 : f.addr0 ≤ 0x220C) (hs : f.stride = 0x10) :
    rd (chargeSince s p n since r i) f bd = rd s f bd := by
  refine rd_chargeSince s p n since r i ?_ ?_ <;>
  · simp only [Fld.addr, hs, Reg.CMD_PART_LED_ISL_LO, Reg.CMD_PART_LED_ISL_HI]
    omega

/-- Nor are they the image's address. -/
theorem rd_wr2_img {f : Fld} (s : State) {bd : Nat} (v : Nat) (hbd : bd < 32) (h0 : 0x2200 ≤ f.addr0) (h1 : f.addr0 ≤ 0x220C)
    (hs : f.stride = 0x10) : rd (wr2 s Reg.WVE_BIND_IMG_LO Reg.WVE_BIND_IMG_HI bd v) f bd = rd s f bd := by
  refine rd_wr2_ne _ _ _ _ _ _ _ ?_ ?_ <;>
  · simp only [Fld.addr, hs, Reg.WVE_BIND_IMG_LO, Reg.WVE_BIND_IMG_HI]
    omega

/-- A binding whose weave `w` stands configured: READY on its placement, from its image. -/
def bindingReady (s : State) (bd : Nat) (w : Weave) : State :=
  let s := wr (wr (setState s bd 2) Reg.WVE_BIND_VAR bd 0) Reg.WVE_BIND_PLACE bd (placeMask w.place)
  let s := wr (wr s Reg.WVE_BIND_PLACE_NEW bd 0) Reg.WVE_BIND_CARRY bd 0
  let s := wr2 s Reg.WVE_BIND_IMG_LO Reg.WVE_BIND_IMG_HI bd w.img
  setBind s bd { bind s bd with op := none, loading := none, lastUse := s.now }

/-- The load is over: the binding stands ready, the time of the writing is charged and the command done. -/
def loadReady (s : State) (bd : Nat) (w : Weave) (r i : Nat) : State :=
  finish (chargeSince (bindingReady s bd w) w.part w.place.length (bind s bd).since r i) r i 0 0

section LoadComplete

variable {s : State} {bd r i : Nat} {w : Weave}

/-- LOAD_COMPLETE at a binding whose load is the command's. -/
structure LoadOver (s : State) (bd r i : Nat) : Prop where
  unit : decide (bd < 32) = true
  awake : awake s = true
  load : (bind s bd).loading = some (r, i)

theorem exec_loadComplete_load (h : LoadOver s bd r i) (hop : (bind s bd).op = none) (hcur : (bind s bd).cur = some w) :
    exec (.loadComplete bd) s = .next (loadReady (wr s Reg.WVE_BIND_GEN bd 1) bd w r i) := by
  show execLoadComplete bd s = _
  rw [execLoadComplete, onUnit_live h.unit h.awake]
  simp only [h.load, hop, hcur]
  rfl

theorem exec_loadComplete_again {k : BindOp} {x y : Nat} (h : LoadOver s bd r i) (hop : (bind s bd).op = some (k, x, y))
    (hk : k = .drain ∨ k = .relocate) (hcur : (bind s bd).cur = some w) :
    exec (.loadComplete bd) s = .next (loadReady s bd w r i) := by
  show execLoadComplete bd s = _
  rw [execLoadComplete, onUnit_live h.unit h.awake]
  rcases hk with rfl | rfl
  · simp only [h.load, hop, hcur]
    rfl
  · simp only [h.load, hop, hcur]
    rfl

theorem exec_loadComplete_carry {x y : Nat} (h : LoadOver s bd r i) (hop : (bind s bd).op = some (.carry, x, y))
    (hnew : (bind s bd).new = some w) : exec (.loadComplete bd) s = .next (chargeSince
      (setBind s bd { bind s bd with loading := none }) w.part w.place.length (bind s bd).since r i) := by
  show execLoadComplete bd s = _
  rw [execLoadComplete, onUnit_live h.unit h.awake]
  simp only [h.load, hop, hnew]

theorem bind_loadReady (s : State) (bd : Nat) (w : Weave) (r i : Nat) :
    bind (loadReady s bd w r i) bd = { bind s bd with op := none, loading := none, lastUse := s.now } := by
  rw [loadReady, bind_finish, bind_chargeSince, bindingReady]
  dsimp only
  rw [bind_setBind]
  simp only [setState, bind_wr, bind_wr2, wr_now, wr2_now]

/-- What a READY binding's registers read (R180). -/
structure ReadyWords (s t : State) (bd : Nat) (w : Weave) : Prop where
  state : rd t Reg.WVE_BIND_STATE bd = 2
  gen : rd t Reg.WVE_BIND_GEN bd = rd s Reg.WVE_BIND_GEN bd
  var : rd t Reg.WVE_BIND_VAR bd = 0
  place : rd t Reg.WVE_BIND_PLACE bd = placeMask w.place % 2 ^ 32
  carry : rd t Reg.WVE_BIND_CARRY bd = 0

theorem readyWords (s : State) (bd : Nat) (w : Weave) (hbd : bd < 32) : ReadyWords s (bindingReady s bd w) bd w := by
  have himg := fun {f : Fld} (t : State) => rd_wr2_img (f := f) t w.img hbd
  constructor <;>
  · rw [bindingReady, rd_setBind, himg _ (by decide) (by decide) rfl]
    simp (disch := decide) only [setState, rd_wr_stride, rd_wr_bits, rd_wr_self] <;> rfl

theorem readyWords_loadReady (s : State) {bd : Nat} {w : Weave} (r i : Nat) (hbd : bd < 32) (hp : w.part < 8) :
    ReadyWords s (loadReady s bd w r i) bd w := by
  have h := readyWords s bd w hbd
  have hrd {f : Fld} (h0 : 0x2200 ≤ f.addr0) (h1 : f.addr0 ≤ 0x220C) (hs : f.stride = 0x10) :
      rd (loadReady s bd w r i) f bd = rd (bindingReady s bd w) f bd := by
    rw [loadReady, rd_finish, rd_chargeSince_bind _ _ _ _ _ hp hbd h0 h1 hs]
  exact ⟨(hrd (by decide) (by decide) rfl).trans h.state, (hrd (by decide) (by decide) rfl).trans h.gen,
    (hrd (by decide) (by decide) rfl).trans h.var, (hrd (by decide) (by decide) rfl).trans h.place,
    (hrd (by decide) (by decide) rfl).trans h.carry⟩

theorem ends_loadReady {c : Cmd} (hc : getCmd s r i = some c) : Ends (loadReady s bd w r i) r i 0 0 := by
  have hready : getCmd (bindingReady s bd w) r i = some c := by
    simpa only [bindingReady, setState, getCmd_setBind, getCmd_wr, getCmd_wr2] using hc
  obtain ⟨d, hd⟩ := getCmd_chargeSince (bindingReady s bd w) w.part w.place.length (bind s bd).since r i hready
  exact ends_finish hd 0 0

end LoadComplete

/-! ### Drains, carries and unloads end -/

section Drained

variable {s : State} {bd r i : Nat} {w : Weave}

/-- A binding of an awake device whose weave is written. -/
structure Written (s : State) (bd : Nat) : Prop where
  unit : decide (bd < 32) = true
  awake : awake s = true
  load : (bind s bd).loading = none

theorem exec_drainSwitch_of (h : Written s bd) (hop : (bind s bd).op = some (.drain, r, i)) (hnew : (bind s bd).new = some w)
    (hold : oldDone s bd (genBefore (rd s Reg.WVE_BIND_GEN bd)) r i = true) (hheld : isHeld s r i = false) :
    exec (.drainSwitch bd) s = .next (loadStep s bd r i w (some w.place) ((getCmd s r i).bind Cmd.only) false) := by
  show execDrainSwitch bd s = _
  rw [execDrainSwitch, onUnit_live h.unit h.awake, hop, hnew]
  exact congrArg Host.Outcome.next (if_neg (by simp [h.load, hold, hheld]))

theorem exec_relocate_drained (h : Written s bd) (hop : (bind s bd).op = some (.relocate, r, i))
    (hold : oldDone s bd (rd s Reg.WVE_BIND_GEN bd) r i = true) (hheld : isHeld s r i = false)
    (hw : ((bind s bd).cur.orElse fun _ => (bind s bd).new) = some w) :
    exec (.bindingDrained bd) s = .next (loadStep s bd r i w none none true) := by
  show execBindingDrained bd s = _
  rw [execBindingDrained, onUnit_live h.unit h.awake]
  dsimp only
  rw [hop]
  refine congrArg Host.Outcome.next ((if_neg (by simp [h.load, hold, hheld])).trans ?_)
  dsimp only
  rw [hw]

/-- The state once a binding's old weave has given up its islands. -/
def oldDropped (s : State) (bd : Nat) : State :=
  match (bind s bd).cur with
  | some o => dropWeave s o
  | none => s

theorem onlyFabric_oldDropped (s : State) (bd : Nat) : OnlyFabric s (oldDropped s bd) := by
  unfold oldDropped
  split
  · exact onlyFabric_dropWeave s _
  · exact .refl s

theorem exec_unload_drained (h : Written s bd) (hop : (bind s bd).op = some (.unload, r, i))
    (hold : oldDone s bd (rd s Reg.WVE_BIND_GEN bd) r i = true) (hheld : isHeld s r i = false) :
    exec (.bindingDrained bd) s = .next (finish (emptyBinding (oldDropped s bd) bd) r i 0 0) := by
  show execBindingDrained bd s = _
  rw [execBindingDrained, onUnit_live h.unit h.awake]
  dsimp only
  rw [hop]
  exact congrArg Host.Outcome.next (if_neg (by simp [h.load, hold, hheld]))

/-- The binding of a carry takes up the new weave. -/
def carried (s : State) (bd : Nat) (w : Weave) : State :=
  let b := bind s bd
  let s := setBind s bd { b with cur := some w, new := none, inv := b.invNew, invNew := none, op := none, lastUse := s.now }
  eachOf w.place s fun s n => setIsl s n { isl s n with newWeave := false }

/-- Its registers say so. -/
def carriedWords (s : State) (bd : Nat) (w : Weave) (st : Nat) : State :=
  let s := wr (wr s Reg.WVE_BIND_PLACE bd (rd s Reg.WVE_BIND_PLACE_NEW bd)) Reg.WVE_BIND_PLACE_NEW bd 0
  let s := wr (wr s Reg.WVE_BIND_CARRY bd 0) Reg.WVE_BIND_VAR bd w.var
  setState (wr2 s Reg.WVE_BIND_IMG_LO Reg.WVE_BIND_IMG_HI bd w.img) bd st

theorem exec_carryOldUnload_of (h : Written s bd) (hop : (bind s bd).op = some (.carry, r, i))
    (hnew : (bind s bd).new = some w) (hold : oldDone s bd (genBefore (rd s Reg.WVE_BIND_GEN bd)) r i = true) :
    exec (.carryOldUnload bd) s = .next (finish (carriedWords (carried (oldDropped s bd) bd w) bd w
      (if (bind (oldDropped s bd) bd).invNew.isSome then 3 else 2)) r i 0 0) := by
  show execCarryOldUnload bd s = _
  rw [execCarryOldUnload, onUnit_live h.unit h.awake, hop, hnew]
  exact congrArg Host.Outcome.next (if_neg (by simp [h.load, hold]))

theorem bind_carried (s : State) (bd : Nat) (w : Weave) : bind (carried s bd w) bd = { bind s bd with
    cur := some w, new := none, inv := (bind s bd).invNew, invNew := none, op := none, lastUse := s.now } := by
  rw [carried, (OnlyFabric.each (fun s n => onlyFabric_setIsl s n _) _ _).binding, bind_setBind]

theorem bind_carriedWords (s : State) (bd : Nat) (w : Weave) (st j : Nat) :
    bind (carriedWords s bd w st) j = bind s j := by
  rw [carriedWords]
  simp only [setState, bind_wr, bind_wr2]

/-- What the registers of a binding that has taken up its carried weave read (R180). -/
structure CarriedWords (t : State) (bd : Nat) (w : Weave) (st : Nat) : Prop where
  state : rd t Reg.WVE_BIND_STATE bd = st % 2 ^ Reg.WVE_BIND_STATE.w
  place : rd t Reg.WVE_BIND_PLACE_NEW bd = 0
  carry : rd t Reg.WVE_BIND_CARRY bd = 0
  var : rd t Reg.WVE_BIND_VAR bd = w.var % 2 ^ Reg.WVE_BIND_VAR.w

theorem CarriedWords.finish {t : State} {st : Nat} (h : CarriedWords t bd w st) (r i : Nat) :
    CarriedWords (finish t r i 0 0) bd w st :=
  ⟨h.state, h.place, h.carry, h.var⟩

theorem state_ready (x : Option Invoc) :
    (if x.isSome then 3 else 2) % 2 ^ Reg.WVE_BIND_STATE.w = if x.isSome then 3 else 2 := by
  cases x <;> rfl

theorem carriedWords_read (s : State) {bd : Nat} (w : Weave) (st : Nat) (hbd : bd < 32) :
    CarriedWords (carriedWords s bd w st) bd w st := by
  have himg := fun {f : Fld} (t : State) => rd_wr2_img (f := f) t w.img hbd
  constructor
  · rw [carriedWords]
    simp (disch := decide) only [setState, rd_wr_self]
  all_goals
    rw [carriedWords, setState]
    simp (disch := decide) only [himg, rd_wr_stride, rd_wr_bits, rd_wr_self] <;> rfl

end Drained

/-- Settles O21: a load that completes stands READY with its time charged; a drain, carry, unload or relocation ends with
what its kind gives once the old generation is done. -/
theorem weaveCompletion : Obligations.WeaveCompletion := by
  unfold Obligations.WeaveCompletion
  refine ⟨?_, ?_⟩
  · intro s bd r i w hbd hp hawake hload
    have written : LoadOver s bd r i := ⟨decide_eq_true hbd, hawake, hload⟩
    refine ⟨fun hop hcur => ⟨_, exec_loadComplete_load written hop hcur, ?_⟩, fun k x y hop hk hcur =>
      ⟨_, exec_loadComplete_again written hop hk hcur, ?_⟩, fun x y hop hnew => exec_loadComplete_carry written hop hnew⟩
    · have h := readyWords_loadReady (wr s Reg.WVE_BIND_GEN bd 1) r i hbd hp
      have hgen : rd (wr s Reg.WVE_BIND_GEN bd 1) Reg.WVE_BIND_GEN bd = 1 := rd_wr_self s bd 1 (by decide)
      dsimp only
      rw [bind_loadReady, bind_wr, hcur]
      exact ⟨h.state, h.gen.trans hgen, h.var, h.place, h.carry, rfl, rfl, rfl, fun c hc => ends_loadReady hc⟩
    · have h := readyWords_loadReady s r i hbd hp
      dsimp only
      rw [bind_loadReady, hcur]
      exact ⟨h.state, h.gen, h.place, rfl, rfl⟩
  · intro s bd r i w hbd hawake hload b g
    have written : Written s bd := ⟨decide_eq_true hbd, hawake, hload⟩
    refine ⟨exec_drainSwitch_of written, fun hop hnew hold => ⟨_, exec_carryOldUnload_of written hop hnew hold, ?_⟩,
      exec_unload_drained written, exec_relocate_drained written⟩
    have hdrop := onlyFabric_oldDropped s bd
    have hwords := (carriedWords_read (carried (oldDropped s bd) bd w) w (if b.invNew.isSome then 3 else 2) hbd).finish r i
    dsimp only
    rw [bind_finish, bind_carriedWords, bind_carried, hdrop.binding, hdrop.time]
    exact ⟨rfl, hwords.state.trans (state_ready _), hwords.place, hwords.carry, hwords.var⟩

end Sys2Proof.Machine

/-! INVOKE and the release of its islands (R163, R165, R170, R178, R234, R245). -/

namespace Sys2Proof.Machine

/-! ### Nothing to read -/

theorem gates_nil (j s : State) (p : Nat) (write reg : Bool) (h : HeldReq) : gates j s p write reg h [] = .go s := by
  cases write <;> rfl

theorem gateAll_nil (s : State) (p : Nat) (write : Bool) (h : HeldReq) : gateAll s p write h [] = .go s :=
  gates_nil s s p write true h

theorem invOf_setInv (s : State) (bd : Nat) (nw : Bool) (v : Option Invoc) : invOf (setInv s bd nw v) bd nw = v := by
  cases nw
  · exact congrArg Binding.inv (bind_setBind s bd _)
  · exact congrArg Binding.invNew (bind_setBind s bd _)

theorem invOf_congr {s t : State} {bd : Nat} (h : bind t bd = bind s bd) (nw : Bool) : invOf t bd nw = invOf s bd nw := by
  rw [invOf, h]
  rfl

section Invoke

variable {s : State} {r i bd : Nat} {c : Cmd} {nw : Bool} {w : Weave} {v : Variant}

/-- A binding that was READY runs. -/
def nowRunning (s : State) (bd : Nat) : State := if rd s Reg.WVE_BIND_STATE bd = 2 then setState s bd 3 else s

theorem bind_nowRunning (s : State) (bd j : Nat) : bind (nowRunning s bd) j = bind s j := by
  unfold nowRunning
  split <;> rfl

/-- The invocation of a command with a direct N on the first variant (R163). -/
def startedInv (c : Cmd) (n : Nat) (v : Variant) (words : List Nat) : Invoc :=
  ⟨c.ring, c.idx, c.fld 0x14 4, 0, n, c.fld 0x20 4 % 2 ^ 24, c.fld 0x24 4, words, 0, [], false,
    v.pro + n * (v.bfix + v.tiles * v.btile) + v.epi⟩

theorem exists_startedWords (u : State) (bd : Nat) (nw : Bool) (a b : Nat) (f : Cmd → Cmd) (inv : List Nat → Invoc)
    (words : List Nat) :
    ∃ l, invOf (nowRunning (modCmd (setInv u bd nw (some (inv words))) a b f) bd) bd nw = some (inv l) :=
  ⟨words, by rw [invOf_congr (bind_nowRunning _ bd bd), invOf_congr (bind_modCmd _ _ _ _ bd), invOf_setInv]⟩

/-- An invocation of the configured variant, with no words to read, stands ready with its rounds counted. -/
theorem invOf_invokeRun (s : State) (c : Cmd) (bd n : Nat) (hrt : w.rtmode = 0) (hvar : w.var = 0)
    (hv : w.variants[0]? = some v) :
    ∃ words, invOf (invokeRun s c bd nw w n []) bd nw = some (startedInv c n v words) := by
  rw [invokeRun]
  dsimp only
  rw [if_pos hrt, hv]
  dsimp only
  rw [if_pos hvar.symm, List.append_nil, gateAll_nil]
  dsimp only
  have htiles : tilesOf { w with var := 0 } v (c.fld 0x20 4 % 2 ^ 24) = v.tiles :=
    if_neg (by rw [show ({ w with var := 0 } : Weave).rtmode = 0 from hrt]; decide)
  rw [htiles]
  exact exists_startedWords _ bd nw c.ring c.idx _ (startedInv c n v) _

/-- The checks of an INVOKE with a direct N and no words to read. -/
theorem invokeGo_direct (hdirect : bit (c.fld 0x11 1) 0 = false) (hwords : c.fld 0x13 1 = 0) (hrt : w.rtmode = 0)
    (htrip : c.fld 0x18 8 % 2 ^ 24 ≤ w.tripMax) :
    invokeGo s c nw w = invokeRun s c c.bd nw w (c.fld 0x18 8 % 2 ^ 24) [] := by
  rw [invokeGo]
  dsimp only
  rw [hdirect, hwords]
  rw [if_neg Bool.false_ne_true, gates_nil]
  dsimp only
  rw [if_neg Bool.false_ne_true, if_neg (Nat.not_lt.2 htrip), if_neg fun e => e.1 hrt, if_pos rfl, List.append_nil, gates_nil]

theorem latchModel_none (h : bit (c.fld 0x11 1) 1 = false) : latchModel s c = s :=
  if_pos (.inl (by rw [h]; rfl))

/-- An INVOKE's turn, its command not running yet. -/
structure InvokeTurn (s : State) (c : Cmd) : Prop where
  turn : Turn s c.ring c.idx 0x11 c
  waits : runOfCmd (takeCmd s c) c.ring c.idx = none

/-- The model an INVOKE names gives no weights (R234). -/
def Stale (s : State) (c : Cmd) : Prop :=
  bit (c.fld 0x11 1) 1 = true ∧ (model s (partOf c.ring) (c.fld 0x12 1)).cls = 2

theorem exec_invoke_start (h : InvokeTurn s c) (hv : invokeVerdict (takeCmd s c) (going c) = .start nw)
    (hs : ¬Stale (takeCmd s c) c) (hw : weaveOf (latchModel (takeCmd s c) (going c)) c.bd nw = some w) :
    exec (.invoke c.ring c.idx) s =
      .next (claimed c c.ring c.idx (invokeGo (latchModel (takeCmd s c) (going c)) (going c) nw w)) := by
  show execInvoke c.ring c.idx s = _
  rw [execInvoke, onCmd_turn h.turn]
  refine claimed_congr ((if_neg (by rw [h.waits]; simp)).trans ?_) _ _ _
  dsimp only
  rw [hv]
  refine (if_neg hs).trans ?_
  dsimp only
  rw [show weaveOf (latchModel (takeCmd s c) (going c)) (going c).bd nw = some w from hw]

theorem exec_invoke_stale (h : InvokeTurn s c) (hv : invokeVerdict (takeCmd s c) (going c) = .start nw)
    (hs : Stale (takeCmd s c) c) :
    exec (.invoke c.ring c.idx) s = .next (claimed c c.ring c.idx (finish (takeCmd s c) c.ring c.idx 0x56 0)) := by
  show execInvoke c.ring c.idx s = _
  rw [execInvoke, onCmd_turn h.turn]
  refine claimed_congr ((if_neg (by rw [h.waits]; simp)).trans ?_) _ _ _
  dsimp only
  rw [hv]
  exact if_pos hs

theorem exec_invoke_foreign (h : InvokeTurn s c) (hv : invokeVerdict (takeCmd s c) (going c) = .fail 0x36) :
    exec (.invoke c.ring c.idx) s = .next (claimed c c.ring c.idx (finish (takeCmd s c) c.ring c.idx 0x36 0)) := by
  show execInvoke c.ring c.idx s = _
  rw [execInvoke, onCmd_turn h.turn]
  refine claimed_congr ((if_neg (by rw [h.waits]; simp)).trans ?_) _ _ _
  dsimp only
  rw [hv]
  rfl

theorem exec_invoke_fails {code : Nat} (h : InvokeTurn s c) (hv : invokeVerdict (takeCmd s c) (going c) = .fail code)
    (hcode : code ≠ 0x36) (hs : ¬Stale (takeCmd s c) c) :
    exec (.invoke c.ring c.idx) s = .next (claimed c c.ring c.idx (invokeFails (latchModel (takeCmd s c) (going c)) (going c)
      code (if code = 0x22 then c.fld 0x14 4 else 0))) := by
  show execInvoke c.ring c.idx s = _
  rw [execInvoke, onCmd_turn h.turn]
  refine claimed_congr ((if_neg (by rw [h.waits]; simp)).trans ?_) _ _ _
  dsimp only
  rw [hv]
  split
  · next e => cases e
  · next e => cases e; exact absurd rfl hcode
  · exact (if_neg hs).trans rfl

end Invoke

/-! ### ISLAND_RELEASE -/

section Release

variable {s : State} {bd ns n : Nat} {w : Weave} {v : Invoc}

/-- Island `n` of a weave is released: its unit state, its registers, and the stagger where the command is not resumed. -/
def islReleased (s : State) (n ns : Nat) (again : Bool) : State :=
  let s := setIsl s n { isl s n with released := true, stopped := false }
  let s := wr (wr s Reg.ISL_WV_STAT_RUN n 1) Reg.ISL_FAB_SLOT_RUN n 1
  if again then s else wr s Reg.ISL_WV_STAGGER n (min ns (2 ^ 32 - 1))

/-- The command has been resumed after a full yield (R261). -/
def resumed (s : State) (v : Invoc) : Bool :=
  match getCmd s v.ring v.idx with
  | some c => c.yOnce
  | none => false

theorem exec_islandRelease_of (hbd : bd < 32) (hawake : awake s = true) (hw : weaveOf s bd false = some w)
    (hv : invOf s bd false = some v) (hstop : v.stopped = false) (hbusy : yieldBusy s v.ring v.idx = false)
    (hn : w.place[v.released]? = some n) (hbrake : rd s Reg.PWR_STAT_BRAKE 0 = 0) : exec (.islandRelease bd ns) s =
      .next (setInv (islReleased (if v.released = 0 then setFreqs s w.part w.place else s) n ns (resumed s v)) bd false
        (some { v with released := v.released + 1 })) := by
  have hgo : ¬(v.stopped = true ∨ yieldBusy s v.ring v.idx = true) := by simp [hstop, hbusy]
  show execIslandRelease bd ns s = _
  rw [execIslandRelease, onUnit_live (decide_eq_true hbd) hawake]
  dsimp only
  rw [if_neg (by rw [hbrake]; decide), hw, hv]
  dsimp only
  rw [if_neg hgo, hn]
  rfl

theorem isl_setInv (s : State) (bd : Nat) (nw : Bool) (v : Option Invoc) (n : Nat) : isl (setInv s bd nw v) n = isl s n := by
  cases nw <;> rfl

theorem rd_setInv (s : State) (bd : Nat) (nw : Bool) (v : Option Invoc) (f : Fld) (i : Nat) :
    rd (setInv s bd nw v) f i = rd s f i := by
  cases nw <;> rfl

theorem isl_islReleased (s : State) (n ns : Nat) (again : Bool) :
    isl (islReleased s n ns again) n = { isl s n with released := true, stopped := false } := by
  unfold islReleased
  cases again <;> simp

theorem islReleased_run (s : State) (n ns : Nat) (again : Bool) :
    rd (islReleased s n ns again) Reg.ISL_WV_STAT_RUN n = 1 ∧ rd (islReleased s n ns again) Reg.ISL_FAB_SLOT_RUN n = 1 := by
  unfold islReleased
  cases again <;> simp (disch := decide) [rd_wr_stride, rd_wr_self]

theorem islReleased_stagger (s : State) (n ns : Nat) :
    rd (islReleased s n ns false) Reg.ISL_WV_STAGGER n = min ns (2 ^ 32 - 1) := by
  refine (rd_wr_self _ n _ (by decide)).trans (Nat.mod_eq_of_lt ?_)
  show _ < 2 ^ 32
  omega

end Release

theorem bit_of_bits_two {x : Nat} (h : bits x 0 2 = 0) : bit x 0 = false ∧ bit x 1 = false := by
  have h4 : x % 4 = 0 := h
  exact ⟨by simp [bit, Nat.testBit_zero]; omega, by simp [bit, Nat.testBit_succ, Nat.testBit_zero]; omega⟩

/-- Settles O22: an INVOKE its binding takes runs its checks and its configuration, one that needs none of them stands
ready at once; a release marks the next island and counts it. -/
theorem weaveInvoke : Obligations.WeaveInvoke := by
  unfold Obligations.WeaveInvoke
  refine ⟨?_, ?_⟩
  · intro s r i c h
    obtain ⟨rfl, rfl⟩ := h.ids
    intro s1 stale hidle
    have turn : InvokeTurn s c := ⟨h, hidle⟩
    refine ⟨fun nw w hv hs hw => exec_invoke_start turn hv hs hw, fun nw w v hv hw hbits hwords hrt hvar hvariant htrip => ?_,
      fun nw hv hs => answers_ends h (exec_invoke_stale turn hv hs), fun code hv hcode hs => exec_invoke_fails turn hv hcode hs,
      fun hv => answers_ends h (exec_invoke_foreign turn hv)⟩
    obtain ⟨hdirect, hlatch⟩ := bit_of_bits_two hbits
    have hmodel : latchModel (takeCmd s c) (going c) = takeCmd s c := latchModel_none hlatch
    have hexec := exec_invoke_start turn hv (fun e => absurd (hlatch.symm.trans e.1) Bool.false_ne_true)
      (by rw [hmodel]; exact hw)
    rw [hmodel] at hexec
    have hgo : invokeGo (takeCmd s c) (going c) nw w = _ := invokeGo_direct hdirect hwords hrt htrip
    exact ⟨_, hexec.trans (claimed_congr hgo _ _ _), invOf_invokeRun (takeCmd s c) (going c) c.bd (c.fld 0x18 8 % 2 ^ 24) hrt hvar hvariant⟩
  · intro s bd ns n w v hbd hawake hw hv hstop hbusy hn hbrake
    refine ⟨_, exec_islandRelease_of hbd hawake hw hv hstop hbusy hn hbrake, ?_⟩
    generalize (if v.released = 0 then setFreqs s w.part w.place else s) = u
    obtain ⟨hrun, hslot⟩ := islReleased_run u n ns (resumed s v)
    rw [isl_setInv, isl_islReleased, rd_setInv, rd_setInv, hrun, hslot, invOf_setInv]
    refine ⟨rfl, rfl, rfl, rfl, rfl, fun c hc honce => ?_⟩
    have hagain : resumed s v = false := by rw [resumed, hc]; exact honce
    rw [rd_setInv, hagain, islReleased_stagger]

end Sys2Proof.Machine

/-! Boundary yields, resumes and abandons (R203, R257, R260 to R262). -/

namespace Sys2Proof.Machine

/-! ### Boundary yields -/

section Boundary

variable {s : State} {r i : Nat} {c : Cmd}

theorem exec_yieldBoundary_turn (h : Turn s r i 0x15 c) (hmode : yieldMode s r i = 1) : exec (.yieldBoundary r i) s =
    .next (claimed c r i (if (boundRings c).any fun q => partOf q ≠ partOf r then finish (takeCmd s c) r i 0x36 0
      else eachOf ((boundRings c).filter (· ≠ r)) (finish (takeCmd s c) r i 0 0) boundaryYield)) := by
  show execYieldBoundary r i s = _
  rw [execYieldBoundary, if_neg (not_not.2 hmode), onCmd_turn h]
  rfl

theorem exec_resumeBoundary_turn (h : Turn s r i 0x16 c) (hmode : yieldMode s r i = 1) : exec (.resumeBoundary r i) s =
    .next (claimed c r i (if (boundRings c).any fun q => partOf q ≠ partOf r then finish (takeCmd s c) r i 0x36 0
      else finish (eachOf (boundRings c) (takeCmd s c) boundaryResume) r i 0 0)) := by
  show execResumeBoundary r i s = _
  rw [execResumeBoundary, if_neg (not_not.2 hmode), onCmd_turn h]
  rfl

end Boundary

/-- Settles O23: a boundary YIELD or RESUME goes over its rings where they are the partition's, and ends with 0x36
where one is not. -/
theorem boundaryYield_holds : Obligations.BoundaryYield := by
  unfold Obligations.BoundaryYield
  intro s r i c s1 hmode
  refine ⟨fun hown => ?_, fun hforeign => ?_⟩
  · have hall : ¬((boundRings c).any fun q => partOf q ≠ partOf r) = true := by simpa using hown
    exact ⟨fun h => (exec_yieldBoundary_turn h hmode).trans (claimed_congr (if_neg hall) r i c),
      fun h => (exec_resumeBoundary_turn h hmode).trans (claimed_congr (if_neg hall) r i c)⟩
  · have hany : ((boundRings c).any fun q => partOf q ≠ partOf r) = true := by simpa using hforeign
    exact ⟨fun h => answers_ends h ((exec_yieldBoundary_turn h hmode).trans (claimed_congr (if_pos hany) r i c)),
      fun h => answers_ends h ((exec_resumeBoundary_turn h hmode).trans (claimed_congr (if_pos hany) r i c))⟩

/-! ### Full resumes -/

section Resume

variable {s u : State} {r i : Nat} {c d : Cmd} {y : Saved}

theorem exec_resumeFull_turn (h : Turn s r i 0x16 c) (hmode : yieldMode s r i = 0) :
    exec (.resumeFull r i) s = .next (claimed c r i (resumeGo (takeCmd s c) (going c))) := by
  show execResumeFull r i s = _
  rw [execResumeFull, if_neg (not_not.2 hmode), onCmd_turn h]

theorem exec_resumeProceed_turn (h : Turn s r i 0x16 c) (htaken : c.taken = true) (hmode : c.fld 0x10 1 = 0) :
    exec (.resumeProceed r i) s = .next (resumeGo s c) := by
  have hunit : (ringOk r && decide (i < 2 ^ 32)) = true := by rw [h.ring, decide_eq_true h.idx]; rfl
  show execResumeProceed r i s = _
  rw [execResumeProceed, onUnit_live hunit h.awake, h.at_]
  exact congrArg Host.Outcome.next (if_pos (by simp [htaken, hmode]))

/-- The target of a full RESUME may be restored: yielded by its own partition, its records ended, its generation accepted,
its image read (R261). -/
structure Resumable (s : State) (c d : Cmd) (y : Saved) (u : State) : Prop where
  fresh : (s.wve.restores.any fun z => z.ring == c.ring && z.idx == c.idx) = false
  part : partOf c.target.1 = partOf c.ring
  cmd : getCmd s c.target.1 c.target.2 = some d
  saved : savedOf s c.target.1 c.target.2 = some y
  yielded : d.st = .yielded
  running : d.finished = false
  records : recordsOut s c.target.1 c.target.2 = false
  gen : accepts s y.bind y.inv.gen = true
  read : readOnce s (partOf c.ring) y.weave.img c = .go u

/-- The placement of a RESUME whose image is read. -/
def resumeRead (c : Cmd) (y : Saved) (u : State) : State :=
  let im := imgAt u (partOf c.ring) y.weave.img
  if !c.landed.isEmpty then (if c.landed.all fun k => (isl u k).bind.isNone then startRestore u c im y c.landed else u)
  else match resumePlace u im y c.only with
  | some pl => startRestore u c im y pl
  | none =>
    if c.urgent then
      match urgentPlace u c im y.weave c.only (sameClass y.weave.shape y.oldPlace) with
      | (t, true) => t
      | (t, false) =>
        if (candPlaces u y.weave ((yieldable u (partOf c.ring)).flatMap fun v => v.2.2) c.only).any fun l =>
            sameClass y.weave.shape y.oldPlace l && (phaseC im y.weave l).isNone
        then finish (loadFault t y.bind (noCandidate t y.weave [])) c.ring c.idx 0x10 0 else u
    else u

theorem resumeGo_resumable (h : Resumable s c d y u) : resumeGo s c = resumeRead c y u := by
  rw [resumeGo]
  dsimp only
  rw [if_neg (by rw [h.fresh]; exact Bool.false_ne_true), if_neg (not_not.2 h.part), h.cmd, h.saved]
  dsimp only
  rw [if_neg (by simp [h.yielded, h.running]), if_neg (by simp [h.records, h.gen]), h.read]
  rfl

theorem resumeRead_placed {pl : List Nat} (hland : c.landed = [])
    (hpl : resumePlace u (imgAt u (partOf c.ring) y.weave.img) y c.only = some pl) :
    resumeRead c y u = startRestore u c (imgAt u (partOf c.ring) y.weave.img) y pl := by
  rw [resumeRead]
  rw [if_neg (by rw [hland]; decide), hpl]

theorem resumeRead_waits (hland : c.landed = [])
    (hpl : resumePlace u (imgAt u (partOf c.ring) y.weave.img) y c.only = none) (hurgent : c.urgent = false) :
    resumeRead c y u = u := by
  rw [resumeRead]
  rw [if_neg (by rw [hland]; decide), hpl]
  exact if_neg (by rw [hurgent]; exact Bool.false_ne_true)

theorem resumeRead_freed (hland : c.landed ≠ []) (hfree : ∀ k ∈ c.landed, (isl u k).bind = none) :
    resumeRead c y u = startRestore u c (imgAt u (partOf c.ring) y.weave.img) y c.landed := by
  rw [resumeRead]
  rw [if_pos (by simpa using hland), if_pos (by simpa using hfree)]

theorem resumeGo_foreign (hnew : s.wve.restores = []) (hp : partOf c.target.1 ≠ partOf c.ring) :
    resumeGo s c = finish s c.ring c.idx 0x36 0 := by
  rw [resumeGo]
  dsimp only
  rw [if_neg (by rw [hnew]; exact Bool.false_ne_true), if_pos hp]

theorem resumeGo_notYielded (hnew : s.wve.restores = []) (hp : partOf c.target.1 = partOf c.ring)
    (hd : getCmd s c.target.1 c.target.2 = some d) (hst : d.st ≠ .yielded ∨ d.finished = true) :
    resumeGo s c = finish s c.ring c.idx 0x34 0 := by
  rw [resumeGo]
  dsimp only
  rw [if_neg (by rw [hnew]; exact Bool.false_ne_true), if_neg (not_not.2 hp), hd]
  cases savedOf s c.target.1 c.target.2 with
  | none => rfl
  | some y => exact if_pos hst

end Resume

/-! ### Restores and abandons -/

section Restore

variable {s : State} {r i : Nat} {bad : Bool} {x : Restoring} {y : Saved}

/-- A restore that is done leaves the list of those under way. -/
def unlisted (s : State) (r i : Nat) : State :=
  { s with wve := { s.wve with restores := s.wve.restores.filter fun z => !(z.ring == r && z.idx == i) } }

/-- The save area of a restore is good: its commit word stands and no detection error met its records (R203, R260). -/
def areaGood (s : State) (p : Nat) (bad : Bool) (y : Saved) : Bool :=
  !(bad || memRead s p (y.area + 65532) 4 != 0x59415645)

theorem areaGood_iff {p : Nat} :
    areaGood s p bad y = true ↔ ¬(bad = true ∨ memRead s p (y.area + 65532) 4 ≠ 0x59415645) := by
  simp [areaGood]

/-- The restored invocation runs again from its release. -/
def rerun (s : State) (r i : Nat) : State :=
  match runOfCmd s r i with
  | some (bd, nw, _, v) => setInv s bd nw (some { v with released := 0, stopped := false })
  | none => s

/-- The units of a save area restored and both commands told (R254, R261). -/
def restored (s : State) (r i : Nat) (x : Restoring) (y : Saved) : State :=
  let p := partOf r
  let s := rerun (restoreUnits s x.place (unitsBack (imgAt s p y.area) y.oldPlace y.units)) x.tring x.tidx
  let s := { s with wve := { s.wve with saved := s.wve.saved.filter fun z => !(z.ring == x.tring && z.idx == x.tidx) } }
  let s := modCmd s x.tring x.tidx fun c => { c with st := .running }
  finish (chargeSince (chargePb s p (saveSize x.place)) p x.place.length x.since r i) r i 0 0

theorem exec_restoreDone_of (hr : ringOk r = true) (hi : i < 2 ^ 32) (hawake : awake s = true)
    (hx : s.wve.restores.find? (fun x => x.ring == r && x.idx == i) = some x)
    (hy : savedOf (unlisted s r i) x.tring x.tidx = some y) : exec (.restoreDone r i bad) s = .next (
      if areaGood (unlisted s r i) (partOf r) bad y then restored (unlisted s r i) r i x y
      else finish (endSaved (unlisted s r i) y 0x32 0) r i 0x32 0) := by
  have hunit : (ringOk r && decide (i < 2 ^ 32)) = true := by rw [hr, decide_eq_true hi]; rfl
  show execRestoreDone r i bad s = _
  rw [execRestoreDone, onUnit_live hunit hawake, hx]
  show Host.Outcome.next (match savedOf (unlisted s r i) x.tring x.tidx with
    | none => finish (unlisted s r i) r i 0x34 0
    | some y =>
      if bad || memRead (unlisted s r i) (partOf r) (y.area + 65532) 4 != 0x59415645
      then finish (endSaved (unlisted s r i) y 0x32 0) r i 0x32 0 else restored (unlisted s r i) r i x y) = _
  rw [hy]
  dsimp only
  rw [areaGood]
  cases (bad || memRead (unlisted s r i) (partOf r) (y.area + 65532) 4 != 0x59415645) <;> rfl

theorem exec_abandon_of {c d : Cmd} (h : Turn s r i 0x17 c) (hp : partOf c.target.1 = partOf r)
    (hd : getCmd (takeCmd s c) c.target.1 c.target.2 = some d) (hy : savedOf (takeCmd s c) c.target.1 c.target.2 = some y)
    (hst : d.st = .yielded) (hrun : d.finished = false) : let u := endSaved (takeCmd s c) y 0x30 0
    exec (.abandon r i) s = .next (claimed c r i (finish (setMem u { u.mem with faults := u.mem.faults.map fun f =>
      let l := f.held.filter fun h => !(heldBy h c.target.1 c.target.2)
      if l.length = f.held.length then f else { f with held := l, ended := f.ended || l.isEmpty } }) r i 0 0)) := by
  show execAbandon r i s = _
  rw [execAbandon, onCmd_turn h]
  refine claimed_congr ((if_neg (not_not.2 hp)).trans ?_) r i c
  rw [show getCmd (takeCmd s c) (going c).target.1 (going c).target.2 = some d from hd,
    show savedOf (takeCmd s c) (going c).target.1 (going c).target.2 = some y from hy]
  exact if_neg (by simp [hst, hrun])

end Restore

/-- Settles O25: a RESUME whose target may be restored goes by its placement; a restore ends by its commit word; an
abandoned invocation ends. -/
theorem resumes : Obligations.Resumes := by
  unfold Obligations.Resumes
  refine ⟨⟨?_, ?_, ?_⟩, ?_, ?_⟩
  · intro s r i c d y u h hmode s1 x hnew hp hd hy hst hrun hrec hgen hread im
    have hexec := (exec_resumeFull_turn h hmode).trans
      (claimed_congr (resumeGo_resumable ⟨hnew, hp, hd, hy, hst, hrun, hrec, hgen, hread⟩) r i c)
    exact ⟨fun pl hland hpl => hexec.trans (claimed_congr (resumeRead_placed hland hpl) r i c),
      fun hland hpl hurgent => hexec.trans (claimed_congr (resumeRead_waits hland hpl hurgent) r i c),
      fun hland hfree => hexec.trans (claimed_congr (resumeRead_freed hland hfree) r i c)⟩
  · intro s r i c d h hmode hnew
    obtain ⟨rfl, rfl⟩ := h.ids
    have hexec := exec_resumeFull_turn h hmode
    exact ⟨fun hp => answers_ends h (hexec.trans (claimed_congr (resumeGo_foreign hnew hp) _ _ c)),
      fun hp hd hst => answers_ends h (hexec.trans (claimed_congr (resumeGo_notYielded hnew hp hd hst) _ _ c))⟩
  · intro s r i c h htaken hmode
    refine ⟨exec_resumeProceed_turn h htaken hmode, fun d y u pl hnew hp hd hy hst hrun hrec hgen hread hland hpl => ?_⟩
    rw [exec_resumeProceed_turn h htaken hmode, resumeGo_resumable ⟨hnew, hp, hd, hy, hst, hrun, hrec, hgen, hread⟩,
      resumeRead_placed hland hpl]
  · intro s r i bad x y hr hi hawake hx s1 hy lost
    have hexec := exec_restoreDone_of (bad := bad) hr hi hawake hx hy
    exact ⟨fun h => hexec.trans (congrArg Host.Outcome.next (if_neg fun e => areaGood_iff.1 e h)),
      fun h => hexec.trans (congrArg Host.Outcome.next (if_pos (areaGood_iff.2 h)))⟩
  · intro s r i c d y h s1 x hp hd hy hst hrun
    exact exec_abandon_of h hp hd hy hst hrun

end Sys2Proof.Machine

/-! MODEL_SET, MODEL_STAGE and MODEL_SWAP (R230, R232 to R234, R246). -/

namespace Sys2Proof.Machine

section Models

variable {s : State} {r i : Nat} {c : Cmd}

theorem model_setModel (s : State) (p m : Nat) (x : Model) : model (setModel s p m x) p m = x := tget_tset_same _ _ _ _

theorem model_takeCmd (s : State) (c : Cmd) (p m : Nat) : model (takeCmd s c) p m = model s p m := by
  rw [model, takeCmd_wve]
  rfl

/-! ### Where a set is placed -/

theorem placeSet_pinned {u : State} {cls : Nat} {pages : List Nat} {k : State → State} (hcls : cls = 0)
    (h : pinPages s (partOf c.ring) 0 (some (c.ring, c.idx)) pages = .done u) : placeSet s c cls pages k = k u := by
  rw [placeSet]
  rw [if_pos hcls, h]

theorem placeSet_resting {cls : Nat} {pages : List Nat} {k : State → State} (hcls : cls = 2) :
    placeSet s c cls pages k = k (hintPages s (partOf c.ring) 2 pages) := by
  rw [placeSet]
  rw [if_neg (by rw [hcls]; decide), if_pos hcls]

theorem placeSet_streamed {cls : Nat} {pages : List Nat} {k : State → State} (hcls : cls = 1) :
    placeSet s c cls pages k = k s := by
  rw [placeSet]
  rw [if_neg (by rw [hcls]; decide), if_neg (by rw [hcls]; decide)]

/-! ### The three commands -/

/-- The descriptor a MODEL_SET writes (R246). -/
def Cmd.newModel (c : Cmd) (x : Model) : Model :=
  { id := c.fld 0x14 4, cls := c.fld 0x11 1, active := bits (c.fld 0x39 1) 0 1, swapPend := false, relSem := c.fld 0x12 2,
    base := [c.fld 0x18 8, c.fld 0x28 8], size := [c.fld 0x20 8, c.fld 0x30 8], refs := [0, 0], bind := c.fld 0x38 1,
    lastUse := x.lastUse }

/-- The descriptor with the set a MODEL_STAGE names as its inactive one (R233). -/
def Cmd.staged (c : Cmd) (x : Model) : Model :=
  { x with base := setAt x.base (1 - x.active) (c.fld 0x18 8), size := setAt x.size (1 - x.active) (c.fld 0x20 8) }

/-- The binding a MODEL_SET names is EMPTY or the partition's own (R253). -/
def OwnBinding (s : State) (r : Nat) (c : Cmd) : Prop :=
  rd (takeCmd s c) Reg.WVE_BIND_STATE (c.fld 0x38 1) = 0 ∨ rd (takeCmd s c) Reg.WVE_BIND_PART (c.fld 0x38 1) = partOf r

theorem ownBinding_iff : OwnBinding s r c ↔ ¬(rd (takeCmd s c) Reg.WVE_BIND_STATE (c.fld 0x38 1) ≠ 0 ∧
    rd (takeCmd s c) Reg.WVE_BIND_PART (c.fld 0x38 1) ≠ partOf r) := by
  rw [OwnBinding]
  tauto

/-- The model a command names, as the table holds it. -/
def namedModel (s : State) (r : Nat) (c : Cmd) : Model := model (takeCmd s c) (partOf r) (c.fld 0x10 1)

theorem exec_modelSet_of (h : Turn s r i 0x18 c) (hown : OwnBinding s r c) (hrefs : (namedModel s r c).refs = [0, 0])
    (hswap : (namedModel s r c).swapPend = false) : exec (.modelSet r i) s = .next (claimed c r i (placeSet (takeCmd s c) (going c)
      (c.fld 0x11 1) (setPages (c.fld 0x18 8) (c.fld 0x20 8) ++ setPages (c.fld 0x28 8) (c.fld 0x30 8)) fun u =>
        finish (setModel u (partOf r) (c.fld 0x10 1) (c.newModel (namedModel s r c))) r i 0 0)) := by
  have hfree : ¬((namedModel s r c).refs ≠ [0, 0] ∨ (namedModel s r c).swapPend = true) := by simp [hrefs, hswap]
  show execModelSet r i s = _
  rw [execModelSet, onCmd_turn h]
  exact claimed_congr ((if_neg (ownBinding_iff.1 hown)).trans (if_neg hfree)) r i c

theorem exec_modelSet_busy (h : Turn s r i 0x18 c) (hown : OwnBinding s r c)
    (hbusy : (namedModel s r c).refs ≠ [0, 0] ∨ (namedModel s r c).swapPend = true) :
    exec (.modelSet r i) s = .next (claimed c r i (finish (takeCmd s c) r i 0x57 0)) := by
  show execModelSet r i s = _
  rw [execModelSet, onCmd_turn h]
  exact claimed_congr ((if_neg (ownBinding_iff.1 hown)).trans (if_pos hbusy)) r i c

theorem exec_modelSet_foreign (h : Turn s r i 0x18 c) (hown : ¬OwnBinding s r c) :
    exec (.modelSet r i) s = .next (claimed c r i (finish (takeCmd s c) r i 0x36 0)) := by
  show execModelSet r i s = _
  rw [execModelSet, onCmd_turn h]
  exact claimed_congr (if_pos (not_not.1 fun e => hown (ownBinding_iff.2 e))) r i c

theorem exec_modelStage_of (h : Turn s r i 0x19 c)
    (hrefs : (namedModel s r c).refs.getD (1 - (namedModel s r c).active) 0 = 0)
    (hswap : (namedModel s r c).swapPend = false) : exec (.modelStage r i) s = .next (claimed c r i (placeSet (takeCmd s c)
      (going c) (namedModel s r c).cls (setPages (c.fld 0x18 8) (c.fld 0x20 8)) fun u =>
        finish (setModel u (partOf r) (c.fld 0x10 1) (c.staged (namedModel s r c))) r i 0 0)) := by
  have hfree : ¬((namedModel s r c).refs.getD (1 - (namedModel s r c).active) 0 ≠ 0 ∨
      (namedModel s r c).swapPend = true) := fun e => e.elim (· hrefs) (by simp [hswap])
  show execModelStage r i s = _
  rw [execModelStage, onCmd_turn h]
  exact claimed_congr (if_neg hfree) r i c

theorem exec_modelStage_busy (h : Turn s r i 0x19 c) (hbusy : (namedModel s r c).refs.getD (1 - (namedModel s r c).active) 0 ≠ 0 ∨
      (namedModel s r c).swapPend = true) :
    exec (.modelStage r i) s = .next (claimed c r i (finish (takeCmd s c) r i 0x57 0)) := by
  show execModelStage r i s = _
  rw [execModelStage, onCmd_turn h]
  exact claimed_congr (if_pos hbusy) r i c

/-- A model left as it was, its command ended. -/
theorem answers_model {x : Instr} {op status : Nat} (h : Turn s r i op c)
    (hx : exec x s = .next (claimed c r i (finish (takeCmd s c) r i status 0))) : Answers x s fun t =>
      model t (partOf r) (c.fld 0x10 1) = namedModel s r c ∧ Ends t r i status 0 ∧ WordsKept s t [] :=
  ⟨_, hx, rfl, h.ends status 0⟩

/-- A model written, its command done. -/
theorem answers_written {x : Instr} {op : Nat} {y : Model} (h : Turn s r i op c)
    (hx : exec x s = .next (claimed c r i (finish (setModel (takeCmd s c) (partOf r) (c.fld 0x10 1) y) r i 0 0))) :
    Answers x s fun t => model t (partOf r) (c.fld 0x10 1) = y ∧ Ends t r i 0 0 ∧ WordsKept s t [] :=
  ⟨_, hx, model_setModel (takeCmd s c) (partOf r) (c.fld 0x10 1) y,
    ends_finish (s := setModel (takeCmd s c) (partOf r) (c.fld 0x10 1) y) h.getTaken 0 0, fun a _ => rw_takeCmd s c a⟩

end Models

/-- Settles O26: a model that is free takes the descriptor, the set or the swap its command names, its pages placed by
its class; another ends it. -/
theorem models : Obligations.Models := by
  unfold Obligations.Models
  intro s r i c s1 p m x k y pages own staged stagePages
  refine ⟨fun h hown hrefs hswap => ?_, fun h hown hbusy => answers_model h (exec_modelSet_busy h hown hbusy),
    fun h hown => answers_model h (exec_modelSet_foreign h hown), fun h hrefs hswap => ?_,
    fun h hbusy => answers_model h (exec_modelStage_busy h hbusy), fun h hsize hswap => ?_, fun h hbusy => ?_⟩
  · have hexec := exec_modelSet_of h hown hrefs hswap
    have hr := h.ids.1
    refine ⟨fun u hcls hpin => hexec.trans (claimed_congr (placeSet_pinned hcls ?_) r i c),
      fun hcls => hexec.trans (claimed_congr ((placeSet_resting hcls).trans ?_) r i c),
      fun hcls => answers_written h (hexec.trans (claimed_congr (placeSet_streamed hcls) r i c))⟩
    · rw [show partOf (going c).ring = p from congrArg partOf hr]
      exact hpin
    · rw [show partOf (going c).ring = p from congrArg partOf hr]
      rfl
  · have hexec := exec_modelStage_of h hrefs hswap
    have hr := h.ids.1
    refine ⟨fun u hcls hpin => hexec.trans (claimed_congr (placeSet_pinned hcls ?_) r i c),
      fun hcls => hexec.trans (claimed_congr ((placeSet_resting hcls).trans ?_) r i c),
      fun hcls => answers_written h (hexec.trans (claimed_congr (placeSet_streamed hcls) r i c))⟩
    · rw [show partOf (going c).ring = p from congrArg partOf hr]
      exact hpin
    · rw [show partOf (going c).ring = p from congrArg partOf hr]
      rfl
  · have hfree : ¬(x.size.getD k 0 = 0 ∨ x.swapPend = true) := fun e => e.elim hsize (by simp [hswap])
    show execModelSwap r i s = _
    rw [execModelSwap, onCmd_turn h]
    exact claimed_congr (if_neg hfree) r i c
  · refine answers_model h ?_
    show execModelSwap r i s = _
    rw [execModelSwap, onCmd_turn h]
    exact claimed_congr (if_pos hbusy) r i c

end Sys2Proof.Machine

/-! Page operations on one page (R187 to R191). -/

namespace Sys2Proof.Machine

/-! ### The range's entries -/

theorem l3e_setL3_same (s : State) (p g e : Nat) : l3e (setL3 s p g e) p g = e % 2 ^ 64 := by
  rw [l3e, setL3]
  exact (congrArg BitVec.toNat (tget_tset_same _ _ _ _)).trans (BitVec.toNat_ofNat _ _)

theorem l3e_setL3_ne (s : State) (p e : Nat) {g h : Nat} (hne : h ≠ g) : l3e (setL3 s p g e) p h = l3e s p h := by
  rw [l3e, setL3]
  exact congrArg BitVec.toNat (tget_tset_ne _ _ _ (by omega))

/-- The bytes of the tiers, the range's entries and the commands in flight are as before. -/
structure EntriesKept (s t : State) : Prop where
  l3 : t.mem.l3 = s.mem.l3
  t2 : t.mem.t2 = s.mem.t2
  t3 : t.mem.t3 = s.mem.t3
  inflight : t.front.inflight = s.front.inflight

namespace EntriesKept

variable {s t u : State}

theorem refl (s : State) : EntriesKept s s := ⟨rfl, rfl, rfl, rfl⟩

theorem trans (h : EntriesKept s t) (k : EntriesKept t u) : EntriesKept s u :=
  ⟨k.l3.trans h.l3, k.t2.trans h.t2, k.t3.trans h.t3, k.inflight.trans h.inflight⟩

theorem wr (h : EntriesKept s t) (f : Fld) (i v : Nat) : EntriesKept s (wr t f i v) := ⟨h.l3, h.t2, h.t3, h.inflight⟩

theorem up (h : EntriesKept s t) (f : Fld) (i n : Nat) : EntriesKept s (up t f i n) := h.wr _ _ _

theorem setTblBad (h : EntriesKept s t) (l p g : Nat) (b : Bool) : EntriesKept s (setTblBad t l p g b) :=
  ⟨h.l3, h.t2, h.t3, h.inflight⟩

theorem setL1 (h : EntriesKept s t) (p g e : Nat) : EntriesKept s (setL1 t p g e) := ⟨h.l3, h.t2, h.t3, h.inflight⟩

theorem setL2 (h : EntriesKept s t) (p g e : Nat) : EntriesKept s (setL2 t p g e) := ⟨h.l3, h.t2, h.t3, h.inflight⟩

theorem ite {c : Prop} [Decidable c] {a b : State} (ha : EntriesKept s a) (hb : EntriesKept s b) :
    EntriesKept s (if c then a else b) := by
  split
  · exact ha
  · exact hb

theorem entry (h : EntriesKept s t) (p g : Nat) : l3e t p g = l3e s p g := by rw [l3e, h.l3]; rfl

theorem command (h : EntriesKept s t) (r i : Nat) : getCmd t r i = getCmd s r i := getCmd_congr h.inflight r i

end EntriesKept

theorem told_entriesKept (s : State) (p : Nat) (l : List Nat) : EntriesKept s (told s p l) := ⟨rfl, rfl, rfl, rfl⟩

theorem told_regs (s : State) (p : Nat) (l : List Nat) : (told s p l).regs = s.regs := rfl

theorem takeCmd_entries (s : State) (c : Cmd) (p g : Nat) : l3e (takeCmd s c) p g = l3e s p g := by
  rw [l3e, takeCmd_mem]
  rfl

theorem dropTables_entriesKept (s : State) (p g : Nat) : EntriesKept s (dropTables s p g) := by
  unfold dropTables
  extract_lets k2 m s1 s2 k1 s3 s4 s5
  have h1 : EntriesKept s s1 := (show EntriesKept s (setMem s { m with sh := tclear m.sh (4096 * k2) 4096 }) from
    ⟨rfl, rfl, rfl, rfl⟩).setTblBad _ _ _ _
  have h2 : EntriesKept s s2 := .ite ((h1.setL2 _ _ _).up _ _ _) h1
  have h3 : EntriesKept s s3 := h2.setTblBad _ _ _ _
  have h4 : EntriesKept s s4 := .ite ((h3.setL1 _ _ _).up _ _ _) h3
  have h5 : EntriesKept s s5 := h4.setTblBad _ _ _ _
  exact .ite (.refl s) (.ite h2 (.ite h4 (.ite (((h5.wr _ _ _).wr _ _ _).up _ _ _) h5)))

/-! ### One page -/

section OnePage

variable {s u : State} {r i op : Nat} {c : Cmd} {x : Instr}

theorem Turn.opcode (h : Turn s r i op c) : c.op = op := by
  have hat := h.at_
  rw [turnOf, h.get] at hat
  dsimp only at hat
  by_contra hne
  rw [if_pos (.inl hne)] at hat
  cases hat

/-- The state once a command's page is done. -/
def pageDone (u : State) (c : Cmd) : State :=
  finish (modCmd u c.ring c.idx fun d => { d with progress := 1 }) c.ring c.idx 0 0

theorem exec_memOp_one (hx : exec x s = memOp op c.ring c.idx s) (h : Turn s c.ring c.idx op c) (hop : op ≠ 0x27)
    (htotal : c.total = 1) (hprogress : c.progress = 0) :
    exec x s = .next (claimed c c.ring c.idx (pageOps 1 (takeCmd s c) (going c) 0)) := by
  have hleft : (going c).total - (going c).progress = 1 := by rw [show (going c).total = 1 from htotal,
    show (going c).progress = 0 from hprogress]
  rw [hx, memOp, onCmd_turn h]
  dsimp only
  rw [if_neg hop, hleft, show (going c).progress = 0 from hprogress]

theorem ends_pageDone {d : Cmd} (h : getCmd u c.ring c.idx = some d) : Ends (pageDone u c) c.ring c.idx 0 0 :=
  ends_finish (getCmd_modCmd_same (f := fun d => { d with progress := 1 }) (fun _ => ⟨rfl, rfl⟩) h) 0 0

theorem pageOps_done (h : pageOp s c 0 = .done u) : pageOps 1 s c 0 = pageDone u c := by
  rw [pageOps, h]
  rfl

theorem pageOps_fail {st sub : Nat} (h : pageOp s c 0 = .fail u st sub) : pageOps 1 s c 0 = finish u c.ring c.idx st sub := by
  rw [pageOps, h]

/-- A page whose entry took `e` and nothing else of the range, its command done. -/
theorem answers_entry {p g e : Nat} (hx : exec x s = .next (claimed c c.ring c.idx (pageDone (setL3 u p g e) (going c))))
    (hu : EntriesKept (takeCmd s c) u) (hregs : u.regs = (takeCmd s c).regs) (h : Turn s c.ring c.idx op c) : Answers x s fun t =>
      l3e t p g = e % 2 ^ 64 ∧ (∀ h, h ≠ g → l3e t p h = l3e s p h) ∧ t.mem.t2 = s.mem.t2 ∧ t.mem.t3 = s.mem.t3 ∧
      WordsKept s t [] ∧ Ends t c.ring c.idx 0 0 := by
  have hcmd : getCmd (setL3 u p g e) c.ring c.idx = getCmd (takeCmd s c) c.ring c.idx := hu.command _ _
  refine ⟨_, hx, l3e_setL3_same u p g e, fun q hq => ?_, ?_, ?_, fun a _ => ?_, ?_⟩
  · exact (l3e_setL3_ne u p e hq).trans ((hu.entry p q).trans (takeCmd_entries s c p q))
  · exact hu.t2.trans (by rw [takeCmd_mem])
  · exact hu.t3.trans (by rw [takeCmd_mem])
  · exact (congrArg (fun m => tget resetWord m a) hregs).trans (rw_takeCmd s c a)
  · exact ends_pageDone (hcmd.trans h.getTaken)

theorem pageBits_mapped {p g : Nat} (hkind : eKind (l3e s p g) ≠ 0) (lo w v : Nat) :
    pageBits s p g lo w v = .done (setL3 s p g (putBits (l3e s p g) lo w v)) := by
  rw [pageBits]
  rw [if_neg hkind]

theorem pageOp_protect (h : c.op = 0x23) : pageOp s c 0 =
    pageBits s (partOf c.ring) (pageOf (c.fld 0x10 8)) 2 2 (bits (c.fld 0x31 1) 3 2) := by rw [pageOp, h]; rfl

theorem pageOp_unpin (h : c.op = 0x25) : pageOp s c 0 =
    pageBits s (partOf c.ring) (pageOf (c.fld 0x10 8)) 6 1 0 := by rw [pageOp, h]; rfl

theorem pageOp_hint (h : c.op = 0x26) : pageOp s c 0 =
    pageBits s (partOf c.ring) (pageOf (c.fld 0x10 8)) 8 2 (bits (c.fld 0x31 1) 5 2) := by rw [pageOp, h]; rfl

theorem pageOp_poison (h : c.op = 0x29) : pageOp s c 0 = pageBits (told s (partOf c.ring) [pageOf (c.fld 0x10 8)])
    (partOf c.ring) (pageOf (c.fld 0x10 8)) 5 1 1 := by rw [pageOp, h]; rfl

theorem pageOp_unpoison (h : c.op = 0x2A) : pageOp s c 0 = pageBits (told s (partOf c.ring) [pageOf (c.fld 0x10 8)])
    (partOf c.ring) (pageOf (c.fld 0x10 8)) 5 1 0 := by rw [pageOp, h]; rfl

theorem pageOp_map (h : c.op = 0x21) :
    pageOp s c 0 = mapPage s (partOf c.ring) (pageOf (c.fld 0x10 8)) 0 c := by rw [pageOp, h]; rfl

theorem pageOp_unmap (h : c.op = 0x22) :
    pageOp s c 0 = unmapPage s (partOf c.ring) (pageOf (c.fld 0x10 8)) := by rw [pageOp, h]; rfl

/-- A command on one page, mapped, of which it sets bits: `v` in the `w` bits from `lo`. -/
theorem answers_pageBits {lo w v : Nat} (hx : exec x s = memOp op c.ring c.idx s) (h : Turn s c.ring c.idx op c)
    (hop : op ≠ 0x27) (htotal : c.total = 1) (hprogress : c.progress = 0)
    (hkind : eKind (l3e s (partOf c.ring) (pageOf (c.fld 0x10 8))) ≠ 0) (hu : EntriesKept (takeCmd s c) u)
    (hregs : u.regs = (takeCmd s c).regs)
    (hpage : pageOp (takeCmd s c) (going c) 0 = pageBits u (partOf c.ring) (pageOf (c.fld 0x10 8)) lo w v) :
    Answers x s fun t => let e := putBits (l3e s (partOf c.ring) (pageOf (c.fld 0x10 8))) lo w v
      l3e t (partOf c.ring) (pageOf (c.fld 0x10 8)) = e % 2 ^ 64 ∧
      (∀ h, h ≠ pageOf (c.fld 0x10 8) → l3e t (partOf c.ring) h = l3e s (partOf c.ring) h) ∧
      t.mem.t2 = s.mem.t2 ∧ t.mem.t3 = s.mem.t3 ∧ WordsKept s t [] ∧ Ends t c.ring c.idx 0 0 := by
  have hentry : l3e u (partOf c.ring) (pageOf (c.fld 0x10 8)) = l3e s (partOf c.ring) (pageOf (c.fld 0x10 8)) :=
    (hu.entry _ _).trans (takeCmd_entries s c _ _)
  refine answers_entry ((exec_memOp_one hx h hop htotal hprogress).trans (claimed_congr (pageOps_done ?_) _ _ _)) hu hregs h
  rw [hpage, pageBits_mapped (by rw [hentry]; exact hkind), hentry]

/-! ### MAP and UNMAP -/

/-- The tables that serve a page stand (R185, R189). -/
structure Tables (s : State) (p g : Nat) : Prop where
  root : rd s Reg.XLT_ROOT_VALID p = 1
  l1 : bits (l1e s p g) 0 2 = 2
  l2 : bits (l2e s p g) 0 2 = 2

theorem ensureTables_standing {p g : Nat} (h : Tables s p g) : ∃ u, ensureTables s p g = some u ∧ EntriesKept s u := by
  unfold ensureTables
  simp only [h.root, h.l1, h.l2, decide_true, Bool.not_true, oneIf, if_true]
  exact ⟨_, if_neg (by simp), EntriesKept.wr (t := setMem s _) ⟨rfl, rfl, rfl, rfl⟩ _ _ _⟩

theorem mapPage_mapped {p g k : Nat} (h : 2 ≤ eKind (l3e s p g)) : mapPage s p g k c = .fail s 0x48 0 :=
  if_pos h

/-- What MAP makes of a page that is not LOCAL: ABSENT, or a WINDOW (R187, R191). -/
def Cmd.mapEntry (c : Cmd) (k : Nat) : Nat :=
  let opt := c.fld 0x31 1
  let flags := 4 * bits opt 3 2 + 2 ^ 8 * bits opt 5 2
  if bits opt 0 2 = 1 then 1 + flags + 2 ^ 10 * bits opt 2 1
  else 3 + flags + 2 ^ 12 * c.fld 0x32 1 + 2 ^ 19 * ((bits (c.fld 0x18 8) 0 36 + k) % 2 ^ 36)

theorem mapPage_away {p g k : Nat} (hkind : eKind (l3e s p g) < 2) (hopt : bits (c.fld 0x31 1) 0 2 ≠ 2)
    (hu : ensureTables s p g = some u) : mapPage s p g k c = .done (setL3 u p g (c.mapEntry k)) := by
  rw [mapPage, Cmd.mapEntry]
  rw [if_neg (Nat.not_le.2 hkind), hu]
  split
  · next e => exact absurd e hopt
  · show (if bits (c.fld 0x31 1) 0 2 = 1 then PageRes.done _ else .done _) = _
    split <;> rfl

theorem unmapPage_window {p g : Nat} (hkind : eKind (l3e s p g) = 3) (hsave : savePinned s p g = false)
    (hlock : pageLocked s p g = false) : unmapPage s p g = .done (dropTables (setL3 (told s p [g]) p g 0) p g) := by
  have hlocal : isLocal (l3e s p g) = false := by rw [isLocal, hkind]; rfl
  rw [unmapPage, if_neg (by rw [hkind]; decide), if_neg (by rw [hsave]; decide), if_neg (by rw [hlock]; decide)]
  split <;> simp only [hlocal, Bool.false_eq_true, if_false]

end OnePage

/-- Settles O28: one page's bits are set in its entry alone; a page that is not mapped takes ABSENT or WINDOW, a mapped
one refuses a MAP, a window's entry goes. -/
theorem pageOps_holds : Obligations.PageOps := by
  unfold Obligations.PageOps
  refine ⟨?_, ?_⟩
  · rintro s r i c htotal hprogress rfl rfl p g opt kept hkind
    refine ⟨fun h => ?_, fun h => ?_, fun h => ?_, fun h => ?_, fun h => ?_⟩
    · exact answers_pageBits rfl h (by decide) htotal hprogress hkind (.refl _) rfl (pageOp_protect h.opcode)
    · exact answers_pageBits rfl h (by decide) htotal hprogress hkind (.refl _) rfl (pageOp_unpin h.opcode)
    · exact answers_pageBits rfl h (by decide) htotal hprogress hkind (.refl _) rfl (pageOp_hint h.opcode)
    · exact answers_pageBits rfl h (by decide) htotal hprogress hkind (told_entriesKept _ _ _) rfl (pageOp_poison h.opcode)
    · exact answers_pageBits rfl h (by decide) htotal hprogress hkind (told_entriesKept _ _ _) rfl (pageOp_unpoison h.opcode)
  · rintro s r i c htotal hprogress rfl rfl s1 p g opt flags tables bytes
    have hl3 : l3e s1 p g = l3e s p g := takeCmd_entries s c p g
    have away (h : Turn s c.ring c.idx 0x21 c) (hkind : eKind (l3e s p g) < 2) (ht : tables) (hopt : bits opt 0 2 ≠ 2) :
        Answers (.map c.ring c.idx) s fun t =>
          l3e t p g = c.mapEntry 0 % 2 ^ 64 ∧ Ends t c.ring c.idx 0 0 ∧ bytes t := by
      have tables1 : Tables s1 p g := ⟨(rd_takeCmd s c _ _).trans ht.1, by rw [l1e, takeCmd_mem]; exact ht.2.1,
        by rw [l2e, takeCmd_mem]; exact ht.2.2⟩
      obtain ⟨u, hu, hkept⟩ := ensureTables_standing tables1
      have hpage : pageOp s1 (going c) 0 = .done (setL3 u p g (c.mapEntry 0)) :=
        (pageOp_map h.opcode).trans (mapPage_away (by rw [hl3]; exact hkind) hopt hu)
      refine ⟨_, (exec_memOp_one rfl h (by decide) htotal hprogress).trans (claimed_congr (pageOps_done hpage) _ _ _),
        l3e_setL3_same u p g _, ends_pageDone ((hkept.command _ _).trans h.getTaken), ?_, ?_⟩
      · exact hkept.t2.trans (by rw [takeCmd_mem])
      · exact hkept.t3.trans (by rw [takeCmd_mem])
    refine ⟨fun h hkind ht hopt => ?_, fun h hkind ht hopt => ?_, fun h hkind => ?_, fun h hkind hsave hlock => ?_⟩
    · have hentry : c.mapEntry 0 = 1 + flags + 2 ^ 10 * bits opt 2 1 := if_pos hopt
      rw [← hentry]
      exact away h hkind ht (by rw [hopt]; decide)
    · have hentry : c.mapEntry 0 = 3 + flags + 2 ^ 12 * c.fld 0x32 1 + 2 ^ 19 * (bits (c.fld 0x18 8) 0 36 % 2 ^ 36) :=
        if_neg (by rw [hopt]; decide)
      rw [← hentry]
      exact away h hkind ht (by rw [hopt]; decide)
    · have hpage : pageOp s1 (going c) 0 = .fail s1 0x48 0 :=
        (pageOp_map h.opcode).trans (mapPage_mapped (by rw [hl3]; exact hkind))
      obtain ⟨hends, hwords⟩ := h.ends 0x48 0
      exact ⟨_, (exec_memOp_one rfl h (by decide) htotal hprogress).trans (claimed_congr (pageOps_fail hpage) _ _ _),
        hl3, hends, ⟨congrArg Memory.t2 (takeCmd_mem s c), congrArg Memory.t3 (takeCmd_mem s c)⟩, hwords⟩
    · have hpage : pageOp s1 (going c) 0 = .done (dropTables (setL3 (told s1 p [g]) p g 0) p g) :=
        (pageOp_unmap h.opcode).trans (unmapPage_window (by rw [hl3]; exact hkind) hsave hlock)
      have hkept := dropTables_entriesKept (setL3 (told s1 p [g]) p g 0) p g
      have hcmd : getCmd (setL3 (told s1 p [g]) p g 0) c.ring c.idx = getCmd s1 c.ring c.idx :=
        (told_entriesKept s1 p [g]).command _ _
      refine ⟨_, (exec_memOp_one rfl h (by decide) htotal hprogress).trans (claimed_congr (pageOps_done hpage) _ _ _),
        (hkept.entry p g).trans (l3e_setL3_same _ p g 0), ends_pageDone ((hkept.command _ _).trans (hcmd.trans h.getTaken)),
        ?_, ?_⟩
      · exact hkept.t2.trans ((told_entriesKept s1 p [g]).t2.trans (congrArg Memory.t2 (takeCmd_mem s c)))
      · exact hkept.t3.trans ((told_entriesKept s1 p [g]).t3.trans (congrArg Memory.t3 (takeCmd_mem s c)))

end Sys2Proof.Machine

/-! MOVE and its tiles (R184, R203, R207, R214, R219 to R222, R228). -/

namespace Sys2Proof.Machine

/-! ### MOVE -/

section Move

variable {s u : State} {r i : Nat} {c : Cmd}

theorem exec_move_plain (h : Turn s r i 0x20 c) (ha : c.fld 0x28 8 = 0) :
    exec (.move r i) s = .next (claimed c r i (takeCmd s c)) := by
  show execMove r i s = _
  rw [execMove, onCmd_turn h]
  exact claimed_congr (if_pos (.inl ha)) r i c

/-- An arrival descriptor that has been read: judged, and the move's tiles counted (R214, R218). -/
def moveJudged (s : State) (r i : Nat) (c : Cmd) (d : Nat) : State :=
  if arvBad s c d then finish s r i 0x53 0
  else modCmd s r i fun x => { x with arv := d, total := (moveTiles s { c with arv := d }).length }

/-- A MOVE by what the read of its arrival descriptor gives. -/
def moveRead (r i : Nat) (c : Cmd) : Gate → State
  | .wait u => u
  | .held u => setAside u r i
  | .go u => moveJudged (fresh u) r i (going c) (memRead u (partOf r) (c.fld 0x28 8) 64)

theorem exec_move_arrival {g : Gate} (h : Turn s r i 0x20 c) (ha : c.fld 0x28 8 ≠ 0) (harv : c.arv = 0)
    (hg : gate (takeCmd s c) (partOf r) (c.fld 0x28 8) 64 false true (.tile r i) = g) :
    exec (.move r i) s = .next (claimed c r i (moveRead r i c g)) := by
  have hnew : ¬((going c).fld 0x28 8 = 0 ∨ (going c).arv ≠ 0) := fun e => e.elim ha fun e => e harv
  show execMove r i s = _
  rw [execMove, onCmd_turn h]
  refine claimed_congr ((if_neg hnew).trans ?_) r i c
  rw [show gate (takeCmd s c) (partOf r) ((going c).fld 0x28 8) 64 false true (.tile r i) = g from hg]
  cases g <;> rfl

theorem move_judged {r i d : Nat} {s0 s : State} {c0 c : Cmd} {x : Instr}
    (hx : exec x s0 = .next (claimed c0 r i (moveJudged s r i c d))) :
    if arvBad s c d = true then exec x s0 = .next (claimed c0 r i (finish s r i 0x53 0))
    else exec x s0 = .next (claimed c0 r i (modCmd s r i fun x => { x with
      arv := d, total := (moveTiles s { c with arv := d }).length })) := by
  rw [moveJudged] at hx
  split
  · next h => rw [hx, if_pos h]
  · next h => rw [hx, if_neg h]

end Move

/-! ### Porter tiles -/

theorem detectAt_clean (s : State) (p da : Nat) (write : Bool) (h : HeldReq) : detectAt s p da .clean write h = .go s :=
  if_pos rfl

section Tiles

variable {s u w : State} {c : Cmd} {o n : Nat}

/-- A tile of a plain copy that has been read and may be written: stored, charged, and the command's progress noted. -/
def tileCopied (w : State) (c : Cmd) (o n : Nat) : State :=
  let p := partOf c.ring
  let src := c.fld 0x10 8 + o
  let dst := c.fld 0x18 8 + o
  let w1 := accWrite (heatUp w p src n) p dst n (memRead w p src n)
  let w2 := porterMoved (chargePb (dropRead (fresh w1) (.tile c.ring c.idx)) p n) p (c.engine - 1) n
  let w3 := modCmd w2 c.ring c.idx fun x => { x with progress := x.progress + 1, cost := x.cost + n }
  if c.progress + 1 ≥ c.total then finish w3 c.ring c.idx 0 0 else w3

theorem copyTile_clean (ht : (moveTiles s c)[c.progress]? = some (o, n))
    (hread : gateAll s (partOf c.ring) false (.tile c.ring c.idx) [(c.fld 0x10 8 + o, n)] = .go u)
    (hwrite : gates s u (partOf c.ring) true true (.tile c.ring c.idx) [(c.fld 0x18 8 + o, n)] = .go w) :
    copyTile s c .clean = tileCopied w c o n := by
  rw [copyTile, ht]
  simp only [hread, detectAt_clean, hwrite]
  rfl

theorem exec_cmdTile_of {r i : Nat} (h : Turn s r i 0x20 c) (htaken : c.taken = true) (hplain : c.fld 0x28 8 = 0)
    (hturn : porterTurn s (c.engine - 1) (partOf r) = true) (hpower : s.pow.pfail = false) (det : Detect) :
    exec (.porterTile (.cmdTile r i) det) s = .next (claim (copyTile s c det) (.tile r i)) := by
  have hunit : (ringOk r && decide (i < 2 ^ 32)) = true := by rw [h.ring, decide_eq_true h.idx]; rfl
  show execPorterTile (.cmdTile r i) det s = _
  rw [execPorterTile, onUnit_live hunit h.awake, h.at_]
  exact congrArg Host.Outcome.next (if_pos (by simp [htaken, hplain, hturn, hpower]))

end Tiles

section Requests

variable {s u : State} {b q : Nat} {x : Req}

theorem exec_bushelTile_of (hb : b < 1024) (hawake : awake s = true) (det : Detect) :
    exec (.porterTile (.bushel b q) det) s = .next (bushelTile s b q det) := by
  show execPorterTile (.bushel b q) det s = _
  rw [execPorterTile, onUnit_live (decide_eq_true hb) hawake]

/-- The request an issued transfer of bushel `b` carries next. -/
def carriedNext (s : State) (b q : Nat) : Option Req :=
  (bsh s b).reqs.find? fun x => x.id == q && x.st == .issued && porterTurn s x.porter (partOfIsl s (b / 32))

theorem bushelTile_badParity {e : Nat} (hx : carriedNext s b q = some x) (hst : x.store = true)
    (he : badByte s b (x.sram + x.sent) x.part.2 = some e) :
    bushelTile s b q .clean = parityHit s b x.eng e fun s _ => s := by
  rw [carriedNext] at hx
  simp only [bushelTile, hx, hst, if_true, he]

/-- A transfer that goes: its bytes carried, charged, and the request's own count of them. -/
def tileCarried (u : State) (b q p : Nat) (x : Req) : State :=
  let a := x.part.1
  let m := x.part.2
  let data := if x.store then 0 else memRead u p a m * 2 ^ (8 * x.sent)
  let u1 := if x.store then accWrite u p a m (sramRead u b (x.sram + x.sent) m) else fresh (heatUp u p a m)
  let u2 := claim (dropRead (porterMoved (chargePb u1 p m) p x.porter m) (.bushel b q)) (.bushel b q)
  setBsh u2 b { bsh u2 b with reqs := (bsh u2 b).reqs.map fun z =>
    if z.id = q then { z with st := if z.sent + m ≥ z.len then .carried else z.st
                              sent := z.sent + m, data := z.data + data } else z }

theorem bushelTile_clean (hx : carriedNext s b q = some x) (hparity : x.store = true → badByte s b (x.sram + x.sent) x.part.2 = none)
    (hgo : gate s (partOfIsl s (b / 32)) x.part.1 x.part.2 x.store false (.bushel b q) = .go u) :
    bushelTile s b q .clean = tileCarried u b q (partOfIsl s (b / 32)) x := by
  have hgood : (if x.store = true then badByte s b (x.sram + x.sent) x.part.2 else none) = none := by
    split
    · next h => exact hparity h
    · rfl
  rw [carriedNext] at hx
  simp only [bushelTile, hx, hgood, hgo, ite_self, detectAt_clean]
  rfl

end Requests

section Migrations

variable {s : State} {id g : Nat} {m : Migr}

/-- Nothing of memory changes but the migrations' own list. -/
theorem porterMoved_mem (s : State) (p q n : Nat) : (porterMoved s p q n).mem = s.mem := rfl
theorem chargePb_mem (s : State) (p n : Nat) : (chargePb s p n).mem = s.mem := rfl

theorem draw_mem (s : State) (p k n : Nat) : (draw s p k n).mem = s.mem := by
  unfold draw
  split <;> rfl

/-- A page of migration `id` counted as copied (R196). -/
def pageCopied (y : Memory) (id : Nat) : Memory :=
  { y with migs := y.migs.map fun x => if x.id = id then { x with copied := x.copied + 1 } else x }

theorem migTile_clean (hawake : awake s = true)
    (hm : s.mem.migs.find? (fun m => m.id == id && porterTurn s m.porter m.part) = some m)
    (hg : ((localPages s m.seg).filter fun g => !ePsn (l3e s m.part g))[m.copied]? = some g)
    (hhost : hostHolds s m.part (g * 65536) 65536 = false)
    (hgrant : m.cause = 0 ∨ (granted s m.part m.srcTier && granted s m.part m.dstTier) = true) :
    Answers (.porterTile (.migPage id) .clean) s fun t => t.mem = pageCopied s.mem id := by
  have hdraw : (if m.cause = 0 then s else draw (draw s m.part m.srcTier 65536) m.part m.dstTier 65536).mem = s.mem := by
    split
    · rfl
    · rw [draw_mem, draw_mem]
  refine ⟨migTile s id .clean, ?_, ?_⟩
  · show execPorterTile (.migPage id) .clean s = _
    rw [execPorterTile, live, if_pos hawake]
  · rw [migTile, hm]
    dsimp only
    rw [hg]
    dsimp only
    rw [if_neg (by decide), if_neg (by rw [hhost]; decide), if_neg fun e => hgrant.elim e.1 fun k => by simp [k] at e]
    rw [porterMoved_mem, chargePb_mem]
    split
    · exact congrArg (pageCopied · id) hdraw
    · exact congrArg (pageCopied · id) hdraw

end Migrations

/-! ### Arrival tiles -/

section Arrivals

variable {s : State} {r i tile : Nat} {c : Cmd}

/-- An arrival move's tile at its porter's turn, not landed yet. -/
structure ArrivalTurn (s : State) (r i tile : Nat) (c : Cmd) : Prop where
  turn : Turn s r i 0x20 c
  taken : c.taken = true
  arrives : c.arv ≠ 0
  open_ : tile ∉ c.landed
  porter : porterTurn s (c.engine - 1) (partOf r) = true
  power : s.pow.pfail = false

/-- A tile of an arrival move by the steps its descriptor selects (R214). -/
def arrivalStep (s : State) (c : Cmd) (tile : Nat) : Option (Nat × Nat) → State
  | none => if tile < c.total then tileSettled s c tile (some 0x53) 0 else s
  | some (o, n) =>
    if aGather c.arv then gatherTile s c tile o n
    else if aHash c.arv then unpackTile s c tile o n else shapeTile s c tile o n

theorem exec_arrivalTile_of {x : Option (Nat × Nat)} (h : ArrivalTurn s r i tile c) (hx : (moveTiles s c)[tile]? = x) :
    exec (.arrivalTile r i tile) s = .next (arrivalStep s c tile x) := by
  have hunit : (ringOk r && decide (i < 2 ^ 32)) = true := by rw [h.turn.ring, decide_eq_true h.turn.idx]; rfl
  have hgo : ¬(!c.taken || c.arv = 0 || c.landed.contains tile || !porterTurn s (c.engine - 1) (partOf r) || s.pow.pfail) =
      true := by simp [h.taken, h.arrives, h.open_, h.porter, h.power]
  show execArrivalTile r i tile s = _
  rw [execArrivalTile, onUnit_live hunit h.turn.awake, h.turn.at_]
  refine congrArg Host.Outcome.next ((if_neg hgo).trans ?_)
  rw [hx]
  cases x <;> rfl

end Arrivals

/-- Settles O29: a move's descriptor is judged first; each tile goes as its gates let it, and an arrival's by its steps. -/
theorem moves : Obligations.Moves := by
  unfold Obligations.Moves
  refine ⟨?_, ⟨?_, ?_, ?_⟩, ?_⟩
  · intro s r i c u h
    dsimp only
    refine ⟨exec_move_plain h, exec_move_arrival h, exec_move_arrival h, fun ha harv hg => ?_⟩
    have hexec := exec_move_arrival h ha harv hg
    rw [moveRead] at hexec
    generalize memRead u (partOf r) (c.fld 0x28 8) 64 = d at hexec ⊢
    exact move_judged hexec
  · intro s r i c o n u w h htaken hplain hturn hpower ht p k src dst hread hwrite
    rw [exec_cmdTile_of h htaken hplain hturn hpower, copyTile_clean ht hread hwrite]
    rfl
  · intro s b q x u hb hawake hx p a m
    exact ⟨fun e hst he => (exec_bushelTile_of hb hawake .clean).trans (by rw [bushelTile_badParity hx hst he]),
      fun hparity hgo => (exec_bushelTile_of hb hawake .clean).trans (by rw [bushelTile_clean hx hparity hgo]; rfl)⟩
  · intro s id m g hawake hm hg hhost hgrant
    obtain ⟨t, ht, hmem⟩ := migTile_clean hawake hm hg hhost hgrant
    exact ⟨t, ht, congrArg Memory.migs hmem, by rw [hmem]; rfl, by rw [hmem]; rfl, by rw [hmem]; rfl⟩
  · intro s r i tile c h htaken harv hopen hporter hpower
    have ready : ArrivalTurn s r i tile c := ⟨h, htaken, harv, hopen, hporter, hpower⟩
    refine ⟨fun o n ht => ?_, fun ht htotal => (exec_arrivalTile_of ready ht).trans (congrArg Host.Outcome.next (if_pos htotal))⟩
    have hexec := exec_arrivalTile_of ready ht
    exact ⟨fun hgather => hexec.trans (congrArg Host.Outcome.next (if_pos hgather)),
      fun hgather hhash => hexec.trans (congrArg Host.Outcome.next ((if_neg (by simp [hgather])).trans (if_pos hhash))),
      fun hgather hhash => hexec.trans (congrArg Host.Outcome.next ((if_neg (by simp [hgather])).trans (if_neg (by simp [hhash]))))⟩

end Sys2Proof.Machine

/-! Heat scans, zero fills and the switch of a migration (R193, R196 to R198, R202). -/

namespace Sys2Proof.Machine

/-! ### Tables and bits -/

theorem rw_bump_ne (s : State) (f : Fld) (i n : Nat) {a : Nat} (h : a ≠ f.addr i) : rw (bump s f i n) a = rw s a :=
  rw_wr_ne _ _ _ _ _ h

theorem tget_tclear {α : Type} (d : Nat → α) (t : Tbl α) (k n j : Nat) :
    tget d (tclear t k n) j = if k ≤ j ∧ j < k + n then d j else tget d t j := by
  induction t with
  | nil => exact (ite_self _).symm
  | cons e t ih =>
    obtain ⟨i, v⟩ := e
    rw [tclear] at ih ⊢
    by_cases hin : k ≤ i ∧ i < k + n
    · rw [List.filter_cons_of_neg (by simp [hin.1, hin.2]), ih, tget]
      by_cases hj : i = j
      · rw [if_pos (hj ▸ hin), if_pos (hj ▸ hin)]
      · rw [if_neg hj]
    · rw [List.filter_cons_of_pos (by simp; omega), tget, tget, ih]
      by_cases hj : i = j
      · rw [if_pos hj, if_pos hj, if_neg (hj ▸ hin)]
      · rw [if_neg hj, if_neg hj]

theorem testBit_bits (x lo w i : Nat) : (bits x lo w).testBit i = (decide (i < w) && x.testBit (lo + i)) := by
  rw [bits, Nat.testBit_mod_two_pow, Nat.testBit_shiftRight]

/-- Bits that a mask leaves out of what is merged into a word of 64 bits. -/
theorem bits_or_masked {a b k lo w : Nat} (hw : lo + w ≤ 64) (hk : bits k lo w = 0) :
    bits ((a ||| (b &&& k)) % 2 ^ 64) lo w = bits a lo w := by
  refine Nat.eq_of_testBit_eq fun i => ?_
  have hki := congrArg (Nat.testBit · i) hk
  simp only [testBit_bits, Nat.zero_testBit] at hki
  simp only [testBit_bits, Nat.testBit_mod_two_pow, Nat.testBit_or, Nat.testBit_and]
  by_cases hi : i < w
  · have h64 : lo + i < 64 := by omega
    simp only [hi, decide_true, Bool.true_and] at hki
    simp [hi, h64, hki]
  · simp [hi]

theorem bit_or_masked {a b k lo : Nat} (hlo : lo < 64) (hk : k.testBit lo = false) :
    bit ((a ||| (b &&& k)) % 2 ^ 64) lo = bit a lo := by
  rw [bit, Nat.testBit_mod_two_pow, Nat.testBit_or, Nat.testBit_and, hk]
  simp [hlo, bit]

/-! ### Zero fills -/

section ZeroFill

variable {s : State} {p g : Nat} {x : Segm}

/-- The bits of an ABSENT page's entry that its filling keeps (R191, R202). -/
def fillKeep : Nat := 0xFFFFFFFFFFFFFFFF - (3 + 12 + 2 ^ 10 + (2 ^ 43 - 1) * 2 ^ 12)

/-- The page filled in T2 frame `f`. -/
def filled (s : State) (p g f : Nat) : State :=
  let u := makeLocal s p g 0 f 3 0
  bump (setL3 u p g (l3e u p g ||| (l3e s p g &&& fillKeep))) Reg.XLT_ZFILL 0 1

theorem zeroFill_owned (hgo : translate s p (g * 65536) false = .zfill) (hx : getSeg s (segKey p g) = some x) (ht : x.tier = 0)
    (hmigs : s.mem.migs = []) : zeroFill p g s = filled s p g x.frame := by
  rw [zeroFill, hgo]
  dsimp only
  rw [hx]
  dsimp only
  rw [hmigs, ht]
  rfl

/-- The entry of a page made LOCAL in T2 frame `fr`, readable and writable. -/
def localEntry (fr : Nat) : Nat := 2 + 4 * 3 + 2 ^ 8 * 0 + 2 ^ 10 * 0 + 2 ^ 12 * fr

theorem bits_localEntry {fr : Nat} (h : fr < 2 ^ 28) : eKind (localEntry fr) = 2 ∧ eRd (localEntry fr) = true ∧
    eWr (localEntry fr) = true ∧ eTier (localEntry fr) = 0 ∧ eFrame (localEntry fr) = fr := by
  simp only [eKind, eRd, eWr, eTier, eFrame, bits, bit, localEntry, Nat.shiftRight_eq_div_pow, Nat.testBit_eq_decide_div_mod_eq,
    decide_eq_true_eq]
  omega

theorem l3e_filled {f : Nat} (hf : f < 2 ^ 23) :
    l3e (filled s p g f) p g = (localEntry (f * 32 + g % 32) ||| (l3e s p g &&& fillKeep)) % 2 ^ 64 := by
  have hlocal : l3e (makeLocal s p g 0 f 3 0) p g = localEntry (f * 32 + g % 32) :=
    (l3e_setL3_same _ p g _).trans (Nat.mod_eq_of_lt (by omega))
  rw [filled, hlocal]
  exact l3e_setL3_same _ p g _

theorem filled_entry {f : Nat} (hf : f < 2 ^ 23) : let e := l3e (filled s p g f) p g
    eKind e = 2 ∧ eRd e = true ∧ eWr e = true ∧ eTier e = 0 ∧ eFrame e = f * 32 + g % 32 := by
  obtain ⟨hkind, hrd, hwr, htier, hframe⟩ := bits_localEntry (fr := f * 32 + g % 32) (by omega)
  dsimp only
  rw [l3e_filled hf]
  refine ⟨?_, ?_, ?_, ?_, ?_⟩
  · exact (bits_or_masked (by decide) (by decide)).trans hkind
  · exact (bit_or_masked (by decide) (by decide)).trans hrd
  · exact (bit_or_masked (by decide) (by decide)).trans hwr
  · exact (bits_or_masked (by decide) (by decide)).trans htier
  · exact (bits_or_masked (by decide) (by decide)).trans hframe

theorem exec_zeroFill_of (hp : p < 8) (hg : g < 2 ^ 36) (hawake : awake s = true) :
    exec (.zeroFill p g) s = .next (zeroFill p g s) := by
  show execZeroFill p g s = _
  rw [execZeroFill, onUnit_live (by rw [decide_eq_true hp, decide_eq_true hg]; rfl) hawake]

end ZeroFill

/-! ### Migrations and scans -/

theorem exec_migrationSwitch_of {s : State} {id : Nat} {m : Migr} (hawake : awake s = true)
    (hm : s.mem.migs.find? (fun m => m.id == id) = some m)
    (hdone : ((localPages s m.seg).filter fun g => !ePsn (l3e s m.part g)).length ≤ m.copied) :
    exec (.migrationSwitch id true) s = .next (bump (abortMig s m) Reg.XLT_MIG_ABORT_ERR 0 1) := by
  show execMigrationSwitch id true s = _
  rw [execMigrationSwitch, live, if_pos hawake, hm]
  exact congrArg Host.Outcome.next (if_neg (Nat.not_lt.2 hdone))

/-- Settles O30: a scan's parts in their order, a fill by the bits it writes, a switch that the copy's end lets go. -/
theorem migration : Obligations.Migration := by
  unfold Obligations.Migration
  refine ⟨⟨?_, ?_⟩, ?_⟩
  · intro s hawake s1 s2 sh
    show execHeatScan s = _
    rw [execHeatScan, live, if_pos hawake, if_neg (by rw [hawake]; decide)]
    simp only [Bool.not_eq_true']
    rfl
  · intro s p g x hp hg hawake hgo hx htier hframe hmigs
    have hexec := (exec_zeroFill_of hp hg hawake).trans (congrArg Host.Outcome.next (zeroFill_owned hgo hx htier hmigs))
    obtain ⟨hkind, hrd, hwr, ht2, hfr⟩ := filled_entry (s := s) (p := p) (g := g) hframe
    refine ⟨_, hexec, hkind, hrd, hwr, ht2, hfr, fun j => ?_, ?_, ?_⟩
    · exact tget_tclear _ _ _ _ _
    · exact rd_bump_same _ _ 0 1 (fits_of_le (by decide))
    · exact fun a ha => rw_bump_ne _ _ 0 1 fun e => ha (by rw [e]; exact List.mem_singleton_self _)
  · intro s id m hawake hm pages hdone
    refine ⟨exec_migrationSwitch_of hawake hm hdone, ?_⟩
    intro frame s1 s2 s3 s4 s5 s6
    show execMigrationSwitch id false s = _
    rw [execMigrationSwitch, live, if_pos hawake, hm]
    exact congrArg Host.Outcome.next ((if_neg (Nat.not_lt.2 hdone)).trans (if_neg (by decide)))

end Sys2Proof.Machine

/-! Detection errors in a page, and bytes through the range (R4, R185, R187, R197, R208, R209). -/

namespace Sys2Proof.Machine

/-! ### Bytes of one page -/

section PageBytes

variable {s : State} {p da a n : Nat} {write : Bool}

/-- Bytes of one page lie in its frame as they lie in the page. -/
theorem translate_along {k : Nat} (hk : da % 65536 + k < 65536) (h : translate s p da write = .t2 a) :
    translate s p (da + k) write = .t2 (a + k) := by
  have hpage : pageOf (da + k) = pageOf da := by simp only [pageOf]; omega
  have hoff : (da + k) % 65536 = da % 65536 + k := by omega
  rw [translate] at h ⊢
  dsimp only at h ⊢
  rw [hpage, hoff]
  split at h
  · cases h
  next hroot =>
  rw [if_neg hroot]
  split at h
  · cases h
  next hl2 =>
  rw [if_neg hl2]
  split at h
  · cases h
  next hbad =>
  rw [if_neg hbad]
  split at h
  · cases h
  · split at h
    · split at h <;> cases h
    · cases h
  · split at h
    · cases h
    next hport =>
    rw [if_neg hport]
    split at h
    · cases h
    next hwr =>
    rw [if_neg hwr]
    split at h
    · cases h
    next hrd =>
    rw [if_neg hrd]
    split at h
    · cases h
    next hpsn =>
    rw [if_neg hpsn]
    split at h
    · cases h
    next htier =>
    rw [if_neg htier]
    cases h
    rw [Nat.add_assoc]
  · repeat' split at h
    all_goals cases h

/-- A read that lies in one LOCAL page of T2 gives the frame's bytes. -/
theorem memRead_page (h : translate s p da false = .t2 a) (hn : da % 65536 + n ≤ 65536) :
    memRead s p da n = tbytes (fun _ => 0) s.mem.t2 a n := by
  induction n generalizing da a with
  | zero => rfl
  | succ n ih =>
    rw [memRead, tbytes, memByte, h]
    cases n with
    | zero => rfl
    | succ n => rw [ih (translate_along (by omega) h) (by omega)]

theorem pagesOf_one (hn : 0 < n) (hpage : da % 65536 + n ≤ 65536) : pagesOf da n = [pageOf da] := by
  have hone : pageOf (da + n - 1) - pageOf da + 1 = 1 := by simp only [pageOf]; omega
  rw [pagesOf, if_neg (by omega), hone]
  rfl

theorem memWrite_page (hn : 0 < n) (hpage : da % 65536 + n ≤ 65536) (h : translate s p da true = .t2 a) (v : Nat) :
    memWrite s p da n v = setMem s { s.mem with t2 := tstore (fun _ => 0) s.mem.t2 a n v } := by
  have hlo : max da (pageOf da * 65536) = da := by simp only [pageOf]; omega
  have hhi : min (da + n) ((pageOf da + 1) * 65536) = da + n := by simp only [pageOf]; omega
  rw [memWrite, pagesOf_one hn hpage]
  simp only [List.foldl_cons, List.foldl_nil, hlo, hhi, Nat.sub_self, Nat.mul_zero, Nat.pow_zero, Nat.div_one,
    Nat.add_sub_cancel_left, pageWrite, h]

end PageBytes

/-! ### Detection errors -/

section Errors

variable {s u : State} {p g k : Nat} {ok : Bool}

/-- The error counted at the port of a T3 page (R366). -/
def errorCounted (s : State) (p g : Nat) : State :=
  if eTier (l3e s p g) = 1 then bump s Reg.CAP_TAG_ERR (bits (eFrame (l3e s p g)) 25 3) 1 else s

theorem errorCounted_mem (s : State) (p g : Nat) : (errorCounted s p g).mem = s.mem := by
  unfold errorCounted
  split <;> rfl

theorem errorCounted_entry (s : State) (p g : Nat) : l3e (errorCounted s p g) p g = l3e s p g := by
  rw [l3e, errorCounted_mem]
  rfl

/-- The frame segment of a page's frame. -/
def pageFseg (s : State) (p g : Nat) : Nat := fsegKey (eTier (l3e s p g)) (eFrame (l3e s p g) / 32)

/-- The page's entry marked, and counted (R209). -/
def poisonedPage (s : State) (p g : Nat) : State :=
  bump (setL3 (errorCounted s p g) p g (putBits (l3e s p g) 5 1 1)) Reg.XLT_POISONED 0 1

theorem detected_away (h : isLocal (l3e s p g) = false) : detected s p g ok = (s, none) := by
  rw [detected]
  exact if_pos (by rw [h]; rfl)

theorem detected_unclean (h : isLocal (l3e s p g) = true) (hcln : eCln (l3e s p g) = false) :
    detected s p g ok = (noteError (poisonedPage s p g) (pageFseg s p g), some 2) := by
  rw [detected]
  refine (if_neg (by rw [h]; decide)).trans ((if_pos (by rw [hcln]; rfl)).trans ?_)
  show (noteError (bump (setL3 (errorCounted s p g) p g (putBits (l3e (errorCounted s p g) p g) 5 1 1)) Reg.XLT_POISONED 0 1)
    (pageFseg s p g), some 2) = _
  rw [errorCounted_entry, poisonedPage]

theorem detected_lost (h : isLocal (l3e s p g) = true) (hcln : eCln (l3e s p g) = true)
    (hcopy : cleanCopy (errorCounted s p g) p g ok = false) :
    detected s p g ok = (noteError (poisonedPage s p g) (pageFseg s p g), some 3) := by
  rw [detected]
  refine (if_neg (by rw [h]; decide)).trans ((if_neg (by rw [hcln]; decide)).trans ((if_neg ?_).trans ?_))
  · exact fun e => Bool.false_ne_true (hcopy.symm.trans e)
  · show (noteError (bump (setL3 (errorCounted s p g) p g (putBits (l3e (errorCounted s p g) p g) 5 1 1)) Reg.XLT_POISONED 0 1)
      (pageFseg s p g), some 3) = _
    rw [errorCounted_entry, poisonedPage]

theorem detected_repaired (h : isLocal (l3e s p g) = true) (hcln : eCln (l3e s p g) = true)
    (hcopy : cleanCopy (errorCounted s p g) p g ok = true) : detected s p g ok =
      (noteError (bump (repairPage (errorCounted s p g) p g) Reg.XLT_REPAIR 0 1) (pageFseg s p g), none) := by
  rw [detected]
  exact (if_neg (by rw [h]; decide)).trans ((if_neg (by rw [hcln]; decide)).trans (if_pos hcopy))

/-- What a detection error comes to once no clean copy is to be read for it. -/
def settled (r : State × Option Nat) (p g : Nat) : ErrAt :=
  match r with
  | (s, some sub) => .poisoned (dropRead s (.repair p g)) sub
  | (s, none) => .repaired (dropRead s (.repair p g))

theorem findError_now (h : (!isLocal (l3e s p g) || !eCln (l3e s p g) || !cleanCopy s p g ok) = true) :
    findError s p g ok = settled (detected s p g ok) p g := by
  rw [findError]
  exact if_pos h

theorem findError_read (h : (!isLocal (l3e s p g) || !eCln (l3e s p g) || !cleanCopy s p g ok) = false)
    (hread : winAsk s p (.repair p g) (copyParts s p g) = .ready) : findError s p g ok = settled (detected s p g ok) p g := by
  rw [findError]
  refine (if_neg (by rw [h]; decide)).trans ?_
  rw [hread]
  rfl

/-- The next access to the page is told the subcode (R209). -/
def errorTold (u : State) (p g sub : Nat) : State :=
  setMem u { u.mem with found := u.mem.found.filter (fun x => !(x.1 == p && x.2.1 == g)) ++ [(p, g, sub)] }

theorem psnSub_errorTold (u : State) (p g sub : Nat) : psnSub (errorTold u p g sub) p g = sub := by
  have hnone : (u.mem.found.filter fun x => !(x.1 == p && x.2.1 == g)).find? (fun x => x.1 == p && x.2.1 == g) = none := by
    refine List.find?_eq_none.2 fun x hx => ?_
    exact (Bool.not_eq_true' _).mp (List.mem_filter.1 hx).2 ▸ Bool.false_ne_true
  rw [psnSub, show (errorTold u p g sub).mem.found = _ ++ [(p, g, sub)] from rfl, List.find?_append, hnone]
  simp

/-- The repair of the page after its error, as its entry and the counter show it. -/
def marked (s : State) (p g e sub : Nat) : State :=
  errorTold (dropRead (bump (setL3 s p g e) Reg.XLT_POISONED 0 1) (.repair p g)) p g sub

theorem l3e_marked (s : State) (p g e sub q : Nat) : l3e (marked s p g e sub) p q = l3e (setL3 s p g e) p q := rfl
theorem t2_marked (s : State) (p g e sub : Nat) : (marked s p g e sub).mem.t2 = s.mem.t2 := rfl
theorem regs_marked (s : State) (p g e sub : Nat) : (marked s p g e sub).regs = (bump s Reg.XLT_POISONED 0 1).regs := rfl

theorem noteError_unused (h : getFseg s k = none) : noteError s k = s := by
  rw [noteError, h]

/-- The state once an error's settlement is known. -/
def errorMet (p g : Nat) : ErrAt → State
  | .poisoned s sub => errorTold s p g sub
  | .repaired s => s
  | .reads s => s

theorem execDetectionRepair_page : execDetectionRepair p g 0 ok s =
    onUnit (decide (p < 8) && decide (g < 2 ^ 36)) (live s (errorMet p g (findError s p g ok))) := by
  rw [execDetectionRepair]
  cases findError s p g ok <;> rfl

section Exec

variable (hp : p < 8) (hg : g < 2 ^ 36) (hawake : awake s = true)
include hp hg hawake

theorem exec_detectionRepair_settled {t : State} {r : Option Nat} (hf : findError s p g ok = settled (t, r) p g) :
    exec (.detectionRepair p g 0 ok) s = .next (errorMet p g (settled (t, r) p g)) := by
  show execDetectionRepair p g 0 ok s = _
  rw [execDetectionRepair_page, onUnit_live (by rw [decide_eq_true hp, decide_eq_true hg]; rfl) hawake, hf]

theorem exec_detectionRepair_heat (hlocal : isLocal (l3e s p g) = true) {x : FSeg} (hx : getFseg s (pageFseg s p g) = some x) :
    exec (.detectionRepair p g 4 ok) s = .next (setFseg s (pageFseg s p g) (some { x with heat := 0, age := 0 })) := by
  show onUnit (decide (p < 8) && decide (g < 2 ^ 36)) (live s (heatLost s p g)) = _
  rw [onUnit_live (by rw [decide_eq_true hp, decide_eq_true hg]; rfl) hawake]
  refine congrArg Host.Outcome.next ?_
  rw [heatLost]
  refine (if_neg (by rw [hlocal]; decide)).trans ?_
  dsimp only
  rw [show getFseg s (fsegKey (eTier (l3e s p g)) (eFrame (l3e s p g) / 32)) = some x from hx]
  rfl

theorem exec_detectionRepair_table {l : Nat} {c : Prop} [Decidable c] (hc : c) (hx : execDetectionRepair p g l ok s =
    onUnit (decide (p < 8) && decide (g < 2 ^ 36)) (live s (if c then setTblBad s l p g true else s))) :
    exec (.detectionRepair p g l ok) s = .next (setTblBad s l p g true) := by
  show execDetectionRepair p g l ok s = _
  rw [hx, onUnit_live (by rw [decide_eq_true hp, decide_eq_true hg]; rfl) hawake, if_pos hc]

end Exec

end Errors

/-- Settles O31: an error is settled by the page's entry and its clean copy; the bytes of one page lie in its frame. -/
theorem bytes : Obligations.Bytes := by
  unfold Obligations.Bytes
  refine ⟨?_, ?_⟩
  · intro s p g ok hp hg hawake e s0 k h poisoned tell
    refine ⟨fun hlocal => ?_, fun hlocal => ⟨fun hcln => ?_, fun hcln hcopy hcopy0 => ?_, fun hcln hcopy hcopy0 hread => ?_,
      fun hcln htier hseg => ?_, fun x hx => exec_detectionRepair_heat hp hg hawake hlocal hx⟩,
      fun hc => exec_detectionRepair_table hp hg hawake hc rfl, fun hc => exec_detectionRepair_table hp hg hawake hc rfl,
      fun hc => exec_detectionRepair_table hp hg hawake hc rfl⟩
    · exact exec_detectionRepair_settled hp hg hawake
        ((findError_now (ok := ok) (by rw [hlocal]; rfl)).trans (by rw [detected_away hlocal]))
    · exact exec_detectionRepair_settled hp hg hawake
        ((findError_now (ok := ok) (by rw [hlocal, hcln]; rfl)).trans (by rw [detected_unclean hlocal hcln]))
    · exact exec_detectionRepair_settled hp hg hawake
        ((findError_now (ok := ok) (by rw [hlocal, hcln, hcopy]; rfl)).trans (by rw [detected_lost hlocal hcln hcopy0]))
    · exact exec_detectionRepair_settled hp hg hawake
        ((findError_read (by rw [hlocal, hcln, hcopy]; rfl) hread).trans (by rw [detected_repaired hlocal hcln hcopy0]))
    · have hexec := exec_detectionRepair_settled hp hg hawake
        ((findError_now (ok := ok) (by rw [hlocal, hcln]; rfl)).trans (by rw [detected_unclean hlocal hcln]))
      have hmarked : poisonedPage s p g = bump (setL3 s p g (putBits e 5 1 1)) Reg.XLT_POISONED 0 1 :=
        congrArg (fun u => bump (setL3 u p g (putBits e 5 1 1)) Reg.XLT_POISONED 0 1) (if_neg (by rw [htier]; decide))
      rw [hmarked, noteError_unused (show getFseg (bump (setL3 s p g (putBits e 5 1 1)) Reg.XLT_POISONED 0 1)
        (pageFseg s p g) = none from hseg)]
        at hexec
      refine ⟨marked s p g (putBits e 5 1 1) 2, hexec, ?_, fun q hq => ?_, ?_, psnSub_errorTold _ p g 2, t2_marked _ _ _ _ _⟩
      · exact (l3e_marked _ _ _ _ _ _).trans (l3e_setL3_same s p g _)
      · exact (l3e_marked _ _ _ _ _ _).trans (l3e_setL3_ne s p _ hq)
      · exact (rd_of_regs (regs_marked s p g _ 2) _ _).trans (rd_bump_same s Reg.XLT_POISONED 0 1 (fits_of_le (by decide)))
  · intro s p da n v a hn hpage hwrite hread
    have hmem := memWrite_page hn hpage hwrite v
    dsimp only
    rw [hmem]
    refine ⟨?_, fun j hj => tget_tstore_out _ n _ a v j hj, rfl⟩
    have hbytes : memRead (setMem s { s.mem with t2 := tstore (fun _ => 0) s.mem.t2 a n v }) p da n =
        tbytes (fun _ => 0) (tstore (fun _ => 0) s.mem.t2 a n v) a n := memRead_page hread hpage
    exact hbytes.trans ((tbytes_tstore _ n _ a v).trans (congrArg (v % ·) (Nat.pow_mul 2 8 n).symm))

end Sys2Proof.Machine

/-! ADMIT and UNADMIT (R223, R227, R235). -/

namespace Sys2Proof.Machine

section Admission

variable {s u : State} {r i op : Nat} {c : Cmd}

/-- A command that its engine ends at once changes no more than commands in flight. -/
theorem Turn.onlyFlight (h : Turn s r i op c) (status sub : Nat) :
    Ends (claimed c r i (finish (takeCmd s c) r i status sub)) r i status sub ∧
      OnlyFlight s (claimed c r i (finish (takeCmd s c) r i status sub)) := by
  refine ⟨(h.ends status sub).1, ?_⟩
  have hrest := takeCmd_rest s c
  generalize takeCmd s c = u at hrest ⊢
  rw [hrest]
  rfl

/-! ### ADMIT -/

/-- ADMIT once its regions are known to hold, by what the reads of them give. -/
def admitRead (r i b first count : Nat) (c : Cmd) (h : Container) (l : List (Nat × Nat)) : Gate → State
  | .wait v => v
  | .held v => setAside v r i
  | .go v => fresh (admitGo (imageBytes v (partOf r) ((b, 256) :: l)) c h first count)

/-- ADMIT with its container's header read (R223, R227). -/
def admitHeader (u : State) (r i b first count : Nat) (c : Cmd) : State :=
  let p := partOf r
  let h := readContainer u p b
  if !headerOk u p h then finish (fresh (imageBytes u p [(b, 256)])) r i 0x53 0
  else
    let l := admitReads h first count
    if !regionsOk h.size (regions h) then finish (fresh (imageBytes u p [(b, 256)])) r i 0x53 0
    else admitRead r i b first count c h l (gateAll u p false (.tile r i) ((b, 256) :: l))

/-- ADMIT by what the read of its container's header gives. -/
def admitStart (r i b first count : Nat) (c : Cmd) : Gate → State
  | .wait u => u
  | .held u => setAside u r i
  | .go u => admitHeader u r i b first count c

theorem exec_admitSlot_of {g : Gate} (h : Turn s r i 0x2B c) (hrim : rimRuns (takeCmd s c) = true)
    (hg : gate (takeCmd s c) (partOf r) (c.fld 0x10 8) 256 false false (.tile r i) = g) : exec (.admitSlot r i) s =
      .next (claimed c r i (admitStart r i (c.fld 0x10 8) (c.fld 0x18 8) (c.fld 0x20 8) (going c) g)) := by
  have hfld : ∀ o n, (going c).fld o n = c.fld o n := fun _ _ => rfl
  show execAdmit r i s = _
  rw [execAdmit, onCmd_turn h]
  refine claimed_congr ((if_neg (by rw [hrim]; decide)).trans ?_) r i c
  simp only [hfld, hg]
  cases g with
  | wait v => rfl
  | held v => rfl
  | go v =>
    rw [admitStart, admitHeader]
    dsimp only
    refine if_congr .rfl rfl (if_congr .rfl rfl ?_)
    generalize gateAll v (partOf r) false (.tile r i) _ = g
    cases g <;> rfl

section Header

variable {b first count : Nat}

theorem admitHeader_bad (h : headerOk u (partOf r) (readContainer u (partOf r) b) = false ∨
      regionsOk (readContainer u (partOf r) b).size (regions (readContainer u (partOf r) b)) = false) :
    admitHeader u r i b first count c = finish (fresh (imageBytes u (partOf r) [(b, 256)])) r i 0x53 0 := by
  rw [admitHeader]
  dsimp only
  split
  · rfl
  · next hheader =>
    refine if_pos ?_
    rw [h.resolve_left (by simpa using hheader)]
    rfl

theorem admitHeader_good (hheader : headerOk u (partOf r) (readContainer u (partOf r) b) = true)
    (hregions : regionsOk (readContainer u (partOf r) b).size (regions (readContainer u (partOf r) b)) = true) {g : Gate}
    (hg : gateAll u (partOf r) false (.tile r i) ((b, 256) :: admitReads (readContainer u (partOf r) b) first count) = g) :
    admitHeader u r i b first count c = admitRead r i b first count c (readContainer u (partOf r) b)
      (admitReads (readContainer u (partOf r) b) first count) g := by
  rw [admitHeader]
  exact (if_neg (by rw [hheader]; decide)).trans ((if_neg (by rw [hregions]; decide)).trans (by rw [hg]))

end Header

/-! ### UNADMIT -/

/-- UNADMIT by the slot it names. -/
def unadmitSlot (u : State) (r i k : Nat) : Option ASlot → State
  | none => finish u r i 0 0
  | some x => if x.part = partOf r then finish (slotLost (setSlot u k none) k x) r i 0 0 else finish u r i 0x36 0

theorem exec_unadmit_of {x : Option ASlot} (h : Turn s r i 0x2C c) (hrim : rimRuns (takeCmd s c) = true)
    (hx : tget (fun _ => none) s.mem.slots (c.fld 0x33 1) = x) :
    exec (.unadmit r i) s = .next (claimed c r i (unadmitSlot (takeCmd s c) r i (c.fld 0x33 1) x)) := by
  show execUnadmit r i s = _
  rw [execUnadmit, onCmd_turn h]
  refine claimed_congr ((if_neg (by rw [hrim]; decide)).trans ?_) r i c
  rw [show tget (fun _ => none) (takeCmd s c).mem.slots ((going c).fld 0x33 1) = x from by rw [takeCmd_mem]; exact hx]
  cases x <;> rfl

theorem getCmd_setSlot (u : State) (k : Nat) (x : Option ASlot) (r i : Nat) : getCmd (setSlot u k x) r i = getCmd u r i := rfl

theorem slots_freed (u : State) (k : Nat) (x : ASlot) (r i : Nat) (c : Cmd) :
    (claimed c r i (finish (slotLost (setSlot u k none) k x) r i 0 0)).mem.slots = tset (fun _ => none) u.mem.slots k none := rfl

theorem getCmd_slotLost {k : Nat} {x : ASlot} {d : Cmd} (h : getCmd u r i = some d) :
    ∃ e, getCmd (slotLost u k x) r i = some e := by
  refine Option.isSome_iff_exists.1 ?_
  rw [getCmd, slotLost]
  dsimp only
  rw [List.find?_isSome]
  obtain ⟨hr, hi⟩ := getCmd_ids h
  refine ⟨_, List.mem_map_of_mem (List.mem_of_find?_eq_some h), ?_⟩
  split <;> simp [hr, hi]

end Admission

/-- Settles O32: a container is judged as far as its reads are granted; a slot is freed by its own partition alone. -/
theorem admission : Obligations.Admission := by
  unfold Obligations.Admission
  intro s r i c s1 p b k hrim
  refine ⟨fun h => ⟨fun u hu => ?_, fun u hu => exec_admitSlot_of h hrim hu, fun u hu => exec_admitSlot_of h hrim hu⟩,
    fun h => ⟨fun x hx hpart => ?_, fun x hx hpart => ?_, fun hx => ?_⟩⟩
  · have hexec := exec_admitSlot_of h hrim hu
    rw [admitStart] at hexec
    refine ⟨fun hbad => hexec.trans (claimed_congr (admitHeader_bad hbad) _ _ _), fun hheader hregions => ?_⟩
    exact ⟨fun v hv => hexec.trans (claimed_congr (admitHeader_good hheader hregions hv) _ _ _),
      fun v hv => hexec.trans (claimed_congr (admitHeader_good hheader hregions hv) _ _ _),
      fun v hv => hexec.trans (claimed_congr (admitHeader_good hheader hregions hv) _ _ _)⟩
  · obtain ⟨e, he⟩ := getCmd_slotLost (u := setSlot s1 k none) (k := k) (x := x)
      ((getCmd_setSlot s1 k none r i).trans h.getTaken)
    refine ⟨_, (exec_unadmit_of h hrim hx).trans (claimed_congr (if_pos hpart) _ _ _), ?_, fun j hj => ?_,
      ends_finish he 0 0, fun a _ => rw_takeCmd s c a⟩
    · rw [slots_freed, tget_tset_same]
    · rw [slots_freed, tget_tset_ne _ _ _ hj, takeCmd_mem]
  · exact ⟨_, (exec_unadmit_of h hrim hx).trans (claimed_congr (if_neg hpart) _ _ _), h.onlyFlight 0x36 0⟩
  · exact ⟨_, exec_unadmit_of h hrim hx, h.onlyFlight 0 0⟩

end Sys2Proof.Machine

/-! What interrupts and agents' writes of registers leave (R6, R7, R320 to R328, R333, R355, R432). -/

namespace Sys2Proof.Machine

/-! ### Register words that hold -/

/-- The register words of `P` are as before. -/
def WordsOn (P : Nat → Prop) (s t : State) : Prop := ∀ a, P a → rw t a = rw s a

namespace WordsOn

variable {P : Nat → Prop} {s t u : State}

theorem refl (s : State) : WordsOn P s s := fun _ _ => rfl

theorem trans (h : WordsOn P s t) (k : WordsOn P t u) : WordsOn P s u := fun a ha => (k a ha).trans (h a ha)

theorem of_regs (h : t.regs = s.regs) : WordsOn P s t := fun a _ => congrArg (fun m => tget resetWord m a) h

theorem wr {f : Fld} {i : Nat} (hf : ¬P (f.addr i)) (s : State) (v : Nat) : WordsOn P s (wr s f i v) :=
  fun _ ha => rw_wr_ne _ _ _ _ _ fun e => hf (e ▸ ha)

theorem ite {c : Prop} [Decidable c] (ht : WordsOn P s t) (hu : WordsOn P s u) : WordsOn P s (if c then t else u) := by
  split
  · exact ht
  · exact hu

theorem each {α : Type} {f : State → α → State} (hf : ∀ s a, WordsOn P s (f s a)) (l : List α) (s : State) :
    WordsOn P s (eachOf l s f) :=
  eachOf_rel .refl (fun _ _ _ => .trans) hf l s

theorem rd (h : WordsOn P s t) {f : Fld} {i : Nat} (hf : P (f.addr i)) : rd t f i = rd s f i :=
  congrArg (fun w => getF f.lo f.w w) (h _ hf)

end WordsOn

/-- Nothing but register words, the Skein and the messages sent changed. -/
def OnlySent (s t : State) : Prop := t = { s with regs := t.regs, skl := t.skl, out := t.out }

/-- What a signal may do: the words of `P` stand, and nothing but registers, the Skein and messages changed. -/
structure Signals (P : Nat → Prop) (s t : State) : Prop where
  words : WordsOn P s t
  only : OnlySent s t

namespace Signals

variable {P Q : Nat → Prop} {s t u : State}

theorem refl (s : State) : Signals P s s := ⟨.refl s, rfl⟩

theorem trans (h : Signals P s t) (k : Signals P t u) : Signals P s u := by
  refine ⟨h.words.trans k.words, ?_⟩
  have e : u = { t with regs := u.regs, skl := u.skl, out := u.out } := k.only
  rw [show t = { s with regs := t.regs, skl := t.skl, out := t.out } from h.only] at e
  exact e

theorem wr {f : Fld} {i : Nat} (hf : ¬P (f.addr i)) (s : State) (v : Nat) : Signals P s (wr s f i v) := ⟨.wr hf s v, rfl⟩

theorem ite {c : Prop} [Decidable c] (ht : Signals P s t) (hu : Signals P s u) : Signals P s (if c then t else u) := by
  split
  · exact ht
  · exact hu

theorem weaken (h : Signals Q s t) (hPQ : ∀ a, P a → Q a) : Signals P s t := ⟨fun a ha => h.words a (hPQ a ha), h.only⟩

end Signals

/-! ### Interrupts -/

/-- The word is no port's count of flits sent. -/
def NoFlitWord (a : Nat) : Prop := ∀ n, a ≠ Reg.SKL_TX_FLITS.addr n

/-- The word is none that bit `k` of page `pg` may change when it interrupts: the page's INT_STAT, its pending vector, a
port's count of flits sent. -/
structure NoIntWord (pg k a : Nat) : Prop where
  stat : a ≠ Reg.HDR_INT_STAT.addr pg
  pending : a ≠ Reg.FUS_IVEC_PEND.addr (vectorOf pg k)
  flits : NoFlitWord a

/-- Registers of a block other than FUS and the ports, beyond the page header. -/
theorem noIntWord_of_block {pg k a : Nat} (hv : vectorOf pg k < 64) (h : 0x100 ≤ a % 0x1000)
    (hpage : a < 0xF000 ∨ 0x10000 ≤ a ∧ a < 0x50000) : NoIntWord pg k a := by
  refine ⟨?_, ?_, fun n => ?_⟩
  · simp only [Fld.addr, Reg.HDR_INT_STAT]
    omega
  · simp only [Fld.addr, Reg.FUS_IVEC_PEND]
    omega
  · simp only [Fld.addr, Reg.SKL_TX_FLITS]
    omega

theorem sendOn_signals (s : State) (n : Nat) (f : Flit) : Signals NoFlitWord s (sendOn s n f) :=
  .ite ⟨(WordsOn.of_regs (t := emit (setPort s n _) _) rfl).trans (.wr (fun h => h n rfl) _ _), rfl⟩ ⟨.of_regs rfl, rfl⟩

/-- Choosing a port changes at most the ports' rotation. -/
theorem choosePort_regs (s : State) (f : Flit) :
    (choosePort s f).2.regs = s.regs ∧ OnlySent s (choosePort s f).2 := by
  unfold choosePort
  dsimp only
  split
  · exact ⟨rfl, rfl⟩
  · split
    · exact ⟨rfl, rfl⟩
    · split <;> exact ⟨rfl, rfl⟩

theorem route_signals (s : State) (f : Flit) : Signals NoFlitWord s (route s f) := by
  obtain ⟨hregs, honly⟩ := choosePort_regs s f
  unfold route
  split
  · exact .refl s
  · split
    · next n u hu =>
      rw [hu] at hregs honly
      exact Signals.trans ⟨.of_regs hregs, honly⟩ (sendOn_signals u n f)
    · next u hu =>
      rw [hu] at hregs honly
      exact ⟨.of_regs hregs, honly⟩

theorem raiseInt_signals (s : State) (pg k : Nat) : Signals (NoIntWord pg k) s (raiseInt s pg k) := by
  have hset : Signals (NoIntWord pg k) s (setBit s Reg.HDR_INT_STAT pg k) := .wr (fun h => h.stat rfl) _ _
  have hsend (u : State) : Signals (NoIntWord pg k) u (sendVec u (vectorOf pg k)) :=
    .ite (.wr (fun h => h.pending rfl) _ _) ⟨.of_regs rfl, rfl⟩
  have hforward (u : State) : Signals (NoIntWord pg k) u (forwardInt u pg) :=
    .ite ((route_signals _ _).weaken fun _ h => h.flits) (.refl u)
  exact .ite (hset.trans ((hsend _).trans (hforward _))) hset

theorem rd_raiseInt {pg k : Nat} {f : Fld} {i : Nat} (h : NoIntWord pg k (f.addr i)) (s : State) :
    rd (raiseInt s pg k) f i = rd s f i :=
  (raiseInt_signals s pg k).words.rd h

/-! ### Fields of a register written by an agent -/

section Stored

variable {a v : Nat} {f : Fld}

theorem getF_setF_bits (hf : f.lo + f.w ≤ 32) (v : Nat) (x : Word) :
    getF f.lo f.w (setF f.lo f.w (bits v f.lo f.w) x) = bits v f.lo f.w := by
  rw [getF_setF_same _ _ _ _ hf, bits, Nat.mod_mod]

/-- A field that takes what is written holds it. -/
theorem getF_writeField_rw (hf : f.lo + f.w ≤ 32) (hrw : f.acc = .rw) (s : State) :
    getF f.lo f.w (rw (writeField a v s f) a) = bits v f.lo f.w := by
  rw [writeField, hrw]
  exact (congrArg _ (rw_ww_same _ _ _)).trans (getF_setF_bits hf v _)

/-- The bits of two fields of a register share no place. -/
def Fld.clear (f g : Fld) : Bool := decide (f.lo + f.w ≤ g.lo) || decide (g.lo + g.w ≤ f.lo)

theorem getF_writeField_clear {g : Fld} (hf : f.lo + f.w ≤ 32) (h : f.clear g = true) (s : State) :
    getF f.lo f.w (rw (writeField a v s g) a) = getF f.lo f.w (rw s a) := by
  have hd : f.lo + f.w ≤ g.lo ∨ g.lo + g.w ≤ f.lo := by simpa [Fld.clear] using h
  unfold writeField
  split
  · rw [rw_ww_same, getF_setF_other _ _ _ _ _ _ hf hd]
  · rw [rw_ww_same, getF_setF_other _ _ _ _ _ _ hf hd]
  · rfl

theorem getF_writeFields_clear (hf : f.lo + f.w ≤ 32) {fs : List Fld} (h : ∀ g ∈ fs, f.clear g = true ∨ g.acc = .ro ∨ g.acc = .wo)
    (s : State) : getF f.lo f.w (rw (fs.foldl (writeField a v) s) a) = getF f.lo f.w (rw s a) := by
  induction fs generalizing s with
  | nil => rfl
  | cons g fs ih =>
    rw [List.foldl_cons, ih fun x hx => h x (List.mem_cons_of_mem _ hx)]
    rcases h g List.mem_cons_self with hg | hg | hg
    · exact getF_writeField_clear hf hg s
    · rw [writeField, hg]
    · rw [writeField, hg]

/-- The bits of every field of a register but `f` lie apart from its own. -/
abbrev Fld.alone (f : Fld) (fs : List Fld) : Prop := ∀ g ∈ fs, g = f ∨ f.clear g = true

/-- A field that is written holds the bits written there, each other field of the register lying apart from it. -/
theorem getF_writeFields_rw (hf : f.lo + f.w ≤ 32) (hrw : f.acc = .rw) {fs : List Fld} (hmem : f ∈ fs) (halone : f.alone fs)
    (s : State) : getF f.lo f.w (rw (fs.foldl (writeField a v) s) a) = bits v f.lo f.w := by
  induction fs generalizing s with
  | nil => cases hmem
  | cons g fs ih =>
    by_cases hlater : f ∈ fs
    · exact ih hlater (fun x hx => halone x (List.mem_cons_of_mem _ hx)) _
    · have hg : g = f := ((List.mem_cons.1 hmem).resolve_right hlater).symm
      have hclear : ∀ x ∈ fs, f.clear x = true ∨ x.acc = .ro ∨ x.acc = .wo := fun x hx =>
        .inl ((halone x (List.mem_cons_of_mem _ hx)).resolve_left fun e => hlater (e ▸ hx))
      rw [List.foldl_cons, getF_writeFields_clear hf hclear, hg, getF_writeField_rw hf hrw]

/-- The address is one of a block's registers beyond the page header. -/
abbrev inBlock (a : Nat) : Prop := 0x100 ≤ a % 0x1000 ∧ a % 0x1000 < 0xF00

/-- The plain write of a block's register: its fields, its shadow, a flagged reserved bit. -/
theorem stored_block (ag : Agent) (ha : inBlock a) (v : Nat) (s : State) : stored ag a v s =
    let u := (fieldsAt a).foldl (writeField a v) s
    let w := if woMask a = 0 then u else ww u (shadowAddr a) (BitVec.ofNat 32 (v &&& woMask a))
    if v &&& definedMask a = v then w else pageErr w Reg.HDR_ERR_SUM_RSVD_WR (a / 0x1000) := by
  obtain ⟨hlow, hhigh⟩ := ha
  have hErr : a % 0x1000 ≠ 0x18 := by omega
  have hInt : a % 0x1000 ≠ 0x28 := by omega
  have hLock : a % 0x1000 ≠ 0x38 := by omega
  have hBlock : ¬a % 0x1000 ≥ 0xF00 := by omega
  simp only [stored, writeWord, noFx, if_neg hErr, if_neg hInt, if_neg hLock, if_neg hBlock]

theorem rw_pageErr_block (ha : inBlock a) (s : State) (f : Fld) (pg : Nat) (hf : f.addr pg = Reg.HDR_ERR_SUM_RSVD_WR.addr pg) :
    rw (pageErr s f pg) a = rw s a := by
  obtain ⟨hlow, -⟩ := ha
  have hsum : a ≠ Reg.HDR_ERR_SUM_RSVD_WR.addr pg := by simp only [Fld.addr, Reg.HDR_ERR_SUM_RSVD_WR]; omega
  have hstatus : a ≠ Reg.HDR_STATUS_ERROR.addr pg := by simp only [Fld.addr, Reg.HDR_STATUS_ERROR]; omega
  rw [pageErr, rw_wr_ne _ _ _ _ _ hstatus, rw_wr_ne _ _ _ _ _ (hf ▸ hsum)]

/-- What the register itself holds after a plain write is what its fields took. -/
theorem rw_stored_own (ag : Agent) (ha : inBlock a) (hshadow : woMask a = 0 ∨ shadowAddr a ≠ a) (v : Nat) (s : State) :
    rw (stored ag a v s) a = rw ((fieldsAt a).foldl (writeField a v) s) a := by
  have hw : rw (if woMask a = 0 then (fieldsAt a).foldl (writeField a v) s
      else ww ((fieldsAt a).foldl (writeField a v) s) (shadowAddr a) (BitVec.ofNat 32 (v &&& woMask a))) a =
      rw ((fieldsAt a).foldl (writeField a v) s) a := by
    split
    · rfl
    · next h => exact rw_ww_ne _ _ (hshadow.resolve_left h).symm
  rw [stored_block ag ha]
  dsimp only
  split
  · exact hw
  · rw [rw_pageErr_block ha _ _ _ rfl, hw]

/-- A field that an agent may write holds what was written there. -/
theorem rd_stored_rw (ag : Agent) {i : Nat} (hi : f.addr i = a) (ha : inBlock a) (hshadow : woMask a = 0 ∨ shadowAddr a ≠ a)
    (hf : f.lo + f.w ≤ 32) (hrw : f.acc = .rw) (hmem : f ∈ fieldsAt a) (halone : f.alone (fieldsAt a)) (v : Nat) (s : State) :
    rd (stored ag a v s) f i = bits v f.lo f.w := by
  rw [rd, hi, rw_stored_own ag ha hshadow, getF_writeFields_rw hf hrw hmem halone]

/-- A field apart from those an agent may write keeps its value. -/
theorem rd_stored_clear (ag : Agent) {i : Nat} (hi : f.addr i = a) (ha : inBlock a) (hshadow : woMask a = 0 ∨ shadowAddr a ≠ a)
    (hf : f.lo + f.w ≤ 32) (hclear : ∀ g ∈ fieldsAt a, f.clear g = true ∨ g.acc = .ro ∨ g.acc = .wo) (v : Nat) (s : State) :
    rd (stored ag a v s) f i = rd s f i := by
  rw [rd, hi, rw_stored_own ag ha hshadow, getF_writeFields_clear hf hclear, rd, hi]

end Stored

end Sys2Proof.Machine

/-! Doorbells, ring control and the front end's registers (R239, R252, R254, R256, R257, R264, R265). -/

namespace Sys2Proof.Machine

/-! ### What the front end's own bookkeeping leaves -/

/-- Nothing but which commands are dispatchable, and the standings, changed (R255). -/
def OnlyStanding (s t : State) : Prop :=
  t = { s with front := { s.front with fetched := t.front.fetched, vf := t.front.vf, vp := t.front.vp } }

theorem OnlyStanding.trans {s t u : State} (h : OnlyStanding s t) (k : OnlyStanding t u) : OnlyStanding s u := by
  have e : u = { t with front := { t.front with fetched := u.front.fetched, vf := u.front.vf, vp := u.front.vp } } := k
  rw [show t = { s with front := { s.front with fetched := t.front.fetched, vf := t.front.vf, vp := t.front.vp } } from h] at e
  exact e

theorem raiseStanding_only (s : State) (c : Cmd) : OnlyStanding s (raiseStanding s c) := by
  unfold raiseStanding
  split
  · rfl
  · dsimp only
    split
    · rfl
    · split
      · rfl
      · unfold setStanding
        split <;> rfl

theorem noteReady_only (s : State) : OnlyStanding s (noteReady s) := by
  refine eachOf_rel (R := OnlyStanding) (fun _ => rfl) (fun _ _ _ => .trans) (fun s r => ?_) _ s
  split
  · next c hc =>
    split
    · rfl
    · exact (raiseStanding_only s c).trans rfl
  · rfl

@[simp] theorem noteReady_regs (s : State) : (noteReady s).regs = s.regs := by rw [noteReady_only]
@[simp] theorem noteReady_mem (s : State) : (noteReady s).mem = s.mem := by rw [noteReady_only]
@[simp] theorem noteReady_semVal (s : State) : (noteReady s).front.semVal = s.front.semVal := by rw [noteReady_only]
@[simp] theorem noteReady_semErr (s : State) : (noteReady s).front.semErr = s.front.semErr := by rw [noteReady_only]
@[simp] theorem noteReady_inflight (s : State) : (noteReady s).front.inflight = s.front.inflight := by rw [noteReady_only]
@[simp] theorem noteReady_retired (s : State) : (noteReady s).front.retired = s.front.retired := by rw [noteReady_only]

/-- The end of a ring's latch touches no register, no command in flight or retired, no byte and no lock. -/
structure LatchOnly (s t : State) : Prop where
  regs : t.regs = s.regs
  mem : t.mem = s.mem
  inflight : t.front.inflight = s.front.inflight
  retired : t.front.retired = s.front.retired
  log2 : t.front.log2 = s.front.log2

theorem LatchOnly.refl (s : State) : LatchOnly s s := ⟨rfl, rfl, rfl, rfl, rfl⟩

theorem LatchOnly.trans {s t u : State} (h : LatchOnly s t) (k : LatchOnly t u) : LatchOnly s u :=
  ⟨k.regs.trans h.regs, k.mem.trans h.mem, k.inflight.trans h.inflight, k.retired.trans h.retired, k.log2.trans h.log2⟩

theorem noteReady_latchOnly (s : State) : LatchOnly s (noteReady s) := by
  rw [noteReady_only]
  exact ⟨rfl, rfl, rfl, rfl, rfl⟩

theorem setSem_latchOnly (s : State) (p i v : Nat) : LatchOnly s (setSem s p i v) := ⟨rfl, rfl, rfl, rfl, rfl⟩
theorem setModel_latchOnly (s : State) (p m : Nat) (x : Model) : LatchOnly s (setModel s p m x) := ⟨rfl, rfl, rfl, rfl, rfl⟩
theorem refAdd_latchOnly (s : State) (p m set : Nat) (d : Int) : LatchOnly s (refAdd s p m set d) := setModel_latchOnly s p m _
theorem setLatchM_latchOnly (s : State) (r : Nat) (x : Option (Nat × Nat)) : LatchOnly s (setLatchM s r x) :=
  ⟨rfl, rfl, rfl, rfl, rfl⟩

theorem swapCheck_latchOnly (s : State) (p m : Nat) : LatchOnly s (swapCheck s p m) := by
  unfold swapCheck
  dsimp only
  split
  · exact (setModel_latchOnly s p m _).trans ((setSem_latchOnly _ p _ _).trans (noteReady_latchOnly _))
  · exact .refl s

theorem latchDrop_latchOnly (s : State) (r : Nat) : LatchOnly s (latchDrop s r) := by
  unfold latchDrop
  split
  · exact .refl s
  · dsimp only
    split
    · exact (setLatchM_latchOnly s r none).trans ((refAdd_latchOnly _ _ _ _ _).trans (swapCheck_latchOnly _ _ _))
    · exact .refl s

theorem dropFetched_words (s : State) (r : Nat) : WordsOn (· ≠ Reg.CMD_RING_HEAD.addr r) s (dropFetched s r) := by
  unfold dropFetched
  split
  · exact .refl s
  · exact (WordsOn.wr (fun h => h rfl) s _).trans (.of_regs rfl)

theorem dropFetched_front (s : State) (r : Nat) : (dropFetched s r).mem = s.mem ∧
    (dropFetched s r).front.inflight = s.front.inflight ∧ (dropFetched s r).front.retired = s.front.retired := by
  unfold dropFetched
  split <;> exact ⟨rfl, rfl, rfl⟩

theorem stopFetch_words (s : State) (r : Nat) : WordsOn (· ≠ Reg.CMD_RING_HEAD.addr r) s (stopFetch s r) :=
  (dropFetched_words s r).trans (.of_regs (latchDrop_latchOnly _ r).regs)

/-! ### Doorbells -/

section Doorbell

variable {s : State} {ag : Agent} {r v : Nat}

theorem ringWord_block (hr : r < 64) (k : Nat) (hk : k < 0x20) : inBlock (0x1100 + k + r * 0x20) := by
  simp only [inBlock]
  omega

theorem doorbell_block (hr : r < 64) : inBlock (Reg.CMD_RING_DB.addr r) := ringWord_block hr 0x0C (by decide)

theorem doorbell_fields : ∀ r < 64, fieldsAt (Reg.CMD_RING_DB.addr r) = [Reg.CMD_RING_DB] ∧
    woMask (Reg.CMD_RING_DB.addr r) = 2 ^ 32 - 1 ∧ definedMask (Reg.CMD_RING_DB.addr r) = 2 ^ 32 - 1 ∧
    shadowAddr (Reg.CMD_RING_DB.addr r) = 0x1F00 + 4 * r := by decide +kernel

/-- A doorbell stands in its shadow, and nowhere else (R239, R265). -/
theorem stored_doorbell (hr : r < 64) (hv : v < 2 ^ 32) :
    stored ag (Reg.CMD_RING_DB.addr r) v s = ww s (0x1F00 + 4 * r) (BitVec.ofNat 32 v) := by
  obtain ⟨hfields, hwo, hdef, hshadow⟩ := doorbell_fields r hr
  have hmask : v &&& (2 ^ 32 - 1) = v := (Nat.and_two_pow_sub_one_eq_mod v 32).trans (Nat.mod_eq_of_lt hv)
  rw [stored_block ag (doorbell_block hr), hfields, hwo, hdef, hshadow]
  dsimp only
  rw [hmask, if_pos rfl]
  rfl

theorem exec_doorbell_of (hr : r < 64) (h : Open s ag (Reg.CMD_RING_DB.addr r)) : exec (.doorbell ag r v) s =
    .next (fxDoorbell r (v % 2 ^ 32) (ww s (0x1F00 + 4 * r) (BitVec.ofNat 32 (v % 2 ^ 32)))) := by
  have hv : v % 2 ^ 32 < 2 ^ 32 := Nat.mod_lt _ (by decide)
  have hblock := doorbell_block hr
  have h4 : Reg.CMD_RING_DB.addr r % 4 = 0 := by simp only [Fld.addr, Reg.CMD_RING_DB]; omega
  show onUnit _ _ = _
  rw [onUnit, if_pos (show ringOk r = true from decide_eq_true hr), agentWrite_open h h4 hblock.2, Nat.mod_mod, stored_doorbell hr hv]

theorem rd_doorbell (hr : r < 64) (w : Word) {f : Fld} (hf : f.addr r < 0x1F00) :
    rd (ww s (0x1F00 + 4 * r) w) f r = rd s f r := by
  rw [rd, rw_ww_ne _ _ (by omega), rd]

end Doorbell

/-! ### Ring errors -/

section RingError

variable {s : State} {r : Nat}

theorem ringState_addr (r : Nat) : Reg.CMD_RING_CFG_STATE.addr r ≠ Reg.CMD_RING_HEAD.addr r := by
  simp only [Fld.addr, Reg.CMD_RING_CFG_STATE, Reg.CMD_RING_HEAD]; omega

theorem ringWord_noInt {a k : Nat} (ha : inBlock a) (hpage : a < 0x2000) (hk : k < 64) : NoIntWord 1 k a :=
  noIntWord_of_block (by simpa [vectorOf] using hk) ha.1 (.inl (by omega))

theorem ringError_state (hr : r < 64) (code : Nat) (hcode : code < 256) :
    rd (ringError s r code) Reg.CMD_RING_CFG_STATE r = 3 ∧ rd (ringError s r code) Reg.CMD_RING_CFG_ERR r = code := by
  have hblock : inBlock (Reg.CMD_RING_CFG_STATE.addr r) := ringWord_block hr 8 (by decide)
  have hint : NoIntWord 1 (8 + partOf r) (Reg.CMD_RING_CFG_STATE.addr r) :=
    ringWord_noInt hblock (by simp only [Fld.addr, Reg.CMD_RING_CFG_STATE]; omega) (by rw [partOf]; omega)
  have hstop := (stopFetch_words (wr (wr s Reg.CMD_RING_CFG_STATE r 3) Reg.CMD_RING_CFG_ERR r code) r)
  constructor
  · rw [ringError, rd_raiseInt hint, hstop.rd (ringState_addr r), rd_wr_bits _ _ _ _ (by decide) (by decide),
      rd_wr_self _ _ _ (by decide)]
    rfl
  · rw [ringError, rd_raiseInt (show NoIntWord 1 _ (Reg.CMD_RING_CFG_ERR.addr r) from hint),
      hstop.rd (show Reg.CMD_RING_CFG_ERR.addr r ≠ _ from ringState_addr r), rd_wr_self _ _ _ (by decide)]
    exact Nat.mod_eq_of_lt hcode

end RingError

/-! ### Ring control -/

section RingControl

variable {s : State} {ag : Agent} {r v : Nat}

theorem ringCfg_block (hr : r < 64) : inBlock (Reg.CMD_RING_CFG_EN.addr r) := ringWord_block hr 8 (by decide)

theorem ringCfg_fields : ∀ r < 64, fieldsAt (Reg.CMD_RING_CFG_EN.addr r) = [Reg.CMD_RING_CFG_LOG2SIZE, Reg.CMD_RING_CFG_EN,
      Reg.CMD_RING_CFG_STATE, Reg.CMD_RING_CFG_BYLD, Reg.CMD_RING_CFG_BRES, Reg.CMD_RING_CFG_RESET, Reg.CMD_RING_CFG_IRQ,
      Reg.CMD_RING_CFG_ERR] ∧ shadowAddr (Reg.CMD_RING_CFG_EN.addr r) = 0x4000000 + 4 * r := by decide +kernel

theorem ringCfg_shadow (hr : r < 64) : woMask (Reg.CMD_RING_CFG_EN.addr r) = 0 ∨
    shadowAddr (Reg.CMD_RING_CFG_EN.addr r) ≠ Reg.CMD_RING_CFG_EN.addr r := by
  rw [(ringCfg_fields r hr).2]
  simp only [Fld.addr, Reg.CMD_RING_CFG_EN]
  omega

theorem exec_cfgWrite_of {x : Instr} {w : Nat} (hx : exec x s = cfgWrite ag r w s) (hr : r < 64)
    (h : Open s ag (Reg.CMD_RING_CFG_EN.addr r)) (hw : w < 2 ^ 32) :
    exec x s = .next (fxRingCfg r w s (stored ag (Reg.CMD_RING_CFG_EN.addr r) w s)) := by
  have h4 : Reg.CMD_RING_CFG_EN.addr r % 4 = 0 := by simp only [Fld.addr, Reg.CMD_RING_CFG_EN]; omega
  rw [hx, cfgWrite, onUnit, if_pos (show ringOk r = true from decide_eq_true hr), agentWrite_open h h4 (ringCfg_block hr).2, Nat.mod_eq_of_lt hw]

theorem cfgKeep_lt (s : State) (r : Nat) : cfgKeep s r < 64 := by
  have h1 := rd_lt s Reg.CMD_RING_CFG_LOG2SIZE r
  have h2 := rd_lt s Reg.CMD_RING_CFG_EN r
  simp only [Reg.CMD_RING_CFG_LOG2SIZE, Reg.CMD_RING_CFG_EN] at h1 h2
  simp only [cfgKeep, Reg.CMD_RING_CFG_LOG2SIZE, Reg.CMD_RING_CFG_EN]
  omega

section Stored

variable (hr : r < 64) (w : Nat)
include hr

theorem rd_stored_en : rd (stored ag (Reg.CMD_RING_CFG_EN.addr r) w s) Reg.CMD_RING_CFG_EN r = bits w 5 1 := by
  refine rd_stored_rw (a := Reg.CMD_RING_CFG_EN.addr r) ag rfl (ringCfg_block hr) (ringCfg_shadow hr) (by decide) rfl ?_ ?_ w s
  · rw [(ringCfg_fields r hr).1]; decide
  · rw [(ringCfg_fields r hr).1]; decide +kernel

theorem rd_stored_log2 : rd (stored ag (Reg.CMD_RING_CFG_EN.addr r) w s) Reg.CMD_RING_CFG_LOG2SIZE r = bits w 0 5 := by
  refine rd_stored_rw (a := Reg.CMD_RING_CFG_EN.addr r) ag (f := Reg.CMD_RING_CFG_LOG2SIZE) rfl (ringCfg_block hr) (ringCfg_shadow hr) (by decide) rfl ?_ ?_ w s
  · rw [(ringCfg_fields r hr).1]; decide
  · rw [(ringCfg_fields r hr).1]; decide +kernel

theorem rd_stored_state : rd (stored ag (Reg.CMD_RING_CFG_EN.addr r) w s) Reg.CMD_RING_CFG_STATE r =
    rd s Reg.CMD_RING_CFG_STATE r := by
  refine rd_stored_clear (a := Reg.CMD_RING_CFG_EN.addr r) ag (f := Reg.CMD_RING_CFG_STATE) rfl (ringCfg_block hr) (ringCfg_shadow hr) (by decide) ?_ w s
  rw [(ringCfg_fields r hr).1]
  decide +kernel

/-- A register of the front end outside a ring's CFG keeps its value. -/
theorem rd_stored_cfg_ne {f : Fld} {i : Nat} (hf : inBlock (f.addr i)) (hpage : f.addr i < 0x2000)
    (hne : f.addr i ≠ Reg.CMD_RING_CFG_EN.addr r) : rd (stored ag (Reg.CMD_RING_CFG_EN.addr r) w s) f i = rd s f i := by
  refine (stored_regsWithin ag (ringCfg_block hr).1 w s).rd ?_
  obtain ⟨hlow, -⟩ := hf
  simp only [storeWords, (ringCfg_fields r hr).2, List.mem_cons, List.not_mem_nil, or_false, not_or]
  refine ⟨hne, by omega, ?_, ?_⟩
  · intro e
    rw [e] at hlow
    simp only [Fld.addr, Reg.HDR_ERR_SUM_RSVD_WR] at hlow
    omega
  · intro e
    rw [e] at hlow
    simp only [Fld.addr, Reg.HDR_STATUS_ERROR] at hlow
    omega

end Stored

/-- SIZE of a ring brought within 6 to 16 (R265). -/
def sizeClamped (r : Nat) (s : State) : State :=
  wr s Reg.CMD_RING_CFG_LOG2SIZE r (min 16 (max 6 (rd s Reg.CMD_RING_CFG_LOG2SIZE r)))

theorem rd_sizeClamped_log2 (r : Nat) (s : State) :
    rd (sizeClamped r s) Reg.CMD_RING_CFG_LOG2SIZE r = min 16 (max 6 (rd s Reg.CMD_RING_CFG_LOG2SIZE r)) := by
  refine (rd_wr_self _ _ _ (by decide)).trans (Nat.mod_eq_of_lt ?_)
  show _ < 2 ^ 5
  omega

theorem rd_sizeClamped_bits (r : Nat) (s : State) {f : Fld} (hf : f.lo + f.w ≤ 32) (h : 5 ≤ f.lo) (i : Nat) :
    rd (sizeClamped r s) f i = rd s f i :=
  rd_wr_bits _ _ _ _ hf (.inr h)

/-- The ring's control bits, in the order they act (R252, R257). -/
def ringActs (r v : Nat) (s : State) : State :=
  let s := if bit v 10 then ringReset s r else s
  let s := if bit v 8 then boundaryYield s r else s
  if bit v 9 then boundaryResume s r else s

/-- A write that leaves EN alone: the size, then the control bits. -/
theorem fxRingCfg_sameEn {old u : State} (h : rd u Reg.CMD_RING_CFG_EN r = rd old Reg.CMD_RING_CFG_EN r) :
    fxRingCfg r v old u = ringActs r v (sizeClamped r u) := by
  have hen : rd (sizeClamped r u) Reg.CMD_RING_CFG_EN r = rd old Reg.CMD_RING_CFG_EN r :=
    (rd_sizeClamped_bits r u (by decide) (by decide) r).trans h
  have hno (a b : Nat) (hab : a ≠ b) :
      ¬(rd old Reg.CMD_RING_CFG_EN r = a ∧ rd (sizeClamped r u) Reg.CMD_RING_CFG_EN r = b) :=
    fun e => hab (e.1.symm.trans (hen.symm.trans e.2))
  exact congrArg (ringActs r v) ((if_neg (hno 0 1 (by decide))).trans (if_neg (hno 1 0 (by decide))))

theorem ringActs_none {s : State} (h : bits v 8 3 = 0) : ringActs r v s = s := by
  have hbit (k : Nat) (hk : k < 3) : bit v (8 + k) = false := by
    have := congrArg (Nat.testBit · k) h
    simpa [testBit_bits, hk, bit] using this
  rw [ringActs, hbit 0 (by decide), hbit 1 (by decide), hbit 2 (by decide)]
  rfl

/-- A stopped ring enabled: its size in effect, its state running (R252, R265). -/
def ringEnabled (r : Nat) (s : State) : State :=
  let u := sizeClamped r s
  wr { u with front := { u.front with log2 := tset (fun _ => 6) u.front.log2 r (rd u Reg.CMD_RING_CFG_LOG2SIZE r) } }
    Reg.CMD_RING_CFG_STATE r 1

theorem fxRingCfg_enables {old u : State} (hold : rd old Reg.CMD_RING_CFG_EN r = 0) (hnew : rd u Reg.CMD_RING_CFG_EN r = 1)
    (hstate : rd u Reg.CMD_RING_CFG_STATE r = 0) (hv : bits v 8 3 = 0) : fxRingCfg r v old u = ringEnabled r u := by
  have hen : rd (sizeClamped r u) Reg.CMD_RING_CFG_EN r = 1 := (rd_sizeClamped_bits r u (by decide) (by decide) r).trans hnew
  have hst : rd (sizeClamped r u) Reg.CMD_RING_CFG_STATE r = 0 :=
    (rd_sizeClamped_bits r u (by decide) (by decide) r).trans hstate
  have hacts : fxRingCfg r v old u = ringActs r v (ringEnabled r u) :=
    congrArg (ringActs r v) ((if_pos ⟨hold, hen⟩).trans (if_pos hst))
  rw [hacts, ringActs_none hv]

/-! ### Boundary yields and resets -/

theorem boundaryYield_running (h : rd s Reg.CMD_RING_CFG_STATE r = 1) : ∃ u, boundaryYield s r =
      bump (wr u Reg.CMD_RING_CFG_STATE r 2) Reg.CMD_YLD_BOUND 0 1 ∧ WordsOn (· ≠ Reg.CMD_RING_HEAD.addr r) s u := by
  refine ⟨_, if_neg (fun e => e h), (dropFetched_words s r).trans (WordsOn.trans ?_ (.of_regs rfl))⟩
  split
  · exact .wr (fun e => e rfl) _ _
  · exact .refl _

theorem yldBound_addr_ne_head (hr : r < 64) : Reg.CMD_YLD_BOUND.addr 0 ≠ Reg.CMD_RING_HEAD.addr r := by
  simp only [Fld.addr, Reg.CMD_YLD_BOUND, Reg.CMD_RING_HEAD]; omega
theorem yldBound_addr_ne_cfg (hr : r < 64) : Reg.CMD_YLD_BOUND.addr 0 ≠ Reg.CMD_RING_CFG_STATE.addr r := by
  simp only [Fld.addr, Reg.CMD_YLD_BOUND, Reg.CMD_RING_CFG_STATE]; omega

/-- A running ring that yields at its boundary is stopped and counted (R257). -/
theorem boundaryYield_state (hr : r < 64) (h : rd s Reg.CMD_RING_CFG_STATE r = 1) :
    rd (boundaryYield s r) Reg.CMD_RING_CFG_STATE r = 2 ∧
    rd (boundaryYield s r) Reg.CMD_YLD_BOUND 0 = min (rd s Reg.CMD_YLD_BOUND 0 + 1) (2 ^ 32 - 1) := by
  obtain ⟨u, hu, hwords⟩ := boundaryYield_running h
  rw [hu]
  constructor
  · rw [rd_bump_apart _ _ _ _ _ _ (.inl (yldBound_addr_ne_cfg hr).symm), rd_wr_self _ _ _ (by decide)]
    rfl
  · rw [rd_bump_same _ _ _ _ (fits_of_le (by decide)), rd_wr_ne _ _ _ _ _ _ (yldBound_addr_ne_cfg hr),
      hwords.rd (yldBound_addr_ne_head hr)]
    rfl

/-- The ring's indices, its doorbell and its error taken back to zero (R252). -/
def ringZeroed (r : Nat) (s : State) : State :=
  wr (ww (wr (wr (wr s Reg.CMD_RING_HEAD r 0) Reg.CMD_RING_LOW r 0) Reg.CMD_RING_CQ_HEAD r 0) (0x1F00 + 4 * r) 0)
    Reg.CMD_RING_CFG_ERR r 0

theorem rd_ringZeroed (hr : r < 64) (s : State) : rd (ringZeroed r s) Reg.CMD_RING_HEAD r = 0 ∧
    rd (ringZeroed r s) Reg.CMD_RING_LOW r = 0 ∧ rd (ringZeroed r s) Reg.CMD_RING_CQ_HEAD r = 0 ∧
    rd (ringZeroed r s) Reg.CMD_RING_CFG_ERR r = 0 := by
  have hdb (u : State) {f : Fld} (hf : f.addr r < 0x1F00) : rd (ww u (0x1F00 + 4 * r) 0) f r = rd u f r := rd_doorbell hr _ hf
  have hlt (f : Fld) (h0 : f.addr0 < 0x1120) (hs : f.stride = 0x20) : f.addr r < 0x1F00 := by
    simp only [Fld.addr, hs]; omega
  refine ⟨?_, ?_, ?_, ?_⟩
  · rw [ringZeroed, rd_wr_stride _ _ _ (by decide) (by decide), hdb _ (hlt _ (by decide) rfl)]
    simp (disch := decide) only [rd_wr_stride, rd_wr_self]
    rfl
  · rw [ringZeroed, rd_wr_stride _ _ _ (by decide) (by decide), hdb _ (hlt _ (by decide) rfl)]
    simp (disch := decide) only [rd_wr_stride, rd_wr_self]
    rfl
  · rw [ringZeroed, rd_wr_stride _ _ _ (by decide) (by decide), hdb _ (hlt _ (by decide) rfl)]
    simp (disch := decide) only [rd_wr_self]
    rfl
  · rw [ringZeroed, rd_wr_self _ _ _ (by decide)]
    rfl

/-- RESET of an idle ring, as the registers show it (R252). -/
theorem ringReset_regs (h : inflightOf s r = []) : (ringReset s r).regs =
    (let u := ringZeroed r (stopFetch s r)
     if rd u Reg.CMD_RING_CFG_STATE r = 3 then wr u Reg.CMD_RING_CFG_STATE r (rd u Reg.CMD_RING_CFG_EN r) else u).regs := by
  rw [ringReset, if_neg (by rw [h]; decide)]
  rfl

theorem rd_ringReset (hr : r < 64) (h : inflightOf s r = []) : rd (ringReset s r) Reg.CMD_RING_HEAD r = 0 ∧
    rd (ringReset s r) Reg.CMD_RING_LOW r = 0 ∧ rd (ringReset s r) Reg.CMD_RING_CQ_HEAD r = 0 ∧
    rd (ringReset s r) Reg.CMD_RING_CFG_ERR r = 0 := by
  obtain ⟨hhead, hlow, hcq, herr⟩ := rd_ringZeroed hr (stopFetch s r)
  simp only [rd_of_regs (ringReset_regs h)]
  split
  · refine ⟨?_, ?_, ?_, ?_⟩
    · rw [rd_wr_stride _ _ _ (by decide) (by decide), hhead]
    · rw [rd_wr_stride _ _ _ (by decide) (by decide), hlow]
    · rw [rd_wr_stride _ _ _ (by decide) (by decide), hcq]
    · rw [rd_wr_bits _ _ _ _ (by decide) (by decide), herr]
  · exact ⟨hhead, hlow, hcq, herr⟩

end RingControl

/-! ### Control words that keep a ring's plain fields -/

section Keep

variable {s : State} {ag : Agent} {r : Nat}

theorem cfgKeep_en (s : State) (r k : Nat) (hk : 8 ≤ k) : bits (cfgKeep s r + 2 ^ k) 5 1 = rd s Reg.CMD_RING_CFG_EN r := by
  have h1 := rd_lt s Reg.CMD_RING_CFG_LOG2SIZE r
  have h2 := rd_lt s Reg.CMD_RING_CFG_EN r
  obtain ⟨m, rfl⟩ := Nat.exists_eq_add_of_le hk
  simp only [Reg.CMD_RING_CFG_LOG2SIZE, Reg.CMD_RING_CFG_EN] at h1 h2
  simp only [bits, cfgKeep, Nat.shiftRight_eq_div_pow, Nat.pow_add, Reg.CMD_RING_CFG_LOG2SIZE, Reg.CMD_RING_CFG_EN]
  omega

/-- The write that keeps a ring's plain fields and sets control bit `k`. -/
theorem fxRingCfg_keep (hr : r < 64) {k : Nat} (hk : 8 ≤ k) (old : State) (hold : old = s) :
    let w := cfgKeep s r + 2 ^ k
    fxRingCfg r w old (stored ag (Reg.CMD_RING_CFG_EN.addr r) w s) =
      ringActs r w (sizeClamped r (stored ag (Reg.CMD_RING_CFG_EN.addr r) w s)) :=
  fxRingCfg_sameEn ((rd_stored_en hr _).trans ((cfgKeep_en s r k hk).trans (by rw [hold])))

theorem cfgKeep_bits (s : State) (r : Nat) : ∀ k ∈ [8, 9, 10], ∀ j ∈ [8, 9, 10],
    bit (cfgKeep s r + 2 ^ k) j = decide (j = k) := by
  have h := cfgKeep_lt s r
  have hbit (k j : Nat) : bit (cfgKeep s r + 2 ^ k) j = decide ((cfgKeep s r + 2 ^ k) / 2 ^ j % 2 = 1) :=
    Nat.testBit_eq_decide_div_mod_eq
  simp only [hbit, List.forall_mem_cons, List.not_mem_nil, false_imp_iff, implies_true, and_true, decide_eq_decide,
    Nat.reducePow, iff_true]
  omega

/-- A word of the front end as the write that sets control bit `k` finds it. -/
theorem rd_keptState (hr : r < 64) (w : Nat) : rd (sizeClamped r (stored ag (Reg.CMD_RING_CFG_EN.addr r) w s))
    Reg.CMD_RING_CFG_STATE r = rd s Reg.CMD_RING_CFG_STATE r :=
  (rd_sizeClamped_bits r _ (by decide) (by decide) r).trans (rd_stored_state hr w)

theorem rd_keptYldBound (hr : r < 64) (w : Nat) : rd (sizeClamped r (stored ag (Reg.CMD_RING_CFG_EN.addr r) w s))
    Reg.CMD_YLD_BOUND 0 = rd s Reg.CMD_YLD_BOUND 0 :=
  (rd_wr_ne _ _ _ _ _ _ (show Reg.CMD_YLD_BOUND.addr 0 ≠ Reg.CMD_RING_CFG_LOG2SIZE.addr r from yldBound_addr_ne_cfg hr)).trans
    (rd_stored_cfg_ne hr w (by decide) (by decide) (yldBound_addr_ne_cfg hr))

theorem inflightOf_kept (hr : r < 64) (w : Nat) :
    inflightOf (sizeClamped r (stored ag (Reg.CMD_RING_CFG_EN.addr r) w s)) r = inflightOf s r := by
  have h := (stored_regsWithin ag (ringCfg_block hr).1 w s).only
  rw [show stored ag (Reg.CMD_RING_CFG_EN.addr r) w s = { s with regs := _ } from h]
  rfl

end Keep

/-! ### Semaphores, ledgers and regulators -/

theorem semVal_fxSemVal (s : State) {w : Nat} (hw : w < 2 ^ 32) :
    semVal (fxSemVal w s) (rd s Reg.CMD_SEM_SEL_PART 0) (rd s Reg.CMD_SEM_SEL_IDX 0) = w := by
  rw [fxSemVal, semVal, noteReady_semVal, setSem]
  dsimp only
  rw [tget_tset_same, BitVec.toNat_ofNat, Nat.mod_eq_of_lt hw]

/-- A field that is zero stays zero when a field is written as zero. -/
theorem rd_wr_zero_of_zero (s : State) (f g : Fld) (i j : Nat) (h : rd s g j = 0) : rd (wr s f i 0) g j = 0 := by
  by_cases hne : g.addr j = f.addr i
  · rw [rd, hne, wr, rw_ww_same]
    rw [rd, hne] at h
    exact getF_setF_zero_of_zero _ _ h
  · rw [rd_wr_ne _ _ _ _ _ _ hne, h]

/-- Partition `p`'s ledgers of islands and of porter bytes, as `LED_CLR` leaves them (R254). -/
def ledgerCleared (s : State) (p : Nat) : State :=
  wr2 (wr2 s Reg.CMD_PART_LED_ISL_LO Reg.CMD_PART_LED_ISL_HI p 0) Reg.CMD_PART_LED_PB_LO Reg.CMD_PART_LED_PB_HI p 0

/-- The ledgers' four words read zero. -/
def LedgerZero (s : State) (p : Nat) : Prop := ∀ f ∈ [Reg.CMD_PART_LED_ISL_LO, Reg.CMD_PART_LED_ISL_HI,
  Reg.CMD_PART_LED_PB_LO, Reg.CMD_PART_LED_PB_HI], rd s f p = 0

theorem ledgerCleared_keeps_zero (s : State) (q : Nat) {f : Fld} {p : Nat} (h : rd s f p = 0) :
    rd (ledgerCleared s q) f p = 0 :=
  rd_wr_zero_of_zero _ _ _ _ _ (rd_wr_zero_of_zero _ _ _ _ _ (rd_wr_zero_of_zero _ _ _ _ _ (rd_wr_zero_of_zero _ _ _ _ _ h)))

theorem ledgerCleared_zero (s : State) (p : Nat) : LedgerZero (ledgerCleared s p) p := by
  have hself (u : State) (f : Fld) (hf : f.lo + f.w ≤ 32) : rd (wr u f p 0) f p = 0 :=
    (rd_wr_self u p 0 hf).trans (Nat.zero_mod _)
  simp only [LedgerZero, List.forall_mem_cons, List.not_mem_nil, false_imp_iff, implies_true, and_true]
  refine ⟨?_, ?_, ?_, hself _ _ (by decide)⟩
  · exact rd_wr_zero_of_zero _ _ _ _ _ (rd_wr_zero_of_zero _ _ _ _ _ (rd_wr_zero_of_zero _ _ _ _ _ (hself _ _ (by decide))))
  · exact rd_wr_zero_of_zero _ _ _ _ _ (rd_wr_zero_of_zero _ _ _ _ _ (hself _ _ (by decide)))
  · exact rd_wr_zero_of_zero _ _ _ _ _ (hself _ _ (by decide))

theorem ledgersCleared_zero {l : List Nat} {p : Nat} (hp : p ∈ l) (s : State) : LedgerZero (eachOf l s ledgerCleared) p := by
  have hkeep (l : List Nat) : ∀ s, LedgerZero s p → LedgerZero (eachOf l s ledgerCleared) p := by
    induction l with
    | nil => exact fun _ h => h
    | cons q l ih => exact fun s h => ih _ fun f hf => ledgerCleared_keeps_zero s q (h f hf)
  induction l generalizing s with
  | nil => cases hp
  | cons q l ih =>
    rcases List.mem_cons.1 hp with rfl | hmem
    · exact hkeep l _ (ledgerCleared_zero s p)
    · exact ih hmem _

theorem getF_word (x : Word) : getF 0 32 x = getF 0 16 x + 2 ^ 16 * getF 16 16 x := by
  have hx := x.isLt
  simp only [getF, BitVec.extractLsb'_toNat, Nat.shiftRight_eq_div_pow, Nat.pow_zero, Nat.div_one]
  omega

section Regulator

variable {p k : Nat}

theorem regWord_lo (k : Nat) : (regWord k).lo = 0 ∧ (regWord k).w = 32 := by
  unfold regWord
  split
  · exact ⟨rfl, rfl⟩
  · split <;> exact ⟨rfl, rfl⟩

theorem regWord_block : ∀ p < 8, ∀ k < 3, inBlock ((regWord k).addr p) ∧ (regWord k).addr p % 4 = 0 ∧
    woMask ((regWord k).addr p) = 0 := by
  decide +kernel

theorem regWord_fields : ∀ p < 8, fieldsAt ((regWord 0).addr p) = [Reg.CMD_PART_REG_T2_RATE, Reg.CMD_PART_REG_T2_BURST] ∧
    fieldsAt ((regWord 1).addr p) = [regWord 1] ∧ fieldsAt ((regWord 2).addr p) = [regWord 2] := by decide +kernel

/-- A regulator's word takes what is written (R256). -/
theorem rd_stored_regWord (ag : Agent) (hp : p < 8) (hk : k < 3) {w : Nat} (hw : w < 2 ^ 32) (s : State) :
    rd (stored ag ((regWord k).addr p) w s) (regWord k) p = w := by
  obtain ⟨hblock, -, hwo⟩ := regWord_block p hp k hk
  obtain ⟨h0, h1, h2⟩ := regWord_fields p hp
  have hall : bits w 0 32 = w := (congrArg (· % 2 ^ 32) Nat.shiftRight_zero).trans (Nat.mod_eq_of_lt hw)
  interval_cases k
  · have hrate := rd_stored_rw (a := (regWord 0).addr p) ag (f := Reg.CMD_PART_REG_T2_RATE) (i := p) rfl hblock (.inl hwo)
      (by decide) rfl (by rw [h0]; decide) (by rw [h0]; decide +kernel) w s
    have hburst := rd_stored_rw (a := (regWord 0).addr p) ag (f := Reg.CMD_PART_REG_T2_BURST) (i := p) rfl hblock (.inl hwo)
      (by decide) rfl (by rw [h0]; decide) (by rw [h0]; decide +kernel) w s
    refine (getF_word _).trans ?_
    refine (congrArg₂ (fun x y => x + 2 ^ 16 * y) hrate hburst).trans ?_
    simp only [bits, Reg.CMD_PART_REG_T2_RATE, Reg.CMD_PART_REG_T2_BURST, Nat.shiftRight_eq_div_pow]
    omega
  · exact (rd_stored_rw (a := (regWord 1).addr p) ag rfl hblock (.inl hwo) (by decide) rfl (by rw [h1]; decide)
      (by rw [h1]; decide +kernel) w s).trans hall
  · exact (rd_stored_rw (a := (regWord 2).addr p) ag rfl hblock (.inl hwo) (by decide) rfl (by rw [h2]; decide)
      (by rw [h2]; decide +kernel) w s).trans hall

theorem fxRegulator_takes {u : State} {w : Nat} (hu : rd u (regWord k) p = w) : let t := fxRegulator p k u
    rd t (regWord k) p = bits w 0 16 + 2 ^ 16 * max 64 (bits w 16 16) ∧
    bucket t p k = (max 64 (bits w 16 16) * 1024 : Nat) := by
  obtain ⟨hlo, hwidth⟩ := regWord_lo k
  subst hu
  refine ⟨?_, tget_tset_same _ _ _ _⟩
  have hwr := rd_wr_self u (f := regWord k) p (bits (rd u (regWord k) p) 0 16 + 2 ^ 16 * max 64 (bits (rd u (regWord k) p) 16 16))
    (by rw [hlo, hwidth])
  refine hwr.trans (Nat.mod_eq_of_lt ?_)
  have h1 : bits (rd u (regWord k) p) 0 16 < 2 ^ 16 := Nat.mod_lt _ (by decide)
  have h2 : bits (rd u (regWord k) p) 16 16 < 2 ^ 16 := Nat.mod_lt _ (by decide)
  rw [hwidth]
  omega

end Regulator

/-- Settles O34: each write stands in its word and acts; what the actions leave of the other words. -/
theorem ringRegisters : Obligations.RingRegisters := by
  unfold Obligations.RingRegisters
  refine ⟨?_, ?_, ?_, ?_⟩
  · intro s ag r v hr h w far
    have hexec := exec_doorbell_of (v := v) hr h
    have hstate := rd_doorbell (s := s) hr (BitVec.ofNat 32 w) (f := Reg.CMD_RING_CFG_STATE)
      (by simp only [Fld.addr, Reg.CMD_RING_CFG_STATE]; omega)
    have hcq := rd_doorbell (s := s) hr (BitVec.ofNat 32 w) (f := Reg.CMD_RING_CQ_HEAD)
      (by simp only [Fld.addr, Reg.CMD_RING_CQ_HEAD]; omega)
    have hfx : fxDoorbell r w (ww s (0x1F00 + 4 * r) (BitVec.ofNat 32 w)) = if rd s Reg.CMD_RING_CFG_STATE r ≠ 3 ∧ far then
        ringError (ww s (0x1F00 + 4 * r) (BitVec.ofNat 32 w)) r 3 else ww s (0x1F00 + 4 * r) (BitVec.ofNat 32 w) := by
      rw [fxDoorbell, hstate, hcq]
      rfl
    rw [hfx] at hexec
    refine ⟨fun hrun hnear => ?_, fun hrun hfar => ?_⟩
    · rw [if_neg fun e => hnear e.2] at hexec
      refine ⟨_, hexec, ?_, hstate, rfl, fun a ha => rw_ww_ne _ _ fun e => ha ?_⟩
      · rw [ringTail, rw_ww_same, BitVec.toNat_ofNat, Nat.mod_mod]
      · rw [(doorbell_fields r hr).2.2.2, e]
        exact List.mem_singleton_self _
    · rw [if_pos ⟨hrun, hfar⟩] at hexec
      exact ⟨_, hexec, ringError_state hr 3 (by decide)⟩
  · intro s ag r v hr h a put
    have hkeep := cfgKeep_lt s r
    exact ⟨exec_cfgWrite_of rfl hr h (Nat.mod_lt _ (by decide)), exec_cfgWrite_of rfl hr h (by omega),
      exec_cfgWrite_of rfl hr h (by omega), exec_cfgWrite_of rfl hr h (by omega)⟩
  · intro s ag r v hr h st
    have hkeep := cfgKeep_lt s r
    obtain ⟨⟨h88, h89, h8x, -⟩, ⟨h98, h99, h9x, -⟩, ⟨hx8, hx9, hxx, -⟩, -⟩ := by
      simpa only [List.forall_mem_cons] using cfgKeep_bits s r
    refine ⟨fun hv hen hbit hacts hst => ?_, fun hst => ?_, fun hst => ?_, fun hidle => ?_⟩
    · have hexec := exec_cfgWrite_of (x := .ringEnWrite ag r v) rfl hr h (Nat.mod_lt v (by decide))
      rw [Nat.mod_eq_of_lt hv] at hexec
      have hone : bits v 5 1 = 1 := by
        have := congrArg Bool.toNat hbit
        simpa [bit, bits, Nat.testBit_eq_decide_div_mod_eq, Nat.shiftRight_eq_div_pow] using hbit
      rw [fxRingCfg_enables hen ((rd_stored_en hr v).trans hone) ((rd_stored_state hr v).trans hst) hacts] at hexec
      have hsize := (rd_sizeClamped_log2 r _).trans (congrArg (fun n => min 16 (max 6 n)) (rd_stored_log2 (s := s) (ag := ag) hr v))
      refine ⟨_, hexec, rd_wr_self _ _ _ (by decide), ?_, ?_, ?_⟩
      · refine (rd_wr_bits _ _ _ _ (by decide) (by decide)).trans ?_
        exact (rd_sizeClamped_bits r _ (by decide) (by decide) r).trans ((rd_stored_en hr v).trans hone)
      · exact (rd_wr_bits _ _ _ _ (by decide) (by decide)).trans hsize
      · exact (tget_tset_same _ _ _ _).trans hsize
    · have hexec := exec_cfgWrite_of (x := .ringByld ag r) rfl hr h (w := cfgKeep s r + 2 ^ 8) (by omega)
      rw [fxRingCfg_keep hr (by decide) s rfl, ringActs, h88, h89, h8x] at hexec
      obtain ⟨hstate, hcount⟩ := boundaryYield_state hr ((rd_keptState (ag := ag) hr (cfgKeep s r + 2 ^ 8)).trans hst)
      exact ⟨_, hexec, hstate, hcount.trans (by rw [rd_keptYldBound hr])⟩
    · have hexec := exec_cfgWrite_of (x := .ringBres ag r) rfl hr h (w := cfgKeep s r + 2 ^ 9) (by omega)
      rw [fxRingCfg_keep hr (by decide) s rfl, ringActs, h98, h99, h9x] at hexec
      refine ⟨_, hexec, ?_⟩
      refine (congrArg (rd · Reg.CMD_RING_CFG_STATE r) (if_pos ((rd_keptState hr _).trans hst))).trans ?_
      exact rd_wr_self _ _ _ (by decide)
    · have hexec := exec_cfgWrite_of (x := .ringReset ag r) rfl hr h (w := cfgKeep s r + 2 ^ 10) (by omega)
      rw [fxRingCfg_keep hr (by decide) s rfl, ringActs, hx8, hx9, hxx] at hexec
      exact ⟨_, hexec, rd_ringReset hr ((inflightOf_kept hr _).trans hidle)⟩
  · intro s ag v w
    refine ⟨fun h => ?_, fun h => ?_, fun p k hp hk h => ?_⟩
    · have hsel (f : Fld) (hf : f.addr 0 = 0x1A14) : rd (stored ag (Reg.CMD_SEM_VAL.addr 0) w s) f 0 = rd s f 0 :=
        (stored_regsWithin ag (by decide) w s).rd (by rw [hf]; decide +kernel)
      refine ⟨_, congrArg Host.Outcome.next ((agentWrite_open h (by decide) (by decide) _ _).trans
        (congrArg (fun n => fxSemVal w (stored ag (Reg.CMD_SEM_VAL.addr 0) n s)) (Nat.mod_mod _ _))), ?_⟩
      have hval := semVal_fxSemVal (stored ag (Reg.CMD_SEM_VAL.addr 0) w s) (w := w) (Nat.mod_lt _ (by decide))
      rw [hsel _ rfl, hsel _ rfl] at hval
      exact hval
    · refine ⟨_, congrArg Host.Outcome.next (agentWrite_open h (by decide) (by decide) _ _), fun p hp hbit => ?_⟩
      have hmem : p ∈ setBits v 8 := by
        refine List.mem_filter.2 ⟨List.mem_range.2 hp, ?_⟩
        exact (Bool.and_eq_true_iff.1 ((Nat.testBit_mod_two_pow v 32 p).symm.trans hbit)).2
      have hzero := ledgersCleared_zero hmem (stored ag (Reg.CMD_LED_CLR.addr 0) (v % 2 ^ 32 % 2 ^ 32) s)
      simp only [LedgerZero, List.forall_mem_cons] at hzero
      obtain ⟨hil, hih, hpl, hph, -⟩ := hzero
      exact ⟨congrArg₂ (fun x y => x + 2 ^ 32 * y) hil hih, congrArg₂ (fun x y => x + 2 ^ 32 * y) hpl hph⟩
    · obtain ⟨hblock, h4, -⟩ := regWord_block p hp k hk
      refine ⟨_, (if_pos (by rw [decide_eq_true hp, decide_eq_true hk]; rfl)).trans
        (congrArg Host.Outcome.next (agentWrite_open h h4 hblock.2 _ _)), ?_⟩
      exact fxRegulator_takes (rd_stored_regWord ag hp hk (Nat.mod_lt _ (by decide)) s |>.trans (Nat.mod_mod _ _))

end Sys2Proof.Machine

/-! Commands fetched and dispatched (R239, R241 to R243, R248, R250). -/

namespace Sys2Proof.Machine

/-! ### What becomes dispatchable -/

/-- Commands as fetched, whether or not they have become dispatchable since. -/
def unready (l : List Cmd) : List Cmd := l.map fun c => { c with ready := false }

theorem unready_flagged (l : List Cmd) (q : Cmd → Prop) [DecidablePred q] :
    unready (l.map fun x => if q x then { x with ready := true } else x) = unready l := by
  rw [unready, List.map_map]
  refine List.map_congr_left fun x _ => ?_
  rw [Function.comp_apply]
  split <;> rfl

theorem raiseStanding_fetched (s : State) (c : Cmd) : (raiseStanding s c).front.fetched = s.front.fetched := by
  unfold raiseStanding
  split
  · rfl
  · dsimp only
    split
    · rfl
    · split
      · rfl
      · unfold setStanding
        split <;> rfl

/-- The same commands are fetched, whichever are dispatchable. -/
def SameFetched (s t : State) : Prop := unready t.front.fetched = unready s.front.fetched

theorem noteReady_sameFetched (s : State) : SameFetched s (noteReady s) := by
  unfold noteReady
  refine eachOf_rel (R := SameFetched) (fun _ => Eq.refl _) (fun _ _ _ h k => Eq.trans k h) (fun s r => ?_) _ s
  split
  · next c hc =>
    split
    · exact Eq.refl _
    · exact (unready_flagged _ _).trans (congrArg unready (raiseStanding_fetched s c))
  · exact Eq.refl _

/-! ### Fetch -/

section Fetch

variable {s u : State} {r : Nat}

/-- A command joins those fetched. -/
def fetchedMore (v : State) (d : Cmd) : State := { v with front := { v.front with fetched := v.front.fetched ++ [d] } }

theorem fetchedMore_fetched (v : State) (d : Cmd) : (fetchedMore v d).front.fetched = v.front.fetched ++ [d] := rfl

/-- The command `d` fetched from the ring's HEAD at index `i`, which moves on (R239). -/
def cmdFetched (u : State) (r i : Nat) (d : Cmd) : State :=
  noteReady (fetchedMore (fresh (wr (dropRead u (.descRead r)) Reg.CMD_RING_HEAD r (i + 1))) d)

theorem exec_commandFetch_of {d : Nat} (hr : r < 64) (hawake : awake s = true) (hmay : mayFetch s r = true)
    (hgo : gate s (partOf r) (ringBase s r + 64 * (rd s Reg.CMD_RING_HEAD r % ringSize s r)) 64 false true (.descRead r) =
      .go u) (hd : memRead u (partOf r) (ringBase s r + 64 * (rd s Reg.CMD_RING_HEAD r % ringSize s r)) 64 = d) :
    exec (.commandFetch r) s =
      .next (cmdFetched u r (rd s Reg.CMD_RING_HEAD r) (newCmd r (rd s Reg.CMD_RING_HEAD r) d)) := by
  show execCommandFetch r s = _
  rw [execCommandFetch, onUnit_live (show ringOk r = true from decide_eq_true hr) hawake]
  refine congrArg Host.Outcome.next ((if_neg (by rw [hmay]; decide)).trans ?_)
  dsimp only
  rw [hgo]
  dsimp only
  rw [hd, cmdFetched, fetchedMore]

theorem cmdFetched_fetched (u : State) (r i : Nat) (d : Cmd) :
    unready (cmdFetched u r i d).front.fetched = unready (u.front.fetched ++ [d]) := by
  have hfetched : (fresh (wr (dropRead u (.descRead r)) Reg.CMD_RING_HEAD r (i + 1))).front.fetched = u.front.fetched := rfl
  have hready := noteReady_sameFetched (fetchedMore (fresh (wr (dropRead u (.descRead r)) Reg.CMD_RING_HEAD r (i + 1))) d)
  rw [SameFetched, fetchedMore_fetched, hfetched] at hready
  rw [cmdFetched, hready]

theorem cmdFetched_regs (u : State) (r i : Nat) (d : Cmd) :
    (cmdFetched u r i d).regs = (wr u Reg.CMD_RING_HEAD r (i + 1)).regs := noteReady_regs _

theorem cmdFetched_mem (u : State) (r i : Nat) (d : Cmd) : (cmdFetched u r i d).mem = u.mem := noteReady_mem _

end Fetch

/-! ### Dispatch -/

section Dispatch

variable {s : State} {r : Nat} {c : Cmd}

/-- A command the front end may dispatch, with its collector entry (R242, R243, R250). -/
structure Dispatchable (s : State) (r : Nat) (c : Cmd) : Prop where
  ring : r < 64
  awake : awake s = true
  takes : intakeStopped s = false
  free : bit (rd s Reg.CEN_HOLD 0) 5 = false
  goes : stopping s r = false
  ready : readyCmd s r = some c
  entry : (entryOrder s).length ≤ 4096 - colUse s ∨ (0 < 4096 - colUse s ∧ (entryOrder s).head? = some r)

theorem exec_commandDispatch_of (h : Dispatchable s r c) : exec (.commandDispatch r) s = .next (noteReady (dispatch s c)) := by
  show execCommandDispatch r s = _
  rw [execCommandDispatch, onUnit_live (show ringOk r = true from decide_eq_true h.ring) h.awake]
  refine congrArg Host.Outcome.next ((if_neg (by rw [h.takes, h.free, h.goes]; decide)).trans ?_)
  rw [h.ready]
  exact if_pos h.entry

/-- What a dispatch does: the command `d` joins those in flight, and no register changes. -/
structure Joins (s t : State) (d : Cmd) : Prop where
  inflight : t.front.inflight = s.front.inflight ++ [d]
  regs : t.regs = s.regs

theorem Joins.noteStarted {s t : State} {d : Cmd} (h : Joins s t d) (r i : Nat) : Joins s (noteStarted t r i) d := by
  have hregs : (Machine.noteStarted t r i).regs = t.regs := by
    unfold Machine.noteStarted
    split
    · split <;> rfl
    · rfl
  exact ⟨(noteStarted_inflight t r i).trans h.inflight, hregs.trans h.regs⟩

/-- The command leaves those fetched, its ring the last that got a collector entry. -/
def leavesFetched (s : State) (c : Cmd) : State := { s with front := { s.front with
  fetched := s.front.fetched.filter fun x => !(x.ring == c.ring && x.idx == c.idx), lastColl := c.ring } }

/-- A command joins those in flight. -/
def inflightMore (s : State) (d : Cmd) : State := { s with front := { s.front with inflight := s.front.inflight ++ [d] } }

theorem joins_inflightMore (s : State) (c d : Cmd) : Joins s (inflightMore (leavesFetched s c) d) d := ⟨rfl, rfl⟩

theorem dispatch_malformed {o : Nat} (h : malformed { c with st := .dispatched } = some o) :
    Joins s (dispatch s c) { c with st := .dispatched, finished := true, status := 0x60, sub := o } := by
  rw [dispatch]
  dsimp only
  rw [h]
  exact (joins_inflightMore s c _).noteStarted _ _

theorem dispatch_failed (h : malformed { c with st := .dispatched } = none) (h1 : c.flag 1 = true) (h4 : c.flag 4 = true)
    (herr : semErr s (partOf c.ring) (c.fld 2 1) = true) :
    Joins s (dispatch s c) { c with st := .dispatched, finished := true, status := 0x61 } := by
  have hfail : (c.flag 1 && c.flag 4 && semErr s (partOf c.ring) (c.fld 2 1)) = true := by rw [h1, h4, herr]; rfl
  have hdispatch : dispatch s c = noteStarted (inflightMore (leavesFetched s c)
      { c with st := .dispatched, finished := true, status := 0x61 }) c.ring c.idx := by
    rw [dispatch]
    dsimp only
    rw [h]
    exact if_pos hfail
  rw [hdispatch]
  exact (joins_inflightMore s c _).noteStarted _ _

theorem dispatch_goes (h : malformed { c with st := .dispatched } = none) (h4 : c.flag 4 = false) (he : engineOf c.op ≠ 1) :
    Joins s (dispatch s c) { c with
      st := .dispatched, engine := engineOf c.op
      total := if 1 ≤ engineOf c.op ∧ engineOf c.op ≤ 8 then cmdTotal c else 0 } := by
  have hgo : ¬(c.flag 1 && c.flag 4 && semErr s (partOf c.ring) (c.fld 2 1)) = true := by simp [h4]
  have hdispatch : dispatch s c = inflightMore (leavesFetched s c) { c with
      st := .dispatched, engine := engineOf c.op
      total := if 1 ≤ engineOf c.op ∧ engineOf c.op ≤ 8 then cmdTotal c else 0 } := by
    rw [dispatch]
    dsimp only
    rw [h]
    refine (if_neg hgo).trans ?_
    rw [show engineOf ({ c with st := .dispatched } : Cmd).op = engineOf c.op from rfl, if_neg he]
    rfl
  rw [hdispatch]
  exact joins_inflightMore s c _

theorem dispatched_answers {d : Cmd} (h : Dispatchable s r c) (hj : Joins s (dispatch s c) d) :
    Answers (.commandDispatch r) s fun t => t.front.inflight = s.front.inflight ++ [d] ∧ WordsKept s t [] :=
  ⟨_, exec_commandDispatch_of h, (noteReady_inflight _).trans hj.inflight, fun a _ =>
    WordsOn.of_regs (P := fun _ => True) ((noteReady_regs _).trans hj.regs) a trivial⟩

end Dispatch

/-- Settles O35: HEAD's command is read and HEAD moves on; a dispatched command joins those in flight, ended at once where
it is malformed or its semaphore carries a failure. -/
theorem fetchDispatch : Obligations.FetchDispatch := by
  unfold Obligations.FetchDispatch
  refine ⟨⟨?_, ?_⟩, ?_⟩
  · intro s u r hr hawake hmay i a hgo d
    have hexec : exec (.commandFetch r) s = .next (cmdFetched u r i d) := exec_commandFetch_of hr hawake hmay hgo rfl
    clear_value d
    have hregs := cmdFetched_regs u r i d
    refine ⟨_, hexec, cmdFetched_fetched u r i d, ?_, fun b hb => ?_, cmdFetched_mem u r i d⟩
    · rw [rd_of_regs hregs, rd_wr_self u (f := Reg.CMD_RING_HEAD) r (i + 1) (by decide), Reg.CMD_RING_HEAD]
    · refine (congrArg (fun m => tget resetWord m b) hregs).trans ?_
      exact rw_wr_ne _ _ _ _ _ fun e => hb (by rw [e]; exact List.mem_singleton_self _)
  · intro s r c hr hawake htakes hfree hgoes hready hentry
    have h : Dispatchable s r c := ⟨hr, hawake, htakes, hfree, hgoes, hready, hentry⟩
    exact ⟨exec_commandDispatch_of h, fun o ho => dispatched_answers h (dispatch_malformed ho),
      fun hm h1 h4 herr => dispatched_answers h (dispatch_failed hm h1 h4 herr),
      fun hm h4 he => dispatched_answers h (dispatch_goes hm h4 he)⟩
  · intro s r i c
    exact ⟨fun h => ⟨_, onCmd_turn h fun _ s => finish s r i 0 0, h.onlyFlight 0 0⟩,
      fun h => ⟨_, onCmd_turn h fun _ s => finish s r i 0 0, h.onlyFlight 0 0⟩⟩

end Sys2Proof.Machine

/-! Retirement and completion records (R203, R241, R243, R249 to R251, R257). -/

namespace Sys2Proof.Machine

section Retire

variable {s u : State} {r i : Nat} {c : Cmd}

/-! ### Steps of a retirement -/

/-- The command as its record has it. -/
def recorded (s : State) (c : Cmd) : Cmd :=
  { c with time := s.now % 2 ^ 32, st := .retired, semErr := c.flag 2 && decide (c.status ≠ 0) }

/-- The command leaves its engine, its record waits, its locks are given back. -/
def handedOver (s : State) (r i : Nat) (d : Cmd) : State :=
  { s with
    front := { s.front with
      inflight := s.front.inflight.filter fun x => !(x.ring == r && x.idx == i)
      retired := if tget (fun _ => false) s.front.recStop r then s.front.retired else s.front.retired ++ [d] }
    mem := { s.mem with locks := s.mem.locks.filter fun l => !(l.ring == r && l.idx == i) } }

/-- The model set the command rested on is let go (R234). -/
def modelLetGo (s : State) (r : Nat) (d : Cmd) : State :=
  match d.mref with
  | some (m, set) => swapCheck (refAdd s (partOf r) m set (-1)) (partOf r) m
  | none => s

/-- The highest index of the ring retired so far. -/
def topNoted (s : State) (r i : Nat) : State :=
  let top := match tget (fun _ => none) s.front.topRet r with
    | some j => if sub32 i j < 2 ^ 31 then i else j
    | none => i
  { s with front := { s.front with topRet := tset (fun _ => none) s.front.topRet r (some top) } }

/-- What windows still owed the command is dropped. -/
def windowsDropped (s : State) (r i : Nat) : State :=
  { s with skl := { s.skl with reqs := s.skl.reqs.filter fun q =>
      !(match q.owner with | some h => heldBy h r i | none => false) } }

/-- The end of a retirement: the command counts as started, and its ring stops where it is to yield itself. -/
def ringWentOn (s : State) (r i : Nat) (d : Cmd) : State :=
  noteStarted (windowsDropped (topNoted (if d.op = 0x60 then bump s Reg.GRP_BUILDS 0 1 else s) r i) r i) r i

/-- A finished command's retirement up to what its ring makes of it. -/
def cmdRetired (s : State) (r i : Nat) (c : Cmd) : State :=
  ringWentOn (modelLetGo (handedOver (signal s c) r i (recorded (signal s c) c)) r (recorded (signal s c) c)) r i c

/-- The ring stops behind a boundary YIELD of its own, and its latch may end. -/
def ringSettled (s : State) (r : Nat) (c : Cmd) : State :=
  noteReady (latchDrop (if stopsSelf c then boundaryYield s r else s) r)

/-- A command that may retire now (R243, R249). -/
structure Retires (s : State) (r i : Nat) (c : Cmd) : Prop where
  ring : r < 64
  idx : i < 2 ^ 32
  awake : awake s = true
  get : getCmd s r i = some c
  finished : c.finished = true
  free : c.st ≠ .held
  acked : writesOpen s r i = false
  power : rd s Reg.PWR_STAT_PFHALT 0 = 0

theorem exec_commandRetire_of (h : Retires s r i c) :
    exec (.commandRetire r i) s = .next (ringSettled (cmdRetired s r i c) r c) := by
  have hunit : (ringOk r && decide (i < 2 ^ 32)) = true := by
    rw [show ringOk r = true from decide_eq_true h.ring, decide_eq_true h.idx]; rfl
  show execCommandRetire r i s = _
  rw [execCommandRetire, onUnit_live hunit h.awake, h.get]
  refine congrArg Host.Outcome.next ((if_neg ?_).trans ?_)
  · simp [h.finished, h.free, h.acked, h.power]
  · rfl

/-! ### What each step keeps -/

/-- The commands in flight, those retired and the memory are as before. -/
structure FlightKept (s t : State) : Prop where
  mem : t.mem = s.mem
  inflight : t.front.inflight = s.front.inflight
  retired : t.front.retired = s.front.retired

theorem FlightKept.trans {s t u : State} (h : FlightKept s t) (k : FlightKept t u) : FlightKept s u :=
  ⟨k.mem.trans h.mem, k.inflight.trans h.inflight, k.retired.trans h.retired⟩

theorem LatchOnly.flight {s t : State} (h : LatchOnly s t) : FlightKept s t := ⟨h.mem, h.inflight, h.retired⟩

/-- The semaphores and the latches are as before. -/
structure SemsKept (s t : State) : Prop where
  val : t.front.semVal = s.front.semVal
  err : t.front.semErr = s.front.semErr
  latch : t.front.latch = s.front.latch

theorem SemsKept.trans {s t u : State} (h : SemsKept s t) (k : SemsKept t u) : SemsKept s u :=
  ⟨k.val.trans h.val, k.err.trans h.err, k.latch.trans h.latch⟩

theorem SemsKept.semVal {s t : State} (h : SemsKept s t) (p k : Nat) : Machine.semVal t p k = Machine.semVal s p k := by
  rw [Machine.semVal, h.val]
  rfl

theorem SemsKept.semErr {s t : State} (h : SemsKept s t) (p k : Nat) : Machine.semErr t p k = Machine.semErr s p k := by
  rw [Machine.semErr, h.err]
  rfl

theorem modelLetGo_latchOnly (s : State) (r : Nat) (d : Cmd) : LatchOnly s (modelLetGo s r d) := by
  unfold modelLetGo
  split
  · exact (refAdd_latchOnly _ _ _ _ _).trans (swapCheck_latchOnly _ _ _)
  · exact .refl s

theorem noteStarted_keeps (s : State) (r i : Nat) :
    FlightKept s (noteStarted s r i) ∧ SemsKept s (noteStarted s r i) ∧ (noteStarted s r i).regs = s.regs := by
  unfold noteStarted
  split
  · split <;> exact ⟨⟨rfl, rfl, rfl⟩, ⟨rfl, rfl, rfl⟩, rfl⟩
  · exact ⟨⟨rfl, rfl, rfl⟩, ⟨rfl, rfl, rfl⟩, rfl⟩

theorem topNoted_kept (s : State) (r i : Nat) :
    FlightKept s (topNoted s r i) ∧ SemsKept s (topNoted s r i) ∧ (topNoted s r i).regs = s.regs :=
  ⟨⟨rfl, rfl, rfl⟩, ⟨rfl, rfl, rfl⟩, rfl⟩

theorem windowsDropped_kept (s : State) (r i : Nat) :
    FlightKept s (windowsDropped s r i) ∧ SemsKept s (windowsDropped s r i) ∧ (windowsDropped s r i).regs = s.regs :=
  ⟨⟨rfl, rfl, rfl⟩, ⟨rfl, rfl, rfl⟩, rfl⟩

theorem buildCounted_kept (s : State) (d : Cmd) : let t := if d.op = 0x60 then bump s Reg.GRP_BUILDS 0 1 else s
    FlightKept s t ∧ SemsKept s t ∧ WordsOn (· ≠ Reg.GRP_BUILDS.addr 0) s t := by
  dsimp only
  split
  · exact ⟨⟨rfl, rfl, rfl⟩, ⟨rfl, rfl, rfl⟩, .wr (fun h => h rfl) s _⟩
  · exact ⟨⟨rfl, rfl, rfl⟩, ⟨rfl, rfl, rfl⟩, .refl s⟩

theorem ringWentOn_keeps (s : State) (r i : Nat) (d : Cmd) : FlightKept s (ringWentOn s r i d) ∧
    SemsKept s (ringWentOn s r i d) ∧ WordsOn (· ≠ Reg.GRP_BUILDS.addr 0) s (ringWentOn s r i d) := by
  obtain ⟨hbf, hbs, hbw⟩ := buildCounted_kept s d
  obtain ⟨htf, hts, htw⟩ := topNoted_kept (if d.op = 0x60 then bump s Reg.GRP_BUILDS 0 1 else s) r i
  obtain ⟨hwf, hws, hww⟩ := windowsDropped_kept (topNoted (if d.op = 0x60 then bump s Reg.GRP_BUILDS 0 1 else s) r i) r i
  obtain ⟨hnf, hns, hnw⟩ :=
    noteStarted_keeps (windowsDropped (topNoted (if d.op = 0x60 then bump s Reg.GRP_BUILDS 0 1 else s) r i) r i) r i
  exact ⟨hbf.trans (htf.trans (hwf.trans hnf)), hbs.trans (hts.trans (hws.trans hns)),
    hbw.trans (.of_regs (hnw.trans (hww.trans htw)))⟩

theorem boundaryYield_sems (s : State) (r : Nat) : SemsKept s (boundaryYield s r) := by
  have hdrop : SemsKept s (dropFetched s r) := by
    unfold dropFetched
    split <;> exact ⟨rfl, rfl, rfl⟩
  unfold boundaryYield
  split
  · exact ⟨rfl, rfl, rfl⟩
  · dsimp only
    refine hdrop.trans ?_
    split <;> exact ⟨rfl, rfl, rfl⟩

/-! ### Semaphores at retirement -/

/-- A SEM_SET that succeeded applies (R241). -/
def semApplied (s : State) (c : Cmd) : State :=
  if c.op = 1 ∧ c.status = 0 then
    setSemErr (setSem s (partOf c.ring) (c.fld 3 1) (c.fld 0x10 4)) (partOf c.ring) (c.fld 3 1) false
  else s

/-- A signal adds one to its semaphore, and marks a failure (R243). -/
def semSignalled (s : State) (c : Cmd) : State :=
  if c.flag 2 then
    let u := setSem s (partOf c.ring) (c.fld 3 1) ((semVal s (partOf c.ring) (c.fld 3 1) + 1) % 2 ^ 32)
    if c.status ≠ 0 then setSemErr u (partOf c.ring) (c.fld 3 1) true else u
  else s

theorem signal_eq (s : State) (c : Cmd) : signal s c = semSignalled (semApplied s c) c := rfl

/-- Nothing but semaphores changed. -/
def OnlySems (s t : State) : Prop := t = { s with front := { s.front with semVal := t.front.semVal, semErr := t.front.semErr } }

theorem OnlySems.trans {s t u : State} (h : OnlySems s t) (k : OnlySems t u) : OnlySems s u := by
  have e : u = { t with front := { t.front with semVal := u.front.semVal, semErr := u.front.semErr } } := k
  rw [show t = { s with front := { s.front with semVal := t.front.semVal, semErr := t.front.semErr } } from h] at e
  exact e

theorem signal_only (s : State) (c : Cmd) : OnlySems s (signal s c) := by
  have happlied : OnlySems s (semApplied s c) := by
    unfold semApplied
    split <;> rfl
  have hsignalled (u : State) : OnlySems u (semSignalled u c) := by
    unfold semSignalled
    split
    · dsimp only
      split <;> rfl
    · rfl
  exact happlied.trans (hsignalled _)

theorem semVal_setSem (u : State) (p k v : Nat) : semVal (setSem u p k v) p k = v % 2 ^ 32 := by
  rw [semVal, setSem]
  dsimp only
  rw [tget_tset_same, BitVec.toNat_ofNat]

theorem semVal_setSemErr (u : State) (p k : Nat) (b : Bool) (q j : Nat) : semVal (setSemErr u p k b) q j = semVal u q j := rfl
theorem semErr_setSem (u : State) (p k v q j : Nat) : semErr (setSem u p k v) q j = semErr u q j := rfl
theorem semErr_setSemErr (u : State) (p k : Nat) (b : Bool) : semErr (setSemErr u p k b) p k = b := tget_tset_same _ _ _ _

theorem signal_counts (hop : c.op ≠ 1) (h2 : c.flag 2 = true) : let p := partOf c.ring
    let k := c.fld 3 1
    semVal (signal s c) p k = (semVal s p k + 1) % 2 ^ 32 ∧ semErr (signal s c) p k = (semErr s p k || decide (c.status ≠ 0)) := by
  dsimp only
  rw [signal_eq, semApplied, if_neg (fun e : _ ∧ _ => hop e.1), semSignalled, if_pos h2]
  dsimp only
  by_cases hst : c.status = 0
  · rw [if_neg (fun e => e hst), semVal_setSem, semErr_setSem, hst]
    exact ⟨Nat.mod_mod _ _, (Bool.or_false _).symm⟩
  · rw [if_pos hst, semVal_setSemErr, semVal_setSem, semErr_setSemErr, decide_eq_true hst, Bool.or_true]
    exact ⟨Nat.mod_mod _ _, rfl⟩

theorem signal_sets (hop : c.op = 1) (hst : c.status = 0) (h2 : c.flag 2 = false) : let p := partOf c.ring
    let k := c.fld 3 1
    semVal (signal s c) p k = c.fld 0x10 4 % 2 ^ 32 ∧ semErr (signal s c) p k = false := by
  dsimp only
  rw [signal_eq, semSignalled, if_neg (by rw [h2]; decide), semApplied, if_pos ⟨hop, hst⟩, semVal_setSemErr, semVal_setSem,
    semErr_setSemErr]
  exact ⟨rfl, rfl⟩

/-! ### What a retirement comes to -/

theorem handedOver_sems (s : State) (r i : Nat) (d : Cmd) : SemsKept s (handedOver s r i d) := ⟨rfl, rfl, rfl⟩

/-- The commands in flight and retired, and the memory, once the ring goes on. -/
theorem cmdRetired_flight (s : State) (r i : Nat) (c : Cmd) :
    FlightKept (handedOver (signal s c) r i (recorded (signal s c) c)) (cmdRetired s r i c) :=
  (modelLetGo_latchOnly _ _ _).flight.trans (ringWentOn_keeps _ _ _ _).1

theorem cmdRetired_words (s : State) (r i : Nat) (c : Cmd) : WordsOn (· ≠ Reg.GRP_BUILDS.addr 0) s (cmdRetired s r i c) := by
  have hsignal : (signal s c).regs = s.regs := by rw [signal_only]
  have hmodel := (modelLetGo_latchOnly (handedOver (signal s c) r i (recorded (signal s c) c)) r (recorded (signal s c) c)).regs
  exact (WordsOn.of_regs (hmodel.trans hsignal)).trans (ringWentOn_keeps _ _ _ _).2.2

/-- A command that names no model leaves the semaphores as its signal did. -/
theorem cmdRetired_sems (hmref : c.mref = none) : SemsKept (signal s c) (cmdRetired s r i c) := by
  have hmodel : modelLetGo (handedOver (signal s c) r i (recorded (signal s c) c)) r (recorded (signal s c) c) =
      handedOver (signal s c) r i (recorded (signal s c) c) := by
    rw [modelLetGo, show (recorded (signal s c) c).mref = none from hmref]
  rw [cmdRetired, hmodel]
  exact (handedOver_sems _ _ _ _).trans (ringWentOn_keeps _ _ _ _).2.1

theorem latchDrop_none (h : latch s r = none) : latchDrop s r = s := by rw [latchDrop, h]

theorem ringSettled_sems (hlatch : latch s r = none) : SemsKept s (ringSettled s r c) := by
  have hyield : SemsKept s (if stopsSelf c then boundaryYield s r else s) := by
    split
    · exact boundaryYield_sems s r
    · exact ⟨rfl, rfl, rfl⟩
  have hnone : latch (if stopsSelf c then boundaryYield s r else s) r = none := by
    rw [latch, hyield.latch]
    exact hlatch
  rw [ringSettled, latchDrop_none hnone]
  refine hyield.trans ?_
  rw [noteReady_only]
  exact ⟨rfl, rfl, rfl⟩

theorem ringSettled_goes (h : stopsSelf c = false) : LatchOnly s (ringSettled s r c) := by
  rw [ringSettled, if_neg (by rw [h]; decide)]
  exact (latchDrop_latchOnly s r).trans (noteReady_latchOnly _)

theorem ringSettled_stops (h : stopsSelf c = true) (hr : r < 64) (hst : rd s Reg.CMD_RING_CFG_STATE r = 1) :
    rd (ringSettled s r c) Reg.CMD_RING_CFG_STATE r = 2 := by
  rw [ringSettled, if_pos h]
  exact (rd_of_regs ((noteReady_regs _).trans (latchDrop_latchOnly _ r).regs) _ _).trans (boundaryYield_state hr hst).1

/-- The semaphore of a retired command that names no model and whose ring rests on none. -/
theorem sems_retired (hmref : c.mref = none) (hlatch : latch s r = none) :
    SemsKept (signal s c) (ringSettled (cmdRetired s r i c) r c) := by
  have hkept := cmdRetired_sems (r := r) (i := i) (s := s) hmref
  refine hkept.trans (ringSettled_sems ?_)
  rw [latch, hkept.latch, signal_only]
  exact hlatch

end Retire

/-! ### Completion records -/

section Records

variable {s u : State} {r : Nat} {c : Cmd}

/-- A record written: at once, or once the peer has acknowledged it (R203, R250). -/
def recordSent (v : State) (r : Nat) (c : Cmd) : State :=
  if recordOpen v r c.idx then
    { v with front := { v.front with recHeld := tset (fun _ => false) v.front.recHeld r true } }
  else recordDone v c

theorem exec_completionWrite_of (hr : r < 64) (hawake : awake s = true)
    (hc : s.front.retired.find? (fun c => c.ring == r) = some c) (hheld : tget (fun _ => false) s.front.recHeld r = false)
    (hpower : rd s Reg.PWR_STAT_PFHALT 0 = 0) {a : Nat}
    (ha : a = ringBase s r + 64 * ringSize s r + 32 * (c.idx % ringSize s r))
    (hgo : gate s (partOf r) a 32 true true (.recWrite r c.idx) = .go u) : exec (.completionWrite r) s = .next (recordSent
      (claim (memWrite (abortOnWrite u (partOf r) a 32) (partOf r) a 32 (recordOf u c)) (.recWrite r c.idx)) r c) := by
  subst ha
  show execCompletionWrite r s = _
  rw [execCompletionWrite, onUnit_live (show ringOk r = true from decide_eq_true hr) hawake, hc]
  refine congrArg Host.Outcome.next ((if_neg ?_).trans ?_)
  · rw [hheld, hpower]
    decide
  · dsimp only
    rw [hgo, recordSent]

theorem exec_coalTimeout_of (hr : r < 64) (hawake : awake s = true) (htime : rd s Reg.CMD_RING_COAL_TIME r ≠ 0)
    (hpend : tget (fun _ => 0) s.front.pend r ≠ 0) : exec (.coalTimeout r) s = .next (ringIrq s r) := by
  show execCoalTimeout r s = _
  rw [execCoalTimeout, onUnit_live (show ringOk r = true from decide_eq_true hr) hawake, if_pos ⟨htime, hpend⟩]

end Records

/-- Settles O36: a finished command is handed over, signalled and settled with its ring; a record goes as its gate lets it. -/
theorem retirement : Obligations.Retirement := by
  unfold Obligations.Retirement
  refine ⟨?_, ?_, fun s r hr hawake htime hpend => exec_coalTimeout_of hr hawake htime hpend⟩
  · intro s r i c hr hi hawake hget hfin hfree hacked hpower p k
    obtain ⟨rfl, rfl⟩ := getCmd_ids hget
    have hexec := exec_commandRetire_of (s := s) ⟨hr, hi, hawake, hget, hfin, hfree, hacked, hpower⟩
    have hrest := signal_only s c
    refine ⟨fun hgoes => ⟨_, hexec, ?_⟩, fun hmref hlatch hop h2 => ⟨_, hexec, ?_⟩, fun hmref hlatch hop hst h2 => ⟨_, hexec, ?_⟩,
      fun hstops hst => ⟨_, hexec, ringSettled_stops hstops hr (((cmdRetired_words s _ _ c).rd ?_).trans hst)⟩⟩
    · have hkept := (cmdRetired_flight s c.ring c.idx c).trans (ringSettled_goes (r := c.ring) hgoes).flight
      rw [OnlySems] at hrest
      refine ⟨hkept.inflight.trans ?_, fun hstop => hkept.retired.trans ?_, (congrArg Memory.locks hkept.mem).trans ?_⟩
      · rw [hrest]
        rfl
      · rw [hrest]
        exact if_neg (by rw [show tget (fun _ => false) s.front.recStop c.ring = false from hstop]; decide)
      · rw [hrest]
        rfl
    · have hkept := sems_retired (r := c.ring) (i := c.idx) hmref hlatch
      have hsignal := signal_counts (s := s) hop h2
      dsimp only
      rw [hkept.semVal, hkept.semErr]
      exact hsignal
    · have hkept := sems_retired (r := c.ring) (i := c.idx) hmref hlatch
      have hsignal := signal_sets (s := s) hop hst h2
      dsimp only
      rw [hkept.semVal, hkept.semErr]
      exact hsignal
    · simp only [Fld.addr, Reg.CMD_RING_CFG_STATE, Reg.GRP_BUILDS]
      omega
  · intro s u r c hr hawake hc hheld hpower p a hgo v
    have hexec := exec_completionWrite_of hr hawake hc hheld hpower rfl hgo
    exact ⟨fun hopen => hexec.trans (congrArg Host.Outcome.next (if_neg (by rw [hopen]; decide))),
      fun hopen => hexec.trans (congrArg Host.Outcome.next (if_pos hopen))⟩

end Sys2Proof.Machine

/-! Service commands: their gates and ends; sampler slots set, closed and counted (R205, R266 to R269). -/

namespace Sys2Proof.Machine

/-! ### What a granted request leaves -/

/-- Nothing but the regulators' buckets changed. -/
def OnlyBuckets (s t : State) : Prop := t = { s with front := { s.front with bucket := t.front.bucket } }

theorem OnlyBuckets.refl (s : State) : OnlyBuckets s s := rfl

theorem OnlyBuckets.trans {s t u : State} (h : OnlyBuckets s t) (k : OnlyBuckets t u) : OnlyBuckets s u := by
  have e : u = { t with front := { t.front with bucket := u.front.bucket } } := k
  rw [show t = { s with front := { s.front with bucket := t.front.bucket } } from h] at e
  exact e

theorem OnlyBuckets.eq {s t : State} (h : OnlyBuckets s t) :
    t = { s with front := { s.front with bucket := t.front.bucket } } := h

theorem OnlyBuckets.srv {s t : State} (h : OnlyBuckets s t) : t.srv = s.srv := by rw [h.eq]
theorem OnlyBuckets.skl {s t : State} (h : OnlyBuckets s t) : t.skl = s.skl := by rw [h.eq]
theorem OnlyBuckets.regs {s t : State} (h : OnlyBuckets s t) : t.regs = s.regs := by rw [h.eq]
theorem OnlyBuckets.inflight {s t : State} (h : OnlyBuckets s t) : t.front.inflight = s.front.inflight := by rw [h.eq]

theorem onlyBuckets_draw (s : State) (p k n : Nat) : OnlyBuckets s (draw s p k n) := by
  unfold draw
  split <;> rfl

/-- What a request draws on the regulators is all in their buckets (R256). -/
theorem onlyBuckets_drawRange (s : State) (p da n : Nat) : OnlyBuckets s (drawRange s p da n) :=
  eachOf_rel OnlyBuckets.refl (fun _ _ _ => OnlyBuckets.trans) (fun s x => by
    split
    · exact onlyBuckets_draw s p _ _
    · rfl) _ s

section Gates

variable {j s t : State} {p : Nat} {write reg : Bool} {h : HeldReq}

theorem gate1_go {da n : Nat} (hgo : gate1 j s p da n write reg h = .go t) : OnlyBuckets s t := by
  unfold gate1 at hgo
  split at hgo
  · cases hgo
  · cases hgo
  · split at hgo
    · cases hgo
    · split at hgo
      · cases hgo
        rfl
      · split at hgo
        · cases hgo
          exact onlyBuckets_drawRange s p da n
        · cases hgo

theorem gateList_go {l : List (Nat × Nat)} (hgo : gateList j s p write reg h l = .go t) : OnlyBuckets s t := by
  induction l generalizing s with
  | nil =>
    cases hgo
    rfl
  | cons e l ih =>
    rw [gateList] at hgo
    split at hgo
    · next u hu => exact (gate1_go hu).trans (ih hgo)
    · next hno => exact absurd hgo (hno t)

/-- A request that goes has drawn on the regulators, and changed nothing else (R256). -/
theorem gates_go {l : List (Nat × Nat)} (hgo : gates j s p write reg h l = .go t) : OnlyBuckets s t := by
  unfold gates at hgo
  split at hgo
  · cases hgo
  · cases hgo
  · split at hgo
    · cases hgo
    · cases hgo
    · split at hgo
      · next u hu =>
        cases hgo
        exact gateList_go hu
      · cases hgo

theorem Granted.onlyBuckets {reads writes : List (Nat × Nat)} (g : Granted s p h reads writes t) : OnlyBuckets s t := by
  obtain ⟨u, hreads, hwrites⟩ := g.mid
  exact (gates_go hreads).trans (gates_go hwrites)

theorem Peeked.onlyBuckets {r i : Nat} {reads : List (Nat × Nat)} (g : Peeked s r i reads t) : OnlyBuckets s t := gates_go g.go

end Gates

/-! ### A service command's phases -/

section Service

variable {s t u : State} {c : Cmd}

theorem svcGate_granted {reads writes : List (Nat × Nat)}
    (g : Granted s (partOf c.ring) (.service c.ring c.idx) reads writes t) (k : State → State) :
    svcGate s c reads writes k = k t := by
  obtain ⟨u, hreads, hwrites⟩ := g.mid
  simp only [svcGate, hreads, hwrites]

theorem svcPeek_peeked {reads : List (Nat × Nat)} (g : Peeked s c.ring c.idx reads t) (k : State → State) :
    svcPeek s c reads k = k t := by
  simp only [svcPeek, g.ok, g.go]

theorem ends_svcEnd {d : Cmd} (h : getCmd s c.ring c.idx = some d) (status sub result : Nat) :
    Ends (svcEnd s c status sub result) c.ring c.idx status sub :=
  ends_finish (getCmd_modCmd_same (f := fun x => { x with result := result }) (fun _ => ⟨rfl, rfl⟩) h) status sub

@[simp] theorem svcEnd_srv (s : State) (c : Cmd) (a b d : Nat) : (svcEnd s c a b d).srv = s.srv := rfl
@[simp] theorem svcEnd_regs (s : State) (c : Cmd) (a b d : Nat) : (svcEnd s c a b d).regs = s.regs := rfl
@[simp] theorem svcEnd_mem (s : State) (c : Cmd) (a b d : Nat) : (svcEnd s c a b d).mem = s.mem := rfl

/-- A service command that ends at once leaves its engine and the registers as they were. -/
theorem Turn.turned {r i op : Nat} (h : Turn s r i op c) (code sub result : Nat) :
    let t := claimed c r i (svcEnd (takeCmd s c) (going c) code sub result)
    Ends t r i code sub ∧ t.srv = s.srv ∧ WordsKept s t [] := by
  obtain ⟨rfl, rfl⟩ := h.ids
  exact ⟨ends_svcEnd (c := going c) h.getTaken code sub result, takeCmd_srv s c, fun a _ => rw_takeCmd s c a⟩

end Service

/-! ### Slots -/

section Slots

variable {s : State} {r i k : Nat} {c : Cmd}

theorem sslot_takeCmd (s : State) (c : Cmd) (k : Nat) : sslot (takeCmd s c) k = sslot s k := by
  rw [sslot, takeCmd_srv]
  rfl

theorem slotOpen_takeCmd (s : State) (c : Cmd) (k : Nat) : slotOpen (takeCmd s c) k = slotOpen s k := by
  rw [slotOpen, rdBit, rd_takeCmd]
  rfl

theorem slotsHeld_takeCmd (s : State) (c : Cmd) (p : Nat) : slotsHeld (takeCmd s c) p = slotsHeld s p := by
  simp only [slotsHeld, slotOpen_takeCmd, sslot_takeCmd]

theorem slotBar_takeCmd (s : State) (c : Cmd) (p k : Nat) : slotBar (takeCmd s c) p k = slotBar s p k := by
  simp only [slotBar, slotOpen_takeCmd, sslot_takeCmd]

theorem spillOk_takeCmd (s : State) (c : Cmd) (p a : Nat) : spillOk (takeCmd s c) p a = spillOk s p a := by
  simp only [spillOk, rd_takeCmd, takeCmd_entries]

/-- Slot `k` changed to `x`, in a state whose `SLOT_OPEN` word of it has changed in bit `k` alone. -/
structure SlotTaken (s t : State) (k : Nat) (x : SSlot) (isOpen : Bool) : Prop where
  slot : sslot t k = x
  others : ∀ j, j ≠ k → sslot t j = sslot s j
  opened : slotOpen t k = isOpen
  kept : ∀ j, j ≠ k → slotOpen t j = slotOpen s j
  words : WordsKept s t [Reg.SMP_SLOT_OPEN.addr (k / 32)]
  mem : t.mem = s.mem

theorem testBit_or_two_pow_ne (x : Nat) {j k : Nat} (h : j ≠ k) : (x ||| 2 ^ k).testBit j = x.testBit j := by
  rw [Nat.testBit_or, Nat.testBit_two_pow_of_ne h.symm, Bool.or_false]

/-- Taking a set bit off a number leaves its other bits. -/
theorem testBit_sub_two_pow_ne {x j k : Nat} (hk : x.testBit k = true) (h : j ≠ k) : (x - 2 ^ k).testBit j = x.testBit j := by
  have hbit : x / 2 ^ k % 2 = 1 := by simpa [Nat.testBit_eq_decide_div_mod_eq] using hk
  have hlow : x % 2 ^ k < 2 ^ k := Nat.mod_lt _ (Nat.two_pow_pos k)
  have hx : x = 2 ^ (k + 1) * (x / 2 ^ k / 2) + (2 ^ k * 1 + x % 2 ^ k) := by
    have h1 := Nat.div_add_mod x (2 ^ k)
    have h2 := Nat.div_add_mod (x / 2 ^ k) 2
    rw [hbit] at h2
    rw [Nat.pow_succ, Nat.mul_assoc, ← Nat.add_assoc, ← Nat.mul_add, h2, h1]
  have hsub : x - 2 ^ k = 2 ^ (k + 1) * (x / 2 ^ k / 2) + (2 ^ k * 0 + x % 2 ^ k) := by omega
  have hsmall : 2 ^ k * 1 + x % 2 ^ k < 2 ^ (k + 1) ∧ 2 ^ k * 0 + x % 2 ^ k < 2 ^ (k + 1) := by
    rw [Nat.pow_succ]
    omega
  rw [hsub, Nat.testBit_two_pow_mul_add _ hsmall.2]
  conv_rhs => rw [hx, Nat.testBit_two_pow_mul_add _ hsmall.1]
  split
  · rw [Nat.testBit_two_pow_mul_add _ hlow, Nat.testBit_two_pow_mul_add _ hlow]
    split
    · rfl
    · omega
  · rfl

theorem slotOpen_addr (i j : Nat) : Reg.SMP_SLOT_OPEN.addr j = Reg.SMP_SLOT_OPEN.addr i ↔ j = i := by
  simp only [Fld.addr, Reg.SMP_SLOT_OPEN]
  omega

/-- A word of `SLOT_OPEN` written as `v`: slot `j` is open by its bit, where the word is its own. -/
theorem slotOpen_wr (s : State) (n v j : Nat) (hv : v < 2 ^ 32) : slotOpen (wr s Reg.SMP_SLOT_OPEN n v) j =
    if j / 32 = n then v.testBit (j % 32) else slotOpen s j := by
  rw [slotOpen, rdBit]
  split
  · next h =>
    rw [h, rd_wr_self _ _ _ (by decide)]
    exact congrArg (Nat.testBit · _) (Nat.mod_eq_of_lt hv)
  · next h => rw [rd_wr_ne _ _ _ _ _ _ fun e => h ((slotOpen_addr n (j / 32)).1 e), slotOpen, rdBit]

theorem slot_of_words {j k : Nat} (hdiv : j / 32 = k / 32) (hmod : j % 32 = k % 32) : j = k := by omega

theorem slotTaken_set (s : State) (k : Nat) (x : SSlot) :
    SlotTaken s (setBit (setSslot s k x) Reg.SMP_SLOT_OPEN (k / 32) (k % 32)) k x true := by
  have hlt := rd_lt s Reg.SMP_SLOT_OPEN (k / 32)
  have hv : rd s Reg.SMP_SLOT_OPEN (k / 32) ||| 2 ^ (k % 32) < 2 ^ 32 :=
    Nat.or_lt_two_pow hlt (Nat.pow_lt_pow_right (by decide) (Nat.mod_lt _ (by decide)))
  have hopen (j : Nat) := slotOpen_wr (setSslot s k x) (k / 32) _ j hv
  refine ⟨tget_tset_same _ _ _ _, fun j hj => tget_tset_ne _ _ _ hj, ?_, fun j hj => ?_, fun a ha => ?_, rfl⟩
  · refine (hopen k).trans ?_
    rw [if_pos rfl, Nat.testBit_or, Nat.testBit_two_pow_self, Bool.or_true]
  · refine (hopen j).trans ?_
    split
    · next h => rw [testBit_or_two_pow_ne _ fun e => hj (slot_of_words h e), slotOpen, rdBit, h]
    · rfl
  · exact rw_wr_ne _ _ _ _ _ fun e => ha (by rw [e]; exact List.mem_singleton_self _)

theorem slotTaken_clear (s : State) (k : Nat) (x : SSlot) :
    SlotTaken s (clrBit (setSslot s k x) Reg.SMP_SLOT_OPEN (k / 32) (k % 32)) k x false := by
  have hlt : rd (setSslot s k x) Reg.SMP_SLOT_OPEN (k / 32) < 2 ^ 32 := rd_lt s Reg.SMP_SLOT_OPEN (k / 32)
  have hv : (if (rd (setSslot s k x) Reg.SMP_SLOT_OPEN (k / 32)).testBit (k % 32) then
      rd (setSslot s k x) Reg.SMP_SLOT_OPEN (k / 32) - 2 ^ (k % 32) else rd (setSslot s k x) Reg.SMP_SLOT_OPEN (k / 32)) < 2 ^ 32 := by
    split
    · exact Nat.lt_of_le_of_lt (Nat.sub_le _ _) hlt
    · exact hlt
  have hopen (j : Nat) := slotOpen_wr (setSslot s k x) (k / 32) _ j hv
  refine ⟨tget_tset_same _ _ _ _, fun j hj => tget_tset_ne _ _ _ hj, ?_, fun j hj => ?_, fun a ha => ?_, rfl⟩
  · refine (hopen k).trans ?_
    rw [if_pos rfl]
    split
    · next h => exact testBit_sub_two_pow_same h
    · next h => exact Bool.eq_false_iff.2 h
  · refine (hopen j).trans ?_
    split
    · next hdiv =>
      have hbit : (rd (setSslot s k x) Reg.SMP_SLOT_OPEN (k / 32)).testBit (j % 32) = slotOpen s j := by
        rw [slotOpen, rdBit, hdiv]
        rfl
      rw [← hbit]
      split
      · next h => exact testBit_sub_two_pow_ne h fun e => hj (slot_of_words hdiv e)
      · rfl
    · rfl
  · exact rw_wr_ne _ _ _ _ _ fun e => ha (by rw [e]; exact List.mem_singleton_self _)

/-! ### The commands -/

/-- The parameters a SLOT_SET gives a slot (R268). -/
def Cmd.slotSet (c : Cmd) (p : Nat) (x : SSlot) : SSlot :=
  let fl := c.fld 0x11 1
  { x with
    part := p, lpraw := bit fl 3, bf16 := bit fl 4, topk := c.fld 0x12 2, temp := c.fld 0x14 4, topp := c.fld 0x18 4,
    minp := c.fld 0x1C 4, rep := c.fld 0x20 4, pres := c.fld 0x24 4, freq := c.fld 0x28 4, vocab := c.fld 0x2C 4,
    seed := if bit fl 2 then c.fld 0x30 8 else x.seed, step := if bit fl 2 then 0 else x.step, spill := c.fld 0x38 8,
    lossy := if bit fl 1 then false else x.lossy, counts := if bit fl 1 then [] else x.counts }

theorem exec_slotSet_takes (h : Turn s r i 0x40 c) (hk : c.fld 0x10 1 < 128) (hparams : slotParamsOk c = true)
    (hspill : spillOk s (partOf r) (c.fld 0x38 8) = true)
    (hown : slotOpen s (c.fld 0x10 1) = true → (sslot s (c.fld 0x10 1)).part = partOf r)
    (hnew : slotOpen s (c.fld 0x10 1) = false → bit (c.fld 0x11 1) 0 = true ∧
      slotsHeld s (partOf r) < rd s Reg.SMP_SLOT_Q_MAX (partOf r)) :
    exec (.slotSet r i) s = .next (claimed c r i (svcEnd (setBit (setSslot (takeCmd s c) (c.fld 0x10 1)
      (c.slotSet (partOf r) (sslot (takeCmd s c) (c.fld 0x10 1)))) Reg.SMP_SLOT_OPEN (c.fld 0x10 1 / 32) (c.fld 0x10 1 % 32))
      (going c) 0 0 0)) := by
  show execSlotSet r i s = _
  rw [execSlotSet, onCmd_turn h]
  refine claimed_congr ((if_neg ?_).trans ((if_neg ?_).trans ((if_neg ?_).trans (if_neg ?_)))) r i c
  · rw [spillOk_takeCmd]
    rintro (hbig | hbad | hbad)
    · exact absurd hbig (Nat.not_lt.2 (Nat.le_of_lt_succ hk))
    · rw [show slotParamsOk (going c) = true from hparams] at hbad
      cases hbad
    · rw [show spillOk s (partOf r) ((going c).fld 0x38 8) = true from hspill] at hbad
      cases hbad
  · rw [slotOpen_takeCmd, sslot_takeCmd]
    exact fun e => e.2 (hown e.1)
  · rw [slotOpen_takeCmd]
    rintro ⟨hclosed, hflag⟩
    rw [show bit ((going c).fld 0x11 1) 0 = true from (hnew ((Bool.not_eq_true' _).mp hclosed)).1] at hflag
    cases hflag
  · rw [slotOpen_takeCmd, slotsHeld_takeCmd, rd_takeCmd]
    exact fun e => absurd e.2 (Nat.not_le.2 (hnew ((Bool.not_eq_true' _).mp e.1)).2)

theorem exec_slotSet_beyond (h : Turn s r i 0x40 c) (hk : 128 ≤ c.fld 0x10 1) :
    exec (.slotSet r i) s = .next (claimed c r i (svcEnd (takeCmd s c) (going c) 0x72 0 0)) := by
  show execSlotSet r i s = _
  rw [execSlotSet, onCmd_turn h]
  exact claimed_congr (if_pos (.inl hk)) r i c

theorem exec_slotClose_of (h : Turn s r i 0x41 c) : exec (.slotClose r i) s = .next (claimed c r i
    (if slotBar s (partOf r) (c.fld 0x10 1) ≠ 0 then
      svcEnd (takeCmd s c) (going c) (slotBar s (partOf r) (c.fld 0x10 1)) 0 0
    else svcEnd (clrBit (setSslot (takeCmd s c) (c.fld 0x10 1) { sslot (takeCmd s c) (c.fld 0x10 1) with counts := [] })
      Reg.SMP_SLOT_OPEN (c.fld 0x10 1 / 32) (c.fld 0x10 1 % 32)) (going c) 0 0 0)) := by
  show execSlotClose r i s = _
  rw [execSlotClose, onCmd_turn h]
  refine claimed_congr ?_ r i c
  dsimp only
  rw [slotBar_takeCmd]
  rfl

/-- The changed slot of a command that ends well. -/
theorem SlotTaken.ended {u : State} {d : Cmd} {x : SSlot} {isOpen : Bool} (ht : SlotTaken (takeCmd s c) u k x isOpen)
    (hget : getCmd u d.ring d.idx = getCmd (takeCmd s c) d.ring d.idx) (hd : d = going c) (h : Turn s r i op c) :
    let t := claimed c r i (svcEnd u d 0 0 0)
    sslot t k = x ∧ slotOpen t k = isOpen ∧ ((∀ j, j ≠ k → sslot t j = sslot s j) ∧
      (∀ j < 128, j ≠ k → slotOpen t j = slotOpen s j) ∧ WordsKept s t [Reg.SMP_SLOT_OPEN.addr (k / 32)] ∧ t.mem = s.mem) ∧
    Ends t r i 0 0 := by
  subst hd
  obtain ⟨rfl, rfl⟩ := h.ids
  refine ⟨ht.slot, ht.opened, ⟨fun j hj => (ht.others j hj).trans (sslot_takeCmd s c j), fun j _ hj =>
    (ht.kept j hj).trans (slotOpen_takeCmd s c j), fun a ha => (ht.words a ha).trans (rw_takeCmd s c a),
    ht.mem.trans (takeCmd_mem s c)⟩, ends_svcEnd (c := going c) (hget.trans h.getTaken) 0 0 0⟩

/-! ### Counts -/

theorem spills_congr {u v : State} (h : v.srv = u.srv) (l : List Nat) : spills v l = spills u l := by
  simp only [spills, sslot, h]

/-- COUNT_ADD with its tokens read (R269). -/
def countsAdded (w : State) (c : Cmd) (k : Nat) (toks : List Nat) : State :=
  if toks.any fun t => decide (t ≥ (sslot w k).vocab) then svcEnd (fresh w) c 0x72 0 0
  else svcEnd (fresh (lockPages (eachOf toks w fun u t => addCount u k t) c (spills w [k]))) c 0 0 0

theorem exec_countAdd_barred (h : Turn s r i 0x44 c) (hn : 1 ≤ c.fld 0x20 4) (hmax : c.fld 0x20 4 ≤ 16777215)
    (hbar : slotBar s (partOf r) (c.fld 0x10 1) ≠ 0) : exec (.countAdd r i) s =
      .next (claimed c r i (svcEnd (takeCmd s c) (going c) (slotBar s (partOf r) (c.fld 0x10 1)) 0 0)) := by
  have hrange : ¬((going c).fld 0x20 4 = 0 ∨ (going c).fld 0x20 4 > 16777215) := fun e => e.elim (fun e => by
    rw [show c.fld 0x20 4 = 0 from e] at hn; cases hn) fun e => absurd hmax (Nat.not_le.2 e)
  show execCountAdd r i s = _
  rw [execCountAdd, onCmd_turn h]
  refine claimed_congr ((if_neg hrange).trans ?_) r i c
  rw [slotBar_takeCmd]
  exact if_pos hbar

theorem exec_countAdd_granted {w : State} (h : Turn s r i 0x44 c) (hn : 1 ≤ c.fld 0x20 4) (hmax : c.fld 0x20 4 ≤ 16777215)
    (hbar : slotBar s (partOf r) (c.fld 0x10 1) = 0)
    (hgrant : Granted (takeCmd s c) (partOf r) (.service r i)
      ((c.fld 0x18 8, 4 * c.fld 0x20 4) :: spills (takeCmd s c) [c.fld 0x10 1]) (spills (takeCmd s c) [c.fld 0x10 1]) w) :
    exec (.countAdd r i) s = .next (claimed c r i (countsAdded w (going c) (c.fld 0x10 1)
      ((List.range (c.fld 0x20 4)).map fun j => memRead w (partOf r) (c.fld 0x18 8 + 4 * j) 4))) := by
  have hrange : ¬((going c).fld 0x20 4 = 0 ∨ (going c).fld 0x20 4 > 16777215) := fun e => e.elim (fun e => by
    rw [show c.fld 0x20 4 = 0 from e] at hn; cases hn) fun e => absurd hmax (Nat.not_le.2 e)
  have hopen : ¬slotBar (takeCmd s c) (partOf r) ((going c).fld 0x10 1) ≠ 0 := by
    rw [slotBar_takeCmd]
    exact not_not_intro hbar
  obtain ⟨rfl, rfl⟩ := h.ids
  show execCountAdd c.ring c.idx s = _
  rw [execCountAdd, onCmd_turn h]
  exact claimed_congr ((if_neg hrange).trans ((if_neg hopen).trans (svcGate_granted (c := going c) hgrant _))) c.ring c.idx c

end Slots

/-- Settles O37: a slot taken or closed is that slot and its bit alone; a barred one ends the command and changes none. -/
theorem samplerSlots : Obligations.SamplerSlots := by
  unfold Obligations.SamplerSlots
  intro s r i c s1 d p k fl n a x y kept turned
  have hslot : sslot (takeCmd s c) k = x := sslot_takeCmd s c k
  refine ⟨fun h hk hparams hspill hown hnew => ?_, fun h hk => ⟨_, exec_slotSet_beyond h hk, h.turned 0x72 0 0⟩,
    fun h hbar => ?_, fun h hbar => ?_, fun w h hn hmax hbar hgrant => ?_, fun h hn hmax hbar =>
      ⟨_, exec_countAdd_barred h hn hmax hbar, h.turned _ 0 0⟩⟩
  · refine ⟨_, exec_slotSet_takes h hk hparams hspill hown hnew, ?_⟩
    have hy : c.slotSet (partOf r) (sslot (takeCmd s c) k) = y := by rw [hslot]; rfl
    have htaken := (slotTaken_set (takeCmd s c) k (c.slotSet (partOf r) (sslot (takeCmd s c) k))).ended
      (d := going c) rfl rfl h
    rw [hy] at htaken
    rw [show c.slotSet (partOf r) (sslot (takeCmd s c) (c.fld 0x10 1)) = y from hy]
    exact htaken
  · refine ⟨_, (exec_slotClose_of h).trans (claimed_congr (if_neg (not_not_intro hbar)) r i c), ?_⟩
    have htaken := (slotTaken_clear (takeCmd s c) k { sslot (takeCmd s c) k with counts := [] }).ended
      (d := going c) rfl rfl h
    obtain ⟨hk, hopen, hkept, hends⟩ := htaken
    exact ⟨hk.trans (by rw [hslot]), hopen, hkept, hends⟩
  · exact ⟨_, (exec_slotClose_of h).trans (claimed_congr (if_pos hbar) r i c), h.turned _ 0 0⟩
  · intro toks htoks
    have hexec := exec_countAdd_granted h hn hmax hbar hgrant
    have hsrv : w.srv = s1.srv := hgrant.onlyBuckets.srv
    refine hexec.trans (claimed_congr ((if_neg ?_).trans ?_) r i c)
    · rw [List.any_eq_true]
      rintro ⟨t, ht, hbad⟩
      exact absurd (htoks t ht) (Nat.not_lt.2 (of_decide_eq_true hbad))
    · rw [spills_congr hsrv]

end Sys2Proof.Machine

/-! PICK and VERIFY (R270 to R277). -/

namespace Sys2Proof.Machine

/-! ### Draws -/

section Draws

variable {l : List (Nat × Nat)}

/-- Step 10's run over the weights: the running sum, and the first token whose sum passes the bound. -/
def drawStep (bound : Nat) (st : Nat × Option Nat) (e : Nat × Nat) : Nat × Option Nat :=
  let t := f32add st.1 e.2
  (t, match st.2 with | some k => some k | none => if f32lt bound t then some e.1 else none)

theorem drawStep_mem (bound : Nat) (st : Nat × Option Nat) (e : Nat × Nat) {k : Nat} (h : (drawStep bound st e).2 = some k) :
    st.2 = some k ∨ k = e.1 := by
  unfold drawStep at h
  dsimp only at h
  split at h
  · next j hj => exact .inl (hj.trans h)
  · split at h
    · exact .inr (Option.some.inj h).symm
    · cases h

theorem drawRun_mem (bound : Nat) (l : List (Nat × Nat)) (st : Nat × Option Nat) {k : Nat}
    (h : (l.foldl (drawStep bound) st).2 = some k) : st.2 = some k ∨ k ∈ l.map Prod.fst := by
  induction l generalizing st with
  | nil => exact .inl h
  | cons e l ih =>
    rw [List.map_cons, List.mem_cons]
    rcases ih _ h with h | h
    · exact (drawStep_mem bound st e h).imp_right .inl
    · exact .inr (.inr h)

/-- A draw picks one of the tokens it draws from (R272). -/
theorem drawFrom_mem (u : Nat) (h : l ≠ []) : drawFrom l u ∈ l.map Prod.fst := by
  have hrun : drawFrom l u = match (l.foldl (drawStep (f32mul u (f32sum (l.map Prod.snd)))) (0, none)).2 with
      | some k => k
      | none => match l.getLast? with | some e => e.1 | none => 0xFFFFFFFF := rfl
  rw [hrun]
  split
  · next k hk => exact (drawRun_mem _ l _ hk).resolve_left (by simp)
  · rw [List.getLast?_eq_some_getLast h]
    exact List.mem_map_of_mem (List.getLast_mem h)

end Draws

/-! ### Distributions -/

section Sorting

variable {α : Type} {le : α → α → Bool}

theorem mem_mergeBy (n : Nat) (a b : List α) {x : α} (h : x ∈ mergeBy le n a b) : x ∈ a ∨ x ∈ b := by
  induction n generalizing a b with
  | zero => exact List.mem_append.1 h
  | succ n ih =>
    match a, b with
    | [], b => exact .inr (by simpa [mergeBy] using h)
    | y :: a, [] => exact .inl (by simpa [mergeBy] using h)
    | y :: a, z :: b =>
      rw [mergeBy] at h
      split at h
      · rcases List.mem_cons.1 h with rfl | h
        · exact .inl List.mem_cons_self
        · exact (ih _ _ h).imp_left (List.mem_cons_of_mem _)
      · rcases List.mem_cons.1 h with rfl | h
        · exact .inr List.mem_cons_self
        · exact (ih _ _ h).imp_right (List.mem_cons_of_mem _)

theorem mem_sortHalves (n : Nat) (l : List α) {x : α} (h : x ∈ sortHalves le n l) : x ∈ l := by
  induction n generalizing l with
  | zero => exact h
  | succ n ih =>
    rw [sortHalves] at h
    split at h
    · exact h
    · rcases mem_mergeBy _ _ _ h with h | h
      · exact List.mem_of_mem_take (ih _ h)
      · exact List.mem_of_mem_drop (ih _ h)

theorem mem_of_mem_sortBy {l : List α} {x : α} (h : x ∈ sortBy le l) : x ∈ l := mem_sortHalves 64 l h

end Sorting

section Dist

variable {x : SSlot} {row : List Nat}

theorem ranked_lt {e : Nat × Nat} (h : e ∈ ranked row) : e.2 < row.length := by
  have hmem := (List.mem_filter.1 (mem_of_mem_sortBy h)).1
  have hget := List.mem_zipIdx hmem
  omega

/-- The shortest start of a list that reaches a bound is a start of it. -/
theorem shortest_prefix (bound : Nat) (l : List (Nat × Nat)) (acc : Nat) {k : List (Nat × Nat)}
    (h : shortest bound acc l = some k) : k <+: l := by
  induction l generalizing acc k with
  | nil => cases h
  | cons e l ih =>
    rw [shortest] at h
    split at h
    · cases h
      exact List.cons_prefix_cons.2 ⟨rfl, List.nil_prefix⟩
    · obtain ⟨k', hk', rfl⟩ := Option.map_eq_some_iff.1 h
      exact List.cons_prefix_cons.2 ⟨rfl, ih _ hk'⟩

/-- The probabilities of ranked tokens, in their order (R271). -/
def probs (l : List (Nat × Nat)) (z0 : Nat) : List (Nat × Nat) :=
  let ex := l.map fun e => f32exp (f32sub e.1 z0)
  (l.zip ex).map fun e => (e.1.2, f32div e.2 (f32sum ex))

theorem probs_length (l : List (Nat × Nat)) (z0 : Nat) : (probs l z0).length = l.length := by
  simp [probs]

theorem probs_mem {l : List (Nat × Nat)} {z0 : Nat} {e : Nat × Nat} (h : e ∈ probs l z0) : ∃ a ∈ l, a.2 = e.1 := by
  obtain ⟨a, ha, rfl⟩ := List.mem_map.1 h
  exact ⟨a.1, (List.of_mem_zip ha).1, rfl⟩

/-- The ranked tokens a distribution is made of (R271). -/
def candidatesOf (x : SSlot) (row : List Nat) : List (Nat × Nat) :=
  let l := ranked (row.map fun z => f32div z x.temp)
  let imp := decide (x.topk = 0) && (f32lt x.topp 0x3F800000 || f32lt 0 x.minp)
  if (decide (x.topk = 0) && !imp) = true then l else l.take (if imp then 1024 else x.topk)

theorem candidatesOf_lt {e : Nat × Nat} (h : e ∈ candidatesOf x row) : e.2 < row.length := by
  unfold candidatesOf at h
  dsimp only at h
  split at h
  · simpa using ranked_lt h
  · simpa using ranked_lt (List.mem_of_mem_take h)

theorem candidatesOf_length (h : x.topk ≠ 0) : (candidatesOf x row).length ≤ x.topk := by
  have hno : decide (x.topk = 0) = false := decide_eq_false h
  unfold candidatesOf
  simp only [hno, Bool.false_and, Bool.false_eq_true, if_false]
  exact List.length_take_le _ _

/-- Steps 5 to 9 on the candidates (R271). -/
def distFrom (x : SSlot) (l : List (Nat × Nat)) : Dist :=
  let imp := decide (x.topk = 0) && (f32lt x.topp 0x3F800000 || f32lt 0 x.minp)
  match l with
  | [] => ⟨[], oneIf imp, 0⟩
  | e0 :: _ =>
    let ps := probs l e0.1
    if (decide (x.topk = 0) && !imp) = true then ⟨sortBy (fun a b => decide (a.1 ≤ b.1)) ps, 0, 0⟩
    else
      let p0 := match ps with | e :: _ => e.2 | [] => 0
      let ps := ps.filter fun e => !(f32lt e.2 (f32mul x.minp p0))
      if x.topp = 0x3F800000 then ⟨ps, oneIf imp, 0⟩
      else match shortest (f32mul x.topp (f32sum (ps.map Prod.snd))) 0 ps with
        | some k => ⟨k, oneIf imp, 0⟩
        | none => ⟨ps, oneIf imp, oneIf imp⟩

theorem distOf_eq (x : SSlot) (row : List Nat) : distOf x row = distFrom x (candidatesOf x row) := rfl

/-- What is kept is among the candidates' probabilities, and no more of them than there are. -/
theorem distFrom_kept (x : SSlot) (l : List (Nat × Nat)) : (∀ e ∈ (distFrom x l).kept, ∃ a ∈ l, a.2 = e.1) ∧
    (x.topk ≠ 0 → (distFrom x l).kept.length ≤ l.length) := by
  cases l with
  | nil => exact ⟨fun _ he => absurd he List.not_mem_nil, fun _ => Nat.le_refl _⟩
  | cons e0 l =>
    unfold distFrom
    dsimp only
    split
    · next hfull =>
      refine ⟨fun e he => probs_mem (mem_of_mem_sortBy he), fun h => ?_⟩
      rw [decide_eq_false h] at hfull
      cases hfull
    · generalize hq : (probs (e0 :: l) e0.1).filter _ = q
      have hmem : ∀ e ∈ q, ∃ a ∈ e0 :: l, a.2 = e.1 := fun e he => by
        rw [← hq] at he
        exact probs_mem (List.mem_filter.1 he).1
      have hlen : q.length ≤ (e0 :: l).length := by
        rw [← hq, ← probs_length (e0 :: l) e0.1]
        exact List.length_filter_le _ _
      split
      · exact ⟨hmem, fun _ => hlen⟩
      · split
        · next k hk =>
          have hprefix := shortest_prefix _ _ _ hk
          exact ⟨fun e he => hmem e (hprefix.subset he), fun _ => hprefix.length_le.trans hlen⟩
        · exact ⟨hmem, fun _ => hlen⟩

end Dist

/-! ### Verification -/

/-- An entry accepts at most one draft a level, and gives at most one token more than it accepts (R276). -/
theorem verifyLoop_bounds (p : Nat) (x : SSlot) (e : VEntry) (nodes : List DNode) (f cur : Nat) (z : VerRun) :
    let z1 := verifyLoop p x e nodes f cur z
    z.acc.length ≤ z1.acc.length ∧ z1.acc.length ≤ z.acc.length + f ∧
      z1.toks.length + z.acc.length ≤ z1.acc.length + z.toks.length + 1 := by
  induction f generalizing cur z with
  | zero => exact ⟨Nat.le_refl _, Nat.le_refl _, by show z.toks.length + _ ≤ z.acc.length + _ + 1; omega⟩
  | succ f ih =>
    dsimp only at ih ⊢
    rw [verifyLoop]
    dsimp only
    generalize (if cur = 0xFF then 0 else cur + 1) = row
    generalize viewRow z.s p (e.trows + row * rowBytes x) x _ = v
    split
    · next k w j s hk =>
      have hnext (z' : VerRun) (hacc : z'.acc.length = z.acc.length + 1) (htoks : z'.toks.length = z.toks.length + 1) :
          z.acc.length ≤ (verifyLoop p x e nodes f k z').acc.length ∧
          (verifyLoop p x e nodes f k z').acc.length ≤ z.acc.length + (f + 1) ∧
          (verifyLoop p x e nodes f k z').toks.length + z.acc.length ≤
            (verifyLoop p x e nodes f k z').acc.length + z.toks.length + 1 := by
        obtain ⟨hlow, hhigh, hmore⟩ := ih k z'
        omega
      exact hnext _ List.length_append List.length_append
    · have hlast (t : Nat × Nat) : (z.toks ++ [t]).length + z.acc.length ≤ z.acc.length + z.toks.length + 1 := by
        rw [List.length_append, List.length_singleton]
        omega
      split
      · exact ⟨Nat.le_refl _, Nat.le_add_right _ _, hlast _⟩
      · exact ⟨Nat.le_refl _, Nat.le_add_right _ _, hlast _⟩

/-! ### The commands -/

section Commands

variable {s u v w : State} {r i : Nat} {c : Cmd}

/-- A list's length that a PICK or VERIFY takes. -/
theorem list_range {n : Nat} (hn : 1 ≤ n) (hmax : n ≤ 128) : ¬(n = 0 ∨ n > 128) := by omega

theorem exec_pick_range (h : Turn s r i 0x42 c) (hn : c.fld 0x18 4 = 0 ∨ 128 < c.fld 0x18 4) :
    exec (.pick r i) s = .next (claimed c r i (svcEnd (takeCmd s c) (going c) 0x72 0 0)) := by
  show execPick r i s = _
  rw [execPick, onCmd_turn h]
  exact claimed_congr (if_pos hn) r i c

theorem exec_verify_range (h : Turn s r i 0x43 c) (hn : c.fld 0x18 4 = 0 ∨ 128 < c.fld 0x18 4) :
    exec (.verify r i) s = .next (claimed c r i (svcEnd (takeCmd s c) (going c) 0x72 0 0)) := by
  show execVerify r i s = _
  rw [execVerify, onCmd_turn h]
  exact claimed_congr (if_pos hn) r i c

theorem bars_none {α : Type} {l : List α} {f : α → Nat} (h : ∀ e ∈ l, f e = 0) :
    (l.map f).findIdx? (fun b => decide (b ≠ 0)) = none := by
  refine List.findIdx?_eq_none_iff.2 fun b hb => ?_
  obtain ⟨e, he, rfl⟩ := List.mem_map.1 hb
  rw [h e he]
  rfl

/-- A PICK with its entries read (R270, R274). -/
def pickRead (u : State) (c : Cmd) (p n list out : Nat) : State :=
  let es := (List.range n).map fun k => pickEntry u p (list + 16 * k)
  let bars := es.map fun e => let b := slotBar u p e.2.1; if b = 0 ∧ !rowOk e.1 then 0x72 else b
  match bars.findIdx? (fun b => decide (b ≠ 0)) with
  | some k => svcEnd (fresh u) c (bars.getD k 0) (k % 256) 0
  | none =>
    let sp := spills u ((es.filter fun e => !e.2.2).map fun e => e.2.1)
    svcGate u c ((list, 16 * n) :: (es.map fun e => (e.1, rowBytes (sslot u e.2.1))) ++ sp) ((out, 8 * n) :: sp) fun s =>
      let z := picks p out es 0 0 s
      svcEnd (fresh (lockPages z.1 c ((out, 8 * n) :: sp))) c 0 0 z.2

theorem exec_pick_peeked (h : Turn s r i 0x42 c) (hn : 1 ≤ c.fld 0x18 4) (hmax : c.fld 0x18 4 ≤ 128)
    (hpeek : Peeked (takeCmd s c) r i [(c.fld 0x10 8, 16 * c.fld 0x18 4)] u) : exec (.pick r i) s =
      .next (claimed c r i (pickRead u (going c) (partOf r) (c.fld 0x18 4) (c.fld 0x10 8) (c.fld 0x20 8))) := by
  obtain ⟨rfl, rfl⟩ := h.ids
  show execPick c.ring c.idx s = _
  rw [execPick, onCmd_turn h]
  exact claimed_congr ((if_neg (list_range hn hmax)).trans (svcPeek_peeked (c := going c) hpeek _)) c.ring c.idx c

theorem pickRead_good {p n list out : Nat} (hp : p = partOf c.ring) (hes : ∀ e ∈ (List.range n).map fun k =>
      pickEntry u p (list + 16 * k), slotBar u p e.2.1 = 0 ∧ rowOk e.1 = true) :
    let es := (List.range n).map fun k => pickEntry u p (list + 16 * k)
    let sp := spills u ((es.filter fun e => !e.2.2).map fun e => e.2.1)
    Granted u p (.service c.ring c.idx) ((list, 16 * n) :: (es.map fun e => (e.1, rowBytes (sslot u e.2.1))) ++ sp)
      ((out, 8 * n) :: sp) w →
    pickRead u c p n list out = svcEnd (fresh (lockPages (picks p out es 0 0 w).1 c ((out, 8 * n) :: sp))) c 0 0
      (picks p out es 0 0 w).2 := by
  intro es sp hgrant
  subst hp
  have hbars : (es.map fun e => let b := slotBar u (partOf c.ring) e.2.1; if b = 0 ∧ !rowOk e.1 then 0x72 else b).findIdx?
      (fun b => decide (b ≠ 0)) = none :=
    bars_none fun e he => by
      obtain ⟨hbar, hrow⟩ := hes e he
      simp [hbar, hrow]
  rw [pickRead]
  dsimp only
  rw [hbars]
  exact svcGate_granted hgrant _

/-- A VERIFY with its entries and their nodes read (R275, R276). -/
def verifyRead (v : State) (c : Cmd) (p n list : Nat) (es : List VEntry) (nodes : VEntry → List DNode) : State :=
  let bars := es.map fun e => verifyBar v p e (nodes e)
  match bars.findIdx? (fun b => decide (b ≠ 0)) with
  | some k => svcEnd (fresh v) c (bars.getD k 0) (k % 256) 0
  | none =>
    let rows := es.flatMap fun e =>
      (e.trows, (e.n + 1) * rowBytes (sslot v e.slot)) ::
        (if (ofF32 (sslot v e.slot).temp).isZero then [] else
          ((nodes e).map DNode.drow).eraseDups.map fun d => (d, rowBytes (sslot v e.slot)))
    let outs := (es.map fun e => (e.out, 128)) ++ spills v (es.map VEntry.slot)
    svcGate v c (((list, 32 * n) :: es.map fun e => (e.nodes, 16 * e.n)) ++ rows ++ spills v (es.map VEntry.slot)) outs
      fun s =>
        let z := es.foldl (fun (z : State × Nat) e => let q := verifyOne p e z.1; (q.1, z.2 + q.2)) (s, 0)
        svcEnd (fresh (lockPages z.1 c outs)) c 0 0 (z.2 % 2 ^ 32 + 2 ^ 32 * sumNat (es.map VEntry.n))

/-- Only the nodes of the entries in the list matter. -/
theorem verifyRead_congr {p n list : Nat} {es : List VEntry} {nodes nodes' : VEntry → List DNode}
    (h : ∀ e ∈ es, nodes e = nodes' e) : verifyRead v c p n list es nodes = verifyRead v c p n list es nodes' := by
  have hbars : (es.map fun e => verifyBar v p e (nodes e)) = es.map fun e => verifyBar v p e (nodes' e) :=
    List.map_congr_left fun e he => by rw [h e he]
  have hrows : (es.flatMap fun e => (e.trows, (e.n + 1) * rowBytes (sslot v e.slot)) ::
        (if (ofF32 (sslot v e.slot).temp).isZero then [] else
          ((nodes e).map DNode.drow).eraseDups.map fun d => (d, rowBytes (sslot v e.slot)))) =
      es.flatMap fun e => (e.trows, (e.n + 1) * rowBytes (sslot v e.slot)) ::
        (if (ofF32 (sslot v e.slot).temp).isZero then [] else
          ((nodes' e).map DNode.drow).eraseDups.map fun d => (d, rowBytes (sslot v e.slot))) :=
    List.flatMap_congr fun e he => by rw [h e he]
  rw [verifyRead, verifyRead, hbars, hrows]

theorem exec_verify_peeked (h : Turn s r i 0x43 c) (hn : 1 ≤ c.fld 0x18 4) (hmax : c.fld 0x18 4 ≤ 128)
    (hpeek : Peeked (takeCmd s c) r i [(c.fld 0x10 8, 32 * c.fld 0x18 4)] u) :
    let es := (List.range (c.fld 0x18 4)).map fun k => verifyEntry u (partOf r) (c.fld 0x10 8 + 32 * k)
    (∀ e ∈ es, 1 ≤ e.n ∧ e.n ≤ 16) → Peeked u r i (es.map fun e => (e.nodes, 16 * e.n)) v →
    exec (.verify r i) s = .next (claimed c r i (verifyRead v (going c) (partOf r) (c.fld 0x18 4) (c.fld 0x10 8) es
      fun e => (List.range e.n).map fun k => nodeEntry v (partOf r) (e.nodes + 16 * k))) := by
  obtain ⟨rfl, rfl⟩ := h.ids
  intro es hsmall hnodes
  have hok (e : VEntry) (he : e ∈ es) : (decide (1 ≤ e.n) && decide (e.n ≤ 16)) = true := by
    rw [decide_eq_true (hsmall e he).1, decide_eq_true (hsmall e he).2]
    rfl
  have hall : es.filter (fun e => decide (1 ≤ e.n) && decide (e.n ≤ 16)) = es := List.filter_eq_self.2 hok
  have hsecond (k : State → State) : svcPeek u (going c) ((es.filter fun e => decide (1 ≤ e.n) && decide (e.n ≤ 16)).map
      fun e => (e.nodes, 16 * e.n)) k = k v := by
    rw [hall]
    exact svcPeek_peeked (c := going c) hnodes k
  show execVerify c.ring c.idx s = _
  rw [execVerify, onCmd_turn h]
  refine claimed_congr (((if_neg (list_range hn hmax)).trans (svcPeek_peeked (c := going c) hpeek _)).trans
    ((hsecond _).trans ?_)) c.ring c.idx c
  exact verifyRead_congr fun e he => if_pos (hok e he)

theorem verifyRead_good {p n list : Nat} {es : List VEntry} {nodes : VEntry → List DNode} (hp : p = partOf c.ring)
    (hes : ∀ e ∈ es, verifyBar v p e (nodes e) = 0) :
    let rows := es.flatMap fun e => (e.trows, (e.n + 1) * rowBytes (sslot v e.slot)) ::
      (if (ofF32 (sslot v e.slot).temp).isZero then [] else
        ((nodes e).map DNode.drow).eraseDups.map fun d => (d, rowBytes (sslot v e.slot)))
    let outs := (es.map fun e => (e.out, 128)) ++ spills v (es.map VEntry.slot)
    Granted v p (.service c.ring c.idx) (((list, 32 * n) :: es.map fun e => (e.nodes, 16 * e.n)) ++ rows ++
      spills v (es.map VEntry.slot)) outs w →
    let z := es.foldl (fun (z : State × Nat) e => let q := verifyOne p e z.1; (q.1, z.2 + q.2)) (w, 0)
    verifyRead v c p n list es nodes =
      svcEnd (fresh (lockPages z.1 c outs)) c 0 0 (z.2 % 2 ^ 32 + 2 ^ 32 * sumNat (es.map VEntry.n)) := by
  intro rows outs hgrant
  subst hp
  rw [verifyRead]
  dsimp only
  rw [bars_none hes]
  exact svcGate_granted hgrant _

end Commands

/-- Settles O38. -/
theorem samplerDraws : Obligations.SamplerDraws := by
  unfold Obligations.SamplerDraws
  refine ⟨⟨fun s r i c u w => ?_, fun l u h => drawFrom_mem u h, fun x row h => ?_, fun x row e he => ?_⟩,
    fun s r i c u v w => ?_, fun p f cur x e nodes z => verifyLoop_bounds p x e nodes f cur z⟩
  · intro s1 d p n list out h
    refine ⟨fun hn => ⟨_, exec_pick_range h hn, h.turned 0x72 0 0⟩, fun hn hmax hpeek => ?_⟩
    intro es hes sp hgrant z
    obtain ⟨rfl, rfl⟩ := h.ids
    rw [exec_pick_peeked h hn hmax hpeek]
    exact congrArg (fun t => (.next (claimed c c.ring c.idx t) : Out)) (pickRead_good (c := going c) rfl hes hgrant)
  · rw [distOf_eq]
    exact ((distFrom_kept x _).2 h).trans (candidatesOf_length h)
  · rw [distOf_eq] at he
    obtain ⟨a, ha, hsame⟩ := (distFrom_kept x _).1 e he
    exact hsame ▸ candidatesOf_lt ha
  · intro s1 d p n list h
    refine ⟨fun hn => ⟨_, exec_verify_range h hn, h.turned 0x72 0 0⟩,
      fun hn hmax hpeek => ?_⟩
    intro es hsmall hnodes nodes hbar rows outs hgrant z
    obtain ⟨rfl, rfl⟩ := h.ids
    rw [exec_verify_peeked h hn hmax hpeek hsmall hnodes]
    exact congrArg (fun t => (.next (claimed c c.ring c.idx t) : Out)) (verifyRead_good (c := going c) rfl hbar hgrant)

end Sys2Proof.Machine

/-! The index walker (R278 to R293). -/

namespace Sys2Proof.Machine

/-- A move of node 1's block to T2 that has not started. -/
def waitingMove : WMove := ⟨0, 1, 0, [0], false, 0⟩

/-- The move waits, and a command holds a lock on a page of its one segment (R205). -/
def lockedWait : State :=
  { State.reset with
    srv := { State.reset.srv with moves := [waitingMove] },
    mem := { State.reset.mem with locks := [⟨0, 0, 0, 0⟩] } }

theorem lockedWait_awake : awake lockedWait = true := by decide +kernel

/-- Nothing but the lock keeps the move from starting. -/
theorem wmStart_lockedWait : wmStart lockedWait waitingMove = some lockedWait := rfl

/-- The lock puts the move off: it does not start. -/
theorem exec_walkerMigrationDone_locked : exec (.walkerMigrationDone 0 1) lockedWait = .next lockedWait := by
  show execWalkerMigrationDone 0 1 lockedWait = _
  have hlocked : waitingMove.segs.any (segLocked lockedWait) = true := by decide +kernel
  rw [execWalkerMigrationDone, onUnit_live (by decide) lockedWait_awake, show moveOf lockedWait 0 1 = some waitingMove from rfl]
  dsimp only
  rw [show (!waitingMove.started) = true from rfl, if_pos rfl, if_pos hlocked]

/-- Refutes O39: WALKER_MIGRATION_DONE starts no move of a segment under a lock, though its migrations could start. -/
theorem not_indexTree : ¬ Obligations.IndexTree := by
  unfold Obligations.IndexTree
  rintro ⟨-, -, hdone, -⟩
  obtain ⟨hstart, -⟩ := hdone lockedWait 0 1 waitingMove (by decide) (by decide) lockedWait_awake rfl
  have hexec := hstart lockedWait rfl wmStart_lockedWait
  rw [exec_walkerMigrationDone_locked] at hexec
  have hmoves := congrArg (fun o : Out => match o with | .next t => t.srv.moves | _ => []) hexec
  exact absurd hmoves (by decide)

end Sys2Proof.Machine

/-! BUILD (R296 to R311). -/

namespace Sys2Proof.Machine

/-! ### Fill counts -/

theorem cnt_inc (t : Tbl Nat) (k e : Nat) : cnt (inc t k) e = cnt t e + if k = e then 1 else 0 := by
  unfold inc cnt
  by_cases h : k = e
  · subst h
    rw [tget_tset_same, if_pos rfl]
  · rw [tget_tset_ne _ _ _ (Ne.symm h), if_neg h, Nat.add_zero]

/-- Choices assigned to an expert in a pass. -/
def inPass (asg : List Asg) (e : Nat) (p2 : Bool) : Nat := (asg.filter fun a => a.e == e && (a.pass2 == p2)).length

theorem inPass_append (asg : List Asg) (a : Asg) (e : Nat) (p2 : Bool) :
    inPass (asg ++ [a]) e p2 = inPass asg e p2 + if a.e = e ∧ a.pass2 = p2 then 1 else 0 := by
  unfold inPass
  rw [List.filter_append, List.length_append]
  by_cases h : a.e = e ∧ a.pass2 = p2
  · simp [h]
  · have hfalse : (a.e == e && a.pass2 == p2) = false := by simpa using h
    simp [h, hfalse]

/-- The counts tell the assignments of each pass, and stay within the capacity (R301, R302). -/
structure Counted (b : Build) (f : Fill) : Prop where
  low : ∀ e, cnt f.f1 e ≤ b.c ∧ cnt f.f2 e ≤ b.c
  first : ∀ e, inPass f.asg e false = cnt f.f1 e
  second : ∀ e, inPass f.asg e true = cnt f.f2 e

section Filling

variable {b : Build} {f : Fill}

/-- A choice joins an expert with room in the first pass. -/
theorem Counted.inFirst (h : Counted b f) {a : Asg} (hpass : a.pass2 = false) (hroom : cnt f.f1 a.e < b.c)
    (ovf : Tbl Nat) (ex tk : List (Nat × Nat)) : Counted b ⟨inc f.f1 a.e, f.f2, ovf, f.asg ++ [a], ex, tk⟩ where
  low e := by
    refine ⟨?_, (h.low e).2⟩
    rw [cnt_inc]
    split
    · next he => exact he ▸ hroom
    · exact (h.low e).1
  first e := by
    show inPass (f.asg ++ [a]) e false = cnt (inc f.f1 a.e) e
    rw [inPass_append, cnt_inc, h.first]
    simp [hpass]
  second e := by
    show inPass (f.asg ++ [a]) e true = cnt f.f2 e
    rw [inPass_append, h.second]
    simp [hpass]

/-- A choice joins an expert with room in the second pass. -/
theorem Counted.inSecond (h : Counted b f) {a : Asg} (hpass : a.pass2 = true) (hroom : cnt f.f2 a.e < b.c)
    (ovf : Tbl Nat) (ex tk : List (Nat × Nat)) : Counted b ⟨f.f1, inc f.f2 a.e, ovf, f.asg ++ [a], ex, tk⟩ where
  low e := by
    refine ⟨(h.low e).1, ?_⟩
    rw [cnt_inc]
    split
    · next he => exact he ▸ hroom
    · exact (h.low e).2
  first e := by
    show inPass (f.asg ++ [a]) e false = cnt f.f1 e
    rw [inPass_append, h.first]
    simp [hpass]
  second e := by
    show inPass (f.asg ++ [a]) e true = cnt (inc f.f2 a.e) e
    rw [inPass_append, cnt_inc, h.second]
    simp [hpass]

/-- Overflow counts and lists of ranks are none of it. -/
theorem Counted.rest (h : Counted b f) (ovf : Tbl Nat) (ex tk : List (Nat × Nat)) :
    Counted b ⟨f.f1, f.f2, ovf, f.asg, ex, tk⟩ := ⟨h.low, h.first, h.second⟩

theorem counted_firstPass (h : Counted b f) (t r e : Nat) : Counted b (firstPass b f t r e) := by
  unfold firstPass
  split
  · next hroom => exact h.inFirst (a := ⟨t, r, e, false, false⟩) rfl hroom _ _ _
  · exact h.rest _ _ _

theorem counted_nextTry (rk : List (Nat × Nat)) (t r n rank : Nat) (h : Counted b f) : Counted b (nextTry b rk t r n rank f) := by
  induction n generalizing rank f with
  | zero => exact h
  | succ n ih =>
    rw [nextTry]
    split
    · exact ih _ h
    · next e _ _ =>
      split
      · exact ih _ h
      · split
        · next hroom => exact h.inFirst (a := ⟨t, r, e, false, true⟩) rfl hroom _ _ _
        · exact ih _ (h.rest _ _ _)

theorem counted_overflowed (rk : List (Nat × Nat)) (t r : Nat) (h : Counted b f) : Counted b (overflowed b rk f t r) := by
  unfold overflowed
  split
  · exact counted_nextTry rk t r _ _ h
  · next e _ _ =>
    split
    · next hroom => exact h.inSecond (a := ⟨t, r, _, true, false⟩) rfl hroom _ _ _
    · exact h
  · exact h

theorem counted_foldl {α : Type} {g : Fill → α → Fill} (hg : ∀ f x, Counted b f → Counted b (g f x)) (l : List α)
    (h : Counted b f) : Counted b (l.foldl g f) :=
  List.foldlRecOn l g h fun f hf x _ => hg f x hf

theorem counted_assign (b : Build) (rows : List (List (Nat × Nat))) : Counted b (assign b rows) := by
  have hempty : Counted b ⟨[], [], [], [], [], []⟩ := ⟨fun _ => ⟨Nat.zero_le _, Nat.zero_le _⟩, fun _ => rfl, fun _ => rfl⟩
  refine counted_foldl (fun f x h => counted_overflowed _ _ _ h) _
    (counted_foldl (fun f r h => counted_foldl (fun f x h => ?_) _ h) _ hempty)
  split
  · exact counted_firstPass h _ _ _
  · exact h

end Filling

/-! ### The command -/

/-- The output region is in LOCAL writable pages of T2 and meets neither of the inputs (R307). -/
def regionGood (u : State) (p : Nat) (b : Build) : Bool :=
  decide (b.out + b.size ≤ 2 ^ 52) && (pagesOf b.out b.size).all (fun g =>
    let e := l3e u p g
    isLocal e && eTier e == 0 && eWr e) && !rangesMeet b.out b.size b.scores (b.stride * b.t) &&
    !rangesMeet b.out b.size b.expt (32 * b.e)

theorem regionGood_iff (u : State) (p : Nat) (b : Build) : regionGood u p b = true ↔ b.out + b.size ≤ 2 ^ 52 ∧
    (∀ g ∈ pagesOf b.out b.size, isLocal (l3e u p g) = true ∧ eTier (l3e u p g) = 0 ∧ eWr (l3e u p g) = true) ∧
    rangesMeet b.out b.size b.scores (b.stride * b.t) = false ∧ rangesMeet b.out b.size b.expt (32 * b.e) = false := by
  simp only [regionGood, Bool.and_eq_true, decide_eq_true_eq, List.all_eq_true, beq_iff_eq, Bool.not_eq_true', and_assoc]

/-- The fill of a build, and the experts it uses. -/
def fillOf (u : State) (p : Nat) (b : Build) : Fill :=
  assign b ((((List.range b.t).map (b.raw u p)).map fun l => l.map cleanScore).map ranksOf)
def usedOf (u : State) (p : Nat) (b : Build) : List Nat :=
  (List.range b.e).filter fun e => (fillOf u p b).asg.any fun a => a.e == e

/-- A build with its inputs read (R297 to R311). -/
def buildRead (u : State) (c : Cmd) (r i p : Nat) (b : Build) : State :=
  let raws := (List.range b.t).map (b.raw u p)
  let rows := raws.map fun l => l.map cleanScore
  let exps (e : Nat) := expertAt u p (b.expt + 32 * e)
  if (usedOf u p b).any fun e => !expertOk (exps e) then svcEnd (fresh u) c 0x82 0 0
  else
    match ((usedOf u p b).map fun e => probeExpert u p (exps e)).find? fun x => match x with | .res _ => false | _ => true with
    | some (.flt page kind sub) => setAside (holdFault u p page kind sub false (.service r i)) r i
    | some _ => u
    | none =>
      let res (e : Nat) : Bool := probeExpert u p (exps e) == .res true
      if !(regionGood u p b) then svcEnd (fresh u) c 0x80 0 0
      else
        let gs := groups b (fillOf u p b).asg res
        if gs.length > 4096 then svcEnd (fresh u) c 0x81 0 0
        else svcGate u c [] (b.written gs.length (sumNat (gs.map fun g => cdiv g.recs.length 16))) fun s =>
          buildCommit s c b raws rows (rows.map ranksOf) (fillOf u p b) exps res gs

theorem exec_build_read {s u : State} {r i : Nat} {c : Cmd} (h : Turn s r i 0x60 c)
    (g : Granted (takeCmd s c) (partOf r) (.service r i)
      [((buildOf c).scores, (buildOf c).stride * (buildOf c).t), ((buildOf c).expt, 32 * (buildOf c).e)] [] u) :
    exec (.build r i) s = .next (claimed c r i (buildRead u (going c) r i (partOf r) (buildOf c))) := by
  obtain ⟨rfl, rfl⟩ := h.ids
  show execBuild c.ring c.idx s = _
  rw [execBuild, onCmd_turn h]
  exact claimed_congr (svcGate_granted (c := going c) g _) c.ring c.idx c

section Read

variable {u w : State} {c : Cmd} {r i p : Nat} {b : Build}

theorem buildRead_expert (hbad : ∃ e ∈ usedOf u p b, expertOk (expertAt u p (b.expt + 32 * e)) = false) :
    buildRead u c r i p b = svcEnd (fresh u) c 0x82 0 0 := by
  obtain ⟨e, he, hbad⟩ := hbad
  exact if_pos (List.any_eq_true.2 ⟨e, he, by rw [hbad]; rfl⟩)

/-- With its experts good and none faulting, the region is judged next. -/
theorem buildRead_seen (hgood : ∀ e ∈ usedOf u p b, expertOk (expertAt u p (b.expt + 32 * e)) = true)
    (hseen : ∀ e ∈ usedOf u p b, ∃ ok, probeExpert u p (expertAt u p (b.expt + 32 * e)) = .res ok) :
    let raws := (List.range b.t).map (b.raw u p)
    let rows := raws.map fun l => l.map cleanScore
    let exps (e : Nat) := expertAt u p (b.expt + 32 * e)
    let res (e : Nat) : Bool := probeExpert u p (exps e) == .res true
    let gs := groups b (fillOf u p b).asg res
    buildRead u c r i p b =
      if !(regionGood u p b) then svcEnd (fresh u) c 0x80 0 0
      else if gs.length > 4096 then svcEnd (fresh u) c 0x81 0 0
      else svcGate u c [] (b.written gs.length (sumNat (gs.map fun g => cdiv g.recs.length 16))) fun s =>
        buildCommit s c b raws rows (rows.map ranksOf) (fillOf u p b) exps res gs := by
  have hany : ((usedOf u p b).any fun e => !expertOk (expertAt u p (b.expt + 32 * e))) = false :=
    List.any_eq_false.2 fun e he => by simp [hgood e he]
  have hnone : ((usedOf u p b).map fun e => probeExpert u p (expertAt u p (b.expt + 32 * e))).find?
      (fun x => match x with | .res _ => false | _ => true) = none := by
    refine List.find?_eq_none.2 fun x hx => ?_
    obtain ⟨e, he, rfl⟩ := List.mem_map.1 hx
    obtain ⟨ok, hok⟩ := hseen e he
    simp [hok]
  intro raws rows exps res gs
  rw [buildRead]
  dsimp only
  rw [hany, hnone]
  exact if_neg (by decide)

end Read

/-- Settles O40. -/
theorem groupBuild : Obligations.GroupBuild := by
  unfold Obligations.GroupBuild
  refine ⟨fun s r i c u => ?_, fun b rows e => (counted_assign b rows).low e, fun b rows e => ?_⟩
  · intro s1 d p b h g raws rows rks f used exps res gs region seen
    obtain ⟨rfl, rfl⟩ := h.ids
    have hread := exec_build_read h g
    have goodRegion (hregion : region) : ¬(!regionGood u p b) = true := by
      rw [(regionGood_iff u p b).2 hregion]
      decide
    refine ⟨fun hbad => hread.trans ?_, fun hgood hseen => ⟨fun hregion => hread.trans ?_, fun hregion hmany =>
      hread.trans ?_, fun w hregion hfew hgrant => hread.trans ?_⟩⟩
    · rw [buildRead_expert hbad]
    · rw [buildRead_seen hgood hseen]
      refine congrArg (fun t => (.next (claimed c c.ring c.idx t) : Out)) (if_pos ?_)
      rw [Bool.not_eq_true', ← Bool.not_eq_true, regionGood_iff]
      exact hregion
    · rw [buildRead_seen hgood hseen]
      exact congrArg (fun t => (.next (claimed c c.ring c.idx t) : Out)) ((if_neg (goodRegion hregion)).trans (if_pos hmany))
    · rw [buildRead_seen hgood hseen]
      exact congrArg (fun t => (.next (claimed c c.ring c.idx t) : Out)) ((if_neg (goodRegion hregion)).trans
        ((if_neg (Nat.not_lt.2 hfew)).trans (svcGate_granted (c := going c) hgrant _)))
  · have h := counted_assign b rows
    have hfirst := h.first e
    have hsecond := h.second e
    simp only [inPass, beq_false, beq_true] at hfirst hsecond
    exact ⟨hfirst, hsecond⟩

end Sys2Proof.Machine

/-! Collective groups, collectives and their flits (R334 to R345). -/

namespace Sys2Proof.Machine

/-! ### Ends of the collective engine's commands -/

section Ending

variable {s t : State} {r i op : Nat} {c d : Cmd}

theorem ends_collEnd (h : getCmd s c.ring c.idx = some d) (status sub : Nat) :
    Ends (collEnd s c status sub) c.ring c.idx status sub := by
  unfold collEnd
  dsimp only
  refine ends_svcEnd (d := d) ?_ status sub 0
  split_ifs <;> exact h

/-- A group command's end counts no collective (R348). -/
theorem collEnd_group (hop : c.op = 0x76 ∨ c.op = 0x77) {status sub : Nat} (htime : status ≠ 0x91) (habort : status ≠ 0x92)
    (s : State) : collEnd s c status sub = svcEnd s c status sub 0 := by
  have hno : ¬(0x70 ≤ c.op ∧ c.op ≤ 0x75) := by omega
  simp only [collEnd, if_neg hno, if_neg htime, if_neg habort]

/-- A collective's end counts one (R348). -/
theorem collEnd_collective (hop : 0x70 ≤ c.op ∧ c.op ≤ 0x75) {status sub : Nat} (htime : status ≠ 0x91) (habort : status ≠ 0x92)
    (s : State) : collEnd s c status sub = svcEnd (bump s Reg.COL_COLLS 0 1) c status sub 0 := by
  simp only [collEnd, if_pos hop, if_neg htime, if_neg habort]

theorem collEnd_skl (s : State) (c : Cmd) (status sub : Nat) : (collEnd s c status sub).skl = s.skl := by
  unfold collEnd
  dsimp only
  split_ifs <;> rfl

theorem collEnd_words (s : State) (c : Cmd) (status sub : Nat) : WordsOn
    (fun a => a ≠ Reg.COL_COLLS.addr 0 ∧ a ≠ Reg.COL_TIMEOUTS.addr 0 ∧ a ≠ Reg.COL_ABORTS.addr 0) s (collEnd s c status sub) :=
  .trans (.ite (.wr (fun h => h.1 rfl) _ _) (.refl _))
    (.trans (.ite (.wr (fun h => h.2.1 rfl) _ _) (.ite (.wr (fun h => h.2.2 rfl) _ _) (.refl _))) (.of_regs rfl))

end Ending

/-! ### GROUP_SET and GROUP_CLEAR -/

section Groups

variable {s w : State} {r i : Nat} {c : Cmd} {g : Nat}

/-- The group may be used by a partition's command (R335). -/
def GroupFree (s : State) (g p : Nat) : Prop :=
  rd s Reg.SKL0_DOM_CTRL_EN 0 ≠ 0 ∧ (rd s Reg.COL_GRP_STATE g = 0 ∨ rd s Reg.COL_GRP_PART g = p)

theorem groupBar_taken (s : State) (c : Cmd) : groupBar (takeCmd s c) (going c) = groupBar s c := by
  simp only [groupBar, rd_takeCmd]
  rfl

theorem groupBar_free (h : GroupFree s c.grp (partOf c.ring)) : groupBar s c = 0 := by
  rw [groupBar, if_neg h.1, if_neg]
  exact fun e => h.2.elim e.1 e.2

theorem groupBar_off (h : rd s Reg.SKL0_DOM_CTRL_EN 0 = 0) : groupBar s c = 0x97 := if_pos h

theorem groupBar_foreign (hon : rd s Reg.SKL0_DOM_CTRL_EN 0 ≠ 0) (hset : rd s Reg.COL_GRP_STATE c.grp ≠ 0)
    (hpart : rd s Reg.COL_GRP_PART c.grp ≠ partOf c.ring) : groupBar s c = 0x99 := by
  rw [groupBar, if_neg hon, if_pos ⟨hset, hpart⟩]

/-- Nothing of the groups but group `g`'s registers and record changed. -/
structure GroupOnly (g : Nat) (s t : State) : Prop where
  words : WordsOn (fun a => a ≠ Reg.COL_GRP_STATE.addr g ∧ a ≠ Reg.COL_GRP_NEXT_SEQ.addr g) s t
  groups : ∀ j, j ≠ g → cgroup t j = cgroup s j

theorem GroupOnly.rest {t : State} (h : GroupOnly g s t) : ∀ j < 16, j ≠ g → cgroup t j = cgroup s j ∧
    rd t Reg.COL_GRP_STATE j = rd s Reg.COL_GRP_STATE j ∧ rd t Reg.COL_GRP_NEXT_SEQ j = rd s Reg.COL_GRP_NEXT_SEQ j :=
  fun j _ hj => ⟨h.groups j hj,
    h.words.rd (by constructor <;> (simp only [Fld.addr, Reg.COL_GRP_STATE, Reg.COL_GRP_NEXT_SEQ]; omega)),
    h.words.rd (by constructor <;> (simp only [Fld.addr, Reg.COL_GRP_STATE, Reg.COL_GRP_NEXT_SEQ]; omega))⟩

/-- The group's registers as GROUP_SET writes them (R335). -/
def groupWords (s : State) (g n me p : Nat) : State :=
  wr (wr (wr (wr (wr s Reg.COL_GRP_STATE g 1) Reg.COL_GRP_NMEM g n) Reg.COL_GRP_RANK g me) Reg.COL_GRP_PART g p)
    Reg.COL_GRP_NEXT_SEQ g 0

theorem groupWords_words (s : State) (g n me p : Nat) :
    WordsOn (fun a => a ≠ Reg.COL_GRP_STATE.addr g ∧ a ≠ Reg.COL_GRP_NEXT_SEQ.addr g) s (groupWords s g n me p) :=
  .trans (.wr (fun h => h.1 rfl) _ _) (.trans (.wr (fun h => h.1 rfl) _ _) (.trans (.wr (fun h => h.1 rfl) _ _)
    (.trans (.wr (fun h => h.1 rfl) _ _) (.wr (fun h => h.2 rfl) _ _))))

theorem rd_groupWords (s : State) (g n me p : Nat) (hp : p < 8) :
    let t := groupWords s g n me p
    rd t Reg.COL_GRP_STATE g = 1 ∧ rd t Reg.COL_GRP_NMEM g = n % 2 ^ Reg.COL_GRP_NMEM.w ∧
    rd t Reg.COL_GRP_RANK g = me % 2 ^ Reg.COL_GRP_RANK.w ∧ rd t Reg.COL_GRP_PART g = p ∧ rd t Reg.COL_GRP_NEXT_SEQ g = 0 := by
  have hseq (f : Fld) (u : State) (hs : f.stride = Reg.COL_GRP_NEXT_SEQ.stride) (h0 : f.addr0 ≠ Reg.COL_GRP_NEXT_SEQ.addr0) :
      rd (wr u Reg.COL_GRP_NEXT_SEQ g 0) f g = rd u f g := rd_wr_stride u g 0 hs h0
  refine ⟨?_, ?_, ?_, ?_, rd_wr_self _ _ _ (by decide)⟩
  · rw [groupWords, hseq Reg.COL_GRP_STATE _ rfl (by decide), rd_wr_bits _ _ _ _ (by decide) (by decide), rd_wr_bits _ _ _ _ (by decide) (by decide),
      rd_wr_bits _ _ _ _ (by decide) (by decide), rd_wr_self _ _ _ (by decide)]
    rfl
  · rw [groupWords, hseq Reg.COL_GRP_NMEM _ rfl (by decide), rd_wr_bits _ _ _ _ (by decide) (by decide), rd_wr_bits _ _ _ _ (by decide) (by decide),
      rd_wr_self _ _ _ (by decide)]
  · rw [groupWords, hseq Reg.COL_GRP_RANK _ rfl (by decide), rd_wr_bits _ _ _ _ (by decide) (by decide), rd_wr_self _ _ _ (by decide)]
  · rw [groupWords, hseq Reg.COL_GRP_PART _ rfl (by decide), rd_wr_self _ _ _ (by decide)]
    exact Nat.mod_eq_of_lt hp

/-- The group as GROUP_SET leaves it, with the CREADYs that came early for it (R335). -/
def groupSetTo (s : State) (c : Cmd) (l : List Nat) : State :=
  setCgroup (groupWords s c.grp (c.fld 0x11 1) (c.fld 0x12 1) (partOf c.ring)) c.grp
    ⟨c.fld 0x14 4, l, (cgroup s c.grp).early.filter fun e => e.tag == c.fld 0x14 4 && e.nmem == c.fld 0x11 1, []⟩

theorem cgroup_groupWords (s : State) (g n me p j : Nat) : cgroup (groupWords s g n me p) j = cgroup s j := by
  simp only [cgroup, groupWords, wr_skl]

theorem groupSetTo_only (s : State) (c : Cmd) (l : List Nat) : GroupOnly c.grp s (groupSetTo s c l) where
  words := (groupWords_words s c.grp (c.fld 0x11 1) (c.fld 0x12 1) (partOf c.ring)).trans (.of_regs (setCgroup_regs _ _ _))
  groups j hj := by rw [groupSetTo, cgroup_setCgroup_ne _ _ hj, cgroup_groupWords]

/-- GROUP_SET with its members read (R335). -/
def groupSetRead (w : State) (c : Cmd) : State :=
  let l := memList w (partOf c.ring) c.csrc (c.fld 0x11 1)
  let s := fresh w
  let bad := l.any fun d => decide (d ≥ 64) || rd s Reg.SKL0_ROSTER_PRESENT d == 0 ||
    rd s Reg.SKL0_ROSTER_SLICE d != rd s Reg.SKL0_DEV_SLICE 0
  if bad || l.eraseDups.length != c.fld 0x11 1 || l.getD (c.fld 0x12 1) 64 != rd s Reg.SKL0_DEV_DEVNUM 0 then
    collEnd s c 0x96 0
  else collEnd (groupSetTo s c l) c 0 0

theorem exec_groupSet_good (h : Turn s r i 0x76 c) (hfree : GroupFree s c.grp (partOf r)) (hidle : rd s Reg.COL_GRP_STATE c.grp ≠ 2)
    (hgrant : Granted (takeCmd s c) (partOf r) (.service r i) [(c.csrc, c.fld 0x11 1)] [] w) :
    let l := memList w (partOf r) c.csrc (c.fld 0x11 1)
    (∀ x ∈ l, x < 64 ∧ rd s Reg.SKL0_ROSTER_PRESENT x ≠ 0 ∧ rd s Reg.SKL0_ROSTER_SLICE x = rd s Reg.SKL0_DEV_SLICE 0) →
    l.eraseDups.length = c.fld 0x11 1 → l.getD (c.fld 0x12 1) 64 = rd s Reg.SKL0_DEV_DEVNUM 0 →
    exec (.groupSet r i) s = .next (claimed c r i (collEnd (groupSetTo (fresh w) (going c) l) (going c) 0 0)) := by
  obtain ⟨rfl, rfl⟩ := h.ids
  intro l hmembers hdistinct hself
  have hregs (f : Fld) (j : Nat) : rd (fresh w) f j = rd s f j :=
    (rd_of_regs hgrant.onlyBuckets.regs f j).trans (rd_takeCmd s c f j)
  have hbar : ¬groupBar (takeCmd s c) (going c) ≠ 0 := by
    rw [groupBar_taken, groupBar_free hfree]
    decide
  have hstate : ¬rd (takeCmd s c) Reg.COL_GRP_STATE c.grp = 2 := by
    rw [rd_takeCmd]
    exact hidle
  have hgood : (l.any fun d => decide (d ≥ 64) || rd (fresh w) Reg.SKL0_ROSTER_PRESENT d == 0 ||
      rd (fresh w) Reg.SKL0_ROSTER_SLICE d != rd (fresh w) Reg.SKL0_DEV_SLICE 0) = false := by
    refine List.any_eq_false.2 fun d hd => ?_
    obtain ⟨hlow, hthere, hslice⟩ := hmembers d hd
    simp only [hregs, hslice]
    simp [hthere, hlow]
  have hread : groupSetRead w (going c) = collEnd (groupSetTo (fresh w) (going c) l) (going c) 0 0 := by
    refine if_neg ?_
    show ¬((l.any fun d => decide (d ≥ 64) || rd (fresh w) Reg.SKL0_ROSTER_PRESENT d == 0 ||
      rd (fresh w) Reg.SKL0_ROSTER_SLICE d != rd (fresh w) Reg.SKL0_DEV_SLICE 0) || l.eraseDups.length != c.fld 0x11 1 ||
      l.getD (c.fld 0x12 1) 64 != rd (fresh w) Reg.SKL0_DEV_DEVNUM 0) = true
    rw [hgood, hdistinct, hself, hregs, bne_self_eq_false, bne_self_eq_false]
    decide
  show execGroupSet c.ring c.idx s = _
  rw [execGroupSet, onCmd_turn h, ← hread]
  exact claimed_congr ((if_neg hbar).trans ((if_neg hstate).trans (svcGate_granted (c := going c) hgrant (groupSetRead · (going c)))))
    c.ring c.idx c

/-- The group as GROUP_CLEAR leaves it (R335). -/
def groupCleared (s : State) (g : Nat) : State :=
  setCgroup (ww (ww s (Reg.COL_GRP_STATE.addr g) 0) (Reg.COL_GRP_NEXT_SEQ.addr g) 0) g CGroup.idle

theorem groupCleared_only (s : State) (g : Nat) : GroupOnly g s (groupCleared s g) where
  words _ ha := (rw_ww_ne _ _ ha.2).trans (rw_ww_ne _ _ ha.1)
  groups _ hj := cgroup_setCgroup_ne _ _ hj

theorem rd_groupCleared (s : State) (g : Nat) : rd (groupCleared s g) Reg.COL_GRP_STATE g = 0 ∧
    rd (groupCleared s g) Reg.COL_GRP_NMEM g = 0 ∧ rd (groupCleared s g) Reg.COL_GRP_NEXT_SEQ g = 0 := by
  have hstate : rw (groupCleared s g) (Reg.COL_GRP_STATE.addr g) = 0 := by
    refine (rw_ww_ne _ _ ?_).trans (rw_ww_same _ _ _)
    simp only [Fld.addr, Reg.COL_GRP_STATE, Reg.COL_GRP_NEXT_SEQ]
    omega
  have hseq : rw (groupCleared s g) (Reg.COL_GRP_NEXT_SEQ.addr g) = 0 := rw_ww_same _ _ _
  refine ⟨?_, ?_, ?_⟩
  · rw [rd, hstate]
    rfl
  · rw [rd, show Reg.COL_GRP_NMEM.addr g = Reg.COL_GRP_STATE.addr g from rfl, hstate]
    rfl
  · rw [rd, hseq]
    rfl

theorem exec_groupClear_free (h : Turn s r i 0x77 c) (hfree : GroupFree s c.grp (partOf r))
    (hidle : rd s Reg.COL_GRP_STATE c.grp ≠ 2) : exec (.groupClear r i) s =
      .next (claimed c r i (collEnd (groupCleared (takeCmd s c) c.grp) (going c) 0 0)) := by
  obtain ⟨rfl, rfl⟩ := h.ids
  have hbar : ¬groupBar (takeCmd s c) (going c) ≠ 0 := by
    rw [groupBar_taken, groupBar_free hfree]
    decide
  have hstate : ¬rd (takeCmd s c) Reg.COL_GRP_STATE c.grp = 2 := by
    rw [rd_takeCmd]
    exact hidle
  show execGroupClear c.ring c.idx s = _
  rw [execGroupClear, onCmd_turn h]
  exact claimed_congr ((if_neg hbar).trans (if_neg hstate)) c.ring c.idx c

/-- GROUP_SET and GROUP_CLEAR, with their opcodes. -/
def groupOps (r i : Nat) : List (Nat × Instr) := [(0x76, .groupSet r i), (0x77, .groupClear r i)]

theorem exec_group_barred {x : Nat × Instr} (hx : x ∈ groupOps r i) (h : Turn s r i x.1 c) (hbar : groupBar s c ≠ 0) :
    exec x.2 s = .next (claimed c r i (collEnd (takeCmd s c) (going c) (groupBar s c) 0)) := by
  have htaken : groupBar (takeCmd s c) (going c) ≠ 0 := by rwa [groupBar_taken]
  rw [← groupBar_taken]
  rcases List.mem_cons.1 hx with rfl | hx
  · show execGroupSet r i s = _
    rw [execGroupSet, onCmd_turn h]
    exact claimed_congr (if_pos htaken) r i c
  · obtain rfl := List.mem_singleton.1 hx
    show execGroupClear r i s = _
    rw [execGroupClear, onCmd_turn h]
    exact claimed_congr (if_pos htaken) r i c

theorem exec_group_busy {x : Nat × Instr} (hx : x ∈ groupOps r i) (h : Turn s r i x.1 c)
    (hfree : GroupFree s c.grp (partOf r)) (hbusy : rd s Reg.COL_GRP_STATE c.grp = 2) :
    exec x.2 s = .next (claimed c r i (collEnd (takeCmd s c) (going c) 0x98 0)) := by
  obtain ⟨rfl, rfl⟩ := h.ids
  have hbar : ¬groupBar (takeCmd s c) (going c) ≠ 0 := by
    rw [groupBar_taken, groupBar_free hfree]
    decide
  have hstate : rd (takeCmd s c) Reg.COL_GRP_STATE c.grp = 2 := by
    rw [rd_takeCmd]
    exact hbusy
  rcases List.mem_cons.1 hx with rfl | hx
  · show execGroupSet c.ring c.idx s = _
    rw [execGroupSet, onCmd_turn h]
    exact claimed_congr ((if_neg hbar).trans (if_pos hstate)) c.ring c.idx c
  · obtain rfl := List.mem_singleton.1 hx
    show execGroupClear c.ring c.idx s = _
    rw [execGroupClear, onCmd_turn h]
    exact claimed_congr ((if_neg hbar).trans (if_pos hstate)) c.ring c.idx c

theorem groupOps_op {x : Nat × Instr} (hx : x ∈ groupOps r i) (h : Turn s r i x.1 c) : (going c).op = 0x76 ∨ (going c).op = 0x77 := by
  show c.op = 0x76 ∨ c.op = 0x77
  rw [h.opcode]
  rcases List.mem_cons.1 hx with rfl | hx
  · exact .inl rfl
  · obtain rfl := List.mem_singleton.1 hx
    exact .inr rfl

/-- A group command that ends at once changes no group and no register word. -/
theorem group_turned {x : Nat × Instr} (hx : x ∈ groupOps r i) (h : Turn s r i x.1 c) {code : Nat} (htime : code ≠ 0x91)
    (habort : code ≠ 0x92) : let t := claimed c r i (collEnd (takeCmd s c) (going c) code 0)
    Ends t r i code 0 ∧ t.skl.groups = s.skl.groups ∧ WordsKept s t [] := by
  rw [collEnd_group (groupOps_op hx h) htime habort]
  obtain ⟨hends, -, hwords⟩ := h.turned code 0 0
  refine ⟨hends, ?_, hwords⟩
  show (takeCmd s c).skl.groups = s.skl.groups
  rw [takeCmd_skl]

/-- The other groups' records and registers are as before. -/
def OtherGroups (s t : State) (g : Nat) : Prop := ∀ j < 16, j ≠ g → cgroup t j = cgroup s j ∧
  rd t Reg.COL_GRP_STATE j = rd s Reg.COL_GRP_STATE j ∧ rd t Reg.COL_GRP_NEXT_SEQ j = rd s Reg.COL_GRP_NEXT_SEQ j

section Ended

variable (u : State) (d : Cmd) (status sub result : Nat)

theorem rd_ended (f : Fld) (j : Nat) : rd (claimed c r i (svcEnd u d status sub result)) f j = rd u f j := rfl
theorem cgroup_ended (j : Nat) : cgroup (claimed c r i (svcEnd u d status sub result)) j = cgroup u j := rfl

end Ended

theorem OtherGroups.ended {u : State} (h : GroupOnly g s u) (d : Cmd) (status sub result : Nat) :
    OtherGroups s (claimed c r i (svcEnd u d status sub result)) g := fun j hj hne => by
  rw [cgroup_ended, rd_ended, rd_ended]
  exact h.rest j hj hne

theorem GroupOnly.after {u v : State} (h : GroupOnly g u v) (hwords : ∀ a, rw u a = rw s a) (hgroups : ∀ j, cgroup u j = cgroup s j) :
    GroupOnly g s v := ⟨fun a ha => (h.words a ha).trans (hwords a), fun j hj => (h.groups j hj).trans (hgroups j)⟩

theorem cgroup_takeCmd (s : State) (c : Cmd) (j : Nat) : cgroup (takeCmd s c) j = cgroup s j := by
  rw [cgroup, takeCmd_skl]
  rfl

theorem getCmd_setCgroup (s : State) (g : Nat) (x : CGroup) (r i : Nat) : getCmd (setCgroup s g x) r i = getCmd s r i := rfl

theorem getCmd_groupWords (s : State) (g n me p r i : Nat) : getCmd (groupWords s g n me p) r i = getCmd s r i :=
  getCmd_congr (by simp only [groupWords, wr_front]) r i

/-- A GROUP_SET of good members sets the group, and that group alone. -/
theorem groupSet_sets (h : Turn s r i 0x76 c) (hgrant : Granted (takeCmd s c) (partOf r) (.service r i)
      [(c.csrc, c.fld 0x11 1)] [] w) (l : List Nat) :
    let t := claimed c r i (collEnd (groupSetTo (fresh w) (going c) l) (going c) 0 0)
    rd t Reg.COL_GRP_STATE c.grp = 1 ∧ rd t Reg.COL_GRP_NMEM c.grp = c.fld 0x11 1 % 2 ^ Reg.COL_GRP_NMEM.w ∧
    rd t Reg.COL_GRP_RANK c.grp = c.fld 0x12 1 % 2 ^ Reg.COL_GRP_RANK.w ∧ rd t Reg.COL_GRP_PART c.grp = partOf r ∧
    rd t Reg.COL_GRP_NEXT_SEQ c.grp = 0 ∧ (cgroup t c.grp).members = l ∧ (cgroup t c.grp).tag = c.fld 0x14 4 ∧
    OtherGroups s t c.grp ∧ Ends t r i 0 0 := by
  obtain ⟨rfl, rfl⟩ := h.ids
  have hregs (a : Nat) : rw (fresh w) a = rw s a := by
    show rw w a = _
    rw [rw, hgrant.onlyBuckets.regs]
    exact rw_takeCmd s c a
  have hgroups (j : Nat) : cgroup (fresh w) j = cgroup s j := by
    show cgroup w j = _
    rw [cgroup, hgrant.onlyBuckets.skl]
    exact cgroup_takeCmd s c j
  have hget : getCmd (fresh w) c.ring c.idx = getCmd (takeCmd s c) c.ring c.idx := getCmd_congr hgrant.onlyBuckets.inflight _ _
  have hp : partOf c.ring < 8 := by
    have hring : c.ring < 64 := of_decide_eq_true h.ring
    rw [partOf]
    omega
  have hother := OtherGroups.ended (c := c) (r := c.ring) (i := c.idx)
    ((groupSetTo_only (fresh w) (going c) l).after hregs hgroups) (going c) 0 0 0
  generalize fresh w = u at hget hother
  obtain ⟨hstate, hnmem, hrank, hpart, hseq⟩ := rd_groupWords u c.grp (c.fld 0x11 1) (c.fld 0x12 1) (partOf c.ring) hp
  rw [collEnd_group (c := going c) (.inl h.opcode) (by decide) (by decide)]
  refine ⟨hstate, hnmem, hrank, hpart, hseq, ?_, ?_, hother, ends_svcEnd (d := if c.taken then c else going c) ?_ 0 0 0⟩
  · rw [cgroup_ended]
    exact congrArg CGroup.members (cgroup_setCgroup _ _ _)
  · rw [cgroup_ended]
    exact congrArg CGroup.tag (cgroup_setCgroup _ _ _)
  · rw [groupSetTo, getCmd_setCgroup, getCmd_groupWords]
    exact hget.trans h.getTaken

/-- A GROUP_CLEAR empties the group, and that group alone. -/
theorem groupClear_clears (h : Turn s r i 0x77 c) :
    let t := claimed c r i (collEnd (groupCleared (takeCmd s c) c.grp) (going c) 0 0)
    rd t Reg.COL_GRP_STATE c.grp = 0 ∧ rd t Reg.COL_GRP_NMEM c.grp = 0 ∧ rd t Reg.COL_GRP_NEXT_SEQ c.grp = 0 ∧
    cgroup t c.grp = CGroup.idle ∧ OtherGroups s t c.grp ∧ Ends t r i 0 0 := by
  obtain ⟨rfl, rfl⟩ := h.ids
  have hother := OtherGroups.ended (c := c) (r := c.ring) (i := c.idx)
    ((groupCleared_only (takeCmd s c) c.grp).after (rw_takeCmd s c) (cgroup_takeCmd s c)) (going c) 0 0 0
  have hget := h.getTaken
  generalize takeCmd s c = u at hget hother
  obtain ⟨hstate, hnmem, hseq⟩ := rd_groupCleared u c.grp
  rw [collEnd_group (c := going c) (.inr h.opcode) (by decide) (by decide)]
  refine ⟨hstate, hnmem, hseq, ?_, hother, ends_svcEnd (c := going c) hget 0 0 0⟩
  rw [cgroup_ended]
  exact cgroup_setCgroup _ _ _

end Groups

/-! ### The six collectives -/

section Collecting

variable {s u w : State} {r i op : Nat} {c : Cmd}

theorem rangesOk_congr {s t : State} (h : ∀ p g, l3e t p g = l3e s p g) (c : Cmd) (a b d : List (Nat × Nat)) :
    rangesOk t c a b d = rangesOk s c a b d := by
  simp only [rangesOk, h]

/-- The command has a collective running (R340). -/
def Running (s : State) (r i : Nat) : Prop := ∃ x ∈ s.skl.colls, x.ring = r ∧ x.idx = i

theorem running_iff (s : State) (c : Cmd) (r i : Nat) :
    ((takeCmd s c).skl.colls.any fun x => x.ring == r && x.idx == i) = true ↔ Running s r i := by
  rw [takeCmd_skl, List.any_eq_true]
  simp only [Bool.and_eq_true, beq_iff_eq, Running]

theorem collCmd_running (h : Turn s r i op c) (hrun : Running s r i) :
    collCmd op r i s = .next (claimed c r i (collStep (takeCmd s c) c.grp)) := by
  obtain ⟨rfl, rfl⟩ := h.ids
  rw [collCmd, onCmd_turn h]
  exact claimed_congr (if_pos ((running_iff s c _ _).2 hrun)) c.ring c.idx c

/-- A collective that is not running yet, on a group it may use, is judged by the group's state (R340, R343). -/
theorem collCmd_unset (h : Turn s r i op c) (hrun : ¬Running s r i) (hfree : GroupFree s c.grp (partOf r))
    (hstate : rd s Reg.COL_GRP_STATE c.grp = 0 ∨ rd s Reg.COL_GRP_STATE c.grp = 3) :
    collCmd op r i s = .next (claimed c r i (collEnd (takeCmd s c) (going c) 0x93 0)) := by
  obtain ⟨rfl, rfl⟩ := h.ids
  have hbar : ¬groupBar (takeCmd s c) (going c) ≠ 0 := by
    rw [groupBar_taken, groupBar_free hfree]
    decide
  rw [collCmd, onCmd_turn h]
  refine claimed_congr ((if_neg (mt (running_iff s c _ _).1 hrun)).trans ((if_neg hbar).trans (if_pos ?_))) c.ring c.idx c
  rw [rd_takeCmd]
  exact hstate

section Set

variable (h : Turn s r i op c) (hrun : ¬Running s r i) (hfree : GroupFree s c.grp (partOf r))
  (hset : rd s Reg.COL_GRP_STATE c.grp = 1)
include h hrun hfree hset

theorem collCmd_sequence (hseq : c.cseq ≠ rd s Reg.COL_GRP_NEXT_SEQ c.grp) :
    collCmd op r i s = .next (claimed c r i (collEnd (takeCmd s c) (going c) 0x94 0)) := by
  obtain ⟨rfl, rfl⟩ := h.ids
  have hbar : ¬groupBar (takeCmd s c) (going c) ≠ 0 := by
    rw [groupBar_taken, groupBar_free hfree]
    decide
  have hstate : rd (takeCmd s c) Reg.COL_GRP_STATE c.grp = 1 := (rd_takeCmd s c _ _).trans hset
  rw [collCmd, onCmd_turn h]
  refine claimed_congr ((if_neg (mt (running_iff s c _ _).1 hrun)).trans ((if_neg hbar).trans ((if_neg ?_).trans
    ((if_neg ?_).trans (if_pos ?_))))) c.ring c.idx c
  · rw [show rd (takeCmd s c) Reg.COL_GRP_STATE (going c).grp = 1 from hstate]
    decide
  · rw [show rd (takeCmd s c) Reg.COL_GRP_STATE (going c).grp = 1 from hstate]
    decide
  · rw [rd_takeCmd]
    exact hseq

theorem collCmd_ready (hseq : c.cseq = rd s Reg.COL_GRP_NEXT_SEQ c.grp) (hlive : c.cseq ∉ (cgroup s c.grp).aborted) :
    let aux := if op = 0x73 then [(c.caux, 16 * gMem s c.grp)] else []
    rangesOk (takeCmd s c) (going c) [] [] aux = true → Peeked (takeCmd s c) r i aux u →
    let tab := if op = 0x73 then a2aTable u (going c) else []
    let x := collRanges u (going c) tab
    rangesOk u (going c) x.1 x.2.1 x.2.2 = true →
    Granted u (partOf r) (.service r i) (x.1 ++ aux) (x.2.1 ++ x.2.2) w →
    collCmd op r i s = .next (claimed c r i (collReady w (going c) tab (x.1 ++ x.2.1 ++ x.2.2))) := by
  obtain ⟨rfl, rfl⟩ := h.ids
  intro aux haux hpeek tab x hranges hgrant
  have hbar : ¬groupBar (takeCmd s c) (going c) ≠ 0 := by
    rw [groupBar_taken, groupBar_free hfree]
    decide
  have hstate : rd (takeCmd s c) Reg.COL_GRP_STATE c.grp = 1 := (rd_takeCmd s c _ _).trans hset
  have hmem : gMem (takeCmd s c) c.grp = gMem s c.grp := rd_takeCmd s c _ _
  rw [collCmd, onCmd_turn h]
  refine claimed_congr ((if_neg (mt (running_iff s c _ _).1 hrun)).trans ((if_neg hbar).trans ((if_neg ?_).trans
    ((if_neg ?_).trans ((if_neg ?_).trans ((if_neg ?_).trans ?_)))))) c.ring c.idx c
  · rw [show rd (takeCmd s c) Reg.COL_GRP_STATE (going c).grp = 1 from hstate]
    decide
  · rw [show rd (takeCmd s c) Reg.COL_GRP_STATE (going c).grp = 1 from hstate]
    decide
  · rw [rd_takeCmd]
    exact not_not_intro hseq
  · rw [List.contains_iff_mem, cgroup, takeCmd_skl]
    exact hlive
  · dsimp only
    rw [show gMem (takeCmd s c) (going c).grp = gMem s c.grp from hmem]
    have hok : ¬(!rangesOk (takeCmd s c) (going c) [] [] aux) = true := by
      rw [haux]
      decide
    have hall : ¬(!rangesOk u (going c) x.1 x.2.1 x.2.2) = true := by
      rw [hranges]
      decide
    exact (if_neg hok).trans ((svcPeek_peeked (c := going c) hpeek _).trans ((if_neg hall).trans
      (svcGate_granted (c := going c) hgrant _)))

end Set

/-- The six collectives, with their opcodes (R336). -/
def collOps (r i : Nat) : List (Nat × Instr) := [(0x70, .allreduce r i), (0x71, .allgather r i), (0x72, .reducescatter r i),
  (0x73, .alltoall r i), (0x74, .barrier r i), (0x75, .rowstat r i)]

theorem collOps_exec {x : Nat × Instr} (hx : x ∈ collOps r i) (s : State) : exec x.2 s = collCmd x.1 r i s := by
  simp only [collOps, List.mem_cons, List.not_mem_nil, or_false] at hx
  obtain rfl | rfl | rfl | rfl | rfl | rfl := hx <;> rfl

theorem collOps_op {x : Nat × Instr} (hx : x ∈ collOps r i) (h : Turn s r i x.1 c) :
    0x70 ≤ (going c).op ∧ (going c).op ≤ 0x75 := by
  show 0x70 ≤ c.op ∧ c.op ≤ 0x75
  rw [h.opcode]
  simp only [collOps, List.mem_cons, List.not_mem_nil, or_false] at hx
  obtain rfl | rfl | rfl | rfl | rfl | rfl := hx <;> exact ⟨Nat.le_of_ble_eq_true rfl, Nat.le_of_ble_eq_true rfl⟩

/-- A collective that ends at once is counted; no other register word changes. -/
theorem coll_turned {x : Nat × Instr} (hx : x ∈ collOps r i) (h : Turn s r i x.1 c) {code : Nat} (htime : code ≠ 0x91)
    (habort : code ≠ 0x92) : let t := claimed c r i (collEnd (takeCmd s c) (going c) code 0)
    Ends t r i code 0 ∧ rd t Reg.COL_COLLS 0 = min (rd s Reg.COL_COLLS 0 + 1) (2 ^ 32 - 1) ∧
    WordsKept s t [Reg.COL_COLLS.addr 0] := by
  obtain ⟨rfl, rfl⟩ := h.ids
  rw [collEnd_collective (collOps_op hx h) htime habort]
  refine ⟨ends_svcEnd (c := going c) h.getTaken code 0 0, ?_, fun a ha => ?_⟩
  · show rd (bump (takeCmd s c) Reg.COL_COLLS 0 1) Reg.COL_COLLS 0 = _
    rw [rd_bump_same _ _ _ _ (fits_of_le (by decide)), rd_takeCmd]
    rfl
  · exact (rw_bump_ne _ _ _ _ (List.ne_of_not_mem_cons ha)).trans (rw_takeCmd s c a)

end Collecting

/-! ### Flits and the time-out -/

section Flits

variable {s t : State} {n : Nat} {h : FlitHdr}

theorem getColl_setUsed (s : State) (d v g : Nat) : getColl (setUsed s d v) g = getColl s g := rfl

theorem getColl_dropColl (s : State) (g : Nat) : getColl (dropColl s g) g = none := by
  refine List.find?_eq_none.2 fun x hx hsame => ?_
  have hne := (List.mem_filter.1 hx).2
  rw [bne, hsame] at hne
  cases hne

theorem getColl_grp {g : Nat} {x : Coll} (hx : getColl s g = some x) : x.grp = g := beq_iff_eq.1 (List.find?_some (p := fun y : Coll => y.grp == g) hx)

theorem collEnd_state (s : State) (c : Cmd) (status sub g : Nat) :
    rd (collEnd s c status sub) Reg.COL_GRP_STATE g = rd s Reg.COL_GRP_STATE g :=
  (collEnd_words s c status sub).rd (by
    simp only [Fld.addr, Reg.COL_GRP_STATE, Reg.COL_COLLS, Reg.COL_TIMEOUTS, Reg.COL_ABORTS]
    omega)

/-- A collective that fails with no other member to tell leaves its group BROKEN with none running (R343). -/
theorem collFail_alone {x : Coll} (halone : others s x.grp = []) (status sub : Nat) (abort : Bool) :
    rd (collFail s x status sub abort) Reg.COL_GRP_STATE x.grp = 3 ∧ getColl (collFail s x status sub abort) x.grp = none := by
  have hbroken : rd (wr (dropColl s x.grp) Reg.COL_GRP_STATE x.grp 3) Reg.COL_GRP_STATE x.grp = 3 :=
    rd_wr_self _ _ _ (by decide)
  have hnone : getColl (wr (dropColl s x.grp) Reg.COL_GRP_STATE x.grp 3) x.grp = none := getColl_dropColl s x.grp
  unfold collFail
  rw [halone]
  dsimp only [eachOf, List.foldl_nil]
  split
  · next c _ =>
    refine ⟨(collEnd_state _ c status sub x.grp).trans hbroken, ?_⟩
    rw [getColl, collEnd_skl]
    exact hnone
  · exact ⟨hbroken, hnone⟩

end Flits

/-- Settles O41: each command and flit goes the way its group and its collective call for. -/
theorem collectives : Obligations.Collectives := by
  unfold Obligations.Collectives
  refine ⟨fun s r i c => ?_, fun s r i c => ?_, ?_, ?_, ?_⟩
  · intro s1 p g n me free rest
    refine ⟨fun w h hfree hidle hgrant => ?_, fun h hfree hidle => ?_, fun x hx h => ⟨fun hoff => ?_,
      fun hon hset hpart => ?_, fun hfree hbusy => ?_⟩⟩
    · intro l hmembers hdistinct hself
      exact ⟨_, exec_groupSet_good h hfree hidle hgrant hmembers hdistinct hself, groupSet_sets h hgrant l⟩
    · exact ⟨_, exec_groupClear_free h hfree hidle, groupClear_clears h⟩
    · have hexec := exec_group_barred hx h (c := c) (by rw [groupBar_off hoff]; decide)
      rw [groupBar_off hoff] at hexec
      exact ⟨_, hexec, group_turned hx h (by decide) (by decide)⟩
    · obtain ⟨rfl, rfl⟩ := h.ids
      have hexec := exec_group_barred hx h (c := c) (by rw [groupBar_foreign hon hset hpart]; decide)
      rw [groupBar_foreign hon hset hpart] at hexec
      exact ⟨_, hexec, group_turned hx h (by decide) (by decide)⟩
    · exact ⟨_, exec_group_busy hx h hfree hbusy, group_turned hx h (by decide) (by decide)⟩
  · intro s1 d p g free mine op hop h
    rw [Answers, Answers, collOps_exec hop]
    refine ⟨fun hrun => collCmd_running h hrun, fun hrun hfree hstate => ⟨_, collCmd_unset h hrun hfree hstate,
      coll_turned hop h (by decide) (by decide)⟩, fun hrun hfree hset hseq => ⟨_, collCmd_sequence h hrun hfree hset hseq, ?_⟩,
      fun u w hrun hfree hset hseq hlive => collCmd_ready h hrun hfree hset hseq hlive⟩
    obtain ⟨hends, -, hwords⟩ := coll_turned hop h (code := 0x94) (by decide) (by decide)
    exact ⟨hends, hwords⟩
  · intro s t n h grp seq tag nmem rcap hrecv g e keep
    refine ⟨fun x hx hseq => ?_, fun x hx hseq => ?_, fun hx hgood => ?_, fun hx hset hbad => ?_, fun hfrom => ?_⟩
    · show execCready n h grp seq tag nmem rcap s = _
      rw [execCready, onFlit_received hrecv]
      dsimp only
      rw [show getColl t (grp % 16) = some x from hx]
      exact congrArg Host.Outcome.next (if_pos hseq)
    · show execCready n h grp seq tag nmem rcap s = _
      rw [execCready, onFlit_received hrecv]
      dsimp only
      rw [show getColl t (grp % 16) = some x from hx]
      exact congrArg Host.Outcome.next (if_neg hseq)
    · show execCready n h grp seq tag nmem rcap s = _
      rw [execCready, onFlit_received hrecv]
      dsimp only
      rw [show getColl t (grp % 16) = none from hx]
      refine congrArg Host.Outcome.next (if_neg fun hbad => ?_)
      obtain ⟨hset, hdiff⟩ := hbad
      exact hgood.elim (fun hno => hno hset) fun hsame => hdiff.elim (fun d => d hsame.1) fun d => d hsame.2
    · show execCready n h grp seq tag nmem rcap s = _
      rw [execCready, onFlit_received hrecv]
      dsimp only
      rw [show getColl t (grp % 16) = none from hx]
      exact congrArg Host.Outcome.next (if_pos ⟨hset, hbad⟩)
    · show execCabort n h grp seq s = _
      rw [execCabort, onFlit_received hrecv]
      refine congrArg Host.Outcome.next (if_pos ?_)
      rw [Bool.or_eq_true, List.contains_iff_mem, List.isEmpty_iff]
      exact hfrom
  · intro s t n h data x c j hrecv g off hx hcmd hj hseq hme
    refine ⟨fun hop => ?_, fun hfin => ?_⟩
    · intro u u1 y hy m y1 fin
      show execCdata n h data s = _
      rw [execCdata, onFlit_received hrecv]
      dsimp only
      rw [show getColl t (h.info % 16) = some x from hx]
      dsimp only
      rw [hcmd, show List.findIdx? _ _ = some j from hj]
      dsimp only
      rw [if_neg (by rintro (e | e | e); exacts [e hseq, hme e, hop e])]
      rw [show getColl (fresh (wr (placeFlit t c x j (bits h.info 20 24) (data.map (· % 256))) Reg.COL_STAGE_HWM 0 _)) (h.info % 16) =
        some y from hy]
      simp only [List.isEmpty_iff, Bool.or_eq_true, Bool.and_eq_true, Bool.not_eq_true', List.isEmpty_eq_false_iff, beq_iff_eq,
        fin, y1, m, u1, u, g, off]
    · intro back y
      show execCcredit n h s = _
      rw [execCcredit, onFlit_received hrecv]
      dsimp only
      rw [show getColl t (h.info % 16) = some x from hx]
      dsimp only
      rw [show List.findIdx? _ _ = some j from hj]
      dsimp only
      refine congrArg Host.Outcome.next (if_neg ?_)
      rw [List.contains_iff_mem]
      rintro (e | e | e)
      exacts [e hseq, hme e, hfin e]
  · intro s g x hg hawake hx
    obtain rfl := getColl_grp hx
    have hexec : exec (.collectiveTimeout x.grp) s = .next (collFail s x 0x91 0 true) := by
      show execCollectiveTimeout x.grp s = _
      rw [execCollectiveTimeout, onUnit_live (decide_eq_true hg) hawake, hx]
    exact ⟨hexec, fun halone => ⟨_, hexec, collFail_alone halone 0x91 0 true⟩⟩

end Sys2Proof.Machine

/-! Skein requests at the exporter and the requester (R329 to R333). -/

namespace Sys2Proof.Machine

section Requests

variable {s t : State} {n req : Nat} {h : FlitHdr}

/-! ### The exporter -/

theorem exportFinds_serves {src page k : Nat} {write : Bool} (hentry : exportEntry s src page write = some k)
    (hlocal : isLocal (l3e s (exportAddr s k page).1 (pageOf (exportAddr s k page).2)) = true)
    (hgood : ∀ kind sub, translate s (exportAddr s k page).1 (exportAddr s k page).2 write ≠ .flt kind sub) :
    exportFinds s src page write .clean = (s, .inl (exportAddr s k page)) := by
  unfold exportFinds
  rw [hentry]
  dsimp only
  rw [hlocal, if_neg (by decide)]
  split
  · next kind sub hflt => exact absurd hflt (hgood kind sub)
  · rfl

theorem exportFinds_none {src page : Nat} {write : Bool} (hentry : exportEntry s src page write = none) (det : Detect) :
    exportFinds s src page write det = (s, .inr 0x33) := by
  unfold exportFinds
  rw [hentry]
  rfl

theorem exec_flitWr_finds (r : Received s n 0 h t) (data : List Nat) (det : Detect) {u : State} {p da : Nat}
    (hfinds : exportFinds t (h.src % 64) (h.info % 2 ^ 36) true det = (u, .inl (p, da))) :
    exec (.flitWr n h req data det) s = .next
      (let w := bump2 (eachOf (setBits h.mask 4) u fun u l =>
        let a := da + 256 * bits h.info 36 8 + 64 * l
        memWrite (abortOnWrite (takeLines u p a 64) p a 64) p a 64 (leNum ((data.drop (64 * l)).take 64)))
        Reg.CMD_PART_LED_PB_LO Reg.CMD_PART_LED_PB_HI p (64 * (setBits h.mask 4).length)
      route w (mkFlit w 2 h.src h.part 0 0 true [req, 0] [])) := by
  show execFlitWr n h req data det s = _
  rw [execFlitWr, onFlit_received r]
  dsimp only
  rw [hfinds]

theorem exec_flitWr_refused (r : Received s n 0 h t) (data : List Nat) (det : Detect) {o : Nat}
    (hfinds : exportFinds t (h.src % 64) (h.info % 2 ^ 36) true det = (t, .inr o)) :
    exec (.flitWr n h req data det) s = .next (route t (mkFlit t 2 h.src h.part 0 0 true [req, o] [])) := by
  show execFlitWr n h req data det s = _
  rw [execFlitWr, onFlit_received r]
  dsimp only
  rw [hfinds]

theorem exec_rdreq_finds (r : Received s n 0 h t) (det : Detect) {u : State} {p da : Nat}
    (hfinds : exportFinds t (h.src % 64) (h.info % 2 ^ 36) false det = (u, .inl (p, da))) :
    exec (.rdreq n h req det) s = .next
      (let w := bump2 u Reg.CMD_PART_LED_PB_LO Reg.CMD_PART_LED_PB_HI p 256
      route w (mkFlit w 4 h.src h.part 0 0 true [req, 0] (memList u p (da + 256 * bits h.info 36 8) 256))) := by
  show execRdreq n h req det s = _
  rw [execRdreq, onFlit_received r]
  dsimp only
  rw [hfinds]

theorem exec_rdreq_refused (r : Received s n 0 h t) (det : Detect) {o : Nat}
    (hfinds : exportFinds t (h.src % 64) (h.info % 2 ^ 36) false det = (t, .inr o)) :
    exec (.rdreq n h req det) s = .next (route t (mkFlit t 4 h.src h.part 0 0 true [req, o] [])) := by
  show execRdreq n h req det s = _
  rw [execRdreq, onFlit_received r]
  dsimp only
  rw [hfinds]

/-! ### The requester -/

theorem exec_wrack_found (r : Received s n 1 h t) {q : WReq} (o : Nat)
    (hq : t.skl.reqs.find? (fun q => q.id == req && q.write && q.dev == h.src && q.st == .asked) = some q) :
    exec (.wrack n h req o) s = .next (flushRegs (if o = 0 then
        let gone : State := { t with skl := { t.skl with reqs := t.skl.reqs.filter fun z => z.id != req } }
        match q.owner with
        | some (.recWrite a b) => recordAcked gone a b
        | _ => gone
      else winFault t q (o / 16 % 8) (o % 16))) := by
  show execWrack n h req o s = _
  rw [execWrack, onFlit_received r, hq] <;> rfl

theorem exec_rddata_found (r : Received s n 1 h t) {q : WReq} (o : Nat) (data : List Nat)
    (hq : t.skl.reqs.find? (fun q => q.id == req && !q.write && q.dev == h.src && q.st == .asked) = some q) :
    exec (.rddata n h req o data) s = .next (if o = 0 then
        { t with skl := { t.skl with reqs := t.skl.reqs.map fun z =>
          if z.id = req then { z with st := .here, data := data.map (· % 256) } else z } }
      else winFault t q (o / 16 % 8) (o % 16)) := by
  show execRddata n h req o data s = _
  rw [execRddata, onFlit_received r, hq]

theorem exec_regrsp_found (r : Received s n 1 h t) {q : RegReq} (v : Nat)
    (hq : t.skl.regs.find? (fun q => q.id == req && !q.isWr && q.sent && q.dev == h.src % 64) = some q) :
    exec (.regrsp n h req v) s = .next { t with
      skl := { t.skl with regs := t.skl.regs.filter fun z => z != q }, rdata := v % 2 ^ (8 * q.size) } := by
  show execRegrsp n h req v s = _
  rw [execRegrsp, onFlit_received r, hq]

/-! ### Interrupts and register accesses -/

theorem exec_intr_low (r : Received s n 1 h t) (page : Nat) (hlead : rd t Reg.SKL0_DOM_CTRL_LEAD 0 = 1) (hlow : h.src % 64 < 32) :
    exec (.intr n h page) s = .next (raiseInt (setBit t Reg.SKL0_RINT_LO 0 (h.src % 64)) 0x50 0) := by
  have hnot : ¬rd t Reg.SKL0_DOM_CTRL_LEAD 0 = 0 := by
    rw [hlead]
    decide
  show execIntr n h page s = _
  rw [execIntr, onFlit_received r]
  dsimp only
  rw [if_neg hnot, if_pos hlow]

/-- The interrupt goes out without a change of the word that names its device. -/
theorem rdBit_rint (u : State) {d : Nat} (hd : d < 32) :
    rdBit (raiseInt (setBit u Reg.SKL0_RINT_LO 0 d) 0x50 0) Reg.SKL0_RINT_LO 0 d = true := by
  have hword : NoIntWord 0x50 0 (Reg.SKL0_RINT_LO.addr 0) :=
    ⟨by decide, by decide, fun n => by
      simp only [Fld.addr, Reg.SKL0_RINT_LO, Reg.SKL_TX_FLITS]
      omega⟩
  rw [rdBit, rd_raiseInt hword]
  exact rdBit_setBit_same u _ 0 d (fits_of_le (by decide)) hd

theorem exec_reg_of (r : Received s n 0 h t) (isWr : Bool) (size v : Nat) : exec (.reg n h req isWr size v) s = .next
    (if rd t Reg.SKL0_DOM_LEAD_VALID 0 = 1 ∧ rd t Reg.SKL0_DOM_LEAD_DEV 0 = h.src % 64 then
      if isWr then regWrite .lead (h.info % 2 ^ 26) size v fxOf t
      else regAnswer (regRead t .lead (h.info % 2 ^ 26) size).2 (h.src % 64) req (regRead t .lead (h.info % 2 ^ 26) size).1
    else if isWr then bump t Reg.SKL_REG_DROP n 1
    else regAnswer (bump t Reg.SKL_REG_DROP n 1) (h.src % 64) req 0xFFFFFFFF) := by
  show execReg n h req isWr size v s = _
  rw [execReg, onFlit_received r]

end Requests

/-- Settles O42. -/
theorem skeinRequests : Obligations.SkeinRequests := by
  unfold Obligations.SkeinRequests
  refine ⟨fun s t n h req data det r => ?_, fun s t n h req o data r => ?_, fun s t n h req size v r => ?_⟩
  · intro g src page ans charge
    refine ⟨fun k hk => ?_, fun hk => exec_flitWr_refused r data det (exportFinds_none hk det), fun k hk => ?_,
      fun hk => exec_rdreq_refused r det (exportFinds_none hk det)⟩
    · intro x hlocal hgood
      exact exec_flitWr_finds r data .clean (exportFinds_serves hk hlocal hgood)
    · intro x hlocal hgood
      exact exec_rdreq_finds r .clean (exportFinds_serves hk hlocal hgood)
  · refine ⟨fun q hq => ?_, fun q hq => ⟨fun ho => ?_, fun ho => ?_⟩, fun q v hq => exec_regrsp_found r v hq,
      fun page hlead hlow => ⟨_, exec_intr_low r page hlead hlow, rdBit_rint t hlow, rfl⟩⟩
    · intro gone
      refine ⟨fun ho hown => ?_, fun a b ho hown => ?_, fun ho => ?_⟩
      · rw [exec_wrack_found r o hq, if_pos ho]
        dsimp only
        split
        · next a b howned => exact absurd howned (hown a b)
        · rfl
      · rw [exec_wrack_found r o hq, if_pos ho, hown]
      · rw [exec_wrack_found r o hq, if_neg ho]
    · rw [exec_rddata_found r o data hq, if_pos ho]
    · rw [exec_rddata_found r o data hq, if_neg ho]
  · intro d a lead
    refine ⟨fun hlead => ?_, fun hlead => ?_, fun hlead => ?_⟩
    · exact (exec_reg_of r true size v).trans (congrArg Host.Outcome.next ((if_pos hlead).trans (if_pos rfl)))
    · exact (exec_reg_of r false size v).trans (congrArg Host.Outcome.next ((if_pos hlead).trans (if_neg Bool.false_ne_true)))
    · exact (exec_reg_of r true size v).trans (congrArg Host.Outcome.next ((if_neg hlead).trans (if_pos rfl)))

end Sys2Proof.Machine

/-! Skein ports: replay, training, loss (R317 to R326, R345, R346). -/

namespace Sys2Proof.Machine

/-! ### Acknowledgement and replay -/

theorem sklOk_of_lt {n : Nat} (hn : n < 32) : sklOk n = true := decide_eq_true hn

section Replay

variable {s : State} {n : Nat} {h : FlitHdr}

theorem exec_ackTimer_up (hn : n < 32) (hawake : awake s = true) (hup : rd s Reg.SKL_LINK_STAT_STATE n = 2) :
    exec (.ackTimer n) s =
      .next (sendMgmt (setPort s n { port s n with since := 0 }) n 0 (((port s n).rxSeq + 1023) % 1024)) := by
  show execAckTimer n s = _
  rw [execAckTimer, onUnit_live (sklOk_of_lt hn) hawake]
  exact congrArg Host.Outcome.next (if_neg (not_not_intro hup))

theorem onMgmt_untrained (hn : n < 32) (hawake : awake s = true) (htrained : (port s n).trained = 0) (f : State → State) :
    onMgmt n h s f = .next s := by
  rw [onMgmt, onUnit_live (sklOk_of_lt hn) hawake]
  exact congrArg Host.Outcome.next (if_pos htrained)

theorem onMgmt_badCrc (hn : n < 32) (hawake : awake s = true) (htrained : (port s n).trained ≠ 0) (hcrc : h.crcOk = false)
    (f : State → State) : onMgmt n h s f = .next (bump s Reg.SKL_CRC_ERR n 1) := by
  rw [onMgmt, onUnit_live (sklOk_of_lt hn) hawake, hcrc]
  exact congrArg Host.Outcome.next ((if_neg htrained).trans (if_pos rfl))

/-- The port with a MGMT flit's credits taken (R320, R321). -/
def mgmtTaken (s : State) (n : Nat) (h : FlitHdr) : State :=
  takeCredits (bump (setPort s n { port s n with owed := setAt (port s n).owed 3 ((port s n).owed.getD 3 0 + 1) })
    Reg.SKL_RX_FLITS n 1) n h

theorem onMgmt_good (hn : n < 32) (hawake : awake s = true) (htrained : (port s n).trained ≠ 0) (hcrc : h.crcOk = true)
    (f : State → State) : onMgmt n h s f = .next (f (mgmtTaken s n h)) := by
  rw [onMgmt, onUnit_live (sklOk_of_lt hn) hawake, hcrc]
  exact congrArg Host.Outcome.next ((if_neg htrained).trans (if_neg (by decide)))

/-- Flits sent again on a port, in order, each counted (R322). -/
def resent (u : State) (n : Nat) (l : List Flit) : State :=
  eachOf l u fun s f => bump (emit s (.flit n f)) Reg.SKL_TX_FLITS n 1

theorem resent_sends (u : State) (n : Nat) (l : List Flit) : (resent u n l).out = u.out ++ l.map (fun f => .flit n f) ∧
    (resent u n l).skl = u.skl ∧ WordsOn (· ≠ Reg.SKL_TX_FLITS.addr n) u (resent u n l) := by
  induction l generalizing u with
  | nil => exact ⟨(List.append_nil _).symm, rfl, .refl u⟩
  | cons f l ih =>
    obtain ⟨hout, hskl, hwords⟩ := ih (bump (emit u (.flit n f)) Reg.SKL_TX_FLITS n 1)
    refine ⟨hout.trans ?_, hskl, WordsOn.trans (.trans (.of_regs rfl) (.wr (fun hne => hne rfl) _ _)) hwords⟩
    show (u.out ++ [_]) ++ _ = _
    rw [List.append_assoc]
    rfl

/-- A NAK with flits left to send again (R322). -/
def nakResends (u : State) (n : Nat) (l : List Flit) (fails : Nat) : State :=
  resent (bump (setPort u n { port u n with replay := l, fails := fails }) Reg.SKL_REPLAY n 1) n l

/-- What an ACK and a NAK do to the port (R322). -/
def ackTaken (n named : Nat) (u : State) : State :=
  let p := port u n
  let l := p.replay.filter fun f => seqBefore (named % 1024) f.h.lseq
  flushPort (setPort u n { p with replay := l, fails := if l.length < p.replay.length then 0 else p.fails }) n

def nakTaken (n named : Nat) (u : State) : State :=
  let p := port u n
  let l := p.replay.filter fun f => !(seqBefore f.h.lseq (named % 1024))
  let fails := if l.length < p.replay.length then 1 else p.fails + 1
  if l.isEmpty then setPort u n { p with replay := l, fails := 0 }
  else if fails > 16 then portFalls (setPort u n { p with replay := l }) n
  else nakResends u n l fails

theorem exec_mgmtAck (s : State) (n : Nat) (h : FlitHdr) (named : Nat) :
    exec (.mgmtAck n h named) s = onMgmt n h s (ackTaken n named) := rfl

theorem exec_mgmtNak (s : State) (n : Nat) (h : FlitHdr) (named : Nat) :
    exec (.mgmtNak n h named) s = onMgmt n h s (nakTaken n named) := rfl

theorem nakResends_sends (u : State) (n : Nat) (l : List Flit) (fails : Nat) :
    let t := nakResends u n l fails
    t.out = u.out ++ l.map (fun f => .flit n f) ∧ (port t n).replay = l ∧
    rd t Reg.SKL_REPLAY n = min (rd u Reg.SKL_REPLAY n + 1) (2 ^ 32 - 1) := by
  obtain ⟨hout, hskl, hwords⟩ := resent_sends (bump (setPort u n { port u n with replay := l, fails := fails }) Reg.SKL_REPLAY n 1) n l
  refine ⟨hout, ?_, ?_⟩
  · rw [nakResends, port, hskl]
    exact congrArg Port.replay (port_setPort u n _)
  · refine (hwords.rd ?_).trans (rd_bump_same _ _ _ _ (fits_of_le (by decide)))
    simp only [Fld.addr, Reg.SKL_REPLAY, Reg.SKL_TX_FLITS]
    omega

end Replay

/-! ### Training -/

section Training

variable {s : State} {n : Nat}

theorem judgePort_words (s : State) (n : Nat) : WordsOn (· ≠ Reg.SKL_LINK_STAT_STATE.addr n) s (judgePort s n) :=
  .ite (.refl _) (.ite (.wr (fun h => h rfl) _ _) (.ite (.wr (fun h => h rfl) _ _) (.ite (.wr (fun h => h rfl) _ _)
    (.wr (fun h => h rfl) _ _))))

theorem rd_judgePort (s : State) (n i : Nat) {g : Fld} (hg : g.lo + g.w ≤ 32) (hlo : 3 ≤ g.lo) : rd (judgePort s n) g i = rd s g i := by
  have hwr (v : Nat) : rd (wr s Reg.SKL_LINK_STAT_STATE n v) g i = rd s g i := rd_wr_bits s n i v hg (.inr hlo)
  unfold judgePort
  dsimp only
  split_ifs
  · rfl
  all_goals exact hwr _

theorem judgePort_skl (s : State) (n : Nat) : (judgePort s n).skl = s.skl := by
  unfold judgePort
  dsimp only
  split_ifs <;> rfl

/-- What the far end reported is not of the device's domain, or is the port's own mesh neighbour (R325, R326). -/
def foreignPeer (s : State) (x : PeerInfo) : Bool := !x.isSwitch && decide (x.domId % 2 ^ 32 ≠ rd s Reg.SKL0_DOM_ID 0)
def rightPeer (s : State) (n : Nat) (x : PeerInfo) : Bool :=
  !x.isSwitch && x.dev % 64 / 4 == rd s Reg.SKL0_DEV_TRAY 0 && x.dev % 64 % 4 == (rd s Reg.SKL0_DEV_SLOT 0 ^^^ meshOf n)

/-- How a port stands that has trained: 2 well, 3 to a foreign domain, 4 to a wrong device. -/
def trainedTo (s : State) (n : Nat) (x : PeerInfo) : Nat :=
  if foreignPeer s x then 3 else if meshOf n ≠ 0 ∧ !rightPeer s n x then 4 else 2

/-- The link status that a port that trains records of its peer (R318). -/
def peerWords (s : State) (n : Nat) (x : PeerInfo) : State :=
  wr (wr (wr (wr (wr s Reg.SKL_LINK_STAT_RATE n (max (oneIf x.rate112) (rd s Reg.SKL_LINK_CTRL_MAXRATE n)))
    Reg.SKL_LINK_STAT_X4 n (oneIf x.x4)) Reg.SKL_LINK_STAT_UPPER n (oneIf (x.x4 && x.upper)))
    Reg.SKL_LINK_STAT_PEER n (x.dev % 64)) Reg.SKL_LINK_STAT_PEER_SW n (oneIf x.isSwitch)

/-- The port as training leaves it. -/
def portTrains (s : State) (n : Nat) (x : PeerInfo) : State :=
  let u := if trainedTo s n x = 2 then peerWords s n x else bump (peerWords s n x) Reg.SKL_MISWIRE n 1
  judgePort (setPort u n { Port.idle with trained := trainedTo s n x }) n

theorem exec_portTrained_of (hn : n < 32) (hawake : awake s = true) (hen : rd s Reg.SKL_LINK_CTRL_EN n = 1)
    (hidle : (port s n).trained = 0) {x : PeerInfo} (hlanes : x.x4 = true → rd s Reg.SKL_LINK_CTRL_ALLOW_X4 n = 1) :
    exec (.portTrained n x) s = .next (portTrains s n x) := by
  have hready : ¬(rd s Reg.SKL_LINK_CTRL_EN n = 0 ∨ (port s n).trained ≠ 0) := by
    rw [hen, hidle]
    decide
  have hwide : ¬(x.x4 = true ∧ rd s Reg.SKL_LINK_CTRL_ALLOW_X4 n = 0) := fun e => by
    rw [hlanes e.1] at e
    exact absurd e.2 (by decide)
  show execPortTrained n x s = _
  rw [execPortTrained, onUnit_live (sklOk_of_lt hn) hawake]
  exact congrArg Host.Outcome.next ((if_neg hready).trans (if_neg hwide))

theorem oneIf_lt (b : Bool) : oneIf b < 2 := by cases b <;> decide

theorem peerWords_words (s : State) (n : Nat) (x : PeerInfo) :
    WordsOn (· ≠ Reg.SKL_LINK_STAT_STATE.addr n) s (peerWords s n x) :=
  .trans (.wr (fun h => h rfl) _ _) (.trans (.wr (fun h => h rfl) _ _) (.trans (.wr (fun h => h rfl) _ _)
    (.trans (.wr (fun h => h rfl) _ _) (.wr (fun h => h rfl) _ _))))

theorem rd_peerWords (s : State) (n : Nat) (x : PeerInfo) : rd (peerWords s n x) Reg.SKL_LINK_STAT_PEER n = x.dev % 64 ∧
    rd (peerWords s n x) Reg.SKL_LINK_STAT_PEER_SW n = oneIf x.isSwitch ∧
    rd (peerWords s n x) Reg.SKL_LINK_STAT_X4 n = oneIf x.x4 := by
  refine ⟨?_, ?_, ?_⟩
  · rw [peerWords, rd_wr_bits _ _ _ _ (by decide) (by decide), rd_wr_self _ _ _ (by decide)]
    exact Nat.mod_mod _ _
  · rw [peerWords, rd_wr_self _ _ _ (by decide)]
    exact Nat.mod_eq_of_lt (oneIf_lt _)
  · rw [peerWords, rd_wr_bits _ _ _ _ (by decide) (by decide), rd_wr_bits _ _ _ _ (by decide) (by decide),
      rd_wr_bits _ _ _ _ (by decide) (by decide), rd_wr_self _ _ _ (by decide)]
    exact Nat.mod_eq_of_lt (oneIf_lt _)

/-- The status word's peer fields and the count of wrong peers, and the port's state, after training. -/
theorem portTrains_records (s : State) (n : Nat) (x : PeerInfo) : let t := portTrains s n x
    rd t Reg.SKL_LINK_STAT_PEER n = x.dev % 64 ∧ rd t Reg.SKL_LINK_STAT_PEER_SW n = oneIf x.isSwitch ∧
    rd t Reg.SKL_LINK_STAT_X4 n = oneIf x.x4 ∧ (port t n).trained = trainedTo s n x ∧ (∀ j, j ≠ n → port t j = port s j) ∧
    WordsOn (fun a => a ≠ Reg.SKL_LINK_STAT_STATE.addr n ∧ a ≠ Reg.SKL_MISWIRE.addr n) s t ∧
    rd t Reg.SKL_MISWIRE n = if trainedTo s n x = 2 then rd s Reg.SKL_MISWIRE n else min (rd s Reg.SKL_MISWIRE n + 1) (2 ^ 32 - 1) := by
  have hapart : Reg.SKL_MISWIRE.addr n ≠ Reg.SKL_LINK_STAT_STATE.addr n := by
    simp only [Fld.addr, Reg.SKL_MISWIRE, Reg.SKL_LINK_STAT_STATE]
    omega
  obtain ⟨hpeer, hsw, hx4⟩ := rd_peerWords s n x
  have hwords := peerWords_words s n x
  have hskl : (peerWords s n x).skl = s.skl := rfl
  unfold portTrains
  generalize peerWords s n x = v at hpeer hsw hx4 hwords hskl
  dsimp only
  generalize trainedTo s n x = k
  have hmis : rd v Reg.SKL_MISWIRE n = rd s Reg.SKL_MISWIRE n := hwords.rd hapart
  have hbumped {g : Fld} (hg : g.addr n ≠ Reg.SKL_MISWIRE.addr n) :
      rd (if k = 2 then v else bump v Reg.SKL_MISWIRE n 1) g n = rd v g n := by
    split
    · rfl
    · exact rd_bump_apart _ _ _ _ _ _ (.inl hg)
  have hstat : Reg.SKL_LINK_STAT_STATE.addr n ≠ Reg.SKL_MISWIRE.addr n := hapart.symm
  have hcount : rd (if k = 2 then v else bump v Reg.SKL_MISWIRE n 1) Reg.SKL_MISWIRE n =
      if k = 2 then rd s Reg.SKL_MISWIRE n else min (rd s Reg.SKL_MISWIRE n + 1) (2 ^ 32 - 1) := by
    split
    · exact hmis
    · rw [rd_bump_same _ _ _ _ (fits_of_le (by decide)), hmis]
      rfl
  have hports : (if k = 2 then v else bump v Reg.SKL_MISWIRE n 1).skl = s.skl := by
    split
    · exact hskl
    · exact hskl
  have hkept : WordsOn (fun a => a ≠ Reg.SKL_LINK_STAT_STATE.addr n ∧ a ≠ Reg.SKL_MISWIRE.addr n) s
      (if k = 2 then v else bump v Reg.SKL_MISWIRE n 1) := .trans (fun a ha => hwords a ha.1) (.ite (.refl _) (.wr (fun h => h.2 rfl) _ _))
  generalize (if k = 2 then v else bump v Reg.SKL_MISWIRE n 1) = u at hbumped hcount hports hkept
  refine ⟨?_, ?_, ?_, ?_, fun j hj => ?_, hkept.trans (.trans (.of_regs rfl) fun a ha => judgePort_words _ n a ha.1), ?_⟩
  · rw [rd_judgePort _ _ _ (by decide) (by decide)]
    exact (hbumped (g := Reg.SKL_LINK_STAT_PEER) hstat).trans hpeer
  · rw [rd_judgePort _ _ _ (by decide) (by decide)]
    exact (hbumped (g := Reg.SKL_LINK_STAT_PEER_SW) hstat).trans hsw
  · rw [rd_judgePort _ _ _ (by decide) (by decide)]
    exact (hbumped (g := Reg.SKL_LINK_STAT_X4) hstat).trans hx4
  · rw [port, judgePort_skl]
    exact congrArg Port.trained (port_setPort u n _)
  · rw [port, judgePort_skl]
    refine (port_setPort_ne u _ hj).trans ?_
    rw [port, hports]
    rfl
  · exact ((judgePort_words _ n).rd hapart).trans hcount

/-- A port that cannot train (R318). -/
theorem trainFails_counts (s : State) (n : Nat) : rd (trainFails s n) Reg.SKL_LINK_STAT_STATE n = 0 ∧
    rd (trainFails s n) Reg.SKL_DOWN_CNT n = min (rd s Reg.SKL_DOWN_CNT n + 1) (2 ^ 32 - 1) ∧ OnlyRegs s (trainFails s n) ∧
    WordsKept s (trainFails s n) [Reg.SKL_LINK_STAT_STATE.addr n, Reg.SKL_DOWN_CNT.addr n] := by
  have hapart : Reg.SKL_DOWN_CNT.addr n ≠ Reg.SKL_LINK_STAT_STATE.addr n := by
    simp only [Fld.addr, Reg.SKL_DOWN_CNT, Reg.SKL_LINK_STAT_STATE]
    omega
  refine ⟨?_, ?_, rfl, fun a ha => ?_⟩
  · rw [trainFails, rd_bump_apart _ _ _ _ _ _ (.inl hapart.symm), rd_wr_self _ _ _ (by decide)]
    rfl
  · rw [trainFails, rd_bump_same _ _ _ _ (fits_of_le (by decide)), rd_wr_ne _ _ _ _ _ _ hapart]
    rfl
  · rw [List.mem_cons, List.mem_singleton, not_or] at ha
    exact (rw_bump_ne _ _ _ _ ha.2).trans (rw_wr_ne _ _ _ _ _ ha.1)

end Training

/-! ### Writes of LINK_CTRL and DOM_CTRL -/

theorem linkCtrl_fields : ∀ n < 32, fieldsAt (Reg.SKL_LINK_CTRL_EN.addr n) = [Reg.SKL_LINK_CTRL_EN, Reg.SKL_LINK_CTRL_MAXRATE,
    Reg.SKL_LINK_CTRL_ALLOW_X4, Reg.SKL_LINK_CTRL_OPEN, Reg.SKL_LINK_CTRL_RETRAIN] ∧
    shadowAddr (Reg.SKL_LINK_CTRL_EN.addr n) ≠ Reg.SKL_LINK_CTRL_EN.addr n := by decide +kernel

theorem linkCtrl_block (n : Nat) : inBlock (Reg.SKL_LINK_CTRL_EN.addr n) := by
  simp only [inBlock, Fld.addr, Reg.SKL_LINK_CTRL_EN]
  omega

/-- With no access under way, nothing is lost with a window. -/
theorem loseWindows_idle {s : State} (hreqs : s.skl.reqs = []) (hregs : s.skl.regs = []) : (loseWindows s).regs = s.regs := by
  unfold loseWindows flushRegs
  rw [hreqs]
  show (eachOf (List.filter _ s.skl.regs) _ _).regs = s.regs
  rw [hregs]
  rfl

section Links

variable {s : State} {ag : Agent} {n v : Nat}

theorem exec_linkCtrlEn_open (hn : n < 32) (ho : Open s ag (Reg.SKL_LINK_CTRL_EN.addr n)) : exec (.linkCtrlEn ag n v) s =
    .next (fxLinkCtrl n (v % 2 ^ 32) s (stored ag (Reg.SKL_LINK_CTRL_EN.addr n) (v % 2 ^ 32) s)) := by
  have h4 : Reg.SKL_LINK_CTRL_EN.addr n % 4 = 0 := by
    simp only [Fld.addr, Reg.SKL_LINK_CTRL_EN]
    omega
  show execLinkCtrlEn ag n v s = _
  rw [execLinkCtrlEn, onUnit, if_pos (sklOk_of_lt hn), agentWrite_open ho h4 (linkCtrl_block n).2, Nat.mod_mod]

theorem exec_skeinRetrain_open (hn : n < 32) (ho : Open s ag (Reg.SKL_LINK_CTRL_EN.addr n)) :
    let w := (rw s (Reg.SKL_LINK_CTRL_EN.addr n)).toNat ||| 16
    exec (.skeinRetrain ag n) s = .next (fxLinkCtrl n w s (stored ag (Reg.SKL_LINK_CTRL_EN.addr n) w s)) := by
  intro w
  have h4 : Reg.SKL_LINK_CTRL_EN.addr n % 4 = 0 := by
    simp only [Fld.addr, Reg.SKL_LINK_CTRL_EN]
    omega
  have hw : w < 2 ^ 32 := Nat.or_lt_two_pow (BitVec.isLt _) (by decide)
  show execSkeinRetrain ag n s = _
  rw [execSkeinRetrain, onUnit, if_pos (sklOk_of_lt hn), agentWrite_open ho h4 (linkCtrl_block n).2, Nat.mod_eq_of_lt hw]

theorem bits_zero_one {v : Nat} (h : bit v 0 = true) : bits v 0 1 = 1 := by
  simpa [bit, bits, Nat.testBit_zero] using h

/-- EN rising on a port that is not trained starts its training. -/
theorem fxLinkCtrl_starts (hn : n < 32) (hoff : rd s Reg.SKL_LINK_CTRL_EN n = 0) (hon : bit v 0 = true)
    (hidle : (port s n).trained = 0) (hreqs : s.skl.reqs = []) (hregs : s.skl.regs = []) :
    let t := fxLinkCtrl n v s (stored ag (Reg.SKL_LINK_CTRL_EN.addr n) v s)
    rd t Reg.SKL_LINK_STAT_STATE n = 1 ∧ rd t Reg.SKL_LINK_CTRL_EN n = 1 := by
  obtain ⟨hfields, hshadow⟩ := linkCtrl_fields n hn
  have hen : rd (stored ag (Reg.SKL_LINK_CTRL_EN.addr n) v s) Reg.SKL_LINK_CTRL_EN n = 1 := by
    rw [rd_stored_rw (a := Reg.SKL_LINK_CTRL_EN.addr n) ag rfl (linkCtrl_block n) (.inr hshadow) (by decide) rfl
      (by rw [hfields]; decide) (by rw [hfields]; decide)]
    exact bits_zero_one hon
  have hskl : (stored ag (Reg.SKL_LINK_CTRL_EN.addr n) v s).skl = s.skl := by
    rw [(stored_regsWithin ag (linkCtrl_block n).1 v s).only]
  generalize stored ag (Reg.SKL_LINK_CTRL_EN.addr n) v s = u at hen hskl
  have hjudge : judgePort (wr u Reg.SKL_LINK_STAT_STATE n 1) n = wr u Reg.SKL_LINK_STAT_STATE n 1 := by
    refine if_pos ?_
    show (port u n).trained = 0
    rw [port, hskl]
    exact hidle
  have hfx : fxLinkCtrl n v s u = loseWindows (wr u Reg.SKL_LINK_STAT_STATE n 1) := by
    unfold fxLinkCtrl
    dsimp only
    rw [if_pos ⟨hoff, hen⟩, hjudge]
  have hlost : (loseWindows (wr u Reg.SKL_LINK_STAT_STATE n 1)).regs = (wr u Reg.SKL_LINK_STAT_STATE n 1).regs :=
    loseWindows_idle (by rw [wr_skl, hskl, hreqs]) (by rw [wr_skl, hskl, hregs])
  have hapart : Reg.SKL_LINK_CTRL_EN.addr n ≠ Reg.SKL_LINK_STAT_STATE.addr n := by
    simp only [Fld.addr, Reg.SKL_LINK_CTRL_EN, Reg.SKL_LINK_STAT_STATE]
    omega
  intro t
  rw [show t = _ from hfx]
  exact ⟨(rd_of_regs hlost _ _).trans (rd_wr_self _ _ _ (by decide)),
    (rd_of_regs hlost _ _).trans ((rd_wr_ne _ _ _ _ _ _ hapart).trans hen)⟩

end Links

/-- Settles O43. -/
theorem skeinPorts : Obligations.SkeinPorts := by
  unfold Obligations.SkeinPorts
  refine ⟨fun s n h named hn hawake => ?_, fun s n hn hawake => ⟨fun hen hidle => ⟨fun x hlanes => ?_, ?_⟩, fun htrained => ?_⟩,
    fun s ag n v hn ho => ?_, fun s ag v ho => ?_⟩
  · rw [Answers, Answers, exec_mgmtAck, exec_mgmtNak]
    refine ⟨exec_ackTimer_up hn hawake, fun htrained => ⟨fun hcrc => ⟨_, onMgmt_badCrc hn hawake htrained hcrc _, rfl⟩,
      fun hcrc => ⟨_, onMgmt_badCrc hn hawake htrained hcrc _, rfl⟩, fun hcrc => ?_⟩, fun htrained =>
        ⟨onMgmt_untrained hn hawake htrained _, onMgmt_untrained hn hawake htrained _⟩⟩
    rw [onMgmt_good hn hawake htrained hcrc, onMgmt_good hn hawake htrained hcrc]
    intro x u p after from_ fails
    refine ⟨rfl, fun hnone => ?_, fun hsome hmany => ?_, fun hsome hfew => ?_⟩
    · have hnil : nakTaken n named u = setPort u n { p with replay := from_, fails := 0 } := if_pos (List.isEmpty_iff.2 hnone)
      rw [hnone] at hnil
      exact congrArg Host.Outcome.next hnil
    · exact congrArg Host.Outcome.next ((if_neg (mt List.isEmpty_iff.1 hsome)).trans (if_pos hmany))
    · refine ⟨nakResends u n from_ fails, ?_, nakResends_sends u n from_ fails⟩
      rw [exec_mgmtNak, onMgmt_good hn hawake htrained hcrc]
      exact congrArg Host.Outcome.next ((if_neg (mt List.isEmpty_iff.1 hsome)).trans (if_neg (Nat.not_lt.2 hfew)))
  · refine ⟨_, exec_portTrained_of hn hawake hen hidle hlanes, ?_⟩
    beta_reduce
    intro foreign right
    obtain ⟨hpeer, hsw, hx4, htrained, hports, hwords, hmis⟩ := portTrains_records s n x
    have hforeign : foreignPeer s x = true ↔ foreign := by simp [foreignPeer, foreign]
    have hright : rightPeer s n x = true ↔ right := by simp [rightPeer, right, and_assoc]
    have h3 (hf : foreign) : trainedTo s n x = 3 := if_pos (hforeign.2 hf)
    have h4 (hf : ¬foreign) (hm : meshOf n ≠ 0) (hr : ¬right) : trainedTo s n x = 4 :=
      (if_neg (mt hforeign.1 hf)).trans (if_pos ⟨hm, by rw [Bool.not_eq_true', ← Bool.not_eq_true, hright]; exact hr⟩)
    have h2 (hf : ¬foreign) (hr : meshOf n = 0 ∨ right) : trainedTo s n x = 2 := by
      refine (if_neg (mt hforeign.1 hf)).trans (if_neg ?_)
      rintro ⟨hm, hno⟩
      rw [Bool.not_eq_true', ← Bool.not_eq_true, hright] at hno
      exact hr.elim hm hno
    refine ⟨hpeer, hsw, hx4, fun hf => htrained.trans (h3 hf), fun hf hm hr => htrained.trans (h4 hf hm hr),
      fun hf hr => ⟨htrained.trans (h2 hf hr), hmis.trans (if_pos (h2 hf hr))⟩, fun hbad => hmis.trans (if_neg ?_), hports,
      fun a ha => hwords a ?_⟩
    · by_cases hf : foreign
      · rw [h3 hf]
        decide
      · obtain ⟨hm, hr⟩ := hbad.resolve_left hf
        rw [h4 hf hm hr]
        decide
    · rw [List.mem_cons, List.mem_singleton, not_or] at ha
      exact ha
  · refine ⟨trainFails s n, ?_, trainFails_counts s n⟩
    show execPortTrainFail n s = _
    rw [execPortTrainFail, onUnit_live (sklOk_of_lt hn) hawake]
    refine congrArg Host.Outcome.next (if_neg ?_)
    rw [hen, hidle]
    decide
  · show execPortDown n s = _
    rw [execPortDown, onUnit_live (sklOk_of_lt hn) hawake]
    exact congrArg Host.Outcome.next (if_neg htrained)
  · intro a put
    refine ⟨exec_linkCtrlEn_open hn ho, exec_skeinRetrain_open hn ho, fun hoff hon hidle hreqs hregs =>
      ⟨_, exec_linkCtrlEn_open hn ho, fxLinkCtrl_starts hn hoff ?_ hidle hreqs hregs⟩⟩
    rw [bit, Nat.testBit_mod_two_pow, show v.testBit 0 = true from hon]
    rfl
  · intro t
    refine ⟨?_, fun hwas hnow => if_pos ⟨hwas, hnow⟩⟩
    show execDomEnClear ag v s = _
    rw [execDomEnClear, agentWrite_open ho (by decide) (by decide), Nat.mod_mod]

end Sys2Proof.Machine

/-! The host apertures and the host link (R332, R349 to R357). -/

namespace Sys2Proof.Machine

/-! ### Aperture 1 -/

section Aperture

variable {s : State} {off n v k : Nat} {cached : Bool}

/-- Where entry `k` maps an access of the host (R351). -/
def hostMapped (s : State) (off k : Nat) : Nat :=
  (rd s Reg.FUS_HEXP_DBASE_LO k * 65536 + 2 ^ 32 * rd s Reg.FUS_HEXP_DBASE_HI k + off - rd s Reg.FUS_HEXP_HOFF k * 65536) % 2 ^ 52

/-- A host access drawn and charged, its lines granted where the host keeps them (R351, R353). -/
def hostServed (cached : Bool) (u : State) (p da n : Nat) : State :=
  let u1 := bump2 (drawRange u p da n) Reg.CMD_PART_LED_PB_LO Reg.CMD_PART_LED_PB_HI p n
  if cached then grantLines u1 p da n else u1

theorem not_dead (hopen : reach s .host 1 = .open_) : ¬reach s .host 1 = .dead := by
  rw [hopen]
  decide

/-- The host's access through an entry, its pages filled (R351, R353). -/
def hostFound (u : State) (off n : Nat) (isWr cached : Bool) (v p da : Nat) : State :=
  let ones (s : State) : State := if isWr then s else { s with rdata := 2 ^ (8 * n) - 1 }
  match probe u p da n isWr with
  | .flt _ kind _ => ones (hostErr (told u p (pagesOf da n)) off kind)
  | .wait _ => ones (hostErr u off 5)
  | .ok =>
    if isWr then hostServed cached (claim (memWrite (abortOnWrite u p da n) p da n v) .host) p da n
    else match winRead u p .host [(da, n)] with
      | .wait s => s
      | .flt s _ kind _ => ones (hostErr s off kind)
      | .ready => fresh (hostServed cached (dropRead { u with rdata := memRead u p da n } .host) p da n)

theorem exec_host_entry {isWr : Bool} (hoff : off < 2 ^ 40) (hopen : reach s .host 1 = .open_) (hentry : hostEntry s off isWr = some k) :
    exec (.hostApertureAccess off n isWr cached v) s = .next (hostFound
      (fillRange s (rd s Reg.FUS_HEXP_PART k) (hostMapped s off k) n) off n isWr cached v (rd s Reg.FUS_HEXP_PART k)
      (hostMapped s off k)) := by
  show execHostApertureAccess off n isWr cached v s = _
  rw [execHostApertureAccess, onUnit, if_pos (decide_eq_true hoff)]
  refine congrArg Host.Outcome.next ((if_neg (not_dead hopen)).trans ?_)
  rw [hentry]
  rfl

section Found

variable {u : State} {p da : Nat}

theorem hostFound_write (hok : probe u p da n true = .ok) : hostFound u off n true cached v p da =
    hostServed cached (claim (memWrite (abortOnWrite u p da n) p da n v) .host) p da n := by
  rw [hostFound, hok]
  rfl

theorem hostFound_read (hok : probe u p da n false = .ok) (hready : winRead u p .host [(da, n)] = .ready) :
    hostFound u off n false cached v p da =
      fresh (hostServed cached (dropRead { u with rdata := memRead u p da n } .host) p da n) := by
  rw [hostFound, hok, hready]
  rfl

end Found

/-- A host access that finds no entry is counted (R351). -/
theorem hostErr_counts (s : State) (off kind : Nat) :
    rd (hostErr s off kind) Reg.FUS_HERR_CNT 0 = min (rd s Reg.FUS_HERR_CNT 0 + 1) (2 ^ 32 - 1) ∧
    (hostErr s off kind).mem = s.mem := by
  have hcount : rd (bump s Reg.FUS_HERR_CNT 0 1) Reg.FUS_HERR_CNT 0 = min (rd s Reg.FUS_HERR_CNT 0 + 1) (2 ^ 32 - 1) :=
    rd_bump_same _ _ _ _ (fits_of_le (by decide))
  have hword : NoIntWord 0x0F 2 (Reg.FUS_HERR_CNT.addr 0) :=
    ⟨by decide, by decide, fun n => by simp only [Fld.addr, Reg.FUS_HERR_CNT, Reg.SKL_TX_FLITS]; omega⟩
  unfold hostErr
  dsimp only
  split
  · exact ⟨hcount, rfl⟩
  · refine ⟨?_, ?_⟩
    · rw [rd_raiseInt hword, rd_wr_ne _ _ _ _ _ _ (by decide), rd_wr_ne _ _ _ _ _ _ (by decide), rd_wr2_ne _ _ _ _ _ _ _ (by decide) (by decide)]
      exact hcount
    · rw [(raiseInt_signals _ _ _).only]
      rfl

theorem exec_hostRead_none (hoff : off < 2 ^ 40) (hopen : reach s .host 1 = .open_) (hentry : hostEntry s off false = none) :
    exec (.hostApertureAccess off n false cached v) s = .next { hostErr s off 0 with rdata := 2 ^ (8 * n) - 1 } := by
  show execHostApertureAccess off n false cached v s = _
  rw [execHostApertureAccess, onUnit, if_pos (decide_eq_true hoff)]
  dsimp only
  rw [if_neg (not_dead hopen), hentry]
  rfl

end Aperture

/-! ### The domain aperture -/

section Domain

variable {s : State} {off n v : Nat}

theorem exec_domainAccess_lead (hoff : off < 2 ^ 32) (hlink : cutOff s .host = false) (hlead : rd s Reg.SKL0_DOM_CTRL_LEAD 0 = 1)
    (isWr : Bool) : exec (.domainApertureAccess off n isWr v) s = .next
      (if off / 2 ^ 26 = rd s Reg.SKL0_DEV_DEVNUM 0 then
        (if isWr then regWrite .host (off % 2 ^ 26) n v fxOf s else readTo s .host (off % 2 ^ 26) n)
      else forwardReg s (off / 2 ^ 26) (off % 2 ^ 26) n isWr v) := by
  show execDomainApertureAccess off n isWr v s = _
  rw [execDomainApertureAccess, onUnit, if_pos (decide_eq_true hoff), hlink, hlead]
  exact congrArg Host.Outcome.next ((if_neg Bool.false_ne_true).trans (if_neg (by decide)))

theorem exec_domainAccess_other (hoff : off < 2 ^ 32) (hlink : cutOff s .host = false) (hlead : rd s Reg.SKL0_DOM_CTRL_LEAD 0 = 0)
    (isWr : Bool) : exec (.domainApertureAccess off n isWr v) s = .next (if isWr then s else { s with rdata := 2 ^ (8 * n) - 1 }) := by
  show execDomainApertureAccess off n isWr v s = _
  rw [execDomainApertureAccess, onUnit, if_pos (decide_eq_true hoff), hlink, hlead]
  exact congrArg Host.Outcome.next ((if_neg Bool.false_ne_true).trans (if_pos rfl))

end Domain

/-! ### Recalls -/

section Recalls

variable {s : State} {line : Nat}

theorem exec_lineRecall_held (hline : line < 2 ^ 48) (hawake : awake s = true) (hheld : lineOf line ∈ s.hst.dir)
    (hnew : lineOf line ∉ s.hst.recalls) :
    exec (.lineRecall line) s = .next { s with hst := { s.hst with recalls := s.hst.recalls ++ [lineOf line] } } := by
  have hgo : (s.hst.dir.contains (lineOf line) && !s.hst.recalls.contains (lineOf line)) = true := by
    simp [hheld, hnew]
  show execRecall line s = _
  rw [execRecall, onUnit_live (decide_eq_true hline) hawake]
  exact congrArg Host.Outcome.next (if_pos hgo)

theorem exec_recallDone_of (hline : line < 2 ^ 48) (hawake : awake s = true) (hrec : lineOf line ∈ s.hst.recalls) :
    exec (.recallDone line) s = .next { s with hst := { s.hst with
      recalls := s.hst.recalls.filter (· != lineOf line), dir := s.hst.dir.filter (· != lineOf line) } } := by
  show execRecallDone line s = _
  rw [execRecallDone, onUnit_live (decide_eq_true hline) hawake]
  exact congrArg Host.Outcome.next (if_pos (List.contains_iff_mem.2 hrec))

theorem exec_recallTimeout_of (hline : line < 2 ^ 48) (hawake : awake s = true) (hrec : lineOf line ∈ s.hst.recalls) :
    exec (.recallTimeout line) s = .next (linkLost s) := by
  show execRecallTimeout line s = _
  rw [execRecallTimeout, onUnit_live (decide_eq_true hline) hawake]
  exact congrArg Host.Outcome.next (if_pos (List.contains_iff_mem.2 hrec))

end Recalls

/-! ### The link -/

/-- The link status is no word of the interrupt of a lost link. -/
theorem linkStat_noIntWord (k : Nat) (hk : k < 2) : NoIntWord 0x0F k (Reg.FUS_LINK_STAT_UP.addr 0) := by
  refine ⟨by decide, ?_, fun n => ?_⟩
  · have hv : vectorOf 0x0F k = 37 ∨ vectorOf 0x0F k = 38 := by
      interval_cases k <;> decide
    rcases hv with hv | hv <;> rw [hv] <;> decide
  · simp only [Fld.addr, Reg.FUS_LINK_STAT_UP, Reg.SKL_TX_FLITS]
    omega

theorem linkLost_state (s : State) : rd (linkLost s) Reg.FUS_LINK_STAT_UP 0 = 0 ∧ (linkLost s).hst.dir = [] ∧
    (linkLost s).hst.recalls = [] ∧ rd (linkLost s) Reg.FUS_LINK_STAT_DOWN_CNT 0 =
      min (rd s Reg.FUS_LINK_STAT_DOWN_CNT 0 + 1) (2 ^ Reg.FUS_LINK_STAT_DOWN_CNT.w - 1) := by
  have hup : rd (unlink s) Reg.FUS_LINK_STAT_UP 0 = 0 := rd_wr_self _ _ _ (by decide)
  have hcnt : rd (unlink s) Reg.FUS_LINK_STAT_DOWN_CNT 0 = rd s Reg.FUS_LINK_STAT_DOWN_CNT 0 :=
    rd_wr_bits _ _ _ _ (by decide) (by decide)
  have hdir : (unlink s).hst = { s.hst with dir := [], recalls := [] } := rfl
  unfold linkLost
  generalize unlink s = u at hup hcnt hdir
  have hword (f : Fld) (hf : f.addr 0 = Reg.FUS_LINK_STAT_UP.addr 0) : NoIntWord 0x0F 1 (f.addr 0) :=
    hf ▸ linkStat_noIntWord 1 (by decide)
  have hhst : (raiseInt (bump u Reg.FUS_LINK_STAT_DOWN_CNT 0 1) 0x0F 1).hst = u.hst := by
    rw [(raiseInt_signals _ _ _).only]
    rfl
  refine ⟨?_, by rw [hhst, hdir], by rw [hhst, hdir], ?_⟩
  · rw [rd_raiseInt (hword Reg.FUS_LINK_STAT_UP rfl), bump, rd_wr_bits _ _ _ _ (by decide) (by decide), hup]
  · rw [rd_raiseInt (hword Reg.FUS_LINK_STAT_DOWN_CNT rfl), rd_bump_same _ _ _ _ (fits_of_le (by decide)), hcnt]

/-! ### Vectors that were pending -/

/-- One pending vector sent, where it is not masked (R355). -/
def pendStep (s : State) (v : Nat) : State :=
  if rd s Reg.FUS_IVEC_PEND v = 1 ∧ rd s Reg.FUS_IVEC_MASK v = 0 then sendVec (wr s Reg.FUS_IVEC_PEND v 0) v else s

theorem sendPending_eq (s : State) : sendPending s = eachOf (List.range 64) s pendStep := rfl

section Pending

variable {s : State} {k v : Nat}

theorem sendVec_words (s : State) (v : Nat) : WordsOn (· ≠ Reg.FUS_IVEC_PEND.addr v) s (sendVec s v) :=
  .ite (.wr (fun h => h rfl) _ _) (.of_regs rfl)

theorem pendStep_words (s : State) (v : Nat) : WordsOn (· ≠ Reg.FUS_IVEC_PEND.addr v) s (pendStep s v) :=
  .ite (.trans (.wr (fun h => h rfl) _ _) (sendVec_words _ _)) (.refl _)

theorem pend_addr_inj (h : Reg.FUS_IVEC_PEND.addr k = Reg.FUS_IVEC_PEND.addr v) : k = v := by
  simp only [Fld.addr, Reg.FUS_IVEC_PEND] at h
  omega

theorem rd_pendStep_mask (s : State) (v k : Nat) : rd (pendStep s v) Reg.FUS_IVEC_MASK k = rd s Reg.FUS_IVEC_MASK k := by
  have hwr (u : State) (x : Nat) : rd (wr u Reg.FUS_IVEC_PEND v x) Reg.FUS_IVEC_MASK k = rd u Reg.FUS_IVEC_MASK k :=
    rd_wr_bits u v k x (by decide) (by decide)
  have hsend (u : State) : rd (sendVec u v) Reg.FUS_IVEC_MASK k = rd u Reg.FUS_IVEC_MASK k := by
    unfold sendVec
    split
    · exact hwr u 1
    · rfl
  unfold pendStep
  split
  · rw [hsend, hwr]
  · rfl

theorem rd_pendStep_up (s : State) (v : Nat) {f : Fld} (hf : f.addr 0 = Reg.FUS_LINK_STAT_UP.addr 0) :
    rd (pendStep s v) f 0 = rd s f 0 := (pendStep_words s v).rd (by
  rw [hf]
  simp only [Fld.addr, Reg.FUS_LINK_STAT_UP, Reg.FUS_IVEC_PEND]
  omega)

/-- With the link up, a pending vector that is not masked is sent and pends no more. -/
theorem rd_pendStep_same (hup : rd s Reg.FUS_LINK_STAT_UP 0 = 1) (hmask : rd s Reg.FUS_IVEC_MASK k = 0) :
    rd (pendStep s k) Reg.FUS_IVEC_PEND k = 0 := by
  have hup' : rd (wr s Reg.FUS_IVEC_PEND k 0) Reg.FUS_LINK_STAT_UP 0 = 1 :=
    (rd_wr_ne _ _ _ _ _ _ (by simp only [Fld.addr, Reg.FUS_LINK_STAT_UP, Reg.FUS_IVEC_PEND]; omega)).trans hup
  have hmask' : rd (wr s Reg.FUS_IVEC_PEND k 0) Reg.FUS_IVEC_MASK k = 0 :=
    (rd_wr_bits _ _ _ _ (by decide) (by decide)).trans hmask
  have hclear : rd (wr s Reg.FUS_IVEC_PEND k 0) Reg.FUS_IVEC_PEND k = 0 := rd_wr_self _ _ _ (by decide)
  unfold pendStep
  split
  · rw [sendVec, if_neg (by rw [hup', hmask']; decide)]
    exact hclear
  · next hno =>
    have hlt := rd_lt s Reg.FUS_IVEC_PEND k
    have hne : rd s Reg.FUS_IVEC_PEND k ≠ 1 := fun e => hno ⟨e, hmask⟩
    simp only [Reg.FUS_IVEC_PEND] at hlt hne ⊢
    omega

/-- Of the vectors tried, none that is not masked pends. -/
theorem rd_pendSteps (l : List Nat) (hup : rd s Reg.FUS_LINK_STAT_UP 0 = 1) (hmask : rd s Reg.FUS_IVEC_MASK k = 0)
    (h : k ∈ l ∨ rd s Reg.FUS_IVEC_PEND k = 0) : rd (eachOf l s pendStep) Reg.FUS_IVEC_PEND k = 0 := by
  induction l generalizing s with
  | nil => exact h.resolve_left List.not_mem_nil
  | cons v l ih =>
    refine ih ((rd_pendStep_up s v rfl).trans hup) ((rd_pendStep_mask s v k).trans hmask) ?_
    by_cases hv : k = v
    · subst hv
      exact .inr (rd_pendStep_same hup hmask)
    · rcases h with h | h
      · exact .inl ((List.mem_cons.1 h).resolve_left hv)
      · exact .inr (((pendStep_words s v).rd (mt pend_addr_inj hv)).trans h)

theorem rd_sendPending_link (s : State) {f : Fld} (hf : f.addr 0 = Reg.FUS_LINK_STAT_UP.addr 0) :
    rd (sendPending s) f 0 = rd s f 0 := by
  rw [sendPending_eq]
  generalize List.range 64 = l
  induction l generalizing s with
  | nil => rfl
  | cons v l ih => exact (ih _).trans (rd_pendStep_up s v hf)

end Pending

/-- The link trained (R349). -/
def linkWords (s : State) (g x8 : Bool) : State :=
  wr (wr (wr s Reg.FUS_LINK_STAT_UP 0 1) Reg.FUS_LINK_STAT_GEN2 0 (oneIf g)) Reg.FUS_LINK_STAT_X8 0 (oneIf x8)

theorem linkWords_state (s : State) (g x8 : Bool) : let t := sendPending (linkWords s g x8)
    rd t Reg.FUS_LINK_STAT_UP 0 = 1 ∧ rd t Reg.FUS_LINK_STAT_X8 0 = oneIf x8 ∧ rd t Reg.FUS_LINK_STAT_GEN2 0 = oneIf g ∧
    (∀ k < 64, rd s Reg.FUS_IVEC_MASK k = 0 → rd t Reg.FUS_IVEC_PEND k = 0) := by
  have hup : rd (linkWords s g x8) Reg.FUS_LINK_STAT_UP 0 = 1 := by
    rw [linkWords, rd_wr_bits _ _ _ _ (by decide) (by decide), rd_wr_bits _ _ _ _ (by decide) (by decide), rd_wr_self _ _ _ (by decide)]
    rfl
  have hx8 : rd (linkWords s g x8) Reg.FUS_LINK_STAT_X8 0 = oneIf x8 := by
    rw [linkWords, rd_wr_self _ _ _ (by decide)]
    exact Nat.mod_eq_of_lt (oneIf_lt x8)
  have hgen : rd (linkWords s g x8) Reg.FUS_LINK_STAT_GEN2 0 = oneIf g := by
    rw [linkWords, rd_wr_bits _ _ _ _ (by decide) (by decide), rd_wr_self _ _ _ (by decide)]
    exact Nat.mod_eq_of_lt (oneIf_lt g)
  have hpend (k : Nat) (hk : k < 64) (hmask : rd (linkWords s g x8) Reg.FUS_IVEC_MASK k = 0) :
      rd (sendPending (linkWords s g x8)) Reg.FUS_IVEC_PEND k = 0 := rd_pendSteps _ hup hmask (.inl (List.mem_range.2 hk))
  refine ⟨(rd_sendPending_link (f := Reg.FUS_LINK_STAT_UP) _ rfl).trans hup, (rd_sendPending_link (f := Reg.FUS_LINK_STAT_X8) _ rfl).trans hx8,
    (rd_sendPending_link (f := Reg.FUS_LINK_STAT_GEN2) _ rfl).trans hgen, fun k hk hmask => hpend k hk ?_⟩
  have hapart : Reg.FUS_IVEC_MASK.addr k ≠ Reg.FUS_LINK_STAT_UP.addr 0 := by
    simp only [Fld.addr, Reg.FUS_IVEC_MASK, Reg.FUS_LINK_STAT_UP]
    omega
  exact (rd_wr_ne _ Reg.FUS_LINK_STAT_X8 _ _ _ _ hapart).trans ((rd_wr_ne _ Reg.FUS_LINK_STAT_GEN2 _ _ _ _ hapart).trans
    ((rd_wr_ne _ Reg.FUS_LINK_STAT_UP _ _ _ _ hapart).trans hmask))

/-! ### Writes of the agents -/

theorem ivecMask_fields : ∀ k < 64, fieldsAt (Reg.FUS_IVEC_MASK.addr k) = [Reg.FUS_IVEC_MASK, Reg.FUS_IVEC_PEND] ∧
    woMask (Reg.FUS_IVEC_MASK.addr k) = 0 := by decide +kernel

section Agents

variable {s : State} {ag : Agent} {k v : Nat}

theorem exec_fusRetrain_open (ho : Open s ag (Reg.FUS_LINK_CTRL_RETRAIN.addr 0)) : exec (.fusRetrain ag) s =
    .next (unlink (stored ag (Reg.FUS_LINK_CTRL_RETRAIN.addr 0) (rd s Reg.FUS_LINK_CTRL_MAXGEN 0 + 2) s)) := by
  have hbit (u : State) : bit (rd u Reg.FUS_LINK_CTRL_MAXGEN 0 + 2) 1 = true := by
    have hlt := rd_lt u Reg.FUS_LINK_CTRL_MAXGEN 0
    have hcases : rd u Reg.FUS_LINK_CTRL_MAXGEN 0 = 0 ∨ rd u Reg.FUS_LINK_CTRL_MAXGEN 0 = 1 := by
      simp only [Reg.FUS_LINK_CTRL_MAXGEN] at hlt ⊢
      omega
    rcases hcases with h | h <;> rw [h] <;> decide
  have hw : rd s Reg.FUS_LINK_CTRL_MAXGEN 0 + 2 < 2 ^ 32 := by
    have hlt := rd_lt s Reg.FUS_LINK_CTRL_MAXGEN 0
    simp only [Reg.FUS_LINK_CTRL_MAXGEN] at hlt ⊢
    omega
  show execFusRetrain ag s = _
  rw [execFusRetrain, agentWrite_open ho (by decide) (by decide), Nat.mod_eq_of_lt hw]
  exact congrArg Host.Outcome.next (if_pos (hbit _))

theorem exec_ivecMaskWrite_open (hk : k < 64) (ho : Open s ag (Reg.FUS_IVEC_MASK.addr k)) :
    exec (.ivecMaskWrite ag k v) s = .next (fxIvecMask k (stored ag (Reg.FUS_IVEC_MASK.addr k) (v % 2 ^ 32) s)) := by
  have h4 : Reg.FUS_IVEC_MASK.addr k % 4 = 0 := by
    simp only [Fld.addr, Reg.FUS_IVEC_MASK]
    omega
  have hblock : Reg.FUS_IVEC_MASK.addr k % 0x1000 < 0xF00 := by
    simp only [Fld.addr, Reg.FUS_IVEC_MASK]
    omega
  show execIvecMaskWrite ag k v s = _
  rw [execIvecMaskWrite, onUnit, if_pos (decide_eq_true hk), agentWrite_open ho h4 hblock, Nat.mod_mod]

/-- A mask written with nothing pending is the mask. -/
theorem rd_fxIvecMask (hk : k < 64) (hnone : rd s Reg.FUS_IVEC_PEND k = 0) (w : Nat) :
    rd (fxIvecMask k (stored ag (Reg.FUS_IVEC_MASK.addr k) w s)) Reg.FUS_IVEC_MASK k = bits w 0 1 := by
  obtain ⟨hfields, hwo⟩ := ivecMask_fields k hk
  have hblock : inBlock (Reg.FUS_IVEC_MASK.addr k) := by
    simp only [inBlock, Fld.addr, Reg.FUS_IVEC_MASK]
    omega
  have hpend : rd (stored ag (Reg.FUS_IVEC_MASK.addr k) w s) Reg.FUS_IVEC_PEND k = 0 :=
    (rd_stored_clear (f := Reg.FUS_IVEC_PEND) (a := Reg.FUS_IVEC_MASK.addr k) ag rfl hblock (.inl hwo) (by decide) (by rw [hfields]; decide) w s).trans hnone
  rw [fxIvecMask, if_neg (fun e => absurd (hpend.symm.trans e.2) (by decide))]
  exact rd_stored_rw (a := Reg.FUS_IVEC_MASK.addr k) ag rfl hblock (.inl hwo) (by decide) rfl (by rw [hfields]; decide)
    (by rw [hfields]; decide +kernel) w s

theorem exec_intSet_open (hpage : pageExists k = true) (ho : Open s ag (k * 0x1000 + 0x28)) :
    exec (.intSet ag k v) s = .next (stored ag (k * 0x1000 + 0x28) (v % 2 ^ 32) s) := by
  show execIntSet ag k v s = _
  rw [execIntSet, onUnit, if_pos hpage, regWrite_open ho (by omega), Nat.mod_mod]
  rfl

end Agents

/-! ### The mailbox -/

theorem mailbox_go (s : State) (x : Nat) : mailbox (wr s Reg.FUS_MB_CTRL_H2R_GO 0 x) = mailbox s := by
  have hword (k : Nat) : rd (wr s Reg.FUS_MB_CTRL_H2R_GO 0 x) Reg.FUS_MB_H2R k = rd s Reg.FUS_MB_H2R k :=
    rd_wr_ne _ _ _ _ _ _ (by simp only [Fld.addr, Reg.FUS_MB_CTRL_H2R_GO, Reg.FUS_MB_H2R]; omega)
  simp only [mailbox, hword]

theorem rimRuns_go (s : State) (x : Nat) : rimRuns (wr s Reg.FUS_MB_CTRL_H2R_GO 0 x) = rimRuns s := by
  simp only [rimRuns]
  rw [rd_wr_ne _ _ _ _ _ _ (by decide), rd_wr_ne _ _ _ _ _ _ (by decide)]

/-- The firmware takes the message that GO announces, once (R356). -/
theorem fxMbCtrl_takes {s : State} (hruns : rimRuns s = true) (hfull : rd s Reg.FUS_MB_CTRL_R2H_FULL 0 = 1) :
    fxMbCtrl 1 s = takeMail (wr s Reg.FUS_MB_CTRL_H2R_GO 0 1) ∧ (fxMbCtrl 1 s).hst.inbox = s.hst.inbox ++ [mailbox s] ∧
    rd (fxMbCtrl 1 s) Reg.FUS_MB_CTRL_H2R_GO 0 = 0 := by
  have htake : takeMail (wr s Reg.FUS_MB_CTRL_H2R_GO 0 1) = wr { wr s Reg.FUS_MB_CTRL_H2R_GO 0 1 with hst := { s.hst with
      inbox := s.hst.inbox ++ [mailbox s] } } Reg.FUS_MB_CTRL_H2R_GO 0 0 := by
    rw [takeMail, if_pos ⟨rd_wr_self _ _ _ (by decide), .inl ((rimRuns_go s 1).trans hruns)⟩, mailbox_go]
    rfl
  have hstill : rd (takeMail (wr s Reg.FUS_MB_CTRL_H2R_GO 0 1)) Reg.FUS_MB_CTRL_R2H_FULL 0 = 1 := by
    rw [htake, rd_wr_bits _ _ _ _ (by decide) (by decide)]
    exact (rd_wr_bits s 0 0 1 (by decide) (by decide)).trans hfull
  have hfx : fxMbCtrl 1 s = takeMail (wr s Reg.FUS_MB_CTRL_H2R_GO 0 1) := if_pos hstill
  refine ⟨hfx, ?_, ?_⟩
  · rw [hfx, htake]
    rfl
  · rw [hfx, htake]
    exact rd_wr_self _ _ _ (by decide)

/-- Settles O44. -/
theorem hostSide : Obligations.HostSide := by
  unfold Obligations.HostSide
  refine ⟨⟨fun s off n v cached hoff hopen => ?_, fun s off n v hoff hlink => ?_⟩, fun s line hline hawake => ?_, fun s hawake => ?_,
    fun s ag k v => ⟨exec_fusRetrain_open, fun ho => ?_, fun hk ho => ⟨exec_ivecMaskWrite_open hk ho, fun hnone =>
      ⟨_, exec_ivecMaskWrite_open hk ho, ?_⟩⟩, exec_intSet_open⟩, fun s _ hruns hfull => fxMbCtrl_takes hruns hfull⟩
  · intro mapped serve
    refine ⟨fun k hk => ?_, fun k hk => ?_, fun hnone => ?_⟩
    · intro p u hok
      exact (exec_host_entry hoff hopen hk).trans (congrArg Host.Outcome.next (hostFound_write hok))
    · intro p u hok hready
      exact (exec_host_entry hoff hopen hk).trans (congrArg Host.Outcome.next (hostFound_read hok hready))
    obtain ⟨hcount, hmem⟩ := hostErr_counts s off 0
    exact ⟨_, exec_hostRead_none hoff hopen hnone, rfl, hcount, hmem⟩
  · intro d o
    refine ⟨fun hlead => ⟨fun hself => ⟨?_, ?_⟩, fun hother isWr => ?_⟩, fun hlead =>
      ⟨exec_domainAccess_other hoff hlink hlead true, exec_domainAccess_other hoff hlink hlead false⟩⟩
    · rw [exec_domainAccess_lead hoff hlink hlead, if_pos hself, if_pos rfl]
    · rw [exec_domainAccess_lead hoff hlink hlead, if_pos hself, if_neg Bool.false_ne_true]
    · rw [exec_domainAccess_lead hoff hlink hlead, if_neg hother]
  · intro l
    refine ⟨fun hheld hnew => ⟨_, exec_lineRecall_held hline hawake hheld hnew, rfl⟩, fun hrec =>
      ⟨_, exec_recallDone_of hline hawake hrec, ?_, ?_, fun x hx => ?_, rfl⟩, exec_recallTimeout_of hline hawake⟩
    · simp [l]
    · simp [l]
    · simp [show x ≠ lineOf line from hx]
  · refine ⟨fun hup => ?_, fun gen2 x8 hdown => ?_⟩
    · have hexec : exec .fustraDown s = .next (linkLost s) := by
        show execFustraDown s = _
        rw [execFustraDown, live, if_pos hawake, if_pos hup]
      exact ⟨hexec, _, hexec, linkLost_state s⟩
    · have hexec : exec (.fustraUp gen2 x8) s = .next (sendPending (linkWords s
          (gen2 || rd s Reg.FUS_LINK_CTRL_MAXGEN 0 == 1 || rd s Reg.RST_MODE 0 == 3) x8)) := by
        show execFustraUp gen2 x8 s = _
        rw [execFustraUp, live, if_pos hawake]
        exact congrArg Host.Outcome.next (if_neg (by rw [hdown]; decide))
      obtain ⟨hup, hx8, hgen, hpend⟩ := linkWords_state s
        (gen2 || rd s Reg.FUS_LINK_CTRL_MAXGEN 0 == 1 || rd s Reg.RST_MODE 0 == 3) x8
      refine ⟨_, hexec, hup, hx8, fun htwo => hgen.trans ?_, hpend⟩
      rw [htwo]
      rfl
  · show execH2rGo s = _
    rw [execH2rGo, agentWrite_open ho (by decide) (by decide), Nat.mod_eq_of_lt (by decide)]
  · show rd (fxIvecMask k _) Reg.FUS_IVEC_MASK k = v % 2
    rw [rd_fxIvecMask hk hnone, bits, Nat.shiftRight_zero]
    omega

end Sys2Proof.Machine

/-! Capacity ports and Ethernet (R355 to R367). -/

namespace Sys2Proof.Machine

/-! ### What frames and zero fills leave of the host side -/

section Frames

variable (s : State)

theorem foldl_hst {α : Type} {f : State → α → State} (hf : ∀ s a, (f s a).hst = s.hst) (l : List α) (s : State) :
    (l.foldl f s).hst = s.hst :=
  eachOf_rel (R := fun s t => t.hst = s.hst) (fun _ => rfl) (fun _ _ _ h k => k.trans h) hf l s

@[simp] theorem charge_hst (p t : Nat) (pool : Bool) : (charge s p t pool).hst = s.hst := by
  unfold charge
  split <;> rfl

@[simp] theorem uncharge_hst (p t : Nat) (pool : Bool) : (uncharge s p t pool).hst = s.hst := by
  unfold uncharge
  split <;> rfl

@[simp] theorem takeFseg_hst (p seg t f : Nat) (pool : Bool) : (takeFseg s p seg t f pool).hst = s.hst := by
  unfold takeFseg
  dsimp only
  split <;> simp

@[simp] theorem dropFseg_hst (t f : Nat) : (dropFseg s t f).hst = s.hst := by
  unfold dropFseg
  split
  · rfl
  · dsimp only
    split_ifs <;> simp

@[simp] theorem setMigBits_hst (k : Nat) (b : Bool) : (setMigBits s k b).hst = s.hst := foldl_hst (fun _ _ => by simp) _ s

@[simp] theorem noteMigs_hst : (noteMigs s).hst = s.hst := foldl_hst (fun _ _ => by simp) _ s

@[simp] theorem clearFrame_hst (t f : Nat) : (clearFrame s t f).hst = s.hst := by
  unfold clearFrame
  split <;> simp

@[simp] theorem makeLocal_hst (p page t f rdwr hint : Nat) : (makeLocal s p page t f rdwr hint).hst = s.hst := by
  simp [makeLocal]

/-- The segment's entry forgets its migration. -/
theorem forget_hst (m : Migr) :
    (match getSeg s m.seg with | some g => setSeg s m.seg (some { g with mig := none }) | none => s).hst = s.hst := by
  split
  · exact setSeg_hst _ _ _
  · rfl

@[simp] theorem abortMig_hst (m : Migr) : (abortMig s m).hst = s.hst := by
  unfold abortMig
  dsimp only
  rw [noteMigs_hst, setMem_hst]
  split
  · rw [up_hst, setFseg_hst]
    exact (forget_hst _ m).trans (setMigBits_hst s _ _)
  · rw [dropFseg_hst]
    exact (forget_hst _ m).trans (setMigBits_hst s _ _)

@[simp] theorem startMig_hst (k t cause : Nat) (own : Option (Nat × Nat)) : (startMig s k t cause own false).1.hst = s.hst := by
  unfold startMig
  split
  · rfl
  · dsimp only
    split <;> simp

theorem evictFor_hst (p t : Nat) {u : State} (h : evictFor s p t = some u) : u.hst = s.hst := by
  unfold evictFor at h
  split at h
  · cases h
  · split at h
    · cases h
      rfl
    · split at h
      · cases h
      · next k _ =>
        have hmig := startMig_hst s k 1 6 none
        split at h
        · next v hv =>
          cases h
          rw [hv] at hmig
          simpa using hmig
        · cases h

theorem zeroFill_hst (p g : Nat) : (zeroFill p g s).hst = s.hst := by
  have hfill (u : State) (t f e : Nat) :
      (bump (setL3 (makeLocal u p g t f 3 0) p g (l3e (makeLocal u p g t f 3 0) p g ||| e)) Reg.XLT_ZFILL 0 1).hst = u.hst := by
    rw [bump_hst, setL3_hst, makeLocal_hst]
  have htake (t f : Nat) (pool : Bool) (x : Option Segm) :
      (setSeg (takeFseg s p (segKey p g) t f pool) (segKey p g) x).hst = s.hst := by
    rw [setSeg_hst, takeFseg_hst]
  unfold zeroFill
  split
  · dsimp only
    split
    · rw [hfill]
      split
      · rw [bump_hst, abortMig_hst]
      · rfl
    · split
      · rw [hfill, htake]
      · split
        · next u hu => exact evictFor_hst s p 0 hu
        · split
          · rw [hfill, htake]
          · rfl
  · rfl

theorem fillRange_hst (p da n : Nat) : (fillRange s p da n).hst = s.hst :=
  foldl_hst (fun u g => by
    split
    · exact zeroFill_hst u p g
    · rfl) _ s

end Frames

/-! ### Capacity ports -/

section Capacity

variable {s : State} {ag : Agent} {n k : Nat}

/-- A scan leaves in the port's status what it found (R359). -/
theorem capScan_finds (s : State) (n : Nat) (d : CxlDev) : let up := d.present && d.fault == 0
    rd (capScan s n d) Reg.CAP_STAT_UP n = oneIf up ∧
    rd (capScan s n d) Reg.CAP_STAT_CAUSE n = (if up then 0 else if !d.present then 1 else d.fault) % 16 ∧
    rd (capScan s n d) Reg.CAP_FRAMES n = (if up then framesOf d.bytes else 0) % 2 ^ Reg.CAP_FRAMES.w := by
  intro up
  have hlast (f : Fld) (u : State) (x : Nat) (hf : f.addr n = Reg.CAP_STAT_UP.addr n ∨ f.addr n = Reg.CAP_FRAMES.addr n) :
      rd (t3Recount (wr2 u Reg.CAP_SERIAL_LO Reg.CAP_SERIAL_HI n x)) f n = rd u f n := by
    have h3 : f.addr n ≠ Reg.XLT_T3_FREE.addr 0 ∧ f.addr n ≠ Reg.CAP_SERIAL_LO.addr n ∧ f.addr n ≠ Reg.CAP_SERIAL_HI.addr n := by
      simp only [Fld.addr, Reg.CAP_STAT_UP, Reg.CAP_FRAMES, Reg.XLT_T3_FREE, Reg.CAP_SERIAL_LO, Reg.CAP_SERIAL_HI] at hf ⊢
      omega
    rw [t3Recount]
    exact (rd_wr_ne _ _ _ _ _ _ h3.1).trans (rd_wr2_ne _ _ _ _ _ _ _ h3.2.1 h3.2.2)
  have hframes (f : Fld) (u : State) (x : Nat) (hf : f.addr n = Reg.CAP_STAT_UP.addr n) : rd (wr u Reg.CAP_FRAMES n x) f n = rd u f n :=
    rd_wr_ne _ _ _ _ _ _ (by
      rw [hf]
      simp only [Fld.addr, Reg.CAP_STAT_UP, Reg.CAP_FRAMES]
      omega)
  unfold capScan
  dsimp only
  refine ⟨?_, ?_, ?_⟩
  · rw [hlast Reg.CAP_STAT_UP _ _ (.inl rfl), hframes Reg.CAP_STAT_UP _ _ rfl, rd_wr_bits _ _ _ _ (by decide) (by decide), rd_wr_bits _ _ _ _ (by decide) (by decide),
      rd_wr_bits _ _ _ _ (by decide) (by decide), rd_wr_self _ _ _ (by decide)]
    exact Nat.mod_eq_of_lt (oneIf_lt _)
  · rw [hlast Reg.CAP_STAT_CAUSE _ _ (.inl rfl), hframes Reg.CAP_STAT_CAUSE _ _ rfl, rd_wr_bits _ _ _ _ (by decide) (by decide), rd_wr_bits _ _ _ _ (by decide) (by decide),
      rd_wr_self _ _ _ (by decide)]
    rfl
  · rw [hlast Reg.CAP_FRAMES _ _ (.inr rfl), rd_wr_self _ _ _ (by decide)]

theorem capOk_of_lt (hn : n < 8) : capOk n = true := decide_eq_true hn
theorem ethOk_of_lt (hn : n < 2) : ethOk n = true := decide_eq_true hn

/-- RESCAN as its port answers it (R359). -/
def rescanned (u : State) (n was : Nat) (d : CxlDev) : State :=
  if capHolds u n then pageErr u Reg.HDR_ERR_SUM_RSVD_WR (0x40 + n)
  else if was = 0 ∧ rd (capScan u n d) Reg.CAP_STAT_UP n = 1 then raiseInt (capScan u n d) (0x40 + n) 1
  else if was = 1 ∧ rd (capScan u n d) Reg.CAP_STAT_UP n = 0 then raiseInt (capScan u n d) (0x40 + n) 0 else capScan u n d

theorem rescan_words : ∀ n < 8, Reg.CAP_STAT_UP.addr n ∉ storeWords (Reg.CAP_CTRL_RESCAN.addr n) := by decide +kernel

theorem exec_rescan_open (hn : n < 8) (ho : Open s ag (Reg.CAP_CTRL_RESCAN.addr n)) (d : CxlDev) : exec (.rescan ag n d) s =
    .next (rescanned (stored ag (Reg.CAP_CTRL_RESCAN.addr n) 1 s) n (rd s Reg.CAP_STAT_UP n) d) := by
  have haddr : Reg.CAP_CTRL_RESCAN.addr n % 4 = 0 ∧ 0x100 ≤ Reg.CAP_CTRL_RESCAN.addr n % 0x1000 ∧
      Reg.CAP_CTRL_RESCAN.addr n % 0x1000 < 0xF00 := by
    simp only [Fld.addr, Reg.CAP_CTRL_RESCAN]
    omega
  have hwas : rd (stored ag (Reg.CAP_CTRL_RESCAN.addr n) 1 s) Reg.CAP_STAT_UP n = rd s Reg.CAP_STAT_UP n := by
    exact rd_of_rw ((stored_regsWithin ag haddr.2.1 1 s).kept _ (rescan_words n hn))
  show execRescan ag n d s = _
  rw [execRescan, onUnit, if_pos (capOk_of_lt hn), agentWrite_open ho haddr.1 haddr.2.2, Nat.mod_eq_of_lt (by decide), ← hwas]
  exact congrArg Host.Outcome.next (if_neg (by decide))

/-- The port's interrupt changes no word of a capacity port's block. -/
theorem capWord_noInt {f : Fld} (hk : k < 2) (hf : f.stride = 0x1000 ∧ 0x40100 ≤ f.addr0 ∧ f.addr0 < 0x40200) (hn : n < 8) :
    NoIntWord (0x40 + n) k (f.addr n) := by
  obtain ⟨hs, hlow, hhigh⟩ := hf
  refine noIntWord_of_block ?_ ?_ (.inr ?_)
  · interval_cases n <;> interval_cases k <;> decide
  all_goals simp only [Fld.addr, hs]; omega

/-- A port that fails with no migration under way (R361). -/
def capDown (s : State) (n : Nat) (fatal : Bool) : State :=
  raiseInt (t3Recount (bump (wr (wr s Reg.CAP_STAT_UP n 0) Reg.CAP_STAT_CAUSE n (if fatal then 6 else 4)) Reg.CAP_OFFLINE_CNT n 1))
    (0x40 + n) 0

theorem exec_capOffline_of (hn : n < 8) (hawake : awake s = true) (hup : rd s Reg.CAP_STAT_UP n = 1) (hmigs : s.mem.migs = [])
    (fatal : Bool) : exec (.capOffline n fatal) s = .next (capDown s n fatal) := by
  show execCapOffline n fatal s = _
  rw [execCapOffline, onUnit_live (capOk_of_lt hn) hawake]
  refine congrArg Host.Outcome.next ((if_neg (by rw [hup]; decide)).trans ?_)
  dsimp only
  rw [wr_mem, wr_mem, hmigs]
  rfl

theorem rd_t3Recount (s : State) {f : Fld} (hf : f.addr n ≠ Reg.XLT_T3_FREE.addr 0) : rd (t3Recount s) f n = rd s f n :=
  rd_wr_ne _ _ _ _ _ _ hf

theorem capDown_state (hn : n < 8) (s : State) (fatal : Bool) : let t := capDown s n fatal
    rd t Reg.CAP_STAT_UP n = 0 ∧ rd t Reg.CAP_STAT_CAUSE n = (if fatal then 6 else 4) ∧
    rd t Reg.CAP_OFFLINE_CNT n = min (rd s Reg.CAP_OFFLINE_CNT n + 1) (2 ^ Reg.CAP_OFFLINE_CNT.w - 1) ∧
    rd t Reg.CAP_FRAMES n = rd s Reg.CAP_FRAMES n ∧ t.mem = s.mem := by
  have hfree {f : Fld} (hf : f.stride = 0x1000 ∧ 0x40100 ≤ f.addr0 ∧ f.addr0 < 0x40200) : f.addr n ≠ Reg.XLT_T3_FREE.addr 0 := by
    simp only [Fld.addr, hf.1, Reg.XLT_T3_FREE]
    omega
  have hcnt {f : Fld} (hs : f.stride = 0x1000) (hf : f.addr0 < 0x40110) : f.addr n ≠ Reg.CAP_OFFLINE_CNT.addr n := by
    simp only [Fld.addr, hs, Reg.CAP_OFFLINE_CNT]
    omega
  have hstat {f : Fld} (hs : f.stride = 0x1000) (hf : 0x40108 ≤ f.addr0) : f.addr n ≠ Reg.CAP_STAT_UP.addr n := by
    simp only [Fld.addr, hs, Reg.CAP_STAT_UP]
    omega
  refine ⟨?_, ?_, ?_, ?_, ?_⟩
  · rw [capDown, rd_raiseInt (capWord_noInt (by decide) (by decide) hn), rd_t3Recount _ (hfree (by decide)),
      rd_bump_apart _ _ _ _ _ _ (.inl (hcnt rfl (by decide))), rd_wr_bits _ _ _ _ (by decide) (by decide), rd_wr_self _ _ _ (by decide)]
    rfl
  · rw [capDown, rd_raiseInt (capWord_noInt (by decide) (by decide) hn), rd_t3Recount _ (hfree (by decide)),
      rd_bump_apart _ _ _ _ _ _ (.inl (hcnt rfl (by decide))), rd_wr_self _ _ _ (by decide)]
    cases fatal <;> rfl
  · rw [capDown, rd_raiseInt (capWord_noInt (by decide) (by decide) hn), rd_t3Recount _ (hfree (by decide)),
      rd_bump_same _ _ _ _ (fits_of_le (by decide))]
    have hold : rd (wr (wr s Reg.CAP_STAT_UP n 0) Reg.CAP_STAT_CAUSE n (if fatal then 6 else 4)) Reg.CAP_OFFLINE_CNT n =
        rd s Reg.CAP_OFFLINE_CNT n :=
      (rd_wr_ne _ Reg.CAP_STAT_CAUSE _ _ _ _ (hstat rfl (by decide))).trans (rd_wr_ne _ _ _ _ _ _ (hstat rfl (by decide)))
    rw [hold]
  · rw [capDown, rd_raiseInt (capWord_noInt (by decide) (by decide) hn), rd_t3Recount _ (hfree (by decide)),
      rd_bump_apart _ _ _ _ _ _ (.inl (hcnt rfl (by decide)))]
    exact (rd_wr_ne _ Reg.CAP_STAT_CAUSE _ _ _ _ (hstat rfl (by decide))).trans (rd_wr_ne _ _ _ _ _ _ (hstat rfl (by decide)))
  · show (capDown s n fatal).mem = s.mem
    rw [capDown, (raiseInt_signals _ _ _).only]
    rfl

/-- What an offline port that trains again finds (R361). -/
def capBack (s : State) (n x : Nat) : State :=
  if x % 2 ^ 64 = rd2 s Reg.CAP_SERIAL_LO Reg.CAP_SERIAL_HI n then
    raiseInt (t3Recount (wr (wr s Reg.CAP_STAT_UP n 1) Reg.CAP_STAT_CAUSE n 0)) (0x40 + n) 1
  else wr s Reg.CAP_STAT_CAUSE n 5

theorem exec_capRetrain_of (hn : n < 8) (hawake : awake s = true) (hdown : rd s Reg.CAP_STAT_UP n = 0)
    (hcause : rd s Reg.CAP_STAT_CAUSE n = 4 ∨ rd s Reg.CAP_STAT_CAUSE n = 6) (hframes : rd s Reg.CAP_FRAMES n ≠ 0) (x : Nat) :
    exec (.capRetrain n (some x)) s = .next (capBack s n x) := by
  show execCapRetrain n (some x) s = _
  rw [execCapRetrain, onUnit_live (capOk_of_lt hn) hawake]
  refine congrArg Host.Outcome.next (if_neg ?_)
  rintro (e | e | e)
  · rw [hdown] at e
    cases e
  · exact e hcause
  · exact hframes e

theorem capBack_own (hn : n < 8) (s : State) :
    let t := raiseInt (t3Recount (wr (wr s Reg.CAP_STAT_UP n 1) Reg.CAP_STAT_CAUSE n 0)) (0x40 + n) 1
    rd t Reg.CAP_STAT_UP n = 1 ∧ rd t Reg.CAP_STAT_CAUSE n = 0 ∧ t.mem = s.mem := by
  have hfree : Reg.CAP_STAT_UP.addr n ≠ Reg.XLT_T3_FREE.addr 0 := by
    simp only [Fld.addr, Reg.CAP_STAT_UP, Reg.XLT_T3_FREE]
    omega
  refine ⟨?_, ?_, ?_⟩
  · rw [rd_raiseInt (capWord_noInt (by decide) (by decide) hn), rd_t3Recount _ hfree, rd_wr_bits _ _ _ _ (by decide) (by decide),
      rd_wr_self _ _ _ (by decide)]
    rfl
  · rw [rd_raiseInt (capWord_noInt (by decide) (by decide) hn), rd_t3Recount (f := Reg.CAP_STAT_CAUSE) _ hfree, rd_wr_self _ _ _ (by decide)]
    rfl
  · rw [(raiseInt_signals _ _ _).only]
    rfl

end Capacity

/-! ### Ethernet -/

section Ethernet

variable {s : State} {ag : Agent} {n v q : Nat}

theorem ethAddr (n : Nat) : (Reg.ETH_QP_DB.addr n % 4 = 0 ∧ inBlock (Reg.ETH_QP_DB.addr n)) ∧
    Reg.ETH_QP_SEL_QP.addr n % 4 = 0 ∧ inBlock (Reg.ETH_QP_SEL_QP.addr n) := by
  simp only [inBlock, Fld.addr, Reg.ETH_QP_DB, Reg.ETH_QP_SEL_QP]
  omega

theorem exec_qpDb_open (hn : n < 2) (ho : Open s ag (Reg.ETH_QP_DB.addr n)) : exec (.qpDb ag n v) s =
    .next (fxQpDb n (v % 2 ^ 32) (stored ag (Reg.ETH_QP_DB.addr n) (v % 2 ^ 32) s)) := by
  obtain ⟨⟨h4, hblock⟩, -⟩ := ethAddr n
  show execQpDb ag n v s = _
  rw [execQpDb, onUnit, if_pos (ethOk_of_lt hn), agentWrite_open ho h4 hblock.2, Nat.mod_mod]

theorem exec_qpSelWrite_open (hn : n < 2) (ho : Open s ag (Reg.ETH_QP_SEL_QP.addr n)) : exec (.qpSelWrite ag n v) s =
    .next (fxQpSel n s (stored ag (Reg.ETH_QP_SEL_QP.addr n) (v % 2 ^ 32) s)) := by
  obtain ⟨-, h4, hblock⟩ := ethAddr n
  show execQpSelWrite ag n v s = _
  rw [execQpSelWrite, onUnit, if_pos (ethOk_of_lt hn), agentWrite_open ho h4 hblock.2, Nat.mod_mod]

theorem qpair_setQpair_same (s : State) (n q : Nat) (x : QPair) : qpair (setQpair s n q x) n q = x := tget_tset_same _ _ _ _

theorem qpair_congr {s t : State} (h : t.hst = s.hst) (n q : Nat) : qpair t n q = qpair s n q := by
  rw [qpair, h]
  rfl

/-- A doorbell moves its queue pair's tail, and that alone of the pair (R363). -/
theorem fxQpDb_moves (s : State) (n v : Nat) (ag : Agent) (hq : v % 512 ≠ 0) :
    let t := fxQpDb n v (stored ag (Reg.ETH_QP_DB.addr n) v s)
    qpair t n (v % 512) = { qpair s n (v % 512) with tail := v / 512 % 2 ^ 23 } := by
  have hpair := qpair_congr (s := s) (t := stored ag (Reg.ETH_QP_DB.addr n) v s)
    (by rw [(stored_regsWithin ag (ethAddr n).1.2.1 v s).only]) n (v % 512)
  intro t
  rw [show t = setQpair _ n (v % 512) _ from if_neg hq, qpair_setQpair_same, hpair]

/-- A work request that its queue pair takes up (R363). -/
structure EthReady (s : State) (n q : Nat) (w : EthWr) : Prop where
  port : n < 2
  pair : 1 ≤ q ∧ q < 512
  awake : awake s = true
  open_ : intakeStopped s = false
  up : rd s Reg.ETH_LINK_STAT_UP n = 1
  sound : (qpair s n q).err = false
  some : (qpair s n q).head ≠ (qpair s n q).tail
  length : 1 ≤ w.len ∧ w.len ≤ 2 ^ 31

/-- The work with its range filled. -/
def ethFilled (u : State) (n q : Nat) (w : EthWr) (op p : Nat) (write : Bool) (f : State → Nat → State) : State :=
  match probe u p (w.laddr % 2 ^ 52) w.len write with
  | .flt _ kind _ => ethDone (told u p (pagesOf (w.laddr % 2 ^ 52) w.len)) n q w op (0x40 + kind)
  | .wait _ => ethDone u n q w op 0x45
  | .ok =>
    if !grantedRange u p (w.laddr % 2 ^ 52) w.len then u
    else ethFrames (ethDone (f (chargePb (drawRange u p (w.laddr % 2 ^ 52) w.len) p w.len) (w.laddr % 2 ^ 52)) n q w op 0) n w.len (!write)

theorem ethWork_ready {w : EthWr} (h : EthReady s n q w) (op : Nat) (write : Bool) (f : State → Nat → State) :
    ethWork n q w op write s f = .next (ethFilled (fillRange s (qpair s n q).part (w.laddr % 2 ^ 52) w.len) n q w op
      (qpair s n q).part write f) := by
  have hunit : (ethOk n && decide (1 ≤ q) && decide (q < 512)) = true := by
    rw [ethOk_of_lt h.port, decide_eq_true h.pair.1, decide_eq_true h.pair.2]
    rfl
  rw [ethWork, onUnit_live hunit h.awake]
  refine congrArg Host.Outcome.next (if_neg ?_)
  rintro (e | e | e | e | e | e)
  · rw [h.open_] at e
    cases e
  · rw [h.up] at e
    cases e
  · rw [h.sound] at e
    cases e
  · exact h.some e
  · have := h.length.1
    omega
  · exact absurd h.length.2 (Nat.not_le.2 e)

section Filled

variable {u : State} {w : EthWr} {op p : Nat} {write : Bool}

theorem ethFilled_done (hok : probe u p (w.laddr % 2 ^ 52) w.len write = .ok)
    (hgrant : grantedRange u p (w.laddr % 2 ^ 52) w.len = true) (f : State → Nat → State) : ethFilled u n q w op p write f =
      ethFrames (ethDone (f (chargePb (drawRange u p (w.laddr % 2 ^ 52) w.len) p w.len) (w.laddr % 2 ^ 52)) n q w op 0) n w.len (!write) := by
  rw [ethFilled, hok]
  exact if_neg (by rw [hgrant]; decide)

theorem ethFilled_faults {g kind sub : Nat} (hflt : probe u p (w.laddr % 2 ^ 52) w.len write = .flt g kind sub)
    (f : State → Nat → State) : ethFilled u n q w op p write f =
      ethDone (told u p (pagesOf (w.laddr % 2 ^ 52) w.len)) n q w op (0x40 + kind) := by
  rw [ethFilled, hflt]

end Filled

theorem paid_hst (u : State) (p a n : Nat) : (chargePb (drawRange u p a n) p n).hst = u.hst := by
  show (drawRange u p a n).hst = u.hst
  rw [(onlyBuckets_drawRange u p a n).eq]

theorem ethWord_noInt {k : Nat} (hk : k < 2) (hn : n < 2) : NoIntWord (0x48 + n) k (Reg.ETH_LINK_STAT_UP.addr n) := by
  refine noIntWord_of_block ?_ ?_ (.inr ?_)
  · interval_cases n <;> interval_cases k <;> decide
  all_goals simp only [Fld.addr, Reg.ETH_LINK_STAT_UP]; omega

/-- A pause on a priority, and its count (R362). -/
def pausedOn (s : State) (n pri : Nat) : State := bump { s with hst := { s.hst with
  pfc := tset (fun _ => 0) s.hst.pfc n (tget (fun _ => 0) s.hst.pfc n ||| 2 ^ pri) } } Reg.ETH_PFC_PAUSE n 1

theorem pausedOn_state (s : State) (n pri : Nat) : (tget (fun _ => 0) (pausedOn s n pri).hst.pfc n).testBit pri = true ∧
    rd (pausedOn s n pri) Reg.ETH_PFC_PAUSE n = min (rd s Reg.ETH_PFC_PAUSE n + 1) (2 ^ Reg.ETH_PFC_PAUSE.w - 1) := by
  refine ⟨?_, rd_bump_same _ _ _ _ (fits_of_le (by decide))⟩
  show (tget (fun _ => 0) (tset (fun _ => 0) s.hst.pfc n _) n).testBit pri = true
  rw [tget_tset_same, Nat.testBit_or, Nat.testBit_two_pow_self, Bool.or_true]

end Ethernet

/-- Settles O45. -/
theorem capacityAndEthernet : Obligations.CapacityAndEthernet := by
  unfold Obligations.CapacityAndEthernet
  refine ⟨⟨fun s ag n d hn ho => ?_, fun s n hn hawake => ⟨fun fatal hup hmigs => ⟨_, exec_capOffline_of hn hawake hup hmigs fatal,
    capDown_state hn s fatal⟩, fun x hdown hcause hframes => ⟨fun hsame => ?_, fun hother => ?_⟩⟩⟩,
    fun s ag n v hn => ⟨fun ho => ?_, exec_qpSelWrite_open hn⟩, fun s n q w data hn hq1 hq hawake => ?_, fun s n hn hawake => ?_⟩
  · intro u t was
    obtain ⟨hup, hcause, hframes⟩ := capScan_finds u n d
    refine ⟨exec_rescan_open hn ho d, fun hthere hgood => ?_, fun hgone => ?_⟩
    · have hboth : (d.present && d.fault == 0) = true := by rw [hthere, hgood]; rfl
      rw [hboth] at hup hcause hframes
      exact ⟨hup, hcause, hframes⟩
    · have hnone : (d.present && d.fault == 0) = false := by rw [hgone]; rfl
      rw [hnone] at hup hcause hframes
      rw [hgone] at hcause
      exact ⟨hup, hcause, hframes⟩
  · exact ⟨_, (exec_capRetrain_of hn hawake hdown hcause hframes x).trans (congrArg Host.Outcome.next (if_pos hsame)), capBack_own hn s⟩
  · refine ⟨_, (exec_capRetrain_of hn hawake hdown hcause hframes x).trans (congrArg Host.Outcome.next (if_neg hother)), ?_, ?_, rfl,
      fun a ha => rw_wr_ne _ _ _ _ _ (List.ne_of_not_mem_cons ha)⟩
    · exact (rd_wr_bits _ _ _ _ (by decide) (by decide)).trans hdown
    · exact rd_wr_self _ _ _ (by decide)
  · intro u q
    refine ⟨exec_qpDb_open hn ho, fun hq => ⟨_, exec_qpDb_open hn ho, ?_⟩⟩
    have hpair := fxQpDb_moves s n (v % 2 ^ 32) ag hq
    have htail : v % 2 ^ 32 / 512 % 2 ^ 23 = v / 512 % 2 ^ 23 := by omega
    dsimp only
    rw [show qpair (fxQpDb n (v % 2 ^ 32) _) n q = _ from hpair]
    exact ⟨htail, rfl, rfl⟩
  · intro x p a hopen hup hsound hsome hlen hmax u paid got
    have hready : EthReady s n q w := ⟨hn, ⟨hq1, hq⟩, hawake, hopen, hup, hsound, hsome, hlen, hmax⟩
    have hpart : (qpair paid n q).part = p := by
      rw [qpair_congr ((paid_hst u p a w.len).trans (fillRange_hst s p a w.len))]
    refine ⟨fun hgrant => ⟨fun hok => ⟨?_, ?_⟩, fun hok => ?_⟩, fun g kind sub hflt => ?_⟩
    · exact (ethWork_ready hready 1 false _).trans (congrArg Host.Outcome.next (ethFilled_done hok hgrant _))
    · exact (ethWork_ready hready 3 false _).trans (congrArg Host.Outcome.next (ethFilled_done hok hgrant _))
    · have hexec := (ethWork_ready hready 2 true fun s a =>
        let p := (qpair s n q).part
        let l := (data ++ (List.range (w.len - data.length)).map fun k => (Config.outsideByte s.fv 0x43 k).toNat).take w.len
        fresh (memWrite (abortOnWrite (takeLines s p a w.len) p a w.len) p a w.len (leNum l))).trans
          (congrArg Host.Outcome.next (ethFilled_done hok hgrant _))
      dsimp only at hexec
      rw [show (qpair (chargePb (drawRange _ _ _ _) _ _) n q).part = p from hpart] at hexec
      exact hexec
    · exact (ethWork_ready hready 3 false _).trans (congrArg Host.Outcome.next (ethFilled_faults hflt _))
  · refine ⟨fun hdown hen => ⟨_, ?_, rfl, ?_⟩, fun hup => ⟨_, ?_, rfl, ?_⟩, fun pri hpri => ⟨pausedOn s n pri, ?_, pausedOn_state s n pri⟩⟩
    · show execEthLinkChange n true s = _
      rw [execEthLinkChange, onUnit_live (ethOk_of_lt hn) hawake]
      exact congrArg Host.Outcome.next ((if_pos rfl).trans (if_pos ⟨hdown, hen⟩))
    · rw [rd_raiseInt (ethWord_noInt (by decide) hn), rd_wr_self _ _ _ (by decide)]
      rfl
    · show execEthLinkChange n false s = _
      rw [execEthLinkChange, onUnit_live (ethOk_of_lt hn) hawake]
      exact congrArg Host.Outcome.next ((if_neg Bool.false_ne_true).trans (if_pos hup))
    · rw [rd_raiseInt (ethWord_noInt (by decide) hn), rd_wr_self _ _ _ (by decide)]
      rfl
    · have hunit : (ethOk n && decide (pri < 8)) = true := by
        rw [ethOk_of_lt hn, decide_eq_true hpri]
        rfl
      show execPfcPauseFrameReceive n pri s = _
      rw [execPfcPauseFrameReceive, onUnit_live hunit hawake]
      rfl

end Sys2Proof.Machine

/-! Sensors, droops, process monitors and the power estimate (R368 to R373, R404). -/

namespace Sys2Proof.Machine

/-! ### Register files and pairs -/

section Each

variable {f : Fld} {i : Nat} {step : State → Nat → State}

/-- A field that only its own turn may change keeps its value over a list without it. -/
theorem rd_eachOf_ne (hstep : ∀ s j, j ≠ i → rd (step s j) f i = rd s f i) {l : List Nat} (hi : i ∉ l) (s : State) :
    rd (eachOf l s step) f i = rd s f i := by
  induction l generalizing s with
  | nil => rfl
  | cons j l ih =>
    obtain ⟨hj, hl⟩ := not_or.1 (mt List.mem_cons.2 hi)
    exact (ih hl _).trans (hstep s j (Ne.symm hj))

/-- A field that only its own turn may change is what that turn leaves. -/
theorem rd_eachOf_at (hstep : ∀ s j, j ≠ i → rd (step s j) f i = rd s f i) {l : List Nat} (hl : l.Nodup) (hi : i ∈ l)
    (s : State) : ∃ u, rd u f i = rd s f i ∧ rd (eachOf l s step) f i = rd (step u i) f i := by
  induction l generalizing s with
  | nil => cases hi
  | cons j l ih =>
    obtain ⟨hj, hl⟩ := List.nodup_cons.1 hl
    by_cases e : i = j
    · subst e
      exact ⟨s, rfl, rd_eachOf_ne hstep hj _⟩
    · obtain ⟨u, hu, hend⟩ := ih hl ((List.mem_cons.1 hi).resolve_left e) (step s j)
      exact ⟨u, hu.trans (hstep s j (Ne.symm e)), hend⟩

end Each

/-- A register pair that counts reads what it has counted (R4). -/
theorem rd2_bump2 {lo hi : Fld} {i : Nat} (hlo : lo.lo + lo.w ≤ 32) (hhi : hi.lo + hi.w ≤ 32) (hwl : lo.w = 32) (hwh : hi.w = 32)
    (hne : lo.addr i ≠ hi.addr i) (s : State) (n : Nat) :
    rd2 (bump2 s lo hi i n) lo hi i = min (rd2 s lo hi i + n) (2 ^ 64 - 1) := by
  rw [bump2, wr2]
  generalize min (rd2 s lo hi i + n) (2 ^ 64 - 1) = v, (min_le_right _ _ : min (rd2 s lo hi i + n) (2 ^ 64 - 1) ≤ 2 ^ 64 - 1) = hv
  rw [rd2, rd_wr_ne _ _ _ _ _ _ hne, rd_wr_self _ _ _ hlo, rd_wr_self _ _ _ hhi, hwl, hwh]
  omega

/-! ### Temperature readings -/

section Readings

variable {s : State} {k : Nat} {raw : Int}

/-- The samples in a row that have read the same while the sensor's island runs (R369). -/
def sameReadings (k : Nat) (raw : Int) (s : State) : Nat :=
  if decide (rd s Reg.SCL_TEMP_VAL k = toField 12 raw) && (decide (k < 160) && rd s Reg.ISL_WV_STAT_RUN (k / 5) == 1) then
    tget (fun _ => 0) s.pow.same k + 1 else 0

/-- The sensor is marked invalid (R369). -/
def readingBad (k : Nat) (raw : Int) (s : State) : Bool :=
  decide (raw < -320) || decide (raw > 1200) || decide (sameReadings k raw s ≥ 500) ||
    (tget (fun _ => false) s.pow.bad k && decide (rd s Reg.SCL_TEMP_VAL k = toField 12 raw))

/-- The reading and whether it is valid stand. -/
def readingTaken (k : Nat) (raw : Int) (s : State) : State :=
  wr (wr (setPow s { s.pow with
      same := tset (fun _ => 0) s.pow.same k (sameReadings k raw s)
      bad := tset (fun _ => false) s.pow.bad k (readingBad k raw s) })
    Reg.SCL_TEMP_VAL k (toField 12 raw)) Reg.SCL_TEMP_VALID k (oneIf !readingBad k raw s)

/-- The invalid sensors are counted; more than sixteen interrupt (R369). -/
def badsCounted (s : State) : State :=
  let c := (s.pow.bad.filter fun e => e.2).length
  wr (if rd s Reg.SCL_BAD_CNT 0 ≤ 16 ∧ c > 16 then raiseInt (raiseInt s 0x08 5) 0x09 0 else s) Reg.SCL_BAD_CNT 0 c

theorem exec_tempSample (hawake : awake s = true) (hk : k < 176) :
    exec (.tempSample k raw) s = .next (judgeTemps (badsCounted (readingTaken k raw s))) := by
  show execTempSample k raw s = _
  rw [execTempSample, onUnit_live (decide_eq_true hk) hawake]
  rfl

theorem tempWord_noInt (hk : k < 176) {pg n : Nat} (hv : vectorOf pg n < 64) : NoIntWord pg n (Reg.SCL_TEMP_VAL.addr k) := by
  have ha : Reg.SCL_TEMP_VAL.addr k = 0x9100 + k * 4 := rfl
  exact noIntWord_of_block hv (by omega) (.inl (by omega))

theorem badsCounted_signals (s : State) :
    Signals (fun a => ∃ k < 176, a = Reg.SCL_TEMP_VAL.addr k) s (badsCounted s) := by
  have hcount : ¬∃ k < 176, Reg.SCL_BAD_CNT.addr 0 = Reg.SCL_TEMP_VAL.addr k := by
    rintro ⟨k, hk, e⟩
    simp only [Fld.addr, Reg.SCL_BAD_CNT, Reg.SCL_TEMP_VAL] at e
    omega
  refine .trans (.ite ?_ (.refl s)) (.wr hcount _ _)
  refine ((raiseInt_signals s 0x08 5).weaken ?_).trans ((raiseInt_signals _ 0x09 0).weaken ?_) <;>
    · rintro _ ⟨k, hk, rfl⟩
      exact tempWord_noInt hk (by decide)

theorem rw_badsCounted (hk : k < 176) (s : State) :
    rw (badsCounted s) (Reg.SCL_TEMP_VAL.addr k) = rw s (Reg.SCL_TEMP_VAL.addr k) :=
  (badsCounted_signals s).words _ ⟨k, hk, rfl⟩

theorem badsCounted_pow (s : State) : (badsCounted s).pow = s.pow := by rw [(badsCounted_signals s).only]

theorem rd_temp_taken (hk : k < 176) :
    rd (badsCounted (readingTaken k raw s)) Reg.SCL_TEMP_VAL k = toField 12 raw ∧
    rd (badsCounted (readingTaken k raw s)) Reg.SCL_TEMP_VALID k = oneIf !readingBad k raw s := by
  have hfield : toField 12 raw < 2 ^ 12 := by
    unfold toField
    omega
  rw [rd_of_rw (rw_badsCounted hk _), rd_of_rw (f := Reg.SCL_TEMP_VALID) (rw_badsCounted hk _)]
  refine ⟨?_, ?_⟩
  · rw [readingTaken, rd_wr_bits _ _ _ _ (by decide) (.inl (by decide)), rd_wr_self _ _ _ (by decide)]
    exact Nat.mod_eq_of_lt hfield
  · rw [readingTaken, rd_wr_self _ _ _ (by decide)]
    exact oneIf_mod_two _

theorem rw_temp_other {j : Nat} (hj : j < 176) (hne : j ≠ k) :
    rw (badsCounted (readingTaken k raw s)) (Reg.SCL_TEMP_VAL.addr j) = rw s (Reg.SCL_TEMP_VAL.addr j) := by
  have hword : Reg.SCL_TEMP_VAL.addr j ≠ Reg.SCL_TEMP_VAL.addr k := by
    simp only [Fld.addr, Reg.SCL_TEMP_VAL]
    omega
  have hvalid : Reg.SCL_TEMP_VAL.addr j ≠ Reg.SCL_TEMP_VALID.addr k := hword
  rw [rw_badsCounted hj, readingTaken, rw_wr_ne _ _ _ _ _ hvalid, rw_wr_ne _ _ _ _ _ hword]
  rfl

theorem bad_taken : tget (fun _ => false) (badsCounted (readingTaken k raw s)).pow.bad k = readingBad k raw s := by
  rw [badsCounted_pow]
  exact tget_tset_same _ _ _ _

theorem readingBad_changed (hlow : -320 ≤ raw) (hhigh : raw ≤ 1200) (hne : rd s Reg.SCL_TEMP_VAL k ≠ toField 12 raw) :
    readingBad k raw s = false := by
  have hsame : decide (rd s Reg.SCL_TEMP_VAL k = toField 12 raw) = false := decide_eq_false hne
  simp [readingBad, sameReadings, hsame, hlow, hhigh]

theorem readingBad_outside (h : raw < -320 ∨ 1200 < raw) : readingBad k raw s = true := by
  rcases h with h | h <;> simp [readingBad, h]

end Readings

/-! ### Droops -/

section Droops

variable {s : State} {d m mv edges : Nat}

/-- The monitor's worst droop stands (R368). -/
def worstNoted (m mv : Nat) (s : State) : State :=
  wr s Reg.SCL_DMON_WORST m (max (rd s Reg.SCL_DMON_WORST m) (min mv 1023))

theorem rd_worstNoted : rd (worstNoted m mv s) Reg.SCL_DMON_WORST m = max (rd s Reg.SCL_DMON_WORST m) (min mv 1023) := by
  have hlt : rd s Reg.SCL_DMON_WORST m < 2 ^ 10 := rd_lt s Reg.SCL_DMON_WORST m
  rw [worstNoted, rd_wr_self _ _ _ (by decide)]
  exact Nat.mod_eq_of_lt (show _ < 2 ^ 10 by omega)

/-- The lost edges are counted, those of an island in its rounds as frozen cycles of a step (R370, R404). -/
def droopCounted (d edges : Nat) (s : State) : State :=
  let s := bump (setPow s { s.pow with droop := tset (fun _ => false) s.pow.droop d true }) Reg.SCL_DROOP d edges
  if d < 32 ∧ inRounds s d = true ∧ (ownCause s d = 0 ∨ ownCause s d = 8) then bump s Reg.ISL_FRZ_STEP d edges else s

theorem exec_droopDetect (hawake : awake s = true) (hd : d < 40) (hw : watches m d = true) :
    exec (.droopDetect d m mv edges) s = .next
      (if mv ≤ rd (worstNoted m mv s) Reg.CLK_DROOP_THR_MV d ∨ (d < 32 ∧ inGap (worstNoted m mv s) d = true) then worstNoted m mv s
      else droopCounted d edges (worstNoted m mv s)) := by
  show execDroopDetect d m mv edges s = _
  rw [execDroopDetect, onUnit_live (by rw [hw, decide_eq_true hd]; rfl) hawake]
  rfl

theorem rd_worstNoted_ne {f : Fld} {i : Nat} (h : f.addr i ≠ Reg.SCL_DMON_WORST.addr m) :
    rd (worstNoted m mv s) f i = rd s f i := rd_wr_ne _ _ _ _ _ _ h

theorem rd_threshold (hd : d < 40) (hm : m < 96) : rd (worstNoted m mv s) Reg.CLK_DROOP_THR_MV d = rd s Reg.CLK_DROOP_THR_MV d :=
  rd_worstNoted_ne (by simp only [Fld.addr, Reg.CLK_DROOP_THR_MV, Reg.SCL_DMON_WORST]; omega)

theorem inGap_worstNoted (hm : m < 96) : inGap (worstNoted m mv s) d = inGap s d := by
  have hfreq : rd (worstNoted m mv s) Reg.CLK_FREQ_MHZ d = rd s Reg.CLK_FREQ_MHZ d :=
    rd_worstNoted_ne (by simp only [Fld.addr, Reg.CLK_FREQ_MHZ, Reg.SCL_DMON_WORST]; omega)
  unfold inGap
  rw [hfreq]
  rfl

/-- An island's own counters lie above the power, scales and clock blocks. -/
theorem rd_droopCounted {f : Fld} {i : Nat} (hlow : f.addr i < 0x10000) (hne : f.addr i ≠ Reg.SCL_DROOP.addr d) :
    rd (droopCounted d edges s) f i = rd s f i := by
  have hisl : f.addr i ≠ Reg.ISL_FRZ_STEP.addr d := by simp only [Fld.addr, Reg.ISL_FRZ_STEP] at *; omega
  unfold droopCounted
  dsimp only
  split
  · rw [rd_bump_apart _ _ _ _ _ _ (.inl hisl), rd_bump_apart _ _ _ _ _ _ (.inl hne)]
    rfl
  · rw [rd_bump_apart _ _ _ _ _ _ (.inl hne)]
    rfl

theorem rd_droop_droopCounted (hd : d < 40) :
    rd (droopCounted d edges s) Reg.SCL_DROOP d = min (rd s Reg.SCL_DROOP d + edges) (2 ^ 32 - 1) := by
  have hisl : Reg.SCL_DROOP.addr d ≠ Reg.ISL_FRZ_STEP.addr d := by simp only [Fld.addr, Reg.SCL_DROOP, Reg.ISL_FRZ_STEP]; omega
  unfold droopCounted
  dsimp only
  split
  · rw [rd_bump_apart _ _ _ _ _ _ (.inl hisl), rd_bump_same _ _ _ _ (fits_of_le (by decide))]
    rfl
  · rw [rd_bump_same _ _ _ _ (fits_of_le (by decide))]
    rfl

theorem droop_droopCounted : tget (fun _ => false) (droopCounted d edges s).pow.droop d = true := by
  unfold droopCounted
  dsimp only
  split <;> exact tget_tset_same (fun _ => false) s.pow.droop d true

end Droops

/-! ### Process monitors -/

/-- A monitor's code stands. -/
def codeTaken (codes : List Nat) (s : State) (m : Nat) : State := match codes[m]? with
  | some c => wr s Reg.SCL_PMON_SPEED m c
  | none => s

theorem codeTaken_ne (codes : List Nat) (s : State) {i j : Nat} (h : j ≠ i) :
    rd (codeTaken codes s j) Reg.SCL_PMON_SPEED i = rd s Reg.SCL_PMON_SPEED i := by
  unfold codeTaken
  split
  · exact rd_wr_ne _ _ _ _ _ _ (by simp only [Fld.addr, Reg.SCL_PMON_SPEED]; omega)
  · rfl

theorem codeTaken_onlyRegs (codes : List Nat) (s : State) (m : Nat) : OnlyRegs s (codeTaken codes s m) := by
  unfold codeTaken
  split <;> rfl

theorem codesTaken_onlyRegs (codes : List Nat) (l : List Nat) (s : State) : OnlyRegs s (eachOf l s (codeTaken codes)) :=
  eachOf_rel (R := OnlyRegs) (fun _ => rfl) (fun s t u h k => by
    have e : u = { t with regs := u.regs } := k
    rw [show t = { s with regs := t.regs } from h] at e
    exact e) (fun s m => codeTaken_onlyRegs codes s m) l s

theorem rd_codesTaken (codes : List Nat) (s : State) {m : Nat} (hm : m < 48) :
    rd (eachOf (List.range 48) s (codeTaken codes)) Reg.SCL_PMON_SPEED m =
      match codes[m]? with | some c => c % 2 ^ 16 | none => rd s Reg.SCL_PMON_SPEED m := by
  obtain ⟨u, hu, hend⟩ := rd_eachOf_at (fun s j => codeTaken_ne codes s) List.nodup_range (List.mem_range.2 hm) s
  rw [hend, codeTaken]
  split
  · exact rd_wr_self _ _ _ (by decide)
  · exact hu

theorem exec_pmonRead (s : State) (codes : List Nat) (hawake : awake s = true) (hrun : rimRuns s = true) :
    exec (.pmonRead codes) s = .next (followRails (eachOf (List.range 48) s (codeTaken codes))) := by
  show execPmonRead codes s = _
  rw [execPmonRead, live, if_pos hawake, hrun]
  rfl

/-! ### The power estimate -/

theorem exec_powerEstimate (s : State) (w avg : Nat) (hawake : awake s = true) :
    exec (.powerEstimate w avg) s = .next (wr (bump2 (setPow s { s.pow with energyUj := (s.pow.energyUj + w) % 1000 })
      Reg.PWR_ENERGY_LO Reg.PWR_ENERGY_HI 0 ((s.pow.energyUj + w) / 1000)) Reg.PWR_PKG_W 0 (min avg 0xFFFF)) := by
  show execPowerEstimate w avg s = _
  rw [execPowerEstimate, live, if_pos hawake]

/-- Settles O46: a reading of a sensor, a droop, the monitors' codes and an estimate each write their own registers. -/
theorem powerReadings : Obligations.PowerReadings := by
  unfold Obligations.PowerReadings
  intro s hawake
  refine ⟨?_, ?_, ?_, ?_, ?_, ?_, ?_⟩
  · intro k raw hk hlow hhigh hne
    have hgood := readingBad_changed hlow hhigh hne
    obtain ⟨hval, hvalid⟩ := rd_temp_taken (s := s) (raw := raw) hk
    refine ⟨_, exec_tempSample hawake hk, hval, ?_, fun j hj hjk => rw_temp_other hj hjk, bad_taken.trans hgood⟩
    rw [hvalid, hgood]
    rfl
  · intro k raw hk hout
    have hbad := readingBad_outside (s := s) (k := k) hout
    refine ⟨_, exec_tempSample hawake hk, ?_, bad_taken.trans hbad⟩
    rw [(rd_temp_taken (s := s) (raw := raw) hk).2, hbad]
    rfl
  · intro d m mv edges hd hm hw hmv
    refine ⟨worstNoted m mv s, ?_, rd_worstNoted, rfl, fun a ha => rw_wr_ne _ _ _ _ _ (by simpa using ha)⟩
    rw [exec_droopDetect hawake hd hw, rd_threshold hd hm, if_pos (.inl hmv)]
  · intro d m mv edges hd hm hw hmv hgap
    refine ⟨droopCounted d edges (worstNoted m mv s), ?_, ?_, ?_, droop_droopCounted⟩
    · have hnot : ¬(mv ≤ rd s Reg.CLK_DROOP_THR_MV d ∨ (d < 32 ∧ inGap s d = true)) := by
        rintro (h | ⟨hd', h⟩)
        · omega
        · rcases hgap with hgap | hgap
          · omega
          · exact Bool.noConfusion (hgap.symm.trans h)
      rw [exec_droopDetect hawake hd hw, rd_threshold hd hm, inGap_worstNoted hm, if_neg hnot]
    · rw [rd_droopCounted, rd_worstNoted] <;> simp only [Fld.addr, Reg.SCL_DMON_WORST, Reg.SCL_DROOP] <;> omega
    · rw [rd_droop_droopCounted hd, rd_worstNoted_ne (by simp only [Fld.addr, Reg.SCL_DMON_WORST, Reg.SCL_DROOP]; omega)]
  · intro d hd
    refine ⟨setPow s { s.pow with droop := tset (fun _ => false) s.pow.droop d false }, ?_,
      tget_tset_same (fun _ => false) s.pow.droop d false, fun j hj => tget_tset_ne (fun _ => false) s.pow.droop false hj, rfl⟩
    show execDroopRecovery d s = _
    rw [execDroopRecovery, onUnit_live (decide_eq_true hd) hawake]
  · intro codes hrun
    exact ⟨_, exec_pmonRead s codes hawake hrun, codesTaken_onlyRegs codes _ s, fun m hm => rd_codesTaken codes s hm⟩
  · intro w avg
    refine ⟨_, exec_powerEstimate s w avg hawake, ?_⟩
    beta_reduce
    intro e
    refine ⟨?_, rfl, ?_⟩
    · rw [rd2, rd_wr_ne _ _ _ _ _ _ (by decide), rd_wr_ne _ _ _ _ _ _ (by decide)]
      exact rd2_bump2 (by decide) (by decide) rfl rfl (by decide) (setPow s _) _
    · rw [rd_wr_self _ _ _ (by decide)]
      exact Nat.mod_eq_of_lt (show _ < 2 ^ 16 by omega)

end Sys2Proof.Machine

/-! The package point, duty and thermal targets (R374 to R377, R380). -/

namespace Sys2Proof.Machine

/-! ### The highest point that meets a cap -/

/-- What a search from the highest number down finds. -/
theorem find?_reverse_range {n i : Nat} {p : Nat → Bool} (h : (List.range n).reverse.find? p = some i) :
    i < n ∧ p i = true ∧ ∀ j, i < j → j < n → p j = false := by
  induction n with
  | zero => cases h
  | succ n ih =>
    rw [List.range_succ, List.reverse_append, List.reverse_singleton, List.singleton_append, List.find?_cons] at h
    split at h
    · next hn =>
      cases h
      exact ⟨Nat.lt_succ_self _, hn, fun j h1 h2 => by omega⟩
    · next hn =>
      obtain ⟨hlt, hi, hrest⟩ := ih h
      refine ⟨Nat.lt_succ_of_lt hlt, hi, fun j hij hj => ?_⟩
      rcases Nat.lt_succ_iff_lt_or_eq.1 hj with hj | rfl
      · exact hrest j hij hj
      · exact hn

theorem bestPoint_spec {s : State} {est : List Nat} {cap f : Nat} (h : bestPoint s est cap = some f) :
    10 ≤ f ∧ f ≤ gradeMax s ∧ (∃ w, est[f - 10]? = some w ∧ w ≤ cap) ∧
      ∀ g, f < g → g ≤ gradeMax s → ∀ w, est[g - 10]? = some w → cap < w := by
  obtain ⟨i, hi, rfl⟩ := Option.map_eq_some_iff.1 h
  obtain ⟨hlt, hmeets, hlast⟩ := find?_reverse_range hi
  refine ⟨Nat.le_add_left _ _, by omega, ?_, fun g hfg hg w hw => ?_⟩
  · rw [Nat.add_sub_cancel]
    split at hmeets
    · next w hw => exact ⟨w, hw, of_decide_eq_true hmeets⟩
    · cases hmeets
  · have hfails := hlast (g - 10) (by omega) (by omega)
    rw [hw] at hfails
    exact Nat.lt_of_not_le (of_decide_eq_false hfails)

theorem leastDuty_lt {duty : List Nat} {lim d : Nat} (h : leastDuty duty lim = some d) : d < 16 :=
  List.mem_range.1 (List.mem_of_find?_eq_some h)

/-! ### Commands -/

section Commands

variable {s : State}

theorem overrun_within (h : rd s Reg.PWR_PKG_W 0 ≤ rd s Reg.PWR_EFF_CAP 0) : overrun s = s := if_pos h

/-- What an evaluation does once the excess is counted and where the firmware runs (R374 to R376, R378). -/
def capJudged (est duty : List Nat) (u : State) : State :=
  if rd u Reg.PWR_STAT_BRAKE 0 = 1 then
    if rd u Reg.PWR_STAT_DEEP 0 = 1 then u
    else match leastDuty duty (rd u Reg.PWR_CAP_CTRL_LIMIT 0 * 40 / 100) with
      | some d => setPow (wr u Reg.PWR_STAT_D 0 d) { u.pow with full := false }
      | none => setPow u { u.pow with full := true }
  else match bestPoint u est (rd u Reg.PWR_EFF_CAP 0) with
    | some f => replan (if f < rd u Reg.PWR_STAT_POINT 0
        then wr (setPow u { u.pow with want := 0 }) Reg.PWR_STAT_POINT 0 f else setPow u { u.pow with want := 0 })
    | none => replan (wr (setPow (wr u Reg.PWR_STAT_D 0
        (max ((leastDuty duty (rd u Reg.PWR_EFF_CAP 0)).getD 15) (rd u Reg.PWR_STAT_D 0)))
        { u.pow with want := (leastDuty duty (rd u Reg.PWR_EFF_CAP 0)).getD 15 }) Reg.PWR_STAT_POINT 0 10)

theorem exec_capEvaluation (hawake : awake s = true) (hrun : rimRuns (overrun s) = true) (est duty : List Nat) :
    exec (.capEvaluation est duty) s = .next (capJudged est duty (overrun s)) := by
  show execCapEvaluation est duty s = _
  rw [execCapEvaluation, live, if_pos hawake]
  exact congrArg Host.Outcome.next (if_neg (by rw [hrun]; decide))

theorem capJudged_point {est duty : List Nat} {f : Nat} (hbrake : rd s Reg.PWR_STAT_BRAKE 0 = 0)
    (hbest : bestPoint s est (rd s Reg.PWR_EFF_CAP 0) = some f) :
    capJudged est duty s = replan (if f < rd s Reg.PWR_STAT_POINT 0
      then wr (setPow s { s.pow with want := 0 }) Reg.PWR_STAT_POINT 0 f else setPow s { s.pow with want := 0 }) := by
  rw [capJudged, if_neg (by omega), hbest]

theorem capJudged_duty {est duty : List Nat} (hbrake : rd s Reg.PWR_STAT_BRAKE 0 = 0)
    (hbest : bestPoint s est (rd s Reg.PWR_EFF_CAP 0) = none) :
    let d := (leastDuty duty (rd s Reg.PWR_EFF_CAP 0)).getD 15
    capJudged est duty s = replan (wr (setPow (wr s Reg.PWR_STAT_D 0 (max d (rd s Reg.PWR_STAT_D 0)))
      { s.pow with want := d }) Reg.PWR_STAT_POINT 0 10) := by
  rw [capJudged, if_neg (by omega), hbest]

theorem capJudged_braked {est duty : List Nat} {d : Nat} (hbrake : rd s Reg.PWR_STAT_BRAKE 0 = 1)
    (hdeep : rd s Reg.PWR_STAT_DEEP 0 = 0) (hd : leastDuty duty (rd s Reg.PWR_CAP_CTRL_LIMIT 0 * 40 / 100) = some d) :
    capJudged est duty s = setPow (wr s Reg.PWR_STAT_D 0 d) { s.pow with full := false } := by
  rw [capJudged, if_pos hbrake, if_neg (by omega), hd]

theorem exec_pointRaise {est : List Nat} {w : Nat} (hawake : awake s = true) (hrun : rimRuns s = true)
    (hbrake : rd s Reg.PWR_STAT_BRAKE 0 = 0) (hgrade : rd s Reg.PWR_STAT_POINT 0 < gradeMax s)
    (hest : est[rd s Reg.PWR_STAT_POINT 0 - 9]? = some w) (hw : w ≤ rd s Reg.PWR_EFF_CAP 0) :
    exec (.pointRaise est) s = .next (replan (wr s Reg.PWR_STAT_POINT 0 (rd s Reg.PWR_STAT_POINT 0 + 1))) := by
  have hmeets : (match est[rd s Reg.PWR_STAT_POINT 0 - 9]? with
      | some w => decide (w ≤ rd s Reg.PWR_EFF_CAP 0) | none => false) = true := by
    rw [hest]
    exact decide_eq_true hw
  show execPointRaise est s = _
  rw [execPointRaise, live, if_pos hawake]
  exact congrArg Host.Outcome.next (if_pos ⟨hrun, hbrake, hgrade, hmeets⟩)

theorem exec_dutyStep (hawake : awake s = true) (hrun : rimRuns s = true) (hbrake : rd s Reg.PWR_STAT_BRAKE 0 = 0)
    (hwant : s.pow.want < rd s Reg.PWR_STAT_D 0) :
    exec .dutyStep s = .next (wr s Reg.PWR_STAT_D 0 (rd s Reg.PWR_STAT_D 0 - 1)) := by
  show execDutyStep s = _
  rw [execDutyStep, live, if_pos hawake]
  exact congrArg Host.Outcome.next (if_pos ⟨hbrake, hwant, hrun⟩)

/-- The grade stands in the clock page's header, which no target's register is. -/
theorem gradeMax_target {p : Nat} (hp : p < 8) (n : Nat) : gradeMax (wr s Reg.PWR_TTGT p n) = gradeMax s := by
  have hgrade : rd (wr s Reg.PWR_TTGT p n) Reg.HDR_CAPS_GRADE 0x0A = rd s Reg.HDR_CAPS_GRADE 0x0A :=
    rd_wr_ne _ _ _ _ _ _ (by simp only [Fld.addr, Reg.HDR_CAPS_GRADE, Reg.PWR_TTGT]; omega)
  rw [gradeMax, hgrade, gradeMax]

theorem exec_thermalTargetFall {p : Nat} (hawake : awake s = true) (hp : p < 8)
    (hhot : partHot s p (8 * rd s Reg.PWR_THERM_THROT 0) = true) :
    let n := max 10 (min (rd s Reg.PWR_TTGT p) (weaveFreq s p) - 1)
    let w := wr s Reg.PWR_TTGT p n
    exec (.thermalTargetFall p) s =
      .next (replan (if rd s Reg.PWR_TTGT p = gradeMax s ∧ n < rd s Reg.PWR_TTGT p then raiseInt w 0x08 1 else w)) := by
  intro n w
  show execThermalTargetFall p s = _
  rw [execThermalTargetFall, onUnit_live (decide_eq_true hp) hawake, ← gradeMax_target hp n]
  exact congrArg Host.Outcome.next (if_neg (by rw [hhot]; decide))

theorem exec_thermalTargetFall_cool {p : Nat} (hawake : awake s = true) (hp : p < 8)
    (hhot : partHot s p (8 * rd s Reg.PWR_THERM_THROT 0) = false) : exec (.thermalTargetFall p) s = .next s := by
  show execThermalTargetFall p s = _
  rw [execThermalTargetFall, onUnit_live (decide_eq_true hp) hawake]
  exact congrArg Host.Outcome.next (if_pos (by rw [hhot]; rfl))

theorem exec_thermalTargetRise {p : Nat} (hawake : awake s = true) (hp : p < 8)
    (hhot : partHot s p (8 * rd s Reg.PWR_THERM_THROT 0 - 24) = false) (hgrade : rd s Reg.PWR_TTGT p < gradeMax s) :
    exec (.thermalTargetRise p) s = .next (replan (wr s Reg.PWR_TTGT p (rd s Reg.PWR_TTGT p + 1))) := by
  have hgo : ¬(partHot s p (8 * rd s Reg.PWR_THERM_THROT 0 - 24) = true ∨ rd s Reg.PWR_TTGT p ≥ gradeMax s) := by
    rw [hhot]
    exact fun h => h.elim Bool.noConfusion fun h => by omega
  show execThermalTargetRise p s = _
  rw [execThermalTargetRise, onUnit_live (decide_eq_true hp) hawake]
  exact congrArg Host.Outcome.next (if_neg hgo)

end Commands

/-- Settles O47: each command's branch, and the search for the point from the highest down. -/
theorem powerControl : Obligations.PowerControl := by
  unfold Obligations.PowerControl
  intro s hawake u cap
  refine ⟨?_, ?_, ?_, overrun_within, ?_, ?_, ?_, ?_, ?_, fun est f => bestPoint_spec⟩
  · intro est duty f hrun hbrake hbest
    rw [exec_capEvaluation hawake hrun, capJudged_point hbrake hbest]
  · intro est duty hrun hbrake hbest d
    rw [exec_capEvaluation hawake hrun, capJudged_duty hbrake hbest]
  · intro est duty d hrun hbrake hdeep hd
    refine ⟨_, (exec_capEvaluation hawake hrun est duty).trans (congrArg Host.Outcome.next (capJudged_braked hbrake hdeep hd)),
      ?_, rfl⟩
    exact (rd_wr_self u (f := Reg.PWR_STAT_D) 0 d (by decide)).trans (Nat.mod_eq_of_lt (leastDuty_lt hd))
  · intro est w hrun hbrake hgrade hest hw
    exact exec_pointRaise hawake hrun hbrake hgrade hest hw
  · intro hbrake hwant hrun
    have hlt : rd s Reg.PWR_STAT_D 0 < 2 ^ 4 := rd_lt s Reg.PWR_STAT_D 0
    refine ⟨_, exec_dutyStep hawake hrun hbrake hwant, ?_, rfl, fun a ha => rw_wr_ne _ _ _ _ _ (by simpa using ha)⟩
    rw [rd_wr_self _ _ _ (by decide)]
    exact Nat.mod_eq_of_lt (show _ < 2 ^ 4 by omega)
  · intro p hp hhot
    exact exec_thermalTargetFall hawake hp hhot
  · intro p hp hhot
    exact exec_thermalTargetFall_cool hawake hp hhot
  · intro p hp hhot hgrade
    exact exec_thermalTargetRise hawake hp hhot hgrade

end Sys2Proof.Machine

/-! Brakes, the heartbeat and the caps (R374, R378, R381, R383). -/

namespace Sys2Proof.Machine

/-! ### The brake (R378) -/

section Brake

variable {s : State}

/-- Some brake is in force. -/
def braking (s : State) : Bool := s.pow.pin || s.pow.hot || s.pow.alert || s.pow.pfBrake || rd s Reg.PWR_STAT_SLOPE 0 == 1

/-- The brake's rise before it interrupts. -/
def brakeRaised (s : State) : State :=
  setPow (bump (wr s Reg.PWR_STAT_BRAKE 0 1) Reg.PWR_BRAKE_CNT 0 1) { s.pow with full := true }

/-- The brake's end. -/
def brakeEnded (s : State) : State :=
  let u := wr s Reg.PWR_STAT_BRAKE 0 0
  let u := if u.pow.full then wr u Reg.PWR_STAT_D 0 15 else u
  setPow u { u.pow with full := false, want := 0 }

theorem setBrake_rises (hb : braking s = true) (hwas : rd s Reg.PWR_STAT_BRAKE 0 = 0) :
    setBrake s = raiseInt (brakeRaised s) 0x08 2 :=
  if_pos (show (braking s && !(rd s Reg.PWR_STAT_BRAKE 0 == 1)) = true by rw [hb, hwas]; rfl)

theorem setBrake_stands (hb : braking s = true) (hwas : rd s Reg.PWR_STAT_BRAKE 0 = 1) : setBrake s = s :=
  (if_neg (show ¬(braking s && !(rd s Reg.PWR_STAT_BRAKE 0 == 1)) = true by rw [hb, hwas]; decide)).trans
    (if_neg (show ¬(!braking s && (rd s Reg.PWR_STAT_BRAKE 0 == 1)) = true by rw [hb]; exact Bool.false_ne_true))

theorem setBrake_ends (hb : braking s = false) (hwas : rd s Reg.PWR_STAT_BRAKE 0 = 1) : setBrake s = brakeEnded s :=
  (if_neg (show ¬(braking s && !(rd s Reg.PWR_STAT_BRAKE 0 == 1)) = true by rw [hb]; exact Bool.false_ne_true)).trans
    (if_pos (show (!braking s && (rd s Reg.PWR_STAT_BRAKE 0 == 1)) = true by rw [hb, hwas]; rfl))

/-- Registers of the power block beyond its header take no part in an interrupt. -/
theorem powerWord_noInt {a pg k : Nat} (hv : vectorOf pg k < 64) (ha : 0x8100 ≤ a) (hb : a < 0x9000) : NoIntWord pg k a :=
  noIntWord_of_block hv (by omega) (.inl (by omega))

theorem bit_cases (s : State) {f : Fld} (hw : f.w = 1) (i : Nat) : rd s f i = 0 ∨ rd s f i = 1 := by
  have := rd_lt s f i
  rw [hw] at this
  omega

theorem rd_brake_raised : rd (brakeRaised s) Reg.PWR_STAT_BRAKE 0 = 1 := by
  refine (rd_bump_apart (wr s Reg.PWR_STAT_BRAKE 0 1) _ _ _ _ _ (.inl (by decide))).trans ?_
  exact rd_wr_self s (f := Reg.PWR_STAT_BRAKE) 0 1 (by decide)

theorem rd_count_raised :
    rd (brakeRaised s) Reg.PWR_BRAKE_CNT 0 = min (rd s Reg.PWR_BRAKE_CNT 0 + 1) (2 ^ 32 - 1) := by
  refine (rd_bump_same (wr s Reg.PWR_STAT_BRAKE 0 1) _ _ _ (fits_of_le (by decide))).trans ?_
  rw [rd_wr_ne _ _ _ _ _ _ (by decide)]
  rfl

theorem rd_brake_interrupt (u : State) {f : Fld} (hlow : 0x8100 ≤ f.addr 0) (hhigh : f.addr 0 < 0x9000) {k : Nat} (hk : k < 16) :
    rd (raiseInt u 0x08 k) f 0 = rd u f 0 :=
  rd_raiseInt (powerWord_noInt (by interval_cases k <;> decide) hlow hhigh) u

/-- The brake shows while a cause holds. -/
theorem rd_brake_setBrake (hb : braking s = true) : rd (setBrake s) Reg.PWR_STAT_BRAKE 0 = 1 := by
  rcases bit_cases s (f := Reg.PWR_STAT_BRAKE) rfl 0 with h | h
  · rw [setBrake_rises hb h, rd_brake_interrupt _ (by decide) (by decide) (by decide), rd_brake_raised]
  · rw [setBrake_stands hb h, h]

/-- A brake leaves the other fields of the power block, but its own count. -/
theorem rd_setBrake_of_braking (hb : braking s = true) {f : Fld} (hlow : 0x8100 ≤ f.addr 0) (hhigh : f.addr 0 < 0x9000)
    (hapart : Reg.PWR_STAT_BRAKE.apart 0 f 0) (hcount : f.addr 0 ≠ Reg.PWR_BRAKE_CNT.addr 0) :
    rd (setBrake s) f 0 = rd s f 0 := by
  rcases bit_cases s (f := Reg.PWR_STAT_BRAKE) rfl 0 with h | h
  · rw [setBrake_rises hb h, rd_brake_interrupt _ hlow hhigh (by decide)]
    refine (rd_bump_apart (wr s Reg.PWR_STAT_BRAKE 0 1) _ _ _ _ _ (.inl hcount)).trans ?_
    exact rd_wr_apart _ _ _ _ _ _ hapart
  · rw [setBrake_stands hb h]

/-- The fields of STAT lie apart. -/
theorem stat_apart {f g : Fld} {i : Nat} (hg : g.lo + g.w ≤ 32) (d : g.lo + g.w ≤ f.lo ∨ f.lo + f.w ≤ g.lo) :
    f.apart i g i := .inr ⟨fits_of_le hg, d⟩

theorem braking_of_pin (h : s.pow.pin = true) : braking s = true := by rw [braking, h]; rfl
theorem braking_of_slope (h : rd s Reg.PWR_STAT_SLOPE 0 = 1) : braking s = true := by
  rw [braking, h]
  simp

theorem not_braking (hpin : s.pow.pin = false) (hhot : s.pow.hot = false) (halert : s.pow.alert = false)
    (hpf : s.pow.pfBrake = false) (hslope : rd s Reg.PWR_STAT_SLOPE 0 = 0) : braking s = false := by
  rw [braking, hpin, hhot, halert, hpf, hslope]
  rfl

theorem rd_brake_ended : rd (brakeEnded s) Reg.PWR_STAT_BRAKE 0 = 0 := by
  have hzero : rd (wr s Reg.PWR_STAT_BRAKE 0 0) Reg.PWR_STAT_BRAKE 0 = 0 := rd_wr_self s (f := Reg.PWR_STAT_BRAKE) 0 0 (by decide)
  unfold brakeEnded
  dsimp only
  split
  · exact (rd_wr_bits (wr s Reg.PWR_STAT_BRAKE 0 0) (f := Reg.PWR_STAT_D) (g := Reg.PWR_STAT_BRAKE) 0 0 15 (by decide)
      (.inl (by decide))).trans hzero
  · exact hzero

theorem brakeEnded_words : WordsKept s (brakeEnded s) [Reg.PWR_STAT_BRAKE.addr 0] := by
  intro a ha
  have hne : a ≠ Reg.PWR_STAT_BRAKE.addr 0 := by simpa using ha
  have hD : a ≠ Reg.PWR_STAT_D.addr 0 := hne
  unfold brakeEnded
  dsimp only
  split
  · exact (rw_wr_ne _ _ _ _ _ hD).trans (rw_wr_ne _ _ _ _ _ hne)
  · exact rw_wr_ne _ _ _ _ _ hne

theorem brakeEnded_pow : (brakeEnded s).pow = { s.pow with full := false, want := 0 } := by
  unfold brakeEnded
  dsimp only
  split <;> rfl

theorem pin_brake (s : State) : (raiseInt (brakeRaised s) 0x08 2).pow = { s.pow with full := true } := by
  rw [(raiseInt_signals _ 0x08 2).only]
  rfl

end Brake

/-! ### Slopes (R381) -/

section Slope

variable {s : State} {v : Int}

/-- The slope stands, and the seconds it has been steep or calm are counted. -/
def slopeNoted (v : Int) (s : State) : State :=
  let u := wr s Reg.PWR_STAT_SLOPE_V 0 (toField 16 (max (-32768) (min 32767 v)))
  setPow u { u.pow with
    steep := if v > 500 then u.pow.steep + 1 else 0, calm := if v ≤ 100 then u.pow.calm + 1 else 0 }

theorem rd_slopeNoted {f : Fld} (hf : f.lo + f.w ≤ 16) : rd (slopeNoted v s) f 0 = rd s f 0 :=
  rd_wr_bits s (f := Reg.PWR_STAT_SLOPE_V) 0 0 _ (by omega) (.inl hf)

theorem exec_slopeEval_first (hawake : awake s = true) (hslope : rd s Reg.PWR_STAT_SLOPE 0 = 0) :
    exec (.slopeEval v) s = .next (if (slopeNoted v s).pow.steep ≥ 2
      then setBrake (raiseInt (wr (slopeNoted v s) Reg.PWR_STAT_SLOPE 0 1) 0x08 3) else slopeNoted v s) := by
  show execSlopeEval v s = _
  rw [execSlopeEval, live, if_pos hawake]
  exact congrArg Host.Outcome.next (if_pos ((rd_slopeNoted (f := Reg.PWR_STAT_SLOPE) (by decide)).trans hslope))

theorem rd_slopeV_noted (hlow : -32768 ≤ v) (hhigh : v ≤ 32767) : rd (slopeNoted v s) Reg.PWR_STAT_SLOPE_V 0 = toField 16 v := by
  have hv : max (-32768) (min 32767 v) = v := by omega
  have hlt : toField 16 v < 2 ^ 16 := by
    unfold toField
    omega
  rw [slopeNoted, hv]
  exact (rd_wr_self s (f := Reg.PWR_STAT_SLOPE_V) 0 _ (by decide)).trans (Nat.mod_eq_of_lt hlt)

/-- The slope brake as it starts. -/
def slopeStarted (s : State) : State := raiseInt (wr s Reg.PWR_STAT_SLOPE 0 1) 0x08 3

theorem rd_slope_started : rd (slopeStarted s) Reg.PWR_STAT_SLOPE 0 = 1 := by
  rw [slopeStarted, rd_brake_interrupt _ (by decide) (by decide) (by decide), rd_wr_self _ _ _ (by decide)]
  rfl

theorem slopeBrake_shows : rd (setBrake (slopeStarted s)) Reg.PWR_STAT_SLOPE 0 = 1 ∧
    rd (setBrake (slopeStarted s)) Reg.PWR_STAT_BRAKE 0 = 1 ∧
    rd (setBrake (slopeStarted s)) Reg.PWR_STAT_SLOPE_V 0 = rd s Reg.PWR_STAT_SLOPE_V 0 := by
  have hb := braking_of_slope (rd_slope_started (s := s))
  refine ⟨?_, rd_brake_setBrake hb, ?_⟩
  · rw [rd_setBrake_of_braking hb (by decide) (by decide) (stat_apart (by decide) (.inr (by decide))) (by decide), rd_slope_started]
  · rw [rd_setBrake_of_braking hb (by decide) (by decide) (stat_apart (by decide) (.inr (by decide))) (by decide), slopeStarted,
      rd_brake_interrupt _ (by decide) (by decide) (by decide), rd_wr_bits _ _ _ _ (by decide) (.inr (by decide))]

theorem exec_deepBrakeCheck (hawake : awake s = true) (hv : 500 < v) (hslope : rd s Reg.PWR_STAT_SLOPE 0 = 1)
    (hdeep : rd s Reg.PWR_STAT_DEEP 0 = 0) :
    let u := raiseInt (wr s Reg.PWR_STAT_DEEP 0 1) 0x08 3
    exec (.deepBrakeCheck v) s = .next (replan (setPow u { u.pow with full := true })) := by
  show execDeepBrakeCheck v s = _
  rw [execDeepBrakeCheck, live, if_pos hawake]
  exact congrArg Host.Outcome.next (if_neg (by omega))

end Slope

/-! ### The heartbeat and the caps (R374, R383) -/

section Caps

variable {s : State}

theorem effCap_lt (s : State) : effCap s < 2 ^ 16 := by
  have h : rd s Reg.PWR_CAP_CTRL_LIMIT 0 < 2 ^ 16 := rd_lt s Reg.PWR_CAP_CTRL_LIMIT 0
  unfold effCap
  dsimp only
  split <;> omega

theorem rd_setCap (s : State) : rd (setCap s) Reg.PWR_EFF_CAP 0 = effCap s :=
  (rd_wr_self s (f := Reg.PWR_EFF_CAP) 0 _ (by decide)).trans (Nat.mod_eq_of_lt (effCap_lt s))

theorem rd_setCap_ne {f : Fld} {i : Nat} (h : f.addr i ≠ Reg.PWR_EFF_CAP.addr 0) : rd (setCap s) f i = rd s f i :=
  rd_wr_ne _ _ _ _ _ _ h

theorem effCap_safe (h : rd s Reg.PWR_STAT_SAFE 0 = 1) : effCap s =
    min (rd s Reg.PWR_CAP_CTRL_LIMIT 0) (max (rd s Reg.PWR_CAP_CTRL_LIMIT 0 * rd s Reg.PWR_SAFE_PCT 0 / 100)
      (rd s Reg.PWR_CAP_CTRL_LIMIT 0 * 40 / 100)) := if_pos h

theorem effCap_unsafe (h : rd s Reg.PWR_STAT_SAFE 0 = 0) : effCap s = rd s Reg.PWR_CAP_CTRL_LIMIT 0 := if_neg (by omega)

theorem gradeW_le (s : State) : gradeW s ≤ 2500 := by
  unfold gradeW
  split <;> omega

/-- The cap's limit as it stands after a write (R374, R383). -/
theorem fxLimit_spec (s : State) :
    let l := max 1200 (min (gradeW s) (rd s Reg.PWR_CAP_CTRL_LIMIT 0))
    rd (fxLimit s) Reg.PWR_CAP_CTRL_LIMIT 0 = l ∧ rd (fxLimit s) Reg.PWR_EFF_CAP 0 = l ∧ rd (fxLimit s) Reg.PWR_STAT_SAFE 0 = 0 := by
  intro l
  have hl : l < 2 ^ 16 := by
    have := gradeW_le s
    omega
  have hlimit : rd (wr (wr s Reg.PWR_CAP_CTRL_LIMIT 0 l) Reg.PWR_STAT_SAFE 0 0) Reg.PWR_CAP_CTRL_LIMIT 0 = l := by
    rw [rd_wr_ne _ _ _ _ _ _ (by decide), rd_wr_self _ _ _ (by decide)]
    exact Nat.mod_eq_of_lt hl
  have hsafe : rd (wr (wr s Reg.PWR_CAP_CTRL_LIMIT 0 l) Reg.PWR_STAT_SAFE 0 0) Reg.PWR_STAT_SAFE 0 = 0 :=
    rd_wr_self _ _ _ (by decide)
  refine ⟨(rd_setCap_ne (by decide)).trans hlimit, ?_, (rd_setCap_ne (by decide)).trans hsafe⟩
  exact (rd_setCap _).trans ((effCap_unsafe hsafe).trans hlimit)

variable {ag : Agent} {v : Nat}

theorem limit_words : fieldsAt (Reg.PWR_CAP_CTRL_LIMIT.addr 0) = [Reg.PWR_CAP_CTRL_LIMIT] ∧
    woMask (Reg.PWR_CAP_CTRL_LIMIT.addr 0) = 0 ∧
    Reg.HDR_CAPS_GRADE.addr 0x0A ∉ storeWords (Reg.PWR_CAP_CTRL_LIMIT.addr 0) := by decide +kernel

theorem rd_limit_stored (ag : Agent) (v : Nat) (s : State) :
    rd (stored ag (Reg.PWR_CAP_CTRL_LIMIT.addr 0) (v % 2 ^ 32) s) Reg.PWR_CAP_CTRL_LIMIT 0 = v % 2 ^ 16 := by
  obtain ⟨hfields, hwo, -⟩ := limit_words
  rw [rd_stored_rw (a := Reg.PWR_CAP_CTRL_LIMIT.addr 0) ag rfl (by decide) (.inl hwo) (by decide) rfl (by rw [hfields]; simp)
    (by rw [hfields]; exact fun g hg => .inl (List.mem_singleton.1 hg))]
  show v % 2 ^ 32 >>> 0 % 2 ^ 16 = v % 2 ^ 16
  rw [Nat.shiftRight_zero]
  omega

theorem gradeW_stored (ag : Agent) (v : Nat) (s : State) :
    gradeW (stored ag (Reg.PWR_CAP_CTRL_LIMIT.addr 0) v s) = gradeW s := by
  rw [gradeW, (stored_regsWithin ag (by decide) v s).rd limit_words.2.2, gradeW]

theorem exec_limitWrite (h : Open s ag (Reg.PWR_CAP_CTRL_LIMIT.addr 0)) :
    exec (.limitWrite ag v) s = .next (fxLimit (stored ag (Reg.PWR_CAP_CTRL_LIMIT.addr 0) (v % 2 ^ 32) s)) := by
  show execLimitWrite ag v s = _
  rw [execLimitWrite, agentWrite_open h (by decide) (by decide), Nat.mod_mod]

theorem hb_words : Reg.PWR_STAT_SAFE.addr 0 ∉ storeWords (Reg.PWR_HB.addr 0) := by decide +kernel

theorem exec_hb (h : Open s ag (Reg.PWR_HB.addr 0)) :
    exec (.hb ag v) s = .next (fxHb (stored ag (Reg.PWR_HB.addr 0) (v % 2 ^ 32) s)) := by
  show execHb ag v s = _
  rw [execHb, agentWrite_open h (by decide) (by decide), Nat.mod_mod]

theorem srel_words : Reg.PWR_STAT_SLOPE.addr 0 ∉ storeWords (Reg.PWR_THERM_CTRL_SREL.addr 0) := by decide +kernel

theorem exec_srel (h : Open s ag (Reg.PWR_THERM_CTRL_SREL.addr 0)) :
    exec (.srel ag) s = .next (endSlope (stored ag (Reg.PWR_THERM_CTRL_SREL.addr 0) 1 s)) := by
  show execSrel ag s = _
  rw [execSrel, agentWrite_open h (by decide) (by decide)]
  rfl

end Caps

/-- The brake pin as it stands. -/
def setPin (b : Bool) (s : State) : State := setPow s { s.pow with pin := b }

theorem brakesAndCaps_events (s : State) (hawake : awake s = true) :
    (rd s Reg.PWR_STAT_BRAKE 0 = 0 → Answers .brakeAssert s fun t => rd t Reg.PWR_STAT_BRAKE 0 = 1 ∧ t.pow.pin = true ∧
      t.pow.full = true ∧ rd t Reg.PWR_BRAKE_CNT 0 = min (rd s Reg.PWR_BRAKE_CNT 0 + 1) (2 ^ 32 - 1)) ∧
    (rd s Reg.PWR_STAT_BRAKE 0 = 1 → s.pow.hot = false → s.pow.alert = false → s.pow.pfBrake = false →
      rd s Reg.PWR_STAT_SLOPE 0 = 0 → Answers .brakeRelease s fun t => rd t Reg.PWR_STAT_BRAKE 0 = 0 ∧ t.pow.pin = false ∧
        t.pow.full = false ∧ WordsKept s t [Reg.PWR_STAT_BRAKE.addr 0]) := by
  refine ⟨fun hwas => ?_, fun hwas hhot halert hpf hslope => ?_⟩
  · have hpin : braking (setPin true s) = true := braking_of_pin rfl
    refine ⟨raiseInt (brakeRaised (setPin true s)) 0x08 2, ?_, ?_⟩
    · show execBrakeAssert s = _
      rw [execBrakeAssert, live, if_pos hawake, ← setBrake_rises hpin hwas]
      rfl
    · beta_reduce
      rw [pin_brake, rd_brake_interrupt _ (by decide) (by decide) (by decide), rd_brake_raised,
        rd_brake_interrupt _ (by decide) (by decide) (by decide), rd_count_raised]
      exact ⟨rfl, rfl, rfl, rfl⟩
  · have hfree : braking (setPin false s) = false := not_braking rfl hhot halert hpf hslope
    refine ⟨brakeEnded (setPin false s), ?_, rd_brake_ended, by rw [brakeEnded_pow]; rfl, by rw [brakeEnded_pow],
      brakeEnded_words⟩
    show execBrakeRelease s = _
    rw [execBrakeRelease, live, if_pos hawake, ← setBrake_ends hfree hwas]
    rfl

/-- Settles O48: the brake follows its causes, a slope brakes and deepens, the caps follow the heartbeat and LIMIT. -/
theorem brakesAndCaps : Obligations.BrakesAndCaps := by
  unfold Obligations.BrakesAndCaps
  refine ⟨fun s hawake => ?_, fun s ag v => ?_⟩
  · obtain ⟨hassert, hrelease⟩ := brakesAndCaps_events s hawake
    refine ⟨hassert, hrelease, ?_, ?_, ?_, ?_, ?_⟩
    · intro v hlow hhigh hslope hsteep
      have htwice : (slopeNoted v s).pow.steep ≥ 2 := by
        show (if v > 500 then s.pow.steep + 1 else 0) ≥ 2
        rw [if_pos hlow]
        omega
      obtain ⟨hS, hB, hV⟩ := slopeBrake_shows (s := slopeNoted v s)
      refine ⟨_, (exec_slopeEval_first hawake hslope).trans (congrArg Host.Outcome.next (if_pos htwice)), hS, hB, ?_⟩
      exact hV.trans (rd_slopeV_noted (by omega) hhigh)
    · intro v hv hslope
      have hzero : (slopeNoted v s).pow.steep = 0 := if_neg (by omega)
      refine ⟨_, (exec_slopeEval_first hawake hslope).trans (congrArg Host.Outcome.next (if_neg (by omega))),
        (rd_slopeNoted (f := Reg.PWR_STAT_SLOPE) (by decide)).trans hslope, hzero, fun a ha => ?_⟩
      exact rw_wr_ne s Reg.PWR_STAT_SLOPE_V 0 _ a (by simpa using ha)
    · intro v hv hslope hdeep
      exact exec_deepBrakeCheck hawake hv hslope hdeep
    · intro hen hlost
      refine ⟨raiseInt (wr s Reg.PWR_STAT_HBLOST 0 1) 0x08 4, ?_, ?_, rfl⟩
      · show execHbTimeout s = _
        rw [execHbTimeout, live, if_pos hawake, if_pos ⟨hen, hlost⟩]
      · rw [rd_brake_interrupt _ (by decide) (by decide) (by decide), rd_wr_self _ _ _ (by decide)]
        rfl
    · intro hen hlost hsafe
      refine ⟨raiseInt (setCap (wr s Reg.PWR_STAT_SAFE 0 1)) 0x08 4, ?_, ?_⟩
      · show execSafeCapEngage s = _
        rw [execSafeCapEngage, live, if_pos hawake, if_pos ⟨hen, hlost, hsafe⟩]
      · beta_reduce
        intro l
        have hset : rd (wr s Reg.PWR_STAT_SAFE 0 1) Reg.PWR_STAT_SAFE 0 = 1 := rd_wr_self _ _ _ (by decide)
        rw [rd_brake_interrupt _ (by decide) (by decide) (by decide), rd_brake_interrupt _ (by decide) (by decide) (by decide),
          rd_setCap, rd_setCap_ne (by decide), effCap_safe hset, rd_wr_ne s _ Reg.PWR_CAP_CTRL_LIMIT _ _ _ (by decide),
          rd_wr_ne s _ Reg.PWR_SAFE_PCT _ _ _ (by decide)]
        exact ⟨hset, rfl⟩
  · refine ⟨fun h => ?_, fun h => ?_, fun h => ?_⟩
    · refine ⟨_, exec_limitWrite h, ?_⟩
      have hspec := fxLimit_spec (stored ag (Reg.PWR_CAP_CTRL_LIMIT.addr 0) (v % 2 ^ 32) s)
      rw [rd_limit_stored, gradeW_stored] at hspec
      exact hspec
    · have hstored := stored_regsWithin ag (a := Reg.PWR_HB.addr 0) (by decide) (v % 2 ^ 32) s
      refine ⟨_, exec_hb h, rd_wr_self _ _ _ (by decide), ?_, hstored.only.wr _ _ _⟩
      rw [fxHb, rd_wr_bits _ _ _ _ (by decide) (.inr (by decide)), hstored.rd hb_words]
    · intro u
      refine ⟨exec_srel h, fun hslope => ?_⟩
      have hkept : rd u Reg.PWR_STAT_SLOPE 0 = 1 := ((stored_regsWithin ag (by decide) 1 s).rd srel_words).trans hslope
      exact if_neg (by omega)

end Sys2Proof.Machine

/-! Power failure, power loss and the rail controller (R384 to R387, R453 to R455). -/

namespace Sys2Proof.Machine

/-! ### The brake, whatever its causes -/

section AnyBrake

variable {s : State}

theorem setBrake_off (hb : braking s = false) (hwas : rd s Reg.PWR_STAT_BRAKE 0 = 0) : setBrake s = s :=
  (if_neg (show ¬(braking s && !(rd s Reg.PWR_STAT_BRAKE 0 == 1)) = true by rw [hb]; exact Bool.false_ne_true)).trans
    (if_neg (show ¬(!braking s && (rd s Reg.PWR_STAT_BRAKE 0 == 1)) = true by rw [hwas, Bool.and_comm]; exact Bool.false_ne_true))

/-- The brake rises, ends, or stays as it is. -/
theorem setBrake_cases (s : State) :
    setBrake s = raiseInt (brakeRaised s) 0x08 2 ∨ setBrake s = brakeEnded s ∨ setBrake s = s := by
  rcases bit_cases s (f := Reg.PWR_STAT_BRAKE) rfl 0 with h | h
  · cases hb : braking s with
    | true => exact .inl (setBrake_rises hb h)
    | false => exact .inr (.inr (setBrake_off hb h))
  · cases hb : braking s with
    | true => exact .inr (.inr (setBrake_stands hb h))
    | false => exact .inr (.inl (setBrake_ends hb h))

/-- Nothing but registers, the Skein, the messages sent and the skip of the brake itself changed. -/
def OnlyBrake (s t : State) : Prop := t = { s with
  regs := t.regs, skl := t.skl, out := t.out, pow := { s.pow with full := t.pow.full, want := t.pow.want } }

theorem OnlyBrake.sent {s t u : State} (h : OnlyBrake s t) (k : OnlySent t u) : OnlyBrake s u := by
  have hpow : u.pow = t.pow := by rw [k]
  have e : u = { t with regs := u.regs, skl := u.skl, out := u.out } := k
  let p : Power := { s.pow with full := t.pow.full, want := t.pow.want }
  rw [show t = { s with regs := t.regs, skl := t.skl, out := t.out, pow := p } from h] at e
  unfold OnlyBrake
  rw [hpow]
  exact e

theorem brakeEnded_only (s : State) : OnlyBrake s (brakeEnded s) := by
  unfold OnlyBrake brakeEnded
  dsimp only
  split <;> rfl

theorem setBrake_only (s : State) : OnlyBrake s (setBrake s) := by
  rcases setBrake_cases s with h | h | h <;> rw [h]
  · exact OnlyBrake.sent (t := brakeRaised s) rfl (raiseInt_signals _ 0x08 2).only
  · exact brakeEnded_only s
  · rfl

/-- A power register beside STAT and the brake's count is as before. -/
theorem rd_setBrake_ne {f : Fld} {i : Nat} (hlow : 0x8100 ≤ f.addr i) (hhigh : f.addr i < 0x9000)
    (hstat : f.addr i ≠ Reg.PWR_STAT_BRAKE.addr 0) (hcount : f.addr i ≠ Reg.PWR_BRAKE_CNT.addr 0) :
    rd (setBrake s) f i = rd s f i := by
  rcases setBrake_cases s with h | h | h <;> rw [h]
  · rw [rd_raiseInt (powerWord_noInt (by decide) hlow hhigh)]
    exact (rd_bump_apart (wr s Reg.PWR_STAT_BRAKE 0 1) _ _ _ _ _ (.inl hcount)).trans (rd_wr_ne _ _ _ _ _ _ hstat)
  · exact rd_of_rw (brakeEnded_words _ (by simpa using hstat))

theorem braking_of_alert (h : s.pow.alert = true) : braking s = true := by
  rw [braking, h]
  simp

/-- With no cause left the brake is off. -/
theorem rd_brake_off (hb : braking s = false) : rd (setBrake s) Reg.PWR_STAT_BRAKE 0 = 0 := by
  rcases bit_cases s (f := Reg.PWR_STAT_BRAKE) rfl 0 with h | h
  · rw [setBrake_off hb h, h]
  · rw [setBrake_ends hb h, rd_brake_ended]

end AnyBrake

/-! ### What the closing of a power failure leaves of the commands (R385) -/

/-- The front end but for its records, and the locks, are as before. -/
structure ClosingKept (s t : State) : Prop where
  inflight : t.front.inflight = s.front.inflight
  fetched : t.front.fetched = s.front.fetched
  locks : t.mem.locks = s.mem.locks

namespace ClosingKept

variable {s t u : State}

theorem refl (s : State) : ClosingKept s s := ⟨rfl, rfl, rfl⟩

theorem trans (h : ClosingKept s t) (k : ClosingKept t u) : ClosingKept s u :=
  ⟨k.inflight.trans h.inflight, k.fetched.trans h.fetched, k.locks.trans h.locks⟩

theorem ite {c : Prop} [Decidable c] (ht : ClosingKept s t) (hu : ClosingKept s u) : ClosingKept s (if c then t else u) := by
  split
  · exact ht
  · exact hu

theorem each {α : Type} {f : State → α → State} (hf : ∀ s a, ClosingKept s (f s a)) (l : List α) (s : State) :
    ClosingKept s (l.foldl f s) := eachOf_rel refl (fun _ _ _ => trans) hf l s

theorem wr (s : State) (f : Fld) (i v : Nat) : ClosingKept s (wr s f i v) := ⟨rfl, rfl, rfl⟩

theorem bump (s : State) (f : Fld) (i n : Nat) : ClosingKept s (bump s f i n) := ⟨rfl, rfl, rfl⟩

theorem setMem {m : Memory} (h : m.locks = s.mem.locks) : ClosingKept s (setMem s m) := ⟨rfl, rfl, h⟩

theorem of_sent (h : OnlySent s t) : ClosingKept s t := by
  rw [h]
  exact ⟨rfl, rfl, rfl⟩

end ClosingKept

section Closing

variable (s : State)

theorem uncharge_closing (p t : Nat) (pool : Bool) : ClosingKept s (uncharge s p t pool) := .ite ⟨rfl, rfl, rfl⟩ ⟨rfl, rfl, rfl⟩

theorem dropFseg_closing (t f : Nat) : ClosingKept s (dropFseg s t f) := by
  unfold dropFseg
  split
  · exact .refl s
  · exact (uncharge_closing s _ t _).trans (.ite (.ite ⟨rfl, rfl, rfl⟩ (.refl _)) ⟨rfl, rfl, rfl⟩)

theorem noteMigs_closing : ClosingKept s (noteMigs s) := by
  unfold noteMigs
  exact .each (fun _ _ => .wr _ _ _ _) _ s

theorem setMigBits_closing (k : Nat) (b : Bool) : ClosingKept s (setMigBits s k b) := by
  unfold setMigBits
  refine .each (fun u g => ?_) _ s
  exact ⟨rfl, rfl, rfl⟩

theorem forget_closing (m : Migr) : ClosingKept s
    (match getSeg s m.seg with | some g => setSeg s m.seg (some { g with mig := none }) | none => s) := by
  split
  · exact ⟨rfl, rfl, rfl⟩
  · exact .refl s

theorem abortMig_closing (m : Migr) : ClosingKept s (abortMig s m) := by
  have hforget := (setMigBits_closing s m.seg false).trans (forget_closing _ m)
  have hdrop (u : State) : ClosingKept u (if m.dstPool then
      up (setFseg u (fsegKey m.dstTier m.dstFrame) none) (freeReg m.dstTier) 0 1 else dropFseg u m.dstTier m.dstFrame) :=
    .ite ⟨rfl, rfl, rfl⟩ (dropFseg_closing u _ _)
  have hend (u : State) : ClosingKept u (noteMigs (setMem u { u.mem with migs := u.mem.migs.filter fun x => !(x.id == m.id) })) :=
    ClosingKept.trans (.setMem (m := { u.mem with migs := u.mem.migs.filter fun x => !(x.id == m.id) }) rfl) (noteMigs_closing _)
  exact (hforget.trans (hdrop _)).trans (hend _)

theorem abortOnWrite_closing (p da n : Nat) : ClosingKept s (abortOnWrite s p da n) := by
  unfold abortOnWrite
  refine .each (fun s page => ?_) _ s
  split
  · exact .ite ((abortMig_closing s _).trans (.bump _ _ _ _)) (.refl s)
  · exact .refl s

theorem newWin_closing (q : WReq) (last : Bool) : ClosingKept s (newWin s q last) :=
  ClosingKept.trans (t := { s with skl := { s.skl with reqs := s.skl.reqs ++ [_], reqNext := s.skl.reqNext + 1 } })
    ⟨rfl, rfl, rfl⟩ (.of_sent (route_signals _ _).only)

theorem pageWrite_closing (p da n v : Nat) : ClosingKept s (pageWrite s p da n v) := by
  unfold pageWrite
  split
  · exact ⟨rfl, rfl, rfl⟩
  · exact ⟨rfl, rfl, rfl⟩
  · exact .ite ⟨rfl, rfl, rfl⟩ (ClosingKept.trans (t := fresh s) ⟨rfl, rfl, rfl⟩ (.each (fun u _ => newWin_closing u _ _) _ _))
  · exact .refl s

theorem memWrite_closing (p da n v : Nat) : ClosingKept s (memWrite s p da n v) := by
  unfold memWrite
  exact .each (fun u _ => pageWrite_closing u _ _ _ _) _ s

theorem ringIrq_closing (r : Nat) : ClosingKept s (ringIrq s r) := by
  unfold ringIrq
  refine ClosingKept.trans ?_ (.of_sent (raiseInt_signals _ 1 _).only)
  exact ⟨rfl, rfl, rfl⟩

/-- The record's command is retired no longer, and the ring's lowest index follows. -/
def recordUnlisted (s : State) (c : Cmd) : State :=
  let u : State := { s with front := { s.front with
    retired := s.front.retired.filter fun x => !(x.ring == c.ring && x.idx == c.idx) } }
  wr u Reg.CMD_RING_LOW c.ring (lowOf u c.ring)

/-- The ring's records with no interrupt yet are `n`. -/
def recordsPending (s : State) (r n : Nat) : State := { s with front := { s.front with pend := tset (fun _ => 0) s.front.pend r n } }

theorem recordUnlisted_closing (c : Cmd) : ClosingKept s (recordUnlisted s c) := ⟨rfl, rfl, rfl⟩
theorem recordsPending_closing (r n : Nat) : ClosingKept s (recordsPending s r n) := ⟨rfl, rfl, rfl⟩

theorem recordDone_eq (c : Cmd) : recordDone s c =
    let n := tget (fun _ => 0) (recordUnlisted s c).front.pend c.ring + 1
    let t := recordsPending (recordUnlisted s c) c.ring n
    if n ≥ max 1 (rd t Reg.CMD_RING_COAL_CNT c.ring) ∨ c.status ≠ 0 ∨ c.flag 5 then ringIrq t c.ring else t := rfl

theorem recordDone_closing (c : Cmd) : ClosingKept s (recordDone s c) := by
  have hnoted (n : Nat) := (recordUnlisted_closing s c).trans (recordsPending_closing _ c.ring n)
  rw [recordDone_eq]
  exact .ite ((hnoted _).trans (ringIrq_closing _ _)) (hnoted _)

theorem flushRecord_closing (x : State × List Cmd) (c : Cmd) : ClosingKept x.1 (flushRecord x c).1 := by
  unfold flushRecord
  dsimp only
  split
  · split
    · exact .refl _
    · exact ((abortOnWrite_closing _ _ _ _).trans (memWrite_closing _ _ _ _ _)).trans (recordDone_closing _ c)
  · exact .refl _

theorem flushRecords_closing (l : List Cmd) (x : State × List Cmd) : ClosingKept x.1 (l.foldl flushRecord x).1 := by
  induction l generalizing x with
  | nil => exact .refl _
  | cons c l ih => exact (flushRecord_closing x c).trans (ih _)

theorem putT3_closing (a : Nat) (l : List Nat) : ClosingKept s (putT3 s a l) := ⟨rfl, rfl, rfl⟩

theorem writeClosing_closing (j : List Cmd) : ClosingKept s (writeClosing s j) := by
  unfold writeClosing
  split
  · exact .refl s
  · refine ClosingKept.trans ?_ ((putT3_closing _ _ _).trans (putT3_closing _ _ _))
    exact ⟨rfl, rfl, rfl⟩

/-- The state once grace has ended and everything is flushed. -/
def flushed (s : State) : State :=
  let x := (abandonAll s).front.retired.foldl flushRecord (abandonAll s, [])
  writeClosing x.1 x.2

theorem flushed_closing : ClosingKept (abandonAll s) (flushed s) :=
  (flushRecords_closing _ (abandonAll s, [])).trans (writeClosing_closing _ _)

theorem closeDown_eq : closeDown s =
    wr (setPow { flushed s with front := { (flushed s).front with retired := [] } }
      { (flushed s).pow with pfail := false, tripLow := (flushed s).pow.tripLow || decide ((flushed s).pow.cause ≥ 2) })
      Reg.PWR_STAT_PFHALT 0 1 := rfl

/-- The device halts with nothing in flight, fetched, retired or locked (R385). -/
theorem closeDown_halts : rd (closeDown s) Reg.PWR_STAT_PFHALT 0 = 1 ∧ (closeDown s).pow.pfail = false ∧
    (closeDown s).front.inflight = [] ∧ (closeDown s).front.fetched = [] ∧ (closeDown s).front.retired = [] ∧
    (closeDown s).mem.locks = [] := by
  have h := flushed_closing s
  rw [closeDown_eq]
  exact ⟨rd_wr_self _ _ _ (by decide), rfl, h.inflight, h.fetched, rfl, h.locks⟩

end Closing

/-! ### The closing record's acknowledgement (R386) -/

/-- Zeros stored read as zero. -/
theorem tget_tstore_zero (n : Nat) (t : Tbl Byte) {a k : Nat} (hlow : a ≤ k) (hhigh : k < a + n) :
    tget (fun _ => 0) (tstore (fun _ => 0) t a n 0) k = 0 := by
  induction n generalizing t a with
  | zero => omega
  | succ n ih =>
    rw [tstore]
    by_cases e : k = a
    · rw [e, tget_tstore_out _ _ _ _ _ _ (.inl (Nat.lt_succ_self _)), tget_tset_same]
      rfl
    · rw [Nat.zero_div]
      exact ih _ (by omega) (by omega)

section Ack

variable {s : State}

/-- What an acknowledgement writes: the region's place as it stands, and ACK. -/
def ackWord (s : State) : Nat := rd s Reg.PWR_CREC_PORT 0 + 2 ^ 3 * rd s Reg.PWR_CREC_SEG 0 + 2 ^ 24

theorem ackWord_bounds (s : State) : ackWord s < 2 ^ 25 ∧ bit (ackWord s) 24 = true := by
  have hport : rd s Reg.PWR_CREC_PORT 0 < 2 ^ 3 := rd_lt s Reg.PWR_CREC_PORT 0
  have hseg : rd s Reg.PWR_CREC_SEG 0 < 2 ^ 20 := rd_lt s Reg.PWR_CREC_SEG 0
  have hlow : 2 ^ 24 ≤ ackWord s ∧ ackWord s < 2 ^ 25 := by
    unfold ackWord
    omega
  refine ⟨hlow.2, ?_⟩
  rw [bit, Nat.testBit_eq_decide_div_mod_eq, decide_eq_true_eq]
  omega

theorem exec_crecAck (h : Open s .host (Reg.PWR_CREC_ACK.addr 0)) :
    exec .crecAck s = .next (fxCrecAck (ackWord s) (stored .host (Reg.PWR_CREC_ACK.addr 0) (ackWord s) s)) := by
  have hlt := (ackWord_bounds s).1
  show execCrecAck s = _
  rw [execCrecAck]
  dsimp only
  rw [agentWrite_open h (by decide) (by decide), Nat.mod_eq_of_lt (by unfold ackWord at hlt; omega)]
  rfl

theorem leNum_zeros (n : Nat) : leNum (List.replicate n 0) = 0 := by
  induction n with
  | zero => rfl
  | succ n ih => rw [List.replicate_succ, leNum, ih]

theorem putT3_t3 (s : State) (a : Nat) (l : List Nat) :
    (putT3 s a l).mem.t3 = tstore (fun _ => 0) s.mem.t3 a l.length (leNum l) := rfl

theorem fxCrecAck_region {v a : Nat} (hv : bit v 24 = true) (ha : regionAt s = some a) : (fxCrecAck v s).mem.t3 =
    tstore (fun _ => 0) s.mem.t3 (a + 0x249C0) 64 0 := by
  rw [fxCrecAck, if_pos hv, ha]
  rw [putT3_t3, leNum_zeros, List.length_replicate]

end Ack

/-! ### Power loss (R387) -/

/-- A table with some keys taken out reads as before at the others. -/
theorem tget_filter {α : Type} (d : Nat → α) {p : Nat → Bool} (t : Tbl α) {k : Nat} (hk : p k = true) :
    tget d (t.filter fun e => p e.1) k = tget d t k := by
  induction t with
  | nil => rfl
  | cons e t ih =>
    obtain ⟨j, v⟩ := e
    by_cases hj : j = k
    · subst hj
      rw [List.filter_cons_of_pos (p := fun e : Nat × α => p e.1) hk, tget, tget, if_pos rfl, if_pos rfl]
    · rw [tget, if_neg hj]
      by_cases hp : p j = true
      · rw [List.filter_cons_of_pos (p := fun e : Nat × α => p e.1) hp, tget, if_neg hj, ih]
      · rw [List.filter_cons_of_neg (p := fun e : Nat × α => p e.1) hp, ih]

/-! ### The rail controller (R453, R454) -/

section Rails

variable {s : State} {j stat : Nat}

/-- The rail's STAT as it is polled. -/
def railPolled (j stat : Nat) (s : State) : State := wr (emit s (.vrc (vrcFrame j 2 0))) Reg.PWR_VRC_STAT j stat

/-- The rail is waited for no longer. -/
def railStopped (j : Nat) (s : State) : State :=
  setPow s { s.pow with railWait := tset (fun _ => false) s.pow.railWait j false }

theorem exec_vrcStatPoll (hawake : awake s = true) (hj : j < 4) (hwait : tget (fun _ => false) s.pow.railWait j = true) (late : Bool) :
    exec (.vrcStatPoll j stat late) s = .next (if bit stat 0 then railStopped j (railPolled j stat s)
      else if late then
        if (dropSteps (railStopped j (railPolled j stat s)) j).pow.alert then dropSteps (railStopped j (railPolled j stat s)) j
        else bump (dropSteps (railStopped j (railPolled j stat s)) j) Reg.PWR_VRC_TO 0 1
      else railPolled j stat s) := by
  show execVrcStatPoll j stat late s = _
  rw [execVrcStatPoll, onUnit_live (decide_eq_true hj) hawake]
  exact congrArg Host.Outcome.next (if_neg (by rw [hwait]; decide))

/-- Only which steps are planned changed. -/
def OnlyPlan (s t : State) : Prop := t = { s with pow := { s.pow with plan := t.pow.plan } }

theorem OnlyPlan.trans {s t u : State} (h : OnlyPlan s t) (k : OnlyPlan t u) : OnlyPlan s u := by
  have e : u = { t with pow := { t.pow with plan := u.pow.plan } } := k
  rw [show t = { s with pow := { s.pow with plan := t.pow.plan } } from h] at e
  exact e

theorem dropSteps_only (s : State) (j : Nat) : OnlyPlan s (dropSteps s j) := by
  refine eachOf_rel (R := OnlyPlan) (fun _ => rfl) (fun _ _ _ => .trans) (fun s x => ?_) _ s
  split
  · split <;> rfl
  · rfl

theorem railWait_stopped (u : State) : tget (fun _ => false) (railStopped j u).pow.railWait j = false :=
  tget_tset_same (fun _ => false) u.pow.railWait j false

theorem railWait_dropped (u : State) : tget (fun _ => false) (dropSteps (railStopped j u) j).pow.railWait j = false := by
  rw [dropSteps_only]
  exact railWait_stopped u

/-- Every rail's STAT is asked for. -/
def railAsked (stats : List Nat) (s : State) (j : Nat) : State :=
  match stats[j]? with
  | some v => wr (emit s (.vrc (vrcFrame j 2 0))) Reg.PWR_VRC_STAT j v
  | none => emit s (.vrc (vrcFrame j 2 0))

/-- The word is no rail's STAT. -/
def NoRailWord (a : Nat) : Prop := ∀ j < 4, a ≠ Reg.PWR_VRC_STAT.addr j

theorem railAsked_words (stats : List Nat) (s : State) {j : Nat} (hj : j < 4) : WordsOn NoRailWord s (railAsked stats s j) := by
  unfold railAsked
  split
  · exact (WordsOn.of_regs (t := emit s _) rfl).trans (.wr (fun h => h j hj rfl) _ _)
  · exact .of_regs rfl

theorem railsAsked_words (stats : List Nat) (s : State) :
    WordsOn NoRailWord s (eachOf (List.range 4) s (railAsked stats)) :=
  (((railAsked_words stats s (by decide)).trans (railAsked_words stats _ (by decide))).trans
    (railAsked_words stats _ (by decide))).trans (railAsked_words stats _ (by decide))

theorem railAsked_pow (stats : List Nat) (s : State) (j : Nat) : (railAsked stats s j).pow = s.pow := by
  unfold railAsked
  split <;> rfl

theorem rd_railAsked_ne (stats : List Nat) (s : State) {i j : Nat} (h : j ≠ i) :
    rd (railAsked stats s j) Reg.PWR_VRC_STAT i = rd s Reg.PWR_VRC_STAT i := by
  unfold railAsked
  split
  · exact rd_wr_ne _ _ _ _ _ _ (by simp only [Fld.addr, Reg.PWR_VRC_STAT]; omega)
  · rfl

theorem rd_railsAsked {stats : List Nat} {v : Nat} (hj : j < 4) (hv : stats[j]? = some v) (s : State) :
    rd (eachOf (List.range 4) s (railAsked stats)) Reg.PWR_VRC_STAT j = v % 2 ^ 16 := by
  obtain ⟨u, -, hend⟩ := rd_eachOf_at (fun s i => rd_railAsked_ne stats s) List.nodup_range (List.mem_range.2 hj) s
  rw [hend, railAsked, hv]
  exact rd_wr_self _ _ _ (by decide)

/-- A rail alert is noted. -/
def setAlert (b : Bool) (s : State) : State := setPow s { s.pow with alert := b }

theorem exec_vrcAlert (hawake : awake s = true) (halert : s.pow.alert = false) (stats : List Nat) :
    exec (.vrcAlert stats) s =
      .next (eachOf (List.range 4) (bump (setBrake (setAlert true s)) Reg.PWR_VRC_ALERT 0 1) (railAsked stats)) := by
  show execVrcAlert stats s = _
  rw [execVrcAlert, live, if_pos hawake]
  exact congrArg Host.Outcome.next (if_neg (by rw [halert]; decide))

/-- CLEAR is sent to every rail. -/
def railsCleared (s : State) : State := eachOf (List.range 4) s fun s j => emit s (.vrc (vrcFrame j 4 0))

theorem exec_vrcAlertRelease (hawake : awake s = true) (halert : s.pow.alert = true) :
    exec .vrcAlertRelease s = .next (setBrake (setAlert false (railsCleared s))) := by
  show execVrcAlertRelease s = _
  rw [execVrcAlertRelease, live, if_pos hawake]
  exact congrArg Host.Outcome.next (if_neg (by rw [halert]; decide))

theorem railsCleared_keeps (s : State) : (railsCleared s).pow = s.pow ∧ (railsCleared s).regs = s.regs := by
  unfold railsCleared
  refine eachOf_rel (R := fun s t => t.pow = s.pow ∧ t.regs = s.regs) (fun _ => ⟨rfl, rfl⟩)
    (fun _ _ _ h k => ⟨k.1.trans h.1, k.2.trans h.2⟩) (fun u j => ?_) _ s
  exact ⟨rfl, rfl⟩

end Rails

/-! ### The sequence's start -/

section Start

variable {s : State}

/-- The sequence as it stands before the brake is judged. -/
def pfailNoted (s : State) (cause : Nat) : State :=
  let u := bump s Reg.PWR_PF_CNT 0 1
  setPow u { u.pow with pfail := true, cause := cause, pfBrake := u.pow.pfBrake || rd u Reg.PWR_PFAIL_CTRL_BRK 0 == 1 }

theorem startPfail_spec (s : State) (cause : Nat) : (startPfail s cause).pow.pfail = true ∧
    rd (startPfail s cause) Reg.PWR_PF_CNT 0 = min (rd s Reg.PWR_PF_CNT 0 + 1) (2 ^ 32 - 1) ∧
    (startPfail s cause).front = s.front := by
  have hstart : startPfail s cause = setBrake (pfailNoted s cause) := rfl
  rw [hstart]
  refine ⟨?_, ?_, ?_⟩
  · rw [setBrake_only]
    rfl
  · rw [rd_setBrake_ne (by decide) (by decide) (by decide) (by decide)]
    exact rd_bump_same s _ _ _ (fits_of_le (by decide))
  · rw [setBrake_only]
    rfl

end Start

theorem powerFailure_rails (s : State) (hawake : awake s = true) :
    (∀ j stat late, j < 4 → tget (fun _ => false) s.pow.railWait j = true → bit stat 0 = true →
      Answers (.vrcStatPoll j stat late) s fun t => tget (fun _ => false) t.pow.railWait j = false ∧
        rd t Reg.PWR_VRC_STAT j = stat % 2 ^ 16 ∧ t.out = s.out ++ [.vrc (vrcFrame j 2 0)] ∧
        WordsKept s t [Reg.PWR_VRC_STAT.addr j]) ∧
    (∀ j stat, j < 4 → tget (fun _ => false) s.pow.railWait j = true → bit stat 0 = false → s.pow.alert = false →
      Answers (.vrcStatPoll j stat true) s fun t => tget (fun _ => false) t.pow.railWait j = false ∧
        rd t Reg.PWR_VRC_TO 0 = min (rd s Reg.PWR_VRC_TO 0 + 1) (2 ^ 32 - 1)) ∧
    (∀ stats : List Nat, s.pow.alert = false → rd s Reg.PWR_STAT_BRAKE 0 = 0 → Answers (.vrcAlert stats) s fun t =>
      rd t Reg.PWR_STAT_BRAKE 0 = 1 ∧ t.pow.alert = true ∧
      rd t Reg.PWR_VRC_ALERT 0 = min (rd s Reg.PWR_VRC_ALERT 0 + 1) (2 ^ 32 - 1) ∧
      ∀ j < 4, ∀ v, stats[j]? = some v → rd t Reg.PWR_VRC_STAT j = v % 2 ^ 16) ∧
    (s.pow.alert = true → Answers .vrcAlertRelease s fun t => t.pow.alert = false ∧
      (s.pow.pin = false → s.pow.hot = false → s.pow.pfBrake = false → rd s Reg.PWR_STAT_SLOPE 0 = 0 →
        rd t Reg.PWR_STAT_BRAKE 0 = 0)) := by
  refine ⟨?_, ?_, ?_, ?_⟩
  · intro j stat late hj hwait hsettled
    refine ⟨_, (exec_vrcStatPoll hawake hj hwait late).trans (congrArg Host.Outcome.next (if_pos hsettled)),
      railWait_stopped _, ?_, rfl, fun a ha => ?_⟩
    · exact rd_wr_self (emit s _) (f := Reg.PWR_VRC_STAT) j stat (by decide)
    · exact rw_wr_ne (emit s _) Reg.PWR_VRC_STAT j stat a (by simpa using ha)
  · intro j stat hj hwait hsettled halert
    have hplan := dropSteps_only (railStopped j (railPolled j stat s)) j
    have hquiet : (dropSteps (railStopped j (railPolled j stat s)) j).pow.alert = false := by
      rw [hplan]
      exact halert
    refine ⟨bump (dropSteps (railStopped j (railPolled j stat s)) j) Reg.PWR_VRC_TO 0 1, ?_, railWait_dropped _, ?_⟩
    · rw [exec_vrcStatPoll hawake hj hwait, if_neg (by rw [hsettled]; decide), if_pos rfl, if_neg (by rw [hquiet]; decide)]
    · have hword : Reg.PWR_VRC_TO.addr 0 ≠ Reg.PWR_VRC_STAT.addr j := by
        simp only [Fld.addr, Reg.PWR_VRC_TO, Reg.PWR_VRC_STAT]
        omega
      have hcount : rd (dropSteps (railStopped j (railPolled j stat s)) j) Reg.PWR_VRC_TO 0 = rd s Reg.PWR_VRC_TO 0 :=
        (rd_of_regs (s := railStopped j (railPolled j stat s)) (by rw [hplan]) _ _).trans (rd_wr_ne (emit s _) _ _ _ _ _ hword)
      rw [rd_bump_same _ _ _ _ (fits_of_le (by decide)), hcount]
      rfl
  · intro stats halert hbrake
    have hwords := railsAsked_words stats (bump (setBrake (setAlert true s)) Reg.PWR_VRC_ALERT 0 1)
    have hpow : (eachOf (List.range 4) (bump (setBrake (setAlert true s)) Reg.PWR_VRC_ALERT 0 1) (railAsked stats)).pow =
        (setBrake (setAlert true s)).pow :=
      eachOf_rel (R := fun s t => t.pow = s.pow) (fun _ => rfl) (fun _ _ _ h k => k.trans h) (railAsked_pow stats) _ _
    have hbraking : braking (setAlert true s) = true := braking_of_alert rfl
    refine ⟨_, exec_vrcAlert hawake halert stats, ?_, ?_, ?_, fun j hj v hv => rd_railsAsked hj hv _⟩
    · rw [hwords.rd (fun i hi => by simp only [Fld.addr, Reg.PWR_STAT_BRAKE, Reg.PWR_VRC_STAT]; omega),
        rd_bump_apart _ _ _ _ _ _ (.inl (by decide)), rd_brake_setBrake hbraking]
    · rw [hpow, setBrake_only]
      rfl
    · rw [hwords.rd (fun i hi => by simp only [Fld.addr, Reg.PWR_VRC_ALERT, Reg.PWR_VRC_STAT]; omega),
        rd_bump_same _ _ _ _ (fits_of_le (by decide)), rd_setBrake_ne (by decide) (by decide) (by decide) (by decide)]
      rfl
  · intro halert
    obtain ⟨hpow, hregs⟩ := railsCleared_keeps s
    refine ⟨_, exec_vrcAlertRelease hawake halert, ?_, fun hpin hhot hpf hslope => rd_brake_off (not_braking ?_ ?_ rfl ?_ ?_)⟩
    · rw [setBrake_only]
      rfl
    · exact (congrArg Power.pin hpow).trans hpin
    · exact (congrArg Power.hot hpow).trans hhot
    · exact (congrArg Power.pfBrake hpow).trans hpf
    · exact (rd_of_regs (t := setAlert false (railsCleared s)) hregs _ _).trans hslope

/-- Settles O49: the sequence's start and end, the record's acknowledgement, what a loss of power keeps, the rails. -/
theorem powerFailure : Obligations.PowerFailure := by
  unfold Obligations.PowerFailure
  refine ⟨fun s hawake => ?_, fun s hopen => ?_, fun s keep => ?_, fun s => ?_⟩
  · refine ⟨fun hpf => ?_, fun hpf => ?_, powerFailure_rails s hawake⟩
    · obtain ⟨hset, hcount, hfront⟩ := startPfail_spec s 1
      refine ⟨startPfail s 1, ?_, rfl, hset, hcount, congrArg Front.inflight hfront⟩
      show execPowerFail s = _
      rw [execPowerFail, live, if_pos hawake, if_neg (by rw [hpf]; decide)]
    · refine ⟨closeDown s, ?_, rfl, closeDown_halts s⟩
      show execPfailGraceEnd s = _
      rw [execPfailGraceEnd, live, if_pos hawake, if_pos hpf]
  · intro v u
    refine ⟨exec_crecAck hopen, fun a ha => ⟨fxCrecAck (ackWord s) u, exec_crecAck hopen, ?_⟩⟩
    have honly : OnlyRegs s u := (stored_regsWithin .host (a := Reg.PWR_CREC_ACK.addr 0) (by decide) v s).only
    have hmem : u.mem = s.mem := by rw [honly]
    have ht3 : (fxCrecAck (ackWord s) u).mem.t3 = tstore (fun _ => 0) s.mem.t3 (a + 0x249C0) 64 0 := by
      rw [fxCrecAck_region (ackWord_bounds s).2 ha, hmem]
    beta_reduce
    rw [ht3]
    exact ⟨fun k hk => tget_tstore_zero _ _ (by omega) (by omega), fun b hb => tget_tstore_out _ _ _ _ _ _ (by omega)⟩
  · exact ⟨_, rfl, rfl, rfl, rfl, rfl, rfl, fun a ha => tget_filter (p := fun k => keep.testBit (k / 2 ^ 41)) _ _ ha⟩
  · refine ⟨{ s with pow := { s.pow with off := false } }, ?_, rfl, rfl⟩
    show execRailMonitorRelease s = _
    unfold execRailMonitorRelease
    split
    · rfl
    · next hoff =>
      have h : s.pow.off = false := by simpa using hoff
      rw [← h]

end Sys2Proof.Machine

/-! Frequency steps and the clock sources (R143, R391, R392, R394). -/

namespace Sys2Proof.Machine

section Steps

variable {s : State} {bd n f : Nat} {nw : Bool} {w : Weave}

/-! ### A step is prepared -/

/-- Island `k` is to step to point `f`. -/
def stepSet (f : Nat) (s : State) (k : Nat) : State := setIsl s k { isl s k with step := some f }

theorem isl_stepSet_ne (s : State) {j k : Nat} (h : j ≠ k) : isl (stepSet f s k) j = isl s j := isl_setIsl_ne _ _ h

theorem isl_stepsSet_out (l : List Nat) (s : State) {k : Nat} (h : k ∉ l) : isl (eachOf l s (stepSet f)) k = isl s k := by
  induction l generalizing s with
  | nil => rfl
  | cons j l ih =>
    obtain ⟨hj, hl⟩ := not_or.1 (mt List.mem_cons.2 h)
    exact (ih _ hl).trans (isl_stepSet_ne s hj)

/-- An island that has its step keeps it. -/
theorem step_stepsSet_keeps (l : List Nat) {s : State} {k : Nat} (h : (isl s k).step = some f) :
    (isl (eachOf l s (stepSet f)) k).step = some f := by
  induction l generalizing s with
  | nil => exact h
  | cons j l ih =>
    refine ih ?_
    by_cases e : k = j
    · rw [e, stepSet, isl_setIsl]
    · rw [isl_stepSet_ne s e, h]

theorem step_stepsSet (l : List Nat) (s : State) {k : Nat} (h : k ∈ l) : (isl (eachOf l s (stepSet f)) k).step = some f := by
  induction l generalizing s with
  | nil => cases h
  | cons j l ih =>
    by_cases e : k = j
    · refine step_stepsSet_keeps l ?_
      rw [e, stepSet, isl_setIsl]
    · exact ih _ ((List.mem_cons.1 h).resolve_left e)

theorem stepsSet_keeps (l : List Nat) (s : State) :
    (eachOf l s (stepSet f)).pow = s.pow ∧ (eachOf l s (stepSet f)).regs = s.regs :=
  eachOf_rel (R := fun s t => t.pow = s.pow ∧ t.regs = s.regs) (fun _ => ⟨rfl, rfl⟩)
    (fun _ _ _ h k => ⟨k.1.trans h.1, k.2.trans h.2⟩) (fun s k => (⟨rfl, rfl⟩ : (stepSet f s k).pow = s.pow ∧ _)) l s

/-- The loop's time stands, and the plan is taken up. -/
def prepNoted (bd n : Nat) (nw : Bool) (s : State) : State :=
  setPlan (wr s Reg.CLK_PREP_MAX 0 (max (rd s Reg.CLK_PREP_MAX 0) (min n (2 ^ 32 - 1)))) bd nw none

theorem exec_stepPrepared (hbd : bd < 32) (hawake : awake s = true) (hrun : runningOn s bd = [(bd, nw, w)])
    (hplan : planOf s bd nw = some f) (hfree : ∀ k ∈ w.place, (isl s k).step = none)
    (hrails : f ≤ curFreq s w.place ∨ railsBusy s w.place = false) :
    exec (.stepPrepared bd n) s = .next (eachOf w.place (prepNoted bd n nw s) (stepSet f)) := by
  have hidle : (w.place.any fun k => (isl s k).step.isSome) = false :=
    List.any_eq_false.2 fun k hk => by rw [hfree k hk]; exact Bool.false_ne_true
  have hgo : ¬((w.place.any fun k => (isl s k).step.isSome) = true ∨ (f > curFreq s w.place ∧ railsBusy s w.place = true)) := by
    rw [hidle]
    rintro (h | ⟨h1, h2⟩)
    · cases h
    · exact hrails.elim (fun h => by omega) fun h => Bool.noConfusion (h.symm.trans h2)
  show execStepPrepared bd n s = _
  rw [execStepPrepared, onUnit_live (decide_eq_true hbd) hawake, hrun, eachOf, List.foldl_cons, List.foldl_nil]
  dsimp only
  rw [hplan]
  exact congrArg Host.Outcome.next (if_neg hgo)

theorem max_min_lt (s : State) {g : Fld} (hw : g.w = 32) (n : Nat) : max (rd s g 0) (min n (2 ^ 32 - 1)) < 2 ^ g.w := by
  have h := rd_lt s g 0
  rw [hw] at h ⊢
  omega

theorem prepNoted_spec (bd n : Nat) (nw : Bool) (s : State) :
    planOf (prepNoted bd n nw s) bd nw = none ∧
    rd (prepNoted bd n nw s) Reg.CLK_PREP_MAX 0 = max (rd s Reg.CLK_PREP_MAX 0) (min n (2 ^ 32 - 1)) ∧
    WordsKept s (prepNoted bd n nw s) [Reg.CLK_PREP_MAX.addr 0] := by
  refine ⟨tget_tset_same (fun _ => none) s.pow.plan (2 * bd + oneIf nw) none, ?_, fun a ha => ?_⟩
  · exact (rd_wr_self s (f := Reg.CLK_PREP_MAX) 0 _ (by decide)).trans (Nat.mod_eq_of_lt (max_min_lt s rfl n))
  · exact rw_wr_ne s Reg.CLK_PREP_MAX 0 _ a (by simpa using ha)

/-! ### The clocks change over -/

/-- A field of an island's step log, in the entry the step takes. -/
def logPut (k e : Nat) (s : State) (g : Fld) (v : Nat) : State :=
  ww s (g.addr k + 16 * e) (setF g.lo g.w v (rw s (g.addr k + 16 * e)))

/-- The registers of the clock block are no island's. -/
theorem rw_logPut (k e : Nat) (s : State) {g : Fld} (hg : 0x10000 ≤ g.addr0) (v : Nat) {a : Nat} (ha : a < 0x10000) :
    rw (logPut k e s g v) a = rw s a := rw_ww_ne _ _ (by simp only [Fld.addr]; omega)

/-- The step is logged (R178, R179). -/
def stepLogged (k f gap : Nat) (s : State) : State :=
  let e := min (rd s Reg.ISL_WV_STAT_STEPS k) 15
  let s := logPut k e s Reg.ISL_STEP_ROUND (rd s Reg.ISL_WV_RND k)
  let s := logPut k e s Reg.ISL_STEP_FRZ (min (frzSum s k) (2 ^ 32 - 1))
  let s := logPut k e s Reg.ISL_STEP_F_OLD (rd s Reg.CLK_FREQ_MHZ k)
  logPut k e (logPut k e s Reg.ISL_STEP_F_NEW (100 * f)) Reg.ISL_STEP_GAP_NS (min gap 0xFFFF)

theorem switchClock_eq (s : State) (k f gap : Nat) : switchClock s k f gap =
    let n := rd s Reg.ISL_WV_STAT_STEPS k
    let u := stepLogged k f gap s
    let u := if n ≥ 16 then wr u Reg.ISL_WV_STAT_LOG_OVF k 1 else u
    wr (wr u Reg.ISL_WV_STAT_STEPS k (min (n + 1) 31)) Reg.CLK_FREQ_MHZ k (100 * f) := rfl

theorem stepLogged_words (k f gap : Nat) (s : State) : WordsOn (· < 0x10000) s (stepLogged k f gap s) := by
  intro a ha
  unfold stepLogged
  dsimp only
  rw [rw_logPut _ _ _ (by decide) _ ha, rw_logPut _ _ _ (by decide) _ ha, rw_logPut _ _ _ (by decide) _ ha,
    rw_logPut _ _ _ (by decide) _ ha, rw_logPut _ _ _ (by decide) _ ha]

/-- A word of the blocks below the islands, but the frequency of island `k`. -/
def LowWord (k a : Nat) : Prop := a < 0x10000 ∧ a ≠ Reg.CLK_FREQ_MHZ.addr k

theorem not_lowWord {g : Fld} (hg : 0x10000 ≤ g.addr0) (i k : Nat) : ¬LowWord k (g.addr i) := by
  rintro ⟨h, -⟩
  simp only [Fld.addr] at h
  omega

theorem switchClock_words (s : State) (k f gap : Nat) : WordsOn (LowWord k) s (switchClock s k f gap) := by
  have hlog : WordsOn (LowWord k) s (stepLogged k f gap s) := fun a ha => stepLogged_words k f gap s a ha.1
  rw [switchClock_eq]
  refine ((hlog.trans (.ite (.wr (not_lowWord (by decide) k k) _ _) (.refl _))).trans
    (.wr (not_lowWord (by decide) k k) _ _)).trans (.wr (fun h => h.2 rfl) _ _)

theorem rd_freq_switched (s : State) (k gap : Nat) (hf : f ≤ 33) : rd (switchClock s k f gap) Reg.CLK_FREQ_MHZ k = 100 * f := by
  rw [switchClock_eq]
  exact (rd_wr_self _ (f := Reg.CLK_FREQ_MHZ) k _ (by decide)).trans (Nat.mod_eq_of_lt (show _ < 2 ^ 16 by omega))

theorem logPut_fab (k e : Nat) (s : State) (g : Fld) (v : Nat) : (logPut k e s g v).fab = s.fab := rfl

theorem stepLogged_fab (s : State) (k f gap : Nat) : (stepLogged k f gap s).fab = s.fab := by
  unfold stepLogged
  dsimp only
  rw [logPut_fab, logPut_fab, logPut_fab, logPut_fab, logPut_fab]

theorem switchClock_fab (s : State) (k f gap : Nat) : (switchClock s k f gap).fab = s.fab := by
  rw [switchClock_eq]
  dsimp only
  rw [wr_fab, wr_fab]
  split
  · rw [wr_fab, stepLogged_fab]
  · exact stepLogged_fab s k f gap

/-- One island's turn in a change-over. -/
def clockTurn (gap : Nat) (s : State) (k : Nat) : State := match (isl s k).step with
  | some f => if inRounds s k then switchClock s k f gap else wr s Reg.CLK_FREQ_MHZ k (100 * f)
  | none => s

/-- An island at its frozen step. -/
theorem clockTurn_frozen {gap k : Nat} (hstep : (isl s k).step = some f) (hrounds : inRounds s k = true) :
    clockTurn gap s k = switchClock s k f gap := by
  rw [clockTurn, hstep]
  exact if_pos hrounds

/-- Every island of a list switches: its own frequency stands, other low words and the fabric hold. -/
theorem clockTurns_spec (gap : Nat) (hf : f ≤ 33) (l : List Nat) {s : State}
    (hready : ∀ k ∈ l, k < 32 ∧ (isl s k).step = some f ∧ inRounds s k = true) :
    (eachOf l s (clockTurn gap)).fab = s.fab ∧ (∀ k ∈ l, rd (eachOf l s (clockTurn gap)) Reg.CLK_FREQ_MHZ k = 100 * f) ∧
      ∀ a < 0x10000, (∀ k ∈ l, a ≠ Reg.CLK_FREQ_MHZ.addr k) → rw (eachOf l s (clockTurn gap)) a = rw s a := by
  induction l generalizing s with
  | nil => exact ⟨rfl, fun k hk => (nomatch hk), fun _ _ _ => rfl⟩
  | cons j l ih =>
    obtain ⟨hj, hstep, hrounds⟩ := hready j List.mem_cons_self
    have hturn := clockTurn_frozen (gap := gap) hstep hrounds
    have hfab : (clockTurn gap s j).fab = s.fab := by rw [hturn, switchClock_fab]
    have hisl (k : Nat) : isl (clockTurn gap s j) k = isl s k := congrArg (fun x : Fabric => tget (fun _ => Island.idle) x.isl k) hfab
    have hrest : ∀ k ∈ l, k < 32 ∧ (isl (clockTurn gap s j) k).step = some f ∧ inRounds (clockTurn gap s j) k = true := by
      intro k hk
      obtain ⟨hlt, hs, hr⟩ := hready k (List.mem_cons_of_mem _ hk)
      unfold inRounds at hr ⊢
      rw [hisl]
      exact ⟨hlt, hs, hr⟩
    obtain ⟨hfab', hfreq, hwords⟩ := ih hrest
    refine ⟨hfab'.trans hfab, fun k hk => ?_, fun a ha hne => ?_⟩
    · by_cases hkl : k ∈ l
      · exact hfreq k hkl
      · have hkj : k = j := (List.mem_cons.1 hk).resolve_right hkl
        subst hkj
        have hapart : ∀ i ∈ l, Reg.CLK_FREQ_MHZ.addr k ≠ Reg.CLK_FREQ_MHZ.addr i := by
          intro i hi e
          have hik : k = i := by simp only [Fld.addr, Reg.CLK_FREQ_MHZ] at e; omega
          exact hkl (hik ▸ hi)
        have hlow : Reg.CLK_FREQ_MHZ.addr k < 0x10000 := by simp only [Fld.addr, Reg.CLK_FREQ_MHZ]; omega
        show rd (eachOf l (clockTurn gap s k) (clockTurn gap)) Reg.CLK_FREQ_MHZ k = _
        rw [rd_of_rw (hwords _ hlow hapart), hturn, rd_freq_switched s k gap hf]
    · have hone : rw (clockTurn gap s j) a = rw s a := by
        rw [hturn]
        exact switchClock_words s j f gap a ⟨ha, hne j List.mem_cons_self⟩
      exact (hwords a ha fun k hk => hne k (List.mem_cons_of_mem _ hk)).trans hone

/-- What a change-over asks of the islands of its weave (R394). -/
def Frozen (s : State) (w : Weave) (f : Nat) : Prop := ∀ k ∈ w.place, k < 32 ∧
  (isl s k).step = some f ∧ (isl s k).stepping = true ∧ inRounds s k = true ∧ f ≠ rd s Reg.CLK_FREQ_MHZ k / 100

/-- The gap's longest time stands. -/
def gapNoted (n : Nat) (s : State) : State :=
  wr s Reg.CLK_GAP_MAX 0 (max (rd s Reg.CLK_GAP_MAX 0) (min n (2 ^ 32 - 1)))

theorem exec_clockSwitch (hbd : bd < 32) (hawake : awake s = true) (hrun : runningOn s bd = [(bd, nw, w)])
    (hsome : w.place ≠ []) (hready : Frozen s w f) :
    exec (.clockSwitch bd n) s = .next (gapNoted n (eachOf w.place s (clockTurn n))) := by
  have htodo : (w.place.filter fun k => (isl s k).step.isSome && inRounds s k) = w.place :=
    List.filter_eq_self.2 fun k hk => by
      obtain ⟨-, hstep, -, hrounds, -⟩ := hready k hk
      rw [hstep, hrounds]
      rfl
  have hgo : ¬(w.place.isEmpty = true ∨ (w.place.any fun k => !(isl s k).stepping) = true ∨
      (w.place.any fun k => (isl s k).step == some (rd s Reg.CLK_FREQ_MHZ k / 100)) = true) := by
    rintro (h | h | h)
    · exact hsome (List.isEmpty_iff.1 h)
    · obtain ⟨k, hk, hnot⟩ := List.any_eq_true.1 h
      rw [(hready k hk).2.2.1] at hnot
      cases hnot
    · obtain ⟨k, hk, hsame⟩ := List.any_eq_true.1 h
      obtain ⟨-, hstep, -, -, hne⟩ := hready k hk
      rw [hstep, beq_iff_eq, Option.some_inj] at hsame
      exact hne hsame
  show execClockSwitch bd n s = _
  rw [execClockSwitch, onUnit_live (decide_eq_true hbd) hawake, hrun, eachOf, List.foldl_cons, List.foldl_nil]
  dsimp only
  rw [htodo]
  exact congrArg Host.Outcome.next (if_neg hgo)

/-! ### The islands restart -/

theorem exec_stepResume (hbd : bd < 32) (hawake : awake s = true) (hrun : runningOn s bd = [(bd, nw, w)])
    (hgap : ∃ k ∈ w.place, inGap s k = true) :
    let u := eachOf w.place s fun u k => noteHold (setIsl u k { isl u k with step := none, stepping := false }) k
    exec (.stepResume bd) s = .next (followRails (planWeave (bump u Reg.CLK_STEP_CNT 0 1) (bd, nw, w))) := by
  have hany : w.place.any (inGap s) = true := List.any_eq_true.2 hgap
  show execStepResume bd s = _
  rw [execStepResume, onUnit_live (decide_eq_true hbd) hawake, hrun, eachOf, List.foldl_cons, List.foldl_nil]
  exact congrArg (fun u => Host.Outcome.next (followRails u)) (if_neg (by rw [hany]; decide))

end Steps

/-! ### Clock sources (R391, R392) -/

section Sources

variable {s : State}

theorem on_of_awake (h : awake s = true) : s.pow.off = false := by
  unfold awake at h
  simpa using (Bool.and_eq_true_iff.1 h).1

theorem exec_refclkLost (hawake : awake s = true) : exec .refclkLost s = .next (wr s Reg.CLK_REF_STAT_LOST 0 1) :=
  congrArg Host.Outcome.next (if_neg (by rw [on_of_awake hawake]; decide))

theorem exec_refclkRestored (hawake : awake s = true) : exec .refclkRestored s =
    .next (if s.sec.wait then nextStep (setSec (wr s Reg.CLK_REF_STAT_LOST 0 0)
        { (wr s Reg.CLK_REF_STAT_LOST 0 0).sec with wait := false }) (rd (wr s Reg.CLK_REF_STAT_LOST 0 0) Reg.RST_BOOT_STAT_STEP 0 + 1)
      else wr s Reg.CLK_REF_STAT_LOST 0 0) :=
  congrArg Host.Outcome.next (if_neg (by rw [on_of_awake hawake]; decide))

end Sources

/-- Settles O50: the islands of a weave prepare, change over and restart together; the sources switch. -/
theorem clockSteps : Obligations.ClockSteps := by
  unfold Obligations.ClockSteps
  intro s bd n hbd hawake
  refine ⟨?_, ?_, ?_, ?_, ?_, ?_, ?_⟩
  · intro w nw f hrun hplan hfree hrails
    obtain ⟨hnone, hmax, hwords⟩ := prepNoted_spec bd n nw s
    obtain ⟨hpow, hregs⟩ := stepsSet_keeps (f := f) w.place (prepNoted bd n nw s)
    refine ⟨_, exec_stepPrepared hbd hawake hrun hplan hfree hrails, fun k hk => step_stepsSet _ _ hk,
      fun k hk => isl_stepsSet_out _ _ hk, ?_, (rd_of_regs hregs _ _).trans hmax, fun a ha => ?_⟩
    · unfold planOf at hnone ⊢
      rw [hpow, hnone]
    · exact (WordsOn.of_regs (P := fun _ => True) hregs a trivial).trans (hwords a ha)
  · intro w nw f hrun hnodup hsome hready hf
    obtain ⟨hfab, hfreq, hwords⟩ := clockTurns_spec n hf w.place fun k hk =>
      ⟨(hready k hk).1, (hready k hk).2.1, (hready k hk).2.2.2.1⟩
    refine ⟨_, exec_clockSwitch hbd hawake hrun hsome hready, fun k hk => ?_, ?_, hfab⟩
    · exact (rd_wr_ne _ Reg.CLK_GAP_MAX Reg.CLK_FREQ_MHZ _ _ _ (by simp only [Fld.addr, Reg.CLK_FREQ_MHZ, Reg.CLK_GAP_MAX]; omega)).trans (hfreq k hk)
    · have hgap : rd (eachOf w.place s (clockTurn n)) Reg.CLK_GAP_MAX 0 = rd s Reg.CLK_GAP_MAX 0 :=
        rd_of_rw (hwords _ (by decide) fun k _ => by simp only [Fld.addr, Reg.CLK_FREQ_MHZ, Reg.CLK_GAP_MAX]; omega)
      rw [gapNoted, rd_wr_self _ _ _ (by decide), hgap]
      exact Nat.mod_eq_of_lt (max_min_lt s rfl n)
  · intro w nw hrun hgap
    exact exec_stepResume hbd hawake hrun hgap
  · exact ⟨_, exec_refclkLost hawake, rd_wr_self _ _ _ (by decide), rfl, fun a ha => rw_wr_ne _ _ _ _ _ (by simpa using ha)⟩
  · intro hwait
    refine ⟨wr s Reg.CLK_REF_STAT_LOST 0 0, ?_, rd_wr_self _ _ _ (by decide), rfl, fun a ha => rw_wr_ne _ _ _ _ _ (by simpa using ha)⟩
    rw [exec_refclkRestored hawake, if_neg (by rw [hwait]; decide)]
  · intro hwait u
    rw [exec_refclkRestored hawake, if_pos hwait, rd_wr_ne _ _ Reg.RST_BOOT_STAT_STEP _ _ _ (by decide)]
  · intro hlost
    refine ⟨wr s Reg.CLK_REF_STAT_AO_INT 0 0, ?_, rd_wr_self _ _ _ (by decide), rfl, fun a ha => rw_wr_ne _ _ _ _ _ (by simpa using ha)⟩
    show execAoClockSwitch s = _
    rw [execAoClockSwitch, live, if_pos hawake, if_neg (by omega)]

end Sys2Proof.Machine

/-! Resets and boot steps (R398 to R400, R406, R416, R455). -/

namespace Sys2Proof.Machine

/-! ### What a reset leaves of the registers -/

section Blank

variable {s : State}

/-- The registers a reset gives values of its own beside those of the grade: FUSE_STAT and SLOTS. -/
abbrev BlankWord (a : Nat) : Prop := a ≠ Reg.SEC_FUSE_STAT_OWNER.addr 0 ∧ a ≠ Reg.FWU_SLOTS_S0.addr 0

theorem showFuses_words (s : State) : WordsOn (· ≠ Reg.SEC_FUSE_STAT_OWNER.addr 0) s (showFuses s) :=
  (((WordsOn.wr (fun h => h rfl) s _).trans (.wr (fun h => h rfl) _ _)).trans (.wr (fun h => h rfl) _ _)).trans
    (.wr (fun h => h rfl) _ _)

theorem showSlots_words (s : State) : WordsOn (· ≠ Reg.FWU_SLOTS_S0.addr 0) s (showSlots s) :=
  (((WordsOn.wr (fun h => h rfl) s _).trans (.wr (fun h => h rfl) _ _)).trans (.wr (fun h => h rfl) _ _)).trans
    (.wr (fun h => h rfl) _ _)

/-- The state a reset starts from, before the fuses and slots show. -/
def blankSeed (s : State) : State :=
  { State.reset with
    pending := s.pending, fv := s.fv, now := s.now, out := s.out, rdata := s.rdata
    regs := gradeRegs (rd s Reg.HDR_CAPS_GRADE 0x0A)
    mem := { Memory.reset with t3 := s.mem.t3 }
    sec := { Security.reset with flash := s.sec.flash, fuses := s.sec.fuses }
    pow := { Power.reset with pin := s.pow.pin, alert := s.pow.alert, tripLow := s.pow.tripLow } }

theorem blankFrom_eq (s : State) : blankFrom s = showSlots (showFuses (blankSeed s)) := rfl

theorem showFuses_only (s : State) : OnlyRegs s (showFuses s) :=
  ((((OnlyRegs.refl s).wr _ _ _).wr _ _ _).wr _ _ _).wr _ _ _

theorem blankFrom_only (s : State) : OnlyRegs (blankSeed s) (blankFrom s) := by
  rw [blankFrom_eq]
  exact ((((showFuses_only (blankSeed s)).wr _ _ _).wr _ _ _).wr _ _ _).wr _ _ _

theorem blankFrom_words (s : State) : WordsOn BlankWord (blankSeed s) (blankFrom s) := fun a ha =>
  (showSlots_words _ a ha.2).trans (showFuses_words _ a ha.1)

/-- What the grade's registers read at the boot registers and the host link. -/
theorem gradeRegs_boot : ∀ g < 2, getF 0 2 (tget resetWord (gradeRegs g) (Reg.RST_MODE.addr 0)) = 1 ∧
    getF 0 3 (tget resetWord (gradeRegs g) (Reg.RST_BOOT_STAT_STEP.addr 0)) = 1 ∧
    getF 0 5 (tget resetWord (gradeRegs g) (Reg.RST_CAUSE.addr 0)) = 1 ∧
    getF 0 1 (tget resetWord (gradeRegs g) (Reg.FUS_LINK_STAT_UP.addr 0)) = 0 := by decide +kernel

/-- A blank device is in START-UP at step 1, its cause power, its host link down (R398, R399). -/
theorem blank_boot (s : State) : rd (blankFrom s) Reg.RST_MODE 0 = 1 ∧ rd (blankFrom s) Reg.RST_BOOT_STAT_STEP 0 = 1 ∧
    rd (blankFrom s) Reg.RST_CAUSE 0 = 1 ∧ rd (blankFrom s) Reg.FUS_LINK_STAT_UP 0 = 0 := by
  obtain ⟨hmode, hstep, hcause, hlink⟩ := gradeRegs_boot _ (rd_lt s Reg.HDR_CAPS_GRADE 0x0A)
  have hwords := blankFrom_words s
  refine ⟨?_, ?_, ?_, ?_⟩
  · exact (hwords.rd (by decide)).trans hmode
  · exact (hwords.rd (by decide)).trans hstep
  · exact (hwords.rd (by decide)).trans hcause
  · exact (hwords.rd (by decide)).trans hlink

end Blank

/-! ### Straps and causes -/

section Straps

variable {s : State}

abbrev StrapWord (a : Nat) : Prop := a ≠ Reg.SKL0_DEV_DEVNUM.addr 0 ∧ a ≠ Reg.RST_BOOT_STAT_STRAP.addr 0

theorem latchStraps_words (s : State) (n : Nat) (low : Bool) : WordsOn StrapWord s (latchStraps s n low) :=
  (((WordsOn.wr (fun h => h.1 rfl) s _).trans (.wr (fun h => h.1 rfl) _ _)).trans (.wr (fun h => h.1 rfl) _ _)).trans
    (.wr (fun h => h.2 rfl) _ _)

theorem latchStraps_only (s : State) (n : Nat) (low : Bool) : OnlyRegs s (latchStraps s n low) :=
  ((((OnlyRegs.refl s).wr _ _ _).wr _ _ _).wr _ _ _).wr _ _ _

theorem rd_devnum_latched (s : State) (n : Nat) (low : Bool) : rd (latchStraps s n low) Reg.SKL0_DEV_DEVNUM 0 = n % 2 ^ 6 := by
  rw [latchStraps, rd_wr_ne _ _ _ _ _ _ (by decide)]
  exact rd_wr_self _ _ _ (by decide)

theorem rd_strap_latched (s : State) (n : Nat) (low : Bool) :
    rd (latchStraps s n low) Reg.RST_BOOT_STAT_STRAP 0 = oneIf low := by
  rw [latchStraps, rd_wr_self _ _ _ (by decide)]
  exact oneIf_mod_two low

theorem rd_step_latched (s : State) (n : Nat) (low : Bool) :
    rd (latchStraps s n low) Reg.RST_BOOT_STAT_STEP 0 = rd s Reg.RST_BOOT_STAT_STEP 0 := by
  rw [latchStraps, rd_wr_bits _ _ _ _ (by decide) (.inl (by decide)), rd_wr_ne _ _ _ _ _ _ (by decide),
    rd_wr_ne _ _ _ _ _ _ (by decide), rd_wr_ne _ _ _ _ _ _ (by decide)]

/-- The brake's own registers and interrupt are none of the field's. -/
theorem rd_setBrake_far (s : State) {f : Fld} {i : Nat} (h : NoIntWord 0x08 2 (f.addr i))
    (hstat : f.addr i ≠ Reg.PWR_STAT_BRAKE.addr 0) (hcount : f.addr i ≠ Reg.PWR_BRAKE_CNT.addr 0) :
    rd (setBrake s) f i = rd s f i := by
  rcases setBrake_cases s with e | e | e <;> rw [e]
  · rw [rd_raiseInt h]
    exact (rd_bump_apart (wr s Reg.PWR_STAT_BRAKE 0 1) _ _ _ _ _ (.inl hcount)).trans (rd_wr_ne _ _ _ _ _ _ hstat)
  · exact rd_of_rw (brakeEnded_words _ (by simpa using hstat))

/-- Registers beyond the page headers below the islands, but FUS and the power block's. -/
theorem rd_setBrake_block (s : State) {f : Fld} {i : Nat} (hlow : 0x9000 ≤ f.addr i) (hhigh : f.addr i < 0xF000)
    (hblock : 0x100 ≤ f.addr i % 0x1000) : rd (setBrake s) f i = rd s f i :=
  rd_setBrake_far s (noIntWord_of_block (by decide) hblock (.inl hhigh))
    (by simp only [Fld.addr, Reg.PWR_STAT_BRAKE] at *; omega) (by simp only [Fld.addr, Reg.PWR_BRAKE_CNT] at *; omega)

theorem devnum_noInt : NoIntWord 0x08 2 (Reg.SKL0_DEV_DEVNUM.addr 0) :=
  ⟨by decide, by decide, fun n => by simp only [Fld.addr, Reg.SKL0_DEV_DEVNUM, Reg.SKL_TX_FLITS]; omega⟩

theorem linkUp_noInt : NoIntWord 0x08 2 (Reg.FUS_LINK_STAT_UP.addr 0) :=
  ⟨by decide, by decide, fun n => by simp only [Fld.addr, Reg.FUS_LINK_STAT_UP, Reg.SKL_TX_FLITS]; omega⟩

end Straps

/-! ### Power-on reset -/

section PowerOn

/-- The device once the straps are latched and the rails judged. -/
def poweredOn (s : State) (straps : Nat) (rn ok : Bool) : State :=
  let u := latchStraps (blankFrom { s with now := 0 }) straps (!rn)
  setPow u { u.pow with tripLow := false, off := !ok }

theorem exec_powerOnReset (s : State) {straps : Nat} (h : straps < 64) (rn ok : Bool) :
    exec (.powerOnReset straps rn ok) s = .next (setBrake (poweredOn s straps rn ok)) := by
  show execPowerOnReset straps rn ok s = _
  rw [execPowerOnReset, onUnit, if_pos (decide_eq_true h)]
  rfl

theorem rd_poweredOn (s : State) (straps : Nat) (rn ok : Bool) (f : Fld) (i : Nat) : rd (poweredOn s straps rn ok) f i =
    rd (latchStraps (blankFrom { s with now := 0 }) straps (!rn)) f i := rd_setPow _ _ f i

theorem latched_only (s : State) (straps : Nat) (low : Bool) : OnlyRegs (blankSeed s) (latchStraps (blankFrom s) straps low) :=
  ((((blankFrom_only s).wr _ _ _).wr _ _ _).wr _ _ _).wr _ _ _

/-- What a power-on reset leaves beside the registers (R398, R455). -/
structure PowersOn (s t : State) (ok : Bool) : Prop where
  now : t.now = 0
  off : t.pow.off = !ok
  flash : t.sec.flash = s.sec.flash
  fuses : t.sec.fuses = s.sec.fuses
  t3 : t.mem.t3 = s.mem.t3
  t2 : t.mem.t2 = []
  inflight : t.front.inflight = []
  pending : t.pending = s.pending

theorem poweredOn_state (s : State) (straps : Nat) (rn ok : Bool) : PowersOn s (setBrake (poweredOn s straps rn ok)) ok := by
  have h := latched_only { s with now := 0 } straps (!rn)
  rw [setBrake_only, poweredOn]
  generalize latchStraps (blankFrom { s with now := 0 }) straps (!rn) = u at h
  rw [h]
  exact ⟨rfl, rfl, rfl, rfl, rfl, rfl, rfl, rfl⟩

end PowerOn

/-! ### Resets that keep counts -/

section Keeping

variable {s : State} {b : Nat}

/-- Why a reset came, as CAUSE has it (R399). -/
def causeOf (s : State) (b : Nat) : Nat :=
  let halt := rd s Reg.PWR_STAT_PFHALT 0 == 1
  2 ^ b + 8 * oneIf halt + 16 * oneIf (halt && decide (s.pow.cause ≥ 2))

/-- The counts a reset keeps. -/
def countsKept (s : State) : State :=
  wr (wr (wr (blankFrom s) Reg.PWR_TRIP_CNT 0 (rd s Reg.PWR_TRIP_CNT 0)) Reg.RST_BOOT_CNT 0 (rd s Reg.RST_BOOT_CNT 0))
    Reg.SEC_UNLOCK_CNT 0 (rd s Reg.SEC_UNLOCK_CNT 0)

/-- The device of a warm or soft reset before its brake is judged. -/
def resetKept (s : State) (b : Nat) : State :=
  wr (latchStraps (countsKept s) (rd s Reg.SKL0_DEV_SLOT 0 + 4 * rd s Reg.SKL0_DEV_TRAY 0) (rd s Reg.RST_BOOT_STAT_STRAP 0 == 1))
    Reg.RST_CAUSE 0 (causeOf s b)

theorem resetKeeping_eq (s : State) (b : Nat) : resetKeeping s b = setBrake (resetKept s b) := rfl

theorem resetKept_only (s : State) (b : Nat) : OnlyRegs (blankSeed s) (resetKept s b) := by
  have hcounts : OnlyRegs (blankSeed s) (countsKept s) := (((blankFrom_only s).wr _ _ _).wr _ _ _).wr _ _ _
  exact ((((hcounts.wr _ _ _).wr _ _ _).wr _ _ _).wr _ _ _).wr _ _ _

abbrev CountWord (a : Nat) : Prop :=
  a ≠ Reg.PWR_TRIP_CNT.addr 0 ∧ a ≠ Reg.RST_BOOT_CNT.addr 0 ∧ a ≠ Reg.SEC_UNLOCK_CNT.addr 0

theorem countsKept_words (s : State) : WordsOn CountWord (blankFrom s) (countsKept s) :=
  ((WordsOn.wr (fun h => h.1 rfl) _ _).trans (.wr (fun h => h.2.1 rfl) _ _)).trans (.wr (fun h => h.2.2 rfl) _ _)

abbrev KeptWord (a : Nat) : Prop := StrapWord a ∧ a ≠ Reg.RST_CAUSE.addr 0

theorem resetKept_words (s : State) (b : Nat) : WordsOn KeptWord (countsKept s) (resetKept s b) := fun a ha =>
  (rw_wr_ne _ _ _ _ _ ha.2).trans (latchStraps_words _ _ _ a ha.1)

/-- A field that takes a value of its own width reads it. -/
theorem rd_wr_rd (u s : State) {f : Fld} {i : Nat} (hf : f.lo + f.w ≤ 32) : rd (wr u f i (rd s f i)) f i = rd s f i :=
  (rd_wr_self u i _ hf).trans (Nat.mod_eq_of_lt (rd_lt s f i))

theorem rd_counts (s : State) : rd (countsKept s) Reg.PWR_TRIP_CNT 0 = rd s Reg.PWR_TRIP_CNT 0 ∧
    rd (countsKept s) Reg.RST_BOOT_CNT 0 = rd s Reg.RST_BOOT_CNT 0 ∧
    rd (countsKept s) Reg.SEC_UNLOCK_CNT 0 = rd s Reg.SEC_UNLOCK_CNT 0 := by
  unfold countsKept
  refine ⟨?_, ?_, rd_wr_rd _ s (by decide)⟩
  · rw [rd_wr_ne _ _ _ _ _ _ (by decide), rd_wr_ne _ _ _ _ _ _ (by decide), rd_wr_rd _ s (by decide)]
  · rw [rd_wr_ne _ _ _ _ _ _ (by decide), rd_wr_rd _ s (by decide)]

/-- What a warm or soft reset shows: START-UP at step 1, the counts, the host link down (R399). -/
structure ResetShows (s t : State) : Prop where
  trips : rd t Reg.PWR_TRIP_CNT 0 = rd s Reg.PWR_TRIP_CNT 0
  boots : rd t Reg.RST_BOOT_CNT 0 = rd s Reg.RST_BOOT_CNT 0
  unlocks : rd t Reg.SEC_UNLOCK_CNT 0 = rd s Reg.SEC_UNLOCK_CNT 0
  mode : rd t Reg.RST_MODE 0 = 1
  step : rd t Reg.RST_BOOT_STAT_STEP 0 = 1
  link : rd t Reg.FUS_LINK_STAT_UP 0 = 0

theorem resetKeeping_shows (s : State) (b : Nat) : ResetShows s (resetKeeping s b) := by
  obtain ⟨htrip, hboot, hunlock⟩ := rd_counts s
  obtain ⟨hmode, hstep, -, hlink⟩ := blank_boot s
  have hcounts := countsKept_words s
  have hwords := resetKept_words s b
  rw [resetKeeping_eq]
  refine ⟨?_, ?_, ?_, ?_, ?_, ?_⟩
  · rw [rd_setBrake_ne (by decide) (by decide) (by decide) (by decide), hwords.rd (by decide), htrip]
  · rw [rd_setBrake_block _ (by decide) (by decide) (by decide), hwords.rd (by decide), hboot]
  · rw [rd_setBrake_block _ (by decide) (by decide) (by decide), hwords.rd (by decide), hunlock]
  · rw [rd_setBrake_block _ (by decide) (by decide) (by decide), hwords.rd (by decide), hcounts.rd (by decide), hmode]
  · rw [rd_setBrake_block _ (by decide) (by decide) (by decide), resetKept, rd_wr_ne _ _ _ _ _ _ (by decide), rd_step_latched,
      hcounts.rd (by decide), hstep]
  · rw [rd_setBrake_far _ linkUp_noInt (by decide) (by decide), hwords.rd (by decide), hcounts.rd (by decide), hlink]

theorem rd_cause_kept (s : State) (b : Nat) : rd (resetKeeping s b) Reg.RST_CAUSE 0 = causeOf s b % 2 ^ 5 := by
  rw [resetKeeping_eq, rd_setBrake_block _ (by decide) (by decide) (by decide)]
  exact rd_wr_self _ _ _ (by decide)

theorem causeOf_running (h : rd s Reg.PWR_STAT_PFHALT 0 ≠ 1) : causeOf s b = 2 ^ b := by
  have hne : (rd s Reg.PWR_STAT_PFHALT 0 == 1) = false := by simpa using h
  rw [causeOf, hne]
  rfl

/-- A soft reset's bit, a warm one's, and the halt's, by what CAUSE takes. -/
theorem causeOf_bits (s : State) : bit (causeOf s 2 % 2 ^ 5) 2 = true ∧
    (rd s Reg.PWR_STAT_PFHALT 0 = 1 → bit (causeOf s 1 % 2 ^ 5) 3 = true) := by
  unfold causeOf
  dsimp only
  refine ⟨?_, fun h => ?_⟩
  · cases rd s Reg.PWR_STAT_PFHALT 0 == 1 <;> cases decide (s.pow.cause ≥ 2) <;> decide
  · rw [h]
    cases decide (s.pow.cause ≥ 2) <;> decide

/-- What a warm or soft reset keeps beside the registers. -/
structure ResetKeeps (s t : State) : Prop where
  flash : t.sec.flash = s.sec.flash
  fuses : t.sec.fuses = s.sec.fuses
  t3 : t.mem.t3 = s.mem.t3
  t2 : t.mem.t2 = []
  now : t.now = s.now
  inflight : t.front.inflight = []

theorem resetKeeping_keeps (s : State) (b : Nat) : ResetKeeps s (resetKeeping s b) := by
  have h := resetKept_only s b
  rw [resetKeeping_eq, setBrake_only]
  generalize resetKept s b = u at h
  rw [h]
  exact ⟨rfl, rfl, rfl, rfl, rfl, rfl⟩

theorem exec_warmReset (h : s.pow.off = false) : exec .warmReset s = .next (warmReset s) :=
  congrArg Host.Outcome.next (if_neg (by rw [h]; decide))

end Keeping

/-! ### Soft resets -/

section Soft

variable {s : State} {ag : Agent}

/-- The aperture bases are taken over (R399). -/
def basesKept (s t : State) : State := eachOf (List.range 3) t fun x a =>
  wr (wr x Reg.FUS_APT_BASE_LO a (rd s Reg.FUS_APT_BASE_LO a)) Reg.FUS_APT_BASE_HI a (rd s Reg.FUS_APT_BASE_HI a)

/-- The host link is taken over where the device runs (R399). -/
def linkKept (s t : State) : State :=
  if rd s Reg.PWR_STAT_PFHALT 0 = 1 then t
  else wr (wr (wr t Reg.FUS_LINK_STAT_UP 0 (rd s Reg.FUS_LINK_STAT_UP 0)) Reg.FUS_LINK_STAT_GEN2 0 (rd s Reg.FUS_LINK_STAT_GEN2 0))
    Reg.FUS_LINK_STAT_X8 0 (rd s Reg.FUS_LINK_STAT_X8 0)

theorem rd_setSec (s : State) (x : Security) (f : Fld) (i : Nat) : rd (setSec s x) f i = rd s f i := rfl

theorem softReset_eq (s : State) : softReset s = setSec (linkKept s (basesKept s (resetKeeping s 2)))
    { (linkKept s (basesKept s (resetKeeping s 2))).sec with soft := true } := rfl

theorem linkKept_words (s t : State) : WordsOn (· ≠ Reg.FUS_LINK_STAT_UP.addr 0) t (linkKept s t) :=
  .ite (.refl t) (((WordsOn.wr (fun h => h rfl) t _).trans (.wr (fun h => h rfl) _ _)).trans (.wr (fun h => h rfl) _ _))

theorem basesKept_words (s t : State) : WordsOn (· < 0xF000) t (basesKept s t) := by
  refine .each (fun u a => ?_) _ t
  exact (WordsOn.wr (fun h => by simp only [Fld.addr, Reg.FUS_APT_BASE_LO] at h; omega) u _).trans
    (.wr (fun h => by simp only [Fld.addr, Reg.FUS_APT_BASE_HI] at h; omega) _ _)

/-- Fields of the boot block and of the power block below FUS are a warm reset's. -/
theorem rd_softReset {f : Fld} (h : f.addr 0 < 0xF000) : rd (softReset s) f 0 = rd (resetKeeping s 2) f 0 := by
  have hlink : f.addr 0 ≠ Reg.FUS_LINK_STAT_UP.addr 0 := by simp only [Fld.addr, Reg.FUS_LINK_STAT_UP] at *; omega
  rw [softReset_eq, rd_setSec]
  exact ((linkKept_words s _).rd hlink).trans ((basesKept_words s _).rd h)

theorem rd_link_soft (h : rd s Reg.PWR_STAT_PFHALT 0 ≠ 1) :
    rd (softReset s) Reg.FUS_LINK_STAT_UP 0 = rd s Reg.FUS_LINK_STAT_UP 0 := by
  rw [softReset_eq, rd_setSec, linkKept, if_neg h, rd_wr_bits _ _ _ _ (by decide) (.inl (by decide)), rd_wr_bits _ _ _ _ (by decide) (.inl (by decide)), rd_wr_rd _ s (by decide)]

theorem rd_base_soft {a : Nat} (ha : a < 3) : rd (softReset s) Reg.FUS_APT_BASE_LO a = rd s Reg.FUS_APT_BASE_LO a := by
  have hlink : Reg.FUS_APT_BASE_LO.addr a ≠ Reg.FUS_LINK_STAT_UP.addr 0 := by
    simp only [Fld.addr, Reg.FUS_APT_BASE_LO, Reg.FUS_LINK_STAT_UP]; omega
  have hhi (i : Nat) : Reg.FUS_APT_BASE_LO.addr a ≠ Reg.FUS_APT_BASE_HI.addr i := by
    simp only [Fld.addr, Reg.FUS_APT_BASE_LO, Reg.FUS_APT_BASE_HI]; omega
  have hturn : ∀ (u : State) (j : Nat), j ≠ a → rd (wr (wr u Reg.FUS_APT_BASE_LO j (rd s Reg.FUS_APT_BASE_LO j))
      Reg.FUS_APT_BASE_HI j (rd s Reg.FUS_APT_BASE_HI j)) Reg.FUS_APT_BASE_LO a = rd u Reg.FUS_APT_BASE_LO a := by
    intro u j hj
    rw [rd_wr_ne _ _ _ _ _ _ (hhi j), rd_wr_ne _ _ _ _ _ _ (by simp only [Fld.addr, Reg.FUS_APT_BASE_LO]; omega)]
  obtain ⟨u, -, hend⟩ := rd_eachOf_at hturn List.nodup_range (List.mem_range.2 ha) (resetKeeping s 2)
  rw [softReset_eq, rd_setSec]
  refine ((linkKept_words s _).rd hlink).trans (hend.trans ?_)
  rw [rd_wr_ne _ _ _ _ _ _ (hhi a), rd_wr_rd _ s (by decide)]

theorem softKey_words : Reg.PWR_STAT_PFHALT.addr 0 ∉ storeWords (Reg.RST_SOFT_KEY.addr 0) ∧
    Reg.FUS_LINK_STAT_UP.addr 0 ∉ storeWords (Reg.RST_SOFT_KEY.addr 0) ∧
    ∀ a < 3, Reg.FUS_APT_BASE_LO.addr a ∉ storeWords (Reg.RST_SOFT_KEY.addr 0) := by decide +kernel

end Soft

/-! ### Boot steps -/

section Boot

variable {s : State} {us : Nat} {rep : BootReport}

theorem WordsOn.eachMem {α : Type} {P : Nat → Prop} {f : State → α → State} {l : List α}
    (hf : ∀ a ∈ l, ∀ s, WordsOn P s (f s a)) (s : State) : WordsOn P s (eachOf l s f) := by
  induction l generalizing s with
  | nil => exact .refl s
  | cons a l ih =>
    exact (hf a List.mem_cons_self s).trans (ih (fun b hb => hf b (List.mem_cons_of_mem _ hb)) _)

/-- The words of the reset block. -/
abbrev ResetWord (a : Nat) : Prop := 0xB000 ≤ a ∧ a < 0xC000

theorem fixedClocks_words (s : State) : WordsOn ResetWord s (fixedClocks s) := by
  have hlow : ∀ d ∈ [(32, 2000), (33, 2000), (34, 2000), (35, 2000), (36, 1600), (37, 1600), (38, 2000), (39, 1000)],
      Reg.CLK_FREQ_MHZ.addr d.1 < 0xB000 := by decide
  exact .eachMem (fun d hd u => .wr (fun h => absurd (hlow d hd) (Nat.not_lt.2 h.1)) u _) s

theorem setMeas_words (s : State) (i v : Nat) : WordsOn ResetWord s (setMeas s i v) :=
  .each (fun u j => .wr (fun h => by simp only [ResetWord, Fld.addr, Reg.SEC_MEAS] at h; omega) u _) _ s

/-- A boot step that may end: the device boots, and waits for nothing. -/
structure Boots (s : State) (n : Nat) : Prop where
  awake : awake s = true
  mode : rd s Reg.RST_MODE 0 = 1
  free : s.sec.wait = false
  power : s.pow.pfail = false
  at_ : rd s Reg.RST_BOOT_STAT_STEP 0 = n
  low : 1 ≤ n
  high : n ≤ 5

/-- The step's time stands. -/
def stepTimed (n us : Nat) (s : State) : State := wr s Reg.RST_STEP_US (n - 1) (min us (2 ^ 32 - 1))

/-- Step 1: the fixed clocks run, the boot is counted, the ROM is measured. -/
def firstBooted (u : State) : State :=
  let u := fixedClocks (bump u Reg.RST_BOOT_CNT 0 1)
  setMeas (showSlots (showFuses u)) 0 (Config.shake256 Config.romImage)

theorem exec_bootStepDone {n : Nat} (h : Boots s n) : exec (.bootStepDone us rep) s = .next (
    if n = 1 then
      if rd (firstBooted (stepTimed n us s)) Reg.RST_BOOT_STAT_STRAP 0 = 1 ∧ bit (rd (firstBooted (stepTimed n us s)) Reg.RST_CAUSE 0) 0
      then enterRecovery (firstBooted (stepTimed n us s)) 0 else nextStep (firstBooted (stepTimed n us s)) 2
    else if n = 2 then bootStep2 (stepTimed n us s)
    else if n = 3 then bootStep3 (stepTimed n us s)
    else if n = 4 then bootStep4 rep (stepTimed n us s)
    else bootStep5 rep (stepTimed n us s)) := by
  obtain ⟨hawake, hmode, hfree, hpower, rfl, hlow, hhigh⟩ := h
  have hgo : ¬(rd s Reg.RST_MODE 0 ≠ 1 ∨ s.sec.wait = true ∨ s.pow.pfail = true ∨ rd s Reg.RST_BOOT_STAT_STEP 0 = 6 ∨
      rd s Reg.RST_BOOT_STAT_STEP 0 = 0) := by
    rw [hmode, hfree, hpower]
    rintro (h | h | h | h | h)
    · exact h rfl
    · cases h
    · cases h
    · omega
    · omega
  show execBootStepDone us rep s = _
  rw [execBootStepDone, live, if_pos hawake]
  exact congrArg Host.Outcome.next (if_neg hgo)

theorem firstBooted_words (u : State) : WordsOn ResetWord (bump u Reg.RST_BOOT_CNT 0 1) (firstBooted u) := by
  have hfuses (t : State) : WordsOn ResetWord t (showFuses t) := fun a ha =>
    showFuses_words t a (by simp only [Fld.addr, Reg.SEC_FUSE_STAT_OWNER]; omega)
  have hslots (t : State) : WordsOn ResetWord t (showSlots t) := fun a ha =>
    showSlots_words t a (by simp only [Fld.addr, Reg.FWU_SLOTS_S0]; omega)
  exact (((fixedClocks_words _).trans (hfuses _)).trans (hslots _)).trans (setMeas_words _ _ _)

/-- Boot goes on where the next step needs no reference. -/
theorem nextStep_low {u : State} {n : Nat} (h : n < 4) : nextStep u n = wr u Reg.RST_BOOT_STAT_STEP 0 n := by
  rw [nextStep, if_neg (by omega)]
  exact if_neg (by omega)

theorem rd_step_next {u : State} {n : Nat} (h : n < 4) : rd (nextStep u n) Reg.RST_BOOT_STAT_STEP 0 = n := by
  rw [nextStep_low h]
  exact (rd_wr_self _ _ _ (by decide)).trans (Nat.mod_eq_of_lt (show n < 2 ^ 3 by omega))

theorem firstStep_spec (s : State) (us : Nat) : rd (firstBooted (stepTimed 1 us s)) Reg.RST_CAUSE 0 = rd s Reg.RST_CAUSE 0 ∧
    rd (nextStep (firstBooted (stepTimed 1 us s)) 2) Reg.RST_BOOT_CNT 0 = min (rd s Reg.RST_BOOT_CNT 0 + 1) (2 ^ 32 - 1) := by
  have hwords := firstBooted_words (stepTimed 1 us s)
  refine ⟨?_, ?_⟩
  · rw [hwords.rd (by decide), rd_bump_apart _ _ _ _ _ _ (.inl (by decide)), stepTimed, rd_wr_ne _ _ _ _ _ _ (by decide)]
  · rw [nextStep_low (by decide), rd_wr_ne _ _ _ _ _ _ (by decide), hwords.rd (by decide),
      rd_bump_same _ _ _ _ (fits_of_le (by decide)), stepTimed, rd_wr_ne _ _ _ _ _ _ (by decide)]
    rfl

/-- With no slot PENDING the active one is tried, and runs where its first stage verifies (R416). -/
theorem bootStep2_active (hnone : pendingSlot (bootRec s.sec.flash) = none)
    (hok : imageOk s 0 (imageOf s.sec.flash 0 (bootRec s.sec.flash).active) = true) :
    bootStep2 s = nextStep (runFirst s (bootRec s.sec.flash).active) 3 := by
  have hfirst : firstSlot s = (s, (bootRec s.sec.flash).active) := by
    unfold firstSlot
    dsimp only
    rw [hnone]
  rw [bootStep2, hfirst]
  exact if_pos hok

theorem rd_slot_run (s : State) (k : Nat) : rd (nextStep (runFirst s k) 3) Reg.RST_BOOT_STAT_SLOT 0 = k % 2 := by
  rw [nextStep_low (by decide), rd_wr_bits _ _ _ _ (by decide) (.inr (by decide)), runFirst,
    (setMeas_words _ _ _).rd (by decide), rd_wr_ne _ _ _ _ _ _ (by decide)]
  exact rd_wr_self _ _ _ (by decide)

theorem setBits_zero {x n : Nat} (h : x % 2 ^ n = 0) : setBits x n = [] := by
  refine List.filter_eq_nil_iff.2 fun k hk => ?_
  have hbit : (x % 2 ^ n).testBit k = x.testBit k := by
    rw [Nat.testBit_mod_two_pow, decide_eq_true (List.mem_range.1 hk), Bool.true_and]
  rw [← hbit, h, Nat.zero_testBit]
  exact Bool.false_ne_true

theorem bootStep4_noIsland (hstacks : rep.badStacks % 256 = 0) (hisles : rep.badIsles % 2 ^ 32 = 2 ^ 32 - 1) :
    ∃ u, bootStep4 rep s = enterRecovery u 0x20 := by
  refine ⟨eachOf (setBits rep.badIsles 32) s fun s k => wr s Reg.ISL_STK_HEALTH_SUSPECT k 1, ?_⟩
  rw [bootStep4, setBits_zero (n := 8) hstacks]
  exact if_pos hisles

theorem enterRecovery_shows (u : State) : rd (enterRecovery u 0x20) Reg.RST_MODE 0 = 3 ∧
    rd (enterRecovery u 0x20) Reg.RST_BOOT_STAT_CODE 0 = 0x20 := by
  rw [enterRecovery, rd_setSec, rd_setSec, rd_wr_ne _ _ _ _ _ _ (by decide)]
  exact ⟨rd_wr_self _ _ _ (by decide), rd_wr_self _ _ _ (by decide)⟩

end Boot

theorem softReset_shows (s : State) : bit (rd (softReset s) Reg.RST_CAUSE 0) 2 = true ∧ rd (softReset s) Reg.RST_MODE 0 = 1 := by
  rw [rd_softReset (by decide), rd_softReset (by decide), rd_cause_kept, (resetKeeping_shows s 2).mode]
  exact ⟨(causeOf_bits s).1, rfl⟩

theorem exec_softReset {s : State} {ag : Agent} (h : Open s ag (Reg.RST_SOFT_KEY.addr 0)) :
    exec (.softReset ag 0x534F4654) s = .next (softReset (stored ag (Reg.RST_SOFT_KEY.addr 0) 0x534F4654 s)) := by
  have hon : s.pow.off = false := by
    have hreach := h.reach
    unfold reach at hreach
    by_contra hoff
    rw [if_pos (by simpa using hoff)] at hreach
    cases hreach
  show execSoftReset ag 0x534F4654 s = _
  rw [execSoftReset, if_neg (by rw [hon]; decide), agentWrite_open h (by decide) (by decide)]
  rfl

/-- Settles O52: what each reset leaves and keeps, and each boot step by the branch it takes. -/
theorem resetsAndBoot : Obligations.ResetsAndBoot := by
  unfold Obligations.ResetsAndBoot
  refine ⟨fun s straps rn ok hstraps => ?_, fun s hoff => ?_, fun s ag hopen => ?_, fun s us rep hawake hmode hwait hpfail => ?_⟩
  · obtain ⟨hnow, hpow, hflash, hfuses, ht3, ht2, hinflight, hpending⟩ := poweredOn_state s straps rn ok
    obtain ⟨hmode, hstep, hcause, -⟩ := blank_boot { s with now := 0 }
    have hwords := latchStraps_words (blankFrom { s with now := 0 }) straps (!rn)
    refine ⟨_, exec_powerOnReset s hstraps rn ok, ?_, ?_, ?_, ?_, ?_, hnow, hpow, hflash, hfuses, ht3, ht2, hinflight, hpending⟩
    · rw [rd_setBrake_far _ devnum_noInt (by decide) (by decide), rd_poweredOn]
      exact (rd_devnum_latched _ _ _).trans (Nat.mod_eq_of_lt hstraps)
    · rw [rd_setBrake_block _ (by decide) (by decide) (by decide), rd_poweredOn]
      exact rd_strap_latched _ _ _
    · rw [rd_setBrake_block _ (by decide) (by decide) (by decide), rd_poweredOn]
      exact (hwords.rd (by decide)).trans hmode
    · rw [rd_setBrake_block _ (by decide) (by decide) (by decide), rd_poweredOn]
      exact (rd_step_latched _ _ _).trans hstep
    · rw [rd_setBrake_block _ (by decide) (by decide) (by decide), rd_poweredOn]
      exact (hwords.rd (by decide)).trans hcause
  · obtain ⟨htrip, hboot, hunlock, hmode, hstep, hlink⟩ := resetKeeping_shows s 1
    obtain ⟨hflash, hfuses, ht3, ht2, hnow, hinflight⟩ := resetKeeping_keeps s 1
    refine ⟨warmReset s, exec_warmReset hoff, ?_⟩
    beta_reduce
    intro halt
    refine ⟨rfl, fun h => ?_, fun h => ?_, htrip, hboot, hunlock, hmode, hstep, hlink, hflash,
      hfuses, ht3, ht2, hnow, hinflight⟩
    · exact (rd_cause_kept s 1).trans (by rw [causeOf_running h]; rfl)
    · rw [show rd (warmReset s) Reg.RST_CAUSE 0 = _ from rd_cause_kept s 1]
      exact (causeOf_bits s).2 h
  · intro u
    obtain ⟨hhalt, hlink, hbases⟩ := softKey_words
    have hstored := stored_regsWithin ag (a := Reg.RST_SOFT_KEY.addr 0) (by decide) 0x534F4654 s
    obtain ⟨hcause, hmode⟩ := softReset_shows u
    refine ⟨softReset u, exec_softReset hopen, rfl, hcause, hmode, rfl, fun h => ?_, fun a ha => ?_⟩
    · have hrun : rd u Reg.PWR_STAT_PFHALT 0 ≠ 1 := by
        rw [show rd u Reg.PWR_STAT_PFHALT 0 = rd s Reg.PWR_STAT_PFHALT 0 from hstored.rd hhalt, h]
        decide
      exact (rd_link_soft hrun).trans (hstored.rd hlink)
    · exact (rd_base_soft ha).trans (hstored.rd (hbases a ha))
  · intro n u
    have hboots (k : Nat) (hk : n = k) (h1 : 1 ≤ k) (h5 : k ≤ 5) : Boots s k := ⟨hawake, hmode, hwait, hpfail, hk, h1, h5⟩
    have htimed (k : Nat) (hk : n = k) : stepTimed k us s = u := by rw [← hk]; rfl
    refine ⟨fun hn hcause => ?_, fun hn => ?_, fun hn => ?_, fun hn => ?_, fun hn => ?_, fun hn hnone => ?_, fun hn hstacks hisles => ?_⟩
    · obtain ⟨hkept, hcount⟩ := firstStep_spec s us
      refine ⟨nextStep (firstBooted (stepTimed 1 us s)) 2, ?_, rd_step_next (by decide), hcount⟩
      rw [exec_bootStepDone (hboots 1 hn (by decide) (by decide)), if_pos rfl, if_neg]
      rw [hkept, hcause]
      exact fun h => Bool.false_ne_true h.2
    · rw [exec_bootStepDone (hboots 2 hn (by decide) (by decide)), htimed 2 hn]
      rfl
    · rw [exec_bootStepDone (hboots 3 hn (by decide) (by decide)), htimed 3 hn]
      rfl
    · rw [exec_bootStepDone (hboots 4 hn (by decide) (by decide)), htimed 4 hn]
      rfl
    · rw [exec_bootStepDone (hboots 5 hn (by decide) (by decide)), htimed 5 hn]
      rfl
    · refine ⟨bootStep2 u, ?_, fun hok => ?_⟩
      · rw [exec_bootStepDone (hboots 2 hn (by decide) (by decide)), htimed 2 hn]
        rfl
      · rw [bootStep2_active (s := u) hnone hok]
        exact ⟨rd_step_next (by decide), rd_slot_run u _⟩
    · obtain ⟨t, ht⟩ := bootStep4_noIsland (s := u) hstacks hisles
      refine ⟨enterRecovery t 0x20, ?_, enterRecovery_shows t⟩
      rw [exec_bootStepDone (hboots 4 hn (by decide) (by decide)), htimed 4 hn, ← ht]
      rfl

end Sys2Proof.Machine

/-! Attestation (R355, R356, R408 to R411, R425). -/

namespace Sys2Proof.Machine

/-! ### Messages sent stay sent -/

/-- What has been sent stands before what is sent. -/
def Appends (s t : State) : Prop := s.out <+: t.out

namespace Appends

variable {s t u : State}

theorem of_eq (h : t.out = s.out) : Appends s t := ⟨[], by rw [h, List.append_nil]⟩

theorem refl (s : State) : Appends s s := of_eq rfl

theorem trans (h : Appends s t) (k : Appends t u) : Appends s u := List.IsPrefix.trans h k

theorem emit (s : State) (m : OutMsg) : Appends s (emit s m) := List.prefix_append _ _

theorem ite {c : Prop} [Decidable c] (ht : Appends s t) (hu : Appends s u) : Appends s (if c then t else u) := by
  split
  · exact ht
  · exact hu

end Appends

section Sends

variable (s : State)

theorem choosePort_out (f : Flit) : (choosePort s f).2.out = s.out := by
  unfold choosePort
  dsimp only
  split
  · rfl
  · split
    · rfl
    · split <;> rfl

theorem sendOn_appends (n : Nat) (f : Flit) : Appends s (sendOn s n f) := by
  refine .ite ?_ (.of_eq rfl)
  exact Appends.trans (t := setPort s n _) (.of_eq rfl) (Appends.emit _ _)

theorem route_appends (f : Flit) : Appends s (route s f) := by
  have hout := choosePort_out s f
  unfold route
  split
  · exact .refl s
  · split
    · next n u hu =>
      rw [hu] at hout
      exact (Appends.of_eq hout).trans (sendOn_appends u n f)
    · next u hu =>
      rw [hu] at hout
      exact .of_eq hout

theorem sendVec_appends (v : Nat) : Appends s (sendVec s v) := .ite (.of_eq rfl) (.emit _ _)

theorem raiseInt_appends (pg k : Nat) : Appends s (raiseInt s pg k) := by
  have hset : Appends s (setBit s Reg.HDR_INT_STAT pg k) := .of_eq rfl
  have hforward (u : State) : Appends u (forwardInt u pg) := .ite (route_appends _ _) (.refl u)
  exact .ite ((hset.trans (sendVec_appends _ _)).trans (hforward _)) hset

end Sends

/-- The bit raised stands in its page's INT_STAT. -/
theorem rdBit_raiseInt (s : State) (pg : Nat) {k : Nat} (hk : k < 32) : rdBit (raiseInt s pg k) Reg.HDR_INT_STAT pg k = true := by
  have hset : rdBit (setBit s Reg.HDR_INT_STAT pg k) Reg.HDR_INT_STAT pg k = true :=
    rdBit_setBit_same s _ _ _ (fits_of_le (by decide)) hk
  have hvec : Reg.HDR_INT_STAT.addr pg ≠ Reg.FUS_IVEC_PEND.addr (vectorOf pg k) := by
    simp only [Fld.addr, Reg.HDR_INT_STAT, Reg.FUS_IVEC_PEND]
    omega
  have hflit : NoFlitWord (Reg.HDR_INT_STAT.addr pg) := fun n => by
    simp only [Fld.addr, Reg.HDR_INT_STAT, Reg.SKL_TX_FLITS]
    omega
  have hsent (u : State) : WordsOn (· = Reg.HDR_INT_STAT.addr pg) u (forwardInt (sendVec u (vectorOf pg k)) pg) := by
    rintro _ rfl
    have hforward (w : State) : Signals NoFlitWord w (forwardInt w pg) := .ite (route_signals _ _) (.refl w)
    exact ((hforward _).words _ hflit).trans (sendVec_words u _ _ hvec)
  unfold raiseInt
  dsimp only
  split
  · unfold rdBit at hset ⊢
    rw [(hsent _).rd rfl, hset]
  · exact hset

/-! ### Mailbox messages -/

/-- A mail keeps the register words below the host block, the security block, and what has been sent. -/
structure MailKept (s t : State) : Prop where
  words : WordsOn (· < 0xF000) s t
  sent : Appends s t
  sec : t.sec = s.sec

namespace MailKept

variable {s t u : State}

theorem refl (s : State) : MailKept s s := ⟨.refl s, .refl s, rfl⟩

theorem trans (h : MailKept s t) (k : MailKept t u) : MailKept s u :=
  ⟨h.words.trans k.words, h.sent.trans k.sent, k.sec.trans h.sec⟩

theorem each {α : Type} {f : State → α → State} (hf : ∀ s a, MailKept s (f s a)) (l : List α) (s : State) :
    MailKept s (eachOf l s f) := eachOf_rel refl (fun _ _ _ => trans) hf l s

theorem wr {f : Fld} {i : Nat} (h : 0xF000 ≤ f.addr i) (s : State) (v : Nat) : MailKept s (wr s f i v) :=
  ⟨WordsOn.wr (P := (· < 0xF000)) (Nat.not_lt.2 h) s v, .of_eq rfl, rfl⟩

end MailKept

/-- A word below the host block is none of the host page's interrupt. -/
theorem noIntWord_low {a : Nat} (h : a < 0xF000) : NoIntWord 0x0F 0 a := by
  refine ⟨?_, ?_, fun n => ?_⟩
  · simp only [Fld.addr, Reg.HDR_INT_STAT]
    omega
  · simp only [Fld.addr, Reg.FUS_IVEC_PEND]
    omega
  · simp only [Fld.addr, Reg.SKL_TX_FLITS]
    omega

theorem putMail_mailKept (s : State) (l : List Nat) : MailKept s (putMail s l) := by
  have hput (u : State) (k v : Nat) : MailKept u (wr u Reg.FUS_MB_R2H k v) :=
    .wr (by simp only [Fld.addr, Reg.FUS_MB_R2H]; omega) u v
  have hraise (u : State) : MailKept u (raiseInt u 0x0F 0) :=
    ⟨fun a ha => (raiseInt_signals u 0x0F 0).words a (noIntWord_low ha), raiseInt_appends u _ _, by
      rw [(raiseInt_signals u 0x0F 0).only]⟩
  exact ((MailKept.each (fun u k => hput u k _) _ s).trans (.wr (by decide) _ _)).trans (hraise _)

theorem sendMail_mailKept (s : State) (typ seq : Nat) (body : List Nat) : MailKept s (sendMail s typ seq body) := by
  unfold sendMail
  dsimp only
  split
  · exact ⟨.of_regs rfl, .of_eq rfl, rfl⟩
  · exact putMail_mailKept s _

theorem fresh_mailKept (s : State) : MailKept s (fresh s) := ⟨.of_regs rfl, .of_eq rfl, rfl⟩

/-! ### Responses -/

section Replies

variable {s : State} {nonce : Nat}

/-- The response is recorded and its interrupt raised. -/
def replyNoted (s : State) (r : Reply) : State := raiseInt (emit s (.reply r)) 0x0C 0

theorem reply_mailKept (s : State) (r : Reply) (n : Nat) : MailKept (replyNoted s r) (reply s r n) :=
  .each (fun u _ => (sendMail_mailKept u 1 _ _).trans (fresh_mailKept _)) _ _

theorem reply_sent (s : State) (r : Reply) (n : Nat) : .reply r ∈ (reply s r n).out := by
  have hin : OutMsg.reply r ∈ (emit s (.reply r)).out := List.mem_append_right _ (List.mem_singleton_self _)
  exact ((raiseInt_appends _ 0x0C 0).trans (reply_mailKept s r n).sent).mem hin

theorem reply_sec (s : State) (r : Reply) (n : Nat) : (reply s r n).sec = s.sec := by
  rw [(reply_mailKept s r n).sec, replyNoted, (raiseInt_signals _ 0x0C 0).only]
  rfl

theorem reply_interrupts (s : State) (r : Reply) (n : Nat) : rdBit (reply s r n) Reg.HDR_INT_STAT 0x0C 0 = true := by
  rw [rdBit, (reply_mailKept s r n).words.rd (by decide)]
  exact rdBit_raiseInt _ 0x0C (by decide)

/-- A response leaves the registers of the security block. -/
theorem rd_signs_reply (s : State) (r : Reply) (n : Nat) :
    rd (reply s r n) Reg.SEC_SIGN_CNT 0 = rd s Reg.SEC_SIGN_CNT 0 := by
  rw [(reply_mailKept s r n).words.rd (by decide), replyNoted,
    rd_raiseInt (noIntWord_of_block (by decide) (by decide) (.inl (by decide)))]
  rfl

theorem awake_of_attests (h : attests s = true) : awake s = true := by
  unfold attests at h
  simp only [Bool.and_eq_true] at h
  exact h.1.1.1

theorem onAttest_served (h : attests s = true) (k : State) : onAttest s k = .next k := by
  rw [onAttest, live, if_pos (awake_of_attests h), if_pos h]

theorem onAttest_unserved (h : attests s = false) (k : State) : onAttest s k = .next s := by
  rw [onAttest, live, h]
  split <;> rfl

/-- What a signed answer counts (R408, R411). -/
def signCounted (s : State) : State := fresh (bump s Reg.SEC_SIGN_CNT 0 1)

theorem exec_challenge (h : attests s = true) (nonce : Nat) : exec (.challenge nonce) s = .next (reply (signCounted s)
    (.challenge nonce (allMeas s) (sign s (leBytes 32 nonce ++ packNums 32 (allMeas s)))) (32 + 3309)) :=
  onAttest_served h _

theorem rd_signCounted (s : State) : rd (signCounted s) Reg.SEC_SIGN_CNT 0 = min (rd s Reg.SEC_SIGN_CNT 0 + 1) (2 ^ 32 - 1) :=
  rd_bump_same s Reg.SEC_SIGN_CNT 0 1 (fits_of_le (by decide))

/-- The measurements a request selects (R409). -/
def measured (s : State) (sel : Nat) : List (Nat × Nat) :=
  ((List.range 6).filter fun i => sel == 0xFF || sel == i + 1).map fun i => (i + 1, meas s i)

theorem exec_getMeasurements (h : attests s = true) {sel : Nat} (hsel : sel = 0xFF ∨ sel ≤ 6) (signed : Bool) (nonce : Nat) :
    exec (.getMeasurements sel signed nonce) s = .next (if signed then
        reply (signCounted s) (.measurements (measured s sel) nonce
          (sign s (leBytes 32 nonce ++ packNums 32 ((measured s sel).map Prod.snd)))) (32 * (measured s sel).length + 32 + 3309)
      else reply s (.measurements (measured s sel) nonce []) (32 * (measured s sel).length + 32)) := by
  refine (onAttest_served h _).trans (congrArg Host.Outcome.next (if_neg ?_))
  omega

end Replies

/-- Settles O55: a served responder answers each message, an unserved one does nothing. -/
theorem attestation : Obligations.Attestation := by
  unfold Obligations.Attestation
  refine ⟨?_, fun s x n => ⟨reply_sent s x n, reply_sec s x n, reply_interrupts s x n⟩, fun s nonce h => ?_,
    fun s nonce h => onAttest_unserved h _⟩
  · intro s eid ver slot off len sel nonce h chain signed counted ms
    refine ⟨onAttest_served h _, onAttest_served h _, onAttest_served h _, onAttest_served h _, onAttest_served h _, fun hver => ?_,
      onAttest_served h _, onAttest_served h _, onAttest_served h _, fun hslot => ?_, exec_challenge h nonce, fun hsel => ?_,
      onAttest_served h _⟩
    · exact (onAttest_served h _).trans (congrArg Host.Outcome.next (if_pos hver))
    · exact (onAttest_served h _).trans (congrArg Host.Outcome.next (if_pos hslot))
    · exact ⟨exec_getMeasurements h hsel true nonce, exec_getMeasurements h hsel false nonce⟩
  · exact ⟨_, exec_challenge h nonce, (rd_signs_reply _ _ _).trans (rd_signCounted s)⟩

end Sys2Proof.Machine

/-! Firmware update and the settings store (R412 to R422, R426). -/

namespace Sys2Proof.Machine

/-! ### Two copies, the newer in force (R415, R420) -/

section Copies

variable {ok0 ok1 : Bool} {n0 n1 k : Nat}

theorem newer_cases (h : newer ok0 ok1 n0 n1 = some k) : (k = 0 ∧ ok0 = true) ∨ (k = 1 ∧ ok1 = true) := by
  unfold newer at h
  split at h
  · next h0 =>
    cases h
    exact .inl ⟨rfl, (Bool.and_eq_true_iff.1 h0).1⟩
  · split at h
    · next h1 =>
      cases h
      exact .inr ⟨rfl, h1⟩
    · cases h

theorem newer_none (h : newer ok0 ok1 n0 n1 = none) : ok0 = false ∧ ok1 = false := by
  cases ok1
  · cases ok0
    · exact ⟨rfl, rfl⟩
    · cases h
  · unfold newer at h
    split at h <;> cases h

/-- A copy written with the first one's number and one stands after the first. -/
theorem newer_second (n : Nat) : newer ok0 true n (n + 1) = some 1 := by
  cases ok0 <;> simp [newer]

/-- A copy written with a number no lower than a valid second one's stands as the first. -/
theorem newer_first {m : Nat} (h : ok1 = false ∨ n1 ≤ m) : newer true ok1 m n1 = some 0 := by
  rcases h with rfl | h
  · rfl
  · simp [newer, h]

end Copies

/-- The copy a rewrite goes to. -/
def otherCopy : Option Nat → Nat
  | some 0 => 1
  | _ => 0

/-! ### The boot record -/

section BootRecord

variable {f : Flash} (r : BootRec)

/-- A record as a rewrite numbers it. -/
def numbered (f : Flash) (r : BootRec) : BootRec := { r with seq := (bootRec f).seq + 1, crcOk := true }

theorem writeBoot_eq (f : Flash) : writeBoot f r = { f with boot := setAt f.boot (otherCopy (bootLive f)) (numbered f r) } := rfl

theorem bootRec_first (h : bootLive f = some 0) : bootRec f = bootCopy f 0 := by rw [bootRec, h]
theorem bootRec_second (h : bootLive f = some 1) : bootRec f = bootCopy f 1 := by rw [bootRec, h]

/-- What is written to the boot record is the record in force (R415). -/
theorem bootRec_writeBoot (hlen : f.boot.length = 2) : bootRec (writeBoot f r) = numbered f r := by
  obtain ⟨a, b, hboot⟩ := List.length_eq_two.1 hlen
  have h0 : bootCopy f 0 = a := by rw [bootCopy, hboot]; rfl
  have h1 : bootCopy f 1 = b := by rw [bootCopy, hboot]; rfl
  rw [writeBoot_eq]
  cases hlive : bootLive f with
  | none =>
    have hbad : b.crcOk = false := h1 ▸ (newer_none hlive).2
    refine bootRec_first (f := { f with boot := setAt f.boot 0 (numbered f r) }) ?_ |>.trans ?_ <;>
      simp only [bootLive, bootCopy, hboot, setAt, List.set_cons_zero]
    · exact newer_first (.inl hbad)
    · rfl
  | some k =>
    rcases newer_cases hlive with ⟨rfl, -⟩ | ⟨rfl, -⟩
    · have hseq : (bootRec f).seq = a.seq := by rw [bootRec_first hlive, h0]
      refine bootRec_second (f := { f with boot := setAt f.boot 1 (numbered f r) }) ?_ |>.trans ?_ <;>
        simp only [bootLive, bootCopy, hboot, setAt, List.set_cons_succ, List.set_cons_zero]
      · show newer a.crcOk true a.seq ((bootRec f).seq + 1) = some 1
        rw [hseq]
        exact newer_second _
      · rfl
    · have hseq : (bootRec f).seq = b.seq := by rw [bootRec_second hlive, h1]
      refine bootRec_first (f := { f with boot := setAt f.boot 0 (numbered f r) }) ?_ |>.trans ?_ <;>
        simp only [bootLive, bootCopy, hboot, setAt, List.set_cons_zero]
      · show newer true b.crcOk ((bootRec f).seq + 1) b.seq = some 0
        rw [hseq]
        exact newer_first (.inr (Nat.le_succ _))
      · rfl

theorem putBoot_sec (s : State) (r : BootRec) : (putBoot s r).sec = { s.sec with flash := writeBoot s.sec.flash r } := rfl

theorem putBoot_words (s : State) (r : BootRec) : WordsOn (· ≠ Reg.FWU_SLOTS_S0.addr 0) s (putBoot s r) :=
  (WordsOn.of_regs (t := setFlash s _) rfl).trans (showSlots_words _)

end BootRecord

/-! ### The settings store -/

section Store

variable {s : State} (l : List SetRec)

/-- The copy a rewrite of the store makes. -/
def storeMade (f : Flash) (l : List SetRec) : StoreCopy := ⟨(storeNow f).seq + 1, true, l⟩

theorem writeStore_flash (s : State) : (writeStore s l).sec.flash =
    { s.sec.flash with store := setAt s.sec.flash.store (otherCopy (storeLive s.sec.flash)) (storeMade s.sec.flash l) } := rfl

theorem storeNow_first {f : Flash} (h : storeLive f = some 0) : storeNow f = storeCopy f 0 := by rw [storeNow, h]
theorem storeNow_second {f : Flash} (h : storeLive f = some 1) : storeNow f = storeCopy f 1 := by rw [storeNow, h]

/-- What is written to the store is in force, and the copy in force before stands (R420). -/
theorem writeStore_spec (hlen : s.sec.flash.store.length = 2) : storeNow (writeStore s l).sec.flash = storeMade s.sec.flash l ∧
    ∀ k, storeLive s.sec.flash = some k → storeCopy (writeStore s l).sec.flash k = storeCopy s.sec.flash k := by
  obtain ⟨a, b, hstore⟩ := List.length_eq_two.1 hlen
  rw [writeStore_flash]
  generalize s.sec.flash = f at hstore
  have h0 : storeCopy f 0 = a := by rw [storeCopy, hstore]; rfl
  have h1 : storeCopy f 1 = b := by rw [storeCopy, hstore]; rfl
  cases hlive : storeLive f with
  | none =>
    have hbad : b.crcOk = false := h1 ▸ (newer_none hlive).2
    refine ⟨storeNow_first (f := { f with store := setAt f.store 0 (storeMade f l) }) ?_ |>.trans ?_, fun k hk => (nomatch hk)⟩ <;>
      simp only [storeLive, storeCopy, hstore, setAt, List.set_cons_zero]
    · exact newer_first (.inl hbad)
    · rfl
  | some k =>
    rcases newer_cases hlive with ⟨rfl, -⟩ | ⟨rfl, -⟩
    · have hseq : (storeNow f).seq = a.seq := by rw [storeNow_first hlive, h0]
      refine ⟨storeNow_second (f := { f with store := setAt f.store 1 (storeMade f l) }) ?_ |>.trans ?_, fun k hk => ?_⟩
      · simp only [storeLive, storeCopy, hstore, setAt, List.set_cons_succ, List.set_cons_zero]
        show newer a.crcOk true a.seq ((storeNow f).seq + 1) = some 1
        rw [hseq]
        exact newer_second _
      · simp only [storeCopy, hstore, setAt, List.set_cons_succ, List.set_cons_zero]
        rfl
      · cases hk
        simp only [storeCopy, otherCopy, hstore, setAt, List.set_cons_succ, List.set_cons_zero]
        rfl
    · have hseq : (storeNow f).seq = b.seq := by rw [storeNow_second hlive, h1]
      refine ⟨storeNow_first (f := { f with store := setAt f.store 0 (storeMade f l) }) ?_ |>.trans ?_, fun k hk => ?_⟩
      · simp only [storeLive, storeCopy, hstore, setAt, List.set_cons_zero]
        show newer true b.crcOk ((storeNow f).seq + 1) b.seq = some 0
        rw [hseq]
        exact newer_first (.inr (Nat.le_succ _))
      · simp only [storeCopy, hstore, setAt, List.set_cons_zero]
        rfl
      · cases hk
        simp only [storeCopy, otherCopy, hstore, setAt, List.set_cons_zero]
        rfl

end Store

/-! ### Operations start -/

section Start

variable {s : State} {op : Nat} {f : State → State × FwuOp}

theorem fwuStart_busy (h : rd s Reg.FWU_STAT_BUSY 0 = 1) : fwuStart s op f = wr s Reg.FWU_STAT_CODE 0 1 := if_pos h

/-- The unit is free and the firmware runs outside RECOVERY. -/
structure Free (s : State) : Prop where
  idle : rd s Reg.FWU_STAT_BUSY 0 = 0
  rim : rimRuns s = true
  mode : rd s Reg.RST_MODE 0 ≠ 3

theorem fwuStart_free (h : Free s) (hop : op ≠ 0) : fwuStart s op f =
    wr (setSec (f s).1 { (f s).1.sec with op := some (f s).2 }) Reg.FWU_STAT_BUSY 0 1 := by
  refine (if_neg (by rw [h.idle]; decide)).trans (if_neg ?_)
  rw [h.rim]
  rintro (e | e | e)
  · cases e
  · exact h.mode e
  · exact hop e

theorem fwuStart_op (h : Free s) (hop : op ≠ 0) : (fwuStart s op f).sec.op = some (f s).2 := by rw [fwuStart_free h hop]; rfl

theorem fwuStart_shows (h : Free s) (hop : op ≠ 0) : rd (fwuStart s op f) Reg.FWU_STAT_BUSY 0 = 1 := by
  rw [fwuStart_free h hop]
  exact rd_wr_self _ _ _ (by decide)

/-- An operation that ends with a code leaves the state, and its code is what it is started with. -/
theorem fwuStart_ends (h : Free s) (hop : op ≠ 0) {code : Nat} (hf : f s = (s, ends op code)) :
    (fwuStart s op f).sec = { s.sec with op := some ⟨op, code, 0, []⟩ } := by
  rw [fwuStart_free h hop, hf]
  rfl

theorem fxConfirm_stands (h : Free s) (hrun : runsPending s = false) (b : Bool) :
    (fxConfirm b s).sec.op = some ⟨2, 7, 0, []⟩ := by
  rw [fxConfirm, fwuStart_ends h (by decide) (if_pos (by rw [hrun]; rfl))]

theorem fxRevert_stands (h : Free s) (hrun : runsPending s = false) : (fxRevert s).sec.op = some ⟨3, 7, 0, []⟩ := by
  rw [fxRevert, fwuStart_ends h (by decide) (if_pos (by rw [hrun]; rfl))]

theorem fxOwner_stands (h : Free s) (howner : s.sec.fuses.owner ≠ 0) (l : List Nat) :
    (fxOwner l s).sec = { s.sec with op := some ⟨6, 0xA, 0, []⟩ } := by
  rw [fxOwner, fwuStart_ends h (by decide) (if_pos howner)]

theorem fxDebug_short (h : Free s) (hen : s.sec.fuses.debugEn = true) {l : List Nat} (hl : l.length < 5261) :
    (fxDebug l s).sec.op = some ⟨7, 0xB, 0, []⟩ := by
  rw [fxDebug, fwuStart_ends h (by decide) ((if_neg (by rw [hen]; decide)).trans (if_pos hl))]

end Start

/-! ### The slot that runs keeps its images (R418, R424) -/

section Images

variable {s t u : State} {k : Nat}

/-- The images of slot `k` are as before. -/
def ImagesKept (k : Nat) (s t : State) : Prop := ∀ kind, imageOf t.sec.flash kind k = imageOf s.sec.flash kind k

theorem ImagesKept.refl (k : Nat) (s : State) : ImagesKept k s s := fun _ => rfl

theorem ImagesKept.trans (h : ImagesKept k s t) (g : ImagesKept k t u) : ImagesKept k s u := fun kind => (g kind).trans (h kind)

theorem ImagesKept.of_flash (hfs : t.sec.flash.fs = s.sec.flash.fs) (hrf : t.sec.flash.rf = s.sec.flash.rf) :
    ImagesKept k s t := fun kind => by rw [imageOf, hfs, hrf, imageOf]

theorem ImagesKept.ite {c : Prop} [Decidable c] (ht : ImagesKept k s t) (hu : ImagesKept k s u) :
    ImagesKept k s (if c then t else u) := by
  split
  · exact ht
  · exact hu

/-- An image put in another slot. -/
theorem imageOf_putImage_ne {o : Nat} (h : o ≠ k) (f : Flash) (kind kind' : Nat) (l : List Nat) :
    imageOf (putImage f kind o l) kind' k = imageOf f kind' k := by
  have hset (x : List (List Nat)) : (setAt x o l).getD k [] = x.getD k [] := by
    rw [setAt, List.getD_eq_getElem?_getD, List.getElem?_set_ne h, ← List.getD_eq_getElem?_getD]
  unfold putImage imageOf
  split <;> split
  · exact hset _
  · rfl
  · rfl
  · exact hset _

theorem putBoot_images (s : State) (r : BootRec) : ImagesKept k s (putBoot s r) := .of_flash rfl rfl
theorem writeStore_images (s : State) (l : List SetRec) : ImagesKept k s (writeStore s l) := .of_flash rfl rfl
theorem closeDual_images (s : State) (keep : Nat → Nat) : ImagesKept k s (closeDual s keep) :=
  .ite (.refl k s) (writeStore_images s _)

theorem setMeas_sec (s : State) (i v : Nat) : (setMeas s i v).sec = s.sec :=
  eachOf_rel (R := fun s t => t.sec = s.sec) (fun _ => rfl) (fun _ _ _ h k => k.trans h)
    (fun u j => wr_sec u Reg.SEC_MEAS (8 * i + j) (v / 2 ^ (32 * j))) _ s

theorem measure5_images (s : State) : ImagesKept k s (measure5 s) := by
  have hsec : (measure5 s).sec = s.sec := setMeas_sec (showFuses s) 5 _
  exact .of_flash (by rw [hsec]) (by rw [hsec])

theorem fwuStart_images {op : Nat} {f : State → State × FwuOp} (h : ImagesKept k s (f s).1) : ImagesKept k s (fwuStart s op f) :=
  .ite (.of_flash rfl rfl) (.ite (.refl k s) (h.trans (.of_flash rfl rfl)))

theorem runSlot_other (s : State) : 1 - runSlot s ≠ runSlot s := by
  have h : runSlot s < 2 ^ 1 := rd_lt s Reg.RST_BOOT_STAT_SLOT 0
  omega

theorem applyGo_images (pkg : List Nat) (ok : Bool) (s : State) : ImagesKept (runSlot s) s (applyGo pkg ok s).1 := by
  have hite {c : Prop} [Decidable c] {x y : State × FwuOp} (hx : ImagesKept (runSlot s) s x.1)
      (hy : ImagesKept (runSlot s) s y.1) : ImagesKept (runSlot s) s (if c then x else y).1 := by
    split
    · exact hx
    · exact hy
  have hspoil {c : Prop} [Decidable c] (r : BootRec) : ImagesKept (runSlot s) s (if c then s else putBoot s r) :=
    .ite (.refl _ s) (putBoot_images s r)
  unfold applyGo
  dsimp only
  refine hite (hspoil _) (hite (hspoil _) (hite (.refl _ s) (hite (hspoil _) (hite (hspoil _) ?_))))
  split
  · exact hspoil _
  · refine hite (hspoil _) (hite (hspoil _) fun kind => ?_)
    refine (imageOf_putImage_ne (runSlot_other s) _ _ kind _).trans ?_
    exact (imageOf_putImage_ne (runSlot_other s) _ _ kind _).trans (putBoot_images s _ kind)

theorem fxApply_images (l : List Nat) (b : Bool) (s : State) : ImagesKept (runSlot s) s (fxApply l b s) :=
  fwuStart_images (applyGo_images l b s)

/-- Both slots GOOD and the running one ACTIVE, settings in one FORMAT (R419, R422). -/
def slotsConfirmed (s : State) : State :=
  let u := putBoot s { setSlotState (setSlotState (bootRec s.sec.flash) (runSlot s) 1) (1 - runSlot s) 1 with active := runSlot s }
  closeDual u (readFormat u)

/-- The least security versions follow the slot's images where asked (R419). -/
def svnCommitted (svn : Bool) (k : Nat) (u : State) : State :=
  if svn then setSec u { u.sec with fuses := { u.sec.fuses with
    svnFs := max u.sec.fuses.svnFs (numAt (imageOf u.sec.flash 0 k) 5 1)
    svnRf := max u.sec.fuses.svnRf (numAt (imageOf u.sec.flash 1 k) 5 1) } } else u

theorem slotsConfirmed_images (s : State) : ImagesKept k s (slotsConfirmed s) :=
  (putBoot_images s _).trans (closeDual_images _ _)

theorem svnCommitted_images (svn : Bool) (j : Nat) (u : State) : ImagesKept k u (svnCommitted svn j u) :=
  .ite (.of_flash rfl rfl) (.refl k u)

theorem fxConfirm_eq (svn : Bool) (s : State) : fxConfirm svn s = fwuStart s 2 fun s =>
    if !runsPending s then (s, ends 2 7) else (measure5 (svnCommitted svn (runSlot s) (slotsConfirmed s)), ends 2 0) := rfl

theorem fxConfirm_images (b : Bool) (s : State) : ImagesKept k s (fxConfirm b s) := by
  rw [fxConfirm_eq]
  refine fwuStart_images ?_
  split
  · exact .refl k s
  · exact ((slotsConfirmed_images s).trans (svnCommitted_images b _ _)).trans (measure5_images _)

theorem fxRevert_images (s : State) : ImagesKept k s (fxRevert s) := by
  refine fwuStart_images ?_
  split
  · exact .refl k s
  · exact ((putBoot_images s _).trans (closeDual_images _ _)).trans (measure5_images _)

end Images

/-! ### Operations end -/

section Done

variable {s : State} {us : Nat} {o : FwuOp}

/-- The unit's code and an APPLY's time as the operation ends. -/
def opEnded (us : Nat) (o : FwuOp) (s : State) : State :=
  let s := wr (wr (setSec s { s.sec with op := none }) Reg.FWU_STAT_BUSY 0 0) Reg.FWU_STAT_CODE 0 o.code
  if o.op = 1 then wr s Reg.FWU_APPLY_US 0 (min us (2 ^ 32 - 1)) else s

/-- The other slot is PENDING after an APPLY that went well. -/
def slotMade (o : FwuOp) (s : State) : State :=
  if o.op = 1 ∧ o.code = 0 then
    putBoot s { setSlotState (bootRec s.sec.flash) (1 - runSlot s) 2 with tries := 3 } else s

theorem exec_fwuOpDone (hawake : awake s = true) (ho : s.sec.op = some o) (hstay : o.op ≠ 3 ∨ o.code ≠ 0) :
    exec (.fwuOpDone us) s = .next (raiseInt (slotMade o (opEnded us o s)) 0x0D 0) := by
  show execFwuOpDone us s = _
  rw [execFwuOpDone, live, if_pos hawake, ho]
  exact congrArg Host.Outcome.next (if_neg (by rintro ⟨h3, h0⟩; exact hstay.elim (fun h => h h3) fun h => h h0))

theorem opEnded_sec (us : Nat) (o : FwuOp) (s : State) : (opEnded us o s).sec = { s.sec with op := none } := by
  unfold opEnded
  dsimp only
  split <;> rfl

theorem rd_opEnded (hcode : o.code < 256) : rd (opEnded us o s) Reg.FWU_STAT_BUSY 0 = 0 ∧
    rd (opEnded us o s) Reg.FWU_STAT_CODE 0 = o.code ∧ rd (opEnded us o s) Reg.RST_BOOT_STAT_SLOT 0 = runSlot s ∧
    (o.op = 1 → rd (opEnded us o s) Reg.FWU_APPLY_US 0 = min us (2 ^ 32 - 1)) := by
  have hended {f : Fld} (hf : f.addr 0 ≠ Reg.FWU_APPLY_US.addr 0) : rd (opEnded us o s) f 0 =
      rd (wr (wr (setSec s { s.sec with op := none }) Reg.FWU_STAT_BUSY 0 0) Reg.FWU_STAT_CODE 0 o.code) f 0 := by
    unfold opEnded
    dsimp only
    split
    · exact rd_wr_ne _ _ _ _ _ _ hf
    · rfl
  refine ⟨?_, ?_, ?_, fun hop => ?_⟩
  · rw [hended (by decide), rd_wr_bits _ _ _ _ (by decide) (.inl (by decide))]
    exact rd_wr_self _ _ _ (by decide)
  · rw [hended (by decide)]
    exact (rd_wr_self _ _ _ (by decide)).trans (Nat.mod_eq_of_lt hcode)
  · rw [hended (by decide), rd_wr_ne _ _ _ _ _ _ (by decide), rd_wr_ne _ _ _ _ _ _ (by decide), rd_setSec, runSlot]
  · rw [opEnded, if_pos hop]
    exact (rd_wr_self _ _ _ (by decide)).trans (Nat.mod_eq_of_lt (show _ < 2 ^ 32 by omega))

theorem slotMade_words (o : FwuOp) (s : State) : WordsOn (· ≠ Reg.FWU_SLOTS_S0.addr 0) s (slotMade o s) :=
  .ite (putBoot_words s _) (.refl s)

theorem slotMade_op (o : FwuOp) (s : State) : (slotMade o s).sec.op = s.sec.op := by
  unfold slotMade
  split <;> rfl

theorem rd_fwu_raised {f : Fld} (hlow : 0xD100 ≤ f.addr 0) (hhigh : f.addr 0 < 0xE000)
    (hslots : f.addr 0 ≠ Reg.FWU_SLOTS_S0.addr 0) (s : State) :
    rd (raiseInt (slotMade o s) 0x0D 0) f 0 = rd s f 0 := by
  rw [rd_raiseInt (noIntWord_of_block (by decide) (by omega) (.inl (by omega))), (slotMade_words o s).rd hslots]

theorem slotState_set (r : BootRec) (k v : Nat) : slotState (setSlotState r k v) k = v := by
  unfold slotState setSlotState
  split <;> rfl

/-- The record an APPLY leaves has the other slot PENDING, with three tries (R416, R418). -/
theorem slotMade_pending (hop : o.op = 1) (hcode : o.code = 0) (hlen : s.sec.flash.boot.length = 2) :
    slotState (bootRec (slotMade o s).sec.flash) (1 - runSlot s) = 2 ∧ (bootRec (slotMade o s).sec.flash).tries = 3 := by
  have hmade : (slotMade o s).sec.flash =
      writeBoot s.sec.flash { setSlotState (bootRec s.sec.flash) (1 - runSlot s) 2 with tries := 3 } := by
    rw [slotMade, if_pos ⟨hop, hcode⟩, putBoot_sec]
  rw [hmade, bootRec_writeBoot _ hlen]
  exact ⟨slotState_set (bootRec s.sec.flash) _ 2, rfl⟩

end Done

/-! ### Writes of FWU.CMD -/

theorem exec_fwuWrite {s : State} {ag : Agent} (h : Open s ag (Reg.FWU_CMD_OP.addr 0)) {v : Nat} (hv : v < 2 ^ 32)
    (f : State → State) : fwuWrite ag v f s = .next (f (stored ag (Reg.FWU_CMD_OP.addr 0) v s)) := by
  rw [fwuWrite, agentWrite_open h (by decide) (by decide), Nat.mod_eq_of_lt hv]

theorem firmwareUpdate_writes (s : State) (ag : Agent) (l : List Nat) (b : Bool) (h : Open s ag (Reg.FWU_CMD_OP.addr 0)) :
    let put (w : Nat) : State := stored ag (Reg.FWU_CMD_OP.addr 0) w s
    exec (.apply ag l b) s = .next (fxApply l b (put 1)) ∧ exec (.confirm ag b) s = .next (fxConfirm b (put (2 + 8 * oneIf b))) ∧
    exec (.revert ag) s = .next (fxRevert (put 3)) ∧ exec (.abort ag) s = .next (fxAbort (put 4)) ∧
    exec (.keylist ag l) s = .next (fxKeylist l (put 5)) ∧ exec (.owner ag l) s = .next (fxOwner l (put 6)) ∧
    exec (.debug ag l) s = .next (fxDebug l (put 7)) := by
  have hb : 2 + 8 * oneIf b < 2 ^ 32 := by
    have := oneIf_lt b
    omega
  exact ⟨exec_fwuWrite h (by decide) _, exec_fwuWrite h hb _, exec_fwuWrite h (by decide) _, exec_fwuWrite h (by decide) _,
    exec_fwuWrite h (by decide) _, exec_fwuWrite h (by decide) _, exec_fwuWrite h (by decide) _⟩

theorem fxAbort_stops {s : State} {o : FwuOp} (ho : s.sec.op = some o) (hop : o.op = 1) :
    (fxAbort s).sec.op = none ∧ rd (fxAbort s) Reg.FWU_STAT_BUSY 0 = 0 ∧ (fxAbort s).sec.flash = s.sec.flash := by
  have habort : fxAbort s = raiseInt (wr (setSec s { s.sec with op := none }) Reg.FWU_STAT_BUSY 0 0) 0x0D 0 := by
    rw [fxAbort, ho]
    exact if_pos hop
  have hsec : (fxAbort s).sec = { s.sec with op := none } := by
    rw [habort, (raiseInt_signals _ 0x0D 0).only]
    rfl
  refine ⟨by rw [hsec], ?_, by rw [hsec]⟩
  rw [habort, rd_raiseInt (noIntWord_of_block (by decide) (by decide) (.inl (by decide)))]
  exact rd_wr_self _ _ _ (by decide)

theorem fwuOpDone_spec {s : State} {us : Nat} {o : FwuOp} (hawake : awake s = true) (ho : s.sec.op = some o)
    (hcode : o.code < 256) (hstay : o.op ≠ 3 ∨ o.code ≠ 0) : Answers (.fwuOpDone us) s fun t =>
      t.sec.op = none ∧ rd t Reg.FWU_STAT_BUSY 0 = 0 ∧
      rd t Reg.FWU_STAT_CODE 0 = o.code ∧ (o.op = 1 → rd t Reg.FWU_APPLY_US 0 = min us (2 ^ 32 - 1)) ∧
      (o.op = 1 → o.code = 0 → s.sec.flash.boot.length = 2 →
        slotState (bootRec t.sec.flash) (1 - runSlot s) = 2 ∧ (bootRec t.sec.flash).tries = 3) ∧
      rdBit t Reg.HDR_INT_STAT 0x0D 0 = true := by
  obtain ⟨hbusy, hshown, hslot, htime⟩ := rd_opEnded (us := us) (s := s) hcode
  have hended := opEnded_sec us o s
  have hsec : (raiseInt (slotMade o (opEnded us o s)) 0x0D 0).sec = (slotMade o (opEnded us o s)).sec := by
    rw [(raiseInt_signals _ 0x0D 0).only]
  refine ⟨_, exec_fwuOpDone hawake ho hstay, ?_, ?_, ?_, fun hop => ?_, fun hop hzero hlen => ?_, rdBit_raiseInt _ _ (by decide)⟩
  · rw [hsec, slotMade_op, hended]
  · rw [rd_fwu_raised (by decide) (by decide) (by decide), hbusy]
  · rw [rd_fwu_raised (by decide) (by decide) (by decide), hshown]
  · rw [rd_fwu_raised (by decide) (by decide) (by decide), htime hop]
  · have hrun : runSlot (opEnded us o s) = runSlot s := hslot
    have hpending := slotMade_pending (s := opEnded us o s) hop hzero (by rw [hended]; exact hlen)
    rw [hrun] at hpending
    rw [hsec]
    exact hpending

/-! ### Settings messages -/

section Settings

variable {s : State} {id fmt : Nat} {val : List Nat} {ok : Bool}

/-- The answer to SETTINGS_SET. -/
def setAnswer (u : State) (st : Nat) : State := fresh (sendMail u 2 (freeNat u) [0xA0, st])

theorem exec_settingsSet (h : attests s = true) : exec (.settingsSet id fmt val ok) s = .next (
    if !settingIds.contains id then setAnswer s 1
    else if fmt ≠ readFormat s id then setAnswer s 2
    else if !valueOk s id fmt val then setAnswer s 3
    else if !ok then setAnswer s 4
    else
      let u := if id = 0x10 then s else applyValue s id fmt val
      setAnswer (writeStore u (withValue u id fun f => if f = fmt then val else regValue u id f)) 0) := by
  show execSettingsSet id fmt val ok s = _
  rw [execSettingsSet, live, if_pos (awake_of_attests h)]
  exact congrArg Host.Outcome.next (if_neg (by rw [h]; decide))

theorem known_setting (h : id ∈ settingIds) : ¬(!settingIds.contains id) = true := by
  rw [List.contains_iff_mem.2 h]
  exact Bool.false_ne_true

theorem good_value (h : valueOk s id fmt val = true) : ¬(!valueOk s id fmt val) = true := by
  rw [h]
  exact Bool.false_ne_true

theorem rimRuns_of_attests (h : attests s = true) : rimRuns s = true := by
  unfold attests at h
  simp only [Bool.and_eq_true] at h
  exact h.1.1.2

theorem exec_settingsMirror (h : attests s = true) (hid : id ∈ settingIds) (hrsv : id ≠ 0x10) :
    exec (.settingsMirror id) s = .next (writeStore s (withValue s id fun f => regValue s id f)) := by
  show execSettingsMirror id s = _
  rw [execSettingsMirror, live, if_pos (awake_of_attests h)]
  refine congrArg Host.Outcome.next (if_neg ?_)
  rw [rimRuns_of_attests h, List.contains_iff_mem.2 hid]
  rintro (e | e | e)
  · cases e
  · exact hrsv e
  · cases e

end Settings

/-- Settles O56: each operation starts, ends or is refused as its write says; a setting is taken or answered with why not. -/
theorem firmwareAndSettings : Obligations.FirmwareAndSettings := by
  unfold Obligations.FirmwareAndSettings
  refine ⟨⟨firmwareUpdate_writes, ?_, ?_, ?_, ?_, ?_⟩, ?_⟩
  · intro s l b hidle hrim hmode
    have hfree : Free s := ⟨hidle, hrim, hmode⟩
    refine ⟨⟨fwuStart_shows hfree (by decide), fwuStart_op hfree (by decide)⟩,
      fun hrun => ⟨fxConfirm_stands hfree hrun b, fxRevert_stands hfree hrun⟩, fun howner => ?_, fun hen hl => fxDebug_short hfree hen hl⟩
    rw [fxOwner_stands hfree howner]
    exact ⟨rfl, rfl⟩
  · intro s l b hbusy
    exact ⟨fwuStart_busy hbusy, fwuStart_busy hbusy, fwuStart_busy hbusy⟩
  · intro s o ho hop
    exact fxAbort_stops ho hop
  · intro s us o hawake ho hcode hstay
    exact fwuOpDone_spec hawake ho hcode hstay
  · intro s l b kind _
    exact ⟨fxApply_images l b s kind, fxConfirm_images b s kind, fxRevert_images s kind⟩
  · intro s id fmt val ok h answer
    refine ⟨fun hid hfmt hval => ?_, fun hid => ?_, fun hid hfmt => ?_, fun hid hfmt hval => ?_, fun hid hfmt hval => ?_,
      fun hid hrsv => exec_settingsMirror h hid hrsv, fun l hlen => ?_⟩
    · exact (exec_settingsSet h).trans (congrArg Host.Outcome.next ((if_neg (known_setting hid)).trans ((if_neg (not_not.2 hfmt)).trans
        ((if_neg (good_value hval)).trans (if_neg (by decide))))))
    · exact (exec_settingsSet h).trans (congrArg Host.Outcome.next (if_pos (by rw [List.contains_eq_mem, decide_eq_false hid]; rfl)))
    · exact (exec_settingsSet h).trans (congrArg Host.Outcome.next ((if_neg (known_setting hid)).trans (if_pos hfmt)))
    · exact (exec_settingsSet h).trans (congrArg Host.Outcome.next ((if_neg (known_setting hid)).trans ((if_neg (not_not.2 hfmt)).trans
        (if_pos (by rw [hval]; rfl)))))
    · exact (exec_settingsSet h).trans (congrArg Host.Outcome.next ((if_neg (known_setting hid)).trans ((if_neg (not_not.2 hfmt)).trans
        ((if_neg (good_value hval)).trans (if_pos rfl)))))
    · obtain ⟨hnow, hkept⟩ := writeStore_spec l hlen
      rw [hnow]
      exact ⟨rfl, hkept⟩

end Sys2Proof.Machine

/-! Locks, seals and holds (R435, R436, R442). -/

namespace Sys2Proof.Machine

/-! ### Writes of a page's LOCK (R435, R436) -/

section Lock

variable {s : State} {ag : Agent} {p v : Nat}

theorem page_lt (h : pageExists p = true) : p < 0x70 := by
  simp only [pageExists, Bool.or_eq_true, Bool.and_eq_true, decide_eq_true_eq] at h
  omega

theorem lock_fields : ∀ p < 0x70, fieldsAt (p * 0x1000 + 0x38) = [Reg.HDR_LOCK_HOLDER, Reg.HDR_LOCK_HELD, Reg.HDR_LOCK_SEALED,
    Reg.HDR_LOCK_ACQ, Reg.HDR_LOCK_REL, Reg.HDR_LOCK_SEAL, Reg.HDR_LOCK_REFUSED] := by decide +kernel

/-- The shadow of a page's LOCK lies beyond the page's header. -/
theorem lock_shadow_above (p : Nat) : p * 0x1000 + 0x100 ≤ shadowAddr (p * 0x1000 + 0x38) := by
  unfold shadowAddr
  dsimp only
  split_ifs <;> omega

/-- The state once the WO bits written to the LOCK stand in its shadow. -/
def lockShadowed (p v : Nat) (s : State) : State := ww s (shadowAddr (p * 0x1000 + 0x38)) (BitVec.ofNat 32 (v &&& 0x700))

theorem rw_lockShadowed (s : State) {a : Nat} (h : a < p * 0x1000 + 0x100) : rw (lockShadowed p v s) a = rw s a := by
  have := lock_shadow_above p
  exact rw_ww_ne _ _ (by omega)

/-- The registers of the page's lock and its status lie in its header. -/
theorem rd_lockShadowed (s : State) {f : Fld} (h : f.addr p < p * 0x1000 + 0x100) : rd (lockShadowed p v s) f p = rd s f p :=
  rd_of_rw (rw_lockShadowed s h)

theorem lockShadowed_held (s : State) : rd (lockShadowed p v s) Reg.HDR_LOCK_HELD p = rd s Reg.HDR_LOCK_HELD p :=
  rd_lockShadowed s (by simp only [Fld.addr, Reg.HDR_LOCK_HELD]; omega)

theorem lockShadowed_holder (s : State) : rd (lockShadowed p v s) Reg.HDR_LOCK_HOLDER p = rd s Reg.HDR_LOCK_HOLDER p :=
  rd_lockShadowed s (by simp only [Fld.addr, Reg.HDR_LOCK_HOLDER]; omega)

theorem lock_open (hp : pageExists p = true) (hreach : reach s ag p = .open_) (hseal : rd s Reg.HDR_LOCK_SEALED p = 0) :
    Open s ag (p * 0x1000 + 0x38) := by
  have hpage : (p * 0x1000 + 0x38) / 0x1000 = p := by omega
  have hoff : (p * 0x1000 + 0x38) % 0x1000 = 0x38 := by omega
  refine ⟨by rw [hpage]; exact hreach, by rw [hpage]; exact hp, ?_, by rw [hpage]; exact hseal⟩
  simp [lockedOut, hoff]

/-- Of a word written to a LOCK, the bits ACQ, REL and SEAL act in this order. -/
theorem writeWord_lock (hp : p < 0x70) (hv : v &&& 0x700 = v) : writeWord ag noFx s (p * 0x1000 + 0x38) v =
    let u := lockShadowed p v s
    let u := if bit v 8 then lockAcq u ag p else u
    let u := if bit v 9 then lockRel u ag p else u
    if bit v 10 then lockSeal u p else u := by
  have hpage : (p * 0x1000 + 0x38) / 0x1000 = p := by omega
  have hoff : (p * 0x1000 + 0x38) % 0x1000 = 0x38 := by omega
  have hmask : woMask (p * 0x1000 + 0x38) = 0x700 := by
    rw [woMask, lock_fields p hp]
    rfl
  have hdefined : definedMask (p * 0x1000 + 0x38) = 0xFF070F := by
    rw [definedMask, if_neg (by omega), lock_fields p hp]
    rfl
  have hkept : v &&& 0xFF070F = v := by
    rw [← hv, Nat.and_assoc]
    rfl
  have hwrites : (fieldsAt (p * 0x1000 + 0x38)).foldl (writeField (p * 0x1000 + 0x38) v) s = s := by
    rw [lock_fields p hp]
    rfl
  simp only [writeWord, hoff, hpage, hmask, hdefined, hkept, hwrites, noFx, lockShadowed]
  rfl

theorem exec_lockWrite (hp : pageExists p = true) (hreach : reach s ag p = .open_) (hseal : rd s Reg.HDR_LOCK_SEALED p = 0)
    (hv : v < 2 ^ 32) : lockWrite ag p v s = .next (writeWord ag noFx s (p * 0x1000 + 0x38) v) := by
  rw [lockWrite, onUnit, if_pos hp, regWrite_open (lock_open hp hreach hseal) (by omega), Nat.mod_eq_of_lt hv]

section Served

variable (hp : pageExists p = true) (hreach : reach s ag p = .open_) (hseal : rd s Reg.HDR_LOCK_SEALED p = 0)
include hp hreach hseal

theorem exec_lockAcq : exec (.lockAcq ag p) s = .next (lockAcq (lockShadowed p (2 ^ 8) s) ag p) :=
  (exec_lockWrite hp hreach hseal (by decide)).trans (congrArg Host.Outcome.next (writeWord_lock (page_lt hp) rfl))

theorem exec_lockRel : exec (.lockRel ag p) s = .next (lockRel (lockShadowed p (2 ^ 9) s) ag p) :=
  (exec_lockWrite hp hreach hseal (by decide)).trans (congrArg Host.Outcome.next (writeWord_lock (page_lt hp) rfl))

theorem exec_lockSeal : exec (.lockSeal ag p) s = .next (lockSeal (lockShadowed p (2 ^ 10) s) p) :=
  (exec_lockWrite hp hreach hseal (by decide)).trans (congrArg Host.Outcome.next (writeWord_lock (page_lt hp) rfl))

end Served

/-- LOCK and STATUS of a page are different words. -/
theorem lockWord_ne_statusWord (f g : Fld) (hf : f.addr p = Reg.HDR_LOCK_HELD.addr p) (hg : g.addr p = Reg.HDR_STATUS_LOCKED.addr p) :
    f.addr p ≠ g.addr p := by
  rw [hf, hg]
  simp only [Fld.addr, Reg.HDR_LOCK_HELD, Reg.HDR_STATUS_LOCKED]
  omega

theorem lockAcq_free (h : rd s Reg.HDR_LOCK_HELD p = 0) : let t := lockAcq s ag p
    rd t Reg.HDR_LOCK_HELD p = 1 ∧ rd t Reg.HDR_LOCK_HOLDER p = ag.code ∧ rd t Reg.HDR_STATUS_LOCKED p = 1 := by
  have hcode : ag.code < 4 := by cases ag <;> decide
  dsimp only
  rw [lockAcq, if_pos h]
  refine ⟨?_, ?_, rd_wr_self _ _ _ (by decide)⟩
  · rw [rd_wr_ne _ _ _ _ _ _ (lockWord_ne_statusWord _ _ rfl rfl)]
    exact rd_wr_self _ _ _ (by decide)
  · rw [rd_wr_ne _ _ _ _ _ _ (lockWord_ne_statusWord Reg.HDR_LOCK_HOLDER _ rfl rfl), rd_wr_bits _ _ _ _ (by decide) (.inl (by decide)),
      rd_wr_self _ _ _ (by decide)]
    exact Nat.mod_eq_of_lt hcode

/-- A refused write leaves the lock with its holder. -/
theorem refused_spec (s : State) (p : Nat) : let t := refused s p
    rd t Reg.HDR_LOCK_HOLDER p = rd s Reg.HDR_LOCK_HOLDER p ∧
    rd t Reg.HDR_LOCK_REFUSED p = min (rd s Reg.HDR_LOCK_REFUSED p + 1) (2 ^ Reg.HDR_LOCK_REFUSED.w - 1) := by
  have hkept (f : Fld) (hf : f.addr p = Reg.HDR_LOCK_HELD.addr p) : rd (pageErr s Reg.HDR_ERR_SUM_LOCK_WR p) f p = rd s f p := by
    have hsum : f.addr p ≠ Reg.HDR_ERR_SUM_LOCK_WR.addr p := by
      rw [hf]
      simp only [Fld.addr, Reg.HDR_LOCK_HELD, Reg.HDR_ERR_SUM_LOCK_WR]
      omega
    rw [pageErr, rd_wr_ne _ _ _ _ _ _ (lockWord_ne_statusWord f Reg.HDR_STATUS_ERROR hf rfl), rd_wr_ne _ _ _ _ _ _ hsum]
  dsimp only
  rw [refused]
  refine ⟨?_, ?_⟩
  · rw [rd_bump_apart _ _ _ _ _ _ (.inr ⟨fits_of_le (by decide), .inl (by decide)⟩), hkept Reg.HDR_LOCK_HOLDER rfl]
  · rw [rd_bump_same _ _ _ _ (fits_of_le (by decide)), hkept Reg.HDR_LOCK_REFUSED rfl]

theorem lockAcq_held (h : rd s Reg.HDR_LOCK_HELD p = 1) (hother : rd s Reg.HDR_LOCK_HOLDER p ≠ ag.code) :
    lockAcq s ag p = refused s p := by
  rw [lockAcq, if_neg (by rw [h]; decide), if_neg hother]

theorem lockRel_own (h : rd s Reg.HDR_LOCK_HELD p = 1) (hown : rd s Reg.HDR_LOCK_HOLDER p = ag.code) : let t := lockRel s ag p
    rd t Reg.HDR_LOCK_HELD p = 0 ∧ rd t Reg.HDR_STATUS_LOCKED p = 0 := by
  dsimp only
  rw [lockRel, if_neg (by rw [h]; decide), if_pos hown]
  refine ⟨?_, rd_wr_self _ _ _ (by decide)⟩
  rw [rd_wr_ne _ _ _ _ _ _ (lockWord_ne_statusWord _ _ rfl rfl), rd_wr_bits _ _ _ _ (by decide) (.inr (by decide))]
  exact rd_wr_self _ _ _ (by decide)

theorem lockSeal_sealable (h : sealable p = true) (s : State) : let t := lockSeal s p
    rd t Reg.HDR_LOCK_SEALED p = 1 ∧ rd t Reg.HDR_STATUS_SEALED p = 1 := by
  dsimp only
  rw [lockSeal, if_pos h]
  refine ⟨?_, rd_wr_self _ _ _ (by decide)⟩
  rw [rd_wr_ne _ _ _ _ _ _ (lockWord_ne_statusWord Reg.HDR_LOCK_SEALED Reg.HDR_STATUS_SEALED rfl rfl)]
  exact rd_wr_self _ _ _ (by decide)

theorem lockSeal_refusing (h : sealable p = false) (s : State) : lockSeal s p = s :=
  if_neg (by rw [h]; exact Bool.false_ne_true)

end Lock

/-! ### HOLD and HOLD_ACK (R442) -/

section Hold

variable {s : State} {ag : Agent} {v k : Nat}

/-- Clearing one bit of a field leaves every other bit. -/
theorem rdBit_clrBit (s : State) {f : Fld} (i j : Nat) {k : Nat} (hf : f.lo + f.w ≤ 32) (hk : k < f.w) :
    rdBit (clrBit s f i j) f i k = (rdBit s f i k && k != j) := by
  by_cases hkj : k = j
  · subst hkj
    rw [rdBit_clrBit_same _ _ _ _ (fits_of_le hf)]
    simp
  · simp only [rdBit, clrBit, rd_wr_self _ _ _ hf, Nat.testBit_mod_two_pow, decide_eq_true hk, Bool.true_and,
      bne_iff_ne.2 hkj, Bool.and_true]
    split
    · next h => exact testBit_sub_two_pow_ne h hkj
    · rfl

/-- Where each turn of a list clears its own bit of a field, the bits of the list are cleared. -/
theorem rdBit_eachOf_clear {f : Fld} {i w : Nat} {step : State → Nat → State}
    (hstep : ∀ u j, ∀ k < w, rdBit (step u j) f i k = (rdBit u f i k && k != j)) (hk : k < w) (l : List Nat) (s : State) :
    rdBit (eachOf l s step) f i k = (rdBit s f i k && !(l.contains k)) := by
  induction l generalizing s with
  | nil => simp [eachOf]
  | cons j l ih =>
    refine (ih (step s j)).trans ?_
    rw [hstep s j k hk, List.contains_cons, Bool.not_or, ← Bool.and_assoc]
    rfl

/-- One engine is released. -/
def holdReleased (s : State) (k : Nat) : State := wr (clrBit s Reg.CEN_HOLD_ACK 0 k) Reg.HDR_STATUS_HELD (holdPage k) 0

/-- The engines the HOLD register does not name while they are acknowledged as held. -/
def releasedHolds (s : State) : List Nat := (List.range 6).filter fun k => !rdBit s Reg.CEN_HOLD 0 k && rdBit s Reg.CEN_HOLD_ACK 0 k

theorem fxHold_eq (s : State) : fxHold s = eachOf (releasedHolds s) s holdReleased := rfl

/-- Words 0x330 and 0x334 are no page's STATUS. -/
theorem hold_ne_status (f : Fld) (hf : f.addr 0 = 0x330 ∨ f.addr 0 = 0x334) (pg : Nat) : f.addr 0 ≠ Reg.HDR_STATUS_HELD.addr pg := by
  simp only [Fld.addr, Reg.HDR_STATUS_HELD] at hf ⊢
  omega

theorem rdBit_holdReleased (u : State) (j : Nat) {k : Nat} (hk : k < 6) :
    rdBit (holdReleased u j) Reg.CEN_HOLD_ACK 0 k = (rdBit u Reg.CEN_HOLD_ACK 0 k && k != j) := by
  rw [holdReleased, rdBit, rd_wr_ne _ _ _ _ _ _ (hold_ne_status _ (.inr rfl) _)]
  exact rdBit_clrBit u 0 j (by decide) hk

theorem releasedHolds_contains (s : State) (hk : k < 6) :
    (releasedHolds s).contains k = (!rdBit s Reg.CEN_HOLD 0 k && rdBit s Reg.CEN_HOLD_ACK 0 k) := by
  rw [Bool.eq_iff_iff]
  simp [releasedHolds, hk]

/-- An engine stays held that was, and that HOLD names. -/
theorem rdBit_fxHold (s : State) (hk : k < 6) :
    rdBit (fxHold s) Reg.CEN_HOLD_ACK 0 k = (rdBit s Reg.CEN_HOLD_ACK 0 k && rdBit s Reg.CEN_HOLD 0 k) := by
  rw [fxHold_eq, rdBit_eachOf_clear (fun u j _ hk => rdBit_holdReleased u j hk) hk, releasedHolds_contains s hk]
  cases rdBit s Reg.CEN_HOLD_ACK 0 k <;> simp

theorem OnlyRegs.trans {s t u : State} (h : OnlyRegs s t) (k : OnlyRegs t u) : OnlyRegs s u := by
  have e : u = { t with regs := u.regs } := k
  rw [show t = { s with regs := t.regs } from h] at e
  exact e

theorem OnlyRegs.each {α : Type} {f : State → α → State} (hf : ∀ s a, OnlyRegs s (f s a)) (l : List α) (s : State) :
    OnlyRegs s (eachOf l s f) :=
  eachOf_rel .refl (fun _ _ _ => .trans) hf l s

theorem fxHold_only (s : State) : OnlyRegs s (fxHold s) :=
  .each (fun u _ => ((OnlyRegs.refl u).wr _ _ _).wr _ _ _) _ s

theorem rd_fxHold_hold (s : State) : rd (fxHold s) Reg.CEN_HOLD 0 = rd s Reg.CEN_HOLD 0 := by
  have hkept : WordsOn (· = 0x330) s (fxHold s) := by
    refine .each (fun u k => .trans (.wr (by decide) u _) (.wr ?_ _ _)) _ s
    exact fun e => hold_ne_status Reg.CEN_HOLD (.inl rfl) (holdPage k) e.symm
  exact hkept.rd rfl

theorem hold_stored : inBlock (Reg.CEN_HOLD.addr 0) ∧ fieldsAt (Reg.CEN_HOLD.addr 0) = [Reg.CEN_HOLD] ∧
    woMask (Reg.CEN_HOLD.addr 0) = 0 ∧ Reg.CEN_HOLD_ACK.addr 0 ∉ storeWords (Reg.CEN_HOLD.addr 0) := by decide +kernel

theorem holdWrite_spec (h : Open s ag (Reg.CEN_HOLD.addr 0)) : Answers (.holdWrite ag v) s fun t =>
    rd t Reg.CEN_HOLD 0 = v % 2 ^ 6 ∧ OnlyRegs s t ∧
    ∀ k < 6, rdBit t Reg.CEN_HOLD_ACK 0 k = (rdBit s Reg.CEN_HOLD_ACK 0 k && bit v k) := by
  obtain ⟨hblock, hfields, hmask, hack⟩ := hold_stored
  have hexec : exec (.holdWrite ag v) s = .next (fxHold (stored ag (Reg.CEN_HOLD.addr 0) (v % 2 ^ 32) s)) := by
    show execHoldWrite ag v s = _
    rw [execHoldWrite, agentWrite_open h (by decide) (by decide), Nat.mod_mod]
  have hwithin := stored_regsWithin ag hblock.1 (v % 2 ^ 32) s
  have hhold : rd (stored ag (Reg.CEN_HOLD.addr 0) (v % 2 ^ 32) s) Reg.CEN_HOLD 0 = v % 2 ^ 6 := by
    rw [rd_stored_rw (a := Reg.CEN_HOLD.addr 0) ag rfl hblock (.inl hmask) (by decide) rfl (by rw [hfields]; decide)
      (by rw [hfields]; decide)]
    simp only [bits, Reg.CEN_HOLD]
    omega
  refine ⟨_, hexec, (rd_fxHold_hold _).trans hhold, hwithin.only.trans (fxHold_only _), fun k hk => ?_⟩
  have hbit : (v % 2 ^ 6).testBit k = bit v k := by
    rw [Nat.testBit_mod_two_pow, decide_eq_true hk, Bool.true_and, bit]
  rw [rdBit_fxHold _ hk, rdBit, rdBit, hwithin.rd hack, hhold, hbit]
  rfl

theorem holdAck_spec (hk : k < 6) (hawake : awake s = true) (hhold : rdBit s Reg.CEN_HOLD 0 k = true)
    (hack : rdBit s Reg.CEN_HOLD_ACK 0 k = false) :
    (engineAtEnd s k = true → Answers (.holdAck k) s fun t => rdBit t Reg.CEN_HOLD_ACK 0 k = true ∧
      rd t Reg.HDR_STATUS_HELD (holdPage k) = 1 ∧ OnlyRegs s t) ∧
    (engineAtEnd s k = false → exec (.holdAck k) s = .next s) := by
  have hexec : exec (.holdAck k) s = .next (if engineAtEnd s k then
      wr (setBit s Reg.CEN_HOLD_ACK 0 k) Reg.HDR_STATUS_HELD (holdPage k) 1 else s) := by
    show execHoldAck k s = _
    rw [execHoldAck, onUnit_live (decide_eq_true hk) hawake, hhold, hack]
    rfl
  refine ⟨fun hend => ⟨_, hexec.trans (congrArg Host.Outcome.next (if_pos hend)), ?_, rd_wr_self _ _ _ (by decide),
    ((OnlyRegs.refl s).wr _ _ _).wr _ _ _⟩, fun hend => hexec.trans (congrArg Host.Outcome.next (if_neg ?_))⟩
  · rw [rdBit, rd_wr_ne _ _ _ _ _ _ (hold_ne_status _ (.inr rfl) _)]
    exact rdBit_setBit_same s _ _ _ (fits_of_le (by decide)) hk
  · rw [hend]
    exact Bool.false_ne_true

end Hold

/-- Settles O58: a free lock is taken and a held one refused, each seal and hold where its page or its engine takes it. -/
theorem locksAndHolds : Obligations.LocksAndHolds := by
  unfold Obligations.LocksAndHolds
  refine ⟨fun s ag p hp hreach hseal => ⟨fun hfree => ?_, fun hheld hother => ?_, fun hheld hown => ?_, fun hsealable => ?_,
    fun hnot => ?_⟩, fun s ag v => holdWrite_spec, fun s k => holdAck_spec⟩
  · exact ⟨_, exec_lockAcq hp hreach hseal, lockAcq_free ((lockShadowed_held s).trans hfree)⟩
  · refine ⟨_, exec_lockAcq hp hreach hseal, ?_⟩
    rw [lockAcq_held ((lockShadowed_held s).trans hheld) (by rw [lockShadowed_holder]; exact hother)]
    obtain ⟨hholder, hcount⟩ := refused_spec (lockShadowed p (2 ^ 8) s) p
    have hcounter : rd (lockShadowed p (2 ^ 8) s) Reg.HDR_LOCK_REFUSED p = rd s Reg.HDR_LOCK_REFUSED p :=
      rd_lockShadowed s (by simp only [Fld.addr, Reg.HDR_LOCK_REFUSED]; omega)
    rw [hcounter] at hcount
    exact ⟨hholder.trans (lockShadowed_holder s), rd_refused_lockWr _ p, hcount⟩
  · exact ⟨_, exec_lockRel hp hreach hseal,
      lockRel_own ((lockShadowed_held s).trans hheld) ((lockShadowed_holder s).trans hown)⟩
  · exact ⟨_, exec_lockSeal hp hreach hseal, lockSeal_sealable hsealable _⟩
  · refine ⟨_, exec_lockSeal hp hreach hseal, ?_⟩
    rw [lockSeal_refusing hnot]
    exact (rd_lockShadowed s (by simp only [Fld.addr, Reg.HDR_LOCK_SEALED]; omega)).trans hseal

end Sys2Proof.Machine

/-! Partition masks, hot sets and record clears (R90, R122, R152, R177, R180, R231, R237). -/

namespace Sys2Proof.Machine

/-! ### Sets of bits and turns of a list -/

theorem testBit_ofBits (l : List Nat) (k : Nat) : (ofBits l).testBit k = l.contains k := by
  have hfrom (x : Nat) : (l.foldl (fun a k => a ||| 2 ^ k) x).testBit k = (x.testBit k || l.contains k) := by
    induction l generalizing x with
    | nil => simp
    | cons j l ih =>
      rw [List.foldl_cons, ih, Nat.testBit_or, Nat.testBit_two_pow, List.contains_cons, Bool.or_assoc]
      simp [eq_comm, Bool.beq_eq_decide_eq]
  exact (hfrom 0).trans (by simp)

/-- A bit of a word written to a register is the bit of the value written. -/
theorem testBit_written (v : Nat) {k : Nat} (hk : k < 32) : (bits (v % 2 ^ 32) 0 32).testBit k = bit v k := by
  rw [testBit_bits, Nat.zero_add, Nat.testBit_mod_two_pow, decide_eq_true hk]
  rfl

/-- What only its own turn may change is what that turn leaves, every turn keeping to the relation `R`. -/
theorem eachOf_turn {α : Type} {g : State → α} {R : State → State → Prop} {step : State → Nat → State} {i : Nat}
    (hrefl : ∀ s, R s s) (htrans : ∀ s t u, R s t → R t u → R s u) (hR : ∀ s j, R s (step s j))
    (hstep : ∀ s j, j ≠ i → g (step s j) = g s) {l : List Nat} (hl : l.Nodup) (hi : i ∈ l) (s : State) :
    ∃ u, R s u ∧ g u = g s ∧ g (eachOf l s step) = g (step u i) := by
  have hlater {l : List Nat} (hi : i ∉ l) (s : State) : g (eachOf l s step) = g s := by
    induction l generalizing s with
    | nil => rfl
    | cons j l ih =>
      obtain ⟨hj, hl⟩ := not_or.1 (mt List.mem_cons.2 hi)
      exact (ih hl (step s j)).trans (hstep s j (Ne.symm hj))
  induction l generalizing s with
  | nil => cases hi
  | cons j l ih =>
    obtain ⟨hj, hl⟩ := List.nodup_cons.1 hl
    by_cases e : i = j
    · subst e
      exact ⟨s, hrefl s, rfl, hlater hj _⟩
    · obtain ⟨u, hu, hkept, hend⟩ := ih hl ((List.mem_cons.1 hi).resolve_left e) (step s j)
      exact ⟨u, htrans _ _ _ (hR s j) hu, hkept.trans (hstep s j (Ne.symm e)), hend⟩

/-! ### PMASK (R177) -/

section Pmask

variable {s u : State} {ag : Agent} {p v : Nat}

theorem pmask_stored : ∀ p < 8, inBlock (Reg.WVE_PMASK.addr p) ∧ Reg.WVE_PMASK.addr p % 4 = 0 ∧
    fieldsAt (Reg.WVE_PMASK.addr p) = [Reg.WVE_PMASK] ∧ woMask (Reg.WVE_PMASK.addr p) = 0 ∧
    ∀ q < 8, q ≠ p → Reg.WVE_PMASK.addr q ∉ storeWords (Reg.WVE_PMASK.addr p) := by decide +kernel

theorem exec_pmaskWrite (hp : p < 8) (h : Open s ag (Reg.WVE_PMASK.addr p)) :
    exec (.pmaskWrite ag p v) s = .next (fxPmask p s (stored ag (Reg.WVE_PMASK.addr p) (v % 2 ^ 32) s)) := by
  obtain ⟨hblock, hword, -⟩ := pmask_stored p hp
  show execPmaskWrite ag p v s = _
  rw [execPmaskWrite, onUnit, if_pos (decide_eq_true hp), agentWrite_open h hword hblock.2, Nat.mod_mod]

/-- Island `k` is in the mask once `u` holds what was written over the mask of `old`. -/
def inMask (p : Nat) (old u : State) (k : Nat) : Bool :=
  if rdBit old Reg.WVE_PMASK p k then rdBit u Reg.WVE_PMASK p k || (isl u k).bind.isSome
  else rdBit u Reg.WVE_PMASK p k && !((List.range 8).any fun q => q != p && rdBit u Reg.WVE_PMASK q k)

/-- The partition masks: the words below 0x2120 of the weave block. -/
def MaskWord (a : Nat) : Prop := a < 0x2120

theorem rd_fxPmask (hp : p < 8) (old u : State) : rd (fxPmask p old u) Reg.WVE_PMASK p =
    ofBits ((List.range 32).filter (inMask p old u)) % 2 ^ 32 := by
  have hmask : MaskWord (Reg.WVE_PMASK.addr p) := by
    simp only [MaskWord, Fld.addr, Reg.WVE_PMASK]
    omega
  have hhot (j : Nat) : ¬MaskWord (Reg.WVE_HSET.addr j) := by
    simp only [MaskWord, Fld.addr, Reg.WVE_HSET]
    omega
  have hused (j : Nat) : ¬MaskWord (Reg.XLT_U_T1.addr j) := by
    simp only [MaskWord, Fld.addr, Reg.XLT_U_T1]
    omega
  exact ((WordsOn.each (fun u k => .wr (hhot p) u _) _ _).trans (.wr (hused p) _ _)).rd hmask |>.trans
    (rd_wr_self u (f := Reg.WVE_PMASK) p _ (by decide))

theorem rdBit_fxPmask (hp : p < 8) (old u : State) {k : Nat} (hk : k < 32) :
    rdBit (fxPmask p old u) Reg.WVE_PMASK p k = inMask p old u k := by
  rw [rdBit, rd_fxPmask hp, Nat.testBit_mod_two_pow, decide_eq_true hk, Bool.true_and, testBit_ofBits, Bool.eq_iff_iff]
  simp [hk]

theorem rdBit_stored_pmask (hp : p < 8) (s : State) {k : Nat} (hk : k < 32) :
    rdBit (stored ag (Reg.WVE_PMASK.addr p) (v % 2 ^ 32) s) Reg.WVE_PMASK p k = bit v k := by
  obtain ⟨hblock, -, hfields, hmask, -⟩ := pmask_stored p hp
  rw [rdBit, rd_stored_rw (a := Reg.WVE_PMASK.addr p) ag rfl hblock (.inl hmask) (by decide) rfl (by rw [hfields]; decide)
    (by rw [hfields]; decide)]
  exact testBit_written v hk

theorem pmaskWrite_mask (hp : p < 8) (h : Open s ag (Reg.WVE_PMASK.addr p)) : Answers (.pmaskWrite ag p v) s fun t =>
    ∀ k < 32, rdBit t Reg.WVE_PMASK p k =
      if rdBit s Reg.WVE_PMASK p k then bit v k || (isl s k).bind.isSome
      else bit v k && !((List.range 8).any fun q => q != p && rdBit s Reg.WVE_PMASK q k) := by
  refine ⟨_, exec_pmaskWrite hp h, fun k hk => ?_⟩
  obtain ⟨hblock, -, -, -, hothers⟩ := pmask_stored p hp
  have hwithin := stored_regsWithin ag hblock.1 (v % 2 ^ 32) s
  have hother : ((List.range 8).any fun q => q != p && rdBit (stored ag (Reg.WVE_PMASK.addr p) (v % 2 ^ 32) s) Reg.WVE_PMASK q k) =
      (List.range 8).any fun q => q != p && rdBit s Reg.WVE_PMASK q k := by
    rw [Bool.eq_iff_iff]
    simp only [List.any_eq_true, List.mem_range, Bool.and_eq_true, bne_iff_ne]
    refine exists_congr fun q => and_congr_right fun hq => and_congr_right fun hne => ?_
    rw [rdBit, rdBit, hwithin.rd (hothers q hq hne)]
  rw [rdBit_fxPmask hp _ _ hk, inMask, rdBit_stored_pmask hp s hk, hwithin.only.isl k, hother]

end Pmask

/-! ### HSET (R231, R237) -/

section Hset

variable {s : State} {ag : Agent} {p v : Nat}

theorem hset_stored : ∀ p < 8, inBlock (Reg.WVE_HSET.addr p) ∧ Reg.WVE_HSET.addr p % 4 = 0 ∧
    fieldsAt (Reg.WVE_HSET.addr p) = [Reg.WVE_HSET] ∧ woMask (Reg.WVE_HSET.addr p) = 0 ∧
    Reg.WVE_PMASK.addr p ∉ storeWords (Reg.WVE_HSET.addr p) := by decide +kernel

theorem exec_hsetWrite (hp : p < 8) (h : Open s ag (Reg.WVE_HSET.addr p)) :
    exec (.hsetWrite ag p v) s = .next (fxHset p s (stored ag (Reg.WVE_HSET.addr p) (v % 2 ^ 32) s)) := by
  obtain ⟨hblock, hword, -⟩ := hset_stored p hp
  show execHsetWrite ag p v s = _
  rw [execHsetWrite, onUnit, if_pos (decide_eq_true hp), agentWrite_open h hword hblock.2, Nat.mod_mod]

/-- One bit judged: `was` the hot set, `w` what was written over it. -/
def hotTurn (p was w : Nat) (s : State) (k : Nat) : State :=
  if was.testBit k && !w.testBit k then
    if hotOn s k then s else down (clrBit s Reg.WVE_HSET p k) Reg.XLT_U_T1 p 32
  else if !was.testBit k && w.testBit k then
    if rdBit s Reg.WVE_PMASK p k && decide (rd s Reg.XLT_U_T1 p + 32 ≤ rd s Reg.XLT_Q_T1 p)
    then up (setBit s Reg.WVE_HSET p k) Reg.XLT_U_T1 p 32 else s
  else s

theorem fxHset_eq (p : Nat) (old s : State) : fxHset p old s =
    eachOf (List.range 32) (wr s Reg.WVE_HSET p (rd old Reg.WVE_HSET p)) (hotTurn p (rd old Reg.WVE_HSET p) (rd s Reg.WVE_HSET p)) :=
  rfl

/-- What judging the hot set may touch: registers, and of those not the masks. -/
structure MasksStand (s t : State) : Prop where
  only : OnlyRegs s t
  masks : WordsOn MaskWord s t

namespace MasksStand

variable {s t u : State}

theorem refl (s : State) : MasksStand s s := ⟨OnlyRegs.refl s, .refl s⟩

theorem trans (h : MasksStand s t) (k : MasksStand t u) : MasksStand s u := ⟨h.only.trans k.only, h.masks.trans k.masks⟩

theorem wr {f : Fld} {i : Nat} (hf : ¬MaskWord (f.addr i)) (s : State) (v : Nat) : MasksStand s (wr s f i v) :=
  ⟨(OnlyRegs.refl s).wr _ _ _, .wr hf s v⟩

theorem ite {c : Prop} [Decidable c] (ht : MasksStand s t) (hu : MasksStand s u) : MasksStand s (if c then t else u) := by
  split
  · exact ht
  · exact hu

/-- The binding of an island, and so whether a HOT weave runs there, does not rest on registers. -/
theorem hotOn (h : MasksStand s t) (k : Nat) : hotOn t k = hotOn s k := by
  rw [h.only]
  rfl

theorem pmask (h : MasksStand s t) (hp : p < 8) (k : Nat) : rdBit t Reg.WVE_PMASK p k = rdBit s Reg.WVE_PMASK p k := by
  have hmask : MaskWord (Reg.WVE_PMASK.addr p) := by
    simp only [MaskWord, Fld.addr, Reg.WVE_PMASK]
    omega
  rw [rdBit, h.masks.rd hmask, rdBit]

end MasksStand

theorem hset_unmasked (p : Nat) : ¬MaskWord (Reg.WVE_HSET.addr p) := by
  simp only [MaskWord, Fld.addr, Reg.WVE_HSET]
  omega

theorem used_unmasked (p : Nat) : ¬MaskWord (Reg.XLT_U_T1.addr p) := by
  simp only [MaskWord, Fld.addr, Reg.XLT_U_T1]
  omega

theorem hotTurn_masks (p was w : Nat) (s : State) (k : Nat) : MasksStand s (hotTurn p was w s k) :=
  have hturn (v x : Nat) : MasksStand s (Machine.wr (Machine.wr s Reg.WVE_HSET p v) Reg.XLT_U_T1 p x) :=
    (MasksStand.wr (hset_unmasked p) s v).trans (.wr (used_unmasked p) _ _)
  .ite (.ite (.refl s) (hturn _ _)) (.ite (.ite (hturn _ _) (.refl s)) (.refl s))

/-- The word that counts T1 in use is no hot set. -/
theorem hset_ne_used (hp : p < 8) : Reg.WVE_HSET.addr p ≠ Reg.XLT_U_T1.addr p := by
  simp only [Fld.addr, Reg.WVE_HSET, Reg.XLT_U_T1]
  omega

theorem rdBit_down_clr (hp : p < 8) (s : State) (j : Nat) {k : Nat} (hk : k < 32) :
    rdBit (down (clrBit s Reg.WVE_HSET p j) Reg.XLT_U_T1 p 32) Reg.WVE_HSET p k = (rdBit s Reg.WVE_HSET p k && k != j) := by
  rw [rdBit, down, rd_wr_ne _ _ _ _ _ _ (hset_ne_used hp)]
  exact rdBit_clrBit s p j (by decide) hk

theorem rdBit_up_set_ne (hp : p < 8) (s : State) {j k : Nat} (hne : j ≠ k) (hk : k < 32) :
    rdBit (up (setBit s Reg.WVE_HSET p j) Reg.XLT_U_T1 p 32) Reg.WVE_HSET p k = rdBit s Reg.WVE_HSET p k := by
  rw [rdBit, up, rd_wr_ne _ _ _ _ _ _ (hset_ne_used hp), setBit, rd_wr_self _ _ _ (by decide), Nat.testBit_mod_two_pow,
    decide_eq_true (show k < Reg.WVE_HSET.w from hk), Bool.true_and, testBit_or_two_pow_ne _ hne.symm, rdBit]

theorem hotTurn_ne (hp : p < 8) (was w : Nat) (s : State) {j k : Nat} (hne : j ≠ k) (hk : k < 32) :
    rdBit (hotTurn p was w s j) Reg.WVE_HSET p k = rdBit s Reg.WVE_HSET p k := by
  have hclr : rdBit (down (clrBit s Reg.WVE_HSET p j) Reg.XLT_U_T1 p 32) Reg.WVE_HSET p k = rdBit s Reg.WVE_HSET p k := by
    rw [rdBit_down_clr hp s j hk, bne_iff_ne.2 hne.symm, Bool.and_true]
  unfold hotTurn
  split
  · split
    · rfl
    · exact hclr
  · split
    · split
      · exact rdBit_up_set_ne hp s hne hk
      · rfl
    · rfl

/-- A HOT weave's island leaves its hot set at no turn. -/
theorem hotTurn_keeps {was w : Nat} {s : State} {k : Nat} (hwas : was.testBit k = true) (hhot : hotOn s k = true) :
    hotTurn p was w s k = s := by
  unfold hotTurn
  rw [hwas, hhot]
  cases w.testBit k <;> rfl

/-- An island enters the hot set only where it was written and its mask holds it. -/
theorem hotTurn_enters {was w : Nat} {s : State} {k : Nat} (hwas : was.testBit k = false)
    (hout : rdBit s Reg.WVE_HSET p k = false) (hin : rdBit (hotTurn p was w s k) Reg.WVE_HSET p k = true) :
    w.testBit k = true ∧ rdBit s Reg.WVE_PMASK p k = true := by
  unfold hotTurn at hin
  rw [hwas, Bool.false_and, if_neg Bool.false_ne_true, Bool.not_false, Bool.true_and] at hin
  split at hin
  · next hw =>
    split at hin
    · next hmask => exact ⟨hw, (Bool.and_eq_true_iff.1 hmask).1⟩
    · rw [hout] at hin
      cases hin
  · rw [hout] at hin
    cases hin

theorem rdBit_stored_hset (hp : p < 8) (s : State) {k : Nat} (hk : k < 32) :
    (rd (stored ag (Reg.WVE_HSET.addr p) (v % 2 ^ 32) s) Reg.WVE_HSET p).testBit k = bit v k := by
  obtain ⟨hblock, -, hfields, hmask, -⟩ := hset_stored p hp
  rw [rd_stored_rw (a := Reg.WVE_HSET.addr p) ag rfl hblock (.inl hmask) (by decide) rfl (by rw [hfields]; decide)
    (by rw [hfields]; decide)]
  exact testBit_written v hk

theorem hsetWrite_hot (hp : p < 8) (h : Open s ag (Reg.WVE_HSET.addr p)) : Answers (.hsetWrite ag p v) s fun t =>
    ∀ k < 32, (rdBit s Reg.WVE_HSET p k = true → hotOn s k = true → rdBit t Reg.WVE_HSET p k = true) ∧
      (rdBit s Reg.WVE_HSET p k = false → rdBit t Reg.WVE_HSET p k = true → bit v k = true ∧ rdBit s Reg.WVE_PMASK p k = true) := by
  refine ⟨_, exec_hsetWrite hp h, fun k hk => ?_⟩
  obtain ⟨hblock, -, -, -, hmasked⟩ := hset_stored p hp
  have hwithin := stored_regsWithin ag hblock.1 (v % 2 ^ 32) s
  have hwritten : (rd (stored ag (Reg.WVE_HSET.addr p) (v % 2 ^ 32) s) Reg.WVE_HSET p).testBit k = bit v k :=
    rdBit_stored_hset hp s hk
  rw [fxHset_eq]
  generalize stored ag (Reg.WVE_HSET.addr p) (v % 2 ^ 32) s = u at hwithin hwritten ⊢
  have hstart : rdBit (wr u Reg.WVE_HSET p (rd s Reg.WVE_HSET p)) Reg.WVE_HSET p k = rdBit s Reg.WVE_HSET p k := by
    rw [rdBit, rd_wr_self _ _ _ (by decide), Nat.mod_eq_of_lt (rd_lt _ _ _), rdBit]
  have hbegin : MasksStand u (wr u Reg.WVE_HSET p (rd s Reg.WVE_HSET p)) := .wr (hset_unmasked p) _ _
  obtain ⟨x, hx, hkept, hend⟩ := eachOf_turn (g := fun t => rdBit t Reg.WVE_HSET p k) .refl (fun _ _ _ => .trans)
    (hotTurn_masks p (rd s Reg.WVE_HSET p) (rd u Reg.WVE_HSET p)) (fun s j hne => hotTurn_ne hp _ _ s hne hk)
    List.nodup_range (List.mem_range.2 hk) (wr u Reg.WVE_HSET p (rd s Reg.WVE_HSET p))
  have hfrom := hbegin.trans hx
  have hhot : hotOn x k = hotOn s k := (hfrom.hotOn k).trans (by rw [hwithin.only]; rfl)
  have hmask : rdBit x Reg.WVE_PMASK p k = rdBit s Reg.WVE_PMASK p k :=
    (hfrom.pmask hp k).trans (by rw [rdBit, hwithin.rd hmasked, rdBit])
  have hstay : rdBit x Reg.WVE_HSET p k = rdBit s Reg.WVE_HSET p k := hkept.trans hstart
  refine ⟨fun hwas hruns => ?_, fun hwas hin => ?_⟩
  · rw [hend, hotTurn_keeps hwas (hhot.trans hruns), hstay, hwas]
  · rw [hend] at hin
    obtain ⟨hbit, hin⟩ := hotTurn_enters hwas (hstay.trans hwas) hin
    exact ⟨hwritten.symm.trans hbit, hmask.symm.trans hin⟩

end Hset

/-! ### Record clears (R90, R122, R152, R180) -/

section Clears

variable {s : State} {ag : Agent} {n : Nat}

theorem zeroRegs_only (l : List Nat) (s : State) : OnlyRegs s (zeroRegs s l) := .each (fun u a => (OnlyRegs.refl u).ww a 0) l s

/-- A word that a list of clears names reads zero. -/
theorem rw_zeroRegs {l : List Nat} {a : Nat} (ha : a ∈ l) (s : State) : rw (zeroRegs s l) a = 0 := by
  have hlast {l : List Nat} (s : State) (h : rw s a = 0) : rw (zeroRegs s l) a = 0 := by
    induction l generalizing s with
    | nil => exact h
    | cons b l ih =>
      refine ih (ww s b 0) ?_
      by_cases e : a = b
      · rw [e, rw_ww_same]
      · rw [rw_ww_ne _ _ e, h]
  induction l generalizing s with
  | nil => cases ha
  | cons b l ih =>
    rcases List.mem_cons.1 ha with rfl | hl
    · exact hlast (ww s a 0) (rw_ww_same _ _ _)
    · exact ih hl (ww s b 0)

theorem rd_of_zero {f : Fld} {i : Nat} (h : rw s (f.addr i) = 0) : rd s f i = 0 := by
  rw [rd, h]
  simp [getF]

/-- A clear that is stored and then zeroes the words of `l`. -/
theorem zeroRegs_stored {a : Nat} (ha : 0x100 ≤ a % 0x1000) (v : Nat) (l : List Nat) (s : State) :
    OnlyRegs s (zeroRegs (stored ag a v s) l) ∧ ∀ b ∈ l, rw (zeroRegs (stored ag a v s) l) b = 0 :=
  ⟨(stored_regsWithin ag ha v s).only.trans (zeroRegs_only l _), fun _ hb => rw_zeroRegs hb _⟩

theorem lclr_spec (h : Open s ag (Reg.WVE_FLT_CTRL_LCLR.addr 0)) : Answers (.lclr ag) s fun t =>
    rd t Reg.WVE_LOAD_FAULT_VALID 0 = 0 ∧ OnlyRegs s t ∧ ∀ a ∈ [0x2120, 0x2124, 0x2128, 0x212C], rw t a = 0 := by
  have hexec : exec (.lclr ag) s =
      .next (zeroRegs (stored ag (Reg.WVE_FLT_CTRL_LCLR.addr 0) 1 s) [0x2120, 0x2124, 0x2128, 0x212C]) := by
    show execLclr ag s = _
    rw [execLclr, agentWrite_open h (by decide) (by decide)]
    rfl
  obtain ⟨honly, hzero⟩ := zeroRegs_stored (ag := ag) (a := Reg.WVE_FLT_CTRL_LCLR.addr 0) (by decide) 1
    [0x2120, 0x2124, 0x2128, 0x212C] s
  exact ⟨_, hexec, rd_of_zero (hzero _ (by decide)), honly, hzero⟩

theorem rclr_spec (h : Open s ag (Reg.WVE_FLT_CTRL_LCLR.addr 0)) : Answers (.rclr ag) s fun t =>
    rd t Reg.WVE_RUN_FAULT_VALID 0 = 0 ∧ OnlyRegs s t ∧ ∀ a ∈ [0x2130, 0x2134], rw t a = 0 := by
  have hexec : exec (.rclr ag) s = .next (zeroRegs (stored ag (Reg.WVE_FLT_CTRL_RCLR.addr 0) 2 s) [0x2130, 0x2134]) := by
    show execRclr ag s = _
    rw [execRclr, agentWrite_open (f := Reg.WVE_FLT_CTRL_RCLR) h (by decide) (by decide)]
    rfl
  obtain ⟨honly, hzero⟩ := zeroRegs_stored (ag := ag) (a := Reg.WVE_FLT_CTRL_RCLR.addr 0) (by decide) 2 [0x2130, 0x2134] s
  exact ⟨_, hexec, rd_of_zero (hzero _ (by decide)), honly, hzero⟩

theorem island_control : ∀ n < 32, (inBlock (Reg.ISL_STK_HEALTH_FCLR.addr n) ∧ Reg.ISL_STK_HEALTH_FCLR.addr n % 4 = 0) ∧
    (inBlock (Reg.ISL_BSH_CTRL_FCLR.addr n) ∧ Reg.ISL_BSH_CTRL_FCLR.addr n % 4 = 0) ∧
    inBlock (Reg.ISL_FAB_CTRL_FCLR.addr n) ∧ Reg.ISL_FAB_CTRL_FCLR.addr n % 4 = 0 := by decide

theorem stkFclr_spec (hn : n < 32) (h : Open s ag (Reg.ISL_STK_HEALTH_FCLR.addr n)) : Answers (.stkFclr ag n) s fun t =>
    rw t (Reg.ISL_STK_FAULT_STAKE.addr n) = 0 ∧ rw t (Reg.ISL_STK_FAULT_M.addr n) = 0 ∧ OnlyRegs s t := by
  obtain ⟨⟨hblock, hword⟩, -⟩ := island_control n hn
  have hexec : exec (.stkFclr ag n) s = .next (zeroRegs (stored ag (Reg.ISL_STK_HEALTH_FCLR.addr n) 2 s)
      [Reg.ISL_STK_FAULT_STAKE.addr n, Reg.ISL_STK_FAULT_D.addr n, Reg.ISL_STK_FAULT_E.addr n, Reg.ISL_STK_FAULT_M.addr n]) := by
    show execStkFclr ag n s = _
    rw [execStkFclr, onUnit, if_pos (decide_eq_true hn), agentWrite_open h hword hblock.2]
    rfl
  obtain ⟨honly, hzero⟩ := zeroRegs_stored (ag := ag) hblock.1 2 [Reg.ISL_STK_FAULT_STAKE.addr n, Reg.ISL_STK_FAULT_D.addr n,
    Reg.ISL_STK_FAULT_E.addr n, Reg.ISL_STK_FAULT_M.addr n] s
  exact ⟨_, hexec, hzero _ (by simp), hzero _ (by simp), honly⟩

theorem bshFclr_spec (hn : n < 32) (h : Open s ag (Reg.ISL_BSH_CTRL_FCLR.addr n)) : Answers (.bshFclr ag n) s fun t =>
    rw t (Reg.ISL_BSH_FAULT_BUSHEL.addr n) = 0 ∧ rw t (Reg.ISL_BSH_FAULT_A_ADDR.addr n) = 0 ∧ OnlyRegs s t := by
  obtain ⟨-, ⟨hblock, hword⟩, -⟩ := island_control n hn
  have hexec : exec (.bshFclr ag n) s = .next (zeroRegs (stored ag (Reg.ISL_BSH_CTRL_FCLR.addr n) 1 s)
      [Reg.ISL_BSH_FAULT_BUSHEL.addr n, Reg.ISL_BSH_FAULT_A_ADDR.addr n]) := by
    show execBshFclr ag n s = _
    rw [execBshFclr, onUnit, if_pos (decide_eq_true hn), agentWrite_open h hword hblock.2]
    rfl
  obtain ⟨honly, hzero⟩ := zeroRegs_stored (ag := ag) hblock.1 1
    [Reg.ISL_BSH_FAULT_BUSHEL.addr n, Reg.ISL_BSH_FAULT_A_ADDR.addr n] s
  exact ⟨_, hexec, hzero _ (by simp), hzero _ (by simp), honly⟩

theorem fabFclr_spec (hn : n < 32) (h : Open s ag (Reg.ISL_FAB_CTRL_FCLR.addr n)) : Answers (.fabFclr ag n) s fun t =>
    rw t (Reg.ISL_FAB_FAULT_POS.addr n) = 0 ∧ rw t (Reg.ISL_FAB_FAULT_T_INFO.addr n) = 0 ∧ OnlyRegs s t := by
  obtain ⟨-, -, hblock, hword⟩ := island_control n hn
  have hexec : exec (.fabFclr ag n) s = .next (zeroRegs (stored ag (Reg.ISL_FAB_CTRL_FCLR.addr n) 1 s)
      [Reg.ISL_FAB_FAULT_POS.addr n, Reg.ISL_FAB_FAULT_T_INFO.addr n]) := by
    show execFabFclr ag n s = _
    rw [execFabFclr, onUnit, if_pos (decide_eq_true hn), agentWrite_open h hword hblock.2]
    rfl
  obtain ⟨honly, hzero⟩ := zeroRegs_stored (ag := ag) hblock.1 1
    [Reg.ISL_FAB_FAULT_POS.addr n, Reg.ISL_FAB_FAULT_T_INFO.addr n] s
  exact ⟨_, hexec, hzero _ (by simp), hzero _ (by simp), honly⟩

end Clears

/-- Settles O59: masks and hot sets keep occupied islands and take no other partition's; clears zero what they name. -/
theorem masksAndClears : Obligations.MasksAndClears := by
  unfold Obligations.MasksAndClears
  exact ⟨fun s ag p v hp => ⟨fun h => ⟨exec_pmaskWrite hp h, pmaskWrite_mask hp h⟩, fun h => ⟨exec_hsetWrite hp h, hsetWrite_hot hp h⟩⟩,
    fun s ag n hn => ⟨fun h => ⟨lclr_spec h, rclr_spec h⟩, stkFclr_spec hn, bshFclr_spec hn, fabFclr_spec hn⟩⟩

end Sys2Proof.Machine

/-! Census copies and the rim firmware (R438, R439, R445). -/

namespace Sys2Proof.Machine

/-! ### COPY_GO (R438) -/

section CopyGo

variable {s u : State}

theorem copyGo_stored : inBlock (Reg.CEN_COPY_GO.addr 0) ∧ ∀ f ∈ [Reg.CEN_COPY_OBJ_OBJ, Reg.CEN_COPY_OBJ_PART,
    Reg.CEN_COPY_OBJ_INDEX, Reg.CEN_COPY_SEL_LO, Reg.CEN_COPY_SEL_HI, Reg.CEN_COPY_LEN, Reg.CEN_COPY_STAT_BUSY],
    f.addr 0 ∉ storeWords (Reg.CEN_COPY_GO.addr 0) := by decide +kernel

theorem exec_copyGo (h : Open s .host (Reg.CEN_COPY_GO.addr 0)) :
    exec .copyGo s = .next (fxCopyGo 1 (stored .host (Reg.CEN_COPY_GO.addr 0) 1 s)) := by
  show execCopyGo s = _
  rw [execCopyGo, agentWrite_open h (by decide) (by decide)]
  rfl

/-- The object the copy registers name. -/
def objectNamed (s : State) : List Nat ⊕ Nat :=
  census s (rd s Reg.CEN_COPY_OBJ_OBJ 0) (rd s Reg.CEN_COPY_OBJ_PART 0) (rd s Reg.CEN_COPY_OBJ_INDEX 0)
    (rd2 s Reg.CEN_COPY_SEL_LO Reg.CEN_COPY_SEL_HI 0)

/-- A copy stands begun with its job. -/
def copyBegun (s : State) (j : CopyJob) : State :=
  let u := wr (wr (wr s Reg.CEN_COPY_STAT_BUSY 0 1) Reg.CEN_COPY_STAT_CODE 0 1) Reg.CEN_COPY_TIME 0 s.now
  { u with hst := { u.hst with copy := some j } }

/-- What the object becomes of a job: its bytes, or the code the copy will end with. -/
structure JobOf (s : State) (x : List Nat ⊕ Nat) (j : CopyJob) : Prop where
  none : ∀ k, x = .inr k → j.code = k ∧ j.bytes = []
  long : ∀ l, x = .inl l → rd s Reg.CEN_COPY_LEN 0 < l.length → j.code = 3 ∧ j.need = l.length
  fits : ∀ l, x = .inl l → l.length ≤ rd s Reg.CEN_COPY_LEN 0 → j.code = 0 ∧ j.bytes = l

theorem fxCopyGo_begins (hfree : rd s Reg.CEN_COPY_STAT_BUSY 0 = 0) :
    ∃ j, fxCopyGo 1 s = copyBegun s j ∧ JobOf s (objectNamed s) j := by
  refine ⟨_, if_neg (by rw [hfree]; decide), ?_⟩
  rw [← objectNamed]
  cases objectNamed s with
  | inr k =>
    refine ⟨fun _ e => ?_, nofun, nofun⟩
    cases e
    exact ⟨rfl, rfl⟩
  | inl l =>
    refine ⟨nofun, fun _ e hlong => ?_, fun _ e hfits => ?_⟩ <;> cases e
    · dsimp only
      rw [if_pos hlong]
      exact ⟨rfl, rfl⟩
    · dsimp only
      rw [if_neg (Nat.not_lt.2 hfits)]
      exact ⟨rfl, rfl⟩

theorem fxCopyGo_busy (h : rd s Reg.CEN_COPY_STAT_BUSY 0 = 1) : fxCopyGo 1 s = s := if_pos (.inr h)

theorem rd_copyBegun (j : CopyJob) : rd (copyBegun s j) Reg.CEN_COPY_STAT_BUSY 0 = 1 ∧
    rd (copyBegun s j) Reg.CEN_COPY_STAT_CODE 0 = 1 ∧ rd (copyBegun s j) Reg.CEN_COPY_TIME 0 = s.now % 2 ^ 32 := by
  have hregs (f : Fld) : rd (copyBegun s j) f 0 =
      rd (wr (wr (wr s Reg.CEN_COPY_STAT_BUSY 0 1) Reg.CEN_COPY_STAT_CODE 0 1) Reg.CEN_COPY_TIME 0 s.now) f 0 := rd_of_regs rfl f 0
  refine ⟨?_, ?_, ?_⟩
  · rw [hregs, rd_wr_ne _ _ _ _ _ _ (by decide), rd_wr_bits _ _ _ _ (by decide) (.inl (by decide)), rd_wr_self _ _ _ (by decide)]
    rfl
  · rw [hregs, rd_wr_ne _ _ _ _ _ _ (by decide), rd_wr_self _ _ _ (by decide)]
    rfl
  · rw [hregs]
    exact rd_wr_self _ _ _ (by decide)

theorem copyGo_begins (h : Open s .host (Reg.CEN_COPY_GO.addr 0)) (hfree : rd s Reg.CEN_COPY_STAT_BUSY 0 = 0) :
    Answers .copyGo s fun t =>
      let obj := census (stored .host (Reg.CEN_COPY_GO.addr 0) 1 s) (rd s Reg.CEN_COPY_OBJ_OBJ 0) (rd s Reg.CEN_COPY_OBJ_PART 0)
        (rd s Reg.CEN_COPY_OBJ_INDEX 0) (rd2 s Reg.CEN_COPY_SEL_LO Reg.CEN_COPY_SEL_HI 0)
      rd t Reg.CEN_COPY_STAT_BUSY 0 = 1 ∧ rd t Reg.CEN_COPY_STAT_CODE 0 = 1 ∧ rd t Reg.CEN_COPY_TIME 0 = s.now % 2 ^ 32 ∧
      (∀ k, obj = .inr k → ∃ j, t.hst.copy = some j ∧ j.code = k ∧ j.bytes = []) ∧
      (∀ l, obj = .inl l → rd s Reg.CEN_COPY_LEN 0 < l.length → ∃ j, t.hst.copy = some j ∧ j.code = 3 ∧ j.need = l.length) ∧
      (∀ l, obj = .inl l → l.length ≤ rd s Reg.CEN_COPY_LEN 0 → ∃ j, t.hst.copy = some j ∧ j.code = 0 ∧ j.bytes = l) := by
  obtain ⟨hblock, hkept⟩ := copyGo_stored
  have hwithin := stored_regsWithin .host hblock.1 1 s
  have hexec := exec_copyGo h
  have hnamed : objectNamed (stored .host (Reg.CEN_COPY_GO.addr 0) 1 s) = census (stored .host (Reg.CEN_COPY_GO.addr 0) 1 s)
      (rd s Reg.CEN_COPY_OBJ_OBJ 0) (rd s Reg.CEN_COPY_OBJ_PART 0) (rd s Reg.CEN_COPY_OBJ_INDEX 0)
      (rd2 s Reg.CEN_COPY_SEL_LO Reg.CEN_COPY_SEL_HI 0) := by
    rw [objectNamed, rd2, rd2, hwithin.rd (hkept Reg.CEN_COPY_OBJ_OBJ (by decide)),
      hwithin.rd (hkept Reg.CEN_COPY_OBJ_PART (by decide)), hwithin.rd (hkept Reg.CEN_COPY_OBJ_INDEX (by decide)),
      hwithin.rd (hkept Reg.CEN_COPY_SEL_LO (by decide)), hwithin.rd (hkept Reg.CEN_COPY_SEL_HI (by decide))]
  have hlen := hwithin.rd (hkept Reg.CEN_COPY_LEN (by decide))
  have hbusy := (hwithin.rd (hkept Reg.CEN_COPY_STAT_BUSY (by decide))).trans hfree
  have hnow : (stored .host (Reg.CEN_COPY_GO.addr 0) 1 s).now = s.now := by rw [hwithin.only]
  generalize stored .host (Reg.CEN_COPY_GO.addr 0) 1 s = u at hexec hnamed hlen hbusy hnow ⊢
  obtain ⟨j, hbegun, hjob⟩ := fxCopyGo_begins hbusy
  rw [hnamed] at hjob
  obtain ⟨hshows, hcode, htime⟩ := rd_copyBegun (s := u) j
  refine ⟨_, hexec.trans (congrArg Host.Outcome.next hbegun), hshows, hcode, htime.trans (by rw [hnow]), fun k e => ?_,
    fun l e hlong => ?_, fun l e hfits => ?_⟩
  · exact ⟨j, rfl, hjob.none k e⟩
  · exact ⟨j, rfl, hjob.long l e (hlen.symm ▸ hlong)⟩
  · exact ⟨j, rfl, hjob.fits l e (hlen.symm ▸ hfits)⟩

theorem copyGo_busy (h : Open s .host (Reg.CEN_COPY_GO.addr 0)) (hbusy : rd s Reg.CEN_COPY_STAT_BUSY 0 = 1) :
    exec .copyGo s = .next (stored .host (Reg.CEN_COPY_GO.addr 0) 1 s) := by
  obtain ⟨hblock, hkept⟩ := copyGo_stored
  have hstill := ((stored_regsWithin .host hblock.1 1 s).rd (hkept Reg.CEN_COPY_STAT_BUSY (by decide))).trans hbusy
  exact (exec_copyGo h).trans (congrArg Host.Outcome.next (fxCopyGo_busy hstill))

end CopyGo

/-! ### CENSUS_COPY_DONE (R438) -/

section CopyDone

variable {s : State} {j : CopyJob} {n : Nat}

/-- The bytes of a copy that reached the host: sent, carried and charged. -/
def copySent (s : State) (j : CopyJob) (n : Nat) : State := if n = 0 then s else
  porterTile (chargePb (emit s (.write j.dst n (leNum (j.bytes.take n)))) j.part n) (anyPorter s) n

/-- The copy's end. -/
def copyEnded (s : State) (code bytes : Nat) : State :=
  let u := wr (wr (wr s Reg.CEN_COPY_STAT_BUSY 0 0) Reg.CEN_COPY_STAT_CODE 0 code) Reg.CEN_COPY_BYTES 0 bytes
  { u with hst := { u.hst with copy := none } }

theorem rd_copyStat (s : State) (code bytes : Nat) (hcode : code < 16) :
    rd (copyEnded s code bytes) Reg.CEN_COPY_STAT_BUSY 0 = 0 ∧ rd (copyEnded s code bytes) Reg.CEN_COPY_STAT_CODE 0 = code := by
  have hregs (f : Fld) (hf : f.addr 0 ≠ Reg.CEN_COPY_BYTES.addr 0) : rd (copyEnded s code bytes) f 0 =
      rd (wr (wr s Reg.CEN_COPY_STAT_BUSY 0 0) Reg.CEN_COPY_STAT_CODE 0 code) f 0 :=
    (rd_of_regs rfl f 0).trans (rd_wr_ne (wr (wr s Reg.CEN_COPY_STAT_BUSY 0 0) Reg.CEN_COPY_STAT_CODE 0 code) _ _ _ _ bytes hf)
  refine ⟨?_, ?_⟩
  · rw [hregs _ (by decide), rd_wr_bits _ _ _ _ (by decide) (.inl (by decide)), rd_wr_self _ _ _ (by decide)]
    rfl
  · rw [hregs _ (by decide), rd_wr_self _ _ _ (by decide)]
    exact Nat.mod_eq_of_lt hcode

theorem rd_copyEnded (s : State) {code bytes : Nat} (hcode : code < 16) (hbytes : bytes < 2 ^ 32) :
    rd (copyEnded s code bytes) Reg.CEN_COPY_STAT_BUSY 0 = 0 ∧ rd (copyEnded s code bytes) Reg.CEN_COPY_STAT_CODE 0 = code ∧
    rd (copyEnded s code bytes) Reg.CEN_COPY_BYTES 0 = bytes := by
  obtain ⟨hbusy, hshown⟩ := rd_copyStat s code bytes hcode
  have hregs : rd (copyEnded s code bytes) Reg.CEN_COPY_BYTES 0 = bytes % 2 ^ 32 :=
    (rd_of_regs rfl _ 0).trans (rd_wr_self (wr (wr s Reg.CEN_COPY_STAT_BUSY 0 0) Reg.CEN_COPY_STAT_CODE 0 code)
      (f := Reg.CEN_COPY_BYTES) 0 bytes (by decide))
  exact ⟨hbusy, hshown, hregs.trans (Nat.mod_eq_of_lt hbytes)⟩

theorem copySent_out (s : State) (j : CopyJob) (h : n ≠ 0) :
    (copySent s j n).out = s.out ++ [.write j.dst n (leNum (j.bytes.take n))] := by
  rw [copySent, if_neg h]
  rfl

theorem exec_censusCopyDone (hawake : awake s = true) (hjob : s.hst.copy = some j) : exec (.censusCopyDone n) s =
    let m := if j.code = 0 then min n j.bytes.length else 0
    let whole := decide (m = j.bytes.length) && rd s Reg.FUS_LINK_STAT_UP 0 == 1
    let code := if j.code ≠ 0 then j.code else if whole then 0 else 4
    .next (copyEnded (copySent s j m) code (if code = 3 then j.need else m)) := by
  show execCensusCopyDone n s = _
  rw [execCensusCopyDone, live, if_pos hawake, hjob]
  rfl

/-- A copy whose object went whole ends with code 0. -/
theorem exec_censusCopyDone_whole (hawake : awake s = true) (hjob : s.hst.copy = some j) (hcode : j.code = 0)
    (hlink : rd s Reg.FUS_LINK_STAT_UP 0 = 1) :
    exec (.censusCopyDone j.bytes.length) s = .next (copyEnded (copySent s j j.bytes.length) 0 j.bytes.length) := by
  rw [exec_censusCopyDone hawake hjob]
  simp only [hcode, if_true, Nat.min_self, hlink]
  simp

/-- A copy that could not be taken ends with its code, and sends nothing. -/
theorem exec_censusCopyDone_none (hawake : awake s = true) (hjob : s.hst.copy = some j) (hcode : j.code ≠ 0) :
    exec (.censusCopyDone n) s = .next (copyEnded s j.code (if j.code = 3 then j.need else 0)) := by
  rw [exec_censusCopyDone hawake hjob]
  simp only [if_neg hcode, if_pos hcode]
  rfl

end CopyDone

/-! ### The rim firmware (R445) -/

section Rim

variable {s : State}

theorem rimBeat_spec (hawake : awake s = true) (hruns : rimRuns s = true) : Answers .rimBeat s fun t =>
    rd t Reg.RIM_BEAT 0 = (rd s Reg.RIM_BEAT 0 + 1) % 2 ^ 32 ∧ OnlyRegs s t ∧ WordsKept s t [Reg.RIM_BEAT.addr 0] := by
  have hexec : exec .rimBeat s = .next (wr s Reg.RIM_BEAT 0 (rd s Reg.RIM_BEAT 0 + 1)) := by
    show execRimBeat s = _
    rw [execRimBeat, live, if_pos hawake, if_pos hruns]
  exact ⟨_, hexec, rd_wr_self _ _ _ (by decide), (OnlyRegs.refl s).wr _ _ _,
    fun _ ha => rw_wr_ne _ _ _ _ _ (by simpa using ha)⟩

/-- The firmware found stuck, before it interrupts. -/
def rimStopped (s : State) (pc : Nat) : State :=
  bump (wr2 (wr (wr (wr s Reg.RIM_STAT_RUN0 0 0) Reg.RIM_STAT_RUN1 0 0) Reg.RIM_STAT_FAULT 0 1) Reg.RIM_FAULT_PC_LO
    Reg.RIM_FAULT_PC_HI 0 pc) Reg.RIM_RESTARTS 0 1

/-- Writes of the program counter and of the restarts leave RIM_STAT. -/
theorem rd_rimStopped_stat (s : State) (pc : Nat) {f : Fld} (hf : f.addr 0 = Reg.RIM_STAT_RUN0.addr 0) :
    rd (rimStopped s pc) f 0 = rd (wr (wr (wr s Reg.RIM_STAT_RUN0 0 0) Reg.RIM_STAT_RUN1 0 0) Reg.RIM_STAT_FAULT 0 1) f 0 := by
  rw [rimStopped, rd_bump_apart _ _ _ _ _ _ (.inl (by rw [hf]; decide)),
    rd_wr2_ne _ _ _ _ _ _ _ (by rw [hf]; decide) (by rw [hf]; decide)]

theorem rd2_wr2_faultPc (s : State) (pc : Nat) :
    rd2 (wr2 s Reg.RIM_FAULT_PC_LO Reg.RIM_FAULT_PC_HI 0 pc) Reg.RIM_FAULT_PC_LO Reg.RIM_FAULT_PC_HI 0 = pc % 2 ^ 64 := by
  rw [rd2, wr2, rd_wr_ne _ _ _ _ _ _ (by decide), rd_wr_self _ _ _ (by decide), rd_wr_self _ _ _ (by decide)]
  simp only [Reg.RIM_FAULT_PC_LO, Reg.RIM_FAULT_PC_HI]
  omega

theorem rimStopped_spec (s : State) (pc : Nat) : let t := rimStopped s pc
    rimRuns t = false ∧ rd t Reg.RIM_STAT_FAULT 0 = 1 ∧ rd2 t Reg.RIM_FAULT_PC_LO Reg.RIM_FAULT_PC_HI 0 = pc % 2 ^ 64 ∧
    rd t Reg.RIM_RESTARTS 0 = min (rd s Reg.RIM_RESTARTS 0 + 1) (2 ^ 32 - 1) := by
  have hrun : rd (rimStopped s pc) Reg.RIM_STAT_RUN0 0 = 0 := by
    rw [rd_rimStopped_stat s pc rfl, rd_wr_bits _ _ _ _ (by decide) (.inl (by decide)),
      rd_wr_bits _ _ _ _ (by decide) (.inl (by decide))]
    exact rd_wr_self _ _ _ (by decide)
  have hfault : rd (rimStopped s pc) Reg.RIM_STAT_FAULT 0 = 1 := by
    rw [rd_rimStopped_stat s pc (f := Reg.RIM_STAT_FAULT) rfl]
    exact rd_wr_self _ _ _ (by decide)
  refine ⟨?_, hfault, ?_, ?_⟩
  · rw [rimRuns, hrun]
    rfl
  · rw [rimStopped, rd2, rd_bump_apart _ _ _ _ _ _ (.inl (by decide)), rd_bump_apart _ _ _ _ _ _ (.inl (by decide))]
    exact rd2_wr2_faultPc _ pc
  · rw [rimStopped, rd_bump_same _ _ _ _ (fits_of_le (by decide)), rd_wr2_ne _ _ _ _ _ _ _ (by decide) (by decide),
      rd_wr_ne _ _ _ _ _ _ (by decide), rd_wr_ne _ _ _ _ _ _ (by decide), rd_wr_ne _ _ _ _ _ _ (by decide)]
    rfl

/-- The rim processors' registers take no part in their interrupt. -/
theorem rd_rim_raised (s : State) {f : Fld} (hlow : 0xE100 ≤ f.addr 0) (hhigh : f.addr 0 < 0xF000) :
    rd (raiseInt s 0x0E 0) f 0 = rd s f 0 :=
  rd_raiseInt (noIntWord_of_block (by decide) (by omega) (.inl hhigh)) s

theorem rimWatchdog_spec (hawake : awake s = true) (hruns : rimRuns s = true) (pc : Nat) : Answers (.rimWatchdog pc) s fun t =>
    rimRuns t = false ∧ rd t Reg.RIM_STAT_FAULT 0 = 1 ∧ rd2 t Reg.RIM_FAULT_PC_LO Reg.RIM_FAULT_PC_HI 0 = pc % 2 ^ 64 ∧
    rd t Reg.RIM_RESTARTS 0 = min (rd s Reg.RIM_RESTARTS 0 + 1) (2 ^ 32 - 1) := by
  have hexec : exec (.rimWatchdog pc) s = .next (raiseInt (rimStopped s pc) 0x0E 0) := by
    show execRimWatchdog pc s = _
    rw [execRimWatchdog, live, if_pos hawake, hruns]
    rfl
  obtain ⟨hstopped, hfault, hpc, hcount⟩ := rimStopped_spec s pc
  refine ⟨_, hexec, ?_, ?_, ?_, ?_⟩
  · rw [rimRuns, rd_rim_raised _ (by decide) (by decide), rd_rim_raised _ (by decide) (by decide)]
    exact hstopped
  · rw [rd_rim_raised _ (by decide) (by decide), hfault]
  · rw [rd2, rd_rim_raised _ (by decide) (by decide), rd_rim_raised _ (by decide) (by decide)]
    exact hpc
  · rw [rd_rim_raised _ (by decide) (by decide), hcount]

/-- Taking a message leaves every register but MB_CTRL. -/
theorem rimRuns_takeMail (s : State) : rimRuns (takeMail s) = rimRuns s := by
  unfold takeMail
  split
  · exact rimRuns_go _ 0
  · rfl

theorem rimRestart_spec (hawake : awake s = true) (hstopped : rimRuns s = false) (hcount : rd s Reg.RIM_RESTARTS 0 ≠ 0) :
    Answers .rimRestartComplete s fun t => rimRuns t = true ∧
      t = takeMail (wr (wr s Reg.RIM_STAT_RUN0 0 1) Reg.RIM_STAT_RUN1 0 1) := by
  have hwaits : ¬(rd s Reg.RIM_STAT_FAULT 0 = 0 ∧ rd s Reg.RIM_RESTARTS 0 = 0 ∨ rimRuns s = true) := by
    rw [hstopped]
    simp [hcount]
  have hexec : exec .rimRestartComplete s = .next (takeMail (wr (wr s Reg.RIM_STAT_RUN0 0 1) Reg.RIM_STAT_RUN1 0 1)) := by
    show execRimRestartComplete s = _
    rw [execRimRestartComplete, live, if_pos hawake, if_neg hwaits]
  refine ⟨_, hexec, ?_, rfl⟩
  rw [rimRuns_takeMail, rimRuns, rd_wr_bits _ _ _ _ (by decide) (.inl (by decide)), rd_wr_self _ _ _ (by decide),
    rd_wr_self _ _ _ (by decide)]
  rfl

end Rim

/-- Settles O60: a copy takes its object or its code at once and shows it at its end; the firmware beats, stops, restarts. -/
theorem censusAndRim : Obligations.CensusAndRim := by
  unfold Obligations.CensusAndRim
  refine ⟨fun s h => ⟨exec_copyGo h, copyGo_begins h, copyGo_busy h⟩, fun s n j hawake hjob => ⟨fun hcode hn hsmall hlink => ?_,
    fun hcode hsmall => ?_⟩, fun s hawake => ⟨rimBeat_spec hawake, fun pc hruns => rimWatchdog_spec hawake hruns pc,
    rimRestart_spec hawake⟩⟩
  · subst hn
    obtain ⟨hbusy, hshown, hbytes⟩ := rd_copyEnded (copySent s j j.bytes.length) (code := 0) (by decide) hsmall
    refine ⟨_, exec_censusCopyDone_whole hawake hjob hcode hlink, hbusy, hshown, hbytes, rfl, fun hn => ?_⟩
    exact (copySent_out s j hn).trans (by rw [List.take_length])
  · obtain ⟨hbusy, hshown⟩ := rd_copyStat s j.code (if j.code = 3 then j.need else 0) hsmall
    exact ⟨_, exec_censusCopyDone_none hawake hjob hcode, hbusy, hshown, rfl, rfl⟩

end Sys2Proof.Machine
